-- ==== Sys2Proof/Word.lean ====
section
/-! DEFINITION. The bit-vector types of the NL-4816 and their plainest arithmetic.
Registers, handles and addresses under computation are bit vectors (00 R3: little-endian, bit 0 least
significant). -/

namespace Sys2Proof

/-- One byte of a memory, a FIFO or a record. -/
abbrev Byte := BitVec 8

/-- A 16-bit value: an epoch, a semaphore, a source number, an event code. -/
abbrev Half := BitVec 16

/-- A register word of BAR0. -/
abbrev Word := BitVec 32

/-- A 64-bit register pair, a device address, a time stamp. -/
abbrev Word64 := BitVec 64

/-- One 64-byte descriptor, its byte `i` at bits `[8i+7:8i]` (00 R3). -/
abbrev DescBits := BitVec 512

end Sys2Proof
end

