-- ==== Sys2Proof/Machine/Tbl.lean ====
section
/-! DEFINITION. Finite tables keyed by a number: the plain-data carrier of every per-page, per-context,
per-core and per-stream piece of hidden state, and of the register bank. An unlisted key reads as the
default that its reader names. -/

namespace Sys2Proof.Machine

/-- A table from numbers to values; the first entry of a key counts. -/
abbrev Tbl (α : Type) := List (Nat × α)

/-- The value under key `k`, or `d` when the table lists none. -/
def Tbl.look {α : Type} (t : Tbl α) (d : α) (k : Nat) : α :=
  match t with
  | [] => d
  | (j, v) :: r => if j = k then v else Tbl.look r d k

/-- The value under key `k`, if the table lists one. -/
def Tbl.look? {α : Type} (t : Tbl α) (k : Nat) : Option α :=
  match t with
  | [] => none
  | (j, v) :: r => if j = k then some v else Tbl.look? r k

/-- The table with `v` under key `k`, in place of the key's first entry or after the last one. -/
def Tbl.put {α : Type} (t : Tbl α) (k : Nat) (v : α) : Tbl α :=
  match t with
  | [] => [(k, v)]
  | (j, w) :: r => if j = k then (k, v) :: r else (j, w) :: Tbl.put r k v

/-- The table without the entries of key `k`. -/
def Tbl.del {α : Type} (t : Tbl α) (k : Nat) : Tbl α :=
  t.filter fun e => e.1 != k

/-- The keys the table lists. -/
def Tbl.keys {α : Type} (t : Tbl α) : List Nat := t.map Prod.fst

/-- The lowest number below `n` that `used` does not hold: the lowest free index of a unit. One of the first
`used.length + 1` numbers is free. -/
def lowestFree (n : Nat) (used : List Nat) : Option Nat :=
  (List.range (min n (used.length + 1))).find? fun i => !used.contains i

/-- `base, base+1, …, base+n-1`. -/
def upFrom (base n : Nat) : List Nat := (List.range n).map (base + ·)

end Sys2Proof.Machine
end

