-- ==== Sys2Proof/Machine/Fp.lean ====
section
/-! DEFINITION. Floating point and the output conversions of chapter 06: exact values, one rounding, the
formats of R192, the conversions of R210 to R217 and the counter generator of R218. -/

namespace Sys2Proof.Machine

/-! ### Exact values -/

/-- A decoded floating-point value: NaN, an infinity with its sign, or ± m × 2^e (06 R192 to R194). -/
inductive Fx where
  | nan
  | inf (neg : Bool)
  | fin (neg : Bool) (m : Nat) (e : Int)
  deriving DecidableEq, Repr

/-- Parameters of a format (06 R192, R212). -/
structure Fmt where
  ebits : Nat
  mbits : Nat
  bias : Int
  maxE : Nat
  maxM : Nat
  /-- An all-ones exponent field is an infinity or a NaN. -/
  special : Bool
  nan : Nat
  deriving DecidableEq, Repr

def fmtF32 : Fmt := ⟨8, 23, 127, 254, 0x7FFFFF, true, 0x7FC00000⟩
def fmtBf16 : Fmt := ⟨8, 7, 127, 254, 0x7F, true, 0x7FC0⟩
def fmtF16 : Fmt := ⟨5, 10, 15, 30, 0x3FF, true, 0x7E00⟩
def fmtE4M3 : Fmt := ⟨4, 3, 7, 15, 6, false, 0x7F⟩
def fmtE5M2 : Fmt := ⟨5, 2, 15, 30, 3, true, 0x7E⟩
def fmtE3M2 : Fmt := ⟨3, 2, 3, 7, 3, false, 0⟩
def fmtE2M3 : Fmt := ⟨2, 3, 1, 3, 7, false, 0⟩
def fmtE2M1 : Fmt := ⟨2, 1, 1, 3, 1, false, 0⟩
/-- FP64, for the 64-bit intermediate values that later chapters name. -/
def fmtF64 : Fmt := ⟨11, 52, 1023, 2046, 2 ^ 52 - 1, true, 0x7FF8000000000000⟩

/-- Bits of a format. -/
def Fmt.width (f : Fmt) : Nat := 1 + f.ebits + f.mbits

/-- The value of `b` in format `f` (06 R192 to R194). -/
def Fmt.decode (f : Fmt) (b : Nat) : Fx :=
  let neg := b / 2 ^ (f.ebits + f.mbits) % 2 == 1
  let ef := b / 2 ^ f.mbits % 2 ^ f.ebits
  let mf := b % 2 ^ f.mbits
  if f.special ∧ ef = 2 ^ f.ebits - 1 then (if mf = 0 then .inf neg else .nan)
  else if f.ebits = 4 ∧ ef = 15 ∧ mf = 7 then .nan
  else if ef = 0 then .fin neg mf (1 - f.bias - f.mbits)
  else .fin neg (2 ^ f.mbits + mf) ((ef : Int) - f.bias - f.mbits)

/-- Rounding directions; matrix-engine paths use `rne` alone. -/
inductive Rm where
  | rne | rtz | rdn | rup | rmm
  deriving DecidableEq, Repr

/-- Round up the kept part, whose discarded part is `rem / den` of a unit. -/
def roundUp (rm : Rm) (neg : Bool) (kept rem den : Nat) : Bool :=
  match rm with
  | .rne => decide (den < 2 * rem) || (decide (2 * rem = den) && kept % 2 == 1)
  | .rtz => false
  | .rdn => neg && decide (0 < rem)
  | .rup => !neg && decide (0 < rem)
  | .rmm => decide (den ≤ 2 * rem)

/-- ⌊log2 (n / d)⌋ of a positive quotient. -/
def ratLog2 (n d : Nat) : Int :=
  let l : Int := (n.log2 : Int) - (d.log2 : Int)
  if 0 ≤ l then (if n < d * 2 ^ l.toNat then l - 1 else l)
  else (if n * 2 ^ (-l).toNat < d then l - 1 else l)

/-- The value lies below the least normal number once rounded with an unbounded exponent (07 R243: tininess after
rounding). -/
def Fmt.tiny (f : Fmt) (rm : Rm) (neg : Bool) (n d : Nat) (lead e : Int) : Bool :=
  let k := e - (lead - f.mbits)
  let num := if 0 ≤ k then n * 2 ^ k.toNat else n
  let den := if 0 ≤ k then d else d * 2 ^ (-k).toNat
  let kept := num / den
  let carry := roundUp rm neg kept (num % den) den && kept + 1 == 2 ^ (f.mbits + 1)
  decide (lead + (if carry then 1 else 0) < 1 - f.bias)

/-- The bits of ± n/d × 2^e rounded once to a format with infinities, and whether the rounding was inexact,
overflowed or underflowed (IEEE 754, tininess after rounding). -/
structure Rounded where
  bits : Nat
  inexact : Bool
  isOver : Bool
  under : Bool
  deriving DecidableEq, Repr

def Fmt.round (f : Fmt) (rm : Rm) (neg : Bool) (n d : Nat) (e : Int) : Rounded :=
  let sb := if neg then 2 ^ (f.ebits + f.mbits) else 0
  if n = 0 then ⟨sb, false, false, false⟩
  else
    let lead := ratLog2 n d + e
    let qe := max lead (1 - f.bias) - f.mbits
    let k := e - qe
    let num := if 0 ≤ k then n * 2 ^ k.toNat else n
    let den := if 0 ≤ k then d else d * 2 ^ (-k).toNat
    let kept := num / den
    let rem := num % den
    let kept1 := if roundUp rm neg kept rem den then kept + 1 else kept
    let carry := kept1 = 2 ^ (f.mbits + 1)
    let kept2 := if carry then 2 ^ f.mbits else kept1
    let qe2 := if carry then qe + 1 else qe
    let ef : Int := if kept2 < 2 ^ f.mbits then 0 else qe2 + f.mbits + f.bias
    let ovf := (f.maxE : Int) < ef
    let inexact := decide (0 < rem) || decide ovf
    let under := f.tiny rm neg n d lead e && decide (0 < rem)
    if ovf then
      let toInf := match rm with
        | .rne | .rmm => true
        | .rtz => false
        | .rdn => neg
        | .rup => !neg
      ⟨sb + (if toInf then (2 ^ f.ebits - 1) * 2 ^ f.mbits else f.maxE * 2 ^ f.mbits + f.maxM), true, true,
        false⟩
    else ⟨sb + ef.toNat * 2 ^ f.mbits + kept2 % 2 ^ f.mbits, inexact, false, under⟩

/-- An infinity of a format. -/
def Fmt.infBits (f : Fmt) (neg : Bool) : Nat :=
  (if neg then 2 ^ (f.ebits + f.mbits) else 0) + (2 ^ f.ebits - 1) * 2 ^ f.mbits

/-- Round a value to nearest even into a format with infinities. -/
def Fmt.ofFx (f : Fmt) (rm : Rm) (v : Fx) : Nat :=
  match v with
  | .nan => f.nan
  | .inf n => f.infBits n
  | .fin n m e => (f.round rm n m 1 e).bits

/-! ### Exact arithmetic on values -/

def Fx.isNan : Fx → Bool
  | .nan => true
  | _ => false
def Fx.isInf : Fx → Bool
  | .inf _ => true
  | _ => false
def Fx.isFin : Fx → Bool
  | .fin _ _ _ => true
  | _ => false
def Fx.isZero : Fx → Bool
  | .fin _ 0 _ => true
  | _ => false
def Fx.neg? : Fx → Bool
  | .nan => false
  | .inf n => n
  | .fin n _ _ => n

def Fx.negate : Fx → Fx
  | .nan => .nan
  | .inf n => .inf !n
  | .fin n m e => .fin (!n) m e

/-- The signed significand and exponent of a finite value. -/
def Fx.dy : Fx → Int × Int
  | .fin n m e => (if n then -(m : Int) else m, e)
  | _ => (0, 0)

/-- An exact product; infinity times zero is NaN (06 R194, R211). -/
def Fx.mul (a b : Fx) : Fx :=
  match a, b with
  | .nan, _ => .nan
  | _, .nan => .nan
  | .fin s m e, .fin t n f => .fin (s != t) (m * n) (e + f)
  | .inf s, .inf t => .inf (s != t)
  | .inf s, .fin t n _ => if n = 0 then .nan else .inf (s != t)
  | .fin s m _, .inf t => if m = 0 then .nan else .inf (s != t)

/-- The exact sum of dyadic numbers as one significand and exponent. -/
def dySum (l : List (Int × Int)) : Int × Int :=
  let e0 := l.foldl (fun e p => min e p.2) ((l.head?.map Prod.snd).getD 0)
  (l.foldl (fun a p => a + p.1 * 2 ^ (p.2 - e0).toNat) 0, e0)

/-- An exact sum of finite values; the sign of an exact zero follows 06 R194, or is negative when rounding
down and the terms differ. -/
def finSum (down : Bool) (l : List Fx) : Fx :=
  let s := dySum (l.map Fx.dy)
  if s.1 = 0 then
    if l.all Fx.neg? then .fin true 0 0
    else if l.all fun x => !x.neg? then .fin false 0 0
    else .fin down 0 0
  else .fin (decide (s.1 < 0)) s.1.natAbs s.2

/-- An exact sum with IEEE 754's rules for NaN and infinities. -/
def Fx.sum (down : Bool) (l : List Fx) : Fx :=
  if l.any Fx.isNan then .nan
  else
    let p := l.any fun x => x == .inf false
    let n := l.any fun x => x == .inf true
    if p && n then .nan else if p then .inf false else if n then .inf true else finSum down l

/-! ### FP32 operations, rounded to nearest even -/

abbrev F32 := BitVec 32

def f32 (v : F32) : Fx := fmtF32.decode v.toNat
def toF32 (v : Fx) : F32 := BitVec.ofNat 32 (fmtF32.ofFx .rne v)

def f32Nan : F32 := 0x7FC00000#32
def f32Zero : F32 := 0#32
def f32One : F32 := 0x3F800000#32
def f32Half : F32 := 0x3F000000#32
def f32MinusInf : F32 := 0xFF800000#32

def f32Add (a b : F32) : F32 := toF32 (Fx.sum false [f32 a, f32 b])
def f32Sub (a b : F32) : F32 := toF32 (Fx.sum false [f32 a, (f32 b).negate])
def f32Mul (a b : F32) : F32 := toF32 ((f32 a).mul (f32 b))
/-- a × b + c with one rounding. -/
def f32Fma (a b c : F32) : F32 := toF32 (Fx.sum false [(f32 a).mul (f32 b), f32 c])
def f32Neg (a : F32) : F32 := a ^^^ 0x80000000#32
def f32Abs (a : F32) : F32 := a &&& 0x7FFFFFFF#32

/-- A quotient of values rounded once. -/
def fxDiv (f : Fmt) (rm : Rm) (a b : Fx) : Nat :=
  match a, b with
  | .nan, _ => f.nan
  | _, .nan => f.nan
  | .inf _, .inf _ => f.nan
  | .inf s, .fin t _ _ => f.infBits (s != t)
  | .fin s _ _, .inf t => (f.round rm (s != t) 0 1 0).bits
  | .fin s m e, .fin t n g =>
    if n = 0 then (if m = 0 then f.nan else f.infBits (s != t))
    else (f.round rm (s != t) m n (e - g)).bits

def f32Div (a b : F32) : F32 := BitVec.ofNat 32 (fxDiv fmtF32 .rne (f32 a) (f32 b))

/-- ⌊√n⌋, one result bit at a time. -/
def isqrtStep (n : Nat) (fuel r : Nat) : Nat :=
  match fuel with
  | 0 => r
  | k + 1 => let t := r + 2 ^ k; isqrtStep n k (if t * t ≤ n then t else r)

def isqrt (n : Nat) : Nat := isqrtStep n (n.log2 / 2 + 1) 0

/-- A square root rounded once. The significand is widened so that the floor of its root, with a sticky bit
below it, rounds as the exact root does. -/
def fxSqrt (f : Fmt) (rm : Rm) (a : Fx) : Nat :=
  match a with
  | .nan => f.nan
  | .inf s => if s then f.nan else f.infBits false
  | .fin s m e =>
    if m = 0 then (f.round rm s 0 1 0).bits
    else if s then f.nan
    else
      let m1 := if e % 2 = 0 then m else 2 * m
      let e1 := if e % 2 = 0 then e else e - 1
      let w := 2 * f.mbits + 8
      let n := m1 * 2 ^ (2 * w)
      let r := isqrt n
      let m2 := 2 * r + (if r * r = n then 0 else 1)
      (f.round rm false m2 1 (e1 / 2 - w - 1)).bits

/-- Comparison of values; NaN is unordered. -/
def Fx.lt (a b : Fx) : Bool :=
  match a, b with
  | .nan, _ => false
  | _, .nan => false
  | .inf s, .inf t => s && !t
  | .inf s, .fin _ _ _ => s
  | .fin _ _ _, .inf t => !t
  | a, b => decide ((dySum [a.dy, b.negate.dy]).1 < 0)

def Fx.eq (a b : Fx) : Bool :=
  !a.isNan && !b.isNan && !a.lt b && !b.lt a

def f32Lt (a b : F32) : Bool := (f32 a).lt (f32 b)
def f32Le (a b : F32) : Bool := (f32 a).lt (f32 b) || (f32 a).eq (f32 b)
def f32Eq (a b : F32) : Bool := (f32 a).eq (f32 b)
def f32IsNan (a : F32) : Bool := (f32 a).isNan
def f32Finite (a : F32) : Bool := (f32 a).isFin
/-- max and min of the manual's pseudocode on numbers that are not NaN. -/
def f32Max (a b : F32) : F32 := if f32Lt a b then b else a
def f32Min (a b : F32) : F32 := if f32Lt b a then b else a

def f32OfInt (i : Int) : F32 := toF32 (.fin (decide (i < 0)) i.natAbs 0)
def f32OfNat (n : Nat) : F32 := f32OfInt n

/-- A value rounded to an integer; `none` for NaN and infinities. -/
def Fx.toInt (rm : Rm) (v : Fx) : Option Int :=
  match v with
  | .fin s m e =>
    if 0 ≤ e then some (if s then -((m * 2 ^ e.toNat : Nat) : Int) else ((m * 2 ^ e.toNat : Nat) : Int))
    else
      let d := 2 ^ (-e).toNat
      let k := m / d
      let k1 := if roundUp rm s k (m % d) d then k + 1 else k
      some (if s then -(k1 : Int) else k1)
  | _ => none

def clampInt (lo hi v : Int) : Int := max lo (min hi v)

/-- sat8(round_half_even(v)); NaN, which no path of the manual gives a value, reads as 0 here. -/
def sat8 (v : F32) : Option Int :=
  match f32 v with
  | .nan => none
  | .inf s => some (if s then -128 else 127)
  | x => (x.toInt .rne).map (clampInt (-128) 127)

/-! ### Formats and elements (06 R192, R195 to R199) -/

/-- The floating-point format of a code, for plain and MX element types. -/
def fmtOf : Nat → Option Fmt
  | 0x00 => some fmtF32 | 0x01 => some fmtBf16 | 0x02 => some fmtF16 | 0x03 => some fmtE4M3
  | 0x04 => some fmtE5M2 | 0x10 => some fmtE4M3 | 0x11 => some fmtE5M2 | 0x12 => some fmtE3M2
  | 0x13 => some fmtE2M3 | 0x14 => some fmtE2M1 | _ => none

/-- Bits of one element of a format code. -/
def elemBits : Nat → Nat
  | 0x00 => 32 | 0x07 => 32 | 0x01 => 16 | 0x02 => 16 | 0x06 => 4 | 0x14 => 4 | 0x12 => 6 | 0x13 => 6
  | 0x24 => 4 | 0x25 => 4 | 0x26 => 4 | _ => 8

def isMx (c : Nat) : Bool := decide (0x10 ≤ c) && decide (c ≤ 0x15)
def isNgi (c : Nat) : Bool := [0x20, 0x21, 0x22, 0x24, 0x25, 0x26].contains c
def isInt (c : Nat) : Bool := [0x05, 0x06, 0x07].contains c
def isFloat (c : Nat) : Bool := decide (c ≤ 4)
def fmtDefined (c : Nat) : Bool := decide (c ≤ 7) || isMx c || isNgi c

/-- Group size of an NGI code. -/
def ngiGroup (c : Nat) : Nat := 32 * 2 ^ (c % 4)

/-- Two's complement of `w` bits. -/
def sInt (w n : Nat) : Int := if n % 2 ^ w < 2 ^ (w - 1) then ((n % 2 ^ w : Nat) : Int)
  else ((n % 2 ^ w : Nat) : Int) - 2 ^ w

/-- A value times 2^k. -/
def Fx.scale (k : Int) : Fx → Fx
  | .fin n m e => .fin n m (e + k)
  | v => v

/-- The value of an element: floating formats by their fields, integers exactly, MX elements with their
scale byte (06 R196, R197). -/
def elemValue (c scale bits : Nat) : Fx :=
  if c = 0x15 then
    if scale = 0xFF then .nan
    else let i := sInt 8 bits; .fin (decide (i < 0)) i.natAbs ((scale : Int) - 127 - 6)
  else if isMx c then
    if scale = 0xFF then .nan
    else ((fmtOf c).map fun f => (f.decode bits).scale ((scale : Int) - 127)).getD .nan
  else match fmtOf c with
    | some f => f.decode bits
    | none => let i := sInt (elemBits c) bits; .fin (decide (i < 0)) i.natAbs 0

/-- The element's integer, for integer and NGI formats. -/
def elemInt (c bits : Nat) : Int := sInt (elemBits c) bits

/-! ### Accumulators (06 R203 to R205) -/

/-- One chunk into an FP32 accumulator (06 R203). -/
def accF32 (acc : F32) (ab : List (Fx × Fx)) : F32 :=
  let v := f32 acc
  if v.isNan || ab.any fun p => p.1.isNan || p.2.isNan || (p.1.isInf && p.2.isZero) || (p.1.isZero && p.2.isInf)
  then f32Nan
  else toF32 (Fx.sum false (v :: ab.map fun p => p.1.mul p.2))

/-- One chunk into an INT32 accumulator, and whether it saturated (06 R204). -/
def accI32 (acc : Int) (ab : List (Int × Int)) : Int × Bool :=
  let t := ab.foldl (fun t p => t + p.1 * p.2) acc
  (clampInt (-2147483648) 2147483647 t, decide (t < -2147483648) || decide (2147483647 < t))

/-- One NGI group into an S48 accumulator (06 R205). -/
def accNgi (acc : Int) (p m : Int) : Int × Bool :=
  let t := acc + p * m
  (clampInt (-140737488355328) 140737488355327 t,
   decide (t < -140737488355328) || decide (140737488355327 < t))

/-! ### The output conversion record (06 R208 to R217) -/

/-- A QREC (06 R208). -/
structure Qrec where
  outFmt : Nat
  path : Nat
  rhe : Bool
  fpRnd : Bool
  infPol : Bool
  zp : Int
  m : Int
  s : Nat
  lo : Int
  hi : Int
  scale : F32
  tensorId : Nat
  srSeed : Nat
  /-- Every reserved byte and bit is zero. -/
  clean : Bool
  deriving DecidableEq, Repr

def leNum (bs : List Byte) : Nat := bs.foldr (fun b a => b.toNat + 256 * a) 0

/-- Bytes `[o, o+n)` of a record as a number. -/
def fieldOf (bs : List Byte) (o n : Nat) : Nat := leNum ((bs.drop o).take n)

/-- Bytes `[lo, hi)` are zero. -/
def zeroBytes (bs : List Byte) (lo hi : Nat) : Bool := fieldOf bs lo (hi - lo) == 0

def qrecOf (bs : List Byte) : Qrec :=
  let mode := fieldOf bs 1 1
  { outFmt := fieldOf bs 0 1, path := mode % 4, rhe := mode / 4 % 2 == 1, fpRnd := mode / 8 % 2 == 1,
    infPol := mode / 16 % 2 == 1, zp := sInt 16 (fieldOf bs 2 2), m := sInt 32 (fieldOf bs 4 4),
    s := fieldOf bs 8 1, lo := sInt 32 (fieldOf bs 12 4), hi := sInt 32 (fieldOf bs 16 4),
    scale := BitVec.ofNat 32 (fieldOf bs 20 4), tensorId := fieldOf bs 24 4, srSeed := fieldOf bs 32 8,
    clean := mode / 32 == 0 && zeroBytes bs 9 12 && zeroBytes bs 28 32 && zeroBytes bs 40 48 }

/-- Formats that a path writes (06 R208). -/
def pathAllows (path out : Nat) : Bool :=
  if path = 0 then isInt out else fmtDefined out

/-- The first check of 06 R209. -/
def Qrec.malformed (q : Qrec) : Bool :=
  !fmtDefined q.outFmt || q.path == 3 || !pathAllows q.path q.outFmt || !q.clean

/-- The second check of 06 R209, for a RUN with ARG_LEN `argLen`. -/
def Qrec.beyond (q : Qrec) (argLen : Nat) : Bool :=
  decide (63 < q.s) || decide (q.hi < q.lo) ||
  (q.fpRnd && !([0x01, 0x03, 0x04, 0x10, 0x11].contains q.outFmt)) || (q.fpRnd && decide (argLen < 8))

/-- Range of an integer output type. -/
def intRange : Nat → Int × Int
  | 0x05 => (-128, 127)
  | 0x06 => (-8, 7)
  | _ => (-2147483648, 2147483647)

/-- p / 2^s rounded half up or half to even. -/
def shiftRound (rhe : Bool) (p : Int) (s : Nat) : Int :=
  if s = 0 then p
  else if !rhe then (p + 2 ^ (s - 1)) / 2 ^ s
  else
    let f := p / 2 ^ s
    let r := p - f * 2 ^ s
    let h : Int := 2 ^ (s - 1)
    if h < r ∨ (r = h ∧ f % 2 = 1) then f + 1 else f

/-- The clamp, the zero point and the final saturation of 06 R210. -/
def qFinish (q : Qrec) (v : Int) : Int :=
  let o := max q.lo (min q.hi v) + q.zp
  max (intRange q.outFmt).1 (min (intRange q.outFmt).2 o)

/-- 06 R210. -/
def requant (q : Qrec) (acc : Int) : Int := qFinish q (shiftRound q.rhe (acc * q.m) q.s)

/-- An infinity in a narrow format (06 R213). -/
def infIn (f : Fmt) (sbit : Nat) (pol : Bool) : Nat :=
  if f = fmtE4M3 then (if pol then f.nan else sbit + 0x7E)
  else if f = fmtE5M2 ∧ ¬ pol then sbit + 0x7B
  else if f.special then sbit + (2 ^ f.ebits - 1) * 2 ^ f.mbits
  else sbit + f.maxE * 2 ^ f.mbits + f.maxM

/-- A finite value beyond the largest of a narrow format (06 R213). -/
def ovfIn (f : Fmt) (sbit : Nat) (pol : Bool) : Nat :=
  if f = fmtE5M2 ∧ ¬ pol then sbit + 0x7B
  else if f.special then sbit + (2 ^ f.ebits - 1) * 2 ^ f.mbits
  else sbit + f.maxE * 2 ^ f.mbits + f.maxM

/-- The value of FP32 bits `x` times 2^-adj in format `f` (06 R212). -/
def toNarrow (x : F32) (adj : Int) (f : Fmt) (rnd pol : Bool) (r : Nat) : Nat :=
  let sbit := if x.toNat / 2 ^ 31 = 1 then 2 ^ (f.ebits + f.mbits) else 0
  match f32 x with
  | .nan => f.nan
  | .inf _ => infIn f sbit pol
  | .fin _ 0 _ => sbit
  | .fin _ sig xe0 =>
    let xe := xe0 - adj
    let lead : Int := (sig.log2 : Int) + xe
    let qe := max lead (1 - f.bias) - f.mbits
    let sh := qe - xe
    let kept := if sh ≤ 0 then sig * 2 ^ (-sh).toNat else if sh < 56 then sig / 2 ^ sh.toNat else 0
    let rem := if 0 < sh ∧ sh < 56 then sig % 2 ^ sh.toNat else 0
    let up :=
      if 0 < sh ∧ sh < 56 then
        if rnd then
          let frac := if sh ≤ 32 then rem * 2 ^ (32 - sh).toNat else rem / 2 ^ (sh - 32).toNat
          decide (2 ^ 32 ≤ frac + r)
        else roundUp .rne false kept rem (2 ^ sh.toNat)
      else false
    let kept := if up then kept + 1 else kept
    let carry := kept = 2 ^ (f.mbits + 1)
    let kept := if carry then kept / 2 else kept
    let qe := if carry then qe + 1 else qe
    if kept = 0 then sbit
    else
      let ef : Int := if 2 ^ f.mbits ≤ kept then qe + f.mbits + f.bias else 0
      let mf := if 2 ^ f.mbits ≤ kept then kept - 2 ^ f.mbits else kept
      if (f.maxE : Int) < ef ∨ (ef = f.maxE ∧ f.maxM < mf) then ovfIn f sbit pol
      else sbit + ef.toNat * 2 ^ f.mbits + mf

/-- ⌊log2 |w|⌋ of a finite non-zero FP32 value. -/
def f32Log2 (w : F32) : Option Int :=
  match f32 w with
  | .fin _ m e => if m = 0 then none else some ((m.log2 : Int) + e)
  | _ => none

/-- Largest element exponent of an MX format (06 R215). -/
def mxEmax : Nat → Int
  | 0x10 => 8 | 0x11 => 15 | 0x12 => 4 | 0x13 => 2 | 0x14 => 2 | _ => 0

/-- The scale byte and the 32 elements of an MX block (06 R215). `r` gives the random words. -/
def mxBlock (w : List F32) (c : Nat) (rnd pol : Bool) (r : List Nat) : Nat × List Nat :=
  if w.any f32IsNan ∨ (pol ∧ w.any fun x => (f32 x).isInf) then (0xFF, w.map fun _ => 0)
  else
    let tops := w.filterMap f32Log2
    let x : Int := match tops with
      | [] => -127
      | t :: ts => max (-127) (min 127 (ts.foldl max t - mxEmax c))
    let elem := fun (p : F32 × Nat) =>
      match f32 p.1 with
      | .inf s =>
        if c = 0x15 then (if s then 0x81 else 0x7F)
        else match fmtOf c with
          | some f => (if s then 2 ^ (f.ebits + f.mbits) else 0) + f.maxE * 2 ^ f.mbits + f.maxM
          | none => 0
      | v =>
        if c = 0x15 then
          (clampInt (-127) 127 (((v.scale (6 - x)).toInt .rne).getD 0) % 256).toNat
        else match fmtOf c with
          | some f => toNarrow p.1 x f rnd false p.2
          | none => 0
    ((x + 127).toNat, (w.zip r).map elem)

/-- |w| as numerator and exponent, an infinity as the largest finite FP32 value (06 R216). -/
def absOf (w : F32) : Nat × Int :=
  match f32 w with
  | .nan => (0, 0)
  | .inf _ => (2 ^ 24 - 1, 104)
  | .fin _ m e => (m, e)

def dyLt (a b : Nat × Int) : Bool :=
  let e := min a.2 b.2
  decide (a.1 * 2 ^ (a.2 - e).toNat < b.1 * 2 ^ (b.2 - e).toNat)

/-- Multiplier and elements of an NGI group, and whether a NaN was met (06 R216, R217). -/
def ngiGroupOut (w : List F32) (qmax : Nat) : Int × List Int × Bool :=
  if w.any f32IsNan then (0, w.map fun _ => 0, true)
  else
    let amax := w.foldl (fun a x => if dyLt a (absOf x) then absOf x else a) (0, 0)
    if amax.1 = 0 then (1, w.map fun _ => 0, false)
    else
      let num := amax.1 * 2 ^ (max amax.2 0).toNat
      let den := qmax * 2 ^ (max (-amax.2) 0).toNat
      let m := min 32767 (max 1 ((num + den - 1) / den))
      let elem := fun (x : F32) =>
        let a := absOf x
        let n := a.1 * 2 ^ (max a.2 0).toNat
        let d := m * 2 ^ (max (-a.2) 0).toNat
        let k := if roundUp .rne false (n / d) (n % d) d then n / d + 1 else n / d
        let v := min k qmax
        if (f32 x).neg? then -(v : Int) else (v : Int)
      ((m : Int), w.map elem, false)

/-- w of 06 R211 from an accumulator value. -/
def scaled (acc : Fx) (scale : F32) : F32 := toF32 (acc.mul (f32 scale))

/-- An integer output of the DEQUANT and CONVERT paths, and whether it was a NaN (06 R214). -/
def intOut (q : Qrec) (w : F32) : Int × Bool :=
  match f32 w with
  | .nan => (max (intRange q.outFmt).1 (min (intRange q.outFmt).2 q.zp), true)
  | .inf s => (qFinish q (if s then q.lo else q.hi), false)
  | .fin s m e =>
    let p : Int := if s then -(m : Int) else m
    let v := if 0 ≤ e then p * 2 ^ e.toNat else shiftRound q.rhe p (-e).toNat
    (qFinish q v, false)

/-! ### Stochastic rounding (06 R218, R219) -/

def mix64 (x : Word64) : Word64 :=
  let x := x ^^^ (x >>> 31)
  let x := x * 0x8F3A2D5C71E4B6A3#64
  let x := x ^^^ (x >>> 29)
  let x := x * 0xC2B59E174D83F0E5#64
  x ^^^ (x >>> 32)

def cgen (key w1 w2 : Nat) : Nat :=
  let h := mix64 (BitVec.ofNat 64 key ^^^ 0xC2B59E174D83F0E5#64)
  let h := mix64 (h ^^^ BitVec.ofNat 64 w1)
  let h := mix64 (h ^^^ BitVec.ofNat 64 w2)
  (h >>> 32).toNat

/-- The random word of output element `index` (06 R219). -/
def Qrec.random (q : Qrec) (runSeed index : Nat) : Nat :=
  cgen ((BitVec.ofNat 64 q.srSeed ^^^ BitVec.ofNat 64 runSeed).toNat) q.tensorId index

end Sys2Proof.Machine
end

