-- ==== Sys2Proof/Config.lean ====
section
/-! DEFINITION. What an implementation fixes and the manual does not give, and the free values: constants
without a body, so that no proof can see what they are (see notes/assumptions). -/

namespace Sys2Proof

/-- The package's serial number from FUSE (16 R553: "Per package"). -/
opaque Config.serial : Word64

/-- The PG_EV_RAW bit of an event code on its page; the manual numbers no event bit (02 R59). -/
opaque Config.eventBit : Nat → Fin 32

/-- LABEL in the step entry of a padding position or of a sample that is not written, which the manual does not give
(15 R515): by SEED, DATA_EPOCH, dataset index and position. -/
opaque Config.sampleLabel : Nat → Nat → Nat → Nat → Word64

/-- Side of an image that SCALE enlarges by a NaN, and the elements of an image that CROP leaves without rows or
columns, by row, column and channel: the manual states no result (15 R509). -/
opaque Config.nanSide : Nat → Nat
opaque Config.emptyPixel : Nat → Nat → Nat → BitVec 32

/-- PG_CAP.BLOCK of a block type: "block-defined capabilities" (02 R59). -/
opaque Config.capBlock : Nat → BitVec 29

/-- A word of a VF's function page after PG_ID, which lists the VF's contexts in a layout that the manual does not
give (02 R48): by function, offset and contexts. -/
opaque Config.funcPage : Nat → Nat → List Nat → Word

/-- The value of a core-bay byte that the manual calls undefined (07 R248, 05 R175): by how often its bank
was made undefined, and its key. -/
opaque Config.freeByte : Nat → Nat → Byte

/-- Rank of a record in the order that a candidate buffer holds before NMS has sorted it (08 R293), by a serial number
and the record's place among those held. -/
opaque Config.slotOf : Nat → Nat → Nat

/-- The sample that a decoder reconstructs: the codecs' own processes are outside the manual (12 R413). By
the picture's serial number, plane, row and column. -/
opaque Config.decodedSample : Nat → Nat → Nat → Nat → Nat

/-- A byte of the motion data that a video buffer carries (12 R427), by serial number and position. -/
opaque Config.motionByte : Nat → Nat → Byte

/-- The encoder's coding process, which the codecs and the manual leave to it (12 R439, R440), as a function of the
stream's history alone: the history at the start, by codec and PARAM; the history after a picture, by its kind, QP,
vectors and input samples; a byte of an access unit, by the history that ends with its picture; and the QP that rate
control chooses. -/
opaque Config.encStart : List Nat → Nat
opaque Config.encNext : Nat → List Int → Nat
opaque Config.encodedByte : Nat → Nat → Byte
opaque Config.rateQp : Nat → Nat

/-- Motion search (12 R440): a sample of the pyramid, by the samples it covers; a reference sample at a level, and at a
quarter-sample position, by the stream's history; the rate cost of a vector. -/
opaque Config.pyramidSample : List Nat → Nat
opaque Config.refLevel : Nat → Nat → Int → Int → Nat
opaque Config.refQuarter : Nat → Int → Int → Nat
opaque Config.vectorRate : Nat → Int × Int → Nat

/-- What an output element is when its value is NaN, and what a resampled value is when a coordinate is NaN:
the manual gives neither (12 R431, 08 R289). -/
opaque Config.nanByte : Byte
opaque Config.nanSample : BitVec 32

/-- What a read of a cycle or time counter of a tidy core returns: timing (07 R243). -/
opaque Config.counter : Nat → Word64

/-- vl where the application vector length lies between VLMAX and twice that, which the vector extension leaves
to the implementation (07 R242): by the two lengths. -/
opaque Config.vlChoice : Nat → Nat → Nat

/-- Whether an agnostic element of a vector destination is overwritten with ones, which the vector extension
leaves open (07 R242): by the instruction's free number and the element. -/
opaque Config.agnostic : Nat → Nat → Bool

/-- A 32-bit value that the manual leaves open, by the number it is drawn with and its position. -/
opaque Config.freeWord : Nat → Nat → Word

/-- The tokens of a pre-token that no path of pieces with a score above minus infinity covers: the manual states
none (11 R393). By the vocabulary's HASH and the bytes. -/
opaque Config.noPath : Nat → List (BitVec 8) → List Nat

/-- What an ATTEND makes of a NaN that its formats cannot hold, and the place of an output element in its tensor, neither of
which the manual gives (09 R316, R317, 06 R219): by the descriptor, the row and the element. -/
opaque Config.attendNan : List (BitVec 8) → Nat → Nat → Nat
opaque Config.attendIndex : List (BitVec 8) → Nat → Nat → Nat

/-- The hash that spreads traffic over the ports of a route (16 R528: by line address or chunk number). -/
opaque Config.routeHash : Nat → Nat

end Sys2Proof
end

