-- ==== Sys2Proof/Machine/RegMap.lean ====
section
/-! DEFINITION. The register map of BAR0: which page lies in which slot (02 R44, R45), what its header
reports (02 R59, R76, 01 R16, R17, R18, R35), and every block-specific register field with its access
code and reset value (00 R4 to R6, and the register tables of every chapter). -/

namespace Sys2Proof.Machine

/-- The blocks that have pages (02 R44). -/
inductive Blk where
  | mgmt | gts | evr | pwr | therm | rst | cal | test | fuse
  | host | sbox | yard | pfx | swap | smp
  | ctx | txt | grm | samp | dec | enc | rhs | ttb | csi | isp | scn | afe | mot | sysc
  | cl | co | dbg | hbm | noc | cpl | kl | klr | coll
  deriving DecidableEq, Repr

/-- A page: its block and its instance number. -/
structure PageId where
  blk : Blk
  inst : Nat
  deriving DecidableEq, Repr

/-- `⟨b, s - first⟩` when `s` lies among the `n` slots from `first`. -/
def slotIn (b : Blk) (first n s : Nat) : Option PageId :=
  if first ≤ s ∧ s < first + n then some ⟨b, s - first⟩ else none

/-- The cluster pages of one die's group: CLn at the group's first slot, its cores' register and debug
pages from the 16th slot on (02 R45). `base` is the die's first cluster number, `d` the slot's distance
from the die's first group. -/
def clusterPage (base d : Nat) : Option PageId :=
  let n := base + d / 32
  let r := d % 32
  if d / 32 < 4 then
    if r = 0 then some ⟨.cl, n⟩
    else if 16 ≤ r then
      if r % 2 = 0 then some ⟨.co, n * 8 + (r - 16) / 2⟩ else some ⟨.dbg, n * 8 + (r - 16) / 2⟩
    else none
  else none

/-- The management, control and IOD pages of the table of 02 R44, in its order. -/
def iodPage (s : Nat) : Option PageId :=
  if s < 9 then
    some ⟨[Blk.mgmt, .gts, .evr, .pwr, .therm, .rst, .cal, .test, .fuse].getD s .mgmt, 0⟩
  else if 0x100 ≤ s ∧ s < 0x106 then
    some ⟨[Blk.host, .sbox, .yard, .pfx, .swap, .smp].getD (s - 0x100) .host, 0⟩
  else if s = 0x300 then some ⟨.txt, 0⟩
  else if s = 0x301 then some ⟨.grm, 0⟩
  else if s = 0x302 then some ⟨.samp, 0⟩
  else if s = 0x31C then some ⟨.rhs, 0⟩
  else if s = 0x31D then some ⟨.ttb, 0⟩
  else if s = 0x330 then some ⟨.scn, 0⟩
  else if s = 0x331 then some ⟨.afe, 0⟩
  else if s = 0x332 then some ⟨.mot, 0⟩
  else if s = 0x340 then some ⟨.sysc, 0⟩
  else if s = 0xC10 then some ⟨.klr, 0⟩
  else if s = 0xC11 then some ⟨.coll, 0⟩
  else (slotIn .ctx 0x200 256 s).orElse fun _ =>
    (slotIn .dec 0x310 4 s).orElse fun _ => (slotIn .enc 0x318 2 s).orElse fun _ =>
    (slotIn .csi 0x320 8 s).orElse fun _ => (slotIn .isp 0x328 8 s).orElse fun _ =>
    slotIn .kl 0xC00 8 s

/-- The pages of one compute die above its clusters: HBM, NOC and CPL (02 R44). `die` is 0 or 1, `d` the
slot's distance from 0x500 or 0x900. -/
def uncorePage (die d : Nat) : Option PageId :=
  if d < 2 then some ⟨.hbm, 2 * die + d⟩
  else if d = 2 then some ⟨.noc, die⟩
  else if d < 5 then some ⟨.cpl, 2 * die + (d - 3)⟩
  else none

/-- The page with a header in BAR0 slot `s`, if the slot is populated (02 R43 to R45). The record
window has no header and is told apart by `isRecordWindow`. -/
def pageAt (s : Nat) : Option PageId :=
  if 0x400 ≤ s ∧ s < 0x480 then clusterPage 0 (s - 0x400)
  else if 0x800 ≤ s ∧ s < 0x880 then clusterPage 4 (s - 0x800)
  else if 0x500 ≤ s ∧ s < 0x505 then uncorePage 0 (s - 0x500)
  else if 0x900 ≤ s ∧ s < 0x905 then uncorePage 1 (s - 0x900)
  else iodPage s

/-- The 64 slots of the event recorder's record window (02 R44, 18 R591). -/
def isRecordWindow (s : Nat) : Bool := 0x40 ≤ s && s < 0x80

/-- A slot that holds a page or a part of the record window (02 R43). -/
def populated (s : Nat) : Bool := isRecordWindow s || (pageAt s).isSome

/-- The slot of a page (02 R44, R45). -/
def slotOf (b : Blk) (n : Nat) : Nat :=
  match b with
  | .mgmt => 0 | .gts => 1 | .evr => 2 | .pwr => 3 | .therm => 4 | .rst => 5 | .cal => 6 | .test => 7
  | .fuse => 8
  | .host => 0x100 | .sbox => 0x101 | .yard => 0x102 | .pfx => 0x103 | .swap => 0x104 | .smp => 0x105
  | .ctx => 0x200 + n | .txt => 0x300 | .grm => 0x301 | .samp => 0x302
  | .dec => 0x310 + n | .enc => 0x318 + n | .rhs => 0x31C | .ttb => 0x31D
  | .csi => 0x320 + n | .isp => 0x328 + n | .scn => 0x330 | .afe => 0x331 | .mot => 0x332
  | .sysc => 0x340
  | .cl => (if n < 4 then 0x400 else 0x800) + (n % 4) * 32
  | .co => (if n < 32 then 0x400 else 0x800) + ((n / 8) % 4) * 32 + 16 + (n % 8) * 2
  | .dbg => (if n < 32 then 0x400 else 0x800) + ((n / 8) % 4) * 32 + 17 + (n % 8) * 2
  | .hbm => (if n < 2 then 0x500 else 0x900) + n % 2
  | .noc => if n = 0 then 0x502 else 0x902
  | .cpl => (if n < 2 then 0x503 else 0x903) + n % 2
  | .kl => 0xC00 + n | .klr => 0xC10 | .coll => 0xC11

/-- The BAR0 byte offset of register `o` of page `b`, instance `n` (02 R42). -/
def ro (b : Blk) (n o : Nat) : Nat := slotOf b n * 0x1000 + o

/-- PG_ID.BLOCK_TYPE (02 R44). -/
def blockType : Blk → Nat
  | .mgmt => 0x001 | .gts => 0x002 | .evr => 0x003 | .pwr => 0x004 | .therm => 0x005 | .rst => 0x006
  | .cal => 0x007 | .test => 0x008 | .fuse => 0x009
  | .host => 0x010 | .sbox => 0x011 | .yard => 0x012 | .pfx => 0x013 | .swap => 0x014 | .smp => 0x015
  | .ctx => 0x020 | .txt => 0x030 | .grm => 0x031 | .samp => 0x032 | .dec => 0x033 | .enc => 0x034
  | .rhs => 0x035 | .ttb => 0x036 | .csi => 0x037 | .isp => 0x038 | .scn => 0x039 | .afe => 0x03A
  | .mot => 0x03B | .sysc => 0x03C
  | .cl => 0x040 | .co => 0x041 | .dbg => 0x042 | .hbm => 0x043 | .noc => 0x044 | .cpl => 0x045
  | .kl => 0x0C0 | .klr => 0x0C1 | .coll => 0x0C2

/-- Source number of cluster `c`'s unit `u` (01 R16). -/
def dieSrc (c u : Nat) : Nat := (if c < 4 then 0x2000 else 0x3000) + (c % 4) * 0x20 + u

/-- PG_SRC_ID.SRC, the block's source number (02 R76, 01 R16, 02 R45 for the debug page). -/
def srcOf (b : Blk) (n : Nat) : Nat :=
  match b with
  | .mgmt => 0x0000 | .gts => 0x0001 | .evr => 0x0002 | .pwr => 0x0003 | .therm => 0x0004
  | .rst => 0x0005 | .cal => 0x0006 | .test => 0x0007 | .fuse => 0x0008
  | .ctx => 0x1000 + n | .sbox => 0x1100 | .yard => 0x1110 | .pfx => 0x1111 | .swap => 0x1112
  | .host => 0x1120 | .sysc => 0x1130
  | .cl => dieSrc n 0x10
  | .co | .dbg => dieSrc (n / 8) (n % 8)
  | .hbm => (if n < 2 then 0x2100 else 0x3100) + n % 2
  | .noc => if n = 0 then 0x2110 else 0x3110
  | .cpl => (if n < 2 then 0x2120 else 0x3120) + n % 2
  | .dec => 0x4000 + n | .enc => 0x4010 + n | .rhs => 0x4020 | .ttb => 0x4030
  | .csi => 0x5000 + n | .isp => 0x5010 + n
  | .scn => 0x6000 | .afe => 0x6001 | .mot => 0x6002
  | .txt => 0x7000 | .grm => 0x7001 | .samp => 0x7002
  | .kl => 0x8000 + n | .klr => 0x8010 | .coll => 0x8020
  | .smp => 0x9000

/-- PG_STAT.CLK_DOMAIN (01 R17, R35, R648). The management pages run in domain 0 (18, "Registers"). -/
def domainOf (b : Blk) (n : Nat) : Nat :=
  match b with
  | .mgmt | .gts | .evr | .pwr | .therm | .rst | .cal | .test | .fuse => 0
  | .host => 2
  | .sbox | .yard | .pfx | .swap | .smp | .ctx | .txt | .grm | .samp | .sysc | .klr | .coll => 3
  | .dec | .enc | .rhs | .ttb => 10
  | .csi | .isp => 11
  | .scn | .afe | .mot => 20
  | .cl => if n < 4 then 4 else 5
  | .co | .dbg => if n < 32 then 4 else 5
  | .hbm => 6 + n
  | .noc => if n = 0 then 6 else 8
  | .cpl => if n < 2 then 6 else 8
  | .kl => 21 + n

/-- PG_STAT.POWER_ISLAND (01 R17, R18). -/
def islandOf (b : Blk) (n : Nat) : Nat :=
  match b with
  | .mgmt | .gts | .evr | .pwr | .therm | .rst | .cal | .test | .fuse => 0
  | .host | .sbox | .yard | .pfx | .swap | .smp | .ctx | .txt | .grm | .samp | .sysc => 1
  | .dec | .enc | .rhs | .ttb => 2
  | .csi | .isp => 3
  | .scn | .afe | .mot => 4
  | .kl | .klr | .coll => 5
  | .cl => 8 + n
  | .co | .dbg => 8 + n / 8
  | .hbm => if n < 2 then 6 else 7
  | .noc => if n = 0 then 6 else 7
  | .cpl => if n < 2 then 6 else 7

/-- PG_CAP.OWNABLE (02 R651). -/
def ownable : Blk → Bool
  | .dec | .enc | .csi | .isp | .scn | .smp => true
  | _ => false

/-- PG_CAP.SHADOWED: the pages whose tables hold shadowed registers (05, 11 R411, 14 R500, 16 R553). -/
def shadowedPage : Blk → Bool
  | .sbox | .samp | .afe | .klr => true
  | _ => false

/-- The access codes of 00 R5. -/
inductive Access where
  | rw | ro | w1c | wo | rwl | rws
  deriving DecidableEq, Repr

/-- One row of a register table: the field's word offset in its page, its lowest bit and width, its access
code and reset value, and, for an array, how many words `stride` apart carry it. -/
structure Field where
  off : Nat
  lo : Nat
  width : Nat
  acc : Access
  reset : Nat
  cnt : Nat
  stride : Nat
  shadowed : Bool
  deriving DecidableEq, Repr

/-- A plain field. -/
def fld (off lo width : Nat) (acc : Access) (reset : Nat := 0) : Field :=
  ⟨off, lo, width, acc, reset, 1, 4, false⟩

/-- A whole-word register. -/
def wrd (off : Nat) (acc : Access) (reset : Nat := 0) : Field := fld off 0 32 acc reset

/-- Both words of a 64-bit pair (02 R67). -/
def pairF (off : Nat) (acc : Access) : List Field := [wrd off acc, wrd (off + 4) acc]

/-- A field carried by `cnt` words `stride` bytes apart. -/
def arr (off cnt stride lo width : Nat) (acc : Access) (reset : Nat := 0) : Field :=
  ⟨off, lo, width, acc, reset, cnt, stride, false⟩

/-- The same row marked shadowed (02 R70). -/
def Field.sh (f : Field) : Field := { f with shadowed := true }

/-- Four byte fields of each of `cnt` words. -/
def bytesF (off cnt width : Nat) (acc : Access) (reset : Nat) : List Field :=
  [arr off cnt 4 0 width acc reset, arr off cnt 4 8 width acc reset,
   arr off cnt 4 16 width acc reset, arr off cnt 4 24 width acc reset]

def Field.covers (f : Field) (o : Nat) : Bool :=
  decide (f.off ≤ o) && (o - f.off) % f.stride == 0 && decide ((o - f.off) / f.stride < f.cnt)

/-- 03 R109 to R112, 19 (MGMT.TEST_UNLOCK). -/
def mgmtFields : List Field :=
  [fld 0x40 0 1 .ro, fld 0x40 1 3 .ro 1, fld 0x40 4 1 .ro, fld 0x40 5 1 .ro, fld 0x40 6 1 .ro,
   fld 0x40 7 1 .ro, fld 0x40 8 4 .ro, fld 0x40 12 1 .ro, fld 0x40 13 1 .ro, fld 0x40 14 1 .rws,
   fld 0x40 15 1 .ro 1, fld 0x40 16 4 .ro, fld 0x40 20 3 .ro, fld 0x44 0 16 .ro,
   fld 0x48 0 3 .wo, fld 0x48 16 16 .wo, fld 0x4C 0 16 .wo]

/-- 03 R112. -/
def rstFields : List Field :=
  [fld 0x40 0 2 .ro, fld 0x40 2 1 .ro, fld 0x40 16 16 .ro, fld 0x44 0 1 .rws]

/-- 03, "Registers": CAL. -/
def calFields : List Field :=
  [fld 0x40 0 1 .rw, fld 0x40 1 1 .rws 1, fld 0x44 0 14 .ro, fld 0x48 0 16 .ro]

/-- 18 R611. -/
def gtsFields : List Field :=
  pairF 0x40 .ro ++ pairF 0x48 .rw ++
  [fld 0x50 0 1 .rw 1, fld 0x50 8 8 .rw 200, fld 0x54 0 2 .ro, fld 0x54 2 1 .ro, fld 0x54 4 3 .ro,
   fld 0x54 8 4 .ro, wrd 0x58 .ro]

/-- 18 R612. -/
def evrFields : List Field :=
  [wrd 0x40 .ro, wrd 0x44 .ro, fld 0x48 0 1 .wo, wrd 0x4C .ro, wrd 0x50 .ro, fld 0x54 0 10 .rws 1000,
   fld 0x54 12 3 .rws, fld 0x54 16 1 .rws 1, fld 0x58 0 2 .ro, fld 0x58 2 1 .ro, fld 0x58 8 8 .ro,
   wrd 0x5C .ro, wrd 0x60 .ro, wrd 0x64 .ro, fld 0x68 0 13 .ro, fld 0x68 16 13 .ro, wrd 0x6C .ro,
   wrd 0x70 .wo, fld 0x74 0 1 .ro, fld 0x74 1 1 .ro, wrd 0x78 .ro, wrd 0x7C .ro,
   arr 0x800 16 4 0 32 .ro]

/-- 17 R579. -/
def pwrFields : List Field :=
  [fld 0x40 0 9 .rw 220, fld 0x44 0 3 .rw 2, fld 0x44 3 1 .rw, fld 0x44 8 8 .rw 10,
   fld 0x44 16 8 .rw 5, fld 0x44 24 8 .rw 100, wrd 0x48 .rw 25000, fld 0x4C 0 11 .rw 1500,
   fld 0x4C 16 11 .rw 900, fld 0x50 0 3 .ro, fld 0x50 3 3 .ro, fld 0x50 6 1 .ro, fld 0x50 7 1 .ro,
   fld 0x50 8 1 .ro, fld 0x50 9 1 .ro, fld 0x50 12 3 .ro 1, fld 0x50 16 3 .ro, wrd 0x54 .ro 25000,
   wrd 0x58 .ro, wrd 0x5C .ro, fld 0x60 0 11 .ro 1000, fld 0x60 16 11 .ro 1000, fld 0x64 0 16 .ro,
   fld 0x64 16 16 .ro, fld 0x68 0 1 .rw, fld 0x68 1 1 .rw, fld 0x68 2 1 .rw, fld 0x68 3 1 .wo] ++
  pairF 0x70 .rw ++ pairF 0x78 .rw ++ [arr 0x80 4 4 0 32 .ro] ++ pairF 0x90 .ro

/-- 17 R580. -/
def thermFields : List Field :=
  [fld 0x40 0 8 .rw 95, fld 0x40 8 8 .rw 102, fld 0x40 16 8 .rw 5, fld 0x44 0 16 .ro,
   fld 0x44 16 6 .ro, fld 0x48 0 11 .ro 1500, fld 0x48 16 11 .ro 1500, fld 0x4C 0 8 .rw 0xFF,
   fld 0x4C 8 4 .rw 2, fld 0x4C 16 16 .rw 1000, wrd 0x50 .rw 0x32501E28, wrd 0x54 .rw 0x645F6455,
   fld 0x58 0 8 .ro 100, fld 0x58 8 1 .ro, fld 0x58 16 16 .ro, wrd 0x60 .ro,
   arr 0x800 48 4 0 16 .ro, arr 0x800 48 4 16 1 .ro]

/-- 19, "Registers": TEST. -/
def testFields : List Field :=
  [fld 0x40 0 1 .ro, fld 0x40 1 1 .ro, fld 0x40 16 10 .ro, fld 0x44 0 22 .wo] ++ pairF 0x48 .rw ++
  [fld 0x50 0 1 .ro, fld 0x50 1 3 .ro] ++ pairF 0x58 .ro

/-- 02 ("Doorbells, virtual functions and the HBM window") and 04 ("Host registers of the ring machinery"). The manual
gives POOL_FUNC one byte per pool, with no bit range; DESIGN CHOICE: its function is bits [3:0] and [7:4] are reserved, as in
CTX_FUNC (log 14). -/
def hostFields : List Field :=
  [fld 0x40 21 11 .rw, wrd 0x44 .rw, fld 0x48 0 16 .ro, fld 0x50 5 27 .rw, wrd 0x54 .rw,
   fld 0x58 0 13 .rw, fld 0x5C 0 16 .ro, fld 0x60 0 1 .ro, fld 0x60 1 1 .ro, fld 0x60 2 1 .ro] ++
  bytesF 0x800 64 4 .rw 0 ++ bytesF 0x900 16 4 .rw 0 ++
  [arr 0xA08 15 8 21 11 .rw, arr 0xA0C 15 8 0 32 .rw]

/-- 05 R189. -/
def sboxFields : List Field :=
  [fld 0x40 0 14 .rw 200, fld 0x44 0 8 .rw 8, fld 0x44 8 8 .rw 4, fld 0x44 16 8 .rw 2,
   fld 0x44 24 8 .rw 1, (fld 0x48 0 11 .rw 900).sh, (fld 0x48 12 7 .rw 90).sh,
   (fld 0x48 24 8 .rw 48).sh, fld 0x4C 0 17 .rw, fld 0x50 0 17 .ro, fld 0x54 0 16 .ro,
   fld 0x54 16 16 .ro, fld 0x58 0 7 .ro 64, fld 0x58 8 7 .ro 64, fld 0x58 16 7 .ro 32,
   fld 0x58 24 7 .ro 32, fld 0x5C 0 11 .ro 200, wrd 0x60 .ro 1, fld 0x64 0 16 .ro, fld 0x64 16 16 .ro,
   wrd 0x68 .ro, wrd 0x6C .ro, arr 0x800 256 4 0 1 .rw, arr 0x800 256 4 1 2 .rw 1]

/-- 04 R127 and 05 R156. -/
def ctxFields : List Field :=
  [fld 0x40 0 3 .ro, fld 0x40 8 8 .ro, fld 0x44 0 3 .wo, wrd 0x48 .rw, fld 0x4C 0 2 .rw,
   arr 0x50 4 16 0 32 .rw, arr 0x54 4 16 0 32 .rw, arr 0x58 4 16 0 5 .rw 6, arr 0x5C 4 16 0 32 .ro,
   wrd 0x90 .rw, wrd 0x94 .rw, fld 0x98 0 5 .rw 6, wrd 0x9C .ro, fld 0xA0 0 11 .rw 2,
   fld 0xA0 16 8 .rw, fld 0xA0 31 1 .rw, arr 0xB0 4 4 0 32 .ro, wrd 0xC0 .ro, wrd 0xC4 .ro,
   fld 0x100 0 2 .rw 3, wrd 0x104 .rw, wrd 0x108 .rw, fld 0x10C 0 7 .rw 1, fld 0x10C 8 7 .rw 64,
   fld 0x10C 16 2 .rw, fld 0x110 0 17 .rw, wrd 0x114 .rw, wrd 0x118 .rw, fld 0x11C 0 17 .rw,
   fld 0x120 0 4 .ro, fld 0x120 8 4 .ro, fld 0x120 16 7 .ro, fld 0x120 23 1 .ro, wrd 0x124 .ro,
   wrd 0x128 .ro, wrd 0x12C .ro, wrd 0x130 .ro, wrd 0x134 .ro, wrd 0x138 .ro, wrd 0x13C .ro]

/-- 10 R377. -/
def yardFields : List Field :=
  [fld 0x40 0 1 .rw, fld 0x40 1 1 .rw, fld 0x44 0 17 .rw 0x1FFFF, fld 0x48 0 16 .rw 10,
   fld 0x4C 0 17 .ro 49152, fld 0x50 0 17 .ro, fld 0x54 0 6 .wo, fld 0x54 8 3 .wo, fld 0x58 0 17 .rw,
   fld 0x5C 0 17 .rw, fld 0x60 0 1 .ro, fld 0x60 4 4 .ro, fld 0x60 16 16 .ro, fld 0x64 0 17 .rw,
   fld 0x68 0 15 .ro, wrd 0x70 .ro, wrd 0x74 .ro, wrd 0x78 .ro, wrd 0x7C .ro, wrd 0x80 .ro,
   wrd 0x84 .ro, wrd 0x88 .ro, wrd 0x8C .ro,
   arr 0x800 64 32 0 3 .rw, arr 0x800 64 32 3 1 .rw, arr 0x800 64 32 4 1 .rw, arr 0x800 64 32 5 1 .rw,
   arr 0x800 64 32 6 1 .rw, arr 0x800 64 32 8 8 .rw, arr 0x800 64 32 16 12 .rw,
   arr 0x800 64 32 28 3 .ro, arr 0x804 64 32 0 15 .rw, arr 0x808 64 32 0 32 .rw,
   arr 0x80C 64 32 0 24 .rw, arr 0x810 64 32 0 24 .ro, arr 0x814 64 32 0 24 .ro,
   arr 0x818 64 32 0 17 .ro, arr 0x81C 64 32 0 15 .ro, arr 0x81C 64 32 16 15 .ro]

/-- 10 R378. -/
def pfxFields : List Field :=
  [fld 0x40 0 16 .rw 32768, fld 0x44 0 16 .ro, wrd 0x48 .ro, wrd 0x4C .ro, wrd 0x50 .ro, wrd 0x54 .ro,
   wrd 0x58 .ro, wrd 0x5C .ro, fld 0x60 0 6 .wo, fld 0x60 8 1 .wo, fld 0x60 16 16 .wo,
   fld 0x64 0 1 .ro, wrd 0x68 .ro]

/-- 10 R379. -/
def swapFields : List Field :=
  pairF 0x40 .rw ++ [fld 0x48 0 24 .rw, fld 0x4C 0 24 .ro, fld 0x50 0 4 .rw, fld 0x50 8 1 .rw] ++
  pairF 0x58 .rw ++ [fld 0x60 0 24 .rw, fld 0x64 0 24 .ro, fld 0x68 0 19 .ro, wrd 0x6C .ro,
   arr 0x800 256 4 0 24 .ro, arr 0xC00 256 4 0 17 .rw]

/-- 15, "Registers": SMP. -/
def smpFields : List Field :=
  [fld 0x40 0 4 .ro, fld 0x40 4 4 .ro, fld 0x40 8 8 .ro, wrd 0x48 .ro, wrd 0x4C .ro, wrd 0x50 .ro,
   arr 0x60 4 8 0 8 .ro 0xFF, arr 0x64 4 8 0 32 .ro]

/-- 11 R409. -/
def txtFields : List Field :=
  [fld 0x40 0 1 .rw, wrd 0x44 .ro, wrd 0x48 .ro, wrd 0x4C .ro, wrd 0x50 .ro, wrd 0x58 .ro, wrd 0x5C .ro,
   wrd 0x60 .ro, wrd 0x64 .ro, wrd 0x68 .ro, wrd 0x6C .ro, fld 0x70 0 24 .ro 0x0F0100,
   arr 0x800 64 8 0 32 .rw 0xFFFFFFFF, arr 0x804 64 8 0 32 .rw 0xFFFFFFFF]

/-- 11 R410. -/
def grmFields : List Field :=
  [fld 0x40 0 1 .rw, fld 0x44 0 16 .ro, wrd 0x48 .ro, wrd 0x4C .ro, wrd 0x50 .ro, wrd 0x54 .ro,
   wrd 0x58 .ro, wrd 0x5C .ro, wrd 0x60 .ro]

/-- 11 R411. -/
def sampFields : List Field :=
  [wrd 0x40 .ro, wrd 0x44 .ro, wrd 0x48 .ro, wrd 0x4C .ro, (arr 0x800 128 16 0 32 .rw).sh,
   (arr 0x804 128 16 0 11 .rw).sh, (arr 0x808 128 16 0 32 .rw 0x3F800000).sh]

/-- 12 R444. -/
def decFields : List Field :=
  [fld 0x40 0 1 .ro, fld 0x40 8 8 .ro 0xFF, fld 0x40 16 16 .ro, wrd 0x44 .ro, wrd 0x48 .ro,
   wrd 0x50 .ro, wrd 0x54 .ro]

def encFields : List Field :=
  [fld 0x40 0 1 .ro, fld 0x40 8 8 .ro 0xFF, wrd 0x44 .ro, wrd 0x48 .ro, wrd 0x50 .ro, wrd 0x54 .ro]

def rhsFields : List Field := [fld 0x40 0 9 .ro, fld 0x40 16 7 .ro, fld 0x44 0 16 .ro]

def ttbFields : List Field :=
  [fld 0x40 0 11 .ro, wrd 0x44 .ro, wrd 0x48 .ro, wrd 0x50 .ro, wrd 0x54 .ro]

/-- 13 R470. The manual names flags [0] and [2:1] of a CCI_SEQ entry and does not call [7:3] reserved; DESIGN CHOICE: the
entry stores all its bits as RW (log 48). -/
def csiFields : List Field :=
  [fld 0x40 0 1 .rwl, fld 0x40 1 2 .rwl, fld 0x40 3 8 .rwl 0xE4, fld 0x40 11 4 .rwl, fld 0x40 19 13 .rwl,
   fld 0x44 0 2 .ro, fld 0x44 2 1 .ro, fld 0x44 3 1 .ro, fld 0x44 4 1 .ro, fld 0x44 8 8 .ro 0xFF,
   fld 0x48 0 1 .rw, fld 0x48 1 1 .rw, wrd 0x4C .ro, wrd 0x50 .ro, wrd 0x54 .ro, wrd 0x58 .ro,
   fld 0x60 0 2 .rw 1, wrd 0x64 .wo, fld 0x68 0 16 .rw, wrd 0x6C .rw, wrd 0x70 .ro,
   fld 0x74 0 1 .ro, fld 0x74 1 1 .ro, fld 0x74 2 1 .ro, fld 0x74 8 8 .ro,
   arr 0x800 512 4 0 32 .rw]

def ispFields : List Field :=
  [fld 0x40 0 1 .ro, fld 0x40 8 8 .ro 0xFF, fld 0x40 16 16 .ro, wrd 0x44 .ro, wrd 0x48 .ro, wrd 0x4C .ro,
   wrd 0x50 .ro, wrd 0x54 .ro]

/-- 14 R499. -/
def scnFields : List Field :=
  [fld 0x40 0 2 .rw, fld 0x40 2 1 .rw, fld 0x40 4 14 .rw, fld 0x40 24 8 .rw 3, fld 0x44 0 20 .rw 12000,
   fld 0x48 0 14 .rw, fld 0x48 31 1 .rw, fld 0x4C 0 12 .rw 200, fld 0x4C 16 12 .rw 32, fld 0x50 0 3 .ro,
   fld 0x50 3 6 .ro, fld 0x50 9 1 .ro, fld 0x50 10 1 .ro, fld 0x50 12 3 .ro, fld 0x50 16 8 .ro 0xFF,
   fld 0x54 0 12 .ro, fld 0x54 16 12 .ro, fld 0x58 0 6 .ro, wrd 0x5C .ro, fld 0x60 0 1 .wo,
   fld 0x64 0 4 .rw, wrd 0x68 .ro, wrd 0x6C .ro, wrd 0x70 .ro, arr 0x800 256 4 0 32 .rw,
   arr 0xC00 128 4 0 32 .rw]

/-- 14 R500. -/
def afeFields : List Field :=
  [(arr 0x40 6 4 0 9 .rw).sh, (arr 0x58 6 4 0 10 .rw 0x200).sh, fld 0x70 0 16 .rw 0x0100,
   fld 0x70 16 16 .rw 0x2000, fld 0x74 0 6 .rw 16, fld 0x74 16 16 .rw 0x4000, fld 0x78 0 2 .wo,
   fld 0x78 8 8 .wo, fld 0x7C 0 1 .ro, fld 0x7C 1 3 .ro, fld 0x80 0 16 .rw 60000,
   fld 0x84 0 16 .rw 0x1000, fld 0x88 0 16 .rw, fld 0x8C 0 16 .rw, fld 0x8C 16 16 .rw 4096,
   arr 0x90 6 4 0 16 .ro]

/-- 14 R501. -/
def motFields : List Field :=
  [fld 0x40 0 5 .rw 4, fld 0x40 5 1 .rw, fld 0x40 8 7 .rw 24, fld 0x40 16 8 .rw, fld 0x44 0 12 .rw,
   fld 0x44 16 12 .rw, fld 0x48 0 12 .rw 600, fld 0x48 16 12 .rw 400, fld 0x4C 0 12 .rw 300,
   fld 0x4C 16 12 .rw 1000, wrd 0x50 .ro, wrd 0x54 .ro, fld 0x58 0 1 .ro, fld 0x58 1 1 .ro,
   fld 0x58 2 3 .ro, fld 0x58 5 1 .ro]

/-- 01 R14, R15 and 07, "Registers": CLn. -/
def clFields : List Field :=
  [wrd 0x40 .ro 0x76543210, fld 0x44 0 9 .ro, fld 0x44 16 9 .rws, fld 0x48 0 12 .ro] ++
  bytesF 0x800 3 8 .rw 0xFF

/-- 07 R268, 08 R305, 09 R336 and 07, "Registers": COn. -/
def coFields : List Field :=
  [fld 0x40 0 8 .ro 0xFF, fld 0x40 8 7 .ro, fld 0x40 16 4 .ro, fld 0x40 20 1 .ro, fld 0x40 21 2 .ro,
   fld 0x40 23 1 .ro, fld 0x40 24 1 .ro, fld 0x44 0 8 .ro, fld 0x44 8 3 .ro, fld 0x44 16 8 .ro 0xFF,
   fld 0x44 24 8 .rws, fld 0x48 0 24 .ro, fld 0x4C 0 16 .ro, fld 0x4C 16 16 .ro, fld 0x50 0 16 .ro,
   wrd 0x54 .ro, wrd 0x58 .ro, wrd 0x5C .ro, wrd 0x60 .ro, wrd 0x64 .ro, wrd 0x68 .ro, wrd 0x6C .ro]

/-- 07, "Registers": the debug page. The manual gives CTL, REG_SEL, REG_DATA and TRACE_CTL no access codes; DESIGN CHOICE:
they are stored as RW, while what they read as is free (log 37). -/
def dbgFields : List Field :=
  [wrd 0x40 .rw, wrd 0x44 .ro, wrd 0x48 .rw, wrd 0x4C .rw, wrd 0x80 .rw, arr 0x800 512 4 0 32 .ro]

def nocFields : List Field := [wrd 0x40 .ro, wrd 0x44 .ro]

/-- 16 R552. -/
def klFields : List Field :=
  [fld 0x40 0 3 .ro, fld 0x40 3 1 .ro, fld 0x40 8 4 .ro, fld 0x40 12 3 .ro, fld 0x40 16 2 .ro,
   fld 0x44 0 16 .ro, wrd 0x48 .ro, wrd 0x4C .ro, wrd 0x50 .ro, wrd 0x54 .ro, wrd 0x58 .ro, wrd 0x5C .ro]

/-- 16 R553. -/
def klrFields : List Field :=
  [fld 0x40 0 4 .ro, fld 0x40 4 2 .ro, fld 0x40 16 16 .ro, fld 0x44 0 16 .rw 100, fld 0x44 16 8 .rw 10,
   wrd 0x48 .ro (Config.serial.toNat % 2 ^ 32), wrd 0x4C .ro (Config.serial.toNat / 2 ^ 32),
   (fld 0x50 0 16 .rw).sh, (fld 0x50 16 4 .rw).sh, fld 0x54 0 3 .ro, fld 0x58 0 16 .ro, wrd 0x5C .ro,
   wrd 0x60 .ro, fld 0x64 0 17 .rw, fld 0x68 0 17 .rw, (arr 0x800 16 16 0 32 .rw).sh,
   (arr 0x804 16 16 0 32 .rw).sh, (arr 0x808 16 16 0 1 .rw).sh, (arr 0x900 16 4 0 8 .rw).sh,
   (arr 0x900 16 4 8 8 .rw).sh, arr 0x900 16 4 16 8 .ro]

/-- 16 R554: COLL. -/
def collFields : List Field :=
  [fld 0x40 0 6 .ro, wrd 0x44 .ro, wrd 0x48 .ro, wrd 0x4C .ro, wrd 0x50 .ro, arr 0x800 32 16 0 8 .rw,
   arr 0x800 32 16 8 8 .rw, arr 0x800 32 16 16 8 .rw 0xFF, arr 0x804 32 16 0 32 .ro,
   arr 0x808 32 16 0 32 .rw, arr 0x80C 32 16 0 32 .rw]

/-- 16 R554: CPL. CPL0 and CPL2 end the CD0–CD1 Coupling of 50 bundles, CPL1 and CPL3 those to the IOD
of 30 (01 R25). -/
def cplFields (n : Nat) : List Field :=
  let b := if n % 2 = 0 then 50 else 30
  [fld 0x40 0 2 .ro, fld 0x40 8 6 .ro b, fld 0x40 16 6 .ro b, fld 0x44 0 16 .ro, wrd 0x48 .ro,
   wrd 0x4C .ro, fld 0x50 0 8 .ro 100]

/-- The block-specific fields of a page. FUSE, SYSC and HBMn list none. -/
def fieldsOf (b : Blk) (n : Nat) : List Field :=
  match b with
  | .mgmt => mgmtFields | .gts => gtsFields | .evr => evrFields | .pwr => pwrFields
  | .therm => thermFields | .rst => rstFields | .cal => calFields | .test => testFields | .fuse => []
  | .host => hostFields | .sbox => sboxFields | .yard => yardFields | .pfx => pfxFields
  | .swap => swapFields | .smp => smpFields | .ctx => ctxFields | .txt => txtFields
  | .grm => grmFields | .samp => sampFields | .dec => decFields | .enc => encFields
  | .rhs => rhsFields | .ttb => ttbFields | .csi => csiFields | .isp => ispFields | .scn => scnFields
  | .afe => afeFields | .mot => motFields | .sysc => [] | .cl => clFields | .co => coFields
  | .dbg => dbgFields | .hbm => [] | .noc => nocFields | .cpl => cplFields n | .kl => klFields
  | .klr => klrFields | .coll => collFields

/-- The fields of the word at BAR0 offset `a`. -/
def fieldsAt (a : Nat) : List Field :=
  match pageAt (a / 0x1000) with
  | some p => (fieldsOf p.blk p.inst).filter fun f => f.covers (a % 0x1000)
  | none => []

/-- The bits of a field in its word. -/
def Field.mask (f : Field) : Word := BitVec.ofNat 32 ((2 ^ f.width - 1) * 2 ^ f.lo)

/-- The bits of the word at `a` that carry one of the access codes `p` names. -/
def maskWhere (p : Field → Bool) (a : Nat) : Word :=
  (fieldsAt a).foldl (fun m f => if p f then m ||| f.mask else m) 0

/-- The reset words of HCOEF and VCOEF, linear interpolation (14 R479). `w` is the word's index from 0x800. -/
def coefReset (w : Nat) : Word :=
  if w < 256 then
    let ph := w / 4
    if w % 4 = 1 then BitVec.ofNat 32 ((4096 - 64 * ph) * 65536)
    else if w % 4 = 2 then BitVec.ofNat 32 (64 * ph) else 0
  else
    let ph := (w - 256) / 2
    if w % 2 = 0 then BitVec.ofNat 32 ((4096 - 64 * ph) * 65536) else BitVec.ofNat 32 (64 * ph)

/-- The value of the block-specific word at BAR0 offset `a` after a cold reset (00 R4). -/
def resetWord (a : Nat) : Word :=
  if 0x330800 ≤ a ∧ a < 0x330E00 then coefReset ((a - 0x330800) / 4)
  else (fieldsAt a).foldl (fun w f => w ||| (BitVec.ofNat 32 (f.reset * 2 ^ f.lo) &&& f.mask)) 0

/-- The 64-bit register pairs of a block: offset of the first low word, count, stride (02 R67). -/
def pairsOf : Blk → List (Nat × Nat × Nat)
  | .gts => [(0x40, 1, 8), (0x48, 1, 8)]
  | .pwr => [(0x70, 1, 8), (0x78, 1, 8), (0x90, 1, 8)]
  | .test => [(0x48, 1, 8), (0x58, 1, 8)]
  | .host => [(0x40, 1, 8), (0x50, 1, 8), (0xA08, 15, 8)]
  | .ctx => [(0x50, 4, 16), (0x90, 1, 8), (0x128, 1, 8)]
  | .yard => [(0x70, 1, 8)]
  | .pfx => [(0x48, 1, 8), (0x50, 1, 8)]
  | .swap => [(0x40, 1, 8), (0x58, 1, 8)]
  | .smp => [(0x48, 1, 8)]
  | .txt => [(0x58, 1, 8), (0x60, 1, 8)]
  | .grm => [(0x50, 1, 8)]
  | .samp => [(0x40, 1, 8)]
  | .dec | .enc | .ttb | .isp => [(0x50, 1, 8)]
  | .co => [(0x58, 1, 8)]
  | .kl => [(0x48, 1, 8)]
  | .klr => [(0x48, 1, 8), (0x800, 16, 16)]
  | .coll => [(0x808, 32, 16)]
  | _ => []

/-- Page offset `o` is the low word of a 64-bit pair of block `b`; PG_GTS_LO is one on every page (02 R59). -/
def isPairLow (b : Blk) (o : Nat) : Bool :=
  o == 0x30 || (pairsOf b).any fun (f, c, st) =>
    decide (f ≤ o) && (o - f) % st == 0 && decide ((o - f) / st < c)

/-- PG_CAP.PERTURB: every page outside the management region except the CTXn pages (19 R622). -/
def perturbable (b : Blk) (n : Nat) : Bool := decide (9 ≤ slotOf b n) && decide (b ≠ .ctx)

end Sys2Proof.Machine
end

