-- ==== Sys2Proof/Syntax.lean ====
section
/-! DEFINITION. The commands of the block: one constructor for each row of the opcode table, in its order.
An operand that the environment decides (which packet arrived, what a test found) is an operand of the
command that brings it in. -/

namespace Sys2Proof

/-- Who sends a host access: a PCIe function, or the I3C target of the management island. -/
inductive Sender where
  | pcie (f : Fin 16)
  | i3c
  deriving DecidableEq, Repr

/-- Where a host access falls that a rule answers at once: an offset of BAR0, or one of a doorbell page of BAR2. -/
inductive BarOff where
  | bar0 (off : Fin 33554432)
  | bar2 (off : Fin 33554432)
  deriving DecidableEq, Repr

/-- A PCIe link that has trained, and the sizes that the host's configuration requests choose for BAR4 of the PF and
of each VF: 256 and 64 MiB times a power of two (02 R41, R48). -/
structure LinkCfg where
  link : Fin 2
  bar4 : Fin 10
  vfBar4 : Fin 9
  deriving DecidableEq, Repr

/-- What goes wrong in one frame: the blocks that cannot be reconstructed, whether it is intra, and the buffer of its
first reference (12 R422). -/
structure FrameLoss where
  lost : List Nat
  intra : Bool
  ref0 : Option Nat
  deriving DecidableEq, Repr

/-- What a decoder core finds when it parses the headers of a record (12 R413, R420 to R424): whether the
picture lies in the standards table, its size, depth and chroma (0 4:0:0, 1 4:2:0, 2 4:2:2, 3 4:4:4), whether
it is a reference, a random-access point, a RASL picture; the frames decoded and not shown before it; the buffer
of a show_existing_frame; its coding-tree block size, the blocks that cannot be reconstructed, whether it is
intra, and the buffer of its first reference. -/
structure PicInfo where
  supported : Bool
  w : Nat
  h : Nat
  depth : Nat
  chroma : Fin 4
  reference : Bool
  rap : Bool
  rasl : Bool
  hidden : List FrameLoss
  existing : Option Nat
  ctu : Nat
  lost : List Nat
  intra : Bool
  ref0 : Option Nat
  deriving DecidableEq, Repr

/-- What a heartbeat flit carries (16 R526, 18 R586): package, serial number, CONSIST_EPOCH, consist state
(0 SOLO, 1 MEMBER, 2 FENCED, 3 QUARANTINE), port; the departure stamp of the last heartbeat its sender
received from this port and the sender's GTS at its arrival; its own departure stamp; whether its sender is
LOCKED or the master, the sender's hop count and OFFSET. -/
structure Heartbeat where
  pkg : Fin 16
  serial : Word64
  epoch : Half
  st : Fin 4
  port : Fin 8
  echo : Option (Nat × Nat)
  t3 : Nat
  locked : Bool
  hops : Nat
  offset : Int
  deriving DecidableEq, Repr

/-- A chunk of a collective (16 R536, R537): group, SEQ, place in the data, direction, the rank whose data it
is for ALL_GATHER and BROADCAST, the operation's parameters, the bytes. -/
structure Chunk where
  group : Nat
  seq : Word
  idx : Nat
  up : Bool
  origin : Nat
  op : Nat
  dtype : Nat
  len : Nat
  root : Nat
  data : List Byte
  bad : List Nat
  deriving DecidableEq, Repr

/-- What a Karlund message does (16 R530 to R545, 09 R334): a peer access and its answers, the NACKs, a chunk,
a spread step table, a spread token. -/
inductive KlBody where
  | read (txn : Nat) (addr : Nat) (len : Nat)
  | write (txn : Nat) (addr : Nat) (data : List Byte) (bad : List Nat)
  | reply (txn : Nat) (data : List Byte) (bad : List Nat)
  | accessNack (txn : Nat)
  | staleNack (epoch : Half)
  | retryNack (seq : Word)
  | chunk (c : Chunk)
  | table (group : Nat) (members : List (Nat × Nat × Nat))
  | token (spread : Nat) (tok : Nat)
  deriving DecidableEq, Repr

/-- A Karlund message (16 R529, R530). -/
structure KlMsg where
  src : Fin 16
  dst : Fin 16
  epoch : Half
  seq : Word
  hops : Fin 16
  body : KlBody
  deriving DecidableEq, Repr

/-- A command: a write or read from outside, a message, a pin, or an internal happening of the part. -/
inductive Instr where
  /-- R64: A host write to a register that has no row of its own enters the page's crossing FIFO and
  sets WPEND. -/
  | registerWrite (snd : Sender) (off : Fin 33554432) (val : Word)
  /-- R64: A posted register write reaches its domain and takes effect; WPEND clears after the last one.
  -/
  | writeTakesEffect (slot : Fin 8192)
  /-- R650: A BAR0 access answered by the width, readiness, slot, island or gated-clock rules returns a
  fixed word or is dropped, and its event is logged. -/
  | refusedAccess (snd : Sender) (off : BarOff) (width : Nat) (write : Bool)
  /-- R68: A read of the low word of a 64-bit pair returns it and latches the high word for the
  function. -/
  | pairLowRead (snd : Sender) (off : Fin 33554432) (wide : Bool)
  /-- R69: A write of the low word of a 64-bit pair goes into the function's write latch without effect.
  -/
  | pairLowWrite (snd : Sender) (off : Fin 33554432) (val : Word)
  /-- R69: A write of the high word of a 64-bit pair installs both halves together. -/
  | pairHighWrite (snd : Sender) (off : Fin 33554432) (low : Option Word) (val : Word)
  /-- R59: A read of PG_GTS_LO returns the low GTS of the last event and latches PG_GTS_HI. -/
  | pgGtsLoRead (snd : Sender) (slot : Fin 8192)
  /-- R154: Setting PG_CTL.EN lets the block accept new work once any cancellation has completed. -/
  | pgCtlEnSet (snd : Sender) (slot : Fin 8192)
  /-- R151: Clearing PG_CTL.EN makes the block refuse new work and finish its current atom. -/
  | pgCtlEnClear (snd : Sender) (slot : Fin 8192)
  /-- R152: A DRAIN write makes the block refuse new work and finish its queued descriptors. -/
  | pgCtlDrain (snd : Sender) (slot : Fin 8192)
  /-- R153: An ABORT write stops the block at the next clock-domain-safe point, aborting the descriptor
  in progress and cancelling the queue. -/
  | pgCtlAbort (snd : Sender) (slot : Fin 8192)
  /-- R59: Setting FREEZE holds the block at the next atom boundary and clearing it resumes the block.
  -/
  | pgCtlFreeze (snd : Sender) (slot : Fin 8192) (on : Bool)
  /-- R61: An SRST write aborts the block and starts a block reset that increments PG_EPOCH. -/
  | pgCtlSrst (snd : Sender) (slot : Fin 8192)
  /-- R151: A disabled block reaches its atom boundary, cancels its descriptors and sets QUIESCENT. -/
  | blockQuiesced (slot : Fin 8192)
  /-- R152: A draining block completes its last queued descriptor, clears EN and sets QUIESCENT. -/
  | drainDone (slot : Fin 8192)
  /-- R61: A block reset completes; the block is idle with EN = 0 and the writes held during the reset
  take effect. -/
  | blockResetDone (slot : Fin 8192)
  /-- R62: A W1C write clears event bits, except a bit that hardware sets in the same cycle. -/
  | pgEvRawClear (snd : Sender) (slot : Fin 8192) (mask hw : Word)
  /-- R62: A write to PG_EV_FORCE sets event bits without stamping or recording them. -/
  | pgEvForceWrite (snd : Sender) (slot : Fin 8192) (val : Word)
  /-- R71: A COMMIT write snapshots every shadow register and sets PENDING. -/
  | pgCommitCommit (snd : Sender) (slot : Fin 8192) (both : Bool)
  /-- R72: A DISCARD write copies the active values back into the shadow registers. -/
  | pgCommitDiscard (snd : Sender) (slot : Fin 8192)
  /-- R71: At the block's next atom boundary the pending snapshot becomes active, PENDING clears and
  COUNT increments. -/
  | shadowInstall (slot : Fin 8192)
  /-- R74: A PF write to PG_OWNER sets the owning context, locks the page or releases the lock. -/
  | pgOwnerWrite (snd : Sender) (slot : Fin 8192) (val : Word)
  /-- R47: A write of HOST.CTX_FUNC assigns a FREE context to a function, within the limit of 63
  contexts per VF. -/
  | ctxFuncWrite (snd : Sender) (word : Fin 64) (val : Word)
  /-- R50: A BAR4 read or write reaches HBM through the window base, with the home and poison rules
  applied. -/
  | bar4Access (fn : Fin 16) (off : Fin 137438953472) (len : Nat) (data : Option (List Byte))
  /-- R81: PG_AON is asserted with REFCLK running, which starts the 1 ms wait before the always-on
  island leaves reset. -/
  | pgAonAssert (gpio : Fin 4)
  /-- R81: 1 ms after PG_AON the always-on island leaves reset and holds islands 1 to 15 until T0. -/
  | aonLeavesReset
  /-- R81: A power-good input is asserted; when it is the last of the eight, T0 starts phase 2 of a cold
  start. -/
  | powerGoodAssert (input : Fin 8) (twoLinks : Bool)
  /-- R82: Loss of a power-good input other than PG_AON places islands 1 to 15 in reset within 1 µs. -/
  | powerGoodDeassert (input : Fin 8)
  /-- R82: Loss of PG_AON or VAON resets the whole package, including the event recorder SRAM. -/
  | vaonLoss
  /-- R84: The clock monitor declares REFCLK lost, holds islands 1 to 15 in reset and switches to the
  internal oscillator. -/
  | refclkLoss
  /-- R85: REFCLK valid for 10 ms without interruption causes a warm reset with cause CLOCK_LOSS. -/
  | refclkReturn
  /-- R40: The GTS PLL relocks and the GTS returns to 1 ns steps within 1 µs. -/
  | gtsPllRelock
  /-- R90: The PLLs are locked, the sensors trimmed and thermal protection armed; phase 3 begins. -/
  | phase2Done (ok : Bool) (mean : Int)
  /-- R86: The PCIe SerDes calibration item ends and the link may leave Detect. -/
  | pcieSerdesDone (ok : Bool)
  /-- R95: The firmware is read and verified, with fallback to the other slot, and phase 4 begins. -/
  | phase3Done (slot0Ok slot1Ok : Bool) (mean : Int)
  /-- R98: A phase-4 calibration item ends, succeeding, retrying or failing with its consequence. -/
  | calItemDone (item : Fin 14) (ok : Bool)
  /-- R100: BIST, HBM ECC initialisation, SRAM clearing and spare remap end. -/
  | phase5Done (iodOk uncoreOk : Bool) (slots : List (Fin 8 × Fin 9)) (slices : List (Fin 8 × Fin 12)) (sysc : List (Fin 64))
  /-- R89: Phase 6 sets MGMT.STATUS.READY and sends or pends MSI-X vector 0. -/
  | readySet
  /-- R91: A phase passes its maximum, causing one warm-reset retry or BOOT_FAIL with TIMEOUT. -/
  | phaseTimeout
  /-- R96: In FW_NONE a signed image received over I3C or UART is written to the active slot and a
  recovery-type reset follows. -/
  | recoveryImageReceived (signed : Bool)
  /-- R99: After READY the records of fully calibrated items are written to NOR in the background. -/
  | calRecordsSaved
  /-- R88: PERST# asserted resets the endpoint only before READY, causes a warm reset after READY and
  wakes from P4. -/
  | perstAssert
  /-- R86: PERST# released starts link training, bounded by 100 ms from the end of the SerDes item. -/
  | perstRelease
  /-- R86: Link training completes and configuration requests are answered from ROM and FUSE. They also
  choose the sizes of BAR4 of the PF and of each VF. -/
  | pcieLinkUp (link : LinkCfg)
  /-- R89: A pending MSI-X vector becomes enabled and unmasked, and its message is sent. -/
  | msixVectorUnmasked (fn : Fin 16) (vec : Fin 1088)
  /-- R102: MGMT.RST_CMD KIND 1 with the key starts a warm reset. -/
  | rstCmdWarm (snd : Sender)
  /-- R102: MGMT.RST_CMD KIND 2 starts a soft reset, or a warm reset when READY has not been set. -/
  | rstCmdSoft (snd : Sender)
  /-- R102: MGMT.RST_CMD KIND 3 starts a recovery reset from the golden slot. -/
  | rstCmdRecovery (snd : Sender)
  /-- R102: MGMT.RST_CMD KIND 4 starts a cold reset at phase 2. -/
  | rstCmdPackage (snd : Sender)
  /-- R107: A debounced button press moves the button logic from IDLE to HELD. -/
  | rstBtnPress
  /-- R107: A debounced release causes a warm or recovery reset, or is ignored, according to the hold
  time. -/
  | rstBtnRelease
  /-- R107: A hold that reaches 30 s masks the button. -/
  | buttonStuck
  /-- R107: A release held for 1 s clears BTN_MASKED. -/
  | btnUnmask
  /-- R115: OPEN checks the ring configuration and runs the admission test, then sets the context OPEN
  or refuses it. -/
  | ctxCmdOpen (ctx : Fin 256)
  /-- R118: CLOSE puts the context in QUIESCING and drains the descriptors below the current tails. -/
  | ctxCmdClose (ctx : Fin 256)
  /-- R118: A drained close closes the context's sequences, streams and scan job, releases its admission
  and returns it to FREE. -/
  | ctxCloseDone (ctx : Fin 256)
  /-- R119: RESET aborts and cancels the context's work, closes its objects, increments its epoch and
  returns it to OPEN. -/
  | ctxCmdReset (ctx : Fin 256)
  /-- R120: A function-level reset of a VF aborts every context of that VF and returns each to FREE. -/
  | vfFlr (fn : Fin 16)
  /-- R120: A function-level reset of the PF acts as a soft reset. -/
  | pfFlr
  /-- R120: Clearing VF Enable acts as a function-level reset of every VF. -/
  | vfEnableClear
  /-- R122: A doorbell write of SQn_TAIL announces descriptors, or is refused as DOORBELL_BAD. -/
  | sqTailWrite (fn : Fin 16) (ctx : Fin 256) (sq : Fin 4) (val : Word)
  /-- R124: A doorbell write of CQ_HEAD frees completion-ring space, letting the lost-notice count and
  held records be written. -/
  | cqHeadWrite (fn : Fin 16) (ctx : Fin 256) (val : Word)
  /-- R123: The device fetches an announced descriptor in ring order, tags it with the epoch and
  advances SQn_HEAD. -/
  | descriptorFetch (ctx : Fin 256) (sq : Fin 4) (pcieError : Bool)
  /-- R33: An epoch-tagged completion notice reaches the Signal Box, which writes the completion record
  or drops a stale notice. -/
  | completionNotice (pcieError : Bool)
  /-- R130: The COAL_US interval ends and a delayed completion message is sent. -/
  | msixCoalesceExpiry (fn : Fin 16) (vec : Fin 1088)
  /-- R133: A RUN descriptor is checked against its quota and program image and its gang is queued. -/
  | run (ctx : Fin 256) (sq : Fin 4)
  /-- R133: A COPY descriptor starts a copy of LEN bytes from SRC to DST. -/
  | copy (ctx : Fin 256) (sq : Fin 4)
  /-- R133: A copy ends and its descriptor completes with the granules copied. -/
  | copyDone (ctx : Fin 256) (sq : Fin 4) (pos : Word)
  /-- R148: A REGION_UPDATE checks the region entry and queues behind or supersedes earlier updates. -/
  | regionUpdate (ctx : Fin 256) (sq : Fin 4)
  /-- R148: A 4 KiB granule of a region update is written; after the last one GEN increments. -/
  | regionGranuleDone (region : Fin 4096)
  /-- R148: The last reader of generation GEN − 1 ends and a waiting update may write its first granule.
  -/
  | regionReadersClear (region : Fin 4096)
  /-- R143: A FENCE starts waiting for the DONE count of a ring. -/
  | fence (ctx : Fin 256) (sq : Fin 4)
  /-- R143: The awaited DONE count is reached and the FENCE completes. -/
  | fenceSatisfied (ctx : Fin 256) (sq : Fin 4)
  /-- R143: TIMEOUT_US passes and the FENCE completes with TIMEOUT. -/
  | fenceTimeout (ctx : Fin 256) (sq : Fin 4)
  /-- R144: A WAIT_GTS starts, completing at once if its target has passed. -/
  | waitGts (ctx : Fin 256) (sq : Fin 4)
  /-- R144: The GTS reaches the target and the WAIT_GTS completes. -/
  | waitGtsReached (ctx : Fin 256) (sq : Fin 4)
  /-- R345: SEQ_OPEN checks the model header and pool, takes a sequence block and looks up the prefix
  directory. -/
  | seqOpen (ctx : Fin 256) (sq : Fin 4)
  /-- R330: SEQ_APPEND tokenises its input, cuts prefill chunks and generates tokens up to its limits.
  -/
  | seqAppend (ctx : Fin 256) (sq : Fin 4)
  /-- R374: SEQ_FORK fetches the parent's AWAY pages and shares its pages with a new child. -/
  | seqFork (ctx : Fin 256) (sq : Fin 4)
  /-- R375: SEQ_CLOSE releases the page list and may publish full pages into the prefix directory. -/
  | seqClose (ctx : Fin 256) (sq : Fin 4)
  /-- R415: STREAM_OPEN opens a decode, encode, JPEG or camera stream and reserves its Roundhouse
  buffers. -/
  | streamOpen (ctx : Fin 256) (sq : Fin 4)
  /-- R429: STREAM_TAP checks a tap attach, detach or replace and waits for a picture boundary. -/
  | streamTap (ctx : Fin 256) (sq : Fin 4)
  /-- R435: A tap change takes effect at the stream's next picture boundary and the STREAM_TAP
  completes. -/
  | tapChangeApplied (stream : Nat)
  /-- R442: A MODE 0 close completes the records already announced before it releases the stream. -/
  | streamCloseDrain (ctx : Fin 256) (sq : Fin 4)
  /-- R442: A MODE 1 close aborts the picture in progress and cancels the remaining records. -/
  | streamCloseAbort (ctx : Fin 256) (sq : Fin 4)
  /-- R442: The stream's taps are detached, its buffers released and its ring returned to descriptor
  use. -/
  | streamCloseDone (stream : Nat)
  /-- R482: SCAN_START checks the job and moves the port to WAIT or CLEAR. -/
  | scanStart (ctx : Fin 256) (sq : Fin 4)
  /-- R487: SCAN_ABORT MODE 0 lets the sheet in progress finish and then ends the job. -/
  | scanAbortAfterPage (ctx : Fin 256) (sq : Fin 4)
  /-- R487: SCAN_ABORT MODE 1 completes the current line, halts the motor and ends the job ABORTED. -/
  | scanAbortAtLine (ctx : Fin 256) (sq : Fin 4)
  /-- R518: SMP_RUN checks its run block and starts issuing shuffle positions on its pipeline. -/
  | smpRun (ctx : Fin 256) (sq : Fin 4)
  /-- R137: A MARKER writes a driver event record and completes at once. -/
  | marker (ctx : Fin 256) (sq : Fin 4)
  /-- R167: The Signal Box grants cores to a waiting gang, preempting lower-ordered gangs if needed. -/
  | gangDispatch (gang : Nat) (cores : List (Fin 64))
  /-- R165: A class Q gang's quantum ends; it is preempted or starts a new slice. -/
  | quantumEnd (gang : Nat)
  /-- R174: A preempted gang has stopped issuing and its cores start saving their images. -/
  | preemptStopped (gang : Nat)
  /-- R175: A core's save image is written and its core is released. -/
  | saveDone (core : Fin 64) (ecc : Bool)
  /-- R176: A gang's images are read back and its next slice begins. -/
  | restoreDone (gang : Nat) (ecc : Bool)
  /-- R168: A budgeted context's period begins, the miss check runs and BUDGET_LEFT is refilled. -/
  | periodStart (ctx : Fin 256)
  /-- R168: BUDGET_LEFT reaches 0 and the gang moves to class Q. -/
  | budgetExhausted (gang : Nat)
  /-- R185: After a change of capacity, admission or ADM_CFG the admitted contexts are evaluated and the
  BROKEN bits installed. -/
  | capacityEvaluation
  /-- R249: All tidy cores of the gang have ended and its queues are empty; the RUN completes with TC0's
  a0. -/
  | runEnd (gang : Nat)
  /-- R266: A core fault marks the slot, records its cause and hands the gang to slice replay or
  failure. -/
  | coreFault (core : Fin 64) (cause : Fin 4) (unit : Fin 8)
  /-- R11: Once the failed core is quiescent, its logical core is mapped to the spare slot or marked
  absent. -/
  | coreRemap (core : Fin 64)
  /-- R249: A tidy core executes ECALL, which ends its part of the program or is a program error. -/
  | tcEcall (core : Fin 64) (tc : Fin 2)
  /-- R264: EBREAK with no debugger attached is a program error. -/
  | tcEbreak (core : Fin 64) (tc : Fin 2)
  /-- R235: A write of ME_LIST_CNT enqueues a command list on an ME, stalling the store when 4 lists are
  pending. -/
  | meListLaunch (core : Fin 64) (tc : Fin 2) (me : Fin 4) (val : Word)
  /-- R237: An ME executes NOP. -/
  | meNop (core : Fin 64) (me : Fin 4)
  /-- R230: An ME accumulates A × B into its banks, in pieces of at most 8,192 cycles. -/
  | meMma (core : Fin 64) (me : Fin 4) (ce : Option (Fin 24))
  /-- R237: An ME zeroes banks and sets their mode. -/
  | meZero (core : Fin 64) (me : Fin 4)
  /-- R237: An ME loads accumulator banks from the core bay. -/
  | meAccLoad (core : Fin 64) (me : Fin 4)
  /-- R239: An ME converts tiles under a QREC and writes them out. -/
  | meStore (core : Fin 64) (me : Fin 4)
  /-- R237: An ME writes raw accumulator values. -/
  | meStoreRaw (core : Fin 64) (me : Fin 4)
  /-- R251: An ME WAIT checks a semaphore and holds the ME until the value is reached. -/
  | meWait (core : Fin 64) (me : Fin 4)
  /-- R251: A held WAIT's semaphore condition becomes true and the ME continues. -/
  | meWaitSatisfied (core : Fin 64) (me : Fin 4)
  /-- R236: After earlier commands complete, an ME adds to a semaphore. -/
  | meSignal (core : Fin 64) (me : Fin 4)
  /-- R251: A tidy-core write to SEM[i] adds to the semaphore. -/
  | semWrite (core : Fin 64) (tc : Fin 2) (sem : Fin 32) (val : Word)
  /-- R251: A read of SEM_WAIT stalls the tidy core until the semaphore condition holds. -/
  | semWaitRead (core : Fin 64) (tc : Fin 2) (rd : Fin 32)
  /-- R251: The condition of a stalled SEM_WAIT read holds and the read returns. -/
  | semWaitRelease (core : Fin 64) (tc : Fin 2)
  /-- R253: A write to BARRIER counts the core's arrival; the last arrival completes the generation. -/
  | barrierArrive (core : Fin 64) (tc : Fin 2)
  /-- R253: A read of BARRIER stalls until the core's generation completes. -/
  | barrierRead (core : Fin 64) (tc : Fin 2) (rd : Fin 32)
  /-- R226: A tidy core rewrites the live-bank mask. -/
  | liveWrite (core : Fin 64) (tc : Fin 2) (val : Word)
  /-- R256: A W1C write clears sticky NONFINITE flags. -/
  | nonfiniteClear (core : Fin 64) (tc : Fin 2) (val : Word)
  /-- R259: A write of DM_LAUNCH enqueues a data-mover descriptor on a queue. -/
  | dmLaunch (core : Fin 64) (tc : Fin 2) (queue : Fin 2) (val : Word)
  /-- R258: The data mover runs a COPY descriptor. -/
  | dmCopy (core : Fin 64) (queue : Fin 2) (ce : Option (Fin 24))
  /-- R258: The data mover runs a TRANSPOSE descriptor at half rate. -/
  | dmTranspose (core : Fin 64) (queue : Fin 2)
  /-- R258: The data mover runs a FILL descriptor. -/
  | dmFill (core : Fin 64) (queue : Fin 2)
  /-- R259: A data-mover descriptor's writes have landed and it signals its semaphore. -/
  | dmDescriptorDone (core : Fin 64) (queue : Fin 2)
  /-- R229: A change of a cluster SRAM slice's owner starts a clear of the slice. -/
  | sramOwnWrite (cluster : Fin 8) (slice : Fin 12) (val : Byte)
  /-- R229: The slice clear ends and the new owner takes effect. -/
  | sliceCleared (cluster : Fin 8) (slice : Fin 12)
  /-- R269: The PF halts a tidy core through the debug page. -/
  | dbgHalt (core : Fin 64) (tc : Fin 2)
  /-- R269: The PF resumes a halted tidy core. -/
  | dbgResume (core : Fin 64) (tc : Fin 2)
  /-- R269: The PF single-steps a halted tidy core. -/
  | dbgStep (core : Fin 64) (tc : Fin 2)
  /-- R273: A write of WU_LAUNCH enqueues a window descriptor, stalling the store when 8 are pending. -/
  | wuLaunch (core : Fin 64) (tc : Fin 2) (val : Word)
  /-- R278: The window unit validates a CONV and supplies pixel groups to the subscribed MEs. -/
  | convGroup (core : Fin 64)
  /-- R281: ROW_SEM shows an input row written and a waiting CONV reads it. -/
  | convRowAvailable (core : Fin 64)
  /-- R289: The window unit crops and resizes each box of a list. -/
  | cropResize (core : Fin 64)
  /-- R295: The window unit decodes head positions into candidates of a top-K buffer. -/
  | boxDecode (core : Fin 64)
  /-- R299: The window unit sorts the candidates and keeps boxes by class-aware suppression. -/
  | nms (core : Fin 64)
  /-- R286: The window unit rearranges channel blocks into space. -/
  | depthToSpace (core : Fin 64)
  /-- R274: A window descriptor completes, writes its result block and signals. -/
  | wuDescriptorDone (core : Fin 64)
  /-- R313: A write of RS_LAUNCH enqueues a row-statistics descriptor. -/
  | rsLaunch (core : Fin 64) (tc : Fin 2) (val : Word)
  /-- R317: The row-statistics unit walks the sequence's KV pages and computes attention. -/
  | attend (core : Fin 64)
  /-- R325: The row-statistics unit rotates, quantises and writes K and V rows, or stages them in a
  SCATTER pool. -/
  | append (core : Fin 64)
  /-- R325: The row-statistics unit quantises staged records and writes them into pages. -/
  | scatter (core : Fin 64)
  /-- R313: A row-statistics descriptor completes and writes its result block. -/
  | rsDescriptorDone (core : Fin 64)
  /-- R328: With the step gang granted, the batch former takes ready sequences into a decode step. -/
  | decodeStepForm (region : Nat) (cores : List (Fin 64)) (tableAt : Nat) (logitsAt : Nat)
  /-- R330: The batch former starts the next prefill chunk of a SEQ_APPEND as a RUN. -/
  | prefillChunk (seq : Nat) (tokensAt : Nat) (logitAt : Nat)
  /-- R334: A spread member receives the step table and runs the step. -/
  | stepTableReceived (region : Nat) (rows : List (Nat × Nat)) (tableAt : Nat) (logitsAt : Nat)
  /-- R334: A spread member receives the chosen token from SPREAD_IDX 0. -/
  | spreadTokenReceived (seq : Nat) (tok : Nat)
  /-- R342: Pool command ASSIGN appends unassigned frames to a pool. -/
  | poolAssign (pool : Fin 64)
  /-- R342: Pool command RELEASE returns the last frames of a pool. -/
  | poolRelease (pool : Fin 64)
  /-- R342: Pool command CREATE activates a pool and lays out a KV pool's metadata. -/
  | poolCreate (pool : Fin 64)
  /-- R342: Pool command DESTROY evicts the pool's directory entries and frees its frames. -/
  | poolDestroy (pool : Fin 64)
  /-- R350: The Yard serves a NEW, COW, FETCH or RESTORE page request through free pages, eviction, pre-
  emption or spill. -/
  | pageAlloc (pool : Fin 64)
  /-- R350: A waiting page request passes WAIT_MS and its descriptor completes with QUOTA_EXCEEDED. -/
  | allocWaitTimeout (pool : Fin 64)
  /-- R354: A write intent to a page proceeds in place or starts copy-on-write. -/
  | writeIntent (core : Fin 64)
  /-- R355: The copy-on-write copy completes, the list is repointed and the writer is released. -/
  | cowCopyDone (core : Fin 64)
  /-- R369: The walker's lookahead pins a resident page or starts a FETCH of an AWAY entry. -/
  | lookaheadRequest (core : Fin 64)
  /-- R369: A page fetched from the Siding or a peer is verified and made resident. -/
  | fetchDone (seq : Nat) (entry : Fin 1024) (pcieError : Bool)
  /-- R364: The victim's unshared pages are in the Siding and a PREEMPTED notice is written. -/
  | preemptWriteoutDone (seq : Nat)
  /-- R365: The last AWAY entry of a pre-empted sequence is resident and the sequence is ready. -/
  | seqRestored (seq : Nat)
  /-- R368: In RECOVERY mode a page's spill to the Siding or peer completes. -/
  | pageSpilled (pool : Fin 64) (page : Nat)
  /-- R362: A keyed write of PFX.FLUSH starts evicting the directory entries of a pool or all pools. -/
  | pfxFlush (val : Word)
  /-- R362: The flush ends and FLUSH_STAT.BUSY clears. -/
  | pfxFlushDone
  /-- R376: A frame is marked for retirement and retires when unassigned or empty. -/
  | frameRetireRequest (frame : Fin 49152)
  /-- R394: TXT tokenises one pre-token of an input by BPE or unigram. -/
  | tokenisePretoken (seq : Nat)
  /-- R405: GRM finishes a sequence's mask and SAMP may read the row. -/
  | maskReady (seq : Nat) (ns : Nat)
  /-- R381: SAMP chooses a token, GRM advances and TXT writes its text, all taking effect together. -/
  | tokenStep (seq : Nat)
  /-- R417: An access-unit record of TYPE DATA is read from a bound ring and queued for decoding. -/
  | auData (stream : Nat)
  /-- R421: An END record puts the stream in wait for a random-access point. -/
  | auEnd (stream : Nat)
  /-- R420: A free decoder core takes a stream's next record and judges its staleness. -/
  | decodeDispatch (core : Fin 4) (stream : Nat) (pic : PicInfo)
  /-- R419: A picture is decoded and its record completes with the tap results. -/
  | pictureDone (stream : Nat) (marks : List Nat)
  /-- R433: A tap reads CREDIT, then writes the picture's progress header or skips it. -/
  | tapPictureStart (stream : Nat) (tap : Fin 4)
  /-- R434: Once its source rows are complete, a tap writes a row or box and updates DONE. -/
  | tapOutputRow (stream : Nat) (tap : Fin 4) (ready : Nat)
  /-- R437: A FRAME input record is cropped, scaled, rotated and mirrored into the encoder. -/
  | encFrame (stream : Nat)
  /-- R438: A linked encoder receives a source picture in its capture range, or skips it. -/
  | encLinkedPicture (stream : Nat)
  /-- R441: An encoded access unit is written to OUT and its completion record follows. -/
  | encPictureDone (stream : Nat) (size : Nat)
  /-- R446: The first write of the RWL PHY_CFG fixes the port's PHY option until reset. -/
  | csiPhyCfgWrite (port : Fin 8) (val : Word)
  /-- R447: The first initial deskew sequence calibrates the receiver and sets DESKEWED. -/
  | csiDeskewSequence (port : Fin 8) (lanes : Word)
  /-- R448: The receiver checks a packet's header and CRC and passes it on or discards it. -/
  | csiPacket (port : Fin 8) (vc dt : Nat) (hdr : Fin 3) (crcOk : Bool) (payload : List Nat) (full : Bool)
  /-- R455: A frame start on VC[0] stamps a new frame and may end the previous one as damaged. -/
  | frameStart (port : Fin 8) (vc : Nat)
  /-- R455: A frame end packet ends an exposure; the frame ends when every exposure has ended. -/
  | frameEnd (port : Fin 8) (vc : Nat)
  /-- R457: The pipeline takes a frame's first line, checks staleness and the ISP table generation. -/
  | frameDispatch (port : Fin 8)
  /-- R459: The pipeline processes one input line through the ISP stages and emits output lines. -/
  | ispLine (port : Fin 8)
  /-- R458: A frame's outputs are written and its notice is sent unless REC suppresses it. -/
  | frameComplete (port : Fin 8)
  /-- R468: FIRST_MS passes without a frame start and the port enters LOST. -/
  | camFirstMsExpiry (port : Fin 8)
  /-- R468: No SoT for 2 × FRAME_US and the port enters LOST. -/
  | camSilenceExpiry (port : Fin 8)
  /-- R468: A debounced CAMn_DET change marks the camera absent or present. -/
  | camDetChange (port : Fin 8) (level : Bool)
  /-- R466: CCI_CMD OP 1 starts a register write over I²C. -/
  | cciWrite (port : Fin 8) (val : Word)
  /-- R466: CCI_CMD OP 2 starts a register read over I²C. -/
  | cciRead (port : Fin 8) (val : Word)
  /-- R467: CCI_CMD OP 3 runs a sequence of writes, at once or at the next frame end. -/
  | cciSeq (port : Fin 8) (val : Word)
  /-- R467: A waiting AT_FE sequence starts at the stream's frame end. -/
  | cciSeqAtFeStart (port : Fin 8)
  /-- R466: A CCI transfer ends with ACK, NACK or timeout. -/
  | cciTransferDone (port : Fin 8) (nack timeout : Bool) (bytes : Word)
  /-- R476: A scanner line starts at its motor position and is captured, checked and stored in the ring.
  -/
  | scanLineStart (samples : List (List Nat))
  /-- R494: The port processes one ring line into page elements in HBM. -/
  | ringLineProcessed
  /-- R495: SETTLE_US passes and the motor reverses or waits for LWM. -/
  | motorSettleDone
  /-- R495: The back-up lines and backlash are run and settling begins. -/
  | motorReverseDone
  /-- R495: The ring drains to LWM and the motor runs forward to replay. -/
  | ringLwmReached
  /-- R488: A debounced paper-path input change is taken with its recorded position and drives the
  port's state machine. -/
  | paperInputChange (input : Fin 4) (level : Bool) (pos : Int)
  /-- R492: A debounced scan-button press is logged and may start or stop a job. -/
  | scanButton (pressed : Bool)
  /-- R491: DKT_DET_N changes; cable loss puts the port in FAULT. -/
  | cableChange (present : Bool)
  /-- R491: An empty tray for TRAY_WAIT_MS ends the job OK. -/
  | trayWaitExpiry
  /-- R491: LEAD_LINES lines pass without a leading edge and the job ends with TIMEOUT. -/
  | misfeed
  /-- R491: The jam count runs out without a trailing edge and the job ends with TIMEOUT. -/
  | paperJam
  /-- R491: EJECT_LINES lines run after a sheet and the port returns to WAIT or IDLE. -/
  | ejectDone
  /-- R491: The paper path is clear for EJECT_LINES lines and the port enters WAIT. -/
  | clearDone
  /-- R491: A write of SCN.CTL.FAULT_CLR leaves FAULT for IDLE. -/
  | faultClr (val : Word)
  /-- R480: CAL_CMD DARK measures the dark shading values with the lamps off. -/
  | afeCalDark (val : Word)
  /-- R480: CAL_CMD WHITE computes the shading gains over the white backing. -/
  | afeCalWhite (val : Word)
  /-- R480: CAL_CMD OFFSET searches the offset code of each channel. -/
  | afeCalOffset (val : Word)
  /-- R480: A calibration ends and its result is reported. -/
  | afeCalDone (lines : List (List (List Nat))) (offsets : List (Nat × Nat))
  /-- R516: A pipeline with credit issues the next shuffle position to a free lane. -/
  | sampleIssue (pipe : Fin 4)
  /-- R509: A lane finishes augmenting a sample or rejects it, and a complete step is released. -/
  | sampleDone (lane : Fin 8)
  /-- R524: A Karlund flit is FEC-corrected and CRC-checked, then acknowledged or not. -/
  | flitReceived (port : Fin 8) (corrected uncorrected : Nat) (crcOk : Bool) (acked : Nat)
  /-- R524: The oldest unacknowledged flit has waited 2 µs and the replay buffer is resent. -/
  | flitReplayTimer (port : Fin 8)
  /-- R525: A port unacknowledged after the eighth replay enters SUSPECT and hands its flits to the
  router. -/
  | klSuspect (port : Fin 8)
  /-- R526: A port in UP or SUSPECT sends a heartbeat flit every 100 µs. -/
  | heartbeatSend (port : Fin 8)
  /-- R526: A heartbeat updates the peer state and time-sync sample. -/
  | heartbeatReceived (port : Fin 8) (hb : Heartbeat)
  /-- R526: Eight heartbeat intervals pass without one and the port declares DOWN. -/
  | klDown (port : Fin 8)
  /-- R527: 10 ms after DOWN the port starts TRAINING. -/
  | klRetrain (port : Fin 8)
  /-- R527: The port is trained and receives its first heartbeat. -/
  | klUp (port : Fin 8) (hb : Heartbeat)
  /-- R527: A port UP for HOLDOFF_MS becomes usable for routing. -/
  | klHoldoffExpiry (port : Fin 8)
  /-- R528: A change of port usability makes the router recompute the routes and REACH. -/
  | routeChanged
  /-- R530: A message is forwarded, epoch-checked, reordered and delivered or NACKed. -/
  | klMessageReceived (port : Fin 8) (msg : KlMsg)
  /-- R532: A form 11 access is served locally, forwarded or refused by consist state and window. -/
  | peerAccess (addr : Word64) (data : Option (List Byte)) (len : Nat)
  /-- R545: An EPOCH_STALE NACK makes the sender hold its consist traffic. -/
  | staleNackReceived
  /-- R545: 10 µs after a RETRY NACK the message is sent again. -/
  | retryNackResend
  /-- R545: INSTALL_MS passes without a newer installation and the package enters QUARANTINE. -/
  | installWaitExpiry
  /-- R546: Package 0 stays unreachable for INSTALL_MS and the package enters FENCED. -/
  | fenceTimerExpiry
  /-- R543: A KLR commit installs a membership or routes, or is refused. -/
  | consistInstall (val : Word)
  /-- R534: A write of COLL_LAUNCH queues a collective descriptor. -/
  | collLaunch (core : Fin 64) (tc : Fin 2) (val : Word)
  /-- R538: A collective ALL_REDUCE sums the members' data along the rank chain. -/
  | allReduce (core : Fin 64)
  /-- R538: A collective REDUCE_SCATTER leaves each rank its share of the sum. -/
  | reduceScatter (core : Fin 64)
  /-- R538: A collective ALL_GATHER gives every member all contributions. -/
  | allGather (core : Fin 64)
  /-- R538: A collective BROADCAST sends ROOT's data to every member. -/
  | broadcast (core : Fin 64)
  /-- R537: A 4 KiB chunk arrives, is matched by group and SEQ, reduced and forwarded. -/
  | collChunkReceived
  /-- R539: A chunk lost to a link failure is sent again from the sender's copy. -/
  | collRetransmit (group : Fin 32) (up : Bool) (origin idx : Nat)
  /-- R540: A collective finishes, writes its result block and signals, possibly into a saved semaphore.
  -/
  | collDone (group : Fin 32)
  /-- R540: TIMEOUT_US passes and the collective ends with TIMEOUT. -/
  | collTimeout (group : Fin 32)
  /-- R548: A failing Coupling lane is replaced by a spare of its bundle. -/
  | cplLaneRepaired (cpl : Fin 4) (rx : Bool) (bundle : Fin 50) (lane : Fin 22)
  /-- R549: A bundle with too many failed lanes leaves service. -/
  | cplDegraded (cpl : Fin 4) (rx : Bool) (bundle : Fin 50)
  /-- R550: A Coupling fails and its traffic takes the detour. -/
  | cplFailed (cpl : Fin 4) (retried : Bool)
  /-- R561: When compute becomes idle or its inputs change, the governor chooses a power state and
  starts its entry. -/
  | governorChooseState
  /-- R565: A power-state entry completes. -/
  | pstateEnter
  /-- R564: A request, tolerance change or MAX_STATE write starts an exit or abandons an entry. -/
  | pstateExit (serve : Option (Fin 4))
  /-- R564: An exit completes and the waiting request is served. -/
  | pstateExitDone
  /-- R563: The exit starts ahead of the earliest WAIT_GTS target or WAKE_GTS. -/
  | timedExit
  /-- R34: A recomputed effective tolerance reaches the governor. -/
  | effTolDelivered
  /-- R556: HOLD_MS passes after a LAT_TOL write and the context stops counting. -/
  | holdMsExpiry (ctx : Fin 256)
  /-- R565: A write of PWR.CFG.MAX_STATE below the state in force causes an exit. -/
  | maxStateWrite (snd : Sender) (val : Word)
  /-- R567: The device enters P4, clearing READY and PCIE_UP and powering down islands 1 to 15. -/
  | p4Entry
  /-- R568: A write of PWR.CTL.WAKE over I3C starts the P4 exit. -/
  | p4WakeI3c (val : Word)
  /-- R568: PERST#, WAKE_GTS, the scan button or a camera detect starts the P4 exit. -/
  | p4WakeEvent (cause : Fin 6)
  /-- R569: The P4 exit ends with READY set and MSI-X vector 0 sent. -/
  | p4ExitDone
  /-- R570: Every 100 µs the governor takes a power sample and may lower lim at once. -/
  | powerSample (deciwatts : Nat)
  /-- R571: Every 1 ms the governor adjusts lim and sets each die's target clock. -/
  | governMs
  /-- R573: A die's clock switches and a capacity evaluation follows. -/
  | clockChange (die : Fin 2)
  /-- R573: The regulator acknowledges a voltage setpoint and the clock is raised. -/
  | avsAck (die : Fin 2)
  /-- R574: The regulator misses 1 ms or reports a fault and raising the die stops. -/
  | avsError (rail : Fin 3) (status : Nat)
  /-- R574: Every 100 ms the governor retries the failed regulator. -/
  | avsRetry (rail : Fin 3) (ok : Bool)
  /-- R575: Every 100 µs the sensors are read and therm_cap, the clock stop and the fan adjusted. -/
  | sensorSample (readings : List (Option Int)) (hbm : List Int) (rpm : Nat)
  /-- R577: The analogue comparator reaches 115 °C, drives THERM_TRIP_N and holds islands 1 to 15 in
  reset. -/
  | thermTrip
  /-- R578: Speed below MIN_RPM for 2 s forces full duty. -/
  | fanFail
  /-- R578: Speed held above MIN_RPM for 2 s ends the forced duty. -/
  | fanRecovered
  /-- R584: A SOLO PF write of GTS.SET_HI moves the GTS forward. -/
  | gtsSet (snd : Sender) (low : Option Word) (hi : Word)
  /-- R587: Every 100 µs a consist child steps or slews its GTS towards its parent. -/
  | syncCorrect
  /-- R588: No usable parent for 1 ms puts the package in HOLDOVER. -/
  | syncParentLoss
  /-- R590: An event reaches the recorder and is written as a new record, merged or dropped. -/
  | eventIntake
  /-- R593: An open record's merge window passes and it is closed. -/
  | recordClose (seq : Word)
  /-- R595: A write of EVR.SNAP.TAKE copies HEAD and OLDEST in one step. -/
  | evrSnapTake (snd : Sender) (val : Word)
  /-- R597: A closed record is programmed and verified in NOR. -/
  | mirrorProgramDone (us : Nat) (tries : Nat) (ok : Bool)
  /-- R597: A sector erase completes ahead of need. -/
  | norEraseDone (us : Nat) (ok : Bool)
  /-- R600: Every 10 s a suspended mirror retries and resumes from MIRROR_SEQ. -/
  | norRetry (ok : Bool)
  /-- R601: A write of EVR.MREAD.SEQ starts a search of the mirror. -/
  | mread (snd : Sender) (val : Word)
  /-- R601: The search ends with the record in MBUF or FOUND clear. -/
  | mreadDone
  /-- R605: The scrub reads a line, corrects it and may request the frame's retirement. -/
  | hbmScrubLine (line : Fin 1610612736) (err : Option Bool)
  /-- R606: A stack that cannot retrain or retires too many frames is retired with its pools. -/
  | hbmStackFailed (stack : Fin 4) (untrained : Bool)
  /-- R608: An uncorrectable IOD control SRAM error holds islands 1 to 15 in reset. -/
  | fatalStop (sram : Nat)
  /-- R620: A write of 0x7E57 opens the 1 ms unlock window. -/
  | testUnlockOpen (snd : Sender)
  /-- R620: A write of 0x5AFE within the window unlocks test access. -/
  | testUnlockConfirm (snd : Sender)
  /-- R621: A write of 0x0000 locks test access and clears every PG_PERTURB. -/
  | testLock (snd : Sender)
  /-- R620: The 1 ms window passes without 0x5AFE and closes. -/
  | unlockWindowExpiry
  /-- R625: Injection kind 1 arms a residue failure on the next chunk-tile of an ME. -/
  | injResidue (snd : Sender) (val : Word)
  /-- R625: Injection kind 2 stores the next write of a line with one bit inverted. -/
  | injEccCe (snd : Sender) (val : Word)
  /-- R625: Injection kind 3 stores the next write of a line with two bits inverted. -/
  | injEccUe (snd : Sender) (val : Word)
  /-- R625: Injection kind 4 marks a Coupling lane failed. -/
  | injCplLane (snd : Sender) (val : Word)
  /-- R625: Injection kind 5 inverts the CRC of the next COUNT data flits. -/
  | injKlCrc (snd : Sender) (val : Word)
  /-- R625: An armed injection takes effect and BUSY clears. -/
  | faultInjected
  /-- R625: An injection of kind 1 to 3 not hit within 1 s ends NOT_HIT. -/
  | injectNotHit
  /-- R484: The scanner port in WAIT finds paper, a closed cover, no jam, the ring at or below LWM and
  credit under R484, and picks a sheet into FEED. -/
  | sheetPick
  /-- R342: A running pool command, such as the metadata write of a KV CREATE within 1 ms, finishes;
  CMD_STAT.BUSY clears, DONE increments and the next queued command may start. -/
  | poolCmdDone
  /-- R49: In 2 x8 mode a link-down or hot reset on link 1 acts as a function-level reset of function
  15. -/
  | pcieLink1Down
  /-- R545: INSTALL_MS passes while a message still draws RETRY NACKs from a destination with a newer
  epoch, and that destination is treated as unreachable. -/
  | retryWaitExpiry (pkg : Fin 16)
  /-- R244: A tidy-core load or store to scratch, core bay, cluster SRAM, the ARGS block or the HBM
  aperture is checked against the address map, ownership and alignment and performed or faulted. -/
  | tcLoadStore (core : Fin 64) (tc : Fin 2) (ce : Option (Fin 24))
  /-- R264: A tidy core meets an illegal or unimplemented instruction, which is a program error of cause
  ILLEGAL. -/
  | tcIllegalInstruction (core : Fin 64) (tc : Fin 2)
  /-- R633: One second after the last event of class 3 or 4, GPIO2 falls low. -/
  | gpio2PulseEnd
  /-- R633: Every 500 ms while the management firmware runs, GPIO3 toggles. -/
  | gpio3Toggle
  deriving DecidableEq, Repr

end Sys2Proof
end

