-- ==== Sys2Proof/Machine/State.lean ====
section
/-! DEFINITION. The state of one NL-4816 package as plain data: every register of BAR0 in one bank, what
stands behind the page headers, the rings, the Signal Box, the cores, the Yard and every other unit, the
memories and the pins, and the queue of waiting commands. -/

namespace Sys2Proof.Machine

/-! ### Pages (02 R59 to R75) -/

/-- A write in a page's crossing FIFO (02 R64): its sender, its offset in the page, its word; for an 8-byte write of
a pair, the low word (02 R69), with the offset of the high one. -/
structure PostedWrite where
  sender : Sender
  off : Nat
  low : Option Word
  val : Word
  deriving DecidableEq, Repr

/-- A host read that waits behind writes held by a block reset (02 R58, R66): BAR0 offset as its sender gives it,
and whether it is an 8-byte read. -/
structure HeldRead where
  sender : Sender
  off : Nat
  wide : Bool
  deriving DecidableEq, Repr

/-- A doorbell write that waits for an earlier write of its function (02 R53): context, offset in its doorbell
page, value. -/
structure Bell where
  fn : Nat
  ctx : Nat
  off : Nat
  val : Word
  deriving DecidableEq, Repr

/-- How a block is being stopped (04 R151 to R154). -/
inductive Stopping where
  | no
  | disabling
  | draining
  deriving DecidableEq, Repr

/-- The header of one page and what stands behind it (02 R59 to R75). -/
structure Page where
  en : Bool
  freeze : Bool
  quiescent : Bool
  fault : Bool
  stopping : Stopping
  /-- A block reset is running (02 R61). -/
  resetting : Bool
  evRaw : Word
  evEn : Word
  epoch : Half
  ownerCtx : Byte
  locked : Bool
  perturb : Half
  seed : Word
  /-- GTS of the last event (PG_GTS). -/
  evGts : Nat
  pendingCommit : Bool
  commitCount : Half
  /-- The pending snapshot of the page's shadows, by BAR0 offset (02 R71). -/
  snapshot : Tbl Word
  /-- The read latch and the write latch of each function (02 R67). -/
  readLatch : Tbl Word
  writeLatch : Tbl Word
  /-- Posted writes that have not taken effect, oldest first (02 R64). -/
  fifo : List PostedWrite
  /-- Writes held while a block reset runs (02 R66), and the reads behind them (02 R58). -/
  held : List PostedWrite
  heldReads : List HeldRead
  deriving DecidableEq, Repr

/-- A page header after a cold reset: PG_CTL.EN is 1 in the management region (02 R59). -/
def Page.reset (mgmt : Bool) : Page where
  en := mgmt
  freeze := false
  quiescent := true
  fault := false
  stopping := .no
  resetting := false
  evRaw := 0
  evEn := 0
  epoch := 0
  ownerCtx := 0xFF
  locked := false
  perturb := 0
  seed := 0
  evGts := 0
  pendingCommit := false
  commitCount := 0
  snapshot := []
  readLatch := []
  writeLatch := []
  fifo := []
  held := []
  heldReads := []

/-! ### Events and the recorder (18 R590 to R601) -/

/-- An event on its way to the recorder (02 R63, 18 R590): its stamp, its key fields, its 28 bytes of DATA
packed under 18 R649, and whether the package was synchronised when it was stamped (18 R589). -/
structure Event where
  gts : Nat
  src : Half
  code : Half
  ctx : Byte
  func : Byte
  data : List Byte
  synced : Bool
  deriving DecidableEq, Repr

/-- The kind of place an event takes in the intake (18 R594). -/
inductive Place where
  | normal
  | severe
  | mgmt
  deriving DecidableEq, Repr

/-- An event record (18 R591). -/
structure EvRecord where
  seq : Word
  ev : Event
  rep : Word
  lastGts : Nat
  pkg : Byte
  loss : Bool
  valid : Bool
  closed : Bool
  /-- The CRC as stored; a memory error leaves it different from that of the bytes (18 R602). -/
  crc : Half
  deriving DecidableEq, Repr

/-- The recorder, its intake and its NOR mirror. -/
structure Recorder where
  intake : List (Place × Event)
  /-- Events whose sources are held by back-pressure (18 R594), oldest first. -/
  heldSources : List Event
  /-- The 4,096 slots of the recorder SRAM. -/
  slots : Tbl EvRecord
  /-- SEQ of the first record written since the SRAM was last cleared (18 R592). -/
  firstSeq : Word
  /-- Events dropped since the last EVR_LOSS record. -/
  dropsSinceLoss : Nat
  /-- The next record must carry FLAGS.LOSS. -/
  lossFlag : Bool
  /-- Closed records waiting for the mirror, oldest first (18 R597). -/
  toMirror : List EvRecord
  /-- Records held by the NOR mirror with their logical sector, oldest first (18 R597, R601). -/
  mirrored : List (Nat × EvRecord)
  /-- Logical sector and record place that the mirror fills next. -/
  mirrorSector : Nat
  mirrorPlace : Nat
  /-- Sectors erased ahead of need: from the one that `mirrorSector` opens at place 0. -/
  erasedAhead : Nat
  /-- Of each physical sector: erases, and how many of its first 4 erase and program times are known and their
  sum in µs (18 R596). -/
  sectorErases : Tbl Nat
  eraseBase : Tbl (Nat × Nat)
  progBase : Tbl (Nat × Nat)
  /-- Physical sector of each logical sector that has moved to a spare, and its GEN. -/
  sectorMap : Tbl Nat
  sectorGen : Tbl Nat
  /-- Spare sectors already used. -/
  sparesUsed : Nat
  /-- NOR operations in a row that ended in an error (18 R600). -/
  norErrors : Nat
  /-- Time of the last retry of a suspended mirror. -/
  norRetryAt : Nat
  /-- The SEQ searched by MREAD while MREAD_STAT.BUSY is 1. -/
  searching : Option Word
  /-- A record has been lost to the mirror since the mirror last moved on (18 R597). -/
  losing : Bool
  deriving DecidableEq, Repr

/-! ### Power-on, resets, button (03) -/

/-- The resets of 03 R102. -/
inductive ResetKind where
  | cold | warm | recovery | soft
  deriving DecidableEq, Repr

/-- One record of the calibration store (03 R97): its CRC, serial numbers and version are valid, and the
sensor mean at calibration in 1/16 °C. -/
structure CalRecord where
  crcOk : Bool
  serialOk : Bool
  versionOk : Bool
  mean : Int
  deriving DecidableEq, Repr

/-- One copy of the boot record (03 R94): CRC validity, sequence number, active slot. -/
structure BootRecord where
  crcOk : Bool
  seq : Nat
  active : Bool
  deriving DecidableEq, Repr

/-- Pins and the start-up sequencer. -/
structure Boot where
  /-- The power-good inputs in the order of 03 R79: bit 0 PG_AON … bit 7 PG_HBM_VDDQ. -/
  pg : Byte
  /-- REFCLK runs (pin). -/
  refclk : Bool
  /-- The clock monitor has declared REFCLK lost (03 R84). -/
  refLost : Bool
  /-- PG_AON was asserted at this time; the always-on island has left reset (03 R81). -/
  aonSince : Nat
  aonUp : Bool
  /-- Islands 1 to 15 are held in reset. -/
  held : Bool
  /-- A power-good input came out of order before the always-on island left reset (03 R81). -/
  outOfOrder : Bool
  /-- The last T0; T0 or the start of the reset (03 R80), and the end of the last phase. -/
  t0 : Nat
  startAt : Nat
  phaseAt : Nat
  /-- The reset whose phases run; `none` in service or before the first T0. -/
  running : Option ResetKind
  /-- PERST# is asserted; the PCIe SerDes item has ended, and when; when PERST# was released. -/
  perst : Bool
  serdesDone : Bool
  serdesAt : Nat
  perstAt : Nat
  /-- A verified firmware image runs. -/
  fwRuns : Bool
  /-- Phase 3 of the reset running loads the golden slot first (03 R96, R102). -/
  wantGolden : Bool
  /-- The one retry of 03 R91 has been used in this power-on. -/
  retried : Bool
  /-- READY has been set since the last cold, warm or recovery reset (03 R105). -/
  wasReady : Bool
  /-- Phase items of phase 4 that have ended, and the failed attempts of each. -/
  calDone : List Nat
  calTries : Tbl Nat
  /-- Items calibrated in full, whose records are to be written after READY (03 R99). -/
  calFull : List Nat
  /-- Karlund ports disabled by calibration (03 R98). -/
  klDisabled : List Nat
  /-- The AFE offset item failed (03 R98). -/
  afeFailed : Bool
  /-- Retired slices: system cache slice numbers, and cluster × 16 + slice (03 R101). -/
  syscRetired : List Nat
  /-- The images in firmware slots 0 and 1 of NOR pass verification (03 R94, R95). -/
  slot0Good : Bool
  slot1Good : Bool
  /-- The calibration store and the boot records (NOR). -/
  calStore : Tbl CalRecord
  bootA : BootRecord
  bootB : BootRecord
  /-- Reset button: when it was pressed, when it was last released in MASKED. -/
  btnSince : Nat
  btnReleasedAt : Option Nat
  /-- A fatal stop (18 R608) or a THERM_TRIP (17 R577) holds the package. -/
  fatal : Bool
  tripped : Bool
  /-- Whether VAON was lost since the recorder SRAM was last cleared, so that the next cold start clears it. -/
  vaonLost : Bool
  /-- The next record is EVR_BOOT (18 R590). -/
  bootRecordDue : Bool
  deriving DecidableEq, Repr

/-! ### PCIe side (02 R49, 04 R129, R130) -/

/-- MSI-X tables and the last answer to a host read. Vectors are keyed function × 2,048 + vector. -/
structure HostSide where
  /-- The vector is enabled and unmasked; its pending bit; messages sent. -/
  vecOpen : Tbl Bool
  vecPending : Tbl Bool
  vecSent : Tbl Nat
  /-- GTS of the last message on a vector, and vectors with a delayed message (04 R130). -/
  vecLast : Tbl Nat
  vecDelayed : List Nat
  /-- The answer to the last host read. -/
  answer : Word64
  /-- log2 of the size of BAR4 of the PF and of each VF (02 R41, R48). -/
  bar4Log : Nat
  vfBar4Log : Nat
  /-- Doorbell writes that wait, oldest first (02 R53). -/
  bells : List Bell
  /-- The last BAR4 read's bytes and whether it was sent poisoned (18 R604). -/
  bar4Data : List Byte
  bar4Poisoned : Bool
  deriving DecidableEq, Repr

/-! ### Contexts, descriptors, records (04) -/

/-- A fetched descriptor: where it came from, the epoch it was fetched with (04 R145), its bytes, whether it
has been started. `uid` tells descriptors apart. -/
structure Desc where
  uid : Nat
  ctx : Nat
  sq : Nat
  pos : Word
  epoch : Half
  bits : DescBits
  started : Bool
  /-- Its completion notice is on its way. -/
  ending : Bool
  /-- When it was fetched and started (GTS), and the model time at its start. -/
  fetchedAt : Nat
  startedAt : Nat
  startedNow : Nat
  deriving DecidableEq, Repr

/-- A completion record (04 R138). -/
structure Rec where
  tag : Word64
  gts : Nat
  result : Word
  result2 : Word
  sqPos : Half
  status : Byte
  cls : Nat
  sq : Nat
  epoch : Half
  notice : Bool
  more : Bool
  /-- FLAGS.IRQ of the descriptor, for 04 R130; the descriptor's index, for SQn_DONE, when it ends one. -/
  irq : Bool
  ends : Option Word
  deriving DecidableEq, Repr

/-- A completion notice on its way to the Signal Box (01 R33): the context, the tag, and the record to write,
or none for a QUIET descriptor whose status is OK. -/
structure Notice where
  ctx : Nat
  epoch : Half
  entry : Rec
  quiet : Bool
  /-- The gang of a step or prefill RUN, whose notice carries no record (09 R333). -/
  step : Option Nat
  /-- The context is to enter FAULTED (04 R117). -/
  faults : Bool
  deriving DecidableEq, Repr

/-- Whether a QUIESCING context drains (04 R118); an abort runs to its end in one step (04 R119). -/
inductive Quiesce where
  | none | closing
  deriving DecidableEq, Repr

/-- The hidden state of one context (04). -/
structure Ctx where
  /-- Submission tails of the four rings (04 R122). -/
  tails : Tbl Word
  /-- Fetched descriptors that have not completed, in fetch order. -/
  descs : List Desc
  /-- Completed indices of each ring at or above SQn_DONE. -/
  doneAhead : Tbl (List Word)
  /-- Records held by the Signal Box (at most 64) and records held at their sources (04 R124, R125). -/
  held : List Rec
  atSource : List Rec
  /-- Notices that found no place since the last lost-notice record; logged flags of 04 R124 and R125. -/
  lostNotices : Nat
  stallLogged : Bool
  overflowLogged : Bool
  /-- PHASE of the next record. -/
  phase : Bool
  quiesce : Quiesce
  /-- Admission: held, its period start, latency held for the whole period, restored budget waiting for its
  next period boundary (05 R168, R169, R187). -/
  admitted : Bool
  periodAt : Nat
  heldWholePeriod : Bool
  restoredWaiting : Bool
  /-- REPLAY_NO_ROOM logged (05 R184). -/
  noRoomLogged : Bool
  /-- GTS of the last LAT_TOL write (17 R556). -/
  tolWrittenAt : Option Nat
  deriving DecidableEq, Repr

/-- A context that is FREE and has never been used. -/
def Ctx.reset : Ctx where
  tails := []
  descs := []
  doneAhead := []
  held := []
  atSource := []
  lostNotices := 0
  stallLogged := false
  overflowLogged := false
  phase := true
  quiesce := .none
  admitted := false
  periodAt := 0
  heldWholePeriod := false
  restoredWaiting := false
  noRoomLogged := false
  tolWrittenAt := none

/-- A region update that runs or waits (04 R148, R149). -/
structure RegionJob where
  desc : Desc
  region : Nat
  granules : Nat
  started : Bool
  poisoned : Bool
  deriving DecidableEq, Repr

/-- A reader holding a generation of a region (04 R147): the region, the generation, the holder's uid. -/
structure RegionHold where
  region : Nat
  gen : Word
  holder : Nat
  deriving DecidableEq, Repr

/-! ### The Signal Box (05) -/

/-- Where a gang stands (05 R164 to R183). -/
inductive GangPhase where
  | waiting | running | stopping | saving | saved | restoring
  deriving DecidableEq, Repr

/-- A gang: the RUN it executes and how far it is. -/
structure Gang where
  uid : Nat
  ctx : Nat
  /-- The RUN's descriptor; for a decode step of the batch former, the step's own. -/
  desc : Desc
  width : Nat
  phase : GangPhase
  /-- Logical cores held, in gang order; cores of the saved images keep their order. -/
  cores : List Nat
  readyAt : Nat
  sliceAt : Nat
  decidedAt : Nat
  /-- Core cycles charged to the budget but below 1,000 (05 R168). -/
  residueCycles : Nat
  slice : Nat
  replaysOfSlice : Nat
  slicesReplayed : Nat
  /-- Slice-start images exist; a replay restores them (05 R180, R181). -/
  imaged : Bool
  /-- Images take two frames of each core by turns: REPLAY_SAVE at the slice's start (05 R177, R184). -/
  alternate : Bool
  /-- A core has launched an APPEND, a SCATTER or a collective in the slice (19 R618). -/
  noReplay : Bool
  /-- The next slice is a replay. -/
  replaying : Bool
  /-- Save images of the gang's cores not yet finished. -/
  saving : List Nat
  /-- Core whose fault stopped the gang, if any. -/
  failed : Option Nat
  /-- Program entry and argument block (07 R246 to R249). -/
  prog : Nat
  args : List Byte
  result : Word
  /-- Barrier: arrivals and generation (07 R253). -/
  arrivals : Nat
  generation : Nat
  /-- The same at the start of the slice, for a replay. -/
  startBarrier : Nat × Nat
  /-- Sequences of a decode step and their contexts (05 R170). -/
  members : List (Nat × Nat)
  /-- Images written so far: their frames alternate under REPLAY_SAVE (05 R177). -/
  images : Nat
  /-- From the program image (07 R246): REPLAYABLE, LIVE_MASK, pair table, QRECs, held weights regions. -/
  replayable : Bool
  live : BitVec 24
  pairs : List (Nat × Nat)
  qrecs : List (List Byte)
  /-- Class B or Q at the moment it was granted, and the start of its quantum. -/
  budgeted : Bool
  deriving DecidableEq, Repr

/-- The Signal Box beyond its registers. -/
structure Sbox where
  gangs : List Gang
  /-- Cause of the latest change waiting for an evaluation (05 R187), if one is due. -/
  evalDue : Option Nat
  /-- Capacity has changed since the last evaluation (05 R185). -/
  evalChange : Bool
  deriving DecidableEq, Repr

/-- The recorder with its SRAM cleared and the mirror empty. -/
def Recorder.reset : Recorder where
  intake := []
  heldSources := []
  slots := []
  firstSeq := 0
  dropsSinceLoss := 0
  lossFlag := false
  toMirror := []
  mirrored := []
  mirrorSector := 0
  mirrorPlace := 0
  erasedAhead := 0
  sectorErases := []
  eraseBase := []
  progBase := []
  sectorMap := []
  sectorGen := []
  sparesUsed := 0
  norErrors := 0
  norRetryAt := 0
  searching := none
  losing := false

/-- Pins low, nothing powered, an empty calibration store, a boot record that names slot 0. -/
def Boot.reset : Boot where
  pg := 0
  refclk := false
  refLost := false
  aonSince := 0
  aonUp := false
  held := true
  outOfOrder := false
  t0 := 0
  startAt := 0
  phaseAt := 0
  running := none
  perst := true
  serdesDone := false
  serdesAt := 0
  perstAt := 0
  fwRuns := false
  wantGolden := false
  retried := false
  wasReady := false
  calDone := []
  calTries := []
  calFull := []
  klDisabled := []
  afeFailed := false
  syscRetired := []
  calStore := []
  slot0Good := true
  slot1Good := true
  bootA := ⟨true, 1, false⟩
  bootB := ⟨false, 0, false⟩
  btnSince := 0
  btnReleasedAt := none
  fatal := false
  tripped := false
  vaonLost := true
  bootRecordDue := false

/-! ### Cores (07, 08, 09) -/

/-- What a tidy core's stalled instruction waits for (07 R235, R245, R259, 08 R273, 09 R313). -/
inductive Stall where
  | none
  /-- A store of ME_LIST_CNT on ME m of this many slots. -/
  | list (m slots : Nat)
  /-- A store of DM_LAUNCH, WU_LAUNCH, RS_LAUNCH or COLL_LAUNCH of this address. -/
  | dm (q addr : Nat)
  | wu (addr : Nat)
  | rs (addr : Nat)
  | coll (addr : Nat)
  /-- A read of SEM_WAIT or BARRIER into register rd. -/
  | semWait (rd : Nat)
  | barrier (rd : Nat)
  deriving DecidableEq, Repr

/-- One tidy core (07 R242 to R245). -/
structure Tidy where
  x : Tbl Word
  f : Tbl Word
  v : Tbl (BitVec 512)
  fcsr : Byte
  /-- vstart; vxsat in bit 0 and vxrm in bits 2:1. -/
  vstart : Nat
  vcsr : Byte
  vl : Word
  vtype : Word
  pc : Word
  /-- The program's part has started and has not ended. -/
  runs : Bool
  ended : Bool
  halted : Bool
  stall : Stall
  clSel : Nat
  aperFrame : Nat
  waitSem : Nat
  waitVal : Half
  /-- One instruction of a single step is still to run (07 R269). -/
  stepping : Bool
  /-- Instructions retired (07 R242: Zicntr). -/
  instret : Word64
  deriving DecidableEq, Repr

/-- A tidy core at the start of a RUN (07 R248). -/
def Tidy.reset : Tidy where
  x := []
  f := []
  v := []
  fcsr := 0
  vstart := 0
  vcsr := 0
  vl := 0
  vtype := 0x80000000
  pc := 0
  runs := false
  ended := false
  halted := false
  stall := .none
  clSel := 0
  aperFrame := 0
  waitSem := 0
  waitVal := 0
  stepping := false
  instret := 0

/-- A launch of a unit (07 R235, R259, 08 R273, 09 R313, 16 R534): the core-bay address written, the tidy core
that wrote it, the program counter of its store, and its place in the order of the core's launches (09 R315). -/
structure Launch where
  addr : Nat
  tc : Nat
  pc : Word
  order : Nat
  deriving DecidableEq, Repr

/-- One matrix engine (07 R230 to R240): launched lists with their slots, the front list's next slot, the
chunk-tile an MMA split under R234 goes on with, a WAIT that holds it, the accumulator banks as words and
their modes (0 FP32, 1 INT32, 2 S48), the sticky NONFINITE flag. -/
structure MeUnit where
  listAddr : Nat
  lists : List (Launch × Nat)
  slot : Nat
  piece : Nat
  waiting : Bool
  banks : Tbl (List Word)
  modes : Tbl Nat
  nonfinite : Bool
  deriving DecidableEq, Repr

def MeUnit.reset : MeUnit where
  listAddr := 0
  lists := []
  slot := 0
  piece := 0
  waiting := false
  banks := []
  modes := []
  nonfinite := false

/-- One queue of the data mover (07 R258, R259): descriptor addresses and the bytes already moved of the
front one. -/
structure DmQueue where
  descs : List Launch
  moved : Nat
  deriving DecidableEq, Repr

/-- The window unit (08): queued descriptors, items done, whether the front one has been checked and runs,
the CONV's head group, the MEs that have released it, the rows seen through ROW_SEM; BAD and AUX of the
running descriptor; the counts of the slice. -/
structure WuUnit where
  queue : List Launch
  started : Bool
  items : Nat
  headGroup : Nat
  released : List Nat
  rows : Nat
  bad : Nat
  aux : Nat
  badInput : Nat
  dropped : Nat
  /-- Element moves done of the running NMS's sort, candidates tested, the header written (08 R277). -/
  moves : Nat
  tested : Nat
  ended : Bool
  deriving DecidableEq, Repr

def WuUnit.reset : WuUnit where
  queue := []
  started := false
  items := 0
  headGroup := 0
  released := []
  rows := 0
  bad := 0
  aux := 0
  badInput := 0
  dropped := 0
  moves := 0
  tested := 0
  ended := false

/-- The row-statistics unit (09): queued descriptors, items done, what it waits for, the running m, l and
O of each row of the ATTEND in progress as words. -/
structure RsUnit where
  queue : List Launch
  started : Bool
  items : Nat
  /-- The sequence and list entry for which it waits (09 R336). -/
  waitPage : Option (Nat × Nat)
  nonfinite : Nat
  kvNonfinite : Nat
  rescaled : Nat
  /-- Entries of the walk asked for, with the pool and page pinned (10 R369). -/
  ahead : List (Nat × Option (Nat × Nat))
  /-- m, l and O of each row of the ATTEND in progress (09 R317). -/
  rows : Tbl (Word × Word × List Word)
  /-- First working bank of the running ATTEND and how many (09 R315). -/
  work : Nat × Nat
  /-- Rows counted in BAD and AUX; the output has been written. -/
  bad : Nat
  aux : Nat
  written : Bool
  deriving DecidableEq, Repr

def RsUnit.reset : RsUnit where
  queue := []
  started := false
  items := 0
  waitPage := none
  nonfinite := 0
  kvNonfinite := 0
  rescaled := 0
  ahead := []
  rows := []
  work := (0, 0)
  bad := 0
  aux := 0
  written := false

/-- One logical core: its units and its counters of the slice (06 R207). -/
structure Core where
  /-- uid of the gang that holds it, and its index there. -/
  gang : Option Nat
  idx : Nat
  tc0 : Tidy
  tc1 : Tidy
  sems : Tbl Half
  live : BitVec 24
  me : Tbl MeUnit
  dm0 : DmQueue
  dm1 : DmQueue
  wu : WuUnit
  rs : RsUnit
  /-- Collective descriptors launched by this core and not finished (16 R534). -/
  coll : List Launch
  /-- Accumulator saturations and QUANT_NAN of the slice (06 R207). -/
  sat : Nat
  qnan : Nat
  /-- The generation in which the core last arrived at the barrier, and whether it has arrived in the
  current one. -/
  arrivedGen : Option Nat
  arrived : Bool
  deriving DecidableEq, Repr

def Core.reset : Core where
  gang := none
  idx := 0
  tc0 := Tidy.reset
  tc1 := Tidy.reset
  sems := []
  live := 0
  me := []
  dm0 := ⟨[], 0⟩
  dm1 := ⟨[], 0⟩
  wu := .reset
  rs := RsUnit.reset
  coll := []
  sat := 0
  qnan := 0
  arrivedGen := none
  arrived := false

/-- A save image: what a core keeps across a preemption (05 R175): the live mask, the bytes of its live
banks as listed in the bay, its scratches, its units. -/
structure Image where
  live : BitVec 24
  bay : List (Nat × Byte)
  scratch : List Host.Cell
  core : Core
  /-- Poisoned lines of the live banks, from the start of the bay. -/
  poison : List Nat
  /-- The HBM frame of the save area that holds it (05 R177). -/
  frame : Nat
  deriving DecidableEq, Repr

/-- A cluster SRAM slice being cleared for a new owner (07 R229): cluster, slice, new owner. -/
structure SliceClear where
  cl : Nat
  slice : Nat
  owner : Byte
  deriving DecidableEq, Repr

/-! ### The Yard (10) -/

/-- State of a frame (10 R338); an unlisted frame is unassigned. -/
inductive FrameSt where
  | unassigned
  | yardArea
  | pool (p : Nat)
  | retired
  deriving DecidableEq, Repr

/-- State of a page (10 R372); an unlisted page of a KV pool is FREE. -/
inductive PageSt where
  | free | filling | resident | draining | dead
  deriving DecidableEq, Repr

/-- A page of a KV pool: REF, PIN, state, owner sequence while its list refers to it (the charge of 10 R348),
time of last use, marked to become DEAD. -/
structure KvPage where
  ref : Nat
  pin : Nat
  st : PageSt
  owner : Option Nat
  lastUse : Nat
  retire : Bool
  deriving DecidableEq, Repr

def KvPage.reset : KvPage := ⟨0, 0, .free, none, 0, false⟩

/-- A pool beyond its registers: its frames in assignment order, its pages. -/
structure Pool where
  frames : List Nat
  npages : Nat
  pages : Tbl KvPage
  deriving DecidableEq, Repr

/-- A written pool command (10 R342): pool, OP, CMD_FIRST, CMD_COUNT. -/
structure PoolCmd where
  pool : Nat
  op : Nat
  first : Nat
  count : Nat
  deriving DecidableEq, Repr

/-- An entry of the prefix directory (10 R359). -/
structure DirEntry where
  key : Word64
  parent : Option Nat
  pool : Nat
  page : Nat
  modelId : Word64
  lastUse : Nat
  children : Nat
  deriving DecidableEq, Repr

/-- A swap record (10 R366): at the peer or in the Siding, first unit, units, CRC-32C, marked bad. -/
structure SwapRec where
  atPeer : Bool
  unit : Nat
  units : Nat
  crc : Word
  bad : Bool
  /-- CONSIST_EPOCH carried by a spill to the peer (10 R371). -/
  consist : Nat
  deriving DecidableEq, Repr

/-- Kinds of page request (10 R350), coded 1 to 4 in ALLOC_FAILED. -/
inductive ReqKind where
  | new | cow | fetch | restore
  deriving DecidableEq, Repr

/-- A page request: its sequence and list entry, the core that waits for it, if one does, and when it reached
step 4 of 10 R350, if it has. -/
structure PageReq where
  kind : ReqKind
  pool : Nat
  seq : Nat
  entry : Nat
  core : Option Nat
  since : Nat
  waiting : Option Nat
  deriving DecidableEq, Repr

/-- A transfer of the copier (10 R356): COW, FETCH or RESTORE into page `dst`, or a spill or write-out of
page `src` into record `recNo`. -/
structure Transfer where
  kind : ReqKind
  seq : Nat
  entry : Nat
  pool : Nat
  src : Nat
  dst : Nat
  recNo : Nat
  core : Option Nat
  /-- The owning context's epoch (10 R356). -/
  epoch : Half
  deriving DecidableEq, Repr

/-- A write intent (10 R354): the core whose unit waits, its sequence and entry; whether it has been granted,
and whether copy-on-write or a fetch runs for it. -/
structure Intent where
  core : Nat
  seq : Nat
  entry : Nat
  granted : Bool
  busy : Bool
  deriving DecidableEq, Repr

/-- A spill under RECOVERY mode (10 R368). -/
structure Spill where
  pool : Nat
  page : Nat
  seq : Nat
  entry : Nat
  recNo : Nat
  epoch : Half
  deriving DecidableEq, Repr

/-- A victim being written out (10 R364): entries left with page and record, pages written. -/
structure WriteOut where
  seq : Nat
  left : List (Nat × Nat × Nat)
  total : Nat
  epoch : Half
  deriving DecidableEq, Repr

/-- The Yard beyond its registers. -/
structure Yard where
  frames : Tbl FrameSt
  retiring : List Nat
  created : Bool
  pools : Tbl Pool
  cmds : List PoolCmd
  /-- The command whose metadata write is not finished. -/
  running : Option PoolCmd
  dir : Tbl DirEntry
  swap : Tbl SwapRec
  reqs : List PageReq
  transfers : List Transfer
  intents : List Intent
  spills : List Spill
  writeOuts : List WriteOut
  /-- Pre-empted sequences in the order of pre-emption. -/
  preempted : List Nat
  /-- Running flush: the pool, or none for ALL. -/
  flush : Option (Option Nat)
  deriving DecidableEq, Repr

/-! ### Sequences and the text unit (09 R328 to R335, 11) -/

/-- The kept grammar machine of a sequence (11 R382, R401). -/
structure GramState where
  region : Nat
  gen : Word
  st : Nat
  stack : List Nat
  deriving DecidableEq, Repr

/-- A piece of tokeniser input (11 R388, R390): a pre-token's bytes, or bytes resolved as invalid. -/
inductive Pre where
  | text (bs : List Byte)
  | invalid (bs : List Byte)
  deriving DecidableEq, Repr

/-- Where a pre-empted sequence stands (10 R364, R365). -/
inductive PreSt where
  | inPlace | writing | out | restoring
  deriving DecidableEq, Repr

/-- The SEQ_APPEND in progress of a sequence. -/
structure Appending where
  desc : Desc
  /-- Tokens waiting for prefill; pre-tokens waiting for TXT; the generation of its regions is held. -/
  tokens : List Nat
  pretoks : List Pre
  /-- Input bytes that TXT has yet to tokenise (11 R409). -/
  inLeft : Nat
  /-- Positions appended, tokens generated, text bytes written. -/
  appended : Nat
  generated : Nat
  written : Nat
  /-- A prefill or step RUN that uses the sequence is running: the gang's uid. -/
  gang : Option Nat
  /-- Key of the logit row waiting for its token step, and whether its mask is ready. -/
  row : Option Nat
  maskReady : Bool
  /-- Vocabulary and grammar regions in use. -/
  vocab : Option Nat
  grammar : Option Nat
  /-- Counts of its events: bytes resolved as invalid, cut pre-tokens, calls of note_nonfinite. -/
  invalidBytes : Nat
  splits : Nat
  nonfinite : Nat
  /-- The order in which sequences became ready (09 R328). -/
  readyAt : Nat
  deriving DecidableEq, Repr

/-- What the model header gives a sequence at SEQ_OPEN: the geometry of its pages, its ring, its spread (09 R307,
R310, R319, R334). -/
structure Geo where
  fmt : Nat
  layers : Nat
  kvh : Nat
  d : Nat
  wPages : Nat
  spreadN : Nat
  spreadIdx : Nat
  group : Nat
  deriving DecidableEq, Repr

/-- An open sequence. `base` positions were held when it was opened; `nextPos` gives the next position of each
block, by layer × 64 + KV head (09 R327). -/
structure Seq where
  ctx : Nat
  pool : Nat
  block : Nat
  region : Nat
  seed : Word64
  maxTokens : Nat
  geo : Geo
  modelId : Word64
  base : Nat
  nextPos : Tbl Nat
  len : Nat
  /-- The kept token of 09 R332, and the token chosen for the next decode step. -/
  pendingTok : Option Nat
  nextTok : Option Nat
  /-- Operations on the sequence in the order in which they started (09 R331). -/
  ops : List Nat
  /-- The vocabulary region that TXT.VOCAB_MAP gave each SEQ_APPEND of them at its start (11 R409). -/
  vocabs : List (Nat × Option Nat)
  act : Option Appending
  /-- A lost sequence and the status its descriptors get (10 R367, R371). -/
  lost : Option Byte
  pre : PreSt
  restoreAt : Nat
  lastAppend : Nat
  carry : List Byte
  hold : List Byte
  wroteCp : Bool
  gram : Option GramState
  firstInput : Bool
  deriving DecidableEq, Repr

/-- A step or prefill RUN in flight (09 R329, R330): its members as (sequence, token, position), the key of
the first logit row, the row bytes, and the tokens of a prefill chunk. -/
structure StepRun where
  gang : Nat
  members : List (Nat × Nat × Nat)
  logits : Option Nat
  rowBytes : Nat
  prefill : List Nat
  deriving DecidableEq, Repr

/-- The batch former and the text unit. -/
structure Text where
  seqs : Tbl Seq
  steps : List StepRun
  stepCount : Nat
  /-- Sequences whose rows wait for a token step, in the order of acceptance (09 R333). -/
  rows : List Nat
  deriving DecidableEq, Repr

/-! ### Media and cameras (12, 13) -/

/-- A Roundhouse buffer (12 R426 to R428): its offset in the media pool, its size, its mark (0 unused, 1
short-term, 2 long-term). -/
structure MBuf where
  off : Nat
  size : Nat
  mark : Nat
  deriving DecidableEq, Repr

/-- The settings of a tap, and of a camera's tensor branch (12 R429, 13 R452). -/
structure TapCfg where
  boxes : Bool
  colour : Nat
  matrix : Nat
  packed : Bool
  outW : Nat
  outH : Nat
  x0 : Nat
  y0 : Nat
  cw : Nat
  ch : Nat
  dst : Word64
  slotBytes : Nat
  nslot : Nat
  pitch : Nat
  maxBox : Nat
  progress : Word64
  credit : Word64
  mul : List Word
  add : List Word
  sx : Word
  sy : Word
  deriving DecidableEq, Repr

/-- An attached tap and the pictures it has written (12 R432). -/
structure Tap where
  cfg : TapCfg
  written : Word
  deriving DecidableEq, Repr

/-- A STREAM_TAP waiting for a picture boundary (12 R435); `cfg` is none for a detach. -/
structure TapChange where
  desc : Desc
  tap : Nat
  cfg : Option TapCfg
  deriving DecidableEq, Repr

/-- An access-unit or input record read from a bound ring (12 R417, R437), and when it was queued. -/
structure AuRec where
  pos : Word
  epoch : Half
  bits : DescBits
  queuedAt : Nat
  deriving DecidableEq, Repr

/-- A tap of the picture in progress: its number, its settings, whether it writes, skips or has not begun,
rows or boxes done, malformed boxes. -/
structure PicTap where
  tap : Nat
  cfg : TapCfg
  begun : Bool
  writes : Bool
  done : Nat
  bad : Nat
  deriving DecidableEq, Repr

/-- A picture in progress on a decoder core. -/
structure Picture where
  entry : AuRec
  core : Nat
  info : PicInfo
  stale : Bool
  /-- Pictures begun by the stream before this one; its serial number for the free sample values. -/
  number : Nat
  serial : Nat
  /-- Buffers taken by frames that are not shown, and the buffer of the picture. -/
  hidden : List Nat
  buf : Nat
  taps : List PicTap
  overrun : Bool
  /-- Linked encoders that have received or skipped it. -/
  linked : List Nat
  deriving DecidableEq, Repr

/-- A decode stream (12 R415 to R435). -/
structure DecStream where
  ctx : Nat
  ring : Nat
  codec : Nat
  depth : Nat
  maxW : Nat
  maxH : Nat
  pool : Nat
  stale : Nat
  bufs : List MBuf
  taps : Tbl Tap
  changes : List TapChange
  queue : List AuRec
  pic : Option Picture
  begun : Nat
  decoded : Nat
  others : Nat
  waiting : Bool
  skipRasl : Bool
  /-- The STREAM_CLOSE in progress, and whether it drains to this tail. -/
  closing : Option Desc
  drainTo : Option Word
  deriving DecidableEq, Repr

/-- A picture in an encoder's input stage or being encoded (12 R437 to R441). -/
structure EncPic where
  tag : Word64
  irq : Bool
  quiet : Bool
  /-- Ring index of its FRAME record. -/
  pos : Option Word
  epoch : Half
  capture : Nat
  /-- Input buffer that holds it. -/
  buf : Nat
  core : Option Nat
  queuedAt : Nat
  /-- Its FRAME record has DISCONT: it is coded as an IDR picture (12 R437). -/
  idr : Bool
  deriving DecidableEq, Repr

/-- The PARAM block of an encode stream (12 R436). -/
structure EncParam where
  ring : Nat
  linked : Bool
  rotate : Nat
  mirror : Bool
  outW : Nat
  outH : Nat
  x0 : Nat
  y0 : Nat
  cw : Nat
  ch : Nat
  src : Nat
  gop : Nat
  rc : Nat
  qp : Nat
  kbps : Nat
  out : Word64
  outBytes : Nat
  gtsStart : Nat
  gtsEnd : Nat
  deriving DecidableEq, Repr

/-- An encode stream. -/
structure EncStream where
  ctx : Nat
  /-- The ring that carried the STREAM_OPEN. -/
  openSq : Nat
  codec : Nat
  pool : Nat
  param : EncParam
  bufs : List MBuf
  queue : List AuRec
  pics : List EncPic
  count : Nat
  encoded : Nat
  others : Nat
  /-- The next picture must be an IDR picture. -/
  wantIdr : Bool
  /-- The stream's coding history, the vectors of its last picture, and the capture time and bytes of the access units
  of the last second of capture time (12 R439, R440). -/
  hist : Nat
  vectors : List (Int × Int)
  recent : List (Nat × Nat)
  outPos : Nat
  lastCore : Nat
  closing : Option Desc
  drainTo : Option Word
  deriving DecidableEq, Repr

/-- The PARAM block of a camera stream (13 R452) with the descriptor's PORT and STALE_NS. -/
structure CamParam where
  port : Nat
  stale : Nat
  exposures : Nat
  cfa : Nat
  tensor : Bool
  yuv : Bool
  quiet : Bool
  width : Nat
  height : Nat
  vcs : List Nat
  dts : List Nat
  embVc : Nat
  embLines : Nat
  hdrLag : Nat
  frameUs : Nat
  firstMs : Nat
  table : Nat
  embBuf : Word64
  tap : TapCfg
  nbuf : Nat
  deriving DecidableEq, Repr

/-- A frame in a receiver's FIFO or in its pipeline (13 R455 to R458). Lines are keyed exposure × 65,536 +
line; a damaged line lists what replaces it. -/
structure CamFrame where
  number : Nat
  gts : Nat
  lines : Tbl (List Nat)
  /-- Lines seen of each exposure, and exposures whose frame end has come. -/
  seen : Tbl Nat
  ends : List Nat
  damaged : List Nat
  isDamaged : Bool
  overflow : Bool
  ended : Bool
  dispatched : Bool
  /-- The pipeline discards every line; the frame's status. -/
  discard : Option Byte
  writes : Bool
  overrun : Bool
  /-- Tensor rows and YUV row pairs written; input lines processed. -/
  rows : Nat
  yuvRows : Nat
  lineNo : Nat
  /-- Serial number for region holds. -/
  serial : Nat
  emb : Nat
  /-- Linked encoders that have received or skipped it. -/
  linked : List Nat
  deriving DecidableEq, Repr

/-- A camera stream. -/
structure CamStream where
  ctx : Nat
  sq : Nat
  pool : Nat
  p : CamParam
  bufs : List MBuf
  frames : List CamFrame
  begun : Nat
  okCount : Nat
  others : Nat
  written : Word
  /-- ISP table generations found good. -/
  checked : List Word
  openedAt : Nat
  deskewLogged : Bool
  presentLogged : Bool
  /-- The STREAM_CLOSE in progress. -/
  closing : Option Desc
  deriving DecidableEq, Repr

/-- A CCI transfer or sequence (13 R466, R467): read, entry number, entries left after it, target address. -/
structure CciJob where
  read : Bool
  entry : Nat
  left : Nat
  seq : Bool
  /-- It waits for the next frame end; that frame end has come. -/
  waitFe : Bool
  feSeen : Bool
  addr : Nat
  /-- Register address, its width, and the bytes to send or how many to read. -/
  reg : Nat
  reg16 : Bool
  len : Nat
  data : Word
  deriving DecidableEq, Repr

/-- A camera port beyond its registers: its CCI job, time of the last SoT. -/
structure Port where
  cci : Option CciJob
  lastSot : Nat
  /-- Bytes the CCI master sent in its last write transfer, first byte first. -/
  sent : List Byte
  deriving DecidableEq, Repr

/-- All streams by object index, and the ports. -/
structure Media where
  decs : Tbl DecStream
  encs : Tbl EncStream
  cams : Tbl CamStream
  ports : Tbl Port
  deriving DecidableEq, Repr


/-! ### The scanner port (14) -/

/-- The open scan job (14 R481) and how far it is. -/
structure ScanJob where
  desc : Desc
  dst : Word64
  slotBytes : Nat
  nslot : Nat
  onButton : Bool
  shading : Bool
  btnStop : Bool
  x0 : Nat
  width : Nat
  maxLines : Nat
  credit : Word64
  trayMs : Nat
  dpi : Nat
  sides : Nat
  colour : Bool
  maxPages : Nat
  pool : Nat
  /-- Sheets picked, page records written, a press seen since the job was accepted, a MODE 0 abort pending. -/
  picked : Nat
  pages : Nat
  pressed : Bool
  abort0 : Bool
  /-- SCAN_ABORT descriptors that wait for the final record; the final status once the job has ended. -/
  aborts : List Desc
  final : Option Byte
  /-- When the wait for paper in the tray began. -/
  waitSince : Nat
  deriving DecidableEq, Repr

/-- One side of a sheet: native lines stored and processed, output lines written. -/
structure SideSt where
  stored : Nat
  processed : Nat
  out : Nat
  truncated : Bool
  deriving DecidableEq, Repr

/-- A sheet whose page record is not yet written. `rows` holds the horizontally filtered native lines that
have been processed, by side × 2^20 + native line: one list for each channel after the other. -/
structure Sheet where
  page : Nat
  /-- GTS at the start of the first stored line. -/
  gts : Option Nat
  lead : Option Int
  trail : Option Int
  front : SideSt
  back : SideSt
  rows : Tbl (List Nat)
  /-- Its status once no further line is stored. -/
  ended : Option Byte
  deriving DecidableEq, Repr

/-- A line in the ring: its sheet, its native line index on each side that stores it, the raw samples of the
six channels. -/
structure RingLine where
  page : Nat
  front : Option Nat
  back : Option Nat
  raw : List (List Nat)
  deriving DecidableEq, Repr

/-- The scanner port beyond its registers. -/
structure Scanner where
  job : Option ScanJob
  sheets : List Sheet
  ring : List RingLine
  /-- Index of the next line from the sheet's pick, and the index at which the present state began to count. -/
  line : Nat
  countFrom : Nat
  /-- CLEAR: the line at which PAPER_EDGE showed no paper. -/
  clearFrom : Option Nat
  /-- The ring has reached HWM; the line in progress is the last before the halt. -/
  haltNext : Bool
  /-- The second settling of a restart; when the present one began; lines reversed. -/
  settle2 : Bool
  settleAt : Nat
  reversed : Nat
  /-- The cable was seen absent in FAULT. -/
  unplugged : Bool
  /-- Shading tables by i × 10,240 + p. -/
  dark : Tbl Nat
  gain : Tbl Nat
  /-- Calibration in progress: operation and lines. -/
  cal : Option (Nat × Nat)
  deriving DecidableEq, Repr

def Scanner.reset : Scanner where
  job := none
  sheets := []
  ring := []
  line := 0
  countFrom := 0
  clearFrom := none
  haltNext := false
  settle2 := false
  settleAt := 0
  reversed := 0
  unplugged := false
  dark := []
  gain := []
  cal := none


/-! ### Sample pipelines (15) -/

/-- An augmentation entry (15 R509). -/
structure SmpOp where
  op : Nat
  kinds : Nat
  p : Nat
  a : Word
  b : Word
  c : Nat
  d : Nat
  fill : Word
  deriving DecidableEq, Repr

/-- The run block (15 R512). -/
structure SmpBlock where
  slot0 : Word64
  slotBytes : Nat
  nslot : Nat
  packed : Bool
  outC : Nat
  outW : Nat
  outH : Nat
  maxTokens : Nat
  pad : Word
  pool : Nat
  mul : List Word
  add : List Word
  credit : Word64
  ops : List SmpOp
  deriving DecidableEq, Repr

/-- A final entry of a step (15 R515): dataset index, status, tokens written, label. -/
structure SmpEntry where
  index : Nat
  status : Byte
  len : Nat
  label : Nat
  padding : Bool
  deriving DecidableEq, Repr

/-- A step not yet released: its number and the entries that are final, by offset. -/
structure SmpStep where
  step : Nat
  done : Tbl SmpEntry
  deriving DecidableEq, Repr

/-- A run of a pipeline (15 R518, R519). -/
structure SmpRun where
  desc : Desc
  pipe : Nat
  seed : Word64
  epoch : Nat
  first : Nat
  steps : Nat
  batch : Nat
  n : Nat
  dataset : Word64
  block : SmpBlock
  /-- Next position to issue, open steps, steps released, samples not OK, the first rejected index. -/
  next : Nat
  opened : List SmpStep
  released : Nat
  notOk : Nat
  rejects : Nat
  firstBad : Option Nat
  queuedAt : Nat
  /-- POISON_CONSUMED has been logged for the descriptor (18 R604). -/
  poisoned : Bool
  deriving DecidableEq, Repr

/-- A lane at work: the run's descriptor, the position, its working buffers. -/
structure SmpLane where
  run : Nat
  pos : Nat
  bufs : List (Nat × Nat)
  deriving DecidableEq, Repr

/-- The sample pipelines. -/
structure Smp where
  runs : List SmpRun
  lanes : Tbl SmpLane
  deriving DecidableEq, Repr


/-! ### Power and heat (17) -/

/-- A change of a die's clock in progress (17 R573): the new clock, its cause (0 neither, 1 lim, 2 therm_cap),
whether it raises the clock, whether the clock has switched and only the voltage is awaited. -/
structure ClockStep where
  mhz : Nat
  cause : Nat
  raising : Bool
  switched : Bool
  deriving DecidableEq, Repr

/-- An exit from a power state, or an abandoned entry (17 R564, R565): the state left, the state it goes to,
the cause, when it began, whether an entry was abandoned. -/
structure Leaving where
  left : Nat
  target : Nat
  cause : Nat
  since : Nat
  abandoned : Bool
  deriving DecidableEq, Repr

/-- The governor and thermal control beyond their registers. -/
structure Power where
  /-- lim, the milliseconds it has been 200 MHz, and when a sample last lowered it (17 R571, R572). -/
  lim : Nat
  limMs : Nat
  limFastAt : Option Nat
  /-- Power samples, newest first, in 0.1 W; energy below 1 mJ in 10 µJ. -/
  samples : List Nat
  energyPart : Nat
  /-- When the entry in progress began; the exit in progress. -/
  entering : Option Nat
  leaving : Option Leaving
  /-- Compute has been idle since this time. -/
  idleSince : Option Nat
  steps : Tbl ClockStep
  /-- Rails that do not respond (17 R574), and when each was last tried. -/
  avsBad : Tbl Nat
  /-- Successive readings at 105 °C by die, dies whose clocks are stopped, and when each cap last moved. -/
  hot : Tbl Nat
  stopped : List Nat
  capDownAt : Tbl Nat
  capUpAt : Tbl Nat
  fanLowSince : Option Nat
  fanHighSince : Option Nat
  /-- A start-up phase is held for heat (03 R93). -/
  bootHold : Bool
  /-- By die, the clock point whose FUSE voltage its rail has, where that is not 1,000 MHz (03 R83, 17 R573). -/
  rails : Tbl Nat
  deriving DecidableEq, Repr

def Power.reset : Power where
  lim := 1500
  limMs := 0
  limFastAt := none
  samples := []
  energyPart := 0
  entering := none
  leaving := none
  idleSince := none
  steps := []
  avsBad := []
  hot := []
  stopped := []
  capDownAt := []
  capUpAt := []
  fanLowSince := none
  fanHighSince := none
  bootHold := false
  rails := []

/-- Pins of the package that no register shows (03, 17 R568, R577, 20 R633): PCIE_WAKE_N and THERM_TRIP_N as
levels, GPIO2 and the last event of class 3 or 4, GPIO3, the value sampled from GPIO6 and GPIO7. -/
structure Pins where
  wakeN : Bool
  thermTripN : Bool
  gpio2 : Bool
  severeAt : Nat
  gpio3 : Bool
  gpio3At : Nat
  i3cSel : Nat
  deriving DecidableEq, Repr

def Pins.reset : Pins := ⟨true, true, false, 0, false, 0, 0⟩

/-! ### Karlund links, consists, collectives, Couplings (16), time across a consist (18) -/

/-- A Karlund port beyond its registers: unacknowledged flits, oldest first, each holding one message; when
the oldest was last sent and how often it has been replayed; flits received in good order; time of the last
heartbeat, its departure stamp and its arrival (18 R586); time of the last own heartbeat; times of UP and
DOWN; data flits whose CRC is to be inverted (19 R625); trained and waiting for the first heartbeat. -/
structure KlPort where
  replay : List KlMsg
  sentAt : Nat
  replays : Nat
  rxGood : Nat
  hbAt : Nat
  hbEcho : Option (Nat × Nat)
  hbSentAt : Nat
  upAt : Nat
  downAt : Nat
  crcBad : Nat
  locked : Bool
  hops : Nat
  offset : Int
  deriving DecidableEq, Repr

def KlPort.reset : KlPort := ⟨[], 0, 0, 0, 0, none, 0, 0, 0, 0, false, 0, 0⟩

/-- A collective that has started (16 R534 to R541): the core that launched it and its gang, its place in
COLL_PEND, its parameters, when it was launched, the chunks this member has written, the next chunk it sends
of its own data, its copies of the chunks it has sent (16 R539), retransmissions, and the status that ends it. -/
structure CollOp where
  core : Nat
  gang : Nat
  idx : Nat
  ctx : Nat
  addr : Nat
  op : Nat
  dtype : Nat
  group : Nat
  seq : Word
  rank : Nat
  n : Nat
  root : Nat
  len : Nat
  src : Word64
  dst : Word64
  sig : Option Nat
  timeoutUs : Nat
  resAddr : Nat
  startedAt : Nat
  next : Nat
  written : List (Nat × Nat)
  seen : List (Bool × Nat × Nat)
  copies : List Chunk
  processed : Nat
  retrans : Nat
  status : Option Byte
  deriving DecidableEq, Repr

/-- A form 11 access of this package in flight (16 R532): its number, the peer, the address there, the bytes to
write or the length to read; and its end: the status, and what was read. -/
structure PeerAcc where
  txn : Nat
  pkg : Nat
  addr : Nat
  data : Option (List Byte)
  len : Nat
  deriving DecidableEq, Repr

/-- Links and consist. -/
structure Kl where
  ports : Tbl KlPort
  /-- Next sequence number to each package, next one expected of each, messages ahead of it (16 R530). -/
  txSeq : Tbl Word
  rxNext : Tbl Word
  rxHeld : List KlMsg
  /-- Messages delivered and not yet acted on, with their source. -/
  inbox : List (Nat × KlBody)
  /-- Messages sent that a RETRY NACK may ask for again; messages under RETRY with the time of the last NACK
  and of the first; destinations treated as unreachable (16 R545). -/
  sent : List KlMsg
  retry : List (KlMsg × Nat × Nat)
  shut : List Nat
  /-- Consist traffic is held since a stale NACK with this epoch (16 R545); the messages held. -/
  holding : Option (Half × Nat)
  heldOut : List KlMsg
  fenceSince : Option Nat
  unreachLogged : List Nat
  /-- USABLE of each port as the last route computation took it. -/
  usableSeen : List Nat
  peerAccs : List PeerAcc
  peerStatus : Option Byte
  peerData : List Byte
  peerBad : List Nat
  /-- Messages for which no port in use was left; the router sends them once a route is back (16 R525, R530). -/
  stranded : List KlMsg
  /-- Source and epoch of every message for which CONSIST_STALE_DROP has been logged (16 R545). -/
  staleLogged : List (Nat × Nat)
  ops : List CollOp
  deriving DecidableEq, Repr

def Kl.reset : Kl := ⟨[], [], [], [], [], [], [], [], none, [], none, [], [], [], none, [], [], [], [], []⟩

/-- Time synchronisation (18 R585 to R588): the last 16 samples as (theta, rtt), newest first; the kept
theta; successive kept samples within 100 ns; since when no parent is usable; the last slew in 0.1 ns for
each 100 µs; tenths of ns owed; counts to omit. -/
structure Sync where
  samples : List (Int × Int)
  theta : Int
  good : Nat
  lostSince : Option Nat
  rate : Int
  part : Int
  skip : Nat
  /-- The GTS PLL runs: counts of 1 ns (01 R40). -/
  pll : Bool
  deriving DecidableEq, Repr

def Sync.reset : Sync := ⟨[], 0, 0, none, 0, 0, 0, true⟩

/-- The Couplings (01 R25, R26, 16 R548 to R551): failed lanes as (Coupling, direction, bundle, lane), bundles
out of service as (Coupling, direction, bundle), failed Couplings. Coupling 0 is CD0–CD1, 1 and 2 join CD0 and
CD1 to the IOD; direction 0 leaves CD0, or the compute die. -/
structure Cpl where
  lanes : List (Nat × Nat × Nat × Nat)
  injected : List (Nat × Nat × Nat × Nat)
  out : List (Nat × Nat × Nat)
  failed : List Nat
  deriving DecidableEq, Repr

/-! ### Test access (19) -/

/-- An armed injection (19 R625). -/
structure Injection where
  kind : Nat
  unit : Nat
  target : Nat
  addr : Word64
  since : Nat
  /-- It has taken effect and is to be reported. -/
  hit : Bool
  deriving DecidableEq, Repr

/-- When the unlock window opened; the armed injection; memory faults stored by line: correctable or not. -/
structure Test where
  windowAt : Nat
  inj : Option Injection
  deriving DecidableEq, Repr

/-- Memory supervision (18 R602 to R606): corrected errors of each frame as times of GTS; retirement requests
of each stack as times; stacks retired. -/
structure Scrub where
  corrected : Tbl (List Nat)
  requests : Tbl (List Nat)
  retired : List Nat
  deriving DecidableEq, Repr

/-! ### The whole package -/

/-- The state of the package. -/
structure State where
  /-- Commands that wait, first in, first out. -/
  pending : List Instr
  /-- Model time in ns, and the GTS counter (18 R582). -/
  now : Nat
  gts : Nat
  /-- Cycles of domain 0 counted towards a 5 ns GTS step (01 R40). -/
  gtsPart : Nat
  /-- Serial number of the next descriptor, gang or job, and of the next free value. -/
  uid : Nat
  free : Nat
  /-- The register bank, by BAR0 offset: block-specific words; shadowed registers hold their shadow. -/
  regs : Tbl Word
  /-- The active values of shadowed registers (02 R70). -/
  active : Tbl Word
  /-- RWL words that have been written and locked (00 R5), by BAR0 offset. -/
  rwl : List Nat
  /-- Page headers by slot; an unlisted page is as a cold reset leaves it. -/
  pages : Tbl Page
  host : HostSide
  boot : Boot
  evr : Recorder
  /-- HBM, cluster SRAM, scratches, host memory and peer memory, by the keys of Machine/Memory.lean. -/
  mem : List Host.Cell
  /-- Poisoned 64-byte lines by line number, rising (18 R603). -/
  poison : List Nat
  /-- Core bays: written bytes by core × 2^21 + address, rising; and how often each bank (core × 32 + bank)
  was made undefined. -/
  bay : List Host.Cell
  bayGen : Tbl Nat
  /-- Lines of a core bay or scratch holding poison, and latent memory errors by line: true uncorrectable. -/
  latent : Tbl Bool
  ctxs : Tbl Ctx
  /-- Completion notices on their way to the Signal Box, oldest first. -/
  notices : List Notice
  regionJobs : List RegionJob
  regionHolds : List RegionHold
  sbox : Sbox
  cores : Tbl Core
  /-- Save images by context × 128 + frame of the save area (05 R177). -/
  images : Tbl Image
  sliceClears : List SliceClear
  /-- Compute dies cut off from the package (16 R551). -/
  cutOff : List Nat
  yard : Yard
  text : Text
  media : Media
  scan : Scanner
  smp : Smp
  pwr : Power
  pins : Pins
  kl : Kl
  sync : Sync
  cpl : Cpl
  test : Test
  scrub : Scrub
  deriving DecidableEq, Repr

/-- The machine after a cold reset with every pin low and VAON not yet good: every register at its Reset
column, nothing running, no memory written. -/
def State.reset : State where
  pending := []
  now := 0
  gts := 0
  gtsPart := 0
  uid := 0
  free := 0
  regs := []
  active := []
  rwl := []
  pages := []
  host := ⟨[], [], [], [], [], 0, 28, 26, [], [], false⟩
  boot := Boot.reset
  evr := Recorder.reset
  mem := []
  poison := []
  bay := []
  bayGen := []
  latent := []
  ctxs := []
  notices := []
  regionJobs := []
  regionHolds := []
  sbox := ⟨[], none, false⟩
  cores := []
  images := []
  sliceClears := []
  cutOff := []
  yard := ⟨[], [], false, [], [], none, [], [], [], [], [], [], [], [], none⟩
  text := ⟨[], [], 0, []⟩
  media := ⟨[], [], [], []⟩
  scan := Scanner.reset
  smp := ⟨[], []⟩
  pwr := Power.reset
  pins := Pins.reset
  kl := Kl.reset
  sync := Sync.reset
  cpl := ⟨[], [], [], []⟩
  test := ⟨0, none⟩
  scrub := ⟨[], [], []⟩

/-- No step of this block ends in a fault: the package reports every error as an event, a status or a
reset (02 R78, 04 R140). The one reason stands for a command queue that the host corrupts; nothing raises
it (safe). -/
inductive Fault where
  /-- Raised by no command. -/
  | none
  deriving DecidableEq, Repr

/-- Why a command has no effect at all in the model. -/
inductive Refusal where
  /-- The command's meaning is not written yet; raised by its arm of `exec` alone (safe). -/
  | notModelled (mnemonic : String)
  deriving DecidableEq, Repr

end Sys2Proof.Machine
end

