-- ==== Sys2Proof/Machine/Memory.lean ====
section
/-! DEFINITION. The memories as one list of (key, byte) pairs, keys strictly rising and no entry equal to
what an unlisted key reads as, and the poison marks of its 64-byte lines. HBM, the cluster SRAMs, the
tidy-core scratches, host memory and peer packages' HBM each have a range of keys (01 R21, 04 R131,
07 R244). Core bays stand beside it, because their unlisted bytes can be undefined (07 R248). -/

namespace Sys2Proof.Machine

/-- Bytes of HBM: 96 GiB (01 R21). -/
def hbmBytes : Nat := 0x1800000000

/-- Key of HBM byte `b`. -/
def kHbm (b : Nat) : Nat := b

/-- Key of byte `x` of cluster `c`'s SRAM. -/
def kSram (c x : Nat) : Nat := 0x10000000000 + c * 0x1000000 + x

/-- Key of byte `a` of the scratch of tidy core `t` of logical core `c`. -/
def kScratch (c t a : Nat) : Nat := 0x20000000000 + c * 0x20000 + t * 0x10000 + a

/-- Key of host bus address `a`. -/
def kHost (a : Nat) : Nat := 0x10000000000000000 + a

/-- Key of HBM byte `b` of peer package `p`. -/
def kPeer (p b : Nat) : Nat := 0x40000000000000000 + p * 0x2000000000 + b

/-- What an unlisted key reads as: zero. HBM, cluster SRAM and scratch are cleared at start-up (03 R100);
for host and peer memory zero is a DESIGN CHOICE (see notes/assumptions). -/
def memDefault : Byte := 0

/-- The byte under key `k`. -/
def memGet (m : List Host.Cell) (k : Nat) : Byte :=
  match m with
  | [] => memDefault
  | (j, b) :: r => if j = k then b else if k < j then memDefault else memGet r k

/-- The memory with byte `b` under key `k`. -/
def memPut (m : List Host.Cell) (k : Nat) (b : Byte) : List Host.Cell :=
  match m with
  | [] => if b = memDefault then [] else [(k, b)]
  | (j, c) :: r =>
    if j = k then (if b = memDefault then r else (k, b) :: r)
    else if k < j then (if b = memDefault then (j, c) :: r else (k, b) :: (j, c) :: r)
    else (j, c) :: memPut r k b

/-- Keys rise strictly above `lo`, and no entry is the default. -/
def memWfFrom (lo : Nat) (m : List Host.Cell) : Bool :=
  match m with
  | [] => true
  | (j, b) :: r => decide (lo ≤ j) && decide (b ≠ memDefault) && memWfFrom (j + 1) r

/-- The canonical form of a memory. -/
def Memory.wf (m : List Host.Cell) : Bool := memWfFrom 0 m

/-- The `n` bytes from key `k`. -/
def memRead (m : List Host.Cell) (k n : Nat) : List Byte := (List.range n).map fun i => memGet m (k + i)

/-- The memory with `bs` written from key `k` on. -/
def memWrite (m : List Host.Cell) (k : Nat) (bs : List Byte) : List Host.Cell :=
  match bs with
  | [] => m
  | b :: r => memWrite (memPut m k b) (k + 1) r

/-- The little-endian number of a list of bytes (00 R3). -/
def leNat (bs : List Byte) : Nat :=
  match bs with
  | [] => 0
  | b :: r => b.toNat + 256 * leNat r

/-- The `n` low bytes of `v`, least significant first. -/
def leBytes (n v : Nat) : List Byte :=
  match n with
  | 0 => []
  | n + 1 => BitVec.ofNat 8 v :: leBytes n (v / 256)

/-- Read a little-endian number of `n` bytes. -/
def memNat (m : List Host.Cell) (k n : Nat) : Nat := leNat (memRead m k n)

/-- A number of `n` bytes read as two's complement. -/
def sNat (n v : Nat) : Int := if v < 2 ^ (8 * n - 1) then (v : Int) else (v : Int) - 2 ^ (8 * n)

/-- Insert a number into a strictly rising list. -/
def setInsert (l : List Nat) (x : Nat) : List Nat :=
  match l with
  | [] => [x]
  | y :: r => if x < y then x :: y :: r else if x = y then y :: r else y :: setInsert r x

/-- The lines that a transfer of `n` bytes from key `k` touches. -/
def linesOf (k n : Nat) : List Nat := if n = 0 then [] else upFrom (k / 64) ((k + n - 1) / 64 - k / 64 + 1)

/-- Line `l` lies wholly among the `n` bytes from key `k`. -/
def wholeLine (k n l : Nat) : Bool := decide (k ≤ l * 64) && decide (l * 64 + 64 ≤ k + n)

/-- A write of the whole line clears its poison; a partial write leaves it (18 R603). -/
def poisonAfterWrite (p : List Nat) (k n : Nat) : List Nat := p.filter fun l => !wholeLine k n l

/-- Some line of the transfer is poisoned. -/
def poisonedIn (p : List Nat) (k n : Nat) : Bool :=
  p.any fun l => decide (k < l * 64 + 64) && decide (l * 64 < k + n)

/-- The first poisoned line of the transfer. -/
def firstPoisoned (p : List Nat) (k n : Nat) : Option Nat :=
  p.find? fun l => decide (k < l * 64 + 64) && decide (l * 64 < k + n)

/-- The line that an armed injection of kind 2 or 3 waits for (19 R625). -/
def Injection.line (i : Injection) : Option Nat :=
  if i.hit ∨ (i.kind ≠ 2 ∧ i.kind ≠ 3) then none
  else if i.addr.toNat < 2 ^ 37 then some (i.addr.toNat / 64)
  else some ((0x10000000000 + i.addr.toNat / 2 ^ 24 % 8 * 0x1000000 + i.addr.toNat % 2 ^ 24) / 64)

/-- A write of `n` bytes from key `k`: errors of lines written whole are lost, and an armed injection into a
line of the write takes effect (19 R625, R626). -/
def State.stampErrors (s : State) (k n : Nat) : State :=
  let kept := s.latent.filter fun e => !wholeLine k n e.1
  match s.test.inj with
  | none => { s with latent := kept }
  | some i =>
    match i.line with
    | none => { s with latent := kept }
    | some l =>
      if (linesOf k n).contains l then
        { s with latent := Tbl.put kept l (i.kind == 3), test := { s.test with inj := some { i with hit := true } } }
      else { s with latent := kept }

/-- A write into frame `f`'s pool clears the pool's bit of PWR.POOL_SAVED (17 R566). -/
def clearSavedBit (frames : Tbl FrameSt) (f : Nat) (regs : Tbl Word) : Tbl Word :=
  match frames.look .unassigned f with
  | .pool p =>
    let a := ro .pwr 0 0x78 + 4 * (p / 32)
    regs.put a (regs.look 0 a &&& ~~~BitVec.ofNat 32 (2 ^ (p % 32)))
  | _ => regs

def State.clearSaved (s : State) (k n : Nat) : State :=
  if n = 0 ∨ hbmBytes ≤ k ∨ (s.regs.look 0 (ro .pwr 0 0x78) = 0 ∧ s.regs.look 0 (ro .pwr 0 0x7C) = 0) then s
  else
    let fs := upFrom (k / 0x200000) ((k + n - 1) / 0x200000 - k / 0x200000 + 1)
    { s with regs := fs.foldl (fun r f => clearSavedBit s.yard.frames f r) s.regs }

/-- Write bytes by key. -/
def State.store (s : State) (k : Nat) (bs : List Byte) : State :=
  let s1 := { s with mem := memWrite s.mem k bs, poison := poisonAfterWrite s.poison k bs.length }
  (s1.stampErrors k bs.length).clearSaved k bs.length

/-- Mark the lines of a transfer as poisoned. -/
def State.poisonLines (s : State) (ls : List Nat) : State :=
  { s with poison := ls.foldl setInsert s.poison }

/-- Read bytes by key. -/
def State.load (s : State) (k n : Nat) : List Byte := memRead s.mem k n

/-- Read a little-endian number by key. -/
def State.loadNat (s : State) (k n : Nat) : Nat := memNat s.mem k n

/-- Copy bytes between keys; poison travels with the lines, matched by their distance from the start
(18 R604: the poison is carried to the destination). -/
def State.copyBytes (s : State) (src dst n : Nat) : State :=
  let bad := (linesOf dst n).filter fun l =>
    poisonedIn s.poison (src + (l * 64 - dst)) (min 64 (n - (l * 64 - dst)))
  (s.store dst (s.load src n)).poisonLines bad

/-- The space of a device address (04 R131). -/
inductive Space where
  | hbm (b : Nat)
  | sram (c x : Nat)
  | host (a : Nat)
  | peer (p b : Nat)
  deriving DecidableEq, Repr

/-- The form of a device address, bits [63:62]. -/
def addrForm (a : Word64) : Nat := (a >>> 62).toNat

/-- The reserved bits of the address's form are zero (04 R131). -/
def addrReservedZero (a : Word64) : Bool :=
  match addrForm a with
  | 0 => (a >>> 37) &&& 0x1FFFFFF#64 == 0
  | 1 => (a >>> 27) &&& 0x7FFFFFFFF#64 == 0
  | 2 => true
  | _ => (a >>> 60) &&& 3#64 == 0 && (a >>> 37) &&& 0x7FFFF#64 == 0

/-- The place a device address names, if it names one (04 R131). -/
def addrSpace (a : Word64) : Option Space :=
  if addrReservedZero a then
    match addrForm a with
    | 0 => let b := (a &&& 0x1FFFFFFFFF#64).toNat; if b < hbmBytes then some (.hbm b) else none
    | 1 =>
      let x := (a &&& 0xFFFFFF#64).toNat
      if x < 0xC00000 then some (.sram ((a >>> 24) &&& 7#64).toNat x) else none
    | 2 => some (.host (a &&& 0x3FFFFFFFFFFFFFFF#64).toNat)
    | _ =>
      let b := (a &&& 0x1FFFFFFFFF#64).toNat
      if b < hbmBytes then some (.peer ((a >>> 56) &&& 15#64).toNat b) else none
  else none

/-- The key of a place. -/
def Space.key : Space → Nat
  | .hbm b => kHbm b
  | .sram c x => kSram c x
  | .host a => kHost a
  | .peer p b => kPeer p b

/-- The key of a device address; an address that names no place has no key. -/
def addrKey (a : Word64) : Option Nat := (addrSpace a).map Space.key

/-- `n` bytes from a device address stay inside its space (HBM below 96 GiB, a cluster's 12 MiB). -/
def addrRangeOk (a : Word64) (n : Nat) : Bool :=
  match addrSpace a with
  | some (.hbm b) => decide (b + n ≤ hbmBytes)
  | some (.sram _ x) => decide (x + n ≤ 0xC00000)
  | some (.host x) => decide (x + n ≤ 2 ^ 62)
  | some (.peer _ b) => decide (b + n ≤ hbmBytes)
  | none => false

/-! ### Core bays -/

/-- Key of byte `a` of logical core `c`'s bay. -/
def kBay (c a : Nat) : Nat := c * 0x200000 + a

/-- Bytes of a core bay: 1.5 MiB (07 R222). -/
def bayBytes : Nat := 0x180000

/-- What an unlisted bay byte reads as: zero while its bank has been undefined `0` times since the SRAM was
cleared (03 R100), else a free value that depends on how often. -/
def bayDefault (gen : Tbl Nat) (k : Nat) : Byte :=
  let g := gen.look 0 (k / 0x200000 * 32 + k % 0x200000 / 0x10000)
  if g = 0 then 0 else Config.freeByte g k

/-- The listed byte under key `k` of a strictly rising list. -/
def cellAt (m : List Host.Cell) (k : Nat) : Option Byte :=
  match m with
  | [] => none
  | (j, b) :: r => if j = k then some b else if k < j then none else cellAt r k

/-- The list with byte `b` listed under key `k`. -/
def cellPut (m : List Host.Cell) (k : Nat) (b : Byte) : List Host.Cell :=
  match m with
  | [] => [(k, b)]
  | (j, c) :: r =>
    if j = k then (k, b) :: r else if k < j then (k, b) :: (j, c) :: r else (j, c) :: cellPut r k b

/-- The bay byte under key `k`. -/
def State.bayByte (s : State) (k : Nat) : Byte := (cellAt s.bay k).getD (bayDefault s.bayGen k)

def State.bayLoad (s : State) (k n : Nat) : List Byte := (List.range n).map fun i => s.bayByte (k + i)

def State.bayNat (s : State) (k n : Nat) : Nat := leNat (s.bayLoad k n)

def cellsWrite (m : List Host.Cell) (k : Nat) (bs : List Byte) : List Host.Cell :=
  match bs with
  | [] => m
  | b :: r => cellsWrite (cellPut m k b) (k + 1) r

/-- Poison of a bay line stands under its key above every memory key. -/
def bayLine (k : Nat) : Nat := 0x2000000000000000 + k / 64

def State.bayStore (s : State) (k : Nat) (bs : List Byte) : State :=
  { s with bay := cellsWrite s.bay k bs,
           poison := poisonAfterWrite s.poison (bayLine 0 * 64 + k) bs.length }

/-- A bay range holds poison. -/
def State.bayPoisoned (s : State) (k n : Nat) : Bool := poisonedIn s.poison (bayLine 0 * 64 + k) n

/-- Make the banks that `banks` selects of core `c` undefined: their bytes become unlisted and their free
values new ones. -/
def State.bayUndefine (s : State) (c : Nat) (banks : Nat → Bool) : State :=
  let sel := (List.range 24).filter banks
  { s with
    bay := s.bay.filter fun e =>
      !(e.1 / 0x200000 == c && banks (e.1 % 0x200000 / 0x10000)),
    bayGen := sel.foldl (fun g b => g.put (c * 32 + b) (g.look 0 (c * 32 + b) + 1)) s.bayGen }

/-- Remove every cell whose key lies in `[lo, hi)`: the range reads as the default again, and its lines hold no
error. -/
def State.clearKeys (s : State) (lo hi : Nat) : State :=
  { s with mem := s.mem.filter fun e => !(decide (lo ≤ e.1) && decide (e.1 < hi)),
           poison := s.poison.filter fun l => !(decide (lo / 64 ≤ l) && decide (l < hi / 64)),
           latent := s.latent.filter fun e => !(decide (lo / 64 ≤ e.1) && decide (e.1 < hi / 64)) }

end Sys2Proof.Machine
end

