-- ==== Sys2Proof/Machine/Ops.lean ====
section
/-! DEFINITION. The operations every unit shares: the register bank, the page headers, events on their way
to the recorder (02 R62, R63, 18 R590, R594, R649), MSI-X messages (04 R129, R130), contexts and their
descriptors (04 R123 to R145), and completion records (04 R124, R125, R138). -/

namespace Sys2Proof.Machine

/-! ### Registers -/

/-- The word at BAR0 offset `a`. -/
def State.rd (s : State) (a : Nat) : Word := s.regs.look (resetWord a) a

/-- Store a word. -/
def State.wr (s : State) (a : Nat) (v : Word) : State := { s with regs := s.regs.put a v }

/-- Bits `[lo+w-1:lo]` of a word as a number. -/
def bitsOf (v : Word) (lo w : Nat) : Nat := v.toNat / 2 ^ lo % 2 ^ w

/-- The word with bits `[lo+w-1:lo]` replaced by `n`. -/
def withBits (v : Word) (lo w n : Nat) : Word :=
  BitVec.ofNat 32 (v.toNat % 2 ^ lo + (n % 2 ^ w) * 2 ^ lo + v.toNat / 2 ^ (lo + w) * 2 ^ (lo + w))

/-- A field of a register. -/
def State.fld (s : State) (a lo w : Nat) : Nat := bitsOf (s.rd a) lo w

/-- Set a field of a register. -/
def State.setFld (s : State) (a lo w n : Nat) : State := s.wr a (withBits (s.rd a) lo w n)

/-- A one-bit field. -/
def State.bit (s : State) (a lo : Nat) : Bool := s.fld a lo 1 == 1

/-- The active value of a shadowed register (02 R70). -/
def State.act (s : State) (a : Nat) : Word := s.active.look (resetWord a) a

def State.actFld (s : State) (a lo w : Nat) : Nat := bitsOf (s.act a) lo w

/-- A 64-bit pair at `a`. -/
def State.rd64 (s : State) (a : Nat) : Word64 := BitVec.ofNat 64 ((s.rd a).toNat + (s.rd (a + 4)).toNat * 2 ^ 32)

def State.wr64 (s : State) (a : Nat) (v : Word64) : State :=
  (s.wr a (BitVec.ofNat 32 v.toNat)).wr (a + 4) (BitVec.ofNat 32 (v.toNat / 2 ^ 32))

/-- Add to a wrapping field. -/
def State.addFld (s : State) (a lo w n : Nat) : State := s.setFld a lo w (s.fld a lo w + n)

/-- Add to a saturating field. -/
def State.addSat (s : State) (a lo w n : Nat) : State := s.setFld a lo w (min (s.fld a lo w + n) (2 ^ w - 1))

/-- Add to a wrapping 64-bit pair. -/
def State.add64 (s : State) (a n : Nat) : State := s.wr64 a (s.rd64 a + BitVec.ofNat 64 n)

/-- Add to a saturating 64-bit pair. -/
def State.addSat64 (s : State) (a n : Nat) : State :=
  s.wr64 a (BitVec.ofNat 64 (min ((s.rd64 a).toNat + n) (2 ^ 64 - 1)))

/-! ### Pages -/

/-- The management region of BAR0 (02 R54). -/
def inMgmt (slot : Nat) : Bool := decide (slot < 0x100)

def State.page (s : State) (slot : Nat) : Page := s.pages.look (Page.reset (inMgmt slot)) slot

def State.setPage (s : State) (slot : Nat) (p : Page) : State := { s with pages := s.pages.put slot p }

/-- A block accepts new work (02 R59 PG_CTL.EN, 04 R151, R152). -/
def State.blockOn (s : State) (b : Blk) (n : Nat) : Bool :=
  let p := s.page (slotOf b n)
  p.en && decide (p.stopping = .no) && !p.resetting

/-- A block goes on with the descriptors it has taken: enabled, and not being disabled (04 R151, R152). -/
def State.blockGoes (s : State) (b : Blk) (n : Nat) : Bool :=
  let p := s.page (slotOf b n)
  p.en && decide (p.stopping ≠ .disabling) && !p.resetting

/-- FREEZE holds the block at its next atom boundary (02 R59). -/
def State.frozen (s : State) (b : Blk) (n : Nat) : Bool := (s.page (slotOf b n)).freeze

/-! ### MSI-X (04 R129, R130, 03 R89) -/

def vecKey (fn vec : Nat) : Nat := fn * 2048 + vec

/-- Send a message, or set the vector's pending bit while it is disabled or masked. -/
def State.sendMsi (s : State) (fn vec : Nat) : State :=
  let k := vecKey fn vec
  if s.host.vecOpen.look false k then
    { s with host := { s.host with
        vecSent := s.host.vecSent.put k (s.host.vecSent.look 0 k + 1),
        vecLast := s.host.vecLast.put k s.gts } }
  else { s with host := { s.host with vecPending := s.host.vecPending.put k true } }

/-! ### Events -/

/-- A value in an event's DATA (18 R649): a u32 or s32 in 4 bytes, or a 64-bit value in 8 aligned bytes. -/
inductive EvVal where
  | w (n : Nat)
  | d (n : Nat)
  deriving DecidableEq, Repr

/-- A signed value as the number its two's complement reads as. -/
def s32 (i : Int) : Nat := (i % 2 ^ 32).toNat
def s64 (i : Int) : Nat := (i % 2 ^ 64).toNat

/-- Pack the values from DATA byte 0 on, 64-bit ones at the next multiple of 8 (18 R649). -/
def packVals (acc : List Byte) (vs : List EvVal) : List Byte :=
  match vs with
  | [] => acc
  | .w n :: r => packVals (acc ++ leBytes 4 n) r
  | .d n :: r =>
    packVals (acc ++ List.replicate ((8 - acc.length % 8) % 8) 0 ++ leBytes 8 n) r

/-- The 28 bytes of DATA. -/
def evData (vs : List EvVal) : List Byte := (packVals [] vs ++ List.replicate 28 0).take 28

/-- The slot of the page that carries a source number, if one does (02 R76). -/
def slotOfSrc (src : Nat) : Option Nat :=
  let u := src % 0x1000
  match src / 0x1000 with
  | 0 => if u < 9 then some u else none
  | 1 =>
    if u < 0x100 then some (slotOf .ctx u)
    else if u = 0x100 then some (slotOf .sbox 0) else if u = 0x110 then some (slotOf .yard 0)
    else if u = 0x111 then some (slotOf .pfx 0) else if u = 0x112 then some (slotOf .swap 0)
    else if u = 0x120 then some (slotOf .host 0) else if u = 0x130 then some (slotOf .sysc 0) else none
  | 2 | 3 =>
    let die := src / 0x1000 - 2
    if u < 0x80 then
      if u % 0x20 < 8 then some (slotOf .co (die * 32 + u / 0x20 * 8 + u % 0x20))
      else if u % 0x20 = 0x10 then some (slotOf .cl (die * 4 + u / 0x20)) else none
    else if u = 0x100 ∨ u = 0x101 then some (slotOf .hbm (die * 2 + u % 2))
    else if u = 0x110 then some (slotOf .noc die)
    else if u = 0x120 ∨ u = 0x121 then some (slotOf .cpl (die * 2 + u % 2)) else none
  | 4 =>
    if u < 4 then some (slotOf .dec u) else if u = 0x10 ∨ u = 0x11 then some (slotOf .enc (u % 2))
    else if u = 0x20 then some (slotOf .rhs 0) else if u = 0x30 then some (slotOf .ttb 0) else none
  | 5 =>
    if u < 8 then some (slotOf .csi u) else if 0x10 ≤ u ∧ u < 0x18 then some (slotOf .isp (u - 0x10))
    else none
  | 6 => if u < 3 then some (0x330 + u) else none
  | 7 => if u < 3 then some (0x300 + u) else none
  | 8 =>
    if u < 8 then some (slotOf .kl u) else if u = 0x10 then some (slotOf .klr 0)
    else if u = 0x20 then some (slotOf .coll 0) else none
  | 9 => if u = 0 then some (slotOf .smp 0) else none
  | _ => none

/-- PG_EV_PEND (02 R59). -/
def Page.pend (p : Page) : Word := p.evRaw &&& p.evEn

/-- Replace a page's header; a page whose PG_EV_PEND becomes non-zero asserts its interrupt, which PF vector
1 carries (02 R63, 04 R129). -/
def State.setPageEv (s : State) (slot : Nat) (p : Page) : State :=
  let s' := s.setPage slot p
  if (s.page slot).pend = 0 ∧ p.pend ≠ 0 then s'.sendMsi 0 1 else s'

/-- Class of an event code (02 R77). -/
def evClass (code : Nat) : Nat := code / 0x1000

def placesTaken (l : List (Place × Event)) (p : Place) : Nat := (l.filter fun e => e.1 = p).length

/-- Drop the oldest class 0 to 2 event waiting in the 256 places. -/
def dropOldest (l : List (Place × Event)) : List (Place × Event) :=
  match l with
  | [] => []
  | e :: r => if e.1 = .normal ∧ evClass e.2.code.toNat ≤ 2 then r else e :: dropOldest r

/-- Count a dropped event (18 R594). -/
def State.countDrop (s : State) : State :=
  let s := (s.addSat (ro .evr 0 0x60) 0 32 1).setFld (ro .evr 0 0x58) 2 1 1
  { s with evr := { s.evr with dropsSinceLoss := s.evr.dropsSinceLoss + 1, lossFlag := true } }

def State.pushIntake (s : State) (p : Place) (e : Event) : State :=
  { s with evr := { s.evr with intake := s.evr.intake ++ [(p, e)] } }

/-- An event reaches the intake of the recorder (18 R594). -/
def State.offer (s : State) (e : Event) : State :=
  let l := s.evr.intake
  let area0 := e.src.toNat / 0x1000 = 0
  if area0 ∧ placesTaken l .mgmt < 16 then s.pushIntake .mgmt e
  else if 3 ≤ evClass e.code.toNat then
    if area0 then
      if placesTaken l .normal < 256 then s.pushIntake .normal e
      else ({ s with evr := { s.evr with intake := dropOldest l } }.countDrop).pushIntake .normal e
    else if placesTaken l .severe < 16 then s.pushIntake .severe e
    else { s with evr := { s.evr with heldSources := s.evr.heldSources ++ [e] } }
  else if placesTaken l .normal < 256 then s.pushIntake .normal e
  else s.countDrop

/-- The package is the time master or LOCKED (18 R589). -/
def State.synced (s : State) : Bool := s.fld (ro .gts 0 0x54) 0 2 == 2

/-- The page of source `src` takes an event: its bit and its stamp (02 R59, R62). -/
def State.markEvent (s : State) (src code : Nat) : State :=
  match slotOfSrc src with
  | some slot =>
    let p := s.page slot
    let bit : Word := BitVec.ofNat 32 (2 ^ (Config.eventBit code).val)
    s.setPageEv slot { p with evRaw := p.evRaw ||| bit, evGts := s.gts }
  | none => s

/-- GPIO2 goes high at an event of class 3 or 4 (20 R633). -/
def State.pulse (s : State) (code : Nat) : State :=
  if 3 ≤ evClass code then { s with pins := { s.pins with gpio2 := true, severeAt := s.now } } else s

/-- The function a context is assigned to (02 R47). -/
def State.ctxFunc (s : State) (n : Nat) : Nat := s.fld (ro .host 0 (0x800 + n / 4 * 4)) (n % 4 * 8) 4

/-- FUNC of an event: the function it names, or that of the context it concerns (18 R591). -/
def State.eventFunc (s : State) (ctx func : Nat) : Nat :=
  if func = 0xFF ∧ ctx ≠ 0xFF then s.ctxFunc ctx else func

/-- A block raises an event: its page's bit and stamp are set (02 R59, R62) and the event is offered to the
recorder (02 R63). -/
def State.raise (s : State) (src code : Nat) (data : List EvVal) (ctx : Nat := 0xFF) (func : Nat := 0xFF) :
    State :=
  let e : Event := ⟨s.gts, BitVec.ofNat 16 src, BitVec.ofNat 16 code, BitVec.ofNat 8 ctx,
    BitVec.ofNat 8 (s.eventFunc ctx func), evData data, s.synced⟩
  ((s.markEvent src code).pulse code).offer e

/-! ### Memory errors found at a read (18 R602, 19 R626) -/

/-- The event of an error found on line `l` of HBM or of a cluster SRAM. -/
def State.eccEvent (s : State) (l : Nat) (bad : Bool) : State :=
  let b := l * 64
  if b < hbmBytes then
    let f := b / 0x200000
    let stack := f / 12288
    let src := (if stack < 2 then 0x2100 else 0x3100) + stack % 2
    let die := if stack < 2 then 0x200 else 0x300
    if bad then s.raise src (0x3091 + die) [.w f, .w (l % 32768)] else s.raise src (0x0090 + die) [.w f]
  else
    let x := b - kSram 0 0
    let c := x / 0x1000000
    let slice := x % 0x1000000 / 0x100000
    let die := if c < 4 then 0x200 else 0x300
    if bad then s.raise (dieSrc c 0x10) (0x3055 + die) [.w slice, .w (x % 0x100000 / 64)]
    else s.raise (dieSrc c 0x10) (0x0054 + die) [.w slice]

/-- A line's stored error is found: corrected and written back, or the line is poisoned. -/
def State.findError (s : State) (l : Nat) (bad : Bool) : State :=
  let s := { s with latent := s.latent.del l }
  (if bad then s.poisonLines [l] else s).eccEvent l bad

/-- A read of `n` bytes from key `k` finds the errors of its lines. -/
def State.touch (s : State) (k n : Nat) : State :=
  (s.latent.filter fun e => decide (k < e.1 * 64 + 64) && decide (e.1 * 64 < k + n)).foldl
    (fun s e => s.findError e.1 e.2) s

/-! ### Contexts -/

def State.ctx (s : State) (n : Nat) : Ctx := s.ctxs.look Ctx.reset n

def State.setCtx (s : State) (n : Nat) (c : Ctx) : State := { s with ctxs := s.ctxs.put n c }

/-- Offset of register `o` of context page `n`. -/
def cr (n o : Nat) : Nat := ro .ctx n o

/-- CTX_STATE.STATE (04 R114). -/
def State.ctxState (s : State) (n : Nat) : Nat := s.fld (cr n 0x40) 0 3

def stFree : Nat := 0
def stOpen : Nat := 1
def stRunning : Nat := 2
def stPreempted : Nat := 3
def stQuiescing : Nat := 4
def stFaulted : Nat := 5

def State.setCtxState (s : State) (n st : Nat) : State := s.setFld (cr n 0x40) 0 3 st

/-- The context's epoch. -/
def State.ctxEpoch (s : State) (n : Nat) : Half := (s.page (slotOf .ctx n)).epoch

/-- The function that may reach a pool through a VF BAR4 (02 R51). -/
def State.poolFunc (s : State) (p : Nat) : Nat := s.fld (ro .host 0 (0x900 + p / 4 * 4)) (p % 4 * 8) 4

/-- Status codes of 04 R140. -/
inductive Status where
  | ok | cancelled | aborted | superseded | staleDropped | limitRejected | grammarDeadEnd
  | grammarStackLimit | preempted | epochStale | lineFault | guaranteeBroken | eccUncorrectable
  | deviceFault | timeout | invalidDescriptor | lengthLimit | quotaExceeded | camLost | deviceReset
  deriving DecidableEq, Repr

def Status.code : Status → Nat
  | .ok => 0x00 | .cancelled => 0x01 | .aborted => 0x02 | .superseded => 0x03 | .staleDropped => 0x04
  | .limitRejected => 0x05 | .grammarDeadEnd => 0x06 | .grammarStackLimit => 0x07 | .preempted => 0x08
  | .epochStale => 0x09 | .lineFault => 0x0A | .guaranteeBroken => 0x0B | .eccUncorrectable => 0x0C
  | .deviceFault => 0x0D | .timeout => 0x0E | .invalidDescriptor => 0x0F | .lengthLimit => 0x10
  | .quotaExceeded => 0x11 | .camLost => 0x12 | .deviceReset => 0x13

/-- Field of a descriptor: `n` bytes at byte `o` (04 R132). -/
def Desc.nat (d : Desc) (o n : Nat) : Nat := d.bits.toNat / 2 ^ (8 * o) % 2 ^ (8 * n)

def Desc.cls (d : Desc) : Nat := d.nat 0 1
def Desc.flags (d : Desc) : Nat := d.nat 1 1
def Desc.irq (d : Desc) : Bool := d.flags % 2 == 1
def Desc.fenceBefore (d : Desc) : Bool := d.flags / 2 % 2 == 1
def Desc.supersede (d : Desc) : Bool := d.flags / 4 % 2 == 1
def Desc.quiet (d : Desc) : Bool := d.flags / 8 % 2 == 1
def Desc.target (d : Desc) : Nat := d.nat 4 4
def Desc.tag (d : Desc) : Word64 := BitVec.ofNat 64 (d.nat 8 8)
def Desc.addr (d : Desc) (o : Nat) : Word64 := BitVec.ofNat 64 (d.nat o 8)

/-- Replace a context's descriptor by uid. -/
def State.updDesc (s : State) (n uid : Nat) (f : Desc → Desc) : State :=
  let c := s.ctx n
  s.setCtx n { c with descs := c.descs.map fun d => if d.uid = uid then f d else d }

/-- The end of a descriptor puts its context into FAULTED (04 R117): a RUN that slice replay did not recover or
that consumed poison (18 R604), and a descriptor of a sequence that is lost (10 R367) or lost its cores. -/
def State.faulting (s : State) (d : Desc) (st : Status) : Bool :=
  let lost := (s.text.seqs.look? (d.target % 2 ^ 24)).any fun x => x.lost.isSome
  let seq := decide (7 ≤ d.cls) && decide (d.cls ≤ 9)
  (st = .deviceFault && (d.cls == 1 || seq)) || (st = .eccUncorrectable && (d.cls == 1 || (seq && lost)))

/-- The notices on their way for a descriptor fault its context. -/
def State.faultNotice (s : State) (d : Desc) : State :=
  { s with notices := s.notices.map fun x =>
      if x.ctx = d.ctx ∧ x.entry.sq = d.sq ∧ x.entry.ends = some d.pos then { x with faults := true } else x }

/-- A unit reports completed work through an epoch-tagged completion notice (01 R33). -/
def State.complete (s : State) (d : Desc) (st : Status) (result result2 : Nat) : State :=
  let e : Rec :=
    { tag := d.tag, gts := s.gts, result := BitVec.ofNat 32 result, result2 := BitVec.ofNat 32 result2,
      sqPos := BitVec.ofNat 16 d.pos.toNat, status := BitVec.ofNat 8 st.code, cls := d.cls, sq := d.sq,
      epoch := d.epoch, notice := false, more := false, irq := d.irq, ends := some d.pos }
  let s := s.updDesc d.ctx d.uid fun x => { x with ending := true }
  { s with notices := s.notices ++ [⟨d.ctx, d.epoch, e, d.quiet && decide (st = .ok), none, s.faulting d st⟩] }

/-- A record of a descriptor that does not end it: a page record of a scan job (04 R136), the completion of
an access-unit or input record. -/
def State.completeMore (s : State) (d : Desc) (st : Status) (tag : Word64) (result result2 : Nat)
    (more irq : Bool) (pos : Option Word) : State :=
  let e : Rec :=
    { tag := tag, gts := s.gts, result := BitVec.ofNat 32 result, result2 := BitVec.ofNat 32 result2,
      sqPos := BitVec.ofNat 16 (pos.getD d.pos).toNat, status := BitVec.ofNat 8 st.code, cls := d.cls,
      sq := d.sq, epoch := d.epoch, notice := false, more := more, irq := irq, ends := pos }
  { s with notices := s.notices ++ [⟨d.ctx, d.epoch, e, false, none, false⟩] }

/-- A notice without a descriptor's end (04 R139). -/
def State.notify (s : State) (n : Nat) (st : Status) (cls : Nat) (tag : Word64) (result result2 : Nat) :
    State :=
  let ep := s.ctxEpoch n
  let e : Rec :=
    { tag := tag, gts := s.gts, result := BitVec.ofNat 32 result, result2 := BitVec.ofNat 32 result2,
      sqPos := 0, status := BitVec.ofNat 8 st.code, cls := cls, sq := 0, epoch := ep, notice := true,
      more := false, irq := false, ends := none }
  { s with notices := s.notices ++ [⟨n, ep, e, false, none, false⟩] }

/-- The 32 bytes of a record (04 R138). -/
def Rec.bytes (r : Rec) (phase : Bool) : List Byte :=
  leBytes 8 r.tag.toNat ++ leBytes 8 r.gts ++ leBytes 4 r.result.toNat ++ leBytes 4 r.result2.toNat ++
  leBytes 2 r.sqPos.toNat ++ [r.status] ++ leBytes 1 (r.cls % 32 + r.sq % 4 * 32) ++
  leBytes 2 r.epoch.toNat ++
  leBytes 1 ((if r.notice then 1 else 0) + (if r.more then 2 else 0)) ++
  leBytes 1 (if phase then 1 else 0)

def State.cqSize (s : State) (n : Nat) : Nat := s.fld (cr n 0x98) 0 5
def State.sqSize (s : State) (n q : Nat) : Nat := s.fld (cr n (0x58 + q * 0x10)) 0 5
def State.sqHead (s : State) (n q : Nat) : Word := s.rd (cr n (0x5C + q * 0x10))
def State.sqDone (s : State) (n q : Nat) : Word := s.rd (cr n (0xB0 + q * 4))
def State.cqTail (s : State) (n : Nat) : Word := s.rd (cr n 0x9C)
def State.cqSeen (s : State) (n : Nat) : Word := s.rd (cr n 0xC0)

/-- The completion ring is full (04 R124). -/
def State.cqFull (s : State) (n : Nat) : Bool :=
  decide (2 ^ s.cqSize n ≤ (s.cqTail n - s.cqSeen n).toNat)

/-- The context's descriptors do not start while its ring is full (04 R124). -/
def State.ringBlocked (s : State) (n : Nat) : Bool :=
  s.cqFull n || !(s.ctx n).held.isEmpty || !(s.ctx n).atSource.isEmpty

/-- Advance SQn_DONE past every index that has completed (04 R127, R139). -/
def advanceDone (fuel : Nat) (done : Word) (ahead : List Word) : Word × List Word :=
  match fuel with
  | 0 => (done, ahead)
  | fuel + 1 =>
    if ahead.contains done then advanceDone fuel (done + 1) (ahead.filter (· != done)) else (done, ahead)

/-- A descriptor's record has been written (or is not due): SQn_DONE takes its index in. -/
def State.markDone (s : State) (n q : Nat) (pos : Word) : State :=
  let c := s.ctx n
  let ahead := pos :: c.doneAhead.look [] q
  let (d, a) := advanceDone (ahead.length + 1) (s.sqDone n q) ahead
  let descs := c.descs.filter fun x => !(x.sq == q && x.pos == pos && x.ending)
  (s.setCtx n { c with doneAhead := c.doneAhead.put q a, descs := descs }).wr (cr n (0xB0 + q * 4)) d

/-- The interrupt of a written record (04 R130). -/
def State.recordMsi (s : State) (n : Nat) (r : Rec) : State :=
  if s.bit (cr n 0xA0) 31 then
    let fn := s.ctxFunc n
    let vec := s.fld (cr n 0xA0) 0 11
    let k := vecKey fn vec
    let plainOk := r.status = 0
    if r.irq ∨ ¬ r.status = 0 ∨ r.notice then
      if plainOk ∧ s.fld (cr n 0xA0) 16 8 ≠ 0 ∧
          (s.host.vecLast.look? k).any (fun t => decide (s.gts < t + s.fld (cr n 0xA0) 16 8 * 1000)) then
        { s with host := { s.host with vecDelayed := if s.host.vecDelayed.contains k then s.host.vecDelayed
                                                    else s.host.vecDelayed ++ [k] } }
      else
        let s := s.sendMsi fn vec
        { s with host := { s.host with vecLast := s.host.vecLast.put k s.gts,
                                       vecDelayed := s.host.vecDelayed.filter (· != k) } }
    else s
  else s

/-- Write one record into the completion ring (04 R121, R138) and take the descriptor's end in. -/
def State.putRecord (s : State) (n : Nat) (r : Rec) : State :=
  let base := s.rd64 (cr n 0x90)
  let size := s.cqSize n
  let tail := s.cqTail n
  let at_ := base + BitVec.ofNat 64 (tail.toNat % 2 ^ size * 32)
  let c := s.ctx n
  let s := match addrKey at_ with
    | some k => s.store k (r.bytes c.phase)
    | none => s
  let s := (s.wr (cr n 0x9C) (tail + 1)).setCtx n
    { c with phase := if (tail.toNat + 1) % 2 ^ size = 0 then !c.phase else c.phase }
  let s := match r.ends with
    | some pos => s.markDone n r.sq pos
    | none => s
  s.recordMsi n r

/-- Log CQ_STALL once for each time the ring fills (04 R124). -/
def State.logStall (s : State) (n : Nat) : State :=
  if (s.ctx n).stallLogged then s
  else (s.setCtx n { s.ctx n with stallLogged := true }).raise (0x1000 + n) 0x11A3 [] n

/-- CQ_STALL when the record just written has filled the ring. -/
def State.stallIfFull (s : State) (n : Nat) : State := if s.cqFull n then s.logStall n else s

/-- A record or notice finds the ring and the 64 places as 04 R124 and R125 say. CQ_OVERFLOW is logged once for each time the
ring fills; the manual does not say when in the fill nor since when its count runs. DESIGN CHOICE: at the first notice that
is not written, with the notices not written since the last such notice, itself included (log 22). -/
def State.deliver (s : State) (n : Nat) (r : Rec) : State :=
  let c := s.ctx n
  if !s.cqFull n && c.held.isEmpty then
    (s.putRecord n r).stallIfFull n
  else if c.held.length < 64 then (s.setCtx n { c with held := c.held ++ [r] }).logStall n
  else if r.notice then
    let s := (s.setCtx n { c with lostNotices := c.lostNotices + 1 }).addSat (cr n 0xC4) 0 32 1
    if c.overflowLogged then s
    else (s.setCtx n { s.ctx n with overflowLogged := true }).raise (0x1000 + n) 0x11A8
      [.w (c.lostNotices + 1)] n
  else s.setCtx n { c with atSource := c.atSource ++ [r] }

/-- The notice that reports lost notices (04 R125). -/
def lostNotice (s : State) (n : Nat) : Rec :=
  { tag := 0, gts := s.gts, result := BitVec.ofNat 32 (s.ctx n).lostNotices, result2 := 0xFFFFFFFF,
    sqPos := 0, status := 0, cls := 0, sq := 0, epoch := s.ctxEpoch n, notice := true, more := false,
    irq := false, ends := none }

/-- Write what waits for places of the completion ring, in the order of 04 R125. -/
def State.drainHeld (s : State) (n fuel : Nat) : State :=
  match fuel with
  | 0 => s
  | fuel + 1 =>
    if s.cqFull n then s
    else
      let c := { s.ctx n with stallLogged := false, overflowLogged := false }
      let s := s.setCtx n c
      if 0 < c.lostNotices then
        let s1 := s.putRecord n (lostNotice s n)
        ((s1.setCtx n { s1.ctx n with lostNotices := 0 }).stallIfFull n).drainHeld n fuel
      else match c.held with
        | [] => s
        | r :: rest =>
          let moved := c.atSource.take 1
          let s1 := s.setCtx n { c with held := rest ++ moved, atSource := c.atSource.drop 1 }
          ((s1.putRecord n r).stallIfFull n).drainHeld n fuel

/-! ### Starting descriptors (04 R142 to R144, R152) -/

/-- A FENCE or WAIT_GTS that has started and not completed holds its ring (04 R143, R144). -/
def Desc.holdsRing (d : Desc) : Bool := d.started && (d.cls == 0x04 || d.cls == 0x05)

/-- The descriptor that ring `q` of context `n` may start next. -/
def State.nextDesc (s : State) (n q : Nat) : Option Desc :=
  let c := s.ctx n
  let ring := c.descs.filter fun d => d.sq == q
  let st := s.ctxState n
  let alive := st = stOpen ∨ st = stRunning ∨ st = stPreempted ∨
    (st = stQuiescing ∧ c.quiesce = .closing)
  match ring.find? fun d => !d.started && !d.ending with
  | none => none
  | some d =>
    if ¬ alive ∨ s.ringBlocked n ∨ ring.any Desc.holdsRing ∨
        (d.fenceBefore ∧ s.sqDone n q ≠ d.pos) then none
    else some d

/-- Mark a descriptor started; an OPEN context becomes RUNNING (04 R115). -/
def State.startDesc (s : State) (d : Desc) : State :=
  let s := s.updDesc d.ctx d.uid fun x => { x with started := true, startedAt := s.gts, startedNow := s.now }
  if s.ctxState d.ctx = stOpen then s.setCtxState d.ctx stRunning else s

/-- RUNNING falls back to OPEN when no descriptor is started or waiting (04 R115). -/
def State.settle (s : State) (n : Nat) : State :=
  if s.ctxState n = stRunning ∧ (s.ctx n).descs.all (fun d => d.ending) then s.setCtxState n stOpen else s

/-- A fresh serial number. -/
def State.newUid (s : State) : Nat × State := (s.uid, { s with uid := s.uid + 1 })

/-- The number that the next free value of the state is drawn with. -/
def State.newFree (s : State) : Nat × State := (s.free, { s with free := s.free + 1 })

/-- Bytes become undefined: free bytes, and free poison marks of their lines (04 R153, 18 R603). -/
def State.undefine (s : State) (k n : Nat) : State :=
  let (g, s) := s.newFree
  let s := s.store k ((List.range n).map fun i => Config.freeByte g (k + i))
  s.poisonLines ((linesOf k n).filter fun l => (Config.freeWord g l).getLsbD 0)

/-- The bytes of a device address become undefined. -/
def State.undefineAt (s : State) (a : Word64) (n : Nat) : State :=
  match addrKey a with
  | some k => if n = 0 then s else s.undefine k n
  | none => s

end Sys2Proof.Machine
end

