-- ==== Sys2Proof/Machine/Access.lean ====
section
/-! DEFINITION. How a host access to BAR0 is answered (02 R42 to R56, R650): power islands and gated clocks
(01 R17, R18, 17 R559), the VF view (02 R48) and the page lock (02 R74). -/

namespace Sys2Proof.Machine

/-- What every meaning answers. -/
abbrev Next := Host.Outcome State Fault Refusal

def stA : Nat := ro .mgmt 0 0x40

/-- MGMT.STATUS.READY. -/
def State.ready (s : State) : Bool := s.bit stA 0

/-- PWR.STAT.STATE. -/
def State.pst (s : State) : Nat := s.fld (ro .pwr 0 0x50) 0 3

/-- The power state in force turns the island off (01 R18). -/
def State.islandOff (s : State) (i : Nat) : Bool :=
  if i = 0 then false
  else if i < 6 then s.pst == 4
  else if i < 8 then decide (3 ≤ s.pst)
  else decide (2 ≤ s.pst)

/-- A posted write to a page of the domain has not taken effect: it keeps the domain's clock running (01 R38). -/
def State.domainWrites (s : State) (d : Nat) : Bool :=
  s.pages.any fun e => (!e.2.fifo.isEmpty || !e.2.held.isEmpty) &&
    (pageAt e.1).any fun p => domainOf p.blk p.inst == d

/-- The clock domain is gated: domains 4 and 5 in P1 (17 R559), or stopped for heat as in P1 (17 R576), while no
posted write has started it (01 R38, 02 R55). -/
def State.domainGated (s : State) (d : Nat) : Bool :=
  (d == 4 || d == 5) && (s.pst == 1 || s.pwr.stopped.contains (d - 4)) && !s.domainWrites d

/-- The slots of a VF's BAR0: slot k is the page of the VF's k-th context (02 R48). -/
def State.vfCtx (s : State) (fn k : Nat) : Option Nat :=
  if k = 0 then none else ((List.range 256).filter fun n => s.ctxFunc n == fn)[k - 1]?

/-- The BAR0 offset that an access of a sender reaches. -/
def State.bar0Of (s : State) (snd : Sender) (off : Nat) : Option Nat :=
  match snd with
  | .pcie f =>
    if f.val = 0 then some off
    else (s.vfCtx f.val (off / 0x1000)).map fun n => slotOf .ctx n * 0x1000 + off % 0x1000
  | .i3c => if off < 0x100000 then some off else none

/-- Function number of a sender; 0xFF for the I3C target. -/
def senderFunc (snd : Sender) : Nat :=
  match snd with
  | .pcie f => f.val
  | .i3c => 0xFF

/-- Aligned 4-byte or 8-byte access (02 R42). -/
def widthOk (off width : Nat) : Bool := (width == 4 && off % 4 == 0) || (width == 8 && off % 8 == 0)

/-- An 8-byte access on a pair, or in the record window (02 R42, R67). -/
def pairOk (off : Nat) : Bool :=
  isRecordWindow (off / 0x1000) ||
  (pageAt (off / 0x1000)).any fun p => isPairLow p.blk (off % 0x1000)

/-- The rule of 02 R650 that answers an access to BAR0 offset `off`, as the event it logs. -/
def State.refusedBy (s : State) (off width : Nat) (write : Bool) : Option Nat :=
  let slot := off / 0x1000
  if !widthOk off width then some 0x2188
  else if !s.ready && decide (0x100000 ≤ off) then some 0x0184
  else if !populated slot || (write && isRecordWindow slot) then some 0x2182
  else if width == 8 && !pairOk off then some 0x2188
  else match pageAt slot with
    | none => none
    | some p =>
      if s.islandOff (islandOf p.blk p.inst) then some 0x2181
      else if s.domainGated (domainOf p.blk p.inst) && !write && off % 0x1000 != 0 && off % 0x1000 != 0xC then
        some 0x1180
      else none

/-- The word that answers a refused read (02 R42, R43, R54 to R56). -/
def refusedWord (code : Nat) : Nat :=
  if code = 0x2188 then 0xFFFFFFFF else if code = 0x2182 then 0 else 0xFFFFC10C

/-- A page-access event (02 R78): BAR number and offset in DATA, the function in FUNC. A BAR0 offset is a bus
address under 18 R649. -/
def State.accessEvent (s : State) (code bar off fn : Nat) : State :=
  s.raise 0x1120 code [.w bar, .d off] 0xFF fn

/-- Put the answer of a read where the host takes it. -/
def State.answer (s : State) (n : Nat) : State :=
  { s with host := { s.host with answer := BitVec.ofNat 64 n } }

/-- A refused access: a read is answered by the fixed word, in both halves for 8 bytes; a write is dropped. The
read of a page whose island is off logs nothing (02 R56 logs writes). -/
def State.refuse (s : State) (snd : Sender) (off width : Nat) (write : Bool) (code : Nat) : State :=
  let w := refusedWord code
  let s := if write then s else s.answer (if width = 8 then w * 2 ^ 32 + w else w)
  if code = 0x2181 ∧ !write then s else s.accessEvent code 0 off (senderFunc snd)

/-- The page at a BAR0 offset is locked and the word is one that the lock covers (02 R74). -/
def State.lockedAt (s : State) (off : Nat) : Bool :=
  decide (0x40 ≤ off % 0x1000) && (s.page (off / 0x1000)).locked

end Sys2Proof.Machine
end

