-- ==== Sys2Proof/Machine/Regions.lean ====
section
/-! DEFINITION. The region table (04 R146, R147): its entries, the buffer of a generation, who holds one. -/

namespace Sys2Proof.Machine

/-- An entry of the region table (04 R146). -/
structure RegionEntry where
  buf0 : Word64
  buf1 : Word64
  len : Nat
  gen : Word
  kind : Nat
  busy : Nat
  deriving DecidableEq, Repr

def State.regionCount (s : State) : Nat := s.fld (ro .host 0 0x58) 0 13

/-- Key of region `r`'s entry. -/
def State.regionKey (s : State) (r : Nat) : Option Nat :=
  if r < s.regionCount then addrKey (s.rd64 (ro .host 0 0x50) + BitVec.ofNat 64 (32 * r)) else none

def State.region (s : State) (r : Nat) : Option RegionEntry :=
  (s.regionKey r).map fun k =>
    { buf0 := BitVec.ofNat 64 (s.loadNat k 8), buf1 := BitVec.ofNat 64 (s.loadNat (k + 8) 8),
      len := s.loadNat (k + 16) 8, gen := BitVec.ofNat 32 (s.loadNat (k + 24) 4),
      kind := s.loadNat (k + 28) 1, busy := s.loadNat (k + 29) 1 }

/-- The buffer of generation `g` (04 R146: GEN mod 2). -/
def RegionEntry.buffer (e : RegionEntry) (g : Word) : Word64 := if g.toNat % 2 = 0 then e.buf0 else e.buf1

/-- Key of the current buffer of region `r`. -/
def State.regionBuf (s : State) (r : Nat) : Option Nat :=
  (s.region r).bind fun e => addrKey (e.buffer e.gen)

/-- The device writes GEN and BUSY of an entry. -/
def State.setRegionGen (s : State) (r : Nat) (g : Word) : State :=
  match s.regionKey r with
  | some k => s.store (k + 24) (leBytes 4 g.toNat)
  | none => s

def State.setRegionBusy (s : State) (r : Nat) (b : Nat) : State :=
  match s.regionKey r with
  | some k => s.store (k + 29) (leBytes 1 b)
  | none => s

/-- A reader takes the current generation of a region and holds it (04 R147). -/
def State.holdRegion (s : State) (r holder : Nat) : State :=
  match s.region r with
  | some e => { s with regionHolds := s.regionHolds ++ [⟨r, e.gen, holder⟩] }
  | none => s

def State.holdRegions (s : State) (rs : List Nat) (holder : Nat) : State :=
  rs.foldl (fun s r => s.holdRegion r holder) s

/-- The reader `holder` ends. -/
def State.releaseHolds (s : State) (holder : Nat) : State :=
  { s with regionHolds := s.regionHolds.filter fun h => h.holder != holder }

/-- Some reader holds generation `g` of region `r`. -/
def State.regionHeld (s : State) (r : Nat) (g : Word) : Bool :=
  s.regionHolds.any fun h => h.region == r && h.gen == g

end Sys2Proof.Machine
end

