-- ==== Sys2Proof/Machine/Operands.lean ====
section
/-! DEFINITION. The operand forms of descriptors: which bytes each class lists (04 R132, R133), which
addresses a function may name (04 R131), handles (04 R135), and the order of the checks (04 R134). -/

namespace Sys2Proof.Machine

/-- Payload fields of a class: byte offset and length (04 R133). -/
def payloadOf : Nat → List (Nat × Nat)
  | 0x01 => [(16, 8), (24, 8), (32, 4), (36, 2), (40, 4)]
  | 0x02 => [(16, 8), (24, 8), (32, 8)]
  | 0x03 => [(16, 8), (24, 8)]
  | 0x04 => [(16, 1), (17, 1), (20, 4), (24, 4)]
  | 0x05 => [(16, 8), (24, 1)]
  | 0x06 => [(16, 8), (24, 4), (28, 4), (32, 8), (40, 4)]
  | 0x07 => [(16, 8), (24, 4), (28, 1), (32, 4), (36, 4), (40, 8), (48, 4), (52, 2)]
  | 0x08 => [(16, 8)]
  | 0x09 => [(16, 1)]
  | 0x0A => [(16, 1), (17, 1), (18, 1), (20, 4), (24, 8), (32, 8), (40, 4)]
  | 0x0B => [(16, 1), (17, 1), (24, 8), (32, 4)]
  | 0x0C => [(16, 1)]
  | 0x0D => [(16, 2), (18, 1), (19, 1), (20, 4), (24, 4), (32, 8), (40, 4)]
  | 0x0E => [(16, 1)]
  | 0x0F => [(16, 8), (24, 4), (28, 4), (32, 4), (36, 4), (40, 8), (48, 8), (56, 4)]
  | 0x10 => [(16, 4), (24, 8)]
  | _ => []

/-- Classes whose TARGET is given as 0 (04 R133). -/
def targetZero (cls : Nat) : Bool := [0x01, 0x02, 0x04, 0x05, 0x0A, 0x0D, 0x0E, 0x10].contains cls

/-- Byte `i` is listed by one of the fields. -/
def listed (fs : List (Nat × Nat)) (i : Nat) : Bool := fs.any fun f => decide (f.1 ≤ i) && decide (i < f.1 + f.2)

/-- All bytes from `lo` to `hi - 1` that the fields do not list are zero. -/
def unlistedZero (byte : Nat → Nat) (fs : List (Nat × Nat)) (lo hi : Nat) : Bool :=
  (upFrom lo (hi - lo)).all fun i => listed fs i || byte i == 0

/-- The header and the reserved bytes are as 00 R7, 04 R132 and R133 require, and SUPERSEDE stands only on a
REGION_UPDATE. -/
def Desc.formOk (d : Desc) : Bool :=
  let c := d.cls
  decide (1 ≤ c) && decide (c ≤ 0x10) && d.flags / 16 == 0 && d.nat 2 2 == 0 &&
  (!d.supersede || c == 0x03) && (!targetZero c || d.target == 0) &&
  unlistedZero (fun i => d.nat i 1) (payloadOf c) 16 64

/-- The frames that `n` bytes of HBM from byte `b` touch. -/
def framesOf (b n : Nat) : List Nat :=
  if n = 0 then [] else upFrom (b / 0x200000) ((b + n - 1) / 0x200000 - b / 0x200000 + 1)

/-- State of frame `f`; a frame of a stack retired at start-up (03 R98) is retired. -/
def State.frameSt (s : State) (f : Nat) : FrameSt :=
  s.yard.frames.look (if s.scrub.retired.contains (f / 12288) then .retired else .unassigned) f

/-- The pool that holds a frame. -/
def State.framePool (s : State) (f : Nat) : Option Nat :=
  match s.frameSt f with
  | .pool p => some p
  | _ => none

/-- Every frame of the range lies in a pool that HOST.POOL_FUNC gives to function `fn`. -/
def State.framesGiven (s : State) (fn b n : Nat) : Bool :=
  (framesOf b n).all fun f => (s.framePool f).any fun p => s.poolFunc p == fn

/-- A descriptor of a context of function `fn` may name `n` bytes at `a` (04 R131, 10 R339): its reserved bits
are zero, it stays in its space, and for a VF it is host memory, a peer's or HBM of the VF's pools. The Yard
area is named by no descriptor. -/
def State.addrOk (s : State) (fn : Nat) (a : Word64) (n : Nat) : Bool :=
  addrRangeOk a n &&
  match addrSpace a with
  | some (.hbm b) =>
    if fn = 0 then true else s.framesGiven fn b n
  | some (.sram _ _) => fn == 0
  | some (.host _) => true
  | some (.peer _ _) => true
  | none => false

/-- An address with a length: an empty range names nothing. -/
def State.addrLenOk (s : State) (fn : Nat) (a : Word64) (n : Nat) : Bool :=
  if n = 0 then addrReservedZero a else s.addrOk fn a n

/-- The first status whose condition holds (04 R134). -/
def firstStatus (l : List (Bool × Status)) : Option Status :=
  match l with
  | [] => none
  | (b, st) :: r => if b then some st else firstStatus r

/-- A handle's epoch bits match the context's epoch (04 R135). -/
def State.handleEpochOk (s : State) (n h : Nat) : Bool := h / 2 ^ 24 == (s.ctxEpoch n).toNat % 256

/-- A handle of object `idx` of context `n` (04 R135). -/
def State.mkHandle (s : State) (n idx : Nat) : Nat := (s.ctxEpoch n).toNat % 256 * 2 ^ 24 + idx

def handleIdx (h : Nat) : Nat := h % 2 ^ 24

/-- A read of `n` bytes from a device address finds the errors of its lines (19 R626). -/
def State.touchAt (s : State) (a : Word64) (n : Nat) : State :=
  match addrKey a with
  | some k => if n = 0 then s else s.touch k n
  | none => s

/-- The first poisoned line of a device address range. -/
def State.poisonAt (s : State) (a : Word64) (n : Nat) : Option Nat :=
  (addrKey a).bind fun k => if n = 0 then none else firstPoisoned s.poison k n

/-- POISON_CONSUMED (18 R604). -/
def State.poisonEvent (s : State) (ctx line : Nat) : State := s.raise 0x1100 0x31F2 [.d (line * 64)] ctx

/-- A descriptor that consumes poison (18 R604). -/
def State.consume (s : State) (d : Desc) (line : Nat) : State :=
  (s.poisonEvent d.ctx line).complete d .eccUncorrectable 0 0

/-- The block that a descriptor's check reads: PARAM of STREAM_OPEN, STREAM_TAP and SCAN_START, the run block of
SMP_RUN (04 R133); none where the address is not allowed. -/
def State.paramRange (s : State) (d : Desc) : Word64 × Nat :=
  let r := match d.cls with
    | 0x0A => (d.addr 32, d.nat 40 4)
    | 0x0B => (d.addr 24, d.nat 32 4)
    | 0x0D => (d.addr 32, d.nat 40 4)
    | 0x0F => (d.addr 48, 128)
    | _ => (0, 0)
  if s.addrOk (s.ctxFunc d.ctx) r.1 r.2 then r else (r.1, 0)

/-- Take up the next descriptor of a ring if it is of class `cls`, or of no class at all: it starts, is checked,
and either completes with the first status that applies or goes on with `body` (04 R134, R142). A poisoned block
ends it (18 R604). -/
def State.take (s : State) (n q cls : Nat) (check : State → Desc → Option Status)
    (body : State → Desc → State) : State :=
  match s.nextDesc n q with
  | none => s
  | some d =>
    if d.cls ≠ cls ∧ 1 ≤ d.cls ∧ d.cls ≤ 0x10 then s
    else
      let s1 := s.startDesc d
      let d1 := { d with started := true, startedAt := s.gts, startedNow := s.now }
      if !d.formOk then s1.complete d1 .invalidDescriptor 0 0
      else
        let (a, n) := s1.paramRange d1
        let s1 := s1.touchAt a n
        match s1.poisonAt a n with
        | some l => s1.consume d1 l
        | none => match check s1 d1 with
          | some st => s1.complete d1 st 0 0
          | none => body s1 d1

/-- PG_OWNER allows the context to use the page (02 R73). -/
def State.ownerAllows (s : State) (b : Blk) (i n : Nat) : Bool :=
  let o := (s.page (slotOf b i)).ownerCtx.toNat
  !ownable b || o == 0xFF || o == n

/-- The descriptors of a context that have started and not completed. -/
def State.startedDescs (s : State) (n : Nat) : List Desc :=
  (s.ctx n).descs.filter fun d => d.started && !d.ending

end Sys2Proof.Machine
end

