-- ==== Sys2Proof/Machine/Sched.lean ====
section
/-! DEFINITION. The Signal Box's own computations: the admission evaluation (05 R159), the clock floor
(05 R188), the order of gangs (05 R164), the quantum (05 R165), broken guarantees (05 R187), and the cores
that a gang takes and gives back (05 R167, R178). -/

namespace Sys2Proof.Machine

/-- What the evaluation reads of an admitted context (05 R159). -/
structure AdmIn where
  ctx : Nat
  memFrames : Nat
  periodUs : Nat
  sliceKcyc : Nat
  coresMin : Nat
  dieMask : Nat
  deriving DecidableEq, Repr

/-- The capacity an evaluation works with. -/
structure Capacity where
  f0 : Nat
  f1 : Nat
  avail0 : Nat
  avail1 : Nat
  utilPct : Nat
  switchUs : Nat
  memLimit : Nat
  deriving DecidableEq, Repr

def ceilDiv (a b : Nat) : Nat := (a + b - 1) / b

/-- BROKEN bits (05 R156). -/
def bLatency : Nat := 1
def bCores : Nat := 2
def bMemory : Nat := 4

/-- Running sums of the evaluation: memory, load in 2^-16 core, and the broken bits found so far. -/
structure EvalAcc where
  mem : Nat
  used : Nat
  broken : List (Nat × Nat)
  deriving DecidableEq, Repr

def Capacity.capQ16 (k : Capacity) : Nat := (k.avail0 + k.avail1) * k.utilPct * 65536 / 100

/-- One context of the evaluation's loop (05 R159). -/
def evalOne (k : Capacity) (a : EvalAcc) (c : AdmIn) : EvalAcc :=
  let memOk := a.mem + c.memFrames ≤ k.memLimit
  let mem := if memOk then a.mem + c.memFrames else a.mem
  let b0 := if memOk then 0 else bMemory
  if c.periodUs = 0 then { a with mem := mem, broken := a.broken ++ [(c.ctx, b0)] }
  else
    let mask := if c.dieMask = 0 then 3 else c.dieMask
    let d0 := mask % 2 = 1
    let d1 := mask / 2 % 2 = 1
    let cores := (if d0 then k.avail0 else 0) + (if d1 then k.avail1 else 0)
    let f := if d0 ∧ d1 then min k.f0 k.f1 else if d0 then k.f0 else k.f1
    if cores < c.coresMin then { a with mem := mem, broken := a.broken ++ [(c.ctx, b0 + bCores + bLatency)] }
    else
      let t := ceilDiv (c.sliceKcyc * 1000) f + k.switchUs
      let u := ceilDiv (c.coresMin * t * 65536) c.periodUs
      if c.periodUs < t ∨ k.capQ16 < a.used + u then
        { a with mem := mem, broken := a.broken ++ [(c.ctx, b0 + bLatency)] }
      else { mem := mem, used := a.used + u, broken := a.broken ++ [(c.ctx, b0)] }

/-- The evaluation: broken bits by context and SBOX.LOAD.USED in 1/256 core (05 R159). -/
def evaluate (k : Capacity) (l : List AdmIn) : List (Nat × Nat) × Nat :=
  let a := l.foldl (evalOne k) ⟨0, 0, []⟩
  (a.broken, a.used / 256)

/-- The admission registers of a context as the evaluation reads them. -/
def State.admIn (s : State) (n : Nat) : AdmIn :=
  { ctx := n, memFrames := s.fld (cr n 0x110) 0 17, periodUs := (s.rd (cr n 0x104)).toNat,
    sliceKcyc := (s.rd (cr n 0x108)).toNat, coresMin := s.fld (cr n 0x10C) 0 7,
    dieMask := s.fld (cr n 0x10C) 16 2 }

def State.rank (s : State) (n : Nat) : Nat := s.fld (cr n 0x100) 0 2
def State.admOrder (s : State) (n : Nat) : Nat := (s.rd (cr n 0x124)).toNat
def State.broken (s : State) (n : Nat) : Nat := s.fld (cr n 0x120) 0 4

/-- Insert by a key into a list that is sorted by it, after equal keys. -/
def insertBy {α : Type} (lt : α → α → Bool) (x : α) : List α → List α
  | [] => [x]
  | y :: r => if lt x y then x :: y :: r else y :: insertBy lt x r

/-- Stable insertion sort. -/
def sortBy {α : Type} (lt : α → α → Bool) : List α → List α
  | [] => []
  | x :: r => insertBy (fun a b => !lt b a) x (sortBy lt r)

/-- The admitted contexts in the order of 05 R159: rank, then ADM_ORDER. -/
def State.admitted (s : State) : List Nat :=
  sortBy (fun a b => decide (s.rank a < s.rank b) ||
      (s.rank a == s.rank b && decide (s.admOrder a < s.admOrder b)))
    ((List.range 256).filter fun n => (s.ctx n).admitted)

/-! ### Cores -/

/-- The physical slot of logical core `c`; 0xF is absent (01 R14). -/
def State.slotOfCore (s : State) (c : Nat) : Nat := s.fld (ro .cl (c / 8) 0x40) (c % 8 * 4) 4

def State.absent (s : State) (c : Nat) : Bool := s.slotOfCore c == 15

/-- Power state in force (17 R579). -/
def State.pstate (s : State) : Nat := s.fld (ro .pwr 0 0x50) 0 3

/-- A compute die is powered: not in P3 or P4 (05, "When capacity falls"), and not cut off by its Couplings
(16 R551). -/
def State.dieUp (s : State) (d : Nat) : Bool := decide (s.pstate < 3) && !(s.cutOff.contains d)

/-- The core counts as available (05 R159: active, powered, non-absent), while its die's clocks are not stopped
for heat (17 R576). -/
def State.coreAvail (s : State) (c : Nat) : Bool :=
  !s.absent c && s.dieUp (c / 32) && !s.pwr.stopped.contains (c / 32)

def State.core (s : State) (c : Nat) : Core := s.cores.look Core.reset c

def State.setCore (s : State) (c : Nat) (k : Core) : State := { s with cores := s.cores.put c k }

def State.updCore (s : State) (c : Nat) (f : Core → Core) : State := s.setCore c (f (s.core c))

/-- Available, accepting new work and holding no gang. -/
def State.coreIdle (s : State) (c : Nat) : Bool :=
  s.coreAvail c && (s.core c).gang.isNone && s.blockOn .co c

def State.availOn (s : State) (d : Nat) : Nat := ((upFrom (32 * d) 32).filter s.coreAvail).length
def State.idleOn (s : State) (d : Nat) : Nat :=
  ((upFrom (32 * d) 32).filter fun c => !s.absent c && (s.core c).gang.isNone).length

/-- SBOX.CORES (05 R189). -/
def State.countCores (s : State) : State :=
  let a := ro .sbox 0 0x58
  let a0 := s.availOn 0
  let a1 := s.availOn 1
  (((s.setFld a 0 7 (a0 + a1)).setFld a 8 7 (s.idleOn 0 + s.idleOn 1)).setFld a 16 7 a0).setFld a 24 7 a1

/-- Capacity at the current clocks (05 R185). -/
def State.capacity (s : State) : Capacity :=
  let cfg := ro .sbox 0 0x48
  { f0 := s.fld (ro .pwr 0 0x60) 0 11, f1 := s.fld (ro .pwr 0 0x60) 16 11,
    avail0 := s.availOn 0, avail1 := s.availOn 1, utilPct := s.actFld cfg 12 7,
    switchUs := s.actFld cfg 24 8, memLimit := s.fld (ro .sbox 0 0x4C) 0 17 }

/-- Capacity with both clocks replaced (05 R160, R188). -/
def Capacity.atMhz (k : Capacity) (f : Nat) : Capacity := { k with f0 := f, f1 := f }

/-- Clock `f` sets LATENCY on no budgeted context but those that also get CORES (05 R188). -/
def clockHolds (k : Capacity) (l : List AdmIn) (f : Nat) : Bool :=
  (evaluate (k.atMhz f) l).1.all fun e => e.2 % 2 == 0 || e.2 / 2 % 2 == 1

/-- SBOX.REQ_MHZ (05 R188). -/
def reqMhz (k : Capacity) (l : List AdmIn) : Nat :=
  ((upFrom 200 1301).find? (clockHolds k l)).getD 1500

/-- The tag of the earliest-fetched RUN of the context that runs or waits (05 R187). -/
def State.earliestRunTag (s : State) (n : Nat) : Word64 :=
  match (s.ctx n).descs.find? fun d => d.cls == 0x01 && d.started && !d.ending with
  | some d => d.tag
  | none => 0

/-- One GUARANTEE_BROKEN notice with its event (05 R187). -/
def State.breakNotice (s : State) (n kind cause : Nat) : State :=
  let s := s.notify n .guaranteeBroken 0 (s.earliestRunTag n) kind cause
  let s := s.addFld (ro .sbox 0 0x64) 16 16 1
  s.raise 0x1100 0x21C2 [.w kind, .w cause] n

/-- Install new BROKEN bits of one context (05 R185, R187). -/
def State.installBroken (s : State) (cause n new : Nat) : State :=
  let old := s.broken n
  let gained := fun b => new / b % 2 = 1 ∧ old / b % 2 = 0
  let lost := fun b => new / b % 2 = 0 ∧ old / b % 2 = 1
  let s := s.setFld (cr n 0x120) 0 4 new
  let s := if gained bCores then s.breakNotice n 3 cause else s
  let s := if gained bLatency then s.breakNotice n 1 cause else s
  let s := if gained bMemory then s.breakNotice n 4 cause else s
  let s := if lost bCores then s.raise 0x1100 0x01C3 [.w 3] n else s
  let s := if lost bLatency then
      (s.setCtx n { s.ctx n with restoredWaiting := true }).raise 0x1100 0x01C3 [.w 1] n else s
  let s := if lost bMemory then s.raise 0x1100 0x01C3 [.w 4] n else s
  if new % 2 = 1 then s.setCtx n { s.ctx n with heldWholePeriod := false } else s

/-- SBOX.BROKEN_COUNT.NOW (05 R189). -/
def State.countBroken (s : State) : State :=
  s.setFld (ro .sbox 0 0x64) 0 16 ((List.range 256).filter fun n => s.broken n != 0).length

/-- SBOX.MEM_RSV_SUM: the reservations currently held; a context with MEMORY broken has none (05 R186). -/
def State.sumReservations (s : State) : State :=
  s.setFld (ro .sbox 0 0x50) 0 17
    ((s.admitted.filter fun n => s.broken n / 4 % 2 == 0).foldl
      (fun a n => a + s.fld (cr n 0x110) 0 17) 0)

/-- A change that 05 R185 evaluates; the latest cause counts (05 R187). -/
def State.evalWanted (s : State) (cause : Nat) : State :=
  { s with sbox := { s.sbox with evalDue := some cause, evalChange := true } }

/-- An accepted OPEN or the release of an admission, which change no capacity (05 R185). -/
def State.evalAdmission (s : State) (cause : Nat) : State :=
  { s with sbox := { s.sbox with evalDue := some cause } }

/-! ### Gangs -/

def State.gang (s : State) (u : Nat) : Option Gang := s.sbox.gangs.find? fun g => g.uid == u

def State.updGang (s : State) (u : Nat) (f : Gang → Gang) : State :=
  { s with sbox := { s.sbox with gangs := s.sbox.gangs.map fun g => if g.uid = u then f g else g } }

/-- The context whose order a gang has: its own, or for a decode step its highest-ordered member (05 R170). -/
def State.gangRank (s : State) (g : Gang) : Nat :=
  match g.members with
  | [] => s.rank g.ctx
  | m => m.foldl (fun r e => min r (s.rank e.2)) 3

def State.deadline (s : State) (n : Nat) : Nat := (s.rd64 (cr n 0x128)).toNat

/-- Class B for context `n` (05 R164). -/
def State.classB (s : State) (n : Nat) : Bool :=
  (s.rd (cr n 0x104)).toNat != 0 && s.broken n % 2 == 0 && !(s.ctx n).restoredWaiting &&
  decide (0 < (s.rd (cr n 0x130)).toNat)

/-- The contexts whose work a gang is. -/
def Gang.ctxs (g : Gang) : List Nat :=
  match g.members with
  | [] => [g.ctx]
  | m => m.map Prod.snd

def State.gangCtxs (_s : State) (g : Gang) : List Nat := g.ctxs

/-- The key by which gangs are ordered: class B before Q, rank, deadline or ready time, ADM_ORDER (05 R164);
a step takes the lowest key of its members. -/
def State.ctxKey (s : State) (g : Gang) (n : Nat) : List Nat :=
  if s.classB n then [0, s.rank n, s.deadline n, s.admOrder n] else [1, s.rank n, g.readyAt, g.uid]

def keyLt : List Nat → List Nat → Bool
  | a :: r, b :: q => decide (a < b) || (a == b && keyLt r q)
  | _, _ => false

def State.gangKey (s : State) (g : Gang) : List Nat :=
  match s.gangCtxs g with
  | [] => s.ctxKey g g.ctx
  | n :: r => r.foldl (fun k m => if keyLt (s.ctxKey g m) k then s.ctxKey g m else k) (s.ctxKey g n)

/-- Gang `a` is ordered ahead of gang `b`. -/
def State.gangBefore (s : State) (a b : Gang) : Bool := keyLt (s.gangKey a) (s.gangKey b)

def State.gangClassB (s : State) (g : Gang) : Bool := (s.gangKey g).headD 1 == 0

/-- Waiting for cores: a new gang, or one whose images are saved. -/
def Gang.waits (g : Gang) : Bool := g.phase = .waiting || g.phase = .saved

/-- The first waiting gang in the order of 05 R164. -/
def State.firstWaiting (s : State) : Option Gang :=
  (sortBy s.gangBefore (s.sbox.gangs.filter Gang.waits)).head?

/-- The quantum of a class Q gang in µs (05 R165). -/
def State.quantum (s : State) (g : Gang) : Nat :=
  let w := s.fld (ro .sbox 0 0x44) (s.gangRank g * 8) 8
  max 10 (s.fld (ro .sbox 0 0x40) 0 14 * (if w = 0 then 1 else w) / 8)

/-- ADM_STAT.HELD_CORES (05 R156). -/
def State.countHeld (s : State) (n : Nat) : State :=
  s.setFld (cr n 0x120) 16 7
    ((List.range 64).filter fun c =>
      (s.core c).gang.any fun u => (s.gang u).any fun g => g.ctx == n).length

/-- PREEMPTED or RUNNING as 05 R178 says. A decode step is work of each of its members' contexts; a RUN that waits to be
replayed has not been preempted. -/
def State.settleRun (s : State) (n : Nat) : State :=
  let holds := s.sbox.gangs.any fun g => g.ctxs.contains n && !g.cores.isEmpty
  let gone := s.sbox.gangs.any fun g => g.ctx == n && g.members.isEmpty && g.phase = .saved && !g.replaying
  let st := s.ctxState n
  if st = stRunning ∧ !holds ∧ gone then s.setCtxState n stPreempted
  else if st = stPreempted ∧ (holds ∨ !gone) then s.setCtxState n stRunning
  else s

/-- CO.STAT and the core's holder when a gang takes or gives back a core (07 R268). -/
def State.holdCore (s : State) (c : Nat) (g : Option (Nat × Nat × Nat)) : State :=
  match g with
  | some (u, ctx, idx) =>
    let s := s.updCore c fun k => { k with gang := some u, idx := idx }
    (s.setFld (ro .co c 0x40) 0 8 ctx).setFld (ro .co c 0x40) 8 7 idx
  | none =>
    let s := s.updCore c fun k => { k with gang := none }
    (s.wr (ro .co c 0x40) 0xFF)

/-- Some gang holds a core. -/
def State.computing (s : State) : Bool := s.sbox.gangs.any fun g => !g.cores.isEmpty

/-- Compute has become idle (17 R561, R562). -/
def State.noteIdle (s : State) : State :=
  if s.computing ∨ s.pwr.idleSince.isSome then s else { s with pwr := { s.pwr with idleSince := some s.now } }

/-- A compute idle interval ends: the running average takes it in (17 R562). -/
def State.noteBusy (s : State) : State :=
  match s.pwr.idleSince with
  | none => s
  | some t =>
    let a := ro .pwr 0 0x58
    let avg : Int := (s.rd a).toNat
    let us : Int := ((s.now - t) / 1000 : Nat)
    let v := avg + Int.tdiv (us - avg) 8
    { s.wr a (BitVec.ofInt 32 (max 0 (min 4294967295 v))) with pwr := { s.pwr with idleSince := none } }

/-- A gang's cores become idle (05 R175). -/
def State.freeCores (s : State) (g : Gang) : State :=
  let s := g.cores.foldl (fun s c => s.holdCore c none) s
  let s := (((s.updGang g.uid fun g => { g with cores := [] }).countCores).countHeld g.ctx).noteIdle
  if g.members.isEmpty then s else g.ctxs.foldl State.settleRun s

/-- A gang ends: its cores become idle and it leaves the Signal Box. -/
def State.dropGang (s : State) (g : Gang) : State :=
  let s := s.freeCores g
  { s with sbox := { s.sbox with gangs := s.sbox.gangs.filter fun h => h.uid != g.uid } }

end Sys2Proof.Machine
end

