-- ==== Sys2Proof/Machine/Sync.lean ====
section
/-! DEFINITION. The GTS and time across a consist (18 R582 to R589, 01 R40). -/

namespace Sys2Proof.Machine

def gtsA (o : Nat) : Nat := ro .gts 0 o

def State.withSync (s : State) (f : Sync → Sync) : State := { s with sync := f s.sync }

def syFree : Nat := 0
def syAcquiring : Nat := 1
def syLocked : Nat := 2
def syHoldover : Nat := 3

/-- GTS.SYNC_STAT.STATE. -/
def State.syncSt (s : State) : Nat := s.fld (gtsA 0x54) 0 2
def State.setSyncSt (s : State) (n : Nat) : State := s.setFld (gtsA 0x54) 0 2 n

/-- KLR.ID: consist state, package, CONSIST_EPOCH (16 R553). -/
def csSolo : Nat := 0
def csMember : Nat := 1
def csFenced : Nat := 2
def csQuarantine : Nat := 3

def klrA (o : Nat) : Nat := ro .klr 0 o
def State.consist (s : State) : Nat := s.fld (klrA 0x40) 4 2
def State.pkgId (s : State) : Nat := s.fld (klrA 0x40) 0 4
def State.consistEpoch (s : State) : Nat := s.fld (klrA 0x40) 16 16

/-- The GTS steps forward: period boundaries and deadlines of budgeted contexts move with it (05 R168). -/
def State.stepGts (s : State) (n : Nat) : State :=
  let move := fun (s : State) (c : Nat) =>
    if (s.ctx c).admitted ∧ (s.rd (cr c 0x104)).toNat ≠ 0 then
      (s.setCtx c { s.ctx c with periodAt := (s.ctx c).periodAt + n }).add64 (cr c 0x128) n
    else s
  (List.range 256).foldl move { s with gts := s.gts + n }

/-- 18 R584: a write of GTS.SET_HI takes effect: forward, and only while SOLO. `low` is the low half, from the
same 8-byte write or from the write latch. -/
def State.setGts (s : State) (low hi : Word) : State :=
  let v := low.toNat + hi.toNat * 2 ^ 32
  let old := s.gts
  let s := (s.wr (gtsA 0x48) low).wr (gtsA 0x4C) hi
  if s.consist = csSolo ∧ old < v then (s.stepGts (v - old)).raise 0x0001 0x0060 [.d old, .d v] else s

/-- 01 R40: the GTS PLL relocks and the GTS counts single nanoseconds again. -/
def execGtsPllRelock (s : State) : Next :=
  if s.sync.pll ∨ !s.boot.refclk ∨ s.boot.refLost ∨ s.pst = 4 then .next s
  else .next ({ s with gtsPart := 0 }.withSync fun y => { y with pll := true })

/-- A port is USABLE (16 R552). -/
def State.portUsable (s : State) (n : Nat) : Bool := s.bit (ro .kl n 0x40) 3

def State.klPort (s : State) (n : Nat) : KlPort := s.kl.ports.look KlPort.reset n

/-- The ports that KLR.ROUTE[d] yields: the usable ports of PRIMARY, or else those of ALT (16 R528). -/
def State.routePorts (s : State) (d : Nat) : List Nat :=
  let pick := fun (lo : Nat) =>
    (List.range 8).filter fun p => s.portUsable p && bitsOf (s.act (klrA (0x900 + 4 * d))) (lo + p) 1 == 1
  if (pick 0).isEmpty then pick 8 else pick 0

/-- The package steers its GTS: a MEMBER other than package 0 with SYNC_CFG.EN (18 R585, R588). -/
def State.syncChild (s : State) : Bool :=
  s.consist == csMember && s.pkgId != 0 && s.bit (gtsA 0x50) 0

/-- The parent that R585 names: the peer on the lowest-numbered port in use towards package 0, if it is LOCKED. -/
def State.parent (s : State) : Option Nat := (s.routePorts 0).head?.filter fun p => (s.klPort p).locked

/-- GTS_SYNC_LOST with the last theta (18 R588). -/
def State.syncLost (s : State) : State := s.raise 0x0001 0x2062 [.d (s64 s.sync.theta)]

/-- A parent is chosen anew, and the package returns to ACQUIRING (18 R585, R588). -/
def State.chooseParent (s : State) : State :=
  if !s.syncChild ∨ s.syncSt = syFree then s
  else match s.parent with
    | some p =>
      let s := (s.setFld (gtsA 0x54) 4 3 p).setFld (gtsA 0x54) 8 4 ((s.klPort p).hops + 1)
      (s.setSyncSt syAcquiring).withSync fun y => { y with samples := [], good := 0, lostSince := none }
    | none => s.withSync fun y => { y with lostSince := some (y.lostSince.getD s.now) }

/-- SOLO, or SYNC_CFG.EN = 0: FREE (18 R588). -/
def State.syncFree (s : State) : State :=
  ((s.setSyncSt syFree).setFld (gtsA 0x54) 2 1 0).withSync fun y =>
    { y with samples := [], good := 0, lostSince := none }

/-- The state after an installation (18 R588). -/
def State.syncInstall (s : State) : State :=
  if !s.bit (gtsA 0x50) 0 then s.syncFree
  else if s.pkgId = 0 then
    (((s.setSyncSt syLocked).setFld (gtsA 0x54) 2 1 1).setFld (gtsA 0x54) 8 4 0).wr (gtsA 0x58) 0
  else ((s.setSyncSt syAcquiring).setFld (gtsA 0x54) 2 1 0).chooseParent

/-- 18 R586: offset and round trip of an exchange. -/
def syncSample (t1 t2 t3 t4 : Int) : Int × Int := (Int.tdiv ((t1 - t2) + (t4 - t3)) 2, (t4 - t1) - (t3 - t2))

/-- The sample with the smallest rtt; the newest of equals. -/
def bestSample (l : List (Int × Int)) : Int :=
  match l with
  | [] => 0
  | x :: r => (r.foldl (fun (b y : Int × Int) => if y.2 < b.2 then y else b) x).1

/-- The s32 that holds an offset, saturating (18 R611). -/
def satS32 (i : Int) : Word := BitVec.ofInt 32 (max (-2147483648) (min 2147483647 i))

/-- A sample is kept, OFFSET follows, and the state moves as 18 R588 says. -/
def State.takeSample (s : State) (hb : Heartbeat) (t1 t2 t4 : Nat) : State :=
  let l := (syncSample t1 t2 hb.t3 t4 :: s.sync.samples).take 16
  let th := bestSample l
  let good := if th.natAbs ≤ 100 then s.sync.good + 1 else 0
  let s := (s.withSync fun y => { y with samples := l, theta := th, good := good }).wr (gtsA 0x58)
    (satS32 (th + hb.offset))
  if s.syncSt = syAcquiring ∧ 16 ≤ good then
    (s.setSyncSt syLocked).raise 0x0001 0x0061 [.w (s.fld (gtsA 0x54) 8 4), .d (s64 (s.rd (gtsA 0x58)).toInt)]
  else if s.syncSt = syLocked ∧ 1000 < th.natAbs then
    ((s.setSyncSt syAcquiring).withSync fun y => { y with good := 0 }).syncLost
  else s

/-- What a heartbeat on `port` means for the synchronisation: a sample from the parent; the loss or the return
of a usable parent. -/
def State.syncHeartbeat (s : State) (port : Nat) (hb : Heartbeat) : State :=
  if !s.syncChild ∨ s.syncSt = syFree then s
  else if s.syncSt = syHoldover then (if s.parent.isSome then s.chooseParent else s)
  else if port ≠ s.fld (gtsA 0x54) 4 3 then s
  else if hb.locked ∧ (s.routePorts 0).contains port then
    let s := (s.withSync fun y => { y with lostSince := none }).setFld (gtsA 0x54) 8 4 (hb.hops + 1)
    match hb.echo with
    | some (t1, t2) => s.takeSample hb t1 t2 s.gts
    | none => s
  else s.withSync fun y => { y with lostSince := some (y.lostSince.getD s.now) }

/-- HOLDOVER (18 R588). -/
def State.holdover (s : State) : State :=
  if s.syncSt = syAcquiring ∨ (s.syncSt = syLocked ∧ !s.bit (gtsA 0x54) 2) then
    (s.setSyncSt syHoldover).syncLost
  else s

/-- Move the GTS by tenths of a nanosecond: whole counts are doubled or omitted (18 R587). -/
def State.slew (s : State) (tenths : Int) : State :=
  let total := s.sync.part + tenths
  let whole := Int.tdiv total 10
  let s := s.withSync fun y => { y with part := Int.tmod total 10, rate := tenths }
  if 0 ≤ whole then { s with gts := s.gts + whole.toNat }
  else s.withSync fun y => { y with skip := y.skip + whole.natAbs }

/-- 18 R587: the correction of one 100 µs interval. After a step the samples taken before it are dropped. -/
def execSyncCorrect (s : State) : Next :=
  if s.syncSt = syHoldover then .next (s.slew s.sync.rate)
  else if !s.syncChild ∨ s.syncSt = syFree then .next s
  else
    let th := s.sync.theta
    if th < -1000000 then
      let n := th.natAbs
      let s := (s.stepGts n).withSync fun y => { y with samples := [], theta := 0, good := 0 }
      .next (s.raise 0x0001 0x1063 [.d n])
    else
      let ppm : Int := max 1 (s.fld (gtsA 0x50) 8 8)
      let amt : Int := min ppm (th.natAbs * 10)
      .next (s.slew (if 0 < th then -amt else amt))

/-- 18 R588: no usable parent for 1 ms. -/
def execSyncParentLoss (s : State) : Next :=
  if s.syncChild ∧ s.sync.lostSince.any (fun t => decide (t + 1000000 ≤ s.now)) then .next s.holdover
  else .next s

end Sys2Proof.Machine
end

