-- ==== Sys2Proof/Machine/CoreOps.lean ====
section
/-! DEFINITION. Operations on the cores that several units share. -/

namespace Sys2Proof.Machine

/-- Tidy core `t` of a core. -/
def Core.tidy (k : Core) (t : Nat) : Tidy := if t = 0 then k.tc0 else k.tc1

def Core.updTidy (k : Core) (t : Nat) (f : Tidy → Tidy) : Core :=
  if t = 0 then { k with tc0 := f k.tc0 } else { k with tc1 := f k.tc1 }

/-- The gang that holds core `c`. -/
def State.gangOf (s : State) (c : Nat) : Option Gang := (s.core c).gang.bind s.gang

/-- Core `c`'s gang runs its slice, and the core is not frozen (07 R269, 19 R619). -/
def State.coreRuns (s : State) (c : Nat) : Bool :=
  (s.gangOf c).any (fun g => g.phase = .running) && !s.frozen .co c && !s.pwr.stopped.contains (c / 32)

/-- Tidy core `t` of core `c` issues its next instruction. -/
def State.tcRuns (s : State) (c t : Nat) : Bool :=
  let k := (s.core c).tidy t
  s.coreRuns c && k.runs && !k.ended && (!k.halted || k.stepping) && k.stall = .none

def State.updTidy (s : State) (c t : Nat) (f : Tidy → Tidy) : State := s.updCore c fun k => k.updTidy t f

/-- The place of a new launch: behind what the MEs, the data mover's queue 1 and the row-statistics unit hold. -/
def Core.nextOrder (k : Core) : Nat :=
  let pend := k.me.flatMap (fun e => e.2.lists.map Prod.fst) ++ k.dm1.descs ++ k.rs.queue
  pend.foldl (fun a l => max a l.order) 0 + 1

/-- Where a launching store stands. -/
def State.launchAt (s : State) (c t addr : Nat) : Launch :=
  ⟨addr, t, ((s.core c).tidy t).pc, (s.core c).nextOrder⟩

/-- Bytes of the instruction at the program counter: 2 for a compressed one. -/
def State.tcLen (s : State) (c t : Nat) : Nat :=
  let pc := ((s.core c).tidy t).pc.toNat
  if pc < 65536 ∧ (memGet s.mem (kScratch c t pc)).toNat % 4 ≠ 3 then 2 else 4

/-- An instruction retires. -/
def Tidy.retire (k : Tidy) : Tidy := { k with stepping := false, instret := k.instret + 1 }

/-- The program counter goes on by an instruction of `len` bytes. -/
def State.tcPass (s : State) (c t len : Nat) : State :=
  s.updTidy c t fun k => { k with pc := k.pc + BitVec.ofNat 32 len }.retire

/-- The store that launches a descriptor is done: the program counter goes on. -/
def State.tcNext (s : State) (c t : Nat) : State := s.tcPass c t (s.tcLen c t)

end Sys2Proof.Machine
end

