-- ==== Sys2Proof/Machine/Pixel.lean ====
section
/-! DEFINITION. Pixels: colour conversion (12 R430), decimation and resampling (12 R431, 08 R289), tap
elements and where they lie (12 R432, 08 R271), and bytes of a pool (10 R341). -/

namespace Sys2Proof.Machine

/-- Coefficients KY, KRV, KGU, KGV, KBU of a matrix code and whether its range is limited (12 R430). -/
def matrixOf : Nat → (Int × Int × Int × Int × Int) × Bool
  | 0 => ((19077, 26149, -6419, -13320, 33050), true)
  | 1 => ((19077, 29372, -3494, -8731, 34610), true)
  | 2 => ((16384, 25802, -3069, -7670, 30402), false)
  | 3 => ((19077, 27503, -3069, -10657, 35092), true)
  | _ => ((16384, 22970, -5638, -11700, 29032), false)

/-- Integer R′G′B′ at depth `b` (12 R430). -/
def toRgb (matrix b : Nat) (y cb cr : Int) : Int × Int × Int :=
  let ((ky, krv, kgu, kgv, kbu), lim) := matrixOf matrix
  let yo : Int := if lim then 16 * 2 ^ (b - 8) else 0
  let co : Int := 128 * 2 ^ (b - 8)
  let fin := fun (v : Int) => clampInt 0 (2 ^ b - 1) ((v + 8192) / 2 ^ 14)
  (fin (ky * (y - yo) + krv * (cr - co)),
   fin (ky * (y - yo) + kgu * (cb - co) + kgv * (cr - co)),
   fin (ky * (y - yo) + kbu * (cb - co)))

/-- Channel `c` of a COLOUR code (0 RGB, 1 BGR, 2 Y) from R, G, B and Y. -/
def pickChannel (colour c : Nat) (rgb : Int × Int × Int) (y : Int) : Int :=
  if colour = 2 then y
  else match (if colour = 1 then 2 - c else c) with
    | 0 => rgb.1 | 1 => rgb.2.1 | _ => rgb.2.2

def channelsOf (colour : Nat) : Nat := if colour = 2 then 1 else 3

/-- Decimation factor: the largest of 8, 4, 2 and 1 that is at most c / o (12 R431). -/
def decFactor (c o : Nat) : Nat :=
  let q := if o = 0 then 1 else c / o
  if 8 ≤ q then 8 else if 4 ≤ q then 4 else if 2 ≤ q then 2 else 1

/-- dec of 12 R431 over a source `src y x`. -/
def decSample (src : Nat → Nat → Int) (x0 y0 dx dy yy xx : Nat) : F32 :=
  let s : Int := (List.range dy).foldl (fun a i => (List.range dx).foldl
    (fun b j => b + src (y0 + yy * dy + i) (x0 + xx * dx + j)) a) 0
  f32OfInt ((s + ((dx * dy / 2 : Nat) : Int)) / ((dx * dy : Nat) : Int))

/-- A box of a detection record. -/
structure Box where
  x1 : F32
  y1 : F32
  x2 : F32
  y2 : F32
  deriving DecidableEq, Repr

/-- 08 R290 without the image index: a coordinate is not finite, or the box is inverted. -/
def Box.bad (b : Box) : Bool :=
  !f32Finite b.x1 || !f32Finite b.y1 || !f32Finite b.x2 || !f32Finite b.y2 || f32Lt b.x2 b.x1 ||
  f32Lt b.y2 b.y1

/-- floor of a finite non-negative FP32 value. -/
def f32FloorNat (v : F32) : Nat := (((f32 v).toInt .rdn).getD 0).toNat

/-- crop_value of 08 R289, with its own multiplier for each axis (12 R431). -/
def cropValue (v : Nat → Nat → F32) (b : Box) (csx csy : F32) (oh ow i j ih iw : Nat) : F32 :=
  let y1 := f32Mul b.y1 csy
  let x1 := f32Mul b.x1 csx
  let sy := f32Div (f32Sub (f32Mul b.y2 csy) y1) (f32OfNat oh)
  let sx := f32Div (f32Sub (f32Mul b.x2 csx) x1) (f32OfNat ow)
  let y := f32Sub (f32Add y1 (f32Mul (f32Add (f32OfNat i) f32Half) sy)) f32Half
  let x := f32Sub (f32Add x1 (f32Mul (f32Add (f32OfNat j) f32Half) sx)) f32Half
  if f32IsNan y || f32IsNan x then Config.nanSample
  else
    let y := f32Max f32Zero (f32Min (f32OfNat (ih - 1)) y)
    let x := f32Max f32Zero (f32Min (f32OfNat (iw - 1)) x)
    let y0 := f32FloorNat y
    let x0 := f32FloorNat x
    let ya := min (y0 + 1) (ih - 1)
    let xa := min (x0 + 1) (iw - 1)
    let fy := f32Sub y (f32OfNat y0)
    let fx := f32Sub x (f32OfNat x0)
    let top := f32Add (v y0 x0) (f32Mul fx (f32Sub (v y0 xa) (v y0 x0)))
    let bot := f32Add (v ya x0) (f32Mul fx (f32Sub (v ya xa) (v ya x0)))
    f32Add top (f32Mul fy (f32Sub bot top))

/-- An output element: sat8(round_half_even(v × MUL + ADD)) (12 R431). -/
def tapByte (v mul add : F32) : Byte :=
  match sat8 (f32Add (f32Mul v mul) add) with
  | some n => BitVec.ofInt 8 n
  | none => Config.nanByte

/-- tap_value of 12 R431 in SCALE mode. -/
def scaleValue (t : TapCfg) (src : Nat → Nat → Int) (i j : Nat) : F32 :=
  let dx := decFactor t.cw t.outW
  let dy := decFactor t.ch t.outH
  cropValue (fun y x => decSample src t.x0 t.y0 dx dy y x)
    ⟨f32Zero, f32Zero, f32OfNat (t.cw / dx), f32OfNat (t.ch / dy)⟩ f32One f32One t.outH t.outW i j (t.ch / dy)
    (t.cw / dx)

/-- Bytes between the pixels of a tap's output (12 R432). -/
def TapCfg.step (t : TapCfg) : Nat := if t.packed then t.pitch else 32

/-- Bytes of one pixel: the channels, with the padding channels of a pixel block as zero. -/
def TapCfg.pixel (t : TapCfg) (elem : Nat → Byte) : List Byte :=
  let n := channelsOf t.colour
  (List.range n).map elem ++ (if t.packed then [] else List.replicate (32 - n) 0)

/-- Address of the slot that picture T of a tap goes to. -/
def TapCfg.slot (t : TapCfg) (written : Word) : Word64 :=
  t.dst + BitVec.ofNat 64 (written.toNat % t.nslot * t.slotBytes)

/-- Store at a device address. -/
def State.storeAt (s : State) (a : Word64) (bs : List Byte) : State :=
  match addrKey a with
  | some k => s.store k bs
  | none => s

def State.loadAt (s : State) (a : Word64) (n : Nat) : List Byte :=
  match addrKey a with
  | some k => s.load k n
  | none => []

def State.natAt (s : State) (a : Word64) (n : Nat) : Nat := leNat (s.loadAt a n)

/-- Write one row of output pixels from `base` on. -/
def State.writeRow (s : State) (t : TapCfg) (base : Word64) (i : Nat) (elem : Nat → Nat → Byte) : State :=
  (List.range t.outW).foldl (fun s j =>
    s.storeAt (base + BitVec.ofNat 64 ((i * t.outW + j) * t.step)) (t.pixel fun c => elem c j)) s

/-- The progress block at the start of a picture (12 R433). -/
def State.progressStart (s : State) (t : TapCfg) (written : Word) (capture : Nat) : State :=
  s.storeAt t.progress (leBytes 4 written.toNat ++ leBytes 4 0 ++ leBytes 8 capture)

def State.progressDone (s : State) (t : TapCfg) (n : Nat) : State :=
  s.storeAt (t.progress + 4) (leBytes 4 n)

/-- A tap has a free slot: T − CREDIT is below NSLOT (12 R433). -/
def State.slotFree (s : State) (t : TapCfg) (written : Word) : Bool :=
  decide ((written - BitVec.ofNat 32 (s.natAt t.credit 4)).toNat < t.nslot)

/-! ### Bytes of a pool (10 R341) -/

def frameBytes : Nat := 0x200000

/-- HBM key of byte `x` of a pool's linear space. -/
def State.poolKey (s : State) (p x : Nat) : Nat :=
  let fs := match s.yard.pools.look? p with
    | some q => q.frames
    | none => []
  kHbm (fs.getD (x / frameBytes) 0 * frameBytes + x % frameBytes)

def State.poolByte (s : State) (p x : Nat) : Byte := memGet s.mem (s.poolKey p x)

def State.poolLoad (s : State) (p x n : Nat) : List Byte := (List.range n).map fun i => s.poolByte p (x + i)

/-- Store bytes into a pool's linear space, frame by frame. -/
def State.poolStoreN (s : State) (p x : Nat) (bs : List Byte) (fuel : Nat) : State :=
  match fuel with
  | 0 => s
  | fuel + 1 =>
    let room := frameBytes - x % frameBytes
    if bs.length ≤ room then s.store (s.poolKey p x) bs
    else (s.store (s.poolKey p x) (bs.take room)).poolStoreN p (x + room) (bs.drop room) fuel

def State.poolStore (s : State) (p x : Nat) (bs : List Byte) : State :=
  s.poolStoreN p x bs (bs.length / frameBytes + 2)

/-- The runs of keys that `n` bytes from byte `x` of a pool occupy: key and length, frame by frame. -/
def State.poolSpans (s : State) (p x n fuel : Nat) : List (Nat × Nat) :=
  match fuel with
  | 0 => []
  | fuel + 1 =>
    let room := frameBytes - x % frameBytes
    if n = 0 then []
    else if n ≤ room then [(s.poolKey p x, n)]
    else (s.poolKey p x, room) :: s.poolSpans p (x + room) (n - room) fuel

def State.spansOf (s : State) (p x n : Nat) : List (Nat × Nat) := s.poolSpans p x n (n / frameBytes + 2)

/-- Bytes of a pool's linear space become undefined. -/
def State.undefinePool (s : State) (p x n : Nat) : State :=
  (s.spansOf p x n).foldl (fun (s : State) (e : Nat × Nat) => s.undefine e.1 e.2) s

end Sys2Proof.Machine
end

