-- ==== Sys2Proof/Machine/Roundhouse.lean ====
section
/-! DEFINITION. What decode, encode and camera streams share: their handles, the Roundhouse's buffers (12
R426 to R428), media pools, rings bound to streams (12 R416 to R419), and the checks of PARAM blocks. -/

namespace Sys2Proof.Machine

/-- Object indices of all open streams. -/
def State.streamKeys (s : State) : List Nat :=
  s.media.decs.keys ++ s.media.encs.keys ++ s.media.cams.keys

/-- The lowest free object index. -/
def State.newStream (s : State) : Nat := (lowestFree 0x1000000 s.streamKeys).getD 0

def State.dec (s : State) (i : Nat) : Option DecStream := s.media.decs.look? i
def State.enc (s : State) (i : Nat) : Option EncStream := s.media.encs.look? i
def State.cam (s : State) (i : Nat) : Option CamStream := s.media.cams.look? i

def State.setDec (s : State) (i : Nat) (d : DecStream) : State :=
  { s with media := { s.media with decs := s.media.decs.put i d } }
def State.setEnc (s : State) (i : Nat) (d : EncStream) : State :=
  { s with media := { s.media with encs := s.media.encs.put i d } }
def State.setCam (s : State) (i : Nat) (d : CamStream) : State :=
  { s with media := { s.media with cams := s.media.cams.put i d } }

/-- The ring that a stream binds. -/
def State.boundStream (s : State) (n q : Nat) : Option Nat :=
  match s.media.decs.find? fun e => e.2.ctx == n && e.2.ring == q with
  | some e => some e.1
  | none => (s.media.encs.find? fun e => e.2.ctx == n && !e.2.param.linked && e.2.param.ring == q).map
      Prod.fst

/-- RHS.STREAMS, RHS.BUFS and TTB.TAPS (12 R444). -/
def State.countMedia (s : State) : State :=
  let bufs := (s.media.decs.map fun e => e.2.bufs.length).sum + (s.media.encs.map fun e => e.2.bufs.length).sum
    + (s.media.cams.map fun e => e.2.bufs.length).sum
  let taps := (s.media.decs.map fun e => e.2.taps.length).sum
  (((s.setFld (ro .rhs 0 0x40) 0 9 s.media.decs.length).setFld (ro .rhs 0 0x40) 16 7 s.media.encs.length).setFld
    (ro .rhs 0 0x44) 0 16 bufs).setFld (ro .ttb 0 0x40) 0 11 taps

/-! ### Media pools and buffers -/

def State.poolKind (s : State) (p : Nat) : Nat := s.fld (ro .yard 0 (0x800 + p * 0x20)) 0 3
def State.poolSt (s : State) (p : Nat) : Nat := s.fld (ro .yard 0 (0x800 + p * 0x20)) 28 3

/-- An ACTIVE pool of kind `k` that HOST.POOL_FUNC gives to function `fn` (12 R415, 10 R345). -/
def State.poolUsable (s : State) (p k fn : Nat) : Bool :=
  decide (p < 64) && s.poolKind p == k && s.poolSt p == 2 && s.poolFunc p == fn

def up64k (n : Nat) : Nat := (n + 65535) / 65536 * 65536
def alignUp (n a : Nat) : Nat := (n + a - 1) / a * a

/-- Row pitch and rows of a buffer's luma plane (12 R427). -/
def bufPitch (maxW depth : Nat) : Nat := alignUp (alignUp maxW 64 * (if depth = 10 then 2 else 1)) 256
def bufRows (maxH : Nat) : Nat := alignUp maxH 64

/-- Bytes of a video buffer and of a JPEG buffer (12 R427). -/
def videoBufBytes (maxW maxH depth : Nat) : Nat :=
  up64k (bufPitch maxW depth * bufRows maxH * 3 / 2 +
    alignUp maxW 64 / 16 * (bufRows maxH / 16) * 16)
def jpegBufBytes (maxW maxH : Nat) : Nat := up64k (bufPitch maxW 8 * bufRows maxH * 3)

/-- Buffers reserved in pool `p`. -/
def State.poolBufs (s : State) (p : Nat) : List MBuf :=
  (s.media.decs.filter fun e => e.2.pool == p).flatMap (fun e => e.2.bufs) ++
  (s.media.encs.filter fun e => e.2.pool == p).flatMap (fun e => e.2.bufs) ++
  (s.media.cams.filter fun e => e.2.pool == p).flatMap (fun e => e.2.bufs)

def State.poolBytes (s : State) (p : Nat) : Nat :=
  match s.yard.pools.look? p with
  | some q => q.frames.length * frameBytes
  | none => 0

def bufFits (used : List MBuf) (total off size : Nat) : Bool :=
  decide (off + size ≤ total) && used.all fun b => decide (b.off + b.size ≤ off) || decide (off + size ≤ b.off)

/-- First fit from the lowest pool address, on a 64 KiB boundary (12 R426). -/
def firstFit (used : List MBuf) (total size : Nat) : Option Nat :=
  let cands := sortBy (fun a b => decide (a < b)) (0 :: used.map fun b => up64k (b.off + b.size))
  cands.find? fun o => bufFits used total o size

/-- Reserve buffers of the given sizes. -/
def reserveBufs (used : List MBuf) (total : Nat) : List Nat → Option (List MBuf)
  | [] => some []
  | z :: r =>
    match firstFit used total z with
    | none => none
    | some o => (reserveBufs (⟨o, z, 0⟩ :: used) total r).map (⟨o, z, 0⟩ :: ·)

/-- The Roundhouse reserves buffers, or the open is refused (12 R426). -/
def State.reserve (s : State) (d : Desc) (pool : Nat) (sizes : List Nat)
    (ok : State → List MBuf → State) : State :=
  match reserveBufs (s.poolBufs pool) (s.poolBytes pool) sizes with
  | some b => ok s b
  | none =>
    (s.raise 0x4020 0x2420 [.w pool, .w sizes.sum] d.ctx).complete d .limitRejected 0 0

/-! ### Records of bound rings (12 R417 to R419) -/

def recNat (b : DescBits) (o n : Nat) : Nat := b.toNat / 2 ^ (8 * o) % 2 ^ (8 * n)
def recAddr (b : DescBits) (o : Nat) : Word64 := BitVec.ofNat 64 (recNat b o 8)
def recZero (b : DescBits) (lo hi : Nat) : Bool := recNat b lo (hi - lo) == 0

/-- The completion record of an access-unit or input record: it ends the ring's entry at `pos`. -/
def State.endRecord (s : State) (n q : Nat) (pos : Option Word) (sqPos : Nat) (epoch : Half) (tag : Word64)
    (irq quiet : Bool) (st : Status) (result result2 : Nat) : State :=
  let e : Rec :=
    { tag := tag, gts := s.gts, result := BitVec.ofNat 32 result, result2 := BitVec.ofNat 32 result2,
      sqPos := BitVec.ofNat 16 sqPos, status := BitVec.ofNat 8 st.code, cls := 0x0A, sq := q, epoch := epoch,
      notice := false, more := false, irq := irq, ends := pos }
  { s with notices := s.notices ++ [⟨n, epoch, e, quiet && decide (st = .ok), none, false⟩] }

def State.endAu (s : State) (n q : Nat) (r : AuRec) (st : Status) (result result2 : Nat) : State :=
  s.endRecord n q (some r.pos) r.pos.toNat r.epoch (recAddr r.bits 8) (recNat r.bits 1 1 % 2 == 1)
    (recNat r.bits 1 1 / 2 % 2 == 1) st result result2

/-- The next announced entry of ring `q`. In FAULTED nothing is fetched (04 R117). -/
def State.ringEntry (s : State) (n q : Nat) (limit : Option Word) : Option AuRec :=
  let head := s.sqHead n q
  let tail := limit.getD ((s.ctx n).tails.look 0 q)
  if head = tail ∨ s.ctxState n = stFaulted then none
  else
    match addrKey (s.rd64 (cr n (0x50 + q * 0x10)) +
        BitVec.ofNat 64 (head.toNat % 2 ^ s.sqSize n q * 64)) with
    | some k => some ⟨head, s.ctxEpoch n, BitVec.ofNat 512 (s.loadNat k 64), s.gts⟩
    | none => none

def State.bumpHead (s : State) (n q : Nat) : State := s.wr (cr n (0x5C + q * 0x10)) (s.sqHead n q + 1)

/-- Cluster SRAM bytes named by a descriptor of context `n` lie in slices that R228 allows (07 R228). -/
def State.sramAllowed (s : State) (n : Nat) (a : Word64) (len : Nat) : Bool :=
  match addrSpace a with
  | some (.sram c x) =>
    (if len = 0 then [] else upFrom (x / 0x100000) ((x + len - 1) / 0x100000 - x / 0x100000 + 1)).all fun sl =>
      let o := s.fld (ro .cl c (0x800 + sl / 4 * 4)) (sl % 4 * 8) 8
      (o == n && n != 0xFF) || (o == 0xFF && s.ctxFunc n == 0)
  | _ => true

/-- A device address of form 00 or 01 that context `n` may name. -/
def State.localAddr (s : State) (n : Nat) (a : Word64) (len : Nat) : Bool :=
  decide (addrForm a < 2) && s.addrOk (s.ctxFunc n) a len && s.sramAllowed n a len

/-! ### Tap settings (12 R429, 13 R452) -/

/-- Bytes that one slot of a tap holds. -/
def TapCfg.slotNeed (t : TapCfg) : Nat :=
  t.outW * t.outH * t.step * (if t.boxes then t.maxBox else 1)

/-- No byte of the range lies in a KV pool (19 R617). -/
def State.outsideKv (s : State) (a : Word64) (len : Nat) : Bool :=
  match addrSpace a with
  | some (.hbm b) => (framesOf b len).all fun f => !(s.framePool f).any fun p => s.poolKind p == 2
  | _ => true

/-- Addresses of a tap are ones that R131 and R228 allow, and none lies in a KV pool (19 R617). -/
def State.tapAddrOk (s : State) (n : Nat) (t : TapCfg) : Bool :=
  [(t.dst, max 1 (t.nslot * t.slotBytes)), (t.progress, 16), (t.credit, 4)].all fun r =>
    s.localAddr n r.1 r.2 && s.outsideKv r.1 r.2

/-- Every field of a tap lies in its range for a source of at most `maxW` × `maxH` (12 R429). -/
def TapCfg.inRange (t : TapCfg) (maxW maxH maxOut : Nat) : Bool :=
  decide (t.colour ≤ 2) && (t.colour == 2 || decide (t.matrix ≤ 4)) &&
  decide (1 ≤ t.outW) && decide (1 ≤ t.outH) && decide (t.outW ≤ maxOut) && decide (t.outH ≤ maxOut) &&
  t.dst.toNat % 64 == 0 && t.slotBytes % 64 == 0 && decide (1 ≤ t.nslot) && decide (t.nslot ≤ 16) &&
  (if t.packed then decide (3 ≤ t.pitch) && decide (t.pitch ≤ 64) else t.pitch == 0) &&
  t.progress.toNat % 16 == 0 && t.credit.toNat % 4 == 0 && decide (t.slotNeed ≤ t.slotBytes) &&
  (if t.boxes then
    decide (1 ≤ t.maxBox) && decide (t.maxBox ≤ 4096) && f32Finite t.sx && f32Finite t.sy && f32Lt 0 t.sx &&
    f32Lt 0 t.sy
  else
    t.x0 % 2 == 0 && t.y0 % 2 == 0 && decide (1 ≤ t.cw) && decide (1 ≤ t.ch) && decide (t.x0 + t.cw ≤ maxW) &&
    decide (t.y0 + t.ch ≤ maxH) && t.cw % decFactor t.cw t.outW == 0 && t.ch % decFactor t.ch t.outH == 0)

/-- The PARAM block of STREAM_TAP (12 R429). -/
def tapOf (b : List Byte) : TapCfg :=
  { boxes := fieldOf b 0 1 == 1, colour := fieldOf b 1 1, matrix := fieldOf b 2 1,
    packed := fieldOf b 3 1 == 1, outW := fieldOf b 4 2, outH := fieldOf b 6 2, x0 := fieldOf b 8 2,
    y0 := fieldOf b 10 2, cw := fieldOf b 12 2, ch := fieldOf b 14 2, dst := BitVec.ofNat 64 (fieldOf b 16 8),
    slotBytes := fieldOf b 24 4, nslot := fieldOf b 28 1, pitch := fieldOf b 29 1, maxBox := fieldOf b 30 2,
    progress := BitVec.ofNat 64 (fieldOf b 32 8), credit := BitVec.ofNat 64 (fieldOf b 40 8),
    mul := (List.range 3).map fun i => BitVec.ofNat 32 (fieldOf b (48 + 4 * i) 4),
    add := (List.range 3).map fun i => BitVec.ofNat 32 (fieldOf b (60 + 4 * i) 4),
    sx := BitVec.ofNat 32 (fieldOf b 72 4), sy := BitVec.ofNat 32 (fieldOf b 76 4) }

/-- The tensor branch of a camera's PARAM block (13 R452, R461). -/
def camTapOf (b : List Byte) : TapCfg :=
  { boxes := false, colour := fieldOf b 53 1, matrix := 1, packed := fieldOf b 54 1 == 1,
    outW := fieldOf b 56 2, outH := fieldOf b 58 2, x0 := fieldOf b 60 2, y0 := fieldOf b 62 2,
    cw := fieldOf b 64 2, ch := fieldOf b 66 2, dst := BitVec.ofNat 64 (fieldOf b 40 8),
    slotBytes := fieldOf b 48 4, nslot := fieldOf b 52 1, pitch := fieldOf b 55 1, maxBox := 0,
    progress := BitVec.ofNat 64 (fieldOf b 68 8), credit := BitVec.ofNat 64 (fieldOf b 76 8),
    mul := (List.range 3).map fun i => BitVec.ofNat 32 (fieldOf b (84 + 4 * i) 4),
    add := (List.range 3).map fun i => BitVec.ofNat 32 (fieldOf b (96 + 4 * i) 4), sx := 0, sy := 0 }

def camParamOf (d : Desc) (b : List Byte) : CamParam :=
  { port := d.nat 17 1, stale := d.nat 24 8, exposures := fieldOf b 0 1, cfa := fieldOf b 1 1,
    tensor := fieldOf b 2 1 % 2 == 1, yuv := fieldOf b 2 1 / 2 % 2 == 1, quiet := fieldOf b 3 1 == 1,
    width := fieldOf b 4 2, height := fieldOf b 6 2, vcs := [fieldOf b 8 1, fieldOf b 9 1, fieldOf b 10 1],
    dts := [fieldOf b 12 1, fieldOf b 13 1, fieldOf b 14 1], embVc := fieldOf b 16 1,
    embLines := fieldOf b 17 1, hdrLag := fieldOf b 18 2, frameUs := fieldOf b 20 4,
    firstMs := fieldOf b 24 4, table := fieldOf b 28 4, embBuf := BitVec.ofNat 64 (fieldOf b 32 8),
    tap := camTapOf b, nbuf := fieldOf b 108 1 }

def encParamOf (b : List Byte) : EncParam :=
  { ring := fieldOf b 0 1, linked := fieldOf b 1 1 == 1, rotate := fieldOf b 2 1, mirror := fieldOf b 3 1 == 1,
    outW := fieldOf b 4 2, outH := fieldOf b 6 2, x0 := fieldOf b 8 2, y0 := fieldOf b 10 2,
    cw := fieldOf b 12 2, ch := fieldOf b 14 2, src := fieldOf b 16 4, gop := fieldOf b 20 2,
    rc := fieldOf b 22 1, qp := fieldOf b 23 1, kbps := fieldOf b 24 4,
    out := BitVec.ofNat 64 (fieldOf b 32 8), outBytes := fieldOf b 40 4, gtsStart := fieldOf b 48 8,
    gtsEnd := fieldOf b 56 8 }

/-! ### Events of entering the waiting state (12 R421) -/

/-- The stream waits for a random-access point; DEC_NO_RAP is logged when it enters that state. -/
def State.enterWaiting (s : State) (i core : Nat) : State :=
  match s.dec i with
  | none => s
  | some d =>
    if d.waiting then s
    else (s.setDec i { d with waiting := true, skipRasl := true }).raise (0x4000 + core) 0x1401 [] d.ctx

/-- Encoder skips a linked picture without an input buffer for it (12 R438). -/
def State.encSkip (s : State) (i : Nat) (log : Bool) : State :=
  match s.enc i with
  | none => s
  | some e =>
    let s := (s.setEnc i { e with others := e.others + 1 }).addSat (ro .enc e.lastCore 0x48) 0 32 1
    if log then s.raise (0x4010 + e.lastCore) 0x1411 [] e.ctx else s

/-- Linked encoders of stream `i` whose range holds capture time `g`. -/
def State.linkedTo (s : State) (i g : Nat) : List Nat :=
  (s.media.encs.filter fun e => e.2.closing.isNone && e.2.param.linked && handleIdx e.2.param.src == i &&
    decide (e.2.param.gtsStart ≤ g) && (e.2.param.gtsEnd == 0 || decide (g < e.2.param.gtsEnd))).map Prod.fst

/-- A picture of stream `i` captured at `g` is not decoded: its linked encoders but those in `had` count it as skipped
(12 R438). -/
def State.skipLinked (s : State) (i g : Nat) (had : List Nat) : State :=
  ((s.linkedTo i g).filter fun e => !had.contains e).foldl (fun s e => s.encSkip e false) s

end Sys2Proof.Machine
end

