-- ==== Sys2Proof/Machine/Yard.lean ====
section
/-! DEFINITION. The Yard's own operations (chapter 10): frames and pools, pages with their counts and charges,
the layout of a KV pool, page lists, the prefix directory, swap records, victims. -/

namespace Sys2Proof.Machine

def yardA (o : Nat) : Nat := ro .yard 0 o
def pfxA (o : Nat) : Nat := ro .pfx 0 o
def swapA (o : Nat) : Nat := ro .swap 0 o
def poolA (p o : Nat) : Nat := yardA (0x800 + p * 0x20 + o)

def State.withYard (s : State) (f : Yard → Yard) : State := { s with yard := f s.yard }

def State.pool (s : State) (p : Nat) : Pool := s.yard.pools.look ⟨[], 0, []⟩ p

def State.updPool (s : State) (p : Nat) (f : Pool → Pool) : State :=
  s.withYard fun y => { y with pools := y.pools.put p (f (s.pool p)) }

def State.kvPage (s : State) (p P : Nat) : KvPage := (s.pool p).pages.look KvPage.reset P

def State.putKv (s : State) (p P : Nat) (k : KvPage) : State :=
  s.updPool p fun q => { q with pages := q.pages.put P k }

def State.seq (s : State) (q : Nat) : Option Seq := s.text.seqs.look? q

def State.putSeq (s : State) (q : Nat) (x : Seq) : State :=
  { s with text := { s.text with seqs := s.text.seqs.put q x } }

def State.updSeq (s : State) (q : Nat) (f : Seq → Seq) : State :=
  match s.seq q with
  | some x => s.putSeq q (f x)
  | none => s

/-- The epoch of a sequence's context, which its transfers carry (10 R356). -/
def State.seqEpoch (s : State) (q : Nat) : Half := ((s.seq q).map fun x => s.ctxEpoch x.ctx).getD 0

/-- The open sequences of pool `p`. -/
def State.seqsIn (s : State) (p : Nat) : List Nat :=
  (s.text.seqs.filter fun e => e.2.pool == p).map Prod.fst

/-! ### Layout of a KV pool (10 R344, R346) -/

def State.pageBytes (s : State) (p : Nat) : Nat := s.fld (poolA p 0) 16 12 * 65536
def State.sideBytes (s : State) (p : Nat) : Nat := (s.rd (poolA p 8)).toNat
def State.seqMax (s : State) (p : Nat) : Nat := s.fld (poolA p 4) 0 15
def State.lowWm (s : State) (p : Nat) : Nat := s.fld (poolA p 0xC) 0 24

def kvSeqBase (n : Nat) : Nat := up64k (n * 16)
def kvSideBase (n seqMax : Nat) : Nat := kvSeqBase n + up64k (seqMax * 16384)
def kvPageBase (n seqMax sb : Nat) : Nat := kvSideBase n seqMax + up64k (sb * n)

/-- kv_layout (10 R344), counting `n` down. -/
def kvFit (bytes pb sb seqMax : Nat) : Nat → Nat
  | 0 => 0
  | n + 1 =>
    if kvPageBase (n + 1) seqMax sb + (n + 1) * pb ≤ bytes then n + 1 else kvFit bytes pb sb seqMax n

def kvLayout (bytes pb sb seqMax : Nat) : Nat := kvFit bytes pb sb seqMax (bytes / pb)

def State.pageOff (s : State) (p P : Nat) : Nat :=
  kvPageBase (s.pool p).npages (s.seqMax p) (s.sideBytes p) + P * s.pageBytes p
def State.sideOff (s : State) (p P : Nat) : Nat :=
  kvSideBase (s.pool p).npages (s.seqMax p) + P * s.sideBytes p
def State.blockOff (s : State) (p b : Nat) : Nat := kvSeqBase (s.pool p).npages + b * 16384

/-- Key of byte 0 of a sequence's block: its LIST (10 R346). -/
def State.listKey (s : State) (x : Seq) : Nat := s.poolKey x.pool (s.blockOff x.pool x.block)

/-! ### Page lists (10 R347) -/

def emptyEntry : Nat := 0xFFFFFFFF
def isAway (v : Nat) : Bool := decide (0x80000000 ≤ v) && decide (v < emptyEntry)
def isPage (v : Nat) : Bool := decide (v < 0x80000000)

def State.entry (s : State) (x : Seq) (e : Nat) : Nat := s.loadNat (s.listKey x + 4 * e) 4

def State.setEntry (s : State) (x : Seq) (e v : Nat) : State := s.store (s.listKey x + 4 * e) (leBytes 4 v)

/-- All 1,024 entries with their indices. -/
def State.entries (s : State) (x : Seq) : List (Nat × Nat) := (List.range 1024).map fun e => (e, s.entry x e)

def State.chainHash (s : State) (x : Seq) (k : Nat) : Word64 :=
  BitVec.ofNat 64 (s.loadNat (s.listKey x + 4096 + 8 * k) 8)

def State.setChain (s : State) (x : Seq) (k : Nat) (h : Word64) : State :=
  s.store (s.listKey x + 4096 + 8 * k) (leBytes 8 h.toNat)

/-- The open sequence whose LIST is HBM byte `a` of pool `p`. -/
def State.seqAt (s : State) (p a : Nat) : Option Nat :=
  (s.text.seqs.find? fun e => e.2.pool == p && s.listKey e.2 == kHbm a).map Prod.fst

/-! ### Counts of a pool -/

/-- POOL_PAGES and POOL_FREE (10 R377). -/
def State.countPool (s : State) (p : Nat) : State :=
  let q := s.pool p
  let dead := (q.pages.filter fun e => e.2.st = .dead).length
  let busy := (q.pages.filter fun e => !decide (e.2.st = .free)).length
  (s.setFld (poolA p 0x10) 0 24 (q.npages - dead)).setFld (poolA p 0x14) 0 24 (q.npages - busy)

def State.freePages (s : State) (p : Nat) : Nat := s.fld (poolA p 0x14) 0 24

/-- POOL_SEQS (10 R377). -/
def State.countSeqs (s : State) (p : Nat) : State :=
  let l := s.text.seqs.filter fun e => e.2.pool == p
  (s.setFld (poolA p 0x1C) 0 15 l.length).setFld (poolA p 0x1C) 16 15
    (l.filter fun e => !decide (e.2.pre = .inPlace)).length

/-! ### Frames (10 R338, R376) -/

def State.setFrameSt (s : State) (f : Nat) (st : FrameSt) : State :=
  s.withYard fun y => { y with frames := y.frames.put f st }

/-- A frame becomes retired (10 R376, 05 R186). -/
def State.retireFrame (s : State) (f : Nat) (pool : Option Nat) : State :=
  let wasFree := decide (s.frameSt f = .unassigned)
  let s := (s.setFrameSt f .retired).withYard fun y => { y with retiring := y.retiring.filter (· != f) }
  let s := s.addFld (yardA 0x50) 0 17 1
  let s := if wasFree then s.setFld (yardA 0x4C) 0 17 (s.fld (yardA 0x4C) 0 17 - 1) else s
  let lim := ro .sbox 0 0x4C
  let s := s.setFld lim 0 17 (s.fld lim 0 17 - 1)
  (s.raise 0x1110 0x21E4 [.w f, .w (pool.getD 0xFFFFFFFF)]).evalWanted 6

/-- The pages of a KV pool that lie wholly or partly on its `j`-th frame. -/
def State.pagesOn (s : State) (p j : Nat) : List Nat :=
  let lo := j * frameBytes
  (List.range (s.pool p).npages).filter fun P =>
    decide (s.pageOff p P < lo + frameBytes) && decide (lo < s.pageOff p P + s.pageBytes p)

/-- Frames of a KV pool that wait for retirement and hold no live page retire (10 R376). -/
def State.settleFrames (s : State) (p : Nat) : State :=
  let one := fun (s : State) (f : Nat) =>
    if s.frameSt f = .pool p then
      if (s.pagesOn p ((s.pool p).frames.idxOf f)).all fun P => (s.kvPage p P).st = .dead then
        (s.retireFrame f (some p)).setFld (poolA p 0x18) 0 17 (s.fld (poolA p 0x18) 0 17 - 1)
      else s
    else s
  s.yard.retiring.foldl one s

/-- The pages on a frame of KV pool `p` that is to retire become DEAD, or do instead of FREE (10 R372). -/
def State.markFrame (s : State) (p f : Nat) : State :=
  let one := fun (s : State) (P : Nat) =>
    let k := s.kvPage p P
    s.putKv p P { k with retire := true, st := if k.st = .free then .dead else k.st }
  (s.pagesOn p ((s.pool p).frames.idxOf f)).foldl one s

/-- An ACTIVE KV pool takes account of its frames that are to retire. -/
def State.markFrames (s : State) (p : Nat) : State :=
  ((((s.yard.retiring.filter fun f => s.frameSt f = .pool p).foldl (fun s f => s.markFrame p f) s).countPool p)).settleFrames p

/-! ### Charges (10 R348, R349) -/

def State.chargeOf (s : State) (n : Nat) : Nat := s.fld (swapA (0x800 + n * 4)) 0 24

def State.charge (s : State) (n p : Nat) : State :=
  s.setFld (swapA (0x800 + n * 4)) 0 24 (s.chargeOf n + s.fld (poolA p 0) 16 12)

def State.uncharge (s : State) (q p : Nat) : State :=
  match s.seq q with
  | some x => s.setFld (swapA (0x800 + x.ctx * 4)) 0 24 (s.chargeOf x.ctx - s.fld (poolA p 0) 16 12)
  | none => s

/-- A context is protected while its charge is within its reservation. -/
def State.protected? (s : State) (n : Nat) : Bool :=
  decide (s.chargeOf n ≤ 32 * (if s.broken n / 4 % 2 = 1 then 0 else s.fld (cr n 0x110) 0 17))

/-- The cap of context `n` forbids another page of pool `p`. -/
def State.overCap (s : State) (n p : Nat) : Bool :=
  let cap := s.fld (swapA (0xC00 + n * 4)) 0 17
  cap != 0 && decide (32 * cap < s.chargeOf n + s.fld (poolA p 0) 16 12)

/-! ### Reference counts (10 R352, R372) -/

/-- A page with both counts 0 becomes FREE, or DEAD where its frame retires. -/
def State.freeKv (s : State) (p P : Nat) : State :=
  let k := s.kvPage p P
  let s := match k.owner with
    | some q => s.uncharge q p
    | none => s
  let s := s.putKv p P { KvPage.reset with st := if k.retire then .dead else .free, retire := k.retire }
  let s := s.countPool p
  if k.retire then s.settleFrames p else s

def State.freeIfZero (s : State) (p P : Nat) : State :=
  let k := s.kvPage p P
  if k.ref = 0 ∧ k.pin = 0 ∧ (k.st = .resident ∨ k.st = .draining) then s.freeKv p P else s

def State.refPage (s : State) (p P : Nat) : State :=
  let k := s.kvPage p P
  s.putKv p P { k with ref := k.ref + 1 }

/-- A list (of sequence `q`) or the directory lets go of a page; the owner's list ends its charge. -/
def State.unref (s : State) (p P : Nat) (q : Option Nat) : State :=
  let k := s.kvPage p P
  let mine := q.isSome && k.owner == q
  let s := match q with
    | some i => if mine then s.uncharge i p else s
    | none => s
  let s := s.putKv p P { k with ref := k.ref - 1, owner := if mine then none else k.owner }
  s.freeIfZero p P

def State.pinPage (s : State) (p P : Nat) : State :=
  let k := s.kvPage p P
  s.putKv p P { k with pin := k.pin + 1, lastUse := s.gts }

def State.unpin (s : State) (p P : Nat) : State :=
  let k := s.kvPage p P
  (s.putKv p P { k with pin := k.pin - 1 }).freeIfZero p P

/-- The lowest-numbered free page of a pool. -/
def State.lowestPage (s : State) (p : Nat) : Option Nat :=
  (List.range (s.pool p).npages).find? fun P => (s.kvPage p P).st = .free

/-- Take a free page for sequence `q` (10 R372). -/
def State.takePage (s : State) (p P q : Nat) (st : PageSt) : State :=
  let s := s.putKv p P { s.kvPage p P with ref := 1, pin := 0, st := st, owner := some q, lastUse := s.gts }
  let s := match s.seq q with
    | some x => s.charge x.ctx p
    | none => s
  s.countPool p

/-! ### Swap records (10 R366) -/

def State.countSwap (s : State) : State :=
  let used := fun (peer : Bool) => ((s.yard.swap.filter fun e => e.2.atPeer == peer).map fun e => e.2.units).sum
  let s := s.setFld (swapA 0x4C) 0 24 (s.fld (swapA 0x48) 0 24 - used false)
  let s := s.setFld (swapA 0x64) 0 24 (s.fld (swapA 0x60) 0 24 - used true)
  s.setFld (swapA 0x68) 0 19 s.yard.swap.length

/-- Units of a page with its side-table entry. -/
def State.pageUnits (s : State) (p : Nat) : Nat := (s.pageBytes p + s.sideBytes p + 65535) / 65536

/-- First fit from the lowest address among the runs in use. -/
def runFit (used : List (Nat × Nat)) (total n : Nat) : Option Nat :=
  (sortBy (fun a b => decide (a < b)) (0 :: used.map fun u => u.1 + u.2)).find? fun a =>
    decide (a + n ≤ total) && used.all fun u => decide (a + n ≤ u.1) || decide (u.1 + u.2 ≤ a)

def State.peerPkg (s : State) : Nat := s.fld (swapA 0x50) 0 4

/-- The peer region is in use and a form 11 access to it is served (10 R371, 16 R532): the package's own memory, or
that of a VALID member within reach. -/
def State.peerOpen (s : State) : Bool :=
  let d := s.peerPkg
  s.bit (swapA 0x50) 8 && (d == s.pkgId ||
    (s.consist == csMember && bitsOf (s.act (klrA (0x808 + 16 * d))) 0 1 == 1 && s.bit (klrA 0x58) d &&
     !(s.kl.shut.contains d)))

/-- Reserve a record and its units in the Siding, or at the peer. -/
def State.takeRec (s : State) (atPeer : Bool) (units : Nat) : Option (Nat × State) :=
  let used := (s.yard.swap.filter fun e => e.2.atPeer == atPeer).map fun e => (e.2.unit, e.2.units)
  let total := if atPeer then (if s.peerOpen then s.fld (swapA 0x60) 0 24 else 0) else s.fld (swapA 0x48) 0 24
  match runFit used total units, lowestFree 262144 s.yard.swap.keys with
  | some u, some r =>
    some (r, (s.withYard fun y => { y with swap := y.swap.put r ⟨atPeer, u, units, 0, false, s.consistEpoch⟩ }).countSwap)
  | _, _ => none

def State.freeRec (s : State) (r : Nat) : State :=
  (s.withYard fun y => { y with swap := y.swap.del r }).countSwap

/-- Mark a record bad once. -/
def State.badRec (s : State) (r : Nat) : State :=
  match s.yard.swap.look? r with
  | some x =>
    if x.bad then s
    else (s.withYard fun y => { y with swap := y.swap.put r { x with bad := true } }).addFld (swapA 0x6C) 0 32 1
  | none => s

/-- Key of a record's first byte: in the Siding or at the peer. -/
def State.recKey (s : State) (x : SwapRec) : Nat :=
  let b := (s.rd64 (swapA 0x58)).toNat / 65536 * 65536 + x.unit * 65536
  if x.atPeer then (if s.peerPkg = s.pkgId then kHbm b else kPeer s.peerPkg b)
  else kHost ((s.rd64 (swapA 0x40)).toNat / 65536 * 65536 + x.unit * 65536)

/-- A spill stops: the page stays and the record is released (10 R372). -/
def State.cancelSpill (s : State) (p P : Nat) : State :=
  match s.yard.spills.find? fun x => x.pool == p && x.page == P with
  | some x =>
    let s := (s.withYard fun y => { y with spills := y.spills.filter fun z => !(z.pool == p && z.page == P) }).freeRec
      x.recNo
    s.putKv p P { s.kvPage p P with st := .resident }
  | none => s

/-! ### The prefix directory (10 R357 to R362) -/

def pfxP1 : Word64 := 0x9C4F21B753E86D0B
def pfxP2 : Word64 := 0xD6A30F598B12E4C7

def pfxStep (h w : Word64) : Word64 :=
  let h := (h ^^^ w) * pfxP1
  let h := (h ^^^ (h >>> 33)) * pfxP2
  h ^^^ (h >>> 29)

/-- Take in the 256 token IDs two at a time. -/
def pfxTokens (h : Word64) : List Nat → Word64
  | a :: b :: r => pfxTokens (pfxStep h (BitVec.ofNat 64 (a + b * 2 ^ 32))) r
  | _ => h

/-- pfx_hash (10 R357). -/
def pfxHash (parent : Word64) (tok : List Nat) (modelId : Word64) : Word64 :=
  let h := pfxStep (pfxTokens (pfxStep (parent ^^^ pfxP2) modelId) tok) 256
  if h = 0 then 1 else h

def State.putDir (s : State) (d : Tbl DirEntry) : State :=
  (s.withYard fun y => { y with dir := d }).setFld (pfxA 0x44) 0 16 d.length

/-- Remove leaf entry `i` (10 R359): the parent's child count falls, then REF of the page. -/
def State.evictEntry (s : State) (i : Nat) (e : DirEntry) (reason : Nat) : State :=
  let lower := fun (d : Tbl DirEntry) (j : Nat) =>
    match d.look? j with
    | some x => d.put j { x with children := x.children - 1 }
    | none => d
  let d := s.yard.dir.del i
  let s := s.putDir (match e.parent with
    | some j => lower d j
    | none => d)
  let s := (s.addFld (pfxA 0x5C) 0 32 1).raise 0x1111 0x01E9 [.w e.pool, .w reason]
  s.unref e.pool e.page none

/-- The leaf to evict first among those that `sel` admits: lowest LAST_USE, then lowest index. -/
def State.leaf (s : State) (sel : Nat → DirEntry → Bool) : Option (Nat × DirEntry) :=
  (sortBy (fun (a b : Nat × DirEntry) =>
      decide (a.2.lastUse < b.2.lastUse) || (a.2.lastUse == b.2.lastUse && decide (a.1 < b.1)))
    (s.yard.dir.filter fun e => e.2.children == 0 && sel e.1 e.2)).head?

/-- Evict every entry that `sel` admits, leaf first. -/
def State.evictAll (s : State) (sel : Nat → DirEntry → Bool) (reason fuel : Nat) : State :=
  match fuel with
  | 0 => s
  | fuel + 1 =>
    match s.leaf sel with
    | some (i, e) => (s.evictEntry i e reason).evictAll sel reason fuel
    | none => s

/-- An entry of pool `p` whose page no one else holds (10 R350 step 2). -/
def State.lone (s : State) (p : Nat) (e : DirEntry) : Bool :=
  e.pool == p && (s.kvPage p e.page).ref == 1 && (s.kvPage p e.page).pin == 0

/-- Lookup and publication are allowed for a sequence of pool `p` (10 R360, 09 R322). -/
def State.pfxAllowed (s : State) (p wPages : Nat) : Bool :=
  wPages == 0 && s.bit (poolA p 0) 6 && (s.page (slotOf .pfx 0)).en

/-- The entry that matches in key, parent, model and pool. -/
def State.dirFind (s : State) (key : Word64) (parent : Option Nat) (model : Word64) (p : Nat) :
    Option (Nat × DirEntry) :=
  s.yard.dir.find? fun e => e.2.key == key && e.2.parent == parent && e.2.modelId == model && e.2.pool == p

/-- An entry with the same key, parent and pool (10 R361). -/
def State.dirHas (s : State) (key : Word64) (parent : Option Nat) (p : Nat) : Option Nat :=
  (s.yard.dir.find? fun e => e.2.key == key && e.2.parent == parent && e.2.pool == p).map Prod.fst

/-- A key that stands in the directory under another parent, model or pool (10 R378). -/
def State.noteCollision (s : State) (key : Word64) : State :=
  if s.yard.dir.any fun e => e.2.key == key then s.addFld (pfxA 0x68) 0 32 1 else s

/-- Look up the full pages of a prefix in order for the new sequence `q` (10 R360); answers the hits. -/
def State.lookupPages (s : State) (q : Nat) (x : Seq) (k : Nat) (parent : Option Nat) (h : Word64) :
    List (List Nat) → Nat × State
  | [] => (k, s)
  | toks :: rest =>
    let key := pfxHash h toks x.modelId
    let s := s.add64 (pfxA 0x50) 1
    match s.dirFind key parent x.modelId x.pool with
    | none => (k, s.noteCollision key)
    | some (i, e) =>
      if 65535 ≤ (s.kvPage x.pool e.page).ref then (k, s)
      else
        let s := (s.refPage x.pool e.page).setEntry x k e.page
        let s := (s.setChain x k key).putDir (s.yard.dir.put i { e with lastUse := s.gts })
        let s := s.add64 (pfxA 0x48) 1
        s.lookupPages q x (k + 1) (some i) key rest

/-- Make room for one more entry without touching the chain being published (10 R361). -/
def State.makeRoom (s : State) (chain : List Nat) (fuel : Nat) : State :=
  match fuel with
  | 0 => s
  | fuel + 1 =>
    if s.yard.dir.length < min 32768 (s.fld (pfxA 0x40) 0 16) then s
    else match s.leaf fun i _ => !chain.contains i with
      | some (i, e) => (s.evictEntry i e 2).makeRoom chain fuel
      | none => s

/-- Enter full pages `k`, `k + 1`, … below `n` (10 R361); answers how many were entered. -/
def State.publishFrom (s : State) (x : Seq) (chain : List Nat) (parent : Option Nat) (n k done fuel : Nat) :
    Nat × State :=
  match fuel with
  | 0 => (done, s)
  | fuel + 1 =>
    let v := s.entry x k
    let key := s.chainHash x k
    if n ≤ k ∨ !isPage v then (done, s)
    else match s.dirHas key parent x.pool with
      | some i => s.publishFrom x (i :: chain) (some i) n (k + 1) done fuel
      | none =>
        let s := (s.noteCollision key).makeRoom chain 32769
        if min 32768 (s.fld (pfxA 0x40) 0 16) ≤ s.yard.dir.length ∨ 65535 ≤ (s.kvPage x.pool v).ref then (done, s)
        else match lowestFree 32768 s.yard.dir.keys with
          | none => (done, s)
          | some i =>
            let e : DirEntry := ⟨key, parent, x.pool, v, x.modelId, s.gts, 0⟩
            let raised := match parent with
              | some j => match s.yard.dir.look? j with
                | some pe => s.yard.dir.put j { pe with children := pe.children + 1 }
                | none => s.yard.dir
              | none => s.yard.dir
            let s := (s.putDir (raised.put i e)).addFld (pfxA 0x58) 0 32 1
            ((s.cancelSpill x.pool v).refPage x.pool v).publishFrom x (i :: chain) (some i) n (k + 1) (done + 1) fuel

/-- SEQ_CLOSE with PUBLISH (10 R361). -/
def State.publish (s : State) (x : Seq) : Nat × State :=
  if s.pfxAllowed x.pool x.geo.wPages then s.publishFrom x [] none (x.len / 256) 0 0 1025 else (0, s)

/-- CRC-32C. -/
def crc32cBit (c : Word) : Word := if c.getLsbD 0 then (c >>> 1) ^^^ 0x82F63B78#32 else c >>> 1
def crc32cByte (c : Word) (b : Byte) : Word :=
  let c := c ^^^ (b.zeroExtend 32)
  crc32cBit (crc32cBit (crc32cBit (crc32cBit (crc32cBit (crc32cBit (crc32cBit (crc32cBit c)))))))
def crc32c (bs : List Byte) : Word := ~~~ (bs.foldl crc32cByte 0xFFFFFFFF#32)

/-- The runs of keys of a page and its side-table entry. -/
def State.pageSpans (s : State) (p P : Nat) : List (Nat × Nat) :=
  s.spansOf p (s.pageOff p P) (s.pageBytes p) ++ s.spansOf p (s.sideOff p P) (s.sideBytes p)

/-- Copy runs of keys to consecutive keys from `k`. -/
def State.gather (s : State) (k : Nat) : List (Nat × Nat) → State
  | [] => s
  | (a, n) :: r => (s.copyBytes a k n).gather (k + n) r

/-- Copy consecutive keys from `k` to runs of keys. -/
def State.scatter (s : State) (k : Nat) : List (Nat × Nat) → State
  | [] => s
  | (a, n) :: r => (s.copyBytes k a n).scatter (k + n) r

/-- Write a page into a record (10 R364, R366). -/
def State.pageOut (s : State) (p P r : Nat) : State :=
  match s.yard.swap.look? r with
  | some x =>
    let k := s.recKey x
    let n := s.pageBytes p + s.sideBytes p
    let s := s.gather k (s.pageSpans p P)
    s.withYard fun y => { y with swap := y.swap.put r { x with crc := crc32c (s.load k n) } }
  | none => s

/-- A record reads back as it was written. -/
def State.recGood (s : State) (p r : Nat) : Bool :=
  match s.yard.swap.look? r with
  | some x =>
    let n := s.pageBytes p + s.sideBytes p
    !x.bad && (!x.atPeer || (x.consist == s.consistEpoch && s.peerOpen)) && !poisonedIn s.poison (s.recKey x) n && crc32c (s.load (s.recKey x) n) == x.crc
  | none => false

def State.pageIn (s : State) (p P r : Nat) : State :=
  match s.yard.swap.look? r with
  | some x => s.scatter (s.recKey x) (s.pageSpans p P)
  | none => s

/-! ### Victims and spills (10 R363, R368) -/

/-- The unshared pages of a sequence: RESIDENT, REF 1 and not in the directory, by entry. -/
def State.unshared (s : State) (x : Seq) : List (Nat × Nat) :=
  (s.entries x).filter fun e =>
    isPage e.2 && (s.kvPage x.pool e.2).ref == 1 && (s.kvPage x.pool e.2).st = .resident &&
    !(s.yard.dir.any fun d => d.2.pool == x.pool && d.2.page == e.2)

/-- Reserve a Siding record for each page of a list. -/
def State.takeRecs (s : State) (units : Nat) : List (Nat × Nat) → Option (List (Nat × Nat × Nat) × State)
  | [] => some ([], s)
  | (e, P) :: r =>
    match s.takeRec false units with
    | none => none
    | some (i, s1) => match s1.takeRecs units r with
      | none => none
      | some (l, s2) => some ((e, P, i) :: l, s2)

/-- The step or prefill RUN of the sequence is running (09 R331). -/
def State.inUse (s : State) (x : Seq) : Bool :=
  x.act.any fun a => a.gang.any fun u => s.sbox.gangs.any fun g => g.uid == u && !g.waits

/-- A RUN whose SEQ field names sequence `i` is running (09 R331, 04 R133). -/
def State.namedByRun (s : State) (i : Nat) (x : Seq) : Bool :=
  s.sbox.gangs.any fun g => g.members.isEmpty && g.ctx == x.ctx && g.desc.cls == 1 && !g.waits &&
    g.desc.nat 40 4 != 0xFFFFFFFF && g.desc.nat 40 3 == i

/-- The sequence may be chosen for a request of sequence `q` (10 R363). -/
def State.isVictim (s : State) (rq : PageReq) (i : Nat) (x : Seq) : Bool :=
  x.pool == rq.pool && i != rq.seq && !s.protected? x.ctx && !s.inUse x && !s.namedByRun i x &&
  !(s.unshared x).isEmpty && (s.takeRecs (s.pageUnits x.pool) (s.unshared x)).isSome &&
  (rq.kind ≠ .restore ||
    (s.seq rq.seq).any fun y => decide (s.rank y.ctx < s.rank x.ctx))

/-- Lowest rank, then idle longest since its last append, then lowest handle. -/
def State.victim (s : State) (rq : PageReq) : Option (Nat × Seq) :=
  (sortBy (fun (a b : Nat × Seq) => keyLt
      [3 - s.rank a.2.ctx, a.2.lastAppend, s.mkHandle a.2.ctx a.1]
      [3 - s.rank b.2.ctx, b.2.lastAppend, s.mkHandle b.2.ctx b.1])
    (s.text.seqs.filter fun e => s.isVictim rq e.1 e.2)).head?

/-- The first write of a victim: its pages drain, the sequence is PREEMPTED (10 R364, R372). -/
def State.startWriteOut (s : State) (q : Nat) (x : Seq) : State :=
  match s.takeRecs (s.pageUnits x.pool) (s.unshared x) with
  | none => s
  | some (l, s1) =>
    let drain := fun (s : State) (t : Nat × Nat × Nat) =>
      s.putKv x.pool t.2.1 { s.kvPage x.pool t.2.1 with st := .draining }
    let s2 := l.foldl drain s1
    ((s2.withYard fun y => { y with
        writeOuts := y.writeOuts ++ [⟨q, l, l.length, s.ctxEpoch x.ctx⟩],
        preempted := y.preempted.filter (· != q) ++ [q],
        reqs := y.reqs.filter fun r => !(r.kind = .restore && r.seq == q) }).updSeq q fun x =>
      { x with pre := .writing }).countSeqs x.pool

/-- The entry of page `P` in the one list that holds it. -/
def State.holderOf (s : State) (p P : Nat) : Option (Nat × Nat) :=
  s.text.seqs.findSome? fun e =>
    if e.2.pool = p then ((s.entries e.2).find? fun v => v.2 == P).map fun v => (e.1, v.1) else none

/-- The list entry that holds a sequence's last position (09 R319). -/
def Seq.lastEntry (x : Seq) : Nat :=
  let p := x.len - 1
  (if x.geo.wPages = 0 then p else p % (256 * x.geo.wPages)) / 256

/-- A page that can be spilled: its sequence and entry (10 R368). -/
def State.spillable (s : State) (p P : Nat) : Option (Nat × Nat) :=
  let k := s.kvPage p P
  if k.st = .resident ∧ k.ref = 1 ∧ k.pin = 0 ∧ !(s.yard.dir.any fun d => d.2.pool == p && d.2.page == P) then
    (s.holderOf p P).bind fun h =>
      (s.seq h.1).bind fun x => if h.2 = x.lastEntry then none else some h
  else none

/-- Start the spill of the page with the oldest last use, to the preferred target or the other. -/
def State.startSpill (s : State) (p : Nat) : Option State :=
  let cand := (List.range (s.pool p).npages).filterMap fun P => (s.spillable p P).map fun h => (P, h)
  let best := (sortBy (fun (a b : Nat × Nat × Nat) =>
    decide ((s.kvPage p a.1).lastUse < (s.kvPage p b.1).lastUse)) cand).head?
  best.bind fun (P, q, e) =>
    let peer := s.bit (yardA 0x40) 1
    ((s.takeRec peer (s.pageUnits p)).orElse fun _ => s.takeRec (!peer) (s.pageUnits p)).map fun (r, s1) =>
      (s1.putKv p P { s1.kvPage p P with st := .draining }).withYard fun y =>
        { y with spills := y.spills ++ [⟨p, P, q, e, r, s.seqEpoch q⟩] }

def State.recovery (s : State) : Bool := s.bit (yardA 0x40) 0

/-- In RECOVERY mode a spill runs while fewer than LOW_WM pages are free (10 R368). -/
def State.keepWater (s : State) (p : Nat) : State :=
  if s.recovery ∧ s.freePages p < s.lowWm p ∧ !(s.yard.spills.any fun x => x.pool == p) then
    (s.startSpill p).getD s
  else s

/-! ### Requests and lists -/

def State.addReq (s : State) (kind : ReqKind) (p q e : Nat) (core : Option Nat) : State :=
  if s.yard.reqs.any fun r => r.seq == q && r.entry == e then s
  else if s.yard.transfers.any fun t => t.seq == q && t.entry == e then s
  else s.withYard fun y => { y with reqs := y.reqs ++ [⟨kind, p, q, e, core, s.gts, none⟩] }

/-- The next AWAY entry of a sequence that is being restored (10 R365). -/
def State.nextRestore (s : State) (q : Nat) (x : Seq) : State :=
  match (s.entries x).find? fun e => isAway e.2 with
  | some e => s.addReq .restore x.pool q e.1 none
  | none => s

/-- A restore starts, once the write-out is complete (10 R365). -/
def State.startRestore (s : State) (q : Nat) : State :=
  match s.seq q with
  | some x =>
    if x.pre = .out then
      let x := { x with pre := .restoring, restoreAt := s.gts }
      (s.putSeq q x).nextRestore q x
    else s
  | none => s

/-- Stop the transfers of a sequence: destinations are freed, spills and write-outs released (10 R372, R373). -/
def State.stopTransfers (s : State) (q : Nat) : State :=
  let endT := fun (s : State) (t : Transfer) =>
    let s := if t.kind = .cow then s.unpin t.pool t.src else s
    let s := s.putKv t.pool t.dst { s.kvPage t.pool t.dst with ref := 0, pin := 0 }
    s.freeKv t.pool t.dst
  let s := (s.yard.transfers.filter fun t => t.seq == q).foldl endT s
  let s := (s.yard.spills.filter fun x => x.seq == q).foldl (fun (s : State) x => s.cancelSpill x.pool x.page) s
  let endW := fun (s : State) (w : WriteOut) =>
    w.left.foldl (fun (s : State) t =>
      let p := ((s.seq q).map fun x => x.pool).getD 0
      (s.freeRec t.2.2).putKv p t.2.1 { s.kvPage p t.2.1 with st := .resident }) s
  let s := (s.yard.writeOuts.filter fun w => w.seq == q).foldl endW s
  s.withYard fun y => { y with
    reqs := y.reqs.filter fun r => r.seq != q,
    transfers := y.transfers.filter fun t => t.seq != q,
    writeOuts := y.writeOuts.filter fun w => w.seq != q,
    intents := y.intents.filter fun i => i.seq != q,
    preempted := y.preempted.filter (· != q) }

/-- Release a page list in ascending order (10 R375); answers the entries that were not EMPTY. -/
def State.releaseList (s : State) (q : Nat) (x : Seq) : Nat × State :=
  let s := s.stopTransfers q
  let one := fun (a : Nat × State) (e : Nat × Nat) =>
    if isPage e.2 then (a.1 + 1, a.2.unref x.pool e.2 (some q))
    else if isAway e.2 then (a.1 + 1, a.2.freeRec (e.2 - 0x80000000))
    else a
  let (n, s) := (s.entries x).foldl one (0, s)
  (n, ({ s with text := { s.text with seqs := s.text.seqs.del q } }).countSeqs x.pool)

end Sys2Proof.Machine
end

