-- ==== Sys2Proof/Machine/GangOps.lean ====
section
/-! DEFINITION. How the work of cores and sequences ends: the members of a gang on cores or in save images,
slice-end counts (06 R207, 08 R306, 09 R337), the end of a RUN (07 R249, R265), of a SEQ_APPEND (09 R332) and
of a sequence (09 R335, 10 R367, R371). -/

namespace Sys2Proof.Machine

/-! ### Members of a gang: on a core, or in a save image (05 R177) -/

/-- The core that holds member `i` of gang `u`. -/
def State.memberCore (s : State) (u i : Nat) : Option Nat :=
  (List.range 64).find? fun c => (s.core c).gang == some u && (s.core c).idx == i

/-- Key of the image of member `i` written in round `r`: frames 2i and 2i + 1 by turns. -/
def imageKey (u i r : Nat) : Nat := u * 128 + 2 * i + r % 2

/-- The round of member `i`'s last image: that of the save in progress once its core is released. -/
def Gang.round (g : Gang) : Nat := if g.phase = .saving then g.images else g.images + 1

def State.memberImage (s : State) (u i : Nat) : Option (Nat × Image) :=
  (s.gang u).bind fun g => (s.images.look? (imageKey u i g.round)).map fun m => (imageKey u i g.round, m)

def State.putImage (s : State) (k : Nat) (m : Image) : State := { s with images := s.images.put k m }

def State.updMember (s : State) (u i : Nat) (f : Core → Core) : State :=
  match s.memberCore u i with
  | some c => s.updCore c f
  | none => match s.memberImage u i with
    | some (k, m) => s.putImage k { m with core := f m.core }
    | none => s

/-- Write into a member's bay; in an image only live banks are kept (05 R175). -/
def State.bayWriteMember (s : State) (u i a : Nat) (bs : List Byte) : State :=
  match s.memberCore u i with
  | some c => s.bayStore (kBay c a) bs
  | none => match s.memberImage u i with
    | some (k, m) =>
      if m.live.getLsbD (a / 0x10000) then s.putImage k { m with bay := cellsWrite m.bay a bs } else s
    | none => s

/-- Add to a semaphore (07 R251). -/
def Core.signal (k : Core) (sem n : Nat) : Core :=
  { k with sems := k.sems.put sem (k.sems.look 0 sem + BitVec.ofNat 16 n) }

def State.signalMember (s : State) (u i sem : Nat) : State := s.updMember u i fun k => k.signal sem 1

/-! ### Slice ends -/

/-- A count's event on core `c`, where the count is not zero. -/
def State.countEvent (s : State) (c code n ctx : Nat) : State :=
  if n = 0 then s
  else s.raise (dieSrc (c / 8) (c % 8)) (code + (if c < 32 then 0x200 else 0x300)) [.w (min n 65535)] ctx

/-- 06 R207, 08 R306, 09 R337: the counts of the slice, cleared for the next. -/
def State.sliceEnd (s : State) (c ctx : Nat) : State :=
  let k := s.core c
  let s := (s.countEvent c 0x1040 k.sat ctx).countEvent c 0x1041 k.qnan ctx
  let s := (s.countEvent c 0x1060 k.wu.badInput ctx).countEvent c 0x0061 k.wu.dropped ctx
  let s := ((s.countEvent c 0x1070 k.rs.nonfinite ctx).countEvent c 0x1071 k.rs.kvNonfinite ctx).countEvent c 0x0072
    k.rs.rescaled ctx
  s.updCore c fun k => { k with
    sat := 0, qnan := 0, wu := { k.wu with badInput := 0, dropped := 0 },
    rs := { k.rs with nonfinite := 0, kvNonfinite := 0, rescaled := 0 } }

/-- CO.PC0 and CO.PC1 at a stop (07, "Registers"). -/
def State.notePc (s : State) (c : Nat) : State :=
  (s.wr (ro .co c 0x60) (s.core c).tc0.pc).wr (ro .co c 0x64) (s.core c).tc1.pc

/-! ### Releasing what a core holds of the Yard -/

/-- The walker and the write intents of a core let go of their pages (10 R352, R372). -/
def State.dropCoreYard (s : State) (c : Nat) : State :=
  let s := (s.core c).rs.ahead.foldl (fun (s : State) (a : Nat × Option (Nat × Nat)) =>
    match a.2 with
    | some (p, P) => s.unpin p P
    | none => s) s
  let s := (s.yard.intents.filter fun i => i.core == c && i.granted).foldl (fun (s : State) i =>
    match s.seq i.seq with
    | some x => s.unpin x.pool (s.entry x i.entry)
    | none => s) s
  let endT := fun (s : State) (t : Transfer) =>
    let s := s.unpin t.pool t.src
    let s := s.putKv t.pool t.dst { s.kvPage t.pool t.dst with ref := 0, pin := 0 }
    s.freeKv t.pool t.dst
  let s := (s.yard.transfers.filter fun t => t.kind = .cow && t.core == some c).foldl endT s
  let s := s.withYard fun y => { y with
    reqs := y.reqs.filter fun r => r.core != some c,
    transfers := y.transfers.filter fun t => !(t.kind = .cow && t.core == some c),
    intents := y.intents.filter fun i => i.core != c }
  s.updCore c fun k => { k with rs := { k.rs with ahead := [], waitPage := none } }

/-! ### Sequences -/

def State.seqHandle (s : State) (q : Nat) : Nat :=
  match s.seq q with
  | some x => s.mkHandle x.ctx q
  | none => 0

/-- Positions that were written but not appended are no longer held (09 R312, R327). -/
def Seq.dropAhead (x : Seq) : Seq :=
  { x with nextPos := x.nextPos.map fun (e : Nat × Nat) => (e.1, min e.2 x.len) }

/-- Events that a SEQ_APPEND logs once, when it ends (11 R388, R391, R408). -/
def State.appendEvents (s : State) (q : Nat) (x : Seq) (a : Appending) : State :=
  let one := fun (s : State) (src code n : Nat) =>
    if n = 0 then s else s.raise src code [.w (s.seqHandle q), .w n] x.ctx
  one (one (one s 0x7000 0x1700 a.invalidBytes) 0x7000 0x0703 a.splits) 0x7002 0x1720 a.nonfinite

/-- The logit row of a sequence leaves the queue. -/
def State.unqueueRow (s : State) (q : Nat) : State :=
  { s with text := { s.text with rows := s.text.rows.filter (· != q) } }

/-- A row whose SEQ_APPEND has ended is discarded and counted (09 R333, 11 R408). -/
def State.discardRow (s : State) (q : Nat) : State :=
  if s.text.rows.contains q then (s.unqueueRow q).addSat (ro .samp 0 0x4C) 0 32 1 else s

/-- The SEQ_APPEND of sequence `q` ends (09 R332): its record, and the next operation may run. -/
def State.endAppend (s : State) (q : Nat) (st : Status) : State :=
  match s.seq q with
  | some x => match x.act with
    | some a =>
      let s := (s.appendEvents q x a).complete a.desc st a.appended a.written
      let s := s.releaseHolds a.desc.uid
      (s.putSeq q { x.dropAhead with act := none, ops := x.ops.filter (· != a.desc.uid) }).discardRow q
    | none => s
  | none => s

/-- The descriptor of a context with this number. -/
def State.descOf (s : State) (n uid : Nat) : Option Desc := (s.ctx n).descs.find? fun d => d.uid == uid

/-- The operation at the head of a sequence ends with a status (09 R331). -/
def State.endOp (s : State) (q : Nat) (st : Status) : State :=
  match s.seq q with
  | some x =>
    if x.act.isSome then s.endAppend q st
    else match x.ops with
      | u :: r =>
        let s := match s.descOf x.ctx u with
          | some d => (s.complete d st 0 0).releaseHolds u
          | none => s
        s.updSeq q fun x => { x with ops := r }
      | [] => s
  | none => s

/-- The operations that still wait for a sequence that is closed end: a SEQ_APPEND with `st`, any other names no
open object (04 R134). -/
def State.dropOps (s : State) (n : Nat) (st : Status) (us : List Nat) : State :=
  us.foldl (fun (s : State) u => match s.descOf n u with
    | some d => (s.complete d (if d.cls = 0x07 then st else .invalidDescriptor) 0 0).releaseHolds u
    | none => s) s

/-- A sequence is lost; later descriptors that name it complete with `st` (10 R367, R371). -/
def State.loseSeq (s : State) (q : Nat) (st : Status) : State :=
  match s.seq q with
  | some x =>
    if x.lost.isSome then s
    else
      let s := s.putSeq q { x with lost := some (BitVec.ofNat 8 st.code) }
      if x.act.isSome ∨ !x.ops.isEmpty then s.endOp q st else s
  | none => s

/-- Close a sequence without publishing (04 R118, 09 R335). -/
def State.closeSeq (s : State) (q : Nat) : State :=
  match s.seq q with
  | some x => (s.releaseList q x).2.discardRow q
  | none => s

/-! ### The end of a gang -/

/-- The collectives of a gang end with it (16 R541). -/
def State.dropColl (s : State) (u : Nat) : State :=
  let n := (s.kl.ops.filter fun o => o.gang == u).length
  let a := ro .coll 0 0x40
  { s.setFld a 0 6 (s.fld a 0 6 - n) with kl := { s.kl with ops := s.kl.ops.filter fun o => o.gang != u } }

/-- Every core of a gang stops and is released; its images and what it holds are dropped. -/
def State.quitGang (s : State) (g : Gang) : State :=
  let stop := fun (s : State) (c : Nat) =>
    ((((s.sliceEnd c g.ctx).notePc c).dropCoreYard c).updCore c fun k =>
      { Core.reset with gang := k.gang, idx := k.idx }).wr (ro .co c 0x48) 0
  let s := g.cores.foldl stop s
  let s := (s.dropColl g.uid).releaseHolds g.uid
  let s := { s with images := s.images.filter fun e => e.1 / 128 != g.uid }
  s.dropGang g

/-- A step or prefill RUN's sequences no longer run in it (09 R328). -/
def State.unuse (s : State) (u : Nat) : State :=
  let clear := fun (e : Nat × Seq) =>
    (e.1, { e.2 with act := e.2.act.map fun a => if a.gang = some u then { a with gang := none } else a })
  { s with text := { s.text with seqs := s.text.seqs.map clear } }

/-- A notice of a step or prefill RUN (09 R333): it carries no record. -/
def stepNotice (g : Gang) (ep : Half) : Notice :=
  { ctx := g.ctx, epoch := ep, quiet := true, step := some g.uid, faults := false,
    entry := { tag := 0, gts := 0, result := 0, result2 := 0, sqPos := 0, status := 0, cls := 0, sq := 0,
               epoch := ep, notice := false, more := false, irq := false, ends := none } }

/-- The gang ends its RUN with a status and a RESULT (07 R249, R265). A step or prefill RUN reports to the
batch former; one that fails ends the SEQ_APPENDs it served. -/
def State.finishGang (s : State) (g : Gang) (st : Status) (result : Nat) : State :=
  let run := s.text.steps.find? fun r => r.gang == g.uid
  let s := s.quitGang g
  match run with
  | none => (s.complete g.desc st result g.slicesReplayed).settleRun g.ctx
  | some r =>
    if st = .ok then { s with notices := s.notices ++ [stepNotice g (s.ctxEpoch g.ctx)] }
    else
      let live := (r.members.map Prod.fst).filter fun q =>
        (s.seq q).any fun x => x.act.any fun a => a.gang == some g.uid
      let s := s.unuse g.uid
      let s := { s with text := { s.text with steps := s.text.steps.filter fun x => x.gang != g.uid } }
      let fault := st = .eccUncorrectable || st = .deviceFault
      let one := fun (s : State) (q : Nat) =>
        let d := (s.seq q).bind fun x => x.act.map fun a => a.desc
        let s := s.endAppend q st
        match d with
        | some d => if fault then s.faultNotice d else s
        | none => s
      live.foldl one s

/-- CO.FAULT of a stop (07 R268). -/
def State.noteStop (s : State) (c cause unit ctx : Nat) : State :=
  let a := ro .co c 0x44
  ((s.setFld a 0 8 cause).setFld a 8 3 unit).setFld a 16 8 ctx

/-- A program error (07 R264, R265): the RUN completes with `st`, RESULT carrying cause, gang index and tidy
core. -/
def State.progStop (s : State) (c tc : Nat) (pc : Word) (unit cause : Nat) (st : Status) : State :=
  match s.gangOf c with
  | none => s
  | some g =>
    let idx := (s.core c).idx
    let s := s.noteStop c cause unit g.ctx
    let s := s.raise (dieSrc (c / 8) (c % 8)) (if c < 32 then 0x2251 else 0x2351)
      [.w cause, .w pc.toNat, .w idx] g.ctx
    s.finishGang g st (cause + idx * 256 + tc * 65536)

def State.progErrorAt (s : State) (c tc : Nat) (pc : Word) (unit cause : Nat) : State :=
  s.progStop c tc pc unit cause .invalidDescriptor

/-- A well-formed descriptor or command beyond a limit: the gang stops in the same way and the RUN completes
with LIMIT_REJECTED (07 R240, 08 R276). -/
def State.limitError (s : State) (core : Nat) (l : Launch) : State :=
  s.progStop core l.tc l.pc (4 + l.tc) 6 .limitRejected

/-- The error of a launched descriptor: the data mover's unit for cause DM, else its launching tidy core's. -/
def State.progError (s : State) (core : Nat) (l : Launch) (cause : Nat) : State :=
  s.progErrorAt core l.tc l.pc (if cause = 7 then 6 else 4 + l.tc) cause

/-- A tidy core's own error, at its program counter. -/
def State.tcError (s : State) (c t cause : Nat) : State :=
  s.progErrorAt c t ((s.core c).tidy t).pc (4 + t) cause

/-- The RUN of a core ends with a status. -/
def State.endRun (s : State) (core : Nat) (st : Status) : State :=
  match s.gangOf core with
  | some g => s.finishGang g st 0
  | none => s

def State.endRunWith (s : State) (core : Nat) (_l : Launch) (st : Status) : State := s.endRun core st

/-- A command error of ME `m` (07 R240). -/
def State.meError (s : State) (core m : Nat) (l : Launch) (st : Status) : State :=
  s.progStop core l.tc l.pc m 6 st

/-- A unit of a core consumes poison (18 R604): the RUN ends, with its event. -/
def State.corePoison (s : State) (core line : Nat) : State :=
  match s.gangOf core with
  | some g => (s.raise 0x1100 0x31F2 [.d (line * 64)] g.ctx).finishGang g .eccUncorrectable 0
  | none => s

/-! ### Spread sequences and spilled pages that are lost -/

/-- Package that holds rank `r` of group `g` (16 R533). -/
def State.rankPkg (s : State) (g r : Nat) : Nat :=
  (s.rd64 (ro .coll 0 (0x808 + 16 * g))).toNat / 16 ^ r % 16

/-- A RUN that uses only this sequence stops (09 R335). -/
def State.stopRunOf (s : State) (q : Nat) : State :=
  match (s.seq q).bind fun x => x.act.bind fun a => a.gang with
  | none => s
  | some u => match s.gang u with
    | some g =>
      if (s.text.steps.find? fun r => r.gang == u).any fun r => r.members.length == 1 then
        let s := s.quitGang g
        ({ s with text := { s.text with steps := s.text.steps.filter fun r => r.gang != u } }).unuse u
      else s
    | none => s

/-- 09 R335: a member of a spread has left (`dst`), or the epoch has changed. -/
def State.loseSpread (s : State) (dst : Option Nat) : State :=
  let one := fun (s : State) (e : Nat × Seq) =>
    let x := e.2
    let hit := match dst with
      | none => true
      | some d => (List.range x.geo.spreadN).any fun r => s.rankPkg x.geo.group r == d
    if x.geo.spreadN ≤ 1 ∨ !hit then s
    else
      let h := s.seqHandle e.1
      let s := (s.stopRunOf e.1).endOp e.1 .deviceFault
      let s := s.dropOps x.ctx .deviceFault (((s.seq e.1).map Seq.ops).getD [])
      (s.closeSeq e.1).raise 0x1100 0x31D0 [.w h, .w (dst.getD 0xFFFFFFFF)] x.ctx
  s.text.seqs.foldl one s

/-- 10 R371: every record held at the peer is marked bad; sequences that hold one are lost. A spill still on its way
stops (16 R532). -/
def State.losePeerSpills (s : State) : State :=
  let flying := s.yard.spills.filter fun z => (s.yard.swap.look? z.recNo).any fun r => r.atPeer
  let s := flying.foldl (fun (s : State) z => s.cancelSpill z.pool z.page) s
  let l := (s.yard.swap.filter fun e => e.2.atPeer && !e.2.bad).map Prod.fst
  if l.isEmpty then s
  else
    let holds := fun (s : State) (x : Seq) =>
      (s.entries x).any fun e => isAway e.2 && l.contains (e.2 - 0x80000000)
    let hit := (s.text.seqs.filter fun e => holds s e.2).map Prod.fst
    let s := l.foldl (fun (s : State) r => s.badRec r) s
    let s := hit.foldl (fun (s : State) q => s.loseSeq q .deviceFault) s
    s.raise 0x1112 0x21E6 [.w l.length]

end Sys2Proof.Machine
end

