-- ==== Sys2Proof/Machine/Runs.lean ====
section
/-! DEFINITION. RUN descriptors: the program image (07 R246, R247), the operand pairs of the matrix engine
(06 R201, R202), the checks of a RUN (04 R134, 05 R163, 07 R247) and the gang that executes it (05 R163). -/

namespace Sys2Proof.Machine

/-! ### Operand pairs (06 R201) -/

/-- Accumulator of a pair: FP32, INT32, S48, numbered as the bank modes of 07 R237. -/
def mFp32 : Nat := 0
def mInt32 : Nat := 1
def mS48 : Nat := 2

/-- MXFP8 and MXFP6 element types. -/
def isMx86 (c : Nat) : Bool := decide (0x10 ≤ c) && decide (c ≤ 0x13)

/-- KC and the accumulator mode of a pair (A, B), if the table of 06 R201 lists it. -/
def pairOf (a b : Nat) : Option (Nat × Nat) :=
  if (a = 1 ∧ b = 1) ∨ (a = 2 ∧ b = 2) then some (4, mFp32)
  else if (a = 3 ∨ a = 4) ∧ (b = 3 ∨ b = 4) then some (8, mFp32)
  else if isMx86 a && isMx86 b then some (8, mFp32)
  else if (a = 0x14 ∧ isMx86 b) ∨ (b = 0x14 ∧ isMx86 a) then some (8, mFp32)
  else if a = 0x14 ∧ b = 0x14 then some (16, mFp32)
  else if a = 0x15 ∧ b = 0x15 then some (8, mFp32)
  else if a = 5 ∧ (b = 5 ∨ b = 6) ∨ a = 6 ∧ b = 5 then some (8, mInt32)
  else if a = 6 ∧ b = 6 then some (16, mInt32)
  else if a = 5 ∧ isNgi b then some (8, mS48)
  else if a = 6 ∧ isNgi b ∧ elemBits b = 4 then some (16, mS48)
  else none

/-! ### The program image (07 R246) -/

/-- The header's fields, from its 128 bytes. -/
structure ProgHdr where
  flags : Nat
  live : Nat
  coresMin : Nat
  coresMax : Nat
  tc0 : Nat × Nat
  tc1 : Nat × Nat
  bay : Nat × Nat
  pairs : Nat × Nat
  qrecs : Nat × Nat
  regions : Nat × Nat
  len : Nat
  /-- MAGIC and VERSION are right and every reserved byte is zero. -/
  clean : Bool
  deriving DecidableEq, Repr

def progHdr (h : List Byte) : ProgHdr :=
  let f := fieldOf h
  { flags := f 6 2, live := f 8 4, coresMin := f 12 2, coresMax := f 14 2, tc0 := (f 16 4, f 20 4),
    tc1 := (f 24 4, f 28 4), bay := (f 32 4, f 36 4), pairs := (f 40 4, f 44 1), qrecs := (f 48 4, f 46 2),
    regions := (f 52 4, f 56 2), len := f 60 4,
    clean := f 0 4 == 0x4E4C5047 && f 4 2 == 1 && zeroBytes h 45 46 && zeroBytes h 58 60 && zeroBytes h 64 128 }

/-- A section: its offset is a multiple of 64 and its bytes lie within IMAGE_LEN. -/
def ProgHdr.section (h : ProgHdr) (off n : Nat) : Bool := off % 64 == 0 && decide (off + n ≤ h.len)

/-- Every field of the header is in its range, reserved bits are zero and the sections lie within the image
(07 R246). -/
def ProgHdr.ok (h : ProgHdr) : Bool :=
  h.clean && decide (h.flags < 2) && decide (h.live < 2 ^ 24) &&
  decide (1 ≤ h.coresMin) && decide (h.coresMin ≤ h.coresMax) && decide (h.coresMax ≤ 64) &&
  decide (h.tc0.2 ≤ 65536) && decide (h.tc1.2 ≤ 65536) && decide (h.bay.2 ≤ 1572864) &&
  decide (h.pairs.2 ≤ 16) && decide (h.qrecs.2 ≤ 256) && decide (h.regions.2 ≤ 64) &&
  decide (h.len ≤ 4194304) &&
  h.section h.tc0.1 h.tc0.2 && h.section h.tc1.1 h.tc1.2 && h.section h.bay.1 h.bay.2 &&
  h.section h.pairs.1 (2 * h.pairs.2) && h.section h.qrecs.1 (48 * h.qrecs.2) &&
  h.section h.regions.1 (4 * h.regions.2)

/-- The header of the image at key `k`. -/
def State.progHdr (s : State) (k : Nat) : ProgHdr := Machine.progHdr (s.load k 128)

def State.progPairs (s : State) (k : Nat) (h : ProgHdr) : List (Nat × Nat) :=
  (List.range h.pairs.2).map fun i => (s.loadNat (k + h.pairs.1 + 2 * i) 1, s.loadNat (k + h.pairs.1 + 2 * i + 1) 1)

def State.progQrecs (s : State) (k : Nat) (h : ProgHdr) : List (List Byte) :=
  (List.range h.qrecs.2).map fun i => s.load (k + h.qrecs.1 + 48 * i) 48

def State.progRegions (s : State) (k : Nat) (h : ProgHdr) : List Nat :=
  (List.range h.regions.2).map fun i => s.loadNat (k + h.regions.1 + 4 * i) 4

/-- A region of weights (04 R146). -/
def State.isWeights (s : State) (r : Nat) : Bool := (s.region r).any fun e => e.kind == 1

/-- The first step of 07 R247 for the image at key `k`. -/
def State.imageBad (s : State) (k : Nat) : Bool :=
  let h := s.progHdr k
  !h.ok || (s.progRegions k h).any (fun r => !s.isWeights r) ||
  (s.progPairs k h).any (fun p => (pairOf p.1 p.2).isNone) ||
  (s.progQrecs k h).any fun q => (qrecOf q).malformed

/-- The second step of 07 R247. -/
def State.imageLimit (s : State) (k cores argLen : Nat) : Bool :=
  let h := s.progHdr k
  decide (cores < h.coresMin) || decide (h.coresMax < cores) ||
  (s.progQrecs k h).any fun q => (qrecOf q).beyond argLen

/-- Key of a PROG address: form 00 or 10 (07 R247). -/
def progKey (a : Word64) : Option Nat := if addrForm a % 2 = 0 then addrKey a else none

/-- The status of 07 R247 that the image at `a` gives a gang of `cores`. -/
def State.imageStatus (s : State) (a : Word64) (cores argLen : Nat) : Option Status :=
  match progKey a with
  | none => some .invalidDescriptor
  | some k =>
    firstStatus [(s.imageBad k, .invalidDescriptor), (s.imageLimit k cores argLen, .limitRejected)]

/-- The function whose addresses a context may name. -/
def State.imageOwn (s : State) (fn : Nat) (a : Word64) : Bool :=
  s.addrOk fn a 128 && (progKey a).all fun k => s.addrLenOk fn a (s.progHdr k).len

/-! ### Gangs -/

/-- A gang for the image at key `k`; its program's regions are held for the whole program (04 R147). -/
def State.newGang (s : State) (n : Nat) (d : Desc) (width k : Nat) (args : List Byte)
    (members : List (Nat × Nat)) : Nat × State :=
  let h := s.progHdr k
  let u := s.uid
  let g : Gang :=
    { uid := u, ctx := n, desc := d, width := width, phase := .waiting, cores := [], readyAt := s.now,
      sliceAt := s.now, decidedAt := 0, residueCycles := 0, slice := 0, replaysOfSlice := 0,
      slicesReplayed := 0, imaged := false, alternate := false, noReplay := false, replaying := false, saving := [],
      failed := none, prog := k, args := args, result := 0, arrivals := 0, generation := 0, startBarrier := (0, 0),
      members := members, images := 0, replayable := h.flags % 2 == 1, live := BitVec.ofNat 24 h.live,
      pairs := s.progPairs k h, qrecs := s.progQrecs k h, budgeted := false }
  let regions := s.progRegions k h
  let s := { s with uid := s.uid + 1, sbox := { s.sbox with gangs := s.sbox.gangs ++ [g] } }
  (u, s.holdRegions regions u)

/-! ### RUN -/

/-- CORES of a RUN: 0 is the context's maximum (04 R133). -/
def State.runCores (s : State) (d : Desc) : Nat :=
  if d.nat 36 2 = 0 then s.fld (cr d.ctx 0x10C) 8 7 else d.nat 36 2

/-- The open sequence of this context that a handle names. -/
def State.ownSeq (s : State) (n h : Nat) : Option Seq := (s.seq (handleIdx h)).filter fun x => x.ctx == n

/-- The status code as one of 04 R140, for a lost sequence. -/
def lostStatus (b : Byte) : Status := if b.toNat = 0x0D then .deviceFault else .eccUncorrectable

/-- The checks of a RUN in the order of 04 R134, then 05 R163 and 07 R247. -/
def State.runCheck (s : State) (d : Desc) : Option Status :=
  let n := d.ctx
  let fn := s.ctxFunc n
  let h := d.nat 40 4
  let named := h ≠ 0xFFFFFFFF
  let c := s.runCores d
  match firstStatus
    [(!s.imageOwn fn (d.addr 16) || !s.addrLenOk fn (d.addr 24) (d.nat 32 4), .invalidDescriptor),
     (named && !s.handleEpochOk n h, .epochStale),
     (named && (s.ownSeq n h).isNone, .invalidDescriptor),
     (decide (65536 < d.nat 32 4), .limitRejected),
     (decide (c < s.fld (cr n 0x10C) 0 7) || decide (s.fld (cr n 0x10C) 8 7 < c), .quotaExceeded)] with
  | some st => some st
  | none =>
    match s.imageStatus (d.addr 16) c (d.nat 32 4) with
    | some st => some st
    | none => if named then ((s.ownSeq n h).bind fun x => x.lost).map lostStatus else none

/-- The first poisoned line of a RUN's image and arguments. -/
def State.runPoison (s : State) (d : Desc) : Option Nat :=
  match s.poisonAt (d.addr 16) ((progKey (d.addr 16)).elim 0 fun k => (s.progHdr k).len) with
  | some l => some l
  | none => s.poisonAt (d.addr 24) (d.nat 32 4)

/-- The image and the arguments are read. -/
def State.runRead (s : State) (d : Desc) : State :=
  (s.touchAt (d.addr 16) ((progKey (d.addr 16)).elim 0 fun k => (s.progHdr k).len)).touchAt (d.addr 24) (d.nat 32 4)

/-- 04 R133: the RUN's gang is queued. -/
def execRun (ctx : Fin 256) (sq : Fin 4) (s : State) : Next :=
  .next (s.take ctx sq 0x01 (fun s d => s.runCheck d) fun s d =>
    let s := s.runRead d
    match s.runPoison d with
    | some l => s.consume d l
    | none =>
      match progKey (d.addr 16) with
      | none => s
      | some k => (s.newGang d.ctx d (s.runCores d) k (s.loadAt (d.addr 24) (d.nat 32 4)) []).2)

end Sys2Proof.Machine
end

