-- ==== Sys2Proof/Machine/StepOrder.lean ====
section
/-! DEFINITION. The sequence-model header (09 R307), and the decode steps that could form now (09 R328): which sequences are ready, in which order they are taken,
and where a step that waits for its cores stands among the gangs (05 R164, R170). -/

namespace Sys2Proof.Machine

/-! ### The model header (09 R307) -/

/-- The sequence-model header. -/
structure ModelHdr where
  geo : Geo
  scatter : Nat
  g : Nat
  ropeStyle : Nat
  ropeDims : Nat
  window : Nat
  qk : F32
  kbase : F32
  vbase : F32
  prefillOff : Nat
  stepOff : Nat
  prefillCores : Nat
  stepCores : Nat
  chunk : Nat
  stepMax : Nat
  vocab : Nat
  eos : Nat
  modelId : Word64
  stepPool : Nat
  /-- MAGIC and VERSION are right and the reserved bytes are zero. -/
  clean : Bool
  deriving DecidableEq, Repr

def modelHdr (b : List Byte) : ModelHdr :=
  let f := fieldOf b
  { geo := { fmt := f 6 1, layers := f 8 2, kvh := f 14 2, d := f 10 2, wPages := f 18 2, spreadN := f 76 1,
             spreadIdx := f 77 1, group := f 80 4 },
    scatter := f 7 1, g := f 12 1, ropeStyle := f 13 1, ropeDims := f 16 2, window := f 20 4,
    qk := BitVec.ofNat 32 (f 24 4), kbase := BitVec.ofNat 32 (f 28 4), vbase := BitVec.ofNat 32 (f 32 4),
    prefillOff := f 40 4, stepOff := f 44 4, prefillCores := f 48 2, stepCores := f 50 2, chunk := f 52 2,
    stepMax := f 54 2, vocab := f 56 4, eos := f 60 4, modelId := BitVec.ofNat 64 (f 64 8), stepPool := f 72 4,
    clean := f 0 4 == 0x4E4C534D && f 4 2 == 1 && zeroBytes b 78 80 && zeroBytes b 84 256 }

/-- The header of the buffer at key `k`. -/
def State.modelAt (s : State) (k : Nat) : ModelHdr := modelHdr (s.load k 256)

/-- Key of the buffer of the generation of region `r` that reader `u` holds (04 R147). -/
def State.readerBuf (s : State) (u r : Nat) : Option Nat :=
  (s.regionHolds.find? fun h => h.holder == u && h.region == r).bind fun h =>
    (s.region r).bind fun e => addrKey (e.buffer h.gen)

/-- The generation of region `r` that reader `u` holds. -/
def State.heldGen (s : State) (u r : Nat) : Option Word :=
  (s.regionHolds.find? fun h => h.holder == u && h.region == r).map fun h => h.gen

/-! ### Ready sequences (09 R328) -/

/-- The model header of an append in progress. -/
def State.actModel (s : State) (x : Seq) (a : Appending) : Option (Nat × ModelHdr) :=
  (s.readerBuf a.desc.uid x.region).map fun k => (k, s.modelAt k)

/-- The sequence is ready for a decode step of model region `r`. -/
def State.seqReady (s : State) (r : Nat) (e : Nat × Seq) : Bool :=
  let x := e.2
  x.region == r && x.geo.spreadIdx == 0 && x.nextTok.isSome && x.pre = .inPlace && x.lost.isNone &&
  !s.namedByRun e.1 x && x.act.any fun a => a.pretoks.isEmpty && a.tokens.isEmpty && a.gang.isNone && a.row.isNone

/-- The order of R164 of a sequence's context, then the order of readiness. -/
def State.seqKey (s : State) (x : Seq) : List Nat :=
  let n := x.ctx
  let at' := (x.act.map fun a => a.readyAt).getD 0
  if s.classB n then [0, s.rank n, s.deadline n, s.admOrder n, at'] else [1, s.rank n, at']

/-- The generation of its model region that an append holds. -/
def State.seqGen (s : State) (x : Seq) : Option Word := x.act.bind fun a => s.heldGen a.desc.uid x.region

def Seq.bucket (x : Seq) : Nat := x.len / 256

/-- Sequences taken in order, with at most 8 buckets. -/
def takeStep (room : Nat) (buckets : List Nat) : List (Nat × Seq) → List (Nat × Seq)
  | [] => []
  | e :: r =>
    if room = 0 then []
    else
      let b := e.2.bucket
      if buckets.contains b then e :: takeStep (room - 1) buckets r
      else if buckets.length < 8 then e :: takeStep (room - 1) (b :: buckets) r
      else takeStep room buckets r

/-- The members of a step that could form now, by ascending bucket. -/
def State.stepMembers (s : State) (r : Nat) : List (Nat × Seq) :=
  let ready := sortBy (fun (a b : Nat × Seq) => keyLt (s.seqKey a.2) (s.seqKey b.2)) (s.text.seqs.filter (s.seqReady r))
  match ready with
  | [] => []
  | f :: _ =>
    let same := ready.filter fun e => s.seqGen e.2 == s.seqGen f.2
    let room := ((f.2.act.bind fun a => s.actModel f.2 a).map fun m => m.2.stepMax).getD 0
    sortBy (fun (a b : Nat × Seq) => decide (a.2.bucket < b.2.bucket)) (takeStep room [] same)

/-! ### Steps among the gangs (05 R164, R165, R169, R170) -/

/-- The members of each step that waits for its cores. -/
def State.stepsWaiting (s : State) : List (List (Nat × Seq)) :=
  (((s.text.seqs.filter fun e => e.2.act.isSome).map fun e => e.2.region).eraseDups.map s.stepMembers).filter
    fun m => !m.isEmpty

/-- A step is ordered as its highest-ordered member. -/
def State.stepKey (s : State) (m : List (Nat × Seq)) : List Nat :=
  match m with
  | [] => []
  | e :: r => r.foldl (fun k x => if keyLt (s.seqKey x.2) k then s.seqKey x.2 else k) (s.seqKey e.2)

def State.stepRank (s : State) (m : List (Nat × Seq)) : Nat := m.foldl (fun r e => min r (s.rank e.2.ctx)) 3

/-- A step that waits for its cores is ordered ahead of `k`. -/
def State.stepAhead (s : State) (k : List Nat) : Bool := s.stepsWaiting.any fun m => keyLt (s.stepKey m) k

end Sys2Proof.Machine
end

