-- ==== Sys2Proof/Machine/Gangs.lean ====
section
/-! DEFINITION. The life of a gang on cores (05 R164 to R184, 07 R248, R249, R266): grant and placement,
slices and their images, preemption, save and restore, budgets and periods, core faults and replay, and the
evaluation after a change of capacity (05 R185). -/

namespace Sys2Proof.Machine

/-! ### Placement (05 R167) -/

/-- The slot of core `c` has failed BIST or at run time (01 R15). -/
def State.slotFailed (s : State) (c : Nat) : Bool :=
  s.bit (ro .cl (c / 8) 0x44) (s.slotOfCore c) || s.bit (ro .cl (c / 8) 0x44) (16 + s.slotOfCore c)

/-- A core that a gang may take. -/
def State.coreFree (s : State) (c : Nat) : Bool := s.coreIdle c && !s.slotFailed c

/-- Dies that may carry a gang: ADM_CORES.DIE_MASK, 0 for either. A step of several contexts takes either. -/
def State.dieAllowed (s : State) (g : Gang) (d : Nat) : Bool :=
  let m := s.fld (cr g.ctx 0x10C) 16 2
  !g.members.isEmpty || m == 0 || m / 2 ^ d % 2 == 1

def State.freeOn (s : State) (d : Nat) : List Nat := (upFrom (32 * d) 32).filter s.coreFree

/-- The die that carries the whole gang, if one can: of two allowed dies the one with more idle cores, CD0
when they are equal. -/
def State.oneDie (s : State) (g : Gang) : Option Nat :=
  let a := (s.freeOn 0).length
  let b := (s.freeOn 1).length
  let ok0 := s.dieAllowed g 0 && decide (g.width ≤ a)
  let ok1 := s.dieAllowed g 1 && decide (g.width ≤ b)
  if ok0 && ok1 then (if a < b then some 1 else some 0)
  else if ok0 then some 0 else if ok1 then some 1 else none

/-- Free cores from which the gang is placed. -/
def State.placePool (s : State) (g : Gang) : List Nat :=
  match s.oneDie g with
  | some d => s.freeOn d
  | none => ((List.range 2).filter (s.dieAllowed g)).flatMap s.freeOn

/-- The fewest clusters whose free cores carry `n` cores: clusters with more free cores first. -/
def fewest : Nat → List Nat → Nat
  | 0, _ => 0
  | _, [] => 0
  | n + 1, c :: r => 1 + fewest (n + 1 - c) r

def clustersOf (cs : List Nat) : List Nat := (List.range 8).filter fun k => cs.any fun c => c / 8 == k

/-- The cores `cs` are a placement of the gang under 05 R167. -/
def State.placement (s : State) (g : Gang) (cs : List Nat) : Bool :=
  let pool := s.placePool g
  let counts := sortBy (fun a b => decide (b < a))
    ((List.range 8).map fun k => (pool.filter fun c => c / 8 == k).length)
  cs.length == g.width && decide cs.Nodup && cs.all pool.contains &&
  (clustersOf cs).length == fewest g.width counts

/-- The running gangs that a waiting class B gang stops: the last of the order first, whole gangs, until the
cores that are free or on their way suffice (05 R166, R167). -/
def State.victims (s : State) (g : Gang) : List Gang :=
  let useful := fun (c : Nat) => s.dieAllowed g (c / 32)
  let coming := ((List.range 64).filter fun c => useful c &&
    (s.coreFree c || (s.gangOf c).any fun h => h.phase = .stopping || h.phase = .saving)).length
  let after := sortBy (fun a b => s.gangBefore b a)
    (s.sbox.gangs.filter fun h => h.phase = .running && s.gangBefore g h && h.cores.any useful)
  (after.foldl (fun (a : Nat × List Gang) h =>
    if g.width ≤ a.1 then a else (a.1 + (h.cores.filter useful).length, a.2 ++ [h])) (coming, [])).2

/-! ### Images and slices -/

/-- The scratch cells of a core. -/
def State.scratchCells (s : State) (c : Nat) : List Host.Cell :=
  (s.mem.filter fun e => decide (kScratch c 0 0 ≤ e.1) && decide (e.1 < kScratch (c + 1) 0 0)).map fun e =>
    (e.1 - kScratch c 0 0, e.2)

/-- The image of core `c`: its live banks, scratches, units (05 R175). -/
def State.imageOf (s : State) (c : Nat) : Image :=
  let k := s.core c
  let bank := fun (b : Nat) => (List.range 65536).map fun i => (b * 65536 + i, s.bayByte (kBay c (b * 65536 + i)))
  { live := k.live, bay := ((List.range 24).filter fun b => k.live.getLsbD b).flatMap bank,
    scratch := s.scratchCells c, core := k,
    poison := ((List.range 24).filter fun b => k.live.getLsbD b).flatMap fun b =>
      (s.poison.filter fun l => decide (bayLine (kBay c (b * 65536)) ≤ l) &&
        decide (l < bayLine (kBay c (b * 65536)) + 1024)).map (· - bayLine (kBay c 0)),
    frame := 0 }

/-- Bytes of an image (05 R175). -/
def Image.bytes (m : Image) : Nat :=
  ((List.range 24).filter fun b => m.live.getLsbD b).length * 65536 + 131072 + 16384 + 8192

/-- The frame of the save area for the next image of member `i` (05 R177). -/
def State.saveFrame (s : State) (g : Gang) (i : Nat) : Nat :=
  (s.rd64 (cr g.ctx 0x114)).toNat / 0x200000 + (if g.alternate then 2 * i + g.images % 2 else i)

/-- The image that core `c` of a gang saves. -/
def State.savedImage (s : State) (g : Gang) (c : Nat) : Image :=
  { s.imageOf c with frame := s.saveFrame g (s.core c).idx }

/-- Core `c` writes its image to its frame, over what the frame held. Its place there is not stated: the bytes are free
(log 27). -/
def State.writeImage (s : State) (g : Gang) (c : Nat) : State :=
  let m := s.savedImage g c
  let (v, s) := s.newFree
  let s := s.store (kHbm (m.frame * 0x200000)) ((List.range m.bytes).map fun i => Config.freeByte v i)
  let s := { s with images := s.images.filter fun e => e.1 / 128 != g.uid || e.2.frame != m.frame }
  s.putImage (imageKey g.uid (s.core c).idx g.images) m

/-- The running O of an ATTEND whose working banks were not all live is lost across the save (09 R315). -/
def State.lostStatistics (s : State) (c : Nat) (live : BitVec 24) : State :=
  let w := (s.core c).rs.work
  if (upFrom w.1 w.2).all fun b => live.getLsbD b then s
  else
    let fresh := fun (e : Nat × (Word × Word × List Word)) =>
      (e.1, (e.2.1, (e.2.2.1, (List.range e.2.2.2.length).map fun d => Config.freeWord s.free (256 * e.1 + d))))
    { s with free := s.free + 1 }.updCore c fun k => { k with rs := { k.rs with rows := k.rs.rows.map fresh } }

/-- Load core `c` with an image: banks outside its mask become undefined (05 R175). -/
def State.loadImage (s : State) (c : Nat) (m : Image) : State :=
  let s := s.clearKeys (kScratch c 0 0) (kScratch (c + 1) 0 0)
  let s := { s with mem := m.scratch.foldl (fun (l : List Host.Cell) (e : Nat × Byte) => memPut l (kScratch c 0 0 + e.1) e.2) s.mem }
  let s := s.bayUndefine c fun _ => true
  let s := { s with
    bay := m.bay.foldl (fun (l : List Host.Cell) (e : Nat × Byte) => cellPut l (kBay c e.1) e.2) s.bay,
    poison := (m.poison.map (· + bayLine (kBay c 0))).foldl setInsert
      (s.poison.filter fun l => !(decide (bayLine (kBay c 0) ≤ l) && decide (l < bayLine (kBay (c + 1) 0)))) }
  let s := s.updCore c fun k => { m.core with gang := k.gang, idx := k.idx, live := m.live }
  let s := s.lostStatistics c m.live
  s.setFld (ro .co c 0x48) 0 24 m.live.toNat

/-- 07 R248: a core at the start of the first slice. -/
def State.startCore (s : State) (g : Gang) (c : Nat) : State :=
  let h := s.progHdr g.prog
  let s := s.clearKeys (kScratch c 0 0) (kScratch (c + 1) 0 0)
  let s := s.store (kScratch c 0 0) (s.load (g.prog + h.tc0.1) h.tc0.2)
  let s := s.store (kScratch c 1 0) (s.load (g.prog + h.tc1.1) h.tc1.2)
  let s := s.bayUndefine c fun _ => true
  let s := s.bayStore (kBay c 0) (s.load (g.prog + h.bay.1) h.bay.2)
  let s := s.updCore c fun k => { Core.reset with
    gang := k.gang, idx := k.idx, live := g.live, tc0 := { Tidy.reset with runs := true },
    tc1 := { Tidy.reset with runs := true } }
  s.setFld (ro .co c 0x48) 0 24 g.live.toNat

/-- REPLAY_SAVE of a gang's context (05 R189). -/
def State.replaySave (s : State) (n : Nat) : Bool := s.bit (ro .sbox 0 (0x800 + 4 * n)) 0

/-- REPLAY_MAX; 0 is treated as 1. -/
def State.replayMax (s : State) (n : Nat) : Nat := max 1 (s.fld (ro .sbox 0 (0x800 + 4 * n)) 1 2)

/-- The save area has room for slice-start images (05 R184). -/
def State.replayRoom (s : State) (n : Nat) : Bool :=
  decide (2 * s.fld (cr n 0x10C) 8 7 ≤ s.fld (cr n 0x11C) 0 17)

/-- 05 R184 at a slice start: REPLAY_OFF and its event, once. -/
def State.noteRoom (s : State) (n : Nat) : State :=
  if s.replaySave n && !s.replayRoom n then
    let s := s.setFld (cr n 0x120) 23 1 1
    if (s.ctx n).noRoomLogged then s
    else (s.setCtx n { s.ctx n with noRoomLogged := true }).raise 0x1100 0x11C9
      [.w (s.fld (cr n 0x11C) 0 17), .w (2 * s.fld (cr n 0x10C) 8 7)] n
  else s

/-- Images of every core of the gang, in the round that follows the last one (05 R177, R180). -/
def State.imageAll (s : State) (g : Gang) : State :=
  (g.cores.foldl (fun (s : State) c => s.writeImage g c) s).updGang g.uid fun g => { g with images := g.images + 1 }

/-- A slice of a running gang starts (05 R165, R180, R184). `restored` says that it began with a restore. -/
def State.startSlice (s : State) (u : Nat) (restored : Bool) : State :=
  match s.gang u with
  | none => s
  | some g =>
    let s := s.noteRoom g.ctx
    let alt := s.replaySave g.ctx && s.replayRoom g.ctx
    let img := g.replayable && alt
    let b := s.gangClassB g
    let s := if img && !restored then s.imageAll { g with alternate := alt } else s
    s.updGang u fun g => { g with
      phase := .running, sliceAt := s.now, slice := g.slice + 1, noReplay := false, imaged := img, alternate := alt,
      budgeted := b, replaysOfSlice := if g.replaying then g.replaysOfSlice else 0, replaying := false,
      startBarrier := (g.arrivals, g.generation) }

/-- Cores `cs` are taken by the gang, in gang order. -/
def State.giveCores (s : State) (g : Gang) (cs : List Nat) : State :=
  let s := s.noteBusy
  let s := (cs.zip (List.range cs.length)).foldl
    (fun (s : State) (e : Nat × Nat) => s.holdCore e.1 (some (g.uid, g.ctx, e.2))) s
  g.ctxs.foldl State.settleRun (((s.updGang g.uid fun g => { g with cores := cs }).countCores).countHeld g.ctx)

/-- The gang takes its cores: a new gang is loaded and starts, a saved one starts its restore. -/
def State.grant (s : State) (g : Gang) (cs : List Nat) : State :=
  let s := s.giveCores g cs
  if g.phase = .waiting then
    let s := cs.foldl (fun (s : State) c => s.startCore g c) s
    (s.updGang g.uid fun g => { g with phase := .running }).startSlice g.uid false
  else
    let s := cs.foldl (fun (s : State) c => s.setFld (ro .co c 0x40) 24 1 1) s
    s.updGang g.uid fun g => { g with phase := .restoring }

/-- Gangs that are to stop: the decision of 05 R174. -/
def State.stopGangs (s : State) (vs : List Gang) : State :=
  vs.foldl (fun (s : State) v => s.updGang v.uid fun g => { g with phase := .stopping, decidedAt := s.now }) s

/-- 05 R166, R167: the first waiting gang takes idle cores, unless a decode step is ordered ahead of it; a class B gang
that lacks cores preempts. -/
def execGangDispatch (gang : Nat) (cores : List (Fin 64)) (s : State) : Next :=
  match s.firstWaiting with
  | none => .next s
  | some g =>
    if g.uid ≠ gang ∨ s.pst ≠ 0 ∨ s.bit (ro .pwr 0 0x50) 6 ∨ s.frozen .sbox 0 ∨ ¬ s.blockGoes .sbox 0 ∨ s.stepAhead (s.gangKey g) then .next s
    else
      let cs := cores.map (·.val)
      if s.placement g cs then .next (s.grant g cs)
      else if g.width ≤ (s.placePool g).length then .next s
      else if s.gangClassB g then .next (s.stopGangs (s.victims g))
      else .next s

/-! ### Quanta and preemption -/

/-- A gang or decode step ordered ahead of `g`, or one of equal rank, waits for cores (05 R165). -/
def State.pressed (s : State) (g : Gang) : Bool :=
  (s.sbox.gangs.any fun h => h.waits && (s.gangBefore h g || s.gangRank h == s.gangRank g)) ||
  s.stepAhead (s.gangKey g) || s.stepsWaiting.any fun m => s.stepRank m == s.gangRank g

/-- 05 R165: the quantum of a class Q gang ends. -/
def execQuantumEnd (gang : Nat) (s : State) : Next :=
  match s.gang gang with
  | none => .next s
  | some g =>
    if g.phase ≠ .running ∨ g.budgeted ∨ s.now < g.sliceAt + s.quantum g * 1000 then .next s
    else if s.pressed g then .next (s.stopGangs [g])
    else .next ((g.cores.foldl (fun (s : State) c => s.sliceEnd c g.ctx) s).startSlice gang false)

/-- The bound of 05 R174 at the gang's slowest clock, in ns. -/
def State.stopBound (s : State) (g : Gang) : Nat :=
  let mhz := fun (c : Nat) => s.fld (ro .pwr 0 0x60) (c / 32 * 16) 11
  4000 + 8192 * 1000 / max 1 ((g.cores.map mhz).foldl min 1500)

/-- A tidy core of the gang is halted (07 R269). -/
def State.gangHalted (s : State) (g : Gang) : Bool :=
  g.cores.any fun c => (s.core c).tc0.halted || (s.core c).tc1.halted

/-- 05 R174, R175: the gang has stopped issuing, and its cores start to save. -/
def execPreemptStopped (gang : Nat) (s : State) : Next :=
  match s.gang gang with
  | none => .next s
  | some g =>
    if g.phase ≠ .stopping ∨ s.gangHalted g then .next s
    else
      let took := s.now - g.decidedAt
      let s := if s.stopBound g < took then s.raise 0x1100 0x21C7 [.d took] g.ctx else s
      let one := fun (s : State) (c : Nat) =>
        ((s.sliceEnd c g.ctx).notePc c).setFld (ro .co c 0x40) 23 1 1
      let s := g.cores.foldl one s
      let s := (s.addFld (cr g.ctx 0x134) 0 32 1).addFld (ro .sbox 0 0x68) 0 32 1
      .next (s.updGang gang fun g => { g with phase := .saving, saving := List.range g.cores.length })

/-- 05 R175, R177: the image of a core is written and the core is released. -/
def execSaveDone (core : Fin 64) (ecc : Bool) (s : State) : Next :=
  match s.gangOf core with
  | none => .next s
  | some g =>
    if g.phase ≠ .saving then .next s
    else if ecc then .next (s.finishGang g .eccUncorrectable 0)
    else
      let i := (s.core core).idx
      let s := s.writeImage g core
      let s := ((s.setCore core Core.reset).holdCore core none).wr (ro .co core 0x48) 0
      let left := g.saving.filter (· != i)
      let s := s.updGang g.uid fun g => { g with
        saving := left, cores := g.cores.filter (· != core.val),
        phase := if left.isEmpty then .saved else .saving,
        readyAt := if left.isEmpty then s.now else g.readyAt,
        images := if left.isEmpty then g.images + 1 else g.images }
      .next ((((s.countCores).countHeld g.ctx).settleRun g.ctx).noteIdle)

/-- The images of a gang's members. -/
def State.gangImages (s : State) (g : Gang) : List Image :=
  (List.range g.width).filterMap fun i => (s.memberImage g.uid i).map Prod.snd

/-- The gang's images are read from their frames: what is latent there is found (18 R603, 19 R626). -/
def State.readImages (s : State) (g : Gang) : State :=
  (s.gangImages g).foldl (fun (s : State) m => s.touch (kHbm (m.frame * 0x200000)) m.bytes) s

/-- A frame that holds an image of the gang has a poisoned line (05 R177). -/
def State.imagesPoisoned (s : State) (g : Gang) : Bool :=
  (s.gangImages g).any fun m => poisonedIn s.poison (kHbm (m.frame * 0x200000)) m.bytes

/-- 05 R176: the images are read back and the next slice begins. -/
def execRestoreDone (gang : Nat) (ecc : Bool) (s : State) : Next :=
  match s.gang gang with
  | none => .next s
  | some g =>
    if g.phase ≠ .restoring then .next s
    else
      let s := s.readImages g
      if ecc ∨ s.imagesPoisoned g then .next (s.finishGang g .eccUncorrectable 0)
      else
        let one := fun (s : State) (e : Nat × Nat) =>
          match s.memberImage gang e.2 with
          | some (_, m) => (s.loadImage e.1 m).setFld (ro .co e.1 0x40) 24 1 0
          | none => s
        let s := (g.cores.zip (List.range g.cores.length)).foldl one s
        .next (s.startSlice gang true)

/-! ### Budgets and periods (05 R168, R169) -/

/-- Running gangs take the class that their contexts now give them; one that falls to class Q starts a
quantum. -/
def State.reclass (s : State) : State :=
  let one := fun (s : State) (g : Gang) =>
    let b := s.gangClassB g
    if g.phase ≠ .running ∨ b = g.budgeted then s
    else s.updGang g.uid fun g => { g with budgeted := b, sliceAt := if b then g.sliceAt else s.now }
  s.sbox.gangs.foldl one s

/-- Some gang or decode step of the context waits for cores. -/
def State.waitsFor (s : State) (n : Nat) : Bool :=
  (s.sbox.gangs.any fun g => g.waits && g.ctxs.contains n) || s.stepsWaiting.any fun m => m.any fun e => e.2.ctx == n

/-- 05 R169: a miss. -/
def State.missed (s : State) (n left : Nat) : State :=
  let s := (s.addFld (cr n 0x13C) 0 32 1).notify n .guaranteeBroken 0 (s.earliestRunTag n) 2 0
  (s.addFld (ro .sbox 0 0x64) 16 16 1).raise 0x1100 0x21C4 [.w left] n

/-- 05 R168: a period of a budgeted context ends and the next one begins. -/
def execPeriodStart (ctx : Fin 256) (s : State) : Next :=
  let n := ctx.val
  let us := (s.rd (cr n 0x104)).toNat
  let endAt := (s.ctx n).periodAt + us * 1000
  if !(s.ctx n).admitted ∨ us = 0 ∨ s.gts < endAt then .next s
  else
    let left := (s.rd (cr n 0x130)).toNat
    let s := if (s.ctx n).heldWholePeriod ∧ 0 < left ∧ s.waitsFor n then s.missed n left else s
    let s := s.wr (cr n 0x130) (BitVec.ofNat 32 (s.fld (cr n 0x10C) 0 7 * (s.rd (cr n 0x108)).toNat))
    let s := s.wr64 (cr n 0x128) (BitVec.ofNat 64 (endAt + us * 1000))
    let held := s.broken n % 2 = 0
    let s := s.setCtx n { s.ctx n with periodAt := endAt, heldWholePeriod := held, restoredWaiting := false }
    .next s.reclass

/-- 05 R168: BUDGET_LEFT has reached 0; the gang moves to class Q and starts a quantum. -/
def execBudgetExhausted (gang : Nat) (s : State) : Next :=
  match s.gang gang with
  | none => .next s
  | some g =>
    if g.phase ≠ .running ∨ !g.budgeted ∨ s.gangClassB g then .next s
    else .next (s.updGang gang fun g => { g with budgeted := false, sliceAt := s.now })

/-- Milli-cycles of the gang's cores in one nanosecond; a die whose clocks stand has none (17 R576). -/
def State.gangRate (s : State) (g : Gang) : Nat :=
  g.cores.foldl (fun a c => a + if s.pwr.stopped.contains (c / 32) then 0
    else s.fld (ro .pwr 0 0x60) (c / 32 * 16) 11) 0

/-- Sequences of context `n` in the gang, and of all of them. -/
def Gang.share (g : Gang) (n : Nat) : Nat × Nat :=
  if g.members.isEmpty then (1, 1) else ((g.members.filter fun m => m.2 == n).length, g.members.length)

/-- One nanosecond of a running class B gang (05 R168, R170); one that is to stop runs until it has stopped, also while a
tidy core of it is halted (07 R269). -/
def State.chargeGang (s : State) (g : Gang) : State :=
  if (g.phase ≠ .running ∧ g.phase ≠ .stopping) ∨ !g.budgeted then s
  else
    let t0 := g.residueCycles
    let t1 := t0 + s.gangRate g
    let one := fun (s : State) (n : Nat) =>
      let (k, m) := g.share n
      let units := t1 * k / (m * 1000000) - t0 * k / (m * 1000000)
      s.wr (cr n 0x130) (BitVec.ofNat 32 ((s.rd (cr n 0x130)).toNat - units))
    let ns := (s.gangCtxs g).eraseDups
    (ns.foldl one s).updGang g.uid fun g => { g with residueCycles := t1 }

def State.chargeBudgets (s : State) : State := s.sbox.gangs.foldl (fun s g => s.chargeGang g) s

/-! ### The evaluation (05 R185 to R188) -/

/-- The limit that holds die `d` below `req` MHz: 1 for power, 2 for heat. -/
def State.heldBy (s : State) (d req : Nat) : Option Nat :=
  let cap := s.fld (ro .therm 0 0x48) (d * 16) 11
  if req ≤ s.fld (ro .pwr 0 0x60) (d * 16) 11 then none
  else if cap < req ∧ cap < s.pwr.lim then some 2
  else if s.pwr.lim < req then some 1
  else none

/-- Cause 8 gives way to the power or thermal limit that holds a die below REQ_MHZ (05 R187). -/
def State.causeOf (s : State) (c req : Nat) : Nat :=
  if c ≠ 8 then c else ((s.heldBy 0 req).or (s.heldBy 1 req)).getD 8

/-- 05 R185: the admitted contexts are evaluated and the BROKEN bits installed. -/
def execCapacityEvaluation (s : State) : Next :=
  match s.sbox.evalDue with
  | none => .next s
  | some c0 =>
    let change := s.sbox.evalChange
    let s := { s with sbox := { s.sbox with evalDue := none, evalChange := false } }.countCores
    let l := s.admitted.map s.admIn
    let k := s.capacity
    let (bs, load) := evaluate k l
    let req := reqMhz k l
    let c := s.causeOf c0 req
    let s := (s.setFld (ro .sbox 0 0x54) 0 16 load).setFld (ro .sbox 0 0x54) 16 16
      ((k.avail0 + k.avail1) * k.utilPct * 256 / 100)
    let s := s.setFld (ro .sbox 0 0x5C) 0 11 req
    let s := if change then s.raise 0x1100 0x11C8 [.w (k.avail0 + k.avail1), .w k.f0, .w k.f1, .w k.memLimit]
      else s
    let s := bs.foldl (fun (s : State) (e : Nat × Nat) => s.installBroken c e.1 e.2) s
    .next ((s.countBroken.sumReservations).reclass)

/-! ### The end of a RUN, core faults -/

/-- The queues of 07 R249 are empty. -/
def Core.queuesEmpty (k : Core) : Bool :=
  k.tc0.ended && k.tc1.ended && k.me.all (fun e => e.2.lists.isEmpty) && k.dm0.descs.isEmpty &&
  k.dm1.descs.isEmpty && k.wu.queue.isEmpty && k.rs.queue.isEmpty

/-- 07 R249: every tidy core has ended and every queue is empty. -/
def execRunEnd (gang : Nat) (s : State) : Next :=
  match s.gang gang with
  | none => .next s
  | some g =>
    if g.phase ≠ .running ∧ g.phase ≠ .stopping ∨ !(g.cores.all fun c => (s.core c).queuesEmpty) then .next s
    else
      let a0 := (g.cores.head?.map fun c => ((s.core c).tc0.x.look 0 10).toNat).getD 0
      .next (s.finishGang g .ok a0)

/-- The spare slot of cluster `k` can take over: it has passed BIST, has not failed and is not in use
(01 R11). -/
def State.spareFree (s : State) (k : Nat) : Bool :=
  s.fld (ro .cl k 0x44) 8 1 == 0 && s.fld (ro .cl k 0x44) 24 1 == 0 &&
  (upFrom (8 * k) 8).all fun c => s.slotOfCore c != 8

/-- The spare brings its own bay, scratches and units: nothing of the failed core stays (01 R13). -/
def State.freshCore (s : State) (c : Nat) : State :=
  let s := ((s.setCore c Core.reset).bayUndefine c fun _ => true).clearKeys (kScratch c 0 0) (kScratch (c + 1) 0 0)
  let mine := fun (l : Nat) => decide (bayLine (kBay c 0) ≤ l) && decide (l < bayLine (kBay (c + 1) 0))
  { s with poison := s.poison.filter fun l => !mine l, latent := s.latent.filter fun e => !mine e.1 }

/-- Logical core `c` moves to the spare slot or becomes absent (01 R11, R12, 03 R101). -/
def State.remap (s : State) (c : Nat) : State :=
  let a := ro .cl (c / 8) 0x40
  let lo := c % 8 * 4
  if s.spareFree (c / 8) then
    ((s.setFld a lo 4 8).freshCore c).raise 0x0005 0x1013 []
  else s.setFld a lo 4 15

/-- The core that takes the place of core `c` of a gang: an idle one of the same cluster, else of the same die, else of
either die that may carry the gang; of those the lowest (DESIGN CHOICE, log 27). -/
def State.standIn (s : State) (g : Gang) (c : Nat) : Option Nat :=
  let free := (List.range 64).filter fun x => s.coreFree x && s.dieAllowed g (x / 32)
  ((free.find? fun x => x / 8 == c / 8).or (free.find? fun x => x / 32 == c / 32)).or free.head?

/-- The gang's cores with every one that can no longer be used replaced, if idle cores suffice. -/
def State.standIns (s : State) (g : Gang) : List Nat → Option (List Nat × State)
  | [] => some ([], s)
  | c :: r =>
    let use := if s.coreAvail c && !s.slotFailed c then some c else s.standIn g c
    match use with
    | none => none
    | some x => match (s.holdCore x (some (g.uid, g.ctx, 0))).standIns g r with
      | none => none
      | some (l, t) => some (x :: l, t)

/-- A slice whose core has failed is replayed (05 R181): the gang stops, a core in a failed slot is remapped, and every
core is restored from its slice-start image, on the same cores with idle ones in place of those that are lost; where
those do not suffice the gang waits for cores. -/
def State.replay (s : State) (g : Gang) (core : Nat) : State :=
  let stop := fun (s : State) (c : Nat) =>
    (((s.notePc c).dropCoreYard c).setCore c { Core.reset with gang := some g.uid }).wr (ro .co c 0x48) 0
  let s := (g.cores.foldl stop s).dropColl g.uid
  let lost := g.cores.filter fun c => s.slotFailed c && !s.absent c
  let s := lost.foldl (fun (s : State) c => s.remap c) s
  let s := if lost.any s.absent then s.evalWanted 3 else s
  let new := (s.standIns g g.cores).map Prod.fst
  let s := s.freeCores g
  let s := s.updGang g.uid fun g => { g with
    phase := .saved, replaying := true, replaysOfSlice := g.replaysOfSlice + 1, readyAt := s.now,
    slicesReplayed := g.slicesReplayed + 1, failed := some core,
    arrivals := g.startBarrier.1, generation := g.startBarrier.2 }
  let s := (s.addFld (cr g.ctx 0x138) 0 32 1).addFld (ro .sbox 0 0x6C) 0 32 1
  let s := s.raise 0x1100 0x11C5 [.w (core / 8), .w (core % 8)] g.ctx
  match new, s.gang g.uid with
  | some cs, some h => s.grant h cs
  | _, _ => s.settleRun g.ctx

/-- 05 R181, R182 for the gang of a failed core. -/
def State.gangFault (s : State) (g : Gang) (core : Nat) : State :=
  let may := g.imaged && !g.noReplay && !s.bit (cr g.ctx 0x120) 23
  if may ∧ g.replaysOfSlice < s.replayMax g.ctx then s.replay g core
  else
    let s := if 0 < g.replaysOfSlice then s.raise 0x1100 0x31C6 [.w g.replaysOfSlice] g.ctx else s
    s.finishGang g .deviceFault 0

/-- CO.ECC and CO.RESIDUE of a core fault (07, "Registers"). -/
def State.countFault (s : State) (c cause : Nat) : State :=
  if cause = 0x10 then s.addSat (ro .co c 0x50) 0 16 1
  else if cause = 0x13 then s else s.addSat (ro .co c 0x4C) 16 16 1

/-- A core fault of a gang's core; an injected one marks no slot and counts none (07 R266, 19 R626). -/
def State.coreFault (s : State) (c cause unit : Nat) (injected : Bool) : State :=
  match s.gangOf c with
  | none => s
  | some g =>
    let s := (s.noteStop c cause unit g.ctx).countFault c cause
    let s := if injected then s
      else (s.addSat (ro .co c 0x44) 24 8 1).setFld (ro .cl (c / 8) 0x44) (16 + s.slotOfCore c) 1 1
    let s := s.raise (dieSrc (c / 8) (c % 8)) (if c < 32 then 0x3250 else 0x3350) [.w cause, .w unit] g.ctx
    s.gangFault g c

/-- 07 R266. -/
def execCoreFault (core : Fin 64) (cause : Fin 4) (unit : Fin 8) (s : State) : Next :=
  .next (s.coreFault core (0x10 + cause) unit false)

/-- 01 R11: the failed core is quiescent. A core that becomes absent takes capacity away (05 R187: core
lost). -/
def execCoreRemap (core : Fin 64) (s : State) : Next :=
  let c := core.val
  if s.absent c ∨ !s.slotFailed c ∨ (s.core c).gang.isSome then .next s
  else
    let s := (s.remap c).countCores
    .next (if s.absent c then s.evalWanted 3 else s)

end Sys2Proof.Machine
end

