-- ==== Sys2Proof/Machine/CoreMem.lean ====
section
/-! DEFINITION. What the units of a core read and write: core bays, scratches, cluster SRAM under its owners
(07 R227, R228), HBM under the pools of a VF (04 R131), and the poison of what they read (18 R603, R604). -/

namespace Sys2Proof.Machine

/-- A place that a unit of a core addresses: a bay byte by its bay key, a memory byte by its key. -/
inductive Loc where
  | bay (k : Nat)
  | mem (k : Nat)
  deriving DecidableEq, Repr

def Loc.plus (l : Loc) (n : Nat) : Loc :=
  match l with
  | .bay k => .bay (k + n)
  | .mem k => .mem (k + n)

def State.locTouch (s : State) (l : Loc) (n : Nat) : State :=
  match l with
  | .bay _ => s
  | .mem k => s.touch k n

def State.locLoad (s : State) (l : Loc) (n : Nat) : List Byte :=
  match l with
  | .bay k => s.bayLoad k n
  | .mem k => s.load k n

def State.locNat (s : State) (l : Loc) (n : Nat) : Nat := leNat (s.locLoad l n)

def State.locStore (s : State) (l : Loc) (bs : List Byte) : State :=
  match l with
  | .bay k => s.bayStore k bs
  | .mem k => s.store k bs

/-- A place becomes undefined (04 R153, 18 R603). -/
def State.spoilLoc (s : State) (l : Loc) (n : Nat) : State :=
  match l with
  | .mem k => if n = 0 then s else s.undefine k n
  | .bay k => let (g, s) := s.newFree
    s.bayStore k ((List.range n).map fun i => Config.freeByte g (k + i))

/-- Key under which the poison of a place stands. -/
def Loc.poisonKey (l : Loc) : Nat :=
  match l with
  | .bay k => bayLine 0 * 64 + k
  | .mem k => k

/-- The poisoned line of a read as it is reported: a bay line by its bay key. -/
def State.locPoison (s : State) (l : Loc) (n : Nat) : Option Nat :=
  if n = 0 then none
  else (firstPoisoned s.poison l.poisonKey n).map fun x =>
    match l with
    | .bay _ => x - bayLine 0
    | .mem _ => x

/-- Copy between places; poison travels with the lines (18 R604). -/
def State.locCopy (s : State) (src dst : Loc) (n : Nat) : State :=
  let s := s.locTouch src n
  let bad := (linesOf dst.poisonKey n).filter fun l =>
    let o := l * 64 - dst.poisonKey
    poisonedIn s.poison (src.poisonKey + o) (min (64 - (dst.poisonKey + o) % 64) (n - o))
  (s.locStore dst (s.locLoad src n)).poisonLines bad

/-- How a program's access to a device address ends. -/
inductive DevAcc where
  | ok (l : Loc)
  | denied
  /-- A slice that it reaches is being cleared (07 R229). -/
  | waits
  deriving DecidableEq, Repr

def State.sliceOwner (s : State) (c slice : Nat) : Nat := s.fld (ro .cl c (0x800 + slice / 4 * 4)) (slice % 4 * 8) 8

/-- The slice a clear runs on. -/
def State.clearing (s : State) (c slice : Nat) : Bool := s.sliceClears.any fun k => k.cl == c && k.slice == slice

/-- A program of context `n` may use the slice: it is not retired, and its owner is the context, or nobody
while the context belongs to the PF (07 R227, R228). -/
def State.sliceAllows (s : State) (n c slice : Nat) : Bool :=
  s.fld (ro .cl c 0x48) slice 1 == 0 &&
  (s.sliceOwner c slice == n && n != 0xFF || s.sliceOwner c slice == 0xFF && s.ctxFunc n == 0)

def slicesOf (x n : Nat) : List Nat :=
  if n = 0 then [] else upFrom (x / 0x100000) ((x + n - 1) / 0x100000 - x / 0x100000 + 1)

/-- `n` bytes at byte `x` of cluster `c`'s SRAM. -/
def State.sramAcc (s : State) (ctx c x n : Nat) : DevAcc :=
  let l := slicesOf x n
  if 0xC00000 < x + n then .denied
  else if l.any (fun k => s.clearing c k) then .waits
  else if l.all fun k => s.sliceAllows ctx c k then .ok (.mem (kSram c x)) else .denied

/-- `n` bytes at a device address for a program of context `ctx` (04 R131, 07 R228). -/
def State.devAcc (s : State) (ctx : Nat) (a : Word64) (n : Nat) : DevAcc :=
  match addrSpace a with
  | some (.sram c x) => s.sramAcc ctx c x n
  | some p => if s.addrOk (s.ctxFunc ctx) a n then .ok (.mem p.key) else .denied
  | none => .denied

/-- Context of the gang that holds core `c`. -/
def State.coreCtx (s : State) (c : Nat) : Nat := ((s.gangOf c).map Gang.ctx).getD 0xFF

/-- A correctable core-bay error met by a read (07 R225). -/
def State.bayCorrected (s : State) (c : Nat) (ce : Option (Fin 24)) : State :=
  match ce with
  | none => s
  | some b => (s.addSat (ro .co c 0x4C) 0 16 1).raise (dieSrc (c / 8) (c % 8)) (if c < 32 then 0x0252 else 0x0352)
      [.w b, .w 1] (s.coreCtx c)

/-- Add to a semaphore of core `c` (07 R251). -/
def State.semAdd (s : State) (c sem n : Nat) : State := s.updCore c fun k => k.signal sem n

/-- (semaphore − VALUE) as a signed 16-bit difference is 0 or more (07 R251). -/
def Core.semReached (k : Core) (sem : Nat) (v : Half) : Bool := decide (0 ≤ (k.sems.look 0 sem - v).toInt)

/-! ### Packed elements (06 R195) -/

/-- Element `i` of a packed row at place `l`, `w` bits each. -/
def State.elemAt (s : State) (l : Loc) (w i : Nat) : Nat :=
  let o := i * w
  s.locNat (l.plus (o / 8)) ((o % 8 + w + 7) / 8) / 2 ^ (o % 8) % 2 ^ w

/-- Write element `i` of a packed row; the neighbours in its bytes stay. -/
def State.putElem (s : State) (l : Loc) (w i v : Nat) : State :=
  let o := i * w
  let n := (o % 8 + w + 7) / 8
  let p := l.plus (o / 8)
  let old := s.locNat p n
  s.locStore p (leBytes n (old % 2 ^ (o % 8) + v % 2 ^ w * 2 ^ (o % 8) + old / 2 ^ (o % 8 + w) * 2 ^ (o % 8 + w)))

/-- Bytes of `n` elements of `w` bits. -/
def rowBytes (w n : Nat) : Nat := (n * w + 7) / 8

end Sys2Proof.Machine
end

