-- ==== Sys2Proof/Machine/Recorder.lean ====
section
/-! DEFINITION. The event recorder and its NOR mirror (18 R590 to R601): records and merging, the intake, the
snapshot, the mirror's sectors. -/

namespace Sys2Proof.Machine

/-- Register `o` of the EVR page. -/
def evrA (o : Nat) : Nat := ro .evr 0 o

def State.withEvr (s : State) (f : Recorder → Recorder) : State := { s with evr := f s.evr }

/-- One bit step of CRC-16/CCITT-FALSE. -/
def crc16Step (c : Nat) : Nat := if c / 0x8000 % 2 = 1 then (c * 2 % 0x10000) ^^^ 0x1021 else c * 2 % 0x10000

/-- CRC-16/CCITT-FALSE: polynomial 0x1021, initial 0xFFFF (18 R591). -/
def crc16 (bs : List Byte) : Nat :=
  bs.foldl (fun c b => Nat.repeat crc16Step 8 (c ^^^ (b.toNat * 256))) 0xFFFF

/-- Bytes 0 to 59 of a record (18 R591). -/
def EvRecord.head (r : EvRecord) : List Byte :=
  leBytes 8 r.ev.gts ++ leBytes 4 r.seq.toNat ++ leBytes 2 r.ev.src.toNat ++ leBytes 2 r.ev.code.toNat ++
  leBytes 4 r.rep.toNat ++ [r.ev.ctx, r.ev.func, r.pkg, 0] ++ leBytes 8 r.lastGts ++ r.ev.data

/-- FLAGS. -/
def EvRecord.flags (r : EvRecord) : Nat :=
  (if r.valid then 1 else 0) + (if r.ev.synced then 2 else 0) + (if r.loss then 4 else 0) +
  (if r.closed then 8 else 0)

/-- The 64 bytes of a record. -/
def EvRecord.bytes (r : EvRecord) : List Byte :=
  r.head ++ leBytes 2 r.crc.toNat ++ [0] ++ leBytes 1 r.flags

/-- The record with its CRC computed. -/
def EvRecord.sealed (r : EvRecord) : EvRecord := { r with crc := BitVec.ofNat 16 (crc16 r.head) }

/-- The CRC stored is that of the bytes. -/
def EvRecord.crcOk (r : EvRecord) : Bool := r.crc == BitVec.ofNat 16 (crc16 r.head)

def State.evrHead (s : State) : Word := s.rd (evrA 0x40)

def State.mergeMs (s : State) : Nat := s.fld (evrA 0x54) 0 10

/-- The record of SEQ `q`, while its slot holds it. -/
def State.record (s : State) (q : Word) : Option EvRecord :=
  (s.evr.slots.look? (q.toNat % 4096)).bind fun r => if r.seq = q ∧ r.valid then some r else none

def State.putSlot (s : State) (r : EvRecord) : State :=
  s.withEvr fun e => { e with slots := e.slots.put (r.seq.toNat % 4096) r }

/-- The SEQs of the records that can still be open: the last 64 (18 R593). -/
def State.recentSeqs (s : State) : List Word :=
  (upFrom 1 64).map fun k => s.evrHead - BitVec.ofNat 32 k

def State.openRecords (s : State) : List EvRecord :=
  (s.recentSeqs.filterMap s.record).filter fun r => !r.closed

/-- MIRROR_SEQ: the highest SEQ below which every record has been mirrored, skipped or lost (18 R597). -/
def State.updMirrorSeq (s : State) : State :=
  let waiting := s.evr.toMirror.map (·.seq) ++ s.openRecords.map (·.seq)
  let far := waiting.foldl (fun (m : Nat) (q : Word) => max m (s.evrHead - q).toNat) 0
  s.wr (evrA 0x5C) (s.evrHead - BitVec.ofNat 32 far)

/-- A record closes; the mirror takes it if its class or its SEQ calls for it (18 R593, R597). -/
def State.closeRecord (s : State) (r : EvRecord) : State :=
  let r := { r with closed := true }
  let s := s.putSlot r
  if s.fld (evrA 0x54) 12 3 ≤ evClass r.ev.code.toNat ∨ r.seq.toNat % 4096 = 0 then
    s.withEvr fun e => { e with toMirror := e.toMirror ++ [r] }
  else s

/-- Every open record closes, as a reset starts (18 R593). -/
def State.closeAll (s : State) : State := (s.openRecords.foldl State.closeRecord s).updMirrorSeq

/-- The record that a new one overwrites was still to be mirrored: it is lost to the mirror (18 R597). A run
of losses is reported once. -/
def State.loseUnmirrored (s : State) (slot : Nat) : State :=
  match s.evr.toMirror.find? fun r => r.seq.toNat % 4096 == slot with
  | none => s
  | some r =>
    let first := !s.evr.losing
    let s := (s.addSat (evrA 0x64) 0 32 1).withEvr fun e =>
      { e with toMirror := e.toMirror.filter fun x => x.seq != r.seq, losing := true }
    if first then s.raise 0x0002 0x2065 [.w r.seq.toNat] else s

/-- Write a new record (18 R592, R593). -/
def State.writeRecord (s : State) (ev : Event) : State :=
  let q := s.evrHead
  let s := s.loseUnmirrored (q.toNat % 4096)
  let done := 3 ≤ evClass ev.code.toNat ∨ s.mergeMs = 0
  let r : EvRecord := EvRecord.sealed
    { seq := q, ev := ev, rep := 1, lastGts := ev.gts, pkg := BitVec.ofNat 8 (s.fld (ro .klr 0 0x40) 0 4),
      loss := s.evr.lossFlag, valid := true, closed := false, crc := 0 }
  let s := (s.putSlot r).withEvr fun e => { e with lossFlag := false }
  let written := (q - s.evr.firstSeq).toNat
  let s := s.wr (evrA 0x44) (if written < 4096 then s.evr.firstSeq else q - 4095)
  let s := s.wr (evrA 0x40) (q + 1)
  let s := if done then s.closeRecord r else s
  let s := match s.record (q - 64) with
    | some o => if o.closed then s else s.closeRecord o
    | none => s
  s.updMirrorSeq

/-- An event that the recorder itself reports: it is written at once. -/
def State.selfRecord (s : State) (code : Nat) (vals : List EvVal) : State :=
  ((s.markEvent 0x0002 code).pulse code).writeRecord
    ⟨s.gts, 0x0002, BitVec.ofNat 16 code, 0xFF, 0xFF, evData vals, s.synced⟩

/-- The open record that an event of class 0, 1 or 2 merges into, while its window runs (18 R593). -/
def State.mergeTarget (s : State) (e : Event) : Option EvRecord :=
  if 3 ≤ evClass e.code.toNat ∨ s.mergeMs = 0 then none
  else s.openRecords.find? fun r =>
    decide (s.gts < r.ev.gts + s.mergeMs * 1000000) && r.ev.src == e.src && r.ev.code == e.code && r.ev.ctx == e.ctx && r.ev.func == e.func &&
    r.ev.data == e.data

/-- Merge an event into a record: REPEAT and LAST_GTS (18 R593). -/
def mergeInto (r : EvRecord) (e : Event) : EvRecord :=
  EvRecord.sealed { r with rep := if r.rep = 0xFFFFFFFF then r.rep else r.rep + 1, lastGts := e.gts }

/-- Held sources move into free places for class 3 and 4 (18 R594). -/
def State.admitHeld (s : State) : State :=
  match s.evr.heldSources with
  | [] => s
  | e :: r =>
    if placesTaken s.evr.intake .severe < 16 then
      (s.withEvr fun v => { v with heldSources := r }).pushIntake .severe e
    else s

/-- When the intake falls to 128 events after drops, an EVR_LOSS record reports them (18 R594). -/
def State.reportLoss (s : State) : State :=
  if s.bit (evrA 0x58) 2 ∧ placesTaken s.evr.intake .normal ≤ 128 then
    let n := s.evr.dropsSinceLoss
    ((s.selfRecord 0x2064 [.w n]).setFld (evrA 0x58) 2 1 0).withEvr fun v => { v with dropsSinceLoss := 0 }
  else s

/-- 18 R590: an event reaches the recorder; the first record after a reset is EVR_BOOT. -/
def execEventIntake (s : State) : Next :=
  if ¬ s.boot.aonUp then .next s
  else if s.boot.bootRecordDue then
    .next (({ s with boot := { s.boot with bootRecordDue := false } }).selfRecord 0x0066
      [.w (s.fld stA 20 3), .w (s.fld stA 12 1)])
  else match s.evr.intake with
    | [] => .next s
    | (_, e) :: r =>
      let s := (s.withEvr fun v => { v with intake := r }).admitHeld
      let s := match s.mergeTarget e with
        | some t => s.putSlot (mergeInto t e)
        | none => s.writeRecord e
      .next s.reportLoss

/-- 18 R593: the merge window of an open record passes. -/
def execRecordClose (seq : Word) (s : State) : Next :=
  match s.record seq with
  | some r =>
    if ¬ r.closed ∧ r.ev.gts + s.mergeMs * 1000000 ≤ s.gts then .next ((s.closeRecord r).updMirrorSeq)
    else .next s
  | none => .next s

/-- A write of EVR.SNAP takes effect (18 R595): TAKE copies HEAD and OLDEST. -/
def State.snapTake (s : State) (val : Word) : State :=
  if bitsOf val 0 1 = 1 then (s.wr (evrA 0x4C) (s.rd (evrA 0x40))).wr (evrA 0x50) (s.rd (evrA 0x44)) else s

/-! ### The NOR mirror -/

def mirOff : Nat := 0
def mirActive : Nat := 1
def mirReadOnly : Nat := 2
def mirSuspended : Nat := 3

def State.mirror (s : State) : Nat := s.fld (evrA 0x58) 0 2
def State.setMirror (s : State) (n : Nat) : State := s.setFld (evrA 0x58) 0 2 n

/-- The physical sector of a logical sector: mirror sectors first, then the spares (18 R596). -/
def State.physSector (s : State) (l : Nat) : Nat := s.evr.sectorMap.look l l

/-- Mean of the first times of a sector, once four are known (18 R596). -/
def baseline (t : Nat × Nat) : Option Nat := if t.1 = 4 then some (t.2 / 4) else none

/-- Add one of the first four times. -/
def addBase (t : Nat × Nat) (us : Nat) : Nat × Nat := if t.1 < 4 then (t.1 + 1, t.2 + us) else t

/-- Longer than 1.5 times the baseline (18 R598). -/
def tooSlow (t : Nat × Nat) (us : Nat) : Bool := (baseline t).any fun b => decide (3 * b < 2 * us)

/-- A sector retires and the spare with the lowest address takes its place (18 R598, R599). -/
def State.retireSector (s : State) (l us base : Nat) : State :=
  let left := s.fld (evrA 0x68) 0 13 - 1
  let s := (s.setFld (evrA 0x68) 0 13 left).addSat (evrA 0x68) 16 13 1
  let s := (s.addSat (evrA 0x6C) 0 32 1).raise 0x0009 0x2067 [.w (s.physSector l), .w us, .w base, .w left]
  let s := s.withEvr fun e =>
    { e with sectorMap := e.sectorMap.put l (4096 + e.sparesUsed), sparesUsed := e.sparesUsed + 1,
             sectorGen := e.sectorGen.put l (e.sectorGen.look 0 l + 1) }
  if left ≤ 371 ∧ s.mirror = mirActive then
    ((s.setMirror mirReadOnly).setFld stA 14 1 1).raise 0x0009 0x3068 []
  else s

/-- A NOR operation ended in no response or an error; three in a row suspend the mirror (18 R600). -/
def State.norError (s : State) : State :=
  let n := s.evr.norErrors + 1
  let s := s.withEvr fun e => { e with norErrors := n, norRetryAt := s.now }
  if 3 ≤ n ∧ s.mirror = mirActive then (s.setMirror mirSuspended).raise 0x0009 0x3069 [] else s

/-- MIRROR_FIRST and MIRROR_LAST (18 R601). -/
def State.updMirrorRange (s : State) : State :=
  let f := (s.evr.mirrored.head?.map fun r => r.2.seq).getD 0
  let l := (s.evr.mirrored.getLast?.map fun r => r.2.seq).getD 0
  (s.wr (evrA 0x78) f).wr (evrA 0x7C) l

/-- 18 R597, R598: the program of the oldest record waiting ends, after `tries` programs and `us` µs. -/
def execMirrorProgramDone (us tries : Nat) (ok : Bool) (s : State) : Next :=
  match s.evr.toMirror with
  | [] => .next s
  | r :: rest =>
    let place := s.evr.mirrorPlace
    if s.mirror ≠ mirActive ∨ (place = 0 ∧ s.evr.erasedAhead = 0) then .next s
    else if !ok then .next s.norError
    else if !r.crcOk then
      .next ((s.withEvr fun e => { e with toMirror := rest, losing := false }).updMirrorSeq)
    else
      let l := s.evr.mirrorSector
      let ph := s.physSector l
      let base := s.evr.progBase.look (0, 0) ph
      let worn := tooSlow base us || decide (2 ≤ tries)
      let s := s.withEvr fun e =>
        { e with toMirror := rest, losing := false, norErrors := 0,
                 mirrored := e.mirrored ++ [(l, r)],
                 progBase := e.progBase.put ph (addBase base us),
                 erasedAhead := if place = 0 then e.erasedAhead - 1 else e.erasedAhead,
                 mirrorPlace := (place + 1) % 63,
                 mirrorSector := if place = 62 then (l + 1) % 4096 else l }
      let s := if worn then s.retireSector l us ((baseline base).getD 0) else s
      .next s.updMirrorSeq.updMirrorRange

/-- 18 R597, R598: the erase of the next sector ahead of need ends after `us` µs. -/
def execNorEraseDone (us : Nat) (ok : Bool) (s : State) : Next :=
  if s.mirror ≠ mirActive then .next s
  else if !ok then .next s.norError
  else
    let e := s.evr
    let first := if e.mirrorPlace = 0 then e.mirrorSector else e.mirrorSector + 1
    let l := (first + e.erasedAhead) % 4096
    if 4095 ≤ e.erasedAhead then .next s
    else
      let ph := s.physSector l
      let base := e.eraseBase.look (0, 0) ph
      let s := s.withEvr fun e =>
        { e with mirrored := e.mirrored.filter fun r => r.1 != l, erasedAhead := e.erasedAhead + 1, norErrors := 0,
                 sectorErases := e.sectorErases.put ph (e.sectorErases.look 0 ph + 1),
                 eraseBase := e.eraseBase.put ph (addBase base us) }
      let s := if tooSlow base us then s.retireSector l us ((baseline base).getD 0) else s
      .next s.updMirrorRange

/-- 18 R600: 10 s after the last attempt a suspended mirror retries and resumes from MIRROR_SEQ. -/
def execNorRetry (ok : Bool) (s : State) : Next :=
  if s.mirror ≠ mirSuspended ∨ s.now < s.evr.norRetryAt + 10000000000 then .next s
  else if ok then .next ((s.setMirror mirActive).withEvr fun e => { e with norErrors := 0 })
  else .next (s.withEvr fun e => { e with norRetryAt := s.now })

/-- A write of EVR.MREAD_SEQ takes effect (18 R601): a search starts, anew if one runs. -/
def State.mread (s : State) (val : Word) : State :=
  (s.wr (evrA 0x74) 1).withEvr fun e => { e with searching := some val }

/-- 18 R601: the search ends. -/
def execMreadDone (s : State) : Next :=
  match s.evr.searching with
  | none => .next s
  | some q =>
    let s := s.withEvr fun e => { e with searching := none }
    match s.evr.mirrored.find? fun r => r.2.seq == q && r.2.crcOk with
    | none => .next (s.wr (evrA 0x74) 0)
    | some r =>
      let bs := r.2.bytes
      let s := (List.range 16).foldl (fun (s : State) (i : Nat) =>
        s.wr (evrA (0x800 + 4 * i)) (BitVec.ofNat 32 (leNat ((bs.drop (4 * i)).take 4)))) s
      .next (s.wr (evrA 0x74) 2)

end Sys2Proof.Machine
end

