-- ==== Sys2Proof/Machine/Karlund.lean ====
section
/-! DEFINITION. Karlund ports, routes, messages, peer memory and membership (16 R523 to R532, R542 to R547).
One message stands for the flits that carry it. -/

namespace Sys2Proof.Machine

def klA (n o : Nat) : Nat := ro .kl n o

def State.klSt (s : State) (n : Nat) : Nat := s.fld (klA n 0x40) 0 3
def kDisabled : Nat := 0
def kTraining : Nat := 1
def kUp : Nat := 2
def kSuspect : Nat := 3
def kDown : Nat := 4

def State.withKl (s : State) (f : Kl → Kl) : State := { s with kl := f s.kl }

def State.updPort (s : State) (n : Nat) (f : KlPort → KlPort) : State :=
  s.withKl fun k => { k with ports := k.ports.put n (f (s.klPort n)) }

/-- 16 R527: a port is usable once UP for HOLDOFF_MS, while its peer is a MEMBER of this CONSIST_EPOCH. -/
def State.nowUsable (s : State) (n : Nat) : Bool :=
  s.klSt n == kUp && decide ((s.klPort n).upAt + s.fld (klrA 0x44) 16 8 * 1000000 ≤ s.now) &&
  s.fld (klA n 0x40) 16 2 == csMember && s.fld (klA n 0x44) 0 16 == s.consistEpoch

def State.refreshUsable (s : State) (n : Nat) : State :=
  s.setFld (klA n 0x40) 3 1 (if s.nowUsable n then 1 else 0)

/-- `n` data flits leave a port: an armed injection of kind 5 inverts their CRC (19 R625). -/
def State.spoilCrc (s : State) (p n : Nat) : State :=
  if 0 < (s.klPort p).crcBad ∧ 0 < n then
    let s := s.updPort p fun q => { q with crcBad := q.crcBad - n }
    { s with test := { s.test with inj := s.test.inj.map fun i => if i.kind = 5 then { i with hit := true } else i } }
  else s

/-! ### Data and its poison (18 R603) -/

/-- Bytes as a link carries them, with the 64-byte groups that are poisoned. -/
structure Piece where
  data : List Byte
  bad : List Nat

/-- `n` bytes at `k` with their poison. -/
def State.piece (s : State) (k n : Nat) : Piece :=
  ⟨s.load k n, (List.range ((n + 63) / 64)).filter fun g => poisonedIn s.poison (k + 64 * g) (min 64 (n - 64 * g))⟩

/-- Write a piece: the poison lands in the lines that its groups reach. -/
def State.putPiece (s : State) (k : Nat) (p : Piece) : State :=
  (s.store k p.data).poisonLines
    (p.bad.flatMap fun g => linesOf (k + 64 * g) (min 64 (p.data.length - 64 * g)))

/-- Put a message into the replay buffer of the port that the route and the hash choose (16 R528). -/
def State.transmit (s : State) (m : KlMsg) (key : Nat) : State :=
  let l := s.routePorts m.dst.val
  match l[Config.routeHash key % l.length]? with
  | none => s.withKl fun k => { k with stranded := k.stranded ++ [m] }
  | some p =>
    (s.updPort p fun q =>
      { q with replay := q.replay ++ [m], sentAt := if q.replay.isEmpty then s.now else q.sentAt,
               replays := if q.replay.isEmpty then 0 else q.replays }).spoilCrc p 1

/-- What the hash takes of a message: the line address, or the chunk number (16 R528). -/
def hashKey (b : KlBody) : Nat :=
  match b with
  | .read _ a _ => a / 64
  | .write _ a _ _ => a / 64
  | .reply t _ _ => t
  | .accessNack t => t
  | .chunk c => c.idx
  | _ => 0

/-- A NACK answers whatever the epochs; it takes no sequence number of the pair. -/
def klIsNack : KlBody → Bool
  | .staleNack _ => true
  | .retryNack _ => true
  | _ => false

def fin16 (n : Nat) : Fin 16 := ⟨n % 16, Nat.mod_lt _ (by decide)⟩

/-- Send a message of this package (16 R530); consist traffic that is held waits (16 R545). -/
def State.klSend (s : State) (dst : Nat) (b : KlBody) : State :=
  let q := s.kl.txSeq.look 0 dst
  let m : KlMsg := ⟨fin16 s.pkgId, fin16 dst, BitVec.ofNat 16 s.consistEpoch, q, 15, b⟩
  if klIsNack b then s.transmit m 0
  else
    let s := s.withKl fun k => { k with txSeq := k.txSeq.put dst (q + 1) }
    if s.kl.holding.isSome then s.withKl fun k => { k with heldOut := k.heldOut ++ [m] }
    else (s.withKl fun k => { k with sent := (k.sent ++ [m]).drop (k.sent.length + 1 - 4096) }).transmit m (hashKey b)

/-! ### Flits and ports -/

/-- 16 R524: a flit arrives, with codewords corrected and not correctable, and acknowledges `acked` of this
port's flits. One that fails is not acknowledged. -/
def execFlitReceived (port : Fin 8) (corrected uncorrected : Nat) (crcOk : Bool) (acked : Nat) (s : State) :
    Next :=
  if s.klSt port ≠ kUp ∧ s.klSt port ≠ kSuspect then .next s
  else
    let s := (s.addSat (klA port 0x50) 0 32 corrected).addSat (klA port 0x54) 0 32 uncorrected
    if !crcOk ∨ 0 < uncorrected then .next s
    else
      let some_ := decide (0 < acked) && !(s.klPort port).replay.isEmpty
      let s := s.updPort port fun q =>
        { q with rxGood := q.rxGood + 1, replay := q.replay.drop acked,
                 replays := if some_ then 0 else q.replays, sentAt := if some_ then s.now else q.sentAt }
      if 0 < acked ∧ s.klSt port = kSuspect then
        .next (((s.setFld (klA port 0x40) 0 3 kUp).updPort port fun q => { q with upAt := s.now }).refreshUsable port)
      else .next s

/-- 16 R524: the oldest flit has waited 2 µs; every unacknowledged flit is sent again, at most 8 times. -/
def execFlitReplayTimer (port : Fin 8) (s : State) : Next :=
  let q := s.klPort port
  if s.klSt port = kUp ∧ !q.replay.isEmpty ∧ q.sentAt + 2000 ≤ s.now ∧ q.replays < 8 then
    .next (((s.addSat (klA port 0x58) 0 32 q.replay.length).updPort port fun q =>
      { q with replays := q.replays + 1, sentAt := s.now }).spoilCrc port q.replay.length)
  else .next s

/-- Every unacknowledged flit goes to the router, which sends it on other usable ports (16 R525). -/
def State.handOver (s : State) (port : Nat) : State :=
  let l := (s.klPort port).replay
  let s := s.updPort port fun q => { q with replay := [], replays := 0 }
  l.foldl (fun s m => s.transmit m (hashKey m.body)) s

/-- 16 R525: 2 µs after the eighth replay there is still no acknowledgement. -/
def execKlSuspect (port : Fin 8) (s : State) : Next :=
  let q := s.klPort port
  if s.klSt port = kUp ∧ q.replays = 8 ∧ q.sentAt + 2000 ≤ s.now then
    let s := (s.setFld (klA port 0x40) 0 3 kSuspect).setFld (klA port 0x40) 3 1 0
    .next ((s.raise (0x8000 + port) 0x1800 []).handOver port)
  else .next s

/-- 16 R526: a port in UP or SUSPECT sends a heartbeat each 100 µs. -/
def execHeartbeatSend (port : Fin 8) (s : State) : Next :=
  if (s.klSt port = kUp ∨ s.klSt port = kSuspect) ∧ (s.klPort port).hbSentAt + 100000 ≤ s.now then
    .next (s.updPort port fun q => { q with hbSentAt := s.now })
  else .next s

/-- What a heartbeat leaves in the port (16 R552, 18 R586). -/
def State.noteHeartbeat (s : State) (n : Nat) (hb : Heartbeat) : State :=
  let a := klA n 0x40
  let s := (((s.setFld a 8 4 hb.pkg).setFld a 12 3 hb.port).setFld a 16 2 hb.st)
  let s := (s.setFld (klA n 0x44) 0 16 hb.epoch.toNat).wr64 (klA n 0x48) hb.serial
  (s.updPort n fun q =>
    { q with hbAt := s.now, hbEcho := some (hb.t3, s.gts), locked := hb.locked, hops := hb.hops,
             offset := hb.offset }).refreshUsable n

/-- 16 R526, 18 R586: a heartbeat on a port that is UP or SUSPECT. -/
def execHeartbeatReceived (port : Fin 8) (hb : Heartbeat) (s : State) : Next :=
  if s.klSt port = kUp ∨ s.klSt port = kSuspect then
    .next ((s.noteHeartbeat port hb).syncHeartbeat port hb)
  else .next s

/-- 16 R526: eight intervals without a heartbeat. -/
def execKlDown (port : Fin 8) (s : State) : Next :=
  if (s.klSt port = kUp ∨ s.klSt port = kSuspect) ∧ (s.klPort port).hbAt + 800000 ≤ s.now then
    let s := (s.setFld (klA port 0x40) 0 3 kDown).setFld (klA port 0x40) 3 1 0
    let s := (s.addSat (klA port 0x5C) 0 32 1).updPort port fun q => { q with downAt := s.now }
    .next ((s.raise (0x8000 + port) 0x2801 [.w (s.fld (klA port 0x40) 8 4)]).handOver port)
  else .next s

/-- 16 R527: 10 ms after DOWN the port trains again. -/
def execKlRetrain (port : Fin 8) (s : State) : Next :=
  if s.klSt port = kDown ∧ (s.klPort port).downAt + 10000000 ≤ s.now then
    .next (s.setFld (klA port 0x40) 0 3 kTraining)
  else .next s

/-- 16 R527: trained, and the first heartbeat has come. -/
def execKlUp (port : Fin 8) (hb : Heartbeat) (s : State) : Next :=
  if s.klSt port = kTraining then
    let s := (s.setFld (klA port 0x40) 0 3 kUp).updPort port fun q =>
      { q with upAt := s.now, replay := [], replays := 0 }
    .next ((s.noteHeartbeat port hb).raise (0x8000 + port) 0x0802 [.w hb.pkg, .d hb.serial.toNat])
  else .next s

/-- 16 R527: the port has been UP for HOLDOFF_MS. -/
def execKlHoldoffExpiry (port : Fin 8) (s : State) : Next := .next (s.refreshUsable port)

/-! ### Collectives in flight -/

/-- A collective takes the first status that applies (16 R540). -/
def State.failOps (s : State) (sel : CollOp → Bool) (st : Status) : State :=
  let mark := fun (o : CollOp) =>
    if sel o ∧ o.status.isNone then { o with status := some (BitVec.ofNat 8 st.code) } else o
  s.withKl fun k => { k with ops := k.ops.map mark }

/-- Package `d` can be reached (16 R528, R545). -/
def State.reaches (s : State) (d : Nat) : Bool :=
  d == s.pkgId || (!(s.routePorts d).isEmpty && !(s.kl.shut.contains d))

def State.memberValid (s : State) (d : Nat) : Bool := bitsOf (s.act (klrA (0x808 + 16 * d))) 0 1 == 1

/-- Collectives with a member that cannot be reached end with DEVICE_FAULT. -/
def State.failUnreachable (s : State) : State :=
  s.failOps (fun o => (List.range o.n).any fun r => !s.reaches (s.rankPkg o.group r)) .deviceFault

/-- Form 11 accesses in flight end (16 R532). -/
def State.failAccesses (s : State) (sel : PeerAcc → Bool) (st : Status := .deviceFault) : State :=
  if s.kl.peerAccs.any sel then
    s.withKl fun k => { k with peerAccs := k.peerAccs.filter fun a => !sel a,
                               peerStatus := some (BitVec.ofNat 8 st.code) }
  else s

/-! ### Routes -/

/-- The usable ports. -/
def State.usableNow (s : State) : List Nat := (List.range 8).filter s.portUsable

/-- Members unreachable from the partition that holds package 0 are reported once each (16 R546). -/
def State.reportUnreachable (s : State) : State :=
  let withZero := s.pkgId = 0 ∨ s.bit (klrA 0x58) 0
  let gone := (List.range 16).filter fun d => s.memberValid d && d != s.pkgId && !s.bit (klrA 0x58) d
  let new := gone.filter fun d => !s.kl.unreachLogged.contains d
  if s.consist = csMember ∧ withZero then
    (new.foldl (fun s d => s.raise 0x8010 0x2811 [.w d]) s).withKl fun k => { k with unreachLogged := gone }
  else s

/-- The fence timer (16 R546). -/
def State.fenceTimer (s : State) : State :=
  if s.consist = csMember ∧ s.pkgId ≠ 0 ∧ !s.bit (klrA 0x58) 0 then
    s.withKl fun k => { k with fenceSince := some (k.fenceSince.getD s.now) }
  else s.withKl fun k => { k with fenceSince := none }

/-- Messages for which no port was left go out again, as far as one is (16 R525, R530). -/
def State.sendStranded (s : State) : State :=
  s.kl.stranded.foldl (fun s m => s.transmit m (hashKey m.body)) (s.withKl fun k => { k with stranded := [] })

/-- Recompute every entry and REACH, with what follows (16 R528, R540, R546, 18 R585, 09 R335). -/
def State.recomputeRoutes (s : State) : State :=
  let one := fun (s : State) (d : Nat) =>
    let l := s.routePorts d
    let s := s.setFld (klrA (0x900 + 4 * d)) 16 8 (l.foldl (fun m p => m + 2 ^ p) 0)
    s.setFld (klrA 0x58) d 1 (if l.isEmpty then 0 else 1)
  let s := (List.range 16).foldl one s
  let changed := decide (s.usableNow ≠ s.kl.usableSeen)
  let s := s.withKl fun k => { k with usableSeen := s.usableNow }
  let s := if changed then s.raise 0x8010 0x1810 [.w (s.fld (klrA 0x58) 0 16)] else s
  let s := s.sendStranded.fenceTimer.reportUnreachable.failUnreachable
  let s := s.failAccesses fun a => !s.reaches a.pkg
  let lost := (List.range 16).filter fun d => s.memberValid d && d != s.pkgId && !s.reaches d
  (lost.foldl (fun s d => s.loseSpread (some d)) s).chooseParent

/-- 16 R528: the usability of a port has changed. -/
def execRouteChanged (s : State) : Next :=
  if s.usableNow = s.kl.usableSeen then .next s else .next s.recomputeRoutes

/-! ### Messages -/

/-- Signed 16-bit difference of two epochs. -/
def epochDiff (a b : Half) : Int := (a - b).toInt

/-- The window that peers may reach (16 R532). -/
def State.inPeerWin (s : State) (addr len : Nat) : Bool :=
  decide (addr + len ≤ hbmBytes) &&
  (framesOf addr len).all fun f =>
    decide (s.fld (klrA 0x64) 0 17 ≤ f) && decide (f < s.fld (klrA 0x64) 0 17 + s.fld (klrA 0x68) 0 17)

/-- Act on a message delivered in order. -/
def State.actOn (s : State) (src : Nat) (b : KlBody) : State :=
  match b with
  | .read t a n =>
    if s.inPeerWin a n then
      let s := s.touch (kHbm a) n
      let p := s.piece (kHbm a) n
      s.klSend src (.reply t p.data p.bad)
    else s.klSend src (.accessNack t)
  | .write t a d bad =>
    if s.inPeerWin a d.length then (s.putPiece (kHbm a) ⟨d, bad⟩).klSend src (.reply t [] [])
    else s.klSend src (.accessNack t)
  | .reply t d bad =>
    if s.kl.peerAccs.any (fun x => x.txn == t && x.pkg == src) then
      s.withKl fun k => { k with peerAccs := k.peerAccs.filter fun x => x.txn != t,
                                 peerStatus := some 0, peerData := d, peerBad := bad }
    else s
  | .accessNack t =>
    if s.kl.peerAccs.any (fun x => x.txn == t && x.pkg == src) then
      s.withKl fun k => { k with peerAccs := k.peerAccs.filter fun x => x.txn != t,
                                 peerStatus := some (BitVec.ofNat 8 Status.invalidDescriptor.code) }
    else s
  | b => s.withKl fun k => { k with inbox := k.inbox ++ [(src, b)] }

/-- Deliver what the reorder window holds in sequence order (16 R530). -/
def State.deliverInOrder (s : State) (src fuel : Nat) : State :=
  match fuel with
  | 0 => s
  | fuel + 1 =>
    let want := s.kl.rxNext.look 0 src
    match s.kl.rxHeld.find? fun m => m.src.val == src && m.seq == want with
    | none => s
    | some m =>
      let s := s.withKl fun k =>
        { k with rxHeld := k.rxHeld.filter fun x => !(x.src == m.src && x.seq == m.seq),
                 rxNext := k.rxNext.put src (want + 1) }
      (s.actOn src m.body).deliverInOrder src fuel

/-- A RETRY NACK: the message it names is to be sent again in 10 µs (16 R545). -/
def State.noteRetry (s : State) (src : Nat) (q : Word) : State :=
  match s.kl.sent.find? fun m => m.dst.val == src && m.seq == q with
  | none => s
  | some m =>
    let since := match s.kl.retry.find? fun r => r.1 == m with
      | some r => r.2.2
      | none => s.now
    s.withKl fun k => { k with retry := (k.retry.filter fun r => r.1 != m) ++ [(m, s.now, since)] }

/-- A message of an older epoch is discarded and counted. CONSIST_STALE_DROP is logged once for its source and epoch;
a further drop is raised only while it merges into that record, whose REPEAT counts it (16 R545, 18 R593). -/
def State.staleDrop (s : State) (src epoch : Nat) : State :=
  let s := s.addSat (klrA 0x5C) 0 32 1
  let vals : List EvVal := [.w src, .w epoch]
  let same := fun (e : Event) => e.code == 0x1815 && e.data == evData vals
  let open_ := (s.evr.intake.any fun e => same e.2) ||
    s.openRecords.any fun r => same r.ev && decide (s.gts < r.ev.gts + s.mergeMs * 1000000)
  if s.kl.staleLogged.contains (src, epoch) then (if open_ then s.raise 0x8010 0x1815 vals else s)
  else (s.withKl fun k => { k with staleLogged := k.staleLogged ++ [(src, epoch)] }).raise 0x8010 0x1815 vals

/-- A message for this package (16 R530, R545). -/
def State.acceptMsg (s : State) (m : KlMsg) : State :=
  if s.consist = csQuarantine ∨ s.consist = csFenced ∨ s.consist = csSolo then s
  else match m.body with
    | .staleNack e => s.withKl fun k => { k with inbox := k.inbox ++ [(m.src.val, .staleNack e)] }
    | .retryNack q => s.noteRetry m.src q
    | _ =>
      let own := BitVec.ofNat 16 s.consistEpoch
      let d := epochDiff m.epoch own
      if d < 0 then
        (s.staleDrop m.src m.epoch.toNat).klSend m.src (.staleNack own)
      else if 0 < d then s.klSend m.src (.retryNack m.seq)
      else
        let ahead := (m.seq - s.kl.rxNext.look 0 m.src).toNat
        if 4096 ≤ ahead ∨ s.kl.rxHeld.any (fun x => x.src == m.src && x.seq == m.seq) then s
        else (s.withKl fun k => { k with rxHeld := k.rxHeld ++ [m] }).deliverInOrder m.src 4097

/-- 16 R529, R530: a message is forwarded or accepted. -/
def execKlMessageReceived (port : Fin 8) (msg : KlMsg) (s : State) : Next :=
  if s.klSt port ≠ kUp ∧ s.klSt port ≠ kSuspect then .next s
  else if msg.dst.val = s.pkgId then .next (s.acceptMsg msg)
  else if s.consist ≠ csMember ∨ !s.portUsable port then .next s
  else if msg.hops.val ≤ 1 then .next ((s.addSat (klrA 0x60) 0 32 1).raise 0x8010 0x2816 [])
  else .next (s.transmit { msg with hops := msg.hops - 1 } (hashKey msg.body))

/-! ### Peer memory -/

/-- Where a form 11 access to package `p` goes (16 R532): none when it is forwarded, or the status that ends
it. The package's own number is served as form 00. -/
def State.peerRefusal (s : State) (p : Nat) : Option Status :=
  if !s.memberValid p ∨ !s.reaches p then some .deviceFault
  else if s.consist = csFenced ∨ s.consist = csSolo then some .deviceFault
  else if s.consist = csQuarantine then some .epochStale
  else none

/-- 16 R532: a form 11 access of this package: a write of `data`, or a read of `len` bytes. -/
def execPeerAccess (addr : Word64) (data : Option (List Byte)) (len : Nat) (s : State) : Next :=
  let n := (data.map List.length).getD len
  match addrSpace addr with
  | some (.peer p b) =>
    if !addrRangeOk addr n then .next s
    else if p = s.pkgId then
      match data with
      | some d => .next ((s.store (kHbm b) d).withKl fun k => { k with peerStatus := some 0 })
      | none =>
        let s := s.touch (kHbm b) n
        let p := s.piece (kHbm b) n
        .next (s.withKl fun k => { k with peerStatus := some 0, peerData := p.data, peerBad := p.bad })
    else match s.peerRefusal p with
      | some st => .next (s.withKl fun k => { k with peerStatus := some (BitVec.ofNat 8 st.code) })
      | none =>
        let (t, s) := s.newUid
        let body : KlBody := match data with
          | some d => .write t b d []
          | none => .read t b n
        .next ((s.withKl fun k => { k with peerAccs := k.peerAccs ++ [⟨t, p, b, data, n⟩] }).klSend p body)
  | _ => .next s

/-! ### Membership -/

/-- 16 R545: an EPOCH_STALE NACK makes the sender hold its consist traffic. -/
def execStaleNackReceived (s : State) : Next :=
  match s.kl.inbox.find? fun e => match e.2 with | .staleNack _ => true | _ => false with
  | some (p, .staleNack e) =>
    let s := s.withKl fun k => { k with inbox := k.inbox.erase (p, .staleNack e) }
    if s.consist = csMember ∧ 0 < epochDiff e (BitVec.ofNat 16 s.consistEpoch) then
      .next (s.withKl fun k => { k with holding := some (k.holding.getD (e, s.now)) })
    else .next s
  | _ => .next s

/-- 16 R545: 10 µs after a RETRY NACK the message is sent again. -/
def execRetryNackResend (s : State) : Next :=
  match s.kl.retry.find? fun r => decide (0 < r.2.1) && decide (r.2.1 + 10000 ≤ s.now) with
  | none => .next s
  | some r =>
    let s := s.withKl fun k => { k with retry := k.retry.map fun x => if x.1 = r.1 then (x.1, 0, x.2.2) else x }
    .next (s.transmit r.1 (hashKey r.1.body))

/-- KLR.CFG.INSTALL_MS in ns. -/
def State.installNs (s : State) : Nat := s.fld (klrA 0x44) 0 16 * 1000000

/-- 16 R545: INSTALL_MS passes while a message still draws RETRY NACKs from `pkg`, which is then treated as
unreachable. -/
def execRetryWaitExpiry (pkg : Fin 16) (s : State) : Next :=
  if s.kl.retry.any fun r => r.1.dst == pkg && decide (0 < r.2.1) && decide (r.2.2 + s.installNs ≤ s.now) then
    let s := s.withKl fun k => { k with shut := setInsert k.shut pkg, retry := k.retry.filter fun r => r.1.dst != pkg }
    .next ((s.failUnreachable.failAccesses fun a => a.pkg == pkg.val).loseSpread (some pkg.val))
  else .next s

/-- 16 R545, R547: no newer installation within INSTALL_MS. -/
def execInstallWaitExpiry (s : State) : Next :=
  match s.kl.holding with
  | some (e, t) =>
    if t + s.installNs ≤ s.now ∧ s.consist = csMember then
      let s := (s.setFld (klrA 0x40) 4 2 csQuarantine).withKl fun k =>
        { k with holding := none, heldOut := [], retry := [], fenceSince := none }
      let s := s.raise 0x8010 0x3813 [.w e.toNat]
      let s := (s.failOps (fun _ => true) .deviceFault).failAccesses (fun _ => true) .epochStale
      .next ((s.loseSpread none).losePeerSpills.holdover)
    else .next s
  | none => .next s

/-- 16 R546: package 0 has stayed unreachable for INSTALL_MS. -/
def execFenceTimerExpiry (s : State) : Next :=
  match s.kl.fenceSince with
  | some t =>
    if t + s.installNs ≤ s.now ∧ s.consist = csMember ∧ s.pkgId ≠ 0 then
      let s := (s.setFld (klrA 0x40) 4 2 csFenced).withKl fun k => { k with fenceSince := none }
      let s := s.raise 0x8010 0x3812 []
      let s := (s.failOps (fun _ => true) .deviceFault).failAccesses fun _ => true
      .next ((s.loseSpread none).losePeerSpills.holdover)
    else .next s
  | none => .next s

/-- The MEMBER words by entry: serial and VALID. -/
def memberOffs : List Nat := (List.range 16).flatMap fun d => [0x800 + 16 * d, 0x804 + 16 * d, 0x808 + 16 * d]
def routeOffs : List Nat := (List.range 16).map fun d => 0x900 + 4 * d

/-- The shadow words of KLR. -/
def klrShadows : List Nat := [0x50] ++ memberOffs ++ routeOffs

def shadowMask (a : Nat) : Word := maskWhere (fun f => f.shadowed) a

/-- The refusal of an installation (16 R543), as INSTALL_STAT.RESULT. -/
def State.installRefusal (s : State) : Nat :=
  let ep : Half := BitVec.ofNat 16 (s.fld (klrA 0x50) 0 16)
  let id := s.fld (klrA 0x50) 16 4
  let d := epochDiff ep (BitVec.ofNat 16 s.consistEpoch)
  let same := memberOffs.all fun o => s.rd (klrA o) == s.act (klrA o)
  if d < 0 ∨ (d = 0 ∧ !same) then 1
  else if s.fld (klrA (0x808 + 16 * id)) 0 1 = 0 ∨ s.rd64 (klrA (0x800 + 16 * id)) ≠ Config.serial then 2
  else if s.fld (klrA 0x808) 0 1 = 0 then 3
  else if s.consist = csQuarantine then 4
  else 0

/-- Install shadow words of KLR as active values. -/
def State.installWords (s : State) (l : List Nat) : State :=
  { s with active := l.foldl (fun t o => t.put (klrA o) (s.rd (klrA o) &&& shadowMask (klrA o))) s.active }

def State.bumpEpoch (s : State) (slot : Nat) : State :=
  s.setPage slot { s.page slot with epoch := (s.page slot).epoch + 1 }

/-- KLR's PG_COMMIT.COMMIT: KLR has no atom, so the snapshot installs at once, or is refused (16 R543). -/
def State.installConsist (s : State) : State :=
  let r := s.installRefusal
  let s := s.setFld (klrA 0x54) 0 3 r
  if r ≠ 0 then s.raise 0x8010 0x1817 [.w r]
  else
    let slot := slotOf .klr 0
    let s := s.setPage slot { s.page slot with commitCount := (s.page slot).commitCount + 1 }
    let ep := s.fld (klrA 0x50) 0 16
    if ep = s.consistEpoch then (s.installWords routeOffs).recomputeRoutes
    else
      let id := s.fld (klrA 0x50) 16 4
      let s := s.installWords klrShadows
      let s := ((s.setFld (klrA 0x40) 0 4 id).setFld (klrA 0x40) 16 16 ep).setFld (klrA 0x40) 4 2 csMember
      let s := (((List.range 8).map (slotOf .kl)) ++ [slotOf .klr 0, slotOf .coll 0]).foldl State.bumpEpoch s
      let s := s.withKl fun k =>
        { k with txSeq := [], rxNext := [], rxHeld := [], inbox := [], sent := [], retry := [], shut := [],
                 stranded := [], holding := k.holding.filter fun h => decide (epochDiff (BitVec.ofNat 16 ep) h.1 < 0),
                 heldOut := [], fenceSince := none, unreachLogged := [] }
      let s := (s.failOps (fun _ => true) .deviceFault).failAccesses fun _ => true
      let s := ((s.loseSpread none).losePeerSpills).raise 0x8010 0x0814 [.w ep, .w id]
      let s := (List.range 8).foldl State.refreshUsable s
      s.recomputeRoutes.syncInstall

end Sys2Proof.Machine
end

