-- ==== Sys2Proof/Machine/Coll.lean ====
section
/-! DEFINITION. The collective engine (16 R533 to R541). -/

namespace Sys2Proof.Machine

def collA (o : Nat) : Nat := ro .coll 0 o

/-! ### The sum (16 R537) -/

/-- One step of coll_sum: whether an INT32 sum saturated, and the element. -/
def collAdd (dtype a b : Nat) : Bool × Nat :=
  if dtype = 7 then
    let v := sInt 32 a + sInt 32 b
    let c := clampInt (-2147483648) 2147483647 v
    (decide (c ≠ v), (c % 2 ^ 32).toNat)
  else
    let f := if dtype = 1 then fmtBf16 else fmtF32
    (false, f.ofFx .rne (Fx.sum false [f.decode a, f.decode b]))

def collBytes (dtype : Nat) : Nat := if dtype = 1 then 2 else 4

/-- Sum two chunks element by element; counts the saturated ones. -/
def collSum (dtype : Nat) (fuel : Nat) (a b : List Byte) : Nat × List Byte :=
  match fuel with
  | 0 => (0, [])
  | fuel + 1 =>
    let w := collBytes dtype
    if a.length < w then (0, [])
    else
      let (o, v) := collAdd dtype (leNat (a.take w)) (leNat (b.take w))
      let (n, r) := collSum dtype fuel (a.drop w) (b.drop w)
      (n + (if o then 1 else 0), leBytes w v ++ r)

/-! ### Launching -/

/-- 16 R534: a store to COLL_LAUNCH. A fifth launch stalls the storing tidy core. -/
def State.collLaunch (s : State) (c t : Nat) (val : Word) : State :=
  let addr := bitsOf val 6 15 * 64
  if 4 ≤ (s.core c).coll.length then s.updTidy c t fun k => { k with stall := .coll addr }
  else
    let s := match (s.core c).gang with
      | some g => s.updGang g fun g => { g with noReplay := true }
      | none => s
    (s.updCore c fun k => { k with coll := k.coll ++ [s.launchAt c t addr] }).tcNext c t

def execCollLaunch (core : Fin 64) (tc : Fin 2) (val : Word) (s : State) : Next :=
  if s.tcRuns core tc then .next (s.collLaunch core tc val) else .next s

/-- The operations of a gang member that have started. -/
def State.opsOf (s : State) (u i : Nat) : List CollOp := s.kl.ops.filter fun o => o.gang == u && o.idx == i

/-- The descriptor's bytes. -/
structure CollDesc where
  op : Nat
  flags : Nat
  sem : Nat
  dtype : Nat
  group : Nat
  root : Nat
  src : Word64
  dst : Word64
  len : Nat
  timeoutUs : Nat
  resAddr : Nat
  zero : Bool
  deriving DecidableEq, Repr

def collDesc (b : List Byte) : CollDesc :=
  { op := fieldOf b 0 1, flags := fieldOf b 1 1, sem := fieldOf b 2 1, dtype := fieldOf b 3 1,
    group := fieldOf b 4 2, root := fieldOf b 6 1, src := BitVec.ofNat 64 (fieldOf b 8 8),
    dst := BitVec.ofNat 64 (fieldOf b 16 8), len := fieldOf b 24 4, timeoutUs := fieldOf b 28 4,
    resAddr := fieldOf b 60 4, zero := zeroBytes b 7 8 && zeroBytes b 32 60 }

def localForm (a : Word64) : Bool := decide (addrForm a ≤ 1) && addrReservedZero a && a.toNat % 4 == 0

/-- A malformed descriptor (16 R535). -/
def CollDesc.malformed (d : CollDesc) : Bool :=
  !(decide (1 ≤ d.op) && decide (d.op ≤ 4)) || decide (1 < d.flags) || decide (31 < d.sem) ||
  !(if d.op ≤ 2 then [0, 1, 7].contains d.dtype else d.dtype == 0) || d.group == 0 || decide (31 < d.group) ||
  (d.op != 4 && d.root != 0) || !localForm d.src || !localForm d.dst || d.resAddr % 16 != 0 ||
  decide (bayBytes < d.resAddr + 16) || !d.zero

def State.groupN (s : State) (g : Nat) : Nat := s.fld (collA (0x800 + 16 * g)) 0 8
def State.groupRank (s : State) (g : Nat) : Nat := s.fld (collA (0x800 + 16 * g)) 8 8
def State.groupCtx (s : State) (g : Nat) : Nat := s.fld (collA (0x800 + 16 * g)) 16 8

/-- The context may use the group (16 R535). -/
def State.groupAllows (s : State) (g n : Nat) : Bool :=
  s.groupN g != 0 && (s.groupCtx g == n || (s.groupCtx g == 0xFF && s.ctxFunc n == 0))

/-- LEN lies in its range (16 R534). -/
def CollDesc.lenOk (d : CollDesc) (n : Nat) : Bool :=
  decide (4 ≤ d.len) && decide (d.len ≤ 2 ^ 30) && d.len % (if d.op = 2 ∨ d.op = 3 then 4 * n else 4) == 0

/-- How the accesses to the data end, which a context must be allowed (04 R131, 07 R260): SRC, which a BROADCAST
reads at ROOT alone, and DST. -/
def State.collAccs (s : State) (d : CollDesc) (n : Nat) : List DevAcc :=
  let share := d.len / max 1 (s.groupN d.group)
  let src := if d.op = 4 ∧ s.groupRank d.group ≠ d.root then []
    else [s.devAcc n d.src (if d.op = 3 then share else d.len)]
  src ++ [s.devAcc n d.dst (if d.op = 2 then share else d.len)]

/-! ### Chunks -/

/-- Bytes of the data that a chunk number counts through. -/
def CollOp.span (o : CollOp) : Nat := if o.op = 3 then o.len / o.n else o.len

def CollOp.share (o : CollOp) : Nat := o.len / o.n

def CollOp.chunks (o : CollOp) : Nat := (o.span + 4095) / 4096

/-- Origin and number of every chunk this member ends up with. -/
def CollOp.wanted (o : CollOp) : Nat := if o.op = 3 then o.n * o.chunks else o.chunks

def CollOp.size (o : CollOp) (i : Nat) : Nat := min 4096 (o.span - 4096 * i)

def keyAt (a : Word64) (x : Nat) : Nat := (addrKey a).getD 0 + x

/-- A read of this member's own data of chunk `i` finds the errors of its lines (19 R626). -/
def State.touchOwn (s : State) (o : CollOp) (i : Nat) : State := s.touch (keyAt o.src (4096 * i)) (o.size i)

/-- This member's own data of chunk `i`. -/
def State.ownChunk (s : State) (o : CollOp) (i : Nat) : Piece := s.piece (keyAt o.src (4096 * i)) (o.size i)

def State.updOp (s : State) (g : Nat) (q : Word) (f : CollOp → CollOp) : State :=
  let one := fun (o : CollOp) => if o.group = g ∧ o.seq = q then f o else o
  s.withKl fun k => { k with ops := k.ops.map one }

/-- Send a chunk to the neighbour above or below in the chain, keeping a copy (16 R539). -/
def State.sendChunk (s : State) (o : CollOp) (up : Bool) (origin i : Nat) (p : Piece) : State :=
  if (up ∧ o.n ≤ o.rank + 1) ∨ (!up ∧ o.rank = 0) then s
  else
    let c : Chunk := ⟨o.group, o.seq, i, up, origin, o.op, o.dtype, o.len, o.root, p.data, p.bad⟩
    let s := s.updOp o.group o.seq fun o => { o with copies := o.copies ++ [c] }
    s.klSend (s.rankPkg o.group (if up then o.rank + 1 else o.rank - 1)) (.chunk c)

/-- The groups of a piece from byte `lo` on, numbered from there. -/
def Piece.drop (p : Piece) (lo n : Nat) : Piece :=
  let d := (p.data.drop lo).take n
  ⟨d, (List.range ((d.length + 63) / 64)).filter fun g =>
    p.bad.any fun b => decide (64 * b < lo + min d.length (64 * g + 64)) && decide (lo + 64 * g < 64 * b + 64)⟩

/-- Put final data in its place at DST (16 R538). -/
def State.placeChunk (s : State) (o : CollOp) (origin i : Nat) (p : Piece) : State :=
  let off := 4096 * i
  let s :=
    if o.op = 2 then
      let lo := max off (o.rank * o.share)
      let hi := min (off + p.data.length) ((o.rank + 1) * o.share)
      if lo < hi then s.putPiece (keyAt o.dst (lo - o.rank * o.share)) (p.drop (lo - off) (hi - lo)) else s
    else if o.op = 3 then s.putPiece (keyAt o.dst (origin * o.share + off)) p
    else s.putPiece (keyAt o.dst off) p
  s.updOp o.group o.seq fun o =>
    { o with written := if o.written.contains (origin, i) then o.written else o.written ++ [(origin, i)] }

/-- Send the next chunk of this member's own data, if the operation has it send any. -/
def State.pushOwn (s : State) (o : CollOp) : State :=
  let i := o.next
  if o.chunks ≤ i ∨ o.status.isSome ∨ !s.blockGoes .coll 0 then s
  else
    let s := s.updOp o.group o.seq fun o => { o with next := i + 1, processed := o.processed + 1 }
    let s := if o.op ≤ 2 ∧ o.rank ≠ 0 ∨ o.op = 4 ∧ o.rank ≠ o.root then s else s.touchOwn o i
    let data := s.ownChunk o i
    if o.op ≤ 2 then (if o.rank = 0 then s.sendChunk o true 0 i data else s)
    else if o.op = 3 then
      ((s.placeChunk o o.rank i data).sendChunk o true o.rank i data).sendChunk o false o.rank i data
    else if o.rank = o.root then
      ((s.placeChunk o 0 i data).sendChunk o true 0 i data).sendChunk o false 0 i data
    else s

/-- Take up the core's next descriptor, if it carries operation `op`. -/
def State.collStart (s : State) (core op : Nat) (g : Gang) (l : Launch) : State :=
  let idx := (s.core core).idx
  let d := collDesc (s.bayLoad (kBay core l.addr) 64)
  if d.malformed then s.progError core l 0x07
  else if !s.groupAllows d.group g.ctx then s.progError core l 0x02
  else if !d.lenOk (s.groupN d.group) then s.endRunWith core l .limitRejected
  else if (s.collAccs d g.ctx).contains .denied then s.progError core l 0x07
  else if d.op ≠ op ∨ (s.collAccs d g.ctx).contains .waits then s
  else
    let sa := collA (0x804 + 16 * d.group)
    let n := s.groupN d.group
    let away := (List.range n).any fun r => !s.reaches (s.rankPkg d.group r)
    let st : Option Status :=
      if s.consist = csQuarantine then some .epochStale
      else if s.consist ≠ csMember ∨ away then some .deviceFault else none
    let o : CollOp :=
      { core := core, gang := g.uid, idx := idx, ctx := g.ctx, addr := l.addr, op := op, dtype := d.dtype,
        group := d.group, seq := s.rd sa, rank := s.groupRank d.group, n := n, root := d.root, len := d.len,
        src := d.src, dst := d.dst, sig := if d.flags = 1 then some d.sem else none, timeoutUs := d.timeoutUs,
        resAddr := d.resAddr, startedAt := s.now, next := 0, written := [], seen := [], copies := [],
        processed := 0, retrans := 0, status := st.map fun x => BitVec.ofNat 8 x.code }
    let s := (s.wr sa (s.rd sa + 1)).addFld (collA 0x40) 0 6 1
    let s := s.updGang g.uid fun g => { g with noReplay := true }
    (s.withKl fun k => { k with ops := k.ops ++ [o] }).pushOwn o

/-- An operation starts, or goes on with the next chunk of this member's data. -/
def State.collGo (s : State) (core op : Nat) : State :=
  match s.gangOf core with
  | none => s
  | some g =>
    let started := s.opsOf g.uid (s.core core).idx
    if !s.blockGoes .coll 0 ∨ s.frozen .coll 0 then s
    else match (s.core core).coll[started.length]? with
      | some l =>
        if fieldOf (s.bayLoad (kBay core l.addr) 1) 0 1 = op ∨ op = 1 ∧ ¬ (fieldOf (s.bayLoad (kBay core l.addr) 1) 0 1 ∈ [2, 3, 4])
        then s.collStart core op g l
        else match started.find? fun o => o.op == op && decide (o.next < o.chunks) with
          | some o => s.pushOwn o
          | none => s
      | none =>
        match started.find? fun o => o.op == op && decide (o.next < o.chunks) with
        | some o => s.pushOwn o
        | none => s

/-- 16 R538: ALL_REDUCE. -/
def execAllReduce (core : Fin 64) (s : State) : Next := .next (s.collGo core 1)

/-- 16 R538: REDUCE_SCATTER. -/
def execReduceScatter (core : Fin 64) (s : State) : Next := .next (s.collGo core 2)

/-- 16 R538: ALL_GATHER. -/
def execAllGather (core : Fin 64) (s : State) : Next := .next (s.collGo core 3)

/-- 16 R538: BROADCAST. -/
def execBroadcast (core : Fin 64) (s : State) : Next := .next (s.collGo core 4)

/-- A chunk of a started operation is reduced or placed, and forwarded (16 R537, R538). -/
def State.takeChunk (s : State) (o : CollOp) (c : Chunk) : State :=
  if o.seen.contains (c.up, c.origin, c.idx) ∨ o.status.isSome then s
  else if c.op ≠ o.op ∨ c.dtype ≠ o.dtype ∨ c.len ≠ o.len ∨ c.root ≠ o.root then
    s.failOps (fun x => x.group == o.group && x.seq == o.seq) .invalidDescriptor
  else
    let s := s.updOp o.group o.seq fun o =>
      { o with seen := o.seen ++ [(c.up, c.origin, c.idx)], processed := o.processed + 1 }
    if o.op ≤ 2 ∧ c.up then
      let s := s.touchOwn o c.idx
      let own := s.ownChunk o c.idx
      let (sat, data) := collSum o.dtype (own.data.length + 1) c.data own.data
      let s := s.addSat (collA 0x4C) 0 32 sat
      let p : Piece := ⟨data, own.bad.foldl setInsert c.bad⟩
      if o.rank + 1 = o.n then (s.placeChunk o 0 c.idx p).sendChunk o false 0 c.idx p
      else s.sendChunk o true 0 c.idx p
    else (s.placeChunk o c.origin c.idx ⟨c.data, c.bad⟩).sendChunk o c.up c.origin c.idx ⟨c.data, c.bad⟩

/-- 16 R536, R537: the oldest chunk that has arrived for a started operation. -/
def execCollChunkReceived (s : State) : Next :=
  let opOf := fun (e : Nat × KlBody) =>
    match e.2 with
    | .chunk c => (s.kl.ops.find? fun o => o.group == c.group && o.seq == c.seq).map fun o => (o, c)
    | _ => none
  match s.kl.inbox.find? fun e => (opOf e).isSome with
  | none => .next s
  | some e =>
    match opOf e with
    | none => .next s
    | some (o, c) => .next ((s.withKl fun k => { k with inbox := k.inbox.erase e }).takeChunk o c)

/-- 16 R539: a chunk lost to a link failure is sent again from its sender's copy. -/
def execCollRetransmit (group : Fin 32) (up : Bool) (origin idx : Nat) (s : State) : Next :=
  match s.kl.ops.find? fun o => o.group == group.val &&
      o.copies.any fun c => c.up == up && c.origin == origin && c.idx == idx with
  | none => .next s
  | some o =>
    match o.copies.find? fun c => c.up == up && c.origin == origin && c.idx == idx with
    | none => .next s
    | some c =>
      let s := (s.addSat (collA 0x48) 0 32 1).updOp o.group o.seq fun o => { o with retrans := o.retrans + 1 }
      .next (s.klSend (s.rankPkg o.group (if up then o.rank + 1 else o.rank - 1)) (.chunk c))

/-- The operation has every chunk. -/
def CollOp.complete (o : CollOp) : Bool := decide (o.wanted ≤ o.written.length) && decide (o.chunks ≤ o.next)

/-- Bytes of the instruction at which tidy core `t` of a gang's member stands. -/
def State.memberLen (s : State) (u i t : Nat) : Nat :=
  match s.memberCore u i with
  | some c => s.tcLen c t
  | none => match s.memberImage u i with
    | some (_, m) =>
      if ((cellAt m.scratch (t * 65536 + (m.core.tidy t).pc.toNat)).getD 0).toNat % 4 = 3 then 4 else 2
    | none => 4

/-- The finished operation leaves the core's queue, and a launch that waits takes its place. -/
def leaveColl (pos : Nat) (len : Nat → Nat) (k : Core) : Core :=
  let k := { k with coll := k.coll.eraseIdx pos }
  let take := fun (k : Core) (t : Nat) =>
    match (k.tidy t).stall with
    | .coll a =>
      if k.coll.length < 4 then
        { k.updTidy t (fun x => { x with stall := .none, pc := x.pc + BitVec.ofNat 32 (len t) }.retire) with
          coll := k.coll ++ [⟨a, t, (k.tidy t).pc, k.nextOrder⟩] }
      else k
    | _ => k
  take (take k 0) 1

/-- Finish an operation (16 R540, R541): its result block, its signal, the counters, the events. -/
def State.collFinish (s : State) (o : CollOp) (st : Byte) : State :=
  let pos := (s.opsOf o.gang o.idx).findIdx fun x => x.group == o.group && x.seq == o.seq
  let s := s.withKl fun k => { k with ops := k.ops.filter fun x => !(x.group == o.group && x.seq == o.seq) }
  let s := s.bayWriteMember o.gang o.idx o.resAddr
    (leBytes 4 st.toNat ++ leBytes 4 o.processed ++ leBytes 4 o.retrans ++ leBytes 4 0)
  let s := match o.sig with
    | some sem => s.signalMember o.gang o.idx sem
    | none => s
  let s := s.updMember o.gang o.idx (leaveColl pos (s.memberLen o.gang o.idx))
  let s := (s.setFld (collA 0x40) 0 6 (s.fld (collA 0x40) 0 6 - 1)).addSat (collA 0x44) 0 32 1
  let s := if 0 < o.retrans then s.raise 0x8020 0x1820 [.w o.group, .w o.seq.toNat, .w o.retrans] else s
  if st = 0 then s
  else
    let s := s.undefineAt o.dst (if o.op = 2 then o.share else o.len)
    (s.addSat (collA 0x50) 0 32 1).raise 0x8020 0x3821 [.w o.group, .w o.seq.toNat, .w st.toNat]

/-- 16 R540: the oldest operation of the group that has finished or failed. -/
def execCollDone (group : Fin 32) (s : State) : Next :=
  match s.kl.ops.find? fun o => o.group == group.val && (o.status.isSome || o.complete) with
  | none => .next s
  | some o => .next (s.collFinish o (o.status.getD 0))

/-- 16 R540: TIMEOUT_US passes without completion. -/
def execCollTimeout (group : Fin 32) (s : State) : Next :=
  match s.kl.ops.find? fun o => o.group == group.val && o.timeoutUs != 0 && o.status.isNone && !o.complete &&
      decide (o.startedAt + o.timeoutUs * 1000 ≤ s.now) with
  | none => .next s
  | some o => .next (s.collFinish o (BitVec.ofNat 8 Status.timeout.code))

end Sys2Proof.Machine
end

