-- ==== Sys2Proof/Machine/Isp.lean ====
section
/-! DEFINITION. The ISP pipeline's arithmetic (13 R459 to R462) and its table (13 R464, R465). The table is
read where it lies; `k` is the key of the region buffer in use. -/

namespace Sys2Proof.Machine

def tab16 (s : State) (k o : Nat) : Nat := s.loadNat (k + o) 2
def tab32 (s : State) (k o : Nat) : Nat := s.loadNat (k + o) 4

/-- All bytes of `[lo, hi)` in the table are zero. -/
def tabZero (s : State) (k lo hi : Nat) : Bool := (upFrom lo (hi - lo)).all fun i => memGet s.mem (k + i) == 0

/-- The check of 13 R465 for a frame of `w` × `h`. -/
def ispTableOk (s : State) (k w h : Nat) : Bool :=
  let ndef := tab16 s k 52
  tab32 s k 0 == 0x4E4C4950 && tab16 s k 4 == 1 && decide (s.loadNat (k + 6) 1 ≤ 8) &&
  (upFrom 1 2).all (fun e => decide (256 ≤ tab16 s k (32 + 2 * e))) &&
  decide (tab32 s k 40 < tab32 s k 44) && decide (tab32 s k 44 ≤ 0x100000) && decide (ndef ≤ 4096) &&
  (List.range 3072).all (fun i => decide (tab32 s k (0x1000 + 4 * i) < 0x100000)) &&
  (List.range 1024).all (fun i => decide (tab16 s k (0x4000 + 2 * i) < 65280)) &&
  (List.range ndef).all (fun i =>
    decide (tab16 s k (0x5800 + 4 * i) < w) && decide (tab16 s k (0x5802 + 4 * i) < h)) &&
  tabZero s k 7 8 && tabZero s k 38 40 && tabZero s k 54 56 && tabZero s k 62 64 && tabZero s k 82 84 &&
  tabZero s k 96 0x1000 && tabZero s k (0x4800 + 4 * 289 * 2) 0x5800 && tabZero s k (0x5800 + 4 * ndef) 0x9800

/-- A region is an ISP table large enough (13 R453, R464). -/
def State.ispRegionOk (s : State) (r w h : Nat) : Bool :=
  match s.region r with
  | some e => e.kind == 3 && decide (40960 ≤ e.len) &&
      (match addrKey (e.buffer e.gen) with
       | some k => ispTableOk s k w h
       | none => false)
  | none => false

/-- Bits per sample of a data type (13 R449). -/
def rawBits : Nat → Option Nat
  | 0x2A => some 8 | 0x2B => some 10 | 0x2C => some 12 | 0x2D => some 14 | 0x2E => some 16 | 0x2F => some 20
  | _ => none

/-- Samples of a line: pixels for RAW types, two per pixel for YUV422. -/
def lineSamples (dt width : Nat) : Nat := if dt = 0x1E then 2 * width else width

/-- pwl of 13 R460 over a table given by `t`. -/
def pwl (t : Nat → Int) (x : Nat) : Int :=
  let i := x / 1024
  if 1023 ≤ i then t 1023
  else t i + ((t (i + 1) - t i) * ((x % 1024 : Nat) : Int) + 512) / 1024

def sat28 (v : Int) : Int := clampInt 0 (2 ^ 28 - 1) v

/-- CFA colour of a position: 0 R, 1 G on a red row, 2 G on a blue row, 3 B; 0 for monochrome (13 R452). -/
def cfaColour (cfa y x : Nat) : Nat :=
  let pos := y % 2 * 2 + x % 2
  match cfa with
  | 0 => pos
  | 1 => [1, 0, 3, 2].getD pos 0
  | 2 => [2, 3, 0, 1].getD pos 0
  | 3 => 3 - pos
  | _ => 0

/-- Coordinate mirrored at the frame's edges (13 R460). -/
def mirror (n : Nat) (i : Int) : Nat :=
  if i < 0 then (-i).toNat else if (n : Int) ≤ i then (2 * ((n : Int) - 1) - i).toNat else i.toNat

/-- A raw sample of exposure `e`. -/
def CamFrame.raw (f : CamFrame) (e y x : Nat) : Nat := (f.lines.look [] (e * 65536 + y)).getD x 0

/-- Stages 1 to 3 (13 R459). -/
def ispLinear (s : State) (k : Nat) (p : CamParam) (f : CamFrame) (e y x : Nat) : Int :=
  let bits := (rawBits (p.dts.getD e 0)).getD 20
  let v := f.raw e y x * 2 ^ (20 - bits)
  let c := cfaColour p.cfa y x
  let b := v - tab16 s k (8 + 8 * e + 2 * c)
  pwl (fun i => ((tab32 s k (0x1000 + 0x1000 * e + 4 * i) : Nat) : Int)) b

/-- Stage 4: merge of 13 R460. -/
def ispMerge (s : State) (k : Nat) (p : CamParam) (f : CamFrame) (y x : Nat) : Int :=
  let v := fun e => ispLinear s k p f e y x
  let lo : Int := tab32 s k 40
  let hi : Int := tab32 s k 44
  (upFrom 1 (p.exposures - 1)).foldl (fun m e =>
    let t := sat28 ((v e * tab16 s k (32 + 2 * e) + 128) / 256)
    let num := (v (e - 1) - lo) * 256
    let w := min 256 (max 0 (num / (hi - lo)))
    (m * (256 - w) + t * w + 128) / 256) (v 0)

/-- Stage 5: static and dynamic defects. -/
def ispDefect (s : State) (k : Nat) (p : CamParam) (f : CamFrame) (y x : Nat) : Int :=
  let at_ := fun (dy dx : Int) => ispMerge s k p f (mirror p.height (y + dy)) (mirror p.width (x + dx))
  let m := at_ 0 0
  let isStatic := (List.range (tab16 s k 52)).any fun i =>
    tab16 s k (0x5800 + 4 * i) == x && tab16 s k (0x5802 + 4 * i) == y
  if isStatic then (at_ 0 (-2) + at_ 0 2 + 1) / 2
  else
    let thr := tab32 s k 48
    if thr = 0xFFFFFFFF then m
    else
      let ns := [at_ (-2) (-2), at_ (-2) 0, at_ (-2) 2, at_ 0 (-2), at_ 0 2, at_ 2 (-2), at_ 2 0, at_ 2 2]
      let hi := ns.foldl max 0
      let lo := ns.foldl min hi
      if hi + thr < m then hi else if m < lo - thr then lo else m

/-- Stage 6: lens shading. -/
def ispShade (s : State) (k : Nat) (p : CamParam) (f : CamFrame) (y x : Nat) : Int :=
  let cw := (p.width + 15) / 16
  let chh := (p.height + 15) / 16
  let c := cfaColour p.cfa y x
  let g := fun yy xx => tab16 s k (0x4800 + ((c * 17 + yy) * 17 + xx) * 2)
  let gy := y / chh
  let gx := x / cw
  let fx := x % cw
  let fy := y % chh
  let gain := ((g gy gx * (cw - fx) + g gy (gx + 1) * fx) * (chh - fy) +
    (g (gy + 1) gx * (cw - fx) + g (gy + 1) (gx + 1) * fx) * fy + cw * chh / 2) / (cw * chh)
  sat28 ((ispDefect s k p f y x * gain + 2048) / 4096)

/-- Colour of a CFA colour: 0 R, 1 G, 2 B. -/
def rgbOfCfa (c : Nat) : Nat := if c = 0 then 0 else if c = 3 then 2 else 1

/-- Stage 7: channel `ch` of a pixel after the demosaic. -/
def ispDemosaic (s : State) (k : Nat) (p : CamParam) (f : CamFrame) (y x ch : Nat) : Int :=
  if p.cfa = 4 then ispShade s k p f y x
  else if rgbOfCfa (cfaColour p.cfa y x) = ch then ispShade s k p f y x
  else
    let offs : List (Int × Int) :=
      [(-1, -1), (-1, 0), (-1, 1), (0, -1), (0, 1), (1, -1), (1, 0), (1, 1)]
    let pts := (offs.map fun o => (mirror p.height (y + o.1), mirror p.width (x + o.2))).filter
      fun q => rgbOfCfa (cfaColour p.cfa q.1 q.2) == ch
    let n : Int := pts.length
    ((pts.map fun q => ispShade s k p f q.1 q.2).sum + n / 2) / n

/-- Stages 8 to 10: tone-mapped R′, G′, B′ of a pixel, 8 bits each. -/
def ispTone (s : State) (k : Nat) (p : CamParam) (f : CamFrame) (y x : Nat) : Int × Int × Int :=
  let wb := fun ch => sat28 ((ispDemosaic s k p f y x ch * tab16 s k (56 + 2 * ch) + 2048) / 4096)
  let inp := [wb 0, wb 1, wb 2]
  let ccm := fun i j => sInt 16 (tab16 s k (64 + 6 * i + 2 * j))
  let outc := fun i =>
    let a := ((List.range 3).map fun j => ccm i j * inp.getD j 0).sum
    sat28 ((a + 2048) / 4096 + sInt 32 (tab32 s k (84 + 4 * i)))
  let tm := fun i =>
    let v := min (outc i / 2 ^ s.loadNat (k + 6) 1) (2 ^ 20 - 1)
    min 255 ((pwl (fun j => ((tab16 s k (0x4000 + 2 * j) : Nat) : Int)) v.toNat + 128) / 256)
  (tm 0, tm 1, tm 2)

/-- Y, Cb and Cr of a YUV422 pixel: samples U, Y, V, Y of each pixel pair. -/
def yuvPixel (f : CamFrame) (y x : Nat) : Int × Int × Int :=
  ((f.raw 0 y (2 * x + 1) : Nat), (f.raw 0 y (4 * (x / 2)) : Nat), (f.raw 0 y (4 * (x / 2) + 2) : Nat))

def CamParam.isYuv (p : CamParam) : Bool := p.dts.getD 0 0 == 0x1E

/-- R, G and B of a pixel for the tensor branch (13 R461). -/
def camRgb (s : State) (k : Nat) (p : CamParam) (f : CamFrame) (y x : Nat) : Int × Int × Int :=
  if p.isYuv then let v := yuvPixel f y x; toRgb 1 8 v.1 v.2.1 v.2.2 else ispTone s k p f y x

/-- src of the tensor branch for channel `c` (13 R461). -/
def camSrc (s : State) (k : Nat) (p : CamParam) (f : CamFrame) (c y x : Nat) : Int :=
  let v := camRgb s k p f y x
  if p.tap.colour = 2 then (13933 * v.1 + 46871 * v.2.1 + 4732 * v.2.2 + 32768) / 65536
  else pickChannel p.tap.colour c v 0

/-- Y, Cb and Cr of a pixel for the YUV branch (13 R462). -/
def camYuv (s : State) (k : Nat) (p : CamParam) (f : CamFrame) (y x : Nat) : Int × Int × Int :=
  if p.isYuv then yuvPixel f y x
  else
    let v := ispTone s k p f y x
    (16 + (11966 * v.1 + 40254 * v.2.1 + 4064 * v.2.2 + 32768) / 65536,
     128 + (-6597 * v.1 - 22188 * v.2.1 + 28785 * v.2.2 + 32768) / 65536,
     128 + (28785 * v.1 - 26148 * v.2.1 - 2637 * v.2.2 + 32768) / 65536)

/-- Last source line that output row `i` of the tensor branch needs. -/
def tensorLine (t : TapCfg) (i : Nat) : Nat :=
  let dy := decFactor t.ch t.outH
  min (t.y0 + t.ch) (t.y0 + (((i + 1) * (t.ch / dy) + t.outH - 1) / t.outH + 1) * dy)

/-- Output row `i` of a tensor. -/
def State.camRow (s : State) (k : Nat) (c : CamStream) (f : CamFrame) (i : Nat) : State :=
  let t := c.p.tap
  let s1 := s.writeRow t (t.slot c.written) i fun ch j =>
    tapByte (scaleValue t (camSrc s k c.p f ch) i j) (t.mul.getD ch 0) (t.add.getD ch 0)
  s1.progressDone t (i + 1)

/-- Row pair `i` of the YUV picture: luma rows 2i and 2i + 1, and chroma row i (13 R462, 12 R427). -/
def State.yuvRow (s : State) (k : Nat) (c : CamStream) (f : CamFrame) (i : Nat) : State :=
  let p := c.p
  let hdr := if 1 < p.exposures then 1 else 0
  match c.bufs[hdr + f.number % max 1 p.nbuf]? with
  | none => s
  | some b =>
    let pitch := bufPitch p.width 8
    let luma := fun y => (List.range p.width).map fun x => BitVec.ofInt 8 (camYuv s k p f y x).1
    let avg := fun (g : Int × Int × Int → Int) x =>
      (g (camYuv s k p f (2 * i) (2 * x)) + g (camYuv s k p f (2 * i) (2 * x + 1)) +
       g (camYuv s k p f (2 * i + 1) (2 * x)) + g (camYuv s k p f (2 * i + 1) (2 * x + 1)) + 2) / 4
    let chroma := (List.range (p.width / 2)).flatMap fun x =>
      [BitVec.ofInt 8 (avg (fun v => v.2.1) x), BitVec.ofInt 8 (avg (fun v => v.2.2) x)]
    let s := s.poolStore c.pool (b.off + 2 * i * pitch) (luma (2 * i))
    let s := s.poolStore c.pool (b.off + (2 * i + 1) * pitch) (luma (2 * i + 1))
    s.poolStore c.pool (b.off + bufRows p.height * pitch + i * pitch) chroma

/-- Row pair `i` of the YUV picture becomes undefined. -/
def State.spoilYuv (s : State) (c : CamStream) (f : CamFrame) (i : Nat) : State :=
  let p := c.p
  let hdr := if 1 < p.exposures then 1 else 0
  match c.bufs[hdr + f.number % max 1 p.nbuf]? with
  | none => s
  | some b =>
    let pitch := bufPitch p.width 8
    let one := fun (s : State) (row : Nat) => s.undefinePool c.pool (b.off + row * pitch) p.width
    one (one (one s (2 * i)) (2 * i + 1)) (bufRows p.height + i)

end Sys2Proof.Machine
end

