-- ==== Sys2Proof/Machine/Camera.lean ====
section
/-! DEFINITION. Camera ports and ISP pipelines (chapter 13): receiver, frames, pipeline, loss and return, and
the CCI master. -/

namespace Sys2Proof.Machine

def pIdle : Nat := 0
def pArmed : Nat := 1
def pStreaming : Nat := 2
def pLost : Nat := 3

def State.portReg (p o : Nat) : Nat := ro .csi p o
def State.portState (s : State) (p : Nat) : Nat := s.fld (ro .csi p 0x44) 0 2
def State.setPortState (s : State) (p st : Nat) : State := s.setFld (ro .csi p 0x44) 0 2 st
def State.port (s : State) (p : Nat) : Port := s.media.ports.look ⟨none, 0, []⟩ p
def State.setPort (s : State) (p : Nat) (q : Port) : State :=
  { s with media := { s.media with ports := s.media.ports.put p q } }

/-- The camera stream of a port. -/
def State.camOf (s : State) (p : Nat) : Option (Nat × CamStream) :=
  s.media.cams.find? fun e => e.2.p.port == p

/-- A camera event carries the port and the stream handle (13 R471). -/
def State.camEvent (s : State) (src code p : Nat) (extra : List EvVal) : State :=
  match s.camOf p with
  | some (i, c) => s.raise src code (.w p :: .w (s.mkHandle c.ctx i) :: extra) c.ctx
  | none => s.raise src code (.w p :: .w 0xFFFFFFFF :: extra)

/-- The frame notice of 13 R458. -/
def State.camNotice (s : State) (c : CamStream) (f : CamFrame) (st : Byte) (emb : Bool) : State :=
  if c.p.quiet ∧ st = 0 then s
  else
    let b := fun (x : Bool) (n : Nat) => if x then 2 ^ n else 0
    let done := f.dispatched && f.discard.isNone
    let r := b (done && c.p.tensor && f.writes && decide (f.rows = c.p.tap.outH)) 0 +
      b (done && c.p.yuv && decide (f.yuvRows = c.p.height / 2)) 1 + b f.isDamaged 2 + b f.overrun 3 +
      b f.overflow 4 + b emb 5 + (if c.p.nbuf = 0 then 0 else f.number % c.p.nbuf) * 256 +
      min 65535 (f.seen.look 0 0) * 65536
    let e : Rec :=
      { tag := BitVec.ofNat 64 f.gts, gts := s.gts, result := BitVec.ofNat 32 r,
        result2 := BitVec.ofNat 32 f.number, sqPos := BitVec.ofNat 16 f.number, status := st, cls := 0x0A,
        sq := c.sq, epoch := s.ctxEpoch c.ctx, notice := true, more := false, irq := false, ends := none }
    { s with notices := s.notices ++ [⟨c.ctx, s.ctxEpoch c.ctx, e, false, none, false⟩] }

/-- A frame ends with a status: its notice, the counters of its pipeline, its region hold, and the encoders
linked to it (13 R457, R458, 12 R438). -/
def State.endFrame (s : State) (i : Nat) (f : CamFrame) (st : Byte) : State :=
  match s.cam i with
  | none => s
  | some c =>
    let n := c.p.port
    let s := s.camNotice c f st (decide (0 < f.emb))
    let s := s.releaseHolds f.serial
    let s := if st = 0 then s.addSat (ro .isp n 0x44) 0 32 1 else s.addSat (ro .isp n 0x48) 0 32 1
    let s := if f.isDamaged then s.addSat (ro .isp n 0x4C) 0 32 1 else s
    let s := ((s.linkedTo i f.gts).filter fun e => !f.linked.contains e).foldl (fun s e => s.encSkip e false) s
    let s := (s.setFld (ro .isp n 0x40) 0 1 0).setFld (ro .isp n 0x40) 16 16 0
    s.setCam i { c with
      frames := c.frames.filter fun g => g.number != f.number,
      okCount := if st = 0 then c.okCount + 1 else c.okCount,
      others := if st = 0 then c.others else c.others + 1,
      written := if st = 0 ∧ f.writes then c.written + 1 else c.written }

/-- Replace the frame with the same number. -/
def State.setFrame (s : State) (i : Nat) (f : CamFrame) : State :=
  match s.cam i with
  | none => s
  | some c => s.setCam i { c with frames := c.frames.map fun g => if g.number = f.number then f else g }

/-- The frame that the receiver fills. -/
def CamStream.open? (c : CamStream) : Option CamFrame := c.frames.find? fun f => !f.ended

/-- The last good line of exposure `e`, or zeros. -/
def CamFrame.lastGood (f : CamFrame) (p : CamParam) (e : Nat) : List Nat :=
  match f.seen.look 0 e with
  | 0 => List.replicate (lineSamples (p.dts.getD e 0) p.width) 0
  | n + 1 => f.lines.look (List.replicate (lineSamples (p.dts.getD e 0) p.width) 0) (e * 65536 + n)

/-- Fill the lines that are missing when exposure `e` ends (13 R456). -/
def CamFrame.fillMissing (f : CamFrame) (p : CamParam) (e : Nat) : CamFrame :=
  let n := f.seen.look 0 e
  if p.height ≤ n then f
  else
    let good := f.lastGood p e
    (upFrom n (p.height - n)).foldl (fun g y =>
      { g with lines := g.lines.put (e * 65536 + y) good, damaged := g.damaged ++ [e * 65536 + y],
               isDamaged := true }) f

/-- A frame end lets an AT_FE sequence start that was written before it (13 R467). -/
def State.noteFrameEnd (s : State) (p : Nat) : State :=
  let q := s.port p
  s.setPort p { q with cci := q.cci.map fun j => { j with feSeen := j.feSeen || j.waitFe } }

/-- The frame has ended: missing lines are replaced, and damage is logged (13 R455, R456). -/
def State.closeFrame (s : State) (i : Nat) (f : CamFrame) (early : Bool) : State :=
  match s.cam i with
  | none => s
  | some c =>
    let f := (List.range c.p.exposures).foldl (fun f e => f.fillMissing c.p e) f
    let f := { f with ended := true, isDamaged := f.isDamaged || early }
    let s := (s.setFrame i f).noteFrameEnd c.p.port
    if f.isDamaged then s.camEvent (0x5010 + c.p.port) 0x1512 c.p.port [.w f.damaged.length] else s

/-- A loss of the camera (13 R468): 0 DET, 1 SILENCE, 2 FIRST_MS. -/
def State.camLoss (s : State) (p cause : Nat) : State :=
  match s.camOf p with
  | none => s
  | some (i, c) =>
    let s := c.frames.foldl (fun s f =>
      match s.cam i with
      | some c1 => (s.setCam i { c1 with p := { c1.p with quiet := false } }).endFrame i f 0x12
      | none => s) s
    let s := match s.cam i with
      | some c1 => s.setCam i { c1 with p := { c1.p with quiet := c.p.quiet }, presentLogged := false }
      | none => s
    let s := ((s.setPortState p pLost).setFld (ro .csi p 0x44) 2 1 0).setFld (ro .csi p 0x44) 3 1 0
    s.camEvent (0x5000 + p) 0x2501 p [.w cause]

/-- A returned camera is marked PRESENT, and CAM_PRESENT is logged once (13 R468). -/
def State.camReturn (s : State) (p : Nat) : State :=
  let s := s.setFld (ro .csi p 0x44) 2 1 1
  match s.camOf p with
  | some (i, c) =>
    if c.presentLogged then s
    else (s.setCam i { c with presentLogged := true }).camEvent (0x5000 + p) 0x0502 p []
  | none => s

/-- A start of transmission on a data lane: the silence timer restarts; in LOST with DET_EN = 0 it marks the
camera present. -/
def State.sot (s : State) (p : Nat) : State :=
  let s := s.setPort p { s.port p with lastSot := s.now }
  if s.portState p = pLost ∧ ¬ s.bit (ro .csi p 0x48) 0 then s.camReturn p else s

/-- The D-PHY port above 1,500 Mb/s, which needs a deskew sequence (13 R447). -/
def State.needsDeskew (s : State) (p : Nat) : Bool :=
  s.fld (ro .csi p 0x40) 0 1 == 0 && decide (1500 < s.fld (ro .csi p 0x40) 19 13)

def State.deskewed (s : State) (p : Nat) : Bool := s.bit (ro .csi p 0x44) 3

/-- A packet before the receiver's calibration is counted, and logged once for each stream (13 R447). -/
def State.countNoDeskew (s : State) (p : Nat) : State :=
  let s := s.addSat (ro .csi p 0x58) 16 16 1
  match s.camOf p with
  | some (i, c) =>
    if c.deskewLogged then s
    else (s.setCam i { c with deskewLogged := true }).camEvent (0x5000 + p) 0x1500 p []
  | none => s

/-- A packet header that passes ECC reaches the receiver: whether the packet is used (13 R447, R468, R469). -/
def State.rxUse (s : State) (p : Nat) : Bool × State :=
  if ¬ s.blockGoes .csi p then (false, s)
  else
    let s := s.sot p
    if s.needsDeskew p ∧ ¬ s.deskewed p then
      (false, if s.portState p = pArmed ∨ s.portState p = pStreaming then s.countNoDeskew p else s)
    else
      let s := s.setFld (ro .csi p 0x44) 3 1 1
      (decide (s.portState p = pArmed ∨ s.portState p = pStreaming), s)

/-! ### The rows -/

/-- 13 R447: the first initial deskew sequence calibrates the receiver. -/
def execCsiDeskewSequence (port : Fin 8) (lanes : Word) (s : State) : Next :=
  if ¬ s.blockGoes .csi port then .next s
  else
    let s := s.sot port
    if s.needsDeskew port ∧ ¬ s.deskewed port then
      .next ((s.wr (ro .csi port 0x54) lanes).setFld (ro .csi port 0x44) 3 1 1)
    else .next s

/-- The exposure that a packet's virtual channel and data type name. -/
def CamParam.exposureOf (p : CamParam) (vc dt : Nat) : Option Nat :=
  (List.range p.exposures).find? fun e => p.vcs.getD e 16 == vc && p.dts.getD e 0 == dt

/-- A packet of frame `f` finds the input FIFO full: the rest of the frame is discarded (13 R450, 01 R37). -/
def State.fifoFull (s : State) (i : Nat) (c : CamStream) (f : CamFrame) : State :=
  if f.overflow then s
  else (s.setFrame i { f with overflow := true }).camEvent (0x5010 + c.p.port) 0x1511 c.p.port []

/-- A line of exposure `e` reaches the pipeline's FIFO (13 R448, R450, R456). -/
def State.takeLine (s : State) (i : Nat) (c : CamStream) (f : CamFrame) (e : Nat) (crcOk : Bool)
    (payload : List Nat) (full : Bool) : State :=
  if f.overflow ∨ f.ends.contains e then s
  else if full then s.fifoFull i c f
  else
    let y := f.seen.look 0 e
    let dt := c.p.dts.getD e 0
    if c.p.height ≤ y then s.setFrame i { f with isDamaged := true, seen := f.seen.put e (y + 1) }
    else
      let late := decide (0 < e) && decide (y + c.p.hdrLag + 1 < f.seen.look 0 0)
      let bad := !crcOk || payload.length != lineSamples dt c.p.width || late
      let bits := (rawBits dt).getD 8
      let line := if bad then f.lastGood c.p e else payload.map fun v => v % 2 ^ bits
      s.setFrame i { f with
        lines := f.lines.put (e * 65536 + y) line, seen := f.seen.put e (y + 1),
        damaged := if bad then f.damaged ++ [e * 65536 + y] else f.damaged,
        isDamaged := f.isDamaged || bad }

/-- 13 R448 to R450, R456: a long packet; `hdr` is 0 for a good header, 1 for a corrected and 2 for an
uncorrectable one, `full` says that the input FIFO is full. -/
def execCsiPacket (port : Fin 8) (vc dt : Nat) (hdr : Fin 3) (crcOk : Bool) (payload : List Nat) (full : Bool)
    (s : State) : Next :=
  let used := s.portState port = pArmed ∨ s.portState port = pStreaming
  if ¬ s.blockGoes .csi port then .next s
  else if ¬ used then .next (if hdr = 2 then s.sot port else (s.rxUse port).2)
  else if hdr = 2 then
    let s := (s.sot port).addSat (ro .csi port 0x4C) 16 16 1
    .next (if s.needsDeskew port ∧ ¬ s.deskewed port then s.countNoDeskew port else s)
  else
    let s := if hdr = 1 then s.addSat (ro .csi port 0x4C) 0 16 1 else s
    let (use, s) := s.rxUse port
    if ¬ use then .next s
    else if dt < 0x10 then .next s
    else
      match s.camOf port with
      | none => .next s
      | some (i, c) =>
        let emb := dt = 0x12 ∧ c.p.embVc ≠ 0xFF ∧ c.p.embVc = vc
        match c.p.exposureOf vc dt with
        | none =>
          if 15 < vc ∨ ¬ emb then .next (s.addSat (ro .csi port 0x58) 0 16 1)
          else
            let s := if crcOk then s else s.addSat (ro .csi port 0x50) 0 32 1
            match c.open? with
            | some f =>
              if full then .next (s.fifoFull i c f)
              else if f.emb < c.p.embLines ∧ ¬ f.overflow then
                let a := c.p.embBuf + BitVec.ofNat 64 (f.emb * c.p.width)
                .next ((s.storeAt a ((payload.take c.p.width).map (BitVec.ofNat 8))).setFrame i
                  { f with emb := f.emb + 1 })
              else .next s
            | none => .next s
        | some e =>
          let s := if crcOk then s else s.addSat (ro .csi port 0x50) 0 32 1
          match c.open? with
          | some f => .next (s.takeLine i c f e crcOk payload full)
          | none => .next s

/-- A new frame at the tail of the receiver (13 R455). -/
def State.newFrame (s : State) (i : Nat) (c : CamStream) : State :=
  let (u, s) := s.newUid
  let f : CamFrame :=
    { number := c.begun, gts := s.gts, lines := [], seen := [], ends := [], damaged := [], isDamaged := false,
      overflow := false, ended := false, dispatched := false, discard := none, writes := false,
      overrun := false, rows := 0, yuvRows := 0, lineNo := 0, serial := u, emb := 0, linked := [] }
  s.setCam i { c with frames := c.frames ++ [f], begun := c.begun + 1 }

/-- A frame start or frame end on a virtual channel that the stream has not named is discarded and counted
(13 R448). -/
def State.unnamedVc (s : State) (port : Nat) (p : CamParam) (vc : Nat) : State :=
  if (p.vcs.take p.exposures).contains vc || (p.embVc == vc && vc != 0xFF) then s
  else s.addSat (ro .csi port 0x58) 0 16 1

/-- 13 R455: a frame start packet. On VC[0] it stamps a new frame and ends an unfinished one as damaged. -/
def execFrameStart (port : Fin 8) (vc : Nat) (s : State) : Next :=
  let (use, s) := s.rxUse port
  if ¬ use then .next s
  else
    match s.camOf port with
    | none => .next s
    | some (i, c) =>
      if c.p.vcs.getD 0 16 ≠ vc ∨ c.closing.isSome ∨ !s.blockOn .csi port then .next (s.unnamedVc port c.p vc)
      else
        let s := match c.open? with
          | some f => s.closeFrame i f true
          | none => s
        let s := if s.portState port = pArmed then s.setPortState port pStreaming else s
        match s.cam i with
        | some c1 => .next (s.newFrame i c1)
        | none => .next s

/-- 13 R455: a frame end packet ends the exposures on its channel; with the last one the frame ends, and a
waiting AT_FE sequence may start (13 R467). -/
def execFrameEnd (port : Fin 8) (vc : Nat) (s : State) : Next :=
  let (use, s) := s.rxUse port
  if ¬ use then .next s
  else
    match s.camOf port with
    | none => .next s
    | some (i, c) =>
      let s := s.unnamedVc port c.p vc
      match c.open? with
      | none => .next s
      | some f =>
        let es := (List.range c.p.exposures).filter fun e => c.p.vcs.getD e 16 == vc
        let f1 := es.foldl (fun f e => { f.fillMissing c.p e with
          ends := if f.ends.contains e then f.ends else f.ends ++ [e] }) f
        if (List.range c.p.exposures).all fun e => f1.ends.contains e then .next (s.closeFrame i f1 false)
        else .next (s.setFrame i f1)

/-- Key of the buffer of region `r` that holder `h` took. -/
def State.heldBuf (s : State) (r h : Nat) : Option Nat :=
  match s.regionHolds.find? fun x => x.region == r && x.holder == h with
  | some x => (s.region r).bind fun e => addrKey (e.buffer x.gen)
  | none => none

/-- 13 R457, R465: the pipeline takes a frame's first line. -/
def execFrameDispatch (port : Fin 8) (s : State) : Next :=
  match s.camOf port with
  | none => .next s
  | some (i, c) =>
    match c.frames.head? with
    | none => .next s
    | some f =>
      if f.dispatched ∨ (f.lines.isEmpty ∧ ¬ f.ended) ∨ s.frozen .isp port then .next s
      else
        let s := (s.setFld (ro .isp port 0x40) 0 1 1).setFld (ro .isp port 0x40) 8 8 c.ctx
        let age : Int := (BitVec.ofNat 64 s.gts - BitVec.ofNat 64 f.gts).toInt
        let fail := fun (s : State) (st : Byte) => s.setFrame i { f with dispatched := true, discard := some st }
        if ¬ s.blockGoes .isp port then .next (fail s 0x01)
        else if c.p.stale ≠ 0 ∧ (c.p.stale : Int) < age then
          .next ((fail s 0x04).camEvent (0x5010 + port) 0x1510 port [.w (age.toNat / 1000)])
        else
          match s.region c.p.table with
          | none => .next (fail s 0x0F)
          | some e =>
            let s := s.touchAt (e.buffer e.gen) e.len
            if let some l := s.poisonAt (e.buffer e.gen) e.len then .next (fail (s.poisonEvent c.ctx l) 0x0C) else
            let good := c.checked.contains e.gen || s.ispRegionOk c.p.table c.p.width c.p.height
            if ¬ good then
              .next ((fail s 0x0F).camEvent (0x5010 + port) 0x3513 port [.w c.p.table, .w e.gen.toNat])
            else
              let s := s.holdRegion c.p.table f.serial
              let free := c.p.tensor && s.slotFree c.p.tap c.written
              let s := if free then s.progressStart c.p.tap c.written f.gts else s
              let f1 := { f with dispatched := true, writes := free, overrun := c.p.tensor && !free }
              let s := s.setFrame i f1
              match s.cam i with
              | some c1 => .next (s.setCam i { c1 with checked := e.gen :: c1.checked.filter (· != e.gen) })
              | none => .next s

/-- Emit the tensor rows whose source lines are complete. -/
def State.emitRows (s : State) (k i fuel : Nat) (c : CamStream) (f : CamFrame) : State × CamFrame :=
  match fuel with
  | 0 => (s, f)
  | fuel + 1 =>
    if f.writes ∧ f.rows < c.p.tap.outH ∧
        (f.lineNo = c.p.height ∨ tensorLine c.p.tap f.rows + 3 ≤ f.lineNo) then
      (s.camRow k c f f.rows).emitRows k i fuel c { f with rows := f.rows + 1 }
    else (s, f)

/-- Emit the YUV row pairs whose source lines are complete. -/
def State.emitYuv (s : State) (k i fuel : Nat) (c : CamStream) (f : CamFrame) : State × CamFrame :=
  match fuel with
  | 0 => (s, f)
  | fuel + 1 =>
    if c.p.yuv ∧ f.yuvRows < c.p.height / 2 ∧ (f.lineNo = c.p.height ∨ 2 * f.yuvRows + 5 ≤ f.lineNo) then
      (s.yuvRow k c f f.yuvRows).emitYuv k i fuel c { f with yuvRows := f.yuvRows + 1 }
    else (s, f)

/-- 13 R459 to R463: the pipeline processes one input line of every exposure. -/
def execIspLine (port : Fin 8) (s : State) : Next :=
  match s.camOf port with
  | none => .next s
  | some (i, c) =>
    match c.frames.head? with
    | none => .next s
    | some f =>
      let here := (List.range c.p.exposures).all fun e => (f.lines.look? (e * 65536 + f.lineNo)).isSome
      if ¬ f.dispatched ∨ f.discard.isSome ∨ c.p.height ≤ f.lineNo ∨ ¬ here ∨ s.frozen .isp port then .next s
      else
        match s.heldBuf c.p.table f.serial with
        | none => .next s
        | some k =>
          let f := { f with lineNo := f.lineNo + 1 }
          let s := s.add64 (ro .isp port 0x50) (c.p.width * c.p.exposures)
          let (s, f) := s.emitRows k i c.p.tap.outH c f
          let (s, f) := s.emitYuv k i c.p.height c f
          .next ((s.setFrame i f).setFld (ro .isp port 0x40) 16 16 f.rows)

/-- 13 R458: the frame's outputs are written, or it is discarded, and its notice follows. -/
def execFrameComplete (port : Fin 8) (s : State) : Next :=
  match s.camOf port with
  | none => .next s
  | some (i, c) =>
    match c.frames.head? with
    | none => .next s
    | some f =>
      if ¬ f.dispatched ∨ ¬ f.ended then .next s
      else
        match f.discard with
        | some st => .next (s.endFrame i f st)
        | none =>
          if f.lineNo = c.p.height ∧ (s.linkedTo i f.gts).all (fun e => f.linked.contains e) then
            .next (s.endFrame i f 0)
          else .next s

/-- 13 R468: FIRST_MS passes in ARMED. -/
def execCamFirstMsExpiry (port : Fin 8) (s : State) : Next :=
  match s.camOf port with
  | some (_, c) =>
    if s.portState port = pArmed ∧ c.p.firstMs ≠ 0 ∧ c.openedAt + c.p.firstMs * 1000000 ≤ s.now then
      .next (s.camLoss port 2)
    else .next s
  | none => .next s

/-- 13 R468, R469: no SoT for 2 × FRAME_US; the timer stands while CSIn.PG_CTL.EN is 0. -/
def execCamSilenceExpiry (port : Fin 8) (s : State) : Next :=
  match s.camOf port with
  | some (_, c) =>
    if s.portState port = pStreaming ∧ s.blockGoes .csi port ∧
        (s.port port).lastSot + 2 * c.p.frameUs * 1000 ≤ s.now then .next (s.camLoss port 1)
    else .next s
  | none => .next s

/-- What the debounced level of CAMn_DET does (13 R468). -/
def State.camDet (s : State) (port : Nat) : State :=
  let present := s.bit (ro .csi port 0x44) 4 != s.bit (ro .csi port 0x48) 1
  if ¬ s.bit (ro .csi port 0x48) 0 then
    if s.portState port = pLost ∧ present then s.camReturn port else s
  else
    let s := s.setFld (ro .csi port 0x44) 2 1 (if present then 1 else 0)
    if ¬ present ∧ (s.portState port = pArmed ∨ s.portState port = pStreaming) then s.camLoss port 0
    else if present ∧ s.portState port = pLost then s.camReturn port
    else s

/-- 13 R468: the debounced level of CAMn_DET changes. -/
def execCamDetChange (port : Fin 8) (level : Bool) (s : State) : Next :=
  .next ((s.setFld (ro .csi port 0x44) 4 1 (if level then 1 else 0)).camDet port)

/-! ### The CCI master (13 R466, R467) -/

def cciStat (port : Nat) : Nat := ro .csi port 0x74

/-- CCI_ERROR: 0 for a command while BUSY, 1 for NACK, 2 for TIMEOUT. -/
def State.cciError (s : State) (port addr what : Nat) : State :=
  s.camEvent (0x5000 + port) 0x1503 port [.w addr, .w what]

/-- Start a transfer or sequence, unless one runs or waits. -/
def State.cciStart (s : State) (port : Nat) (j : CciJob) : State :=
  if s.bit (cciStat port) 0 then s.cciError port j.addr 0
  else
    let s := s.setPort port { s.port port with cci := some j }
    (s.wr (cciStat port) 0).setFld (cciStat port) 0 1 1 |>.setFld (cciStat port) 8 8 j.entry

/-- The single transfer that a CCI_CMD word describes. -/
def State.cciSingle (s : State) (port : Nat) (val : Word) (read : Bool) : CciJob :=
  { read := read, entry := 0, left := 0, seq := false, waitFe := false, feSeen := false, addr := bitsOf val 0 7,
    reg := s.fld (ro .csi port 0x68) 0 16, reg16 := bitsOf val 7 1 == 1, len := bitsOf val 8 2 + 1,
    data := s.rd (ro .csi port 0x6C) }

/-- The transfer of entry `e` of CCI_SEQ. -/
def State.cciEntry (s : State) (port e left : Nat) (waitFe : Bool) : CciJob :=
  let w := s.rd (ro .csi port (0x800 + 8 * e))
  { read := false, entry := e, left := left, seq := true, waitFe := waitFe, feSeen := false, addr := bitsOf w 0 7,
    reg := bitsOf w 16 16, reg16 := bitsOf w 8 1 == 1, len := bitsOf w 9 2 + 1,
    data := s.rd (ro .csi port (0x804 + 8 * e)) }

/-- 13 R467: a waiting AT_FE sequence starts at a frame end of the port's stream. -/
def execCciSeqAtFeStart (port : Fin 8) (s : State) : Next :=
  match (s.port port).cci with
  | some j =>
    if j.waitFe ∧ j.feSeen then
      .next (s.setPort port { s.port port with cci := some { j with waitFe := false } })
    else .next s
  | none => .next s

/-- The bytes of a write transfer after the target address (13 R466). -/
def CciJob.bytes (j : CciJob) : List Byte :=
  (if j.reg16 then [BitVec.ofNat 8 (j.reg / 256)] else []) ++ [BitVec.ofNat 8 j.reg] ++
  (if j.read then [] else leBytes j.len j.data.toNat)

/-- 13 R466, R467: a transfer ends with ACK, NACK or a timeout; `bytes` are those that a read returned. -/
def execCciTransferDone (port : Fin 8) (nack timeout : Bool) (bytes : Word) (s : State) : Next :=
  match (s.port port).cci with
  | none => .next s
  | some j =>
    if j.waitFe then .next s
    else
      let s := s.setPort port { s.port port with sent := j.bytes }
      let s := (s.setFld (cciStat port) 1 1 (if nack then 1 else 0)).setFld (cciStat port) 2 1
        (if timeout then 1 else 0)
      let stop := fun (s : State) =>
        (s.setPort port { s.port port with cci := none }).setFld (cciStat port) 0 1 0
      if nack ∨ timeout then .next ((stop s).cciError port j.addr (if timeout then 2 else 1))
      else if j.read then
        .next (stop (s.wr (ro .csi port 0x70) (BitVec.ofNat 32 (bytes.toNat % 2 ^ (8 * j.len)))))
      else if j.left = 0 then .next (stop s)
      else
        let e := (j.entry + 1) % 256
        let j1 := s.cciEntry port e (j.left - 1) false
        .next ((s.setPort port { s.port port with cci := some j1 }).setFld (cciStat port) 8 8 e)

end Sys2Proof.Machine
end

