-- ==== Sys2Proof/Machine/Transcend.lean ====
section
/-! DEFINITION. exp_rn, sin_rn and cos_rn of 09 R318: the FP32 value nearest to the exact function of an FP32
argument, from a fixed-point evaluation that is fine enough to round from. -/

namespace Sys2Proof.Machine

/-- ⌊π × 2^512⌋. -/
def piFix : Nat :=
  0x3243F6A8885A308D313198A2E03707344A4093822299F31D0082EFA98EC4E6C89452821E638D01377BE5466CF34E90C6CC0AC29B7C97C50DD3F84D5B5B5470917

/-- ⌊ln 2 × 2^320⌋. -/
def ln2Fix : Nat :=
  0xB17217F7D1CF79ABC9E3B39803F2F6AF40F343267298B62D8A0D175B8BAAFA2BE7B876206DEBAC98

/-- Sum of a series whose term k + 1 is term k times `x` over 2^320, divided by `den k`. -/
def seriesFix (x : Int) (den : Nat → Nat) (fuel k : Nat) (term acc : Int) : Int :=
  match fuel with
  | 0 => acc
  | fuel + 1 =>
    let t := term * x / 2 ^ 320 / (den k : Int)
    seriesFix x den fuel (k + 1) t (acc + t)

/-- exp r × 2^320 for 0 ≤ r < 1 given as r × 2^320. -/
def expFix (r : Int) : Int := seriesFix r (fun k => k + 1) 90 0 (2 ^ 320) (2 ^ 320)

def expRn (x : F32) : F32 :=
  match f32 x with
  | .nan => f32Nan
  | .inf s => if s then f32Zero else 0x7F800000#32
  | .fin s m e =>
    if m = 0 then f32One
    else if 89 < ((m.log2 : Int) + e) ∨ 200 * 2 ^ (max (-e) 0).toNat < m * 2 ^ (max e 0).toNat then
      (if s then f32Zero else 0x7F800000#32)
    else
      let v : Int := if 0 ≤ e + 320 then (m * 2 ^ (e + 320).toNat : Nat) else (m / 2 ^ (-(e + 320)).toNat : Nat)
      let v := if s then -v else v
      let k := v / ln2Fix
      let r := v - k * ln2Fix
      BitVec.ofNat 32 (fmtF32.round .rne false (expFix r).toNat 1 (k - 320)).bits

/-- round_f32_rne(1 / (1 + e^−v)) for v given × 2^320 (08 R294). -/
def sigFix (v : Int) : F32 :=
  let k := (-v) / ln2Fix
  let n := (expFix (-v - k * ln2Fix)).toNat
  let p := 2 ^ (320 - k).toNat
  BitVec.ofNat 32 (fmtF32.round .rne false p (p + n) 0).bits

/-- An FP32 value reduced modulo 2π, × 2^320. -/
def reduceFix (m : Nat) (e : Int) : Int :=
  let v := if 0 ≤ e + 512 then m * 2 ^ (e + 512).toNat else m / 2 ^ (-(e + 512)).toNat
  ((v % (2 * piFix) / 2 ^ 192 : Nat) : Int)

/-- sin r × 2^320 and cos r × 2^320. -/
def sinFix (r : Int) : Int := seriesFix (-(r * r / 2 ^ 320)) (fun k => (2 * k + 2) * (2 * k + 3)) 90 0 r r
def cosFix (r : Int) : Int :=
  seriesFix (-(r * r / 2 ^ 320)) (fun k => (2 * k + 1) * (2 * k + 2)) 90 0 (2 ^ 320) (2 ^ 320)

def fixToF32 (v : Int) : F32 := BitVec.ofNat 32 (fmtF32.round .rne (decide (v < 0)) v.natAbs 1 (-320)).bits

/-- sin_rn; the sine of ±0 is ±0, and of an infinity the canonical NaN. -/
def sinRn (x : F32) : F32 :=
  match f32 x with
  | .fin s m e =>
    if m = 0 then x
    else
      let v := sinFix (reduceFix m e)
      fixToF32 (if s then -v else v)
  | _ => f32Nan

def cosRn (x : F32) : F32 :=
  match f32 x with
  | .fin _ m e => if m = 0 then f32One else fixToF32 (cosFix (reduceFix m e))
  | _ => f32Nan

end Sys2Proof.Machine
end

