-- ==== Sys2Proof/Machine/Samples.lean ====
section
/-! DEFINITION. The sample pipelines (chapter 15): the shuffle, augmentation, steps and slots, runs. -/

namespace Sys2Proof.Machine

/-! ### The shuffle and the random words (15 R507, R508) -/

def kShuf : Nat := 0x53464C45
def kAug : Nat := 0x4155474D

def xor64 (a b : Nat) : Nat := (BitVec.ofNat 64 a ^^^ BitVec.ofNat 64 b).toNat
def xor32 (a b : Nat) : Nat := (BitVec.ofNat 32 a ^^^ BitVec.ofNat 32 b).toNat

/-- Half the bits of the Feistel domain. -/
def shuffleBits (n fuel b : Nat) : Nat :=
  match fuel with
  | 0 => b
  | fuel + 1 => if 2 ^ (2 * b) < n then shuffleBits n fuel (b + 1) else b

def feistel (seed epoch b rnd fuel l r : Nat) : Nat :=
  match fuel with
  | 0 => l * 2 ^ b + r
  | fuel + 1 =>
    let f := cgen (xor64 seed kShuf) (epoch * 2 ^ 32 + rnd) r % 2 ^ b
    feistel seed epoch b (rnd + 1) fuel r (xor32 l f)

/-- Cycle-walking; the walk from a position below N returns below N within the domain's size. -/
def shuffleWalk (seed epoch n b fuel x : Nat) : Nat :=
  match fuel with
  | 0 => x
  | fuel + 1 =>
    let y := feistel seed epoch b 0 4 (x / 2 ^ b) (x % 2 ^ b)
    if y < n then y else shuffleWalk seed epoch n b fuel y

def shuffle (seed epoch n i : Nat) : Nat :=
  let b := shuffleBits n 16 1
  shuffleWalk seed epoch n b (2 ^ (2 * b)) i

def SmpRun.aug (r : SmpRun) (op draw d : Nat) : Nat :=
  cgen (xor64 r.seed.toNat kAug) (r.epoch * 2 ^ 32 + draw % 2 ^ 32) (op * 2 ^ 32 + d)

/-- A uniform value: the product with the exact difference rounded once, then the sum rounded once. -/
def uni (r : Nat) (a b : F32) : F32 :=
  let u := Fx.fin false (r / 256) (-24)
  f32Add a (toF32 (u.mul (Fx.sum false [f32 b, (f32 a).negate])))

/-! ### Augmentation (15 R509 to R511) -/

/-- An image in work: element value by row, column and channel. -/
structure Img where
  w : Nat
  h : Nat
  c : Nat
  v : Nat → Nat → Nat → F32

def f255 : F32 := 0x437F0000#32

def clampPix (v : F32) : F32 := f32Min f255 (f32Max f32Zero v)

/-- The bilinear tail of crop_value (08 R289). -/
def bilinear (v : Nat → Nat → F32) (y x : F32) (ih iw : Nat) : F32 :=
  let y := f32Max f32Zero (f32Min (f32OfNat (ih - 1)) y)
  let x := f32Max f32Zero (f32Min (f32OfNat (iw - 1)) x)
  let y0 := f32FloorNat y
  let x0 := f32FloorNat x
  let ya := min (y0 + 1) (ih - 1)
  let xa := min (x0 + 1) (iw - 1)
  let fy := f32Sub y (f32OfNat y0)
  let fx := f32Sub x (f32OfNat x0)
  let top := f32Add (v y0 x0) (f32Mul fx (f32Sub (v y0 xa) (v y0 x0)))
  let bot := f32Add (v ya x0) (f32Mul fx (f32Sub (v ya xa) (v ya x0)))
  f32Add top (f32Mul fy (f32Sub bot top))

/-- rot_src of 15 R510. -/
def rotSrc (i j : Nat) (th : F32) (w h : Nat) : F32 × F32 :=
  let cx := f32Mul (f32OfNat w) f32Half
  let cy := f32Mul (f32OfNat h) f32Half
  let dx := f32Sub (f32Add (f32OfNat j) f32Half) cx
  let dy := f32Sub (f32Add (f32OfNat i) f32Half) cy
  let c := cosRn th
  let s := sinRn th
  (f32Sub (f32Add (f32Add (f32Mul c dx) (f32Mul s dy)) cx) f32Half,
   f32Sub (f32Add (f32Sub (f32Mul c dy) (f32Mul s dx)) cy) f32Half)

/-- Side of a scaled image; of a scale that is not a number the manual gives none. -/
def scaledSide (w : Nat) (s : F32) : Nat :=
  let v := f32 (f32Mul (f32OfNat w) s)
  if v.isInf then 16384
  else min 16384 (max 1 (((v.toInt .rne).map Int.toNat).getD (Config.nanSide w)))

/-- One operation on an image; `r` gives its random words. -/
def augImage (o : SmpOp) (r : Nat → Nat) (m : Img) : Img :=
  match o.op with
  | 1 =>
    let cw := min o.c m.w
    let ch := min o.d m.h
    let x0 := r 1 % (m.w - cw + 1)
    let y0 := r 2 % (m.h - ch + 1)
    { m with
      w := cw
      h := ch
      v := fun y x c => if cw = 0 ∨ ch = 0 then Config.emptyPixel y x c else m.v (y0 + y) (x0 + x) c }
  | 2 => { m with v := fun y x c => m.v y (m.w - 1 - x) c }
  | 3 =>
    let s := uni (r 1) o.a o.b
    let w1 := scaledSide m.w s
    let h1 := scaledSide m.h s
    let whole : Box := ⟨f32Zero, f32Zero, f32OfNat m.w, f32OfNat m.h⟩
    { m with
      w := w1
      h := h1
      v := fun y x c => cropValue (fun yy xx => m.v yy xx c) whole f32One f32One h1 w1 y x m.h m.w }
  | 4 =>
    let th := uni (r 1) (f32Neg o.a) o.a
    let low : F32 := 0xBF000000#32
    { m with v := fun y x c =>
        let (xs, ys) := rotSrc y x th m.w m.h
        let out := f32Lt xs low || f32Lt (f32Sub (f32OfNat m.w) f32Half) xs || f32Lt ys low ||
          f32Lt (f32Sub (f32OfNat m.h) f32Half) ys
        if out then o.fill else bilinear (fun yy xx => m.v yy xx c) ys xs m.h m.w }
  | 5 =>
    let c := uni (r 1) (f32Sub f32One o.a) (f32Add f32One o.a)
    let k := uni (r 2) (f32Neg o.b) o.b
    { m with v := fun y x ch => clampPix (f32Add (f32Mul (m.v y x ch) c) k) }
  | 6 =>
    let cw := min o.c m.w
    let ch := min o.d m.h
    let x0 := r 1 % (m.w - cw + 1)
    let y0 := r 2 % (m.h - ch + 1)
    { m with v := fun y x c => if y0 ≤ y ∧ y < y0 + ch ∧ x0 ≤ x ∧ x < x0 + cw then o.fill else m.v y x c }
  | 7 =>
    { m with v := fun y x c =>
        let e := (y * m.w + x) * m.c + c
        let q := r (1 + e / 4) / 2 ^ (8 * (e % 4)) % 256
        clampPix (f32Add (m.v y x c) (f32Mul (f32OfInt ((q : Int) - 128)) o.a)) }
  | _ => m

/-- One operation on a token span. -/
def augTokens (o : SmpOp) (r : Nat → Nat) (t : List Nat) : List Nat :=
  match o.op with
  | 1 =>
    let l := min o.c t.length
    (t.drop (r 1 % (t.length - l + 1))).take l
  | 6 =>
    let l := min o.c t.length
    let st := r 1 % (t.length - l + 1)
    t.take st ++ List.replicate l o.fill.toNat ++ t.drop (st + l)
  | 7 =>
    (List.range t.length).map fun e =>
      if r (1 + 2 * e) / 65536 < o.c then o.d + r (2 + 2 * e) % (o.fill.toNat - o.d + 1) else t.getD e 0
  | _ => t

/-- Operations that apply to a sample of kind bit `k`, with their positions. -/
def SmpRun.applies (r : SmpRun) (d k : Nat) : List (Nat × SmpOp) :=
  ((List.range r.block.ops.length).filterMap fun i => (r.block.ops[i]?).map fun o => (i, o)).filter fun e =>
    e.2.kinds / k % 2 == 1 && (e.2.p == 0xFFFFFFFF || decide (r.aug e.1 0 d < e.2.p))

/-! ### The run block (15 R512, R518) -/

def up64 (n : Nat) : Nat := (n + 63) / 64 * 64

def SmpBlock.imageBytes (b : SmpBlock) : Nat := b.outH * b.outW * (if b.packed then b.outC else 32)
/-- SB of 15 R515. -/
def SmpBlock.sb (b : SmpBlock) : Nat := up64 (max b.imageBytes (4 * b.maxTokens))
def SmpBlock.dataOff (_b : SmpBlock) (batch : Nat) : Nat := up64 (64 + 32 * batch)

def smpOpOf (b : List Byte) : SmpOp :=
  { op := fieldOf b 0 1, kinds := fieldOf b 1 1, p := fieldOf b 4 4, a := BitVec.ofNat 32 (fieldOf b 8 4),
    b := BitVec.ofNat 32 (fieldOf b 12 4), c := fieldOf b 16 4, d := fieldOf b 20 4,
    fill := BitVec.ofNat 32 (fieldOf b 24 4) }

def smpBlockOf (b : List Byte) : SmpBlock :=
  { slot0 := BitVec.ofNat 64 (fieldOf b 0 8), slotBytes := fieldOf b 8 4, nslot := fieldOf b 12 1,
    packed := fieldOf b 13 1 == 1, outC := fieldOf b 14 1, outW := fieldOf b 16 2, outH := fieldOf b 18 2,
    maxTokens := fieldOf b 20 4, pad := BitVec.ofNat 32 (fieldOf b 24 4), pool := fieldOf b 28 4,
    mul := (List.range 4).map fun i => BitVec.ofNat 32 (fieldOf b (32 + 4 * i) 4),
    add := (List.range 4).map fun i => BitVec.ofNat 32 (fieldOf b (48 + 4 * i) 4),
    credit := BitVec.ofNat 64 (fieldOf b 64 8),
    ops := (List.range (min 16 (fieldOf b 15 1))).map fun i => smpOpOf (b.drop (128 + 32 * i)) }

/-- A negative or non-finite A or B. -/
def badAmp (v : F32) : Bool := !f32Finite v || f32Lt v f32Zero

/-- An operation's limits (15 R518). -/
def SmpOp.beyond (o : SmpOp) : Bool :=
  match o.op with
  | 3 => !f32Lt f32Zero o.a || f32Lt o.b o.a
  | 4 => badAmp o.a || badAmp o.b
  | 5 => badAmp o.a || badAmp o.b
  | 7 => badAmp o.a || badAmp o.b || (o.kinds / 2 % 2 == 1 && decide (o.fill.toNat < o.d))
  | _ => false

/-- The run block's bytes. -/
def State.smpBytes (s : State) (d : Desc) : List Byte :=
  let n := min 16 (s.natAt (d.addr 48 + 15) 1)
  s.loadAt (d.addr 48) (128 + 32 * n)

def State.smpCheck (s : State) (d : Desc) : Option Status :=
  let n := d.ctx
  let fn := s.ctxFunc n
  let bytes := s.smpBytes d
  let b := smpBlockOf bytes
  let nd := d.nat 56 4
  let batch := d.nat 36 4
  let formD := addrForm (d.addr 40)
  firstStatus [
    (decide (3 < d.target) || !s.ownerAllows .smp 0 n || !(formD == 0 || formD == 2) ||
      !s.addrOk fn (d.addr 40) (max 1 (16 * nd)) || !s.localAddr n (d.addr 48) 128, .invalidDescriptor),
    (!zeroBytes bytes 72 128 || !s.localAddr n b.slot0 (max 1 (b.nslot * b.slotBytes)) || !s.localAddr n b.credit 4 ||
      !s.poolUsable b.pool 5 fn ||
      (List.range b.ops.length).any (fun i =>
        let o := b.ops.getD i ⟨0, 0, 0, 0, 0, 0, 0, 0⟩
        decide (o.op < 1) || decide (7 < o.op) || o.kinds == 0 || decide (3 < o.kinds) ||
        !zeroBytes (bytes.drop (128 + 32 * i)) 2 4 || !zeroBytes (bytes.drop (128 + 32 * i)) 28 32),
      .invalidDescriptor),
    (nd == 0 || batch == 0 || decide (4096 < batch) || d.nat 32 4 == 0 ||
      decide (ceilDiv nd (max 1 batch) < d.nat 28 4 + d.nat 32 4) || decide (fieldOf bytes 15 1 > 16) ||
      b.slot0.toNat % 64 != 0 || b.slotBytes % 64 != 0 || decide (b.nslot < 1) || decide (16 < b.nslot) ||
      decide (1 < fieldOf bytes 13 1) || decide (b.outC < 1) || decide (4 < b.outC) || decide (16384 < b.outW) ||
      decide (16384 < b.outH) || ((b.outW == 0) != (b.outH == 0)) || decide (262144 < b.maxTokens) ||
      decide (b.slotBytes < b.dataOff batch + batch * b.sb) || b.ops.any SmpOp.beyond, .limitRejected)]

/-- The run that a pipeline executes: the first of its runs. -/
def State.pipeRun (s : State) (p : Nat) : Option SmpRun := s.smp.runs.find? fun r => r.pipe == p

def State.updRun (s : State) (u : Nat) (f : SmpRun → SmpRun) : State :=
  { s with smp := { s.smp with runs := s.smp.runs.map fun r => if r.desc.uid = u then f r else r } }

/-- STAT.BUSY, STAT.LANES and PIPE[p].CTX. -/
def State.smpStat (s : State) : State :=
  let busy := ((List.range 4).map fun p => if (s.pipeRun p).isSome then 2 ^ p else 0).sum
  let lanes := (s.smp.lanes.keys.map fun l => 2 ^ (l % 8)).sum
  let s := (s.setFld (ro .smp 0 0x40) 0 4 busy).setFld (ro .smp 0 0x40) 8 8 lanes
  (List.range 4).foldl (fun s p =>
    s.setFld (ro .smp 0 (0x60 + 8 * p)) 0 8 (match s.pipeRun p with
      | some r => r.desc.ctx
      | none => 0xFF)) s

/-- 15 R518, R519: SMP_RUN is checked and joins the runs of its pipeline. -/
def execSmpRun (ctx : Fin 256) (sq : Fin 4) (s : State) : Next :=
  .next (s.take ctx sq 0x0F (fun s d =>
      (s.smpCheck d).or (if s.blockOn .smp 0 then none else some .cancelled)) fun s d =>
    let r : SmpRun :=
      { desc := d, pipe := d.target, seed := d.addr 16, epoch := d.nat 24 4, first := d.nat 28 4,
        steps := d.nat 32 4, batch := d.nat 36 4, n := d.nat 56 4, dataset := d.addr 40,
        block := smpBlockOf (s.smpBytes d), next := d.nat 28 4 * d.nat 36 4, opened := [], released := 0, notOk := 0,
        rejects := 0, firstBad := none, queuedAt := s.gts, poisoned := false }
    ({ s with smp := { s.smp with runs := s.smp.runs ++ [r] } }).smpStat)

/-! ### Steps -/

/-- Address of step `k`'s slot. -/
def SmpRun.slot (r : SmpRun) (k : Nat) : Word64 :=
  r.block.slot0 + BitVec.ofNat 64 ((k - r.first) % r.block.nslot * r.block.slotBytes)

/-- Address of the data area of offset `j`. -/
def SmpRun.dataAddr (r : SmpRun) (k j : Nat) : Word64 :=
  r.slot k + BitVec.ofNat 64 (r.block.dataOff r.batch + j * r.block.sb)

/-- An entry becomes final: it is written and recorded (15 R515). -/
def State.smpFinal (s : State) (r : SmpRun) (pos : Nat) (e : SmpEntry) : State :=
  let k := pos / r.batch
  let j := pos % r.batch
  let bytes := leBytes 4 e.index ++ [e.status] ++ leBytes 3 0 ++ leBytes 4 e.len ++ leBytes 4 0 ++
    leBytes 8 e.label ++ leBytes 8 0
  let s := s.storeAt (r.slot k + BitVec.ofNat 64 (64 + 32 * j)) bytes
  s.updRun r.desc.uid fun r =>
    { r with
      opened := if r.opened.any fun x => x.step == k then
          r.opened.map fun x => if x.step = k then { x with done := x.done.put j e } else x
        else r.opened ++ [⟨k, [(j, e)]⟩],
      notOk := if e.status = 0 then r.notOk else r.notOk + 1 }

/-- LABEL of an entry whose sample is not written, which the manual does not give; by what the bits of a step depend
on (15 R515, R517). -/
def SmpRun.openLabel (r : SmpRun) (index pos : Nat) : Nat :=
  (Config.sampleLabel r.seed.toNat r.epoch index pos).toNat

/-- A run leaves its pipeline with a status. -/
def State.smpEnd (s : State) (r : SmpRun) (st : Status) : State :=
  let s := { s with smp :=
    { runs := s.smp.runs.filter fun x => x.desc.uid != r.desc.uid,
      lanes := s.smp.lanes.filter fun l => l.2.run != r.desc.uid } }
  let s := match r.firstBad with
    | some d => s.raise 0x9000 0x1900 [.w r.rejects, .w d] r.desc.ctx
    | none => s
  ((s.complete r.desc st r.released r.notOk).smpStat)

/-- Release complete steps in order (15 R516), and end the run with the last one (15 R519). -/
def State.smpRelease (s : State) (u fuel : Nat) : State :=
  match fuel with
  | 0 => s
  | fuel + 1 =>
    match s.smp.runs.find? fun r => r.desc.uid == u with
    | none => s
    | some r =>
      let k := r.first + r.released
      match r.opened.find? fun x => x.step == k with
      | none => s
      | some st =>
        if st.done.length < r.batch ∨ s.ringBlocked r.desc.ctx then s
        else
          let real := st.done.filter fun e => !e.2.padding
          let ok := (real.filter fun e => e.2.status == 0).length
          let a := r.slot k
          let s := s.storeAt (a + 8)
            (leBytes 8 s.gts ++ leBytes 4 ok ++ leBytes 4 (real.length - ok) ++ List.replicate 40 0)
          let s := s.storeAt a (leBytes 8 k)
          let s := s.wr (ro .smp 0 (0x64 + 8 * r.pipe)) (BitVec.ofNat 32 k)
          let s := s.updRun u fun r =>
            { r with released := r.released + 1, opened := r.opened.filter fun x => x.step != k }
          if r.released + 1 = r.steps then
            match s.smp.runs.find? fun r => r.desc.uid == u with
            | some r => s.smpEnd r .ok
            | none => s
          else s.smpRelease u fuel

/-- Credit for a step (15 R516). -/
def State.smpCredit (s : State) (r : SmpRun) (k : Nat) : Bool :=
  decide ((BitVec.ofNat 32 (k - r.first) - BitVec.ofNat 32 (s.natAt r.block.credit 4)).toNat < r.block.nslot)

/-- STAT.CREDIT_WAIT, in place: the pipelines whose next position waits for credit (15 R516, R521). -/
def State.smpWaits (s : State) : Nat :=
  ((List.range 4).map fun p =>
    if (s.pipeRun p).any fun r =>
        decide (r.next < (r.first + r.steps) * r.batch) && !s.smpCredit r (r.next / max 1 r.batch) then 2 ^ p
    else 0).sum

/-- Positions of the run still to issue. -/
def SmpRun.more (r : SmpRun) : Bool := decide (r.next < (r.first + r.steps) * r.batch)

/-- Another pipeline is ahead for a lane (05 R171, 15 R519). -/
def State.smpAhead (s : State) (r : SmpRun) : Bool :=
  (List.range 4).any fun p => match s.pipeRun p with
    | some q => q.desc.uid != r.desc.uid && q.more && s.smpCredit q (q.next / max 1 q.batch) &&
        (decide (s.rank q.desc.ctx < s.rank r.desc.ctx) ||
          (s.rank q.desc.ctx == s.rank r.desc.ctx && decide (q.queuedAt < r.queuedAt)))
    | none => false

/-! ### Samples -/

/-- A dataset record's header as read. -/
structure SmpRec where
  key : Nat
  len : Nat
  kind : Nat
  c : Nat
  w : Nat
  h : Nat
  ntok : Nat
  label : Nat
  deriving DecidableEq, Repr

/-- The index entry and header of dataset index `d`; none when an address is forbidden (15 R503 to R505). -/
def State.smpHeader (s : State) (r : SmpRun) (d : Nat) : Option SmpRec :=
  let e := r.dataset + BitVec.ofNat 64 (16 * d)
  let a := BitVec.ofNat 64 (s.natAt e 8)
  let len := s.natAt (e + 8) 4
  let f := addrForm a
  if (f = 0 ∨ f = 2) ∧ s.addrOk (s.ctxFunc r.desc.ctx) a (max 32 len) then
    (addrKey a).map fun k =>
      { key := k, len := len, kind := s.loadNat k 1, c := s.loadNat (k + 1) 1, w := s.loadNat (k + 2) 2,
        h := s.loadNat (k + 4) 2, ntok := s.loadNat (k + 8) 4, label := s.loadNat (k + 16) 8 }
  else none

/-- The record is one that 15 R505 accepts. -/
def State.smpRecOk (s : State) (r : SmpRun) (x : SmpRec) : Bool :=
  decide (x.len ≤ 67108864) && s.loadNat (x.key + 6) 2 == 0 && s.loadNat (x.key + 12) 4 == 0 &&
  s.loadNat (x.key + 24) 8 == 0 &&
  (if x.kind = 1 then
    x.len == 32 + x.w * x.h * x.c && decide (1 ≤ x.w) && decide (x.w ≤ 16384) && decide (1 ≤ x.h) &&
    decide (x.h ≤ 16384) && decide (1 ≤ x.c) && decide (x.c ≤ 4) && r.block.outW != 0
  else x.kind == 2 && x.len == 32 + 4 * x.ntok && decide (1 ≤ x.ntok) && decide (x.ntok ≤ 262144) &&
    r.block.maxTokens != 0)

/-- Working buffers of a sample (15 R513). -/
def SmpRec.need (x : SmpRec) : List Nat :=
  if x.kind = 1 then [4 * x.w * x.h * x.c, 4 * x.w * x.h * x.c] else [4 * x.ntok]

/-- First fit in a sample pool for one buffer. -/
def smpFit (used : List (Nat × Nat)) (total size : Nat) : Option Nat :=
  let cands := sortBy (fun a b => decide (a < b)) (0 :: used.map fun b => b.1 + b.2)
  cands.find? fun o => decide (o + size ≤ total) &&
    used.all fun b => decide (b.1 + b.2 ≤ o) || decide (o + size ≤ b.1)

def smpAlloc (used : List (Nat × Nat)) (total : Nat) : List Nat → Option (List (Nat × Nat))
  | [] => some []
  | z :: rest =>
    match smpFit used total z with
    | none => none
    | some o => (smpAlloc ((o, z) :: used) total rest).map ((o, z) :: ·)

/-- Buffers that lanes hold in pool `p`. -/
def State.smpUsed (s : State) (p : Nat) : List (Nat × Nat) :=
  (s.smp.lanes.filter fun l => (s.smp.runs.find? fun r => r.desc.uid == l.2.run).any fun r => r.block.pool == p).flatMap
    fun l => l.2.bufs

/-- A free lane, by number. -/
def State.freeLane (s : State) : Option Nat := lowestFree 8 s.smp.lanes.keys

/-- 15 R513, R514, R516: a pipeline with credit issues its next position. -/
def execSampleIssue (pipe : Fin 4) (s : State) : Next :=
  match s.pipeRun pipe with
  | none => .next s
  | some r =>
    if ¬ r.more ∨ ¬ s.blockGoes .smp 0 ∨ s.frozen .smp 0 then .next s
    else
      let k := r.next / max 1 r.batch
      if ¬ s.smpCredit r k then .next s
      else if r.n ≤ r.next then
        let s := s.updRun r.desc.uid fun r => { r with next := r.next + 1 }
        let s := s.storeAt (r.dataAddr k (r.next % r.batch)) (List.replicate r.block.sb 0)
        let e : SmpEntry := ⟨0xFFFFFFFF, 0, 0, r.openLabel 0xFFFFFFFF r.next, true⟩
        .next ((s.smpFinal r r.next e).smpRelease r.desc.uid r.steps)
      else if s.smpAhead r then .next s
      else
        match s.freeLane with
        | none => .next s
        | some l =>
          let d := shuffle r.seed.toNat r.epoch r.n r.next
          let bufs := match s.smpHeader r d with
            | some x => if s.smpRecOk r x then
                (smpAlloc (s.smpUsed r.block.pool) (s.poolBytes r.block.pool) x.need).getD [] else []
            | none => []
          let s := { s with smp := { s.smp with lanes := s.smp.lanes.put l ⟨r.desc.uid, r.next, bufs⟩ } }
          .next ((s.updRun r.desc.uid fun r => { r with next := r.next + 1 }).smpStat)

/-- Write the augmented image of a sample (15 R509, R511). -/
def State.smpImage (s : State) (r : SmpRun) (x : SmpRec) (d : Nat) (at_ : Word64) : State :=
  let b := r.block
  let m0 : Img := ⟨x.w, x.h, x.c, fun y xx c =>
    f32OfInt ((memGet s.mem (x.key + 32 + (y * x.w + xx) * x.c + c)).toInt + 128)⟩
  let m := (r.applies d 1).foldl (fun m e => augImage e.2 (fun n => r.aug e.1 n d) m) m0
  let val := fun c i j =>
    if m.w = 0 ∨ m.h = 0 then Config.nanByte
    else
      let ch := min c (m.c - 1)
      tapByte (cropValue (fun y xx => m.v y xx ch) ⟨f32Zero, f32Zero, f32OfNat m.w, f32OfNat m.h⟩ f32One f32One
        b.outH b.outW i j m.h m.w) (b.mul.getD c 0) (b.add.getD c 0)
  let step := if b.packed then b.outC else 32
  (List.range b.outH).foldl (fun t i => (List.range b.outW).foldl (fun t j =>
    t.storeAt (at_ + BitVec.ofNat 64 ((i * b.outW + j) * step))
      ((List.range b.outC).map (fun c => val c i j) ++ List.replicate (step - b.outC) 0)) t) s

/-- The augmented token span of a sample. -/
def State.smpTokens (s : State) (r : SmpRun) (x : SmpRec) (d : Nat) : List Nat :=
  let t0 := (List.range x.ntok).map fun i => s.loadNat (x.key + 32 + 4 * i) 4
  ((r.applies d 2).foldl (fun t e => augTokens e.2 (fun n => r.aug e.1 n d) t) t0).take r.block.maxTokens

/-- A sample that is not written: its data area is zero and it is counted (15 R505, R506, R515). -/
def State.smpReject (s : State) (r : SmpRun) (pos d : Nat) (st : Status) : State :=
  let s := s.storeAt (r.dataAddr (pos / r.batch) (pos % r.batch)) (List.replicate r.block.sb 0)
  let s := s.addSat (ro .smp 0 0x50) 0 32 1
  let s := if st = .eccUncorrectable then s.raise 0x9000 0x3901 [.w d] r.desc.ctx
    else s.updRun r.desc.uid fun r => { r with rejects := r.rejects + 1, firstBad := some (r.firstBad.getD d) }
  s.smpFinal r pos ⟨d, BitVec.ofNat 8 st.code, 0, r.openLabel d pos, false⟩

/-- A sample whose bytes from key `k` on are poisoned: POISON_CONSUMED once for the descriptor (15 R506, 18 R604). -/
def State.smpPoison (s : State) (r : SmpRun) (pos d line : Nat) : State :=
  let s := if r.poisoned then s
    else (s.poisonEvent r.desc.ctx line).updRun r.desc.uid fun r => { r with poisoned := true }
  s.smpReject r pos d .eccUncorrectable

/-- The outcome of one sample, once its working buffers fit: index entry, header and data are read in turn, and what
each read finds is the sample's outcome. -/
def State.smpProcess (s : State) (r : SmpRun) (l : SmpLane) : Option State :=
  let d := shuffle r.seed.toNat r.epoch r.n l.pos
  let k := l.pos / r.batch
  let j := l.pos % r.batch
  let entry := r.dataset + BitVec.ofNat 64 (16 * d)
  let s := s.touchAt entry 16
  match s.poisonAt entry 16 with
  | some line => some (s.smpPoison r l.pos d line)
  | none =>
  match s.smpHeader r d with
  | none => some (s.smpReject r l.pos d .limitRejected)
  | some x =>
  let s := s.touch x.key 32
  match firstPoisoned s.poison x.key 32 with
  | some line => some (s.smpPoison r l.pos d line)
  | none =>
    if ¬ s.smpRecOk r x ∨ s.poolBytes r.block.pool < x.need.sum then some (s.smpReject r l.pos d .limitRejected)
    else if l.bufs.isEmpty ∧
        (smpAlloc (s.smpUsed r.block.pool) (s.poolBytes r.block.pool) x.need).isNone then none
    else
      let s := s.touch x.key x.len
      match firstPoisoned s.poison x.key x.len with
      | some line => some (s.smpPoison r l.pos d line)
      | none =>
        let s1 := s.addSat64 (ro .smp 0 0x48) 1
        if x.kind = 1 then
          some ((s1.smpImage r x d (r.dataAddr k j)).smpFinal r l.pos ⟨d, 0, 0, x.label, false⟩)
        else
          let t := s.smpTokens r x d
          let pad := List.replicate (r.block.maxTokens - t.length) r.block.pad.toNat
          some ((s1.storeAt (r.dataAddr k j) ((t ++ pad).flatMap fun v => leBytes 4 v)).smpFinal r l.pos
            ⟨d, 0, t.length, x.label, false⟩)

/-- Lane `n` finishes its sample, and a complete step is released; none when it has no sample to finish. -/
def State.laneDone (s : State) (n : Nat) : Option State := do
  let l ← s.smp.lanes.look? n
  let r ← s.smp.runs.find? fun r => r.desc.uid == l.run
  let t ← s.smpProcess r l
  let t := { t with smp := { t.smp with lanes := t.smp.lanes.del n } }
  return (t.smpStat).smpRelease r.desc.uid r.steps

/-- 15 R505 to R511, R515, R516: a lane finishes its sample, and a complete step is released. -/
def execSampleDone (lane : Fin 8) (s : State) : Next :=
  if s.frozen .smp 0 then .next s else .next ((s.laneDone lane).getD s)

end Sys2Proof.Machine
end

