-- ==== Sys2Proof/Machine/Scan.lean ====
section
/-! DEFINITION. The scanner port (chapter 14): jobs and page slots, the paper path, the exact-line restart,
line faults, the arithmetic from sample to page element, and the AFE's calibrations. -/

namespace Sys2Proof.Machine

def scn (o : Nat) : Nat := ro .scn 0 o
def mot (o : Nat) : Nat := ro .mot 0 o
def afe (o : Nat) : Nat := ro .afe 0 o

/-! ### Port states (14 R499) and motor phases (14 R501) -/

def sIdle : Nat := 0
def sWait : Nat := 1
def sFeed : Nat := 2
def sScan : Nat := 3
def sBackup : Nat := 4
def sEject : Nat := 5
def sFault : Nat := 6
def sClear : Nat := 7

def mIdle : Nat := 0
def mRun : Nat := 1
def mSettle : Nat := 2
def mReverse : Nat := 3
def mWait : Nat := 4
def mReplay : Nat := 5
def mStopped : Nat := 6

def State.scanState (s : State) : Nat := s.fld (scn 0x50) 0 3
def State.setScanState (s : State) (st : Nat) : State := s.setFld (scn 0x50) 0 3 st
def State.motPhase (s : State) : Nat := s.fld (mot 0x58) 2 3
/-- Input `i` of STAT.INPUTS: 0 PAPER_IN, 1 PAPER_EDGE, 2 COVER_OPEN, 3 DOUBLE_FEED, 4 button, 5 cable. -/
def State.scanInput (s : State) (i : Nat) : Bool := s.bit (scn 0x50) (3 + i)

/-- Phase, and with it MOVING and DIR. -/
def State.setMotor (s : State) (phase : Nat) : State :=
  let moving := phase = mRun ∨ phase = mReverse ∨ phase = mReplay
  ((s.setFld (mot 0x58) 2 3 phase).setFld (mot 0x58) 0 1 (if moving then 1 else 0)).setFld (mot 0x58) 1 1
    (if phase = mReverse then 1 else 0)

def State.setPick (s : State) (b : Bool) : State := s.setFld (mot 0x58) 5 1 (if b then 1 else 0)

def State.withScan (s : State) (f : Scanner → Scanner) : State := { s with scan := f s.scan }
def State.updJob (s : State) (f : ScanJob → ScanJob) : State := s.withScan fun c => { c with job := c.job.map f }

/-- Replace the sheet with the same page number. -/
def State.updSheet (s : State) (page : Nat) (f : Sheet → Sheet) : State :=
  s.withScan fun c => { c with sheets := c.sheets.map fun x => if x.page = page then f x else x }

def State.ringLevel (s : State) : State := s.setFld (scn 0x54) 0 12 s.scan.ring.length

def State.steps (s : State) : Nat := s.fld (mot 0x40) 0 5
def State.nativeDpi (s : State) : Nat := if s.bit (scn 0x40) 2 then 600 else 300
def State.inMode (s : State) : Nat := s.fld (scn 0x40) 0 2
def State.npix (s : State) : Nat := s.fld (scn 0x40) 4 14

/-- Image pixels per line (14 R474). -/
def State.imagePixels (s : State) : Nat := (if s.inMode = 2 then 3 else 1) * (s.npix - 64)

/-- Native lines that MAX_LINES output lines need. -/
def State.maxNative (s : State) (j : ScanJob) : Nat := ceilDiv (j.maxLines * s.nativeDpi) (max 1 j.dpi)

def scansFront (j : ScanJob) : Bool := j.sides % 2 == 1
def scansBack (j : ScanJob) : Bool := j.sides / 2 % 2 == 1
def ScanJob.nsides (j : ScanJob) : Nat := if j.sides = 3 then 2 else 1
def ScanJob.chans (j : ScanJob) : Nat := if j.colour then 3 else 1

/-- Bytes of a ring entry and CAP (14 R494). -/
def State.ringCap (s : State) (nsides : Nat) : Nat :=
  8388608 / max 1 ((nsides * 3 * s.npix * 2 + 63) / 64 * 64)

/-! ### From sample to page element (14 R478) -/

def State.shade (s : State) (j : ScanJob) (v i p : Nat) : Nat :=
  if ¬ j.shading then v
  else min 65535 (((v - s.scan.dark.look 0 (i * 10240 + p)) * s.scan.gain.look 4096 (i * 10240 + p) + 2048) / 4096)

/-- A tap position: base line and phase. -/
def tapPos (x dn dout : Nat) : Int × Nat :=
  let pos : Int := ((((2 * x + 1) * dn * 32768) / dout : Nat) : Int) - 32768
  (pos / 65536, (pos / 1024 % 64).toNat)

/-- A coefficient from a table of s16 values at `o`. -/
def State.coef (s : State) (o i : Nat) : Int := sInt 16 (s.fld (scn (o + i / 2 * 4)) (i % 2 * 16) 16)

def clamp16 (v : Int) : Nat := (clampInt 0 65535 v).toNat

def State.hOut (s : State) (line : Nat → Nat) (x0 wn x dn dout : Nat) : Nat :=
  let (b, ph) := tapPos x dn dout
  let acc : Int := ((List.range 8).map fun (k : Nat) =>
    let q : Int := min (max (b - 3 + (k : Int)) 0) ((wn : Int) - 1)
    s.coef 0x800 (ph * 8 + k) * (line (x0 + q.toNat) : Nat)).sum
  clamp16 ((acc + 2048) / 4096)

def State.vOut (s : State) (col : Nat → Nat) (last y dn dout : Nat) : Nat :=
  let (b, ph) := tapPos y dn dout
  let acc : Int := ((List.range 4).map fun (k : Nat) =>
    let n : Int := min (max (b - 1 + (k : Int)) 0) (last : Int)
    s.coef 0xC00 (ph * 4 + k) * (col n.toNat : Nat)).sum
  clamp16 ((acc + 2048) / 4096)

/-- element of 14 R478: 8 bits minus 128. -/
def element (v : Nat) : Byte := BitVec.ofNat 8 (min 255 ((v + 128) / 256) + 128)

/-- Image pixel `q` of one channel of a side, shaded (14 R475). `k` is the colour in modes 0 and 1. -/
def State.imagePixel (s : State) (j : ScanJob) (raw : List (List Nat)) (side k q : Nat) : Nat :=
  let n := max 1 (s.npix - 64)
  let ch := side * 3 + (if s.inMode = 2 then q / n else k)
  let p := if s.inMode = 2 then q % n else q
  s.shade j ((raw.getD ch []).getD (64 + p) 0) ch p

/-- Channels whose lines a side keeps: three, G alone, or the one grey line. -/
def State.sideChans (s : State) (j : ScanJob) : List Nat :=
  if s.inMode = 2 then [0] else if s.inMode = 1 ∧ ¬ j.colour then [1] else [0, 1, 2]

/-- The horizontally filtered native line of a side, one channel after the other. -/
def State.filterLine (s : State) (j : ScanJob) (raw : List (List Nat)) (side : Nat) : List Nat :=
  let dn := s.nativeDpi
  let wn := ceilDiv (j.width * dn) (max 1 j.dpi)
  (s.sideChans j).flatMap fun k =>
    (List.range j.width).map fun x => s.hOut (s.imagePixel j raw side k) j.x0 wn x dn (max 1 j.dpi)

/-- Address of a side image in the slot of a page (14 R483). -/
def ScanJob.sideAddr (j : ScanJob) (page side : Nat) : Word64 :=
  let skip := if side = 1 ∧ scansFront j then j.width * j.maxLines * j.chans else 0
  j.dst + BitVec.ofNat 64 (page % j.nslot * j.slotBytes + 64 + skip)

/-- Write output line `y` of a side. -/
def State.writeLine (s : State) (j : ScanJob) (sh : Sheet) (side last y : Nat) : State :=
  let dn := s.nativeDpi
  let v := fun c x => s.vOut (fun n => (sh.rows.look [] (side * 0x100000 + n)).getD (c * j.width + x) 0) last y dn
    (max 1 j.dpi)
  let pixel := fun x =>
    if j.colour then [element (v 0 x), element (v 1 x), element (v 2 x)]
    else if s.inMode = 0 then
      [element ((13933 * v 0 x + 46871 * v 1 x + 4732 * v 2 x + 32768) / 65536)]
    else [element (v 0 x)]
  s.storeAt (j.sideAddr sh.page side + BitVec.ofNat 64 (y * j.width * j.chans)) ((List.range j.width).flatMap pixel)

/-- Output lines of a side of `n` good native lines. -/
def State.outLines (s : State) (j : ScanJob) (n : Nat) : Nat := min j.maxLines (n * j.dpi / s.nativeDpi)

def Sheet.side (sh : Sheet) (side : Nat) : SideSt := if side = 0 then sh.front else sh.back
def Sheet.setSide (sh : Sheet) (side : Nat) (d : SideSt) : Sheet :=
  if side = 0 then { sh with front := d } else { sh with back := d }

/-- Write the output lines of a side that no longer depend on later native lines; with `final`, all of them. -/
def State.emitLines (s : State) (j : ScanJob) (page side : Nat) (final : Bool) (fuel : Nat) : State :=
  match fuel with
  | 0 => s
  | fuel + 1 =>
    match s.scan.sheets.find? fun x => x.page == page with
    | none => s
    | some sh =>
      let d := sh.side side
      let (b, _) := tapPos d.out s.nativeDpi (max 1 j.dpi)
      let go := d.out < s.outLines j d.processed ∧ (final ∨ b + 2 < d.processed)
      if go then
        ((s.writeLine j sh side (d.processed - 1) d.out).updSheet page fun x =>
          x.setSide side { d with out := d.out + 1 }).emitLines j page side final fuel
      else s

/-! ### Ends of sheets and jobs -/

/-- RESULT2 of a page record (14 R485). -/
def ScanJob.lastGood (j : ScanJob) (sh : Sheet) : Nat :=
  let n := if scansFront j then sh.front.out else sh.back.out
  if n = 0 then 0xFFFFFFFF else n - 1

def statusOf (b : Byte) : Status :=
  match b.toNat with
  | 0x01 => .cancelled | 0x02 => .aborted | 0x05 => .limitRejected | 0x0A => .lineFault | 0x0E => .timeout
  | 0x0B => .guaranteeBroken | 0x03 => .superseded | 0x04 => .staleDropped | 0x0C => .eccUncorrectable
  | 0x0D => .deviceFault | 0x0F => .invalidDescriptor | 0x12 => .camLost | 0x13 => .deviceReset
  | 0x06 => .grammarDeadEnd | 0x07 => .grammarStackLimit | 0x08 => .preempted | 0x09 => .epochStale
  | 0x10 => .lengthLimit | 0x11 => .quotaExceeded | _ => .ok

/-- Write the slot header and the page record of a sheet whose lines have all been processed (14 R483, R485). -/
def State.endSheet (s : State) (j : ScanJob) (sh : Sheet) (st : Byte) : State :=
  let trunc := sh.front.truncated || sh.back.truncated
  let st : Byte := if st = 0 ∧ trunc then 0x05 else st
  let s := (s.emitLines j sh.page 0 true j.maxLines).emitLines j sh.page 1 true j.maxLines
  let sh := (s.scan.sheets.find? fun x => x.page == sh.page).getD sh
  let last := j.lastGood sh
  let stamp := match sh.gts with
    | some g => leBytes 8 g
    | none => (List.range 8).map (Config.freeByte s.free)
  let hdr := leBytes 4 sh.page ++ [st] ++ leBytes 1 j.sides ++ leBytes 1 j.chans ++
    leBytes 1 (if trunc then 1 else 0) ++ leBytes 2 j.dpi ++ leBytes 2 j.width ++ leBytes 4 sh.front.out ++
    leBytes 4 sh.back.out ++ leBytes 4 0 ++ stamp ++ List.replicate 32 0
  let s := { s with free := s.free + 1 }
  let s := s.storeAt (j.dst + BitVec.ofNat 64 (sh.page % j.nslot * j.slotBytes)) hdr
  let s := s.withScan fun c => { c with sheets := c.sheets.filter fun x => x.page != sh.page }
  let s := (s.updJob fun j => { j with pages := j.pages + 1 }).addSat (scn 0x68) 0 32 1
  let s := s.wr (scn 0x5C) (BitVec.ofNat 32 last)
  s.completeMore j.desc (statusOf st) j.desc.tag sh.page last true j.desc.irq none

/-- Write what is due: the page records of ended sheets without lines in the ring, oldest first, then the
final record and the SCAN_ABORTs (14 R485, R487). -/
def State.scanRecords (s : State) (fuel : Nat) : State :=
  match fuel with
  | 0 => s
  | fuel + 1 =>
    match s.scan.job with
    | none => s
    | some j =>
      match s.scan.sheets with
      | sh :: _ =>
        match sh.ended with
        | some st =>
          if s.scan.ring.any fun l => l.page == sh.page then s else (s.endSheet j sh st).scanRecords fuel
        | none => s
      | [] =>
        match j.final with
        | none => s
        | some st =>
          let s := s.complete j.desc (statusOf st) j.pages 0
          let s := j.aborts.foldl (fun s d => s.complete d .ok j.pages 0) s
          (s.withScan fun c => { c with job := none }).setFld (scn 0x50) 16 8 0xFF

/-- The motor stops and the picking ends. -/
def State.stopMotor (s : State) (phase : Nat) : State := (s.setMotor phase).setPick false

/-- The sheet in progress, which in EJECT is the one whose page record is still to come, keeps its lines so far
and ends with a status; a sheet without a stored line leaves no page record unless `always` holds. -/
def State.cutSheet (s : State) (st : Byte) (always : Bool) : State :=
  let ejects := fun (x : Sheet) => s.scanState == sEject && s.scan.job.any fun j => j.picked == x.page + 1
  s.withScan fun c => { c with sheets := c.sheets.filterMap fun x =>
    if x.ended.isSome ∧ ¬ ejects x then some x
    else if always ∨ 0 < x.front.stored ∨ 0 < x.back.stored then some { x with ended := some st } else none }

/-- The job ends with a final status and the port enters `st`. -/
def State.endJob (s : State) (port : Nat) (st : Byte) : State :=
  ((s.setScanState port).updJob fun j => { j with final := some (j.final.getD st) }).scanRecords 40

/-- PAPER_IN_PATH and JAM. -/
def State.setPath (s : State) (b : Bool) : State := s.setFld (scn 0x50) 10 1 (if b then 1 else 0)
def State.setJam (s : State) (b : Bool) : State := s.setFld (scn 0x50) 9 1 (if b then 1 else 0)

/-- A line fault, or the loss of the cable: the sheet and the job end with LINE_FAULT and the port enters
FAULT (14 R491, R498). -/
def State.lineFault (s : State) (cause chans : Nat) : State :=
  let s := s.stopMotor mStopped
  let s := if s.scan.job.isSome ∧ cause ≠ 3 then s.setPath true else s
  let s := (s.setFld (scn 0x50) 12 3 cause).setFld (scn 0x58) 0 6 chans
  let s := if cause = 3 then s else s.setPage (slotOf .scn 0) { s.page (slotOf .scn 0) with fault := true }
  let s := s.cutSheet 0x0A true
  if s.scan.job.isSome then s.endJob sFault 0x0A else s.setScanState sFault

/-! ### SCAN_START and SCAN_ABORT -/

def scanJobOf (s : State) (d : Desc) : ScanJob :=
  let b := s.loadAt (d.addr 32) 64
  { desc := d, dst := BitVec.ofNat 64 (fieldOf b 0 8), slotBytes := fieldOf b 8 4, nslot := fieldOf b 12 1,
    onButton := fieldOf b 13 1 == 1, shading := fieldOf b 14 1 % 2 == 1, btnStop := fieldOf b 14 1 / 2 % 2 == 1,
    x0 := fieldOf b 16 2, width := fieldOf b 18 2, maxLines := fieldOf b 20 4,
    credit := BitVec.ofNat 64 (fieldOf b 24 8), trayMs := fieldOf b 32 4, dpi := d.nat 16 2,
    sides := d.nat 18 1, colour := d.nat 19 1 == 1, maxPages := d.nat 24 4, pool := d.nat 20 4, picked := 0,
    pages := 0, pressed := false, abort0 := false, aborts := [], final := none, waitSince := s.now }

/-- The bytes of a slot lie in frames of pool `p`. -/
def State.inPool (s : State) (p : Nat) (a : Word64) (n : Nat) : Bool :=
  match addrSpace a with
  | some (.hbm b) => decide (b + n ≤ hbmBytes) && (framesOf b n).all fun f => s.framePool f == some p
  | _ => false

/-- The checks of SCAN_START (14 R482, 02 R651). -/
def State.scanCheck (s : State) (d : Desc) : Option Status :=
  let n := d.ctx
  let fn := s.ctxFunc n
  let b := s.loadAt (d.addr 32) 64
  let j := scanJobOf s d
  let hwm := s.fld (scn 0x4C) 0 12
  let lwm := s.fld (scn 0x4C) 16 12
  let wn := ceilDiv (j.width * s.nativeDpi) (max 1 j.dpi)
  let cyc := s.fld (scn 0x44) 0 20
  let usable := decide (j.pool < 64) && (s.poolKind j.pool == 3 || s.poolKind j.pool == 4) &&
    s.poolSt j.pool == 2 && s.poolFunc j.pool == fn
  firstStatus [
    (!s.ownerAllows .scn 0 n || d.nat 40 4 != 64 || !usable || !s.addrOk fn (d.addr 32) 64, .invalidDescriptor),
    (!zeroBytes b 15 16 || !zeroBytes b 36 64 || decide (3 < fieldOf b 14 1) || addrForm j.dst != 0 ||
      j.dst.toNat % 64 != 0 || !s.inPool j.pool j.dst (j.nslot * j.slotBytes) || !s.localAddr n j.credit 4,
      .invalidDescriptor),
    (s.scan.job.isSome || decide (j.dpi < 75) || decide (1200 < j.dpi) || decide (j.sides < 1) ||
      decide (3 < j.sides) || decide (1 < d.nat 19 1) || decide (j.nslot < 1) || decide (16 < j.nslot) ||
      decide (1 < fieldOf b 13 1) || j.slotBytes % 64 != 0 || decide (j.width < 1) || decide (16384 < j.width) ||
      decide (j.maxLines < 1) || decide (65535 < j.maxLines) ||
      decide (j.slotBytes < 64 + j.nsides * j.width * j.maxLines * j.chans) || (j.colour && s.inMode == 2) ||
      decide (s.imagePixels < j.x0 + wn) || decide (cyc < 6000) || decide (600000 < cyc) || decide (10240 < s.npix) ||
      decide (cyc < s.npix * s.fld (scn 0x40) 24 8 * (if s.inMode = 1 then 3 else 1) + 120) ||
      decide (s.fld (mot 0x44) 0 12 * cyc < 2400000) || !(decide (lwm < hwm) &&
        decide (hwm + 2 ≤ s.ringCap j.nsides)), .limitRejected),
    (s.scanState == sFault || !s.scanInput 5, .lineFault)]

/-- 14 R482, R491: SCAN_START is checked and moves the port to WAIT or CLEAR. -/
def execScanStart (ctx : Fin 256) (sq : Fin 4) (s : State) : Next :=
  .next (s.take ctx sq 0x0D (fun s d =>
      (s.scanCheck d).or (if [Blk.scn, .afe, .mot].all fun b => s.blockOn b 0 then none else some .cancelled)) fun s d =>
    let j := scanJobOf s d
    let s := s.withScan fun c => { c with job := some j, line := 0, countFrom := 0, clearFrom := if s.scanInput 1 then none else some 0 }
    let s := (s.setFld (scn 0x50) 16 8 d.ctx).setFld (scn 0x54) 16 12 (s.ringCap j.nsides)
    if s.bit (scn 0x50) 10 then
      (s.setScanState sClear).setMotor mRun
    else s.setScanState sWait)

/-- The job of context `n`. -/
def State.jobOf (s : State) (n : Nat) : Option ScanJob := s.scan.job.filter fun j => j.desc.ctx == n

def State.scanAbortCheck (s : State) (d : Desc) : Option Status :=
  firstStatus [(!s.ownerAllows .scn 0 d.ctx || (s.jobOf d.ctx).isNone, .invalidDescriptor),
    (decide (1 < d.nat 16 1), .limitRejected)]

/-- Mode of the SCAN_ABORT at the front of a ring. -/
def State.scanAbortMode (s : State) (n q : Nat) : Option Nat :=
  match s.nextDesc n q with
  | some d => if d.cls = 0x0E then some (d.nat 16 1) else none
  | none => none

/-- 14 R487: SCAN_ABORT with MODE 0, or one that its checks refuse. -/
def execScanAbortAfterPage (ctx : Fin 256) (sq : Fin 4) (s : State) : Next :=
  if s.scanAbortMode ctx sq = some 1 then .next s
  else
    .next (s.take ctx sq 0x0E State.scanAbortCheck fun s d =>
      let s := s.updJob fun j => { j with abort0 := true, aborts := j.aborts ++ [d] }
      if s.scanState = sWait then s.endJob sIdle 0x00 else s)

/-- 14 R487, R496: SCAN_ABORT with MODE 1. -/
def execScanAbortAtLine (ctx : Fin 256) (sq : Fin 4) (s : State) : Next :=
  if s.scanAbortMode ctx sq = some 1 then
    .next (s.take ctx sq 0x0E State.scanAbortCheck fun s d =>
      let s := s.updJob fun j => { j with aborts := j.aborts ++ [d] }
      if s.scan.job.any fun j => j.final.isSome then s
      else (((s.stopMotor mStopped).cutSheet 0x02 true)).endJob sIdle 0x02)
  else .next s

/-! ### The paper path -/

/-- 14 R484, R491: a sheet is picked. -/
def execSheetPick (s : State) : Next :=
  match s.scan.job with
  | none => .next s
  | some j =>
    let t := BitVec.ofNat 32 j.picked
    let ok := s.scanState = sWait ∧ j.final.isNone ∧ s.scanInput 0 ∧ ¬ s.scanInput 2 ∧ ¬ s.bit (scn 0x50) 9 ∧
      (t - BitVec.ofNat 32 (s.natAt j.credit 4)).toNat < j.nslot ∧ s.scan.ring.length ≤ s.fld (scn 0x4C) 16 12 ∧
      (¬ j.onButton ∨ j.pressed) ∧ s.blockGoes .scn 0 ∧ ¬ s.frozen .scn 0 ∧ ¬ s.ringBlocked j.desc.ctx
    if ok then
      let sh : Sheet :=
        { page := j.picked, gts := none, lead := none, trail := none, front := ⟨0, 0, 0, false⟩,
          back := ⟨0, 0, 0, false⟩, rows := [], ended := none }
      let s := s.withScan fun c => { c with
        sheets := c.sheets ++ [sh], line := 0, countFrom := 0, haltNext := false }
      let s := (s.updJob fun j => { j with picked := j.picked + 1 }).setScanState sFeed
      .next (((s.setMotor mRun).setPick true).wr (mot 0x50) 0)
    else .next s

/-- Where a side's span of stored lines begins after an edge (14 R489). -/
def State.spanOff (s : State) (side : Nat) : Int :=
  (((s.fld (mot 0x44) 0 12 + (if side = 1 then s.fld (mot 0x44) 16 12 else 0)) * s.steps : Nat) : Int)

/-- Native index of the line that starts at `pos` in a side's span, from the side's first line. -/
def State.nativeIndex (s : State) (sh : Sheet) (side : Nat) (pos : Int) : Nat :=
  match sh.lead with
  | none => 0
  | some l => ((pos - (l + s.spanOff side)) / (s.steps : Int)).toNat

/-- The line that starts at `pos` lies in a side's span. -/
def State.inSpan (s : State) (sh : Sheet) (side : Nat) (pos : Int) : Bool :=
  match sh.lead with
  | none => false
  | some l => decide (l + s.spanOff side ≤ pos) &&
      match sh.trail with
      | none => true
      | some t => decide (pos < t + s.spanOff side)

/-- No later line lies in the side's span. -/
def State.spanOver (s : State) (sh : Sheet) (side : Nat) (pos : Int) : Bool :=
  match sh.trail with
  | none => false
  | some t => decide (t + s.spanOff side ≤ pos + s.steps)

/-- The 16-bit codes of samples; a sample is its code plus 65,536 where the conversion is flagged as over range
(20 R643). -/
def codesOf (l : List (List Nat)) : List (List Nat) := l.map fun c => c.map fun v => v % 65536

/-- Channels that fail the optical-black check, of the sides `sides` (14 R497); a sample flagged as over range lies
outside whatever the limits (20 R643). -/
def State.obFails (s : State) (raw : List (List Nat)) (sides : List Nat) : List Nat :=
  let lo := s.fld (afe 0x70) 0 16
  let hi := s.fld (afe 0x70) 16 16
  (sides.flatMap fun d => [3 * d, 3 * d + 1, 3 * d + 2]).filter fun i =>
    decide (s.fld (afe 0x74) 0 6 <
      (((raw.getD i []).take 64).filter fun v => decide (v < lo) || decide (hi < v)).length)

/-- Channels that fail the white-window check. -/
def State.wrFails (s : State) (j : ScanJob) (raw : List (List Nat)) (sides : List Nat) : List Nat :=
  if ¬ s.bit (scn 0x48) 31 then []
  else
    let x0 := s.fld (scn 0x48) 0 14
    let n := max 1 (s.npix - 64)
    let px := fun side k q =>
      if s.inMode = 2 then (raw.getD (side * 3 + q / n) []).getD (64 + q % n) 0
      else (raw.getD (side * 3 + k) []).getD (64 + q) 0
    let low := fun side k => decide ((((upFrom x0 32).map fun q => px side k q).sum + 16) / 32 < s.fld (afe 0x74) 16 16)
    sides.flatMap fun d =>
      if s.inMode = 2 then
        (if low d 0 then (List.range 3).filterMap fun g =>
          if (upFrom x0 32).any fun q => q / n == g then some (3 * d + g) else none else [])
      else ((s.sideChans j).filter fun k => low d k).map fun k => 3 * d + k

/-- AFE.OB_MEAN of the line's channels. -/
def State.setObMeans (s : State) (raw : List (List Nat)) : State :=
  (List.range 6).foldl (fun s i => match raw[i]? with
    | some l => s.wr (afe (0x90 + 4 * i)) (BitVec.ofNat 32 (((l.take 64).sum + 32) / 64 % 65536))
    | none => s) s

/-- The pending AFE snapshot is installed at the start of a line (02 R71, 14 R477). -/
def State.installShadow (s : State) (b : Blk) (i : Nat) : State :=
  let slot := slotOf b i
  let p := s.page slot
  if p.pendingCommit then
    { s with active := p.snapshot.foldl (fun (a : Tbl Word) (e : Nat × Word) => a.put e.1 e.2) s.active }.setPage slot
      { p with pendingCommit := false, snapshot := [], commitCount := p.commitCount + 1 }
  else s

/-- Store the line `k` in the ring for the sides `sides` whose spans hold it. -/
def State.storeLine (s : State) (j : ScanJob) (sh : Sheet) (raw : List (List Nat)) (sides : List Nat) : State :=
  let room := s.maxNative j
  let idx := fun d => if sides.contains d ∧ (sh.side d).stored < room then some (sh.side d).stored else none
  let full := sides.filter fun d => (sh.side d).stored = room ∧ ¬ (sh.side d).truncated
  let upd := fun (x : Sheet) (d : Nat) =>
    let q := x.side d
    if sides.contains d then
      x.setSide d (if q.stored < room then { q with stored := q.stored + 1 } else { q with truncated := true })
    else x
  let s := if (idx 0).isSome ∨ (idx 1).isSome then
      (s.withScan fun c => { c with ring := c.ring ++ [⟨sh.page, idx 0, idx 1, raw⟩] }).ringLevel
    else s
  let s := s.updSheet sh.page fun x => { upd (upd x 0) 1 with gts := some (x.gts.getD s.gts) }
  full.foldl (fun s _ => s.raise 0x6000 0x1607 [.w sh.page] j.desc.ctx) s

/-- The sheet of the running state. -/
def State.curSheet (s : State) : Option Sheet := s.scan.sheets.find? fun x => x.ended.isNone

/-- The motor halts for a restart after the line that ends at `pos` (14 R495). -/
def State.startBackup (s : State) (j : ScanJob) (pos : Int) : State :=
  let s := (s.wr (mot 0x54) (BitVec.ofInt 32 pos)).wr (mot 0x50) (BitVec.ofInt 32 pos)
  let s := (s.setMotor mSettle).setScanState sBackup
  let s := s.withScan fun c => { c with haltNext := false, settle2 := false, settleAt := s.now, reversed := 0 }
  (s.addSat (scn 0x6C) 0 32 1).raise 0x6000 0x1601 [.w (s32 pos), .w s.scan.ring.length] j.desc.ctx

/-- 14 R476, R489, R490, R493, R495, R497: a line starts, is captured, checked and stored or discarded. The
samples are those of the six channels. -/
def execScanLineStart (samples : List (List Nat)) (s : State) : Next :=
  let st := s.scanState
  let runs := s.motPhase = mRun ∨ s.motPhase = mReplay
  match s.scan.job with
  | none => .next s
  | some j =>
    if ¬ runs ∨ ¬ (st = sFeed ∨ st = sScan ∨ st = sBackup ∨ st = sEject ∨ st = sClear) ∨ s.frozen .scn 0 ∨
        s.frozen .mot 0 then .next s
    else
      let k := s.scan.line
      let pos : Int := ((k * s.steps : Nat) : Int)
      let s := (s.installShadow .afe 0).wr (mot 0x50) (BitVec.ofInt 32 pos)
      let s := s.withScan fun c => { c with line := k + 1 }
      match s.curSheet with
      | none => .next s
      | some sh =>
        if ¬ (st = sScan ∨ st = sBackup) then .next s
        else
          let used := (if scansFront j then [0] else []) ++ (if scansBack j then [1] else [])
          let sides := used.filter fun d => s.inSpan sh d pos
          let raw := codesOf samples
          let s := if sides.isEmpty then s else s.setObMeans raw
          let ob := s.obFails samples sides
          let wr := s.wrFails j raw sides
          let bad := if ob.isEmpty then wr else ob
          if ¬ bad.isEmpty then
            let chans := (bad.map fun i => 2 ^ i).sum
            let cause := if ob.isEmpty then 2 else 1
            let native := s.nativeIndex sh (sides.headD 0) pos
            .next ((s.lineFault cause chans).raise 0x6000 0x3602 [.w cause, .w chans, .w native] j.desc.ctx)
          else
            let halt := (s.rd (mot 0x54)).toInt
            if st = sBackup ∧ pos < halt then .next (s.addSat (scn 0x70) 0 32 1)
            else
              let s := if st = sBackup then (s.setScanState sScan).setMotor mRun else s
              let was := s.scan.haltNext
              let s := if sides.isEmpty then s else s.storeLine j sh raw sides
              let sh := s.curSheet.getD sh
              if used.all fun d => s.spanOver sh d pos then
                let s := s.updSheet sh.page fun x => { x with ended := some 0 }
                let s := s.withScan fun c => { c with haltNext := false, countFrom := c.line }
                .next ((s.setScanState sEject).scanRecords 40)
              else if was then .next (s.startBackup j (pos + s.steps))
              else if ¬ sides.isEmpty ∧ s.fld (scn 0x4C) 0 12 ≤ s.scan.ring.length then
                .next (s.withScan fun c => { c with haltNext := true })
              else .next s

/-- The port processes the oldest line of the ring (14 R478). -/
def State.processLine (s : State) : State :=
  match s.scan.job, s.scan.ring with
  | some j, l :: rest =>
    let s := (s.withScan fun c => { c with ring := rest }).ringLevel
    let put := fun (s : State) (side : Nat) (i : Option Nat) =>
      match i with
      | none => s
      | some n =>
        let line := s.filterLine j l.raw side
        (s.updSheet l.page fun x =>
          { x.setSide side { x.side side with processed := n + 1 } with
            rows := x.rows.put (side * 0x100000 + n) line }).emitLines j l.page side false j.maxLines
    (put (put s 0 l.front) 1 l.back).scanRecords 40
  | _, _ => s

/-- Every line of the ring is processed. -/
def State.flushRing (s : State) : State := s.scan.ring.foldl (fun (s : State) _ => s.processLine) s

/-- 14 R478, R494: one ring line is processed; BP_FORCE holds the port's HBM writes back. -/
def execRingLineProcessed (s : State) : Next :=
  if (s.page (slotOf .scn 0)).perturb.toNat / 256 % 2 = 1 ∨ s.frozen .scn 0 then .next s
  else .next s.processLine

/-- BACKUP as it acts: 8 to 64 lines (14 R501). -/
def State.backupLines (s : State) : Nat := max 8 (min 64 (s.fld (mot 0x40) 8 7))

def State.settled (s : State) : Bool := decide (s.scan.settleAt + s.fld (mot 0x4C) 16 12 * 1000 ≤ s.now)

/-- 14 R495: SETTLE_US has passed; the motor reverses, or after the reverse waits for LWM. -/
def execMotorSettleDone (s : State) : Next :=
  if s.scanState = sBackup ∧ s.motPhase = mSettle ∧ s.settled then
    if s.scan.settle2 then .next (s.setMotor mWait)
    else
      let n := min s.backupLines s.scan.line
      .next ((s.withScan fun c => { c with reversed := n }).setMotor mReverse)
  else .next s

/-- 14 R495: the back-up lines and the backlash have run. -/
def execMotorReverseDone (s : State) : Next :=
  if s.scanState = sBackup ∧ s.motPhase = mReverse then
    let line := s.scan.line - s.scan.reversed
    let s := s.withScan fun c => { c with line := line, settle2 := true, settleAt := s.now }
    .next ((s.setMotor mSettle).wr (mot 0x50) (BitVec.ofNat 32 (line * s.steps)))
  else .next s

/-- 14 R495: the ring has drained to LWM and the motor runs forward. -/
def execRingLwmReached (s : State) : Next :=
  if s.scanState = sBackup ∧ s.motPhase = mWait ∧ s.scan.ring.length ≤ s.fld (scn 0x4C) 16 12 then
    .next (s.setMotor mReplay)
  else .next s

/-- COVER_OPEN or DOUBLE_FEED accepted while paper moves (14 R491). -/
def State.pathAbort (s : State) (code : Nat) : State :=
  let st := s.scanState
  if st = sFeed ∨ st = sScan ∨ st = sBackup ∨ st = sEject ∨ st = sClear then
    let n := (s.scan.job.map fun j => j.desc.ctx).getD 0xFF
    let s := ((s.stopMotor mStopped).cutSheet 0x02 false).setPath true
    (s.raise 0x6000 code [] n).endJob sIdle 0x02
  else s

/-- An edge of PAPER_EDGE with its recorded position (14 R488, R491). -/
def State.edgeChange (s : State) (paper : Bool) (pos : Int) : State :=
  let st := s.scanState
  if paper ∧ st = sFeed then
    match s.curSheet with
    | some sh =>
      ((((s.updSheet sh.page fun x => { x with lead := some pos }).setPick false).setScanState sScan).withScan
        fun c => { c with countFrom := c.line })
    | none => s
  else if ¬ paper ∧ (st = sScan ∨ st = sBackup) then
    match s.curSheet with
    | some sh => s.updSheet sh.page fun x => { x with trail := some (x.trail.getD pos) }
    | none => s
  else if st = sClear then s.withScan fun c => { c with clearFrom := if paper then none else some c.line }
  else s

/-- 14 R488, R491: a debounced input takes a new level, with the position of its first raw transition. -/
def execPaperInputChange (input : Fin 4) (level : Bool) (pos : Int) (s : State) : Next :=
  let active := level != s.bit (scn 0x64) input
  if active = s.scanInput input then .next s
  else if input = 1 ∧ s.scanState = sBackup ∧ pos ≤ (s.rd (mot 0x54)).toInt then .next s
  else
    let s := s.setFld (scn 0x50) (3 + input) 1 (if active then 1 else 0)
    match input with
    | 0 => .next (s.updJob fun j => { j with waitSince := s.now })
    | 1 => .next (s.edgeChange active pos)
    | 2 => .next (if active then s.pathAbort 0x1605 else (s.setJam false).setPath false)
    | _ => .next (if active then s.pathAbort 0x2604 else s)

/-- 14 R492: a debounced press or release of SCAN_BTN_N. -/
def execScanButton (pressed : Bool) (s : State) : Next :=
  let s := s.setFld (scn 0x50) 7 1 (if pressed then 1 else 0)
  if ¬ pressed then .next s
  else
    let s := s.raise 0x6000 0x0600 []
    let st := s.scanState
    .next (s.updJob fun j => { j with
      pressed := true,
      abort0 := j.abort0 || (j.btnStop && decide (st = sFeed ∨ st = sScan ∨ st = sBackup ∨ st = sEject)) })

/-- A running AFE calibration ends with a result (14 R480). -/
def State.endCal (s : State) (op result : Nat) : State :=
  ((s.withScan fun c => { c with cal := none }).wr (afe 0x7C) (BitVec.ofNat 32 (result * 2))).raise 0x6001 0x0610
    [.w op, .w result]

/-- 14 R491: DKT_DET_N changes. -/
def execCableChange (present : Bool) (s : State) : Next :=
  let s := (s.setFld (scn 0x50) 8 1 (if present then 1 else 0)).raise 0x6000 0x0608 [.w (if present then 1 else 0)]
  if ¬ present then
    let s := match s.scan.cal with
      | some (op, _) => s.endCal op 3
      | none => s
    let s := s.withScan fun c => { c with unplugged := true }
    .next (if s.scanState = sFault then s else s.lineFault 3 0)
  else if s.scanState = sFault ∧ s.scan.unplugged then
    let s := s.withScan fun c => { c with unplugged := false }
    .next (((s.setScanState sIdle).setFld (scn 0x50) 12 3 0).raise 0x6000 0x0609 [])
  else .next (s.withScan fun c => { c with unplugged := false })

/-- 14 R491: PAPER_IN has been absent for TRAY_WAIT_MS. -/
def execTrayWaitExpiry (s : State) : Next :=
  match s.scan.job with
  | some j =>
    if s.scanState = sWait ∧ j.final.isNone ∧ ¬ s.scanInput 0 ∧ j.waitSince + j.trayMs * 1000000 ≤ s.now then
      .next (s.endJob sIdle 0x00)
    else .next s
  | none => .next s

/-- 14 R491: LEAD_LINES lines without a leading edge. -/
def execMisfeed (s : State) : Next :=
  match s.scan.job with
  | some j =>
    if s.scanState = sFeed ∧ s.fld (mot 0x48) 0 12 ≤ s.scan.line then
      let s := ((s.stopMotor mStopped).cutSheet 0x0E false).setPath true
      .next ((s.raise 0x6000 0x2606 [] j.desc.ctx).endJob sIdle 0x0E)
    else .next s
  | none => .next s

/-- 14 R491: the jam count has run out without a trailing edge. -/
def execPaperJam (s : State) : Next :=
  match s.scan.job with
  | some j =>
    let st := s.scanState
    let n := s.scan.line - s.scan.countFrom
    let noTrail := if st = sScan then s.curSheet.any (fun x => x.trail.isNone) else s.scan.clearFrom.isNone
    if (st = sScan ∨ st = sClear) ∧ noTrail ∧ s.maxNative j + s.fld (mot 0x48) 16 12 ≤ n then
      let s := (((s.stopMotor mStopped).cutSheet 0x0E true).setPath true).setJam true
      .next ((s.raise 0x6000 0x2603 [] j.desc.ctx).endJob sIdle 0x0E)
    else .next s
  | none => .next s

/-- Enter WAIT, or end the job when a MODE 0 abort is pending. -/
def State.toWait (s : State) : State :=
  match s.scan.job with
  | none => s
  | some j =>
    let s := s.setMotor mIdle
    if j.abort0 then s.endJob sIdle 0x00
    else ((s.setScanState sWait).updJob fun j => { j with waitSince := s.now }).withScan fun c => { c with line := 0 }

/-- 14 R491: EJECT_LINES lines have run after a sheet. -/
def execEjectDone (s : State) : Next :=
  match s.scan.job with
  | some j =>
    if s.scanState = sEject ∧ s.scan.countFrom + s.fld (mot 0x4C) 0 12 ≤ s.scan.line then
      if j.maxPages ≠ 0 ∧ j.maxPages ≤ j.picked then .next ((s.setMotor mIdle).endJob sIdle 0x00)
      else .next s.toWait
    else .next s
  | none => .next s

/-- 14 R491: the paper path has been clear for EJECT_LINES lines. -/
def execClearDone (s : State) : Next :=
  match s.scan.clearFrom with
  | some f =>
    if s.scanState = sClear ∧ f + s.fld (mot 0x4C) 0 12 ≤ s.scan.line then .next ((s.setPath false).toWait)
    else .next s
  | none => .next s

/-- A write of SCN.CTL takes effect (14 R491): FAULT_CLR. -/
def State.scanFaultClr (s : State) (val : Word) : State :=
  if bitsOf val 0 1 = 1 ∧ s.scanState = sFault then
    ((s.setScanState sIdle).setFld (scn 0x50) 12 3 0).raise 0x6000 0x0609 []
  else s

/-! ### AFE calibrations (14 R480) -/

/-- A write of CAL_CMD takes effect: OP 1 to 3 start a calibration. -/
def State.calStart (s : State) (val : Word) : State :=
  let op := bitsOf val 0 2
  if op = 0 then s
  else if s.scanState ≠ sIdle ∨ s.scanInput 1 ∨ s.scan.cal.isSome then s.setFld (afe 0x7C) 1 3 1
  else
    let lines := max 1 (bitsOf val 8 8)
    (s.withScan fun c => { c with cal := some (op, lines) }).wr (afe 0x7C) 1

/-- Mean of one image pixel over the calibration's lines. -/
def calMean (lines : List (List (List Nat))) (n i p : Nat) : Nat :=
  (((lines.take n).map fun l => (l.getD i []).getD (64 + p) 0).sum + n / 2) / n

/-- Set the shading entries of every channel and image pixel. -/
def State.calShade (s : State) (lines : List (List (List Nat))) (n op : Nat) : State :=
  (List.range 6).foldl (fun s i => (List.range (s.npix - 64)).foldl (fun s p =>
    let m := calMean lines n i p
    let k := i * 10240 + p
    if op = 1 then s.withScan fun c => { c with dark := c.dark.put k m }
    else
      let den := max 1 (m - s.scan.dark.look 0 k)
      s.withScan fun c => { c with
        gain := c.gain.put k (min 65535 ((s.fld (afe 0x80) 0 16 * 4096 + den / 2) / den)) }) s) s

/-- OFFSET: take the code that the search found for each channel, unless its mean is out of range. -/
def State.calOffset (s : State) (offsets : List (Nat × Nat)) : State × Nat :=
  (List.range 6).foldl (fun (a : State × Nat) i =>
    match offsets[i]? with
    | none => a
    | some (code, mean) =>
      let tgt := a.1.fld (afe 0x84) 0 16
      if tgt + 1024 < mean ∨ mean + 1024 < tgt then (a.1, 2)
      else
        let o := afe (0x58 + 4 * i)
        let w := BitVec.ofNat 32 (code % 1024)
        ({ a.1.wr o w with active := a.1.active.put o w }, a.2)) (s, 0)

/-- 14 R480: the calibration ends. `lines` are its raw lines by channel, `offsets` the code and mean that the
search found for each channel. -/
def execAfeCalDone (lines : List (List (List Nat))) (offsets : List (Nat × Nat)) (s : State) : Next :=
  match s.scan.cal with
  | none => .next s
  | some (op, n) =>
    if ¬ s.scanInput 5 then .next (s.endCal op 3)
    else if op = 3 then
      let (s, r) := s.calOffset offsets
      .next (s.endCal 3 r)
    else .next ((s.calShade (lines.map codesOf) n op).endCal op 0)

end Sys2Proof.Machine
end

