-- ==== Sys2Proof/Machine/Motion.lean ====
section
/-! DEFINITION. The encoder's motion search (12 R440): a pyramid at 1/16 and 1/4 of the picture, candidates, and their
refinement down to quarter samples. The manual gives neither the pyramid's filter, nor the reference samples (the
codec's), nor the rate cost of a vector, nor which neighbours count: these are free functions of Config or the model's
choice (log 47). -/

namespace Sys2Proof.Machine

/-- A motion vector, in quarter samples: across and down. -/
abbrev Vec := Int × Int

/-- The offsets of a search window of ±`dx` × ±`dy`. -/
def window (dx dy : Nat) : List Vec :=
  (List.range (2 * dy + 1)).flatMap fun (y : Nat) =>
    (List.range (2 * dx + 1)).map fun (x : Nat) => ((x : Int) - dx, (y : Int) - dy)

/-- Luma of the input picture. -/
abbrev Luma := Nat → Nat → Nat

/-- A sample of the pyramid level that is `n` times smaller: the filter over the samples it covers is free. -/
def pyramid (src : Luma) (n : Nat) (y x : Nat) : Nat :=
  Config.pyramidSample ((List.range (n * n)).map fun i => src (n * y + i / n) (n * x + i % n))

/-- Sum of absolute differences of the `n` × `n` block at (`y`, `x`) and the reference `ref` displaced by `v`. -/
def sad (cur : Luma) (ref : Int → Int → Nat) (n y x : Nat) (v : Vec) : Nat :=
  ((List.range (n * n)).map fun i =>
    ((cur (y + i / n) (x + i % n) : Int) - ref ((y + i / n : Nat) + v.2) ((x + i % n : Nat) + v.1)).natAbs).sum

/-- One pass of a 4-point Hadamard transform. -/
def hadamard4 (a : List Int) : List Int :=
  let g := fun i => a.getD i 0
  [g 0 + g 1 + g 2 + g 3, g 0 - g 1 + g 2 - g 3, g 0 + g 1 - g 2 - g 3, g 0 - g 1 - g 2 + g 3]

/-- Sum of absolute transformed differences of one 4 × 4 block of differences. -/
def satd4 (d : Nat → Nat → Int) : Nat :=
  let rows := (List.range 4).map fun y => hadamard4 ((List.range 4).map fun x => d y x)
  let cols := (List.range 4).map fun x => hadamard4 (rows.map fun r => r.getD x 0)
  (cols.flatten.map Int.natAbs).sum

/-- SATD of the 64 × 64 block at (`y`, `x`) against the reference at quarter-sample vector `v`. -/
def satd (cur : Luma) (quarter : Int → Int → Nat) (y x : Nat) (v : Vec) : Nat :=
  ((List.range 256).map fun b =>
    let by' := y + b / 16 * 4
    let bx := x + b % 16 * 4
    satd4 fun i j => (cur (by' + i) (bx + j) : Int) - quarter (4 * (by' + i : Nat) + v.2) (4 * (bx + j : Nat) + v.1)).sum

/-- The vector of the least cost; of equal ones the first. -/
def leastCost (cost : Vec → Nat) (best : Vec) : List Vec → Vec
  | [] => best
  | v :: r => leastCost cost (if cost v < cost best then v else best) r

/-- The best of the vectors within `step` × the window around `v`. -/
def refine (cost : Vec → Nat) (w : List Vec) (step : Int) (v : Vec) : Vec :=
  leastCost cost v (w.map fun o => (v.1 + step * o.1, v.2 + step * o.2))

/-- The four vectors of the least cost, cheapest first. -/
def bestFour (cost : Vec → Nat) (l : List Vec) : List Vec :=
  ((sortBy (fun (a b : Nat × Vec) => decide (a.1 < b.1)) (l.map fun v => (cost v, v))).take 4).map Prod.snd

/-- The vector of the 64 × 64 region at (`y`, `x`): `hist` is the stream's history, `near` the vectors of neighbouring
regions and of the co-located one of the previous picture. -/
def regionVector (hist : Nat) (src : Luma) (y x : Nat) (near : List Vec) : Vec :=
  let rate := Config.vectorRate hist
  let cost := fun (n : Nat) (v : Vec) =>
    sad (if n = 1 then src else pyramid src n) (Config.refLevel hist n) (64 / n) (y / n) (x / n) (v.1 / (4 * n), v.2 / (4 * n)) + rate v
  let coarse := bestFour (cost 16) ((window 16 8).map fun o => (64 * o.1, 64 * o.2))
  let quarterRes := (coarse ++ near).map (refine (cost 4) (window 4 4) 16)
  let full := quarterRes.map (refine (cost 1) (window 2 2) 4)
  let sub := fun v => satd src (Config.refQuarter hist) y x v + rate v
  refine sub (window 1 1) 1 (refine sub (window 1 1) 2 (leastCost (cost 1) (full.headD (0, 0)) full))

/-- The vectors of a picture of `h` × `w`, region by region; `prev` are those of the previous picture. -/
def motionSearch (hist h w : Nat) (src : Luma) (prev : List Vec) : List Vec :=
  let across := (w + 63) / 64
  let one := fun (l : List Vec) (i : Nat) =>
    let left := if i % across = 0 then [] else (l[i - 1]?).toList
    let above := if i < across then [] else (l[i - across]?).toList
    l ++ [regionVector hist src (64 * (i / across)) (64 * (i % across)) (left ++ above ++ (prev[i]?).toList)]
  (List.range (across * ((h + 63) / 64))).foldl one []

end Sys2Proof.Machine
end

