-- ==== Sys2Proof/Machine/Video.lean ====
section
/-! DEFINITION. Video decode, its taps, and video encode (chapter 12). What a bitstream decodes to is the
codecs' matter: samples are free values, except where the decoder conceals (12 R422). -/

namespace Sys2Proof.Machine

/-! ### Samples -/

/-- A sample of buffer `b`: plane 0 luma, 1 Cb, 2 Cr (12 R427). -/
def State.bufSample (s : State) (d : DecStream) (b plane y x : Nat) : Nat :=
  match d.bufs[b]? with
  | none => 0
  | some m =>
    let pitch := bufPitch d.maxW d.depth
    let rows := bufRows d.maxH
    if d.codec = 3 then (s.poolByte d.pool (m.off + (plane * rows + y) * pitch + x)).toNat
    else
      let e := if d.depth = 10 then 2 else 1
      let o := if plane = 0 then y * pitch + x * e else (rows + y) * pitch + (2 * x + (plane - 1)) * e
      if e = 1 then (s.poolByte d.pool (m.off + o)).toNat
      else leNat (s.poolLoad d.pool (m.off + o) 2) / 64

/-- Luma position of a sample of a plane. -/
def lumaPos (chroma plane y x : Nat) : Nat × Nat :=
  if plane = 0 then (y, x)
  else if chroma = 1 then (2 * y, 2 * x) else if chroma = 2 then (y, 2 * x) else (y, x)

/-- A reconstructed sample of the picture in progress (12 R422, R424). -/
def State.picSample (s : State) (d : DecStream) (p : Picture) (plane y x : Nat) : Nat :=
  match p.info.existing with
  | some b => s.bufSample d b plane y x
  | none =>
    let (ly, lx) := lumaPos p.info.chroma.val plane y x
    let ctu := max 1 p.info.ctu
    let c := ly / ctu * ((p.info.w + ctu - 1) / ctu) + lx / ctu
    if p.info.lost.contains c then
      if p.info.intra ∨ d.codec = 3 then 2 ^ (p.info.depth - 1)
      else match p.info.ref0 with
        | some b => s.bufSample d b plane y x
        | none => 2 ^ (p.info.depth - 1)
    else Config.decodedSample p.serial plane y x % 2 ^ p.info.depth

/-- Chroma sample that goes with a luma position (12 R430); a 4:0:0 picture has the value co. -/
def State.picChroma (s : State) (d : DecStream) (p : Picture) (plane y x : Nat) : Nat :=
  match p.info.chroma.val with
  | 0 => 128 * 2 ^ (p.info.depth - 8)
  | 1 => s.picSample d p plane (y / 2) (x / 2)
  | 2 => s.picSample d p plane y (x / 2)
  | _ => s.picSample d p plane y x

/-- src of 12 R430 for channel `c` of a tap. -/
def State.picSrc (s : State) (d : DecStream) (p : Picture) (t : TapCfg) (c y x : Nat) : Int :=
  let l := s.picSample d p 0 y x
  if t.colour = 2 then l
  else pickChannel t.colour c (toRgb t.matrix p.info.depth l (s.picChroma d p 1 y x) (s.picChroma d p 2 y x)) l

/-- Rows and columns of a plane. -/
def planeDims (i : PicInfo) (plane : Nat) : Nat × Nat :=
  if plane = 0 then (i.h, i.w)
  else match i.chroma.val with
    | 0 => (0, 0)
    | 1 => ((i.h + 1) / 2, (i.w + 1) / 2)
    | 2 => (i.h, (i.w + 1) / 2)
    | _ => (i.h, i.w)

/-- A sample as it lies in memory (12 R427). -/
def sampleBytes (depth v : Nat) : List Byte := if depth = 10 then leBytes 2 (v * 64) else leBytes 1 v

/-- Write a frame of `serial` number into buffer `b` in the layout of 12 R427. -/
def State.writePicture (s : State) (d : DecStream) (p : Picture) (b : Nat) : State :=
  match d.bufs[b]? with
  | none => s
  | some m =>
    let pitch := bufPitch d.maxW d.depth
    let rows := bufRows d.maxH
    let smp := fun plane y x => sampleBytes d.depth (s.picSample d p plane y x)
    let (h, w) := planeDims p.info 0
    let (ch, cw) := planeDims p.info 1
    let s1 := (List.range h).foldl (fun t y =>
      t.poolStore d.pool (m.off + y * pitch) ((List.range w).flatMap fun x => smp 0 y x)) s
    if d.codec = 3 then
      (List.range ch).foldl (fun t y =>
        (t.poolStore d.pool (m.off + (rows + y) * pitch) ((List.range cw).flatMap fun x => smp 1 y x)).poolStore
          d.pool (m.off + (2 * rows + y) * pitch) ((List.range cw).flatMap fun x => smp 2 y x)) s1
    else
      let s2 := (List.range ch).foldl (fun t y =>
        t.poolStore d.pool (m.off + (rows + y) * pitch)
          ((List.range cw).flatMap fun x => smp 1 y x ++ smp 2 y x)) s1
      let blocks := alignUp d.maxW 64 / 16 * (rows / 16)
      (List.range blocks).foldl (fun t i =>
        t.poolStore d.pool (m.off + pitch * rows * 3 / 2 + i * 16)
          ((List.range 16).map fun j => Config.motionByte p.serial (i * 16 + j))) s2

/-- A picture of a frame that is not shown, the `i`-th before picture `p` (12 R424). -/
def Picture.unshown (p : Picture) (i : Nat) (l : FrameLoss) : Picture :=
  { p with serial := p.serial + 1 + i,
           info := { p.info with lost := l.lost, intra := l.intra, ref0 := l.ref0, existing := none } }

/-- The frames that are not shown are decoded into their buffers. -/
def State.writeUnshown (s : State) (d : DecStream) (p : Picture) : State :=
  (List.range p.hidden.length).foldl (fun (s : State) i =>
    match p.info.hidden[i]? with
    | some l => s.writePicture d (p.unshown i l) (p.hidden.getD i 0)
    | none => s) s

/-- A stopped picture leaves its buffer with some of its samples: free ones. After an abort the poison marks of its
lines are free as well (04 R153, 18 R603). -/
def State.undefinePicture (s : State) (d : DecStream) (p : Picture) (marks : Bool) : State :=
  match p.info.existing, d.bufs[p.buf]? with
  | none, some m =>
    let (g, s) := s.newFree
    let s := s.writePicture d { p with serial := g, info := { p.info with lost := [] } } p.buf
    let pitch := bufPitch d.maxW d.depth
    let rows := bufRows d.maxH
    let e := if d.depth = 10 then 2 else 1
    let mark := fun (plane n : Nat) (s : State) => (List.range n).foldl (fun (s : State) y =>
      s.undefinePool d.pool (m.off + (plane * rows + y) * pitch) (p.info.w * e)) s
    if marks then mark 1 ((planeDims p.info 1).1) (mark 0 p.info.h s) else s
  | _, _ => s

/-! ### Records -/

/-- A DATA record is well formed (12 R418). -/
def State.auOk (s : State) (n : Nat) (b : DescBits) : Bool :=
  let fn := s.ctxFunc n
  let a := recAddr b 16
  let len := recNat b 4 4
  let boxes := recAddr b 32
  let nbox := recNat b 40 4
  recNat b 0 1 == 1 && decide (recNat b 1 1 < 8) && recNat b 2 2 == 0 && decide (1 ≤ len) &&
  decide (len ≤ 67108864) && (addrForm a == 0 || addrForm a == 2) && s.addrOk fn a len &&
  (boxes == 0 || (decide (addrForm boxes < 2) && s.addrOk fn boxes (max 1 (32 * nbox)) &&
    s.sramAllowed n boxes (32 * nbox))) &&
  decide (nbox ≤ 4096) && recZero b 44 64

/-- Some decoder core has EN = 1 and allows the context (12 R420, 02 R651). -/
def State.anyDecoder (s : State) (n : Nat) : Bool :=
  (List.range 4).any fun c => s.blockOn .dec c && s.ownerAllows .dec c n

def State.anyEncoder (s : State) (n : Nat) : Bool :=
  (List.range 2).any fun c => s.blockOn .enc c && s.ownerAllows .enc c n

/-- AU_REJECTED carries the status and the ring index (12 R445). -/
def State.rejectAu (s : State) (src n q : Nat) (r : AuRec) (st : Status) (result number : Nat) : State :=
  (s.raise src 0x2402 [.w st.code, .w r.pos.toNat] n).endAu n q r st result number

/-- TAPS_SKIPPED of a picture that no tap writes (12 R419). -/
def skippedBits (d : DecStream) : Nat := (d.taps.keys.map fun t => 2 ^ (4 + t % 4)).sum

/-- A record of decode stream `i` whose picture is not begun: it ends with `st`, counts among the others, and linked
encoders skip it (12 R419, R438, R442). -/
def State.dropAu (s : State) (i : Nat) (d : DecStream) (r : AuRec) (st : Status) : State :=
  ((s.setDec i { d with others := d.others + 1 }).skipLinked i (recNat r.bits 24 8) []).endAu d.ctx d.ring r st
    (skippedBits d) d.begun

/-- 12 R417, R418, R420: a DATA record, or a malformed one, is read from a bound ring. A record that ends at
once does so in ring order. -/
def execAuData (stream : Nat) (s : State) : Next :=
  match s.dec stream with
  | some d =>
    match s.ringEntry d.ctx d.ring d.drainTo with
    | none => .next s
    | some r =>
      if recNat r.bits 0 1 = 2 then .next s
      else
        let idle := d.queue.isEmpty && d.pic.isNone
        if ¬ s.auOk d.ctx r.bits then
          if idle then
            .next ((s.bumpHead d.ctx d.ring).rejectAu 0x4000 d.ctx d.ring r .invalidDescriptor (skippedBits d) d.begun)
          else .next s
        else if ¬ s.anyDecoder d.ctx then
          if idle then .next ((s.bumpHead d.ctx d.ring).dropAu stream d r .cancelled)
          else .next s
        else .next ((s.bumpHead d.ctx d.ring).setDec stream { d with queue := d.queue ++ [r] })
  | none =>
    match s.enc stream with
    | none => .next s
    | some e =>
      if e.param.linked then .next s
      else match s.ringEntry e.ctx e.param.ring e.drainTo with
        | none => .next s
        | some r =>
          let t := recNat r.bits 0 1
          if t = 2 ∨ t = 3 ∨ ¬ e.pics.isEmpty then .next s
          else .next ((s.bumpHead e.ctx e.param.ring).rejectAu (0x4010 + e.lastCore) e.ctx e.param.ring r
            .invalidDescriptor 0 0)

/-- An END record's reserved bytes and bits are zero. -/
def endOk (b : DescBits) : Bool :=
  decide (recNat b 1 1 < 8) && recNat b 2 2 == 0 && recNat b 4 4 == 0 && recZero b 44 64

/-- 12 R421, R437: an END record makes a decode stream wait for a random-access point, and an encode
stream's next picture an IDR picture. -/
def execAuEnd (stream : Nat) (s : State) : Next :=
  match s.dec stream with
  | some d =>
    match s.ringEntry d.ctx d.ring d.drainTo with
    | none => .next s
    | some r =>
      if recNat r.bits 0 1 ≠ 2 ∨ ¬ d.queue.isEmpty ∨ d.pic.isSome then .next s
      else
        let s := s.bumpHead d.ctx d.ring
        if ¬ endOk r.bits then .next (s.rejectAu 0x4000 d.ctx d.ring r .invalidDescriptor 0 d.begun)
        else .next ((s.enterWaiting stream 0).endAu d.ctx d.ring r .ok 0 d.begun)
  | none =>
    match s.enc stream with
    | none => .next s
    | some e =>
      if e.param.linked then .next s
      else match s.ringEntry e.ctx e.param.ring e.drainTo with
        | none => .next s
        | some r =>
          if recNat r.bits 0 1 ≠ 2 ∨ ¬ e.pics.isEmpty then .next s
          else
            let s := s.bumpHead e.ctx e.param.ring
            if ¬ endOk r.bits then
              .next (s.rejectAu (0x4010 + e.lastCore) e.ctx e.param.ring r .invalidDescriptor 0 0)
            else
              .next ((s.setEnc stream { e with wantIdr := true }).endAu e.ctx e.param.ring r .ok 0 0)

/-! ### Decoding -/

/-- The stream's next record may be dispatched. -/
def State.decReady (s : State) (core : Nat) (d : DecStream) : Bool :=
  !d.queue.isEmpty && d.pic.isNone && s.ownerAllows .dec core d.ctx && !s.ringBlocked d.ctx

/-- Order of 05 R171: rank, then the time at which the record was queued. -/
def State.decFirst (s : State) (core : Nat) (d : DecStream) : Bool :=
  match d.queue.head? with
  | none => false
  | some r => s.media.decs.all fun e =>
      !s.decReady core e.2 ||
      match e.2.queue.head? with
      | none => true
      | some q => !(decide (s.rank e.2.ctx < s.rank d.ctx) ||
          (s.rank e.2.ctx == s.rank d.ctx && decide (q.queuedAt < r.queuedAt)))

/-- The bit depths and chroma formats of a codec (12 R413); chroma 0 4:0:0, 1 4:2:0, 2 4:2:2, 3 4:4:4. -/
def codecDepths (codec : Nat) : List Nat := if codec = 0 ∨ codec = 2 then [8, 10] else [8]
def codecChromas (codec : Nat) : List Nat := if codec = 3 then [0, 1, 2, 3] else if codec = 2 then [0, 1] else [1]

/-- The picture lies outside the standards table or the stream's own limits (12 R413, R418). -/
def picBeyond (d : DecStream) (i : PicInfo) : Bool :=
  !i.supported || decide (d.maxW < i.w) || decide (d.maxH < i.h) || decide (d.depth < i.depth) ||
  !(codecDepths d.codec).contains i.depth || !(codecChromas d.codec).contains i.chroma.val ||
  (d.codec == 3 && (decide (16384 < i.w) || decide (16384 < i.h))) ||
  (d.codec != 3 && (decide (8192 < i.w) || decide (8192 < i.h) || decide (35651584 < i.w * i.h)))

/-- Numbers of the unused buffers. -/
def DecStream.unused (d : DecStream) : List Nat :=
  (List.range d.bufs.length).filter fun i => (d.bufs.getD i ⟨0, 0, 1⟩).mark == 0

/-- 12 R420 to R424, R428: a free decoder core takes the stream's next record. `pic` is what its headers
say. -/
def execDecodeDispatch (core : Fin 4) (stream : Nat) (pic : PicInfo) (s : State) : Next :=
  match s.dec stream with
  | none => .next s
  | some d0 =>
    if ¬ s.blockGoes .dec core ∨ s.frozen .dec core ∨ s.bit (ro .dec core 0x40) 0 ∨ ¬ s.decReady core d0 ∨
        ¬ s.decFirst core d0 ∨ ¬ d0.changes.isEmpty then .next s
    else
      match d0.queue with
      | [] => .next s
      | r :: rest =>
        let s := if recNat r.bits 1 1 / 4 % 2 = 1 then s.enterWaiting stream core else s
        let d := { (s.dec stream).getD d0 with queue := rest, begun := d0.begun + 1 }
        let number := d0.begun
        let src := 0x4000 + core.val
        let capture := recNat r.bits 24 8
        let undone := fun (s : State) =>
          (s.setDec stream { d with others := d.others + 1 }).skipLinked stream capture []
        let reject := fun (s : State) =>
          ((undone s).enterWaiting stream core).rejectAu src d.ctx d.ring r .limitRejected (skippedBits d) number
        let boxes := if d.taps.any fun e => e.2.cfg.boxes then 32 * recNat r.bits 40 4 else 0
        let s := (s.touchAt (recAddr r.bits 16) (recNat r.bits 4 4)).touchAt (recAddr r.bits 32) boxes
        let poisoned := fun (s : State) (l : Nat) =>
          ((undone (s.poisonEvent d.ctx l)).enterWaiting stream core).endAu d.ctx d.ring r .eccUncorrectable
            (skippedBits d) number
        let bad := (s.poisonAt (recAddr r.bits 16) (recNat r.bits 4 4)).or (s.poisonAt (recAddr r.bits 32) boxes)
        if bad.isSome then .next (poisoned s (bad.getD 0))
        else if picBeyond d pic then .next (reject s)
        else if (d.waiting && !pic.rap) || (d.skipRasl && pic.rasl) then
          .next ((undone s).endAu d.ctx d.ring r .ok (2 ^ 11 + skippedBits d) number)
        else
          let d := { d with waiting := false, skipRasl := d.waiting || (d.skipRasl && !pic.rap) }
          let age : Int := (BitVec.ofNat 64 s.gts - recAddr r.bits 24).toInt
          let stale := d.stale ≠ 0 ∧ (d.stale : Int) < age
          let s := if stale then s.raise src 0x1403 [.w (age.toNat / 1000)] d.ctx else s
          if stale ∧ ¬ pic.reference then
            .next ((undone s).endAu d.ctx d.ring r .staleDropped (skippedBits d) number)
          else
            let free := d.unused
            let need := pic.hidden.length + (if pic.existing.isSome then 0 else 1)
            if free.length < need then .next (reject s)
            else
              let serial := s.free
              let hidden := free.take pic.hidden.length
              let buf := pic.existing.getD (free.getD pic.hidden.length 0)
              let p : Picture :=
                { entry := r, core := core, info := pic, stale := stale, number := number, serial := serial,
                  hidden := hidden, buf := buf,
                  taps := if stale then [] else d.taps.map fun t => ⟨t.1, t.2.cfg, false, false, 0, 0⟩,
                  overrun := false, linked := [] }
              let s := { s with free := s.free + pic.hidden.length + 1 }
              let s := (s.writeUnshown d p).setDec stream { d with pic := some p }
              .next (((s.setFld (ro .dec core 0x40) 0 1 1).setFld (ro .dec core 0x40) 8 8 d.ctx).setFld
                (ro .dec core 0x40) 16 16 0)

/-- The core is free again. -/
def State.freeDecoder (s : State) (core : Nat) : State := s.wr (ro .dec core 0x40) 0xFF00

/-- Rows or boxes of a tap's picture. -/
def State.tapTotal (_s : State) (p : Picture) (t : TapCfg) : Nat :=
  if t.boxes then (if recNat p.entry.bits 32 8 = 0 then 0 else min t.maxBox (recNat p.entry.bits 40 4)) else t.outH

/-- 12 R419, R422, R428: the picture is decoded; `marks` are its stream's buffer marks from now on. -/
def execPictureDone (stream : Nat) (marks : List Nat) (s : State) : Next :=
  match s.dec stream with
  | none => .next s
  | some d =>
    match d.pic with
    | none => .next s
    | some p =>
      let ready := p.taps.all fun t => t.begun && (!t.writes || t.done == s.tapTotal p t.cfg)
      let capture := recNat p.entry.bits 24 8
      let fed := (s.linkedTo stream capture).all fun e => p.linked.contains e
      if ¬ ready ∨ ¬ fed ∨ s.frozen .dec p.core then .next s
      else
        let src := 0x4000 + p.core
        let s := if p.info.existing.isSome then s else s.writePicture d p p.buf
        let bit := fun (b : Bool) (n : Nat) => if b then 2 ^ n else 0
        let written := (p.taps.map fun t => bit t.writes (t.tap % 4)).sum
        let skipped := if p.stale then skippedBits d else (p.taps.map fun t => bit (!t.writes) (4 + t.tap % 4)).sum
        let concealed := !p.info.lost.isEmpty || p.info.hidden.any fun l => !l.lost.isEmpty
        let result := written + skipped + bit p.info.reference 8 + 2 ^ 9 + bit concealed 10 + bit p.overrun 12 +
          p.buf % 32 * 65536
        let bufs := (List.range d.bufs.length).map fun i =>
          let b := d.bufs.getD i ⟨0, 0, 0⟩
          { b with mark := (marks.getD i b.mark) % 3 }
        let taps := d.taps.map fun t =>
          if p.taps.any fun x => x.tap == t.1 && x.writes then (t.1, { t.2 with written := t.2.written + 1 }) else t
        let s := s.setDec stream { d with bufs := bufs, taps := taps, pic := none, decoded := d.decoded + 1 }
        let s := s.addSat (ro .dec p.core 0x44) 0 32 1
        let s := if concealed then
            (s.addSat (ro .dec p.core 0x48) 0 32 1).raise src 0x1400 [.w (s.mkHandle d.ctx stream)] d.ctx
          else s
        let frames := p.hidden.length + (if p.info.existing.isSome then 0 else 1)
        let s := s.addSat64 (ro .dec p.core 0x50) (frames * p.info.w * p.info.h)
        let s := s.freeDecoder p.core
        .next (s.endAu d.ctx d.ring p.entry (if p.stale then .staleDropped else .ok) result p.number)

/-! ### Taps -/

def State.setPicTap (s : State) (i : Nat) (d : DecStream) (p : Picture) (t : PicTap) : State :=
  s.setDec i { d with pic := some { p with taps := p.taps.map fun x => if x.tap = t.tap then t else x } }

/-- 12 R433, R435: a tap reads CREDIT and starts the picture, or skips it. -/
def execTapPictureStart (stream : Nat) (tap : Fin 4) (s : State) : Next :=
  match s.dec stream with
  | none => .next s
  | some d =>
    match d.pic with
    | none => .next s
    | some p =>
      match p.taps.find? fun t => t.tap == tap.val, d.taps.look? tap with
      | some t, some cur =>
        if t.begun then .next s
        else if ¬ s.blockGoes .ttb 0 then .next (s.setPicTap stream d p { t with begun := true })
        else if s.slotFree t.cfg cur.written then
          let s := s.progressStart t.cfg cur.written (recNat p.entry.bits 24 8)
          .next (s.setPicTap stream d p { t with begun := true, writes := true })
        else
          let s := s.setPicTap stream d { p with overrun := true } { t with begun := true }
          .next ((s.addSat (ro .ttb 0 0x44) 0 32 1).raise 0x4030 0x1430
            [.w (s.mkHandle d.ctx stream), .w tap] d.ctx)
      | _, _ => .next s

/-- Box `b` of a picture's detection records. -/
def State.picBox (s : State) (p : Picture) (b : Nat) : Box :=
  let a := recAddr p.entry.bits 32 + BitVec.ofNat 64 (32 * b)
  let w := fun o => BitVec.ofNat 32 (s.natAt (a + BitVec.ofNat 64 o) 4)
  ⟨w 0, w 4, w 8, w 12⟩

/-- Source rows that row or box `i` of a tap needs (12 R434). -/
def State.tapNeeds (s : State) (p : Picture) (t : TapCfg) (i : Nat) : Nat :=
  if t.boxes then
    let b := s.picBox p i
    if b.bad then 0
    else min p.info.h (f32FloorNat (f32Max 0 (f32Min (f32OfNat p.info.h) (f32Mul b.y2 t.sy))) + 1)
  else min p.info.h (tensorLine t i)

/-- Write row `i` (SCALE) or box `i` (BOXES) of a tap (12 R431 to R434). -/
def State.tapWrite (s : State) (d : DecStream) (p : Picture) (t : TapCfg) (written : Word) (i : Nat) : State :=
  let base := t.slot written
  let ch := fun c => (t.mul.getD c 0, t.add.getD c 0)
  if t.boxes then
    let b := s.picBox p i
    let at_ := base + BitVec.ofNat 64 (i * t.outH * t.outW * t.step)
    let v := fun c y x => f32OfInt (s.picSrc d p t c y x)
    (List.range t.outH).foldl (fun s' r =>
      s'.writeRow t at_ r fun c j =>
        if b.bad then 0
        else tapByte (cropValue (v c) b t.sx t.sy t.outH t.outW r j p.info.h p.info.w) (ch c).1 (ch c).2) s
  else s.writeRow t base i fun c j => tapByte (scaleValue t (s.picSrc d p t c) i j) (ch c).1 (ch c).2

/-- 12 R433, R434: a tap writes its next row or box once `ready` source rows are complete. -/
def execTapOutputRow (stream : Nat) (tap : Fin 4) (ready : Nat) (s : State) : Next :=
  match s.dec stream with
  | none => .next s
  | some d =>
    match d.pic with
    | none => .next s
    | some p =>
      match p.taps.find? fun t => t.tap == tap.val, d.taps.look? tap with
      | some t, some cur =>
        if ¬ t.writes ∨ s.tapTotal p t.cfg ≤ t.done ∨ p.info.h < ready ∨ s.frozen .ttb 0 ∨
            (p.info.existing.isNone ∧ ready < s.tapNeeds p t.cfg t.done) then .next s
        else
          let s1 := s.tapWrite d p t.cfg cur.written t.done
          let s1 := s1.progressDone t.cfg (t.done + 1)
          let bad := t.cfg.boxes && (s.picBox p t.done).bad
          let s1 := s1.setPicTap stream d p { t with done := t.done + 1, bad := t.bad + (if bad then 1 else 0) }
          let s1 := s1.addSat64 (ro .ttb 0 0x50) (t.cfg.outW * (if t.cfg.boxes then t.cfg.outH else 1))
          let s1 := s1.setFld (ro .dec p.core 0x40) 16 16 (ready / max 1 p.info.ctu)
          let s1 := if bad then s1.addSat (ro .ttb 0 0x48) 0 32 1 else s1
          let bads := t.bad + (if bad then 1 else 0)
          .next (if 0 < bads ∧ t.done + 1 = s.tapTotal p t.cfg then s1.raise 0x4030 0x0431 [.w bads] d.ctx else s1)
      | _, _ => .next s

/-! ### Encoding -/

/-- A source picture of an encoder: depth, and its samples by plane of a 4:2:0 picture. -/
structure EncSrc where
  depth : Nat
  smp : Nat → Nat → Nat → Nat

/-- W′ × H′: the output before rotation (12 R436). -/
def EncParam.dims (p : EncParam) : Nat × Nat := if p.rotate % 2 = 1 then (p.outH, p.outW) else (p.outW, p.outH)

/-- A plane sample after crop and scale, 8 bits (12 R437). -/
def encScaled (p : EncParam) (src : EncSrc) (plane y x : Nat) : Nat :=
  let h := if plane = 0 then 1 else 2
  let (w1, h1) := p.dims
  let t : TapCfg :=
    { boxes := false, colour := 2, matrix := 0, packed := false, outW := w1 / h, outH := h1 / h, x0 := p.x0 / h,
      y0 := p.y0 / h, cw := p.cw / h, ch := p.ch / h, dst := 0, slotBytes := 0, nslot := 1, pitch := 0, maxBox := 0,
      progress := 0, credit := 0, mul := [], add := [], sx := 0, sy := 0 }
  let v := scaleValue t (fun y x => (src.smp plane y x : Nat)) y x
  let v := f32Add (f32Mul v (if src.depth = 10 then 0x3E800000 else f32One)) f32Zero
  (clampInt 0 255 (((f32 v).toInt .rne).getD 0)).toNat

/-- A sample of the input picture after rotation and mirroring (12 R437). -/
def encInput (p : EncParam) (src : EncSrc) (plane y x : Nat) : Nat :=
  let h := if plane = 0 then 1 else 2
  let (w1, h1) := p.dims
  let w1 := w1 / h
  let h1 := h1 / h
  let x := if p.mirror then p.outW / h - 1 - x else x
  match p.rotate with
  | 0 => encScaled p src plane y x
  | 1 => encScaled p src plane (h1 - 1 - x) y
  | 2 => encScaled p src plane (h1 - 1 - y) (w1 - 1 - x)
  | _ => encScaled p src plane x (w1 - 1 - y)

/-- Write an input picture into buffer `b` of an encode stream. -/
def State.writeEncInput (s : State) (e : EncStream) (b : Nat) (src : EncSrc) : State :=
  match e.bufs[b]? with
  | none => s
  | some m =>
    let p := e.param
    let pitch := bufPitch p.outW 8
    let rows := bufRows p.outH
    let s := (List.range p.outH).foldl (fun s y =>
      s.poolStore e.pool (m.off + y * pitch)
        ((List.range p.outW).map fun x => BitVec.ofNat 8 (encInput p src 0 y x))) s
    (List.range (p.outH / 2)).foldl (fun s y =>
      s.poolStore e.pool (m.off + (rows + y) * pitch)
        ((List.range (p.outW / 2)).flatMap fun x =>
          [BitVec.ofNat 8 (encInput p src 1 y x), BitVec.ofNat 8 (encInput p src 2 y x)])) s

/-- Free encoder cores take waiting pictures, in the order of 05 R171. -/
def State.encStart (s : State) (core : Nat) : State :=
  if ¬ s.blockGoes .enc core ∨ s.bit (ro .enc core 0x40) 0 then s
  else
    let waiting := s.media.encs.filterMap fun e =>
      match e.2.pics.head? with
      | some p => if p.core.isNone ∧ s.ownerAllows .enc core e.2.ctx ∧ ¬ s.ringBlocked e.2.ctx then
          some (e.1, e.2, p) else none
      | none => none
    let first := (sortBy (fun a b => decide (s.rank a.2.1.ctx < s.rank b.2.1.ctx) ||
      (s.rank a.2.1.ctx == s.rank b.2.1.ctx && decide (a.2.2.queuedAt < b.2.2.queuedAt))) waiting).head?
    match first with
    | none => s
    | some (i, e, p) =>
      let s := s.setEnc i { e with pics := { p with core := some core } :: e.pics.drop 1, lastCore := core }
      (s.setFld (ro .enc core 0x40) 0 1 1).setFld (ro .enc core 0x40) 8 8 e.ctx

def State.encStartAll (s : State) : State := (s.encStart 0).encStart 1

/-- Add a picture to an encoder's input stage. -/
def State.encAdd (s : State) (i : Nat) (e : EncStream) (p : EncPic) (src : EncSrc) : State :=
  let buf := (lowestFree 2 (e.pics.map fun q => q.buf)).getD 0
  let s := s.writeEncInput e buf src
  (s.setEnc i { e with pics := e.pics ++ [{ p with buf := buf }] }).encStartAll

/-- A FRAME record is well formed (12 R437). -/
def State.frameRecOk (s : State) (n : Nat) (b : DescBits) : Bool :=
  let fn := s.ctxFunc n
  let a := recAddr b 16
  let c := recAddr b 32
  let w := recNat b 40 2
  let h := recNat b 42 2
  let pitch := recNat b 44 4
  decide (recNat b 1 1 < 8) && recNat b 2 2 == 0 && decide (1 ≤ recNat b 4 4) && decide (recNat b 4 4 ≤ 67108864) && recZero b 48 64 && decide (1 ≤ w) && decide (1 ≤ h) &&
  (addrForm a == 0 || addrForm a == 2) && (addrForm c == 0 || addrForm c == 2) &&
  s.addrOk fn a (max 1 (pitch * h)) && s.addrOk fn c (max 1 (pitch * (h / 2)))

/-- Bytes of a FRAME record's planes. -/
def lumaBytes (b : DescBits) : Nat := recNat b 44 4 * recNat b 42 2

def State.frameRead (s : State) (b : DescBits) : State :=
  (s.touchAt (recAddr b 16) (lumaBytes b)).touchAt (recAddr b 32) (lumaBytes b / 2)

def State.framePoison (s : State) (b : DescBits) : Option Nat :=
  (s.poisonAt (recAddr b 16) (lumaBytes b)).or (s.poisonAt (recAddr b 32) (lumaBytes b / 2))

/-- 12 R437: a FRAME record goes through the input stage into the encoder. -/
def execEncFrame (stream : Nat) (s : State) : Next :=
  match s.enc stream with
  | none => .next s
  | some e =>
    if e.param.linked then .next s
    else match s.ringEntry e.ctx e.param.ring e.drainTo with
      | none => .next s
      | some r =>
        if recNat r.bits 0 1 ≠ 3 then .next s
        else
          let q := e.param.ring
          if ¬ s.frameRecOk e.ctx r.bits ∨ ¬ s.anyEncoder e.ctx then
            if e.pics.isEmpty then
              let s1 := s.bumpHead e.ctx q
              .next (if s.frameRecOk e.ctx r.bits then
                  (s1.setEnc stream { e with others := e.others + 1 }).endAu e.ctx q r .cancelled 0 0
                else s1.rejectAu (0x4010 + e.lastCore) e.ctx q r .invalidDescriptor 0 0)
            else .next s
          else if 2 ≤ e.pics.length ∨ s.ringBlocked e.ctx then .next s
          else
            let s := s.frameRead r.bits
            match s.framePoison r.bits with
            | some l =>
              if e.pics.isEmpty then
                .next (((s.poisonEvent e.ctx l).bumpHead e.ctx q).setEnc stream { e with others := e.others + 1 }
                  |>.endAu e.ctx q r .eccUncorrectable 0 0)
              else .next s
            | none =>
            let pitch := recNat r.bits 44 4
            let src : EncSrc := ⟨8, fun plane y x =>
              if plane = 0 then s.natAt (recAddr r.bits 16 + BitVec.ofNat 64 (y * pitch + x)) 1
              else s.natAt (recAddr r.bits 32 + BitVec.ofNat 64 (y * pitch + 2 * x + (plane - 1))) 1⟩
            let p : EncPic :=
              { tag := recAddr r.bits 8, irq := recNat r.bits 1 1 % 2 == 1,
                quiet := recNat r.bits 1 1 / 2 % 2 == 1, pos := some r.pos, epoch := r.epoch,
                capture := recNat r.bits 24 8, buf := 0, core := none, queuedAt := s.gts,
                idr := recNat r.bits 1 1 / 4 % 2 == 1 }
            .next ((s.bumpHead e.ctx q).encAdd stream e p src)

/-- A picture of a linked source. -/
def State.linkedPic (s : State) (e : EncStream) (capture : Nat) : EncPic :=
  { tag := 0, irq := false, quiet := false, pos := none, epoch := s.ctxEpoch e.ctx, capture := capture,
    buf := 0, core := none, queuedAt := s.gts, idr := false }

/-- 12 R438: a linked encoder receives the picture in progress of its source, or skips it. -/
def execEncLinkedPicture (stream : Nat) (s : State) : Next :=
  match s.enc stream with
  | none => .next s
  | some e =>
    let i := handleIdx e.param.src
    if ¬ e.param.linked ∨ e.closing.isSome then .next s
    else
      match s.dec i with
      | some d =>
        match d.pic with
        | none => .next s
        | some p =>
          let cap := recNat p.entry.bits 24 8
          if p.linked.contains stream ∨ ¬ (s.linkedTo i cap).contains stream then .next s
          else
            let s1 := s.setDec i { d with pic := some { p with linked := p.linked ++ [stream] } }
            if 2 ≤ e.pics.length then .next (s1.encSkip stream true)
            else
              let src : EncSrc := ⟨p.info.depth, fun plane y x =>
                if plane = 0 then s.picSample d p 0 y x else s.picChroma d p plane (2 * y) (2 * x)⟩
              .next (s1.encAdd stream e (s.linkedPic e cap) src)
      | none =>
        match s.cam i with
        | none => .next s
        | some c =>
          match c.frames.find? fun f => f.dispatched && f.discard.isNone && f.yuvRows == c.p.height / 2 with
          | none => .next s
          | some f =>
            if f.linked.contains stream ∨ ¬ (s.linkedTo i f.gts).contains stream then .next s
            else
              let s1 := s.setFrame i { f with linked := f.linked ++ [stream] }
              if 2 ≤ e.pics.length then .next (s1.encSkip stream true)
              else
                let hdr := if 1 < c.p.exposures then 1 else 0
                let b := c.bufs.getD (hdr + f.number % max 1 c.p.nbuf) ⟨0, 0, 0⟩
                let pitch := bufPitch c.p.width 8
                let rows := bufRows c.p.height
                let src : EncSrc := ⟨8, fun plane y x =>
                  if plane = 0 then (s.poolByte c.pool (b.off + y * pitch + x)).toNat
                  else (s.poolByte c.pool (b.off + (rows + y) * pitch + 2 * x + (plane - 1))).toNat⟩
                .next (s1.encAdd stream e (s.linkedPic e f.gts) src)

/-- The encoder's core is free again, and the next waiting picture starts. -/
def State.freeEncoder (s : State) (core : Nat) : State :=
  ((s.setFld (ro .enc core 0x40) 0 1 0).setFld (ro .enc core 0x40) 8 8 0xFF).encStartAll

/-- The completion record of an encoded picture (12 R441). -/
def State.encRecord (s : State) (e : EncStream) (p : EncPic) (st : Status) (result result2 : Nat) : State :=
  s.endRecord e.ctx (if e.param.linked then e.openSq else e.param.ring) p.pos e.count p.epoch p.tag p.irq p.quiet
    st result result2

/-- Luma of the input picture in buffer `b`. -/
def State.encLuma (s : State) (e : EncStream) (b y x : Nat) : Nat :=
  match e.bufs[b]? with
  | some m => (s.poolByte e.pool (m.off + y * bufPitch e.param.outW 8 + x)).toNat
  | none => 0

/-- All samples of the input picture in buffer `b`: luma rows, then the rows of interleaved chroma. -/
def State.encSamples (s : State) (e : EncStream) (b : Nat) : List Int :=
  let p := e.param
  let rows := (List.range p.outH) ++ (List.range (p.outH / 2)).map fun y => bufRows p.outH + y
  rows.flatMap fun y => (List.range p.outW).map fun x => (s.encLuma e b y x : Int)

/-- The picture is coded as an IDR picture: the first, every GOP-th after it, and one that follows an END, a DISCONT, a
rejected access unit or a stopped picture (12 R437, R439, R443). -/
def EncStream.isIdr (e : EncStream) (p : EncPic) : Bool := e.wantIdr || p.idr || e.count % max 1 e.param.gop == 0

/-- The picture's QP (12 R439): under CBR and VBR, after the first picture, rate control's own choice. -/
def EncStream.qpOf (e : EncStream) (idr : Bool) : Nat :=
  if e.param.rc = 0 then (if idr then e.param.qp else min 51 (e.param.qp + 2))
  else if e.count = 0 then e.param.qp else Config.rateQp e.hist

/-- The history after picture `p`, and its vectors. -/
def State.encCode (s : State) (e : EncStream) (p : EncPic) : Nat × List Vec :=
  let idr := e.isIdr p
  let vs := if idr then [] else motionSearch e.hist e.param.outH e.param.outW (s.encLuma e p.buf) e.vectors
  (Config.encNext e.hist ([if idr then 1 else 0, (e.qpOf idr : Int)] ++ vs.flatMap (fun v => [v.1, v.2]) ++ s.encSamples e p.buf), vs)

/-- Access units of the second of capture time that ends with time `g`. -/
def EncStream.lastSecond (e : EncStream) (g : Nat) : List (Nat × Nat) :=
  e.recent.filter fun r => decide (g < r.1 + 1000000000)

/-- VBR keeps each second of capture time at or below KBPS (12 R439). -/
def EncStream.rateAllows (e : EncStream) (g size : Nat) : Bool :=
  e.param.rc != 2 || decide (((e.lastSecond g).map Prod.snd).sum + size ≤ e.param.kbps * 125)

/-- 12 R439 to R441: an access unit of `size` bytes is encoded and written to OUT. -/
def execEncPictureDone (stream : Nat) (size : Nat) (s : State) : Next :=
  match s.enc stream with
  | none => .next s
  | some e =>
    match e.pics with
    | [] => .next s
    | p :: rest =>
      match p.core with
      | none => .next s
      | some core =>
        if ¬ s.blockGoes .enc core ∨ s.frozen .enc core ∨ ¬ e.rateAllows p.capture size then .next s
        else
          let (hist, vs) := s.encCode e p
          let e1 := { e with pics := rest, count := e.count + 1, hist := hist, vectors := vs }
          if e.param.outBytes < 2 * size then
            let s := s.setEnc stream { e1 with wantIdr := true, others := e.others + 1 }
            let s := s.raise (0x4010 + core) 0x1410 [.w size] e.ctx
            .next ((s.encRecord e p .limitRejected 0 0).freeEncoder core)
          else
            let off := if e.param.outBytes < e.outPos + size then 0 else e.outPos
            let s := s.storeAt (e.param.out + BitVec.ofNat 64 off)
              ((List.range size).map fun i => Config.encodedByte hist i)
            let s := s.setEnc stream { e1 with
              outPos := off + size, wantIdr := false, encoded := e.encoded + 1,
              recent := e.lastSecond p.capture ++ [(p.capture, size)] }
            let s := (s.addSat (ro .enc core 0x44) 0 32 1).addSat64 (ro .enc core 0x50) size
            .next ((s.encRecord e p .ok size off).freeEncoder core)

end Sys2Proof.Machine
end

