-- ==== Sys2Proof/Machine/Streams.lean ====
section
/-! DEFINITION. The descriptors STREAM_OPEN, STREAM_TAP and STREAM_CLOSE (04 R133, 12 R415 to R442, 13 R451 to
R453). -/

namespace Sys2Proof.Machine

def boolSt (l : List (Bool × Status)) : Option Status := firstStatus l

/-- AU_RING of a new stream: exists, is not the opening ring, is bound to no stream and is empty (12 R416). -/
def State.auRingOk (s : State) (n openSq q : Nat) : Bool :=
  decide (q ≤ s.fld (cr n 0x4C) 0 2) && q != openSq && (s.boundStream n q).isNone &&
  s.sqDone n q == (s.ctx n).tails.look 0 q

/-- The PARAM block of a descriptor. -/
def State.param (s : State) (d : Desc) (addrOff len : Nat) : List Byte := s.loadAt (d.addr addrOff) len

/-- Checks of KINDs 0 and 2 (12 R415, R416, 02 R651). -/
def State.decCheck (s : State) (d : Desc) : Option Status :=
  let n := d.ctx
  let fn := s.ctxFunc n
  let kind := d.nat 16 1
  let codec := d.nat 18 1
  let b := s.param d 32 64
  let depth := fieldOf b 1 1
  let refs := fieldOf b 2 1
  let top := if codec = 3 then 16384 else 8192
  let dim := fun o => decide (16 ≤ fieldOf b o 2) && decide (fieldOf b o 2 ≤ top)
  boolSt [
    (d.nat 17 1 != 0xFF || !(if kind = 0 then decide (codec ≤ 2) else codec == 3) ||
      !s.poolUsable (d.nat 20 4) 3 fn || d.nat 40 4 != 64 || !s.addrOk fn (d.addr 32) 64 ||
      !((List.range 4).any fun c => s.ownerAllows .dec c n), .invalidDescriptor),
    (!zeroBytes b 3 4 || !zeroBytes b 8 64 || !s.auRingOk n d.sq (fieldOf b 0 1), .invalidDescriptor),
    (!((depth == 8) || (depth == 10 && codec != 1 && codec != 3)) ||
      !(if codec = 3 then refs == 0 else decide (1 ≤ refs) && decide (refs ≤ if codec = 2 then 8 else 16)) ||
      !dim 4 || !dim 6 || decide (256 ≤ s.media.decs.length), .limitRejected)]

/-- Checks of KIND 1 (12 R415, R436). -/
def State.encCheck (s : State) (d : Desc) : Option Status :=
  let n := d.ctx
  let fn := s.ctxFunc n
  let b := s.param d 32 64
  let p := encParamOf b
  let src := handleIdx p.src
  let srcOk :=
    match s.dec src with
    | some x => x.ctx == n && x.closing.isNone
    | none => match s.cam src with
      | some c => c.ctx == n && c.closing.isNone && c.p.yuv
      | none => false
  let (w1, h1) := p.dims
  let ratio := fun (c o : Nat) => decide (o ≤ 2 * c) && decide (c ≤ 8 * o)
  let even := fun x => x % 2 == 0
  boolSt [
    (d.nat 17 1 != 0xFF || decide (1 < d.nat 18 1) || !s.poolUsable (d.nat 20 4) 3 fn || d.nat 40 4 != 64 ||
      !s.addrOk fn (d.addr 32) 64 || !((List.range 2).any fun c => s.ownerAllows .enc c n), .invalidDescriptor),
    (!zeroBytes b 28 32 || !zeroBytes b 44 48 ||
      !((addrForm p.out == 0 || addrForm p.out == 2) && s.addrOk fn p.out (max 1 p.outBytes)), .invalidDescriptor),
    (p.linked && !s.handleEpochOk n p.src, .epochStale),
    ((p.linked && !srcOk) || (p.linked && p.ring != 0xFF) || (!p.linked && !s.auRingOk n d.sq p.ring),
      .invalidDescriptor),
    (decide (1 < fieldOf b 1 1) || decide (3 < p.rotate) || decide (1 < fieldOf b 3 1) ||
      decide (p.outW < 16) || decide (4096 < p.outW) || decide (p.outH < 16) || decide (2304 < p.outH) ||
      !even p.outW || !even p.outH || !even p.x0 || !even p.y0 || !even p.cw || !even p.ch || p.gop == 0 ||
      decide (2 < p.rc) || decide (51 < p.qp) ||
      (p.rc != 0 && (decide (p.kbps < 16) || decide (200000 < p.kbps))) || p.outBytes % 4096 != 0 ||
      decide (p.outBytes < 0x100000) || !ratio p.cw w1 || !ratio p.ch h1 || decide (64 ≤ s.media.encs.length),
      .limitRejected)]

/-- Checks of KIND 3 (13 R451 to R453). -/
def State.camCheck (s : State) (d : Desc) : Option Status :=
  let n := d.ctx
  let fn := s.ctxFunc n
  let port := d.nat 17 1
  let b := s.param d 32 128
  let p := camParamOf d b
  let dtOk := fun e =>
    let t := p.dts.getD e 0
    (rawBits t).isSome || (t == 0x1E && p.exposures == 1)
  let dim := fun x => decide (16 ≤ x) && decide (x ≤ 8192) && x % 2 == 0
  boolSt [
    (d.nat 18 1 != 0 || decide (7 < port) || !s.poolUsable (d.nat 20 4) 3 fn || d.nat 40 4 != 128 ||
      !s.addrOk fn (d.addr 32) 128 || s.portState port != pIdle || !s.blockOn .csi port || !s.blockOn .isp port ||
      !s.ownerAllows .csi port n || !s.ownerAllows .isp port n || s.fld (ro .csi port 0x40) 19 13 == 0,
      .invalidDescriptor),
    (!zeroBytes b 11 12 || !zeroBytes b 15 16 || !zeroBytes b 109 128 || (!p.tensor && !zeroBytes b 40 108) ||
      (p.embVc != 0xFF && !s.localAddr n p.embBuf (max 1 (p.embLines * p.width))) ||
      (p.tensor && !s.tapAddrOk n p.tap) || !s.ispRegionOk p.table p.width p.height, .invalidDescriptor),
    (decide (p.exposures < 1) || decide (3 < p.exposures) || decide (4 < p.cfa) ||
      decide (fieldOf b 2 1 < 1) || decide (3 < fieldOf b 2 1) || decide (1 < fieldOf b 3 1) || !dim p.width ||
      !dim p.height || !((List.range p.exposures).all fun e => decide (p.vcs.getD e 0 ≤ 15) && dtOk e) ||
      (p.embVc != 0xFF && (decide (15 < p.embVc) || decide (p.embLines < 1) || decide (16 < p.embLines))) ||
      decide (1024 < p.hdrLag) || decide (p.frameUs < 1000) || decide (1000000 < p.frameUs) ||
      (p.tensor && !p.tap.inRange p.width p.height 8192) ||
      (if p.yuv then decide (p.nbuf < 2) || decide (4 < p.nbuf) else p.nbuf != 0), .limitRejected)]

/-- The checks of STREAM_OPEN. -/
def State.openCheck (s : State) (d : Desc) : Option Status :=
  match d.nat 16 1 with
  | 0 => s.decCheck d
  | 2 => s.decCheck d
  | 1 => s.encCheck d
  | 3 => s.camCheck d
  | _ => some .invalidDescriptor

/-- A decode stream opens and waits for a random-access point (12 R416, R421, R426). -/
def State.openDec (s : State) (d : Desc) : State :=
  let b := s.param d 32 64
  let codec := d.nat 18 1
  let maxW := fieldOf b 4 2
  let maxH := fieldOf b 6 2
  let depth := fieldOf b 1 1
  let size := if codec = 3 then jpegBufBytes maxW maxH else videoBufBytes maxW maxH depth
  s.reserve d (d.nat 20 4) (List.replicate (fieldOf b 2 1 + 1) size) fun s bufs =>
    let i := s.newStream
    let st : DecStream :=
      { ctx := d.ctx, ring := fieldOf b 0 1, codec := codec, depth := depth, maxW := maxW, maxH := maxH,
        pool := d.nat 20 4, stale := d.nat 24 8, bufs := bufs, taps := [], changes := [], queue := [],
        pic := none, begun := 0, decoded := 0, others := 0, waiting := false, skipRasl := false,
        closing := none, drainTo := none }
    let s := (s.setDec i st).countMedia
    let s := if codec = 3 then s else s.enterWaiting i 0
    s.complete d .ok (s.mkHandle d.ctx i) 0

/-- An encode stream opens (12 R426, R436). -/
def State.openEnc (s : State) (d : Desc) : State :=
  let p := encParamOf (s.param d 32 64)
  s.reserve d (d.nat 20 4) (List.replicate 4 (videoBufBytes p.outW p.outH 8)) fun s bufs =>
    let i := s.newStream
    let st : EncStream :=
      { ctx := d.ctx, openSq := d.sq, codec := d.nat 18 1, pool := d.nat 20 4, param := p, bufs := bufs,
        queue := [], pics := [], count := 0, encoded := 0, others := 0, wantIdr := true,
        hist := Config.encStart [d.nat 18 1, p.rotate, if p.mirror then 1 else 0, p.outW, p.outH, p.x0, p.y0, p.cw, p.ch, p.gop, p.rc,
          p.qp, p.kbps], vectors := [], recent := [], outPos := 0, lastCore := 0, closing := none, drainTo := none }
    let s := (s.setEnc i st).countMedia
    s.complete d .ok (s.mkHandle d.ctx i) 0

/-- A camera stream opens and its port is ARMED; a camera that is absent is lost at once (13 R451, R453, R468). -/
def State.openCam (s : State) (d : Desc) : State :=
  let p := camParamOf d (s.param d 32 128)
  let hdr := if 1 < p.exposures then
      [up64k ((p.exposures - 1) * (p.hdrLag + 1) * p.width * 4)] else []
  s.reserve d (d.nat 20 4) (hdr ++ List.replicate p.nbuf (videoBufBytes p.width p.height 8)) fun s bufs =>
    let i := s.newStream
    let st : CamStream :=
      { ctx := d.ctx, sq := d.sq, pool := d.nat 20 4, p := p, bufs := bufs, frames := [], begun := 0,
        okCount := 0, others := 0, written := 0, checked := [], openedAt := s.now, deskewLogged := false,
        presentLogged := false, closing := none }
    let s := (s.setCam i st).countMedia
    let s := ((s.setPortState p.port pArmed).setFld (ro .csi p.port 0x44) 8 8 d.ctx).setFld
      (ro .isp p.port 0x40) 8 8 d.ctx
    let s := s.setPort p.port { s.port p.port with lastSot := s.now }
    let s := s.complete d .ok (s.mkHandle d.ctx i) 0
    let present := s.bit (ro .csi p.port 0x44) 4 != s.bit (ro .csi p.port 0x48) 1
    if s.bit (ro .csi p.port 0x48) 0 ∧ ¬ present then s.camLoss p.port 0 else s

/-- 12 R415, 13 R451: STREAM_OPEN. -/
def execStreamOpen (ctx : Fin 256) (sq : Fin 4) (s : State) : Next :=
  .next (s.take ctx sq 0x0A State.openCheck fun s d =>
    if d.nat 16 1 = 1 then s.openEnc d else if d.nat 16 1 = 3 then s.openCam d else s.openDec d)

/-! ### Taps -/

/-- Taps of a stream once its waiting changes have been applied. -/
def DecStream.tapsAfter (d : DecStream) : List Nat :=
  d.changes.foldl (fun l c => match c.cfg with
    | some _ => if l.contains c.tap then l else l ++ [c.tap]
    | none => l.filter (· != c.tap)) d.taps.keys

/-- The open stream of a handle in context `n`. -/
def State.decHandle (s : State) (n h : Nat) : Option DecStream :=
  match s.dec (handleIdx h) with
  | some d => if d.ctx = n ∧ d.closing.isNone then some d else none
  | none => none

/-- The handle names an open encode or camera stream of the context. -/
def State.otherHandle (s : State) (n h : Nat) : Bool :=
  (s.enc (handleIdx h)).any (fun e => e.ctx == n && e.closing.isNone) ||
  (s.cam (handleIdx h)).any fun e => e.ctx == n && e.closing.isNone

/-- The checks of STREAM_TAP (12 R429) in the order of 04 R134: forbidden addresses and reserved bytes, the handle's
epoch, what the handle names, and the ranges. -/
def State.tapCheck (s : State) (d : Desc) : Option Status :=
  let n := d.ctx
  let op := d.nat 17 1
  let len := d.nat 32 4
  let tap := d.nat 16 1
  let b := s.param d 24 96
  let t := tapOf b
  let stream := s.decHandle n d.target
  let inUse := stream.any fun st => st.tapsAfter.contains tap
  let max := stream.map fun st => (st.maxW, st.maxH)
  boolSt [
    (op != 1 && (!s.addrOk (s.ctxFunc n) (d.addr 24) (if len = 96 then 96 else 1) ||
      (len == 96 && (!zeroBytes b 80 96 || !s.tapAddrOk n t))), .invalidDescriptor),
    (!s.handleEpochOk n d.target, .epochStale),
    (stream.isNone || (op == 0 && inUse) || ((op == 1 || op == 2) && !inUse && decide (tap < 4)) ||
      len != (if op = 1 then 0 else 96), .invalidDescriptor),
    (decide (3 < tap) || decide (2 < op) ||
      (op != 1 && (decide (1 < fieldOf b 0 1) || decide (1 < fieldOf b 3 1) ||
        !max.any fun m => t.inRange m.1 m.2 (if t.boxes then 256 else 16384))), .limitRejected)]

/-- The first waiting tap change of a stream takes effect, unless a picture is in progress (12 R435). -/
def State.applyTap (s : State) (i : Nat) : State :=
  match s.dec i with
  | none => s
  | some d =>
    match d.pic, d.changes with
    | none, c :: rest =>
      let taps := match c.cfg with
        | some t => d.taps.put c.tap ⟨t, 0⟩
        | none => d.taps.del c.tap
      ((s.setDec i { d with taps := taps, changes := rest }).countMedia).complete c.desc .ok 0 0
    | _, _ => s

/-- 12 R429, R435: STREAM_TAP is checked; it takes effect at once, or waits for a picture boundary. -/
def execStreamTap (ctx : Fin 256) (sq : Fin 4) (s : State) : Next :=
  .next (s.take ctx sq 0x0B State.tapCheck fun s d =>
    match s.decHandle d.ctx d.target with
    | none => s
    | some st =>
      let cfg := if d.nat 17 1 = 1 then none else some (tapOf (s.param d 24 96))
      (s.setDec (handleIdx d.target) { st with changes := st.changes ++ [⟨d, d.nat 16 1, cfg⟩] }).applyTap
        (handleIdx d.target))

/-- 12 R435: the first waiting tap change of a stream takes effect between pictures. -/
def execTapChangeApplied (stream : Nat) (s : State) : Next := .next (s.applyTap stream)

/-! ### Closing -/

/-- The checks of STREAM_CLOSE. -/
def State.closeCheck (s : State) (d : Desc) : Option Status :=
  let opened := (s.decHandle d.ctx d.target).isSome || s.otherHandle d.ctx d.target
  boolSt [(!s.handleEpochOk d.ctx d.target, .epochStale), (!opened, .invalidDescriptor),
    (decide (1 < d.nat 16 1), .limitRejected)]

/-- Records of a bound ring that have been announced and not read end with CANCELLED; those of TYPE `pic` are counted as
pictures (12 R442). -/
def State.cancelRing (s : State) (n q : Nat) (pic result result2 : Nat) (fuel count : Nat) : State × Nat :=
  match fuel with
  | 0 => (s, count)
  | fuel + 1 =>
    match s.ringEntry n q none with
    | none => (s, count)
    | some r =>
      let k := if recNat r.bits 0 1 = pic then 1 else 0
      ((s.bumpHead n q).endAu n q r .cancelled (result * k) result2).cancelRing n q pic result result2 fuel (count + k)

/-- Changes of taps that wait when the stream closes complete as cancelled. -/
def State.cancelChanges (s : State) (d : DecStream) : State :=
  d.changes.foldl (fun s c => s.complete c.desc .cancelled 0 0) s

/-- Stop the picture in progress of a decode stream with a status (12 R442, R443). -/
def State.stopPicture (s : State) (i : Nat) (st : Status) : State :=
  match s.dec i with
  | none => s
  | some d =>
    match d.pic with
    | none => s
    | some p =>
      let wrote := fun (t : PicTap) => t.writes && t.done == s.tapTotal p t.cfg
      let bit := fun (b : Bool) (n : Nat) => if b then 2 ^ n else 0
      let took := if p.stale then skippedBits d
        else (p.taps.map fun t => if wrote t then 2 ^ (t.tap % 4) else 2 ^ (4 + t.tap % 4)).sum
      let result := took + bit p.info.reference 8 + bit p.overrun 12 + p.buf % 32 * 65536
      let taps := d.taps.map fun t =>
        if p.taps.any fun x => x.tap == t.1 && wrote x then (t.1, { t.2 with written := t.2.written + 1 }) else t
      let s := s.undefinePicture d p (decide (st = .aborted))
      let s := (s.setDec i { d with pic := none, taps := taps, others := d.others + 1 }).freeDecoder p.core
      let s := s.skipLinked i (recNat p.entry.bits 24 8) p.linked
      (s.endAu d.ctx d.ring p.entry st result p.number).enterWaiting i p.core

/-- Stop an encoder's picture in progress with a status; the next one is an IDR picture (12 R443). -/
def State.stopEncode (s : State) (i : Nat) (st : Status) : State :=
  match s.enc i with
  | none => s
  | some e =>
    match e.pics with
    | [] => s
    | p :: rest =>
      let s := s.setEnc i { e with pics := rest, wantIdr := true, others := e.others + 1, count := e.count + 1 }
      let s := s.encRecord e p st 0 0
      match p.core with
      | some c => s.freeEncoder c
      | none => s

/-- An abort of a decode stream: the picture ABORTED, the remaining records CANCELLED (12 R442). -/
def State.abortDec (s : State) (i : Nat) : State :=
  match s.dec i with
  | none => s
  | some d0 =>
    let s := s.stopPicture i .aborted
    let s := d0.queue.foldl (fun s r => match s.dec i with
      | some d => s.dropAu i d r .cancelled
      | none => s) s
    match s.dec i with
    | none => s
    | some d =>
      let (s, k) := s.cancelRing d.ctx d.ring 1 (skippedBits d) d.begun 0x10000 0
      (s.setDec i { d with queue := [], changes := [], others := d.others + k }).cancelChanges d

/-- An abort of an encode stream: the picture on a core ABORTED, waiting ones and remaining records CANCELLED. -/
def State.abortEnc (s : State) (i : Nat) : State :=
  match s.enc i with
  | none => s
  | some e0 =>
    let s := e0.pics.foldl (fun (s : State) p => s.stopEncode i (if p.core.isSome then .aborted else .cancelled)) s
    if e0.param.linked then s
    else
      let (s, k) := s.cancelRing e0.ctx e0.param.ring 3 0 0 0x10000 0
      match s.enc i with
      | none => s
      | some e => s.setEnc i { e with others := e.others + k }

/-- An abort of a camera stream: frames in progress end with ABORTED. -/
def State.abortCam (s : State) (i : Nat) : State :=
  match s.cam i with
  | none => s
  | some c => c.frames.foldl (fun s f => s.endFrame i f 0x02) s

/-- Mark a stream as closing by descriptor `d`: records announced from now on are not read. -/
def State.markClosing (s : State) (i : Nat) (d : Desc) : State :=
  let tail := fun q => some ((s.ctx d.ctx).tails.look 0 q)
  match s.dec i with
  | some x => s.setDec i { x with closing := some d, drainTo := tail x.ring }
  | none => match s.enc i with
    | some x => s.setEnc i { x with closing := some d, drainTo := tail x.param.ring }
    | none => match s.cam i with
      | some x => s.setCam i { x with closing := some d }
      | none => s

/-- Whether the next descriptor of a ring is a STREAM_CLOSE with MODE 1. -/
def State.closeMode (s : State) (n q : Nat) : Option Nat :=
  match s.nextDesc n q with
  | some d => if d.cls = 0x0C then some (d.nat 16 1) else none
  | none => none

/-- 12 R442: STREAM_CLOSE with MODE 0, or one that its checks refuse. -/
def execStreamCloseDrain (ctx : Fin 256) (sq : Fin 4) (s : State) : Next :=
  if s.closeMode ctx sq = some 1 then .next s
  else .next (s.take ctx sq 0x0C State.closeCheck fun s d => s.markClosing (handleIdx d.target) d)

/-- 12 R442: STREAM_CLOSE with MODE 1. -/
def execStreamCloseAbort (ctx : Fin 256) (sq : Fin 4) (s : State) : Next :=
  if s.closeMode ctx sq = some 1 then
    .next (s.take ctx sq 0x0C State.closeCheck fun s d =>
      let i := handleIdx d.target
      (((s.markClosing i d).abortDec i).abortEnc i).abortCam i)
  else .next s

/-- The ring of a closed stream is a descriptor ring again, its DONE count equal to its tail (12 R442). -/
def State.unbindRing (s : State) (n q : Nat) : State :=
  let t := (s.ctx n).tails.look 0 q
  (s.wr (cr n (0x5C + q * 0x10)) t).wr (cr n (0xB0 + q * 4)) t

/-- Remove a stream's tables and free what it reserved. -/
def State.dropStream (s : State) (i : Nat) : State :=
  { s with media := { s.media with
      decs := s.media.decs.del i, encs := s.media.encs.del i, cams := s.media.cams.del i } }.countMedia

/-- The end-of-sequence NAL unit that a drained encode stream appends (12 R442): HEVC nal_unit_type 36, H.264
nal_unit_type 10. -/
def eosNal (codec : Nat) : List Byte := if codec = 0 then [0, 0, 1, 0x48, 0x01] else [0, 0, 1, 0x0A]

/-- Release a decode stream. -/
def State.releaseDec (s : State) (i : Nat) (d : DecStream) : State := (s.unbindRing d.ctx d.ring).dropStream i

def State.releaseEnc (s : State) (i : Nat) (e : EncStream) : State :=
  (if e.param.linked then s else s.unbindRing e.ctx e.param.ring).dropStream i

def State.releaseCam (s : State) (i : Nat) (c : CamStream) : State :=
  let s := (s.setPortState c.p.port pIdle).setFld (ro .csi c.p.port 0x44) 8 8 0xFF
  ((s.setFld (ro .isp c.p.port 0x40) 8 8 0xFF).dropStream i)

/-- 12 R442: the stream's last record has been written; its taps are detached, its buffers released and its
ring returned to descriptor use. -/
def execStreamCloseDone (stream : Nat) (s : State) : Next :=
  match s.dec stream with
  | some d =>
    match d.closing with
    | none => .next s
    | some desc =>
      if d.queue.isEmpty ∧ d.pic.isNone ∧ (s.ringEntry d.ctx d.ring d.drainTo).isNone ∧
          s.sqDone d.ctx d.ring = s.sqHead d.ctx d.ring then
        .next (((s.cancelChanges d).releaseDec stream d).complete desc .ok d.decoded d.others)
      else .next s
  | none =>
    match s.enc stream with
    | some e =>
      match e.closing with
      | none => .next s
      | some desc =>
        let idle := e.pics.isEmpty && (e.param.linked || ((s.ringEntry e.ctx e.param.ring e.drainTo).isNone &&
          s.sqDone e.ctx e.param.ring == s.sqHead e.ctx e.param.ring))
        if ¬ idle then .next s
        else
          let eos := eosNal e.codec
          let off := if e.param.outBytes < e.outPos + eos.length then 0 else e.outPos
          let s := if desc.nat 16 1 = 0 ∧ 0 < e.encoded then s.storeAt (e.param.out + BitVec.ofNat 64 off) eos else s
          .next ((s.releaseEnc stream e).complete desc .ok e.encoded e.others)
    | none =>
      match s.cam stream with
      | some c =>
        match c.closing with
        | none => .next s
        | some desc =>
          if c.frames.isEmpty then .next ((s.releaseCam stream c).complete desc .ok c.okCount c.others)
          else .next s
      | none => .next s

end Sys2Proof.Machine
end

