-- ==== Sys2Proof/Machine/Power.lean ====
section
/-! DEFINITION. The latency contract, power states, clocks and heat (17), and the GPIO pins (20 R633). -/

namespace Sys2Proof.Machine

def pwrA (o : Nat) : Nat := ro .pwr 0 o
def thA (o : Nat) : Nat := ro .therm 0 o

def State.withPwr (s : State) (f : Power → Power) : State := { s with pwr := f s.pwr }

/-! ### The effective tolerance (17 R556, R557, R562) -/

/-- The GTS that a WAIT_GTS waits for (04 R133). -/
def Desc.waitTarget (d : Desc) : Nat :=
  if d.nat 24 1 = 1 then d.startedAt + d.nat 16 8 else d.nat 16 8

/-- A WAIT_GTS that waits. -/
def Desc.waitsGts (d : Desc) : Bool := d.cls == 0x05 && d.started && !d.ending

/-- A descriptor or record that a doorbell has announced has not completed (17 R556). -/
def State.hasPending (s : State) (n : Nat) : Bool :=
  (List.range 4).any fun q => (s.ctx n).tails.look 0 q != s.sqDone n q

/-- The context has an armed stream or an open scan job (13 R454, 14 R486). -/
def State.hasArmed (s : State) (n : Nat) : Bool :=
  (s.media.cams.any fun e =>
    e.2.ctx == n && (s.portState e.2.p.port == pArmed || s.portState e.2.p.port == pStreaming)) ||
  s.scan.job.any fun j => j.desc.ctx == n

/-- Less than HOLD_MS has passed since a write of the context's LAT_TOL took effect (17 R556). -/
def State.tolHeld (s : State) (n : Nat) : Bool :=
  (s.ctx n).tolWrittenAt.any fun t => decide (s.gts < t + s.fld (pwrA 0x44) 24 8 * 1000000)

/-- The context counts towards the effective tolerance (17 R556). -/
def State.counts (s : State) (n : Nat) : Bool :=
  s.ctxState n != stFree && (s.hasPending n || s.hasArmed n || s.tolHeld n)

def State.latTol (s : State) (n : Nat) : Nat := (s.rd (cr n 0x48)).toNat

/-- PWR.EFF_TOL (17 R557). -/
def State.effTol (s : State) : Nat :=
  ((List.range 256).filter s.counts).foldl (fun m n => min m (s.latTol n)) (s.rd (pwrA 0x48)).toNat

/-- The context counts through waiting WAIT_GTS descriptors only (17 R562). What stands behind one in its ring
waits with it (04 R144). -/
def State.onlyWaits (s : State) (n : Nat) : Bool :=
  let c := s.ctx n
  !s.hasArmed n && !s.tolHeld n &&
  (List.range 4).all fun q =>
    let place := fun (d : Desc) => (d.pos - s.sqDone n q).toNat
    c.tails.look 0 q == s.sqDone n q ||
      c.descs.any fun w => w.sq == q && w.waitsGts &&
        c.descs.all fun d => d.sq != q || decide (place w ≤ place d)

/-- Targets of all waiting WAIT_GTS descriptors, and WAKE_GTS. -/
def State.wakeTimes (s : State) : List Nat :=
  ((List.range 256).flatMap fun n => ((s.ctx n).descs.filter Desc.waitsGts).map Desc.waitTarget) ++
  (if s.rd64 (pwrA 0x70) = 0 then [] else [(s.rd64 (pwrA 0x70)).toNat])

def minNat? (l : List Nat) : Option Nat :=
  match l with
  | [] => none
  | x :: r => some (r.foldl min x)

/-- PWR.IDLE_EST in µs (17 R562); the register shows it at the moment of the read, as the example of 17 does. -/
def State.idleEst (s : State) : Nat :=
  let avg := (s.rd (pwrA 0x58)).toNat
  if ((List.range 256).filter s.counts).all s.onlyWaits then
    match minNat? s.wakeTimes with
    | some t => (t - s.gts) / 1000
    | none => avg
  else avg

/-! ### Choosing and leaving states (17 R559 to R566, 19 R616) -/

def exitUs (st : Nat) : Nat := [0, 5, 150, 25000, 1500000].getD st 0
def breakEvenUs (st : Nat) : Nat := [0, 20, 1000, 200000, 60000000].getD st 0

def State.maxState (s : State) : Nat := s.fld (pwrA 0x44) 0 3
def State.transit (s : State) : Bool := s.bit (pwrA 0x50) 6
def State.setTransit (s : State) (b : Bool) : State := s.setFld (pwrA 0x50) 6 1 (if b then 1 else 0)
def State.pTarget (s : State) : Nat := s.fld (pwrA 0x50) 3 3
def State.setPst (s : State) (n : Nat) : State := s.setFld (pwrA 0x50) 0 3 n
def State.setPTarget (s : State) (n : Nat) : State := s.setFld (pwrA 0x50) 3 3 n

/-- A pool is ACTIVE (10 R342). -/
def State.poolActive (s : State) (p : Nat) : Bool := s.poolSt p == 2

/-- PWR.STAT.P4_BLOCK: the first condition of 17 R566 that fails; 0 when P4 is not blocked. -/
def State.p4Block (s : State) : Nat :=
  let cs := (List.range 256).filter fun n => s.ctxState n != stFree
  if !(s.bit (pwrA 0x68) 0 && s.maxState == 4) then 1
  else if cs.any (fun n => s.counts n || decide (s.latTol n < 1500000)) || decide ((s.rd (pwrA 0x48)).toNat < 1500000)
  then 2
  else if !(s.text.seqs.isEmpty && s.media.decs.isEmpty && s.media.encs.isEmpty && s.media.cams.isEmpty &&
      s.scan.job.isNone && s.smp.runs.isEmpty) then 3
  else if (List.range 64).any fun p => s.poolActive p && !s.bit (ro .yard 0 (0x800 + p * 0x20)) 5 &&
      (s.rd64 (pwrA 0x78)).toNat / 2 ^ p % 2 == 0 then 4
  else if s.consist ≠ csSolo then 5
  else if !(s.regionJobs.isEmpty && s.yard.transfers.isEmpty && s.yard.spills.isEmpty && s.yard.writeOuts.isEmpty &&
      s.yard.cmds.isEmpty && s.yard.running.isNone && s.yard.flush.isNone &&
      ((List.range 256).all fun n => (s.ctx n).descs.all fun d => !(d.cls == 0x02 && d.started && !d.ending))) then 6
  else 0

/-- Armed cameras and open scan jobs exclude P3; an armed camera whose tensor, progress or credit lies in
cluster SRAM excludes P2 (19 R616). -/
def State.excluded (s : State) (st : Nat) : Bool :=
  let armed := s.media.cams.filter fun e =>
    s.portState e.2.p.port == pArmed || s.portState e.2.p.port == pStreaming
  let inSram := fun (a : Word64) => addrForm a == 1
  if st = 3 then !armed.isEmpty || s.scan.job.isSome
  else if st = 2 then
    armed.any fun e =>
      e.2.p.tensor && (inSram e.2.p.tap.dst || inSram e.2.p.tap.progress || inSram e.2.p.tap.credit)
  else false

/-- choose_state (17 R561). -/
def State.chooseState (s : State) (tol idle : Nat) : Nat :=
  ([4, 3, 2, 1].find? fun st =>
    decide (st ≤ s.maxState) && (st != 4 || s.p4Block == 0) && !s.excluded st && decide (exitUs st ≤ tol) &&
    decide (breakEvenUs st ≤ idle)).getD 0

/-- 17 R561, R566: the governor chooses a state while compute is idle, and begins to enter a deeper one. -/
def execGovernorChooseState (s : State) : Next :=
  if !s.ready ∨ s.transit ∨ s.pst = 4 ∨ s.computing then .next s
  else
    let idle := s.idleEst
    let blk := s.p4Block
    let s := if s.bit (pwrA 0x68) 0 ∧ blk ≠ 0 then s.raise 0x0003 0x1032 [.w blk] else s
    let st := s.chooseState (s.rd (pwrA 0x54)).toNat idle
    if s.pst < st then
      .next (((s.setPTarget st).setTransit true).withPwr fun p => { p with entering := some s.now })
    else .next s

/-- Begin an exit, or abandon the entry in progress. -/
def State.startExit (s : State) (target cause : Nat) (wasEntering : Bool) : State :=
  let left := if wasEntering then s.pTarget else s.pst
  ((s.setPTarget target).setTransit true).withPwr fun p =>
    { p with entering := none, leaving := some ⟨left, target, cause, s.now, wasEntering⟩ }

def State.entering (s : State) : Bool := s.transit && s.pwr.entering.isSome

/-- The deepest state up to `bound` that MAX_STATE allows and whose exit latency fits EFF_TOL (17 R565). -/
def State.fitting (s : State) (bound : Nat) : Nat :=
  ([3, 2, 1].find? fun st =>
    decide (st ≤ bound) && decide (st ≤ s.maxState) && decide (exitUs st ≤ (s.rd (pwrA 0x54)).toNat)).getD 0

/-- EFF_TOL below the exit latency of the state in force (17 R565). -/
def State.tolExit (s : State) : State :=
  if 1 ≤ s.pst ∧ s.pst ≤ 3 ∧ !s.transit ∧ (s.rd (pwrA 0x54)).toNat < exitUs s.pst then
    s.startExit (s.fitting s.pst) 1 false
  else s

/-- 17 R561, R565: an entry into P1, P2 or P3 completes; P3 takes the dies' cores away (05, "When capacity falls"). A
tolerance that has fallen below the exit latency meanwhile ends the state at once. -/
def execPstateEnter (s : State) : Next :=
  let t := s.pTarget
  if s.entering ∧ 1 ≤ t ∧ t ≤ 3 ∧ !s.computing then
    let s := ((s.setPst t).setTransit false).withPwr fun p => { p with entering := none }
    let s := s.addSat (pwrA (0x80 + 4 * (t - 1))) 0 32 1
    let s := s.raise 0x0003 0x0030 [.w t, .w (s.rd (pwrA 0x54)).toNat, .w (min s.idleEst 0xFFFFFFFF)]
    .next (if t = 3 then s.countCores.evalWanted 0 else s).tolExit
  else .next s

/-- 17 R564, R565: a request that the state `serve` serves, or a fall of EFF_TOL (none). -/
def execPstateExit (serve : Option (Fin 4)) (s : State) : Next :=
  match serve with
  | none => .next s.tolExit
  | some t =>
    if s.entering ∧ s.pTarget ≤ 3 then .next (s.startExit s.pst 2 true)
    else if s.pst ≤ 3 ∧ t.val < s.pst ∧ !s.transit then .next (s.startExit t 2 false)
    else .next s

/-- On-chip SRAM of the dies reads as zero again: core bays, scratches and cluster SRAM (17 R560). -/
def State.clearDieSram (s : State) : State :=
  { (s.clearKeys (kSram 0 0) (kSram 8 0)).clearKeys (kScratch 0 0 0) (kScratch 64 0 0) with
    bay := [], bayGen := [], poison := s.poison.filter fun l =>
      !(decide (kSram 0 0 / 64 ≤ l) && decide (l < kScratch 64 0 0 / 64)) && decide (l < bayLine 0) }

/-- 17 R564: an exit completes. After P3 the cores are there again (05 R185). -/
def execPstateExitDone (s : State) : Next :=
  match s.pwr.leaving with
  | none => .next s
  | some x =>
    if x.left = 4 then .next s
    else
      let s := ((s.setPst x.target).setTransit false).withPwr fun p => { p with leaving := none }
      let s := if x.left = 3 ∧ !x.abandoned then s.clearDieSram else s
      let s := (s.raise 0x0003 0x0031 [.w x.left, .w x.cause, .w ((s.now - x.since) / 1000)]).countCores
      .next (if x.left = 3 ∧ !x.abandoned then s.evalWanted 0 else s)

/-- 17 R563: the exit starts ahead of the earliest target. -/
def execTimedExit (s : State) : Next :=
  if 1 ≤ s.pst ∧ s.pst ≤ 3 ∧ !s.transit ∧
      (minNat? s.wakeTimes).any (fun t => decide (t ≤ s.gts + exitUs s.pst * 1000)) then
    .next (s.startExit 0 3 false)
  else .next s

/-- 01 R34: a recomputed effective tolerance reaches the governor. -/
def execEffTolDelivered (s : State) : Next :=
  .next (s.wr (pwrA 0x54) (BitVec.ofNat 32 s.effTol)).tolExit

/-- 17 R556: HOLD_MS passes after a LAT_TOL write. -/
def execHoldMsExpiry (ctx : Fin 256) (s : State) : Next :=
  let c := s.ctx ctx
  match c.tolWrittenAt with
  | some t =>
    if t + s.fld (pwrA 0x44) 24 8 * 1000000 ≤ s.gts then .next (s.setCtx ctx { c with tolWrittenAt := none })
    else .next s
  | none => .next s

def clampNat (lo hi v : Nat) : Nat := max lo (min hi v)

/-- A write of a PWR word with its fields clamped to their ranges (17 R579). -/
def clampPwr (o : Nat) (w : Word) : Word :=
  if o = 0x40 then withBits w 0 9 (clampNat 120 360 (bitsOf w 0 9))
  else if o = 0x44 then
    withBits (withBits w 0 3 (min 4 (bitsOf w 0 3))) 8 8 (clampNat 1 100 (bitsOf w 8 8))
  else if o = 0x4C then
    withBits (withBits w 0 11 (clampNat 200 1500 (bitsOf w 0 11))) 16 11 (clampNat 200 1500 (bitsOf w 16 11))
  else w

/-- A write of THERM.CFG with its thresholds clamped in order (17 R580). -/
def clampTherm (w : Word) : Word :=
  let thr := clampNat 60 100 (bitsOf w 0 8)
  withBits (withBits w 0 8 thr) 8 8 (clampNat thr 104 (bitsOf w 8 8))

/-- A write of PWR.CFG takes effect; a MAX_STATE below the state in force or being entered causes an exit
(17 R565). -/
def State.writePwrCfg (s : State) (val : Word) : State :=
  let a := pwrA 0x44
  let s := s.wr a (clampPwr 0x44 val &&& maskWhere (fun f => f.acc = .rw) a)
  if s.entering ∧ s.pTarget ≤ 3 then
    (if s.maxState < s.pTarget then s.startExit (s.fitting s.pst) 4 true else s)
  else if s.pst ≤ 3 ∧ s.maxState < s.pst ∧ !s.transit then s.startExit (s.fitting s.pst) 4 false
  else s

/-! ### Leaving P4 (17 R568) -/

/-- The exit from P4 starts with phase 2 (17 R569), at the clock and the voltages of start-up (03 R83). PCIE_WAKE_N goes
low for causes 2 to 5. -/
def State.wakeP4 (s : State) (cause : Nat) : State :=
  if s.pst ≠ 4 ∨ s.transit then s
  else
    let s := ((s.startExit 0 (4 + cause) false).setFld (pwrA 0x50) 16 3 cause).setFld stA 1 3 2
    let s := { s with boot := { s.boot with phaseAt := s.now, calDone := [], calTries := [], calFull := [] },
                      pwr := { s.pwr with steps := [], rails := [] } }.wr (pwrA 0x60) (resetWord (pwrA 0x60))
    if cause = 1 then s else { s with pins := { s.pins with wakeN := false } }

/-- 17 R568: PERST# (1), WAKE_GTS (3), the scan button (4) or a camera detect (5). -/
def execP4WakeEvent (cause : Fin 6) (s : State) : Next :=
  let ok := match cause.val with
    | 1 => true
    | 3 => s.rd64 (pwrA 0x70) != 0 && decide ((s.rd64 (pwrA 0x70)).toNat ≤ s.gts + 1500000000)
    | 4 => s.bit (pwrA 0x68) 1
    | 5 => s.bit (pwrA 0x68) 2
    | _ => false
  if ok then .next (s.wakeP4 cause) else .next s

/-! ### Clocks (17 R570 to R574) -/

def State.mhz (s : State) (d : Nat) : Nat := s.fld (pwrA 0x60) (16 * d) 11
def State.thermCap (s : State) (d : Nat) : Nat := s.fld (thA 0x48) (16 * d) 11
def State.limitDw (s : State) : Nat := s.fld (pwrA 0x40) 0 9 * 10
def State.avgDw (s : State) : Nat := s.fld (pwrA 0x64) 0 16

/-- A floor moves up, a ceiling down, to a clock point (17 R571). -/
def pointUp (f : Nat) : Nat := min 1500 (max 200 ((f + 24) / 25 * 25))
def pointDown (f : Nat) : Nat := min 1500 (max 200 (f / 25 * 25))

/-- The clock that the policy wants (17 R571). -/
def State.wantMhz (s : State) : Nat :=
  let mx := pointDown (s.fld (pwrA 0x4C) 0 11)
  let want := if s.bit (pwrA 0x44) 3 then
      max (pointUp (s.fld (ro .sbox 0 0x5C) 0 11)) (pointUp (s.fld (pwrA 0x4C) 16 11)) else mx
  min want mx

/-- Set each die's target and begin a change where the clock differs and none is in progress; a die whose
regulator failed is not raised. A clock set by neither limit has cause 0 (17 R571, R573, R574). -/
def State.retarget (s : State) : State :=
  let want := s.wantMhz
  let lim := s.pwr.lim
  let s := s.setFld (pwrA 0x50) 7 1 (if lim < want then 1 else 0)
  let s := s.setFld (pwrA 0x50) 9 1 (if s.thermCap 0 < want ∨ s.thermCap 1 < want then 1 else 0)
  let one := fun (s : State) (d : Nat) =>
    let t := min want (min lim (s.thermCap d))
    let up := s.mhz d < t
    if t = s.mhz d ∨ (s.pwr.steps.look? d).isSome ∨ (up ∧ (s.pwr.avsBad.look? d).isSome) then s
    else
      let cause := if s.thermCap d < min want lim then 2 else if lim < want then 1 else 0
      s.withPwr fun p => { p with steps := p.steps.put d ⟨t, cause, up, false⟩ }
  one (one s 0) 1

/-- 17 R570, R572: a power sample, in units of 0.1 W. -/
def execPowerSample (deciwatts : Nat) (s : State) : Next :=
  if ¬ s.boot.aonUp then .next s
  else
    let l := (deciwatts :: s.pwr.samples).take (10 * s.fld (pwrA 0x44) 8 8)
    let avg := l.foldl (· + ·) 0 / max 1 l.length
    let e := s.pwr.energyPart + deciwatts
    let s := (s.setFld (pwrA 0x64) 0 16 (min 65535 avg)).setFld (pwrA 0x64) 16 16 (min 65535 deciwatts)
    let s := (s.add64 (pwrA 0x90) (e / 100)).withPwr fun p => { p with samples := l, energyPart := e % 100 }
    let s := if avg ≤ s.limitDw then s.setFld (pwrA 0x50) 8 1 0 else s
    let fresh := s.pwr.limFastAt.all fun t => decide (t + 1000000 ≤ s.now)
    if 3600 < deciwatts ∧ fresh ∧ s.ready then
      .next (s.withPwr fun p => { p with lim := max 200 (p.lim - 100), limFastAt := some s.now }).retarget
    else .next s

/-- 17 R571, R572: the governor's step of each millisecond. It controls the clocks from READY on (03 R83). -/
def execGovernMs (s : State) : Next :=
  if !s.ready then .next s
  else
    let avg := s.avgDw
    let lim := if s.limitDw < avg then max 200 (s.pwr.lim - 25)
      else if avg + s.fld (pwrA 0x44) 16 8 * 10 < s.limitDw then min 1500 (s.pwr.lim + 25) else s.pwr.lim
    let ms := if lim = 200 then s.pwr.limMs + 1 else 0
    let s := s.withPwr fun p => { p with lim := lim, limMs := ms }
    let s := if 10 < ms ∧ s.limitDw < avg ∧ !s.bit (pwrA 0x50) 8 then
        (s.setFld (pwrA 0x50) 8 1 1).raise 0x0003 0x2033 [] else s
    .next s.retarget

/-- A die's clock switches: an evaluation follows (17 R571, R573). -/
def State.switchClock (s : State) (d : Nat) (x : ClockStep) : State :=
  ((s.setFld (pwrA 0x60) (16 * d) 11 x.mhz).raise 0x0003 0x0034 [.w d, .w x.mhz, .w x.cause]).evalWanted x.cause

def State.setStep (s : State) (d : Nat) (x : Option ClockStep) : State :=
  s.withPwr fun p => { p with steps := match x with
    | some y => p.steps.put d y
    | none => p.steps.del d }

/-- 17 R573, R574: the clock is lowered; the voltage follows unless the regulator has failed. -/
def execClockChange (die : Fin 2) (s : State) : Next :=
  match s.pwr.steps.look? die with
  | some x =>
    if x.raising ∨ x.switched then .next s
    else
      let s := s.switchClock die x
      .next (s.setStep die (if (s.pwr.avsBad.look? die).isSome then none else some { x with switched := true }))
  | none => .next s

/-- A die's rail takes the FUSE voltage of a clock point. -/
def State.setRail (s : State) (d mhz : Nat) : State := s.withPwr fun p => { p with rails := p.rails.put d mhz }

/-- 17 R573: the regulator acknowledges a setpoint; a rising clock switches now. -/
def execAvsAck (die : Fin 2) (s : State) : Next :=
  match s.pwr.steps.look? die with
  | some x =>
    if x.raising then .next (((s.setRail die x.mhz).switchClock die x).setStep die none)
    else if x.switched then .next ((s.setRail die x.mhz).setStep die none)
    else .next s
  | none => .next s

/-- 17 R574: a regulator does not respond within 1 ms, or reports a fault. -/
def execAvsError (rail : Fin 3) (status : Nat) (s : State) : Next :=
  let s := s.withPwr fun p => { p with avsBad := p.avsBad.put rail s.now }
  let s := match s.pwr.steps.look? rail with
    | some x => if x.raising ∨ x.switched then s.setStep rail none else s
    | none => s
  .next (s.raise 0x000C 0x3050 [.w rail, .w status])

/-- 17 R574: each 100 ms the governor tries the regulator again. -/
def execAvsRetry (rail : Fin 3) (ok : Bool) (s : State) : Next :=
  match s.pwr.avsBad.look? rail with
  | some t =>
    if t + 100000000 ≤ s.now then
      .next (s.withPwr fun p => { p with avsBad := if ok then p.avsBad.del rail else p.avsBad.put rail s.now })
    else .next s
  | none => .next s

/-! ### Heat (17 R575 to R578, 03 R93) -/

def tempOk (r : Option Int) : Bool := r.any fun t => decide (-640 ≤ t) && decide (t ≤ 2400)

/-- The valid readings of sensors `lo` to `lo + 15`, with their numbers. -/
def validIn (l : List (Option Int)) (lo : Nat) : List (Int × Nat) :=
  (upFrom lo 16).filterMap fun i =>
    match l[i]? with
    | some (some t) => if tempOk (some t) then some (t, i) else none
    | _ => none

def hottest (l : List (Int × Nat)) : Option (Int × Nat) :=
  match l with
  | [] => none
  | x :: r => some (r.foldl (fun b y => if b.1 < y.1 then y else b) x)

def State.tThr (s : State) : Int := (s.fld (thA 0x40) 0 8 * 16 : Nat)
def State.tHot (s : State) : Int := (s.fld (thA 0x40) 8 8 * 16 : Nat)
def State.tHyst (s : State) : Int := (s.fld (thA 0x40) 16 8 * 16 : Nat)

/-- The hottest reading that controls die `d`: its own sensors and the IOD's; T_HOT where all sensors of one of
them failed, or a stack of the die is above 95 °C (17 R575, R576). -/
def State.dieTemp (s : State) (l : List (Option Int)) (hbm : List Int) (d : Nat) : Int × Nat :=
  let own := validIn l (16 * d)
  let iod := validIn l 32
  let forced := (if own.isEmpty then [(s.tHot, 16 * d)] else []) ++ (if iod.isEmpty then [(s.tHot, 32)] else []) ++
    ((upFrom (2 * d) 2).filterMap fun k => if 95 < hbm.getD k 0 then some (s.tHot, 16 * d) else none)
  (hottest (own ++ iod ++ forced)).getD (0, 16 * d)

def State.setCap (s : State) (d v : Nat) : State := s.setFld (thA 0x48) (16 * d) 11 v

/-- therm_cap and the clock stop of one die (17 R576). -/
def State.controlDie (s : State) (d : Nat) (t : Int × Nat) : State :=
  let cap := s.thermCap d
  let s :=
    if s.tHot ≤ t.1 then
      if 200 < cap then (s.setCap d 200).raise 0x0004 0x2041 [] else s
    else if s.tThr ≤ t.1 then
      if 200 < cap ∧ (s.pwr.capDownAt.look? d).all (fun x => decide (x + 1000000 ≤ s.now)) then
        ((s.setCap d (max 200 (cap - 100))).withPwr fun p => { p with capDownAt := p.capDownAt.put d s.now }).raise
          0x0004 0x1040 [.w d, .w t.2, .w (s32 t.1)]
      else s
    else if t.1 < s.tThr - s.tHyst then
      if cap < 1500 ∧ (s.pwr.capUpAt.look? d).all (fun x => decide (x + 10000000 ≤ s.now)) then
        (s.setCap d (min 1500 (cap + 100))).withPwr fun p => { p with capUpAt := p.capUpAt.put d s.now }
      else s
    else s
  let n := if 1680 ≤ t.1 then s.pwr.hot.look 0 d + 1 else 0
  let s := s.withPwr fun p => { p with hot := p.hot.put d n }
  if 2 ≤ n ∧ !s.pwr.stopped.contains d then
    (((s.withPwr fun p => { p with stopped := p.stopped ++ [d] }).raise 0x0004 0x3042 []).countCores).evalWanted 2
  else if s.pwr.stopped.contains d ∧ t.1 < 1600 then
    ((s.withPwr fun p => { p with stopped := p.stopped.filter (· != d) }).countCores).evalWanted 2
  else s

/-- Sensor `i`'s register and SENSOR_FAULT when it newly fails (17 R575). -/
def State.takeSensor (s : State) (i : Nat) (r : Option Int) : State :=
  let a := thA (0x800 + 4 * i)
  let was := s.bit a 16
  let s := match r with
    | some t => s.setFld a 0 16 (t % 65536).toNat
    | none => s
  let s := s.setFld a 16 1 (if tempOk r then 0 else 1)
  if !tempOk r ∧ !was then s.raise 0x0004 0x2045 [.w i] else s

/-- Point `i` of the fan curve: temperature in 1/16 °C and duty. -/
def State.fanPoint (s : State) (i : Nat) : Int × Int :=
  let w := s.rd (thA (0x50 + 4 * (i / 2)))
  (sInt 8 (bitsOf w (i % 2 * 16) 8) * 16, (bitsOf w (i % 2 * 16 + 8) 8 : Nat))

/-- The curve's duty at temperature `t`, halves rounded towards the larger duty (17 R578). -/
def State.fanCurve (s : State) (t : Int) : Int :=
  let p := s.fanPoint
  if t ≤ (p 0).1 then (p 0).2
  else if (p 3).1 ≤ t then (p 3).2
  else
    match [0, 1, 2].find? fun i => decide ((p i).1 ≤ t) && decide (t < (p (i + 1)).1) with
    | some i =>
      let den := (p (i + 1)).1 - (p i).1
      let num := ((p (i + 1)).2 - (p i).2) * (t - (p i).1)
      (p i).2 + (2 * num + den) / (2 * den)
    | none => (p 3).2

/-- FAN_STAT.DUTY: full while FAN_FAIL forces it, else OVERRIDE or the curve. -/
def State.setDuty (s : State) : State :=
  let o := s.fld (thA 0x4C) 0 8
  let d := if s.bit (thA 0x58) 8 then 100 else if o ≠ 0xFF then min 100 o
    else (clampInt 0 100 (s.fanCurve (sInt 16 (s.fld (thA 0x44) 0 16)))).toNat
  s.setFld (thA 0x58) 0 8 d

/-- Fan speed, and since when it has been low or high (17 R578). -/
def State.takeFan (s : State) (rpm : Nat) : State :=
  let low := rpm < s.fld (thA 0x4C) 16 16 ∧ 30 ≤ s.fld (thA 0x58) 0 8
  let high := s.fld (thA 0x4C) 16 16 < rpm
  (s.setFld (thA 0x58) 16 16 (min 65535 rpm)).withPwr fun p =>
    { p with fanLowSince := if low then some (p.fanLowSince.getD s.now) else none,
             fanHighSince := if high then some (p.fanHighSince.getD s.now) else none }

/-- Start-up is held above 105 °C and resumes 10 °C below it (03 R93). -/
def State.holdBoot (s : State) (t : Int) : State :=
  if s.ready then s
  else if 1680 < t then s.withPwr fun p => { p with bootHold := true }
  else if t ≤ 1520 then s.withPwr fun p => { p with bootHold := false }
  else s

/-- The exit from P4 runs phases 2, 4, 5 and 6 (17 R569). -/
def State.p4Exit (s : State) : Bool := s.pwr.leaving.any fun x => x.left == 4

/-- Start-up phases run: those of a reset, or of the exit from P4. -/
def State.starting (s : State) : Bool := s.boot.running.isSome || s.p4Exit

/-- The thermal protection is armed: from the end of phase 2, with islands 1 to 15 out of reset (03 R93). -/
def State.armed (s : State) : Bool :=
  s.boot.aonUp && !s.boot.held && !(s.starting && decide (s.fld stA 1 3 ≤ 2))

/-- 17 R575: the sensors are read: 48 readings in 1/16 °C (none: no response), the stacks in °C, the fan. -/
def execSensorSample (readings : List (Option Int)) (hbm : List Int) (rpm : Nat) (s : State) : Next :=
  if ¬ s.boot.aonUp then .next s
  else
    let s := (List.range 48).foldl (fun (s : State) (i : Nat) => s.takeSensor i (readings.getD i none)) s
    let all := validIn readings 0 ++ validIn readings 16 ++ validIn readings 32
    let s := match hottest all with
      | some (t, i) => (s.setFld (thA 0x44) 0 16 (t % 65536).toNat).setFld (thA 0x44) 16 6 i
      | none => s
    let s := (List.range 4).foldl (fun (s : State) (k : Nat) =>
      s.setFld (thA 0x60) (8 * k) 8 ((hbm.getD k 0) % 256).toNat) s
    let t0 := s.dieTemp readings hbm 0
    let t1 := s.dieTemp readings hbm 1
    let s := if s.armed then ((s.controlDie 0 t0).controlDie 1 t1).holdBoot (max t0.1 t1.1) else s
    let s := (s.takeFan rpm).setDuty
    .next (if s.ready then s.retarget else s)

/-- 17 R578: the fan has been slow for 2 s. -/
def execFanFail (s : State) : Next :=
  if !s.bit (thA 0x58) 8 ∧ s.pwr.fanLowSince.any (fun t => decide (t + 2000000000 ≤ s.now)) then
    let d := s.fld (thA 0x58) 0 8
    .next (((s.setFld (thA 0x58) 8 1 1).setDuty).raise 0x0004 0x2044 [.w (s.fld (thA 0x58) 16 16), .w d])
  else .next s

/-- 17 R578: the speed has held above MIN_RPM for 2 s. -/
def execFanRecovered (s : State) : Next :=
  if s.bit (thA 0x58) 8 ∧ s.pwr.fanHighSince.any (fun t => decide (t + 2000000000 ≤ s.now)) then
    .next (s.setFld (thA 0x58) 8 1 0).setDuty
  else .next s

/-! ### GPIO (20 R633) -/

/-- 20 R633: one second after the last event of class 3 or 4. -/
def execGpio2PulseEnd (s : State) : Next :=
  if s.pins.gpio2 ∧ s.pins.severeAt + 1000000000 ≤ s.now then .next { s with pins := { s.pins with gpio2 := false } }
  else .next s

/-- 20 R633: each 500 ms while the management firmware runs. -/
def execGpio3Toggle (s : State) : Next :=
  if s.boot.fwRuns ∧ s.pins.gpio3At + 500000000 ≤ s.now then
    .next { s with pins := { s.pins with gpio3 := !s.pins.gpio3, gpio3At := s.now } }
  else .next s

end Sys2Proof.Machine
end

