-- ==== Sys2Proof/Machine/Copies.lean ====
section
/-! DEFINITION. The descriptors that the Yard's copier and the ring machinery serve: COPY (04 R133, 18 R604),
region updates (04 R146 to R149), FENCE, WAIT_GTS and MARKER (04 R137, R143, R144). -/

namespace Sys2Proof.Machine

/-! ### COPY -/

def granulesOf (n : Nat) : Nat := (n + 4095) / 4096

/-- What refuses an address of form 11 (16 R532). -/
def State.peerStatusOf (s : State) (a : Word64) : Option Status :=
  match addrSpace a with
  | some (.peer p _) => if p = s.pkgId then none else s.peerRefusal p
  | _ => none

/-- Key of a device address; form 11 of this package's own number is form 00 (16 R532). -/
def State.keyOf (s : State) (a : Word64) : Nat :=
  match addrSpace a with
  | some (.peer p b) => if p = s.pkgId then kHbm b else kPeer p b
  | some x => x.key
  | none => 0

def Desc.copyLen (d : Desc) : Nat := d.nat 32 8

/-- The checks of 04 R134, then those of 16 R532. -/
def State.copyCheck (s : State) (d : Desc) : Option Status :=
  let fn := s.ctxFunc d.ctx
  let n := d.copyLen
  match firstStatus
    [(!s.addrLenOk fn (d.addr 16) n || !s.addrLenOk fn (d.addr 24) n, .invalidDescriptor),
     (decide (n = 0) || decide (2 ^ 36 < n), .limitRejected),
     (!s.blockOn .yard 0, .cancelled)] with
  | some st => some st
  | none => (s.peerStatusOf (d.addr 16)).or (s.peerStatusOf (d.addr 24))

/-- 04 R133: the copy starts. -/
def execCopy (ctx : Fin 256) (sq : Fin 4) (s : State) : Next :=
  .next (s.take ctx sq 0x02 (fun s d => s.copyCheck d) fun s _ => s)

/-- A started descriptor of context `n` by ring and index. -/
def State.startedAt (s : State) (n q : Nat) (pos : Word) (cls : Nat) : Option Desc :=
  (s.startedDescs n).find? fun d => d.sq == q && d.pos == pos && d.cls == cls

/-- The first `n` bytes of a copy reach their destination, with their poison (18 R604). -/
def State.copyFirst (s : State) (d : Desc) (n : Nat) : State :=
  (s.touch (s.keyOf (d.addr 16)) n).copyBytes (s.keyOf (d.addr 16)) (s.keyOf (d.addr 24)) n

/-- 04 R133, 18 R604: the copy at index `pos` ends. -/
def execCopyDone (ctx : Fin 256) (sq : Fin 4) (pos : Word) (s : State) : Next :=
  match s.startedAt ctx sq pos 0x02 with
  | none => .next s
  | some d =>
    if s.frozen .yard 0 then .next s
    else
      let n := d.copyLen
      let s := s.touch (s.keyOf (d.addr 16)) n
      let bad := firstPoisoned s.poison (s.keyOf (d.addr 16)) n
      let s := s.copyFirst d n
      match bad with
      | some l =>
        .next ((s.raise 0x1100 0x31F2 [.d (l * 64)] d.ctx).complete d .eccUncorrectable (granulesOf n) 0)
      | none => .next (s.complete d .ok (granulesOf n) 0)

/-- A copy stops after a number of granules that nothing states; an abort leaves the next granule undefined. -/
def State.stopCopy (s : State) (d : Desc) (st : Status) (abort : Bool) : State :=
  let total := granulesOf d.copyLen
  let (g, s) := s.newFree
  let k := (Config.freeWord g d.uid).toNat % (total + 1)
  let done := min (4096 * k) d.copyLen
  let s := s.copyFirst d done
  let s := if abort then s.undefine (s.keyOf (d.addr 24) + done) (min 4096 (d.copyLen - done)) else s
  s.complete d st k 0

/-! ### Region updates (04 R146 to R149) -/

def Desc.srcLen (d : Desc) : Nat := d.nat 24 8

def State.regionJobsOf (s : State) (r : Nat) : List RegionJob := s.regionJobs.filter fun j => j.region == r

/-- A buffer of `n` bytes of a region may be written (04 R148). -/
def State.bufferOk (s : State) (fn n : Nat) (a : Word64) : Bool :=
  match addrSpace a with
  | some (.hbm b) =>
    b % 4096 == 0 && decide (b + n ≤ hbmBytes) && (framesOf b n).all (fun f => (s.framePool f).isSome) &&
    (fn == 0 || s.framesGiven fn b n)
  | _ => false

/-- The entry may be updated for function `fn`. -/
def State.entryOk (s : State) (fn : Nat) (e : RegionEntry) : Bool :=
  decide (1 ≤ e.kind) && decide (e.kind ≤ 4) && e.len != 0 && e.len % 4096 == 0 && s.bufferOk fn e.len e.buf0 &&
  s.bufferOk fn e.len e.buf1

/-- The checks of 04 R134, R146 and R148. -/
def State.regionCheck (s : State) (d : Desc) : Option Status :=
  let fn := s.ctxFunc d.ctx
  match s.region d.target with
  | none => some .invalidDescriptor
  | some e =>
    match firstStatus
      [(!s.addrLenOk fn (d.addr 16) d.srcLen || !s.entryOk fn e, .invalidDescriptor),
       (decide (e.len < d.srcLen), .limitRejected), (!s.blockOn .yard 0, .cancelled)] with
    | some st => some st
    | none => s.peerStatusOf (d.addr 16)

/-- No reader holds the generation before the current one of region `r`. -/
def State.readersClear (s : State) (r : Nat) : Bool :=
  (s.region r).all fun e => !s.regionHeld r (e.gen - 1)

/-- BUSY of a region's entry, and its first update starts to write when it may (04 R146, R148). -/
def State.tendRegion (s : State) (r : Nat) : State :=
  match s.regionJobsOf r with
  | [] => s.setRegionBusy r 0
  | j :: _ =>
    let s := s.setRegionBusy r 1
    if j.started ∨ !s.readersClear r then s
    else { s with regionJobs := s.regionJobs.map fun x =>
      if x.desc.uid = j.desc.uid then { x with started := true } else x }

def State.dropJob (s : State) (u : Nat) : State :=
  { s with regionJobs := s.regionJobs.filter fun j => j.desc.uid != u }

/-- An update ends: RESULT is the generation, RESULT2 the granules written (04 R133). -/
def State.endUpdate (s : State) (j : RegionJob) (st : Status) : State :=
  let g := ((s.region j.region).map fun e => e.gen.toNat).getD 0
  ((s.dropJob j.desc.uid).complete j.desc st g j.granules)

/-- An update is superseded (04 R149). -/
def State.supersedeJob (s : State) (j : RegionJob) : State :=
  (s.endUpdate j .superseded).raise 0x1110 0x01A5 [] j.desc.ctx

/-- 04 R148, R149: the update queues, or supersedes those before it; one that has written a granule goes on to
the end of its next one. -/
def execRegionUpdate (ctx : Fin 256) (sq : Fin 4) (s : State) : Next :=
  .next (s.take ctx sq 0x03 (fun s d => s.regionCheck d) fun s d =>
    let r := d.target
    let s := if d.supersede then
        match s.regionJobsOf r with
        | [] => s
        | j :: rest => (if j.granules = 0 then j :: rest else rest).foldl (fun (s : State) j => s.supersedeJob j) s
      else s
    let s := { s with regionJobs := s.regionJobs ++ [(⟨d, r, 0, false, false⟩ : RegionJob)] }
    s.tendRegion r)

/-- 04 R148: the last reader of generation GEN − 1 has ended. -/
def execRegionReadersClear (region : Fin 4096) (s : State) : Next := .next (s.tendRegion region)

/-- One granule is written into the buffer that the next generation uses. -/
def State.copyGranule (s : State) (j : RegionJob) (e : RegionEntry) : State :=
  let o := 4096 * j.granules
  let n := min 4096 (j.desc.srcLen - o)
  let src := s.keyOf (j.desc.addr 16) + o
  let s := s.touch src n
  match addrKey (e.buffer (e.gen + 1)) with
  | some k => s.copyBytes src (k + o) n
  | none => s

/-- 04 R148, R149, 18 R604: a granule of the running update of a region has been written. -/
def execRegionGranuleDone (region : Fin 4096) (s : State) : Next :=
  match s.regionJobsOf region, s.region region with
  | j :: rest, some e =>
    if !j.started ∨ s.frozen .yard 0 ∨ !s.blockGoes .yard 0 then .next s
    else
      let total := granulesOf j.desc.srcLen
      let s := if j.granules < total then s.copyGranule j e else s
      let src := s.keyOf (j.desc.addr 16) + 4096 * j.granules
      let bad := firstPoisoned s.poison src (min 4096 (j.desc.srcLen - 4096 * j.granules))
      let s := match bad with
        | some l => if j.poisoned then s else s.raise 0x1100 0x31F2 [.d (l * 64)] j.desc.ctx
        | none => s
      let j := { j with granules := min (j.granules + 1) total, poisoned := j.poisoned || bad.isSome }
      if j.granules = total then
        let s := if j.poisoned then s else s.setRegionGen region (e.gen + 1)
        .next ((s.endUpdate j (if j.poisoned then .eccUncorrectable else .ok)).tendRegion region)
      else if rest.any fun x => x.desc.supersede then .next ((s.supersedeJob j).tendRegion region)
      else .next { s with regionJobs := s.regionJobs.map fun x => if x.desc.uid = j.desc.uid then j else x }
  | _, _ => .next s

/-- An update stops; an abort leaves the granule after the last one undefined (04 R151, R153). -/
def State.stopJob (s : State) (j : RegionJob) (st : Status) (abort : Bool) : State :=
  let s := match abort && j.started, (s.region j.region).bind fun e => addrKey (e.buffer (e.gen + 1)) with
    | true, some k => s.undefine (k + 4096 * j.granules) (min 4096 (j.desc.srcLen - 4096 * j.granules))
    | _, _ => s
  (s.endUpdate j st).tendRegion j.region

/-! ### FENCE and WAIT_GTS (04 R143, R144) -/

/-- WAIT_CTX and WAIT_SQ. -/
def Desc.waitCtx (d : Desc) : Nat := if d.nat 16 1 = 0xFF then d.ctx else d.nat 16 1
def Desc.waitSq (d : Desc) : Nat := d.nat 17 1

/-- 04 R143: the FENCE waits. -/
def execFence (ctx : Fin 256) (sq : Fin 4) (s : State) : Next :=
  .next (s.take ctx sq 0x04 (fun s d => firstStatus
    [(s.ctxFunc d.waitCtx != s.ctxFunc d.ctx, .invalidDescriptor), (decide (3 < d.waitSq), .limitRejected)])
    fun s _ => s)

/-- The FENCE or WAIT_GTS that holds a ring. -/
def State.holding (s : State) (n q cls : Nat) : Option Desc :=
  (s.startedDescs n).find? fun d => d.sq == q && d.cls == cls

/-- DONE has reached WAIT_DONE, as a signed difference. -/
def State.fenceMet (s : State) (d : Desc) : Bool :=
  let diff := s.sqDone d.waitCtx d.waitSq - BitVec.ofNat 32 (d.nat 20 4)
  !diff.getLsbD 31

def execFenceSatisfied (ctx : Fin 256) (sq : Fin 4) (s : State) : Next :=
  match s.holding ctx sq 0x04 with
  | some d => if s.fenceMet d then .next (s.complete d .ok 0 0) else .next s
  | none => .next s

def execFenceTimeout (ctx : Fin 256) (sq : Fin 4) (s : State) : Next :=
  match s.holding ctx sq 0x04 with
  | some d =>
    let us := d.nat 24 4
    if us ≠ 0 ∧ d.startedNow + us * 1000 ≤ s.now ∧ !s.fenceMet d then .next (s.complete d .timeout 0 0) else .next s
  | none => .next s

/-- The FENCEs that wait for context `n` when its epoch changes (04 R143). -/
def State.staleFences (s : State) (n : Nat) : State :=
  let l := (List.range 256).flatMap fun c => (s.startedDescs c).filter fun d => d.cls == 0x04 && d.waitCtx == n
  (l.filter fun d => d.ctx != n).foldl (fun (s : State) d => s.complete d .epochStale 0 0) s

/-- ns late, saturating. -/
def State.endWait (s : State) (d : Desc) : State :=
  s.complete d .ok (min (s.gts - d.waitTarget) 0xFFFFFFFF) 0

/-- 04 R144: the WAIT_GTS starts, and completes at once where its target has passed. -/
def execWaitGts (ctx : Fin 256) (sq : Fin 4) (s : State) : Next :=
  .next (s.take ctx sq 0x05 (fun _ d => if 1 < d.nat 24 1 then some .limitRejected else none) fun s d =>
    if d.waitTarget ≤ s.gts then s.endWait d else s)

def execWaitGtsReached (ctx : Fin 256) (sq : Fin 4) (s : State) : Next :=
  match s.holding ctx sq 0x05 with
  | some d => if d.waitTarget ≤ s.gts then .next (s.endWait d) else .next s
  | none => .next s

/-! ### MARKER (04 R137) -/

def execMarker (ctx : Fin 256) (sq : Fin 4) (s : State) : Next :=
  .next (s.take ctx sq 0x10 (fun _ _ => none) fun s d =>
    let fn := s.ctxFunc d.ctx
    (s.raise (0xF000 + fn * 0x100 + d.ctx) 0x0F00 [.w (d.nat 16 4), .d (d.nat 24 8)] d.ctx fn).complete d .ok 0 0)

end Sys2Proof.Machine
end

