-- ==== Sys2Proof/Machine/Window.lean ====
section
/-! DEFINITION. The window unit (08): its queue (R273, R274), direct convolution (R278 to R287), and the end of
its descriptors. -/

namespace Sys2Proof.Machine

/-! ### Descriptors -/

/-- What the check of a window descriptor finds (08 R276). -/
inductive WuCheck where
  | ok
  | malformed
  | beyond
  deriving DecidableEq, Repr

def wuVerdict (malformed beyond : Bool) : WuCheck := if malformed then .malformed else if beyond then .beyond else .ok

/-- The front descriptor and its 128 bytes. -/
def State.wuFront (s : State) (c : Nat) : Option (Launch × List Byte) :=
  (s.core c).wu.queue.head?.map fun l => (l, s.bayLoad (kBay c l.addr) 128)

/-- The result block's address is none, or 16-byte aligned in the bay (08 R274). -/
def resAddrOk (d : List Byte) : Bool :=
  let a := fieldOf d 124 4
  a == 0xFFFFFFFF || (a % 16 == 0 && decide (a + 16 ≤ bayBytes))

/-- SEM uses bits [4:0]. -/
def semByteOk (d : List Byte) (o : Nat) : Bool := decide (fieldOf d o 1 < 32)

def State.updWu (s : State) (c : Nat) (f : WuUnit → WuUnit) : State := s.updCore c fun k => { k with wu := f k.wu }

/-- A descriptor fails its check, or goes on with `body`. -/
def State.wuBegin (s : State) (c : Nat) (l : Launch) (v : WuCheck) (body : State → State) : State :=
  match v with
  | .malformed => s.progError c l 6
  | .beyond => s.limitError c l
  | .ok => body s

/-- A data access denied under 07 R228 (08 R276). -/
def State.wuDenied (s : State) (c : Nat) (l : Launch) : State := s.progError c l 2

/-- The window unit of core `c` works: the gang runs, and the next descriptor has this OP. -/
def State.wuRuns (s : State) (c op : Nat) : Bool :=
  s.coreRuns c && s.blockGoes .co c && (s.wuFront c).any fun e => fieldOf e.2 0 1 == op

/-! ### The row-statistics unit's front descriptor (09 R313) -/

def State.rsFront (s : State) (c : Nat) : Option (Launch × List Byte) :=
  (s.core c).rs.queue.head?.map fun l => (l, s.bayLoad (kBay c l.addr) 128)

/-- An ATTEND at the front: its launch and the MEs that it takes (09 R315). -/
def State.attendFront (s : State) (c : Nat) : Option (Launch × Nat) :=
  (s.rsFront c).bind fun e => if fieldOf e.2 0 1 = 1 then some (e.1, fieldOf e.2 3 1) else none

/-- An ATTEND drives ME `m`: the list at its head was launched after the ATTEND (09 R315). -/
def State.meHeld (s : State) (c m : Nat) : Bool :=
  (s.attendFront c).any fun a => a.2 / 2 ^ m % 2 == 1 &&
    ((s.core c).me.look MeUnit.reset m).lists.head?.any fun e => decide (a.1.order < e.1.order)

/-- The descriptor at the head of queue 1 waits behind an ATTEND's page walk (09 R315). -/
def State.walkHolds (s : State) (c : Nat) : Bool :=
  (s.attendFront c).any fun a => (s.core c).dm1.descs.head?.any fun l => decide (a.1.order < l.order)

/-! ### CONV (08 R278) -/

structure ConvD where
  flags : Nat
  mask : Nat
  fmt : Nat
  kh : Nat
  kw : Nat
  f : Nat
  sh : Nat
  sw : Nat
  dh : Nat
  dw : Nat
  pt : Nat
  pb : Nat
  pl : Nat
  pr : Nat
  inH : Nat
  inW : Nat
  nb : Nat
  cin : Nat
  cg : Nat
  group0 : Nat
  oy0 : Nat
  rows : Nat
  lb : Nat
  lbRows : Nat
  px : Nat
  rowPitch : Nat
  cbPitch : Nat
  pad : Nat
  rowSem : Nat
  freeSem : Nat
  rsemBase : Nat
  deriving DecidableEq, Repr

def convD (d : List Byte) : ConvD :=
  let g := fieldOf d
  { flags := g 1 1, mask := g 3 1, fmt := g 4 1, kh := g 5 1, kw := g 6 1, f := g 7 1, sh := g 8 1, sw := g 9 1,
    dh := g 10 1, dw := g 11 1, pt := g 12 1, pb := g 13 1, pl := g 14 1, pr := g 15 1, inH := g 16 2,
    inW := g 18 2, nb := g 20 2, cin := g 22 1, cg := g 24 2, group0 := g 26 2, oy0 := g 28 2, rows := g 30 2,
    lb := g 32 4, lbRows := g 36 2, px := g 38 2, rowPitch := g 40 4, cbPitch := g 44 4, pad := g 48 4,
    rowSem := g 52 1, freeSem := g 53 1, rsemBase := g 54 2 }

def ConvD.s2d (d : ConvD) : Bool := d.flags / 2 % 2 == 1
def ConvD.thin (d : ConvD) : Bool := d.flags / 4 % 2 == 1
def ConvD.padMode (d : ConvD) : Nat := d.flags / 8 % 4
def ConvD.noSync (d : ConvD) : Bool := d.flags / 32 % 2 == 1
def ConvD.grouped (d : ConvD) : Bool := d.flags / 64 % 2 == 1

/-- Channels of a block: 32, or 16 in a 16-bit format (08 R271). -/
def cbOf (fmt : Nat) : Nat := if elemBits fmt = 16 then 16 else 32
def ConvD.cb (d : ConvD) : Nat := cbOf d.fmt
def ConvD.esize (d : ConvD) : Nat := elemBits d.fmt / 8

/-- The derived sizes of 08 R279. -/
def ConvD.ih (d : ConvD) : Nat := if d.s2d then ceilDiv d.inH d.f else d.inH
def ConvD.iw (d : ConvD) : Nat := if d.s2d then ceilDiv d.inW d.f else d.inW
def ConvD.eh (d : ConvD) : Nat := (d.kh - 1) * d.dh + 1
def ConvD.ew (d : ConvD) : Nat := (d.kw - 1) * d.dw + 1
def ConvD.oh (d : ConvD) : Nat := (d.ih + d.pt + d.pb - d.eh) / d.sh + 1
def ConvD.ow (d : ConvD) : Nat := (d.iw + d.pl + d.pr - d.ew) / d.sw + 1
def ConvD.k (d : ConvD) : Nat := if d.grouped then d.kh * d.kw * 16 * d.cg else d.kh * d.kw * d.cb * d.nb

/-- Bytes of a pixel block. -/
def ConvD.pixelBytes (d : ConvD) : Nat := d.cb * elemBits d.fmt / 8

/-- Not well formed (08 R276, R278, R285). -/
def ConvD.malformed (d : ConvD) (b : List Byte) : Bool :=
  decide (128 ≤ d.flags) || d.padMode == 3 || decide (16 ≤ d.mask) || !semByteOk b 2 || !semByteOk b 52 ||
  !semByteOk b 53 || !zeroBytes b 23 24 || !zeroBytes b 56 124 || !resAddrOk b ||
  ! [1, 2, 3, 4, 5, 6].contains d.fmt || (d.s2d && (d.fmt == 6 || d.grouped)) ||
  (!d.s2d && (d.f != 0 || d.cin != 0 || d.thin)) || (!d.grouped && (d.cg != 0 || d.group0 != 0)) ||
  (d.grouped && d.nb != 0) || decide (2 ^ 21 ≤ d.lb) || d.lb % 16 != 0 || d.rowPitch % 16 != 0 ||
  d.cbPitch % 16 != 0 || (!d.thin && d.px % 16 != 0)

/-- Rank of ME `m` among the set bits of ME_MASK. -/
def maskRank (mask m : Nat) : Nat := ((List.range m).filter fun i => mask / 2 ^ i % 2 == 1).length

/-- Highest core-bay byte that the ring reaches, with the blocks it reads. -/
def ConvD.ringEnd (d : ConvD) : Nat :=
  let blocks := if d.s2d then 1 else if d.grouped then ceilDiv ((d.group0 + 16 * maskRank d.mask 4) * d.cg) d.cb else d.nb
  let pixel := if d.thin then d.cin * d.esize else d.pixelBytes
  d.lb + (d.lbRows - 1) * d.rowPitch + (d.inW - 1) * d.px + (if d.thin then 0 else (blocks - 1) * d.cbPitch) + pixel

/-- Beyond a limit (08 R278, R279). -/
def ConvD.beyond (d : ConvD) : Bool :=
  let range := fun (v lo hi : Nat) => decide (v < lo) || decide (hi < v)
  range d.kh 1 15 || range d.kw 1 15 || d.sh == 0 || d.sw == 0 || d.dh == 0 || d.dw == 0 || d.mask == 0 ||
  range d.inH 1 16384 || range d.inW 1 16384 || d.rows == 0 || range d.lbRows 1 4096 ||
  (d.s2d && (range d.f 2 8 || range d.cin 1 4 || d.nb != ceilDiv (d.cin * d.f * d.f) d.cb)) ||
  (d.grouped && range d.cg 1 32) || (!d.grouped && d.nb == 0) ||
  (if d.thin then range d.px (d.cin * d.esize) 64 else decide (d.px < d.pixelBytes)) ||
  decide (d.ih + d.pt + d.pb < d.eh) || decide (d.iw + d.pl + d.pr < d.ew) ||
  decide (d.oh < d.oy0 + d.rows) || decide (65536 < d.k) ||
  decide (d.lbRows < d.eh * (if d.s2d then d.f else 1)) || decide (bayBytes < d.ringEnd)

/-! ### The A operand (08 R280, R282, R285, R287) -/

/-- Groups of an output row, and of the pass. -/
def ConvD.groupsPerRow (d : ConvD) : Nat := ceilDiv d.ow 16
def ConvD.groups (d : ConvD) : Nat := d.rows * d.groupsPerRow

/-- The stored element at input row `y`, column `x`, block `cb`, channel `ch` of the ring. -/
def State.ringElem (s : State) (c : Nat) (d : ConvD) (y x cb ch : Nat) : Nat :=
  let slot := kBay c (d.lb + y % d.lbRows * d.rowPitch)
  if d.thin then s.elemAt (.bay (slot + x * d.px)) (elemBits d.fmt) ch
  else s.elemAt (.bay (slot + x * d.px + cb * d.cbPitch)) (elemBits d.fmt) ch

/-- The constant that PAD_MODE 0 or 1 supplies. -/
def ConvD.padElem (d : ConvD) : Nat := if d.padMode = 1 then d.pad % 2 ^ elemBits d.fmt else 0

def clampIdx (v : Int) (hi : Nat) : Nat := (max 0 (min v (hi : Int))).toNat

/-- The element at view position (y, x), channel `ch` of block `cb`. -/
def State.windowElem (s : State) (c : Nat) (d : ConvD) (y x : Int) (cb ch : Nat) : Nat :=
  let inside := decide (0 ≤ y) && decide (y < d.ih) && decide (0 ≤ x) && decide (x < d.iw)
  let yy := clampIdx y (d.ih - 1)
  let xx := clampIdx x (d.iw - 1)
  if d.s2d then
    let vc := cb * d.cb + ch
    if d.cin * d.f * d.f ≤ vc then 0
    else if !inside && d.padMode != 2 then d.padElem
    else
      let q := vc / d.cin
      let iy := yy * d.f + q / d.f
      let ix := xx * d.f + q % d.f
      if (d.inH ≤ iy ∨ d.inW ≤ ix) ∧ d.padMode ≠ 2 then d.padElem
      else s.ringElem c d (min iy (d.inH - 1)) (min ix (d.inW - 1)) 0 (vc % d.cin)
  else if !inside && d.padMode != 2 then d.padElem
  else s.ringElem c d yy xx cb ch

/-- Element k of row `i` of the A operand that ME `m` takes from group `h` (08 R282, R287). -/
def State.convElem (s : State) (c : Nat) (d : ConvD) (m h i k : Nat) : Nat :=
  let oy := d.oy0 + h / d.groupsPerRow
  let ox := 16 * (h % d.groupsPerRow) + i
  if d.ow ≤ ox then 0
  else
    let per := if d.grouped then 16 * d.cg else d.cb
    let tap := k / per
    let kw := tap % d.kw
    let kh := tap / d.kw % d.kh
    let y : Int := ((oy * d.sh + kh * d.dh : Nat) : Int) - d.pt
    let x : Int := ((ox * d.sw + kw * d.dw : Nat) : Int) - d.pl
    if d.grouped then
      let g := d.group0 + 16 * maskRank d.mask m
      let ch := (g + k % per / d.cg) * d.cg + k % d.cg
      s.windowElem c d y x (ch / d.cb) (ch % d.cb)
    else s.windowElem c d y x (tap / (d.kw * d.kh)) (k % per)

/-- Input rows from row 0 on that group `h` needs (08 R281). -/
def ConvD.rowsNeeded (d : ConvD) (h : Nat) : Nat :=
  let oy := d.oy0 + h / d.groupsPerRow
  let need := fun (kh : Nat) =>
    let y : Int := ((oy * d.sh + kh * d.dh : Nat) : Int) - d.pt
    if d.padMode = 2 then clampIdx y (d.ih - 1) + 1
    else if 0 ≤ y ∧ y < d.ih then y.toNat + 1 else 0
  let n := ((List.range d.kh).map need).foldl max 0
  if d.s2d then min d.inH (n * d.f) else n

/-- Rows freed once output row `oy` is done; at the end of the pass every row (08 R281). -/
def ConvD.inputRows (d : ConvD) (n : Nat) : Nat := if d.s2d then min d.inH (n * d.f) else n

def ConvD.freedBefore (d : ConvD) (oy : Nat) : Nat :=
  let first := d.oy0 * d.sh - d.pt
  if oy = d.oy0 then d.inputRows (min first d.ih) else d.inputRows (min d.ih (max first (oy * d.sh - d.pt)))

def ConvD.freedAll (d : ConvD) : Nat := d.inputRows (min d.ih ((d.oy0 + d.rows - 1) * d.sh + d.eh - d.pt))

/-- What is added to FREE_SEM after output row `oy`. -/
def ConvD.freedAt (d : ConvD) (oy : Nat) : Nat :=
  (if oy + 1 = d.oy0 + d.rows then max d.freedAll (d.freedBefore (oy + 1)) else d.freedBefore (oy + 1)) -
    d.freedBefore oy

/-- The running CONV of a core. -/
def State.conv (s : State) (c : Nat) : Option ConvD :=
  if (s.core c).wu.started then
    (s.wuFront c).bind fun e => if fieldOf e.2 0 1 = 1 then some (convD e.2) else none
  else none

/-- ME `m` has completed its AWIN MMA of the head group; the last one releases it (08 R283). -/
def State.awinDone (s : State) (c m : Nat) : State :=
  match s.conv c with
  | none => s
  | some d =>
    let rel := (s.core c).wu.released ++ [m]
    if !((List.range 4).all fun i => d.mask / 2 ^ i % 2 == 0 || rel.contains i) then
      s.updWu c fun w => { w with released := rel }
    else
      let h := (s.core c).wu.headGroup
      let s := s.updWu c fun w => { w with released := [], headGroup := h + 1, items := h + 1 }
      if (h + 1) % d.groupsPerRow = 0 then s.semAdd c d.freeSem (d.freedAt (d.oy0 + h / d.groupsPerRow)) else s

/-- 08 R276, R278: a CONV reaches the head of the queue, is checked and starts. -/
def execConvGroup (core : Fin 64) (s : State) : Next :=
  match s.wuFront core with
  | none => .next s
  | some (l, b) =>
    if !s.wuRuns core 1 ∨ (s.core core).wu.started then .next s
    else
      let d := convD b
      .next (s.wuBegin core l (wuVerdict (d.malformed b) d.beyond) fun s =>
        s.updWu core fun w => { w with started := true, items := 0, headGroup := 0, released := [], rows := 0 })

/-- 08 R281: ROW_SEM shows the next input row written. -/
def execConvRowAvailable (core : Fin 64) (s : State) : Next :=
  match s.conv core with
  | none => .next s
  | some d =>
    let w := (s.core core).wu
    if s.coreRuns core ∧ !d.noSync ∧ w.rows < d.inH ∧
        (s.core core).semReached d.rowSem (BitVec.ofNat 16 (d.rsemBase + w.rows + 1)) then
      .next (s.updWu core fun w => { w with rows := w.rows + 1 })
    else .next s

/-! ### Launch and completion -/

/-- A stalled launch goes on once a place is free (08 R273). -/
def State.wuUnstall (s : State) (c : Nat) : State :=
  let one := fun (s : State) (t : Nat) =>
    match ((s.core c).tidy t).stall with
    | .wu a =>
      if (s.core c).wu.queue.length < 8 then
        ((s.updWu c fun w => { w with queue := w.queue ++ [s.launchAt c t a] }).updTidy c t fun k =>
          { k with stall := .none }).tcNext c t
      else s
    | _ => s
  one (one s 0) 1

/-- 08 R273: a store to WU_LAUNCH. -/
def State.wuLaunch (s : State) (c t : Nat) (val : Word) : State :=
  let a := bitsOf val 6 15 * 64
  if 8 ≤ (s.core c).wu.queue.length then s.updTidy c t fun k => { k with stall := .wu a }
  else (s.updWu c fun w => { w with queue := w.queue ++ [s.launchAt c t a] }).tcNext c t

def execWuLaunch (core : Fin 64) (tc : Fin 2) (val : Word) (s : State) : Next :=
  if s.tcRuns core tc then .next (s.wuLaunch core tc val) else .next s

/-- The result block and the signal of a completed descriptor (08 R274). -/
def State.wuFinish (s : State) (c : Nat) (d : List Byte) (items bad aux : Nat) : State :=
  let a := fieldOf d 124 4
  let s := if a = 0xFFFFFFFF then s
    else s.bayStore (kBay c a) (leBytes 4 items ++ leBytes 4 bad ++ leBytes 4 aux ++ leBytes 4 0)
  let s := if fieldOf d 1 1 % 2 = 1 then s.semAdd c (fieldOf d 2 1) 1 else s
  (s.updWu c fun w => { w with queue := w.queue.drop 1, started := false, items := 0, headGroup := 0,
                               released := [], rows := 0, bad := 0, aux := 0 }).wuUnstall c

end Sys2Proof.Machine
end

