-- ==== Sys2Proof/Machine/Engines.lean ====
section
/-! DEFINITION. The matrix engines (07 R230 to R240): command lists, the commands and their errors. -/

namespace Sys2Proof.Machine

/-! ### Lists -/

def State.meUnit (s : State) (c m : Nat) : MeUnit := (s.core c).me.look MeUnit.reset m

def State.updMe (s : State) (c m : Nat) (f : MeUnit → MeUnit) : State :=
  s.updCore c fun k => { k with me := k.me.put m (f (k.me.look MeUnit.reset m)) }

/-- A command of a list: the launch, the slots left with it, its bytes (64 for two slots). -/
structure MeCmd where
  launch : Launch
  left : Nat
  bytes : List Byte
  deriving DecidableEq, Repr

/-- The next command of ME `m`. -/
def State.meCmd (s : State) (c m : Nat) : Option MeCmd :=
  let u := s.meUnit c m
  u.lists.head?.map fun e =>
    ⟨e.1, e.2 - u.slot, s.bayLoad (kBay c (e.1.addr + 32 * u.slot)) 64⟩

def MeCmd.op (k : MeCmd) : Nat := fieldOf k.bytes 0 1
def MeCmd.at (k : MeCmd) (o n : Nat) : Nat := fieldOf k.bytes o n
/-- Bytes `[lo, hi)` of the command are reserved zeros. -/
def MeCmd.zero (k : MeCmd) (lo hi : Nat) : Bool := zeroBytes k.bytes lo hi

/-- The list lies in the core bay (07 R235, R240). -/
def State.listOk (s : State) (c m : Nat) : Bool :=
  (s.meUnit c m).lists.head?.all fun e =>
    decide (1 ≤ e.2) && decide (e.2 ≤ 4096) && decide (e.1.addr + 32 * e.2 ≤ bayBytes)

/-- ME `m` can go on with a command: no ATTEND drives it (09 R315). -/
def State.meReady (s : State) (c m : Nat) : Bool :=
  s.coreRuns c && s.blockGoes .co c && !(s.meUnit c m).waiting && !s.meHeld c m

/-- A stalled list launch goes on once a list has ended (07 R235). -/
def State.meUnstall (s : State) (c m : Nat) : State :=
  let one := fun (s : State) (t : Nat) =>
    match ((s.core c).tidy t).stall with
    | .list k n =>
      if k = m ∧ (s.meUnit c m).lists.length < 4 then
        ((s.updMe c m fun u => { u with lists := u.lists ++ [(s.launchAt c t u.listAddr, n)] }).updTidy c t fun k =>
          { k with stall := .none }).tcNext c t
      else s
    | _ => s
  one (one s 0) 1

/-- The command of `n` slots is done. -/
def State.meAdvance (s : State) (c m n : Nat) : State :=
  let u := s.meUnit c m
  match u.lists with
  | [] => s
  | e :: r =>
    if u.slot + n < e.2 then s.updMe c m fun u => { u with slot := u.slot + n, piece := 0, waiting := false }
    else (s.updMe c m fun u => { u with lists := r, slot := 0, piece := 0, waiting := false }).meUnstall c m

/-- 07 R235: a store to ME_LIST_CNT. -/
def State.meLaunch (s : State) (c t m : Nat) (val : Word) : State :=
  let n := bitsOf val 0 13
  let u := s.meUnit c m
  if 4 ≤ u.lists.length then s.updTidy c t fun k => { k with stall := .list m n }
  else (s.updMe c m fun u => { u with lists := u.lists ++ [(s.launchAt c t u.listAddr, n)] }).tcNext c t

def execMeListLaunch (core : Fin 64) (tc : Fin 2) (me : Fin 4) (val : Word) (s : State) : Next :=
  if s.tcRuns core tc then .next (s.meLaunch core tc me val) else .next s

/-- A command of ME `m` with this OP and slot count: its errors, then its effect. -/
def State.meRun (s : State) (c m op slots : Nat) (bad : MeCmd → Bool) (body : MeCmd → State) : Next :=
  match s.meCmd c m with
  | none => .next s
  | some k =>
    if !s.meReady c m then .next s
    else if !s.listOk c m then .next (s.meError c m k.launch .invalidDescriptor)
    else if k.op ≠ op then .next s
    else if k.left < slots ∨ bad k then .next (s.meError c m k.launch .invalidDescriptor)
    else .next (body k)

/-- 07 R237: NOP; an OP outside 0x00 to 0x07 is a command error (R240). -/
def execMeNop (core : Fin 64) (me : Fin 4) (s : State) : Next :=
  match s.meCmd core me with
  | none => .next s
  | some k =>
    if s.meReady core me ∧ 7 < k.op then .next (s.meError core me k.launch .invalidDescriptor)
    else s.meRun core me 0 1 (fun k => !k.zero 1 32) fun _ => s.meAdvance core me 1

/-! ### Banks (07 R233) -/

def MeUnit.bank (u : MeUnit) (b : Nat) : List Word := u.banks.look (List.replicate 256 0) b
def MeUnit.mode (u : MeUnit) (b : Nat) : Nat := u.modes.look 0 b

/-- Banks of tile `t`: one, or two in S48 mode. -/
def tileBank (mode bank t : Nat) : Nat := if mode = mS48 then bank + 2 * t else bank + t

/-- The banks of `tiles` tiles exist. -/
def banksOk (mode bank tiles : Nat) : Bool := decide (bank + (if mode = mS48 then 2 * tiles else tiles) ≤ 4)

/-- Word `e` of bank `b`. -/
def MeUnit.word (u : MeUnit) (b e : Nat) : Word := (u.bank b).getD e 0

/-- Element `e` of a tile as an integer (INT32 or S48). -/
def MeUnit.accInt (u : MeUnit) (mode b e : Nat) : Int :=
  if mode = mS48 then ((u.word b e).toNat : Int) + (u.word (b + 1) e).toInt * 2 ^ 32 else (u.word b e).toInt

/-- Replace the tile at bank `b` by the values of `f`. -/
def MeUnit.setTile (u : MeUnit) (mode b : Nat) (f : Nat → Int) : MeUnit :=
  let vs := (List.range 256).map f
  let lo := vs.map fun v => BitVec.ofInt 32 v
  let u := { u with banks := Tbl.put u.banks b lo, modes := u.modes.put b mode }
  if mode = mS48 then
    { u with banks := Tbl.put u.banks (b + 1) (vs.map fun v => BitVec.ofInt 32 (v / 2 ^ 32)),
             modes := u.modes.put (b + 1) mode }
  else u

/-- 07 R237: ZERO. -/
def execMeZero (core : Fin 64) (me : Fin 4) (s : State) : Next :=
  s.meRun core me 2 1
    (fun k => decide (16 ≤ k.at 4 1) || decide (2 < k.at 5 1) || !k.zero 1 4 || !k.zero 6 32)
    fun k =>
      let one := fun (u : MeUnit) (b : Nat) =>
        if k.at 4 1 / 2 ^ b % 2 = 1 then
          { u with banks := Tbl.put u.banks b (List.replicate 256 (0 : Word)), modes := u.modes.put b (k.at 5 1) }
        else u
      (s.updMe core me fun u => (List.range 4).foldl one u).meAdvance core me 1

/-- BANK and TILES of a command. -/
def MeCmd.bank (k : MeCmd) : Nat := k.at 4 1 % 4
def MeCmd.tiles (k : MeCmd) : Nat := k.at 4 1 / 4 % 4 + 1

/-- A core-bay address field and an extent of `n` bytes from it (07 R240). -/
def bayField (a n : Nat) : Bool := decide (a < 2 ^ 21) && decide (a + n ≤ bayBytes)

/-- Bytes of a tile row in a bank's memory form (07 R237). -/
def rawBytes (mode : Nat) : Nat := if mode = mS48 then 8 else 4

/-- The raw form of ACC_LOAD and STORE_RAW is not well formed. -/
def MeCmd.rawBad (k : MeCmd) (mode : Nat) : Bool :=
  decide (16 ≤ k.at 4 1) || !banksOk mode k.bank k.tiles || k.at 8 4 % 64 != 0 || k.at 16 4 % 64 != 0 ||
  !bayField (k.at 8 4) (15 * k.at 16 4 + (k.tiles - 1) * 16 * rawBytes mode + 16 * rawBytes mode) ||
  !k.zero 1 4 || !k.zero 6 8 || !k.zero 12 16 || !k.zero 20 32

/-- Bay key of row i, tile t in raw form. -/
def MeCmd.rawKey (k : MeCmd) (c mode i t : Nat) : Nat :=
  kBay c (k.at 8 4 + i * k.at 16 4 + t * 16 * rawBytes mode)

/-- The bay rows that a raw command reads, checked for poison. -/
def State.ifBayClean (s : State) (c : Nat) (rows : List (Nat × Nat)) (body : State) : State :=
  match rows.findSome? fun r => s.locPoison (.bay r.1) r.2 with
  | some line => s.corePoison c line
  | none => body

/-- 07 R237: ACC_LOAD; S48 values saturate. -/
def execMeAccLoad (core : Fin 64) (me : Fin 4) (s : State) : Next :=
  s.meRun core me 3 1 (fun k => decide (2 < k.at 5 1) || k.rawBad (k.at 5 1)) fun k =>
    let mode := k.at 5 1
    let w := rawBytes mode
    let rows := (List.range k.tiles).flatMap fun t => (List.range 16).map fun i => (k.rawKey core mode i t, 16 * w)
    let value := fun (t e : Nat) =>
      let v := sInt (8 * w) (s.bayNat (k.rawKey core mode (e / 16) t + e % 16 * w) w)
      if mode = mS48 then clampInt (-140737488355328) 140737488355327 v else v
    let u := (List.range k.tiles).foldl
      (fun (u : MeUnit) t => u.setTile mode (tileBank mode k.bank t) (value t)) (s.meUnit core me)
    s.ifBayClean core rows ((s.updMe core me fun _ => u).meAdvance core me 1)

/-- 07 R237, R256, 06 R193: STORE_RAW; a NaN is written as the canonical one. -/
def execMeStoreRaw (core : Fin 64) (me : Fin 4) (s : State) : Next :=
  s.meRun core me 5 1
    (fun k =>
      let u := s.meUnit core me
      let mode := u.mode k.bank
      !k.zero 5 6 || k.rawBad mode || (List.range k.tiles).any fun t => u.mode (tileBank mode k.bank t) != mode)
    fun k =>
      let u := s.meUnit core me
      let mode := u.mode k.bank
      let w := rawBytes mode
      let value := fun (b e : Nat) =>
        if mode = mFp32 ∧ f32IsNan (u.word b e) then f32Nan.toNat else (u.accInt mode b e % 2 ^ (8 * w)).toNat
      let row := fun (t i : Nat) => (List.range 16).flatMap fun j =>
        leBytes w (value (tileBank mode k.bank t) (16 * i + j))
      let put := fun (s : State) (q : Nat) => s.bayStore (k.rawKey core mode (q % 16) (q / 16)) (row (q / 16) (q % 16))
      let s := (List.range (16 * k.tiles)).foldl put s
      let nf := mode = mFp32 ∧ (List.range k.tiles).any fun t => (u.bank (k.bank + t)).any fun v => !f32Finite v
      (s.updMe core me fun u => if nf then { u with nonfinite := true } else u).meAdvance core me 1

/-! ### MMA (07 R230 to R234) -/

/-- The formats of a command's pair, its KC and its accumulator mode. -/
structure MmaPair where
  a : Nat
  b : Nat
  kc : Nat
  mode : Nat
  deriving DecidableEq, Repr

def mmaPair (pairs : List (Nat × Nat)) (i : Nat) : Option MmaPair :=
  pairs[i]?.bind fun p => (pairOf p.1 p.2).map fun r => ⟨p.1, p.2, r.1, r.2⟩

def MeCmd.tb (k : MeCmd) : Bool := k.at 1 1 % 2 == 1
def MeCmd.clr (k : MeCmd) : Bool := k.at 1 1 / 2 % 2 == 1
def MeCmd.awin (k : MeCmd) : Bool := k.at 1 1 / 4 % 2 == 1
def MeCmd.depth (k : MeCmd) : Nat := k.at 20 4

/-- K fits the pair: a multiple of KC, of 32 for an MX operand, of G for an NGI one. -/
def MmaPair.depthOk (p : MmaPair) (k : Nat) : Bool :=
  decide (1 ≤ k) && decide (k ≤ 65536) && k % p.kc == 0 && (!(isMx p.a || isMx p.b) || k % 32 == 0) &&
  (!isNgi p.b || k % ngiGroup p.b == 0)

/-- A scale array of `rows` rows of `n` bytes at `a`. -/
def scaleField (a pitch rows n : Nat) : Bool := bayField a ((rows - 1) * pitch + n)

/-- The fields of an MMA break 07 R240, for a pair. -/
def MeCmd.mmaBad (k : MeCmd) (p : MmaPair) : Bool :=
  let n := k.depth
  let cols := 16 * k.tiles
  let sc := k.at 6 2
  decide (8 ≤ k.at 1 1) || decide (16 ≤ k.at 4 1) || !k.zero 3 4 || !k.zero 5 6 || !p.depthOk n ||
  !banksOk p.mode k.bank k.tiles || k.at 8 4 % 64 != 0 || k.at 12 4 % 64 != 0 || k.at 16 2 % 64 != 0 ||
  k.at 18 2 % 64 != 0 || decide (bayBytes ≤ k.at 24 4) || decide (bayBytes ≤ k.at 28 4) ||
  (if k.awin then k.at 8 4 != 0 || k.at 16 2 != 0 || k.at 24 4 != 0
   else !bayField (k.at 8 4) (15 * k.at 16 2 + rowBytes (elemBits p.a) n) ||
     (isMx p.a && !scaleField (k.at 24 4) sc 16 (n / 32))) ||
  (if k.tb then !bayField (k.at 12 4) ((cols - 1) * k.at 18 2 + rowBytes (elemBits p.b) n)
   else !bayField (k.at 12 4) ((n - 1) * k.at 18 2 + rowBytes (elemBits p.b) cols)) ||
  (isMx p.b && !scaleField (k.at 28 4) sc cols (n / 32)) ||
  (isNgi p.b && (k.at 28 4 % 2 != 0 || sc % 2 != 0 || !scaleField (k.at 28 4) sc cols (2 * (n / ngiGroup p.b))))

/-- The AWIN conditions of 08 R283 and R287 against the running CONV. -/
def awinBad (k : MeCmd) (p : MmaPair) (d : ConvD) (m : Nat) : Bool :=
  p.a != d.fmt || k.depth != d.k || d.mask / 2 ^ m % 2 == 0 || (d.grouped && k.tiles != 1)

/-- Bits of A's element (i, kk) and B's element (kk, n). -/
def State.aBits (s : State) (c m : Nat) (k : MeCmd) (p : MmaPair) (i kk : Nat) : Nat :=
  if k.awin then
    match s.conv c with
    | some d => s.convElem c d m (s.core c).wu.headGroup i kk
    | none => 0
  else s.elemAt (.bay (kBay c (k.at 8 4 + i * k.at 16 2))) (elemBits p.a) kk

def State.bBits (s : State) (c : Nat) (k : MeCmd) (p : MmaPair) (n kk : Nat) : Nat :=
  if k.tb then s.elemAt (.bay (kBay c (k.at 12 4 + n * k.at 18 2))) (elemBits p.b) kk
  else s.elemAt (.bay (kBay c (k.at 12 4 + kk * k.at 18 2))) (elemBits p.b) n

/-- Scale bytes of MX operands (07 R232). -/
def State.aScale (s : State) (c : Nat) (k : MeCmd) (p : MmaPair) (i kk : Nat) : Nat :=
  if isMx p.a then (s.bayByte (kBay c (k.at 24 4 + i * k.at 6 2 + kk / 32))).toNat else 0
def State.bScale (s : State) (c : Nat) (k : MeCmd) (p : MmaPair) (n kk : Nat) : Nat :=
  if isMx p.b then (s.bayByte (kBay c (k.at 28 4 + n * k.at 6 2 + kk / 32))).toNat else 0

/-- The multiplier of an NGI group. -/
def State.ngiMul (s : State) (c : Nat) (k : MeCmd) (n g : Nat) : Int :=
  sInt 16 (s.bayNat (kBay c (k.at 28 4 + n * k.at 6 2 + 2 * g)) 2)

/-- One chunk into one element of tile `t` (06 R203 to R205): the value and the saturations so far. -/
def State.mmaChunk (s : State) (c m : Nat) (k : MeCmd) (p : MmaPair) (t e : Nat) (acc : Int × Nat) (chunk : Nat) :
    Int × Nat :=
  let i := e / 16
  let n := 16 * t + e % 16
  let ks := upFrom (chunk * p.kc) p.kc
  let ints := fun (l : List Nat) => l.map fun kk =>
    (elemInt p.a (s.aBits c m k p i kk), elemInt p.b (s.bBits c k p n kk))
  if p.mode = mFp32 then
    let ab := ks.map fun kk => (elemValue p.a (s.aScale c k p i kk) (s.aBits c m k p i kk),
      elemValue p.b (s.bScale c k p n kk) (s.bBits c k p n kk))
    ((accF32 (BitVec.ofInt 32 acc.1) ab).toInt, acc.2)
  else if p.mode = mInt32 then
    let r := accI32 acc.1 (ints ks)
    (r.1, if r.2 then acc.2 + 1 else acc.2)
  else
    let g := ngiGroup p.b
    if (chunk + 1) * p.kc % g ≠ 0 then acc
    else
      let q := chunk * p.kc / g
      let r := accNgi acc.1 ((ints (upFrom (q * g) g)).foldl (fun a x => a + x.1 * x.2) 0) (s.ngiMul c k n q)
      (r.1, if r.2 then acc.2 + 1 else acc.2)

/-- Chunk-tiles `[q0, q1)` of the command: chunks in ascending order, the tiles of a chunk in turn (R230). -/
def tileChunks (tiles q0 q1 t : Nat) : List Nat :=
  (upFrom (q0 / tiles) (q1 / tiles - q0 / tiles + 1)).filter fun h =>
    decide (q0 ≤ h * tiles + t) && decide (h * tiles + t < q1)

/-- The bank contents that the first piece starts from: zero under CLR; else what the banks hold, which is
open where they were written in another mode. -/
def State.mmaStart (s : State) (c m : Nat) (k : MeCmd) (mode t e : Nat) : Int :=
  let u := s.meUnit c m
  let b := tileBank mode k.bank t
  if (s.meUnit c m).piece = 0 ∧ k.clr then 0
  else if (s.meUnit c m).piece = 0 ∧ (u.mode b ≠ mode ∨ (mode = mS48 ∧ u.mode (b + 1) ≠ mode)) then
    let w := Config.freeWord s.free (256 * t + e)
    if mode = mS48 then w.toInt * 2 ^ 16 + (Config.freeWord (s.free + 1) (256 * t + e)).toNat % 2 ^ 16 else w.toInt
  else u.accInt mode b e

/-- One piece: the banks and the saturations. -/
def State.mmaPiece (s : State) (c m : Nat) (k : MeCmd) (p : MmaPair) (q0 q1 : Nat) : MeUnit × Nat :=
  let tile := fun (t : Nat) =>
    let ch := tileChunks k.tiles q0 q1 t
    (List.range 256).map fun e => ch.foldl (s.mmaChunk c m k p t e) (s.mmaStart c m k p.mode t e, 0)
  let step := fun (a : MeUnit × Nat) (t : Nat) =>
    let l := tile t
    (a.1.setTile p.mode (tileBank p.mode k.bank t) fun e => (l.getD e (0, 0)).1,
     a.2 + (l.map Prod.snd).foldl (· + ·) 0)
  (List.range k.tiles).foldl step (s.meUnit c m, 0)

/-- The bay rows that an MMA reads. -/
def MeCmd.mmaRows (k : MeCmd) (c : Nat) (p : MmaPair) : List (Nat × Nat) :=
  let cols := 16 * k.tiles
  let n := k.depth
  (if k.awin then [] else (List.range 16).map fun i => (kBay c (k.at 8 4 + i * k.at 16 2), rowBytes (elemBits p.a) n)) ++
  (if k.tb then (List.range cols).map fun i => (kBay c (k.at 12 4 + i * k.at 18 2), rowBytes (elemBits p.b) n)
   else (List.range n).map fun i => (kBay c (k.at 12 4 + i * k.at 18 2), rowBytes (elemBits p.b) cols)) ++
  (if isMx p.b then (List.range cols).map fun i => (kBay c (k.at 28 4 + i * k.at 6 2), n / 32) else []) ++
  (if isNgi p.b then (List.range cols).map fun i => (kBay c (k.at 28 4 + i * k.at 6 2), 2 * (n / ngiGroup p.b))
   else []) ++
  (if isMx p.a && !k.awin then (List.range 16).map fun i => (kBay c (k.at 24 4 + i * k.at 6 2), n / 32) else [])

/-- An armed residue injection waits for this ME (19 R625). -/
def State.residueArmed (s : State) (c m : Nat) : Bool :=
  s.test.inj.any fun i => i.kind == 1 && i.target == c && i.unit == m && !i.hit

/-- One piece of a checked MMA. -/
def State.mmaStep (s : State) (c m : Nat) (k : MeCmd) (p : MmaPair) : State :=
  if s.residueArmed c m then
    let armed := s.test.inj.map fun (i : Injection) => { i with hit := true }
    let s := { s with test := { s.test with inj := armed } }
    s.coreFault c 0x10 m true
  else
    let q0 := (s.meUnit c m).piece
    let total := k.depth / p.kc * k.tiles
    let q1 := min total (q0 + 8192)
    s.ifBayClean c (k.mmaRows c p) <|
      let (u, sat) := s.mmaPiece c m k p q0 q1
      let s := { s with free := s.free + 2 }.add64 (ro .co c 0x58) (q1 - q0)
      let v : MeUnit := { u with piece := q1 }
      let s := s.updCore c fun x => { x with me := x.me.put m v, sat := x.sat + sat }
      if q1 < total then s
      else
        let s := s.meAdvance c m 1
        if k.awin then s.awinDone c m else s

/-- 07 R230, R234, 08 R283: an MMA, or its next piece. An AWIN MMA waits for a CONV, for the rows of the head
group, and until the group it has consumed is released. -/
def execMeMma (core : Fin 64) (me : Fin 4) (ce : Option (Fin 24)) (s : State) : Next :=
  let pair := fun (k : MeCmd) => (s.gangOf core).bind fun g => mmaPair g.pairs (k.at 2 1)
  s.meRun core me 1 1 (fun k => (pair k).elim true fun p => k.mmaBad p) fun k =>
    match pair k with
    | none => s
    | some p =>
      let s := s.bayCorrected core ce
      if !k.awin then s.mmaStep core me k p
      else match s.conv core with
        | none => s
        | some d =>
          let w := (s.core core).wu
          if awinBad k p d me then s.meError core me k.launch .invalidDescriptor
          else if w.released.contains me.val ∨ d.groups ≤ w.headGroup ∨
              (!d.noSync ∧ w.rows < d.rowsNeeded w.headGroup) then s
          else s.mmaStep core me k p

/-! ### STORE (07 R238, R239) -/

def MeCmd.storeQ (k : MeCmd) (qrecs : List (List Byte)) : Option Qrec := (qrecs[k.at 2 1]?).map qrecOf

def MeCmd.tc (k : MeCmd) : Bool := k.at 1 1 % 2 == 1
def MeCmd.toDev (k : MeCmd) : Bool := k.at 1 1 / 2 % 2 == 1
def MeCmd.rows (k : MeCmd) : Nat := k.at 5 1
def MeCmd.cols (k : MeCmd) : Nat := k.at 6 1

/-- Bytes that the output covers from C_ADDR, and that its scales cover from SC_OUT. -/
def MeCmd.outBytes (k : MeCmd) (q : Qrec) : Nat :=
  let w := elemBits q.outFmt
  let last := 16 * (k.tiles - 1) + k.cols
  if k.tc then (last - 1) * k.at 16 4 + rowBytes w k.rows else (k.rows - 1) * k.at 16 4 + rowBytes w last

def MeCmd.scBytes (k : MeCmd) (q : Qrec) : Nat :=
  if isMx q.outFmt then (k.rows - 1) * k.at 20 4 + k.tiles / 2
  else if isNgi q.outFmt then (k.rows - 1) * k.at 20 4 + 2 * (16 * k.tiles / ngiGroup q.outFmt) else 0

/-- The mode of every bank that the STORE reads, if they agree. -/
def MeCmd.storeMode (k : MeCmd) (u : MeUnit) : Option Nat :=
  let mode := u.mode k.bank
  let n := if mode = mS48 then 2 * k.tiles else k.tiles
  if (List.range n).all fun b => u.mode (k.bank + b) == mode then some mode else none

/-- The address of the output, as a device address or one of the bay (07 R240: never form 10 or 11). -/
def spaceField (dev : Bool) (a n : Nat) : Bool :=
  if dev then decide (addrForm (BitVec.ofNat 64 a) < 2) && addrReservedZero (BitVec.ofNat 64 a)
  else bayField a n

/-- SC_OUT has no reserved bit set and, in the bay, lies in it, also where the output has no scales (07 R238, R240). -/
def MeCmd.scOk (k : MeCmd) : Bool := spaceField k.toDev (k.at 24 8) 1

/-- ROWS and COLS: 1 to 16, bits [7:5] reserved. -/
def outside (v : Nat) : Bool := decide (v < 1) || decide (16 < v)

/-- The STORE's fields break 07 R240. -/
def MeCmd.storeBad (k : MeCmd) (q : Qrec) (mode : Nat) : Bool :=
  let grouped := isMx q.outFmt || isNgi q.outFmt
  decide (4 ≤ k.at 1 1) || decide (16 ≤ k.at 4 1) || outside k.rows || outside k.cols || !k.zero 3 4 ||
  !k.zero 7 8 || !k.zero 48 64 || !banksOk mode k.bank k.tiles ||
  (if q.path = 2 then mode != mFp32 else mode == mFp32) ||
  k.at 8 8 % 64 != 0 || k.at 16 4 % 64 != 0 || !spaceField k.toDev (k.at 8 8) (k.outBytes q) ||
  !k.scOk ||
  (grouped && (!spaceField k.toDev (k.at 24 8) (k.scBytes q) || k.cols != 16 || k.tc)) ||
  (isMx q.outFmt && k.tiles % 2 != 0) ||
  (isNgi q.outFmt && (k.tiles % (ngiGroup q.outFmt / 16) != 0 || k.at 24 8 % 2 != 0 || k.at 20 4 % 2 != 0))

/-- w of 06 R211 for element (i, j) of tile t. -/
def accScaled (u : MeUnit) (mode : Nat) (q : Qrec) (bank t i j : Nat) : F32 :=
  let b := tileBank mode bank t
  let e := 16 * i + j
  if mode = mFp32 then scaled (f32 (u.word b e)) q.scale
  else
    let v := u.accInt mode b e
    scaled (.fin (decide (v < 0)) v.natAbs 0) q.scale

/-- What a STORE writes for row i: the elements by column, the scale bytes, QUANT_NAN counts and whether a
result is infinite or NaN. -/
structure StoreRow where
  elems : List Nat
  scales : List Byte
  nans : Nat
  nonfinite : Bool
  deriving DecidableEq, Repr

/-- Blocks of `n` consecutive columns of a row. -/
def blocksOf (n : Nat) (l : List F32) (fuel : Nat) : List (List F32) :=
  match fuel with
  | 0 => []
  | fuel + 1 => if l.length < n then [] else l.take n :: blocksOf n (l.drop n) fuel

/-- A result that is infinite or NaN before the choice of INF_POL (07 R256): the value itself, or what a narrow format
makes of it when overflow propagates. -/
def resultNonfinite (q : Qrec) (w : F32) (r : Nat) : Bool :=
  !f32Finite w || (!isInt q.outFmt && q.outFmt != 0 &&
    (fmtOf q.outFmt).any fun f => !(f.decode (toNarrow w 0 f q.fpRnd true r)).isFin)

/-- One element of a plain format: its bits, whether a NaN was written as an integer. -/
def plainOut (q : Qrec) (w : F32) (r : Nat) : Nat × Bool :=
  if isInt q.outFmt then
    let o := intOut q w
    ((o.1 % 2 ^ elemBits q.outFmt).toNat, o.2)
  else if q.outFmt = 0 then (if f32IsNan w then f32Nan.toNat else w.toNat, false)
  else match fmtOf q.outFmt with
    | some f => (toNarrow w 0 f q.fpRnd q.infPol r, false)
    | none => (0, false)

/-- Row `i` of the tiles of a STORE; what lies beyond COLS is no output and counts nothing. -/
def storeRow (u : MeUnit) (mode : Nat) (q : Qrec) (bank tiles width : Nat) (rand : Nat → Nat) (i : Nat) : StoreRow :=
  let cols := List.range (16 * tiles)
  if q.path = 0 then
    ⟨cols.map fun n => (requant q (u.accInt mode (tileBank mode bank (n / 16)) (16 * i + n % 16)) %
      2 ^ elemBits q.outFmt).toNat, [], 0, false⟩
  else
    let ws := cols.map fun n => accScaled u mode q bank (n / 16) i (n % 16)
    if isMx q.outFmt then
      let bs := (blocksOf 32 ws tiles).zip (List.range tiles)
      let outs := bs.map fun b =>
        mxBlock b.1 q.outFmt q.fpRnd q.infPol ((List.range 32).map fun x => rand (32 * b.2 + x))
      ⟨outs.flatMap Prod.snd, outs.map fun o => BitVec.ofNat 8 o.1, 0, ws.any fun w => !f32Finite w⟩
    else if isNgi q.outFmt then
      let qmax := if elemBits q.outFmt = 4 then 7 else 127
      let outs := (blocksOf (ngiGroup q.outFmt) ws tiles).map fun b => ngiGroupOut b qmax
      ⟨outs.flatMap fun o => o.2.1.map fun v => (v % 2 ^ elemBits q.outFmt).toNat,
       outs.flatMap fun o => leBytes 2 (o.1 % 65536).toNat, (outs.filter fun o => o.2.2).length,
       ws.any fun w => !f32Finite w⟩
    else
      let outs := (ws.zip cols).map fun e => (e, plainOut q e.1 (rand e.2))
      let kept := outs.filter fun o => decide (o.1.2 % 16 < width)
      ⟨outs.map fun o => o.2.1, [], (kept.filter fun o => o.2.2).length,
       kept.any fun o => resultNonfinite q o.1.1 (rand o.1.2)⟩

/-- The random words of row i (06 R219, 07 R239). -/
def MeCmd.random (k : MeCmd) (q : Qrec) (seed i n : Nat) : Nat :=
  q.random seed ((k.at 32 8 + i * k.at 40 4 + n * k.at 44 4) % 2 ^ 64)

/-- The output of a STORE at its places. -/
def State.storeOut (s : State) (c m : Nat) (k : MeCmd) (q : Qrec) (mode : Nat) (dst sc : Loc) : State :=
  let u := s.meUnit c m
  let seed := ((s.gangOf c).map fun g => leNat (g.args.take 8)).getD 0
  let w := elemBits q.outFmt
  let rows := (List.range k.rows).map fun i => (i, storeRow u mode q k.bank k.tiles k.cols (k.random q seed i) i)
  let putRow := fun (s : State) (e : Nat × StoreRow) =>
    let put := fun (s : State) (n : Nat) =>
      if k.cols ≤ n % 16 then s
      else if k.tc then s.putElem (dst.plus (n * k.at 16 4)) w e.1 (e.2.elems.getD n 0)
      else s.putElem (dst.plus (e.1 * k.at 16 4)) w n (e.2.elems.getD n 0)
    let s := (List.range (16 * k.tiles)).foldl put s
    if e.2.scales.isEmpty then s else s.locStore (sc.plus (e.1 * k.at 20 4)) e.2.scales
  let s := rows.foldl putRow s
  let nan := rows.foldl (fun a e => a + e.2.nans) 0
  let nf := rows.any fun e => e.2.nonfinite
  let s := s.updCore c fun x => { x with qnan := x.qnan + nan }
  (s.updMe c m fun u => if nf then { u with nonfinite := true } else u).meAdvance c m 2

/-- Where C_ADDR and SC_OUT lead. -/
def State.storeAcc (s : State) (c : Nat) (k : MeCmd) (o n : Nat) : DevAcc :=
  if k.toDev then s.devAcc (s.coreCtx c) (BitVec.ofNat 64 (k.at o 8)) n else .ok (.bay (kBay c (k.at o 8)))

/-- 07 R238 to R240: STORE. -/
def execMeStore (core : Fin 64) (me : Fin 4) (s : State) : Next :=
  let u := s.meUnit core me
  let qrec := fun (k : MeCmd) => (s.gangOf core).bind fun g => k.storeQ g.qrecs
  s.meRun core me 4 2
    (fun k => match qrec k, k.storeMode u with
      | some q, some mode => k.storeBad q mode
      | _, _ => true)
    fun k => match qrec k, k.storeMode u with
      | some q, some mode =>
        if q.path = 0 ∧ mode = mS48 ∧ (q.m < -32768 ∨ 32767 < q.m) then s.meError core me k.launch .limitRejected
        else
          let n := if isMx q.outFmt || isNgi q.outFmt then k.scBytes q else 0
          let sc := if n = 0 then DevAcc.ok (.bay 0) else s.storeAcc core k 24 n
          match s.storeAcc core k 8 (k.outBytes q), sc with
          | .ok dst, .ok sl => s.storeOut core me k q mode dst sl
          | .waits, _ => s
          | _, .waits => s
          | _, _ => s.progErrorAt core k.launch.tc k.launch.pc me 2
      | _, _ => s

/-- After an abort the output of the STORE at the front of an ME's lists is undefined (04 R153). -/
def State.spoilStore (s : State) (c m : Nat) : State :=
  match s.meCmd c m, (s.gangOf c).map Gang.qrecs with
  | some k, some qs =>
    match k.storeQ qs with
    | some q =>
      if k.op ≠ 4 then s
      else match s.storeAcc c k 8 (k.outBytes q) with
        | .ok l => s.spoilLoc l (k.outBytes q)
        | _ => s
    | none => s
  | _, _ => s

/-! ### WAIT and SIGNAL (07 R236, R251) -/

def MeCmd.semBad (k : MeCmd) : Bool := decide (32 ≤ k.at 4 1) || !k.zero 1 4 || !k.zero 5 8 || !k.zero 10 32

def MeCmd.waitOver (k : MeCmd) (x : Core) : Bool := x.semReached (k.at 4 1) (BitVec.ofNat 16 (k.at 8 2))

/-- 07 R251: a WAIT passes, or holds the ME. -/
def execMeWait (core : Fin 64) (me : Fin 4) (s : State) : Next :=
  s.meRun core me 6 1 MeCmd.semBad fun k =>
    if k.waitOver (s.core core) then s.meAdvance core me 1 else s.updMe core me fun u => { u with waiting := true }

/-- 07 R251: the semaphore of a held WAIT has reached its value. -/
def execMeWaitSatisfied (core : Fin 64) (me : Fin 4) (s : State) : Next :=
  match s.meCmd core me with
  | none => .next s
  | some k =>
    if s.coreRuns core ∧ (s.meUnit core me).waiting ∧ k.waitOver (s.core core) then .next (s.meAdvance core me 1)
    else .next s

/-- 07 R236: SIGNAL. -/
def execMeSignal (core : Fin 64) (me : Fin 4) (s : State) : Next :=
  s.meRun core me 7 1 MeCmd.semBad fun k => (s.semAdd core (k.at 4 1) (k.at 8 2)).meAdvance core me 1

end Sys2Proof.Machine
end

