-- ==== Sys2Proof/Machine/Mover.lean ====
section
/-! DEFINITION. The data mover (07 R258 to R260): its queues, COPY, TRANSPOSE and FILL in steps of 4 KiB, and
the end of a descriptor. -/

namespace Sys2Proof.Machine

structure DmD where
  op : Nat
  flags : Nat
  srcSpace : Nat
  dstSpace : Nat
  elem : Nat
  sem : Nat
  peer : Nat
  src : Nat
  dst : Nat
  len0 : Nat
  cnt1 : Nat
  cnt2 : Nat
  ss1 : Nat
  ss2 : Nat
  ds1 : Nat
  ds2 : Nat
  fill : Nat
  clean : Bool
  deriving DecidableEq, Repr

def dmD (d : List Byte) : DmD :=
  let g := fieldOf d
  { op := g 0 1, flags := g 1 1, srcSpace := g 2 1, dstSpace := g 3 1, elem := g 4 1, sem := g 5 1, peer := g 6 2,
    src := g 8 8, dst := g 16 8, len0 := g 24 4, cnt1 := g 28 4, cnt2 := g 32 4, ss1 := g 36 4, ss2 := g 40 4,
    ds1 := g 44 4, ds2 := g 48 4, fill := g 52 4, clean := zeroBytes d 56 64 }

def DmD.sig (d : DmD) : Bool := d.flags % 2 == 1
def DmD.sigRemote (d : DmD) : Bool := d.flags / 2 % 2 == 1
def DmD.total (d : DmD) : Nat := d.len0 * d.cnt1 * d.cnt2

/-- Errors that the descriptor shows by itself, in a gang of `width` cores (07 R258, R260). -/
def DmD.bad (d : DmD) (width : Nat) : Bool :=
  !(decide (1 ≤ d.op) && decide (d.op ≤ 3)) || decide (4 ≤ d.flags) || decide (2 < d.srcSpace) ||
  decide (2 < d.dstSpace) || decide (32 ≤ d.sem) || !d.clean || d.len0 == 0 || decide (2 ^ 24 < d.len0) ||
  d.cnt1 == 0 || d.cnt2 == 0 || (d.op == 3 && d.elem != 0) ||
  (d.op == 2 && (! [1, 2, 4].contains d.elem || d.len0 % d.elem != 0)) ||
  (d.srcSpace != 0 && decide (2 ^ 21 ≤ d.src)) || (d.dstSpace != 0 && decide (2 ^ 21 ≤ d.dst)) ||
  decide (width ≤ d.peer)

def State.dmQueue (s : State) (c q : Nat) : DmQueue := if q = 0 then (s.core c).dm0 else (s.core c).dm1

def State.updDm (s : State) (c q : Nat) (f : DmQueue → DmQueue) : State :=
  s.updCore c fun k => if q = 0 then { k with dm0 := f k.dm0 } else { k with dm1 := f k.dm1 }

def State.dmFront (s : State) (c q : Nat) : Option (Launch × DmD) :=
  (s.dmQueue c q).descs.head?.map fun l => (l, dmD (s.bayLoad (kBay c l.addr) 64))

/-- How an access of the data mover ends: at a place, denied, waiting for a slice, or with the status that 16
R532 gives a form 11 address. -/
inductive DmAcc where
  | ok (l : Loc)
  | denied
  | waits
  | refused (st : Status)
  deriving DecidableEq, Repr

/-- `n` bytes at a device address: form 11 names another package's HBM, or this one's by its own ID. -/
def State.dmDev (s : State) (ctx : Nat) (a : Word64) (n : Nat) : DmAcc :=
  match addrSpace a with
  | some (.peer p b) =>
    if p = s.pkgId then
      match s.devAcc ctx (BitVec.ofNat 64 b) n with
      | .ok l => .ok l
      | .denied => .denied
      | .waits => .waits
    else if !addrRangeOk a n then .denied
    else match s.peerRefusal p with
      | some st => .refused st
      | none => .ok (.mem (kPeer p b))
  | _ => match s.devAcc ctx a n with
    | .ok l => .ok l
    | .denied => .denied
    | .waits => .waits

/-- `n` bytes at address `a` of a space of 07 R258. -/
def State.dmAcc (s : State) (c space peer a n : Nat) : DmAcc :=
  if space = 0 then s.dmDev (s.coreCtx c) (BitVec.ofNat 64 a) n
  else if bayBytes < a + n then .denied
  else if space = 1 then .ok (.bay (kBay c a))
  else match (s.core c).gang.bind fun u => s.memberCore u peer with
    | some k => .ok (.bay (kBay k a))
    | none => .waits

/-- One run of bytes of a step: offset from SRC, from DST, length, place in its row. -/
structure DmRun where
  src : Nat
  dst : Nat
  n : Nat
  row : Nat
  deriving DecidableEq, Repr

/-- The runs of the next `n` bytes of a COPY or FILL from byte `o` of the descriptor on. -/
def DmD.runs (d : DmD) (o n fuel : Nat) : List DmRun :=
  match fuel with
  | 0 => []
  | fuel + 1 =>
    if n = 0 ∨ d.total ≤ o then []
    else
      let row := o / d.len0
      let x := o % d.len0
      let k := min n (d.len0 - x)
      let r := row % d.cnt1
      let p := row / d.cnt1
      ⟨r * d.ss1 + p * d.ss2 + x, r * d.ds1 + p * d.ds2 + x, k, x⟩ :: d.runs (o + k) (n - k) fuel

/-- The elements of the next `n` bytes of a TRANSPOSE, in the order of its output. -/
def DmD.elems (d : DmD) (o n : Nat) : List DmRun :=
  let e0 := o / d.elem
  let e1 := min (d.total / d.elem) (e0 + n / d.elem)
  let per := d.len0 / d.elem
  (upFrom e0 (e1 - e0)).map fun i =>
    let r := i % d.cnt1
    let e := i / d.cnt1 % per
    let p := i / (d.cnt1 * per)
    ⟨r * d.ss1 + p * d.ss2 + e * d.elem, e * d.ds1 + p * d.ds2 + r * d.elem, d.elem, 0⟩

/-- FILL's bytes of a run: the 4-byte value repeated along the row. -/
def DmD.fillBytes (d : DmD) (x n : Nat) : List Byte :=
  (List.range n).map fun i => BitVec.ofNat 8 (d.fill / 256 ^ ((x + i) % 4))

/-- Carry out the runs of a step; an access that R260 forbids is a program error, one that 16 R532 refuses ends
the RUN with that status. -/
def State.dmStep (s : State) (c q : Nat) (l : Launch) (d : DmD) (runs : List DmRun) (n : Nat) : State :=
  let fill := d.op == 3
  let accs := runs.map fun r =>
    (if fill then DmAcc.ok (.bay 0) else s.dmAcc c d.srcSpace d.peer (d.src + r.src) r.n,
     s.dmAcc c d.dstSpace d.peer (d.dst + r.dst) r.n, r)
  let refusal := accs.findSome? fun a => match a.1, a.2.1 with
    | .refused st, _ => some st
    | _, .refused st => some st
    | _, _ => none
  if accs.any fun a => a.1 == .denied || a.2.1 == .denied then s.progError c l 7
  else match refusal with
    | some st => s.endRunWith c l st
    | none =>
      if accs.any fun a => a.1 == .waits || a.2.1 == .waits then s
      else
        let one := fun (s : State) (a : DmAcc × DmAcc × DmRun) =>
          match a.1, a.2.1 with
          | .ok x, .ok y => if fill then s.locStore y (d.fillBytes a.2.2.row a.2.2.n) else s.locCopy x y a.2.2.n
          | _, _ => s
        (accs.foldl one s).updDm c q fun k => { k with moved := k.moved + n }

/-- One 4 KiB step of the front descriptor of a queue, if it has this OP. -/
def State.dmRow (s : State) (c q op : Nat) (runs : DmD → Nat → List DmRun) : State :=
  match s.dmFront c q, s.gangOf c with
  | some (l, d), some g =>
    let o := (s.dmQueue c q).moved
    if !s.coreRuns c ∨ !s.blockGoes .co c ∨ (q = 1 ∧ s.walkHolds c) then s
    else if d.bad g.width then (if d.op = op ∨ op = 1 then s.progError c l 7 else s)
    else if d.op ≠ op ∨ d.total ≤ o then s
    else s.dmStep c q l d (runs d o) (min 4096 (d.total - o))
  | _, _ => s

/-- 07 R258: COPY; a malformed descriptor is found here too. -/
def execDmCopy (core : Fin 64) (queue : Fin 2) (ce : Option (Fin 24)) (s : State) : Next :=
  .next ((s.dmRow core queue 1 fun d o => d.runs o 4096 4097).bayCorrected core
    (if (s.dmFront core queue).isSome then ce else none))

/-- 07 R258: TRANSPOSE. -/
def execDmTranspose (core : Fin 64) (queue : Fin 2) (s : State) : Next :=
  .next (s.dmRow core queue 2 fun d o => d.elems o 4096)

/-- 07 R258: FILL. -/
def execDmFill (core : Fin 64) (queue : Fin 2) (s : State) : Next :=
  .next (s.dmRow core queue 3 fun d o => d.runs o 4096 4097)

/-- A stalled launch goes on once a place is free (07 R259). -/
def State.dmUnstall (s : State) (c q : Nat) : State :=
  let one := fun (s : State) (t : Nat) =>
    match ((s.core c).tidy t).stall with
    | .dm k a =>
      if k = q ∧ (s.dmQueue c q).descs.length < 16 then
        ((s.updDm c q fun x => { x with descs := x.descs ++ [s.launchAt c t a] }).updTidy c t fun k =>
          { k with stall := .none }).tcNext c t
      else s
    | _ => s
  one (one s 0) 1

/-- 07 R245, R259: a store to DM_LAUNCH. -/
def State.dmLaunch (s : State) (c t q : Nat) (val : Word) : State :=
  let a := bitsOf val 0 21
  if 16 ≤ (s.dmQueue c q).descs.length then s.updTidy c t fun k => { k with stall := .dm q a }
  else (s.updDm c q fun x => { x with descs := x.descs ++ [s.launchAt c t a] }).tcNext c t

def execDmLaunch (core : Fin 64) (tc : Fin 2) (queue : Fin 2) (val : Word) (s : State) : Next :=
  if s.tcRuns core tc then .next (s.dmLaunch core tc queue val) else .next s

/-- 07 R258, R259: the front descriptor's writes have landed; it signals and leaves the queue. -/
def execDmDescriptorDone (core : Fin 64) (queue : Fin 2) (s : State) : Next :=
  match s.dmFront core queue with
  | none => .next s
  | some (_, d) =>
    if !s.coreRuns core ∨ (s.dmQueue core queue).moved < d.total ∨ d.total = 0 then .next s
    else
      let s := if !d.sig then s
        else if d.sigRemote then
          match (s.core core).gang with
          | some u => s.signalMember u d.peer d.sem
          | none => s
        else s.semAdd core d.sem 1
      .next ((s.updDm core queue fun k => { k with descs := k.descs.drop 1, moved := 0 }).dmUnstall core queue)

/-- After an abort the next 4 KiB of a queue's front descriptor is undefined (04 R153). -/
def State.spoilDm (s : State) (c q : Nat) : State :=
  match s.dmFront c q, s.gangOf c with
  | some (_, d), some g =>
    let o := (s.dmQueue c q).moved
    if d.bad g.width ∨ d.total ≤ o then s
    else
      let runs := if d.op = 2 then d.elems o 4096 else d.runs o 4096 4097
      runs.foldl (fun (s : State) r => match s.dmAcc c d.dstSpace d.peer (d.dst + r.dst) r.n with
        | .ok l => s.spoilLoc l r.n
        | _ => s) s
  | _, _ => s

end Sys2Proof.Machine
end

