-- ==== Sys2Proof/Machine/Detect.lean ====
section
/-! DEFINITION. The window unit's other operations: crop-and-resize (08 R288 to R290), box decoding (R291 to
R297), non-maximum suppression (R298 to R300), depth-to-space (R286), and the end of a descriptor (R274). -/

namespace Sys2Proof.Machine

/-! ### Address fields "device or bay" (08 R275) -/

/-- An address field of 8 bytes with its SPACES bit. -/
structure Span where
  bay : Bool
  a : Nat
  n : Nat
  deriving DecidableEq, Repr

def spanOf (d : List Byte) (bit o n : Nat) : Span := ⟨fieldOf d 3 1 / 2 ^ bit % 2 == 1, fieldOf d o 8, n⟩

/-- The form of the address is one that R275 and R276 accept. -/
def Span.formOk (p : Span) : Bool :=
  if p.bay then decide (p.a < 2 ^ 21)
  else decide (addrForm (BitVec.ofNat 64 p.a) < 2) && addrReservedZero (BitVec.ofNat 64 p.a)

/-- `n` bytes from byte `o` of the place. -/
def Span.sub (p : Span) (e : Nat × Nat) : Span := { p with a := p.a + e.1, n := e.2 }

/-- Byte `o` of the place, for core `c`. -/
def Span.at_ (p : Span) (c o : Nat) : Loc :=
  if p.bay then .bay (kBay c (p.a + o)) else .mem ((addrKey (BitVec.ofNat 64 (p.a + o))).getD 0)

def State.spanAcc (s : State) (c : Nat) (p : Span) : DevAcc :=
  if p.bay then (if p.a + p.n ≤ bayBytes then .ok (.bay (kBay c p.a)) else .denied)
  else s.devAcc (s.coreCtx c) (BitVec.ofNat 64 p.a) p.n

/-- How accesses to several places end: as the first that is not allowed. -/
def State.spansAcc (s : State) (c : Nat) (ps : List Span) : DevAcc :=
  ((ps.map (s.spanAcc c)).find? fun a => match a with | .ok _ => false | _ => true).getD (.ok (.bay 0))

/-- Carry out a step whose accesses are `ps` (08 R276). -/
def State.withSpans (s : State) (c : Nat) (l : Launch) (ps : List Span) (body : State) : State :=
  match s.spansAcc c ps with
  | .ok _ => body
  | .denied => s.wuDenied c l
  | .waits => s

def Span.read (p : Span) (c : Nat) : Loc × Nat := (p.at_ c 0, p.n)

/-- A unit that reads a poisoned line ends the RUN (18 R604); else `body`. -/
def State.ifClean (s : State) (c : Nat) (reads : List (Loc × Nat)) (body : State → State) : State :=
  let s := reads.foldl (fun (s : State) (e : Loc × Nat) => s.locTouch e.1 e.2) s
  match reads.findSome? fun e => s.locPoison e.1 e.2 with
  | some line => s.corePoison c line
  | none => body s

/-- The value of a feature element: an INT8 as its integer, BF16 and FP16 exactly. -/
def featureValue (fmt bits : Nat) : F32 :=
  match fmtOf fmt with
  | some f => toF32 (f.decode bits)
  | none => f32OfInt (sInt 8 bits)

def featFmt (fmt : Nat) : Bool := [1, 2, 5].contains fmt
def featBytes (fmt : Nat) : Nat := if fmt = 5 then 1 else 2

/-- Positive and finite. -/
def f32Pos (v : F32) : Bool := f32Finite v && f32Lt f32Zero v

/-- A count of the slice (08 R306). -/
def State.countBad (s : State) (c n : Nat) : State :=
  s.updWu c fun w => { w with bad := w.bad + n, badInput := w.badInput + n }

/-- Start an operation that has passed its checks. -/
def State.wuStart (s : State) (c : Nat) : State :=
  s.updWu c fun w => { w with started := true, items := 0, rows := 0, bad := 0, aux := 0, moves := 0, tested := 0, ended := false }

/-- The front descriptor is checked once, then each command does one step of it. -/
def State.wuStep (s : State) (c op : Nat) (check : Launch → List Byte → State → WuCheck)
    (step : Launch → List Byte → State → State) : State :=
  match s.wuFront c with
  | none => s
  | some (l, d) =>
    if !s.wuRuns c op then s
    else if (s.core c).wu.started then step l d s
    else s.wuBegin c l (check l d s) fun s => step l d (s.wuStart c)

def outOf (v lo hi : Nat) : Bool := decide (v < lo) || decide (hi < v)

/-! ### Crop and resize (08 R288 to R290) -/

structure CropD where
  fmt : Nat
  nbox : Nat
  oh : Nat
  ow : Nat
  nb : Nat
  ih : Nat
  iw : Nat
  nImg : Nat
  cs : F32
  imgPitch : Nat
  rowPitch : Nat
  cbPitch : Nat
  px : Nat
  dBox : Nat
  dRow : Nat
  dCb : Nat
  dPx : Nat
  deriving DecidableEq, Repr

def cropD (d : List Byte) : CropD :=
  let g := fieldOf d
  { fmt := g 4 1, nbox := g 6 2, oh := g 8 2, ow := g 10 2, nb := g 12 2, ih := g 14 2, iw := g 16 2,
    nImg := g 18 2, cs := BitVec.ofNat 32 (g 20 4), imgPitch := g 32 4, rowPitch := g 36 4, cbPitch := g 40 4,
    px := g 44 2, dBox := g 64 4, dRow := g 68 4, dCb := g 72 4, dPx := g 76 2 }

def cropSrc (d : List Byte) : Span := spanOf d 0 24 0
def cropBoxes (d : List Byte) : Span := spanOf d 1 48 0
def cropDst (d : List Byte) : Span := spanOf d 2 56 0

def cropCheck (d : List Byte) : WuCheck :=
  let p := cropD d
  wuVerdict
    (decide (2 ≤ fieldOf d 1 1) || !semByteOk d 2 || decide (8 ≤ fieldOf d 3 1) || !zeroBytes d 5 6 ||
     !zeroBytes d 46 48 || !zeroBytes d 78 124 || !resAddrOk d || !featFmt p.fmt || !f32Pos p.cs ||
     !([cropSrc d, cropBoxes d, cropDst d].all Span.formOk) ||
     [p.imgPitch, p.rowPitch, p.cbPitch, p.px, p.dBox, p.dRow, p.dCb, p.dPx].any fun x => x % 16 != 0)
    (outOf p.nbox 1 4096 || outOf p.oh 1 256 || outOf p.ow 1 256 || p.nb == 0 || outOf p.ih 1 16384 ||
     outOf p.iw 1 16384 || p.nImg == 0)

/-- A detection record's box (08 R291). -/
def boxAt (r : List Byte) : Box :=
  let f := fun (o : Nat) => BitVec.ofNat 32 (fieldOf r o 4)
  ⟨f 0, f 4, f 8, f 12⟩

/-- The result in FMT (08 R289). -/
def cropOut (fmt : Nat) (v : F32) : Nat :=
  match fmtOf fmt with
  | some f => toNarrow v 0 f false false 0
  | none => ((((f32 v).toInt .rne).map fun i => (clampInt (-128) 127 i % 256).toNat).getD
      (if (f32 v).isInf then (if (f32 v).neg? then 128 else 127) else Config.nanByte.toNat))

/-- The source columns or rows that an output line of a box reads, from the first to the last. -/
def cropReach (lo hi cs : F32) (o i n : Nat) : Nat × Nat :=
  let a := f32Mul lo cs
  let st := f32Div (f32Sub (f32Mul hi cs) a) (f32OfNat o)
  let v := f32Sub (f32Add a (f32Mul (f32Add (f32OfNat i) f32Half) st)) f32Half
  if f32IsNan v then (0, 0)
  else
    let k := f32FloorNat (f32Max f32Zero (f32Min (f32OfNat (n - 1)) v))
    (k, min (k + 1) (n - 1))

/-- The source bytes that one output row reads. -/
def cropReads (p : CropD) (img i : Nat) (b : Box) : List (Nat × Nat) :=
  let (y0, ya) := cropReach b.y1 b.y2 p.cs p.oh i p.ih
  let x0 := (cropReach b.x1 b.x2 p.cs p.ow 0 p.iw).1
  let xa := (cropReach b.x1 b.x2 p.cs p.ow (p.ow - 1) p.iw).2
  [y0, ya].flatMap fun y => (List.range p.nb).map fun cb =>
    (img * p.imgPitch + y * p.rowPitch + cb * p.cbPitch + x0 * p.px, (xa - x0) * p.px + 32)

/-- The record of the running box. -/
def State.cropBox (s : State) (c : Nat) (d : List Byte) : List Byte :=
  s.locLoad ((cropBoxes d).at_ c (32 * (s.core c).wu.items)) 32

/-- The box is malformed (08 R290). -/
def cropBad (p : CropD) (r : List Byte) : Bool := (boxAt r).bad || decide (p.nImg ≤ fieldOf r 22 2)

/-- Where the pixel blocks of an output row of box `n` go. -/
def CropD.outAt (p : CropD) (n i q : Nat) : Nat :=
  n * p.dBox + i * p.dRow + q / p.ow * p.dCb + q % p.ow * p.dPx

/-- What one output row reads: the record of its box, and of a box that is not malformed the source. -/
def State.cropIn (s : State) (c : Nat) (d : List Byte) : List Span :=
  let p := cropD d
  let w := (s.core c).wu
  let r := s.cropBox c d
  (cropBoxes d).sub (32 * w.items, 32) ::
    (if cropBad p r then [] else (cropReads p (fieldOf r 22 2) w.rows (boxAt r)).map (cropSrc d).sub)

/-- What one output row writes. -/
def State.cropWrites (s : State) (c : Nat) (d : List Byte) : List Span :=
  let p := cropD d
  let w := (s.core c).wu
  (List.range (p.nb * p.ow)).map fun q => (cropDst d).sub (p.outAt w.items w.rows q, 32)

/-- One output row of one box. -/
def State.cropRow (s : State) (c : Nat) (d : List Byte) : State :=
  let p := cropD d
  let w := (s.core c).wu
  let n := w.items
  let i := w.rows
  let r := s.cropBox c d
  let b := boxAt r
  let img := fieldOf r 22 2
  let bad := cropBad p r
  let w8 := 8 * featBytes p.fmt
  let e := 32 / featBytes p.fmt
  let value := fun (cb j ch : Nat) =>
    if bad then 0
    else cropOut p.fmt (cropValue (fun y x =>
      featureValue p.fmt (s.elemAt ((cropSrc d).at_ c
        (img * p.imgPitch + y * p.rowPitch + cb * p.cbPitch + x * p.px)) w8 ch))
      b p.cs p.cs p.oh p.ow i j p.ih p.iw)
  let pixel := fun (q : Nat) =>
    (List.range e).flatMap fun ch => leBytes (featBytes p.fmt) (value (q / p.ow) (q % p.ow) ch)
  let put := fun (t : State) (q : Nat) => t.locStore ((cropDst d).at_ c (p.outAt n i q)) (pixel q)
  s.ifClean c ((s.cropIn c d).map fun x => x.read c) fun s =>
    let s := (List.range (p.nb * p.ow)).foldl put s
    let s := if bad ∧ i = 0 then s.countBad c 1 else s
    s.updWu c fun w =>
      if i + 1 = p.oh then { w with items := w.items + 1, rows := 0 } else { w with rows := i + 1 }

/-- 08 R289: one output row of one box. -/
def execCropResize (core : Fin 64) (s : State) : Next :=
  .next (s.wuStep core 2 (fun _ d _ => cropCheck d) fun l d s =>
    if (cropD d).nbox ≤ (s.core core).wu.items then s
    else s.withSpans core l (s.cropIn core d ++ s.cropWrites core d) (s.cropRow core d))

/-! ### Candidates (08 R291, R293, R297) -/

structure Cand where
  box : Box
  score : F32
  cls : Nat
  image : Nat
  track : Nat
  cand : Nat
  deriving DecidableEq, Repr

def Cand.bytes (x : Cand) : List Byte :=
  leBytes 4 x.box.x1.toNat ++ leBytes 4 x.box.y1.toNat ++ leBytes 4 x.box.x2.toNat ++ leBytes 4 x.box.y2.toNat ++
  leBytes 4 x.score.toNat ++ leBytes 2 x.cls ++ leBytes 2 x.image ++ leBytes 4 x.track ++ leBytes 4 x.cand

def candOf (r : List Byte) : Cand :=
  { box := boxAt r, score := BitVec.ofNat 32 (fieldOf r 16 4), cls := fieldOf r 20 2, image := fieldOf r 22 2,
    track := fieldOf r 24 4, cand := fieldOf r 28 4 }

/-- The key order: score descending, CAND ascending, CLASS ascending. -/
def Cand.before (a b : Cand) : Bool :=
  f32Lt b.score a.score || (!f32Lt a.score b.score &&
    (decide (a.cand < b.cand) || (a.cand == b.cand && decide (a.cls < b.cls))))

/-- Index of the last candidate in key order. -/
def worst (l : List Cand) : Nat :=
  ((List.range l.length).foldl (fun (m : Nat) i =>
    match l[m]?, l[i]? with
    | some a, some b => if a.before b then i else m
    | _, _ => m) 0)

/-- One offered candidate: the held set keeps the first TOPK; the count of those dropped. -/
def offerCand (topk : Nat) (a : List Cand × Nat) (x : Cand) : List Cand × Nat :=
  if a.1.length < topk then (a.1 ++ [x], a.2)
  else
    let i := worst a.1
    match a.1[i]? with
    | some y => if x.before y then (a.1.set i x, a.2 + 1) else (a.1, a.2 + 1)
    | none => (a.1, a.2 + 1)

/-- The candidates in a buffer. -/
def State.cands (s : State) (b : Loc) : List Cand :=
  (List.range (s.locNat b 4)).map fun i => candOf (s.locLoad (b.plus (64 + 32 * i)) 32)

def State.putCands (s : State) (b : Loc) (l : List Cand) : State :=
  s.locStore (b.plus 64) (l.flatMap Cand.bytes)

/-- Records in an order that nothing fixes (08 R293). -/
def freeOrder {α : Type} (g : Nat) (l : List α) : List α :=
  (sortBy (fun (a b : Nat × α) => decide (Config.slotOf g a.1 < Config.slotOf g b.1))
    ((List.range l.length).zip l)).map Prod.snd

/-- TOPK outside its range, or COUNT above TOPK, is beyond a limit (08 R293). -/
def State.cbufBad (s : State) (b : Loc) : Bool :=
  let topk := s.locNat (b.plus 4) 4
  outOf topk 1 8192 || decide (topk < s.locNat b 4)

/-! ### Box decoding (08 R292 to R297) -/

/-- Entry i of the two tables (08 R294). -/
def tabX (i : Nat) : Int := ((i : Int) - 1024) * 2 ^ 314
def tSig (i : Nat) : F32 := sigFix (tabX i)
def tExp (i : Nat) : F32 := expRn (toF32 (.fin (decide (i < 1024)) ((i : Int) - 1024).natAbs (-6)))

def f32Of (n : Nat) (e : Int) (neg : Bool) : F32 := toF32 (.fin neg n e)

def tab (x : F32) (t : Nat → F32) : F32 :=
  let m16 := f32Of 16 0 true
  let p16 := f32Of 16 0 false
  if f32IsNan x then f32Nan
  else if f32Le x m16 then t 0
  else if f32Le p16 x then t 2048
  else
    let u := f32Mul (f32Add x p16) (f32Of 64 0 false)
    let i := min (f32FloorNat u) 2047
    let f := f32Sub u (f32OfNat i)
    f32Add (t i) (f32Mul f (f32Sub (t (i + 1)) (t i)))

structure BoxD where
  flags : Nat
  fmt : Nat
  na : Nat
  ncls : Nat
  gh : Nat
  gw : Nat
  stride : F32
  rowPitch : Nat
  cbPitch : Nat
  px : Nat
  image : Nat
  dqScale : F32
  dqZp : Int
  scoreMin : F32
  xyMul : F32
  xyAdd : F32
  whMul : F32
  imgW : F32
  imgH : F32
  candBase : Nat
  deriving DecidableEq, Repr

def boxD (d : List Byte) : BoxD :=
  let g := fieldOf d
  let w := fun (o : Nat) => BitVec.ofNat 32 (g o 4)
  { flags := g 1 1, fmt := g 4 1, na := g 5 1, ncls := g 6 2, gh := g 8 2, gw := g 10 2, stride := w 12,
    rowPitch := g 24 4, cbPitch := g 28 4, px := g 32 2, image := g 34 2, dqScale := w 36,
    dqZp := sInt 16 (g 40 2), scoreMin := w 44, xyMul := w 48, xyAdd := w 52, whMul := w 56, imgW := w 60,
    imgH := w 64, candBase := g 68 4 }

def BoxD.bit (p : BoxD) (i : Nat) : Bool := p.flags / 2 ^ i % 2 == 1
def BoxD.free (p : BoxD) : Bool := p.bit 1
def BoxD.obj (p : BoxD) : Bool := p.bit 2
def BoxD.nv (p : BoxD) : Nat := if p.obj then 5 else 4
def BoxD.pairs (p : BoxD) : Nat := p.gh * p.gw * p.na

def boxSrc (d : List Byte) : Span := spanOf d 0 16 0
def boxAnchors (d : List Byte) : Span := spanOf d 1 72 0
def boxBuf (d : List Byte) : Span := spanOf d 2 80 0

/-- The address fields that the operation uses: an anchor-free head has no ANCHORS. -/
def boxFields (d : List Byte) (p : BoxD) : List Span := [boxSrc d, boxBuf d] ++ (if p.free then [] else [boxAnchors d])

def boxCheck (d : List Byte) : WuCheck :=
  let p := boxD d
  wuVerdict
    (!semByteOk d 2 || decide (8 ≤ fieldOf d 3 1) || !zeroBytes d 42 44 || !zeroBytes d 88 124 || !resAddrOk d ||
     !featFmt p.fmt || !f32Pos p.stride || (p.free && p.obj) || !((boxFields d p).all Span.formOk) ||
     p.rowPitch % 16 != 0 || p.cbPitch % 16 != 0 || p.px % 16 != 0)
    (outOf p.na 1 16 || (p.free && p.na != 1) || outOf p.ncls 1 1024 || outOf p.gh 1 4096 || outOf p.gw 1 4096)

/-- deq(ch) of 08 R295 for the pair `n`, channel `ch` counted from the anchor's first. -/
def State.deq (s : State) (c : Nat) (p : BoxD) (src : Span) (n ch : Nat) : F32 :=
  let pos := n / p.na
  let k := n % p.na * (p.nv + p.ncls) + ch
  let cb := cbOf p.fmt
  let l := src.at_ c (pos / p.gw * p.rowPitch + pos % p.gw * p.px + k / cb * p.cbPitch)
  let v := s.elemAt l (8 * featBytes p.fmt) (k % cb)
  if p.fmt = 5 then f32Mul (f32Sub (f32OfInt (sInt 8 v)) (f32OfInt p.dqZp)) p.dqScale else featureValue p.fmt v

/-- decode_box of 08 R295. -/
def decodeBox (p : BoxD) (gx gy : Nat) (aw ah : F32) (t : Nat → F32) : Box :=
  let sig := fun (x : F32) => tab x tSig
  let exp := fun (x : F32) => tab x tExp
  let cx0 := f32Add (f32OfNat gx) p.xyAdd
  let cy0 := f32Add (f32OfNat gy) p.xyAdd
  if !p.free then
    let px := if p.bit 5 then sig (t 0) else t 0
    let py := if p.bit 5 then sig (t 1) else t 1
    let cx := f32Mul (f32Add cx0 (f32Mul p.xyMul px)) p.stride
    let cy := f32Mul (f32Add cy0 (f32Mul p.xyMul py)) p.stride
    let size := fun (v a : F32) =>
      if p.bit 6 then
        let q := f32Mul p.whMul (sig v)
        f32Mul (f32Mul q q) a
      else f32Mul (exp v) a
    let w := f32Mul f32Half (size (t 2) aw)
    let h := f32Mul f32Half (size (t 3) ah)
    ⟨f32Sub cx w, f32Sub cy h, f32Add cx w, f32Add cy h⟩
  else
    let cx := f32Mul cx0 p.stride
    let cy := f32Mul cy0 p.stride
    let dist := fun (v : F32) => f32Mul (if p.bit 7 then exp v else v) p.stride
    ⟨f32Sub cx (dist (t 0)), f32Sub cy (dist (t 1)), f32Add cx (dist (t 2)), f32Add cy (dist (t 3))⟩

/-- CLIP: finite coordinates are clamped (08 R295). -/
def clipTo (hi v : F32) : F32 := if f32Finite v then f32Max f32Zero (f32Min hi v) else v

def Box.clip (b : Box) (p : BoxD) : Box :=
  if p.bit 4 then ⟨clipTo p.imgW b.x1, clipTo p.imgH b.y1, clipTo p.imgW b.x2, clipTo p.imgH b.y2⟩ else b

/-- The candidates that a pair offers, and whether it is counted in BAD (08 R296). -/
def pairOffers (p : BoxD) (cand : Nat) (b : Box) (score : Nat → F32) : List Cand × Bool :=
  if b.bad then ([], true)
  else
    let scores := (List.range p.ncls).map fun c => (c, score c)
    let good := scores.filter fun e => !f32IsNan e.2
    let mk := fun (e : Nat × F32) => (⟨b, e.2, e.1, p.image, 0xFFFFFFFF, cand⟩ : Cand)
    let pick :=
      if p.bit 3 then good
      else match good with
        | [] => []
        | g :: r => [r.foldl (fun (m : Nat × F32) e => if f32Lt m.2 e.2 then e else m) g]
    ((pick.filter fun e => f32Le p.scoreMin e.2).map mk, decide (good.length < p.ncls))

/-- One position-anchor pair. -/
def State.boxPair (s : State) (c : Nat) (d : List Byte) (n : Nat) : List Cand × Bool :=
  let p := boxD d
  let pos := n / p.na
  let a := n % p.na
  let aw := BitVec.ofNat 32 (s.locNat ((boxAnchors d).at_ c (8 * a)) 4)
  let ah := BitVec.ofNat 32 (s.locNat ((boxAnchors d).at_ c (8 * a + 4)) 4)
  let t := s.deq c p (boxSrc d) n
  let b := (decodeBox p (pos % p.gw) (pos / p.gw) aw ah t).clip p
  let sig := fun (x : F32) => tab x tSig
  let score := fun (c : Nat) => if p.obj then f32Mul (sig (t (5 + c))) (sig (t 4)) else sig (t (4 + c))
  pairOffers p ((p.candBase + n) % 2 ^ 32) b score

/-- The source bytes of pairs `n0` to `n1 - 1`. -/
def BoxD.reads (p : BoxD) (n0 n1 : Nat) : List (Nat × Nat) :=
  let blocks := ceilDiv (p.na * (p.nv + p.ncls)) (cbOf p.fmt)
  (upFrom (n0 / p.na) ((n1 - 1) / p.na - n0 / p.na + 1)).flatMap fun pos => (List.range blocks).map fun cb =>
    (pos / p.gw * p.rowPitch + pos % p.gw * p.px + cb * p.cbPitch, 32)

/-- What a step reads beside the candidate buffer: the head at its pairs, and the anchors. -/
def State.boxIn (s : State) (c : Nat) (d : List Byte) : List Span :=
  let p := boxD d
  let n0 := (s.core c).wu.items
  (p.reads n0 (min p.pairs (n0 + 64))).map (boxSrc d).sub ++
    (if p.free then [] else [(boxAnchors d).sub (0, 8 * p.na)])

/-- The header of a candidate buffer with `n` of its slots. -/
def cbufSpan (p : Span) (n : Nat) : Span := p.sub (0, 64 + 32 * n)

/-- Up to 64 pairs into the candidate buffer. -/
def State.boxStep (s : State) (c : Nat) (d : List Byte) : State :=
  let p := boxD d
  let buf := (boxBuf d).at_ c 0
  let n0 := (s.core c).wu.items
  let n1 := min p.pairs (n0 + 64)
  let topk := s.locNat (buf.plus 4) 4
  s.ifClean c ((buf, 64 + 32 * s.locNat buf 4) :: (s.boxIn c d).map fun x => x.read c) fun s =>
    let rs := (upFrom n0 (n1 - n0)).map fun n => s.boxPair c d n
    let offers := rs.flatMap Prod.fst
    let bad := (rs.filter Prod.snd).length
    let (held, drop) := offers.foldl (offerCand topk) (s.cands buf, 0)
    let bump := fun (s : State) (o n : Nat) => s.locStore (buf.plus o) (leBytes 4 (s.locNat (buf.plus o) 4 + n))
    let (g, s) := s.newFree
    let s := (s.putCands buf (freeOrder g held)).locStore buf (leBytes 4 held.length)
    let s := bump (bump s 8 drop) 12 bad
    (s.countBad c bad).updWu c fun w =>
      { w with items := n1, aux := w.aux + offers.length, dropped := w.dropped + drop }

/-- 08 R295: 64 position-anchor pairs. -/
def execBoxDecode (core : Fin 64) (s : State) : Next :=
  .next (s.wuStep core 3 (fun _ d _ => boxCheck d) fun l d s =>
    if (boxD d).pairs ≤ (s.core core).wu.items then s
    else
      let buf := (boxBuf d).at_ core 0
      s.withSpans core l [cbufSpan (boxBuf d) 0]
        (if s.cbufBad buf then s.limitError core l
         else s.withSpans core l (s.boxIn core d ++ [cbufSpan (boxBuf d) (s.locNat (buf.plus 4) 4)])
           (s.boxStep core d)))

/-! ### Non-maximum suppression (08 R298 to R300) -/

def overlaps (a b : Box) (t : F32) : Bool :=
  let iw := f32Sub (f32Min a.x2 b.x2) (f32Max a.x1 b.x1)
  let ih := f32Sub (f32Min a.y2 b.y2) (f32Max a.y1 b.y1)
  if !(f32Lt f32Zero iw && f32Lt f32Zero ih) then false
  else
    let inter := f32Mul iw ih
    let area := fun (x : Box) => f32Mul (f32Sub x.x2 x.x1) (f32Sub x.y2 x.y1)
    f32Lt (f32Mul t (f32Sub (f32Add (area a) (area b)) inter)) inter

def nmsIou (d : List Byte) : F32 := BitVec.ofNat 32 (fieldOf d 4 4)
def nmsMin (d : List Byte) : F32 := BitVec.ofNat 32 (fieldOf d 12 4)
def nmsBuf (d : List Byte) : Span := spanOf d 0 16 0
def nmsOut (d : List Byte) : Span := spanOf d 1 24 0
def nmsKeep (d : List Byte) : Nat := fieldOf d 8 2

/-- OUT with all that MAX_KEEP allows. -/
def nmsOutRange (d : List Byte) : Span := cbufSpan (nmsOut d) (nmsKeep d)

def Span.meets (a b : Span) : Bool :=
  a.bay == b.bay && decide (a.a < b.a + b.n) && decide (b.a < a.a + a.n)

def nmsCheck (d : List Byte) : WuCheck :=
  wuVerdict
    (decide (2 ≤ fieldOf d 1 1) || !semByteOk d 2 || decide (4 ≤ fieldOf d 3 1) || !zeroBytes d 10 12 ||
     !zeroBytes d 32 124 || !resAddrOk d || f32IsNan (nmsIou d) || f32IsNan (nmsMin d) ||
     !([nmsBuf d, nmsOut d].all Span.formOk) || (cbufSpan (nmsBuf d) 0).meets (nmsOutRange d))
    (f32Lt (nmsIou d) f32Zero || f32Lt f32One (nmsIou d) || outOf (nmsKeep d) 1 1024)

/-- Element moves of the sort of `n` records: ⌈log2 n⌉ for each (08 R301). -/
def sortMoves (n : Nat) : Nat := if n ≤ 1 then 0 else n * ((n - 1).log2 + 1)

/-- Up to 4,096 element moves of the sort; until it is done the records stand in an order that nothing fixes. -/
def State.nmsSort (s : State) (c : Nat) (buf : Loc) (n : Nat) : State :=
  s.ifClean c [(buf, 64 + 32 * n)] fun s =>
    let m := min (sortMoves n) ((s.core c).wu.moves + 4096)
    let (g, s) := s.newFree
    let l := s.cands buf
    (s.putCands buf (if m = sortMoves n then sortBy Cand.before l else freeOrder g l)).updWu c fun w =>
      { w with moves := m }

/-- What the loop of 08 R299 does with a candidate. -/
inductive NmsMove where
  | ends
  | drop
  | keep
  deriving DecidableEq, Repr

def candAt (b : Loc) (k : Nat) : Loc := b.plus (64 + 32 * k)

/-- The next move of the loop, with COUNT records of which the unit has tested some. -/
def State.nmsMove (s : State) (c : Nat) (d : List Byte) (n : Nat) : NmsMove :=
  let w := (s.core c).wu
  let x := candOf (s.locLoad (candAt ((nmsBuf d).at_ c 0) w.tested) 32)
  let kept := (List.range w.items).map fun k => candOf (s.locLoad (candAt ((nmsOut d).at_ c 0) k) 32)
  if w.tested = n ∨ w.items = nmsKeep d ∨ !f32Le (nmsMin d) x.score then .ends
  else if kept.any fun k => k.cls == x.cls && overlaps k.box x.box (nmsIou d) then .drop
  else .keep

/-- One candidate is tested, or the loop ends and the header of OUT is written (08 R299, R300). -/
def State.nmsTest (s : State) (c : Nat) (d : List Byte) (n : Nat) : State :=
  let w := (s.core c).wu
  let buf := (nmsBuf d).at_ c 0
  let out := (nmsOut d).at_ c 0
  s.ifClean c ((buf, 64) :: (candAt out 0, 32 * w.items) ::
      (if w.tested = n then [] else [(candAt buf w.tested, 32)])) fun s =>
    match s.nmsMove c d n with
    | .ends =>
      let hdr := leBytes 4 w.items ++ leBytes 4 n ++ leBytes 4 w.aux ++ leBytes 4 (n - w.tested)
      (s.locStore out (hdr ++ List.replicate 48 0)).updWu c fun w => { w with ended := true }
    | .drop => s.updWu c fun w => { w with tested := w.tested + 1, aux := w.aux + 1 }
    | .keep => (s.locStore (candAt out w.items) (s.locLoad (candAt buf w.tested) 32)).updWu c fun w =>
      { w with tested := w.tested + 1, items := w.items + 1 }

/-- The places that the next part of an NMS reads and writes, with COUNT records. -/
def State.nmsAcc (s : State) (c : Nat) (d : List Byte) (n : Nat) : List Span :=
  let w := (s.core c).wu
  if w.moves < sortMoves n then [cbufSpan (nmsBuf d) n]
  else (if w.tested = n then [] else [(nmsBuf d).sub (64 + 32 * w.tested, 32)]) ++
    (match s.nmsMove c d n with
     | .ends => [(nmsOut d).sub (0, 64)]
     | .drop => []
     | .keep => [(nmsOut d).sub (64 + 32 * w.items, 32)])

/-- The next part of an NMS: of the sort, or one candidate (08 R277). -/
def State.nmsStep (s : State) (c : Nat) (d : List Byte) : State :=
  let buf := (nmsBuf d).at_ c 0
  let n := s.locNat buf 4
  if (s.core c).wu.moves < sortMoves n then s.nmsSort c buf n else s.nmsTest c d n

/-- 08 R299: up to 4,096 element moves, or one candidate. -/
def execNms (core : Fin 64) (s : State) : Next :=
  .next (s.wuStep core 4 (fun _ d _ => nmsCheck d) fun l d s =>
    if (s.core core).wu.ended then s
    else
      let buf := (nmsBuf d).at_ core 0
      s.withSpans core l [cbufSpan (nmsBuf d) 0]
        (if s.cbufBad buf then s.limitError core l
         else if (cbufSpan (nmsBuf d) (s.locNat (buf.plus 4) 4)).meets (nmsOutRange d) then s.progError core l 6
         else s.withSpans core l (s.nmsAcc core d (s.locNat buf 4)) (s.nmsStep core d)))

/-! ### Depth to space (08 R286) -/

structure D2sD where
  f : Nat
  es : Nat
  h : Nat
  w : Nat
  cout : Nat
  rowPitch : Nat
  cbPitch : Nat
  px : Nat
  dPx : Nat
  dRow : Nat
  deriving DecidableEq, Repr

def d2sD (d : List Byte) : D2sD :=
  let g := fieldOf d
  { f := g 4 1, es := g 5 1, h := g 8 2, w := g 10 2, cout := g 12 2, rowPitch := g 32 4, cbPitch := g 36 4,
    px := g 40 2, dPx := g 42 2, dRow := g 44 4 }

def D2sD.cb (p : D2sD) : Nat := if p.es = 2 then 16 else 32
def D2sD.bytes (p : D2sD) : Nat := p.h * p.f * (p.w * p.f) * p.cout * p.es

def d2sSrc (d : List Byte) : Span := spanOf d 0 16 0
def d2sDst (d : List Byte) : Span := spanOf d 1 24 0

def d2sCheck (d : List Byte) : WuCheck :=
  let p := d2sD d
  wuVerdict
    (decide (2 ≤ fieldOf d 1 1) || !semByteOk d 2 || decide (4 ≤ fieldOf d 3 1) || !zeroBytes d 6 8 ||
     !zeroBytes d 14 16 || !zeroBytes d 48 124 || !resAddrOk d || outOf p.es 1 2 ||
     !([d2sSrc d, d2sDst d].all Span.formOk) || p.rowPitch % 16 != 0 || p.cbPitch % 16 != 0 || p.px % 16 != 0)
    (outOf p.f 2 8 || outOf p.h 1 16384 || outOf p.w 1 16384 || outOf p.cout 1 64 ||
     decide (1024 < p.cout * p.f * p.f) || decide (p.dPx < p.cout * p.es))

/-- Place of output element `n` in the source and in the output, in row-major order of the output. -/
def D2sD.elem (p : D2sD) (n : Nat) : Nat × Nat :=
  let c := n % p.cout
  let x := n / p.cout % (p.w * p.f)
  let y := n / p.cout / (p.w * p.f)
  let k := (y % p.f * p.f + x % p.f) * p.cout + c
  (y / p.f * p.rowPitch + x / p.f * p.px + k / p.cb * p.cbPitch + k % p.cb * p.es,
   y * p.dRow + x * p.dPx + c * p.es)

/-- The output elements of a step. -/
def D2sD.part (p : D2sD) (items : Nat) : List (Nat × Nat) :=
  let e0 := items / p.es
  (upFrom e0 (min (p.bytes / p.es) (e0 + 4096 / p.es) - e0)).map p.elem

/-- What a step reads, then what it writes. -/
def State.d2sIn (s : State) (c : Nat) (d : List Byte) : List Span :=
  ((d2sD d).part (s.core c).wu.items).map fun e => (d2sSrc d).sub (e.1, (d2sD d).es)
def State.d2sWrites (s : State) (c : Nat) (d : List Byte) : List Span :=
  ((d2sD d).part (s.core c).wu.items).map fun e => (d2sDst d).sub (e.2, (d2sD d).es)

/-- Up to 4 KiB of output. -/
def State.d2sStep (s : State) (c : Nat) (d : List Byte) : State :=
  let p := d2sD d
  let l := p.part (s.core c).wu.items
  s.ifClean c ((s.d2sIn c d).map fun x => x.read c) fun s =>
    let s := l.foldl (fun (s : State) (e : Nat × Nat) =>
      s.locStore ((d2sDst d).at_ c e.2) (s.locLoad ((d2sSrc d).at_ c e.1) p.es)) s
    s.updWu c fun w => { w with items := w.items + l.length * p.es }

/-- 08 R286: 4 KiB of output. -/
def execDepthToSpace (core : Fin 64) (s : State) : Next :=
  .next (s.wuStep core 5 (fun _ d _ => d2sCheck d) fun l d s =>
    if (d2sD d).bytes ≤ (s.core core).wu.items then s
    else s.withSpans core l (s.d2sIn core d ++ s.d2sWrites core d) (s.d2sStep core d))

/-! ### The end of a descriptor (08 R274) -/

/-- The running descriptor has done all its items. -/
def State.wuComplete (s : State) (c : Nat) (d : List Byte) : Bool :=
  let w := (s.core c).wu
  w.started && match fieldOf d 0 1 with
    | 1 => decide ((convD d).groups ≤ w.headGroup)
    | 2 => decide ((cropD d).nbox ≤ w.items)
    | 3 => decide ((boxD d).pairs ≤ w.items)
    | 4 => w.ended
    | _ => decide ((d2sD d).bytes ≤ w.items)

/-- 08 R274, R276: the front descriptor completes; one with an undefined OP is a program error. -/
def execWuDescriptorDone (core : Fin 64) (s : State) : Next :=
  match s.wuFront core with
  | none => .next s
  | some (l, d) =>
    let op := fieldOf d 0 1
    if !s.coreRuns core then .next s
    else if op = 0 ∨ 5 < op then .next (s.progError core l 6)
    else if s.wuComplete core d then
      let w := (s.core core).wu
      .next (s.wuFinish core d w.items w.bad w.aux)
    else .next s

end Sys2Proof.Machine
end

