-- ==== Sys2Proof/Machine/YardRows.lean ====
section
/-! DEFINITION. The commands of the Yard (chapter 10). -/

namespace Sys2Proof.Machine

/-! ### Pool commands (10 R342, R343) -/

def stEmpty : Nat := 0
def stAssembling : Nat := 1
def stActive : Nat := 2

def State.setPoolSt (s : State) (p n : Nat) : State := s.setFld (poolA p 0) 28 3 n

/-- A pool whose frames may change: not an ACTIVE KV pool. -/
def State.poolOpen (s : State) (p : Nat) : Bool :=
  s.poolSt p == stAssembling || (s.poolSt p == stActive && s.poolKind p != 2)

def State.setPoolFrames (s : State) (p : Nat) (l : List Nat) : State :=
  (s.updPool p fun q => { q with frames := l }).setFld (poolA p 0x18) 0 17 l.length

/-- A frame leaves its pool: unassigned, or retired where it waits for that. -/
def State.releaseFrame (s : State) (p f : Nat) : State :=
  if s.yard.retiring.contains f then s.retireFrame f (some p)
  else if s.frameSt f = .pool p then
    (s.setFrameSt f .unassigned).addFld (yardA 0x4C) 0 17 1
  else s

/-- ASSIGN. -/
def State.poolAssign (s : State) (c : PoolCmd) : Nat × State :=
  let l := upFrom c.first c.count
  if !(s.poolSt c.pool == stEmpty || s.poolOpen c.pool) then (1, s)
  else if c.count = 0 ∨ 49152 < c.first + c.count ∨ !(l.all fun f => s.frameSt f = .unassigned) then (2, s)
  else
    let s := l.foldl (fun (s : State) f => s.setFrameSt f (.pool c.pool)) s
    let s := s.setPoolFrames c.pool ((s.pool c.pool).frames ++ l)
    let s := s.setFld (yardA 0x4C) 0 17 (s.fld (yardA 0x4C) 0 17 - c.count)
    (0, if s.poolSt c.pool = stEmpty then s.setPoolSt c.pool stAssembling else s)

/-- RELEASE: the frames named are the last ones of the linear space. -/
def State.poolRelease (s : State) (c : PoolCmd) : Nat × State :=
  let l := (s.pool c.pool).frames
  let keep := l.length - c.count
  if !s.poolOpen c.pool then (1, s)
  else if c.count = 0 ∨ l.length < c.count ∨
      sortBy (fun a b => decide (a < b)) (l.drop keep) ≠ upFrom c.first c.count then (2, s)
  else
    let s := (l.drop keep).foldl (fun (s : State) f => s.releaseFrame c.pool f) s
    (0, s.setPoolFrames c.pool (l.take keep))

/-- NPAGES of a valid KV configuration (10 R343, R344). -/
def State.kvValid (s : State) (p : Nat) : Option Nat :=
  let cfg := poolA p 0
  let fmt := s.fld cfg 8 8
  let sb := s.sideBytes p
  let others := ((List.range 64).filter fun q => q != p && s.poolKind q == 2 && s.poolSt q == stActive).map s.seqMax
  let n := kvLayout (s.poolBytes p) (s.pageBytes p) sb (s.seqMax p)
  if [0x03, 0x01, 0x21].contains fmt && s.pageBytes p != 0 && sb % 8 == 0 && (sb == 0) == (fmt == 0x01) &&
      s.seqMax p != 0 && decide (s.seqMax p + others.sum ≤ 16384) && n != 0 && decide (s.lowWm p < n) then some n
  else none

/-- The configuration of a pool of another kind: only KIND, SYSC and DISCARDABLE. -/
def State.plainValid (s : State) (p : Nat) : Bool :=
  [1, 3, 4, 5].contains (s.poolKind p) && s.fld (poolA p 0) 4 1 == 0 && s.fld (poolA p 0) 6 22 == 0 &&
  s.rd (poolA p 4) == 0 && s.rd (poolA p 8) == 0 && s.rd (poolA p 0xC) == 0

/-- The Yard area is valid, or can be made on the first CREATE (10 R339). -/
def State.metaOk (s : State) : Bool :=
  let f := s.fld (yardA 0x44) 0 17
  s.yard.created ||
  (decide (f + 3 < 49152) && f / 12288 == (f + 3) / 12288 && (upFrom f 4).all fun g => s.frameSt g = .unassigned)

/-- The first CREATE takes and clears the Yard area. -/
def State.makeMeta (s : State) : State :=
  if s.yard.created then s
  else
    let f := s.fld (yardA 0x44) 0 17
    let s := (upFrom f 4).foldl (fun (s : State) g => s.setFrameSt g .yardArea) s
    let s := (s.withYard fun y => { y with created := true }).setFld (yardA 0x4C) 0 17 (s.fld (yardA 0x4C) 0 17 - 4)
    s.clearKeys (f * frameBytes) ((f + 4) * frameBytes)

/-- CREATE. -/
def State.poolCreate (s : State) (c : PoolCmd) : Nat × State :=
  let p := c.pool
  if s.poolSt p ≠ stAssembling then (1, s)
  else if !s.metaOk then (5, s)
  else if s.poolKind p = 2 then
    match s.kvValid p with
    | none => (3, s)
    | some n =>
      let s := (s.makeMeta.setPoolSt p stActive).updPool p fun q => { q with npages := n, pages := [] }
      let s := (s.spansOf p 0 (s.pageOff p 0)).foldl (fun (s : State) (k : Nat × Nat) => s.clearKeys k.1 (k.1 + k.2)) s
      (0, (s.markFrames p).countSeqs p)
  else if s.plainValid p then (0, s.makeMeta.setPoolSt p stActive)
  else (3, s)

/-- DESTROY. -/
def State.poolDestroy (s : State) (c : PoolCmd) : Nat × State :=
  let p := c.pool
  if s.poolSt p = stEmpty then (1, s)
  else if s.poolSt p = stActive ∧ s.poolKind p = 2 ∧ !(s.seqsIn p).isEmpty then (4, s)
  else
    let s := s.evictAll (fun _ e => e.pool == p) 4 32769
    let s := (s.pool p).frames.foldl (fun (s : State) f => s.releaseFrame p f) s
    let s := (s.withYard fun y => { y with pools := y.pools.del p,
                                           reqs := y.reqs.filter fun r => r.pool != p }).setPoolSt p stEmpty
    (0, (((s.setFld (poolA p 0x10) 0 24 0).setFld (poolA p 0x14) 0 24 0).setFld (poolA p 0x18) 0 17 0).wr
      (poolA p 0x1C) 0)

/-- Start the next queued command (10 R342); its result is known at once, BUSY lasts until it is done. -/
def State.startCmd (s : State) : State :=
  match s.yard.running, s.yard.cmds with
  | none, c :: r =>
    let s := s.withYard fun y => { y with cmds := r, running := some c }
    let (res, s) := match c.op with
      | 1 => s.poolAssign c
      | 2 => s.poolRelease c
      | 3 => s.poolCreate c
      | _ => s.poolDestroy c
    let s := (s.setFld (yardA 0x60) 0 1 1).setFld (yardA 0x60) 4 4 res
    if res = 0 then s else s.raise 0x1110 0x11E8 [.w c.pool, .w c.op, .w res]
  | _, _ => s

/-- A write of YARD.POOL_CMD takes effect. -/
def State.poolCmd (s : State) (pool op : Nat) : State :=
  if s.blockOn .yard 0 then
    (s.withYard fun y => { y with cmds := y.cmds ++
      [⟨pool, op, s.fld (yardA 0x58) 0 17, s.fld (yardA 0x5C) 0 17⟩] }).startCmd
  else s

/-- 10 R342, R377: BUSY clears, DONE counts, the next command starts. -/
def execPoolCmdDone (s : State) : Next :=
  match s.yard.running with
  | none => .next s
  | some _ =>
    let s := s.withYard fun y => { y with running := none }
    .next ((s.setFld (yardA 0x60) 0 1 0).addFld (yardA 0x60) 16 16 1).startCmd

/-! ### Page requests (10 R350, R351) -/

def ReqKind.code : ReqKind → Nat
  | .new => 1 | .cow => 2 | .fetch => 3 | .restore => 4

def ReqKind.urgent (k : ReqKind) : Bool := decide (k = .cow) || decide (k = .fetch)

/-- The unit of a core goes on. -/
def State.unitOn (s : State) (core : Option Nat) : State :=
  match core with
  | some c => s.updCore c fun k => { k with rs := { k.rs with waitPage := none } }
  | none => s

/-- Give a free page to a request (10 R372). -/
def State.grantPage (s : State) (r : PageReq) : State :=
  match s.seq r.seq, s.lowestPage r.pool with
  | some x, some P =>
    let s := s.withYard fun y => { y with reqs := y.reqs.filter fun z => z != r }
    let v := s.entry x r.entry
    let move := fun (s : State) (src recNo : Nat) =>
      (s.takePage r.pool P r.seq .filling).withYard fun y =>
        { y with transfers := y.transfers ++ [⟨r.kind, r.seq, r.entry, r.pool, src, P, recNo, r.core, s.ctxEpoch x.ctx⟩] }
    let s := match r.kind with
      | .new => ((s.takePage r.pool P r.seq .resident).setEntry x r.entry P).unitOn r.core
      | .cow => if isPage v then move (s.pinPage r.pool v) v 0 else s
      | _ => if isAway v then move s 0 (v - 0x80000000) else s
    s.keepWater r.pool
  | _, _ => s

/-- The request has reached step 4 of 10 R350. -/
def State.waitReq (s : State) (r : PageReq) : State :=
  if r.waiting.isSome then s
  else
    let mark := fun (z : PageReq) => if z = r then { z with waiting := some s.now } else z
    (s.withYard fun y => { y with reqs := y.reqs.map mark }).addFld (yardA 0x88) 0 32 1

/-- The steps of 10 R350 for one request. -/
def State.serveReq (s : State) (r : PageReq) (fuel : Nat) : State :=
  match fuel with
  | 0 => s
  | fuel + 1 =>
    let low := if r.kind.urgent then 0 else s.lowWm r.pool
    if low < s.freePages r.pool then s.grantPage r
    else match s.leaf fun _ e => s.lone r.pool e with
      | some (i, e) => (s.evictEntry i e 1).serveReq r fuel
      | none =>
        if s.recovery then
          if s.yard.spills.any fun x => x.pool == r.pool then s
          else match s.startSpill r.pool with
            | some s1 => s1
            | none => s.waitReq r
        else if s.yard.writeOuts.any fun w => (s.seq w.seq).any fun x => x.pool == r.pool then s
        else match s.victim r with
          | some (q, x) => s.startWriteOut q x
          | none => s.waitReq r

/-- Serve order of a pool (10 R351, R365). -/
def State.reqKey (s : State) (r : PageReq) : List Nat :=
  let rank := ((s.seq r.seq).map fun x => s.rank x.ctx).getD 3
  [if r.kind.urgent then 0 else 1, rank]

/-- Restores of one rank are served in the order of pre-emption (10 R365): they take the restores' places in it. -/
def placeRestores : List PageReq → List PageReq → List PageReq
  | [], _ => []
  | r :: l, rs =>
    match rs with
    | x :: rs' => if r.kind = .restore then x :: placeRestores l rs' else r :: placeRestores l rs
    | [] => r :: placeRestores l []

/-- The requests of a pool in the order in which they are served. -/
def State.reqOrder (s : State) (p : Nat) : List PageReq :=
  let l := sortBy (fun a b => keyLt (s.reqKey a) (s.reqKey b)) (s.yard.reqs.filter fun r => r.pool == p)
  let key := fun (r : PageReq) => s.reqKey r ++ [s.yard.preempted.idxOf r.seq]
  placeRestores l (sortBy (fun a b => keyLt (key a) (key b)) (l.filter fun r => r.kind = .restore))

/-- Its RUN is a step or prefill RUN of the batch former. -/
def State.isStepRun (s : State) (u : Nat) : Bool := s.text.steps.any fun r => r.gang == u

/-- The row that a core's unit waits for is passed over (see notes/assumptions). -/
def State.skipRow (s : State) (c : Nat) : State :=
  s.updCore c fun k => { k with rs := { k.rs with waitPage := none, items := k.rs.items + 1 } }

/-- The descriptor that needs the page completes with QUOTA_EXCEEDED (10 R349, R350). -/
def State.failReq (s : State) (r : PageReq) : State :=
  let s := s.withYard fun y => { y with reqs := y.reqs.filter fun z => z != r }
  match r.kind, r.core with
  | .new, some c =>
    match (s.core c).gang with
    | some u =>
      if s.isStepRun u then
        let s := (s.stopRunOf r.seq).endOp r.seq .quotaExceeded
        if (s.core c).gang = some u then s.skipRow c else s
      else s.endRun c .quotaExceeded
    | none => s
  | .restore, _ =>
    (s.updSeq r.seq fun x => { x with pre := .out }).endOp r.seq .quotaExceeded
  | _, some c => s.endRun c .quotaExceeded
  | _, none => s.endOp r.seq .quotaExceeded

/-- A NEW or RESTORE would take the charge above the context's cap (10 R349). -/
def State.reqOver (s : State) (r : PageReq) : Bool :=
  !r.kind.urgent && (s.seq r.seq).any fun x => s.overCap x.ctx r.pool

/-- One request is refused for its cap, or goes through the steps of 10 R350. -/
def State.allocStep (s : State) (r : PageReq) : State :=
  if !(s.yard.reqs.contains r) then s else if s.reqOver r then s.failReq r else s.serveReq r 32770

/-- 10 R350: the Yard serves the requests of a pool in order. -/
def execPageAlloc (pool : Fin 64) (s : State) : Next :=
  .next (((s.reqOrder pool).foldl State.allocStep s).keepWater pool)

/-- 10 R350 step 4: YARD.CFG.WAIT_MS has passed. -/
def execAllocWaitTimeout (pool : Fin 64) (s : State) : Next :=
  let due := fun (r : PageReq) =>
    r.pool == pool.val && r.waiting.any fun t => decide (t + s.fld (yardA 0x48) 0 16 * 1000000 ≤ s.now)
  match s.yard.reqs.find? due with
  | none => .next s
  | some r =>
    let ctx := ((s.seq r.seq).map fun x => x.ctx).getD 0xFF
    let s := (s.addFld (yardA 0x8C) 0 32 1).raise 0x1110 0x21E2 [.w pool, .w r.kind.code] ctx
    .next (s.failReq r)

/-! ### Write intents and copy-on-write (10 R354, R355) -/

def State.updIntent (s : State) (c : Nat) (f : Intent → Intent) : State :=
  s.withYard fun y => { y with intents := y.intents.map fun i => if i.core = c then f i else i }

/-- The intent is granted: the write holds a pin on page `P`, and the unit goes on. -/
def State.grantIntent (s : State) (c p P : Nat) : State :=
  ((s.pinPage p P).updIntent c fun i => { i with granted := true, busy := false }).unitOn (some c)

/-- 10 R354, R369, R372: the Yard handles the write intent of a core. -/
def execWriteIntent (core : Fin 64) (s : State) : Next :=
  match s.yard.intents.find? fun i => i.core == core.val && !i.granted && !i.busy with
  | none => .next s
  | some i => match s.seq i.seq with
    | none => .next s
    | some x =>
      let v := s.entry x i.entry
      let ahead := s.yard.intents.any fun j =>
        j.busy && (s.seq j.seq).any fun y => y.pool == x.pool && s.entry y j.entry == v
      if isAway v then .next (s.addReq .fetch x.pool i.seq i.entry (some core))
      else if !isPage v ∨ ahead then .next s
      else
        let s := s.cancelSpill x.pool v
        let k := s.kvPage x.pool v
        if k.st ≠ .resident then .next s
        else if k.ref ≤ 1 then .next (s.grantIntent core x.pool v)
        else .next ((s.addReq .cow x.pool i.seq i.entry (some core)).updIntent core fun j => { j with busy := true })

/-- Position that row `i` of list entry `e` holds when positions below `next` are written (09 R319). -/
def rowPos (next wPages e i : Nat) : Option Nat :=
  let slot := 256 * e + i
  if next ≤ slot then none
  else if wPages = 0 then some slot
  else some (slot + (next - 1 - slot) / (256 * wPages) * (256 * wPages))

/-- Bytes of a key or value element, and of a row (09 R308, R310). -/
def Geo.rowBytes (g : Geo) : Nat := g.d * (if g.fmt = 1 then 2 else 1)

/-- The next position of a block (09 R327). -/
def Seq.next (x : Seq) (layer h : Nat) : Nat := x.nextPos.look x.base (layer * 64 + h)

/-- The page offsets and lengths of the rows of entry `e` that hold a position, in every block (10 R355). -/
def Seq.heldRows (x : Seq) (e : Nat) : List (Nat × Nat) :=
  let w := x.geo.rowBytes
  (List.range (x.geo.layers * x.geo.kvh)).flatMap fun b =>
    let n := x.next (b / x.geo.kvh) (b % x.geo.kvh)
    ((List.range 256).filter fun i => (rowPos n x.geo.wPages e i).isSome).flatMap fun i =>
      [(b * 512 * w + i * w, w), (b * 512 * w + 256 * w + i * w, w)]

def State.poolPoisoned (s : State) (p x n : Nat) : Option Nat :=
  (s.spansOf p x n).findSome? fun k => firstPoisoned s.poison k.1 k.2

/-- A page that the Yard moves is poisoned (18 R604): the sequence is lost. -/
def State.yardPoison (s : State) (q line : Nat) : State :=
  let ctx := ((s.seq q).map fun x => x.ctx).getD 0xFF
  (s.raise 0x1100 0x31F2 [.d (line * 64)] ctx).loseSeq q .eccUncorrectable

def State.dropTransfer (s : State) (t : Transfer) : State :=
  s.withYard fun y => { y with transfers := y.transfers.filter fun z => z != t }

/-- The destination of a stopped transfer is freed. -/
def State.freeDst (s : State) (t : Transfer) : State :=
  (s.putKv t.pool t.dst { s.kvPage t.pool t.dst with ref := 0, pin := 0 }).freeKv t.pool t.dst

/-- 10 R355 steps 2 to 5. -/
def execCowCopyDone (core : Fin 64) (s : State) : Next :=
  match s.yard.transfers.find? fun t => t.kind = .cow && t.core == some core.val with
  | none => .next s
  | some t => match s.seq t.seq with
    | none => .next s
    | some x =>
      let s := s.dropTransfer t
      if t.epoch ≠ s.ctxEpoch x.ctx then .next ((s.freeDst t).unpin t.pool t.src)
      else
      let rows := x.heldRows t.entry
      let src := s.pageOff t.pool t.src
      let dst := s.pageOff t.pool t.dst
      match rows.findSome? fun r => s.poolPoisoned t.pool (src + r.1) r.2 with
      | some l =>
        let s := ((s.freeDst t).unpin t.pool t.src).yardPoison t.seq l
        .next (s.endRun core .eccUncorrectable)
      | none =>
        let s := rows.foldl (fun (s : State) (r : Nat × Nat) =>
          s.poolStore t.pool (dst + r.1) (s.poolLoad t.pool (src + r.1) r.2)) s
        let s := s.poolStore t.pool (s.sideOff t.pool t.dst)
          (s.poolLoad t.pool (s.sideOff t.pool t.src) (s.sideBytes t.pool))
        let s := s.putKv t.pool t.dst { s.kvPage t.pool t.dst with st := .resident }
        let s := s.setEntry x t.entry t.dst
        let s := (s.unref t.pool t.src (some t.seq)).unpin t.pool t.src
        .next ((s.add64 (yardA 0x70) 1).grantIntent core t.pool t.dst)

/-! ### Fetch, write-out, restore, spill (10 R364 to R369) -/

/-- The record lies at a peer that can no longer be read (10 R371, 16 R532). -/
def State.recCut (s : State) (r : Nat) : Bool :=
  (s.yard.swap.look? r).any fun x => x.atPeer && !(x.consist == s.consistEpoch && s.peerOpen)

/-- The walkers that wait for entry `e` of sequence `q` go on (10 R369); a core with a write intent waits for its grant. -/
def State.fetched (s : State) (q e : Nat) : State :=
  let waits := fun (c : Nat) => (s.core c).rs.waitPage == some (q, e) && !(s.yard.intents.any fun i => i.core == c)
  ((List.range 64).filter waits).foldl (fun (s : State) c => s.unitOn (some c)) s

/-- 10 R365, R367, R369: a page has been read back. -/
def execFetchDone (seq : Nat) (entry : Fin 1024) (pcieError : Bool) (s : State) : Next :=
  match s.yard.transfers.find? fun t => t.kind ≠ .cow && t.seq == seq && t.entry == entry.val with
  | none => .next s
  | some t => match s.seq seq with
    | none => .next s
    | some x =>
      let s := s.dropTransfer t
      if t.epoch ≠ s.ctxEpoch x.ctx then .next (s.freeDst t)
      else if pcieError ∨ !s.recGood t.pool t.recNo then
        let st := if s.recCut t.recNo then Status.deviceFault else .eccUncorrectable
        let s := ((s.freeDst t).badRec t.recNo).raise 0x1112 0x31E5 [.w (s.seqHandle seq), .w t.recNo] x.ctx
        let s := s.loseSeq seq st
        match t.core with
        | some c => .next (s.endRun c st)
        | none => .next s
      else
        let s := s.pageIn t.pool t.dst t.recNo
        let s := s.putKv t.pool t.dst { s.kvPage t.pool t.dst with st := .resident, lastUse := s.gts }
        let s := (((s.setEntry x entry t.dst).freeRec t.recNo).addFld (yardA 0x84) 0 32 1).fetched seq entry
        if x.pre = .restoring then .next (s.nextRestore seq x) else .next s

/-- A page goes out to its record: the entry becomes AWAY and the page is freed. -/
def State.sendAway (s : State) (q : Nat) (x : Seq) (e P r : Nat) : State :=
  let n := s.pageBytes x.pool
  let bad := s.poolPoisoned x.pool (s.pageOff x.pool P) n
  let s := (s.pageOut x.pool P r).setEntry x e (0x80000000 + r)
  let s := s.unref x.pool P (some q)
  match bad with
  | some l => (s.badRec r).yardPoison q l
  | none => s

/-- 10 R364: the last write of a victim has completed. -/
def execPreemptWriteoutDone (seq : Nat) (s : State) : Next :=
  match s.yard.writeOuts.find? fun w => w.seq == seq with
  | none => .next s
  | some w => match s.seq seq with
    | none => .next s
    | some x =>
      let s := s.withYard fun y => { y with writeOuts := y.writeOuts.filter fun z => z.seq != seq }
      if w.epoch ≠ s.ctxEpoch x.ctx then .next s
      else
      let s := w.left.foldl (fun (s : State) (t : Nat × Nat × Nat) => s.sendAway seq x t.1 t.2.1 t.2.2) s
      let s := s.updSeq seq fun x => { x with pre := .out }
      let h := s.seqHandle seq
      let tag := (x.act.map fun a => a.desc.tag).getD 0
      let s := s.notify x.ctx .preempted 0 tag h w.total
      let s := (s.addFld (yardA 0x78) 0 32 1).raise 0x1110 0x11E0 [.w h, .w w.total] x.ctx
      .next (if x.ops.isEmpty then s else s.startRestore seq)

/-- 10 R365: the last AWAY entry is RESIDENT. -/
def execSeqRestored (seq : Nat) (s : State) : Next :=
  match s.seq seq with
  | none => .next s
  | some x =>
    if x.pre = .restoring ∧ !((s.entries x).any fun e => isAway e.2) then
      let s := s.putSeq seq { x with pre := .inPlace }
      let s := s.withYard fun y => { y with preempted := y.preempted.filter (· != seq) }
      let s := (s.addFld (yardA 0x7C) 0 32 1).countSeqs x.pool
      .next (s.raise 0x1110 0x01E1 [.w (s.seqHandle seq), .w ((s.gts - x.restoreAt) / 1000)] x.ctx)
    else .next s

/-- 10 R368: a spill has completed. -/
def execPageSpilled (pool : Fin 64) (page : Nat) (s : State) : Next :=
  match s.yard.spills.find? fun z => z.pool == pool.val && z.page == page with
  | none => .next s
  | some z => match s.seq z.seq with
    | none => .next s
    | some x =>
      let peer := (s.yard.swap.look? z.recNo).any fun r => r.atPeer
      if z.epoch ≠ s.ctxEpoch x.ctx ∨ s.recCut z.recNo then .next (s.cancelSpill pool page)
      else
      let s := s.withYard fun y => { y with spills := y.spills.filter fun w => w != z }
      let s := (s.sendAway z.seq x z.entry z.page z.recNo).addFld (yardA 0x80) 0 32 1
      .next ((s.raise 0x1110 0x01E3 [.w pool, .w (if peer then 1 else 0)]).keepWater pool)

/-! ### Flush and retirement (10 R362, R376) -/

/-- A write of PFX.FLUSH takes effect (10 R362): with the key it flushes. -/
def State.pfxFlush (s : State) (val : Word) : State :=
  if bitsOf val 16 16 ≠ 0xF1A5 then s
  else
    let all := bitsOf val 8 1 == 1
    let p := bitsOf val 0 6
    let s := s.evictAll (fun _ e => all || e.pool == p) 3 32769
    (s.withYard fun y => { y with flush := some (if all then none else some p) }).setFld (pfxA 0x64) 0 1 1

def execPfxFlushDone (s : State) : Next :=
  match s.yard.flush with
  | none => .next s
  | some _ => .next ((s.withYard fun y => { y with flush := none }).setFld (pfxA 0x64) 0 1 0)

/-- Retire a frame as its state asks (10 R376, R372). -/
def State.requestRetire (s : State) (f : Nat) : State :=
  if s.yard.retiring.contains f then s
  else
    let mark := fun (s : State) => s.withYard fun y => { y with retiring := y.retiring ++ [f] }
    match s.frameSt f with
    | .retired => s
    | .unassigned => s.retireFrame f none
    | .yardArea => mark s
    | .pool p =>
      let s := mark s
      if s.poolKind p = 2 ∧ s.poolSt p = stActive then s.markFrames p else s

/-- An HBM controller requests a frame's retirement (18 R605, R606). -/
def State.askRetire (s : State) (f : Nat) : State :=
  let k := f / 12288
  let recent := (s.scrub.requests.look [] k).filter fun t => decide (s.gts < t + 1000000000)
  { s with scrub := { s.scrub with requests := s.scrub.requests.put k (s.gts :: recent) } }.requestRetire f

def execFrameRetireRequest (frame : Fin 49152) (s : State) : Next := .next (s.askRetire frame)

end Sys2Proof.Machine
end

