-- ==== Sys2Proof/Machine/RowStat.lean ====
section
/-! DEFINITION. The row-statistics unit (09 R313 to R327): ATTEND, APPEND, SCATTER, the walker's lookahead. -/

namespace Sys2Proof.Machine

/-! ### Launch and descriptors (09 R313) -/

def State.updRs (s : State) (c : Nat) (f : RsUnit → RsUnit) : State := s.updCore c fun k => { k with rs := f k.rs }

/-- The descriptor at `a` enters the queue; an APPEND or SCATTER bars a replay of the slice (19 R618). -/
def State.rsEnqueue (s : State) (c t a : Nat) : State :=
  let s := s.updRs c fun u => { u with queue := u.queue ++ [s.launchAt c t a] }
  match (s.core c).gang with
  | some g =>
    if [2, 3].contains (s.bayByte (kBay c a)).toNat then s.updGang g fun g => { g with noReplay := true } else s
  | none => s

/-- A store to RS_LAUNCH. -/
def State.rsLaunch (s : State) (c t : Nat) (val : Word) : State :=
  let a := bitsOf val 6 15 * 64
  if 4 ≤ (s.core c).rs.queue.length then s.updTidy c t fun k => { k with stall := .rs a }
  else (s.rsEnqueue c t a).tcNext c t

def execRsLaunch (core : Fin 64) (tc : Fin 2) (val : Word) (s : State) : Next :=
  if s.tcRuns core tc then .next (s.rsLaunch core tc val) else .next s

/-- A stalled launch goes on once a place is free. -/
def State.rsUnstall (s : State) (c : Nat) : State :=
  let one := fun (s : State) (t : Nat) =>
    match ((s.core c).tidy t).stall with
    | .rs a =>
      if (s.core c).rs.queue.length < 4 then
        ((s.rsEnqueue c t a).updTidy c t fun k => { k with stall := .none }).tcNext c t
      else s
    | _ => s
  one (one s 0) 1

/-- The row-statistics unit of core `c` works, and the next descriptor has this OP. -/
def State.rsRuns (s : State) (c op : Nat) : Bool :=
  s.coreRuns c && s.blockGoes .co c && (s.rsFront c).any fun e => fieldOf e.2 0 1 == op

/-- Formats and head dimensions of 09 R307. -/
def kvFmtOk (f : Nat) : Bool := [0x03, 0x01, 0x21].contains f
def headDimOk (d : Nat) : Bool := [64, 80, 96, 128, 192, 256].contains d

/-- Bytes of one element of a key or value. -/
def kvBytes (fmt : Nat) : Nat := if fmt = 1 then 2 else 1

/-- The fields that the three operations share are not well formed (09 R314, R324). -/
def kvFieldsBad (b : List Byte) : Bool :=
  let g := fieldOf b
  let base := BitVec.ofNat 32 (g 56 4)
  let vbase := BitVec.ofNat 32 (g 60 4)
  !kvFmtOk (g 11 1) || !headDimOk (g 12 2) || !zeroBytes b 14 16 || addrForm (BitVec.ofNat 64 (g 24 8)) != 0 ||
  !addrReservedZero (BitVec.ofNat 64 (g 24 8)) || decide (63 < g 32 4) || !zeroBytes b 71 72 ||
  !zeroBytes b 74 76 || decide (1 < g 70 1) || g 72 2 % 2 != 0 || decide (g 12 2 < g 72 2) ||
  g 76 4 % 4 != 0 || decide (2 ^ 21 ≤ g 76 4) || decide (1024 < g 68 2) ||
  (if g 68 2 = 0 then g 64 4 != 0 else outOf (g 64 4) 1 262144) ||
  (g 11 1 == 0x21 && (!f32Pos base || !f32Pos vbase || g 12 2 % 64 != 0)) ||
  (g 11 1 != 0x21 && (base != 0 || vbase != 0)) || !semByteOk b 2 || !resAddrOk b

/-- The open sequence that a LIST of a pool names, for a gang that may use it. -/
def State.rsSeq (s : State) (c : Nat) (list pool : Nat) : Option (Nat × Seq) :=
  (s.seqAt pool list).bind fun q => (s.seq q).bind fun x =>
    if (s.gangOf c).any fun g => g.ctx == x.ctx || g.members.any fun m => m.1 == q then some (q, x) else none

/-- The descriptor's block belongs to the sequence: format, D, ring, layer and KV head as in its header. -/
def blockOk (x : Seq) (b : List Byte) (layer h : Nat) : Bool :=
  let g := fieldOf b
  g 11 1 == x.geo.fmt && g 12 2 == x.geo.d && g 68 2 == x.geo.wPages && decide (layer < x.geo.layers) &&
  decide (h < x.geo.kvh)

/-! ### Places in a page (09 R310, R311) -/

/-- A block of a page: its pool, the pool bytes of its K part and of its side-table entry, its shape. -/
structure KvBlock where
  pool : Nat
  off : Nat
  side : Nat
  fmt : Nat
  d : Nat
  deriving DecidableEq, Repr

def KvBlock.row (b : KvBlock) : Nat := b.d * kvBytes b.fmt
def KvBlock.kOff (b : KvBlock) (i : Nat) : Nat := b.off + i * b.row
def KvBlock.vOff (b : KvBlock) (i : Nat) : Nat := b.off + 256 * b.row + i * b.row

/-- Bytes of a side-table entry. -/
def sideEntry (fmt d : Nat) : Nat := if fmt = 3 then 8 else if fmt = 0x21 then 16 * d else 0

def State.kvBlock (s : State) (x : Seq) (P layer h : Nat) : KvBlock :=
  let b := layer * x.geo.kvh + h
  { pool := x.pool, off := s.pageOff x.pool P + b * 512 * x.geo.rowBytes,
    side := kvSideBase (s.pool x.pool).npages (s.seqMax x.pool) +
      (P * x.geo.layers * x.geo.kvh + b) * sideEntry x.geo.fmt x.geo.d,
    fmt := x.geo.fmt, d := x.geo.d }

def State.poolNat (s : State) (p x n : Nat) : Nat := leNat (s.poolLoad p x n)

def State.kElem (s : State) (b : KvBlock) (i k : Nat) : Nat :=
  s.poolNat b.pool (b.kOff i + k * kvBytes b.fmt) (kvBytes b.fmt)
def State.vElem (s : State) (b : KvBlock) (i k : Nat) : Nat :=
  s.poolNat b.pool (b.vOff i + k * kvBytes b.fmt) (kvBytes b.fmt)

/-- NGI multipliers of key row i, group g, and of value dimension k, group g. -/
def State.kMul (s : State) (b : KvBlock) (i g : Nat) : Int :=
  sInt 16 (s.poolNat b.pool (b.side + 2 * (i * (b.d / 64) + g)) 2)
def State.vMul (s : State) (b : KvBlock) (k g : Nat) : Int :=
  sInt 16 (s.poolNat b.pool (b.side + 8 * b.d + 2 * (4 * k + g)) 2)

/-- The FP8 scale at byte `o` of the side-table entry. -/
def State.kvScale (s : State) (b : KvBlock) (o : Nat) : F32 :=
  BitVec.ofNat 32 (s.poolNat b.pool (b.side + o) 4)

/-- Reads of a pool find latent errors. -/
def State.poolTouch (s : State) (p x n : Nat) : State :=
  (s.spansOf p x n).foldl (fun (s : State) (k : Nat × Nat) => s.touch k.1 k.2) s

/-- The spans of rows `l` of a block with its side-table entry. -/
def KvBlock.spans (b : KvBlock) (l : List Nat) : List (Nat × Nat) :=
  (l.flatMap fun i => [(b.kOff i, b.row), (b.vOff i, b.row)]) ++ [(b.side, sideEntry b.fmt b.d)]

/-- Go on with `body` unless a span of the pool holds poison (18 R604). -/
def State.ifPoolClean (s : State) (c p : Nat) (l : List (Nat × Nat)) (body : State → State) : State :=
  let s := l.foldl (fun (s : State) (e : Nat × Nat) => s.poolTouch p e.1 e.2) s
  match l.findSome? fun e => s.poolPoisoned p e.1 e.2 with
  | some line => s.corePoison c line
  | none => body s

/-! ### Rotary encoding (09 R323) -/

def f32List (s : State) (key n : Nat) : List F32 :=
  (List.range n).map fun i => BitVec.ofNat 32 (s.bayNat (key + 4 * i) 4)

def rope (x : List F32) (pos rd style : Nat) (f : List F32) : List F32 :=
  let half := rd / 2
  let pair := fun (i : Nat) => if style = 0 then (i, i + half) else (2 * i, 2 * i + 1)
  let one := fun (x : List F32) (i : Nat) =>
    let (a, b) := pair i
    let th := f32Mul (f32OfNat pos) (f.getD i 0)
    let cs := cosRn th
    let sn := sinRn th
    let xa := x.getD a 0
    let xb := x.getD b 0
    (x.set a (f32Sub (f32Mul xa cs) (f32Mul xb sn))).set b (f32Add (f32Mul xa sn) (f32Mul xb cs))
  (List.range half).foldl one x

/-- The rotation that a descriptor asks for. -/
def State.ropeRow (s : State) (c : Nat) (b : List Byte) (pos : Nat) (x : List F32) : List F32 :=
  let g := fieldOf b
  rope x pos (g 72 2) (g 70 1) (f32List s (kBay c (g 76 4)) (g 72 2 / 2))

/-! ### Products on the matrix engines (09 R317, 06 R201 to R205) -/

/-- Σ a[k] × b[k] over `n` elements, as FP32, and the saturations. `mul` gives NGI multipliers by group. -/
def rsDot (fmt n : Nat) (mul : Nat → Int) (a b : Nat → Nat) : F32 × Nat :=
  if fmt = 0x21 then
    let one := fun (acc : Int × Nat) (g : Nat) =>
      let t := (upFrom (64 * g) 64).foldl (fun (p : Int) k => p + sInt 8 (a k) * sInt 8 (b k)) 0
      let r := accNgi acc.1 t (mul g)
      (r.1, if r.2 then acc.2 + 1 else acc.2)
    let r := (List.range (n / 64)).foldl one ((0 : Int), 0)
    (f32OfInt r.1, r.2)
  else
    let kc := if fmt = 1 then 4 else 8
    let one := fun (acc : F32) (h : Nat) =>
      accF32 acc ((upFrom (h * kc) kc).map fun k => (elemValue fmt 0 (a k), elemValue fmt 0 (b k)))
    ((List.range (n / kc)).foldl one f32Zero, 0)

/-- t of 09 R316 and R326: the exponent of the largest finite non-zero magnitude. -/
def topLog (x : List F32) : Option Int :=
  match x.filterMap f32Log2 with
  | [] => none
  | t :: ts => some (ts.foldl max t)

/-- The query row as elements and qx (09 R316); `free` numbers the bits that a NaN leaves open in NGI8. -/
def queryRow (fmt : Nat) (x : List F32) (nan : Nat → Nat) : List Nat × Int :=
  let t := (topLog x).getD (-127)
  if fmt = 1 then (x.map fun v => toNarrow v 0 fmtBf16 false false 0, 0)
  else if fmt = 3 then
    let q := max (-127) (min 127 (t - 8))
    (x.map fun v => toNarrow v q fmtE4M3 false false 0, q)
  else
    let one := fun (e : F32 × Nat) =>
      match f32 e.1 with
      | .nan => nan e.2 % 256
      | .inf neg => if neg then 0x81 else 0x7F
      | v => (clampInt (-127) 127 (((v.scale (6 - t)).toInt .rne).getD 0) % 256).toNat
    ((x.zip (List.range x.length)).map one, t - 6)

/-- quant_p (09 R317). -/
def quantP (fmt : Nat) (p : F32) (open' : Nat) : Nat :=
  if fmt = 1 then toNarrow p 0 fmtBf16 false false 0
  else if fmt = 3 then toNarrow p (-8) fmtE4M3 false false 0
  else match ((f32 p).mul (f32 (f32OfInt 127))).toInt .rne with
    | some v => (v % 256).toNat
    | none => open' % 256

/-- c and vf of 09 R317 for a block. -/
def scoreScale (qk kf : F32) (qx : Int) : F32 := toF32 (((f32 qk).mul (f32 kf)).scale qx)

def State.keyScale (s : State) (b : KvBlock) (kbase : F32) : F32 :=
  if b.fmt = 1 then f32One else if b.fmt = 3 then s.kvScale b 0 else kbase

def State.valueScale (s : State) (b : KvBlock) (vbase : F32) : F32 :=
  if b.fmt = 1 then f32One
  else if b.fmt = 3 then toF32 ((f32 (s.kvScale b 4)).scale (-8))
  else f32Div vbase (f32OfInt 127)

/-- The larger operand, or NaN where either is NaN. -/
def fmax (a b : F32) : F32 := if f32IsNan a ∨ f32IsNan b then f32Nan else f32Max a b

/-! ### ATTEND (09 R314 to R321) -/

/-- Whole banks that an ATTEND uses (09 R315). -/
def attendBanks (fmt d : Nat) : Nat := 5 + 2 * ceilDiv (512 * d * kvBytes fmt) 65536

/-- Not well formed (09 R314, 08 R276). -/
def attendBad (b : List Byte) (qrec : Option Qrec) : Bool :=
  let g := fieldOf b
  kvFieldsBad b || decide (8 ≤ g 1 1) || outOf (g 3 1) 1 15 || outOf (g 5 1) 1 16 || g 4 1 == 0 ||
  g 4 1 % g 5 1 != 0 || g 16 4 == 0 || (g 64 4 != 0 && g 1 1 / 2 % 2 == 0) || !f32Pos (BitVec.ofNat 32 (g 52 4)) ||
  g 36 4 % 4 != 0 || g 40 4 % 4 != 0 || decide (2 ^ 21 ≤ g 36 4) || decide (2 ^ 21 ≤ g 44 4) ||
  decide (24 < g 80 1 + attendBanks (g 11 1) (g 12 2)) || !zeroBytes b 81 124 ||
  qrec.elim true fun q => q.path != 2 || isMx q.outFmt || isNgi q.outFmt

def attendBeyond (b : List Byte) : Bool := decide (128 < fieldOf b 4 1) || decide (262144 < fieldOf b 16 4)

/-- Row r's position. -/
def qPos (b : List Byte) (r : Nat) : Nat := fieldOf b 20 4 + r / fieldOf b 5 1

/-- Key position `k` is visible to row `r` (09 R320). -/
def visible (b : List Byte) (r k : Nat) : Bool :=
  let q := qPos b r
  let w := fieldOf b 64 4
  decide (k < fieldOf b 16 4) && (fieldOf b 1 1 / 2 % 2 == 0 || decide (k ≤ q)) &&
  (w == 0 || decide ((q : Int) - k < w))

/-- The position that row i of entry e holds for this ATTEND, when it has been written (09 R312, R319). -/
def heldPos (x : Seq) (b : List Byte) (e i : Nat) : Option Nat :=
  (rowPos (fieldOf b 16 4) (fieldOf b 68 2) e i).filter fun k =>
    decide (k < x.next (fieldOf b 6 2) (fieldOf b 8 2))

/-- The entries that the walk visits, in order (09 R321). -/
def walkOf (x : Seq) (b : List Byte) : List Nat :=
  let len := fieldOf b 16 4
  let w := fieldOf b 68 2
  let all := if w = 0 then List.range ((len - 1) / 256 + 1)
    else (List.range w).map fun i => ((len - 1) % (256 * w) / 256 + 1 + i) % w
  all.filter fun e => (List.range (fieldOf b 4 1)).any fun r =>
    (List.range 256).any fun i => (heldPos x b e i).any fun k => visible b r k

/-- What one row makes of a block: its new statistics and the saturations. -/
def State.attendRow (s : State) (c : Nat) (b : List Byte) (x : Seq) (kb : KvBlock) (e r : Nat)
    (old : Word × Word × List Word) : (Word × Word × List Word) × Nat :=
  let g := fieldOf b
  let q := f32List s (kBay c (g 36 4 + r * g 40 4)) kb.d
  let q := if g 1 1 / 4 % 2 = 1 then s.ropeRow c b (qPos b r) q else q
  let (qe, qx) := queryRow kb.fmt q (Config.attendNan b (2 * r))
  let cc := scoreScale (BitVec.ofNat 32 (g 52 4)) (s.keyScale kb (BitVec.ofNat 32 (g 56 4))) qx
  let vf := s.valueScale kb (BitVec.ofNat 32 (g 60 4))
  let score := fun (i : Nat) =>
    if (heldPos x b e i).any fun k => visible b r k then
      let a := rsDot kb.fmt kb.d (s.kMul kb i) (fun k => qe.getD k 0) (s.kElem kb i)
      some (f32Mul a.1 cc, a.2)
    else none
  let scores := (List.range 256).map score
  let sat1 := (scores.map fun v => (v.map Prod.snd).getD 0).sum
  let mb := scores.foldl (fun m v => match v with
    | some w => fmax m w.1
    | none => m) f32MinusInf
  let (m, l, o) := old
  let mn := fmax m mb
  if mn = f32MinusInf then (old, sat1)
  else
    let al := expRn (f32Sub m mn)
    let ps := scores.map fun v => match v with
      | some w => expRn (f32Sub w.1 mn)
      | none => f32Zero
    let bs := ps.foldl f32Add f32Zero
    let pq := (ps.zip (List.range 256)).map fun p =>
      quantP kb.fmt p.1 (Config.attendNan b (2 * r + 1) (256 * e + p.2))
    let held := (List.range 256).map fun i => (heldPos x b e i).isSome
    let pv := (List.range kb.d).map fun d =>
      rsDot kb.fmt 256 (fun gr => s.vMul kb d gr) (fun i => pq.getD i 0)
        fun i => if held.getD i false then s.vElem kb i d else 0
    let out := (pv.zip o).map fun v => f32Add (f32Mul al v.2) (f32Mul vf v.1.1)
    ((mn, f32Add (f32Mul al l) bs, out), sat1 + (pv.map Prod.snd).sum)

def attendStart (d : Nat) : Word × Word × List Word := (f32MinusInf, f32Zero, List.replicate d f32Zero)

/-- One row of the output: its bits, whether it counts in BAD or AUX, the NaN written as integers. -/
def attendOut (q : Qrec) (v : Word × Word × List Word) (rand : Nat → Nat) : List Nat × Bool × Bool × Nat :=
  let (_, l, o) := v
  if (f32 l).isZero then (o.map fun _ => 0, true, false, 0)
  else
    let ws := o.map fun x => f32Div x l
    let nan := ws.any f32IsNan
    let ws := if nan then ws.map fun _ => f32Nan else ws
    let outs := (ws.zip (List.range ws.length)).map fun e =>
      plainOut q (scaled (f32 e.1) q.scale) (rand e.2)
    (outs.map Prod.fst, false, nan, (outs.filter fun o => o.2).length)

/-- The output of an ATTEND after its last block (09 R318). -/
def State.attendWrite (s : State) (c : Nat) (b : List Byte) (q : Qrec) : State :=
  let g := fieldOf b
  let w := elemBits q.outFmt
  let seed := ((s.gangOf c).map fun g => leNat (g.args.take 8)).getD 0
  let one := fun (s : State) (r : Nat) =>
    let rand := fun (d : Nat) => q.random seed (Config.attendIndex b r d % 2 ^ 64)
    let (es, bad, nan, qn) := attendOut q ((s.core c).rs.rows.look (attendStart (g 12 2)) r) rand
    let at' := Loc.bay (kBay c (g 44 4 + r * g 48 4))
    let s := (es.zip (List.range es.length)).foldl (fun (s : State) (e : Nat × Nat) => s.putElem at' w e.2 e.1) s
    s.updCore c fun k => { k with
      qnan := k.qnan + qn,
      rs := { k.rs with bad := k.rs.bad + (if bad then 1 else 0), aux := k.rs.aux + (if nan then 1 else 0),
                        nonfinite := k.rs.nonfinite + (if bad || nan then 1 else 0) } }
  let s := (List.range (g 4 1)).foldl one s
  s.updRs c fun u => { u with written := true }

/-- Release the pin that the lookahead holds on an entry (10 R352). -/
def State.unpinAhead (s : State) (c e : Nat) : State :=
  let l := (s.core c).rs.ahead
  let s := match l.find? fun a => a.1 == e with
    | some (_, some (p, P)) => s.unpin p P
    | _ => s
  s.updRs c fun u => { u with ahead := l.filter fun a => a.1 != e }

/-- The next block of an ATTEND, or its output. -/
def State.attendStep (s : State) (c : Nat) (b : List Byte) (q : Nat) (x : Seq) (qr : Qrec) : State :=
  let u := (s.core c).rs
  if u.written then s
  else match (walkOf x b)[u.items]? with
    | none => s.attendWrite c b qr
    | some e =>
      let v := s.entry x e
      if isAway v then
        (s.addReq .fetch x.pool q e (some c)).updRs c fun u => { u with waitPage := some (q, e) }
      else if !isPage v then s.updRs c fun u => { u with items := u.items + 1 }
      else
        let kb := s.kvBlock x v (fieldOf b 6 2) (fieldOf b 8 2)
        let held := (List.range 256).filter fun i => (heldPos x b e i).isSome
        s.ifPoolClean c x.pool (kb.spans held) fun s =>
          let row := fun (a : Tbl (Word × Word × List Word) × Nat) (r : Nat) =>
            let (st, n) := s.attendRow c b x kb e r (u.rows.look (attendStart kb.d) r)
            (Tbl.put a.1 r st, a.2 + n)
          let (rows, sat) := (List.range (fieldOf b 4 1)).foldl row (u.rows, 0)
          let s := s.updCore c fun k => { k with
            sat := k.sat + sat, rs := { k.rs with rows := rows, items := k.rs.items + 1, waitPage := none } }
          s.unpinAhead c e

/-- The bay extents of an ATTEND: query rows, output rows, frequencies. -/
def attendExtents (b : List Byte) (q : Qrec) : List (Nat × Nat) :=
  let g := fieldOf b
  let n := g 4 1 - 1
  [(g 36 4, n * g 40 4 + 4 * g 12 2), (g 44 4, n * g 48 4 + rowBytes (elemBits q.outFmt) (g 12 2)),
   (g 76 4, if g 1 1 / 4 % 2 = 1 then 2 * g 72 2 else 0)]

def extentsOk (l : List (Nat × Nat)) : Bool := l.all fun e => e.2 == 0 || decide (e.1 + e.2 ≤ bayBytes)

/-- The page list is one that the RUN may name (04 R131). -/
def State.listDenied (s : State) (c : Nat) (b : List Byte) : Bool :=
  !s.addrOk (s.ctxFunc (s.coreCtx c)) (BitVec.ofNat 64 (fieldOf b 24 8)) 16384

/-- The lists of the ATTEND's MEs and the descriptors of queue 1 that were launched before it are done (09 R315). -/
def State.attendReady (s : State) (c : Nat) (l : Launch) (b : List Byte) : Bool :=
  ((s.core c).dm1.descs.all fun d => decide (l.order ≤ d.order)) && (List.range 4).all fun m =>
    fieldOf b 3 1 / 2 ^ m % 2 == 0 ||
    ((s.core c).me.look MeUnit.reset m).lists.all fun e => decide (l.order ≤ e.1.order)

/-- 09 R314 to R321: an ATTEND is checked and starts, or goes on by one page block. -/
def execAttend (core : Fin 64) (s : State) : Next :=
  match s.rsFront core with
  | none => .next s
  | some (l, b) =>
    let qrec := (s.gangOf core).bind fun g => (g.qrecs[fieldOf b 10 1]?).map qrecOf
    if !s.rsRuns core 1 then .next s
    else if attendBad b qrec then .next (s.progError core l 6)
    else if attendBeyond b then .next (s.limitError core l)
    else match s.rsSeq core (fieldOf b 24 8) (fieldOf b 32 4), qrec with
      | some (q, x), some qr =>
        if !blockOk x b (fieldOf b 6 2) (fieldOf b 8 2) then .next (s.progError core l 6)
        else if s.listDenied core b ∨ !extentsOk (attendExtents b qr) then .next (s.progError core l 2)
        else if (s.core core).rs.started then .next (s.attendStep core b q x qr)
        else if !s.attendReady core l b then .next s
        else
          let n := attendBanks (fieldOf b 11 1) (fieldOf b 12 2)
          let s := s.bayUndefine core fun k => decide (fieldOf b 80 1 ≤ k) && decide (k < fieldOf b 80 1 + n)
          .next ((s.updRs core fun u => { u with started := true, items := 0, rows := [], bad := 0, aux := 0,
                                                 written := false, work := (fieldOf b 80 1, 5) }).attendStep core b q x qr)
      | _, _ => .next (s.progError core l 6)

/-- 09 R315, 10 R369: the walker asks for a page up to 4 pages ahead of the block in use. -/
def execLookaheadRequest (core : Fin 64) (s : State) : Next :=
  match s.rsFront core with
  | none => .next s
  | some (_, b) =>
    let u := (s.core core).rs
    if !s.rsRuns core 1 ∨ !u.started ∨ u.written then .next s
    else match s.rsSeq core (fieldOf b 24 8) (fieldOf b 32 4) with
      | none => .next s
      | some (q, x) =>
        let wanted := ((walkOf x b).drop u.items).take 5
        let lacks := fun (e : Nat) =>
          !(u.ahead.any fun a => a.1 == e && (a.2.isSome || isAway (s.entry x e)))
        match wanted.find? lacks with
        | none => .next s
        | some e =>
          let v := s.entry x e
          let keep := u.ahead.filter fun a => a.1 != e
          if isAway v then
            .next ((s.addReq .fetch x.pool q e (some core)).updRs core fun u => { u with ahead := keep ++ [(e, none)] })
          else if isPage v ∧ (s.kvPage x.pool v).pin < 255 then
            .next (((s.cancelSpill x.pool v).pinPage x.pool v).updRs core fun u =>
              { u with ahead := keep ++ [(e, some (x.pool, v))] })
          else .next s

/-! ### Quantising a row (09 R326) -/

/-- Counts of one written row. -/
structure RowCount where
  nan : Nat
  grown : Nat
  /-- Groups of keys that 06 R217 counts. -/
  groups : Nat
  deriving DecidableEq, Repr

def nanCount (x : List F32) : Nat := (x.filter f32IsNan).length

/-- One part (K or V) of an FP8 row: `off i` is the pool byte of row i, `sc` that of the part's scale. -/
def State.fp8Part (s : State) (b : KvBlock) (off : Nat → Nat) (sc : Nat) (held : List Nat) (row : Nat)
    (x : List F32) : State × RowCount :=
  let t := ((topLog x).map fun e => max (-127) (min 127 (e - 8))).getD (-127)
  let ex := (f32Log2 (BitVec.ofNat 32 (s.poolNat b.pool sc 4))).getD (-127)
  let grow := !held.isEmpty && decide (ex < t)
  let new := if held.isEmpty || grow then t else ex
  let re := fun (s : State) (r : Nat) =>
    s.poolStore b.pool (off r) ((s.poolLoad b.pool (off r) b.d).map fun v =>
      BitVec.ofNat 8 (toNarrow (toF32 (fmtE4M3.decode v.toNat)) (t - ex) fmtE4M3 false false 0))
  let s := if grow then held.foldl re s else s
  let s := s.poolStore b.pool (off row) (x.map fun v => BitVec.ofNat 8 (toNarrow v new fmtE4M3 false false 0))
  let s := s.poolStore b.pool sc (leBytes 4 (toF32 (.fin false 1 new)).toNat)
  (s, ⟨nanCount x, if grow then 1 else 0, 0⟩)

/-- A key row in NGI8 groups of 64. -/
def State.ngiKRow (s : State) (b : KvBlock) (row : Nat) (x : List F32) (kbase : F32) : State × RowCount :=
  let w := x.map fun v => f32Div v kbase
  let one := fun (s : State) (g : Nat) =>
    let o := ngiGroupOut ((w.drop (64 * g)).take 64) 127
    (s.poolStore b.pool (b.kOff row + 64 * g) (o.2.1.map fun v => BitVec.ofInt 8 v)).poolStore b.pool
      (b.side + 2 * (row * (b.d / 64) + g)) (leBytes 2 (o.1 % 65536).toNat)
  ((List.range (b.d / 64)).foldl one s, ⟨nanCount w, 0,
    ((List.range (b.d / 64)).filter fun g => (ngiGroupOut ((w.drop (64 * g)).take 64) 127).2.2).length⟩)

/-- One dimension of a value row in NGI8. -/
def State.ngiVElem (s : State) (b : KvBlock) (held : List Nat) (row : Nat) (vbase : F32) (a : RowCount) (d : Nat)
    (x : F32) : State × RowCount :=
  let g := row / 64
  let w0 := f32Div x vbase
  let nan := f32IsNan w0
  let w := if nan then f32Zero else w0
  let mag := absOf w
  let num := mag.1 * 2 ^ (max mag.2 0).toNat
  let den := 127 * 2 ^ (max (-mag.2) 0).toNat
  let need := min 32767 (max 1 ((num + den - 1) / den))
  let old := s.vMul b d g
  let same := held.filter fun r => r / 64 == g
  let grow := !same.isEmpty && decide (old < (need : Int))
  let m : Int := if same.isEmpty || grow then need else old
  let re := fun (s : State) (r : Nat) =>
    let v := sInt 8 (s.vElem b r d) * old
    let k := v.natAbs / need
    let up := roundUp .rne false k (v.natAbs % need) need
    let k : Int := if up then k + 1 else k
    s.poolStore b.pool (b.vOff r + d) [BitVec.ofInt 8 (if v < 0 then -k else k)]
  let s := if grow then same.foldl re s else s
  let s := s.poolStore b.pool (b.side + 8 * b.d + 2 * (4 * d + g)) (leBytes 2 (m % 65536).toNat)
  let e : Int := match f32 w with
    | .inf neg => if neg then -127 else 127
    | .fin neg k ex =>
      let n := k * 2 ^ (max ex 0).toNat
      let dn := m.toNat * 2 ^ (max (-ex) 0).toNat
      let v := if roundUp .rne false (n / dn) (n % dn) dn then n / dn + 1 else n / dn
      let v := min v 127
      if neg then -(v : Int) else v
    | .nan => 0
  (s.poolStore b.pool (b.vOff row + d) [BitVec.ofInt 8 e],
   ⟨a.nan + (if nan then 1 else 0), a.grown + (if grow then 1 else 0), a.groups⟩)

def State.ngiVRow (s : State) (b : KvBlock) (held : List Nat) (row : Nat) (x : List F32) (vbase : F32) :
    State × RowCount :=
  (x.zip (List.range b.d)).foldl (fun (a : State × RowCount) (e : F32 × Nat) =>
    a.1.ngiVElem b held row vbase a.2 e.2 e.1) (s, ⟨0, 0, 0⟩)

/-- Write the K and V rows of one position into its slot (09 R326). -/
def State.writeKv (s : State) (b : KvBlock) (held : List Nat) (row : Nat) (k v : List F32) (kbase vbase : F32) :
    State × RowCount :=
  if b.fmt = 1 then
    let bytes := fun (x : List F32) => x.flatMap fun e => leBytes 2 (toNarrow e 0 fmtBf16 false false 0)
    ((s.poolStore b.pool (b.kOff row) (bytes k)).poolStore b.pool (b.vOff row) (bytes v), ⟨nanCount k + nanCount v, 0, 0⟩)
  else if b.fmt = 3 then
    let (s, x) := s.fp8Part b b.kOff b.side held row k
    let (s, y) := s.fp8Part b b.vOff (b.side + 4) held row v
    (s, ⟨x.nan + y.nan, x.grown + y.grown, x.groups + y.groups⟩)
  else
    let (s, x) := s.ngiKRow b row k kbase
    let (s, y) := s.ngiVRow b held row v vbase
    (s, ⟨x.nan + y.nan, x.grown + y.grown, x.groups + y.groups⟩)

/-! ### APPEND and SCATTER (09 R324 to R327) -/

/-- One position to write. -/
structure KvRow where
  list : Nat
  pos : Nat
  layer : Nat
  head : Nat
  k : List F32
  v : List F32
  deriving DecidableEq, Repr

def State.rsDone1 (s : State) (c : Nat) : State :=
  s.updRs c fun u => { u with items := u.items + 1, waitPage := none }

/-- Put one row into its slot: the page is allocated, a write intent granted, then the row is written. -/
def State.slotRow (s : State) (c : Nat) (l : Launch) (b : List Byte) (r : KvRow) : State :=
  match s.rsSeq c r.list (fieldOf b 32 4) with
  | none => s.progError c l 6
  | some (q, x) =>
    if !blockOk x b r.layer r.head ∨ r.pos ≠ x.next r.layer r.head then s.progError c l 6
    else if 262144 ≤ r.pos then s.limitError c l
    else
      let slot := if x.geo.wPages = 0 then r.pos else r.pos % (256 * x.geo.wPages)
      let e := slot / 256
      let row := slot % 256
      let v := s.entry x e
      let wait := fun (s : State) => s.updRs c fun u => { u with waitPage := some (q, e) }
      if v = emptyEntry then wait (s.addReq .new x.pool q e (some c))
      else match s.yard.intents.find? fun i => i.core == c with
        | none => wait (s.withYard fun y => { y with intents := y.intents ++ [⟨c, q, e, false, false⟩] })
        | some i =>
          if !i.granted then s
          else
            let kb := s.kvBlock x v r.layer r.head
            let held := (List.range 256).filter fun i => i != row && (rowPos r.pos x.geo.wPages e i).isSome
            let reads := if kb.fmt = 1 then [] else kb.spans held
            s.ifPoolClean c x.pool reads fun s =>
              let base := fun (o : Nat) => BitVec.ofNat 32 (fieldOf b o 4)
              let (s, n) := s.writeKv kb held row r.k r.v (base 56) (base 60)
              let s := s.withYard fun y => { y with intents := y.intents.filter fun i => i.core != c }
              let s := s.unpin x.pool v
              let s := s.updSeq q fun x => { x with
                nextPos := x.nextPos.put (r.layer * 64 + r.head) (r.pos + 1), lastAppend := s.gts }
              let s := s.updCore c fun k => { k with qnan := k.qnan + n.groups }
              (s.updRs c fun u => { u with kvNonfinite := u.kvNonfinite + n.nan,
                                           rescaled := u.rescaled + n.grown }).rsDone1 c

/-- Bytes of a staging record (09 R325). -/
def stageBytes (d : Nat) : Nat := 64 * ceilDiv (16 + 8 * d) 64

/-- The APPEND or SCATTER is not well formed. -/
def appendBad (s : State) (b : List Byte) : Bool :=
  let g := fieldOf b
  let op := g 0 1
  let stage := BitVec.ofNat 64 (g 84 8)
  let scatter := s.bit (poolA (g 32 4 % 64) 0) 4
  kvFieldsBad b || decide (2 ≤ g 1 1) || !zeroBytes b 3 4 || !zeroBytes b 20 24 ||
  !zeroBytes b 48 56 || !zeroBytes b 80 84 || !zeroBytes b 92 124 || (g 84 8 == 0) == scatter ||
  (g 84 8 != 0 && (decide (1 < addrForm stage) || !addrReservedZero stage)) ||
  (if op = 2 then g 4 1 == 0 || !zeroBytes b 5 6 || g 36 4 % 4 != 0 || g 40 4 % 4 != 0 || g 44 4 % 4 != 0 ||
     decide (2 ^ 21 ≤ g 36 4) || decide (2 ^ 21 ≤ g 40 4)
   else g 4 4 == 0 || !scatter)

/-- Rows of an APPEND, records of a SCATTER. -/
def appendCount (b : List Byte) : Nat := if fieldOf b 0 1 = 2 then fieldOf b 4 1 else fieldOf b 4 4

def appendBeyond (b : List Byte) : Bool :=
  if fieldOf b 0 1 = 2 then decide (128 < fieldOf b 4 1) else decide (65536 < fieldOf b 4 4)

/-- The K row, rotated, and the V row of token `i` of an APPEND. -/
def State.appendRow (s : State) (c : Nat) (b : List Byte) (i : Nat) : KvRow :=
  let g := fieldOf b
  let x := fun (o : Nat) => f32List s (kBay c (g o 4 + i * g 44 4)) (g 12 2)
  ⟨g 24 8, g 16 4 + i, g 6 2, g 8 2, s.ropeRow c b (g 16 4 + i) (x 36), x 40⟩

/-- The staging record of a row. -/
def KvRow.bytes (r : KvRow) (d : Nat) : List Byte :=
  let l := leBytes 8 r.list ++ leBytes 4 r.pos ++ leBytes 2 r.layer ++ leBytes 2 r.head ++
    (r.k ++ r.v).flatMap fun v => leBytes 4 v.toNat
  l ++ List.replicate (stageBytes d - l.length) 0

def rowOfBytes (l : List Byte) (d : Nat) : KvRow :=
  let f := fun (o : Nat) => (List.range d).map fun i => BitVec.ofNat 32 (fieldOf l (o + 4 * i) 4)
  ⟨fieldOf l 0 8, fieldOf l 8 4, fieldOf l 12 2, fieldOf l 14 2, f 16, f (16 + 4 * d)⟩

/-- Key of staging record `i`. -/
def State.stageAcc (s : State) (c : Nat) (b : List Byte) (i : Nat) : DevAcc :=
  let n := stageBytes (fieldOf b 12 2)
  s.devAcc (s.coreCtx c) (BitVec.ofNat 64 (fieldOf b 84 8 + i * n)) n

/-- The checks that APPEND and SCATTER share, then `step` for the next row or record. -/
def State.kvStep (s : State) (c op : Nat) (step : Launch → List Byte → State → State) : State :=
  match s.rsFront c with
  | none => s
  | some (l, b) =>
    if !s.rsRuns c op then s
    else if (s.core c).rs.started then
      if (s.core c).rs.items < appendCount b then step l b s else s
    else if appendBad s b then s.progError c l 6
    else if appendBeyond b then s.limitError c l
    else if s.listDenied c b then s.progError c l 2
    else
      step l b (s.updRs c fun u => { u with started := true, items := 0, bad := 0, aux := 0 })

/-- 09 R325: one row of an APPEND, into its slot or, in a SCATTER pool, into staging. -/
def execAppend (core : Fin 64) (s : State) : Next :=
  .next (s.kvStep core 2 fun l b s =>
    let g := fieldOf b
    let i := (s.core core).rs.items
    let d := g 12 2
    let ext := [(g 36 4 + i * g 44 4, 4 * d), (g 40 4 + i * g 44 4, 4 * d), (g 76 4, 2 * g 72 2)]
    if !extentsOk ext then s.progError core l 2
    else s.ifClean core (ext.map fun e => (Loc.bay (kBay core e.1), e.2)) fun s =>
      let r := s.appendRow core b i
      if g 84 8 = 0 then s.slotRow core l b r
      else match s.stageAcc core b i with
        | .ok p => (s.locStore p (r.bytes d)).rsDone1 core
        | .waits => s
        | .denied => s.progError core l 2)

/-- 09 R325: one record of a SCATTER. -/
def execScatter (core : Fin 64) (s : State) : Next :=
  .next (s.kvStep core 3 fun l b s =>
    let d := fieldOf b 12 2
    match s.stageAcc core b (s.core core).rs.items with
    | .ok p => s.ifClean core [(p, stageBytes d)] fun s => s.slotRow core l b (rowOfBytes (s.locLoad p (stageBytes d)) d)
    | .waits => s
    | .denied => s.progError core l 2)

/-! ### Completion (09 R313, 08 R274) -/

/-- Every item of the front descriptor is done. -/
def State.rsComplete (s : State) (c : Nat) (b : List Byte) : Bool :=
  let u := (s.core c).rs
  u.started && (if fieldOf b 0 1 = 1 then u.written else appendCount b == u.items)

/-- 09 R313: the result block, the signal; an undefined OP is found here. -/
def execRsDescriptorDone (core : Fin 64) (s : State) : Next :=
  match s.rsFront core with
  | none => .next s
  | some (l, b) =>
    let op := fieldOf b 0 1
    if !s.coreRuns core then .next s
    else if op = 0 ∨ 3 < op then .next (s.progError core l 6)
    else if !s.rsComplete core b then .next s
    else
      let u := (s.core core).rs
      let a := fieldOf b 124 4
      let s := if a = 0xFFFFFFFF then s
        else s.bayStore (kBay core a) (leBytes 4 u.items ++ leBytes 4 u.bad ++ leBytes 4 u.aux ++ leBytes 4 0)
      let s := if fieldOf b 1 1 % 2 = 1 then s.semAdd core (fieldOf b 2 1) 1 else s
      let s := u.ahead.foldl (fun (s : State) (e : Nat × Option (Nat × Nat)) => s.unpinAhead core e.1) s
      .next ((s.updRs core fun u => { u with queue := u.queue.drop 1, started := false, items := 0, waitPage := none,
                                             rows := [], bad := 0, aux := 0, written := false, work := (0, 0) }).rsUnstall core)

end Sys2Proof.Machine
end

