-- ==== Sys2Proof/Machine/UnicodeData.lean ====
section
/-! DEFINITION. The Unicode 15.1.0 data built into the device (11 R389, R390), as records of hexadecimal numbers.
The tables are those of the Unicode Character Database (PRESUMED: the manual names them and does not print them; log
39). -/

namespace Sys2Proof.Machine

/-- Runs of code points from U+0000: category index (11 R390) and length. -/
@[irreducible] def unicodeCategories : String :=
  "19 20;16 1;11 3;13 1;11 3;D 1;E 1;11 1;12 1;11 1;C 1;11 2;8 A;11 2;12 3;11 2;0 1A;D 1;11 1;E 1;14 1;B 1;14 1;\
    1 1A;D 1;12 1;E 1;12 1;19 21;16 1;11 1;13 4;15 1;11 1;14 1;15 1;4 1;F 1;12 1;1A 1;15 1;14 1;15 1;12 1;A 2;14 1;\
    1 1;11 2;14 1;A 1;4 1;10 1;A 3;11 1;0 17;12 1;0 7;1 18;12 1;1 8;0 1;1 1;0 1;1 1;0 1;1 1;0 1;1 1;0 1;1 1;0 1;1 1;\
    0 1;1 1;0 1;1 1;0 1;1 1;0 1;1 1;0 1;1 1;0 1;1 1;0 1;1 1;0 1;1 1;0 1;1 1;0 1;1 1;0 1;1 1;0 1;1 1;0 1;1 1;0 1;1 1;\
    0 1;1 1;0 1;1 1;0 1;1 1;0 1;1 1;0 1;1 1;0 1;1 1;0 1;1 1;0 1;1 2;0 1;1 1;0 1;1 1;0 1;1 1;0 1;1 1;0 1;1 1;0 1;1 1;\
    0 1;1 1;0 1;1 2;0 1;1 1;0 1;1 1;0 1;1 1;0 1;1 1;0 1;1 1;0 1;1 1;0 1;1 1;0 1;1 1;0 1;1 1;0 1;1 1;0 1;1 1;0 1;1 1;\
    0 1;1 1;0 1;1 1;0 1;1 1;0 1;1 1;0 1;1 1;0 1;1 1;0 1;1 1;0 1;1 1;0 1;1 1;0 1;1 1;0 1;1 1;0 2;1 1;0 1;1 1;0 1;1 3;\
    0 2;1 1;0 1;1 1;0 2;1 1;0 3;1 2;0 4;1 1;0 2;1 1;0 3;1 3;0 2;1 1;0 2;1 1;0 1;1 1;0 1;1 1;0 2;1 1;0 1;1 2;0 1;1 1;\
    0 2;1 1;0 3;1 1;0 1;1 1;0 2;1 2;4 1;0 1;1 3;4 4;0 1;2 1;1 1;0 1;2 1;1 1;0 1;2 1;1 1;0 1;1 1;0 1;1 1;0 1;1 1;0 1;\
    1 1;0 1;1 1;0 1;1 1;0 1;1 1;0 1;1 2;0 1;1 1;0 1;1 1;0 1;1 1;0 1;1 1;0 1;1 1;0 1;1 1;0 1;1 1;0 1;1 1;0 1;1 2;0 1;\
    2 1;1 1;0 1;1 1;0 3;1 1;0 1;1 1;0 1;1 1;0 1;1 1;0 1;1 1;0 1;1 1;0 1;1 1;0 1;1 1;0 1;1 1;0 1;1 1;0 1;1 1;0 1;1 1;\
    0 1;1 1;0 1;1 1;0 1;1 1;0 1;1 1;0 1;1 1;0 1;1 1;0 1;1 1;0 1;1 1;0 1;1 1;0 1;1 1;0 1;1 1;0 1;1 1;0 1;1 1;0 1;1 1;\
    0 1;1 1;0 1;1 1;0 1;1 1;0 1;1 7;0 2;1 1;0 2;1 2;0 1;1 1;0 4;1 1;0 1;1 1;0 1;1 1;0 1;1 1;0 1;1 45;4 1;1 1B;3 12;\
    14 4;3 C;14 E;3 5;14 7;3 1;14 1;3 1;14 11;5 70;0 1;1 1;0 1;1 1;3 1;14 1;0 1;1 1;1D 2;3 1;1 3;11 1;0 1;1D 4;14 2;\
    0 1;11 1;0 3;1D 1;0 1;1D 1;0 2;1 1;0 11;1D 1;0 9;1 23;0 1;1 2;0 3;1 3;0 1;1 1;0 1;1 1;0 1;1 1;0 1;1 1;0 1;1 1;\
    0 1;1 1;0 1;1 1;0 1;1 1;0 1;1 1;0 1;1 1;0 1;1 1;0 1;1 5;0 1;1 1;12 1;0 1;1 1;0 2;1 2;0 33;1 30;0 1;1 1;0 1;1 1;\
    0 1;1 1;0 1;1 1;0 1;1 1;0 1;1 1;0 1;1 1;0 1;1 1;0 1;1 1;0 1;1 1;0 1;1 1;0 1;1 1;0 1;1 1;0 1;1 1;0 1;1 1;0 1;1 1;\
    0 1;1 1;15 1;5 5;7 2;0 1;1 1;0 1;1 1;0 1;1 1;0 1;1 1;0 1;1 1;0 1;1 1;0 1;1 1;0 1;1 1;0 1;1 1;0 1;1 1;0 1;1 1;\
    0 1;1 1;0 1;1 1;0 1;1 1;0 1;1 1;0 1;1 1;0 1;1 1;0 1;1 1;0 1;1 1;0 1;1 1;0 1;1 1;0 1;1 1;0 1;1 1;0 1;1 1;0 1;1 1;\
    0 1;1 1;0 1;1 1;0 2;1 1;0 1;1 1;0 1;1 1;0 1;1 1;0 1;1 1;0 1;1 1;0 1;1 2;0 1;1 1;0 1;1 1;0 1;1 1;0 1;1 1;0 1;1 1;\
    0 1;1 1;0 1;1 1;0 1;1 1;0 1;1 1;0 1;1 1;0 1;1 1;0 1;1 1;0 1;1 1;0 1;1 1;0 1;1 1;0 1;1 1;0 1;1 1;0 1;1 1;0 1;1 1;\
    0 1;1 1;0 1;1 1;0 1;1 1;0 1;1 1;0 1;1 1;0 1;1 1;0 1;1 1;0 1;1 1;0 1;1 1;0 1;1 1;0 1;1 1;0 1;1 1;0 1;1 1;0 1;1 1;\
    0 1;1 1;0 1;1 1;0 1;1 1;0 1;1 1;0 1;1 1;0 1;1 1;0 1;1 1;0 1;1 1;0 1;1 1;0 1;1 1;0 1;1 1;0 1;1 1;0 1;1 1;0 1;1 1;\
    0 1;1 1;1D 1;0 26;1D 2;3 1;11 6;1 29;11 1;C 1;1D 2;15 2;13 1;1D 1;5 2D;C 1;5 1;11 1;5 2;11 1;5 2;11 1;5 1;1D 8;\
    4 1B;1D 4;4 4;11 2;1D B;1A 6;12 3;11 2;13 1;11 2;15 2;5 B;11 1;1A 1;11 3;4 20;3 1;4 A;5 15;8 A;11 4;4 2;5 1;\
    4 63;11 1;4 1;5 7;1A 1;15 1;5 6;3 2;5 2;15 1;5 4;4 2;8 A;4 3;15 2;4 1;11 E;1D 1;1A 1;4 1;5 1;4 1E;5 1B;1D 2;\
    4 59;5 B;4 1;1D E;8 A;4 21;5 9;3 2;15 1;11 3;3 1;1D 2;5 1;13 2;4 16;5 4;3 1;5 9;3 1;5 3;3 1;5 5;1D 2;11 F;1D 1;\
    4 19;5 3;1D 2;11 1;1D 1;4 B;1D 5;4 18;14 1;4 6;1D 1;1A 2;1D 6;5 8;4 29;3 1;5 18;1A 1;5 20;6 1;4 36;5 1;6 1;5 1;\
    4 1;6 3;5 8;6 4;5 1;6 2;4 1;5 7;4 A;5 2;11 2;8 A;11 1;3 1;4 F;5 1;6 2;1D 1;4 8;1D 2;4 2;1D 2;4 16;1D 1;4 7;1D 1;\
    4 1;1D 3;4 4;1D 2;5 1;4 1;6 3;5 4;1D 2;6 2;1D 2;6 2;5 1;4 1;1D 8;6 1;1D 4;4 2;1D 1;4 3;5 2;1D 2;8 A;4 2;13 2;\
    A 6;15 1;13 1;4 1;11 1;5 1;1D 2;5 2;6 1;1D 1;4 6;1D 4;4 2;1D 2;4 16;1D 1;4 7;1D 1;4 2;1D 1;4 2;1D 1;4 2;1D 2;\
    5 1;1D 1;6 3;5 2;1D 4;5 2;1D 2;5 3;1D 3;5 1;1D 7;4 4;1D 1;4 1;1D 7;8 A;5 2;4 3;5 1;11 1;1D A;5 2;6 1;1D 1;4 9;\
    1D 1;4 3;1D 1;4 16;1D 1;4 7;1D 1;4 2;1D 1;4 5;1D 2;5 1;4 1;6 3;5 5;1D 1;5 2;6 1;1D 1;6 2;5 1;1D 2;4 1;1D F;4 2;\
    5 2;1D 2;8 A;11 1;13 1;1D 7;4 1;5 6;1D 1;5 1;6 2;1D 1;4 8;1D 2;4 2;1D 2;4 16;1D 1;4 7;1D 1;4 2;1D 1;4 5;1D 2;\
    5 1;4 1;6 1;5 1;6 1;5 4;1D 2;6 2;1D 2;6 2;5 1;1D 7;5 2;6 1;1D 4;4 2;1D 1;4 3;5 2;1D 2;8 A;15 1;4 1;A 6;1D A;5 1;\
    4 1;1D 1;4 6;1D 3;4 3;1D 1;4 4;1D 3;4 2;1D 1;4 1;1D 1;4 2;1D 3;4 2;1D 3;4 3;1D 3;4 C;1D 4;6 2;5 1;6 2;1D 3;6 3;\
    1D 1;6 3;5 1;1D 2;4 1;1D 6;6 1;1D E;8 A;A 3;15 6;13 1;15 1;1D 5;5 1;6 3;5 1;4 8;1D 1;4 3;1D 1;4 17;1D 1;4 10;\
    1D 2;5 1;4 1;5 3;6 4;1D 1;5 3;1D 1;5 4;1D 7;5 2;1D 1;4 3;1D 2;4 1;1D 2;4 2;5 2;1D 2;8 A;1D 7;11 1;A 7;15 1;4 1;\
    5 1;6 2;11 1;4 8;1D 1;4 3;1D 1;4 17;1D 1;4 A;1D 1;4 5;1D 2;5 1;4 1;6 1;5 1;6 5;1D 1;5 1;6 2;1D 1;6 2;5 2;1D 7;\
    6 2;1D 6;4 2;1D 1;4 2;5 2;1D 2;8 A;1D 1;4 2;6 1;1D C;5 2;6 2;4 9;1D 1;4 3;1D 1;4 29;5 2;4 1;6 3;5 4;1D 1;6 3;\
    1D 1;6 3;5 1;4 1;15 1;1D 4;4 3;6 1;A 7;4 3;5 2;1D 2;8 A;A 9;15 1;4 6;1D 1;5 1;6 2;1D 1;4 12;1D 3;4 18;1D 1;4 9;\
    1D 1;4 1;1D 2;4 7;1D 3;5 1;1D 4;6 3;5 3;1D 1;5 1;1D 1;6 8;1D 6;8 A;1D 2;6 2;11 1;1D C;4 30;5 1;4 2;5 7;1D 4;\
    13 1;4 6;3 1;5 8;11 1;8 A;11 2;1D 25;4 2;1D 1;4 1;1D 1;4 5;1D 1;4 18;1D 1;4 1;1D 1;4 A;5 1;4 2;5 9;4 1;1D 2;4 5;\
    1D 1;3 1;1D 1;5 7;1D 1;8 A;1D 2;4 4;1D 20;4 1;15 3;11 F;15 1;11 1;15 3;5 2;15 6;8 A;A A;15 1;5 1;15 1;5 1;15 1;\
    5 1;D 1;E 1;D 1;E 1;6 2;4 8;1D 1;4 24;1D 4;5 E;6 1;5 5;11 1;5 2;4 5;5 B;1D 1;5 24;1D 1;15 8;5 1;15 6;1D 1;15 2;\
    11 5;15 4;11 2;1D 25;4 2B;6 2;5 4;6 1;5 6;6 1;5 2;6 2;5 2;4 1;8 A;11 6;4 6;6 2;5 2;4 4;5 3;4 1;6 3;4 2;6 7;4 3;\
    5 4;4 D;5 1;6 2;5 2;6 6;5 1;4 1;6 1;8 A;6 3;5 1;15 2;0 26;1D 1;0 1;1D 5;0 1;1D 2;1 2B;11 1;3 1;1 3;4 149;1D 1;\
    4 4;1D 2;4 7;1D 1;4 1;1D 1;4 4;1D 2;4 29;1D 1;4 4;1D 2;4 21;1D 1;4 4;1D 2;4 7;1D 1;4 1;1D 1;4 4;1D 2;4 F;1D 1;\
    4 39;1D 1;4 4;1D 2;4 43;1D 2;5 3;11 9;A 14;1D 3;4 10;15 A;1D 6;0 56;1D 2;1 6;1D 2;C 1;4 26C;15 1;11 1;4 11;16 1;\
    4 1A;D 1;E 1;1D 3;4 4B;11 3;9 3;4 8;1D 7;4 12;5 3;6 1;1D 9;4 13;5 2;6 1;11 2;1D 9;4 12;5 2;1D C;4 D;1D 1;4 3;\
    1D 1;5 2;1D C;4 34;5 2;6 1;5 7;6 8;5 1;6 2;5 B;11 3;3 1;11 3;13 1;4 1;5 1;1D 2;8 A;1D 6;A A;1D 6;11 6;C 1;11 4;\
    5 3;1A 1;5 1;8 A;1D 6;4 23;3 1;4 35;1D 7;4 5;5 2;4 22;5 1;4 1;1D 5;4 46;1D A;4 1F;1D 1;5 3;6 4;5 2;6 3;1D 4;6 2;\
    5 1;6 6;5 3;1D 4;15 1;1D 3;11 2;8 A;4 1E;1D 2;4 5;1D B;4 2C;1D 4;4 1A;1D 6;8 A;A 1;1D 3;15 22;4 17;5 2;6 2;5 1;\
    1D 2;11 2;4 35;6 1;5 1;6 1;5 7;1D 1;5 1;6 1;5 1;6 2;5 8;6 6;5 A;1D 2;5 1;8 A;1D 6;8 A;1D 6;11 7;3 1;11 6;1D 2;\
    5 E;7 1;5 10;1D 31;5 4;6 1;4 2F;5 1;6 1;5 5;6 1;5 1;6 5;5 1;6 2;4 8;1D 3;8 A;11 7;15 A;5 9;15 9;11 2;1D 1;5 2;\
    6 1;4 1E;6 1;5 4;6 2;5 2;6 1;5 3;4 2;8 A;4 2C;5 1;6 1;5 2;6 3;5 1;6 1;5 3;6 2;1D 8;11 4;4 24;6 8;5 8;6 2;5 2;\
    1D 3;11 5;8 A;1D 3;4 3;8 A;4 1E;3 6;11 2;1 9;1D 7;0 2B;1D 2;0 3;11 8;1D 8;5 3;11 1;5 D;6 1;5 7;4 4;5 1;4 6;5 1;\
    4 2;6 1;5 2;4 1;1D 5;1 2C;3 3F;1 D;3 1;1 22;3 25;5 40;0 1;1 1;0 1;1 1;0 1;1 1;0 1;1 1;0 1;1 1;0 1;1 1;0 1;1 1;\
    0 1;1 1;0 1;1 1;0 1;1 1;0 1;1 1;0 1;1 1;0 1;1 1;0 1;1 1;0 1;1 1;0 1;1 1;0 1;1 1;0 1;1 1;0 1;1 1;0 1;1 1;0 1;1 1;\
    0 1;1 1;0 1;1 1;0 1;1 1;0 1;1 1;0 1;1 1;0 1;1 1;0 1;1 1;0 1;1 1;0 1;1 1;0 1;1 1;0 1;1 1;0 1;1 1;0 1;1 1;0 1;1 1;\
    0 1;1 1;0 1;1 1;0 1;1 1;0 1;1 1;0 1;1 1;0 1;1 1;0 1;1 1;0 1;1 1;0 1;1 1;0 1;1 1;0 1;1 1;0 1;1 1;0 1;1 1;0 1;1 1;\
    0 1;1 1;0 1;1 1;0 1;1 1;0 1;1 1;0 1;1 1;0 1;1 1;0 1;1 1;0 1;1 1;0 1;1 1;0 1;1 1;0 1;1 1;0 1;1 1;0 1;1 1;0 1;1 1;\
    0 1;1 1;0 1;1 1;0 1;1 1;0 1;1 1;0 1;1 1;0 1;1 1;0 1;1 1;0 1;1 1;0 1;1 1;0 1;1 1;0 1;1 1;0 1;1 9;0 1;1 1;0 1;1 1;\
    0 1;1 1;0 1;1 1;0 1;1 1;0 1;1 1;0 1;1 1;0 1;1 1;0 1;1 1;0 1;1 1;0 1;1 1;0 1;1 1;0 1;1 1;0 1;1 1;0 1;1 1;0 1;1 1;\
    0 1;1 1;0 1;1 1;0 1;1 1;0 1;1 1;0 1;1 1;0 1;1 1;0 1;1 1;0 1;1 1;0 1;1 1;0 1;1 1;0 1;1 1;0 1;1 1;0 1;1 1;0 1;1 1;\
    0 1;1 1;0 1;1 1;0 1;1 1;0 1;1 1;0 1;1 1;0 1;1 1;0 1;1 1;0 1;1 1;0 1;1 1;0 1;1 1;0 1;1 1;0 1;1 1;0 1;1 1;0 1;1 1;\
    0 1;1 1;0 1;1 1;0 1;1 1;0 1;1 1;0 1;1 9;0 8;1 6;1D 2;0 6;1D 2;1 8;0 8;1 8;0 8;1 6;1D 2;0 6;1D 2;1 8;1D 1;0 1;\
    1D 1;0 1;1D 1;0 1;1D 1;0 1;1 8;0 8;1 E;1D 2;1 8;2 8;1 8;2 8;1 8;2 8;1 5;1D 1;1 2;0 4;2 1;14 1;1 1;14 3;1 3;1D 1;\
    1 2;0 4;2 1;14 3;1 4;1D 2;1 2;0 4;1D 1;14 3;1 8;0 5;14 3;1D 2;1 3;1D 1;1 2;0 4;2 1;14 2;1D 1;16 B;1A 5;C 6;11 2;\
    F 1;10 1;D 1;F 2;10 1;D 1;F 1;11 8;17 1;18 1;1A 5;16 1;11 9;F 1;10 1;11 4;B 2;11 3;12 1;D 1;E 1;11 B;12 1;11 1;\
    B 1;11 A;16 1;1A 5;1D 1;1A A;A 1;3 1;1D 2;A 6;12 3;D 1;E 1;3 1;A A;12 3;D 1;E 1;1D 1;3 D;1D 3;13 21;1D F;5 D;\
    7 4;5 1;7 3;5 C;1D F;15 2;0 1;15 4;0 1;15 2;1 1;0 3;1 2;0 3;1 1;15 1;0 1;15 2;12 1;0 5;15 6;0 1;15 1;0 1;15 1;\
    0 1;15 1;0 4;15 1;1 1;0 4;1 1;4 4;1 1;15 2;1 2;0 2;12 5;0 1;1 4;15 1;12 1;15 2;1 1;15 1;A 10;9 23;0 1;1 1;9 4;\
    A 1;15 2;1D 4;12 5;15 5;12 2;15 4;12 1;15 2;12 1;15 2;12 1;15 7;12 1;15 1F;12 2;15 2;12 1;15 1;12 1;15 1F;\
    12 10C;15 8;D 1;E 1;D 1;E 1;15 14;12 2;15 7;D 1;E 1;15 51;12 1;15 1E;12 19;15 28;12 6;15 45;1D 19;15 B;1D 15;\
    A 3C;15 4E;A 16;15 B7;12 1;15 9;12 1;15 36;12 8;15 6F;12 1;15 F8;D 1;E 1;D 1;E 1;D 1;E 1;D 1;E 1;D 1;E 1;D 1;\
    E 1;D 1;E 1;A 1E;15 2C;12 5;D 1;E 1;12 1F;D 1;E 1;D 1;E 1;D 1;E 1;D 1;E 1;D 1;E 1;12 10;15 100;12 83;D 1;E 1;\
    D 1;E 1;D 1;E 1;D 1;E 1;D 1;E 1;D 1;E 1;D 1;E 1;D 1;E 1;D 1;E 1;D 1;E 1;D 1;E 1;12 3F;D 1;E 1;D 1;E 1;12 20;D 1;\
    E 1;12 102;15 30;12 15;15 2;12 6;15 27;1D 2;15 20;1D 1;15 69;0 30;1 30;0 1;1 1;0 3;1 2;0 1;1 1;0 1;1 1;0 1;1 1;\
    0 4;1 1;0 1;1 2;0 1;1 6;3 2;0 3;1 1;0 1;1 1;0 1;1 1;0 1;1 1;0 1;1 1;0 1;1 1;0 1;1 1;0 1;1 1;0 1;1 1;0 1;1 1;0 1;\
    1 1;0 1;1 1;0 1;1 1;0 1;1 1;0 1;1 1;0 1;1 1;0 1;1 1;0 1;1 1;0 1;1 1;0 1;1 1;0 1;1 1;0 1;1 1;0 1;1 1;0 1;1 1;0 1;\
    1 1;0 1;1 1;0 1;1 1;0 1;1 1;0 1;1 1;0 1;1 1;0 1;1 1;0 1;1 1;0 1;1 1;0 1;1 1;0 1;1 1;0 1;1 1;0 1;1 1;0 1;1 1;0 1;\
    1 1;0 1;1 1;0 1;1 1;0 1;1 1;0 1;1 1;0 1;1 1;0 1;1 1;0 1;1 1;0 1;1 1;0 1;1 1;0 1;1 1;0 1;1 2;15 6;0 1;1 1;0 1;\
    1 1;5 3;0 1;1 1;1D 5;11 4;A 1;11 2;1 26;1D 1;1 1;1D 5;1 1;1D 2;4 38;1D 7;3 1;11 1;1D E;5 1;4 17;1D 9;4 7;1D 1;\
    4 7;1D 1;4 7;1D 1;4 7;1D 1;4 7;1D 1;4 7;1D 1;4 7;1D 1;4 7;1D 1;5 20;11 2;F 1;10 1;F 1;10 1;11 3;F 1;10 1;11 1;\
    F 1;10 1;11 9;C 1;11 2;C 1;11 1;F 1;10 1;11 2;F 1;10 1;D 1;E 1;D 1;E 1;D 1;E 1;D 1;E 1;11 5;3 1;11 A;C 2;11 4;\
    C 1;11 1;D 1;11 D;15 2;11 3;D 1;E 1;D 1;E 1;D 1;E 1;D 1;E 1;C 1;1D 22;15 1A;1D 1;15 59;1D C;15 D6;1D 1A;15 10;\
    16 1;11 3;15 1;3 1;4 1;9 1;D 1;E 1;D 1;E 1;D 1;E 1;D 1;E 1;D 1;E 1;15 2;D 1;E 1;D 1;E 1;D 1;E 1;D 1;E 1;C 1;D 1;\
    E 2;15 1;9 9;5 4;6 2;C 1;3 5;15 2;9 3;3 1;4 1;11 1;15 2;1D 1;4 56;1D 2;5 2;14 2;3 2;4 1;C 1;4 5A;11 1;3 3;4 1;\
    1D 5;4 2B;1D 1;4 5E;1D 1;15 2;A 4;15 A;4 20;15 24;1D B;15 1;4 10;15 1F;1D 1;A A;15 1E;A 8;15 1;A F;15 20;A A;\
    15 27;A F;15 140;4 19C0;15 40;4 5215;3 1;4 477;1D 3;15 37;1D 9;4 28;3 6;11 2;4 10C;3 1;11 3;4 10;8 A;4 2;1D 14;\
    0 1;1 1;0 1;1 1;0 1;1 1;0 1;1 1;0 1;1 1;0 1;1 1;0 1;1 1;0 1;1 1;0 1;1 1;0 1;1 1;0 1;1 1;0 1;1 1;0 1;1 1;0 1;1 1;\
    0 1;1 1;0 1;1 1;0 1;1 1;0 1;1 1;0 1;1 1;0 1;1 1;0 1;1 1;0 1;1 1;0 1;1 1;4 1;5 1;7 3;11 1;5 A;11 1;3 1;0 1;1 1;\
    0 1;1 1;0 1;1 1;0 1;1 1;0 1;1 1;0 1;1 1;0 1;1 1;0 1;1 1;0 1;1 1;0 1;1 1;0 1;1 1;0 1;1 1;0 1;1 1;0 1;1 1;3 2;5 2;\
    4 46;9 A;5 2;11 6;1D 8;14 17;3 9;14 2;0 1;1 1;0 1;1 1;0 1;1 1;0 1;1 1;0 1;1 1;0 1;1 1;0 1;1 3;0 1;1 1;0 1;1 1;\
    0 1;1 1;0 1;1 1;0 1;1 1;0 1;1 1;0 1;1 1;0 1;1 1;0 1;1 1;0 1;1 1;0 1;1 1;0 1;1 1;0 1;1 1;0 1;1 1;0 1;1 1;0 1;1 1;\
    0 1;1 1;0 1;1 1;0 1;1 1;0 1;1 1;0 1;1 1;0 1;1 1;0 1;1 1;0 1;1 1;0 1;1 1;0 1;1 1;0 1;1 1;0 1;1 1;0 1;1 1;0 1;1 1;\
    0 1;1 1;3 1;1 8;0 1;1 1;0 1;1 1;0 2;1 1;0 1;1 1;0 1;1 1;0 1;1 1;0 1;1 1;3 1;14 2;0 1;1 1;0 1;1 1;4 1;0 1;1 1;\
    0 1;1 3;0 1;1 1;0 1;1 1;0 1;1 1;0 1;1 1;0 1;1 1;0 1;1 1;0 1;1 1;0 1;1 1;0 1;1 1;0 1;1 1;0 5;1 1;0 5;1 1;0 1;1 1;\
    0 1;1 1;0 1;1 1;0 1;1 1;0 1;1 1;0 1;1 1;0 1;1 1;0 4;1 1;0 1;1 1;1D 5;0 1;1 1;1D 1;1 1;1D 1;1 1;0 1;1 1;0 1;1 1;\
    1D 18;3 3;0 1;1 1;4 1;3 2;1 1;4 7;5 1;4 3;5 1;4 4;5 1;4 17;6 2;5 2;6 1;15 4;5 1;1D 3;A 6;15 2;13 1;15 1;1D 6;\
    4 34;11 4;1D 8;6 2;4 32;6 10;5 2;1D 8;11 2;8 A;1D 6;5 12;4 6;11 3;4 1;11 1;4 2;5 1;8 A;4 1C;5 8;11 2;4 17;5 B;\
    6 2;1D B;11 1;4 1D;1D 3;5 3;6 1;4 2F;5 1;6 2;5 4;6 2;5 2;6 3;11 D;1D 1;3 1;8 A;1D 4;11 2;4 5;5 1;3 1;4 9;8 A;\
    4 5;1D 1;4 29;5 6;6 2;5 2;6 2;5 2;1D 9;4 3;5 1;4 8;5 1;6 1;1D 2;8 A;1D 2;11 4;4 10;3 1;4 6;15 3;4 1;6 1;5 1;6 1;\
    4 32;5 1;4 1;5 3;4 2;5 2;4 5;5 2;4 1;5 1;4 1;1D 18;4 2;3 1;11 2;4 B;6 1;5 2;6 2;11 2;4 1;3 2;6 1;5 1;1D A;4 6;\
    1D 2;4 6;1D 2;4 6;1D 9;4 7;1D 1;4 7;1D 1;1 2B;14 1;3 4;1 9;3 1;14 2;1D 4;1 50;4 23;6 2;5 1;6 2;5 1;6 2;11 1;6 1;\
    5 1;1D 2;8 A;1D 6;4 2BA4;1D C;4 17;1D 4;4 31;1D 4;1B 800;1C 1900;4 16E;1D 2;4 6A;1D 26;1 7;1D C;1 5;1D 5;4 1;\
    5 1;4 A;12 1;4 D;1D 1;4 5;1D 1;4 1;1D 1;4 2;1D 1;4 2;1D 1;4 6C;14 11;1D 10;4 16B;E 1;D 1;15 10;4 40;1D 2;4 36;\
    1D 7;15 1;1D 20;4 C;13 1;15 3;5 10;11 7;D 1;E 1;11 1;1D 6;5 10;11 1;C 2;B 2;D 1;E 1;D 1;E 1;D 1;E 1;D 1;E 1;D 1;\
    E 1;D 1;E 1;D 1;E 1;D 1;E 1;11 2;D 1;E 1;11 4;B 3;11 3;1D 1;11 4;C 1;D 1;E 1;D 1;E 1;D 1;E 1;11 3;12 1;C 1;12 3;\
    1D 1;11 1;13 1;11 2;1D 4;4 5;1D 1;4 87;1D 2;1A 1;1D 1;11 3;13 1;11 3;D 1;E 1;11 1;12 1;11 1;C 1;11 2;8 A;11 2;\
    12 3;11 2;0 1A;D 1;11 1;E 1;14 1;B 1;14 1;1 1A;D 1;12 1;E 1;12 1;D 1;E 1;11 1;D 1;E 1;11 2;4 A;3 1;4 2D;3 2;\
    4 1F;1D 3;4 6;1D 2;4 6;1D 2;4 6;1D 2;4 3;1D 3;13 2;12 1;14 1;15 1;13 2;1D 1;15 1;12 4;15 2;1D A;1A 3;15 2;1D 2;\
    4 C;1D 1;4 1A;1D 1;4 13;1D 1;4 2;1D 1;4 F;1D 2;4 E;1D 22;4 7B;1D 5;11 3;1D 4;A 2D;1D 3;15 9;9 35;A 4;15 11;A 2;\
    15 3;1D 1;15 D;1D 3;15 1;1D 2F;15 2D;5 1;1D 82;4 1D;1D 3;4 31;1D F;5 1;A 1B;1D 4;4 20;A 4;1D 9;4 14;9 1;4 8;9 1;\
    1D 5;4 26;5 5;1D 5;4 1E;1D 1;11 1;4 24;1D 4;4 8;11 1;9 5;1D 2A;0 28;1 28;4 4E;1D 2;8 A;1D 6;0 24;1D 4;1 24;1D 4;\
    4 28;1D 8;4 34;1D B;11 1;0 B;1D 1;0 F;1D 1;0 7;1D 1;0 2;1D 1;1 B;1D 1;1 F;1D 1;1 7;1D 1;1 2;1D 43;4 137;1D 9;\
    4 16;1D A;4 8;1D 18;3 6;1D 1;3 2A;1D 1;3 9;1D 45;4 6;1D 2;4 1;1D 1;4 2C;1D 1;4 2;1D 3;4 1;1D 2;4 17;1D 1;11 1;\
    A 8;4 17;15 2;A 7;4 1F;1D 8;A 9;1D 30;4 13;1D 1;4 2;1D 5;A 5;4 16;A 6;1D 3;11 1;4 1A;1D 5;11 1;1D 40;4 38;1D 4;\
    A 2;4 2;A 10;1D 2;A 2E;4 1;5 3;1D 1;5 2;1D 5;5 4;4 4;1D 1;4 3;1D 1;4 1D;1D 2;5 3;1D 4;5 1;A 9;1D 7;11 9;1D 7;\
    4 1D;A 2;11 1;4 1D;A 3;1D 20;4 8;15 1;4 1C;5 2;1D 4;A 5;11 7;1D 9;4 36;1D 3;11 7;4 16;1D 2;A 8;4 13;1D 5;A 8;\
    4 12;1D 7;11 4;1D C;A 7;1D 50;4 49;1D 37;0 33;1D D;1 33;1D 7;A 6;4 24;5 4;1D 8;8 A;1D 126;A 1F;1D 1;4 2A;1D 1;\
    5 2;C 1;1D 2;4 2;1D 4B;5 3;4 1D;A A;4 1;1D 8;4 16;5 B;A 4;11 5;1D 16;4 12;5 4;11 4;1D 26;4 15;A 7;1D 14;4 17;\
    1D 9;6 1;5 1;6 1;4 35;5 F;11 7;1D 4;A 14;8 A;5 1;4 2;5 2;4 1;1D 9;5 3;6 1;4 2D;6 3;5 4;6 2;5 2;11 2;1A 1;11 4;\
    5 1;1D A;1A 1;1D 2;4 19;1D 7;8 A;1D 6;5 3;4 24;5 5;6 1;5 8;1D 1;8 A;11 4;4 1;6 2;4 1;1D 8;4 23;5 1;11 2;4 1;\
    1D 9;5 2;6 1;4 30;6 3;5 9;6 2;4 4;11 4;5 4;11 1;6 1;5 1;8 A;4 1;11 1;4 1;11 3;1D 1;A 14;1D B;4 12;1D 1;4 19;6 3;\
    5 3;6 2;5 1;6 1;5 2;11 6;5 1;4 2;5 1;1D 3E;4 7;1D 1;4 1;1D 1;4 4;1D 1;4 F;1D 1;4 A;11 1;1D 6;4 2F;5 1;6 3;5 8;\
    1D 5;8 A;1D 6;5 2;6 2;1D 1;4 8;1D 2;4 2;1D 2;4 16;1D 1;4 7;1D 1;4 2;1D 1;4 5;1D 1;5 2;4 1;6 2;5 1;6 4;1D 2;6 2;\
    1D 2;6 3;1D 2;4 1;1D 6;6 1;1D 5;4 5;6 2;1D 2;5 7;1D 3;5 5;1D 8B;4 35;6 3;5 8;6 2;5 3;6 1;5 1;4 4;11 5;8 A;11 2;\
    1D 1;11 1;5 1;4 3;1D 1E;4 30;6 3;5 6;6 1;5 1;6 4;5 2;6 1;5 2;4 2;11 1;4 1;1D 8;8 A;1D A6;4 2F;6 3;5 4;1D 2;6 4;\
    5 2;6 1;5 2;11 17;4 4;5 2;1D 22;4 30;6 3;5 8;6 2;5 1;6 1;5 2;11 3;4 1;1D B;8 A;1D 6;11 D;1D 13;4 2B;5 1;6 1;5 1;\
    6 2;5 6;6 1;5 1;4 1;11 1;1D 6;8 A;1D 36;4 1B;1D 2;5 3;6 2;5 4;6 1;5 5;1D 4;8 A;A 2;11 3;15 1;4 7;1D B9;4 2C;6 3;\
    5 9;6 1;5 2;11 1;1D 64;0 20;1 20;8 A;A 9;1D C;4 8;1D 2;4 1;1D 2;4 8;1D 1;4 2;1D 1;4 18;6 6;1D 1;6 2;1D 2;5 2;\
    6 1;5 1;4 1;6 1;4 1;6 1;5 1;11 3;1D 9;8 A;1D 46;4 8;1D 2;4 27;6 3;5 4;1D 2;5 2;6 4;5 1;4 1;11 1;4 1;6 1;1D 1B;\
    4 1;5 A;4 28;5 6;6 1;4 1;5 4;11 8;5 1;1D 8;4 1;5 6;6 2;5 3;4 2E;5 D;6 1;5 2;11 3;4 1;11 5;1D D;4 49;1D 7;11 A;\
    1D F6;4 9;1D 1;4 25;6 1;5 7;1D 1;5 6;6 1;5 1;4 1;11 5;1D A;8 A;A 13;1D 3;11 2;4 1E;1D 2;5 16;1D 1;6 1;5 7;6 1;\
    5 2;6 1;5 2;1D 49;4 7;1D 1;4 2;1D 1;4 26;5 6;1D 3;5 1;1D 1;5 2;1D 1;5 7;4 1;5 1;1D 8;8 A;1D 6;4 6;1D 1;4 2;1D 1;\
    4 20;6 5;1D 1;5 2;1D 1;6 2;5 1;6 1;5 1;4 1;1D 7;8 A;1D 136;4 13;5 2;6 2;11 2;1D 7;5 2;4 1;6 1;4 D;1D 1;4 22;6 2;\
    5 5;1D 3;6 2;5 1;6 1;5 1;11 D;8 A;1D 56;4 1;1D F;A 15;15 8;13 4;15 11;1D D;11 1;4 39A;1D 66;9 6F;1D 1;11 5;1D B;\
    4 C4;1D A4C;4 61;11 2;1D D;4 430;1A 10;5 1;4 6;5 F;1D FAA;4 247;1D 21B9;4 239;1D 7;4 1F;1D 1;8 A;1D 4;11 2;4 4F;\
    1D 1;8 A;1D 6;4 1E;1D 2;5 5;11 1;1D A;4 30;5 7;11 5;15 4;3 4;11 1;15 1;1D A;8 A;1D 1;A 7;1D 1;4 15;1D 5;4 13;\
    1D 2B0;0 20;1 20;A 17;11 4;1D 65;4 4B;1D 4;5 1;4 1;6 37;1D 7;5 4;3 D;1D 40;3 2;11 1;3 1;5 1;1D B;6 2;1D E;\
    4 17F8;1D 8;4 4D6;1D 2A;4 9;1D 22E7;3 4;1D 1;3 7;1D 1;3 2;1D 1;4 123;1D F;4 1;1D 1D;4 3;1D 2;4 1;1D E;4 4;1D 8;\
    4 18C;1D 904;4 6B;1D 5;4 D;1D 3;4 9;1D 7;4 A;1D 2;15 1;5 2;11 1;1A 4;1D 125C;5 2E;1D 2;5 17;1D 9;15 74;1D 3C;\
    15 F6;1D A;15 27;1D 2;15 3C;6 2;5 3;15 3;6 6;1A 8;5 8;15 2;5 7;15 1E;5 4;15 3D;1D 15;15 42;5 3;15 1;1D 7A;A 14;\
    1D C;A 14;1D C;15 57;1D 9;A 19;1D 87;0 1A;1 1A;0 1A;1 7;1D 1;1 12;0 1A;1 1A;0 1;1D 1;0 2;1D 2;0 1;1D 2;0 2;1D 2;\
    0 4;1D 1;0 8;1 4;1D 1;1 1;1D 1;1 7;1D 1;1 B;0 1A;1 1A;0 2;1D 1;0 4;1D 2;0 8;1D 1;0 7;1D 1;1 1A;0 2;1D 1;0 4;\
    1D 1;0 5;1D 1;0 1;1D 3;0 7;1D 1;1 1A;0 1A;1 1A;0 1A;1 1A;0 1A;1 1A;0 1A;1 1A;0 1A;1 1A;0 1A;1 1C;1D 2;0 19;12 1;\
    1 19;12 1;1 6;0 19;12 1;1 19;12 1;1 6;0 19;12 1;1 19;12 1;1 6;0 19;12 1;1 19;12 1;1 6;0 19;12 1;1 19;12 1;1 6;\
    0 1;1 1;1D 2;8 32;15 200;5 37;15 4;5 32;15 8;5 1;15 E;5 1;15 2;11 5;1D F;5 5;1D 1;5 F;1D 450;1 A;4 1;1 14;1D 6;\
    1 6;1D D5;5 7;1D 1;5 11;1D 2;5 7;1D 1;5 2;1D 1;5 5;1D 5;3 3E;1D 21;5 1;1D 70;4 2D;1D 3;5 7;3 7;1D 2;8 A;1D 4;\
    4 1;15 1;1D 140;4 1E;5 1;1D 11;4 2C;5 4;8 A;1D 5;13 1;1D 1D0;4 1B;3 1;5 4;8 A;1D 2E6;4 7;1D 1;4 4;1D 1;4 2;1D 1;\
    4 F;1D 1;4 C5;1D 2;A 9;5 7;1D 29;0 22;1 22;5 7;3 1;1D 4;8 A;1D 4;11 2;1D 311;A 3B;15 1;A 3;13 1;A 4;1D 4C;A 2D;\
    15 1;A F;1D C2;4 4;1D 1;4 1B;1D 1;4 2;1D 1;4 1;1D 2;4 1;1D 1;4 A;1D 1;4 4;1D 1;4 1;1D 1;4 1;1D 6;4 1;1D 4;4 1;\
    1D 1;4 1;1D 1;4 1;1D 1;4 3;1D 1;4 2;1D 1;4 1;1D 2;4 1;1D 1;4 1;1D 1;4 1;1D 1;4 1;1D 1;4 1;1D 1;4 2;1D 1;4 1;\
    1D 2;4 4;1D 1;4 7;1D 1;4 4;1D 1;4 4;1D 1;4 1;1D 1;4 A;1D 1;4 11;1D 5;4 3;1D 1;4 5;1D 1;4 11;1D 34;12 2;1D 10E;\
    15 2C;1D 4;15 64;1D C;15 F;1D 2;15 F;1D 1;15 F;1D 1;15 25;1D A;A D;15 A1;1D 38;15 1D;1D D;15 2C;1D 4;15 9;1D 7;\
    15 2;1D E;15 6;1D 9A;15 FB;14 5;15 2D8;1D 4;15 11;1D 3;15 D;1D 3;15 77;1D 4;15 5F;1D 6;15 C;1D 4;15 1;1D F;15 C;\
    1D 4;15 38;1D 8;15 A;1D 6;15 28;1D 8;15 1E;1D 2;15 2;1D 4E;15 154;1D C;15 E;1D 2;15 D;1D 3;15 9;1D 7;15 2E;1D 1;\
    15 7;1D 8;15 E;1D 4;15 9;1D 7;15 9;1D 7;15 93;1D 1;15 37;1D 25;8 A;1D 406;4 A6E0;1D 20;4 103A;1D 6;4 DE;1D 2;\
    4 1682;1D E;4 1D31;1D F;4 26E;1D 9A2;4 21E;1D 5E2;4 134B;1D 5;4 1060;1D ADC51;1A 1;1D 1E;1A 60;1D 80;5 F0;\
    1D FE10;1C FFFE;1D 2;1C FFFE;1D 2"

/-- Runs of code points from U+0000: canonical combining class and length. -/
@[irreducible] def unicodeClasses : String :=
  "0 300;E6 15;E8 1;DC 4;E8 1;D8 1;DC 5;CA 2;DC 4;CA 2;DC B;1 5;DC 4;E6 8;F0 1;E6 1;DC 3;E6 3;DC 2;0 1;E6 3;DC 4;\
    E6 1;E8 1;DC 2;E6 1;E9 1;EA 2;E9 1;EA 2;E9 1;E6 D;0 113;E6 5;0 109;DC 1;E6 4;DC 1;E6 3;DE 1;DC 1;E6 6;DC 6;E6 2;\
    DC 1;E6 2;DE 1;E4 1;E6 1;A 1;B 1;C 1;D 1;E 1;F 1;10 1;11 1;12 1;13 2;14 1;15 1;16 1;0 1;17 1;0 1;18 1;19 1;0 1;\
    E6 1;DC 1;0 1;12 1;0 48;E6 8;1E 1;1F 1;20 1;0 30;1B 1;1C 1;1D 1;1E 1;1F 1;20 1;21 1;22 1;E6 2;DC 2;E6 5;DC 1;\
    E6 2;DC 1;0 10;23 1;0 65;E6 7;0 2;E6 4;DC 1;E6 1;0 2;E6 2;0 1;DC 1;E6 2;DC 1;0 23;24 1;0 1E;E6 1;DC 1;E6 2;DC 1;\
    E6 2;DC 3;E6 1;DC 2;E6 1;DC 1;E6 3;DC 1;E6 1;DC 1;E6 1;DC 1;E6 1;DC 1;E6 2;0 A0;E6 7;DC 1;E6 1;0 9;DC 1;0 18;\
    E6 4;0 1;E6 9;0 1;E6 3;0 1;E6 5;0 2B;DC 3;0 3C;E6 1;DC 3;E6 4;0 2A;E6 5;DC 5;E6 E;0 1;DC 1;E6 2;DC 1;E6 2;DC 1;\
    E6 3;DC 3;1B 1;1C 1;1D 1;E6 3;DC 1;E6 2;DC 2;E6 5;0 3C;7 1;0 10;9 1;0 3;E6 1;DC 1;E6 2;0 67;7 1;0 10;9 1;0 30;\
    E6 1;0 3D;7 1;0 10;9 1;0 6E;7 1;0 10;9 1;0 6E;7 1;0 10;9 1;0 7F;9 1;0 6E;7 1;0 10;9 1;0 7;54 1;5B 1;0 65;7 1;\
    0 10;9 1;0 6D;9 2;0 10;9 1;0 7C;9 1;0 6D;67 2;9 1;0 D;6B 4;0 6C;76 2;9 1;0 D;7A 4;0 4C;DC 2;0 1B;DC 1;0 1;DC 1;\
    0 1;D8 1;0 37;81 1;82 1;0 1;84 1;0 5;82 4;0 2;82 1;0 1;E6 2;9 1;0 1;E6 2;0 3E;DC 1;0 70;7 1;0 1;9 2;0 52;DC 1;\
    0 2CF;E6 3;0 3B4;9 2;0 1E;9 1;0 9D;9 1;0 A;E6 1;0 CB;E4 1;0 8F;DE 1;E6 1;DC 1;0 DB;E6 1;DC 1;0 47;9 1;0 14;E6 8;\
    0 2;DC 1;0 30;E6 5;DC 6;E6 2;DC 1;0 1;DC 2;E6 2;DC 2;E6 5;DC 1;E6 4;0 65;7 1;0 F;9 1;0 26;E6 1;DC 1;E6 7;0 36;\
    9 2;0 3A;7 1;0 B;9 2;0 43;7 1;0 98;E6 3;0 1;1 1;DC 5;E6 2;DC 4;E6 1;0 1;1 7;0 4;DC 1;0 6;E6 1;0 3;E6 2;0 C6;\
    E6 2;DC 1;E6 7;DC 1;E6 2;EA 1;D6 1;DC 1;CA 1;E6 25;E8 1;E4 2;DC 1;DA 1;E6 1;E9 1;DC 1;E6 1;DC 1;0 2D0;E6 2;1 2;\
    E6 4;1 3;E6 2;0 4;E6 1;0 3;1 2;E6 1;DC 1;E6 1;1 2;DC 4;E6 1;0 BFE;E6 3;0 8D;9 1;0 60;E6 20;0 22A;DA 1;E4 1;E8 1;\
    DE 1;E0 2;0 69;8 2;0 75D4;E6 1;0 4;E6 A;0 20;E6 2;0 50;E6 2;0 114;9 1;0 25;9 1;0 97;9 1;0 1B;E6 12;0 39;DC 3;\
    0 25;9 1;0 5F;7 1;0 C;9 1;0 EF;E6 1;0 1;E6 2;DC 1;0 2;E6 2;0 5;E6 2;0 1;E6 1;0 34;9 1;0 F6;9 1;0 4F30;1A 1;\
    0 301;E6 7;DC 7;E6 2;0 3CD;DC 1;0 E2;DC 1;0 95;E6 5;0 692;DC 1;0 1;E6 1;0 28;E6 1;1 1;DC 1;0 4;9 1;0 A5;E6 1;\
    DC 1;0 23D;E6 4;0 183;E6 2;0 50;DC 3;0 46;DC 2;E6 3;DC 1;E6 1;DC 4;0 31;E6 1;DC 1;E6 1;DC 1;0 C0;9 1;0 29;9 1;\
    0 E;9 1;0 39;9 1;7 1;0 45;E6 3;0 30;9 2;0 3E;7 1;0 4C;9 1;0 9;7 1;0 6A;9 1;7 1;0 B2;7 1;9 1;0 50;7 2;0 10;9 1;\
    0 18;E6 7;0 3;E6 5;0 CD;9 1;0 3;7 1;0 17;E6 1;0 63;9 1;7 1;0 FB;9 1;7 1;0 7E;9 1;0 76;9 1;7 1;0 73;9 1;0 10D;\
    9 1;7 1;0 102;9 2;0 4;7 1;0 9C;9 1;0 53;9 1;0 12;9 1;0 51;9 1;0 1A5;9 1;0 102;7 1;0 1;9 2;0 51;9 1;0 1A9;9 2;\
    0 4BAD;1 5;0 3B;E6 7;0 4B9;6 2;0 4CAC;1 1;0 14C6;D8 2;1 3;0 3;E2 1;D8 5;0 8;DC 8;0 2;E6 5;DC 2;0 1E;E6 4;0 94;\
    E6 3;0 DBB;E6 7;0 1;E6 11;0 2;E6 7;0 1;E6 2;0 1;E6 5;0 64;E6 1;0 A0;E6 7;0 177;E6 1;0 3D;E6 4;0 1FC;E8 2;DC 1;\
    E6 1;0 3E0;DC 7;0 6D;E6 6;7 1;0 16B5"

/-- Code point; 0 for a canonical decomposition that composes again, 1 for one that is excluded from composition,
2 for a compatibility decomposition; then the mapping, one step of it. -/
@[irreducible] def unicodeDecompositions : String :=
  "A0 2 20;A8 2 20 308;AA 2 61;AF 2 20 304;B2 2 32;B3 2 33;B4 2 20 301;B5 2 3BC;B8 2 20 327;B9 2 31;BA 2 6F;\
    BC 2 31 2044 34;BD 2 31 2044 32;BE 2 33 2044 34;C0 0 41 300;C1 0 41 301;C2 0 41 302;C3 0 41 303;C4 0 41 308;\
    C5 0 41 30A;C7 0 43 327;C8 0 45 300;C9 0 45 301;CA 0 45 302;CB 0 45 308;CC 0 49 300;CD 0 49 301;CE 0 49 302;\
    CF 0 49 308;D1 0 4E 303;D2 0 4F 300;D3 0 4F 301;D4 0 4F 302;D5 0 4F 303;D6 0 4F 308;D9 0 55 300;DA 0 55 301;\
    DB 0 55 302;DC 0 55 308;DD 0 59 301;E0 0 61 300;E1 0 61 301;E2 0 61 302;E3 0 61 303;E4 0 61 308;E5 0 61 30A;\
    E7 0 63 327;E8 0 65 300;E9 0 65 301;EA 0 65 302;EB 0 65 308;EC 0 69 300;ED 0 69 301;EE 0 69 302;EF 0 69 308;\
    F1 0 6E 303;F2 0 6F 300;F3 0 6F 301;F4 0 6F 302;F5 0 6F 303;F6 0 6F 308;F9 0 75 300;FA 0 75 301;FB 0 75 302;\
    FC 0 75 308;FD 0 79 301;FF 0 79 308;100 0 41 304;101 0 61 304;102 0 41 306;103 0 61 306;104 0 41 328;\
    105 0 61 328;106 0 43 301;107 0 63 301;108 0 43 302;109 0 63 302;10A 0 43 307;10B 0 63 307;10C 0 43 30C;\
    10D 0 63 30C;10E 0 44 30C;10F 0 64 30C;112 0 45 304;113 0 65 304;114 0 45 306;115 0 65 306;116 0 45 307;\
    117 0 65 307;118 0 45 328;119 0 65 328;11A 0 45 30C;11B 0 65 30C;11C 0 47 302;11D 0 67 302;11E 0 47 306;\
    11F 0 67 306;120 0 47 307;121 0 67 307;122 0 47 327;123 0 67 327;124 0 48 302;125 0 68 302;128 0 49 303;\
    129 0 69 303;12A 0 49 304;12B 0 69 304;12C 0 49 306;12D 0 69 306;12E 0 49 328;12F 0 69 328;130 0 49 307;\
    132 2 49 4A;133 2 69 6A;134 0 4A 302;135 0 6A 302;136 0 4B 327;137 0 6B 327;139 0 4C 301;13A 0 6C 301;\
    13B 0 4C 327;13C 0 6C 327;13D 0 4C 30C;13E 0 6C 30C;13F 2 4C B7;140 2 6C B7;143 0 4E 301;144 0 6E 301;\
    145 0 4E 327;146 0 6E 327;147 0 4E 30C;148 0 6E 30C;149 2 2BC 6E;14C 0 4F 304;14D 0 6F 304;14E 0 4F 306;\
    14F 0 6F 306;150 0 4F 30B;151 0 6F 30B;154 0 52 301;155 0 72 301;156 0 52 327;157 0 72 327;158 0 52 30C;\
    159 0 72 30C;15A 0 53 301;15B 0 73 301;15C 0 53 302;15D 0 73 302;15E 0 53 327;15F 0 73 327;160 0 53 30C;\
    161 0 73 30C;162 0 54 327;163 0 74 327;164 0 54 30C;165 0 74 30C;168 0 55 303;169 0 75 303;16A 0 55 304;\
    16B 0 75 304;16C 0 55 306;16D 0 75 306;16E 0 55 30A;16F 0 75 30A;170 0 55 30B;171 0 75 30B;172 0 55 328;\
    173 0 75 328;174 0 57 302;175 0 77 302;176 0 59 302;177 0 79 302;178 0 59 308;179 0 5A 301;17A 0 7A 301;\
    17B 0 5A 307;17C 0 7A 307;17D 0 5A 30C;17E 0 7A 30C;17F 2 73;1A0 0 4F 31B;1A1 0 6F 31B;1AF 0 55 31B;\
    1B0 0 75 31B;1C4 2 44 17D;1C5 2 44 17E;1C6 2 64 17E;1C7 2 4C 4A;1C8 2 4C 6A;1C9 2 6C 6A;1CA 2 4E 4A;1CB 2 4E 6A;\
    1CC 2 6E 6A;1CD 0 41 30C;1CE 0 61 30C;1CF 0 49 30C;1D0 0 69 30C;1D1 0 4F 30C;1D2 0 6F 30C;1D3 0 55 30C;\
    1D4 0 75 30C;1D5 0 DC 304;1D6 0 FC 304;1D7 0 DC 301;1D8 0 FC 301;1D9 0 DC 30C;1DA 0 FC 30C;1DB 0 DC 300;\
    1DC 0 FC 300;1DE 0 C4 304;1DF 0 E4 304;1E0 0 226 304;1E1 0 227 304;1E2 0 C6 304;1E3 0 E6 304;1E6 0 47 30C;\
    1E7 0 67 30C;1E8 0 4B 30C;1E9 0 6B 30C;1EA 0 4F 328;1EB 0 6F 328;1EC 0 1EA 304;1ED 0 1EB 304;1EE 0 1B7 30C;\
    1EF 0 292 30C;1F0 0 6A 30C;1F1 2 44 5A;1F2 2 44 7A;1F3 2 64 7A;1F4 0 47 301;1F5 0 67 301;1F8 0 4E 300;\
    1F9 0 6E 300;1FA 0 C5 301;1FB 0 E5 301;1FC 0 C6 301;1FD 0 E6 301;1FE 0 D8 301;1FF 0 F8 301;200 0 41 30F;\
    201 0 61 30F;202 0 41 311;203 0 61 311;204 0 45 30F;205 0 65 30F;206 0 45 311;207 0 65 311;208 0 49 30F;\
    209 0 69 30F;20A 0 49 311;20B 0 69 311;20C 0 4F 30F;20D 0 6F 30F;20E 0 4F 311;20F 0 6F 311;210 0 52 30F;\
    211 0 72 30F;212 0 52 311;213 0 72 311;214 0 55 30F;215 0 75 30F;216 0 55 311;217 0 75 311;218 0 53 326;\
    219 0 73 326;21A 0 54 326;21B 0 74 326;21E 0 48 30C;21F 0 68 30C;226 0 41 307;227 0 61 307;228 0 45 327;\
    229 0 65 327;22A 0 D6 304;22B 0 F6 304;22C 0 D5 304;22D 0 F5 304;22E 0 4F 307;22F 0 6F 307;230 0 22E 304;\
    231 0 22F 304;232 0 59 304;233 0 79 304;2B0 2 68;2B1 2 266;2B2 2 6A;2B3 2 72;2B4 2 279;2B5 2 27B;2B6 2 281;\
    2B7 2 77;2B8 2 79;2D8 2 20 306;2D9 2 20 307;2DA 2 20 30A;2DB 2 20 328;2DC 2 20 303;2DD 2 20 30B;2E0 2 263;\
    2E1 2 6C;2E2 2 73;2E3 2 78;2E4 2 295;340 1 300;341 1 301;343 1 313;344 1 308 301;374 1 2B9;37A 2 20 345;\
    37E 1 3B;384 2 20 301;385 0 A8 301;386 0 391 301;387 1 B7;388 0 395 301;389 0 397 301;38A 0 399 301;\
    38C 0 39F 301;38E 0 3A5 301;38F 0 3A9 301;390 0 3CA 301;3AA 0 399 308;3AB 0 3A5 308;3AC 0 3B1 301;3AD 0 3B5 301;\
    3AE 0 3B7 301;3AF 0 3B9 301;3B0 0 3CB 301;3CA 0 3B9 308;3CB 0 3C5 308;3CC 0 3BF 301;3CD 0 3C5 301;3CE 0 3C9 301;\
    3D0 2 3B2;3D1 2 3B8;3D2 2 3A5;3D3 0 3D2 301;3D4 0 3D2 308;3D5 2 3C6;3D6 2 3C0;3F0 2 3BA;3F1 2 3C1;3F2 2 3C2;\
    3F4 2 398;3F5 2 3B5;3F9 2 3A3;400 0 415 300;401 0 415 308;403 0 413 301;407 0 406 308;40C 0 41A 301;\
    40D 0 418 300;40E 0 423 306;419 0 418 306;439 0 438 306;450 0 435 300;451 0 435 308;453 0 433 301;457 0 456 308;\
    45C 0 43A 301;45D 0 438 300;45E 0 443 306;476 0 474 30F;477 0 475 30F;4C1 0 416 306;4C2 0 436 306;4D0 0 410 306;\
    4D1 0 430 306;4D2 0 410 308;4D3 0 430 308;4D6 0 415 306;4D7 0 435 306;4DA 0 4D8 308;4DB 0 4D9 308;4DC 0 416 308;\
    4DD 0 436 308;4DE 0 417 308;4DF 0 437 308;4E2 0 418 304;4E3 0 438 304;4E4 0 418 308;4E5 0 438 308;4E6 0 41E 308;\
    4E7 0 43E 308;4EA 0 4E8 308;4EB 0 4E9 308;4EC 0 42D 308;4ED 0 44D 308;4EE 0 423 304;4EF 0 443 304;4F0 0 423 308;\
    4F1 0 443 308;4F2 0 423 30B;4F3 0 443 30B;4F4 0 427 308;4F5 0 447 308;4F8 0 42B 308;4F9 0 44B 308;587 2 565 582;\
    622 0 627 653;623 0 627 654;624 0 648 654;625 0 627 655;626 0 64A 654;675 2 627 674;676 2 648 674;677 2 6C7 674;\
    678 2 64A 674;6C0 0 6D5 654;6C2 0 6C1 654;6D3 0 6D2 654;929 0 928 93C;931 0 930 93C;934 0 933 93C;958 1 915 93C;\
    959 1 916 93C;95A 1 917 93C;95B 1 91C 93C;95C 1 921 93C;95D 1 922 93C;95E 1 92B 93C;95F 1 92F 93C;9CB 0 9C7 9BE;\
    9CC 0 9C7 9D7;9DC 1 9A1 9BC;9DD 1 9A2 9BC;9DF 1 9AF 9BC;A33 1 A32 A3C;A36 1 A38 A3C;A59 1 A16 A3C;A5A 1 A17 A3C;\
    A5B 1 A1C A3C;A5E 1 A2B A3C;B48 0 B47 B56;B4B 0 B47 B3E;B4C 0 B47 B57;B5C 1 B21 B3C;B5D 1 B22 B3C;B94 0 B92 BD7;\
    BCA 0 BC6 BBE;BCB 0 BC7 BBE;BCC 0 BC6 BD7;C48 0 C46 C56;CC0 0 CBF CD5;CC7 0 CC6 CD5;CC8 0 CC6 CD6;CCA 0 CC6 CC2;\
    CCB 0 CCA CD5;D4A 0 D46 D3E;D4B 0 D47 D3E;D4C 0 D46 D57;DDA 0 DD9 DCA;DDC 0 DD9 DCF;DDD 0 DDC DCA;DDE 0 DD9 DDF;\
    E33 2 E4D E32;EB3 2 ECD EB2;EDC 2 EAB E99;EDD 2 EAB EA1;F0C 2 F0B;F43 1 F42 FB7;F4D 1 F4C FB7;F52 1 F51 FB7;\
    F57 1 F56 FB7;F5C 1 F5B FB7;F69 1 F40 FB5;F73 1 F71 F72;F75 1 F71 F74;F76 1 FB2 F80;F77 2 FB2 F81;F78 1 FB3 F80;\
    F79 2 FB3 F81;F81 1 F71 F80;F93 1 F92 FB7;F9D 1 F9C FB7;FA2 1 FA1 FB7;FA7 1 FA6 FB7;FAC 1 FAB FB7;FB9 1 F90 FB5;\
    1026 0 1025 102E;10FC 2 10DC;1B06 0 1B05 1B35;1B08 0 1B07 1B35;1B0A 0 1B09 1B35;1B0C 0 1B0B 1B35;\
    1B0E 0 1B0D 1B35;1B12 0 1B11 1B35;1B3B 0 1B3A 1B35;1B3D 0 1B3C 1B35;1B40 0 1B3E 1B35;1B41 0 1B3F 1B35;\
    1B43 0 1B42 1B35;1D2C 2 41;1D2D 2 C6;1D2E 2 42;1D30 2 44;1D31 2 45;1D32 2 18E;1D33 2 47;1D34 2 48;1D35 2 49;\
    1D36 2 4A;1D37 2 4B;1D38 2 4C;1D39 2 4D;1D3A 2 4E;1D3C 2 4F;1D3D 2 222;1D3E 2 50;1D3F 2 52;1D40 2 54;1D41 2 55;\
    1D42 2 57;1D43 2 61;1D44 2 250;1D45 2 251;1D46 2 1D02;1D47 2 62;1D48 2 64;1D49 2 65;1D4A 2 259;1D4B 2 25B;\
    1D4C 2 25C;1D4D 2 67;1D4F 2 6B;1D50 2 6D;1D51 2 14B;1D52 2 6F;1D53 2 254;1D54 2 1D16;1D55 2 1D17;1D56 2 70;\
    1D57 2 74;1D58 2 75;1D59 2 1D1D;1D5A 2 26F;1D5B 2 76;1D5C 2 1D25;1D5D 2 3B2;1D5E 2 3B3;1D5F 2 3B4;1D60 2 3C6;\
    1D61 2 3C7;1D62 2 69;1D63 2 72;1D64 2 75;1D65 2 76;1D66 2 3B2;1D67 2 3B3;1D68 2 3C1;1D69 2 3C6;1D6A 2 3C7;\
    1D78 2 43D;1D9B 2 252;1D9C 2 63;1D9D 2 255;1D9E 2 F0;1D9F 2 25C;1DA0 2 66;1DA1 2 25F;1DA2 2 261;1DA3 2 265;\
    1DA4 2 268;1DA5 2 269;1DA6 2 26A;1DA7 2 1D7B;1DA8 2 29D;1DA9 2 26D;1DAA 2 1D85;1DAB 2 29F;1DAC 2 271;1DAD 2 270;\
    1DAE 2 272;1DAF 2 273;1DB0 2 274;1DB1 2 275;1DB2 2 278;1DB3 2 282;1DB4 2 283;1DB5 2 1AB;1DB6 2 289;1DB7 2 28A;\
    1DB8 2 1D1C;1DB9 2 28B;1DBA 2 28C;1DBB 2 7A;1DBC 2 290;1DBD 2 291;1DBE 2 292;1DBF 2 3B8;1E00 0 41 325;\
    1E01 0 61 325;1E02 0 42 307;1E03 0 62 307;1E04 0 42 323;1E05 0 62 323;1E06 0 42 331;1E07 0 62 331;1E08 0 C7 301;\
    1E09 0 E7 301;1E0A 0 44 307;1E0B 0 64 307;1E0C 0 44 323;1E0D 0 64 323;1E0E 0 44 331;1E0F 0 64 331;1E10 0 44 327;\
    1E11 0 64 327;1E12 0 44 32D;1E13 0 64 32D;1E14 0 112 300;1E15 0 113 300;1E16 0 112 301;1E17 0 113 301;\
    1E18 0 45 32D;1E19 0 65 32D;1E1A 0 45 330;1E1B 0 65 330;1E1C 0 228 306;1E1D 0 229 306;1E1E 0 46 307;\
    1E1F 0 66 307;1E20 0 47 304;1E21 0 67 304;1E22 0 48 307;1E23 0 68 307;1E24 0 48 323;1E25 0 68 323;1E26 0 48 308;\
    1E27 0 68 308;1E28 0 48 327;1E29 0 68 327;1E2A 0 48 32E;1E2B 0 68 32E;1E2C 0 49 330;1E2D 0 69 330;1E2E 0 CF 301;\
    1E2F 0 EF 301;1E30 0 4B 301;1E31 0 6B 301;1E32 0 4B 323;1E33 0 6B 323;1E34 0 4B 331;1E35 0 6B 331;1E36 0 4C 323;\
    1E37 0 6C 323;1E38 0 1E36 304;1E39 0 1E37 304;1E3A 0 4C 331;1E3B 0 6C 331;1E3C 0 4C 32D;1E3D 0 6C 32D;\
    1E3E 0 4D 301;1E3F 0 6D 301;1E40 0 4D 307;1E41 0 6D 307;1E42 0 4D 323;1E43 0 6D 323;1E44 0 4E 307;1E45 0 6E 307;\
    1E46 0 4E 323;1E47 0 6E 323;1E48 0 4E 331;1E49 0 6E 331;1E4A 0 4E 32D;1E4B 0 6E 32D;1E4C 0 D5 301;1E4D 0 F5 301;\
    1E4E 0 D5 308;1E4F 0 F5 308;1E50 0 14C 300;1E51 0 14D 300;1E52 0 14C 301;1E53 0 14D 301;1E54 0 50 301;\
    1E55 0 70 301;1E56 0 50 307;1E57 0 70 307;1E58 0 52 307;1E59 0 72 307;1E5A 0 52 323;1E5B 0 72 323;\
    1E5C 0 1E5A 304;1E5D 0 1E5B 304;1E5E 0 52 331;1E5F 0 72 331;1E60 0 53 307;1E61 0 73 307;1E62 0 53 323;\
    1E63 0 73 323;1E64 0 15A 307;1E65 0 15B 307;1E66 0 160 307;1E67 0 161 307;1E68 0 1E62 307;1E69 0 1E63 307;\
    1E6A 0 54 307;1E6B 0 74 307;1E6C 0 54 323;1E6D 0 74 323;1E6E 0 54 331;1E6F 0 74 331;1E70 0 54 32D;1E71 0 74 32D;\
    1E72 0 55 324;1E73 0 75 324;1E74 0 55 330;1E75 0 75 330;1E76 0 55 32D;1E77 0 75 32D;1E78 0 168 301;\
    1E79 0 169 301;1E7A 0 16A 308;1E7B 0 16B 308;1E7C 0 56 303;1E7D 0 76 303;1E7E 0 56 323;1E7F 0 76 323;\
    1E80 0 57 300;1E81 0 77 300;1E82 0 57 301;1E83 0 77 301;1E84 0 57 308;1E85 0 77 308;1E86 0 57 307;1E87 0 77 307;\
    1E88 0 57 323;1E89 0 77 323;1E8A 0 58 307;1E8B 0 78 307;1E8C 0 58 308;1E8D 0 78 308;1E8E 0 59 307;1E8F 0 79 307;\
    1E90 0 5A 302;1E91 0 7A 302;1E92 0 5A 323;1E93 0 7A 323;1E94 0 5A 331;1E95 0 7A 331;1E96 0 68 331;1E97 0 74 308;\
    1E98 0 77 30A;1E99 0 79 30A;1E9A 2 61 2BE;1E9B 0 17F 307;1EA0 0 41 323;1EA1 0 61 323;1EA2 0 41 309;\
    1EA3 0 61 309;1EA4 0 C2 301;1EA5 0 E2 301;1EA6 0 C2 300;1EA7 0 E2 300;1EA8 0 C2 309;1EA9 0 E2 309;1EAA 0 C2 303;\
    1EAB 0 E2 303;1EAC 0 1EA0 302;1EAD 0 1EA1 302;1EAE 0 102 301;1EAF 0 103 301;1EB0 0 102 300;1EB1 0 103 300;\
    1EB2 0 102 309;1EB3 0 103 309;1EB4 0 102 303;1EB5 0 103 303;1EB6 0 1EA0 306;1EB7 0 1EA1 306;1EB8 0 45 323;\
    1EB9 0 65 323;1EBA 0 45 309;1EBB 0 65 309;1EBC 0 45 303;1EBD 0 65 303;1EBE 0 CA 301;1EBF 0 EA 301;1EC0 0 CA 300;\
    1EC1 0 EA 300;1EC2 0 CA 309;1EC3 0 EA 309;1EC4 0 CA 303;1EC5 0 EA 303;1EC6 0 1EB8 302;1EC7 0 1EB9 302;\
    1EC8 0 49 309;1EC9 0 69 309;1ECA 0 49 323;1ECB 0 69 323;1ECC 0 4F 323;1ECD 0 6F 323;1ECE 0 4F 309;1ECF 0 6F 309;\
    1ED0 0 D4 301;1ED1 0 F4 301;1ED2 0 D4 300;1ED3 0 F4 300;1ED4 0 D4 309;1ED5 0 F4 309;1ED6 0 D4 303;1ED7 0 F4 303;\
    1ED8 0 1ECC 302;1ED9 0 1ECD 302;1EDA 0 1A0 301;1EDB 0 1A1 301;1EDC 0 1A0 300;1EDD 0 1A1 300;1EDE 0 1A0 309;\
    1EDF 0 1A1 309;1EE0 0 1A0 303;1EE1 0 1A1 303;1EE2 0 1A0 323;1EE3 0 1A1 323;1EE4 0 55 323;1EE5 0 75 323;\
    1EE6 0 55 309;1EE7 0 75 309;1EE8 0 1AF 301;1EE9 0 1B0 301;1EEA 0 1AF 300;1EEB 0 1B0 300;1EEC 0 1AF 309;\
    1EED 0 1B0 309;1EEE 0 1AF 303;1EEF 0 1B0 303;1EF0 0 1AF 323;1EF1 0 1B0 323;1EF2 0 59 300;1EF3 0 79 300;\
    1EF4 0 59 323;1EF5 0 79 323;1EF6 0 59 309;1EF7 0 79 309;1EF8 0 59 303;1EF9 0 79 303;1F00 0 3B1 313;\
    1F01 0 3B1 314;1F02 0 1F00 300;1F03 0 1F01 300;1F04 0 1F00 301;1F05 0 1F01 301;1F06 0 1F00 342;1F07 0 1F01 342;\
    1F08 0 391 313;1F09 0 391 314;1F0A 0 1F08 300;1F0B 0 1F09 300;1F0C 0 1F08 301;1F0D 0 1F09 301;1F0E 0 1F08 342;\
    1F0F 0 1F09 342;1F10 0 3B5 313;1F11 0 3B5 314;1F12 0 1F10 300;1F13 0 1F11 300;1F14 0 1F10 301;1F15 0 1F11 301;\
    1F18 0 395 313;1F19 0 395 314;1F1A 0 1F18 300;1F1B 0 1F19 300;1F1C 0 1F18 301;1F1D 0 1F19 301;1F20 0 3B7 313;\
    1F21 0 3B7 314;1F22 0 1F20 300;1F23 0 1F21 300;1F24 0 1F20 301;1F25 0 1F21 301;1F26 0 1F20 342;1F27 0 1F21 342;\
    1F28 0 397 313;1F29 0 397 314;1F2A 0 1F28 300;1F2B 0 1F29 300;1F2C 0 1F28 301;1F2D 0 1F29 301;1F2E 0 1F28 342;\
    1F2F 0 1F29 342;1F30 0 3B9 313;1F31 0 3B9 314;1F32 0 1F30 300;1F33 0 1F31 300;1F34 0 1F30 301;1F35 0 1F31 301;\
    1F36 0 1F30 342;1F37 0 1F31 342;1F38 0 399 313;1F39 0 399 314;1F3A 0 1F38 300;1F3B 0 1F39 300;1F3C 0 1F38 301;\
    1F3D 0 1F39 301;1F3E 0 1F38 342;1F3F 0 1F39 342;1F40 0 3BF 313;1F41 0 3BF 314;1F42 0 1F40 300;1F43 0 1F41 300;\
    1F44 0 1F40 301;1F45 0 1F41 301;1F48 0 39F 313;1F49 0 39F 314;1F4A 0 1F48 300;1F4B 0 1F49 300;1F4C 0 1F48 301;\
    1F4D 0 1F49 301;1F50 0 3C5 313;1F51 0 3C5 314;1F52 0 1F50 300;1F53 0 1F51 300;1F54 0 1F50 301;1F55 0 1F51 301;\
    1F56 0 1F50 342;1F57 0 1F51 342;1F59 0 3A5 314;1F5B 0 1F59 300;1F5D 0 1F59 301;1F5F 0 1F59 342;1F60 0 3C9 313;\
    1F61 0 3C9 314;1F62 0 1F60 300;1F63 0 1F61 300;1F64 0 1F60 301;1F65 0 1F61 301;1F66 0 1F60 342;1F67 0 1F61 342;\
    1F68 0 3A9 313;1F69 0 3A9 314;1F6A 0 1F68 300;1F6B 0 1F69 300;1F6C 0 1F68 301;1F6D 0 1F69 301;1F6E 0 1F68 342;\
    1F6F 0 1F69 342;1F70 0 3B1 300;1F71 1 3AC;1F72 0 3B5 300;1F73 1 3AD;1F74 0 3B7 300;1F75 1 3AE;1F76 0 3B9 300;\
    1F77 1 3AF;1F78 0 3BF 300;1F79 1 3CC;1F7A 0 3C5 300;1F7B 1 3CD;1F7C 0 3C9 300;1F7D 1 3CE;1F80 0 1F00 345;\
    1F81 0 1F01 345;1F82 0 1F02 345;1F83 0 1F03 345;1F84 0 1F04 345;1F85 0 1F05 345;1F86 0 1F06 345;1F87 0 1F07 345;\
    1F88 0 1F08 345;1F89 0 1F09 345;1F8A 0 1F0A 345;1F8B 0 1F0B 345;1F8C 0 1F0C 345;1F8D 0 1F0D 345;1F8E 0 1F0E 345;\
    1F8F 0 1F0F 345;1F90 0 1F20 345;1F91 0 1F21 345;1F92 0 1F22 345;1F93 0 1F23 345;1F94 0 1F24 345;1F95 0 1F25 345;\
    1F96 0 1F26 345;1F97 0 1F27 345;1F98 0 1F28 345;1F99 0 1F29 345;1F9A 0 1F2A 345;1F9B 0 1F2B 345;1F9C 0 1F2C 345;\
    1F9D 0 1F2D 345;1F9E 0 1F2E 345;1F9F 0 1F2F 345;1FA0 0 1F60 345;1FA1 0 1F61 345;1FA2 0 1F62 345;1FA3 0 1F63 345;\
    1FA4 0 1F64 345;1FA5 0 1F65 345;1FA6 0 1F66 345;1FA7 0 1F67 345;1FA8 0 1F68 345;1FA9 0 1F69 345;1FAA 0 1F6A 345;\
    1FAB 0 1F6B 345;1FAC 0 1F6C 345;1FAD 0 1F6D 345;1FAE 0 1F6E 345;1FAF 0 1F6F 345;1FB0 0 3B1 306;1FB1 0 3B1 304;\
    1FB2 0 1F70 345;1FB3 0 3B1 345;1FB4 0 3AC 345;1FB6 0 3B1 342;1FB7 0 1FB6 345;1FB8 0 391 306;1FB9 0 391 304;\
    1FBA 0 391 300;1FBB 1 386;1FBC 0 391 345;1FBD 2 20 313;1FBE 1 3B9;1FBF 2 20 313;1FC0 2 20 342;1FC1 0 A8 342;\
    1FC2 0 1F74 345;1FC3 0 3B7 345;1FC4 0 3AE 345;1FC6 0 3B7 342;1FC7 0 1FC6 345;1FC8 0 395 300;1FC9 1 388;\
    1FCA 0 397 300;1FCB 1 389;1FCC 0 397 345;1FCD 0 1FBF 300;1FCE 0 1FBF 301;1FCF 0 1FBF 342;1FD0 0 3B9 306;\
    1FD1 0 3B9 304;1FD2 0 3CA 300;1FD3 1 390;1FD6 0 3B9 342;1FD7 0 3CA 342;1FD8 0 399 306;1FD9 0 399 304;\
    1FDA 0 399 300;1FDB 1 38A;1FDD 0 1FFE 300;1FDE 0 1FFE 301;1FDF 0 1FFE 342;1FE0 0 3C5 306;1FE1 0 3C5 304;\
    1FE2 0 3CB 300;1FE3 1 3B0;1FE4 0 3C1 313;1FE5 0 3C1 314;1FE6 0 3C5 342;1FE7 0 3CB 342;1FE8 0 3A5 306;\
    1FE9 0 3A5 304;1FEA 0 3A5 300;1FEB 1 38E;1FEC 0 3A1 314;1FED 0 A8 300;1FEE 1 385;1FEF 1 60;1FF2 0 1F7C 345;\
    1FF3 0 3C9 345;1FF4 0 3CE 345;1FF6 0 3C9 342;1FF7 0 1FF6 345;1FF8 0 39F 300;1FF9 1 38C;1FFA 0 3A9 300;\
    1FFB 1 38F;1FFC 0 3A9 345;1FFD 1 B4;1FFE 2 20 314;2000 1 2002;2001 1 2003;2002 2 20;2003 2 20;2004 2 20;\
    2005 2 20;2006 2 20;2007 2 20;2008 2 20;2009 2 20;200A 2 20;2011 2 2010;2017 2 20 333;2024 2 2E;2025 2 2E 2E;\
    2026 2 2E 2E 2E;202F 2 20;2033 2 2032 2032;2034 2 2032 2032 2032;2036 2 2035 2035;2037 2 2035 2035 2035;\
    203C 2 21 21;203E 2 20 305;2047 2 3F 3F;2048 2 3F 21;2049 2 21 3F;2057 2 2032 2032 2032 2032;205F 2 20;\
    2070 2 30;2071 2 69;2074 2 34;2075 2 35;2076 2 36;2077 2 37;2078 2 38;2079 2 39;207A 2 2B;207B 2 2212;207C 2 3D;\
    207D 2 28;207E 2 29;207F 2 6E;2080 2 30;2081 2 31;2082 2 32;2083 2 33;2084 2 34;2085 2 35;2086 2 36;2087 2 37;\
    2088 2 38;2089 2 39;208A 2 2B;208B 2 2212;208C 2 3D;208D 2 28;208E 2 29;2090 2 61;2091 2 65;2092 2 6F;2093 2 78;\
    2094 2 259;2095 2 68;2096 2 6B;2097 2 6C;2098 2 6D;2099 2 6E;209A 2 70;209B 2 73;209C 2 74;20A8 2 52 73;\
    2100 2 61 2F 63;2101 2 61 2F 73;2102 2 43;2103 2 B0 43;2105 2 63 2F 6F;2106 2 63 2F 75;2107 2 190;2109 2 B0 46;\
    210A 2 67;210B 2 48;210C 2 48;210D 2 48;210E 2 68;210F 2 127;2110 2 49;2111 2 49;2112 2 4C;2113 2 6C;2115 2 4E;\
    2116 2 4E 6F;2119 2 50;211A 2 51;211B 2 52;211C 2 52;211D 2 52;2120 2 53 4D;2121 2 54 45 4C;2122 2 54 4D;\
    2124 2 5A;2126 1 3A9;2128 2 5A;212A 1 4B;212B 1 C5;212C 2 42;212D 2 43;212F 2 65;2130 2 45;2131 2 46;2133 2 4D;\
    2134 2 6F;2135 2 5D0;2136 2 5D1;2137 2 5D2;2138 2 5D3;2139 2 69;213B 2 46 41 58;213C 2 3C0;213D 2 3B3;\
    213E 2 393;213F 2 3A0;2140 2 2211;2145 2 44;2146 2 64;2147 2 65;2148 2 69;2149 2 6A;2150 2 31 2044 37;\
    2151 2 31 2044 39;2152 2 31 2044 31 30;2153 2 31 2044 33;2154 2 32 2044 33;2155 2 31 2044 35;2156 2 32 2044 35;\
    2157 2 33 2044 35;2158 2 34 2044 35;2159 2 31 2044 36;215A 2 35 2044 36;215B 2 31 2044 38;215C 2 33 2044 38;\
    215D 2 35 2044 38;215E 2 37 2044 38;215F 2 31 2044;2160 2 49;2161 2 49 49;2162 2 49 49 49;2163 2 49 56;\
    2164 2 56;2165 2 56 49;2166 2 56 49 49;2167 2 56 49 49 49;2168 2 49 58;2169 2 58;216A 2 58 49;216B 2 58 49 49;\
    216C 2 4C;216D 2 43;216E 2 44;216F 2 4D;2170 2 69;2171 2 69 69;2172 2 69 69 69;2173 2 69 76;2174 2 76;\
    2175 2 76 69;2176 2 76 69 69;2177 2 76 69 69 69;2178 2 69 78;2179 2 78;217A 2 78 69;217B 2 78 69 69;217C 2 6C;\
    217D 2 63;217E 2 64;217F 2 6D;2189 2 30 2044 33;219A 0 2190 338;219B 0 2192 338;21AE 0 2194 338;21CD 0 21D0 338;\
    21CE 0 21D4 338;21CF 0 21D2 338;2204 0 2203 338;2209 0 2208 338;220C 0 220B 338;2224 0 2223 338;2226 0 2225 338;\
    222C 2 222B 222B;222D 2 222B 222B 222B;222F 2 222E 222E;2230 2 222E 222E 222E;2241 0 223C 338;2244 0 2243 338;\
    2247 0 2245 338;2249 0 2248 338;2260 0 3D 338;2262 0 2261 338;226D 0 224D 338;226E 0 3C 338;226F 0 3E 338;\
    2270 0 2264 338;2271 0 2265 338;2274 0 2272 338;2275 0 2273 338;2278 0 2276 338;2279 0 2277 338;2280 0 227A 338;\
    2281 0 227B 338;2284 0 2282 338;2285 0 2283 338;2288 0 2286 338;2289 0 2287 338;22AC 0 22A2 338;22AD 0 22A8 338;\
    22AE 0 22A9 338;22AF 0 22AB 338;22E0 0 227C 338;22E1 0 227D 338;22E2 0 2291 338;22E3 0 2292 338;22EA 0 22B2 338;\
    22EB 0 22B3 338;22EC 0 22B4 338;22ED 0 22B5 338;2329 1 3008;232A 1 3009;2460 2 31;2461 2 32;2462 2 33;2463 2 34;\
    2464 2 35;2465 2 36;2466 2 37;2467 2 38;2468 2 39;2469 2 31 30;246A 2 31 31;246B 2 31 32;246C 2 31 33;\
    246D 2 31 34;246E 2 31 35;246F 2 31 36;2470 2 31 37;2471 2 31 38;2472 2 31 39;2473 2 32 30;2474 2 28 31 29;\
    2475 2 28 32 29;2476 2 28 33 29;2477 2 28 34 29;2478 2 28 35 29;2479 2 28 36 29;247A 2 28 37 29;247B 2 28 38 29;\
    247C 2 28 39 29;247D 2 28 31 30 29;247E 2 28 31 31 29;247F 2 28 31 32 29;2480 2 28 31 33 29;2481 2 28 31 34 29;\
    2482 2 28 31 35 29;2483 2 28 31 36 29;2484 2 28 31 37 29;2485 2 28 31 38 29;2486 2 28 31 39 29;\
    2487 2 28 32 30 29;2488 2 31 2E;2489 2 32 2E;248A 2 33 2E;248B 2 34 2E;248C 2 35 2E;248D 2 36 2E;248E 2 37 2E;\
    248F 2 38 2E;2490 2 39 2E;2491 2 31 30 2E;2492 2 31 31 2E;2493 2 31 32 2E;2494 2 31 33 2E;2495 2 31 34 2E;\
    2496 2 31 35 2E;2497 2 31 36 2E;2498 2 31 37 2E;2499 2 31 38 2E;249A 2 31 39 2E;249B 2 32 30 2E;249C 2 28 61 29;\
    249D 2 28 62 29;249E 2 28 63 29;249F 2 28 64 29;24A0 2 28 65 29;24A1 2 28 66 29;24A2 2 28 67 29;24A3 2 28 68 29;\
    24A4 2 28 69 29;24A5 2 28 6A 29;24A6 2 28 6B 29;24A7 2 28 6C 29;24A8 2 28 6D 29;24A9 2 28 6E 29;24AA 2 28 6F 29;\
    24AB 2 28 70 29;24AC 2 28 71 29;24AD 2 28 72 29;24AE 2 28 73 29;24AF 2 28 74 29;24B0 2 28 75 29;24B1 2 28 76 29;\
    24B2 2 28 77 29;24B3 2 28 78 29;24B4 2 28 79 29;24B5 2 28 7A 29;24B6 2 41;24B7 2 42;24B8 2 43;24B9 2 44;\
    24BA 2 45;24BB 2 46;24BC 2 47;24BD 2 48;24BE 2 49;24BF 2 4A;24C0 2 4B;24C1 2 4C;24C2 2 4D;24C3 2 4E;24C4 2 4F;\
    24C5 2 50;24C6 2 51;24C7 2 52;24C8 2 53;24C9 2 54;24CA 2 55;24CB 2 56;24CC 2 57;24CD 2 58;24CE 2 59;24CF 2 5A;\
    24D0 2 61;24D1 2 62;24D2 2 63;24D3 2 64;24D4 2 65;24D5 2 66;24D6 2 67;24D7 2 68;24D8 2 69;24D9 2 6A;24DA 2 6B;\
    24DB 2 6C;24DC 2 6D;24DD 2 6E;24DE 2 6F;24DF 2 70;24E0 2 71;24E1 2 72;24E2 2 73;24E3 2 74;24E4 2 75;24E5 2 76;\
    24E6 2 77;24E7 2 78;24E8 2 79;24E9 2 7A;24EA 2 30;2A0C 2 222B 222B 222B 222B;2A74 2 3A 3A 3D;2A75 2 3D 3D;\
    2A76 2 3D 3D 3D;2ADC 1 2ADD 338;2C7C 2 6A;2C7D 2 56;2D6F 2 2D61;2E9F 2 6BCD;2EF3 2 9F9F;2F00 2 4E00;2F01 2 4E28;\
    2F02 2 4E36;2F03 2 4E3F;2F04 2 4E59;2F05 2 4E85;2F06 2 4E8C;2F07 2 4EA0;2F08 2 4EBA;2F09 2 513F;2F0A 2 5165;\
    2F0B 2 516B;2F0C 2 5182;2F0D 2 5196;2F0E 2 51AB;2F0F 2 51E0;2F10 2 51F5;2F11 2 5200;2F12 2 529B;2F13 2 52F9;\
    2F14 2 5315;2F15 2 531A;2F16 2 5338;2F17 2 5341;2F18 2 535C;2F19 2 5369;2F1A 2 5382;2F1B 2 53B6;2F1C 2 53C8;\
    2F1D 2 53E3;2F1E 2 56D7;2F1F 2 571F;2F20 2 58EB;2F21 2 5902;2F22 2 590A;2F23 2 5915;2F24 2 5927;2F25 2 5973;\
    2F26 2 5B50;2F27 2 5B80;2F28 2 5BF8;2F29 2 5C0F;2F2A 2 5C22;2F2B 2 5C38;2F2C 2 5C6E;2F2D 2 5C71;2F2E 2 5DDB;\
    2F2F 2 5DE5;2F30 2 5DF1;2F31 2 5DFE;2F32 2 5E72;2F33 2 5E7A;2F34 2 5E7F;2F35 2 5EF4;2F36 2 5EFE;2F37 2 5F0B;\
    2F38 2 5F13;2F39 2 5F50;2F3A 2 5F61;2F3B 2 5F73;2F3C 2 5FC3;2F3D 2 6208;2F3E 2 6236;2F3F 2 624B;2F40 2 652F;\
    2F41 2 6534;2F42 2 6587;2F43 2 6597;2F44 2 65A4;2F45 2 65B9;2F46 2 65E0;2F47 2 65E5;2F48 2 66F0;2F49 2 6708;\
    2F4A 2 6728;2F4B 2 6B20;2F4C 2 6B62;2F4D 2 6B79;2F4E 2 6BB3;2F4F 2 6BCB;2F50 2 6BD4;2F51 2 6BDB;2F52 2 6C0F;\
    2F53 2 6C14;2F54 2 6C34;2F55 2 706B;2F56 2 722A;2F57 2 7236;2F58 2 723B;2F59 2 723F;2F5A 2 7247;2F5B 2 7259;\
    2F5C 2 725B;2F5D 2 72AC;2F5E 2 7384;2F5F 2 7389;2F60 2 74DC;2F61 2 74E6;2F62 2 7518;2F63 2 751F;2F64 2 7528;\
    2F65 2 7530;2F66 2 758B;2F67 2 7592;2F68 2 7676;2F69 2 767D;2F6A 2 76AE;2F6B 2 76BF;2F6C 2 76EE;2F6D 2 77DB;\
    2F6E 2 77E2;2F6F 2 77F3;2F70 2 793A;2F71 2 79B8;2F72 2 79BE;2F73 2 7A74;2F74 2 7ACB;2F75 2 7AF9;2F76 2 7C73;\
    2F77 2 7CF8;2F78 2 7F36;2F79 2 7F51;2F7A 2 7F8A;2F7B 2 7FBD;2F7C 2 8001;2F7D 2 800C;2F7E 2 8012;2F7F 2 8033;\
    2F80 2 807F;2F81 2 8089;2F82 2 81E3;2F83 2 81EA;2F84 2 81F3;2F85 2 81FC;2F86 2 820C;2F87 2 821B;2F88 2 821F;\
    2F89 2 826E;2F8A 2 8272;2F8B 2 8278;2F8C 2 864D;2F8D 2 866B;2F8E 2 8840;2F8F 2 884C;2F90 2 8863;2F91 2 897E;\
    2F92 2 898B;2F93 2 89D2;2F94 2 8A00;2F95 2 8C37;2F96 2 8C46;2F97 2 8C55;2F98 2 8C78;2F99 2 8C9D;2F9A 2 8D64;\
    2F9B 2 8D70;2F9C 2 8DB3;2F9D 2 8EAB;2F9E 2 8ECA;2F9F 2 8F9B;2FA0 2 8FB0;2FA1 2 8FB5;2FA2 2 9091;2FA3 2 9149;\
    2FA4 2 91C6;2FA5 2 91CC;2FA6 2 91D1;2FA7 2 9577;2FA8 2 9580;2FA9 2 961C;2FAA 2 96B6;2FAB 2 96B9;2FAC 2 96E8;\
    2FAD 2 9751;2FAE 2 975E;2FAF 2 9762;2FB0 2 9769;2FB1 2 97CB;2FB2 2 97ED;2FB3 2 97F3;2FB4 2 9801;2FB5 2 98A8;\
    2FB6 2 98DB;2FB7 2 98DF;2FB8 2 9996;2FB9 2 9999;2FBA 2 99AC;2FBB 2 9AA8;2FBC 2 9AD8;2FBD 2 9ADF;2FBE 2 9B25;\
    2FBF 2 9B2F;2FC0 2 9B32;2FC1 2 9B3C;2FC2 2 9B5A;2FC3 2 9CE5;2FC4 2 9E75;2FC5 2 9E7F;2FC6 2 9EA5;2FC7 2 9EBB;\
    2FC8 2 9EC3;2FC9 2 9ECD;2FCA 2 9ED1;2FCB 2 9EF9;2FCC 2 9EFD;2FCD 2 9F0E;2FCE 2 9F13;2FCF 2 9F20;2FD0 2 9F3B;\
    2FD1 2 9F4A;2FD2 2 9F52;2FD3 2 9F8D;2FD4 2 9F9C;2FD5 2 9FA0;3000 2 20;3036 2 3012;3038 2 5341;3039 2 5344;\
    303A 2 5345;304C 0 304B 3099;304E 0 304D 3099;3050 0 304F 3099;3052 0 3051 3099;3054 0 3053 3099;\
    3056 0 3055 3099;3058 0 3057 3099;305A 0 3059 3099;305C 0 305B 3099;305E 0 305D 3099;3060 0 305F 3099;\
    3062 0 3061 3099;3065 0 3064 3099;3067 0 3066 3099;3069 0 3068 3099;3070 0 306F 3099;3071 0 306F 309A;\
    3073 0 3072 3099;3074 0 3072 309A;3076 0 3075 3099;3077 0 3075 309A;3079 0 3078 3099;307A 0 3078 309A;\
    307C 0 307B 3099;307D 0 307B 309A;3094 0 3046 3099;309B 2 20 3099;309C 2 20 309A;309E 0 309D 3099;\
    309F 2 3088 308A;30AC 0 30AB 3099;30AE 0 30AD 3099;30B0 0 30AF 3099;30B2 0 30B1 3099;30B4 0 30B3 3099;\
    30B6 0 30B5 3099;30B8 0 30B7 3099;30BA 0 30B9 3099;30BC 0 30BB 3099;30BE 0 30BD 3099;30C0 0 30BF 3099;\
    30C2 0 30C1 3099;30C5 0 30C4 3099;30C7 0 30C6 3099;30C9 0 30C8 3099;30D0 0 30CF 3099;30D1 0 30CF 309A;\
    30D3 0 30D2 3099;30D4 0 30D2 309A;30D6 0 30D5 3099;30D7 0 30D5 309A;30D9 0 30D8 3099;30DA 0 30D8 309A;\
    30DC 0 30DB 3099;30DD 0 30DB 309A;30F4 0 30A6 3099;30F7 0 30EF 3099;30F8 0 30F0 3099;30F9 0 30F1 3099;\
    30FA 0 30F2 3099;30FE 0 30FD 3099;30FF 2 30B3 30C8;3131 2 1100;3132 2 1101;3133 2 11AA;3134 2 1102;3135 2 11AC;\
    3136 2 11AD;3137 2 1103;3138 2 1104;3139 2 1105;313A 2 11B0;313B 2 11B1;313C 2 11B2;313D 2 11B3;313E 2 11B4;\
    313F 2 11B5;3140 2 111A;3141 2 1106;3142 2 1107;3143 2 1108;3144 2 1121;3145 2 1109;3146 2 110A;3147 2 110B;\
    3148 2 110C;3149 2 110D;314A 2 110E;314B 2 110F;314C 2 1110;314D 2 1111;314E 2 1112;314F 2 1161;3150 2 1162;\
    3151 2 1163;3152 2 1164;3153 2 1165;3154 2 1166;3155 2 1167;3156 2 1168;3157 2 1169;3158 2 116A;3159 2 116B;\
    315A 2 116C;315B 2 116D;315C 2 116E;315D 2 116F;315E 2 1170;315F 2 1171;3160 2 1172;3161 2 1173;3162 2 1174;\
    3163 2 1175;3164 2 1160;3165 2 1114;3166 2 1115;3167 2 11C7;3168 2 11C8;3169 2 11CC;316A 2 11CE;316B 2 11D3;\
    316C 2 11D7;316D 2 11D9;316E 2 111C;316F 2 11DD;3170 2 11DF;3171 2 111D;3172 2 111E;3173 2 1120;3174 2 1122;\
    3175 2 1123;3176 2 1127;3177 2 1129;3178 2 112B;3179 2 112C;317A 2 112D;317B 2 112E;317C 2 112F;317D 2 1132;\
    317E 2 1136;317F 2 1140;3180 2 1147;3181 2 114C;3182 2 11F1;3183 2 11F2;3184 2 1157;3185 2 1158;3186 2 1159;\
    3187 2 1184;3188 2 1185;3189 2 1188;318A 2 1191;318B 2 1192;318C 2 1194;318D 2 119E;318E 2 11A1;3192 2 4E00;\
    3193 2 4E8C;3194 2 4E09;3195 2 56DB;3196 2 4E0A;3197 2 4E2D;3198 2 4E0B;3199 2 7532;319A 2 4E59;319B 2 4E19;\
    319C 2 4E01;319D 2 5929;319E 2 5730;319F 2 4EBA;3200 2 28 1100 29;3201 2 28 1102 29;3202 2 28 1103 29;\
    3203 2 28 1105 29;3204 2 28 1106 29;3205 2 28 1107 29;3206 2 28 1109 29;3207 2 28 110B 29;3208 2 28 110C 29;\
    3209 2 28 110E 29;320A 2 28 110F 29;320B 2 28 1110 29;320C 2 28 1111 29;320D 2 28 1112 29;\
    320E 2 28 1100 1161 29;320F 2 28 1102 1161 29;3210 2 28 1103 1161 29;3211 2 28 1105 1161 29;\
    3212 2 28 1106 1161 29;3213 2 28 1107 1161 29;3214 2 28 1109 1161 29;3215 2 28 110B 1161 29;\
    3216 2 28 110C 1161 29;3217 2 28 110E 1161 29;3218 2 28 110F 1161 29;3219 2 28 1110 1161 29;\
    321A 2 28 1111 1161 29;321B 2 28 1112 1161 29;321C 2 28 110C 116E 29;321D 2 28 110B 1169 110C 1165 11AB 29;\
    321E 2 28 110B 1169 1112 116E 29;3220 2 28 4E00 29;3221 2 28 4E8C 29;3222 2 28 4E09 29;3223 2 28 56DB 29;\
    3224 2 28 4E94 29;3225 2 28 516D 29;3226 2 28 4E03 29;3227 2 28 516B 29;3228 2 28 4E5D 29;3229 2 28 5341 29;\
    322A 2 28 6708 29;322B 2 28 706B 29;322C 2 28 6C34 29;322D 2 28 6728 29;322E 2 28 91D1 29;322F 2 28 571F 29;\
    3230 2 28 65E5 29;3231 2 28 682A 29;3232 2 28 6709 29;3233 2 28 793E 29;3234 2 28 540D 29;3235 2 28 7279 29;\
    3236 2 28 8CA1 29;3237 2 28 795D 29;3238 2 28 52B4 29;3239 2 28 4EE3 29;323A 2 28 547C 29;323B 2 28 5B66 29;\
    323C 2 28 76E3 29;323D 2 28 4F01 29;323E 2 28 8CC7 29;323F 2 28 5354 29;3240 2 28 796D 29;3241 2 28 4F11 29;\
    3242 2 28 81EA 29;3243 2 28 81F3 29;3244 2 554F;3245 2 5E7C;3246 2 6587;3247 2 7B8F;3250 2 50 54 45;\
    3251 2 32 31;3252 2 32 32;3253 2 32 33;3254 2 32 34;3255 2 32 35;3256 2 32 36;3257 2 32 37;3258 2 32 38;\
    3259 2 32 39;325A 2 33 30;325B 2 33 31;325C 2 33 32;325D 2 33 33;325E 2 33 34;325F 2 33 35;3260 2 1100;\
    3261 2 1102;3262 2 1103;3263 2 1105;3264 2 1106;3265 2 1107;3266 2 1109;3267 2 110B;3268 2 110C;3269 2 110E;\
    326A 2 110F;326B 2 1110;326C 2 1111;326D 2 1112;326E 2 1100 1161;326F 2 1102 1161;3270 2 1103 1161;\
    3271 2 1105 1161;3272 2 1106 1161;3273 2 1107 1161;3274 2 1109 1161;3275 2 110B 1161;3276 2 110C 1161;\
    3277 2 110E 1161;3278 2 110F 1161;3279 2 1110 1161;327A 2 1111 1161;327B 2 1112 1161;\
    327C 2 110E 1161 11B7 1100 1169;327D 2 110C 116E 110B 1174;327E 2 110B 116E;3280 2 4E00;3281 2 4E8C;3282 2 4E09;\
    3283 2 56DB;3284 2 4E94;3285 2 516D;3286 2 4E03;3287 2 516B;3288 2 4E5D;3289 2 5341;328A 2 6708;328B 2 706B;\
    328C 2 6C34;328D 2 6728;328E 2 91D1;328F 2 571F;3290 2 65E5;3291 2 682A;3292 2 6709;3293 2 793E;3294 2 540D;\
    3295 2 7279;3296 2 8CA1;3297 2 795D;3298 2 52B4;3299 2 79D8;329A 2 7537;329B 2 5973;329C 2 9069;329D 2 512A;\
    329E 2 5370;329F 2 6CE8;32A0 2 9805;32A1 2 4F11;32A2 2 5199;32A3 2 6B63;32A4 2 4E0A;32A5 2 4E2D;32A6 2 4E0B;\
    32A7 2 5DE6;32A8 2 53F3;32A9 2 533B;32AA 2 5B97;32AB 2 5B66;32AC 2 76E3;32AD 2 4F01;32AE 2 8CC7;32AF 2 5354;\
    32B0 2 591C;32B1 2 33 36;32B2 2 33 37;32B3 2 33 38;32B4 2 33 39;32B5 2 34 30;32B6 2 34 31;32B7 2 34 32;\
    32B8 2 34 33;32B9 2 34 34;32BA 2 34 35;32BB 2 34 36;32BC 2 34 37;32BD 2 34 38;32BE 2 34 39;32BF 2 35 30;\
    32C0 2 31 6708;32C1 2 32 6708;32C2 2 33 6708;32C3 2 34 6708;32C4 2 35 6708;32C5 2 36 6708;32C6 2 37 6708;\
    32C7 2 38 6708;32C8 2 39 6708;32C9 2 31 30 6708;32CA 2 31 31 6708;32CB 2 31 32 6708;32CC 2 48 67;\
    32CD 2 65 72 67;32CE 2 65 56;32CF 2 4C 54 44;32D0 2 30A2;32D1 2 30A4;32D2 2 30A6;32D3 2 30A8;32D4 2 30AA;\
    32D5 2 30AB;32D6 2 30AD;32D7 2 30AF;32D8 2 30B1;32D9 2 30B3;32DA 2 30B5;32DB 2 30B7;32DC 2 30B9;32DD 2 30BB;\
    32DE 2 30BD;32DF 2 30BF;32E0 2 30C1;32E1 2 30C4;32E2 2 30C6;32E3 2 30C8;32E4 2 30CA;32E5 2 30CB;32E6 2 30CC;\
    32E7 2 30CD;32E8 2 30CE;32E9 2 30CF;32EA 2 30D2;32EB 2 30D5;32EC 2 30D8;32ED 2 30DB;32EE 2 30DE;32EF 2 30DF;\
    32F0 2 30E0;32F1 2 30E1;32F2 2 30E2;32F3 2 30E4;32F4 2 30E6;32F5 2 30E8;32F6 2 30E9;32F7 2 30EA;32F8 2 30EB;\
    32F9 2 30EC;32FA 2 30ED;32FB 2 30EF;32FC 2 30F0;32FD 2 30F1;32FE 2 30F2;32FF 2 4EE4 548C;\
    3300 2 30A2 30D1 30FC 30C8;3301 2 30A2 30EB 30D5 30A1;3302 2 30A2 30F3 30DA 30A2;3303 2 30A2 30FC 30EB;\
    3304 2 30A4 30CB 30F3 30B0;3305 2 30A4 30F3 30C1;3306 2 30A6 30A9 30F3;3307 2 30A8 30B9 30AF 30FC 30C9;\
    3308 2 30A8 30FC 30AB 30FC;3309 2 30AA 30F3 30B9;330A 2 30AA 30FC 30E0;330B 2 30AB 30A4 30EA;\
    330C 2 30AB 30E9 30C3 30C8;330D 2 30AB 30ED 30EA 30FC;330E 2 30AC 30ED 30F3;330F 2 30AC 30F3 30DE;\
    3310 2 30AE 30AC;3311 2 30AE 30CB 30FC;3312 2 30AD 30E5 30EA 30FC;3313 2 30AE 30EB 30C0 30FC;3314 2 30AD 30ED;\
    3315 2 30AD 30ED 30B0 30E9 30E0;3316 2 30AD 30ED 30E1 30FC 30C8 30EB;3317 2 30AD 30ED 30EF 30C3 30C8;\
    3318 2 30B0 30E9 30E0;3319 2 30B0 30E9 30E0 30C8 30F3;331A 2 30AF 30EB 30BC 30A4 30ED;\
    331B 2 30AF 30ED 30FC 30CD;331C 2 30B1 30FC 30B9;331D 2 30B3 30EB 30CA;331E 2 30B3 30FC 30DD;\
    331F 2 30B5 30A4 30AF 30EB;3320 2 30B5 30F3 30C1 30FC 30E0;3321 2 30B7 30EA 30F3 30B0;3322 2 30BB 30F3 30C1;\
    3323 2 30BB 30F3 30C8;3324 2 30C0 30FC 30B9;3325 2 30C7 30B7;3326 2 30C9 30EB;3327 2 30C8 30F3;3328 2 30CA 30CE;\
    3329 2 30CE 30C3 30C8;332A 2 30CF 30A4 30C4;332B 2 30D1 30FC 30BB 30F3 30C8;332C 2 30D1 30FC 30C4;\
    332D 2 30D0 30FC 30EC 30EB;332E 2 30D4 30A2 30B9 30C8 30EB;332F 2 30D4 30AF 30EB;3330 2 30D4 30B3;\
    3331 2 30D3 30EB;3332 2 30D5 30A1 30E9 30C3 30C9;3333 2 30D5 30A3 30FC 30C8;3334 2 30D6 30C3 30B7 30A7 30EB;\
    3335 2 30D5 30E9 30F3;3336 2 30D8 30AF 30BF 30FC 30EB;3337 2 30DA 30BD;3338 2 30DA 30CB 30D2;\
    3339 2 30D8 30EB 30C4;333A 2 30DA 30F3 30B9;333B 2 30DA 30FC 30B8;333C 2 30D9 30FC 30BF;\
    333D 2 30DD 30A4 30F3 30C8;333E 2 30DC 30EB 30C8;333F 2 30DB 30F3;3340 2 30DD 30F3 30C9;3341 2 30DB 30FC 30EB;\
    3342 2 30DB 30FC 30F3;3343 2 30DE 30A4 30AF 30ED;3344 2 30DE 30A4 30EB;3345 2 30DE 30C3 30CF;\
    3346 2 30DE 30EB 30AF;3347 2 30DE 30F3 30B7 30E7 30F3;3348 2 30DF 30AF 30ED 30F3;3349 2 30DF 30EA;\
    334A 2 30DF 30EA 30D0 30FC 30EB;334B 2 30E1 30AC;334C 2 30E1 30AC 30C8 30F3;334D 2 30E1 30FC 30C8 30EB;\
    334E 2 30E4 30FC 30C9;334F 2 30E4 30FC 30EB;3350 2 30E6 30A2 30F3;3351 2 30EA 30C3 30C8 30EB;3352 2 30EA 30E9;\
    3353 2 30EB 30D4 30FC;3354 2 30EB 30FC 30D6 30EB;3355 2 30EC 30E0;3356 2 30EC 30F3 30C8 30B2 30F3;\
    3357 2 30EF 30C3 30C8;3358 2 30 70B9;3359 2 31 70B9;335A 2 32 70B9;335B 2 33 70B9;335C 2 34 70B9;335D 2 35 70B9;\
    335E 2 36 70B9;335F 2 37 70B9;3360 2 38 70B9;3361 2 39 70B9;3362 2 31 30 70B9;3363 2 31 31 70B9;\
    3364 2 31 32 70B9;3365 2 31 33 70B9;3366 2 31 34 70B9;3367 2 31 35 70B9;3368 2 31 36 70B9;3369 2 31 37 70B9;\
    336A 2 31 38 70B9;336B 2 31 39 70B9;336C 2 32 30 70B9;336D 2 32 31 70B9;336E 2 32 32 70B9;336F 2 32 33 70B9;\
    3370 2 32 34 70B9;3371 2 68 50 61;3372 2 64 61;3373 2 41 55;3374 2 62 61 72;3375 2 6F 56;3376 2 70 63;\
    3377 2 64 6D;3378 2 64 6D B2;3379 2 64 6D B3;337A 2 49 55;337B 2 5E73 6210;337C 2 662D 548C;337D 2 5927 6B63;\
    337E 2 660E 6CBB;337F 2 682A 5F0F 4F1A 793E;3380 2 70 41;3381 2 6E 41;3382 2 3BC 41;3383 2 6D 41;3384 2 6B 41;\
    3385 2 4B 42;3386 2 4D 42;3387 2 47 42;3388 2 63 61 6C;3389 2 6B 63 61 6C;338A 2 70 46;338B 2 6E 46;\
    338C 2 3BC 46;338D 2 3BC 67;338E 2 6D 67;338F 2 6B 67;3390 2 48 7A;3391 2 6B 48 7A;3392 2 4D 48 7A;\
    3393 2 47 48 7A;3394 2 54 48 7A;3395 2 3BC 2113;3396 2 6D 2113;3397 2 64 2113;3398 2 6B 2113;3399 2 66 6D;\
    339A 2 6E 6D;339B 2 3BC 6D;339C 2 6D 6D;339D 2 63 6D;339E 2 6B 6D;339F 2 6D 6D B2;33A0 2 63 6D B2;33A1 2 6D B2;\
    33A2 2 6B 6D B2;33A3 2 6D 6D B3;33A4 2 63 6D B3;33A5 2 6D B3;33A6 2 6B 6D B3;33A7 2 6D 2215 73;\
    33A8 2 6D 2215 73 B2;33A9 2 50 61;33AA 2 6B 50 61;33AB 2 4D 50 61;33AC 2 47 50 61;33AD 2 72 61 64;\
    33AE 2 72 61 64 2215 73;33AF 2 72 61 64 2215 73 B2;33B0 2 70 73;33B1 2 6E 73;33B2 2 3BC 73;33B3 2 6D 73;\
    33B4 2 70 56;33B5 2 6E 56;33B6 2 3BC 56;33B7 2 6D 56;33B8 2 6B 56;33B9 2 4D 56;33BA 2 70 57;33BB 2 6E 57;\
    33BC 2 3BC 57;33BD 2 6D 57;33BE 2 6B 57;33BF 2 4D 57;33C0 2 6B 3A9;33C1 2 4D 3A9;33C2 2 61 2E 6D 2E;\
    33C3 2 42 71;33C4 2 63 63;33C5 2 63 64;33C6 2 43 2215 6B 67;33C7 2 43 6F 2E;33C8 2 64 42;33C9 2 47 79;\
    33CA 2 68 61;33CB 2 48 50;33CC 2 69 6E;33CD 2 4B 4B;33CE 2 4B 4D;33CF 2 6B 74;33D0 2 6C 6D;33D1 2 6C 6E;\
    33D2 2 6C 6F 67;33D3 2 6C 78;33D4 2 6D 62;33D5 2 6D 69 6C;33D6 2 6D 6F 6C;33D7 2 50 48;33D8 2 70 2E 6D 2E;\
    33D9 2 50 50 4D;33DA 2 50 52;33DB 2 73 72;33DC 2 53 76;33DD 2 57 62;33DE 2 56 2215 6D;33DF 2 41 2215 6D;\
    33E0 2 31 65E5;33E1 2 32 65E5;33E2 2 33 65E5;33E3 2 34 65E5;33E4 2 35 65E5;33E5 2 36 65E5;33E6 2 37 65E5;\
    33E7 2 38 65E5;33E8 2 39 65E5;33E9 2 31 30 65E5;33EA 2 31 31 65E5;33EB 2 31 32 65E5;33EC 2 31 33 65E5;\
    33ED 2 31 34 65E5;33EE 2 31 35 65E5;33EF 2 31 36 65E5;33F0 2 31 37 65E5;33F1 2 31 38 65E5;33F2 2 31 39 65E5;\
    33F3 2 32 30 65E5;33F4 2 32 31 65E5;33F5 2 32 32 65E5;33F6 2 32 33 65E5;33F7 2 32 34 65E5;33F8 2 32 35 65E5;\
    33F9 2 32 36 65E5;33FA 2 32 37 65E5;33FB 2 32 38 65E5;33FC 2 32 39 65E5;33FD 2 33 30 65E5;33FE 2 33 31 65E5;\
    33FF 2 67 61 6C;A69C 2 44A;A69D 2 44C;A770 2 A76F;A7F2 2 43;A7F3 2 46;A7F4 2 51;A7F8 2 126;A7F9 2 153;\
    AB5C 2 A727;AB5D 2 AB37;AB5E 2 26B;AB5F 2 AB52;AB69 2 28D;F900 1 8C48;F901 1 66F4;F902 1 8ECA;F903 1 8CC8;\
    F904 1 6ED1;F905 1 4E32;F906 1 53E5;F907 1 9F9C;F908 1 9F9C;F909 1 5951;F90A 1 91D1;F90B 1 5587;F90C 1 5948;\
    F90D 1 61F6;F90E 1 7669;F90F 1 7F85;F910 1 863F;F911 1 87BA;F912 1 88F8;F913 1 908F;F914 1 6A02;F915 1 6D1B;\
    F916 1 70D9;F917 1 73DE;F918 1 843D;F919 1 916A;F91A 1 99F1;F91B 1 4E82;F91C 1 5375;F91D 1 6B04;F91E 1 721B;\
    F91F 1 862D;F920 1 9E1E;F921 1 5D50;F922 1 6FEB;F923 1 85CD;F924 1 8964;F925 1 62C9;F926 1 81D8;F927 1 881F;\
    F928 1 5ECA;F929 1 6717;F92A 1 6D6A;F92B 1 72FC;F92C 1 90CE;F92D 1 4F86;F92E 1 51B7;F92F 1 52DE;F930 1 64C4;\
    F931 1 6AD3;F932 1 7210;F933 1 76E7;F934 1 8001;F935 1 8606;F936 1 865C;F937 1 8DEF;F938 1 9732;F939 1 9B6F;\
    F93A 1 9DFA;F93B 1 788C;F93C 1 797F;F93D 1 7DA0;F93E 1 83C9;F93F 1 9304;F940 1 9E7F;F941 1 8AD6;F942 1 58DF;\
    F943 1 5F04;F944 1 7C60;F945 1 807E;F946 1 7262;F947 1 78CA;F948 1 8CC2;F949 1 96F7;F94A 1 58D8;F94B 1 5C62;\
    F94C 1 6A13;F94D 1 6DDA;F94E 1 6F0F;F94F 1 7D2F;F950 1 7E37;F951 1 964B;F952 1 52D2;F953 1 808B;F954 1 51DC;\
    F955 1 51CC;F956 1 7A1C;F957 1 7DBE;F958 1 83F1;F959 1 9675;F95A 1 8B80;F95B 1 62CF;F95C 1 6A02;F95D 1 8AFE;\
    F95E 1 4E39;F95F 1 5BE7;F960 1 6012;F961 1 7387;F962 1 7570;F963 1 5317;F964 1 78FB;F965 1 4FBF;F966 1 5FA9;\
    F967 1 4E0D;F968 1 6CCC;F969 1 6578;F96A 1 7D22;F96B 1 53C3;F96C 1 585E;F96D 1 7701;F96E 1 8449;F96F 1 8AAA;\
    F970 1 6BBA;F971 1 8FB0;F972 1 6C88;F973 1 62FE;F974 1 82E5;F975 1 63A0;F976 1 7565;F977 1 4EAE;F978 1 5169;\
    F979 1 51C9;F97A 1 6881;F97B 1 7CE7;F97C 1 826F;F97D 1 8AD2;F97E 1 91CF;F97F 1 52F5;F980 1 5442;F981 1 5973;\
    F982 1 5EEC;F983 1 65C5;F984 1 6FFE;F985 1 792A;F986 1 95AD;F987 1 9A6A;F988 1 9E97;F989 1 9ECE;F98A 1 529B;\
    F98B 1 66C6;F98C 1 6B77;F98D 1 8F62;F98E 1 5E74;F98F 1 6190;F990 1 6200;F991 1 649A;F992 1 6F23;F993 1 7149;\
    F994 1 7489;F995 1 79CA;F996 1 7DF4;F997 1 806F;F998 1 8F26;F999 1 84EE;F99A 1 9023;F99B 1 934A;F99C 1 5217;\
    F99D 1 52A3;F99E 1 54BD;F99F 1 70C8;F9A0 1 88C2;F9A1 1 8AAA;F9A2 1 5EC9;F9A3 1 5FF5;F9A4 1 637B;F9A5 1 6BAE;\
    F9A6 1 7C3E;F9A7 1 7375;F9A8 1 4EE4;F9A9 1 56F9;F9AA 1 5BE7;F9AB 1 5DBA;F9AC 1 601C;F9AD 1 73B2;F9AE 1 7469;\
    F9AF 1 7F9A;F9B0 1 8046;F9B1 1 9234;F9B2 1 96F6;F9B3 1 9748;F9B4 1 9818;F9B5 1 4F8B;F9B6 1 79AE;F9B7 1 91B4;\
    F9B8 1 96B8;F9B9 1 60E1;F9BA 1 4E86;F9BB 1 50DA;F9BC 1 5BEE;F9BD 1 5C3F;F9BE 1 6599;F9BF 1 6A02;F9C0 1 71CE;\
    F9C1 1 7642;F9C2 1 84FC;F9C3 1 907C;F9C4 1 9F8D;F9C5 1 6688;F9C6 1 962E;F9C7 1 5289;F9C8 1 677B;F9C9 1 67F3;\
    F9CA 1 6D41;F9CB 1 6E9C;F9CC 1 7409;F9CD 1 7559;F9CE 1 786B;F9CF 1 7D10;F9D0 1 985E;F9D1 1 516D;F9D2 1 622E;\
    F9D3 1 9678;F9D4 1 502B;F9D5 1 5D19;F9D6 1 6DEA;F9D7 1 8F2A;F9D8 1 5F8B;F9D9 1 6144;F9DA 1 6817;F9DB 1 7387;\
    F9DC 1 9686;F9DD 1 5229;F9DE 1 540F;F9DF 1 5C65;F9E0 1 6613;F9E1 1 674E;F9E2 1 68A8;F9E3 1 6CE5;F9E4 1 7406;\
    F9E5 1 75E2;F9E6 1 7F79;F9E7 1 88CF;F9E8 1 88E1;F9E9 1 91CC;F9EA 1 96E2;F9EB 1 533F;F9EC 1 6EBA;F9ED 1 541D;\
    F9EE 1 71D0;F9EF 1 7498;F9F0 1 85FA;F9F1 1 96A3;F9F2 1 9C57;F9F3 1 9E9F;F9F4 1 6797;F9F5 1 6DCB;F9F6 1 81E8;\
    F9F7 1 7ACB;F9F8 1 7B20;F9F9 1 7C92;F9FA 1 72C0;F9FB 1 7099;F9FC 1 8B58;F9FD 1 4EC0;F9FE 1 8336;F9FF 1 523A;\
    FA00 1 5207;FA01 1 5EA6;FA02 1 62D3;FA03 1 7CD6;FA04 1 5B85;FA05 1 6D1E;FA06 1 66B4;FA07 1 8F3B;FA08 1 884C;\
    FA09 1 964D;FA0A 1 898B;FA0B 1 5ED3;FA0C 1 5140;FA0D 1 55C0;FA10 1 585A;FA12 1 6674;FA15 1 51DE;FA16 1 732A;\
    FA17 1 76CA;FA18 1 793C;FA19 1 795E;FA1A 1 7965;FA1B 1 798F;FA1C 1 9756;FA1D 1 7CBE;FA1E 1 7FBD;FA20 1 8612;\
    FA22 1 8AF8;FA25 1 9038;FA26 1 90FD;FA2A 1 98EF;FA2B 1 98FC;FA2C 1 9928;FA2D 1 9DB4;FA2E 1 90DE;FA2F 1 96B7;\
    FA30 1 4FAE;FA31 1 50E7;FA32 1 514D;FA33 1 52C9;FA34 1 52E4;FA35 1 5351;FA36 1 559D;FA37 1 5606;FA38 1 5668;\
    FA39 1 5840;FA3A 1 58A8;FA3B 1 5C64;FA3C 1 5C6E;FA3D 1 6094;FA3E 1 6168;FA3F 1 618E;FA40 1 61F2;FA41 1 654F;\
    FA42 1 65E2;FA43 1 6691;FA44 1 6885;FA45 1 6D77;FA46 1 6E1A;FA47 1 6F22;FA48 1 716E;FA49 1 722B;FA4A 1 7422;\
    FA4B 1 7891;FA4C 1 793E;FA4D 1 7949;FA4E 1 7948;FA4F 1 7950;FA50 1 7956;FA51 1 795D;FA52 1 798D;FA53 1 798E;\
    FA54 1 7A40;FA55 1 7A81;FA56 1 7BC0;FA57 1 7DF4;FA58 1 7E09;FA59 1 7E41;FA5A 1 7F72;FA5B 1 8005;FA5C 1 81ED;\
    FA5D 1 8279;FA5E 1 8279;FA5F 1 8457;FA60 1 8910;FA61 1 8996;FA62 1 8B01;FA63 1 8B39;FA64 1 8CD3;FA65 1 8D08;\
    FA66 1 8FB6;FA67 1 9038;FA68 1 96E3;FA69 1 97FF;FA6A 1 983B;FA6B 1 6075;FA6C 1 242EE;FA6D 1 8218;FA70 1 4E26;\
    FA71 1 51B5;FA72 1 5168;FA73 1 4F80;FA74 1 5145;FA75 1 5180;FA76 1 52C7;FA77 1 52FA;FA78 1 559D;FA79 1 5555;\
    FA7A 1 5599;FA7B 1 55E2;FA7C 1 585A;FA7D 1 58B3;FA7E 1 5944;FA7F 1 5954;FA80 1 5A62;FA81 1 5B28;FA82 1 5ED2;\
    FA83 1 5ED9;FA84 1 5F69;FA85 1 5FAD;FA86 1 60D8;FA87 1 614E;FA88 1 6108;FA89 1 618E;FA8A 1 6160;FA8B 1 61F2;\
    FA8C 1 6234;FA8D 1 63C4;FA8E 1 641C;FA8F 1 6452;FA90 1 6556;FA91 1 6674;FA92 1 6717;FA93 1 671B;FA94 1 6756;\
    FA95 1 6B79;FA96 1 6BBA;FA97 1 6D41;FA98 1 6EDB;FA99 1 6ECB;FA9A 1 6F22;FA9B 1 701E;FA9C 1 716E;FA9D 1 77A7;\
    FA9E 1 7235;FA9F 1 72AF;FAA0 1 732A;FAA1 1 7471;FAA2 1 7506;FAA3 1 753B;FAA4 1 761D;FAA5 1 761F;FAA6 1 76CA;\
    FAA7 1 76DB;FAA8 1 76F4;FAA9 1 774A;FAAA 1 7740;FAAB 1 78CC;FAAC 1 7AB1;FAAD 1 7BC0;FAAE 1 7C7B;FAAF 1 7D5B;\
    FAB0 1 7DF4;FAB1 1 7F3E;FAB2 1 8005;FAB3 1 8352;FAB4 1 83EF;FAB5 1 8779;FAB6 1 8941;FAB7 1 8986;FAB8 1 8996;\
    FAB9 1 8ABF;FABA 1 8AF8;FABB 1 8ACB;FABC 1 8B01;FABD 1 8AFE;FABE 1 8AED;FABF 1 8B39;FAC0 1 8B8A;FAC1 1 8D08;\
    FAC2 1 8F38;FAC3 1 9072;FAC4 1 9199;FAC5 1 9276;FAC6 1 967C;FAC7 1 96E3;FAC8 1 9756;FAC9 1 97DB;FACA 1 97FF;\
    FACB 1 980B;FACC 1 983B;FACD 1 9B12;FACE 1 9F9C;FACF 1 2284A;FAD0 1 22844;FAD1 1 233D5;FAD2 1 3B9D;FAD3 1 4018;\
    FAD4 1 4039;FAD5 1 25249;FAD6 1 25CD0;FAD7 1 27ED3;FAD8 1 9F43;FAD9 1 9F8E;FB00 2 66 66;FB01 2 66 69;\
    FB02 2 66 6C;FB03 2 66 66 69;FB04 2 66 66 6C;FB05 2 17F 74;FB06 2 73 74;FB13 2 574 576;FB14 2 574 565;\
    FB15 2 574 56B;FB16 2 57E 576;FB17 2 574 56D;FB1D 1 5D9 5B4;FB1F 1 5F2 5B7;FB20 2 5E2;FB21 2 5D0;FB22 2 5D3;\
    FB23 2 5D4;FB24 2 5DB;FB25 2 5DC;FB26 2 5DD;FB27 2 5E8;FB28 2 5EA;FB29 2 2B;FB2A 1 5E9 5C1;FB2B 1 5E9 5C2;\
    FB2C 1 FB49 5C1;FB2D 1 FB49 5C2;FB2E 1 5D0 5B7;FB2F 1 5D0 5B8;FB30 1 5D0 5BC;FB31 1 5D1 5BC;FB32 1 5D2 5BC;\
    FB33 1 5D3 5BC;FB34 1 5D4 5BC;FB35 1 5D5 5BC;FB36 1 5D6 5BC;FB38 1 5D8 5BC;FB39 1 5D9 5BC;FB3A 1 5DA 5BC;\
    FB3B 1 5DB 5BC;FB3C 1 5DC 5BC;FB3E 1 5DE 5BC;FB40 1 5E0 5BC;FB41 1 5E1 5BC;FB43 1 5E3 5BC;FB44 1 5E4 5BC;\
    FB46 1 5E6 5BC;FB47 1 5E7 5BC;FB48 1 5E8 5BC;FB49 1 5E9 5BC;FB4A 1 5EA 5BC;FB4B 1 5D5 5B9;FB4C 1 5D1 5BF;\
    FB4D 1 5DB 5BF;FB4E 1 5E4 5BF;FB4F 2 5D0 5DC;FB50 2 671;FB51 2 671;FB52 2 67B;FB53 2 67B;FB54 2 67B;FB55 2 67B;\
    FB56 2 67E;FB57 2 67E;FB58 2 67E;FB59 2 67E;FB5A 2 680;FB5B 2 680;FB5C 2 680;FB5D 2 680;FB5E 2 67A;FB5F 2 67A;\
    FB60 2 67A;FB61 2 67A;FB62 2 67F;FB63 2 67F;FB64 2 67F;FB65 2 67F;FB66 2 679;FB67 2 679;FB68 2 679;FB69 2 679;\
    FB6A 2 6A4;FB6B 2 6A4;FB6C 2 6A4;FB6D 2 6A4;FB6E 2 6A6;FB6F 2 6A6;FB70 2 6A6;FB71 2 6A6;FB72 2 684;FB73 2 684;\
    FB74 2 684;FB75 2 684;FB76 2 683;FB77 2 683;FB78 2 683;FB79 2 683;FB7A 2 686;FB7B 2 686;FB7C 2 686;FB7D 2 686;\
    FB7E 2 687;FB7F 2 687;FB80 2 687;FB81 2 687;FB82 2 68D;FB83 2 68D;FB84 2 68C;FB85 2 68C;FB86 2 68E;FB87 2 68E;\
    FB88 2 688;FB89 2 688;FB8A 2 698;FB8B 2 698;FB8C 2 691;FB8D 2 691;FB8E 2 6A9;FB8F 2 6A9;FB90 2 6A9;FB91 2 6A9;\
    FB92 2 6AF;FB93 2 6AF;FB94 2 6AF;FB95 2 6AF;FB96 2 6B3;FB97 2 6B3;FB98 2 6B3;FB99 2 6B3;FB9A 2 6B1;FB9B 2 6B1;\
    FB9C 2 6B1;FB9D 2 6B1;FB9E 2 6BA;FB9F 2 6BA;FBA0 2 6BB;FBA1 2 6BB;FBA2 2 6BB;FBA3 2 6BB;FBA4 2 6C0;FBA5 2 6C0;\
    FBA6 2 6C1;FBA7 2 6C1;FBA8 2 6C1;FBA9 2 6C1;FBAA 2 6BE;FBAB 2 6BE;FBAC 2 6BE;FBAD 2 6BE;FBAE 2 6D2;FBAF 2 6D2;\
    FBB0 2 6D3;FBB1 2 6D3;FBD3 2 6AD;FBD4 2 6AD;FBD5 2 6AD;FBD6 2 6AD;FBD7 2 6C7;FBD8 2 6C7;FBD9 2 6C6;FBDA 2 6C6;\
    FBDB 2 6C8;FBDC 2 6C8;FBDD 2 677;FBDE 2 6CB;FBDF 2 6CB;FBE0 2 6C5;FBE1 2 6C5;FBE2 2 6C9;FBE3 2 6C9;FBE4 2 6D0;\
    FBE5 2 6D0;FBE6 2 6D0;FBE7 2 6D0;FBE8 2 649;FBE9 2 649;FBEA 2 626 627;FBEB 2 626 627;FBEC 2 626 6D5;\
    FBED 2 626 6D5;FBEE 2 626 648;FBEF 2 626 648;FBF0 2 626 6C7;FBF1 2 626 6C7;FBF2 2 626 6C6;FBF3 2 626 6C6;\
    FBF4 2 626 6C8;FBF5 2 626 6C8;FBF6 2 626 6D0;FBF7 2 626 6D0;FBF8 2 626 6D0;FBF9 2 626 649;FBFA 2 626 649;\
    FBFB 2 626 649;FBFC 2 6CC;FBFD 2 6CC;FBFE 2 6CC;FBFF 2 6CC;FC00 2 626 62C;FC01 2 626 62D;FC02 2 626 645;\
    FC03 2 626 649;FC04 2 626 64A;FC05 2 628 62C;FC06 2 628 62D;FC07 2 628 62E;FC08 2 628 645;FC09 2 628 649;\
    FC0A 2 628 64A;FC0B 2 62A 62C;FC0C 2 62A 62D;FC0D 2 62A 62E;FC0E 2 62A 645;FC0F 2 62A 649;FC10 2 62A 64A;\
    FC11 2 62B 62C;FC12 2 62B 645;FC13 2 62B 649;FC14 2 62B 64A;FC15 2 62C 62D;FC16 2 62C 645;FC17 2 62D 62C;\
    FC18 2 62D 645;FC19 2 62E 62C;FC1A 2 62E 62D;FC1B 2 62E 645;FC1C 2 633 62C;FC1D 2 633 62D;FC1E 2 633 62E;\
    FC1F 2 633 645;FC20 2 635 62D;FC21 2 635 645;FC22 2 636 62C;FC23 2 636 62D;FC24 2 636 62E;FC25 2 636 645;\
    FC26 2 637 62D;FC27 2 637 645;FC28 2 638 645;FC29 2 639 62C;FC2A 2 639 645;FC2B 2 63A 62C;FC2C 2 63A 645;\
    FC2D 2 641 62C;FC2E 2 641 62D;FC2F 2 641 62E;FC30 2 641 645;FC31 2 641 649;FC32 2 641 64A;FC33 2 642 62D;\
    FC34 2 642 645;FC35 2 642 649;FC36 2 642 64A;FC37 2 643 627;FC38 2 643 62C;FC39 2 643 62D;FC3A 2 643 62E;\
    FC3B 2 643 644;FC3C 2 643 645;FC3D 2 643 649;FC3E 2 643 64A;FC3F 2 644 62C;FC40 2 644 62D;FC41 2 644 62E;\
    FC42 2 644 645;FC43 2 644 649;FC44 2 644 64A;FC45 2 645 62C;FC46 2 645 62D;FC47 2 645 62E;FC48 2 645 645;\
    FC49 2 645 649;FC4A 2 645 64A;FC4B 2 646 62C;FC4C 2 646 62D;FC4D 2 646 62E;FC4E 2 646 645;FC4F 2 646 649;\
    FC50 2 646 64A;FC51 2 647 62C;FC52 2 647 645;FC53 2 647 649;FC54 2 647 64A;FC55 2 64A 62C;FC56 2 64A 62D;\
    FC57 2 64A 62E;FC58 2 64A 645;FC59 2 64A 649;FC5A 2 64A 64A;FC5B 2 630 670;FC5C 2 631 670;FC5D 2 649 670;\
    FC5E 2 20 64C 651;FC5F 2 20 64D 651;FC60 2 20 64E 651;FC61 2 20 64F 651;FC62 2 20 650 651;FC63 2 20 651 670;\
    FC64 2 626 631;FC65 2 626 632;FC66 2 626 645;FC67 2 626 646;FC68 2 626 649;FC69 2 626 64A;FC6A 2 628 631;\
    FC6B 2 628 632;FC6C 2 628 645;FC6D 2 628 646;FC6E 2 628 649;FC6F 2 628 64A;FC70 2 62A 631;FC71 2 62A 632;\
    FC72 2 62A 645;FC73 2 62A 646;FC74 2 62A 649;FC75 2 62A 64A;FC76 2 62B 631;FC77 2 62B 632;FC78 2 62B 645;\
    FC79 2 62B 646;FC7A 2 62B 649;FC7B 2 62B 64A;FC7C 2 641 649;FC7D 2 641 64A;FC7E 2 642 649;FC7F 2 642 64A;\
    FC80 2 643 627;FC81 2 643 644;FC82 2 643 645;FC83 2 643 649;FC84 2 643 64A;FC85 2 644 645;FC86 2 644 649;\
    FC87 2 644 64A;FC88 2 645 627;FC89 2 645 645;FC8A 2 646 631;FC8B 2 646 632;FC8C 2 646 645;FC8D 2 646 646;\
    FC8E 2 646 649;FC8F 2 646 64A;FC90 2 649 670;FC91 2 64A 631;FC92 2 64A 632;FC93 2 64A 645;FC94 2 64A 646;\
    FC95 2 64A 649;FC96 2 64A 64A;FC97 2 626 62C;FC98 2 626 62D;FC99 2 626 62E;FC9A 2 626 645;FC9B 2 626 647;\
    FC9C 2 628 62C;FC9D 2 628 62D;FC9E 2 628 62E;FC9F 2 628 645;FCA0 2 628 647;FCA1 2 62A 62C;FCA2 2 62A 62D;\
    FCA3 2 62A 62E;FCA4 2 62A 645;FCA5 2 62A 647;FCA6 2 62B 645;FCA7 2 62C 62D;FCA8 2 62C 645;FCA9 2 62D 62C;\
    FCAA 2 62D 645;FCAB 2 62E 62C;FCAC 2 62E 645;FCAD 2 633 62C;FCAE 2 633 62D;FCAF 2 633 62E;FCB0 2 633 645;\
    FCB1 2 635 62D;FCB2 2 635 62E;FCB3 2 635 645;FCB4 2 636 62C;FCB5 2 636 62D;FCB6 2 636 62E;FCB7 2 636 645;\
    FCB8 2 637 62D;FCB9 2 638 645;FCBA 2 639 62C;FCBB 2 639 645;FCBC 2 63A 62C;FCBD 2 63A 645;FCBE 2 641 62C;\
    FCBF 2 641 62D;FCC0 2 641 62E;FCC1 2 641 645;FCC2 2 642 62D;FCC3 2 642 645;FCC4 2 643 62C;FCC5 2 643 62D;\
    FCC6 2 643 62E;FCC7 2 643 644;FCC8 2 643 645;FCC9 2 644 62C;FCCA 2 644 62D;FCCB 2 644 62E;FCCC 2 644 645;\
    FCCD 2 644 647;FCCE 2 645 62C;FCCF 2 645 62D;FCD0 2 645 62E;FCD1 2 645 645;FCD2 2 646 62C;FCD3 2 646 62D;\
    FCD4 2 646 62E;FCD5 2 646 645;FCD6 2 646 647;FCD7 2 647 62C;FCD8 2 647 645;FCD9 2 647 670;FCDA 2 64A 62C;\
    FCDB 2 64A 62D;FCDC 2 64A 62E;FCDD 2 64A 645;FCDE 2 64A 647;FCDF 2 626 645;FCE0 2 626 647;FCE1 2 628 645;\
    FCE2 2 628 647;FCE3 2 62A 645;FCE4 2 62A 647;FCE5 2 62B 645;FCE6 2 62B 647;FCE7 2 633 645;FCE8 2 633 647;\
    FCE9 2 634 645;FCEA 2 634 647;FCEB 2 643 644;FCEC 2 643 645;FCED 2 644 645;FCEE 2 646 645;FCEF 2 646 647;\
    FCF0 2 64A 645;FCF1 2 64A 647;FCF2 2 640 64E 651;FCF3 2 640 64F 651;FCF4 2 640 650 651;FCF5 2 637 649;\
    FCF6 2 637 64A;FCF7 2 639 649;FCF8 2 639 64A;FCF9 2 63A 649;FCFA 2 63A 64A;FCFB 2 633 649;FCFC 2 633 64A;\
    FCFD 2 634 649;FCFE 2 634 64A;FCFF 2 62D 649;FD00 2 62D 64A;FD01 2 62C 649;FD02 2 62C 64A;FD03 2 62E 649;\
    FD04 2 62E 64A;FD05 2 635 649;FD06 2 635 64A;FD07 2 636 649;FD08 2 636 64A;FD09 2 634 62C;FD0A 2 634 62D;\
    FD0B 2 634 62E;FD0C 2 634 645;FD0D 2 634 631;FD0E 2 633 631;FD0F 2 635 631;FD10 2 636 631;FD11 2 637 649;\
    FD12 2 637 64A;FD13 2 639 649;FD14 2 639 64A;FD15 2 63A 649;FD16 2 63A 64A;FD17 2 633 649;FD18 2 633 64A;\
    FD19 2 634 649;FD1A 2 634 64A;FD1B 2 62D 649;FD1C 2 62D 64A;FD1D 2 62C 649;FD1E 2 62C 64A;FD1F 2 62E 649;\
    FD20 2 62E 64A;FD21 2 635 649;FD22 2 635 64A;FD23 2 636 649;FD24 2 636 64A;FD25 2 634 62C;FD26 2 634 62D;\
    FD27 2 634 62E;FD28 2 634 645;FD29 2 634 631;FD2A 2 633 631;FD2B 2 635 631;FD2C 2 636 631;FD2D 2 634 62C;\
    FD2E 2 634 62D;FD2F 2 634 62E;FD30 2 634 645;FD31 2 633 647;FD32 2 634 647;FD33 2 637 645;FD34 2 633 62C;\
    FD35 2 633 62D;FD36 2 633 62E;FD37 2 634 62C;FD38 2 634 62D;FD39 2 634 62E;FD3A 2 637 645;FD3B 2 638 645;\
    FD3C 2 627 64B;FD3D 2 627 64B;FD50 2 62A 62C 645;FD51 2 62A 62D 62C;FD52 2 62A 62D 62C;FD53 2 62A 62D 645;\
    FD54 2 62A 62E 645;FD55 2 62A 645 62C;FD56 2 62A 645 62D;FD57 2 62A 645 62E;FD58 2 62C 645 62D;\
    FD59 2 62C 645 62D;FD5A 2 62D 645 64A;FD5B 2 62D 645 649;FD5C 2 633 62D 62C;FD5D 2 633 62C 62D;\
    FD5E 2 633 62C 649;FD5F 2 633 645 62D;FD60 2 633 645 62D;FD61 2 633 645 62C;FD62 2 633 645 645;\
    FD63 2 633 645 645;FD64 2 635 62D 62D;FD65 2 635 62D 62D;FD66 2 635 645 645;FD67 2 634 62D 645;\
    FD68 2 634 62D 645;FD69 2 634 62C 64A;FD6A 2 634 645 62E;FD6B 2 634 645 62E;FD6C 2 634 645 645;\
    FD6D 2 634 645 645;FD6E 2 636 62D 649;FD6F 2 636 62E 645;FD70 2 636 62E 645;FD71 2 637 645 62D;\
    FD72 2 637 645 62D;FD73 2 637 645 645;FD74 2 637 645 64A;FD75 2 639 62C 645;FD76 2 639 645 645;\
    FD77 2 639 645 645;FD78 2 639 645 649;FD79 2 63A 645 645;FD7A 2 63A 645 64A;FD7B 2 63A 645 649;\
    FD7C 2 641 62E 645;FD7D 2 641 62E 645;FD7E 2 642 645 62D;FD7F 2 642 645 645;FD80 2 644 62D 645;\
    FD81 2 644 62D 64A;FD82 2 644 62D 649;FD83 2 644 62C 62C;FD84 2 644 62C 62C;FD85 2 644 62E 645;\
    FD86 2 644 62E 645;FD87 2 644 645 62D;FD88 2 644 645 62D;FD89 2 645 62D 62C;FD8A 2 645 62D 645;\
    FD8B 2 645 62D 64A;FD8C 2 645 62C 62D;FD8D 2 645 62C 645;FD8E 2 645 62E 62C;FD8F 2 645 62E 645;\
    FD92 2 645 62C 62E;FD93 2 647 645 62C;FD94 2 647 645 645;FD95 2 646 62D 645;FD96 2 646 62D 649;\
    FD97 2 646 62C 645;FD98 2 646 62C 645;FD99 2 646 62C 649;FD9A 2 646 645 64A;FD9B 2 646 645 649;\
    FD9C 2 64A 645 645;FD9D 2 64A 645 645;FD9E 2 628 62E 64A;FD9F 2 62A 62C 64A;FDA0 2 62A 62C 649;\
    FDA1 2 62A 62E 64A;FDA2 2 62A 62E 649;FDA3 2 62A 645 64A;FDA4 2 62A 645 649;FDA5 2 62C 645 64A;\
    FDA6 2 62C 62D 649;FDA7 2 62C 645 649;FDA8 2 633 62E 649;FDA9 2 635 62D 64A;FDAA 2 634 62D 64A;\
    FDAB 2 636 62D 64A;FDAC 2 644 62C 64A;FDAD 2 644 645 64A;FDAE 2 64A 62D 64A;FDAF 2 64A 62C 64A;\
    FDB0 2 64A 645 64A;FDB1 2 645 645 64A;FDB2 2 642 645 64A;FDB3 2 646 62D 64A;FDB4 2 642 645 62D;\
    FDB5 2 644 62D 645;FDB6 2 639 645 64A;FDB7 2 643 645 64A;FDB8 2 646 62C 62D;FDB9 2 645 62E 64A;\
    FDBA 2 644 62C 645;FDBB 2 643 645 645;FDBC 2 644 62C 645;FDBD 2 646 62C 62D;FDBE 2 62C 62D 64A;\
    FDBF 2 62D 62C 64A;FDC0 2 645 62C 64A;FDC1 2 641 645 64A;FDC2 2 628 62D 64A;FDC3 2 643 645 645;\
    FDC4 2 639 62C 645;FDC5 2 635 645 645;FDC6 2 633 62E 64A;FDC7 2 646 62C 64A;FDF0 2 635 644 6D2;\
    FDF1 2 642 644 6D2;FDF2 2 627 644 644 647;FDF3 2 627 643 628 631;FDF4 2 645 62D 645 62F;FDF5 2 635 644 639 645;\
    FDF6 2 631 633 648 644;FDF7 2 639 644 64A 647;FDF8 2 648 633 644 645;FDF9 2 635 644 649;\
    FDFA 2 635 644 649 20 627 644 644 647 20 639 644 64A 647 20 648 633 644 645;\
    FDFB 2 62C 644 20 62C 644 627 644 647;FDFC 2 631 6CC 627 644;FE10 2 2C;FE11 2 3001;FE12 2 3002;FE13 2 3A;\
    FE14 2 3B;FE15 2 21;FE16 2 3F;FE17 2 3016;FE18 2 3017;FE19 2 2026;FE30 2 2025;FE31 2 2014;FE32 2 2013;FE33 2 5F;\
    FE34 2 5F;FE35 2 28;FE36 2 29;FE37 2 7B;FE38 2 7D;FE39 2 3014;FE3A 2 3015;FE3B 2 3010;FE3C 2 3011;FE3D 2 300A;\
    FE3E 2 300B;FE3F 2 3008;FE40 2 3009;FE41 2 300C;FE42 2 300D;FE43 2 300E;FE44 2 300F;FE47 2 5B;FE48 2 5D;\
    FE49 2 203E;FE4A 2 203E;FE4B 2 203E;FE4C 2 203E;FE4D 2 5F;FE4E 2 5F;FE4F 2 5F;FE50 2 2C;FE51 2 3001;FE52 2 2E;\
    FE54 2 3B;FE55 2 3A;FE56 2 3F;FE57 2 21;FE58 2 2014;FE59 2 28;FE5A 2 29;FE5B 2 7B;FE5C 2 7D;FE5D 2 3014;\
    FE5E 2 3015;FE5F 2 23;FE60 2 26;FE61 2 2A;FE62 2 2B;FE63 2 2D;FE64 2 3C;FE65 2 3E;FE66 2 3D;FE68 2 5C;FE69 2 24;\
    FE6A 2 25;FE6B 2 40;FE70 2 20 64B;FE71 2 640 64B;FE72 2 20 64C;FE74 2 20 64D;FE76 2 20 64E;FE77 2 640 64E;\
    FE78 2 20 64F;FE79 2 640 64F;FE7A 2 20 650;FE7B 2 640 650;FE7C 2 20 651;FE7D 2 640 651;FE7E 2 20 652;\
    FE7F 2 640 652;FE80 2 621;FE81 2 622;FE82 2 622;FE83 2 623;FE84 2 623;FE85 2 624;FE86 2 624;FE87 2 625;\
    FE88 2 625;FE89 2 626;FE8A 2 626;FE8B 2 626;FE8C 2 626;FE8D 2 627;FE8E 2 627;FE8F 2 628;FE90 2 628;FE91 2 628;\
    FE92 2 628;FE93 2 629;FE94 2 629;FE95 2 62A;FE96 2 62A;FE97 2 62A;FE98 2 62A;FE99 2 62B;FE9A 2 62B;FE9B 2 62B;\
    FE9C 2 62B;FE9D 2 62C;FE9E 2 62C;FE9F 2 62C;FEA0 2 62C;FEA1 2 62D;FEA2 2 62D;FEA3 2 62D;FEA4 2 62D;FEA5 2 62E;\
    FEA6 2 62E;FEA7 2 62E;FEA8 2 62E;FEA9 2 62F;FEAA 2 62F;FEAB 2 630;FEAC 2 630;FEAD 2 631;FEAE 2 631;FEAF 2 632;\
    FEB0 2 632;FEB1 2 633;FEB2 2 633;FEB3 2 633;FEB4 2 633;FEB5 2 634;FEB6 2 634;FEB7 2 634;FEB8 2 634;FEB9 2 635;\
    FEBA 2 635;FEBB 2 635;FEBC 2 635;FEBD 2 636;FEBE 2 636;FEBF 2 636;FEC0 2 636;FEC1 2 637;FEC2 2 637;FEC3 2 637;\
    FEC4 2 637;FEC5 2 638;FEC6 2 638;FEC7 2 638;FEC8 2 638;FEC9 2 639;FECA 2 639;FECB 2 639;FECC 2 639;FECD 2 63A;\
    FECE 2 63A;FECF 2 63A;FED0 2 63A;FED1 2 641;FED2 2 641;FED3 2 641;FED4 2 641;FED5 2 642;FED6 2 642;FED7 2 642;\
    FED8 2 642;FED9 2 643;FEDA 2 643;FEDB 2 643;FEDC 2 643;FEDD 2 644;FEDE 2 644;FEDF 2 644;FEE0 2 644;FEE1 2 645;\
    FEE2 2 645;FEE3 2 645;FEE4 2 645;FEE5 2 646;FEE6 2 646;FEE7 2 646;FEE8 2 646;FEE9 2 647;FEEA 2 647;FEEB 2 647;\
    FEEC 2 647;FEED 2 648;FEEE 2 648;FEEF 2 649;FEF0 2 649;FEF1 2 64A;FEF2 2 64A;FEF3 2 64A;FEF4 2 64A;\
    FEF5 2 644 622;FEF6 2 644 622;FEF7 2 644 623;FEF8 2 644 623;FEF9 2 644 625;FEFA 2 644 625;FEFB 2 644 627;\
    FEFC 2 644 627;FF01 2 21;FF02 2 22;FF03 2 23;FF04 2 24;FF05 2 25;FF06 2 26;FF07 2 27;FF08 2 28;FF09 2 29;\
    FF0A 2 2A;FF0B 2 2B;FF0C 2 2C;FF0D 2 2D;FF0E 2 2E;FF0F 2 2F;FF10 2 30;FF11 2 31;FF12 2 32;FF13 2 33;FF14 2 34;\
    FF15 2 35;FF16 2 36;FF17 2 37;FF18 2 38;FF19 2 39;FF1A 2 3A;FF1B 2 3B;FF1C 2 3C;FF1D 2 3D;FF1E 2 3E;FF1F 2 3F;\
    FF20 2 40;FF21 2 41;FF22 2 42;FF23 2 43;FF24 2 44;FF25 2 45;FF26 2 46;FF27 2 47;FF28 2 48;FF29 2 49;FF2A 2 4A;\
    FF2B 2 4B;FF2C 2 4C;FF2D 2 4D;FF2E 2 4E;FF2F 2 4F;FF30 2 50;FF31 2 51;FF32 2 52;FF33 2 53;FF34 2 54;FF35 2 55;\
    FF36 2 56;FF37 2 57;FF38 2 58;FF39 2 59;FF3A 2 5A;FF3B 2 5B;FF3C 2 5C;FF3D 2 5D;FF3E 2 5E;FF3F 2 5F;FF40 2 60;\
    FF41 2 61;FF42 2 62;FF43 2 63;FF44 2 64;FF45 2 65;FF46 2 66;FF47 2 67;FF48 2 68;FF49 2 69;FF4A 2 6A;FF4B 2 6B;\
    FF4C 2 6C;FF4D 2 6D;FF4E 2 6E;FF4F 2 6F;FF50 2 70;FF51 2 71;FF52 2 72;FF53 2 73;FF54 2 74;FF55 2 75;FF56 2 76;\
    FF57 2 77;FF58 2 78;FF59 2 79;FF5A 2 7A;FF5B 2 7B;FF5C 2 7C;FF5D 2 7D;FF5E 2 7E;FF5F 2 2985;FF60 2 2986;\
    FF61 2 3002;FF62 2 300C;FF63 2 300D;FF64 2 3001;FF65 2 30FB;FF66 2 30F2;FF67 2 30A1;FF68 2 30A3;FF69 2 30A5;\
    FF6A 2 30A7;FF6B 2 30A9;FF6C 2 30E3;FF6D 2 30E5;FF6E 2 30E7;FF6F 2 30C3;FF70 2 30FC;FF71 2 30A2;FF72 2 30A4;\
    FF73 2 30A6;FF74 2 30A8;FF75 2 30AA;FF76 2 30AB;FF77 2 30AD;FF78 2 30AF;FF79 2 30B1;FF7A 2 30B3;FF7B 2 30B5;\
    FF7C 2 30B7;FF7D 2 30B9;FF7E 2 30BB;FF7F 2 30BD;FF80 2 30BF;FF81 2 30C1;FF82 2 30C4;FF83 2 30C6;FF84 2 30C8;\
    FF85 2 30CA;FF86 2 30CB;FF87 2 30CC;FF88 2 30CD;FF89 2 30CE;FF8A 2 30CF;FF8B 2 30D2;FF8C 2 30D5;FF8D 2 30D8;\
    FF8E 2 30DB;FF8F 2 30DE;FF90 2 30DF;FF91 2 30E0;FF92 2 30E1;FF93 2 30E2;FF94 2 30E4;FF95 2 30E6;FF96 2 30E8;\
    FF97 2 30E9;FF98 2 30EA;FF99 2 30EB;FF9A 2 30EC;FF9B 2 30ED;FF9C 2 30EF;FF9D 2 30F3;FF9E 2 3099;FF9F 2 309A;\
    FFA0 2 3164;FFA1 2 3131;FFA2 2 3132;FFA3 2 3133;FFA4 2 3134;FFA5 2 3135;FFA6 2 3136;FFA7 2 3137;FFA8 2 3138;\
    FFA9 2 3139;FFAA 2 313A;FFAB 2 313B;FFAC 2 313C;FFAD 2 313D;FFAE 2 313E;FFAF 2 313F;FFB0 2 3140;FFB1 2 3141;\
    FFB2 2 3142;FFB3 2 3143;FFB4 2 3144;FFB5 2 3145;FFB6 2 3146;FFB7 2 3147;FFB8 2 3148;FFB9 2 3149;FFBA 2 314A;\
    FFBB 2 314B;FFBC 2 314C;FFBD 2 314D;FFBE 2 314E;FFC2 2 314F;FFC3 2 3150;FFC4 2 3151;FFC5 2 3152;FFC6 2 3153;\
    FFC7 2 3154;FFCA 2 3155;FFCB 2 3156;FFCC 2 3157;FFCD 2 3158;FFCE 2 3159;FFCF 2 315A;FFD2 2 315B;FFD3 2 315C;\
    FFD4 2 315D;FFD5 2 315E;FFD6 2 315F;FFD7 2 3160;FFDA 2 3161;FFDB 2 3162;FFDC 2 3163;FFE0 2 A2;FFE1 2 A3;\
    FFE2 2 AC;FFE3 2 AF;FFE4 2 A6;FFE5 2 A5;FFE6 2 20A9;FFE8 2 2502;FFE9 2 2190;FFEA 2 2191;FFEB 2 2192;FFEC 2 2193;\
    FFED 2 25A0;FFEE 2 25CB;10781 2 2D0;10782 2 2D1;10783 2 E6;10784 2 299;10785 2 253;10787 2 2A3;10788 2 AB66;\
    10789 2 2A5;1078A 2 2A4;1078B 2 256;1078C 2 257;1078D 2 1D91;1078E 2 258;1078F 2 25E;10790 2 2A9;10791 2 264;\
    10792 2 262;10793 2 260;10794 2 29B;10795 2 127;10796 2 29C;10797 2 267;10798 2 284;10799 2 2AA;1079A 2 2AB;\
    1079B 2 26C;1079C 2 1DF04;1079D 2 A78E;1079E 2 26E;1079F 2 1DF05;107A0 2 28E;107A1 2 1DF06;107A2 2 F8;\
    107A3 2 276;107A4 2 277;107A5 2 71;107A6 2 27A;107A7 2 1DF08;107A8 2 27D;107A9 2 27E;107AA 2 280;107AB 2 2A8;\
    107AC 2 2A6;107AD 2 AB67;107AE 2 2A7;107AF 2 288;107B0 2 2C71;107B2 2 28F;107B3 2 2A1;107B4 2 2A2;107B5 2 298;\
    107B6 2 1C0;107B7 2 1C1;107B8 2 1C2;107B9 2 1DF0A;107BA 2 1DF1E;1109A 0 11099 110BA;1109C 0 1109B 110BA;\
    110AB 0 110A5 110BA;1112E 0 11131 11127;1112F 0 11132 11127;1134B 0 11347 1133E;1134C 0 11347 11357;\
    114BB 0 114B9 114BA;114BC 0 114B9 114B0;114BE 0 114B9 114BD;115BA 0 115B8 115AF;115BB 0 115B9 115AF;\
    11938 0 11935 11930;1D15E 1 1D157 1D165;1D15F 1 1D158 1D165;1D160 1 1D15F 1D16E;1D161 1 1D15F 1D16F;\
    1D162 1 1D15F 1D170;1D163 1 1D15F 1D171;1D164 1 1D15F 1D172;1D1BB 1 1D1B9 1D165;1D1BC 1 1D1BA 1D165;\
    1D1BD 1 1D1BB 1D16E;1D1BE 1 1D1BC 1D16E;1D1BF 1 1D1BB 1D16F;1D1C0 1 1D1BC 1D16F;1D400 2 41;1D401 2 42;\
    1D402 2 43;1D403 2 44;1D404 2 45;1D405 2 46;1D406 2 47;1D407 2 48;1D408 2 49;1D409 2 4A;1D40A 2 4B;1D40B 2 4C;\
    1D40C 2 4D;1D40D 2 4E;1D40E 2 4F;1D40F 2 50;1D410 2 51;1D411 2 52;1D412 2 53;1D413 2 54;1D414 2 55;1D415 2 56;\
    1D416 2 57;1D417 2 58;1D418 2 59;1D419 2 5A;1D41A 2 61;1D41B 2 62;1D41C 2 63;1D41D 2 64;1D41E 2 65;1D41F 2 66;\
    1D420 2 67;1D421 2 68;1D422 2 69;1D423 2 6A;1D424 2 6B;1D425 2 6C;1D426 2 6D;1D427 2 6E;1D428 2 6F;1D429 2 70;\
    1D42A 2 71;1D42B 2 72;1D42C 2 73;1D42D 2 74;1D42E 2 75;1D42F 2 76;1D430 2 77;1D431 2 78;1D432 2 79;1D433 2 7A;\
    1D434 2 41;1D435 2 42;1D436 2 43;1D437 2 44;1D438 2 45;1D439 2 46;1D43A 2 47;1D43B 2 48;1D43C 2 49;1D43D 2 4A;\
    1D43E 2 4B;1D43F 2 4C;1D440 2 4D;1D441 2 4E;1D442 2 4F;1D443 2 50;1D444 2 51;1D445 2 52;1D446 2 53;1D447 2 54;\
    1D448 2 55;1D449 2 56;1D44A 2 57;1D44B 2 58;1D44C 2 59;1D44D 2 5A;1D44E 2 61;1D44F 2 62;1D450 2 63;1D451 2 64;\
    1D452 2 65;1D453 2 66;1D454 2 67;1D456 2 69;1D457 2 6A;1D458 2 6B;1D459 2 6C;1D45A 2 6D;1D45B 2 6E;1D45C 2 6F;\
    1D45D 2 70;1D45E 2 71;1D45F 2 72;1D460 2 73;1D461 2 74;1D462 2 75;1D463 2 76;1D464 2 77;1D465 2 78;1D466 2 79;\
    1D467 2 7A;1D468 2 41;1D469 2 42;1D46A 2 43;1D46B 2 44;1D46C 2 45;1D46D 2 46;1D46E 2 47;1D46F 2 48;1D470 2 49;\
    1D471 2 4A;1D472 2 4B;1D473 2 4C;1D474 2 4D;1D475 2 4E;1D476 2 4F;1D477 2 50;1D478 2 51;1D479 2 52;1D47A 2 53;\
    1D47B 2 54;1D47C 2 55;1D47D 2 56;1D47E 2 57;1D47F 2 58;1D480 2 59;1D481 2 5A;1D482 2 61;1D483 2 62;1D484 2 63;\
    1D485 2 64;1D486 2 65;1D487 2 66;1D488 2 67;1D489 2 68;1D48A 2 69;1D48B 2 6A;1D48C 2 6B;1D48D 2 6C;1D48E 2 6D;\
    1D48F 2 6E;1D490 2 6F;1D491 2 70;1D492 2 71;1D493 2 72;1D494 2 73;1D495 2 74;1D496 2 75;1D497 2 76;1D498 2 77;\
    1D499 2 78;1D49A 2 79;1D49B 2 7A;1D49C 2 41;1D49E 2 43;1D49F 2 44;1D4A2 2 47;1D4A5 2 4A;1D4A6 2 4B;1D4A9 2 4E;\
    1D4AA 2 4F;1D4AB 2 50;1D4AC 2 51;1D4AE 2 53;1D4AF 2 54;1D4B0 2 55;1D4B1 2 56;1D4B2 2 57;1D4B3 2 58;1D4B4 2 59;\
    1D4B5 2 5A;1D4B6 2 61;1D4B7 2 62;1D4B8 2 63;1D4B9 2 64;1D4BB 2 66;1D4BD 2 68;1D4BE 2 69;1D4BF 2 6A;1D4C0 2 6B;\
    1D4C1 2 6C;1D4C2 2 6D;1D4C3 2 6E;1D4C5 2 70;1D4C6 2 71;1D4C7 2 72;1D4C8 2 73;1D4C9 2 74;1D4CA 2 75;1D4CB 2 76;\
    1D4CC 2 77;1D4CD 2 78;1D4CE 2 79;1D4CF 2 7A;1D4D0 2 41;1D4D1 2 42;1D4D2 2 43;1D4D3 2 44;1D4D4 2 45;1D4D5 2 46;\
    1D4D6 2 47;1D4D7 2 48;1D4D8 2 49;1D4D9 2 4A;1D4DA 2 4B;1D4DB 2 4C;1D4DC 2 4D;1D4DD 2 4E;1D4DE 2 4F;1D4DF 2 50;\
    1D4E0 2 51;1D4E1 2 52;1D4E2 2 53;1D4E3 2 54;1D4E4 2 55;1D4E5 2 56;1D4E6 2 57;1D4E7 2 58;1D4E8 2 59;1D4E9 2 5A;\
    1D4EA 2 61;1D4EB 2 62;1D4EC 2 63;1D4ED 2 64;1D4EE 2 65;1D4EF 2 66;1D4F0 2 67;1D4F1 2 68;1D4F2 2 69;1D4F3 2 6A;\
    1D4F4 2 6B;1D4F5 2 6C;1D4F6 2 6D;1D4F7 2 6E;1D4F8 2 6F;1D4F9 2 70;1D4FA 2 71;1D4FB 2 72;1D4FC 2 73;1D4FD 2 74;\
    1D4FE 2 75;1D4FF 2 76;1D500 2 77;1D501 2 78;1D502 2 79;1D503 2 7A;1D504 2 41;1D505 2 42;1D507 2 44;1D508 2 45;\
    1D509 2 46;1D50A 2 47;1D50D 2 4A;1D50E 2 4B;1D50F 2 4C;1D510 2 4D;1D511 2 4E;1D512 2 4F;1D513 2 50;1D514 2 51;\
    1D516 2 53;1D517 2 54;1D518 2 55;1D519 2 56;1D51A 2 57;1D51B 2 58;1D51C 2 59;1D51E 2 61;1D51F 2 62;1D520 2 63;\
    1D521 2 64;1D522 2 65;1D523 2 66;1D524 2 67;1D525 2 68;1D526 2 69;1D527 2 6A;1D528 2 6B;1D529 2 6C;1D52A 2 6D;\
    1D52B 2 6E;1D52C 2 6F;1D52D 2 70;1D52E 2 71;1D52F 2 72;1D530 2 73;1D531 2 74;1D532 2 75;1D533 2 76;1D534 2 77;\
    1D535 2 78;1D536 2 79;1D537 2 7A;1D538 2 41;1D539 2 42;1D53B 2 44;1D53C 2 45;1D53D 2 46;1D53E 2 47;1D540 2 49;\
    1D541 2 4A;1D542 2 4B;1D543 2 4C;1D544 2 4D;1D546 2 4F;1D54A 2 53;1D54B 2 54;1D54C 2 55;1D54D 2 56;1D54E 2 57;\
    1D54F 2 58;1D550 2 59;1D552 2 61;1D553 2 62;1D554 2 63;1D555 2 64;1D556 2 65;1D557 2 66;1D558 2 67;1D559 2 68;\
    1D55A 2 69;1D55B 2 6A;1D55C 2 6B;1D55D 2 6C;1D55E 2 6D;1D55F 2 6E;1D560 2 6F;1D561 2 70;1D562 2 71;1D563 2 72;\
    1D564 2 73;1D565 2 74;1D566 2 75;1D567 2 76;1D568 2 77;1D569 2 78;1D56A 2 79;1D56B 2 7A;1D56C 2 41;1D56D 2 42;\
    1D56E 2 43;1D56F 2 44;1D570 2 45;1D571 2 46;1D572 2 47;1D573 2 48;1D574 2 49;1D575 2 4A;1D576 2 4B;1D577 2 4C;\
    1D578 2 4D;1D579 2 4E;1D57A 2 4F;1D57B 2 50;1D57C 2 51;1D57D 2 52;1D57E 2 53;1D57F 2 54;1D580 2 55;1D581 2 56;\
    1D582 2 57;1D583 2 58;1D584 2 59;1D585 2 5A;1D586 2 61;1D587 2 62;1D588 2 63;1D589 2 64;1D58A 2 65;1D58B 2 66;\
    1D58C 2 67;1D58D 2 68;1D58E 2 69;1D58F 2 6A;1D590 2 6B;1D591 2 6C;1D592 2 6D;1D593 2 6E;1D594 2 6F;1D595 2 70;\
    1D596 2 71;1D597 2 72;1D598 2 73;1D599 2 74;1D59A 2 75;1D59B 2 76;1D59C 2 77;1D59D 2 78;1D59E 2 79;1D59F 2 7A;\
    1D5A0 2 41;1D5A1 2 42;1D5A2 2 43;1D5A3 2 44;1D5A4 2 45;1D5A5 2 46;1D5A6 2 47;1D5A7 2 48;1D5A8 2 49;1D5A9 2 4A;\
    1D5AA 2 4B;1D5AB 2 4C;1D5AC 2 4D;1D5AD 2 4E;1D5AE 2 4F;1D5AF 2 50;1D5B0 2 51;1D5B1 2 52;1D5B2 2 53;1D5B3 2 54;\
    1D5B4 2 55;1D5B5 2 56;1D5B6 2 57;1D5B7 2 58;1D5B8 2 59;1D5B9 2 5A;1D5BA 2 61;1D5BB 2 62;1D5BC 2 63;1D5BD 2 64;\
    1D5BE 2 65;1D5BF 2 66;1D5C0 2 67;1D5C1 2 68;1D5C2 2 69;1D5C3 2 6A;1D5C4 2 6B;1D5C5 2 6C;1D5C6 2 6D;1D5C7 2 6E;\
    1D5C8 2 6F;1D5C9 2 70;1D5CA 2 71;1D5CB 2 72;1D5CC 2 73;1D5CD 2 74;1D5CE 2 75;1D5CF 2 76;1D5D0 2 77;1D5D1 2 78;\
    1D5D2 2 79;1D5D3 2 7A;1D5D4 2 41;1D5D5 2 42;1D5D6 2 43;1D5D7 2 44;1D5D8 2 45;1D5D9 2 46;1D5DA 2 47;1D5DB 2 48;\
    1D5DC 2 49;1D5DD 2 4A;1D5DE 2 4B;1D5DF 2 4C;1D5E0 2 4D;1D5E1 2 4E;1D5E2 2 4F;1D5E3 2 50;1D5E4 2 51;1D5E5 2 52;\
    1D5E6 2 53;1D5E7 2 54;1D5E8 2 55;1D5E9 2 56;1D5EA 2 57;1D5EB 2 58;1D5EC 2 59;1D5ED 2 5A;1D5EE 2 61;1D5EF 2 62;\
    1D5F0 2 63;1D5F1 2 64;1D5F2 2 65;1D5F3 2 66;1D5F4 2 67;1D5F5 2 68;1D5F6 2 69;1D5F7 2 6A;1D5F8 2 6B;1D5F9 2 6C;\
    1D5FA 2 6D;1D5FB 2 6E;1D5FC 2 6F;1D5FD 2 70;1D5FE 2 71;1D5FF 2 72;1D600 2 73;1D601 2 74;1D602 2 75;1D603 2 76;\
    1D604 2 77;1D605 2 78;1D606 2 79;1D607 2 7A;1D608 2 41;1D609 2 42;1D60A 2 43;1D60B 2 44;1D60C 2 45;1D60D 2 46;\
    1D60E 2 47;1D60F 2 48;1D610 2 49;1D611 2 4A;1D612 2 4B;1D613 2 4C;1D614 2 4D;1D615 2 4E;1D616 2 4F;1D617 2 50;\
    1D618 2 51;1D619 2 52;1D61A 2 53;1D61B 2 54;1D61C 2 55;1D61D 2 56;1D61E 2 57;1D61F 2 58;1D620 2 59;1D621 2 5A;\
    1D622 2 61;1D623 2 62;1D624 2 63;1D625 2 64;1D626 2 65;1D627 2 66;1D628 2 67;1D629 2 68;1D62A 2 69;1D62B 2 6A;\
    1D62C 2 6B;1D62D 2 6C;1D62E 2 6D;1D62F 2 6E;1D630 2 6F;1D631 2 70;1D632 2 71;1D633 2 72;1D634 2 73;1D635 2 74;\
    1D636 2 75;1D637 2 76;1D638 2 77;1D639 2 78;1D63A 2 79;1D63B 2 7A;1D63C 2 41;1D63D 2 42;1D63E 2 43;1D63F 2 44;\
    1D640 2 45;1D641 2 46;1D642 2 47;1D643 2 48;1D644 2 49;1D645 2 4A;1D646 2 4B;1D647 2 4C;1D648 2 4D;1D649 2 4E;\
    1D64A 2 4F;1D64B 2 50;1D64C 2 51;1D64D 2 52;1D64E 2 53;1D64F 2 54;1D650 2 55;1D651 2 56;1D652 2 57;1D653 2 58;\
    1D654 2 59;1D655 2 5A;1D656 2 61;1D657 2 62;1D658 2 63;1D659 2 64;1D65A 2 65;1D65B 2 66;1D65C 2 67;1D65D 2 68;\
    1D65E 2 69;1D65F 2 6A;1D660 2 6B;1D661 2 6C;1D662 2 6D;1D663 2 6E;1D664 2 6F;1D665 2 70;1D666 2 71;1D667 2 72;\
    1D668 2 73;1D669 2 74;1D66A 2 75;1D66B 2 76;1D66C 2 77;1D66D 2 78;1D66E 2 79;1D66F 2 7A;1D670 2 41;1D671 2 42;\
    1D672 2 43;1D673 2 44;1D674 2 45;1D675 2 46;1D676 2 47;1D677 2 48;1D678 2 49;1D679 2 4A;1D67A 2 4B;1D67B 2 4C;\
    1D67C 2 4D;1D67D 2 4E;1D67E 2 4F;1D67F 2 50;1D680 2 51;1D681 2 52;1D682 2 53;1D683 2 54;1D684 2 55;1D685 2 56;\
    1D686 2 57;1D687 2 58;1D688 2 59;1D689 2 5A;1D68A 2 61;1D68B 2 62;1D68C 2 63;1D68D 2 64;1D68E 2 65;1D68F 2 66;\
    1D690 2 67;1D691 2 68;1D692 2 69;1D693 2 6A;1D694 2 6B;1D695 2 6C;1D696 2 6D;1D697 2 6E;1D698 2 6F;1D699 2 70;\
    1D69A 2 71;1D69B 2 72;1D69C 2 73;1D69D 2 74;1D69E 2 75;1D69F 2 76;1D6A0 2 77;1D6A1 2 78;1D6A2 2 79;1D6A3 2 7A;\
    1D6A4 2 131;1D6A5 2 237;1D6A8 2 391;1D6A9 2 392;1D6AA 2 393;1D6AB 2 394;1D6AC 2 395;1D6AD 2 396;1D6AE 2 397;\
    1D6AF 2 398;1D6B0 2 399;1D6B1 2 39A;1D6B2 2 39B;1D6B3 2 39C;1D6B4 2 39D;1D6B5 2 39E;1D6B6 2 39F;1D6B7 2 3A0;\
    1D6B8 2 3A1;1D6B9 2 3F4;1D6BA 2 3A3;1D6BB 2 3A4;1D6BC 2 3A5;1D6BD 2 3A6;1D6BE 2 3A7;1D6BF 2 3A8;1D6C0 2 3A9;\
    1D6C1 2 2207;1D6C2 2 3B1;1D6C3 2 3B2;1D6C4 2 3B3;1D6C5 2 3B4;1D6C6 2 3B5;1D6C7 2 3B6;1D6C8 2 3B7;1D6C9 2 3B8;\
    1D6CA 2 3B9;1D6CB 2 3BA;1D6CC 2 3BB;1D6CD 2 3BC;1D6CE 2 3BD;1D6CF 2 3BE;1D6D0 2 3BF;1D6D1 2 3C0;1D6D2 2 3C1;\
    1D6D3 2 3C2;1D6D4 2 3C3;1D6D5 2 3C4;1D6D6 2 3C5;1D6D7 2 3C6;1D6D8 2 3C7;1D6D9 2 3C8;1D6DA 2 3C9;1D6DB 2 2202;\
    1D6DC 2 3F5;1D6DD 2 3D1;1D6DE 2 3F0;1D6DF 2 3D5;1D6E0 2 3F1;1D6E1 2 3D6;1D6E2 2 391;1D6E3 2 392;1D6E4 2 393;\
    1D6E5 2 394;1D6E6 2 395;1D6E7 2 396;1D6E8 2 397;1D6E9 2 398;1D6EA 2 399;1D6EB 2 39A;1D6EC 2 39B;1D6ED 2 39C;\
    1D6EE 2 39D;1D6EF 2 39E;1D6F0 2 39F;1D6F1 2 3A0;1D6F2 2 3A1;1D6F3 2 3F4;1D6F4 2 3A3;1D6F5 2 3A4;1D6F6 2 3A5;\
    1D6F7 2 3A6;1D6F8 2 3A7;1D6F9 2 3A8;1D6FA 2 3A9;1D6FB 2 2207;1D6FC 2 3B1;1D6FD 2 3B2;1D6FE 2 3B3;1D6FF 2 3B4;\
    1D700 2 3B5;1D701 2 3B6;1D702 2 3B7;1D703 2 3B8;1D704 2 3B9;1D705 2 3BA;1D706 2 3BB;1D707 2 3BC;1D708 2 3BD;\
    1D709 2 3BE;1D70A 2 3BF;1D70B 2 3C0;1D70C 2 3C1;1D70D 2 3C2;1D70E 2 3C3;1D70F 2 3C4;1D710 2 3C5;1D711 2 3C6;\
    1D712 2 3C7;1D713 2 3C8;1D714 2 3C9;1D715 2 2202;1D716 2 3F5;1D717 2 3D1;1D718 2 3F0;1D719 2 3D5;1D71A 2 3F1;\
    1D71B 2 3D6;1D71C 2 391;1D71D 2 392;1D71E 2 393;1D71F 2 394;1D720 2 395;1D721 2 396;1D722 2 397;1D723 2 398;\
    1D724 2 399;1D725 2 39A;1D726 2 39B;1D727 2 39C;1D728 2 39D;1D729 2 39E;1D72A 2 39F;1D72B 2 3A0;1D72C 2 3A1;\
    1D72D 2 3F4;1D72E 2 3A3;1D72F 2 3A4;1D730 2 3A5;1D731 2 3A6;1D732 2 3A7;1D733 2 3A8;1D734 2 3A9;1D735 2 2207;\
    1D736 2 3B1;1D737 2 3B2;1D738 2 3B3;1D739 2 3B4;1D73A 2 3B5;1D73B 2 3B6;1D73C 2 3B7;1D73D 2 3B8;1D73E 2 3B9;\
    1D73F 2 3BA;1D740 2 3BB;1D741 2 3BC;1D742 2 3BD;1D743 2 3BE;1D744 2 3BF;1D745 2 3C0;1D746 2 3C1;1D747 2 3C2;\
    1D748 2 3C3;1D749 2 3C4;1D74A 2 3C5;1D74B 2 3C6;1D74C 2 3C7;1D74D 2 3C8;1D74E 2 3C9;1D74F 2 2202;1D750 2 3F5;\
    1D751 2 3D1;1D752 2 3F0;1D753 2 3D5;1D754 2 3F1;1D755 2 3D6;1D756 2 391;1D757 2 392;1D758 2 393;1D759 2 394;\
    1D75A 2 395;1D75B 2 396;1D75C 2 397;1D75D 2 398;1D75E 2 399;1D75F 2 39A;1D760 2 39B;1D761 2 39C;1D762 2 39D;\
    1D763 2 39E;1D764 2 39F;1D765 2 3A0;1D766 2 3A1;1D767 2 3F4;1D768 2 3A3;1D769 2 3A4;1D76A 2 3A5;1D76B 2 3A6;\
    1D76C 2 3A7;1D76D 2 3A8;1D76E 2 3A9;1D76F 2 2207;1D770 2 3B1;1D771 2 3B2;1D772 2 3B3;1D773 2 3B4;1D774 2 3B5;\
    1D775 2 3B6;1D776 2 3B7;1D777 2 3B8;1D778 2 3B9;1D779 2 3BA;1D77A 2 3BB;1D77B 2 3BC;1D77C 2 3BD;1D77D 2 3BE;\
    1D77E 2 3BF;1D77F 2 3C0;1D780 2 3C1;1D781 2 3C2;1D782 2 3C3;1D783 2 3C4;1D784 2 3C5;1D785 2 3C6;1D786 2 3C7;\
    1D787 2 3C8;1D788 2 3C9;1D789 2 2202;1D78A 2 3F5;1D78B 2 3D1;1D78C 2 3F0;1D78D 2 3D5;1D78E 2 3F1;1D78F 2 3D6;\
    1D790 2 391;1D791 2 392;1D792 2 393;1D793 2 394;1D794 2 395;1D795 2 396;1D796 2 397;1D797 2 398;1D798 2 399;\
    1D799 2 39A;1D79A 2 39B;1D79B 2 39C;1D79C 2 39D;1D79D 2 39E;1D79E 2 39F;1D79F 2 3A0;1D7A0 2 3A1;1D7A1 2 3F4;\
    1D7A2 2 3A3;1D7A3 2 3A4;1D7A4 2 3A5;1D7A5 2 3A6;1D7A6 2 3A7;1D7A7 2 3A8;1D7A8 2 3A9;1D7A9 2 2207;1D7AA 2 3B1;\
    1D7AB 2 3B2;1D7AC 2 3B3;1D7AD 2 3B4;1D7AE 2 3B5;1D7AF 2 3B6;1D7B0 2 3B7;1D7B1 2 3B8;1D7B2 2 3B9;1D7B3 2 3BA;\
    1D7B4 2 3BB;1D7B5 2 3BC;1D7B6 2 3BD;1D7B7 2 3BE;1D7B8 2 3BF;1D7B9 2 3C0;1D7BA 2 3C1;1D7BB 2 3C2;1D7BC 2 3C3;\
    1D7BD 2 3C4;1D7BE 2 3C5;1D7BF 2 3C6;1D7C0 2 3C7;1D7C1 2 3C8;1D7C2 2 3C9;1D7C3 2 2202;1D7C4 2 3F5;1D7C5 2 3D1;\
    1D7C6 2 3F0;1D7C7 2 3D5;1D7C8 2 3F1;1D7C9 2 3D6;1D7CA 2 3DC;1D7CB 2 3DD;1D7CE 2 30;1D7CF 2 31;1D7D0 2 32;\
    1D7D1 2 33;1D7D2 2 34;1D7D3 2 35;1D7D4 2 36;1D7D5 2 37;1D7D6 2 38;1D7D7 2 39;1D7D8 2 30;1D7D9 2 31;1D7DA 2 32;\
    1D7DB 2 33;1D7DC 2 34;1D7DD 2 35;1D7DE 2 36;1D7DF 2 37;1D7E0 2 38;1D7E1 2 39;1D7E2 2 30;1D7E3 2 31;1D7E4 2 32;\
    1D7E5 2 33;1D7E6 2 34;1D7E7 2 35;1D7E8 2 36;1D7E9 2 37;1D7EA 2 38;1D7EB 2 39;1D7EC 2 30;1D7ED 2 31;1D7EE 2 32;\
    1D7EF 2 33;1D7F0 2 34;1D7F1 2 35;1D7F2 2 36;1D7F3 2 37;1D7F4 2 38;1D7F5 2 39;1D7F6 2 30;1D7F7 2 31;1D7F8 2 32;\
    1D7F9 2 33;1D7FA 2 34;1D7FB 2 35;1D7FC 2 36;1D7FD 2 37;1D7FE 2 38;1D7FF 2 39;1E030 2 430;1E031 2 431;\
    1E032 2 432;1E033 2 433;1E034 2 434;1E035 2 435;1E036 2 436;1E037 2 437;1E038 2 438;1E039 2 43A;1E03A 2 43B;\
    1E03B 2 43C;1E03C 2 43E;1E03D 2 43F;1E03E 2 440;1E03F 2 441;1E040 2 442;1E041 2 443;1E042 2 444;1E043 2 445;\
    1E044 2 446;1E045 2 447;1E046 2 448;1E047 2 44B;1E048 2 44D;1E049 2 44E;1E04A 2 A689;1E04B 2 4D9;1E04C 2 456;\
    1E04D 2 458;1E04E 2 4E9;1E04F 2 4AF;1E050 2 4CF;1E051 2 430;1E052 2 431;1E053 2 432;1E054 2 433;1E055 2 434;\
    1E056 2 435;1E057 2 436;1E058 2 437;1E059 2 438;1E05A 2 43A;1E05B 2 43B;1E05C 2 43E;1E05D 2 43F;1E05E 2 441;\
    1E05F 2 443;1E060 2 444;1E061 2 445;1E062 2 446;1E063 2 447;1E064 2 448;1E065 2 44A;1E066 2 44B;1E067 2 491;\
    1E068 2 456;1E069 2 455;1E06A 2 45F;1E06B 2 4AB;1E06C 2 A651;1E06D 2 4B1;1EE00 2 627;1EE01 2 628;1EE02 2 62C;\
    1EE03 2 62F;1EE05 2 648;1EE06 2 632;1EE07 2 62D;1EE08 2 637;1EE09 2 64A;1EE0A 2 643;1EE0B 2 644;1EE0C 2 645;\
    1EE0D 2 646;1EE0E 2 633;1EE0F 2 639;1EE10 2 641;1EE11 2 635;1EE12 2 642;1EE13 2 631;1EE14 2 634;1EE15 2 62A;\
    1EE16 2 62B;1EE17 2 62E;1EE18 2 630;1EE19 2 636;1EE1A 2 638;1EE1B 2 63A;1EE1C 2 66E;1EE1D 2 6BA;1EE1E 2 6A1;\
    1EE1F 2 66F;1EE21 2 628;1EE22 2 62C;1EE24 2 647;1EE27 2 62D;1EE29 2 64A;1EE2A 2 643;1EE2B 2 644;1EE2C 2 645;\
    1EE2D 2 646;1EE2E 2 633;1EE2F 2 639;1EE30 2 641;1EE31 2 635;1EE32 2 642;1EE34 2 634;1EE35 2 62A;1EE36 2 62B;\
    1EE37 2 62E;1EE39 2 636;1EE3B 2 63A;1EE42 2 62C;1EE47 2 62D;1EE49 2 64A;1EE4B 2 644;1EE4D 2 646;1EE4E 2 633;\
    1EE4F 2 639;1EE51 2 635;1EE52 2 642;1EE54 2 634;1EE57 2 62E;1EE59 2 636;1EE5B 2 63A;1EE5D 2 6BA;1EE5F 2 66F;\
    1EE61 2 628;1EE62 2 62C;1EE64 2 647;1EE67 2 62D;1EE68 2 637;1EE69 2 64A;1EE6A 2 643;1EE6C 2 645;1EE6D 2 646;\
    1EE6E 2 633;1EE6F 2 639;1EE70 2 641;1EE71 2 635;1EE72 2 642;1EE74 2 634;1EE75 2 62A;1EE76 2 62B;1EE77 2 62E;\
    1EE79 2 636;1EE7A 2 638;1EE7B 2 63A;1EE7C 2 66E;1EE7E 2 6A1;1EE80 2 627;1EE81 2 628;1EE82 2 62C;1EE83 2 62F;\
    1EE84 2 647;1EE85 2 648;1EE86 2 632;1EE87 2 62D;1EE88 2 637;1EE89 2 64A;1EE8B 2 644;1EE8C 2 645;1EE8D 2 646;\
    1EE8E 2 633;1EE8F 2 639;1EE90 2 641;1EE91 2 635;1EE92 2 642;1EE93 2 631;1EE94 2 634;1EE95 2 62A;1EE96 2 62B;\
    1EE97 2 62E;1EE98 2 630;1EE99 2 636;1EE9A 2 638;1EE9B 2 63A;1EEA1 2 628;1EEA2 2 62C;1EEA3 2 62F;1EEA5 2 648;\
    1EEA6 2 632;1EEA7 2 62D;1EEA8 2 637;1EEA9 2 64A;1EEAB 2 644;1EEAC 2 645;1EEAD 2 646;1EEAE 2 633;1EEAF 2 639;\
    1EEB0 2 641;1EEB1 2 635;1EEB2 2 642;1EEB3 2 631;1EEB4 2 634;1EEB5 2 62A;1EEB6 2 62B;1EEB7 2 62E;1EEB8 2 630;\
    1EEB9 2 636;1EEBA 2 638;1EEBB 2 63A;1F100 2 30 2E;1F101 2 30 2C;1F102 2 31 2C;1F103 2 32 2C;1F104 2 33 2C;\
    1F105 2 34 2C;1F106 2 35 2C;1F107 2 36 2C;1F108 2 37 2C;1F109 2 38 2C;1F10A 2 39 2C;1F110 2 28 41 29;\
    1F111 2 28 42 29;1F112 2 28 43 29;1F113 2 28 44 29;1F114 2 28 45 29;1F115 2 28 46 29;1F116 2 28 47 29;\
    1F117 2 28 48 29;1F118 2 28 49 29;1F119 2 28 4A 29;1F11A 2 28 4B 29;1F11B 2 28 4C 29;1F11C 2 28 4D 29;\
    1F11D 2 28 4E 29;1F11E 2 28 4F 29;1F11F 2 28 50 29;1F120 2 28 51 29;1F121 2 28 52 29;1F122 2 28 53 29;\
    1F123 2 28 54 29;1F124 2 28 55 29;1F125 2 28 56 29;1F126 2 28 57 29;1F127 2 28 58 29;1F128 2 28 59 29;\
    1F129 2 28 5A 29;1F12A 2 3014 53 3015;1F12B 2 43;1F12C 2 52;1F12D 2 43 44;1F12E 2 57 5A;1F130 2 41;1F131 2 42;\
    1F132 2 43;1F133 2 44;1F134 2 45;1F135 2 46;1F136 2 47;1F137 2 48;1F138 2 49;1F139 2 4A;1F13A 2 4B;1F13B 2 4C;\
    1F13C 2 4D;1F13D 2 4E;1F13E 2 4F;1F13F 2 50;1F140 2 51;1F141 2 52;1F142 2 53;1F143 2 54;1F144 2 55;1F145 2 56;\
    1F146 2 57;1F147 2 58;1F148 2 59;1F149 2 5A;1F14A 2 48 56;1F14B 2 4D 56;1F14C 2 53 44;1F14D 2 53 53;\
    1F14E 2 50 50 56;1F14F 2 57 43;1F16A 2 4D 43;1F16B 2 4D 44;1F16C 2 4D 52;1F190 2 44 4A;1F200 2 307B 304B;\
    1F201 2 30B3 30B3;1F202 2 30B5;1F210 2 624B;1F211 2 5B57;1F212 2 53CC;1F213 2 30C7;1F214 2 4E8C;1F215 2 591A;\
    1F216 2 89E3;1F217 2 5929;1F218 2 4EA4;1F219 2 6620;1F21A 2 7121;1F21B 2 6599;1F21C 2 524D;1F21D 2 5F8C;\
    1F21E 2 518D;1F21F 2 65B0;1F220 2 521D;1F221 2 7D42;1F222 2 751F;1F223 2 8CA9;1F224 2 58F0;1F225 2 5439;\
    1F226 2 6F14;1F227 2 6295;1F228 2 6355;1F229 2 4E00;1F22A 2 4E09;1F22B 2 904A;1F22C 2 5DE6;1F22D 2 4E2D;\
    1F22E 2 53F3;1F22F 2 6307;1F230 2 8D70;1F231 2 6253;1F232 2 7981;1F233 2 7A7A;1F234 2 5408;1F235 2 6E80;\
    1F236 2 6709;1F237 2 6708;1F238 2 7533;1F239 2 5272;1F23A 2 55B6;1F23B 2 914D;1F240 2 3014 672C 3015;\
    1F241 2 3014 4E09 3015;1F242 2 3014 4E8C 3015;1F243 2 3014 5B89 3015;1F244 2 3014 70B9 3015;\
    1F245 2 3014 6253 3015;1F246 2 3014 76D7 3015;1F247 2 3014 52DD 3015;1F248 2 3014 6557 3015;1F250 2 5F97;\
    1F251 2 53EF;1FBF0 2 30;1FBF1 2 31;1FBF2 2 32;1FBF3 2 33;1FBF4 2 34;1FBF5 2 35;1FBF6 2 36;1FBF7 2 37;1FBF8 2 38;\
    1FBF9 2 39;2F800 1 4E3D;2F801 1 4E38;2F802 1 4E41;2F803 1 20122;2F804 1 4F60;2F805 1 4FAE;2F806 1 4FBB;\
    2F807 1 5002;2F808 1 507A;2F809 1 5099;2F80A 1 50E7;2F80B 1 50CF;2F80C 1 349E;2F80D 1 2063A;2F80E 1 514D;\
    2F80F 1 5154;2F810 1 5164;2F811 1 5177;2F812 1 2051C;2F813 1 34B9;2F814 1 5167;2F815 1 518D;2F816 1 2054B;\
    2F817 1 5197;2F818 1 51A4;2F819 1 4ECC;2F81A 1 51AC;2F81B 1 51B5;2F81C 1 291DF;2F81D 1 51F5;2F81E 1 5203;\
    2F81F 1 34DF;2F820 1 523B;2F821 1 5246;2F822 1 5272;2F823 1 5277;2F824 1 3515;2F825 1 52C7;2F826 1 52C9;\
    2F827 1 52E4;2F828 1 52FA;2F829 1 5305;2F82A 1 5306;2F82B 1 5317;2F82C 1 5349;2F82D 1 5351;2F82E 1 535A;\
    2F82F 1 5373;2F830 1 537D;2F831 1 537F;2F832 1 537F;2F833 1 537F;2F834 1 20A2C;2F835 1 7070;2F836 1 53CA;\
    2F837 1 53DF;2F838 1 20B63;2F839 1 53EB;2F83A 1 53F1;2F83B 1 5406;2F83C 1 549E;2F83D 1 5438;2F83E 1 5448;\
    2F83F 1 5468;2F840 1 54A2;2F841 1 54F6;2F842 1 5510;2F843 1 5553;2F844 1 5563;2F845 1 5584;2F846 1 5584;\
    2F847 1 5599;2F848 1 55AB;2F849 1 55B3;2F84A 1 55C2;2F84B 1 5716;2F84C 1 5606;2F84D 1 5717;2F84E 1 5651;\
    2F84F 1 5674;2F850 1 5207;2F851 1 58EE;2F852 1 57CE;2F853 1 57F4;2F854 1 580D;2F855 1 578B;2F856 1 5832;\
    2F857 1 5831;2F858 1 58AC;2F859 1 214E4;2F85A 1 58F2;2F85B 1 58F7;2F85C 1 5906;2F85D 1 591A;2F85E 1 5922;\
    2F85F 1 5962;2F860 1 216A8;2F861 1 216EA;2F862 1 59EC;2F863 1 5A1B;2F864 1 5A27;2F865 1 59D8;2F866 1 5A66;\
    2F867 1 36EE;2F868 1 36FC;2F869 1 5B08;2F86A 1 5B3E;2F86B 1 5B3E;2F86C 1 219C8;2F86D 1 5BC3;2F86E 1 5BD8;\
    2F86F 1 5BE7;2F870 1 5BF3;2F871 1 21B18;2F872 1 5BFF;2F873 1 5C06;2F874 1 5F53;2F875 1 5C22;2F876 1 3781;\
    2F877 1 5C60;2F878 1 5C6E;2F879 1 5CC0;2F87A 1 5C8D;2F87B 1 21DE4;2F87C 1 5D43;2F87D 1 21DE6;2F87E 1 5D6E;\
    2F87F 1 5D6B;2F880 1 5D7C;2F881 1 5DE1;2F882 1 5DE2;2F883 1 382F;2F884 1 5DFD;2F885 1 5E28;2F886 1 5E3D;\
    2F887 1 5E69;2F888 1 3862;2F889 1 22183;2F88A 1 387C;2F88B 1 5EB0;2F88C 1 5EB3;2F88D 1 5EB6;2F88E 1 5ECA;\
    2F88F 1 2A392;2F890 1 5EFE;2F891 1 22331;2F892 1 22331;2F893 1 8201;2F894 1 5F22;2F895 1 5F22;2F896 1 38C7;\
    2F897 1 232B8;2F898 1 261DA;2F899 1 5F62;2F89A 1 5F6B;2F89B 1 38E3;2F89C 1 5F9A;2F89D 1 5FCD;2F89E 1 5FD7;\
    2F89F 1 5FF9;2F8A0 1 6081;2F8A1 1 393A;2F8A2 1 391C;2F8A3 1 6094;2F8A4 1 226D4;2F8A5 1 60C7;2F8A6 1 6148;\
    2F8A7 1 614C;2F8A8 1 614E;2F8A9 1 614C;2F8AA 1 617A;2F8AB 1 618E;2F8AC 1 61B2;2F8AD 1 61A4;2F8AE 1 61AF;\
    2F8AF 1 61DE;2F8B0 1 61F2;2F8B1 1 61F6;2F8B2 1 6210;2F8B3 1 621B;2F8B4 1 625D;2F8B5 1 62B1;2F8B6 1 62D4;\
    2F8B7 1 6350;2F8B8 1 22B0C;2F8B9 1 633D;2F8BA 1 62FC;2F8BB 1 6368;2F8BC 1 6383;2F8BD 1 63E4;2F8BE 1 22BF1;\
    2F8BF 1 6422;2F8C0 1 63C5;2F8C1 1 63A9;2F8C2 1 3A2E;2F8C3 1 6469;2F8C4 1 647E;2F8C5 1 649D;2F8C6 1 6477;\
    2F8C7 1 3A6C;2F8C8 1 654F;2F8C9 1 656C;2F8CA 1 2300A;2F8CB 1 65E3;2F8CC 1 66F8;2F8CD 1 6649;2F8CE 1 3B19;\
    2F8CF 1 6691;2F8D0 1 3B08;2F8D1 1 3AE4;2F8D2 1 5192;2F8D3 1 5195;2F8D4 1 6700;2F8D5 1 669C;2F8D6 1 80AD;\
    2F8D7 1 43D9;2F8D8 1 6717;2F8D9 1 671B;2F8DA 1 6721;2F8DB 1 675E;2F8DC 1 6753;2F8DD 1 233C3;2F8DE 1 3B49;\
    2F8DF 1 67FA;2F8E0 1 6785;2F8E1 1 6852;2F8E2 1 6885;2F8E3 1 2346D;2F8E4 1 688E;2F8E5 1 681F;2F8E6 1 6914;\
    2F8E7 1 3B9D;2F8E8 1 6942;2F8E9 1 69A3;2F8EA 1 69EA;2F8EB 1 6AA8;2F8EC 1 236A3;2F8ED 1 6ADB;2F8EE 1 3C18;\
    2F8EF 1 6B21;2F8F0 1 238A7;2F8F1 1 6B54;2F8F2 1 3C4E;2F8F3 1 6B72;2F8F4 1 6B9F;2F8F5 1 6BBA;2F8F6 1 6BBB;\
    2F8F7 1 23A8D;2F8F8 1 21D0B;2F8F9 1 23AFA;2F8FA 1 6C4E;2F8FB 1 23CBC;2F8FC 1 6CBF;2F8FD 1 6CCD;2F8FE 1 6C67;\
    2F8FF 1 6D16;2F900 1 6D3E;2F901 1 6D77;2F902 1 6D41;2F903 1 6D69;2F904 1 6D78;2F905 1 6D85;2F906 1 23D1E;\
    2F907 1 6D34;2F908 1 6E2F;2F909 1 6E6E;2F90A 1 3D33;2F90B 1 6ECB;2F90C 1 6EC7;2F90D 1 23ED1;2F90E 1 6DF9;\
    2F90F 1 6F6E;2F910 1 23F5E;2F911 1 23F8E;2F912 1 6FC6;2F913 1 7039;2F914 1 701E;2F915 1 701B;2F916 1 3D96;\
    2F917 1 704A;2F918 1 707D;2F919 1 7077;2F91A 1 70AD;2F91B 1 20525;2F91C 1 7145;2F91D 1 24263;2F91E 1 719C;\
    2F91F 1 243AB;2F920 1 7228;2F921 1 7235;2F922 1 7250;2F923 1 24608;2F924 1 7280;2F925 1 7295;2F926 1 24735;\
    2F927 1 24814;2F928 1 737A;2F929 1 738B;2F92A 1 3EAC;2F92B 1 73A5;2F92C 1 3EB8;2F92D 1 3EB8;2F92E 1 7447;\
    2F92F 1 745C;2F930 1 7471;2F931 1 7485;2F932 1 74CA;2F933 1 3F1B;2F934 1 7524;2F935 1 24C36;2F936 1 753E;\
    2F937 1 24C92;2F938 1 7570;2F939 1 2219F;2F93A 1 7610;2F93B 1 24FA1;2F93C 1 24FB8;2F93D 1 25044;2F93E 1 3FFC;\
    2F93F 1 4008;2F940 1 76F4;2F941 1 250F3;2F942 1 250F2;2F943 1 25119;2F944 1 25133;2F945 1 771E;2F946 1 771F;\
    2F947 1 771F;2F948 1 774A;2F949 1 4039;2F94A 1 778B;2F94B 1 4046;2F94C 1 4096;2F94D 1 2541D;2F94E 1 784E;\
    2F94F 1 788C;2F950 1 78CC;2F951 1 40E3;2F952 1 25626;2F953 1 7956;2F954 1 2569A;2F955 1 256C5;2F956 1 798F;\
    2F957 1 79EB;2F958 1 412F;2F959 1 7A40;2F95A 1 7A4A;2F95B 1 7A4F;2F95C 1 2597C;2F95D 1 25AA7;2F95E 1 25AA7;\
    2F95F 1 7AEE;2F960 1 4202;2F961 1 25BAB;2F962 1 7BC6;2F963 1 7BC9;2F964 1 4227;2F965 1 25C80;2F966 1 7CD2;\
    2F967 1 42A0;2F968 1 7CE8;2F969 1 7CE3;2F96A 1 7D00;2F96B 1 25F86;2F96C 1 7D63;2F96D 1 4301;2F96E 1 7DC7;\
    2F96F 1 7E02;2F970 1 7E45;2F971 1 4334;2F972 1 26228;2F973 1 26247;2F974 1 4359;2F975 1 262D9;2F976 1 7F7A;\
    2F977 1 2633E;2F978 1 7F95;2F979 1 7FFA;2F97A 1 8005;2F97B 1 264DA;2F97C 1 26523;2F97D 1 8060;2F97E 1 265A8;\
    2F97F 1 8070;2F980 1 2335F;2F981 1 43D5;2F982 1 80B2;2F983 1 8103;2F984 1 440B;2F985 1 813E;2F986 1 5AB5;\
    2F987 1 267A7;2F988 1 267B5;2F989 1 23393;2F98A 1 2339C;2F98B 1 8201;2F98C 1 8204;2F98D 1 8F9E;2F98E 1 446B;\
    2F98F 1 8291;2F990 1 828B;2F991 1 829D;2F992 1 52B3;2F993 1 82B1;2F994 1 82B3;2F995 1 82BD;2F996 1 82E6;\
    2F997 1 26B3C;2F998 1 82E5;2F999 1 831D;2F99A 1 8363;2F99B 1 83AD;2F99C 1 8323;2F99D 1 83BD;2F99E 1 83E7;\
    2F99F 1 8457;2F9A0 1 8353;2F9A1 1 83CA;2F9A2 1 83CC;2F9A3 1 83DC;2F9A4 1 26C36;2F9A5 1 26D6B;2F9A6 1 26CD5;\
    2F9A7 1 452B;2F9A8 1 84F1;2F9A9 1 84F3;2F9AA 1 8516;2F9AB 1 273CA;2F9AC 1 8564;2F9AD 1 26F2C;2F9AE 1 455D;\
    2F9AF 1 4561;2F9B0 1 26FB1;2F9B1 1 270D2;2F9B2 1 456B;2F9B3 1 8650;2F9B4 1 865C;2F9B5 1 8667;2F9B6 1 8669;\
    2F9B7 1 86A9;2F9B8 1 8688;2F9B9 1 870E;2F9BA 1 86E2;2F9BB 1 8779;2F9BC 1 8728;2F9BD 1 876B;2F9BE 1 8786;\
    2F9BF 1 45D7;2F9C0 1 87E1;2F9C1 1 8801;2F9C2 1 45F9;2F9C3 1 8860;2F9C4 1 8863;2F9C5 1 27667;2F9C6 1 88D7;\
    2F9C7 1 88DE;2F9C8 1 4635;2F9C9 1 88FA;2F9CA 1 34BB;2F9CB 1 278AE;2F9CC 1 27966;2F9CD 1 46BE;2F9CE 1 46C7;\
    2F9CF 1 8AA0;2F9D0 1 8AED;2F9D1 1 8B8A;2F9D2 1 8C55;2F9D3 1 27CA8;2F9D4 1 8CAB;2F9D5 1 8CC1;2F9D6 1 8D1B;\
    2F9D7 1 8D77;2F9D8 1 27F2F;2F9D9 1 20804;2F9DA 1 8DCB;2F9DB 1 8DBC;2F9DC 1 8DF0;2F9DD 1 208DE;2F9DE 1 8ED4;\
    2F9DF 1 8F38;2F9E0 1 285D2;2F9E1 1 285ED;2F9E2 1 9094;2F9E3 1 90F1;2F9E4 1 9111;2F9E5 1 2872E;2F9E6 1 911B;\
    2F9E7 1 9238;2F9E8 1 92D7;2F9E9 1 92D8;2F9EA 1 927C;2F9EB 1 93F9;2F9EC 1 9415;2F9ED 1 28BFA;2F9EE 1 958B;\
    2F9EF 1 4995;2F9F0 1 95B7;2F9F1 1 28D77;2F9F2 1 49E6;2F9F3 1 96C3;2F9F4 1 5DB2;2F9F5 1 9723;2F9F6 1 29145;\
    2F9F7 1 2921A;2F9F8 1 4A6E;2F9F9 1 4A76;2F9FA 1 97E0;2F9FB 1 2940A;2F9FC 1 4AB2;2F9FD 1 29496;2F9FE 1 980B;\
    2F9FF 1 980B;2FA00 1 9829;2FA01 1 295B6;2FA02 1 98E2;2FA03 1 4B33;2FA04 1 9929;2FA05 1 99A7;2FA06 1 99C2;\
    2FA07 1 99FE;2FA08 1 4BCE;2FA09 1 29B30;2FA0A 1 9B12;2FA0B 1 9C40;2FA0C 1 9CFD;2FA0D 1 4CCE;2FA0E 1 4CED;\
    2FA0F 1 9D67;2FA10 1 2A0CE;2FA11 1 4CF8;2FA12 1 2A105;2FA13 1 2A20E;2FA14 1 2A291;2FA15 1 9EBB;2FA16 1 4D56;\
    2FA17 1 9EF9;2FA18 1 9EFE;2FA19 1 9F05;2FA1A 1 9F0F;2FA1B 1 9F16;2FA1C 1 9F3B;2FA1D 1 2A600"

end Sys2Proof.Machine
end

