-- ==== Sys2Proof/Machine/Unicode.lean ====
section
/-! DEFINITION. What TXT takes from Unicode (11 R389, R390): the general category of a code point, and the
normalisation forms NFC and NFKC of Unicode Standard Annex #15. -/

namespace Sys2Proof.Machine

/-! ### Tables -/

def hexValue (c : Char) : Nat := if c.toNat < 58 then c.toNat - 48 else c.toNat - 55

/-- A text of records under way: the records read, the numbers of the next one, the number being read. -/
structure TableRead where
  rows : List (List Nat)
  row : List Nat
  num : Nat
  deriving DecidableEq, Repr

def TableRead.take (a : TableRead) (c : Char) : TableRead :=
  if c = ';' then ⟨(a.num :: a.row).reverse :: a.rows, [], 0⟩
  else if c = ' ' then ⟨a.rows, a.num :: a.row, 0⟩
  else { a with num := 16 * a.num + hexValue c }

/-- The records of a text: hexadecimal numbers parted by spaces, records by semicolons. -/
def tableOf (t : String) : List (List Nat) :=
  let a := t.toList.foldl TableRead.take ⟨[], [], 0⟩
  ((a.num :: a.row).reverse :: a.rows).reverse

/-- The value of the run that holds `c`. -/
def runValue (d : Nat) : List (List Nat) → Nat → Nat
  | [], _ => d
  | r :: rest, c => if c < r.getD 1 0 then r.getD 0 0 else runValue d rest (c - r.getD 1 0)

/-- The category index of a code point (11 R390); 29 is Cn. -/
def categoryOf (c : Nat) : Nat := runValue 29 (tableOf unicodeCategories) c

/-- The tables that normalisation uses: combining classes, decompositions. -/
structure NormData where
  classes : List (List Nat)
  maps : List (List Nat)

def normData : NormData := ⟨tableOf unicodeClasses, tableOf unicodeDecompositions⟩

def NormData.ccc (u : NormData) (c : Nat) : Nat := runValue 0 u.classes c

/-! ### Decomposition -/

/-- A Hangul syllable's parts. -/
def hangulParts (c : Nat) : List Nat :=
  let i := c - 0xAC00
  [0x1100 + i / 588, 0x1161 + i % 588 / 28] ++ (if i % 28 = 0 then [] else [0x11A7 + i % 28])

/-- The full decomposition of a code point; `fuel` bounds the steps of a mapping. -/
def NormData.decompose (u : NormData) (compat : Bool) : Nat → Nat → List Nat
  | 0, c => [c]
  | fuel + 1, c =>
    if 0xAC00 ≤ c ∧ c ≤ 0xD7A3 then hangulParts c
    else match u.maps.find? fun r => r.head? == some c with
      | some r => if r.getD 1 0 = 2 ∧ !compat then [c] else (r.drop 2).flatMap (u.decompose compat fuel)
      | none => [c]

/-- Put a code point behind those that are written, newest first, in canonical order. -/
def NormData.place (u : NormData) (x : Nat) : List Nat → List Nat
  | [] => [x]
  | y :: r => if u.ccc x ≠ 0 ∧ u.ccc x < u.ccc y then y :: u.place x r else x :: y :: r

def NormData.order (u : NormData) (l : List Nat) : List Nat := (l.foldl (fun a x => u.place x a) []).reverse

/-! ### Composition -/

/-- The primary composite of a starter and a code point after it. -/
def NormData.pair (u : NormData) (s c : Nat) : Option Nat :=
  if 0x1100 ≤ s ∧ s < 0x1113 ∧ 0x1161 ≤ c ∧ c < 0x1176 then some (0xAC00 + ((s - 0x1100) * 21 + (c - 0x1161)) * 28)
  else if 0xAC00 ≤ s ∧ s ≤ 0xD7A3 ∧ (s - 0xAC00) % 28 = 0 ∧ 0x11A7 < c ∧ c < 0x11C3 then some (s + (c - 0x11A7))
  else ((u.maps.find? fun r => r.drop 1 == [0, s, c]).bind List.head?)

/-- Composition under way: what is finished and what follows the last starter, both newest first, and the starter. -/
structure Composing where
  done : List Nat
  starter : Option Nat
  marks : List Nat
  deriving DecidableEq, Repr

def Composing.all (a : Composing) : List Nat := a.marks ++ a.starter.toList ++ a.done

/-- One more code point: it composes with the last starter unless a mark between blocks it. -/
def NormData.compose1 (u : NormData) (a : Composing) (c : Nat) : Composing :=
  let blocked := a.marks.head?.any fun m => decide (u.ccc c ≤ u.ccc m)
  match (if blocked then none else a.starter.bind fun s => u.pair s c) with
  | some p => { a with starter := some p }
  | none =>
    if u.ccc c = 0 then ⟨a.all, some c, []⟩
    else if a.starter.isSome then { a with marks := c :: a.marks }
    else { a with done := c :: a.done }

/-- NFC of a run of code points, or NFKC where `compat` (11 R389). -/
def NormData.normalise (u : NormData) (compat : Bool) (l : List Nat) : List Nat :=
  ((u.order (l.flatMap (u.decompose compat 32))).foldl u.compose1 ⟨[], none, []⟩).all.reverse

end Sys2Proof.Machine
end

