-- ==== Sys2Proof/Machine/TextIn.lean ====
section
/-! DEFINITION. From input text to token IDs: vocabularies (11 R384, R385), UTF-8 (R386 to R388), normalisation
and pre-tokens (R389 to R391), and the two token algorithms (R392, R393). -/

namespace Sys2Proof.Machine

/-! ### UTF-8 (11 R386) -/

/-- Length of the sequence that a first byte begins; 0 for a byte that begins none. -/
def utf8Len (b : Nat) : Nat :=
  if b < 0x80 then 1 else if 0xC2 ≤ b ∧ b ≤ 0xDF then 2 else if 0xE0 ≤ b ∧ b ≤ 0xEF then 3
  else if 0xF0 ≤ b ∧ b ≤ 0xF4 then 4 else 0

/-- Range of the second byte after a first byte. -/
def secondRange (b : Nat) : Nat × Nat :=
  if b = 0xE0 then (0xA0, 0xBF) else if b = 0xED then (0x80, 0x9F) else if b = 0xF0 then (0x90, 0xBF)
  else if b = 0xF4 then (0x80, 0x8F) else (0x80, 0xBF)

/-- Continuation bytes in front of a list, at most `n`; the first of them in range `lo` to `hi`. -/
def contBytes (n lo hi : Nat) (l : List Byte) : Nat :=
  match n, l with
  | 0, _ => 0
  | _, [] => 0
  | n + 1, b :: r => if lo ≤ b.toNat ∧ b.toNat ≤ hi then 1 + contBytes n 0x80 0xBF r else 0

/-- What stands in front of a byte list. -/
inductive Utf8 where
  /-- A well-formed sequence of `n` bytes. -/
  | good (cp n : Nat)
  /-- A maximal subpart of `n` bytes that cannot become well-formed. -/
  | bad (n : Nat)
  /-- All that is left: a proper prefix of a well-formed sequence. -/
  | tail
  deriving DecidableEq, Repr

/-- The code point of a well-formed sequence. -/
def codePoint (l : List Byte) : Nat :=
  match l.map (·.toNat) with
  | [a] => a
  | [a, b] => a % 32 * 64 + b % 64
  | [a, b, c] => a % 16 * 4096 + b % 64 * 64 + c % 64
  | [a, b, c, d] => a % 8 * 262144 + b % 64 * 4096 + c % 64 * 64 + d % 64
  | _ => 0

def utf8Front (l : List Byte) : Utf8 :=
  match l with
  | [] => .tail
  | b :: r =>
    let n := utf8Len b.toNat
    if n = 0 then .bad 1
    else
      let (lo, hi) := secondRange b.toNat
      let k := contBytes (n - 1) lo hi r
      if k + 1 = n then .good (codePoint (l.take n)) n
      else if k = r.length then .tail
      else .bad (k + 1)

/-- The UTF-8 bytes of a code point. -/
def utf8Bytes (c : Nat) : List Byte :=
  let b := fun (n : Nat) => BitVec.ofNat 8 n
  if c < 0x80 then [b c]
  else if c < 0x800 then [b (0xC0 + c / 64), b (0x80 + c % 64)]
  else if c < 0x10000 then [b (0xE0 + c / 4096), b (0x80 + c / 64 % 64), b (0x80 + c % 64)]
  else [b (0xF0 + c / 262144), b (0x80 + c / 4096 % 64), b (0x80 + c / 64 % 64), b (0x80 + c % 64)]

def utf8Text (l : List Nat) : List Byte := l.flatMap utf8Bytes

/-- A part of the input: a run of code points, or a subpart resolved as invalid. -/
inductive InPart where
  | run (cps : List Nat)
  | invalid (bs : List Byte)
  deriving DecidableEq, Repr

def pushCp (acc : List InPart) (c : Nat) : List InPart :=
  match acc with
  | .run l :: r => .run (l ++ [c]) :: r
  | _ => .run [c] :: acc

/-- The parts of a byte list, latest first, and the bytes of a trailing prefix. -/
def inParts (fuel : Nat) (l : List Byte) (acc : List InPart) : List InPart × List Byte :=
  match fuel with
  | 0 => (acc, [])
  | fuel + 1 =>
    if l.isEmpty then (acc, [])
    else match utf8Front l with
      | .good c n => inParts fuel (l.drop n) (pushCp acc c)
      | .bad n => inParts fuel (l.drop n) (.invalid (l.take n) :: acc)
      | .tail => (acc, l)

/-! ### Vocabularies (11 R384) -/

/-- A vocabulary: the key of its buffer and its header. -/
structure Vocab where
  key : Nat
  algo : Nat
  norm : Nat
  size : Nat
  flags : Nat
  unk : Nat
  unkScore : F32
  hash : Word64
  index : Nat
  strOff : Nat
  strLen : Nat
  merge : Nat
  merges : Nat
  score : Nat
  bytemap : Nat
  classOf : List Nat
  classFlags : List Nat
  deriving DecidableEq, Repr

def Vocab.fallback (v : Vocab) : Bool := v.flags % 2 == 1
def Vocab.metaspace (v : Vocab) : Bool := v.flags / 2 % 2 == 1
def Vocab.addPrefix (v : Vocab) : Bool := v.flags / 4 % 2 == 1

def vocabOf (key : Nat) (h : List Byte) : Vocab :=
  let f := fieldOf h
  { key := key, algo := f 6 1, norm := f 7 1, size := f 8 4, flags := f 12 2, unk := f 16 4,
    unkScore := BitVec.ofNat 32 (f 20 4), hash := BitVec.ofNat 64 (f 24 8), index := f 32 4, strOff := f 36 4,
    strLen := f 40 4, merge := f 44 4, merges := f 48 4, score := f 52 4, bytemap := f 56 4,
    classOf := (List.range 30).map fun i => f (64 + i) 1,
    classFlags := (List.range 16).map fun i => f (96 + i) 1 }

/-- A section of `n` bytes at `off` in a region of `len`; one that the header marks as absent has offset 0. -/
def sectionOk (len off n : Nat) (present : Bool) : Bool :=
  if present then off != 0 && off % 8 == 0 && decide (off + n ≤ len) else off == 0

/-- The header satisfies 11 R384 in a region of `len` bytes. -/
def vocabHeaderOk (h : List Byte) (v : Vocab) (len : Nat) : Bool :=
  fieldOf h 0 4 == 0x4E4C5643 && fieldOf h 4 2 == 1 && decide (128 ≤ len) && decide (v.algo ≤ 1) &&
  decide (v.norm ≤ 2) && decide (1 ≤ v.size) && decide (v.size ≤ 262144) && decide (v.flags < 8) &&
  (!v.fallback || v.algo == 1) && zeroBytes h 14 16 && zeroBytes h 60 64 && zeroBytes h 94 96 &&
  zeroBytes h 112 128 && (if v.algo == 1 && !v.fallback then true else v.unk == 0xFFFFFFFF) &&
  decide (v.merges ≤ 262143) && v.classOf.all (fun c => decide (c < 16)) &&
  v.classFlags.all (fun c => c / 4 % 4 == 0) &&
  sectionOk len v.index (8 * v.size) true && sectionOk len v.strOff v.strLen (v.strLen != 0) &&
  sectionOk len v.merge (12 * v.merges) (v.algo == 0 && v.merges != 0) &&
  sectionOk len v.score (4 * v.size) (v.algo == 1) &&
  sectionOk len v.bytemap 1024 (v.algo == 0 || v.fallback)

/-- A token's string offset, length and flags. -/
def State.tokenEntry (s : State) (v : Vocab) (t : Nat) : Nat × Nat × Nat :=
  let k := v.key + v.index + 8 * t
  (s.loadNat k 4, s.loadNat (k + 4) 2, s.loadNat (k + 6) 2)

/-- The token is SPECIAL. -/
def State.special (s : State) (v : Vocab) (t : Nat) : Bool := (s.tokenEntry v t).2.2 % 2 == 1

/-- The string of a token that is not SPECIAL; an error carries the offending ID (11 R385). -/
def State.tokenString (s : State) (v : Vocab) (t : Nat) : Except Nat (List Byte) :=
  if v.size ≤ t then .error t
  else
    let (o, n, f) := s.tokenEntry v t
    if f % 2 = 1 then .ok []
    else if n = 0 ∨ 256 < n ∨ v.strLen < o + n then .error t
    else .ok (s.load (v.key + v.strOff + o) n)

/-- The BYTEMAP token of a byte. -/
def State.byteToken (s : State) (v : Vocab) (b : Byte) : Except Nat Nat :=
  let t := s.loadNat (v.key + v.bytemap + 4 * b.toNat) 4
  if v.size ≤ t ∨ s.special v t then .error t else .ok t

/-- Collect the results of a list, or its first error. -/
def collect {α : Type} : List (Except Nat α) → Except Nat (List α)
  | [] => .ok []
  | .error e :: _ => .error e
  | .ok a :: r => match collect r with
    | .ok l => .ok (a :: l)
    | .error e => .error e

/-! ### Pre-tokens (11 R389 to R391) -/

def Vocab.cl (v : Vocab) (c : Nat) : Nat :=
  v.classOf.getD (if c = 10 ∨ c = 13 then 25 else categoryOf c) 0

def Vocab.clFlags (v : Vocab) (c : Nat) : Nat := v.classFlags.getD c 0

def Vocab.glue (v : Vocab) : Nat := if v.metaspace then 0x2581 else 0x20

/-- The glue character in front opens a run of the next class. -/
def glues (v : Vocab) : List Nat → Bool
  | a :: b :: _ => a == v.glue && v.cl b != v.cl a && v.clFlags (v.cl b) % 2 == 1
  | _ => false

/-- Code points that go on with a run of class `c` that holds `run` of them. -/
def runOn (v : Vocab) (c run : Nat) : List Nat → Nat
  | [] => 0
  | a :: r =>
    let mr := v.clFlags c / 16
    if v.cl a = c ∧ !glues v (a :: r) ∧ (mr = 0 ∨ run < mr) then 1 + runOn v c (run + 1) r else 0

/-- Length of the first pre-token (the loop body of `presplit`, 11 R390). -/
def firstPre (v : Vocab) (l : List Nat) : Nat :=
  match l with
  | [] => 0
  | a :: r =>
    let g := glues v (a :: r)
    let c := if g then v.cl (r.headD 0) else v.cl a
    let j := if g then 2 else 1
    if v.clFlags c / 2 % 2 = 1 then j else j + runOn v c 1 (l.drop j)

def presplit (v : Vocab) (fuel : Nat) (l : List Nat) : List (List Nat) :=
  match fuel with
  | 0 => []
  | fuel + 1 => if l.isEmpty then [] else l.take (firstPre v l) :: presplit v fuel (l.drop (firstPre v l))

/-- Code points of a list that fit in `room` bytes of UTF-8. -/
def fitting (room : Nat) : List Nat → Nat
  | [] => 0
  | c :: r => let n := (utf8Bytes c).length; if n ≤ room then 1 + fitting (room - n) r else 0

/-- A pre-token cut at 1,024 bytes (11 R391). -/
def cutPre (fuel : Nat) (l : List Nat) : List (List Byte) :=
  match fuel with
  | 0 => []
  | fuel + 1 =>
    let k := fitting 1024 l
    if l.length ≤ k then [utf8Text l] else utf8Text (l.take k) :: cutPre fuel (l.drop k)

/-- The code points of a run, normalised, with U+2581 for a space and in front of the first input (11 R389). -/
def Vocab.shape (v : Vocab) (run : List Nat) (first : Bool) : List Nat :=
  let l := if v.norm = 0 then run else normData.normalise (v.norm == 2) run
  let l := if v.metaspace then l.map fun c => if c = 0x20 then 0x2581 else c else l
  if first && v.metaspace && v.addPrefix && !l.isEmpty then 0x2581 :: l else l

/-- Bytes of a pre-token. -/
def Pre.size : Pre → Nat
  | .text bs => bs.length
  | .invalid bs => bs.length

/-- Pre-tokens of the parts of an input (11 R388, R390): with the number of cuts, and whether the first input
is still to open. -/
structure PreAcc where
  pres : List Pre
  cuts : Nat
  bad : Nat
  first : Bool
  /-- A run that waits for its end. -/
  open' : List Nat
  deriving DecidableEq, Repr

/-- The run that is open ends. -/
def PreAcc.flush (v : Vocab) (a : PreAcc) : PreAcc :=
  if a.open'.isEmpty then a
  else
    let l := v.shape a.open' a.first
    let ps := (presplit v (l.length + 1) l).map fun p => cutPre (p.length + 1) p
    { a with
      pres := a.pres ++ ps.flatten.map Pre.text, cuts := a.cuts + (ps.map fun p => p.length - 1).sum,
      first := a.first && l.isEmpty, open' := [] }

def PreAcc.part (v : Vocab) (a : PreAcc) (p : InPart) : PreAcc :=
  match p with
  | .run l => { a with open' := a.open' ++ l }
  | .invalid bs =>
    let a := { a with bad := a.bad + bs.length }
    if v.algo = 0 ∨ v.fallback then
      let a := a.flush v
      { a with pres := a.pres ++ bs.map fun b => Pre.invalid [b] }
    else ({ a with open' := a.open' ++ [0xFFFD] } : PreAcc).flush v

def prePieces (v : Vocab) (parts : List InPart) (first : Bool) : PreAcc :=
  (parts.foldl (fun a p => a.part v p) (⟨[], 0, 0, first, []⟩ : PreAcc)).flush v

/-! ### Byte-level BPE (11 R392) -/

/-- The rank of a merge and its result. -/
def State.mergeOf (s : State) (v : Vocab) (l r : Nat) : Option (Nat × Nat) :=
  ((List.range v.merges).find? fun i =>
    s.loadNat (v.key + v.merge + 12 * i) 4 == l && s.loadNat (v.key + v.merge + 12 * i + 4) 4 == r).map fun i =>
      (i, s.loadNat (v.key + v.merge + 12 * i + 8) 4)

/-- The leftmost pair of the lowest rank: its place, rank and result. -/
def State.bestMerge (s : State) (v : Vocab) (at' : Nat) (best : Option (Nat × Nat × Nat)) :
    List Nat → Option (Nat × Nat × Nat)
  | a :: b :: r =>
    let m := (s.mergeOf v a b).map fun x => (at', x.1, x.2)
    let better := match m, best with
      | some x, some y => if x.2.1 < y.2.1 then m else best
      | some _, none => m
      | none, _ => best
    s.bestMerge v (at' + 1) better (b :: r)
  | _ => best

def State.bpeLoop (s : State) (v : Vocab) (fuel : Nat) (l : List Nat) : Except Nat (List Nat) :=
  match fuel with
  | 0 => .ok l
  | fuel + 1 =>
    match s.bestMerge v 0 none l with
    | none => .ok l
    | some (i, _, t) =>
      if v.size ≤ t then .error t else s.bpeLoop v fuel (l.take i ++ t :: l.drop (i + 2))

def State.bpe (s : State) (v : Vocab) (bs : List Byte) : Except Nat (List Nat) :=
  match collect (bs.map (s.byteToken v)) with
  | .ok l => s.bpeLoop v l.length l
  | .error e => .error e

/-! ### Unigram (11 R393) -/

/-- The best piece that ends at a boundary: its score, where it begins, its token (none: UNKNOWN). -/
structure Best where
  score : F32
  start : Nat
  tok : Option Nat
  deriving DecidableEq, Repr

/-- Whether a candidate replaces the entry; an empty one scores minus infinity. -/
def beats (c : Best) : Option Best → Bool
  | none => f32Lt f32MinusInf c.score
  | some b =>
    f32Lt b.score c.score || (f32Eq b.score c.score &&
      (decide (c.start < b.start) || (c.start == b.start && match c.tok, b.tok with
        | some x, some y => decide (x < y)
        | some _, none => true
        | none, _ => false)))

/-- Tokens whose string equals `bs`, ascending. -/
def State.matching (s : State) (v : Vocab) (bs : List Byte) : List Nat :=
  (List.range v.size).filter fun t =>
    let (o, n, f) := s.tokenEntry v t
    f % 2 == 0 && n == bs.length && n != 0 && decide (o + n ≤ v.strLen) && s.load (v.key + v.strOff + o) n == bs

def State.tokScore (s : State) (v : Vocab) (t : Nat) : F32 := BitVec.ofNat 32 (s.loadNat (v.key + v.score + 4 * t) 4)

/-- Boundaries of the code points of a list of bytes' text. -/
def boundaries (o : Nat) : List Nat → List Nat
  | [] => [o]
  | c :: r => o :: boundaries (o + (utf8Bytes c).length) r

/-- The score at boundary `i`, unless it is minus infinity. -/
def bestAt (t : Tbl Best) (i : Nat) : Option F32 :=
  if i = 0 then some f32Zero else (t.look? i).bind fun b => if b.score = f32MinusInf then none else some b.score

/-- The entry at boundary `j`, whose last code point begins at `last`. -/
def State.lattice (s : State) (v : Vocab) (bs : List Byte) (bd : List Nat) (t : Tbl Best) (last j : Nat) : Tbl Best :=
  let part := fun (i : Nat) => (bs.drop i).take (j - i)
  let known := (bd.filter fun i => decide (i < j) && decide (j ≤ i + 256)).reverse.flatMap fun i =>
    match bestAt t i with
    | some b => (s.matching v (part i)).map fun k => (⟨f32Add b (s.tokScore v k), i, some k⟩ : Best)
    | none => []
  let unknown := match bestAt t last with
    | some b => if (s.matching v (part last)).isEmpty then [(⟨f32Add b v.unkScore, last, none⟩ : Best)] else []
    | none => []
  let e := (known ++ unknown).foldl (fun (a : Option Best) c => if beats c a then some c else a) none
  match e with
  | some b => Tbl.put t j b
  | none => t

/-- The pieces of the path that ends at `j`, as start, end and token. -/
def pathBack (t : Tbl Best) (fuel j : Nat) (acc : List (Nat × Nat × Option Nat)) :
    Option (List (Nat × Nat × Option Nat)) :=
  match fuel with
  | 0 => none
  | fuel + 1 =>
    if j = 0 then some acc
    else match t.look? j with
      | some b => if b.score = f32MinusInf then none else pathBack t fuel b.start ((b.start, j, b.tok) :: acc)
      | none => none

/-- The tokens of an UNKNOWN piece. -/
def State.unknownPiece (s : State) (v : Vocab) (bs : List Byte) : Except Nat (List Nat) :=
  if v.fallback then collect (bs.map (s.byteToken v))
  else if v.size ≤ v.unk then .error v.unk else .ok [v.unk]

/-- The segmentation of the greatest score. Where no path reaches the end (scores that are NaN or minus infinity),
the manual states no tokens: free ones. -/
def State.unigram (s : State) (v : Vocab) (bs : List Byte) : Except Nat (List Nat) :=
  let cps := (inParts (bs.length + 1) bs []).1.reverse.flatMap fun p => match p with
    | .run l => l
    | .invalid _ => []
  let bd := boundaries 0 cps
  let pairs := bd.zip (bd.drop 1)
  let t := pairs.foldl (fun (t : Tbl Best) (e : Nat × Nat) => s.lattice v bs bd t e.1 e.2) []
  match pathBack t (bs.length + 1) bs.length [] with
  | none => .ok (Config.noPath v.hash.toNat bs)
  | some path =>
    match collect (path.map fun (e : Nat × Nat × Option Nat) => match e.2.2 with
      | some k => .ok [k]
      | none => s.unknownPiece v ((bs.drop e.1).take (e.2.1 - e.1))) with
    | .ok l => .ok l.flatten
    | .error e => .error e

/-- The tokens of one pre-token. -/
def State.preTokens (s : State) (v : Vocab) (p : Pre) : Except Nat (List Nat) :=
  match p with
  | .text bs => if v.algo = 0 then s.bpe v bs else s.unigram v bs
  | .invalid bs => collect (bs.map (s.byteToken v))

end Sys2Proof.Machine
end

