-- ==== Sys2Proof/Machine/TextOut.lean ====
section
/-! DEFINITION. From logits to text: the grammar machine (11 R398 to R404), the sampler (R406, R407), and the
detokeniser (R395). -/

namespace Sys2Proof.Machine

/-! ### Grammar tables (11 R398 to R400) -/

structure Grammar where
  key : Nat
  policy : Nat
  nstates : Nat
  start : Nat
  stackMax : Nat
  vocab : Nat
  hash : Word64
  states : Nat
  edges : Nat
  nedges : Nat
  masks : Nat
  nmasks : Nat
  deps : Nat
  depWords : Nat
  deriving DecidableEq, Repr

def grammarOf (key : Nat) (h : List Byte) : Grammar :=
  let f := fieldOf h
  { key := key, policy := f 6 1, nstates := f 8 4, start := f 12 2, stackMax := f 14 2, vocab := f 16 4,
    hash := BitVec.ofNat 64 (f 24 8), states := f 32 4, edges := f 36 4, nedges := f 40 4, masks := f 44 4,
    nmasks := f 48 4, deps := f 52 4, depWords := f 56 4 }

/-- Bytes of one mask. -/
def Grammar.maskBytes (g : Grammar) : Nat := ceilDiv g.vocab 32 * 4

/-- The checks of 11 R400 on a region of `len` bytes; START is checked when it is met (R404). -/
def grammarOk (h : List Byte) (g : Grammar) (v : Vocab) (len : Nat) : Bool :=
  fieldOf h 0 4 == 0x4E4C4752 && fieldOf h 4 2 == 1 && decide (64 ≤ len) && decide (g.policy ≤ 2) &&
  zeroBytes h 7 8 && decide (1 ≤ g.nstates) && decide (g.nstates ≤ 65536) && decide (1 ≤ g.stackMax) &&
  decide (g.stackMax ≤ 1024) && zeroBytes h 20 24 && zeroBytes h 60 64 && g.vocab == v.size && g.hash == v.hash &&
  sectionOk len g.states (16 * g.nstates) true && sectionOk len g.edges (8 * g.nedges) (g.nedges != 0) &&
  sectionOk len g.masks (g.maskBytes * g.nmasks) (g.nmasks != 0) &&
  sectionOk len g.deps (4 * g.depWords) (g.depWords != 0)

/-! ### The machine (11 R402) -/

/-- How the machine ends over some bytes; a fault carries the state (R404). -/
inductive GramRes where
  | ok (st : Nat) (stack : List Nat)
  | reject
  | overflow
  | fault (st : Nat)
  deriving DecidableEq, Repr

/-- One edge: LO, HI, OP, TARGET, RET. -/
structure Edge where
  lo : Nat
  hi : Nat
  op : Nat
  target : Nat
  ret : Nat
  deriving DecidableEq, Repr

def State.edge (s : State) (g : Grammar) (i : Nat) : Edge :=
  let b := s.load (g.key + g.edges + 8 * i) 8
  ⟨fieldOf b 0 1, fieldOf b 1 1, fieldOf b 2 1, fieldOf b 4 2, fieldOf b 6 2⟩

/-- A state's first edge, its edges, ACCEPT, mask and list. -/
structure GState where
  first : Nat
  n : Nat
  accept : Bool
  mask : Nat
  dep : Nat
  deriving DecidableEq, Repr

def State.gstate (s : State) (g : Grammar) (i : Nat) : GState :=
  let b := s.load (g.key + g.states + 16 * i) 16
  ⟨fieldOf b 0 4, fieldOf b 4 2, fieldOf b 6 1 % 2 == 1, fieldOf b 8 4, fieldOf b 12 4⟩

/-- The first edge of state `st` that matches a byte; a fault where the edges leave their section. -/
def State.edgeFor (s : State) (g : Grammar) (st b : Nat) : Except Nat (Option Edge) :=
  let e := s.gstate g st
  if g.nstates ≤ st ∨ 256 < e.n ∨ g.nedges < e.first + e.n then .error st
  else .ok ((upFrom e.first e.n).map (s.edge g) |>.find? fun x => decide (x.lo ≤ b) && decide (b ≤ x.hi))

/-- One byte. -/
def State.gramByte (s : State) (g : Grammar) (b fuel st : Nat) (stack : List Nat) : GramRes :=
  match fuel with
  | 0 => .reject
  | fuel + 1 =>
    match s.edgeFor g st b with
    | .error x => .fault x
    | .ok none => .reject
    | .ok (some e) =>
      if e.op = 0 then (if g.nstates ≤ e.target then .fault st else .ok e.target stack)
      else if e.op = 1 then
        if g.stackMax ≤ stack.length then .overflow
        else if g.nstates ≤ e.target ∨ g.nstates ≤ e.ret then .fault st
        else .ok e.target (e.ret :: stack)
      else if 3 < e.op then .fault st
      else match stack with
        | [] => .reject
        | top :: rest => if e.op = 2 then .ok top rest else s.gramByte g b fuel top rest

/-- run_bytes: a byte is matched again after at most 1,024 EXITs. -/
def State.runBytes (s : State) (g : Grammar) (st : Nat) (stack : List Nat) : List Byte → GramRes
  | [] => .ok st stack
  | b :: r => match s.gramByte g b.toNat 1025 st stack with
    | .ok st' stack' => s.runBytes g st' stack' r
    | e => e

/-- U+2581 as a space (11 R395). -/
def spaced : List Byte → List Byte
  | 0xE2#8 :: 0x96#8 :: 0x81#8 :: r => 0x20#8 :: spaced r
  | b :: r => b :: spaced r
  | [] => []

/-- The bytes of a token as the machine consumes them. -/
def State.gramString (s : State) (v : Vocab) (t : Nat) : Except Nat (List Byte) :=
  match s.tokenString v t with
  | .ok bs => .ok (if v.metaspace then spaced bs else bs)
  | .error e => .error e

/-! ### Masks (11 R402 to R404) -/

/-- What a mask finds: the verdict on each token, and whether a listed token failed with OVERFLOW alone; or a
fault of the grammar (state) or of the vocabulary (ID). -/
inductive MaskRes where
  | ok (allowed : List Bool) (isOver : Bool)
  | gramFault (st : Nat)
  | textFault (id : Nat)
  deriving DecidableEq, Repr

/-- Verdicts on the listed tokens. -/
def State.listedRes (s : State) (g : Grammar) (v : Vocab) (st : Nat) (stack : List Nat) :
    List Nat → List (Nat × GramRes) → MaskRes × List (Nat × GramRes)
  | [], acc => (.ok [] false, acc)
  | t :: r, acc =>
    if v.size ≤ t then (.gramFault st, acc)
    else match s.gramString v t with
      | .error e => (.textFault e, acc)
      | .ok bs => match s.runBytes g st stack bs with
        | .fault x => (.gramFault x, acc)
        | res => s.listedRes g v st stack r (acc ++ [(t, res)])

/-- The mask of (st, stack) over the vocabulary; EOS is the model's. -/
def State.gramMask (s : State) (g : Grammar) (v : Vocab) (eos st : Nat) (stack : List Nat) : MaskRes :=
  let e := s.gstate g st
  let listAt := g.key + g.deps + 4 * e.dep
  let count := s.loadNat listAt 4
  if g.nstates ≤ st then .gramFault st
  else if e.mask ≠ 0xFFFFFFFF ∧ g.nmasks ≤ e.mask then .gramFault st
  else if e.dep ≠ 0xFFFFFFFF ∧ (g.depWords ≤ e.dep ∨ g.depWords < e.dep + 1 + count) then .gramFault st
  else
    let ids := if e.dep = 0xFFFFFFFF then [] else (List.range count).map fun i => s.loadNat (listAt + 4 + 4 * i) 4
    let ids := ids.filter fun t => t != eos && !(decide (t < v.size) && s.special v t)
    match s.listedRes g v st stack ids [] with
    | (.ok _ _, l) =>
      let good := (l.filter fun x => match x.2 with
        | .ok _ _ => true
        | _ => false).map Prod.fst
      let isOver := l.any fun x => x.2 == .overflow
      let bit := fun (t : Nat) =>
        e.mask != 0xFFFFFFFF &&
        s.loadNat (g.key + g.masks + e.mask * g.maskBytes + t / 32 * 4) 4 / 2 ^ (t % 32) % 2 == 1
      .ok ((List.range v.size).map fun t =>
        if t = eos then e.accept && stack.isEmpty else !s.special v t && (bit t || good.contains t)) isOver
    | (e, _) => e

/-! ### The sampler (11 R406, R407) -/

structure Profile where
  invT : F32
  topK : Nat
  topP : F32
  deriving DecidableEq, Repr

def State.profile (s : State) (p : Nat) : Profile :=
  let a := ro .samp 0 (0x800 + 16 * p)
  ⟨s.act a, bitsOf (s.act (a + 4)) 0 11, s.act (a + 8)⟩

def Profile.ok (p : Profile) : Bool :=
  f32Finite p.invT && !f32Lt p.invT f32Zero && decide (p.topK ≤ 1024) && f32Lt f32Zero p.topP &&
  f32Le p.topP f32One

def State.samplerOk (s : State) (p : Nat) : Bool := decide (p < 128) && (s.profile p).ok

/-- A logit as the sampler takes it, and whether note_nonfinite was called. -/
def fixLogit (x : F32) : F32 × Bool :=
  if f32IsNan x then (f32MinusInf, true) else if x = 0x7F800000#32 then (0x7F7FFFFF#32, true) else (x, false)

/-- The shortest prefix of the probabilities whose sum reaches `lim`: how many, and the sum. -/
def nucleus (lim : F32) (n : Nat) (kept : F32) : List F32 → Nat × F32
  | [] => (n, kept)
  | p :: r =>
    let k := f32Add kept p
    if f32Le lim k then (n + 1, k) else nucleus lim (n + 1) k r

/-- The first candidate whose running sum passes the target; else the last. -/
def pick (target run : F32) (last : Nat) : List (Nat × F32) → Nat
  | [] => last
  | (t, p) :: r => let x := f32Add run p; if f32Lt target x then t else pick target x t r

/-- The choice of 11 R407 with the calls of note_nonfinite; `none` where no token is allowed. -/
def sampleRow (row : List F32) (ok : List Bool) (pf : Profile) (seed : Word64) (pos : Nat) : Option Nat × Nat :=
  let fixed := row.map fixLogit
  let notes := (fixed.filter fun x => x.2).length
  let cand := ((List.range row.length).zip (fixed.map Prod.fst)).filter fun c => ok.getD c.1 false
  let k := if f32Eq pf.invT f32Zero then 1 else if pf.topK = 0 then 1024 else pf.topK
  let c := (sortBy (fun (a b : Nat × F32) => f32Lt b.2 a.2 || (f32Eq a.2 b.2 && decide (a.1 < b.1))) cand).take k
  match c with
  | [] => (none, notes)
  | (t0, z0) :: rest =>
    if z0 = f32MinusInf then ((cand.head?.map Prod.fst), notes + 1)
    else if rest.isEmpty then (some t0, notes)
    else
      let ps := c.map fun x => expRn (f32Mul (f32Sub x.2 z0) pf.invT)
      let total := ps.foldl f32Add f32Zero
      let (n, kept) := if f32Lt pf.topP f32One then nucleus (f32Mul pf.topP total) 0 f32Zero ps else (c.length, total)
      let r := cgen seed.toNat 0x53414D50 pos
      let u := toF32 (.fin false (r / 256) (-24))
      (some (pick (f32Mul u kept) f32Zero t0 (((c.map Prod.fst).zip ps).take n)), notes)

/-! ### The detokeniser (11 R395) -/

/-- What the hold releases: the text, the bytes written as U+FFFD, the hold left, whether a code point has been
written. -/
structure Detok where
  text : List Byte
  bad : Nat
  hold : List Byte
  wrote : Bool
  deriving DecidableEq, Repr

/-- Release one code point. -/
def Detok.put (v : Vocab) (a : Detok) (c : Nat) : Detok :=
  let c := if v.metaspace && c == 0x2581 then 0x20 else c
  if v.addPrefix && !a.wrote && c == 0x20 then { a with wrote := true }
  else { a with text := a.text ++ utf8Bytes c, wrote := true }

def detok (v : Vocab) (fuel : Nat) (l : List Byte) (a : Detok) : Detok :=
  match fuel with
  | 0 => { a with hold := l }
  | fuel + 1 =>
    if l.isEmpty then { a with hold := [] }
    else match utf8Front l with
      | .good c n => detok v fuel (l.drop n) (a.put v c)
      | .bad n => detok v fuel (l.drop n) ({ a with bad := a.bad + n } |>.put v 0xFFFD)
      | .tail => { a with hold := l }

end Sys2Proof.Machine
end

