-- ==== Sys2Proof/Machine/SeqOps.lean ====
section
/-! DEFINITION. The sequence-model header (09 R307, R308), the order of the operations on a sequence (R331),
and SEQ_OPEN, SEQ_FORK and SEQ_CLOSE (10 R345, R360, R361, R374, R375). -/

namespace Sys2Proof.Machine

/-! ### The checks of a model (09 R307, R308) -/

/-- Bytes of a page of the model's geometry (09 R308). -/
def Geo.pageBytes (g : Geo) : Nat := 256 * g.layers * g.kvh * 2 * g.rowBytes

/-- INVALID_DESCRIPTOR of 09 R308 and 10 R345 for pool `p`. -/
def State.modelInvalid (s : State) (h : ModelHdr) (p : Nat) : Bool :=
  !h.clean || h.geo.fmt != s.fld (poolA p 0) 8 8 || h.scatter != s.fld (poolA p 0) 4 1 ||
  s.pageBytes p != h.geo.pageBytes || s.sideBytes p != h.geo.layers * h.geo.kvh * sideEntry h.geo.fmt h.geo.d

def f32Positive (x : F32) : Bool := f32Finite x && f32Lt f32Zero x

/-- Every field of the header lies in its range, and the limits of 09 R308 hold. -/
def ModelHdr.inRange (h : ModelHdr) : Bool :=
  let g := h.geo
  let ngi := g.fmt == 0x21
  [0x03, 0x01, 0x21].contains g.fmt && decide (h.scatter ≤ 1) && decide (1 ≤ g.layers) && decide (g.layers ≤ 256) &&
  [64, 80, 96, 128, 192, 256].contains g.d && decide (1 ≤ h.g) && decide (h.g ≤ 16) && decide (h.ropeStyle ≤ 1) &&
  decide (1 ≤ g.kvh) && decide (g.kvh ≤ 64) && h.ropeDims % 2 == 0 && decide (h.ropeDims ≤ g.d) &&
  decide (g.wPages ≤ 1024) &&
  (if g.wPages = 0 then h.window == 0 else decide (1 ≤ h.window) && decide (h.window ≤ 262144)) &&
  f32Positive h.qk &&
  (if ngi then f32Positive h.kbase && f32Positive h.vbase else h.kbase == 0 && h.vbase == 0) &&
  decide (1 ≤ h.prefillCores) && decide (h.prefillCores ≤ 64) && decide (1 ≤ h.stepCores) &&
  decide (h.stepCores ≤ 64) && decide (256 ≤ h.chunk) && decide (h.chunk ≤ 2048) && h.chunk % 256 == 0 &&
  decide (1 ≤ h.stepMax) && decide (h.stepMax ≤ 512) && decide (1 ≤ h.vocab) && decide (h.vocab ≤ 262144) &&
  [1, 2, 4, 8, 16].contains g.spreadN && decide (g.spreadIdx < g.spreadN) && (g.spreadN != 1 || g.group == 0) &&
  g.pageBytes % 65536 == 0 && (!ngi || g.d % 64 == 0) &&
  (g.wPages == 0 || decide (h.window + h.chunk ≤ 256 * g.wPages + 1))

/-- The status that the header at key `k` of model region `r` gives a sequence of pool `p` (09 R308). -/
def State.modelFails (s : State) (k r p : Nat) : Option Status :=
  firstStatus [(!s.isWeights r || s.modelInvalid (s.modelAt k) p, .invalidDescriptor),
    (!(s.modelAt k).inRange, .limitRejected)]

/-- The status that the current generation of model region `r` gives a sequence of pool `p`. -/
def State.modelStatus (s : State) (r p : Nat) : Option Status :=
  match s.regionBuf r with
  | none => some .invalidDescriptor
  | some k => s.modelFails k r p

/-! ### SEQ_OPEN -/

/-- The lowest free sequence block of pool `p` (10 R345). -/
def State.freeBlock (s : State) (p : Nat) : Option Nat :=
  lowestFree (s.seqMax p) ((s.text.seqs.filter fun e => e.2.pool == p).map fun e => e.2.block)

/-- The checks of 04 R134 and of 09 R308, 10 R345. -/
def State.seqOpenCheck (s : State) (d : Desc) : Option Status :=
  let fn := s.ctxFunc d.ctx
  let p := d.target
  let n := d.nat 28 4
  match firstStatus
    [(!s.addrLenOk fn (d.addr 32) (4 * d.nat 40 4), .invalidDescriptor),
     (decide (n = 0) || decide (262144 < n), .limitRejected),
     (!s.poolUsable p 2 fn, .invalidDescriptor)] with
  | some st => some st
  | none => match s.modelStatus (d.nat 24 4) p with
    | some st => some st
    | none =>
      if (s.freeBlock p).isNone then some .limitRejected else if s.blockOn .yard 0 then none else some .cancelled

/-- The full pages of a prefix, up to the sequence's limit. -/
def State.prefixPages (s : State) (d : Desc) : List (List Nat) :=
  let n := min (d.nat 40 4 / 256) (min (d.nat 28 4 / 256) 1024)
  match addrKey (d.addr 32) with
  | some k => (List.range n).map fun p => (List.range 256).map fun i => s.loadNat (k + 4 * (256 * p + i)) 4
  | none => []

/-- A new sequence block: every entry EMPTY (10 R346, R347). -/
def emptyBlock : List Byte := List.replicate 4096 (0xFF : Byte) ++ List.replicate 12288 (0 : Byte)

/-- The sequence that a SEQ_OPEN makes. -/
def newSeq (d : Desc) (h : ModelHdr) (block now : Nat) : Seq :=
  { ctx := d.ctx, pool := d.target, block := block, region := d.nat 24 4, seed := d.addr 16,
    maxTokens := d.nat 28 4, geo := h.geo, modelId := h.modelId, base := 0, nextPos := [], len := 0,
    pendingTok := none, nextTok := none, ops := [], vocabs := [], act := none, lost := none, pre := .inPlace, restoreAt := 0,
    lastAppend := now, carry := [], hold := [], wroteCp := false, gram := none, firstInput := true }

/-- The first poisoned line that a SEQ_OPEN reads: the header or the prefix. -/
def State.seqOpenPoison (s : State) (d : Desc) (k : Nat) : Option Nat :=
  (firstPoisoned s.poison k 256).or (s.poisonAt (d.addr 32) (4 * d.nat 40 4))

/-- 09 R307, R308, 10 R345, R360, 04 R135. -/
def execSeqOpen (ctx : Fin 256) (sq : Fin 4) (s : State) : Next :=
  .next (s.take ctx sq 0x06 (fun s d => s.seqOpenCheck d) fun s d =>
    match s.regionBuf (d.nat 24 4), s.freeBlock d.target, lowestFree 0x1000000 s.text.seqs.keys with
    | some k, some b, some q =>
      let s := s.touch k 256
      match s.seqOpenPoison d k with
      | some l => s.consume d l
      | none =>
        let x := newSeq d (s.modelAt k) b s.gts
        let s := (s.putSeq q x).countSeqs x.pool
        let s := s.store (s.listKey x) emptyBlock
        let pages := s.prefixPages d
        let (hits, s) := if s.pfxAllowed x.pool x.geo.wPages then s.lookupPages q x 0 none 0 pages else (0, s)
        let s := s.putSeq q { x with base := 256 * hits, len := 256 * hits }
        let isOver := hits == pages.length && decide (pages.length < d.nat 40 4 / 256) &&
          s.pfxAllowed x.pool x.geo.wPages
        s.complete d (if isOver then .lengthLimit else .ok) (s.mkHandle d.ctx q) (256 * hits)
    | _, _, _ => s)

/-! ### One operation at a time (09 R331) -/

def txtA (o : Nat) : Nat := ro .txt 0 o

/-- The fields of a SEQ_APPEND (04 R133). -/
def Desc.inKind (d : Desc) : Nat := d.nat 28 1
def Desc.inBytes (d : Desc) : Nat := if d.inKind = 0 then 4 * d.nat 24 4 else d.nat 24 4
def Desc.genMax (d : Desc) : Nat := d.nat 32 4
def Desc.grammar (d : Desc) : Nat := d.nat 36 4
def Desc.outLen (d : Desc) : Nat := d.nat 48 4
def Desc.sampler (d : Desc) : Nat := d.nat 52 2

def noRegion : Nat := 0xFFFFFFFF

/-- The vocabulary region that TXT.VOCAB_MAP binds to a model region (11 R383). -/
def State.vocabRegion (s : State) (model : Nat) : Option Nat :=
  ((List.range 64).find? fun i => (s.rd (txtA (0x800 + 8 * i))).toNat == model).map fun i =>
    (s.rd (txtA (0x804 + 8 * i))).toNat

/-- The descriptor needs a vocabulary (11 R383, R387). -/
def needsVocab (d : Desc) (x : Seq) : Bool :=
  d.inKind == 1 || d.outLen != 0 || d.grammar != noRegion || !x.carry.isEmpty


/-- A descriptor is the first of its sequence's operations and has not begun. -/
def State.heads (s : State) (d : Desc) : Bool :=
  (s.seq (handleIdx d.target)).any fun x => x.ops.head? == some d.uid && x.act.isNone

/-- Some entry of the sequence is AWAY. -/
def State.someAway (s : State) (x : Seq) : Bool := (s.entries x).any fun e => isAway e.2

/-- The operation may begin: a SEQ_APPEND or SEQ_FORK needs the sequence restored, and a SEQ_FORK every page
(10 R365, R374). -/
def State.mayBegin (s : State) (d : Desc) : Bool :=
  (s.seq (handleIdx d.target)).any fun x =>
    d.cls == 0x09 || x.lost.isSome || (x.pre = .inPlace && (d.cls != 0x08 || !s.someAway x))

/-- What a waiting operation needs of the Yard is asked for. -/
def State.askPages (s : State) (d : Desc) : State :=
  let q := handleIdx d.target
  match s.seq q with
  | none => s
  | some x =>
    if d.cls = 0x09 ∨ x.lost.isSome then s
    else if x.pre ≠ .inPlace then s.startRestore q
    else if d.cls = 0x08 then
      ((s.entries x).filter fun e => isAway e.2).foldl
        (fun (s : State) (e : Nat × Nat) => s.addReq .fetch x.pool q e.1 none) s
    else s

/-- The started descriptors of one class on one ring whose turn has come. -/
def State.turns (s : State) (n q cls : Nat) : List Desc :=
  (s.startedDescs n).filter fun d => d.cls == cls && d.sq == q && s.heads d

/-- Regions that a reader does not hold yet. -/
def State.holdMore (s : State) (rs : List Nat) (holder : Nat) : State :=
  s.holdRegions (rs.filter fun r => (s.heldGen holder r).isNone) holder

/-- What an operation holds from its start (04 R147, 09 R309): a SEQ_APPEND or SEQ_FORK its MODEL region, a SEQ_APPEND
its grammar and its vocabulary too. -/
def State.holdAtStart (s : State) (d : Desc) : State :=
  match s.seq (handleIdx d.target) with
  | none => s
  | some x =>
    if d.cls = 0x07 then
      let v := s.vocabRegion x.region
      (s.putSeq (handleIdx d.target) { x with vocabs := x.vocabs ++ [(d.uid, v)] }).holdMore
        (x.region :: ((if needsVocab d x then v else none).toList ++
          (if d.grammar = noRegion then [] else [d.grammar]))) d.uid
    else if d.cls = 0x08 then s.holdMore [x.region] d.uid
    else s

/-- One command of a class of sequence operations: a waiting one that may begin does; else the ring's next one
is taken up. -/
def State.seqRow (s : State) (n q cls : Nat) (check : State → Desc → Option Status)
    (begin' : State → Nat → Desc → State) : State :=
  match (s.turns n q cls).find? s.mayBegin with
  | some d => begin' s (handleIdx d.target) d
  | none =>
    let s := (s.turns n q cls).foldl (fun (s : State) d => s.askPages d) s
    s.take n q cls check fun s d =>
      let i := handleIdx d.target
      let s := (s.updSeq i fun x => { x with ops := x.ops ++ [d.uid] }).holdAtStart d
      if !s.heads d then s else if s.mayBegin d then begin' s i d else s.askPages d

/-- The checks of a descriptor that names a sequence (04 R134 steps 2 and 3). -/
def State.handleChecks (s : State) (d : Desc) : List (Bool × Status) :=
  [(!s.handleEpochOk d.ctx d.target, .epochStale), ((s.ownSeq d.ctx d.target).isNone, .invalidDescriptor)]

/-! ### SEQ_FORK (10 R374) -/

/-- The child's block would take some page's REF above 65,535 (10 R352). -/
def State.refsFull (s : State) (x : Seq) : Bool :=
  (s.entries x).any fun e => isPage e.2 && decide (65535 ≤ (s.kvPage x.pool e.2).ref)

/-- The fork itself, with every page of the parent in HBM. -/
def State.forkNow (s : State) (i : Nat) (x : Seq) (d : Desc) : State :=
  match s.freeBlock x.pool, lowestFree 0x1000000 s.text.seqs.keys with
  | some b, some q =>
    if s.refsFull x then s.endOp i .limitRejected
    else
      let y := { x with block := b, seed := d.addr 16, ops := [], vocabs := [], act := none, lastAppend := s.gts }
      let pages := (s.entries x).filter fun e => isPage e.2
      let s := (s.putSeq q y).countSeqs x.pool
      let s := s.copyBytes (s.listKey x) (s.listKey y) 16384
      let s := pages.foldl (fun (s : State) (e : Nat × Nat) => (s.cancelSpill x.pool e.2).refPage x.pool e.2) s
      let s := s.updSeq i fun x => { x with ops := x.ops.filter (· != d.uid) }
      (s.complete d .ok (s.mkHandle x.ctx q) pages.length).releaseHolds d.uid
  | _, _ => s.endOp i .limitRejected

/-- 09 R331, 10 R374. -/
def execSeqFork (ctx : Fin 256) (sq : Fin 4) (s : State) : Next :=
  .next (s.seqRow ctx sq 0x08 (fun s d => firstStatus (s.handleChecks d ++ [(!s.blockOn .yard 0, .cancelled)]))
    fun s i d =>
    match s.seq i with
    | none => s
    | some x => match x.lost with
      | some b => s.endOp i (lostStatus b)
      | none => s.forkNow i x d)

/-! ### SEQ_CLOSE (10 R361, R375) -/

/-- 09 R331, R332, 10 R361, R367, R375. -/
def execSeqClose (ctx : Fin 256) (sq : Fin 4) (s : State) : Next :=
  .next (s.seqRow ctx sq 0x09
    (fun s d => firstStatus (s.handleChecks d ++ [(decide (1 < d.nat 16 1), .limitRejected),
      (!s.blockOn .yard 0, .cancelled)])) fun s i d =>
    match s.seq i with
    | none => s
    | some x =>
      let (pub, s) := if d.nat 16 1 = 1 ∧ x.lost.isNone then s.publish x else (0, s)
      let (n, s) := s.releaseList i x
      ((s.discardRow i).complete d .ok n pub).dropOps x.ctx .invalidDescriptor (x.ops.filter (· != d.uid)))

end Sys2Proof.Machine
end

