-- ==== Sys2Proof/Machine/SeqAppend.lean ====
section
/-! DEFINITION. SEQ_APPEND and the batch former: input to tokens (11 R383 to R391), prefill chunks and decode
steps (09 R328 to R331), what the acceptance of their notices does (R333, 10 R358), and spread sequences
(R334). -/

namespace Sys2Proof.Machine

def grmA (o : Nat) : Nat := ro .grm 0 o
def sampA (o : Nat) : Nat := ro .samp 0 o

/-- Positions that the sequence may hold (04 R135). -/
def Seq.limit (x : Seq) : Nat := min x.maxTokens 262144

/-! ### The start of a SEQ_APPEND -/


/-- A SEQ_APPEND of sequence `x` has work for block `b` of the text unit. -/
def Desc.usesText (d : Desc) (x : Seq) (b : Blk) : Bool :=
  match b with
  | .txt => needsVocab d x
  | .grm => d.grammar != noRegion
  | .samp => d.genMax != 0
  | _ => false

/-- The checks of 04 R134, and of 04 R151: a block of the text unit that refuses new work. -/
def State.appendCheck (s : State) (d : Desc) : Option Status :=
  let fn := s.ctxFunc d.ctx
  let closed := (s.seq (handleIdx d.target)).any fun x =>
    [Blk.txt, .grm, .samp].any fun b => d.usesText x b && !s.blockOn b 0
  firstStatus ([(!s.addrLenOk fn (d.addr 16) d.inBytes || !s.addrLenOk fn (d.addr 40) d.outLen,
      .invalidDescriptor)] ++ s.handleChecks d ++
    [(decide (1 < d.inKind) || decide (128 ≤ d.sampler), .limitRejected), (closed, .cancelled)])

/-- The vocabulary in the held generation of region `r`, with the checks of 11 R383. -/
def State.vocabAt (s : State) (u r size : Nat) : Option Vocab :=
  match s.region r, s.readerBuf u r with
  | some e, some k =>
    let h := s.load k 128
    let v := vocabOf k h
    if e.kind = 4 ∧ vocabHeaderOk h v e.len ∧ v.size = size then some v else none
  | _, _ => none

/-- The grammar in the held generation of region `r`, with the checks of 11 R400. -/
def State.grammarAt (s : State) (u r : Nat) (v : Vocab) : Option Grammar :=
  match s.region r, s.readerBuf u r with
  | some e, some k =>
    let h := s.load k 64
    let g := grammarOf k h
    if e.kind = 2 ∧ grammarOk h g v e.len then some g else none
  | _, _ => none

/-- A table is wrong: the event of 11 R412 and INVALID_DESCRIPTOR (R385, R404). -/
def State.textFault (s : State) (q region id : Nat) : State :=
  match s.seq q with
  | some x => (s.raise 0x7000 0x3704 [.w (s.seqHandle q), .w region, .w id] x.ctx).endAppend q .invalidDescriptor
  | none => s

def State.gramFault (s : State) (q region st : Nat) : State :=
  match s.seq q with
  | some x => (s.raise 0x7001 0x3712 [.w (s.seqHandle q), .w region, .w st] x.ctx).endAppend q .invalidDescriptor
  | none => s

/-- A descriptor of a sequence consumes poison (18 R604). -/
def State.seqPoison (s : State) (q line : Nat) : State :=
  match s.seq q with
  | some x => (s.raise 0x1100 0x31F2 [.d (line * 64)] x.ctx).endOp q .eccUncorrectable
  | none => s

def State.updAct (s : State) (q : Nat) (f : Appending → Appending) : State :=
  s.updSeq q fun x => { x with act := x.act.map f }

/-- What the input of an append gives: pre-tokens with their counts, tokens known at once, the carry left, and
whether the first input is still to open; an error carries an ID of the table. -/
structure Input where
  pre : PreAcc
  tokens : List Nat
  carry : List Byte
  deriving DecidableEq, Repr

def noPre (first : Bool) : PreAcc := ⟨[], 0, 0, first, []⟩

/-- 11 R386 to R391 for text; R387 for a carry in front of token IDs. -/
def State.inputOf (s : State) (x : Seq) (d : Desc) (v : Option Vocab) : Except Nat Input :=
  let bytes := s.loadAt (d.addr 16) d.inBytes
  let ids := if d.inKind = 0 then (List.range (d.nat 24 4)).map fun i => fieldOf bytes (4 * i) 4 else []
  match v with
  | none => .ok ⟨noPre x.firstInput, ids, []⟩
  | some v =>
    if d.inKind = 0 then
      if x.carry.isEmpty then .ok ⟨noPre x.firstInput, ids, []⟩
      else
        let a := prePieces v [.invalid x.carry] x.firstInput
        match collect (a.pres.map (s.preTokens v)) with
        | .ok l => .ok ⟨{ a with pres := [] }, l.flatten ++ ids, []⟩
        | .error e => .error e
    else
      let l := x.carry ++ bytes
      let (parts, tail) := inParts (l.length + 1) l []
      let parts := if d.genMax ≠ 0 ∧ !tail.isEmpty then InPart.invalid tail :: parts else parts
      .ok ⟨prePieces v parts.reverse x.firstInput, [], if d.genMax = 0 then tail else []⟩

/-- The append in progress at its start. `now` gives its place among the sequences that wait for a mask. -/
def newAppend (d : Desc) (x : Seq) (i : Input) (vocab grammar : Option Nat) (now : Nat) : Appending :=
  { desc := d, tokens := x.pendingTok.toList ++ i.tokens, pretoks := i.pre.pres,
    inLeft := if d.inKind = 1 then x.carry.length + d.inBytes - i.carry.length else 0, appended := 0, generated := 0,
    written := 0, gang := none, row := none, maskReady := false, vocab := vocab, grammar := grammar,
    invalidBytes := i.pre.bad, splits := i.pre.cuts, nonfinite := 0, readyAt := now }

/-- Lines of a vocabulary or grammar go through their cache: how many hit and miss is not stated (11 R394, R405). -/
def State.countLines (s : State) (hits : Nat) : State :=
  let (f, s) := s.newFree
  (s.addSat hits 0 32 (Config.freeWord f 0).toNat).addSat (hits + 4) 0 32 (Config.freeWord f 1).toNat

/-- An append whose input is all tokenised and empty has nothing to do. -/
def State.endIfEmpty (s : State) (q : Nat) : State :=
  if (s.seq q).any fun x => x.act.any fun a => a.tokens.isEmpty && a.pretoks.isEmpty && x.nextTok.isNone then
    s.endAppend q .ok
  else s

/-- The checks of 11 R383, R400 and R406 and the input. -/
def State.startText (s : State) (q : Nat) (x : Seq) (d : Desc) (h : ModelHdr) : State :=
  let u := d.uid
  let need := needsVocab d x
  let bound := ((x.vocabs.find? fun e => e.1 == u).map Prod.snd).getD (s.vocabRegion x.region)
  let vr := if need then bound else none
  let s := s.holdMore (vr.toList ++ if d.grammar = noRegion then [] else [d.grammar]) u
  let v := vr.bind fun r => s.vocabAt u r h.vocab
  let gbad := d.grammar ≠ noRegion ∧ (v.bind fun v => s.grammarAt u d.grammar v).isNone
  if need ∧ v.isNone ∨ gbad then s.endOp q .invalidDescriptor
  else if !s.samplerOk d.sampler then s.endOp q .limitRejected
  else match s.inputOf x d v with
    | .error id =>
      let s := s.raise 0x7000 0x3704 [.w (s.seqHandle q), .w (vr.getD 0), .w id] x.ctx
      s.endOp q .invalidDescriptor
    | .ok i =>
      let s := (s.addSat (txtA 0x44) 0 32 i.pre.bad).addSat (txtA 0x50) 0 32 i.pre.cuts
      let (now, s) := s.newUid
      let s := s.updSeq q fun x => { x with
        act := some (newAppend d x i vr (if d.grammar = noRegion then none else some d.grammar) now),
        vocabs := x.vocabs.filter fun e => e.1 != u,
        carry := i.carry, firstInput := x.firstInput && d.inBytes == 0, nextTok := none }
      s.endIfEmpty q

/-- 09 R330 to R332, 11 R383 to R391, R400, R406. -/
def execSeqAppend (ctx : Fin 256) (sq : Fin 4) (s : State) : Next :=
  .next (s.seqRow ctx sq 0x07 (fun s d => s.appendCheck d) fun s q d =>
    match s.seq q with
    | none => s
    | some x => match x.lost with
      | some b => s.endOp q (lostStatus b)
      | none =>
        let s := match addrKey (d.addr 16) with
          | some k => s.touch k d.inBytes
          | none => s
        match s.poisonAt (d.addr 16) d.inBytes with
        | some l => s.seqPoison q l
        | none =>
          match s.readerBuf d.uid x.region with
          | none => s.endOp q .invalidDescriptor
          | some k => match s.modelFails k x.region x.pool with
            | none => s.startText q x d (s.modelAt k)
            | some st => s.endOp q st)

/-- The vocabulary of an append in progress. -/
def State.actVocab (s : State) (a : Appending) : Option Vocab :=
  (a.vocab.bind fun r => s.readerBuf a.desc.uid r).map fun k => vocabOf k (s.load k 128)

def State.actGrammar (s : State) (a : Appending) : Option Grammar :=
  (a.grammar.bind fun r => s.readerBuf a.desc.uid r).map fun k => grammarOf k (s.load k 64)

/-- The block goes on and is not frozen (04 R151, 02 R59). -/
def State.worksOn (s : State) (b : Blk) : Bool := s.blockGoes b 0 && !s.frozen b 0

/-- The sequence of the pre-token that TXT takes next: by rank, then in the order in which the SEQ_APPENDs were
queued (05 R171, 11 R394). -/
def State.nextPre (s : State) : Option Nat :=
  let key := fun (e : Nat × Seq) => [s.rank e.2.ctx, (e.2.act.map fun a => a.desc.uid).getD 0]
  ((sortBy (fun (a b : Nat × Seq) => keyLt (key a) (key b))
    (s.text.seqs.filter fun e => e.2.act.any fun a => !a.pretoks.isEmpty)).head?).map Prod.fst

/-- 11 R392 to R394: TXT tokenises one pre-token. The last one of an input counts the bytes that are left. -/
def execTokenisePretoken (seq : Nat) (s : State) : Next :=
  match s.seq seq with
  | none => .next s
  | some x => match x.act with
    | none => .next s
    | some a => match a.pretoks, s.actVocab a with
      | p :: rest, some v =>
        if !s.worksOn .txt ∨ s.nextPre ≠ some seq then .next s
        else match s.preTokens v p with
          | .error id => .next (s.textFault seq (a.vocab.getD 0) id)
          | .ok l =>
            let n := if rest.isEmpty then a.inLeft else min a.inLeft p.size
            let s := s.updAct seq fun a => { a with tokens := a.tokens ++ l, pretoks := rest, inLeft := a.inLeft - n }
            .next (((s.addSat64 (txtA 0x58) n).countLines (txtA 0x68)).endIfEmpty seq)
      | _, _ => .next s

/-! ### The end of text (11 R397) -/

/-- Text goes to OUT. -/
def State.writeText (s : State) (q : Nat) (a : Appending) (bs : List Byte) : State :=
  let s := s.storeAt (a.desc.addr 40 + BitVec.ofNat 64 a.written) bs
  (s.addSat64 (txtA 0x60) bs.length).updAct q fun a => { a with written := a.written + bs.length }

def State.endText (s : State) (q : Nat) : State :=
  match s.seq q with
  | none => s
  | some x => match x.act with
    | none => s
    | some a =>
      let s := if x.hold.isEmpty then s
        else
          let fits := !s.bit (txtA 0x40) 0 && decide (a.written + 3 ≤ a.desc.outLen)
          let s := if fits then s.writeText q a [0xEF, 0xBF, 0xBD] else s
          (s.addSat (txtA 0x4C) 0 32 1).raise 0x7000 0x0702 [.w (s.seqHandle q), .w 1] x.ctx
      s.updSeq q fun x => { x with hold := [], wroteCp := false, gram := none }

/-! ### Prefill chunks (09 R330) -/

/-- `n` bytes of HBM from byte `b` lie in pool `p`. -/
def State.hbmIn (s : State) (p b n : Nat) : Bool :=
  decide (b + n ≤ hbmBytes) && (framesOf b n).all fun f => s.framePool f == some p

/-- The status that the image at key `k` gives a gang of the batch former. -/
def State.formerImage (s : State) (k cores argLen : Nat) : Option Status :=
  firstStatus [(s.imageBad k, .invalidDescriptor), (s.imageLimit k cores argLen, .limitRejected)]

/-- ARGS of a prefill chunk. -/
def prefillArgs (step list handle pos n tokens logit : Nat) : List Byte :=
  leBytes 8 step ++ leBytes 8 list ++ leBytes 4 handle ++ leBytes 4 pos ++ leBytes 4 n ++ leBytes 4 0 ++
  leBytes 8 tokens ++ leBytes 8 logit

/-- Tokens of the chunk that begins at the sequence's end. -/
def chunkLen (x : Seq) (h : ModelHdr) (tokens : Nat) : Nat :=
  min tokens (min (256 * (x.len / 256) + h.chunk - x.len) (x.limit - x.len))

/-- An append that waits for its next prefill chunk. -/
def Appending.wantsChunk (a : Appending) : Bool :=
  a.pretoks.isEmpty && a.gang.isNone && a.row.isNone && !a.tokens.isEmpty

/-- The chunk's RUN is queued. -/
def State.startChunk (s : State) (q : Nat) (x : Seq) (a : Appending) (k : Nat) (h : ModelHdr)
    (tokensAt logitAt : Nat) : State :=
  let n := chunkLen x h a.tokens.length
  let toks := a.tokens.take n
  let last := n == a.tokens.length && a.desc.genMax != 0
  let s := s.store (kHbm tokensAt) (toks.flatMap fun t => leBytes 4 t)
  let args := prefillArgs s.text.stepCount (s.listKey x) (s.seqHandle q) x.len n tokensAt (if last then logitAt else 0)
  let (u, s) := s.newGang x.ctx a.desc h.prefillCores (k + h.prefillOff) args []
  let run : StepRun := ⟨u, [(q, 0, x.len)], if last then some (kHbm logitAt) else none, 4 * h.vocab, toks⟩
  ({ s with text := { s.text with steps := s.text.steps ++ [run] } }).updAct q fun a => { a with gang := some u }

/-- 09 R330: the next prefill chunk of a SEQ_APPEND. -/
def execPrefillChunk (seq tokensAt logitAt : Nat) (s : State) : Next :=
  match s.seq seq with
  | none => .next s
  | some x => match x.act with
    | none => .next s
    | some a => match s.actModel x a with
      | none => .next s
      | some (k, h) =>
        if !a.wantsChunk ∨ x.pre ≠ .inPlace ∨ x.lost.isSome then .next s
        else if x.limit ≤ x.len then .next ((s.endText seq).endAppend seq .lengthLimit)
        else
          let cores := s.fld (cr x.ctx 0x10C) 0 7 ≤ h.prefillCores ∧ h.prefillCores ≤ s.fld (cr x.ctx 0x10C) 8 7
          let n := chunkLen x h a.tokens.length
          let room := s.hbmIn h.stepPool tokensAt (4 * n) && s.hbmIn h.stepPool logitAt (4 * h.vocab)
          if ¬ cores then .next (s.endAppend seq .quotaExceeded)
          else match s.formerImage (k + h.prefillOff) h.prefillCores 48 with
            | some st => .next (s.endAppend seq st)
            | none => if room then .next (s.startChunk seq x a k h tokensAt logitAt) else .next s

/-! ### Decode steps (09 R328, R329) -/

/-- One entry of a step table. -/
def State.tableEntry (s : State) (e : Nat × Nat × Nat) : List Byte :=
  match s.seq e.1 with
  | some x => leBytes 4 (s.seqHandle e.1) ++ leBytes 4 e.2.2 ++ leBytes 4 e.2.1 ++ leBytes 4 0 ++
      leBytes 8 (s.listKey x) ++ leBytes 8 0
  | none => List.replicate 32 0

/-- The buckets of a step in ascending order: index of the first entry and page count. -/
def State.stepBuckets (s : State) (ms : List (Nat × Nat × Nat)) : List (Nat × Nat) :=
  let bs := ms.map fun m => m.2.2 / 256
  bs.eraseDups.map fun b =>
    let w := (ms.findSome? fun m => if m.2.2 / 256 = b then (s.seq m.1).map fun x => x.geo.wPages else none).getD 0
    (bs.idxOf b, if w = 0 then b + 1 else min (b + 1) w)

/-- ARGS of a decode step. -/
def State.stepArgs (s : State) (ms : List (Nat × Nat × Nat)) (tableAt logitsAt : Nat) : List Byte :=
  let bs := s.stepBuckets ms
  (leBytes 8 s.text.stepCount ++ leBytes 8 tableAt ++ leBytes 4 ms.length ++ leBytes 4 bs.length ++
    leBytes 8 logitsAt ++ bs.flatMap (fun (b : Nat × Nat) => leBytes 2 b.1 ++ leBytes 2 b.2) ++ List.replicate 32 0).take 64

/-- The step RUN of members (sequence, token, position) for the model at key `k`. -/
def State.makeStep (s : State) (ms : List (Nat × Nat × Nat)) (d : Desc) (k : Nat) (h : ModelHdr)
    (tableAt logitsAt : Nat) : Nat × State :=
  let s := s.store (kHbm tableAt) (ms.flatMap s.tableEntry)
  let args := s.stepArgs ms tableAt logitsAt
  let at' := (ms.filterMap fun m => (s.seq m.1).bind fun x => x.act.map fun a => a.readyAt).foldl min s.now
  let owners := ms.map fun m => (m.1, ((s.seq m.1).map fun x => x.ctx).getD 0)
  let (u, s) := s.newGang d.ctx d h.stepCores (k + h.stepOff) args owners
  let s := s.updGang u fun g => { g with readyAt := at' }
  let run : StepRun := ⟨u, ms, some (kHbm logitsAt), 4 * h.vocab, []⟩
  let s := { s with text := { s.text with steps := s.text.steps ++ [run], stepCount := s.text.stepCount + 1 } }
  (u, ms.foldl (fun (s : State) m => s.updAct m.1 fun a => { a with gang := some u }) s)

/-- Table and logits of `n` members lie in STEP_POOL. -/
def State.stepRoom (s : State) (h : ModelHdr) (n tableAt logitsAt : Nat) : Bool :=
  s.hbmIn h.stepPool tableAt (32 * n) && s.hbmIn h.stepPool logitsAt (4 * h.vocab * n)

/-- A gang ordered ahead of `u`'s waits for cores. -/
def State.waitsAhead (s : State) (u : Nat) : Bool :=
  (s.gang u).any fun g => s.sbox.gangs.any fun o => o.uid != u && o.waits && s.gangBefore o g

/-- The package with SPREAD_IDX 0 sends to the other members of its spread, through COLL_GROUP (09 R334). -/
def State.toSpread (s : State) (g : Geo) (b : KlBody) : State :=
  ((List.range g.spreadN).drop 1).foldl (fun (s : State) r => s.klSend (s.rankPkg g.group r) b) s

/-- 09 R328: the Signal Box grants the step's gang its cores and the step is formed; a class B step that lacks
cores preempts as 05 R166 says. -/
def execDecodeStepForm (region : Nat) (cores : List (Fin 64)) (tableAt logitsAt : Nat) (s : State) : Next :=
  match s.stepMembers region with
  | [] => .next s
  | f :: r => match f.2.act with
    | none => .next s
    | some a => match s.actModel f.2 a with
      | none => .next s
      | some (k, h) =>
        let l := f :: r
        if s.pst ≠ 0 ∨ s.bit (ro .pwr 0 0x50) 6 ∨ s.frozen .sbox 0 ∨ ¬ s.blockGoes .sbox 0 ∨ !s.stepRoom h l.length tableAt logitsAt then .next s
        else match s.formerImage (k + h.stepOff) h.stepCores 64 with
          | some st => .next (l.foldl (fun (s : State) e => s.endAppend e.1 st) s)
          | none =>
            let ms := l.map fun e => (e.1, e.2.nextTok.getD 0, e.2.len)
            let (u, s1) := s.makeStep ms a.desc k h tableAt logitsAt
            match s1.gang u with
            | none => .next s
            | some g =>
              let cs := cores.map (·.val)
              if s1.waitsAhead u ∨ s.stepAhead (s.stepKey l) then .next s
              else if s1.placement g cs then
                let table := ms.map fun m => (s.seqHandle m.1, m.2)
                .next ((s1.grant g cs).toSpread h.geo (.table h.geo.group table))
              else if g.width ≤ (s1.placePool g).length then .next s
              else if s1.gangClassB g then .next (s.stopGangs (s1.victims g))
              else .next s

/-! ### Acceptance of a step or prefill notice (09 R333, 10 R358) -/

/-- The token of the sequence's next position is recorded; a full page gets its key. -/
def State.recordToken (s : State) (q tok : Nat) : State :=
  match s.seq q with
  | none => s
  | some x =>
    let p := x.len
    let area := s.listKey x + 12288
    let s := s.store (area + 4 * (p % 256)) (leBytes 4 tok)
    let s := if p % 256 = 255 then
        let k := p / 256
        let toks := (List.range 256).map fun i => s.loadNat (area + 4 * i) 4
        s.setChain x k (pfxHash (if k = 0 then 0 else s.chainHash x (k - 1)) toks x.modelId)
      else s
    s.putSeq q { x with len := p + 1 }

def State.recordTokens (s : State) (q : Nat) (toks : List Nat) : State :=
  toks.foldl (fun (s : State) t => s.recordToken q t) s

/-- A logit row waits for its token step. -/
def State.queueRow (s : State) (q key : Nat) : State :=
  let s := s.updAct q fun a => { a with row := some key }
  { s with text := { s.text with rows := s.text.rows ++ [q] } }

/-- A prefill chunk has been appended. -/
def State.acceptChunk (s : State) (r : StepRun) (q : Nat) (x : Seq) (a : Appending) : State :=
  let n := r.prefill.length
  let s := (s.recordTokens q r.prefill).updSeq q fun x => { x with pendingTok := none }
  let s := s.updAct q fun a => { a with tokens := a.tokens.drop n, appended := a.appended + n }
  match r.logits with
  | some key => if x.geo.spreadIdx = 0 then s.queueRow q key else s
  | none => if a.tokens.length = n then s.endAppend q .ok else s

/-- One entry of a decode step. -/
def State.acceptEntry (s : State) (r : StepRun) (i : Nat) (m : Nat × Nat × Nat) (live : Bool) : State :=
  match s.seq m.1 with
  | none => s.addSat (sampA 0x4C) 0 32 1
  | some x =>
    if !live then s.addSat (sampA 0x4C) 0 32 1
    else
      let s := (s.recordToken m.1 m.2.1).updSeq m.1 fun x => { x with nextTok := none }
      let s := s.updAct m.1 fun a => { a with appended := a.appended + 1 }
      if x.geo.spreadIdx = 0 then s.queueRow m.1 (r.logits.getD 0 + i * r.rowBytes) else s

/-- The notice of gang `u` is accepted. -/
def State.acceptStep (s : State) (u : Nat) : State :=
  match s.text.steps.find? fun r => r.gang == u with
  | none => s
  | some r =>
    let live := fun (q : Nat) => (s.seq q).any fun x => x.act.any fun a => a.gang == some u
    let lives := r.members.map fun m => live m.1
    let s := s.unuse u
    let s := { s with text := { s.text with steps := s.text.steps.filter fun x => x.gang != u } }
    match r.prefill, r.members with
    | _ :: _, [m] =>
      match s.seq m.1 with
      | none => s
      | some x => match x.act with
        | some a =>
          if lives == [true] then s.acceptChunk r m.1 x a
          else if r.logits.isSome then s.addSat (sampA 0x4C) 0 32 1 else s
        | none => if r.logits.isSome then s.addSat (sampA 0x4C) 0 32 1 else s
    | _, _ =>
      (((List.range r.members.length).zip r.members).zip lives).foldl
        (fun (s : State) (e : (Nat × Nat × Nat × Nat) × Bool) => s.acceptEntry r e.1.1 e.1.2 e.2) s

/-! ### Spread sequences (09 R334) -/

/-- The sequence may take part in a step that another package formed. -/
def State.spreadReady (s : State) (r q : Nat) : Bool :=
  (s.seq q).any fun x => x.region == r && x.geo.spreadIdx != 0 && x.pre = .inPlace && x.lost.isNone &&
    x.act.any fun a => a.pretoks.isEmpty && a.tokens.isEmpty && a.gang.isNone

/-- A delivered message from the package with SPREAD_IDX 0 that `sel` admits. -/
def State.spreadMsg (s : State) (g : Geo) (sel : KlBody → Bool) : Option (Nat × KlBody) :=
  s.kl.inbox.find? fun e => e.1 == s.rankPkg g.group 0 && sel e.2

/-- A step table with these tokens and lengths. -/
def isTable (g : Geo) (l : List (Nat × Nat)) (b : KlBody) : Bool :=
  match b with
  | .table n ms => n == g.group && ms.map Prod.snd == l
  | _ => false

def isToken (tok : Nat) (b : KlBody) : Bool :=
  match b with
  | .token _ t => t == tok
  | _ => false

def State.takeMsg (s : State) (e : Nat × KlBody) : State := s.withKl fun k => { k with inbox := k.inbox.erase e }

/-- 09 R334: the step table arrives at a member, which runs the step. `rows` gives its own sequences and their
tokens in the order of the table. -/
def execStepTableReceived (region : Nat) (rows : List (Nat × Nat)) (tableAt logitsAt : Nat) (s : State) : Next :=
  match rows with
  | [] => .next s
  | f :: _ => match s.seq f.1 with
    | none => .next s
    | some x => match x.act with
      | none => .next s
      | some a => match s.actModel x a with
        | none => .next s
        | some (k, h) =>
          let ms := rows.map fun e => (e.1, e.2, ((s.seq e.1).map fun y => y.len).getD 0)
          let ok := rows.all (fun e => s.spreadReady region e.1) && decide (rows.map Prod.fst).Nodup &&
            decide (rows.length ≤ h.stepMax) && s.stepRoom h rows.length tableAt logitsAt
          match s.spreadMsg h.geo (isTable h.geo (ms.map Prod.snd)) with
          | none => .next s
          | some e =>
            if !ok then .next s
            else
              let s := s.takeMsg e
              match s.formerImage (k + h.stepOff) h.stepCores 64 with
              | some st => .next (rows.foldl (fun (s : State) (e : Nat × Nat) => s.endAppend e.1 st) s)
              | none => .next (s.makeStep ms a.desc k h tableAt logitsAt).2

/-- A token chosen for the sequence ends its append or becomes its next token (09 R332). -/
def State.tokenChosen (s : State) (q tok : Nat) : State :=
  let (t, s) := s.newUid
  let s := s.updAct q fun a => { a with generated := a.generated + 1, readyAt := t }
  if (s.seq q).any fun x => x.act.any fun a => decide (a.desc.genMax ≤ a.generated) then
    (s.updSeq q fun x => { x with pendingTok := some tok }).endAppend q .ok
  else s.updSeq q fun x => { x with nextTok := some tok }

/-- 09 R334: a member receives the token that the package with SPREAD_IDX 0 chose. -/
def execSpreadTokenReceived (seq tok : Nat) (s : State) : Next :=
  match s.seq seq with
  | none => .next s
  | some x => match x.act with
    | none => .next s
    | some a => match s.actModel x a with
      | none => .next s
      | some (_, h) =>
        if x.geo.spreadIdx = 0 ∨ x.nextTok.isSome ∨ a.gang.isSome ∨ !a.tokens.isEmpty ∨ !a.pretoks.isEmpty ∨
            a.desc.genMax = 0 then .next s
        else match s.spreadMsg x.geo (isToken tok) with
        | none => .next s
        | some e =>
        let s := s.takeMsg e
        if tok = h.eos then .next (s.endAppend seq .ok)
        else if x.limit ≤ x.len then .next (s.endAppend seq .lengthLimit)
        else .next (s.tokenChosen seq tok)

/-! ### Masks (11 R401 to R405) -/

/-- The machine's state for the next token (11 R401). -/
def State.machineAt (s : State) (x : Seq) (a : Appending) (g : Grammar) : Nat × List Nat :=
  let fresh := (g.start, [])
  let r := a.grammar.getD noRegion
  match x.gram with
  | some k =>
    if k.region = r ∧ some k.gen = s.heldGen a.desc.uid r ∧ (a.desc.nat 24 4 = 0 ∨ 0 < a.generated) then (k.st, k.stack)
    else fresh
  | none => fresh

/-- The grammar's policy ends the append (11 R403). -/
def State.gramEnd (s : State) (q : Nat) (x : Seq) (g : Grammar) (isOver : Bool) (st depth : Nat) : State :=
  let h := s.seqHandle q
  let s := if isOver then (s.addSat (grmA 0x4C) 0 32 1).raise 0x7001 0x1711 [.w h, .w st] x.ctx
    else (s.addSat (grmA 0x48) 0 32 1).raise 0x7001 0x1710 [.w h, .w st, .w depth] x.ctx
  let force := g.policy == 2 || (g.policy == 0 && s.bit (grmA 0x40) 0)
  ((if force then s.endText q else s).unqueueRow q).endAppend q (if isOver then .grammarStackLimit else .grammarDeadEnd)

/-- Count a mask and its time (11 R405, R410). -/
def State.countMask (s : State) (q : Nat) (x : Seq) (ns : Nat) : State :=
  let s := s.addSat64 (grmA 0x50) 1
  let s := s.setFld (grmA 0x44) 0 16 (max (s.fld (grmA 0x44) 0 16) (min ns 65535))
  if 1500 < ns then (s.addSat (grmA 0x58) 0 32 1).raise 0x7001 0x1713 [.w (s.seqHandle q), .d ns] x.ctx else s

/-- The vocabulary, grammar, EOS and mask of an append in progress. -/
def State.actMask (s : State) (x : Seq) (a : Appending) : Option (Grammar × MaskRes) :=
  match s.actVocab a, s.actGrammar a, s.actModel x a with
  | some v, some g, some (_, h) =>
    let (st, stack) := s.machineAt x a g
    some (g, s.gramMask g v h.eos st stack)
  | _, _, _ => none

/-- A sequence whose next token GRM has yet to make a mask for: its SEQ_APPEND has started, or its last token has been
accepted. -/
def Appending.wantsMask (a : Appending) : Bool :=
  a.grammar.isSome && !a.maskReady && decide (a.generated < a.desc.genMax)

/-- The sequence of the next mask: in the order in which tokens were accepted (11 R405). -/
def State.nextMask (s : State) : Option Nat :=
  let at' := fun (e : Nat × Seq) => (e.2.act.map fun a => a.readyAt).getD 0
  ((sortBy (fun (a b : Nat × Seq) => decide (at' a < at' b))
    (s.text.seqs.filter fun e => e.2.geo.spreadIdx == 0 && e.2.act.any Appending.wantsMask)).head?).map Prod.fst

/-- 11 R402 to R405: GRM finishes a mask after `ns`. One that allows no token ends the append once its row is there;
before that, the token step finds it (R403). -/
def execMaskReady (seq ns : Nat) (s : State) : Next :=
  match s.seq seq with
  | none => .next s
  | some x => match x.act with
    | none => .next s
    | some a =>
      if s.nextMask ≠ some seq ∨ !s.worksOn .grm then .next s
      else match s.actMask x a with
        | none => .next s
        | some (g, m) =>
          let s := ((s.countMask seq x ns).countLines (grmA 0x5C)).countLines (txtA 0x68)
          let (st, stack) := s.machineAt x a g
          match m with
          | .gramFault e => .next ((s.unqueueRow seq).gramFault seq (a.grammar.getD 0) e)
          | .textFault id => .next ((s.unqueueRow seq).textFault seq (a.vocab.getD 0) id)
          | .ok l isOver =>
            if l.any id ∨ a.row.isNone then .next (s.updAct seq fun a => { a with maskReady := true })
            else .next (s.gramEnd seq x g isOver st stack.length)

/-! ### The token step (11 R381, R395, R402, R407, 09 R332) -/

/-- What TXT makes of a chosen token: text, bytes written as U+FFFD, hold, first-code-point flag; nothing with
OUT_LEN 0. -/
def State.tokenText (s : State) (x : Seq) (a : Appending) (tok : Nat) : Except Nat Detok :=
  let same : Detok := ⟨[], 0, x.hold, x.wroteCp⟩
  if a.desc.outLen = 0 then .ok same
  else match s.actVocab a with
    | none => .ok same
    | some v => match s.tokenString v tok with
      | .error e => .error e
      | .ok bs =>
        let l := x.hold ++ bs
        .ok (detok v (l.length + 1) l ⟨[], 0, [], x.wroteCp⟩)

/-- What GRM makes of it. -/
def State.tokenGram (s : State) (x : Seq) (a : Appending) (tok : Nat) : Except Nat (Option (Grammar × GramRes)) :=
  match s.actGrammar a, s.actVocab a with
  | some g, some v =>
    let (st, stack) := s.machineAt x a g
    match s.gramString v tok with
    | .error e => .error e
    | .ok bs => .ok (some (g, s.runBytes g st stack bs))
  | _, _ => .ok none

/-- Everything that takes effect together when the step ends. -/
def State.commitToken (s : State) (q tok : Nat) (x : Seq) (a : Appending) (t : Detok) (g : Option (Nat × List Nat)) :
    State :=
  let s := if t.text.isEmpty then s else s.writeText q a t.text
  let s := s.addSat (txtA 0x48) 0 32 t.bad
  let r := a.grammar.getD noRegion
  let gram := match g with
    | some m => (s.heldGen a.desc.uid r).map fun gen => (⟨r, gen, m.1, m.2⟩ : GramState)
    | none => x.gram
  (s.updSeq q fun x => { x with hold := t.hold, wroteCp := t.wrote, gram := gram }).tokenChosen q tok

/-- The chosen token meets the conditions of 09 R332. -/
def State.takeToken (s : State) (q tok : Nat) (x : Seq) (a : Appending) (h : ModelHdr) : State :=
  if tok = h.eos then (s.endText q).endAppend q .ok
  else if x.limit ≤ x.len then (s.endText q).endAppend q .lengthLimit
  else match s.tokenText x a tok with
    | .error e => s.textFault q (a.vocab.getD 0) e
    | .ok t =>
      if a.desc.outLen ≠ 0 ∧ a.desc.outLen < a.written + t.text.length then s.endAppend q .limitRejected
      else match s.tokenGram x a tok with
        | .error e => s.textFault q (a.vocab.getD 0) e
        | .ok none => s.commitToken q tok x a t none
        | .ok (some (g, r)) =>
          let (st, stack) := s.machineAt x a g
          match r with
          | .ok st' stack' => s.commitToken q tok x a t (some (st', stack'))
          | .overflow => s.gramEnd q x g true st stack.length
          | .reject => s.gramFault q (a.grammar.getD 0) st
          | .fault e => s.gramFault q (a.grammar.getD 0) e

/-- The verdicts of the row, and the grammar whose mask allows none: every token without a grammar. -/
def State.rowMask (s : State) (x : Seq) (a : Appending) (vocab : Nat) : List Bool × Option (Grammar × Bool) :=
  match s.actMask x a with
  | some (g, .ok l o) => (l, if l.any id then none else some (g, o))
  | _ => (List.replicate vocab true, none)

/-- The sequence whose row SAMP takes next: by rank, then in the order of acceptance (05 R171, 09 R333). -/
def State.nextRow (s : State) : Option Nat :=
  let key := fun (q : Nat) => [((s.seq q).map fun x => s.rank x.ctx).getD 0, s.text.rows.idxOf q]
  (sortBy (fun (a b : Nat) => keyLt (key a) (key b)) s.text.rows).head?

/-- 11 R381: the token step of the row whose turn it is. -/
def execTokenStep (seq : Nat) (s : State) : Next :=
  match s.seq seq with
  | none => .next s
  | some x => match x.act with
    | none => .next s
    | some a => match a.row, s.actModel x a with
      | some key, some (_, h) =>
        if s.nextRow ≠ some seq ∨ !s.worksOn .samp ∨ (a.vocab.isSome ∧ !s.worksOn .txt) ∨
            (a.grammar.isSome ∧ !s.worksOn .grm) ∨ (a.grammar.isSome ∧ !a.maskReady) then .next s
        else
          let s := s.unqueueRow seq
          let s := s.touch key (4 * h.vocab)
          match firstPoisoned s.poison key (4 * h.vocab) with
          | some l => .next (s.seqPoison seq l)
          | none =>
            let (ok, dead) := s.rowMask x a h.vocab
            if !s.samplerOk a.desc.sampler then .next (s.endAppend seq .limitRejected)
            else match dead with
              | some (g, isOver) =>
                let (st, stack) := s.machineAt x a g
                .next (s.gramEnd seq x g isOver st stack.length)
              | none =>
                let row := (List.range h.vocab).map fun i => (BitVec.ofNat 32 (s.loadNat (key + 4 * i) 4) : F32)
                match sampleRow row ok (s.profile a.desc.sampler) x.seed x.len with
                | (none, _) => .next s
                | (some tok, notes) =>
                  let s := (s.addSat (sampA 0x48) 0 32 notes).addSat64 (sampA 0x40) 1
                  let a := { a with row := none, maskReady := false, nonfinite := a.nonfinite + notes }
                  let s := s.updAct seq fun _ => a
                  let s := if a.vocab.isSome then s.countLines (txtA 0x68) else s
                  let s := if a.grammar.isSome then s.countLines (grmA 0x5C) else s
                  .next ((s.toSpread x.geo (.token (s.seqHandle seq) tok)).takeToken seq tok x a h)
      | _, _ => .next s

end Sys2Proof.Machine
end

