-- ==== Sys2Proof/Machine/Cancel.lean ====
section
/-! DEFINITION. Stopping a block's work (04 R150 to R154, 12 R443, 13 R469, 14 R487, 15 R520, 16 R527, R541):
what is in progress completes with one status, what is queued with CANCELLED. -/

namespace Sys2Proof.Machine

/-! ### What a block has in progress or queued -/

/-- Decode streams with a picture on core `n`. -/
def State.decOn (s : State) (n : Nat) : List Nat :=
  (s.media.decs.filter fun e => e.2.pic.any fun p => p.core == n).map Prod.fst

/-- Encode streams with a picture on core `n`. -/
def State.encOn (s : State) (n : Nat) : List Nat :=
  (s.media.encs.filter fun e => e.2.pics.any fun p => p.core == some n).map Prod.fst

/-- Decode streams with queued records that no decoder core will take. -/
def State.decStranded (s : State) : List Nat :=
  (s.media.decs.filter fun e => !e.2.queue.isEmpty && !s.anyDecoder e.2.ctx).map Prod.fst

def State.encStranded (s : State) : List Nat :=
  (s.media.encs.filter fun e => !e.2.pics.isEmpty && !s.anyEncoder e.2.ctx).map Prod.fst

/-- A SEQ_APPEND in progress uses TXT, GRM or SAMP. -/
def Appending.uses (a : Appending) (b : Blk) : Bool :=
  match b with
  | .txt => a.vocab.isSome
  | .grm => a.grammar.isSome
  | .samp => a.desc.genMax != 0
  | _ => false

def State.appendsOn (s : State) (b : Blk) : List Nat :=
  (s.text.seqs.filter fun e => e.2.act.any fun a => a.uses b).map Prod.fst

/-- Queued SEQ_APPENDs that have work for the block, with their sequences (04 R151, R153). -/
def State.queuedAppends (s : State) (b : Blk) : List (Nat × Desc) :=
  s.text.seqs.flatMap fun e =>
    let wait := e.2.ops.filter fun u => !(e.2.act.any fun a => a.desc.uid == u)
    (wait.filterMap fun u => s.descOf e.2.ctx u).filterMap fun d =>
      if d.cls == 0x07 && d.usesText e.2 b then some (e.1, d) else none

/-- COPY descriptors that have started. -/
def State.copies (s : State) : List Desc :=
  (List.range 256).flatMap fun n => (s.startedDescs n).filter fun d => d.cls == 0x02

def State.tapsWriting (s : State) : Bool :=
  s.media.decs.any fun e => e.2.pic.any fun p => p.taps.any fun t => t.writes

/-- PG_STAT.BUSY: the block has work in progress or queued (02 R59). -/
def State.hasWork (s : State) (b : Blk) (n : Nat) : Bool :=
  match b with
  | .co => (s.core n).gang.isSome
  | .cl => s.sliceClears.any fun c => c.cl == n
  | .dec => !(s.decOn n).isEmpty || !s.decStranded.isEmpty
  | .enc => !(s.encOn n).isEmpty || !s.encStranded.isEmpty
  | .ttb => s.tapsWriting
  | .csi => s.media.cams.any fun e => e.2.p.port == n && e.2.frames.any fun f => !f.ended
  | .isp => s.media.cams.any fun e => e.2.p.port == n && !e.2.frames.isEmpty
  | .scn | .afe | .mot => s.scan.job.isSome
  | .txt | .grm | .samp => !(s.appendsOn b).isEmpty || !(s.queuedAppends b).isEmpty
  | .yard => !s.copies.isEmpty || !s.regionJobs.isEmpty || s.yard.running.isSome || !s.yard.cmds.isEmpty
  | .pfx => s.yard.flush.isSome
  | .smp => !s.smp.runs.isEmpty
  | .coll => !s.kl.ops.isEmpty || (List.range 64).any fun c => !(s.core c).coll.isEmpty
  | .sbox => !s.sbox.gangs.isEmpty
  | .ctx => s.ctxState n == stRunning || s.ctxState n == stQuiescing
  | .evr => !s.evr.intake.isEmpty || s.evr.searching.isSome
  | _ => false

/-! ### Stopping it -/

/-- After an abort the outputs of the STOREs at the front of a core's MEs and the next 4 KiB of its data mover's
descriptors are undefined (04 R150, R153). -/
def State.spoilCore (s : State) (c : Nat) : State :=
  let s := (List.range 4).foldl (fun (s : State) m => s.spoilStore c m) s
  (s.spoilDm c 0).spoilDm c 1

/-- The RUN on a core ends. The count that its RESULT gives (04 R151) is stated nowhere: a free value. -/
def State.cancelCore (s : State) (c : Nat) (st : Status) : State :=
  match s.gangOf c with
  | some g =>
    let s := if st = .aborted then g.cores.foldl (fun (s : State) k => s.spoilCore k) s else s
    let (v, s) := s.newFree
    s.finishGang g st (Config.freeWord v g.uid).toNat
  | none => s

/-- 12 R443, 02 R651: pictures on a decoder core; queued records where no core is left. -/
def State.cancelDec (s : State) (n : Nat) (st : Status) : State :=
  let s := (s.decOn n).foldl (fun (s : State) i => s.stopPicture i st) s
  let one := fun (i : Nat) (s : State) (r : AuRec) => match s.dec i with
    | some d => s.dropAu i { d with queue := [] } r .cancelled
    | none => s
  s.decStranded.foldl (fun (s : State) i => (((s.dec i).map DecStream.queue).getD []).foldl (one i) s) s

def State.cancelEnc (s : State) (n : Nat) (st : Status) : State :=
  let s := (s.encOn n).foldl (fun (s : State) i => s.stopEncode i st) s
  let drop := fun (s : State) (i : Nat) =>
    match s.enc i with
    | none => s
    | some e => e.pics.foldl (fun (s : State) _ => s.stopEncode i .cancelled) s
  (s.encStranded.foldl drop s).encStartAll

/-- 12 R435: every tap of the pictures in progress that has not finished writes no more; after an abort its next row or
box is undefined (04 R153). -/
def State.cancelTaps (s : State) (st : Status) : State :=
  let spoil := fun (s : State) (d : DecStream) (p : Picture) (t : PicTap) =>
    match d.taps.look? t.tap with
    | some cur =>
      if t.writes ∧ t.done < s.tapTotal p t.cfg then
        let n := t.cfg.outW * t.cfg.step
        let rows := if t.cfg.boxes then t.cfg.outH else 1
        s.undefineAt (t.cfg.slot cur.written + BitVec.ofNat 64 (t.done * rows * n)) (rows * n)
      else s
    | none => s
  let s := if st = .aborted then s.media.decs.foldl (fun (s : State) (e : Nat × DecStream) =>
      match e.2.pic with
      | some p => p.taps.foldl (fun (s : State) t => spoil s e.2 p t) s
      | none => s) s else s
  let stop := fun (e : Nat × DecStream) =>
    (e.1, { e.2 with pic := e.2.pic.map fun p => { p with taps := p.taps.map fun t =>
      { t with writes := t.writes && t.done == s.tapTotal p t.cfg, begun := true } } })
  { s with media := { s.media with decs := s.media.decs.map stop } }

/-- After an abort the next output line of a frame's tensor and of its YUV picture is undefined (04 R153). -/
def State.spoilFrame (s : State) (c : CamStream) (f : CamFrame) : State :=
  if ¬ f.dispatched ∨ f.discard.isSome then s
  else
    let t := c.p.tap
    let n := t.outW * t.step
    let s := if f.writes ∧ f.rows < t.outH then
        s.undefineAt (t.slot c.written + BitVec.ofNat 64 (f.rows * n)) n else s
    if c.p.yuv ∧ f.yuvRows < c.p.height / 2 then s.spoilYuv c f f.yuvRows else s

/-- 13 R469: the frames in progress of a port. -/
def State.cancelCam (s : State) (port : Nat) (st : Status) : State :=
  match s.camOf port with
  | some (i, c) =>
    let s := if st = .aborted then c.frames.foldl (fun (s : State) f => s.spoilFrame c f) s else s
    c.frames.foldl (fun (s : State) f => s.endFrame i f (BitVec.ofNat 8 st.code)) s
  | none => s

/-- After an abort the output line that follows a side's good lines is undefined (04 R153). -/
def State.spoilSheet (s : State) (j : ScanJob) (sh : Sheet) : State :=
  let one := fun (s : State) (side : Nat) =>
    let y := s.outLines j (sh.side side).stored
    if (if side = 0 then scansFront j else decide (1 < j.sides)) ∧ y < j.maxLines then
      s.undefineAt (j.sideAddr sh.page side + BitVec.ofNat 64 (y * j.width * j.chans)) (j.width * j.chans)
    else s
  if sh.ended.isSome then s else one (one s 0) 1

/-- 14 R487, R496: the sheet keeps its lines so far; the job ends. -/
def State.cancelScan (s : State) (st : Status) : State :=
  if s.scan.job.any fun j => j.final.isNone then
    let b := BitVec.ofNat 8 st.code
    let s := match s.scan.job with
      | some j => if st = Status.aborted then s.scan.sheets.foldl (fun (s : State) x => s.spoilSheet j x) s else s
      | none => s
    ((s.stopMotor mStopped).cutSheet b true).endJob sIdle b
  else s

/-- 04 R151, R153, 11 R381: the SEQ_APPENDs in progress end with `st`, the queued ones with CANCELLED; after an abort
OUT is undefined beyond RESULT2. -/
def State.cancelText (s : State) (b : Blk) (st : Status) : State :=
  let drop := fun (s : State) (e : Nat × Desc) =>
    ((s.complete e.2 .cancelled 0 0).releaseHolds e.2.uid).updSeq e.1 fun x =>
      { x with ops := x.ops.filter (· != e.2.uid) }
  let stop := fun (s : State) (q : Nat) =>
    match (s.seq q).bind fun x => x.act with
    | some a =>
      let s := if st = .aborted ∧ a.desc.genMax ≠ 0 then
          s.undefineAt (a.desc.addr 40 + BitVec.ofNat 64 a.written) (a.desc.outLen - a.written) else s
      s.endAppend q st
    | none => s
  (s.appendsOn b).foldl stop ((s.queuedAppends b).foldl drop s)

/-- Copies and region updates of the Yard. -/
def State.cancelYard (s : State) (st : Status) : State :=
  let ab := decide (st = .aborted)
  let s := s.copies.foldl (fun (s : State) d => s.stopCopy d st ab) s
  let wait := s.regionJobs.filter fun j => !j.started
  let run := s.regionJobs.filter fun j => j.started
  let s := wait.foldl (fun (s : State) j => s.stopJob j .cancelled false) s
  run.foldl (fun (s : State) j => s.stopJob j st ab) s

/-- 15 R520: the entries and data of issued positions of unreleased steps become undefined; the headers stay. -/
def State.spoilRun (s : State) (r : SmpRun) : State :=
  let p0 := (r.first + r.released) * r.batch
  (upFrom p0 (min r.next ((r.first + r.steps) * r.batch) - p0)).foldl (fun (s : State) pos =>
    let k := pos / max 1 r.batch
    let j := pos % max 1 r.batch
    (s.undefineAt (r.slot k + BitVec.ofNat 64 (64 + 32 * j)) 32).undefineAt (r.dataAddr k j) r.block.sb) s

/-- 15 R520: each lane finishes its sample; one that waits for its buffers has begun none. -/
def State.finishLanes (s : State) : State :=
  s.smp.lanes.keys.foldl (fun (s : State) n => (s.laneDone n).getD s) s

/-- 15 R520: the run in progress of each pipeline ends with `st`, the runs behind it are cancelled. An abort ends the
samples in progress; otherwise the lanes finish them. -/
def State.cancelSmp (s : State) (st : Status) : State :=
  let s := if st = .aborted then s.smp.runs.foldl (fun (s : State) r => s.spoilRun r) s else s.finishLanes
  let now := (List.range 4).filterMap fun p => (s.pipeRun p).map fun r => r.desc.uid
  s.smp.runs.foldl (fun (s : State) r =>
    s.smpEnd r (if now.contains r.desc.uid then st else .cancelled)) s

/-- 16 R541: operations in flight end with `st`; launches that have not started are taken up and cancelled. -/
def State.cancelColl (s : State) (st : Status) : State :=
  let s := s.kl.ops.foldl (fun (s : State) o => s.collFinish o (BitVec.ofNat 8 st.code)) s
  let waiting := fun (s : State) (c : Nat) =>
    match s.gangOf c, (s.core c).coll with
    | some g, l :: _ => s.collStart c (fieldOf (s.bayLoad (kBay c l.addr) 1) 0 1) g l
    | _, _ => s
  let finish' := fun (s : State) (o : CollOp) => s.collFinish o (BitVec.ofNat 8 Status.cancelled.code)
  let round := fun (s : State) (_ : Nat) =>
    let s := (List.range 64).foldl waiting s
    s.kl.ops.foldl finish' s
  (List.range 4).foldl round s

/-- 16 R527: the port is DISABLED, and treated as DOWN for routing at once. -/
def State.disablePort (s : State) (n : Nat) : State :=
  ((s.setFld (klA n 0x40) 0 3 kDisabled).setFld (klA n 0x40) 3 1 0).handOver n

/-- Everything the block has in progress completes with `st`, everything queued with CANCELLED (04 R151,
R153). A block that 04 R150 gives no atom has nothing to complete. -/
def State.stopWork (s : State) (b : Blk) (n : Nat) (st : Status) : State :=
  match b with
  | .co => s.cancelCore n st
  | .dec => s.cancelDec n st
  | .enc => s.cancelEnc n st
  | .ttb => s.cancelTaps st
  | .csi | .isp => s.cancelCam n st
  | .scn | .afe | .mot => s.cancelScan st
  | .txt | .grm | .samp => s.cancelText b st
  | .yard => s.cancelYard st
  | .smp => s.cancelSmp st
  | .coll => s.cancelColl st
  | .kl => s.disablePort n
  | _ => s

/-- The block accepts nothing while its work is being stopped. -/
def State.cancelBlock (s : State) (b : Blk) (n : Nat) (st : Status) : State :=
  let k := slotOf b n
  let was := (s.page k).stopping
  let s := s.setPage k { s.page k with stopping := .disabling }
  let s := s.stopWork b n st
  s.setPage k { s.page k with stopping := was }

end Sys2Proof.Machine
end

