-- ==== Sys2Proof/Machine/Contexts.lean ====
section
/-! DEFINITION. Contexts (04 R114 to R120): OPEN with its ring check and the admission test (05 R156 to R160),
CLOSE, RESET, function-level resets of VFs, FAULTED, and descriptor fetch (R123) and completion (01 R33, 04 R117). -/

namespace Sys2Proof.Machine

def ctxSrc (n : Nat) : Nat := 0x1000 + n

/-- LAST_STATUS (04 R127). -/
def State.setLastStatus (s : State) (n : Nat) (st : Status) : State := s.setFld (cr n 0x40) 8 8 st.code

/-- 04 R115: a command that the state does not allow. -/
def State.ctxIgnored (s : State) (n : Nat) : State := s.raise (ctxSrc n) 0x11A0 [] n

/-- VF vector 0: a context of the VF has entered FAULTED or FREE (04 R129). -/
def State.tellVf (s : State) (n : Nat) : State :=
  let fn := s.ctxFunc n
  if fn = 0 then s else s.sendMsi fn 0

/-! ### OPEN -/

/-- A ring's base and size (04 R116). -/
def State.ringOk (s : State) (n : Nat) (base : Word64) (size entry : Nat) : Bool :=
  decide (6 ≤ size) && decide (size ≤ 16) && base.toNat % 4096 == 0 && addrForm base != 3 &&
  s.addrOk (s.ctxFunc n) base (2 ^ size * entry)

/-- 04 R116. -/
def State.ringsValid (s : State) (n : Nat) : Bool :=
  let vec := s.fld (cr n 0xA0) 0 11
  let vecOk := if s.ctxFunc n = 0 then decide (2 ≤ vec) && decide (vec ≤ 1087) else decide (1 ≤ vec) && decide (vec ≤ 63)
  vecOk && s.ringOk n (s.rd64 (cr n 0x90)) (s.cqSize n) 32 &&
  (List.range (s.fld (cr n 0x4C) 0 2 + 1)).all fun q =>
    s.ringOk n (s.rd64 (cr n (0x50 + q * 0x10))) (s.sqSize n q) 64

/-- The ranges of 05 R156. -/
def State.admRange (s : State) (n : Nat) : Bool :=
  let us := (s.rd (cr n 0x104)).toNat
  let kc := (s.rd (cr n 0x108)).toNat
  let lo := s.fld (cr n 0x10C) 0 7
  let hi := s.fld (cr n 0x10C) 8 7
  decide (lo ≤ hi) && decide (hi ≤ 64) &&
  if us = 0 then kc == 0 else decide (100 ≤ us) && decide (us ≤ 10000000) && decide (1 ≤ lo)

/-- The save area (05 R157). -/
def State.saveArea (s : State) (n : Nat) : Bool :=
  let hi := s.fld (cr n 0x10C) 8 7
  let frames := s.fld (cr n 0x11C) 0 17
  let base := BitVec.ofNat 64 ((s.rd (cr n 0x114)).toNat + (s.rd (cr n 0x118)).toNat * 2 ^ 32)
  let need := hi * (1 + s.fld (ro .sbox 0 (0x800 + 4 * n)) 0 1)
  hi == 0 ||
  (base.toNat % 0x200000 == 0 && addrForm base == 0 && decide (need ≤ frames) &&
    s.addrOk (s.ctxFunc n) base (frames * 0x200000))

/-- ADM_STAT.REFUSE as the test of 05 R160 finds it, with the load; `s` already counts the new context in. -/
def State.admTest (s : State) (n : Nat) : Nat × Nat :=
  let k := s.capacity.atMhz (s.actFld (ro .sbox 0 0x48) 0 11)
  let (bs, load) := evaluate k (s.admitted.map s.admIn)
  let gains := fun (b : Nat) => bs.any fun (e : Nat × Nat) =>
    e.2 / b % 2 == 1 && (e.1 == n || s.broken e.1 / b % 2 == 0)
  let why :=
    if !s.admRange n then 1 else if !s.saveArea n then 5
    else if gains bCores then 2 else if gains bLatency then 3 else if gains bMemory then 4 else 0
  (why, load)

/-- Records that wait for a place end no descriptor of rings that begin anew. -/
def Ctx.lone (c : Ctx) : Ctx :=
  let one := fun (r : Rec) => { r with ends := none }
  { c with held := c.held.map one, atSource := c.atSource.map one }

/-- 04 R116, R119: every count of the rings starts at 0. -/
def State.zeroRings (s : State) (n : Nat) : State :=
  let s := (List.range 4).foldl (fun (s : State) q =>
    (s.wr (cr n (0x5C + q * 0x10)) 0).wr (cr n (0xB0 + q * 4)) 0) s
  s.setCtx n { (s.ctx n).lone with tails := [], descs := [], doneAhead := [] }

/-- A context that has become FREE: what its completion ring had no place for still waits, since a held record is never
dropped (04 R124). -/
def Ctx.freed (c : Ctx) : Ctx :=
  let c := c.lone
  { Ctx.reset with held := c.held, atSource := c.atSource, lostNotices := c.lostNotices, stallLogged := c.stallLogged,
                   overflowLogged := c.overflowLogged, phase := c.phase, tolWrittenAt := c.tolWrittenAt }

/-- An accepted OPEN (04 R116, 05 R160, R168). -/
def State.openAccepted (s : State) (n load : Nat) : State :=
  let us := (s.rd (cr n 0x104)).toNat
  let s := s.zeroRings n
  let s := s.setCtx n { (s.ctx n).freed with admitted := true, periodAt := s.gts, heldWholePeriod := true, phase := true }
  let s := ((s.wr (cr n 0x9C) 0).wr (cr n 0xC0) 0).wr (cr n 0xC4) 0
  let s := ((s.wr (cr n 0x134) 0).wr (cr n 0x138) 0).wr (cr n 0x13C) 0
  let s := s.setFld (cr n 0x120) 0 4 0
  let s := s.wr (cr n 0x130) (BitVec.ofNat 32 (s.fld (cr n 0x10C) 0 7 * (s.rd (cr n 0x108)).toNat))
  let s := s.wr64 (cr n 0x128) (if us = 0 then 0 else BitVec.ofNat 64 (s.gts + us * 1000))
  let s := (s.setCtxState n stOpen).raise 0x1100 0x01C0 [.w (s.admOrder n), .w load] n
  (s.drainHeld n ((s.ctx n).held.length + (s.ctx n).atSource.length + 2)).evalAdmission 8

/-- 04 R115, R116, 05 R160: CTX_CMD.CMD = OPEN. -/
def State.openCtx (s : State) (n : Nat) : State :=
  if s.ctxState n ≠ stFree then s.ctxIgnored n
  else if !s.ringsValid n then s.setLastStatus n .invalidDescriptor
  else
    let order := s.rd (ro .sbox 0 0x60)
    let t := (s.wr (cr n 0x124) order).setCtx n { s.ctx n with admitted := true }
    let (why, load) := t.admTest n
    if why = 0 then
      (((s.wr (cr n 0x124) order).wr (ro .sbox 0 0x60) (order + 1)).openAccepted n load)
    else
      ((s.setLastStatus n .limitRejected).setFld (cr n 0x120) 8 4 why).raise 0x1100 0x11C1 [.w why] n

/-! ### Leaving: abort, close, faults -/

/-- 02 R75: pages that the context owns. Context 255 owns none (02 R73). No access causes OWNER_RELEASED, so R78 gives
its FUNC no number; DESIGN CHOICE: the context's function, BAR 0 and the offset of PG_OWNER (log 21). -/
def State.releaseOwned (s : State) (n : Nat) : State :=
  if n = 255 then s
  else
    (s.pages.filter fun e => e.2.ownerCtx.toNat == n).foldl (fun (s : State) (e : Nat × Page) =>
      (s.setPage e.1 { s.page e.1 with ownerCtx := 0xFF, locked := false }).raise 0x1120 0x0185
        [.w 0, .d (e.1 * 0x1000 + 0x24)] n) s

/-- The context becomes FREE: its admission is released (05 R185), its pages revert (02 R75). -/
def State.freeCtx (s : State) (n : Nat) : State :=
  let s := s.setCtx n (s.ctx n).freed
  let s := (s.setFld (cr n 0x120) 0 4 0).setFld (cr n 0x120) 23 1 0
  let s := ((s.setCtxState n stFree).releaseOwned n).tellVf n
  s.evalAdmission (s.sbox.evalDue.getD 0)

/-- Descriptors that have started and that no unit answers for any more. -/
def State.endStarted (s : State) (n : Nat) (st : Status) : State :=
  (s.startedDescs n).foldl (fun (s : State) d => (s.complete d st 0 0).releaseHolds d.uid) s

/-- The gangs of a context stop (05 R179), and its SEQ_APPENDs with the RUNs that serve them alone. -/
def State.abortPrograms (s : State) (n : Nat) : State :=
  let s := (s.sbox.gangs.filter fun g => g.ctx == n && !s.isStepRun g.uid).foldl
    (fun (s : State) g => s.finishGang g .aborted 0) s
  let qs := (s.text.seqs.filter fun e => e.2.ctx == n && e.2.act.isSome).map Prod.fst
  qs.foldl (fun (s : State) q => (s.stopRunOf q).endAppend q .aborted) s

/-- Copies, region updates and sample runs of a context (04 R153, 15 R520). -/
def State.abortTransfers (s : State) (n : Nat) : State :=
  let s := (s.copies.filter fun d => d.ctx == n).foldl (fun (s : State) d => s.stopCopy d .aborted true) s
  let jobs := s.regionJobs.filter fun j => j.desc.ctx == n
  let s := jobs.foldl (fun (s : State) j => s.stopJob j .aborted true) s
  (s.smp.runs.filter fun r => r.desc.ctx == n).foldl (fun (s : State) r => s.smpEnd r .aborted) s

/-- The scan job of a context ends at the current line (04 R118, 14 R487). -/
def State.abortScan (s : State) (n : Nat) : State :=
  if (s.jobOf n).isSome then (s.cancelScan .aborted).flushRing else s

/-- No stream of the context waits for a STREAM_CLOSE or STREAM_TAP any more. -/
def State.dropClosings (s : State) (n : Nat) : State :=
  let dec := fun (e : Nat × DecStream) =>
    if e.2.ctx = n then (e.1, { e.2 with closing := none, drainTo := none, changes := [] }) else e
  let enc := fun (e : Nat × EncStream) =>
    if e.2.ctx = n then (e.1, { e.2 with closing := none, drainTo := none }) else e
  let cam := fun (e : Nat × CamStream) => if e.2.ctx = n then (e.1, { e.2 with closing := none }) else e
  { s with media := { s.media with
      decs := s.media.decs.map dec, encs := s.media.encs.map enc, cams := s.media.cams.map cam } }

/-- Every started descriptor of the context ends with ABORTED (04 R117, R119 step 1). -/
def State.abortStarted (s : State) (n : Nat) : State :=
  ((((s.abortPrograms n).abortTransfers n).abortScan n).endStarted n .aborted).dropClosings n

/-- 04 R118: sequences close without publishing, streams with abort. -/
def State.closeObjects (s : State) (n : Nat) : State :=
  let s := ((s.text.seqs.filter fun e => e.2.ctx == n).map Prod.fst).foldl
    (fun (s : State) q => s.closeSeq q) s
  let dec := fun (s : State) (i : Nat) =>
    match s.dec i with
    | some d =>
      let s := (s.setDec i { d with changes := [] }).abortDec i
      match s.dec i with
      | some d => s.releaseDec i d
      | none => s
    | none => s
  let enc := fun (s : State) (i : Nat) =>
    let s := s.abortEnc i
    match s.enc i with
    | some e => s.releaseEnc i e
    | none => s
  let cam := fun (s : State) (i : Nat) =>
    let s := s.abortCam i
    match s.cam i with
    | some c => s.releaseCam i c
    | none => s
  let s := ((s.media.decs.filter fun e => e.2.ctx == n).map Prod.fst).foldl dec s
  let s := ((s.media.encs.filter fun e => e.2.ctx == n).map Prod.fst).foldl enc s
  let s := ((s.media.cams.filter fun e => e.2.ctx == n).map Prod.fst).foldl cam s
  s.abortScan n

/-- What a notice of the current epoch leaves behind: its record, or for a QUIET descriptor only its end. -/
def State.takeNotice (s : State) (x : Notice) : State :=
  if x.quiet then
    match x.entry.ends with
    | some pos => s.markDone x.ctx x.entry.sq pos
    | none => s
  else s.deliver x.ctx x.entry

/-- The notices of a context that are on their way arrive (04 R119 step 2). -/
def State.deliverAll (s : State) (n : Nat) : State :=
  let mine := s.notices.filter fun x => x.ctx == n && x.step.isNone && x.epoch == s.ctxEpoch n
  let s := { s with notices := s.notices.filter fun x => x.ctx != n || x.step.isSome }
  mine.foldl (fun (s : State) x => s.takeNotice x) s

/-- 04 R119: the five steps; `free` where the context does not return to OPEN. -/
def State.abortCtx (s : State) (n : Nat) (free : Bool) : State :=
  let s := s.setCtxState n stQuiescing
  let s := s.abortStarted n
  let wait := (s.ctx n).descs.filter fun d => !d.started && !d.ending
  let s := wait.foldl (fun (s : State) d => s.complete d .cancelled 0 0) s
  let s := (s.closeObjects n).deliverAll n
  let s := (s.bumpEpoch (slotOf .ctx n)).staleFences n
  let s := s.zeroRings n
  let s := s.raise (ctxSrc n) 0x01A6 [.w (s.ctxEpoch n).toNat] n
  if free then s.freeCtx n
  else (s.setCtx n { s.ctx n with quiesce := .none }).setCtxState n stOpen

/-- 04 R117: the context enters FAULTED. A fault in QUIESCING turns a drain into an abort (R115). -/
def State.faultCtx (s : State) (n : Nat) (st : Status) : State :=
  let c := s.ctxState n
  if c = stOpen ∨ c = stRunning ∨ c = stPreempted then
    let s := (s.setCtxState n stFaulted).setLastStatus n st
    ((s.abortStarted n).raise (ctxSrc n) 0x31A1 [] n).tellVf n
  else if c = stQuiescing then (s.setLastStatus n st).abortCtx n true
  else s

/-- 04 R115: CTX_CMD.CMD = CLOSE. -/
def State.closeCtx (s : State) (n : Nat) : State :=
  let c := s.ctxState n
  if c = stOpen ∨ c = stRunning ∨ c = stPreempted then
    (s.setCtxState n stQuiescing).setCtx n { s.ctx n with quiesce := .closing }
  else if c = stFaulted then s.abortCtx n true
  else s.ctxIgnored n

/-- 04 R115: CTX_CMD.CMD = RESET. -/
def State.resetCtx (s : State) (n : Nat) : State :=
  let c := s.ctxState n
  if c = stOpen ∨ c = stRunning ∨ c = stPreempted ∨ c = stFaulted then s.abortCtx n false else s.ctxIgnored n

/-- A write of CTX_CMD; other values are ignored (04 R127). -/
def State.ctxCmd (s : State) (n cmd : Nat) : State :=
  if cmd = 1 then s.openCtx n else if cmd = 2 then s.closeCtx n else if cmd = 3 then s.resetCtx n else s

/-- Every descriptor below the tails has been fetched and has ended; a ring bound by a stream holds none. -/
def State.drained (s : State) (n : Nat) : Bool :=
  (s.ctx n).descs.isEmpty &&
  (List.range (s.fld (cr n 0x4C) 0 2 + 1)).all fun q =>
    (s.boundStream n q).isSome || s.sqHead n q == (s.ctx n).tails.look 0 q

/-- 04 R118: the drained context closes its objects and becomes FREE. -/
def execCtxCloseDone (ctx : Fin 256) (s : State) : Next :=
  if s.ctxState ctx = stQuiescing ∧ (s.ctx ctx).quiesce = .closing ∧ s.drained ctx then
    .next (((s.closeObjects ctx).deliverAll ctx).freeCtx ctx)
  else .next s

/-! ### Function-level resets of VFs -/

/-- 04 R120: R119 for every context of the function, then FLR_DONE. -/
def State.vfReset (s : State) (fn : Nat) : State :=
  let l := (List.range 256).filter fun n => s.ctxFunc n == fn && s.ctxState n != stFree
  (l.foldl (fun (s : State) n => s.abortCtx n true) s).raise 0x1120 0x01A7 [] 0xFF fn

/-- 04 R120, 02 R49: FLR of function `fn`, or a link-down, hot reset or FLR on link 1 for function 15. -/
def execVfFlr (fn : Fin 16) (s : State) : Next := if fn.val = 0 then .next s else .next (s.vfReset fn)

/-- 04 R120: VF Enable is cleared: every VF of link 0's SR-IOV capability (02 R49). -/
def execVfEnableClear (s : State) : Next :=
  let last := if s.bit (ro .host 0 0x60) 0 then 14 else 15
  .next ((upFrom 1 last).foldl (fun (s : State) f => s.vfReset f) s)

/-! ### Fetch and completion -/

/-- 04 R123, R145, R117: the next announced descriptor of a ring is fetched. -/
def execDescriptorFetch (ctx : Fin 256) (sq : Fin 4) (pcieError : Bool) (s : State) : Next :=
  let n := ctx.val
  let q := sq.val
  let c := s.ctxState n
  let alive := c = stOpen ∨ c = stRunning ∨ c = stPreempted ∨ (c = stQuiescing ∧ (s.ctx n).quiesce = .closing)
  if ¬ alive ∨ s.fld (cr n 0x4C) 0 2 < q ∨ (s.boundStream n q).isSome ∨
      s.sqHead n q = (s.ctx n).tails.look 0 q then .next s
  else
    let head := s.sqHead n q
    let a := s.rd64 (cr n (0x50 + q * 0x10)) + BitVec.ofNat 64 (head.toNat % 2 ^ s.sqSize n q * 64)
    let k := (addrKey a).getD 0
    let s := s.touch k 64
    if pcieError then .next (s.faultCtx n .deviceFault)
    else if (firstPoisoned s.poison k 64).isSome then .next (s.faultCtx n .eccUncorrectable)
    else
      let (u, s) := s.newUid
      let d : Desc :=
        { uid := u, ctx := n, sq := q, pos := head, epoch := s.ctxEpoch n, bits := BitVec.ofNat 512 (s.loadNat k 64),
          started := false, ending := false, fetchedAt := s.gts, startedAt := 0, startedNow := 0 }
      let s := (s.wr (cr n (0x5C + q * 0x10)) (head + 1)).setCtx n
        { s.ctx n with descs := (s.ctx n).descs ++ [d] }
      .next (if d.cls < 1 ∨ 0x10 < d.cls then s.take n q d.cls (fun _ _ => some .invalidDescriptor) fun s _ => s else s)

/-- 01 R33, 04 R117, R145: the oldest notice reaches the Signal Box. One with an old epoch is dropped; the
notice of a step goes to the batch former (09 R333). -/
def execCompletionNotice (pcieError : Bool) (s : State) : Next :=
  match s.notices with
  | [] => .next s
  | x :: rest =>
    let s := { s with notices := rest }
    match x.step with
    | some u => .next (s.acceptStep u)
    | none =>
      if x.epoch ≠ s.ctxEpoch x.ctx then .next s
      else
        let s := (s.takeNotice x).settle x.ctx
        let st := statusOf x.entry.status
        let s := if x.faults then s.faultCtx x.ctx st else s
        .next (if pcieError ∧ !x.quiet then s.faultCtx x.ctx .deviceFault else s)

/-- 04 R130: the interval of a vector ends and its delayed message is sent. -/
def execMsixCoalesceExpiry (fn : Fin 16) (vec : Fin 1088) (s : State) : Next :=
  let k := vecKey fn vec
  let mine := fun (n : Nat) =>
    s.ctxFunc n == fn.val && s.fld (cr n 0xA0) 0 11 == vec.val && s.fld (cr n 0xA0) 16 8 != 0
  let ended := fun (n : Nat) => mine n &&
    decide ((s.host.vecLast.look 0 k) + s.fld (cr n 0xA0) 16 8 * 1000 ≤ s.gts)
  if s.host.vecDelayed.contains k ∧ (List.range 256).any ended then
    let s := s.sendMsi fn vec
    .next { s with host := { s.host with vecLast := s.host.vecLast.put k s.gts,
                                         vecDelayed := s.host.vecDelayed.filter (· != k) } }
  else .next s

end Sys2Proof.Machine
end

