-- ==== Sys2Proof/Machine/TestAccess.lean ====
section
/-! DEFINITION. Test access and fault injection (19 R620 to R628). -/

namespace Sys2Proof.Machine

def tstA (o : Nat) : Nat := ro .test 0 o

def State.unlocked (s : State) : Bool := s.bit (tstA 0x40) 0

/-- TEST.STAT.PERTURBED (19 R627). -/
def State.countPerturbed (s : State) : State :=
  s.setFld (tstA 0x40) 16 10 (s.pages.filter fun e => e.2.perturb != 0).length

/-- An injection ends without effect; a port no longer waits for it. -/
def State.endInjection (s : State) (result : Nat) : State :=
  let s := match s.test.inj with
    | some i =>
      if i.kind = 5 then s.updPort i.unit fun q => { q with crcBad := 0 }
      else s
    | none => s
  { s.wr (tstA 0x50) (BitVec.ofNat 32 (2 * result)) with test := { s.test with inj := none } }

/-- Test access passes from unlocked to locked (19 R621). -/
def State.lockTest (s : State) : State :=
  if !s.unlocked then s
  else
    let s := { s with pages := s.pages.map fun (e : Nat × Page) => (e.1, { e.2 with perturb := 0, seed := 0 }) }
    let s := (s.setFld (tstA 0x40) 0 1 0).countPerturbed
    let s := if s.test.inj.isSome then s.endInjection 4 else s
    s.raise 0x0007 0x0072 []

def State.setWindow (s : State) (b : Bool) : State := s.setFld (tstA 0x40) 1 1 (if b then 1 else 0)

/-- A write of MGMT.TEST_UNLOCK.KEY takes effect (19 R620). -/
def State.writeUnlock (s : State) (key fn : Nat) : State :=
  if key = 0x7E57 then { s.setWindow true with test := { s.test with windowAt := s.now } }
  else if key = 0x5AFE ∧ s.bit (tstA 0x40) 1 ∧ s.now ≤ s.test.windowAt + 1000000 then
    (((s.setWindow false).setFld (tstA 0x40) 0 1 1)).raise 0x0007 0x1070 [] 0xFF fn
  else if key = 0 then (s.setWindow false).lockTest
  else (s.setWindow false).raise 0x0007 0x1071 [.w key]

def unlockA : Nat := ro .mgmt 0 0x4C

/-- 19 R620: 1 ms passes without 0x5AFE. -/
def execUnlockWindowExpiry (s : State) : Next :=
  if s.bit (tstA 0x40) 1 ∧ s.test.windowAt + 1000000 ≤ s.now then .next (s.setWindow false) else .next s

/-- Bundles of the Coupling that CPL `n` ends (01 R25). -/
def cplBundles (n : Nat) : Nat := if n % 2 = 0 then 50 else 30

/-- The Coupling and direction of a CPL end's sending or receiving side. -/
def cplLink (n : Nat) : Nat := if n = 1 then 1 else if n = 3 then 2 else 0
def cplDir (n : Nat) (rx : Bool) : Nat := if n = 2 then (if rx then 0 else 1) else (if rx then 1 else 0)

/-- The target of an injection exists (19 R625). -/
def State.injTarget (s : State) (kind unit count target : Nat) (addr : Word64) : Bool :=
  match kind with
  | 1 => decide (target < 64) && decide (unit < 4) && !s.absent target
  | 2 | 3 => decide (addrForm addr ≤ 1) && addr.toNat % 64 == 0 && (addrSpace addr).isSome
  | 4 =>
    decide (target < 4) && decide (addr.toNat % 64 < cplBundles target) && decide (addr.toNat / 256 % 32 < 22)
  | _ => decide (unit < 8) && decide (1 ≤ count)

/-- A write of TEST.INJ_CMD takes effect (19 R625). An injected lane is one that the end sends on. -/
def State.writeInj (s : State) (val : Word) : State :=
  let kind := bitsOf val 0 4
  let unit := bitsOf val 4 4
  let count := bitsOf val 8 8
  let target := bitsOf val 16 6
  let addr := s.rd64 (tstA 0x48)
  let fail := fun (r : Nat) => s.setFld (tstA 0x50) 1 3 r
  if !s.unlocked then fail 1
  else if s.bit (tstA 0x50) 0 then s
  else if kind = 0 ∨ 5 < kind then fail 5
  else if !s.injTarget kind unit count target addr then fail 2
  else
    let i : Injection := ⟨kind, unit, if kind = 5 then unit else target, addr, s.now, kind == 4⟩
    let s := { s.wr (tstA 0x50) 1 with test := { s.test with inj := some i } }
    if kind = 4 then
      { s with cpl := { s.cpl with injected := s.cpl.injected ++
        [(cplLink target, cplDir target false, addr.toNat % 64, addr.toNat / 256 % 32)] } }
    else if kind = 5 then s.updPort unit fun q => { q with crcBad := count }
    else s

/-- 19 R625: an armed injection has taken effect. -/
def execFaultInjected (s : State) : Next :=
  match s.test.inj with
  | some i =>
    if i.hit then
      let s := { s.wr (tstA 0x50) 0 with test := { s.test with inj := none } }
      .next (s.raise 0x0007 0x1073 [.w i.kind, .w i.target, .d i.addr.toNat])
    else .next s
  | none => .next s

/-- 19 R625: an injection of kind 1 to 3 is not hit within 1 s. -/
def execInjectNotHit (s : State) : Next :=
  match s.test.inj with
  | some i =>
    if i.kind ≤ 3 ∧ !i.hit ∧ i.since + 1000000000 ≤ s.now then
      .next ((s.endInjection 3).raise 0x0007 0x1074 [.w i.kind, .w i.target])
    else .next s
  | none => .next s

end Sys2Proof.Machine
end

