-- ==== Sys2Proof/Machine/Coupling.lean ====
section
/-! DEFINITION. The lanes and bundles of the Couplings (01 R25, R26, 16 R548 to R550). -/

namespace Sys2Proof.Machine

def cplA (n o : Nat) : Nat := ro .cpl n o

/-- The ends of a Coupling with pages; those to the IOD are controlled from their compute-die end (02 R44). -/
def cplEnds (link : Nat) : List Nat := if link = 0 then [0, 2] else if link = 1 then [1] else [3]

/-- Failed lanes of a bundle in one direction. -/
def State.lanesOut (s : State) (link dir bundle : Nat) : Nat :=
  (s.cpl.lanes.filter fun l => l.1 == link && l.2.1 == dir && l.2.2.1 == bundle).length

/-- Working bundles of a direction (16 R549). -/
def State.bundlesUp (s : State) (link dir : Nat) : Nat :=
  (if link = 0 then 50 else 30) - (s.cpl.out.filter fun b => b.1 == link && b.2.1 == dir).length

/-- STAT, SPARES_USED and BW_PCT of an end (16 R554). -/
def State.showEnd (s : State) (n : Nat) : State :=
  let link := cplLink n
  let tx := s.bundlesUp link (cplDir n false)
  let rx := s.bundlesUp link (cplDir n true)
  let dead := s.cpl.failed.contains link
  let st := if dead then 2 else if tx < cplBundles n ∨ rx < cplBundles n then 1 else 0
  let s := ((s.setFld (cplA n 0x40) 0 2 st).setFld (cplA n 0x40) 8 6 tx).setFld (cplA n 0x40) 16 6 rx
  let s := s.setFld (cplA n 0x44) 0 16 (s.cpl.lanes.filter fun l => l.1 == link).length
  s.setFld (cplA n 0x50) 0 8 (if dead then 0 else min tx rx * 100 / cplBundles n)

def State.showLink (s : State) (link : Nat) : State := (cplEnds link).foldl (fun (s : State) n => s.showEnd n) s

/-- Transfers in flight are sent again; how many there are is not stated. -/
def State.resend (s : State) (n : Nat) : State :=
  let (v, s) := s.newFree
  s.addSat (cplA n 0x4C) 0 32 (Config.freeWord v n).toNat

/-- Source number and die nibble of a Coupling end. -/
def cplSrc (n : Nat) : Nat := srcOf .cpl n
def cplCode (n code : Nat) : Nat := if n < 2 then code else code + 0x100

/-- 16 R548: a lane fails and a spare of its bundle replaces it. -/
def execCplLaneRepaired (cpl : Fin 4) (rx : Bool) (bundle : Fin 50) (lane : Fin 22) (s : State) : Next :=
  let link := cplLink cpl
  let dir := cplDir cpl rx
  let l := (link, dir, bundle.val, lane.val)
  if cplBundles cpl ≤ bundle.val ∨ s.cpl.failed.contains link ∨ s.cpl.out.contains (link, dir, bundle.val) ∨
      s.cpl.lanes.contains l ∨ 2 ≤ s.lanesOut link dir bundle then .next s
  else
    let s := { s with cpl := { s.cpl with lanes := s.cpl.lanes ++ [l] } }.showLink link
    let s := (s.addSat (cplA cpl 0x48) 0 32 1).resend cpl
    .next (s.raise (cplSrc cpl) (cplCode cpl 0x1280) [.w bundle, .w lane])

/-- 16 R549: a third lane of the bundle fails, and the bundle leaves service in that direction. -/
def execCplDegraded (cpl : Fin 4) (rx : Bool) (bundle : Fin 50) (s : State) : Next :=
  let link := cplLink cpl
  let dir := cplDir cpl rx
  if cplBundles cpl ≤ bundle.val ∨ s.cpl.failed.contains link ∨ s.cpl.out.contains (link, dir, bundle.val) ∨
      s.lanesOut link dir bundle < 2 then .next s
  else
    let s := { s with cpl := { s.cpl with out := s.cpl.out ++ [(link, dir, bundle.val)] } }.showLink link
    let s := s.resend cpl
    .next (s.raise (cplSrc cpl) (cplCode cpl 0x2281) [.w (s.bundlesUp link dir)])

end Sys2Proof.Machine
end

