-- ==== Sys2Proof/Machine/Losses.lean ====
section
/-! DEFINITION. What the package loses with a pool, an HBM stack or a compute die (16 R550, R551, 18 R605 to
R607), and the scrub of HBM. -/

namespace Sys2Proof.Machine

/-! ### Lost pools (16 R551, fourth item) -/

/-- Some of `n` bytes from a device address lie in one of the pools. -/
def State.inPools (s : State) (ps : List Nat) (a : Word64) (n : Nat) : Bool :=
  match addrSpace a with
  | some (.hbm b) => (framesOf b n).any fun f => (s.framePool f).any ps.contains
  | _ => false

/-- The save area of a context lies in a lost pool. -/
def State.saveLost (s : State) (ps : List Nat) (n : Nat) : Bool :=
  let base := BitVec.ofNat 64 ((s.rd (cr n 0x114)).toNat + (s.rd (cr n 0x118)).toNat * 2 ^ 32)
  s.ctxState n != stFree && s.inPools ps base (s.fld (cr n 0x11C) 0 17 * frameBytes)

/-- A region has a buffer in a lost pool. -/
def State.regionLost (s : State) (ps : List Nat) (r : Nat) : Bool :=
  (s.region r).any fun e => s.inPools ps e.buf0 e.len || s.inPools ps e.buf1 e.len

/-- Sequences of the pools end their operations with DEVICE_FAULT. -/
def State.loseSeqs (s : State) (ps : List Nat) : State :=
  let l := (s.text.seqs.filter fun e => ps.contains e.2.pool).map Prod.fst
  l.foldl (fun (s : State) q => s.loseSeq q .deviceFault) s

/-- Streams of the pools end what they have in progress. -/
def State.loseStreams (s : State) (ps : List Nat) : State :=
  let ds := (s.media.decs.filter fun e => ps.contains e.2.pool).map Prod.fst
  let es := (s.media.encs.filter fun e => ps.contains e.2.pool).map Prod.fst
  let cs := s.media.cams.filter fun e => ps.contains e.2.pool
  let s := ds.foldl (fun (s : State) i => s.stopPicture i .deviceFault) s
  let s := es.foldl (fun (s : State) i => s.stopEncode i .deviceFault) s
  let code := BitVec.ofNat 8 Status.deviceFault.code
  cs.foldl (fun (s : State) (e : Nat × CamStream) =>
    e.2.frames.foldl (fun (s : State) f => s.endFrame e.1 f code) s) s

/-- Region updates, and RUNs that hold a lost region or whose save area is lost. -/
def State.loseRuns (s : State) (ps : List Nat) : State :=
  let jobs := s.regionJobs.filter fun j => s.regionLost ps j.region
  let held := (s.regionHolds.filter fun h => s.regionLost ps h.region).map fun h => h.holder
  let gangs := s.sbox.gangs.filter fun g => held.contains g.uid || s.saveLost ps g.ctx
  let s := jobs.foldl (fun (s : State) j => s.stopJob j .deviceFault false) s
  gangs.foldl (fun (s : State) g => s.finishGang g .deviceFault 0) s

def ScanJob.lostIn (j : ScanJob) (s : State) (ps : List Nat) : Bool :=
  ps.contains j.pool || s.inPools ps j.dst (j.slotBytes * j.nslot)

def SmpRun.lostIn (r : SmpRun) (s : State) (ps : List Nat) : Bool :=
  ps.contains r.block.pool || s.inPools ps r.block.slot0 (r.block.slotBytes * r.block.nslot)

/-- Contexts with something open in a lost pool. -/
def State.losers (s : State) (ps : List Nat) : List Nat :=
  let held := (s.regionHolds.filter fun h => s.regionLost ps h.region).map fun h => h.holder
  (List.range 256).filter fun n =>
    (s.text.seqs.any fun e => e.2.ctx == n && ps.contains e.2.pool) ||
    (s.media.decs.any fun e => e.2.ctx == n && ps.contains e.2.pool) ||
    (s.media.encs.any fun e => e.2.ctx == n && ps.contains e.2.pool) ||
    (s.media.cams.any fun e => e.2.ctx == n && ps.contains e.2.pool) ||
    (s.scan.job.any fun j => j.desc.ctx == n && j.lostIn s ps) ||
    (s.smp.runs.any fun r => r.desc.ctx == n && r.lostIn s ps) ||
    (s.regionJobs.any fun j => j.desc.ctx == n && s.regionLost ps j.region) ||
    (s.sbox.gangs.any fun g => g.ctx == n && held.contains g.uid) || s.saveLost ps n

/-- Every object in the pools ends its descriptor with DEVICE_FAULT, and its context enters FAULTED. -/
def State.losePools (s : State) (ps : List Nat) : State :=
  let hit := s.losers ps
  let scan := s.scan.job.any fun j => j.lostIn s ps
  let runs := s.smp.runs.filter fun r => r.lostIn s ps
  let s := ((s.loseSeqs ps).loseStreams ps).loseRuns ps
  let s := if scan then s.cancelScan .deviceFault else s
  let s := runs.foldl (fun (s : State) r => s.smpEnd r .deviceFault) s
  hit.foldl (fun (s : State) n => s.faultCtx n .deviceFault) s

/-! ### Lost stacks (18 R606) -/

/-- Pools that are lost with a stack: those with a frame there, and every KV pool where the Yard area lies
there. -/
def State.poolsOf (s : State) (k : Nat) : List Nat :=
  let fs := upFrom (12288 * k) 12288
  let yardGone := fs.any fun f => s.frameSt f = .yardArea
  (List.range 64).filter fun p =>
    ((s.pool p).frames.any fun f => f / 12288 == k) || (yardGone && s.poolKind p == 2 && s.poolSt p == stActive)

/-- All frames of a stack are retired under 10 R376; its pools are lost. -/
def State.loseStack (s : State) (k : Nat) : State :=
  let ps := s.poolsOf k
  let s := (upFrom (12288 * k) 12288).foldl (fun (s : State) f => s.requestRetire f) s
  { s with scrub := { s.scrub with retired := s.scrub.retired ++ [k] } }.losePools ps

def hbmSrc (k : Nat) : Nat := srcOf .hbm k
def hbmCode (k code : Nat) : Nat := if k < 2 then code else code + 0x100

/-- 18 R606: the controller cannot retrain, or has asked for 256 retirements within 1 s. -/
def execHbmStackFailed (stack : Fin 4) (untrained : Bool) (s : State) : Next :=
  let k := stack.val
  let asked := (s.scrub.requests.look [] k).filter fun t => decide (s.gts ≤ t + 1000000000)
  if s.scrub.retired.contains k ∨ ¬ (untrained ∨ 256 ≤ asked.length) then .next s
  else .next ((s.raise (hbmSrc k) (hbmCode k 0x3292) [.w k]).loseStack k)

/-- 18 R605: the scrub reads line `line`, and finds an error that was injected (19 R626) or one of its own:
uncorrectable (true) or corrected. -/
def execHbmScrubLine (line : Fin 1610612736) (err : Option Bool) (s : State) : Next :=
  let f := line.val / 32768
  if s.scrub.retired.contains (f / 12288) then .next s
  else
    let s := s.touch (line * 64) 64
    match err with
    | none => .next s
    | some true => .next ((s.findError line true).askRetire f)
    | some false =>
      let s := s.findError line false
      let day := (s.scrub.corrected.look [] f).filter fun t => decide (s.gts < t + 86400000000000)
      let s := { s with scrub := { s.scrub with corrected := s.scrub.corrected.put f (s.gts :: day) } }
      .next (if 64 ≤ day.length + 1 then s.askRetire f else s)

/-! ### A lost die (16 R551) -/

/-- The cores of a die become absent. -/
def State.dropCores (s : State) (d : Nat) : State :=
  (upFrom (4 * d) 4).foldl (fun (s : State) k => s.wr (ro .cl k 0x40) 0xFFFFFFFF) s

/-- The slice-start images of a gang lie on a stack of die `d`. -/
def State.imagesOn (s : State) (g : Gang) (d : Nat) : Bool :=
  s.images.any fun e => e.1 / 128 == g.uid && e.2.frame / 24576 == d

/-- Gangs with a core on the die have a core fault there. -/
def State.faultGangs (s : State) (d : Nat) : State :=
  let us := (s.sbox.gangs.filter fun g => g.cores.any fun c => c / 32 == d).map fun g => g.uid
  us.foldl (fun (s : State) u =>
    match s.gang u with
    | none => s
    | some g =>
      let g := if s.imagesOn g d then { g with imaged := false } else g
      s.gangFault g ((g.cores.find? fun c => c / 32 == d).getD 0)) s

/-- Both Couplings of compute die `d` have failed. -/
def State.loseDie (s : State) (d : Nat) : State :=
  let n := if d = 0 then 2 else 0
  let s := s.raise (cplSrc n) (cplCode n 0x3283) []
  let s := ({ s with cutOff := s.cutOff ++ [d] }.dropCores d).faultGangs d
  let s := s.countCores.evalWanted 4
  let s := s.clearKeys (kSram (4 * d) 0) (kSram (4 * d + 4) 0)
  let s := s.loseStack (2 * d)
  (s.loseStack (2 * d + 1)).evalWanted 4

/-- Dies whose two Couplings have failed. -/
def State.looseDies (s : State) : List Nat :=
  [0, 1].filter fun d => s.cpl.failed.contains 0 && s.cpl.failed.contains (d + 1) && !s.cutOff.contains d

/-- 16 R550: no bundle of a direction works, or a transfer has been retried 16 times. -/
def execCplFailed (cpl : Fin 4) (retried : Bool) (s : State) : Next :=
  let link := cplLink cpl
  if s.cpl.failed.contains link ∨
      ¬ (retried ∨ s.bundlesUp link 0 = 0 ∨ s.bundlesUp link 1 = 0) then .next s
  else
    let s := { s with cpl := { s.cpl with failed := s.cpl.failed ++ [link] } }.showLink link
    let s := (s.resend cpl).raise (cplSrc cpl) (cplCode cpl 0x3282) []
    .next (s.looseDies.foldl (fun (s : State) d => s.loseDie d) s)

/-! ### Link 1 (02 R49) -/

/-- 02 R49: a link-down or hot reset on link 1 is a function-level reset of function 15. -/
def execPcieLink1Down (s : State) : Next :=
  if s.bit (ro .host 0 0x60) 0 then .next ((s.setFld (ro .host 0 0x60) 2 1 0).vfReset 15) else .next s

end Sys2Proof.Machine
end

