-- ==== Sys2Proof/Machine/Resets.lean ====
section
/-! DEFINITION. What a reset of the package keeps and loses (03 R102 to R105, R110), islands held in reset
(03 R82, R84, 17 R577, 18 R608), and a request for a reset (03 R105, 18 R609). -/

namespace Sys2Proof.Machine

def State.withBoot (s : State) (f : Boot → Boot) : State := { s with boot := f s.boot }

/-! ### MGMT.STATUS -/

def State.stFld (s : State) (lo w : Nat) : Nat := s.fld stA lo w
def State.setSt (s : State) (lo w n : Nat) : State := s.setFld stA lo w n

def State.bootPhase (s : State) : Nat := s.stFld 1 3
def State.setPhase (s : State) (n : Nat) : State := s.setSt 1 3 n
def State.setReady (s : State) (b : Bool) : State := s.setSt 0 1 (if b then 1 else 0)
def State.setPcieUp (s : State) (b : Bool) : State := s.setSt 13 1 (if b then 1 else 0)
def State.degraded (s : State) : State := s.setSt 5 1 1

/-- The slots of the 458 pages (02 R44). -/
def allSlots : List Nat := (List.range 0xC12).filter fun k => (pageAt k).isSome

/-- RWS fields of a word keep their value, the others take their reset value (00 R5). -/
def rwsOf (a : Nat) (v : Word) : Word :=
  let m := maskWhere (fun f => f.acc = .rws) a
  (v &&& m) ||| (resetWord a &&& ~~~m)

/-! ### Islands 1 to 15 -/

/-- Words that a soft reset keeps: those of the PCIe endpoint, CORE_MAP and the results of BIST and training (03 R102,
01 R17). -/
def keptBySoft (a : Nat) : Bool :=
  let o := a % 0x1000
  match pageAt (a / 0x1000) with
  | some p => match p.blk with
    | .host => true
    | .cl => decide (o < 0x4C)
    | .cpl => true
    | _ => false
  | none => false

/-- CQ_TAIL is set to 0 by a cold reset and an accepted OPEN alone (04 R127). -/
def isCqTail (a : Nat) : Bool := a % 0x1000 == 0x9C && (pageAt (a / 0x1000)).any fun p => p.blk = .ctx

/-- The register words after islands 1 to 15 have been reset. -/
def State.islandRegs (s : State) (soft : Bool) : Tbl Word :=
  s.regs.filterMap fun (e : Nat × Word) =>
    if e.1 / 0x1000 < 0x100 ∨ (soft ∧ keptBySoft e.1) ∨ isCqTail e.1 then some e
    else if maskWhere (fun f => f.acc = .rws) e.1 = 0 then none
    else some (e.1, rwsOf e.1 e.2)

/-- The pages after islands 1 to 15 have been reset; epochs stay, and a soft reset leaves the endpoint's page. -/
def State.islandPages (s : State) (soft : Bool) : Tbl Page :=
  s.pages.map fun (e : Nat × Page) =>
    if inMgmt e.1 ∨ (soft ∧ e.1 = slotOf .host 0) then e else (e.1, { Page.reset false with epoch := e.2.epoch })

/-- Keys of host and peer memory; a soft reset keeps HBM as well. -/
def keptKey (soft : Bool) (k : Nat) : Bool := decide (kHost 0 ≤ k) || (soft && decide (k < hbmBytes))

/-- Lines of kept memory; the lines of core bays lie above all others. -/
def keptLine (soft : Bool) (l : Nat) : Bool := keptKey soft (l * 64) && decide (l < bayLine 0)

/-- The Couplings without injected lane failures (19 R626). -/
def Cpl.real (c : Cpl) : Cpl :=
  let hurt := fun (b : Nat × Nat × Nat) => c.injected.any fun l => l.1 == b.1 && l.2.1 == b.2.1 && l.2.2.1 == b.2.2
  { lanes := c.lanes.filter fun l => !c.injected.contains l, injected := [],
    out := c.out.filter fun b => !hurt b,
    failed := c.failed.filter fun l => !(c.out.any fun b => b.1 == l && hurt b) }

/-- FRAMES_FREE and FRAMES_RETIRED (10 R377). -/
def State.countFrames (s : State) : State :=
  let single := (s.yard.frames.filter fun e => e.2 = .retired ∧ ¬ s.scrub.retired.contains (e.1 / 12288)).length
  let n := single + 12288 * s.scrub.retired.length
  (s.setFld (yardA 0x4C) 0 17 (49152 - n)).setFld (yardA 0x50) 0 17 n

/-- Registers of the management plane that follow the islands: power state, clocks, synchronisation. -/
def State.islandFollowers (s : State) : State :=
  [pwrA 0x50, pwrA 0x54, pwrA 0x60, thA 0x48, ro .gts 0 0x54, ro .gts 0 0x58].foldl
    (fun (s : State) a => s.wr a (resetWord a)) s

/-- Islands 1 to 15 are reset (03 R102). A soft reset keeps the link, HBM and training results. Retired frames
and stacks stay retired until a cold reset (10 R376). -/
def State.resetIslands (s : State) (soft : Bool) : State :=
  let z := State.reset
  let t : State :=
    { z with
      pending := s.pending, now := s.now, gts := s.gts, gtsPart := s.gtsPart, uid := s.uid, free := s.free,
      regs := s.islandRegs soft, pages := s.islandPages soft,
      host := if soft then { s.host with bells := [] } else { z.host with vecSent := s.host.vecSent },
      boot := s.boot, evr := s.evr, pins := s.pins, test := s.test,
      mem := s.mem.filter fun c => keptKey soft c.1,
      poison := s.poison.filter fun l => keptLine soft l,
      latent := s.latent.filter fun e => keptLine soft e.1,
      yard := { z.yard with frames := s.yard.frames.filter fun e => e.2 = .retired },
      scrub := if soft then s.scrub else { z.scrub with retired := s.scrub.retired },
      sync := { z.sync with pll := s.sync.pll },
      cpl := if soft then s.cpl else s.cpl.real,
      cutOff := s.cutOff }
  let two := s.fld (ro .host 0 0x60) 0 1
  let t := (t.setFld (ro .host 0 0x60) 0 1 two).islandFollowers
  let t := if soft then t else (List.range 3).foldl (fun (t : State) l => t.showLink l) t
  t.countFrames.countPerturbed

/-- The dies that their Couplings still cut off. -/
def State.recheckDies (s : State) : State :=
  { s with cutOff := s.cutOff.filter fun d => s.cpl.failed.contains 0 && s.cpl.failed.contains (d + 1) }

/-! ### The management plane -/

/-- Bits of MGMT.STATUS that a reset keeps: BTN_MASKED always; FW_SLOT and NOR_MIRROR_RO unless it is cold; for
a soft reset also the results of start-up and PCIE_UP. HBM_FAIL stays while the stacks are retired. -/
def statusKept (kind : ResetKind) : Word :=
  match kind with
  | .cold => 0x00000080
  | .soft => 0x000F70B0
  | _ => 0x000F5080

/-- Words of the management pages that a reset keeps whole: the recorder's, and the button's state. -/
def keptMgmt (kind : ResetKind) (a : Nat) : Bool :=
  let o := a % 0x1000
  match kind with
  | .soft => decide (a / 0x1000 < 0x100)
  | .cold => (a / 0x1000 == 2 && [0x40, 0x44, 0x5C, 0x68, 0x78, 0x7C].contains o) || a == ro .rst 0 0x40
  | _ => a / 0x1000 == 2 || a / 0x1000 == 5

/-- A word of a Coupling page: lanes that have failed stay failed. -/
def isCpl (a : Nat) : Bool := (pageAt (a / 0x1000)).any fun p => p.blk = .cpl

/-- The register words of the management pages after a reset; the other pages' stay. -/
def State.mgmtRegs (s : State) (kind : ResetKind) : Tbl Word :=
  s.regs.filterMap fun (e : Nat × Word) =>
    let a := e.1
    if 0x100 ≤ a / 0x1000 ∧ kind ≠ .cold then some e
    else if a = stA then some (a, (e.2 &&& statusKept kind) ||| (resetWord a &&& ~~~statusKept kind))
    else if keptMgmt kind a then some e
    else if kind = .cold then (if a = ro .host 0 0x60 ∨ isCpl a then some e else none)
    else if maskWhere (fun f => f.acc = .rws) a = 0 then none
    else some (a, rwsOf a e.2)

/-- 03 R103: every PG_EPOCH is incremented, or 0 after a cold reset. -/
def State.epochs (s : State) (kind : ResetKind) : State :=
  let one := fun (k : Nat) =>
    let p := s.page k
    let base := if kind ≠ .soft ∧ inMgmt k then Page.reset true else p
    (k, { base with epoch := if kind = .cold then 0 else p.epoch + 1 })
  { s with pages := allSlots.map one }

/-- What the start-up sequencer keeps (03 R91, R102). Every cold reset begins a power-on of its own, so it gives the one
retry back (DESIGN CHOICE, log 19). -/
def Boot.afterReset (b : Boot) (kind : ResetKind) (now : Nat) : Boot :=
  let z := Boot.reset
  let soft := decide (kind = .soft)
  { b with
    held := false, startAt := now, phaseAt := now, running := some kind,
    serdesDone := soft && b.serdesDone,
    fwRuns := b.fwRuns && (soft || decide (kind = .warm)),
    wantGolden := decide (kind = .recovery),
    retried := b.retried && decide (kind ≠ .cold),
    wasReady := soft && b.wasReady, calDone := z.calDone, calTries := z.calTries,
    calFull := if soft then b.calFull else [], klDisabled := if soft then b.klDisabled else [],
    afeFailed := soft && b.afeFailed, syscRetired := if soft then b.syscRetired else [],
    fatal := false, tripped := false, bootRecordDue := true }

/-- A cold reset loses everything but NOR, the recorder's SRAM and the pins, and sets the GTS to 0. -/
def State.coldOnly (s : State) : State :=
  { s with gts := 0, gtsPart := 0, pins := { s.pins with thermTripN := true },
           yard := { s.yard with frames := [] }, scrub := State.reset.scrub }.countFrames

/-- The scanner port is left in FAULT with cause AFE_CAL (03 R98, 14 R498). -/
def State.afeFault (s : State) : State :=
  let k := slotOf .scn 0
  ((s.setPage k { s.page k with fault := true }).setFld (ro .scn 0 0x50) 0 3 6).setFld (ro .scn 0 0x50) 12 3 4

/-- A reset of the package starts (03 R102 to R104, R110): `last` is LAST_RESET. Open records close (18 R593)
and test access locks (19 R620). -/
def State.beginReset (s : State) (kind : ResetKind) (last : Nat) : State :=
  let s := s.closeAll.lockTest
  let s := (s.resetIslands (decide (kind = .soft))).recheckDies
  let s := { s with regs := s.mgmtRegs kind }
  let s := if kind = .cold then s.coldOnly else s
  let s := (s.epochs kind).withBoot fun b => b.afterReset kind s.now
  let s := if s.boot.afeFailed then s.afeFault else s
  let s := (s.setSt 20 3 last).setSt 15 1 (if kind = .cold then 1 else 0)
  (s.setReady false).setPhase (if kind = .soft then 5 else 2)

/-! ### Islands held in reset -/

/-- Islands 1 to 15 are placed in reset and held; READY and PCIE_UP read 0. -/
def State.holdIslands (s : State) : State :=
  let s := (((s.resetIslands false).setReady false).setPcieUp false).setFld (ro .host 0 0x60) 1 2 0
  s.withBoot fun b => { b with held := true, running := none, serdesDone := false }

/-- A reset can run: rails good, REFCLK valid, the always-on island up. -/
def State.canReset (s : State) : Bool :=
  s.boot.aonUp && s.boot.pg == 0xFF && s.boot.refclk && !s.boot.refLost

/-! ### Requests (03 R105, 18 R609) -/

/-- A DEVICE_RESET notice for every context that is not FREE; one that finds no place is counted (04 R125). -/
def State.resetNotices (s : State) : State :=
  let one := fun (s : State) (n : Nat) =>
    if s.ctxState n = stFree then s
    else match (s.notify n .deviceReset 0 0 0 0).notices.getLast? with
      | some x => s.deliver n x.entry
      | none => s
  if s.ready then (List.range 256).foldl one s else s

/-- Codes of KIND (03 R111). -/
def ResetKind.code : ResetKind → Nat
  | .warm => 1 | .soft => 2 | .recovery => 3 | .cold => 4

/-- 03 R105: the reset that a request leads to, with its LAST_RESET; none where the running reset goes on. -/
def State.resolve (s : State) (asked : ResetKind) (last : Nat) : Option (ResetKind × Nat) :=
  let cur := s.stFld 20 3
  match s.boot.running, asked with
  | some .warm, .soft => none
  | some .cold, .cold => some (.cold, last)
  | some .cold, _ => some (.cold, cur)
  | some .recovery, .cold => some (.cold, last)
  | some .recovery, _ => some (.recovery, 6)
  | _, .soft => if s.boot.wasReady then some (.soft, last) else some (.warm, 3)
  | _, k => some (k, last)

/-- A request while REFCLK is lost: a cold reset begins and stands at phase 2, a recovery is due when the clock
returns (03 R84, R85, R105). -/
def State.requestHeld (s : State) (asked : ResetKind) (last : Nat) : State :=
  if !s.boot.refLost ∨ s.boot.pg ≠ 0xFF ∨ s.boot.running = some .cold then s
  else match asked with
    | .cold => (s.beginReset .cold last).withBoot fun b => { b with held := true }
    | .recovery => s.withBoot fun b => { b with running := some .recovery, wantGolden := true }
    | _ => s

/-- A reset is requested, which logs RESET_START (03 R105). A recovery that goes on keeps the slot it was to load. -/
def State.request (s : State) (asked : ResetKind) (last : Nat) (notices : Bool) : State :=
  if !s.boot.aonUp then s
  else
    let s := if notices ∧ asked ≠ .cold then s.resetNotices else s
    let s := s.raise 0x0005 0x0011 [.w asked.code]
    if !s.canReset then s.requestHeld asked last
    else match s.resolve asked last with
      | none => s
      | some (k, l) =>
        let goesOn := s.boot.running = some .recovery ∧ k = .recovery
        (s.beginReset k l).withBoot fun b => { b with wantGolden := if goesOn then s.boot.wantGolden else b.wantGolden }

/-- The PCIe endpoint alone is reset (03 R88). -/
def State.resetEndpoint (s : State) : State :=
  let s := (s.setPcieUp false).setFld (ro .host 0 0x60) 1 2 0
  { s with host := { State.reset.host with vecSent := s.host.vecSent } }

end Sys2Proof.Machine
end

