-- ==== Sys2Proof/Machine/Boot.lean ====
section
/-! DEFINITION. From power-on to READY (03): rails, REFCLK, the phases, calibration, PCIe before READY, reset
commands and the reset button. -/

namespace Sys2Proof.Machine

/-! ### Rails and REFCLK (03 R79 to R85) -/

/-- T0 in a package whose always-on island is up: phase 1 ends and a cold start begins, which waits for REFCLK (03 R82,
R85, R90). -/
def State.atT0 (s : State) : State :=
  let s := (s.beginReset .cold 0).withBoot fun b => { b with startAt := b.t0, phaseAt := b.t0 }
  let s := s.raise 0x0000 0x0010 [.w 1, .d s.gts]
  if s.boot.refLost ∨ !s.boot.refclk then s.withBoot fun b => { b with held := true } else s

/-- 03 R81: PG_AON is asserted with REFCLK running; when it is the last of the eight, that is T0 (03 R80). GPIO6 and
GPIO7 give the I3C address (20 R633). -/
def execPgAonAssert (gpio : Fin 4) (s : State) : Next :=
  if s.boot.pg.toNat % 2 = 1 then .next s
  else .next ({ s with pins := { s.pins with i3cSel := gpio } }.withBoot fun b =>
    { b with pg := b.pg ||| 1, refclk := true, refLost := false, aonSince := s.now,
             t0 := if b.pg ||| 1 = 0xFF then s.now else b.t0 })

/-- SEQ after VAON was lost (18 R590). -/
def State.restartSeq (s : State) : State :=
  let far := s.evr.mirrored.foldl (fun (m : Option Word) (r : Nat × EvRecord) =>
    some (m.elim r.2.seq fun q => if (r.2.seq - q).toNat < 2 ^ 31 then r.2.seq else q)) none
  let q : Word := match far with
    | some q => q + 65537
    | none => 0
  ((s.withEvr fun e => { e with firstSeq := q }).wr (evrA 0x40) q).wr (evrA 0x44) q

/-- 03 R81: 1 ms after PG_AON. -/
def execAonLeavesReset (s : State) : Next :=
  if s.boot.aonUp ∨ s.boot.pg.toNat % 2 = 0 ∨ !s.boot.refclk ∨ s.now < s.boot.aonSince + 1000000 then .next s
  else
    let s := { s with gts := 0, gtsPart := 0 }.withBoot fun b => { b with aonUp := true, held := true, vaonLost := false }
    let s := (s.restartSeq).updMirrorSeq
    let s := if s.boot.outOfOrder then s.raise 0x0005 0x2016 [] else s
    let s := s.withBoot fun b => { b with outOfOrder := false }
    .next (if s.boot.pg = 0xFF then s.atT0 else s)

/-- 03 R79 to R82: a power-good input other than PG_AON is asserted; the last of the eight is T0, and PCIE_BIF
is sampled (02 R49). -/
def execPowerGoodAssert (input : Fin 8) (twoLinks : Bool) (s : State) : Next :=
  let i := input.val
  if i = 0 ∨ s.boot.pg.toNat / 2 ^ i % 2 = 1 then .next s
  else
    let early := s.boot.pg.toNat / 2 ^ (i - 1) % 2 == 0
    let s := if early ∧ s.boot.aonUp then s.raise 0x0005 0x2016 [] else s
    let s := s.withBoot fun b =>
      { b with pg := b.pg ||| BitVec.ofNat 8 (2 ^ i), outOfOrder := b.outOfOrder || (early && !b.aonUp) }
    if s.boot.pg ≠ 0xFF then .next s
    else
      let s := (s.withBoot fun b => { b with t0 := s.now }).setFld (ro .host 0 0x60) 0 1 (if twoLinks then 1 else 0)
      .next (if s.boot.aonUp then s.atT0 else s)

/-- Everything that VAON holds is lost; NOR, pins and host memory stay (03 R82). -/
def State.loseVaon (s : State) : State :=
  let z := State.reset
  let e := s.evr
  { z with
    pending := s.pending, now := s.now, uid := s.uid, free := s.free,
    regs := [(evrA 0x68, s.rd (evrA 0x68)), (evrA 0x78, s.rd (evrA 0x78)), (evrA 0x7C, s.rd (evrA 0x7C)),
             (ro .host 0 0x60, s.rd (ro .host 0 0x60) &&& 1)],
    boot := { z.boot with
      pg := s.boot.pg &&& 0xFE, refclk := s.boot.refclk, perst := s.boot.perst, perstAt := s.boot.perstAt,
      t0 := s.boot.t0, calStore := s.boot.calStore, slot0Good := s.boot.slot0Good, slot1Good := s.boot.slot1Good,
      bootA := s.boot.bootA, bootB := s.boot.bootB },
    evr := { z.evr with
      mirrored := e.mirrored, mirrorSector := e.mirrorSector, mirrorPlace := e.mirrorPlace,
      erasedAhead := e.erasedAhead, sectorErases := e.sectorErases, eraseBase := e.eraseBase,
      progBase := e.progBase, sectorMap := e.sectorMap, sectorGen := e.sectorGen, sparesUsed := e.sparesUsed },
    host := { z.host with vecSent := s.host.vecSent },
    mem := s.mem.filter fun c => keptKey false c.1,
    poison := s.poison.filter fun l => keptLine false l,
    latent := s.latent.filter fun x => keptLine false x.1,
    cpl := s.cpl.real }

/-- 03 R82: loss of PG_AON or VAON. -/
def execVaonLoss (s : State) : Next := .next s.loseVaon

/-- 03 R82: a power-good input other than PG_AON is deasserted. -/
def execPowerGoodDeassert (input : Fin 8) (s : State) : Next :=
  let i := input.val
  if s.boot.pg.toNat / 2 ^ i % 2 = 0 then .next s
  else if i = 0 then .next s.loseVaon
  else
    let s := s.withBoot fun b => { b with pg := b.pg &&& ~~~BitVec.ofNat 8 (2 ^ i) }
    .next (if s.boot.aonUp then ((s.raise 0x0005 0x401C []).holdIslands).setPhase 1 else s)

/-- 03 R84. The GTS goes on from the internal oscillator (01 R40). A recovery reset that runs stays due. -/
def execRefclkLoss (s : State) : Next :=
  if !s.boot.refclk then .next s
  else
    let due := if s.boot.running = some .recovery then s.boot.running else none
    let s := s.withBoot fun b => { b with refclk := false }
    if !s.boot.aonUp then .next s
    else
      let s := (s.raise 0x000D 0x401D []).holdIslands
      .next ({ s with sync := { s.sync with pll := false } }.withBoot fun b => { b with refLost := true, running := due })

/-- The reset at REFCLK's return (03 R85): warm, unless a cold start or a recovery reset is due (R105). -/
def State.clockReset (s : State) : State :=
  let last := s.stFld 20 3
  match s.boot.running with
  | some .cold => (s.beginReset .cold last).withBoot fun b => { b with startAt := if last = 0 then b.t0 else b.startAt }
  | some .recovery =>
    ((s.raise 0x0005 0x0011 [.w 1]).beginReset .recovery 6).withBoot fun b => { b with wantGolden := s.boot.wantGolden }
  | _ => (s.raise 0x0005 0x0011 [.w 1]).beginReset .warm 5

/-- 03 R85: REFCLK has been valid for 10 ms. -/
def execRefclkReturn (s : State) : Next :=
  if s.boot.refclk then .next s
  else
    let s := s.withBoot fun b => { b with refclk := true, refLost := false, aonSince := s.now }
    .next (if !s.boot.aonUp ∨ s.boot.pg ≠ 0xFF ∨ s.boot.fatal ∨ s.boot.tripped then s else s.clockReset)

/-! ### Stops (03 R92, 17 R577, 18 R608) -/

/-- 03 R92. -/
def State.bootFail (s : State) (code : Nat) : State :=
  let s := ((s.setSt 6 1 1).setSt 8 4 code).setPhase 7
  let s := { s with pwr := { s.pwr with leaving := none } }
  (s.withBoot fun b => { b with running := none }).raise 0x0000 0x301B [.w code]

/-- 17 R577: armed from the end of phase 2 (03 R93). -/
def execThermTrip (s : State) : Next :=
  if !s.armed then .next s
  else
    let s := (s.raise 0x0004 0x4043 []).holdIslands
    .next ({ s with pins := { s.pins with thermTripN := false } }.withBoot fun b => { b with tripped := true })

/-- 18 R608: an uncorrectable error in IOD control SRAM `sram`. -/
def execFatalStop (sram : Nat) (s : State) : Next :=
  if !s.boot.aonUp ∨ s.boot.held ∨ s.pst = 4 then .next s
  else .next (((s.raise 0x0000 0x406A [.w sram]).holdIslands).withBoot fun b => { b with fatal := true })

/-! ### The phases (03 R90 to R101) -/

/-- A phase in progress that heat does not stop (03 R93). -/
def State.inPhase (s : State) (n : Nat) : Bool :=
  s.starting && !s.boot.held && s.bootPhase == n && !(s.pwr.bootHold && decide (3 ≤ n))

/-- A phase ends and the next begins. -/
def State.phaseEnds (s : State) (n next : Nat) : State :=
  ((s.raise 0x0000 0x0010 [.w n, .d s.gts]).withBoot fun b => { b with phaseAt := s.now }).setPhase next

/-- Why a calibration record cannot be used (03 R97): CRC, serial numbers, version, temperature; 0 when it can. -/
def State.staleReason (s : State) (item : Nat) (mean : Int) : Nat :=
  match s.boot.calStore.look? item with
  | none => 1
  | some r =>
    if !r.crcOk then 1 else if !r.serialOk then 2 else if !r.versionOk then 3
    else if decide (r.mean - mean ≤ 240) && decide (mean - r.mean ≤ 240) then 0 else 4

def calA (o : Nat) : Nat := ro .cal 0 o

/-- An item begins: with its stored trim, or in full. -/
def State.beginItem (s : State) (mean : Int) (item : Nat) : State :=
  let force := s.bit (calA 0x40) 0
  let r := s.staleReason item mean
  if !force ∧ r = 0 then s.setFld (calA 0x44) item 1 1
  else
    let s := s.withBoot fun b => { b with calFull := b.calFull ++ [item] }
    if force then s else s.raise 0x0006 0x1012 [.w item, .w r]

/-- Phase 4 begins with the items other than the PCIe SerDes; a retired stack has none. -/
def State.beginPhase4 (s : State) (mean : Int) : State :=
  let gone := s.scrub.retired.map fun k => 9 + k
  let s := s.setFld (calA 0x48) 0 16 (mean % 65536).toNat
  let s := ((upFrom 1 13).filter fun i => !gone.contains i).foldl (fun (s : State) i => s.beginItem mean i) s
  s.withBoot fun b => { b with calDone := b.calDone ++ gone }

/-- Phase 4 of the exit from P4 begins: every item has its retained trim (17 R569). -/
def State.beginPhase4Kept (s : State) (mean : Int) : State :=
  (s.setFld (calA 0x48) 0 16 (mean % 65536).toNat).withBoot fun b =>
    { b with calDone := b.calDone ++ s.scrub.retired.map fun k => 9 + k }

/-- 03 R90: the PLLs have locked, or not; `mean` is the mean of the sensors in 1/16 °C. Phase 3 is skipped in a
warm reset while verified firmware runs (R102), and in the exit from P4 (17 R569). -/
def execPhase2Done (ok : Bool) (mean : Int) (s : State) : Next :=
  if !s.inPhase 2 then .next s
  else if !ok then .next (s.bootFail 1)
  else if s.p4Exit then
    .next (({ s with sync := { s.sync with pll := true } }.phaseEnds 2 4).beginPhase4Kept mean)
  else
    let skip := s.boot.running = some .warm ∧ s.boot.fwRuns
    let s := { s with sync := { s.sync with pll := true } }
    let s := ((s.phaseEnds 2 (if skip then 4 else 3)).wr (calA 0x44) 0).beginItem mean 0
    .next (if skip then s.beginPhase4 mean else s)

/-- The boot record that counts (03 R95), and the active slot it names. -/
def State.activeSlot (s : State) : Option Bool :=
  let a := s.boot.bootA
  let b := s.boot.bootB
  if a.crcOk ∧ (!b.crcOk ∨ b.seq < a.seq) then some a.active
  else if b.crcOk then some b.active else none

/-- 18 R597, R599: the firmware of a cold start reads every sector header of the mirror. -/
def State.startMirror (s : State) : State :=
  let left := 7424 - s.evr.sparesUsed
  let s := s.setFld (evrA 0x68) 0 13 left
  if !s.bit (evrA 0x54) 16 then s.setMirror mirOff
  else if left ≤ 371 then (s.setMirror mirReadOnly).setSt 14 1 1
  else s.setMirror mirActive

/-- Firmware has been verified: phase 4 begins. -/
def State.fwLoaded (s : State) (golden : Bool) (mean : Int) : State :=
  let first := decide (s.boot.running = some .cold) || s.mirror == mirOff
  let s := (s.withBoot fun b => { b with fwRuns := true }).setSt 12 1 (if golden then 1 else 0)
  let s := if first then s.startMirror else s
  (s.phaseEnds 3 4).beginPhase4 mean

/-- 03 R95, R96: each slot's image can be read, or not, and passes verification or not. With no valid boot record no slot
is named and both images count as failed (DESIGN CHOICE, log 19). -/
def execPhase3Done (slot0Ok slot1Ok : Bool) (mean : Int) (s : State) : Next :=
  if !s.inPhase 3 then .next s
  else
    let okOf := fun (slot : Bool) => if slot then slot1Ok && s.boot.slot1Good else slot0Ok && s.boot.slot0Good
    match s.activeSlot with
    | none => .next (s.bootFail 2)
    | some act =>
      let golden := s.boot.wantGolden
      if okOf (if golden then !act else act) then .next (s.fwLoaded golden mean)
      else
        let s := s.raise 0x0000 0x2017 []
        .next (if okOf (if golden then act else !act) then s.fwLoaded (!golden) mean else s.bootFail 2)

/-- An item of phase 4 has ended; the last one ends the phase. -/
def State.itemDone (s : State) (item : Nat) : State :=
  let s := s.withBoot fun b => { b with calDone := b.calDone ++ [item] }
  let s := if item = 0 then s.withBoot fun b => { b with serdesDone := true, serdesAt := s.now } else s
  if s.bootPhase = 4 ∧ (List.range 14).all (fun i => s.boot.calDone.contains i) then
    let fast := s.boot.calFull.isEmpty && s.fld (calA 0x44) 0 14 == 0x3FFF
    let s := s.phaseEnds 4 5
    let s := if s.p4Exit then s else s.setSt 4 1 (if fast then 1 else 0)
    if s.stFld 16 4 = 0 then s else s.degraded
  else s

/-- An item has failed three full attempts (03 R98). A stack that is retired logs CAPACITY_LOST, a port that is disabled
does not (DESIGN CHOICE, log 19). -/
def State.itemFails (s : State) (item : Nat) : State :=
  let s := s.withBoot fun b => { b with calFull := b.calFull.filter (· != item) }
  if item = 0 then s.bootFail 3
  else if item ≤ 8 then
    let s := (s.withBoot fun b => { b with klDisabled := b.klDisabled ++ [item - 1] }).degraded
    (s.setFld (klA (item - 1) 0x40) 0 3 kDisabled).itemDone item
  else if item ≤ 12 then
    let k := item - 9
    let s := { s with scrub := { s.scrub with retired := s.scrub.retired ++ [k] } }.countFrames
    let s := ((s.setSt (16 + k) 1 1).degraded).raise 0x0005 0x2018 []
    if s.scrub.retired.length = 4 then s.bootFail 4 else s.itemDone item
  else
    ((s.withBoot fun b => { b with afeFailed := true }).afeFault).itemDone item

/-- A training pass or a calibration attempt of an item ends (03 R98): a trim that fails is followed by the
full calibration, which has three attempts; in the exit from P4 the first such item makes the exit slow
(17 R569). -/
def State.itemEnds (s : State) (item : Nat) (ok : Bool) : State :=
  let b := s.boot
  if b.calDone.contains item ∨ !(s.inPhase 4 || (item == 0 && s.inPhase 3)) then s
  else if ok then s.itemDone item
  else if !b.calFull.contains item then
    let s := if s.p4Exit && b.calFull.isEmpty then s.raise 0x0003 0x2035 [] else s
    s.withBoot fun b => { b with calFull := b.calFull ++ [item] }
  else
    let n := b.calTries.look 0 item + 1
    let s := s.withBoot fun b => { b with calTries := b.calTries.put item n }
    if n < 3 then s else s.itemFails item

/-- 03 R86: an attempt of the PCIe SerDes item ends. -/
def execPcieSerdesDone (ok : Bool) (s : State) : Next := .next (s.itemEnds 0 ok)

/-- 03 R98: item 0 PCIe, 1 to 8 Karlund ports, 9 to 12 HBM stacks, 13 the AFE. -/
def execCalItemDone (item : Fin 14) (ok : Bool) (s : State) : Next := .next (s.itemEnds item ok)

/-- CAPACITY_LOST (03 R101). -/
def State.lostCapacity (s : State) : State := s.degraded.raise 0x0005 0x2018 []

/-- 03 R101, 01 R11, R12: every logical core whose slot has failed moves or becomes absent. Where several cores of a
cluster fail together, the lowest-numbered one gets the spare (DESIGN CHOICE, log 19). -/
def State.remapAll (s : State) : State :=
  (List.range 64).foldl (fun (s : State) c =>
    if s.absent c ∨ !s.slotFailed c then s
    else
      let s := s.remap c
      if s.absent c then s.lostCapacity else s) s

/-- Slices that fail BIST are retired. -/
def State.retireSlices (s : State) (slices : List (Fin 8 × Fin 12)) (sysc : List (Fin 64)) : State :=
  let s := slices.foldl (fun (s : State) (x : Fin 8 × Fin 12) => (s.setFld (ro .cl x.1 0x48) x.2 1 1).lostCapacity) s
  sysc.foldl (fun (s : State) (k : Fin 64) =>
    (s.withBoot fun b => { b with syscRetired := setInsert b.syscRetired k.val }).lostCapacity) s

/-- HBM and the on-chip SRAM read as zero with valid ECC. -/
def State.clearMemories (s : State) : State :=
  (((s.clearKeys 0 hbmBytes).clearKeys (kSram 0 0) (kScratch 64 0 0))).clearDieSram

/-- Metadata of ACTIVE KV pools as at CREATE, and an empty prefix directory (17 R569). No sequence is open. -/
def State.remakeYard (s : State) : State :=
  let kv := (List.range 64).filter fun p => s.poolKind p == 2 && s.poolSt p == stActive
  let s := kv.foldl (fun (s : State) p => (s.updPool p fun q =>
    { q with pages := q.pages.filter fun e => e.2.st = .dead }).countPool p) s
  (s.withYard fun y => { y with dir := [] }).setFld (pfxA 0x44) 0 16 0

/-- 03 R100, R101: BIST of the IOD SRAM and of the dies' uncores passes or not; core slots and SRAM slices that
fail. A soft reset clears the on-chip SRAM alone; the exit from P4 clears the memories without BIST and moves
cores as RUN_FAIL says (17 R569). -/
def execPhase5Done (iodOk uncoreOk : Bool) (slots : List (Fin 8 × Fin 9)) (slices : List (Fin 8 × Fin 12))
    (sysc : List (Fin 64)) (s : State) : Next :=
  if !s.inPhase 5 then .next s
  else if s.p4Exit then .next (((s.clearMemories.remakeYard).remapAll).phaseEnds 5 6)
  else if s.boot.running = some .soft then .next (s.phaseEnds 5 6).countCores
  else if !iodOk then .next (s.bootFail 5)
  else if !uncoreOk then .next (s.bootFail 6)
  else
    let s := slots.foldl (fun (s : State) (x : Fin 8 × Fin 9) => s.setFld (ro .cl x.1 0x44) x.2 1 1) s
    let s := (s.retireSlices slices sysc).remapAll
    let s := s.cutOff.foldl (fun (s : State) d => s.dropCores d) s
    .next (s.phaseEnds 5 6).countCores

/-- HOST.FLR_STAT (04 R120). -/
def flrA : Nat := ro .host 0 0x5C

/-- The end of the PF's function-level reset (04 R120). -/
def State.flrDone (s : State) : State := (s.setFld flrA 0 1 0).raise 0x1120 0x01A7 [] 0xFF 0

/-- 03 R89, R104: READY is set and MSI-X vector 0 sent. -/
def State.setsReady (s : State) : State :=
  let ms := min 65535 ((s.now - s.boot.startAt) / 1000000)
  let s := (s.setReady true).setFld (ro .mgmt 0 0x44) 0 16 ms
  let s := (s.withBoot fun b => { b with running := none, wasReady := true, phaseAt := s.now }).sendMsi 0 0
  let s := { s with pwr := { s.pwr with idleSince := some s.now } }
  if s.bit flrA 0 then s.flrDone else s

/-- 03 R89: the end of phase 6. The exit from P4 ends with a command of its own. -/
def execReadySet (s : State) : Next :=
  if s.inPhase 6 ∧ !s.p4Exit then .next (s.phaseEnds 6 6).setsReady else .next s

/-- Longest time of a phase in ms (03 R90). -/
def phaseMax (n : Nat) : Nat := [0, 0, 20, 200, 2860, 410, 10].getD n 0

/-- 03 R91. -/
def execPhaseTimeout (s : State) : Next :=
  let n := s.bootPhase
  if !s.starting ∨ s.boot.held ∨ n < 2 ∨ 6 < n ∨ s.now < s.boot.phaseAt + phaseMax n * 1000000 then .next s
  else
    let s := s.raise 0x0000 0x201A []
    if s.boot.retried then .next (s.bootFail 7)
    else
      let golden := s.boot.wantGolden
      .next (((s.raise 0x0005 0x0011 [.w 1]).beginReset .warm 7).withBoot fun b =>
        { b with retried := true, wantGolden := golden && !b.fwRuns })

/-- 03 R96: a signed image arrives over I3C or UART in FW_NONE and is written to the active slot, which the recovery
reset that follows loads. -/
def execRecoveryImageReceived (signed : Bool) (s : State) : Next :=
  if signed ∧ s.stFld 6 1 = 1 ∧ s.stFld 8 4 = 2 ∧ s.canReset then
    let act := s.activeSlot.getD false
    let s := s.withBoot fun b => { b with slot0Good := b.slot0Good || !act, slot1Good := b.slot1Good || act }
    .next (((s.raise 0x0005 0x0011 [.w 3]).beginReset .recovery 6).withBoot fun b => { b with wantGolden := false })
  else .next s

/-- 03 R99: the records of the items calibrated in full are written. -/
def execCalRecordsSaved (s : State) : Next :=
  if !s.ready ∨ !s.bit (calA 0x40) 1 then .next s
  else
    let r : CalRecord := ⟨true, true, true, sNat 2 (s.fld (calA 0x48) 0 16)⟩
    .next (s.withBoot fun b => { b with calStore := b.calFull.foldl (fun t i => t.put i r) b.calStore, calFull := [] })

/-! ### PCIe (03 R86 to R89) -/

/-- 03 R88, 17 R568. -/
def execPerstAssert (s : State) : Next :=
  if s.boot.perst then .next s
  else
    let s := s.withBoot fun b => { b with perst := true }
    if s.pst = 4 ∧ !s.transit then .next (s.resetEndpoint.wakeP4 1)
    else if s.ready then .next (s.request .warm 1 false)
    else if s.boot.aonUp then .next (s.resetEndpoint.raise 0x0005 0x1014 [])
    else .next s

/-- 03 R86. -/
def execPerstRelease (s : State) : Next :=
  .next (s.withBoot fun b => if b.perst then { b with perst := false, perstAt := s.now } else b)

/-- 03 R86, R87: link training of a link completes; the LTSSM has left Detect (17 R568). The host's configuration
requests choose the sizes of BAR4 (02 R41, R48); the table has no row for them. -/
def execPcieLinkUp (link : LinkCfg) (s : State) : Next :=
  if s.boot.perst ∨ !s.boot.serdesDone ∨ s.boot.held ∨ s.boot.fatal ∨
      (link.link.val = 1 ∧ !s.bit (ro .host 0 0x60) 0) then .next s
  else
    let s := s.setFld (ro .host 0 0x60) (1 + link.link) 1 1
    let h := { s.host with bar4Log := 28 + link.bar4, vfBar4Log := 26 + link.vfBar4 }
    .next (if link.link.val = 0 then { s.setPcieUp true with pins := { s.pins with wakeN := true }, host := h } else s)

/-- 03 R89: a vector becomes enabled and unmasked; a pending message is sent. -/
def execMsixVectorUnmasked (fn : Fin 16) (vec : Fin 1088) (s : State) : Next :=
  let k := vecKey fn vec
  if fn.val ≠ 0 ∧ 64 ≤ vec.val then .next s
  else
    let was := s.host.vecPending.look false k
    let s := { s with host := { s.host with vecOpen := s.host.vecOpen.put k true,
                                            vecPending := s.host.vecPending.put k false } }
    .next (if was then s.sendMsi fn vec else s)

/-! ### Reset commands (03 R111) -/

/-- A write of MGMT.RST_CMD with the key. -/
def State.rstCmd (s : State) (kind : Nat) : State :=
  if kind = 1 then s.request .warm 3 true
  else if kind = 2 then s.request .soft 4 true
  else if kind = 3 then s.request .recovery 6 true
  else if kind = 4 then s.request .cold 3 false
  else s

/-- 04 R120, 03 R105: FLR of the PF: a soft reset, which ends at READY, or a reset of the endpoint alone. -/
def execPfFlr (s : State) : Next :=
  if s.boot.wasReady then
    let s := s.request .soft 4 false
    .next (if s.boot.running = some .soft then s.setFld flrA 0 1 1 else s)
  else .next s.resetEndpoint.flrDone

/-! ### The reset button (03 R106 to R108) -/

def btnA : Nat := ro .rst 0 0x40
def State.btnState (s : State) : Nat := s.fld btnA 0 2
def State.setBtn (s : State) (n : Nat) : State := s.setFld btnA 0 2 n
def State.setLevel (s : State) (b : Bool) : State := s.setFld btnA 2 1 (if b then 1 else 0)
def State.btnDisabled (s : State) : Bool := s.bit (ro .rst 0 0x44) 0

/-- Hold time, from the debounced press, or from T0 where the level was already low then (03 R80, R106): the press came
before T0, or within the 20 ms of its debouncing after it. -/
def State.holdTime (s : State) : Nat :=
  s.now - (if s.boot.btnSince ≤ s.boot.t0 + 20000000 then s.boot.t0 else s.boot.btnSince)

/-- A debounced press. -/
def execRstBtnPress (s : State) : Next :=
  if !s.boot.aonUp then .next s
  else
    let s := s.setLevel true
    if s.btnDisabled then .next s
    else if s.btnState = 0 then .next ((s.setBtn 1).withBoot fun b => { b with btnSince := s.now })
    else if s.btnState = 2 then .next (s.withBoot fun b => { b with btnReleasedAt := none, btnSince := s.now })
    else .next s

/-- The hold has reached 30 s. -/
def State.stuck (s : State) : State := ((s.setBtn 2).setSt 7 1 1).raise 0x0005 0x2019 []

def sec : Nat := 1000000000

/-- A debounced release. -/
def execRstBtnRelease (s : State) : Next :=
  if !s.boot.aonUp ∨ s.fld btnA 2 1 = 0 then .next s
  else
    let s := s.setLevel false
    let masked := fun (s : State) => s.withBoot fun b => { b with btnReleasedAt := some s.now }
    if s.btnState = 2 then .next (masked s)
    else if s.btnState ≠ 1 then .next s
    else
      let t := s.holdTime
      if 30 * sec ≤ t then .next (masked s.stuck)
      else
        let s := s.setBtn 0
        if t < 4 * sec then .next (s.request .warm 2 true)
        else if t ≤ 15 * sec then .next (s.request .recovery 6 true)
        else .next (s.raise 0x0005 0x1015 [])

/-- A hold reaches 30 s. -/
def execButtonStuck (s : State) : Next :=
  if s.btnState = 1 ∧ 30 * sec ≤ s.holdTime ∧ s.boot.pg = 0xFF then .next s.stuck else .next s

/-- A release in MASKED has held for 1 s. -/
def execBtnUnmask (s : State) : Next :=
  match s.boot.btnReleasedAt with
  | some t =>
    if s.btnState = 2 ∧ t + sec ≤ s.now then
      .next (((s.setBtn 0).setSt 7 1 0).withBoot fun b => { b with btnReleasedAt := none })
    else .next s
  | none => .next s

end Sys2Proof.Machine
end

