-- ==== Sys2Proof/Machine/Riscv.lean ====
section
/-! DEFINITION. The scalar instructions of a tidy core that reach no memory: RV32I with M, F and C, Zicsr,
Zifencei and Zicntr in machine mode (07 R242, R243). The manual names these extensions and leaves their
encodings and results to the RISC-V standards: PRESUMED from those (see notes/assumptions). -/

namespace Sys2Proof.Machine

/-- Bits `[lo+n-1:lo]` of an instruction. -/
def ib (w lo n : Nat) : Nat := w / 2 ^ lo % 2 ^ n

/-! ### Compressed instructions -/

def encI (op f3 rd rs1 : Nat) (imm : Int) : Nat :=
  op + rd * 2 ^ 7 + f3 * 2 ^ 12 + rs1 * 2 ^ 15 + (imm % 4096).toNat * 2 ^ 20
def encS (op f3 rs1 rs2 imm : Nat) : Nat :=
  op + ib imm 0 5 * 2 ^ 7 + f3 * 2 ^ 12 + rs1 * 2 ^ 15 + rs2 * 2 ^ 20 + ib imm 5 7 * 2 ^ 25
def encR (f7 f3 rd rs1 rs2 : Nat) : Nat :=
  0x33 + rd * 2 ^ 7 + f3 * 2 ^ 12 + rs1 * 2 ^ 15 + rs2 * 2 ^ 20 + f7 * 2 ^ 25
def encJ (rd : Nat) (imm : Int) : Nat :=
  let u := (imm % 2 ^ 21).toNat
  0x6F + rd * 2 ^ 7 + ib u 12 8 * 2 ^ 12 + ib u 11 1 * 2 ^ 20 + ib u 1 10 * 2 ^ 21 + ib u 20 1 * 2 ^ 31
def encB (f3 rs1 : Nat) (imm : Int) : Nat :=
  let u := (imm % 2 ^ 13).toNat
  0x63 + ib u 11 1 * 2 ^ 7 + ib u 1 4 * 2 ^ 8 + f3 * 2 ^ 12 + rs1 * 2 ^ 15 + ib u 5 6 * 2 ^ 25 +
    ib u 12 1 * 2 ^ 31

/-- Quadrant 0. -/
def expand0 (h : Nat) : Option Nat :=
  let rd := 8 + ib h 2 3
  let rs := 8 + ib h 7 3
  let off := ib h 10 3 * 8 + ib h 6 1 * 4 + ib h 5 1 * 64
  match ib h 13 3 with
  | 0 =>
    let imm := ib h 11 2 * 16 + ib h 7 4 * 64 + ib h 6 1 * 4 + ib h 5 1 * 8
    if imm = 0 then none else some (encI 0x13 0 rd 2 imm)
  | 2 => some (encI 0x03 2 rd rs off)
  | 3 => some (encI 0x07 2 rd rs off)
  | 6 => some (encS 0x23 2 rs rd off)
  | 7 => some (encS 0x27 2 rs rd off)
  | _ => none

/-- The target of C.J and C.JAL. -/
def immCJ (h : Nat) : Int :=
  sInt 12 (ib h 12 1 * 2048 + ib h 11 1 * 16 + ib h 9 2 * 256 + ib h 8 1 * 1024 + ib h 7 1 * 64 + ib h 6 1 * 128 +
    ib h 3 3 * 2 + ib h 2 1 * 32)

/-- The target of C.BEQZ and C.BNEZ. -/
def immCB (h : Nat) : Int :=
  sInt 9 (ib h 12 1 * 256 + ib h 10 2 * 8 + ib h 5 2 * 64 + ib h 3 2 * 2 + ib h 2 1 * 32)

/-- The arithmetic group of quadrant 1. -/
def expandAlu (h : Nat) : Option Nat :=
  let rd := 8 + ib h 7 3
  let rs2 := 8 + ib h 2 3
  let imm := sInt 6 (ib h 12 1 * 32 + ib h 2 5)
  match ib h 10 2 with
  | 0 => if ib h 12 1 = 1 then none else some (encI 0x13 5 rd rd (ib h 2 5))
  | 1 => if ib h 12 1 = 1 then none else some (encI 0x13 5 rd rd (1024 + ib h 2 5))
  | 2 => some (encI 0x13 7 rd rd imm)
  | _ =>
    if ib h 12 1 = 1 then none
    else match ib h 5 2 with
      | 0 => some (encR 0x20 0 rd rd rs2)
      | 1 => some (encR 0 4 rd rd rs2)
      | 2 => some (encR 0 6 rd rd rs2)
      | _ => some (encR 0 7 rd rd rs2)

/-- Quadrant 1. -/
def expand1 (h : Nat) : Option Nat :=
  let rd := ib h 7 5
  let imm := sInt 6 (ib h 12 1 * 32 + ib h 2 5)
  match ib h 13 3 with
  | 0 => some (encI 0x13 0 rd rd imm)
  | 1 => some (encJ 1 (immCJ h))
  | 2 => some (encI 0x13 0 rd 0 imm)
  | 3 =>
    if rd = 2 then
      let v := sInt 10 (ib h 12 1 * 512 + ib h 6 1 * 16 + ib h 5 1 * 64 + ib h 3 2 * 128 + ib h 2 1 * 32)
      if v = 0 then none else some (encI 0x13 0 2 2 v)
    else if imm = 0 then none
    else some (0x37 + rd * 2 ^ 7 + (imm % 2 ^ 20).toNat * 2 ^ 12)
  | 4 => expandAlu h
  | 5 => some (encJ 0 (immCJ h))
  | 6 => some (encB 0 (8 + ib h 7 3) (immCB h))
  | _ => some (encB 1 (8 + ib h 7 3) (immCB h))

/-- Quadrant 2. -/
def expand2 (h : Nat) : Option Nat :=
  let rd := ib h 7 5
  let rs2 := ib h 2 5
  let ld := ib h 12 1 * 32 + ib h 4 3 * 4 + ib h 2 2 * 64
  let st := ib h 9 4 * 4 + ib h 7 2 * 64
  match ib h 13 3 with
  | 0 => if ib h 12 1 = 1 then none else some (encI 0x13 1 rd rd rs2)
  | 2 => if rd = 0 then none else some (encI 0x03 2 rd 2 ld)
  | 3 => some (encI 0x07 2 rd 2 ld)
  | 4 =>
    if ib h 12 1 = 0 then
      if rs2 = 0 then (if rd = 0 then none else some (encI 0x67 0 0 rd 0)) else some (encR 0 0 rd 0 rs2)
    else if rs2 = 0 then (if rd = 0 then some 0x00100073 else some (encI 0x67 0 1 rd 0))
    else some (encR 0 0 rd rd rs2)
  | 6 => some (encS 0x23 2 2 rs2 st)
  | 7 => some (encS 0x27 2 2 rs2 st)
  | _ => none

/-- The 32-bit instruction of a 16-bit one. -/
def expandC (h : Nat) : Option Nat :=
  match h % 4 with
  | 0 => expand0 h
  | 1 => expand1 h
  | _ => expand2 h

/-! ### Registers -/

def Tidy.xr (k : Tidy) (r : Nat) : Word := if r = 0 then 0 else k.x.look 0 r
def Tidy.setX (k : Tidy) (r : Nat) (v : Word) : Tidy := if r = 0 then k else { k with x := k.x.put r v }
def Tidy.fr (k : Tidy) (r : Nat) : F32 := k.f.look 0 r
def Tidy.setF (k : Tidy) (r : Nat) (v : F32) : Tidy := { k with f := k.f.put r v }
def Tidy.goto (k : Tidy) (pc : Word) : Tidy := { k with pc := pc }

/-- Accrue exception flags: NX 1, UF 2, OF 4, DZ 8, NV 16. -/
def Tidy.accrue (k : Tidy) (fl : Nat) : Tidy := { k with fcsr := k.fcsr ||| BitVec.ofNat 8 (fl % 32) }

/-! ### Integer operations -/

/-- The operations of OP and OP-IMM. -/
def aluOp (f3 : Nat) (alt : Bool) (a b : Word) : Word :=
  let sh := b.toNat % 32
  match f3 with
  | 0 => if alt then a - b else a + b
  | 1 => a <<< sh
  | 2 => if a.toInt < b.toInt then 1 else 0
  | 3 => if a.toNat < b.toNat then 1 else 0
  | 4 => a ^^^ b
  | 5 => if alt then a.sshiftRight sh else a >>> sh
  | 6 => a ||| b
  | _ => a &&& b

/-- The M extension. -/
def mulOp (f3 : Nat) (a b : Word) : Word :=
  let hi := fun (p : Int) => BitVec.ofInt 32 (p / 2 ^ 32)
  match f3 with
  | 0 => a * b
  | 1 => hi (a.toInt * b.toInt)
  | 2 => hi (a.toInt * (b.toNat : Int))
  | 3 => hi ((a.toNat : Int) * (b.toNat : Int))
  | 4 => if b = 0 then 0xFFFFFFFF#32 else BitVec.ofInt 32 (a.toInt.tdiv b.toInt)
  | 5 => if b = 0 then 0xFFFFFFFF#32 else BitVec.ofNat 32 (a.toNat / b.toNat)
  | 6 => if b = 0 then a else BitVec.ofInt 32 (a.toInt.tmod b.toInt)
  | _ => if b = 0 then a else BitVec.ofNat 32 (a.toNat % b.toNat)

/-- A branch is taken; `none` where the condition is not defined. -/
def branchOp (f3 : Nat) (a b : Word) : Option Bool :=
  match f3 with
  | 0 => some (a == b)
  | 1 => some (a != b)
  | 4 => some (decide (a.toInt < b.toInt))
  | 5 => some (decide (b.toInt ≤ a.toInt))
  | 6 => some (decide (a.toNat < b.toNat))
  | 7 => some (decide (b.toNat ≤ a.toNat))
  | _ => none

/-! ### Control and status registers -/

/-- VLEN / 8. -/
def vlenb : Nat := 64

/-- A readable CSR; counters take the free value `n`. -/
def Tidy.csr (k : Tidy) (n : Nat) (a : Nat) : Option Word :=
  match a with
  | 0x001 => some (BitVec.ofNat 32 (k.fcsr.toNat % 32))
  | 0x002 => some (BitVec.ofNat 32 (k.fcsr.toNat / 32))
  | 0x003 => some (BitVec.ofNat 32 k.fcsr.toNat)
  | 0x008 => some (BitVec.ofNat 32 k.vstart)
  | 0x009 => some (BitVec.ofNat 32 (k.vcsr.toNat % 2))
  | 0x00A => some (BitVec.ofNat 32 (k.vcsr.toNat / 2 % 4))
  | 0x00F => some (BitVec.ofNat 32 (k.vcsr.toNat % 8))
  | 0xC20 => some k.vl
  | 0xC21 => some k.vtype
  | 0xC22 => some (BitVec.ofNat 32 vlenb)
  | 0xC02 => some (BitVec.ofNat 32 k.instret.toNat)
  | 0xC82 => some (BitVec.ofNat 32 (k.instret.toNat / 2 ^ 32))
  | 0xC00 | 0xC01 => some (BitVec.ofNat 32 (Config.counter n).toNat)
  | 0xC80 | 0xC81 => some (BitVec.ofNat 32 ((Config.counter n).toNat / 2 ^ 32))
  | _ => none

/-- Write a CSR; CSRs at 0xC00 and above are read-only. -/
def Tidy.setCsr (k : Tidy) (a : Nat) (v : Word) : Option Tidy :=
  let n := v.toNat
  match a with
  | 0x001 => some { k with fcsr := BitVec.ofNat 8 (k.fcsr.toNat / 32 * 32 + n % 32) }
  | 0x002 => some { k with fcsr := BitVec.ofNat 8 (n % 8 * 32 + k.fcsr.toNat % 32) }
  | 0x003 => some { k with fcsr := BitVec.ofNat 8 n }
  | 0x008 => some { k with vstart := n % 512 }
  | 0x009 => some { k with vcsr := BitVec.ofNat 8 (k.vcsr.toNat / 2 * 2 + n % 2) }
  | 0x00A => some { k with vcsr := BitVec.ofNat 8 (n % 4 * 2 + k.vcsr.toNat % 2) }
  | 0x00F => some { k with vcsr := BitVec.ofNat 8 (n % 8) }
  | _ => none

/-- CSRRW, CSRRS, CSRRC and their immediate forms. -/
def Tidy.csrOp (k : Tidy) (free w : Nat) : Option Tidy :=
  let f3 := ib w 12 3
  let a := ib w 20 12
  let rd := ib w 7 5
  let rs := ib w 15 5
  let src := if 4 ≤ f3 then BitVec.ofNat 32 rs else k.xr rs
  (k.csr free a).bind fun old =>
    let new := match f3 % 4 with
      | 1 => src
      | 2 => old ||| src
      | _ => old &&& ~~~src
    if f3 % 4 = 1 ∨ rs ≠ 0 then (k.setCsr a new).map fun k => k.setX rd old else some (k.setX rd old)

/-! ### The F extension -/

/-- The rounding mode of an instruction; 5, 6 and a dynamic mode of 5 to 7 are illegal. -/
def rmOf (k : Tidy) (rm : Nat) : Option Rm :=
  match (if rm = 7 then k.fcsr.toNat / 32 else rm) with
  | 0 => some .rne
  | 1 => some .rtz
  | 2 => some .rdn
  | 3 => some .rup
  | 4 => some .rmm
  | _ => none

/-- A signalling NaN. -/
def f32Snan (a : F32) : Bool := f32IsNan a && !a.getLsbD 22

/-- A rounded value with its flags. -/
def fxRound (rm : Rm) (v : Fx) : F32 × Nat :=
  match v with
  | .nan => (f32Nan, 0)
  | .inf s => (BitVec.ofNat 32 (fmtF32.infBits s), 0)
  | .fin s m e =>
    let r := fmtF32.round rm s m 1 e
    (BitVec.ofNat 32 r.bits, (if r.inexact then 1 else 0) + (if r.under then 2 else 0) + (if r.isOver then 4 else 0))

/-- Invalid: an operand is a signalling NaN, or the result is a NaN that no operand is. -/
def nvOf (ops : List F32) (r : Fx) : Nat :=
  if ops.any f32Snan ∨ (r.isNan ∧ ops.all fun x => !f32IsNan x) then 16 else 0

def fArith (rm : Rm) (ops : List F32) (v : Fx) : F32 × Nat :=
  let (b, fl) := fxRound rm v
  (b, fl ||| nvOf ops v)

/-- a × b ± c with the signs of FMADD, FMSUB, FNMSUB, FNMADD (opcodes 0x43, 0x47, 0x4B, 0x4F). -/
def fmaOp (op : Nat) (rm : Rm) (a b c : F32) : F32 × Nat :=
  let p := (f32 a).mul (f32 b)
  let p := if op = 0x4B ∨ op = 0x4F then p.negate else p
  let z := if op = 0x47 ∨ op = 0x4F then (f32 c).negate else f32 c
  let (r, fl) := fArith rm [a, b, c] (Fx.sum (rm = .rdn) [p, z])
  (r, if p.isNan ∧ !f32IsNan a ∧ !f32IsNan b then fl ||| 16 else fl)

def fDivOp (rm : Rm) (a b : F32) : F32 × Nat :=
  let x := f32 a
  let y := f32 b
  let bits := BitVec.ofNat 32 (fxDiv fmtF32 rm x y)
  let q := match x, y with
    | .fin s m e, .fin t n g =>
      if n = 0 then 0
      else
        let r := fmtF32.round rm (s != t) m n (e - g)
        (if r.inexact then 1 else 0) + (if r.under then 2 else 0) + (if r.isOver then 4 else 0)
    | _, _ => 0
  let dz := if y.isZero ∧ x.isFin ∧ !x.isZero then 8 else 0
  (bits, q ||| dz ||| nvOf [a, b] (f32 bits))

def fSqrtOp (rm : Rm) (a : F32) : F32 × Nat :=
  let bits := BitVec.ofNat 32 (fxSqrt fmtF32 rm (f32 a))
  let exact := (f32 bits).isFin && ((Fx.mul (f32 bits) (f32 bits)).eq (f32 a))
  let nx := if (f32 bits).isFin ∧ !exact then 1 else 0
  (bits, nx ||| nvOf [a] (f32 bits))

/-- FMIN and FMAX: −0 is below +0, one NaN gives the other operand. -/
def fMinMax (big : Bool) (a b : F32) : F32 × Nat :=
  let nv := if f32Snan a ∨ f32Snan b then 16 else 0
  let below := fun (x y : F32) => f32Lt x y || (f32Eq x y && (f32 x).neg? && !(f32 y).neg?)
  let r := if f32IsNan a ∧ f32IsNan b then f32Nan else if f32IsNan a then b else if f32IsNan b then a
    else if big then (if below a b then b else a) else (if below b a then b else a)
  (r, nv)

/-- FLE, FLT, FEQ (funct3 0, 1, 2). -/
def fCompare (f3 : Nat) (a b : F32) : Word × Nat :=
  let un := f32IsNan a || f32IsNan b
  let nv := if f3 = 2 then (f32Snan a || f32Snan b) else un
  let r := match f3 with
    | 0 => f32Le a b
    | 1 => f32Lt a b
    | _ => f32Eq a b
  (if r then 1 else 0, if nv then 16 else 0)

/-- FCLASS. -/
def fClass (a : F32) : Nat :=
  let e := a.toNat / 2 ^ 23 % 256
  let m := a.toNat % 2 ^ 23
  let neg := a.getLsbD 31
  if e = 255 then (if m = 0 then (if neg then 1 else 128) else if a.getLsbD 22 then 512 else 256)
  else if e = 0 ∧ m = 0 then (if neg then 8 else 16)
  else if e = 0 then (if neg then 4 else 32) else if neg then 2 else 64

/-- FCVT.W.S and FCVT.WU.S to an integer range. -/
def fToInt (rm : Rm) (lo hi : Int) (a : F32) : Int × Nat :=
  match f32 a with
  | .nan => (hi, 16)
  | .inf s => (if s then lo else hi, 16)
  | v =>
    let i := (v.toInt rm).getD 0
    if i < lo then (lo, 16) else if hi < i then (hi, 16)
    else (i, if v.eq (.fin (decide (i < 0)) i.natAbs 0) then 0 else 1)

/-- Set an F register from a result and its flags. -/
def Tidy.fres (k : Tidy) (rd : Nat) (r : F32 × Nat) : Tidy := (k.setF rd r.1).accrue r.2

/-- OP-FP in single precision. -/
def Tidy.opFp (k : Tidy) (w : Nat) : Option Tidy :=
  let rd := ib w 7 5
  let f3 := ib w 12 3
  let a := k.fr (ib w 15 5)
  let b := k.fr (ib w 20 5)
  let rs2 := ib w 20 5
  let sgn := 0x80000000#32
  match ib w 25 7 with
  | 0x00 => (rmOf k f3).map fun rm => k.fres rd (fArith rm [a, b] (Fx.sum (rm = .rdn) [f32 a, f32 b]))
  | 0x04 => (rmOf k f3).map fun rm => k.fres rd (fArith rm [a, b] (Fx.sum (rm = .rdn) [f32 a, (f32 b).negate]))
  | 0x08 => (rmOf k f3).map fun rm => k.fres rd (fArith rm [a, b] ((f32 a).mul (f32 b)))
  | 0x0C => (rmOf k f3).map fun rm => k.fres rd (fDivOp rm a b)
  | 0x2C => if rs2 ≠ 0 then none else (rmOf k f3).map fun rm => k.fres rd (fSqrtOp rm a)
  | 0x10 => match f3 with
    | 0 => some (k.setF rd ((a &&& ~~~sgn) ||| (b &&& sgn)))
    | 1 => some (k.setF rd ((a &&& ~~~sgn) ||| (~~~b &&& sgn)))
    | 2 => some (k.setF rd (a ^^^ (b &&& sgn)))
    | _ => none
  | 0x14 => if f3 < 2 then some (k.fres rd (fMinMax (f3 == 1) a b)) else none
  | 0x50 =>
    if f3 < 3 then let r := fCompare f3 a b; some ((k.setX rd r.1).accrue r.2) else none
  | 0x60 =>
    if 1 < rs2 then none
    else (rmOf k f3).map fun rm =>
      let r := if rs2 = 0 then fToInt rm (-2147483648) 2147483647 a else fToInt rm 0 4294967295 a
      (k.setX rd (BitVec.ofInt 32 r.1)).accrue r.2
  | 0x68 =>
    if 1 < rs2 then none
    else (rmOf k f3).map fun rm =>
      let x := k.xr (ib w 15 5)
      let i : Int := if rs2 = 0 then x.toInt else x.toNat
      k.fres rd (fxRound rm (.fin (decide (i < 0)) i.natAbs 0))
  | 0x70 =>
    if rs2 ≠ 0 then none
    else match f3 with
      | 0 => some (k.setX rd a)
      | 1 => some (k.setX rd (BitVec.ofNat 32 (fClass a)))
      | _ => none
  | 0x78 => if rs2 ≠ 0 ∨ f3 ≠ 0 then none else some (k.setF rd (k.xr (ib w 15 5)))
  | _ => none

/-! ### One instruction -/

/-- Immediates. -/
def immI (w : Nat) : Int := sInt 12 (ib w 20 12)
def immS (w : Nat) : Int := sInt 12 (ib w 25 7 * 32 + ib w 7 5)
def immU (w : Nat) : Word := BitVec.ofNat 32 (ib w 12 20 * 4096)
def immJ (w : Nat) : Int :=
  sInt 21 (ib w 31 1 * 2 ^ 20 + ib w 12 8 * 2 ^ 12 + ib w 20 1 * 2 ^ 11 + ib w 21 10 * 2)
def immB (w : Nat) : Int :=
  sInt 13 (ib w 31 1 * 2 ^ 12 + ib w 7 1 * 2 ^ 11 + ib w 25 6 * 32 + ib w 8 4 * 2)

/-- OP-IMM: shifts have their own upper bits. -/
def Tidy.opImm (k : Tidy) (w : Nat) : Option Tidy :=
  let f3 := ib w 12 3
  let f7 := ib w 25 7
  let a := k.xr (ib w 15 5)
  let b := BitVec.ofInt 32 (immI w)
  if f3 = 1 ∧ f7 ≠ 0 ∨ f3 = 5 ∧ f7 ≠ 0 ∧ f7 ≠ 0x20 then none
  else some (k.setX (ib w 7 5) (aluOp f3 (f3 == 5 && f7 == 0x20) a b))

/-- OP. -/
def Tidy.op (k : Tidy) (w : Nat) : Option Tidy :=
  let f3 := ib w 12 3
  let f7 := ib w 25 7
  let a := k.xr (ib w 15 5)
  let b := k.xr (ib w 20 5)
  if f7 = 1 then some (k.setX (ib w 7 5) (mulOp f3 a b))
  else if f7 = 0 ∨ (f7 = 0x20 ∧ (f3 = 0 ∨ f3 = 5)) then some (k.setX (ib w 7 5) (aluOp f3 (f7 == 0x20) a b))
  else none

/-- An instruction that reaches no memory, its length `len`; `none` where it is illegal. `free` numbers the
free value that a counter read takes. -/
def Tidy.exec (k : Tidy) (free w len : Nat) : Option Tidy :=
  let rd := ib w 7 5
  let f3 := ib w 12 3
  let on := k.pc + BitVec.ofNat 32 len
  let even := fun (a : Word) => a &&& ~~~1#32
  match w % 128 with
  | 0x37 => some ((k.setX rd (immU w)).goto on)
  | 0x17 => some ((k.setX rd (k.pc + immU w)).goto on)
  | 0x6F => some ((k.setX rd on).goto (k.pc + BitVec.ofInt 32 (immJ w)))
  | 0x67 =>
    if f3 ≠ 0 then none
    else some ((k.setX rd on).goto (even (k.xr (ib w 15 5) + BitVec.ofInt 32 (immI w))))
  | 0x63 =>
    (branchOp f3 (k.xr (ib w 15 5)) (k.xr (ib w 20 5))).map fun t =>
      k.goto (if t then k.pc + BitVec.ofInt 32 (immB w) else on)
  | 0x13 => (k.opImm w).map fun k => k.goto on
  | 0x33 => (k.op w).map fun k => k.goto on
  | 0x0F => if f3 < 2 then some (k.goto on) else none
  | 0x73 =>
    if f3 = 0 then (if w = 0x10500073 then some (k.goto on) else none)
    else if f3 = 4 then none
    else (k.csrOp free w).map fun k => k.goto on
  | 0x53 => (k.opFp w).map fun k => k.goto on
  | 0x43 | 0x47 | 0x4B | 0x4F =>
    if ib w 25 2 ≠ 0 then none
    else (rmOf k f3).map fun rm =>
      (k.fres rd (fmaOp (w % 128) rm (k.fr (ib w 15 5)) (k.fr (ib w 20 5)) (k.fr (ib w 27 5)))).goto on
  | _ => none

/-! ### Fetch (07 R244: from the own scratch alone) -/

/-- The bytes at the program counter as a 32-bit instruction and its length, or nothing where the fetch leaves
the scratch. A 16-bit pattern that expands to nothing reads as the illegal word 0. -/
def State.tcFetch (s : State) (c t : Nat) : Option (Nat × Nat) :=
  let pc := ((s.core c).tidy t).pc.toNat
  if 65535 ≤ pc then none
  else
    let h := s.loadNat (kScratch c t pc) 2
    if h % 4 ≠ 3 then some ((expandC h).getD 0, 2)
    else if 65533 ≤ pc then none
    else some (s.loadNat (kScratch c t pc) 4, 4)

/-- What the instruction of a tidy core is. -/
inductive RvKind where
  | memory | ecall | ebreak | other
  deriving DecidableEq, Repr

def rvKind (w : Nat) : RvKind :=
  if w = 0x73 then .ecall
  else if w = 0x00100073 then .ebreak
  else
    let f3 := ib w 12 3
    match w % 128 with
    | 0x03 => if [0, 1, 2, 4, 5].contains f3 then .memory else .other
    | 0x23 => if f3 < 3 then .memory else .other
    | 0x07 | 0x27 => if f3 = 2 ∨ f3 = 0 ∨ f3 = 5 ∨ f3 = 6 then .memory else .other
    | _ => .other

end Sys2Proof.Machine
end

