-- ==== Sys2Proof/Machine/Rvv.lean ====
section
/-! DEFINITION. The vector instructions of a tidy core (07 R242, R243, R257): Zve32f of the RISC-V Vector extension
1.0 with VLEN = 512 and ELEN = 32, Zvfhmin and Zvfbfmin. The manual names these extensions and leaves their
encodings and results to the standard: PRESUMED from it; an encoding that it reserves is illegal (see
notes/assumptions). -/

namespace Sys2Proof.Machine

/-! ### vtype and vl -/

/-- The configuration in force: SEW, 8 × LMUL, the tail and mask policies, vl and vstart. -/
structure VCfg where
  sew : Nat
  lmul8 : Nat
  vta : Bool
  vma : Bool
  vl : Nat
  vstart : Nat
  deriving DecidableEq, Repr

def sewOf (vt : Nat) : Nat := 8 * 2 ^ ib vt 3 3
def lmul8Of (vt : Nat) : Nat := [8, 16, 32, 64, 0, 1, 2, 4].getD (vt % 8) 0

/-- A vtype that the core supports: an SEW of at most LMUL × ELEN, and no reserved bit. -/
def vtypeOk (vt : Nat) : Bool :=
  decide (vt < 256) && decide (sewOf vt ≤ 32) && lmul8Of vt != 0 && decide (sewOf vt ≤ 4 * lmul8Of vt)

/-- VLMAX = LMUL × VLEN / SEW. -/
def vlmaxOf (vt : Nat) : Nat := 64 * lmul8Of vt / sewOf vt

def Tidy.vcfg (k : Tidy) : Option VCfg :=
  let vt := k.vtype.toNat
  if vtypeOk vt then some ⟨sewOf vt, lmul8Of vt, ib vt 6 1 == 1, ib vt 7 1 == 1, k.vl.toNat, k.vstart⟩ else none

/-- vl for an application vector length; between VLMAX and twice VLMAX the core chooses. -/
def vlFor (avl mx : Nat) : Nat :=
  if avl ≤ mx then avl
  else if 2 * mx ≤ avl then mx
  else max ((avl + 1) / 2) (min mx (Config.vlChoice avl mx))

/-- Set vtype and vl; an unsupported vtype, or no length, sets vill. -/
def Tidy.setVl (k : Tidy) (rd vt : Nat) (avl : Option Nat) : Tidy :=
  match (if vtypeOk vt then avl else none) with
  | some n =>
    let v := BitVec.ofNat 32 (vlFor n (vlmaxOf vt))
    { k with vl := v, vtype := BitVec.ofNat 32 vt, vstart := 0 }.setX rd v
  | none => { k with vl := 0, vtype := 0x80000000#32, vstart := 0 }.setX rd 0

/-- VSETVLI, VSETIVLI and VSETVL. With rs1 = rd = x0 vl is kept, for an unchanged VLMAX. -/
def Tidy.vset (k : Tidy) (w : Nat) : Option Tidy :=
  let rd := ib w 7 5
  let rs1 := ib w 15 5
  let byReg := fun (vt : Nat) =>
    if rs1 ≠ 0 then some (k.xr rs1).toNat
    else if rd ≠ 0 then some (2 * vlmaxOf vt)
    else if k.vcfg.isSome ∧ vlmaxOf k.vtype.toNat = vlmaxOf vt then some k.vl.toNat else none
  if ib w 31 1 = 0 then some (k.setVl rd (ib w 20 11) (byReg (ib w 20 11)))
  else if ib w 30 1 = 1 then some (k.setVl rd (ib w 20 10) (some rs1))
  else if ib w 25 6 = 0 then
    let vt := (k.xr (ib w 20 5)).toNat
    some (k.setVl rd vt (byReg vt))
  else none

/-! ### Vector registers -/

def Tidy.vreg (k : Tidy) (r : Nat) : BitVec 512 := k.v.look 0 r

/-- Element `i` of the group at register `r`. -/
def Tidy.vget (k : Tidy) (eew r i : Nat) : Nat :=
  (k.vreg (r + i * eew / 512)).toNat / 2 ^ (i * eew % 512) % 2 ^ eew

def Tidy.vput (k : Tidy) (eew r i x : Nat) : Tidy :=
  let n := r + i * eew / 512
  let o := i * eew % 512
  let old := (k.vreg n).toNat
  let new := old % 2 ^ o + x % 2 ^ eew * 2 ^ o + old / 2 ^ (o + eew) * 2 ^ (o + eew)
  { k with v := k.v.put n (BitVec.ofNat 512 new) }

def Tidy.vbit (k : Tidy) (r i : Nat) : Bool := (k.vreg r).getLsbD i

/-- Element `i` takes part: the instruction is unmasked, or v0 enables it. -/
def Tidy.vact (k : Tidy) (vm : Bool) (i : Nat) : Bool := vm || k.vbit 0 i

/-- A group of registers that an instruction names: its first register, element width, and 8 × EMUL. -/
structure VGrp where
  reg : Nat
  eew : Nat
  emul8 : Nat
  deriving DecidableEq, Repr

/-- A mask register. -/
def maskGrp (r : Nat) : VGrp := ⟨r, 1, 8⟩

def VGrp.regs (g : VGrp) : Nat := max 1 (g.emul8 / 8)

/-- EMUL lies in its range and the register number is a multiple of it. -/
def VGrp.ok (g : VGrp) : Bool :=
  decide (1 ≤ g.emul8) && decide (g.emul8 ≤ 64) && g.reg % g.regs == 0 && (g.eew == 1 || decide (8 ≤ g.eew)) &&
  decide (g.eew ≤ 32)

def VGrp.meets (a b : VGrp) : Bool := decide (a.reg < b.reg + b.regs) && decide (b.reg < a.reg + a.regs)

/-- A destination may overlap a source of the same EEW, the lowest part of a wider one, or stand over a
narrower one with its highest part. -/
def dstOk (d s : VGrp) : Bool :=
  !d.meets s || d.eew == s.eew || (decide (d.eew < s.eew) && d.reg == s.reg) ||
  (decide (s.eew < d.eew) && decide (8 ≤ s.emul8) && d.reg + d.regs == s.reg + s.regs)

/-- No register is read with two element widths. -/
def srcsOk (l : List VGrp) : Bool := l.all fun a => l.all fun b => a.eew == b.eew || !a.meets b

/-- The groups of a vector instruction are allowed. A masked instruction does not write v0 unless it writes a
mask. -/
def vlegal (vm : Bool) (d : VGrp) (l : List VGrp) : Bool :=
  d.ok && l.all VGrp.ok && l.all (dstOk d) && srcsOk (if vm then l else maskGrp 0 :: l) &&
  (vm || d.eew == 1 || d.reg != 0)

/-- What an agnostic element holds: what it held, or ones. -/
def agnosticVal (n i eew old : Nat) : Nat := if Config.agnostic n i then 2 ^ eew - 1 else old

/-- The elements of a group's registers. -/
def groupLen (eew emul8 : Nat) : Nat := 512 * max 1 (emul8 / 8) / eew

/-- Write a destination: `f` for the active elements from `lo` on, the policies for the inactive ones and the
tail. Nothing is written where vstart is not below vl. -/
def Tidy.vwriteFrom (k : Tidy) (n : Nat) (c : VCfg) (vm : Bool) (d : VGrp) (lo : Nat) (f : Nat → Nat) : Tidy :=
  let open_ := fun (t : Tidy) (i : Nat) => t.vput d.eew d.reg i (agnosticVal n i d.eew (k.vget d.eew d.reg i))
  let one := fun (t : Tidy) (i : Nat) =>
    if c.vl ≤ i then (if c.vta then open_ t i else t)
    else if i < max lo c.vstart then t
    else if k.vact vm i then t.vput d.eew d.reg i (f i)
    else if c.vma then open_ t i else t
  if c.vl ≤ c.vstart then k else (List.range (groupLen d.eew d.emul8)).foldl one k

def Tidy.vwrite (k : Tidy) (n : Nat) (c : VCfg) (vm : Bool) (d : VGrp) (f : Nat → Nat) : Tidy :=
  k.vwriteFrom n c vm d 0 f

/-- Write a mask register; its tail is agnostic under either policy. -/
def Tidy.vwriteMask (k : Tidy) (n : Nat) (c : VCfg) (vm : Bool) (vd : Nat) (f : Nat → Bool) : Tidy :=
  k.vwrite n { c with vta := true } vm (maskGrp vd) fun i => if f i then 1 else 0

/-- Write element 0 of a register; the rest of the register is tail. -/
def Tidy.vwriteOne (k : Tidy) (n : Nat) (c : VCfg) (eew vd x : Nat) : Tidy :=
  k.vwrite n { c with vl := min 1 c.vl } true ⟨vd, eew, 8⟩ fun _ => x

/-- The active elements of the body. -/
def Tidy.vbody (k : Tidy) (c : VCfg) (vm : Bool) : List Nat :=
  (upFrom c.vstart (c.vl - c.vstart)).filter (k.vact vm)

/-! ### Integer operations -/

def un (w : Nat) (i : Int) : Nat := (i % 2 ^ w).toNat

/-- v / 2^d rounded under vxrm: to nearest up, to nearest even, down, to odd. -/
def roundOff (vxrm : Nat) (v : Int) (d : Nat) : Int :=
  let f := v / 2 ^ d
  let r := (v % 2 ^ d).toNat
  let up := match vxrm with
    | 0 => decide (0 < r) && decide (2 ^ d ≤ 2 * r)
    | 1 => decide (2 ^ d < 2 * r) || (decide (0 < r) && decide (2 * r = 2 ^ d) && f % 2 == 1)
    | 2 => false
    | _ => decide (0 < r) && f % 2 == 0
  if up then f + 1 else f

/-- Clamp to signed or unsigned `w` bits; whether it changed the value. -/
def satTo (sign : Bool) (w : Nat) (v : Int) : Nat × Bool :=
  let c := if sign then clampInt (-(2 ^ (w - 1))) (2 ^ (w - 1) - 1) v else clampInt 0 (2 ^ w - 1) v
  (un w c, decide (c ≠ v))

/-- Single-width operations of OPIVV, OPIVX, OPIVI by funct6; `a` is of vs2, `b` of vs1, rs1 or the immediate. -/
def vAluI (f6 w vxrm a b : Nat) : Nat × Bool :=
  let sa := sInt w a
  let sb := sInt w b
  let sh := b % w
  match f6 with
  | 0x00 => (a + b, false)
  | 0x02 => (un w ((a : Int) - b), false)
  | 0x03 => (un w ((b : Int) - a), false)
  | 0x04 => (min a b, false)
  | 0x05 => (if sa ≤ sb then a else b, false)
  | 0x06 => (max a b, false)
  | 0x07 => (if sa ≤ sb then b else a, false)
  | 0x09 => (a &&& b, false)
  | 0x0A => (a ||| b, false)
  | 0x0B => (a ^^^ b, false)
  | 0x20 => satTo false w ((a : Int) + b)
  | 0x21 => satTo true w (sa + sb)
  | 0x22 => satTo false w ((a : Int) - b)
  | 0x23 => satTo true w (sa - sb)
  | 0x25 => (a * 2 ^ sh, false)
  | 0x27 => satTo true w (roundOff vxrm (sa * sb) (w - 1))
  | 0x28 => (a / 2 ^ sh, false)
  | 0x29 => (un w (sa / 2 ^ sh), false)
  | 0x2A => (un w (roundOff vxrm a sh), false)
  | _ => (un w (roundOff vxrm sa sh), false)

/-- Single-width operations of OPMVV and OPMVX. -/
def vAluM (f6 w vxrm a b : Nat) : Nat :=
  let sa := sInt w a
  let sb := sInt w b
  let ones := 2 ^ w - 1
  match f6 with
  | 0x08 => un w (roundOff vxrm ((a : Int) + b) 1)
  | 0x09 => un w (roundOff vxrm (sa + sb) 1)
  | 0x0A => un w (roundOff vxrm ((a : Int) - b) 1)
  | 0x0B => un w (roundOff vxrm (sa - sb) 1)
  | 0x20 => if b = 0 then ones else a / b
  | 0x21 => if b = 0 then ones else un w (sa.tdiv sb)
  | 0x22 => if b = 0 then a else a % b
  | 0x23 => if b = 0 then a else un w (sa.tmod sb)
  | 0x24 => a * b / 2 ^ w
  | 0x25 => a * b
  | 0x26 => un w (sa * b / 2 ^ w)
  | _ => un w (sa * sb / 2 ^ w)

/-- Multiply-add: `d` is of vd. VMADD, VNMSUB, VMACC, VNMSAC. -/
def vMac (f6 w a b d : Nat) : Nat :=
  match f6 with
  | 0x29 => b * d + a
  | 0x2B => un w ((a : Int) - b * d)
  | 0x2D => b * a + d
  | _ => un w ((d : Int) - b * a)

/-- Widening operations: `a` of vs2 has `w` bits, or 2w in the .W forms, `b` has `w`; the result has 2w. -/
def vWide (f6 w a b d : Nat) : Nat :=
  let sa := sInt w a
  let sb := sInt w b
  let wa := sInt (2 * w) a
  match f6 with
  | 0x30 => a + b
  | 0x31 => un (2 * w) (sa + sb)
  | 0x32 => un (2 * w) ((a : Int) - b)
  | 0x33 => un (2 * w) (sa - sb)
  | 0x34 => a + b
  | 0x35 => un (2 * w) (wa + sb)
  | 0x36 => un (2 * w) ((a : Int) - b)
  | 0x37 => un (2 * w) (wa - sb)
  | 0x38 => a * b
  | 0x3A => un (2 * w) (sa * b)
  | 0x3B => un (2 * w) (sa * sb)
  | 0x3C => a * b + d
  | 0x3D => un (2 * w) (sa * sb + d)
  | 0x3E => un (2 * w) (sa * b + d)
  | _ => un (2 * w) (sb * a + d)

/-- Narrowing shifts and clips: `a` has 2w bits. -/
def vNarrow (f6 w vxrm a b : Nat) : Nat × Bool :=
  let sh := b % (2 * w)
  let sa := sInt (2 * w) a
  match f6 with
  | 0x2C => (a / 2 ^ sh, false)
  | 0x2D => (un w (sa / 2 ^ sh), false)
  | 0x2E => satTo false w (roundOff vxrm a sh)
  | _ => satTo true w (roundOff vxrm sa sh)

/-- Comparisons. -/
def vCmp (f6 w a b : Nat) : Bool :=
  let sa := sInt w a
  let sb := sInt w b
  match f6 with
  | 0x18 => a == b
  | 0x19 => a != b
  | 0x1A => decide (a < b)
  | 0x1B => decide (sa < sb)
  | 0x1C => decide (a ≤ b)
  | 0x1D => decide (sa ≤ sb)
  | 0x1E => decide (b < a)
  | _ => decide (sb < sa)

/-- Integer reductions by funct6 of OPMVV. -/
def vRed (f6 w x y : Nat) : Nat :=
  match f6 with
  | 0x00 => x + y
  | 0x01 => x &&& y
  | 0x02 => x ||| y
  | 0x03 => x ^^^ y
  | 0x04 => min x y
  | 0x05 => if sInt w x ≤ sInt w y then x else y
  | 0x06 => max x y
  | _ => if sInt w x ≤ sInt w y then y else x

/-- Mask logic. -/
def vLogic (f6 : Nat) (a b : Bool) : Bool :=
  match f6 with
  | 0x18 => a && !b
  | 0x19 => a && b
  | 0x1A => a || b
  | 0x1B => a != b
  | 0x1C => a || !b
  | 0x1D => !(a && b)
  | 0x1E => !(a || b)
  | _ => a == b

/-! ### Fields and operands -/

/-- The fields of an OP-V instruction. -/
structure VIns where
  f6 : Nat
  f3 : Nat
  vm : Bool
  vd : Nat
  vs2 : Nat
  vs1 : Nat
  deriving DecidableEq, Repr

def vins (w : Nat) : VIns := ⟨ib w 26 6, ib w 12 3, ib w 25 1 == 1, ib w 7 5, ib w 20 5, ib w 15 5⟩

/-- The first source is a vector. -/
def VIns.vv (i : VIns) : Bool := decide (i.f3 < 3)

/-- The immediate forms whose immediate is unsigned: slides, gathers, shifts and clips. -/
def immUnsigned (f6 : Nat) : Bool := [0x0C, 0x0E, 0x0F, 0x25, 0x28, 0x29, 0x2A, 0x2B, 0x2C, 0x2D, 0x2E, 0x2F].contains f6

/-- The scalar or immediate operand, at full width. -/
def Tidy.vscalar (k : Tidy) (i : VIns) : Nat :=
  match i.f3 with
  | 3 => if immUnsigned i.f6 then i.vs1 else un 32 (sInt 5 i.vs1)
  | 5 => (k.fr i.vs1).toNat
  | _ => (k.xr i.vs1).toNat

/-- Element `j` of the first operand, `w` bits. -/
def Tidy.vone (k : Tidy) (i : VIns) (w j : Nat) : Nat := if i.vv then k.vget w i.vs1 j else k.vscalar i % 2 ^ w

/-- Groups of the first operand. -/
def VIns.grp1 (i : VIns) (eew emul8 : Nat) : List VGrp := if i.vv then [⟨i.vs1, eew, emul8⟩] else []

/-- Set vxsat where an active element saturated. -/
def Tidy.vsat (k : Tidy) (b : Bool) : Tidy := if b then { k with vcsr := k.vcsr ||| 1#8 } else k

def Tidy.vxrm (k : Tidy) : Nat := k.vcsr.toNat / 2 % 4

/-- A guarded result. -/
def guarded (b : Bool) (k : Tidy) : Option Tidy := if b then some k else none

/-! ### OPIVV, OPIVX, OPIVI -/

/-- Slides and gathers. `off` is the full scalar. -/
def Tidy.vslide (k : Tidy) (n : Nat) (c : VCfg) (i : VIns) (up : Bool) (off : Nat) : Option Tidy :=
  let g := ⟨i.vd, c.sew, c.lmul8⟩
  let s2 := ⟨i.vs2, c.sew, c.lmul8⟩
  let mx := 64 * c.lmul8 / c.sew
  if up then
    guarded (vlegal i.vm g [s2] && !g.meets s2)
      (k.vwriteFrom n c i.vm g off fun j => k.vget c.sew i.vs2 (j - off))
  else
    guarded (vlegal i.vm g [s2])
      (k.vwrite n c i.vm g fun j => if j + off < mx then k.vget c.sew i.vs2 (j + off) else 0)

/-- VRGATHER: the index of element `j` is `idx j`; `ig` is the group of the indices. -/
def Tidy.vgather (k : Tidy) (n : Nat) (c : VCfg) (i : VIns) (ig : List VGrp) (idx : Nat → Nat) : Option Tidy :=
  let g := ⟨i.vd, c.sew, c.lmul8⟩
  let s2 := ⟨i.vs2, c.sew, c.lmul8⟩
  let mx := 64 * c.lmul8 / c.sew
  guarded (vlegal i.vm g (s2 :: ig) && !g.meets s2 && !ig.any (VGrp.meets g))
    (k.vwrite n c i.vm g fun j => if idx j < mx then k.vget c.sew i.vs2 (idx j) else 0)

/-- Add with carry, and carry-out: `sub` subtracts. -/
def Tidy.vcarry (k : Tidy) (n : Nat) (c : VCfg) (i : VIns) : Option Tidy :=
  let w := c.sew
  let sub := decide (0x12 ≤ i.f6)
  let g := ⟨i.vd, w, c.lmul8⟩
  let srcs := ⟨i.vs2, w, c.lmul8⟩ :: i.grp1 w c.lmul8
  let cin := fun (j : Nat) => if !i.vm && k.vbit 0 j then (1 : Int) else 0
  let v := fun (j : Nat) =>
    let a : Int := k.vget w i.vs2 j
    let b : Int := k.vone i w j
    if sub then a - b - cin j else a + b + cin j
  if i.f6 = 0x10 ∨ i.f6 = 0x12 then
    guarded (!i.vm && vlegal false g srcs) (k.vwrite n c true g fun j => un w (v j))
  else
    guarded (vlegal true (maskGrp i.vd) srcs && srcsOk (if i.vm then srcs else maskGrp 0 :: srcs))
      (k.vwriteMask n c true i.vd fun j => decide (v j < 0) || decide (2 ^ w ≤ v j))

/-- VMERGE, and VMV.V where unmasked. -/
def Tidy.vmerge (k : Tidy) (n : Nat) (c : VCfg) (i : VIns) : Option Tidy :=
  let w := c.sew
  let g := ⟨i.vd, w, c.lmul8⟩
  if i.vm then
    guarded (i.vs2 == 0 && vlegal true g (i.grp1 w c.lmul8)) (k.vwrite n c true g (k.vone i w))
  else
    guarded (vlegal false g (⟨i.vs2, w, c.lmul8⟩ :: i.grp1 w c.lmul8))
      (k.vwrite n c true g fun j => if k.vbit 0 j then k.vone i w j else k.vget w i.vs2 j)

/-- VMV1R, VMV2R, VMV4R and VMV8R. -/
def Tidy.vmvr (k : Tidy) (n : Nat) (c : VCfg) (i : VIns) : Option Tidy :=
  let m := i.vs1 + 1
  let g : VGrp := ⟨i.vd, c.sew, 8 * m⟩
  guarded (i.vm && [1, 2, 4, 8].contains m && i.vd % m == 0 && i.vs2 % m == 0)
    (k.vwrite n { c with vl := 512 * m / c.sew } true g fun j => k.vget c.sew i.vs2 j)

/-- Forms that funct6 allows in OPIVV, OPIVX and OPIVI. -/
def formsI (f6 : Nat) : List Nat :=
  if [0x00, 0x09, 0x0A, 0x0B, 0x18, 0x19, 0x1C, 0x1D, 0x20, 0x21, 0x25, 0x28, 0x29, 0x2A, 0x2B, 0x2C, 0x2D, 0x2E,
      0x2F, 0x0C, 0x10, 0x11, 0x17].contains f6 then [0, 3, 4]
  else if [0x02, 0x04, 0x05, 0x06, 0x07, 0x12, 0x13, 0x1A, 0x1B, 0x22, 0x23, 0x27].contains f6 then [0, 4]
  else if [0x03, 0x0E, 0x0F, 0x1E, 0x1F].contains f6 then [3, 4]
  else if f6 = 0x30 ∨ f6 = 0x31 then [0]
  else []

/-- VWREDSUMU and VWREDSUM. -/
def Tidy.vredWide (k : Tidy) (n : Nat) (c : VCfg) (i : VIns) : Option Tidy :=
  let w := c.sew
  let ext := fun (x : Nat) => if i.f6 = 0x30 then (x : Int) else sInt w x
  let r := (k.vbody c i.vm).foldl (fun (a : Int) j => a + ext (k.vget w i.vs2 j)) (k.vget (2 * w) i.vs1 0)
  let srcs := [⟨i.vs2, w, c.lmul8⟩, ⟨i.vs1, 2 * w, 8⟩]
  guarded (c.vstart == 0 && decide (w ≤ 16) && srcs.all VGrp.ok && srcsOk (if i.vm then srcs else maskGrp 0 :: srcs))
    (k.vwriteOne n c (2 * w) i.vd (un (2 * w) r))

def Tidy.opvI (k : Tidy) (n : Nat) (c : VCfg) (i : VIns) : Option Tidy :=
  let w := c.sew
  let g : VGrp := ⟨i.vd, w, c.lmul8⟩
  let s2 : VGrp := ⟨i.vs2, w, c.lmul8⟩
  let srcs := s2 :: i.grp1 w c.lmul8
  if i.f6 = 0x27 ∧ i.f3 = 3 then k.vmvr n c i
  else if i.f6 = 0x0E ∧ i.f3 = 0 then
    k.vgather n c i [⟨i.vs1, 16, 16 * c.lmul8 / w⟩] fun j => k.vget 16 i.vs1 j
  else if !(formsI i.f6).contains i.f3 then none
  else if i.f6 = 0x0C then
    k.vgather n c i (i.grp1 w c.lmul8) fun j => if i.vv then k.vget w i.vs1 j else k.vscalar i
  else if i.f6 = 0x0E ∨ i.f6 = 0x0F then k.vslide n c i (i.f6 == 0x0E) (k.vscalar i)
  else if 0x10 ≤ i.f6 ∧ i.f6 ≤ 0x13 then k.vcarry n c i
  else if i.f6 = 0x17 then k.vmerge n c i
  else if 0x18 ≤ i.f6 ∧ i.f6 ≤ 0x1F then
    guarded (vlegal i.vm (maskGrp i.vd) srcs)
      (k.vwriteMask n c i.vm i.vd fun j => vCmp i.f6 w (k.vget w i.vs2 j) (k.vone i w j))
  else if 0x2C ≤ i.f6 ∧ i.f6 ≤ 0x2F then
    let r := fun (j : Nat) => vNarrow i.f6 w k.vxrm (k.vget (2 * w) i.vs2 j) (k.vone i w j)
    guarded (decide (w ≤ 16) && vlegal i.vm g (⟨i.vs2, 2 * w, 2 * c.lmul8⟩ :: i.grp1 w c.lmul8))
      ((k.vwrite n c i.vm g fun j => (r j).1).vsat ((k.vbody c i.vm).any fun j => (r j).2))
  else if 0x30 ≤ i.f6 then k.vredWide n c i
  else
    let r := fun (j : Nat) => vAluI i.f6 w k.vxrm (k.vget w i.vs2 j) (k.vone i w j)
    guarded (vlegal i.vm g srcs)
      ((k.vwrite n c i.vm g fun j => (r j).1).vsat ((k.vbody c i.vm).any fun j => (r j).2))

/-! ### OPMVV, OPMVX -/

/-- VMV.X.S, VCPOP, VFIRST and VMV.S.X. -/
def Tidy.vunary0 (k : Tidy) (n : Nat) (c : VCfg) (i : VIns) : Option Tidy :=
  if i.f3 = 6 then guarded (i.vm && i.vs2 == 0) (k.vwriteOne n c c.sew i.vd (k.vscalar i))
  else
    let set := (k.vbody c i.vm).filter (k.vbit i.vs2)
    let ok := c.vstart == 0
    match i.vs1 with
    | 0x00 => guarded i.vm (k.setX i.vd (BitVec.ofInt 32 (sInt c.sew (k.vget c.sew i.vs2 0))))
    | 0x10 => guarded ok (k.setX i.vd (BitVec.ofNat 32 set.length))
    | 0x11 => guarded ok (k.setX i.vd (match set with | [] => 0xFFFFFFFF#32 | j :: _ => BitVec.ofNat 32 j))
    | _ => none

/-- VZEXT and VSEXT. -/
def Tidy.vext (k : Tidy) (n : Nat) (c : VCfg) (i : VIns) : Option Tidy :=
  let q := match i.vs1 with
    | 4 | 5 => 4
    | _ => 2
  let e := c.sew / q
  let g := ⟨i.vd, c.sew, c.lmul8⟩
  guarded ([4, 5, 6, 7].contains i.vs1 && decide (8 ≤ e) && vlegal i.vm g [⟨i.vs2, e, c.lmul8 / q⟩])
    (k.vwrite n c i.vm g fun j =>
      let x := k.vget e i.vs2 j
      if i.vs1 % 2 = 0 then x else un c.sew (sInt e x))

/-- VMSBF, VMSOF, VMSIF, VIOTA and VID. -/
def Tidy.vmunary0 (k : Tidy) (n : Nat) (c : VCfg) (i : VIns) : Option Tidy :=
  let body := k.vbody c i.vm
  let first := (body.find? (k.vbit i.vs2)).getD c.vl
  let g : VGrp := ⟨i.vd, c.sew, c.lmul8⟩
  let maskOk := c.vstart == 0 && i.vd != i.vs2 && (i.vm || i.vd != 0)
  match i.vs1 with
  | 0x01 => guarded maskOk (k.vwriteMask n c i.vm i.vd fun j => decide (j < first))
  | 0x02 => guarded maskOk (k.vwriteMask n c i.vm i.vd fun j => j == first)
  | 0x03 => guarded maskOk (k.vwriteMask n c i.vm i.vd fun j => decide (j ≤ first))
  | 0x10 =>
    guarded (c.vstart == 0 && vlegal i.vm g [maskGrp i.vs2] && !g.meets (maskGrp i.vs2))
      (k.vwrite n c i.vm g fun j => (body.filter fun x => decide (x < j) && k.vbit i.vs2 x).length)
  | 0x11 => guarded (i.vs2 == 0 && vlegal i.vm g []) (k.vwrite n c i.vm g fun j => j)
  | _ => none

/-- VCOMPRESS. The elements behind those packed are tail. -/
def Tidy.vcompress (k : Tidy) (n : Nat) (c : VCfg) (i : VIns) : Option Tidy :=
  let w := c.sew
  let g : VGrp := ⟨i.vd, w, c.lmul8⟩
  let s2 : VGrp := ⟨i.vs2, w, c.lmul8⟩
  let l := (List.range c.vl).filter (k.vbit i.vs1)
  let put := k.vwriteFrom n { c with vl := max 1 l.length } true g (if l.isEmpty then 1 else 0)
    fun j => k.vget w i.vs2 (l.getD j 0)
  let tail0 := put.vput w i.vd 0 (agnosticVal n 0 w (k.vget w i.vd 0))
  guarded (i.vm && c.vstart == 0 && vlegal true g [s2, maskGrp i.vs1] && !g.meets s2 && !g.meets (maskGrp i.vs1))
    (if c.vl = 0 then k else if l.isEmpty ∧ c.vta then tail0 else put)

/-- Integer reductions. -/
def Tidy.vreduce (k : Tidy) (n : Nat) (c : VCfg) (i : VIns) : Option Tidy :=
  let w := c.sew
  let r := (k.vbody c i.vm).foldl (fun (a : Nat) j => vRed i.f6 w a (k.vget w i.vs2 j) % 2 ^ w) (k.vget w i.vs1 0)
  let srcs := [⟨i.vs2, w, c.lmul8⟩, ⟨i.vs1, w, 8⟩]
  guarded (c.vstart == 0 && srcs.all VGrp.ok && srcsOk (if i.vm then srcs else maskGrp 0 :: srcs))
    (k.vwriteOne n c w i.vd r)

/-- VSLIDE1UP, VSLIDE1DOWN and their F forms. -/
def Tidy.vslide1 (k : Tidy) (n : Nat) (c : VCfg) (i : VIns) (up : Bool) : Option Tidy :=
  let w := c.sew
  let g : VGrp := ⟨i.vd, w, c.lmul8⟩
  let s2 : VGrp := ⟨i.vs2, w, c.lmul8⟩
  let x := k.vscalar i % 2 ^ w
  if up then
    guarded (vlegal i.vm g [s2] && !g.meets s2)
      (k.vwrite n c i.vm g fun j => if j = 0 then x else k.vget w i.vs2 (j - 1))
  else
    guarded (vlegal i.vm g [s2])
      (k.vwrite n c i.vm g fun j => if j + 1 = c.vl then x else k.vget w i.vs2 (j + 1))

/-- Widening integer operations. -/
def Tidy.vwiden (k : Tidy) (n : Nat) (c : VCfg) (i : VIns) : Option Tidy :=
  let w := c.sew
  let wide2 := decide (0x34 ≤ i.f6) && decide (i.f6 ≤ 0x37)
  let e2 := if wide2 then 2 * w else w
  let g : VGrp := ⟨i.vd, 2 * w, 2 * c.lmul8⟩
  let s2 : VGrp := ⟨i.vs2, e2, if wide2 then 2 * c.lmul8 else c.lmul8⟩
  let acc := if 0x3C ≤ i.f6 then [g] else []
  guarded (decide (w ≤ 16) && i.f6 != 0x39 && !(i.f6 == 0x3E && i.vv) &&
      vlegal i.vm g (s2 :: (i.grp1 w c.lmul8 ++ acc)))
    (k.vwrite n c i.vm g fun j => vWide i.f6 w (k.vget e2 i.vs2 j) (k.vone i w j) (k.vget (2 * w) i.vd j))

def Tidy.opvM (k : Tidy) (n : Nat) (c : VCfg) (i : VIns) : Option Tidy :=
  let w := c.sew
  let g : VGrp := ⟨i.vd, w, c.lmul8⟩
  let srcs := ⟨i.vs2, w, c.lmul8⟩ :: i.grp1 w c.lmul8
  if i.f6 < 0x08 then (if i.vv then k.vreduce n c i else none)
  else if i.f6 = 0x0E ∨ i.f6 = 0x0F then (if i.vv then none else k.vslide1 n c i (i.f6 == 0x0E))
  else if i.f6 = 0x10 then k.vunary0 n c i
  else if i.f6 = 0x12 then (if i.vv then k.vext n c i else none)
  else if i.f6 = 0x14 then (if i.vv then k.vmunary0 n c i else none)
  else if i.f6 = 0x17 then (if i.vv then k.vcompress n c i else none)
  else if 0x18 ≤ i.f6 ∧ i.f6 ≤ 0x1F then
    guarded (i.vv && i.vm)
      (k.vwriteMask n c true i.vd fun j => vLogic i.f6 (k.vbit i.vs2 j) (k.vbit i.vs1 j))
  else if [0x29, 0x2B, 0x2D, 0x2F].contains i.f6 then
    guarded (vlegal i.vm g srcs)
      (k.vwrite n c i.vm g fun j => vMac i.f6 w (k.vget w i.vs2 j) (k.vone i w j) (k.vget w i.vd j))
  else if 0x30 ≤ i.f6 then k.vwiden n c i
  else if [0x08, 0x09, 0x0A, 0x0B].contains i.f6 ∨ (0x20 ≤ i.f6 ∧ i.f6 ≤ 0x27) then
    guarded (vlegal i.vm g srcs)
      (k.vwrite n c i.vm g fun j => vAluM i.f6 w k.vxrm (k.vget w i.vs2 j) (k.vone i w j))
  else none

/-! ### OPFVV, OPFVF -/

/-- A value in a format with its flags. -/
def fmtRound (f : Fmt) (rm : Rm) (v : Fx) : Nat × Nat :=
  match v with
  | .nan => (f.nan, 0)
  | .inf s => (f.infBits s, 0)
  | .fin s m e =>
    let r := f.round rm s m 1 e
    (r.bits, (if r.inexact then 1 else 0) + (if r.under then 2 else 0) + (if r.isOver then 4 else 0))

/-- A signalling NaN of a format. -/
def Fmt.snan (f : Fmt) (b : Nat) : Bool := (f.decode b).isNan && b / 2 ^ (f.mbits - 1) % 2 == 0

/-- Single-precision operations: `a` of vs2, `b` of vs1 or rs1. -/
def vAluF (f6 : Nat) (rm : Rm) (a b : F32) : F32 × Nat :=
  let sgn := 0x80000000#32
  let add := fun (x y : F32) (neg : Bool) =>
    fArith rm [x, y] (Fx.sum (rm = .rdn) [f32 x, if neg then (f32 y).negate else f32 y])
  match f6 with
  | 0x00 => add a b false
  | 0x02 => add a b true
  | 0x27 => add b a true
  | 0x04 => fMinMax false a b
  | 0x06 => fMinMax true a b
  | 0x08 => ((a &&& ~~~sgn) ||| (b &&& sgn), 0)
  | 0x09 => ((a &&& ~~~sgn) ||| (~~~b &&& sgn), 0)
  | 0x0A => (a ^^^ (b &&& sgn), 0)
  | 0x20 => fDivOp rm a b
  | 0x21 => fDivOp rm b a
  | _ => fArith rm [a, b] ((f32 a).mul (f32 b))

/-- Fused multiply-add by funct6: the four forms that overwrite a factor, then the four that overwrite the
addend; `d` is of vd. -/
def vFma (f6 : Nat) (rm : Rm) (a b d : F32) : F32 × Nat :=
  let op := match f6 % 4 with
    | 0 => 0x43
    | 1 => 0x4F
    | 2 => 0x47
    | _ => 0x4B
  if f6 < 0x2C then fmaOp op rm b d a else fmaOp op rm b a d

/-- Comparisons, with their flags. -/
def vCmpF (f6 : Nat) (a b : F32) : Bool × Nat :=
  let r := match f6 with
    | 0x18 => fCompare 2 a b
    | 0x19 => fCompare 0 a b
    | 0x1B => fCompare 1 a b
    | 0x1C => let x := fCompare 2 a b; (1#32 - x.1, x.2)
    | 0x1D => fCompare 1 b a
    | _ => fCompare 0 b a
  (r.1 == 1#32, r.2)

/-- The 7-bit reciprocal estimate of the significand whose upper 7 bits are `i`. -/
def rec7Table : List Nat :=
  [127, 125, 123, 121, 119, 117, 116, 114, 112, 110, 109, 107, 105, 104, 102, 100, 99, 97, 96, 94, 93, 91, 90, 88, 87, 85,
   84, 83, 81, 80, 79, 77, 76, 75, 74, 72, 71, 70, 69, 68, 66, 65, 64, 63, 62, 61, 60, 59, 58, 57, 56, 55, 54, 53, 52,
   51, 50, 49, 48, 47, 46, 45, 44, 43] ++
  [42, 41, 40, 40, 39, 38, 37, 36, 35, 35, 34, 33, 32, 31, 31, 30, 29, 28, 28, 27, 26, 25, 25, 24, 23, 23, 22, 21, 21, 20,
   19, 19, 18, 17, 17, 16, 15, 15, 14, 14, 13, 12, 12, 11, 11, 10, 9, 9, 8, 8, 7, 7, 6, 5, 5, 4, 4, 3, 3, 2, 2, 1, 1, 0]

/-- The 7-bit estimate of the reciprocal square root, by the exponent's lowest bit and 6 significand bits. -/
def rsqrt7Table : List Nat :=
  [52, 51, 50, 48, 47, 46, 44, 43, 42, 41, 40, 39, 38, 36, 35, 34, 33, 32, 31, 30, 30, 29, 28, 27, 26, 25, 24, 23, 23, 22,
   21, 20, 19, 19, 18, 17, 16, 16, 15, 14, 14, 13, 12, 12, 11, 10, 10, 9, 9, 8, 7, 7, 6, 6, 5, 4, 4, 3, 3, 2, 2, 1, 1, 0] ++
  [127, 125, 123, 121, 119, 118, 116, 114, 113, 111, 109, 108, 106, 105, 103, 102, 100, 99, 97, 96, 95, 93, 92, 91, 90, 88,
   87, 86, 85, 84, 83, 82, 80, 79, 78, 77, 76, 75, 74, 73, 72, 71, 70, 70, 69, 68, 67, 66, 65, 64, 63, 63, 62, 61, 60,
   59, 59, 58, 57, 56, 56, 55, 54, 53]

/-- Exponent and significand of a finite number, a subnormal one normalised. -/
def normParts (a : F32) : Int × Nat :=
  let e : Nat := a.toNat / 2 ^ 23 % 256
  let m : Nat := a.toNat % 2 ^ 23
  if e ≠ 0 then (Int.ofNat e, m)
  else
    let z := 22 - m.log2
    (-(z : Int), m * 2 ^ (z + 1) % 2 ^ 23)

/-- VFREC7. -/
def fRec7 (rm : Rm) (a : F32) : F32 × Nat :=
  let s := if a.getLsbD 31 then 2 ^ 31 else 0
  match f32 a with
  | .nan => (f32Nan, if f32Snan a then 16 else 0)
  | .inf _ => (BitVec.ofNat 32 s, 0)
  | .fin n m _ =>
    if m = 0 then (BitVec.ofNat 32 (s + 0x7F800000), 8)
    else
      let (e, sig) := normParts a
      if e < -1 then
        let toMax := rm = .rtz ∨ (rm = .rdn ∧ !n) ∨ (rm = .rup ∧ n)
        (BitVec.ofNat 32 (s + if toMax then 0x7F7FFFFF else 0x7F800000), 5)
      else
        let t := rec7Table.getD (sig / 2 ^ 16) 0 * 2 ^ 16
        let oe := 253 - e
        let r := if 0 < oe then oe.toNat * 2 ^ 23 + t
          else if oe = 0 then (t + 2 ^ 23) / 2
          else (t + 2 ^ 23) / 4
        (BitVec.ofNat 32 (s + r), 0)

/-- VFRSQRT7. -/
def fRsqrt7 (a : F32) : F32 × Nat :=
  match f32 a with
  | .nan => (f32Nan, if f32Snan a then 16 else 0)
  | .inf s => if s then (f32Nan, 16) else (0, 0)
  | .fin n m _ =>
    if m = 0 then (BitVec.ofNat 32 ((if n then 2 ^ 31 else 0) + 0x7F800000), 8)
    else if n then (f32Nan, 16)
    else
      let (e, sig) := normParts a
      let t := rsqrt7Table.getD (Int.toNat (e % 2) * 64 + sig / 2 ^ 17) 0
      (BitVec.ofNat 32 (Int.toNat ((380 - e) / 2) * 2 ^ 23 + t * 2 ^ 16), 0)

/-- An integer converted to single precision. -/
def fOfInt (rm : Rm) (i : Int) : F32 × Nat := fxRound rm (.fin (decide (i < 0)) i.natAbs 0)

/-- The flags that the active elements raise. -/
def Tidy.vflags (k : Tidy) (c : VCfg) (vm : Bool) (f : Nat → Nat) : Nat :=
  (k.vbody c vm).foldl (fun (a : Nat) j => a ||| f j) 0

/-- Write results with flags. -/
def Tidy.vwriteF (k : Tidy) (n : Nat) (c : VCfg) (vm : Bool) (g : VGrp) (r : Nat → Nat × Nat) : Tidy :=
  (k.vwrite n c vm g fun j => (r j).1).accrue (k.vflags c vm fun j => (r j).2)

/-- Conversions (VFUNARY0) by the field of vs1: the EEW of source and destination, and the result. FP16 and
BF16 results are rounded to nearest even (07 R257). -/
def vCvt (op sew : Nat) (rm : Rm) (x : Nat) : Option (Nat × Nat × (Nat × Nat)) :=
  let a := BitVec.ofNat 32 x
  let toInt := fun (rm : Rm) (w : Nat) (sign : Bool) =>
    let r := if sign then fToInt rm (-(2 ^ (w - 1))) (2 ^ (w - 1) - 1) a else fToInt rm 0 (2 ^ w - 1) a
    (un w r.1, r.2)
  let ofInt := fun (i : Int) => let r := fOfInt rm i; (r.1.toNat, r.2)
  let widen := fun (f : Fmt) => ((fmtRound fmtF32 .rne (f.decode x)).1, if f.snan x then 16 else 0)
  let narrow := fun (f : Fmt) => let r := fmtRound f .rne (f32 a); (r.1, r.2 ||| if f32Snan a then 16 else 0)
  if sew = 32 then
    match op with
    | 0x00 => some (32, 32, toInt rm 32 false)
    | 0x01 => some (32, 32, toInt rm 32 true)
    | 0x02 => some (32, 32, ofInt x)
    | 0x03 => some (32, 32, ofInt (sInt 32 x))
    | 0x06 => some (32, 32, toInt .rtz 32 false)
    | 0x07 => some (32, 32, toInt .rtz 32 true)
    | _ => none
  else if sew = 16 then
    match op with
    | 0x0A => some (16, 32, ofInt x)
    | 0x0B => some (16, 32, ofInt (sInt 16 x))
    | 0x0C => some (16, 32, widen fmtF16)
    | 0x0D => some (16, 32, widen fmtBf16)
    | 0x10 => some (32, 16, toInt rm 16 false)
    | 0x11 => some (32, 16, toInt rm 16 true)
    | 0x14 => some (32, 16, narrow fmtF16)
    | 0x16 => some (32, 16, toInt .rtz 16 false)
    | 0x17 => some (32, 16, toInt .rtz 16 true)
    | 0x1D => some (32, 16, narrow fmtBf16)
    | _ => none
  else none

def Tidy.vfunary0 (k : Tidy) (n : Nat) (c : VCfg) (i : VIns) (rm : Rm) : Option Tidy :=
  (vCvt i.vs1 c.sew rm 0).bind fun e =>
    let g : VGrp := ⟨i.vd, e.2.1, e.2.1 * c.lmul8 / c.sew⟩
    guarded (vlegal i.vm g [⟨i.vs2, e.1, e.1 * c.lmul8 / c.sew⟩])
      (k.vwriteF n c i.vm g fun j => ((vCvt i.vs1 c.sew rm (k.vget e.1 i.vs2 j)).map fun r => r.2.2).getD (0, 0))

/-- VFSQRT, VFRSQRT7, VFREC7 and VFCLASS. -/
def Tidy.vfunary1 (k : Tidy) (n : Nat) (c : VCfg) (i : VIns) (rm : Rm) : Option Tidy :=
  let g : VGrp := ⟨i.vd, 32, c.lmul8⟩
  let r := fun (j : Nat) =>
    let a := BitVec.ofNat 32 (k.vget 32 i.vs2 j)
    match i.vs1 with
    | 0x00 => let x := fSqrtOp rm a; (x.1.toNat, x.2)
    | 0x04 => let x := fRsqrt7 a; (x.1.toNat, x.2)
    | 0x05 => let x := fRec7 rm a; (x.1.toNat, x.2)
    | _ => (fClass a, 0)
  guarded ([0x00, 0x04, 0x05, 0x10].contains i.vs1 && vlegal i.vm g [⟨i.vs2, 32, c.lmul8⟩]) (k.vwriteF n c i.vm g r)

/-- VFREDUSUM, VFREDOSUM, VFREDMIN and VFREDMAX, element by element (07 R243). -/
def Tidy.vfreduce (k : Tidy) (n : Nat) (c : VCfg) (i : VIns) (rm : Rm) : Option Tidy :=
  let op := if i.f6 = 5 then 4 else if i.f6 = 7 then 6 else 0
  let step := fun (a : F32 × Nat) (j : Nat) =>
    let r := vAluF op rm a.1 (BitVec.ofNat 32 (k.vget 32 i.vs2 j))
    (r.1, a.2 ||| r.2)
  let r := (k.vbody c i.vm).foldl step (BitVec.ofNat 32 (k.vget 32 i.vs1 0), 0)
  let srcs := [⟨i.vs2, 32, c.lmul8⟩, ⟨i.vs1, 32, 8⟩]
  guarded (c.vstart == 0 && srcs.all VGrp.ok && srcsOk (if i.vm then srcs else maskGrp 0 :: srcs))
    ((k.vwriteOne n c 32 i.vd r.1.toNat).accrue r.2)

def Tidy.opvF (k : Tidy) (n : Nat) (c : VCfg) (i : VIns) (rm : Rm) : Option Tidy :=
  let g : VGrp := ⟨i.vd, 32, c.lmul8⟩
  let srcs := ⟨i.vs2, 32, c.lmul8⟩ :: i.grp1 32 c.lmul8
  let el := fun (r j : Nat) => BitVec.ofNat 32 (k.vget 32 r j)
  let b := fun (j : Nat) => BitVec.ofNat 32 (k.vone i 32 j)
  if i.f6 = 0x12 then (if i.vv then k.vfunary0 n c i rm else none)
  else if c.sew ≠ 32 then none
  else if [0x01, 0x03, 0x05, 0x07].contains i.f6 then (if i.vv then k.vfreduce n c i rm else none)
  else if i.f6 = 0x13 then (if i.vv then k.vfunary1 n c i rm else none)
  else if i.f6 = 0x10 then
    if i.vv then guarded (i.vm && i.vs1 == 0) (k.setF i.vd (el i.vs2 0))
    else guarded (i.vm && i.vs2 == 0) (k.vwriteOne n c 32 i.vd (k.vscalar i))
  else if i.f6 = 0x0E ∨ i.f6 = 0x0F then (if i.vv then none else k.vslide1 n c i (i.f6 == 0x0E))
  else if i.f6 = 0x17 then (if i.vv then none else k.vmerge n c i)
  else if [0x18, 0x19, 0x1B, 0x1C].contains i.f6 ∨ ((i.f6 = 0x1D ∨ i.f6 = 0x1F) ∧ !i.vv) then
    let r := fun (j : Nat) => vCmpF i.f6 (el i.vs2 j) (b j)
    guarded (vlegal i.vm (maskGrp i.vd) srcs)
      ((k.vwriteMask n c i.vm i.vd fun j => (r j).1).accrue (k.vflags c i.vm fun j => (r j).2))
  else if 0x28 ≤ i.f6 ∧ i.f6 ≤ 0x2F then
    guarded (vlegal i.vm g srcs) (k.vwriteF n c i.vm g fun j =>
      let r := vFma i.f6 rm (el i.vs2 j) (b j) (el i.vd j); (r.1.toNat, r.2))
  else if [0x00, 0x02, 0x04, 0x06, 0x08, 0x09, 0x0A, 0x20, 0x24].contains i.f6 ∨
      ((i.f6 = 0x21 ∨ i.f6 = 0x27) ∧ !i.vv) then
    guarded (vlegal i.vm g srcs) (k.vwriteF n c i.vm g fun j =>
      let r := vAluF i.f6 rm (el i.vs2 j) (b j); (r.1.toNat, r.2))
  else none

/-- An OP-V instruction; `none` where it is illegal. `n` numbers the free values it draws. -/
def Tidy.vexec (k : Tidy) (n w : Nat) : Option Tidy :=
  let i := vins w
  if i.f3 = 7 then k.vset w
  else
    (k.vcfg.bind fun c =>
      match i.f3 with
      | 0 | 3 | 4 => k.opvI n c i
      | 2 | 6 => k.opvM n c i
      | _ => (rmOf k 7).bind fun rm => k.opvF n c i rm).map fun k => { k with vstart := 0 }

/-- An instruction that reaches no memory, and the program counter behind it. -/
def Tidy.run (k : Tidy) (n w len : Nat) : Option Tidy :=
  if w % 128 = 0x57 then (k.vexec n w).map fun t => t.goto (k.pc + BitVec.ofNat 32 len) else k.exec n w len

/-! ### Vector loads and stores -/

/-- A vector load or store opcode; 32-bit scalars have funct3 2. -/
def isVector (w : Nat) : Bool := (w % 128 == 0x07 || w % 128 == 0x27) && ib w 12 3 != 2

/-- What a vector access does: fault-only-first; the EEW of an element; the registers of one field's group; the
fields; the first data register; the elements; the tail's policy; the accesses in order as element, field and
address. -/
structure VPlan where
  load : Bool
  ff : Bool
  eew : Nat
  emul8 : Nat
  nf : Nat
  vd : Nat
  cfg : VCfg
  vm : Bool
  accs : List (Nat × Nat × Nat)
  deriving DecidableEq, Repr

/-- Register of field `f`. -/
def VPlan.reg (p : VPlan) (f : Nat) : Nat := p.vd + f * max 1 (p.emul8 / 8)

/-- The accesses of the active elements. -/
def Tidy.vaccs (k : Tidy) (c : VCfg) (vm : Bool) (nf : Nat) (addr : Nat → Nat → Nat) : List (Nat × Nat × Nat) :=
  (k.vbody c vm).flatMap fun i => (List.range nf).map fun f => (i, f, addr i f % 2 ^ 32)

/-- Whole-register loads and stores, which do not depend on vtype. -/
def Tidy.vwhole (k : Tidy) (w eew nf : Nat) (load : Bool) : Option VPlan :=
  let vd := ib w 7 5
  let base := (k.xr (ib w 15 5)).toNat
  let c : VCfg := ⟨eew, 8, false, false, nf * 512 / eew, k.vstart⟩
  if ib w 25 1 = 1 ∧ [1, 2, 4, 8].contains nf ∧ vd % nf = 0 ∧ (load ∨ eew = 8) then
    some ⟨load, false, eew, 8 * nf, 1, vd, c, true, k.vaccs c true 1 fun i _ => base + i * (eew / 8)⟩
  else none

/-- VLM and VSM. -/
def Tidy.vmaskAcc (k : Tidy) (w eew nf : Nat) (load : Bool) : Option VPlan :=
  let base := (k.xr (ib w 15 5)).toNat
  k.vcfg.bind fun c =>
    let d : VCfg := ⟨8, 8, true, false, (c.vl + 7) / 8, c.vstart⟩
    if ib w 25 1 = 1 ∧ nf = 1 ∧ eew = 8 then
      some ⟨load, false, 8, 8, 1, ib w 7 5, d, true, k.vaccs d true 1 fun i _ => base + i⟩
    else none

/-- The plan of a vector load or store; `none` where it is illegal. -/
def Tidy.vplan (k : Tidy) (w : Nat) : Option VPlan :=
  let load := w % 128 == 0x07
  let width := ib w 12 3
  let eew := if width = 0 then 8 else if width = 5 then 16 else 32
  let nf := ib w 29 3 + 1
  let vm := ib w 25 1 == 1
  let vd := ib w 7 5
  let rs2 := ib w 20 5
  let mop := ib w 26 2
  let base := (k.xr (ib w 15 5)).toNat
  if ib w 28 1 = 1 ∨ width = 7 then none
  else if mop = 0 ∧ rs2 = 0x08 then k.vwhole w eew nf load
  else if mop = 0 ∧ rs2 = 0x0B then k.vmaskAcc w eew nf load
  else if mop = 0 ∧ rs2 ≠ 0 ∧ ¬ (rs2 = 0x10 ∧ load) then none
  else k.vcfg.bind fun c =>
    let indexed := mop % 2 == 1
    let de := if indexed then c.sew else eew
    let dm := de * c.lmul8 / c.sew
    let g : VGrp := ⟨vd, de, dm⟩
    let ig : VGrp := ⟨rs2, eew, eew * c.lmul8 / c.sew⟩
    let all : VGrp := ⟨vd, de, 8 * (nf * g.regs)⟩
    let step := de / 8
    let addr := fun (i f : Nat) =>
      if indexed then base + k.vget eew rs2 i + f * step
      else if mop = 2 then base + i * (k.xr rs2).toNat + f * step
      else base + (i * nf + f) * step
    let srcs := if indexed then [ig] else []
    let data := if load then vlegal vm g srcs && !(indexed && decide (1 < nf) && all.meets ig)
      else g.ok && srcs.all VGrp.ok && srcsOk ((if vm then [] else [maskGrp 0]) ++ all :: srcs)
    if data ∧ nf * g.regs ≤ 8 ∧ vd + nf * g.regs ≤ 32 then
      some ⟨load, mop == 0 && rs2 == 0x10, de, dm, nf, vd, c, vm, k.vaccs c vm nf addr⟩
    else none

/-- A vector load has ended: `k` holds what was loaded; the inactive elements and the tail follow their policies,
and a trimmed vl stands (its elements beyond hold free values). -/
def Tidy.vloaded (k : Tidy) (n : Nat) (p : VPlan) (trim : Option Nat) : Tidy :=
  let old := p.cfg.vl
  let vl := trim.getD old
  let spoil := fun (k : Tidy) (e : Nat × Nat × Nat) =>
    if vl ≤ e.1 then k.vput p.eew (p.reg e.2.1) e.1 (Config.freeWord n (e.1 * 8 + e.2.1)).toNat else k
  let k := if trim.isSome then p.accs.foldl spoil k else k
  let fields := fun (k : Tidy) (f : Nat) =>
    k.vwrite n p.cfg p.vm ⟨p.reg f, p.eew, p.emul8⟩ fun j => k.vget p.eew (p.reg f) j
  let k := (List.range p.nf).foldl fields k
  { k with vstart := 0, vl := if trim.isSome then BitVec.ofNat 32 vl else k.vl }

end Sys2Proof.Machine
end

