-- ==== Sys2Proof/Machine/TidyRows.lean ====
section
/-! DEFINITION. What the tidy cores reach (07 R244, R245): loads and stores, the core control region, semaphores
and the gang barrier (R251, R253), ECALL and EBREAK (R249, R264), the debug page (R269), and the owners of
cluster SRAM slices (R229). -/

namespace Sys2Proof.Machine

/-! ### Registers of a tidy core -/

/-- Integer registers 0 to 31, then F registers 32 to 63. -/
def Tidy.setReg (k : Tidy) (r : Nat) (v : Word) : Tidy := if r < 32 then k.setX r v else k.setF (r - 32) v

/-- A load ends: its register is written and the program counter goes on. -/
def State.tcLoaded (s : State) (c t r : Nat) (v : Word) : State := (s.updTidy c t fun k => k.setReg r v).tcNext c t

/-! ### Semaphores (07 R251) -/

def State.semWrite (s : State) (c t sem : Nat) (val : Word) : State :=
  (s.semAdd c sem (bitsOf val 0 16)).tcNext c t

/-- The condition of the tidy core's SEM_WAIT holds. -/
def State.semHolds (s : State) (c t : Nat) : Bool :=
  let k := (s.core c).tidy t
  (s.core c).semReached k.waitSem k.waitVal

/-- A read of SEM_WAIT: the semaphore's value, or a stall. -/
def State.semWaitRead (s : State) (c t r : Nat) : State :=
  if s.semHolds c t then
    s.tcLoaded c t r (((s.core c).sems.look 0 ((s.core c).tidy t).waitSem).zeroExtend 32)
  else s.updTidy c t fun k => { k with stall := .semWait r }

def execSemWrite (core : Fin 64) (tc : Fin 2) (sem : Fin 32) (val : Word) (s : State) : Next :=
  if s.tcRuns core tc then .next (s.semWrite core tc sem val) else .next s

def execSemWaitRead (core : Fin 64) (tc : Fin 2) (rd : Fin 32) (s : State) : Next :=
  if s.tcRuns core tc then .next (s.semWaitRead core tc rd) else .next s

def execSemWaitRelease (core : Fin 64) (tc : Fin 2) (s : State) : Next :=
  match ((s.core core).tidy tc).stall with
  | .semWait r =>
    if s.coreRuns core ∧ s.semHolds core tc then
      .next ((s.updTidy core tc fun k => { k with stall := .none }).semWaitRead core tc r)
    else .next s
  | _ => .next s

/-! ### The gang barrier (07 R253) -/

/-- A read of BARRIER: the number of the generation in which the core last arrived, once it has completed; of
a core that has not arrived in the RUN the manual gives no value. -/
def State.barrierRead (s : State) (c t r : Nat) : State :=
  match (s.core c).arrivedGen, s.gangOf c with
  | some n, some g =>
    if n < g.generation then s.tcLoaded c t r (BitVec.ofNat 32 n)
    else s.updTidy c t fun k => { k with stall := .barrier r }
  | _, _ => { s with free := s.free + 1 }.tcLoaded c t r (Config.freeWord s.free 0)

/-- The stalled BARRIER reads of a core return. -/
def State.barrierGo (s : State) (c : Nat) : State :=
  let one := fun (s : State) (t : Nat) =>
    match ((s.core c).tidy t).stall with
    | .barrier r => (s.updTidy c t fun k => { k with stall := .none }).barrierRead c t r
    | _ => s
  one (one s 0) 1

/-- A write to BARRIER. -/
def State.barrierArrive (s : State) (c t : Nat) : State :=
  match s.gangOf c with
  | none => s
  | some g =>
    if (s.core c).arrived then s.tcNext c t
    else
      let s := (s.updCore c fun k => { k with arrivedGen := some g.generation, arrived := true }).tcNext c t
      if g.arrivals + 1 < g.width then s.updGang g.uid fun g => { g with arrivals := g.arrivals + 1 }
      else
        let s := s.updGang g.uid fun g => { g with arrivals := 0, generation := g.generation + 1 }
        let s := g.cores.foldl (fun (s : State) d => s.updCore d fun k => { k with arrived := false }) s
        g.cores.foldl State.barrierGo s

def execBarrierArrive (core : Fin 64) (tc : Fin 2) (s : State) : Next :=
  if s.tcRuns core tc then .next (s.barrierArrive core tc) else .next s

def execBarrierRead (core : Fin 64) (tc : Fin 2) (rd : Fin 32) (s : State) : Next :=
  if s.tcRuns core tc then .next (s.barrierRead core tc rd) else .next s

/-! ### LIVE and NONFINITE (07 R226, R256) -/

def State.liveWrite (s : State) (c t : Nat) (val : Word) : State :=
  let m := bitsOf val 0 24
  ((s.updCore c fun k => { k with live := BitVec.ofNat 24 m }).setFld (ro .co c 0x48) 0 24 m).tcNext c t

def execLiveWrite (core : Fin 64) (tc : Fin 2) (val : Word) (s : State) : Next :=
  if s.tcRuns core tc then .next (s.liveWrite core tc val) else .next s

def State.nonfiniteClear (s : State) (c t : Nat) (val : Word) : State :=
  let one := fun (s : State) (m : Nat) =>
    if bitsOf val m 1 = 1 then s.updMe c m fun u => { u with nonfinite := false } else s
  ((List.range 4).foldl one s).tcNext c t

def execNonfiniteClear (core : Fin 64) (tc : Fin 2) (val : Word) (s : State) : Next :=
  if s.tcRuns core tc then .next (s.nonfiniteClear core tc val) else .next s

/-! ### The core control region (07 R245, 08 R273, 09 R313, 16 R534) -/

/-- The value of a register that does not stall. A register that only triggers an action reads as 0 (00 R5), and so
does an offset that no table lists (DESIGN CHOICE, log 37). -/
def State.ctlRead (s : State) (c t o : Nat) : Nat :=
  let k := s.core c
  let g := s.gangOf c
  let me := fun (m : Nat) => k.me.look MeUnit.reset m
  if o = 0x000 then k.idx
  else if o = 0x004 then ((g.map Gang.width).getD 0)
  else if o = 0x008 then ((g.map Gang.ctx).getD 0)
  else if o = 0x00C then t
  else if o = 0x010 then k.live.toNat
  else if o = 0x014 then (k.tidy t).clSel
  else if o = 0x018 then (k.tidy t).aperFrame
  else if 0x020 ≤ o ∧ o < 0x040 ∧ o % 8 = 0 then (me ((o - 0x020) / 8)).listAddr
  else if o = 0x040 then ((List.range 4).foldl (fun a m => a + (me m).lists.length * 16 ^ m) 0)
  else if o = 0x050 then (k.dm0.descs.length + 256 * k.dm1.descs.length)
  else if 0x080 ≤ o ∧ o < 0x100 then (k.sems.look 0 ((o - 0x080) / 4)).toNat
  else if o = 0x108 then ((List.range 4).foldl (fun a m => a + (if (me m).nonfinite then 2 ^ m else 0)) 0)
  else if o = 0x114 then k.wu.queue.length
  else if o = 0x11C then k.rs.queue.length
  else if o = 0x124 then k.coll.length
  else 0

/-- A load from the control region. -/
def State.ctlLoad (s : State) (c t o r : Nat) : State :=
  if o = 0x100 then s.semWaitRead c t r
  else if o = 0x104 then s.barrierRead c t r
  else s.tcLoaded c t r (BitVec.ofNat 32 (s.ctlRead c t o))

/-- A store to the control region; one to a register that is only read, or to an offset that no table lists, is
ignored (00 R5, log 37). -/
def State.ctlStore (s : State) (c t o : Nat) (val : Word) : State :=
  let put := fun (f : Tidy → Tidy) => (s.updTidy c t f).tcNext c t
  if o = 0x010 then s.liveWrite c t val
  else if o = 0x014 then put fun k => { k with clSel := bitsOf val 0 3 }
  else if o = 0x018 then put fun k => { k with aperFrame := bitsOf val 0 16 }
  else if 0x020 ≤ o ∧ o < 0x040 then
    let m := (o - 0x020) / 8
    if o % 8 = 0 then (s.updMe c m fun u => { u with listAddr := bitsOf val 5 16 * 32 }).tcNext c t
    else s.meLaunch c t m val
  else if o = 0x048 ∨ o = 0x04C then s.dmLaunch c t ((o - 0x048) / 4) val
  else if 0x080 ≤ o ∧ o < 0x100 then s.semWrite c t ((o - 0x080) / 4) val
  else if o = 0x100 then put fun k => { k with waitSem := bitsOf val 16 5, waitVal := BitVec.ofNat 16 (bitsOf val 0 16) }
  else if o = 0x104 then s.barrierArrive c t
  else if o = 0x108 then s.nonfiniteClear c t val
  else if o = 0x110 then s.wuLaunch c t val
  else if o = 0x118 then s.rsLaunch c t val
  else if o = 0x120 then s.collLaunch c t val
  else s.tcNext c t

/-! ### The address map (07 R244) -/

/-- How an access of a tidy core ends before any data moves. -/
inductive TcAcc where
  /-- Byte `a` of the two scratches, the own one first. -/
  | scratch (a : Nat)
  | place (l : Loc)
  | ctl (o : Nat)
  | args (o : Nat)
  | waits
  | fault (cause : Nat)
  deriving DecidableEq, Repr

def ofDev (d : DevAcc) : TcAcc :=
  match d with
  | .ok l => .place l
  | .denied => .fault 2
  | .waits => .waits

/-- An access of `n` bytes at `a`, a store or a load. -/
def State.tcAccess (s : State) (c t a n : Nat) (store : Bool) : TcAcc :=
  let k := (s.core c).tidy t
  let off := decide (a % n ≠ 0)
  if a < 0x20000 then (if a + n ≤ 0x20000 then .scratch a else .fault 2)
  else if 0x100000 ≤ a ∧ a < 0x280000 then (if off then .fault 3 else .place (.bay (kBay c (a - 0x100000))))
  else if 0x400000 ≤ a ∧ a < 0x1000000 then
    if off then .fault 3 else ofDev (s.sramAcc (s.coreCtx c) k.clSel (a - 0x400000) n)
  else if 0x1000000 ≤ a ∧ a < 0x1001000 then
    if n ≠ 4 then .fault 2 else if off then .fault 3 else .ctl (a - 0x1000000)
  else if 0x2000000 ≤ a ∧ a < 0x2010000 then
    let len := ((s.gangOf c).map fun g => g.args.length).getD 0
    if store ∨ len < a - 0x2000000 + n then .fault 2 else if off then .fault 3 else .args (a - 0x2000000)
  else if 0x80000000 ≤ a then
    if off then .fault 3
    else ofDev (s.devAcc (s.coreCtx c) (BitVec.ofNat 64 (k.aperFrame * 0x200000 + (a - 0x80000000))) n)
  else .fault 2

/-- Key of byte `a` of the two scratches. -/
def scratchKey (c t a : Nat) : Nat := kScratch c (if a < 0x10000 then t else 1 - t) (a % 0x10000)

/-- A byte of the RUN's ARGS block. -/
def State.argNat (s : State) (c o n : Nat) : Nat := leNat ((((s.gangOf c).map Gang.args).getD []).drop o |>.take n)

/-- The bytes of an access that names no register, as a number. -/
def State.tcBytes (s : State) (c t n : Nat) (acc : TcAcc) : Nat :=
  match acc with
  | .scratch a => leNat ((List.range n).map fun i => memGet s.mem (scratchKey c t (a + i)))
  | .place l => s.locNat l n
  | .args o => s.argNat c o n
  | _ => 0

/-- A load of `n` bytes at `a`; `fix` makes the register's value of them. -/
def State.tcLoad (s : State) (c t a n r : Nat) (fix : Nat → Word) : State :=
  let acc := s.tcAccess c t a n false
  match acc with
  | .fault cause => s.tcError c t cause
  | .waits => s
  | .ctl o => s.ctlLoad c t o r
  | .place l =>
    let s := s.locTouch l n
    match s.locPoison l n with
    | some line => s.corePoison c line
    | none => s.tcLoaded c t r (fix (s.tcBytes c t n acc))
  | _ => s.tcLoaded c t r (fix (s.tcBytes c t n acc))

/-- A store of `n` bytes. -/
def State.tcStore (s : State) (c t a n : Nat) (val : Word) : State :=
  match s.tcAccess c t a n true with
  | .fault cause => s.tcError c t cause
  | .waits => s
  | .ctl o => s.ctlStore c t o val
  | .place l => (s.locStore l (leBytes n val.toNat)).tcNext c t
  | .scratch a =>
    let put := fun (s : State) (i : Nat) => s.store (scratchKey c t (a + i)) (leBytes 1 (val.toNat / 256 ^ i))
    ((List.range n).foldl put s).tcPass c t (s.tcLen c t)
  | .args _ => s

/-- Sign or zero extension of a load (funct3). -/
def loadFix (f3 : Nat) (v : Nat) : Word :=
  match f3 with
  | 0 => BitVec.ofInt 32 (sInt 8 v)
  | 1 => BitVec.ofInt 32 (sInt 16 v)
  | _ => BitVec.ofNat 32 v

/-- A scalar load or store. -/
def State.tcMemory (s : State) (c t w : Nat) : State :=
  let k := (s.core c).tidy t
  let f3 := ib w 12 3
  let base := k.xr (ib w 15 5)
  let rd := ib w 7 5
  let la := (base + BitVec.ofInt 32 (immI w)).toNat
  let sa := (base + BitVec.ofInt 32 (immS w)).toNat
  match w % 128 with
  | 0x03 => s.tcLoad c t la (2 ^ (f3 % 4)) rd (loadFix f3)
  | 0x23 => s.tcStore c t sa (2 ^ f3) (k.xr (ib w 20 5))
  | 0x07 => s.tcLoad c t la 4 (32 + rd) (loadFix 2)
  | _ => s.tcStore c t sa 4 (k.fr (ib w 20 5))

/-- The access of the instruction at the program counter goes to the core bay. -/
def State.tcInBay (s : State) (c t w : Nat) : Bool :=
  let k := (s.core c).tidy t
  let imm := if isVector w then 0 else if w % 128 = 0x23 ∨ w % 128 = 0x27 then immS w else immI w
  let a := (k.xr (ib w 15 5) + BitVec.ofInt 32 imm).toNat
  decide (0x100000 ≤ a) && decide (a < 0x280000)

/-! ### The instruction at the program counter -/

/-- The instruction that an issuing tidy core meets, when it is of this kind. -/
def State.tcAt (s : State) (c t : Nat) (kind : RvKind) : Option (Nat × Nat) :=
  if s.tcRuns c t then (s.tcFetch c t).filter fun e => rvKind e.1 = kind else none

/-! ### Vector accesses (07 R242, R244) -/

/-- How an access of an element ends early: with a fault, waiting for a slice clear, or at poison. -/
inductive VStop where
  | fault (cause : Nat)
  | waits
  | poison (line : Nat)
  deriving DecidableEq, Repr

/-- An element's access: aligned in every space. The control region allows scalar accesses alone. -/
def State.vAccess (s : State) (c t a n : Nat) (store : Bool) : TcAcc :=
  match s.tcAccess c t a n store with
  | .scratch x => if a % n ≠ 0 then .fault 3 else .scratch x
  | .ctl _ => .fault 2
  | x => x

/-- Load elements in order into `k`, until one ends early: its index and how. -/
def State.vLoads (s : State) (c t : Nat) (p : VPlan) (k : Tidy) (l : List (Nat × Nat × Nat)) :
    State × Tidy × Option (Nat × VStop) :=
  match l with
  | [] => (s, k, none)
  | (i, f, a) :: r =>
    let n := p.eew / 8
    let acc := s.vAccess c t a n false
    match acc with
    | .fault cause => (s, k, some (i, .fault cause))
    | .waits => (s, k, some (i, .waits))
    | .place x =>
      let s := s.locTouch x n
      match s.locPoison x n with
      | some line => (s, k, some (i, .poison line))
      | none => s.vLoads c t p (k.vput p.eew (p.reg f) i (s.tcBytes c t n acc)) r
    | _ => s.vLoads c t p (k.vput p.eew (p.reg f) i (s.tcBytes c t n acc)) r

/-- Store elements in order. -/
def State.vStores (s : State) (c t : Nat) (p : VPlan) (k : Tidy) (l : List (Nat × Nat × Nat)) :
    State × Option (Nat × VStop) :=
  match l with
  | [] => (s, none)
  | (i, f, a) :: r =>
    let n := p.eew / 8
    let bs := leBytes n (k.vget p.eew (p.reg f) i)
    match s.vAccess c t a n true with
    | .fault cause => (s, some (i, .fault cause))
    | .waits => (s, some (i, .waits))
    | .place x => (s.locStore x bs).vStores c t p k r
    | .scratch x => (s.store (scratchKey c t x) bs).vStores c t p k r
    | _ => (s, some (i, .fault 2))

/-- A vector load or store. A fault-only-first load that faults behind element 0 ends with a shorter vl. -/
def State.vMemory (s : State) (c t : Nat) (p : VPlan) : State :=
  let k := (s.core c).tidy t
  if p.load then
    let (u, l, stop) := s.vLoads c t p k p.accs
    let done := fun (trim : Option Nat) =>
      ({ u with free := u.free + 1 }.updTidy c t fun _ => l.vloaded u.free p trim).tcPass c t 4
    match stop with
    | none => done none
    | some (i, .fault cause) => if p.ff ∧ 0 < i then done (some i) else u.tcError c t cause
    | some (_, .waits) => s
    | some (_, .poison line) => u.corePoison c line
  else
    let (u, stop) := s.vStores c t p k p.accs
    match stop with
    | none => (u.updTidy c t fun k => { k with vstart := 0 }).tcPass c t 4
    | some (_, .fault cause) => u.tcError c t cause
    | some (_, .waits) => s
    | some (_, .poison line) => u.corePoison c line

/-- 07 R244: the load or store at the program counter. -/
def execTcLoadStore (core : Fin 64) (tc : Fin 2) (ce : Option (Fin 24)) (s : State) : Next :=
  match s.tcAt core tc .memory with
  | some (w, _) =>
    let u := if s.tcInBay core tc w then s.bayCorrected core ce else s
    if isVector w then
      match ((s.core core).tidy tc).vplan w with
      | some p => .next (u.vMemory core tc p)
      | none => .next s
    else .next (u.tcMemory core tc w)
  | none => .next s

/-- 07 R249: ECALL with a7 = 0 ends the part; any other a7 is a program error. -/
def execTcEcall (core : Fin 64) (tc : Fin 2) (s : State) : Next :=
  match s.tcAt core tc .ecall with
  | some _ =>
    if ((s.core core).tidy tc).xr 17 = 0 then
      .next (s.updTidy core tc fun k => { k with ended := true, stepping := false })
    else .next (s.tcError core tc 5)
  | none => .next s

/-- A debugger is attached: one of the core's tidy cores is halted (07 R269). -/
def State.debugged (s : State) (c : Nat) : Bool := (s.core c).tc0.halted || (s.core c).tc1.halted

/-- 07 R264: EBREAK; with a debugger attached it halts. -/
def execTcEbreak (core : Fin 64) (tc : Fin 2) (s : State) : Next :=
  match s.tcAt core tc .ebreak with
  | some _ =>
    if s.debugged core then .next (s.updTidy core tc fun k => { k with halted := true, stepping := false })
    else .next (s.tcError core tc 4)
  | none => .next s

/-- 07 R264: an illegal instruction, or a fetch from outside the own scratch. -/
def execTcIllegalInstruction (core : Fin 64) (tc : Fin 2) (s : State) : Next :=
  if !s.tcRuns core tc then .next s
  else match s.tcFetch core tc with
    | none => .next (s.tcError core tc 2)
    | some (w, len) =>
      let k := (s.core core).tidy tc
      if rvKind w = .other ∧ (k.run s.free w len).isNone ∨ rvKind w = .memory ∧ isVector w ∧ (k.vplan w).isNone then
        .next (s.tcError core tc 1)
      else .next s

/-- One instruction that reaches no memory, as the passing of time brings it. -/
def State.tcStep (s : State) (c t : Nat) : State :=
  match s.tcAt c t .other with
  | some (w, len) =>
    match ((s.core c).tidy t).run s.free w len with
    | some k => { s with free := s.free + 1 }.updTidy c t fun _ => k.retire
    | none => s
  | none => s

/-- Every issuing tidy core executes one such instruction. -/
def State.tidyTick (s : State) : State :=
  (List.range 64).foldl (fun (s : State) c =>
    if (s.core c).gang.isSome then (s.tcStep c 0).tcStep c 1 else s) s

/-! ### The debug page (07 R269) -/

/-- A write of the debug page's CTL takes effect. DESIGN CHOICE (log 37): the manual gives halt, resume and step and no
layout; the model's has [1:0] for tidy core 0 and [3:2] for tidy core 1: 1 halts, 2 resumes, 3 steps. -/
def State.debugCtl (s : State) (c : Nat) (val : Word) : State :=
  [0, 1].foldl (fun (s : State) t =>
    if ((s.core c).tidy t).runs then
      match bitsOf val (2 * t) 2 with
      | 1 => s.updTidy c t fun k => { k with halted := true, stepping := false }
      | 2 => s.updTidy c t fun k => { k with halted := false, stepping := false }
      | 3 => s.updTidy c t fun k => { k with stepping := k.halted }
      | _ => s
    else s) s

/-! ### Owners of cluster SRAM slices (07 R229) -/

def ownReg (c slice : Nat) : Nat := ro .cl c (0x800 + slice / 4 * 4)

/-- A write of CLn.SRAM_OWN[slice]: a change starts a clear. -/
def State.sramOwn (s : State) (c slice : Nat) (val : Byte) : State :=
  let others := s.sliceClears.filter fun k => !(k.cl == c && k.slice == slice)
  if s.clearing c slice then { s with sliceClears := others ++ [⟨c, slice, val⟩] }
  else if s.sliceOwner c slice = val.toNat then s
  else { s with sliceClears := others ++ [⟨c, slice, val⟩] }

/-- The owner that a slice has or is to get. -/
def State.ownerToBe (s : State) (c slice : Nat) : Nat :=
  match s.sliceClears.find? fun k => k.cl == c && k.slice == slice with
  | some k => k.owner.toNat
  | none => s.sliceOwner c slice

/-- 07 R229: the slice is zero; the new owner takes effect. The owner is a context: the event has it in CTX (18 R649). -/
def execSliceCleared (cluster : Fin 8) (slice : Fin 12) (s : State) : Next :=
  match s.sliceClears.find? fun k => k.cl == cluster.val && k.slice == slice.val with
  | none => .next s
  | some k =>
    let s := { s with sliceClears := s.sliceClears.filter fun x => x != k }
    let a := slice.val * 0x100000
    let s := s.clearKeys (kSram cluster a) (kSram cluster (a + 0x100000))
    let s := s.setFld (ownReg cluster slice) (slice.val % 4 * 8) 8 k.owner.toNat
    .next (s.raise (dieSrc cluster 0x10) (if cluster.val < 4 then 0x0253 else 0x0353) [.w slice] k.owner.toNat)

end Sys2Proof.Machine
end

