-- ==== Sys2Proof/Machine/RegWords.lean ====
section
/-! DEFINITION. What a written word of BAR0 does when the write takes effect (02 R64): the registers of the page
headers (02 R59 to R63, R70 to R74), the block-specific ones with the rules of their chapters, and 64-bit pairs
(02 R67 to R69). -/

namespace Sys2Proof.Machine

/-- Offset of the word at `a` in the BAR0 of the sender (02 R48). -/
def State.barOff (s : State) (snd : Sender) (a : Nat) : Nat :=
  match snd with
  | .pcie f =>
    if f.val = 0 then a
    else
      let l := (List.range 256).filter fun n => s.ctxFunc n == f.val
      (l.idxOf (a / 0x1000 - 0x200) + 1) * 0x1000 + a % 0x1000
  | .i3c => a

/-- A page-access event for the word at `a`. -/
def State.wordEvent (s : State) (snd : Sender) (code a : Nat) : State :=
  s.accessEvent code 0 (s.barOff snd a) (senderFunc snd)

/-- The bits of a word that a write stores. -/
def storedMask (a : Nat) : Word := maskWhere (fun f => f.acc = .rw || f.acc = .rws) a

/-- Store the RW and RWS fields of a word; a shadowed register takes it into its shadow (02 R70). -/
def State.storeRw (s : State) (a : Nat) (v : Word) : State :=
  let m := storedMask a
  s.wr a ((s.rd a &&& ~~~m) ||| (v &&& m))

/-! ### Shadows (02 R70 to R72) -/

/-- BAR0 offsets of the shadowed words of a page. -/
def shadowsOf (p : PageId) : List Nat :=
  let offs := ((fieldsOf p.blk p.inst).filter fun f => f.shadowed).flatMap fun f =>
    (List.range f.cnt).map fun i => ro p.blk p.inst (f.off + i * f.stride)
  offs.foldl (fun (l : List Nat) a => if l.contains a then l else l ++ [a]) []

/-- The pending snapshot becomes active. A change of SBOX.ADM_CFG is evaluated (05 R185, R187). -/
def State.installPage (s : State) (p : PageId) : State :=
  let due := (s.page (slotOf p.blk p.inst)).pendingCommit
  let s := s.installShadow p.blk p.inst
  if due ∧ p.blk = .sbox then s.evalWanted 5 else s

/-- DISCARD: the shadows take the active values. -/
def State.discard (s : State) (p : PageId) : State :=
  (shadowsOf p).foldl (fun (s : State) a =>
    let m := shadowMask a
    s.wr a ((s.rd a &&& ~~~m) ||| (s.act a &&& m))) s

/-- COMMIT: a snapshot of every shadow, installed at once when the block is idle or EN = 0. -/
def State.commit (s : State) (snd : Sender) (p : PageId) : State :=
  if p.blk = .klr then s.installConsist
  else
    let k := slotOf p.blk p.inst
    let h := s.page k
    let s := if h.pendingCommit then s.wordEvent snd 0x0187 (ro p.blk p.inst 0x38) else s
    let snap := (shadowsOf p).map fun a => (a, s.rd a)
    let s := s.setPage k { s.page k with pendingCommit := true, snapshot := snap }
    if s.hasWork p.blk p.inst ∧ h.en then s else s.installPage p

/-- A write of PG_COMMIT; both bits act as DISCARD and then as COMMIT (02 R72). -/
def State.commitWrite (s : State) (snd : Sender) (p : PageId) (v : Word) : State :=
  if !shadowedPage p.blk then s
  else
    let s := if bitsOf v 3 1 = 1 then s.discard p else s
    if bitsOf v 0 1 = 1 then s.commit snd p else s

/-! ### PG_CTL (02 R59, R61, 04 R150 to R154) -/

/-- What setting EN starts: a Karlund port begins to train (16 R527), encoders take pictures that wait, the
silence timer of a camera port starts again (13 R469). -/
def State.enableWork (s : State) (p : PageId) : State :=
  match p.blk with
  | .kl =>
    if s.klSt p.inst = kDisabled ∧ ¬ s.boot.klDisabled.contains p.inst then
      s.setFld (klA p.inst 0x40) 0 3 kTraining
    else s
  | .enc => s.encStartAll
  | .csi => s.setPort p.inst { s.port p.inst with lastSot := s.now }
  | _ => s

/-- EN set: the block accepts new work, once a cancellation in progress has completed (04 R154). -/
def State.enSet (s : State) (p : PageId) : State :=
  let k := slotOf p.blk p.inst
  let h := s.page k
  let s := s.setPage k { h with en := true, quiescent := h.quiescent && decide (h.stopping = .disabling) }
  if h.stopping = .no ∧ (!h.en ∨ p.blk = .kl) then s.enableWork p else s

/-- EN cleared (04 R151). -/
def State.enClear (s : State) (p : PageId) : State :=
  let k := slotOf p.blk p.inst
  let h := s.page k
  if h.en then s.setPage k { h with en := false, stopping := .disabling } else s

/-- DRAIN (04 R152); EN = 0 prevails over it (R154). -/
def State.drain (s : State) (p : PageId) : State :=
  let k := slotOf p.blk p.inst
  let h := s.page k
  if h.en ∧ h.stopping = .no then s.setPage k { h with stopping := .draining } else s

/-- ABORT (04 R153); it prevails over a drain (R154). -/
def State.abortBlock (s : State) (p : PageId) : State :=
  let k := slotOf p.blk p.inst
  let s := s.cancelBlock p.blk p.inst .aborted
  let h := s.page k
  s.setPage k { h with stopping := if h.stopping = .draining then .no else h.stopping }

/-- SRST: ABORT, then a block reset starts; later writes are held (02 R61, R66). A context page's abort is that
of its context, which raises PG_EPOCH by its 1; a fence that waits for a FREE context ends EPOCH_STALE when the
epoch moves (04 R143). -/
def State.startReset (s : State) (p : PageId) : State :=
  let k := slotOf p.blk p.inst
  let used := decide (p.blk = .ctx) && decide (s.ctxState p.inst ≠ stFree)
  let s := if used then s.abortCtx p.inst true else if p.blk = .ctx then s else s.cancelBlock p.blk p.inst .aborted
  let h := s.page k
  let s := s.setPage k { h with resetting := true, quiescent := false, stopping := .no,
                                epoch := if used then h.epoch else h.epoch + 1,
                                held := h.held ++ h.fifo, fifo := [] }
  if p.blk = .ctx then s.staleFences p.inst else s

/-- A write of PG_CTL (04 R154). A locked page keeps FREEZE (02 R74). -/
def State.ctlWrite (s : State) (snd : Sender) (p : PageId) (v : Word) : State :=
  let k := slotOf p.blk p.inst
  let fz := bitsOf v 3 1 == 1
  let h := s.page k
  let s := if h.locked then (if fz = h.freeze then s else s.wordEvent snd 0x1183 (k * 0x1000 + 8))
           else s.setPage k { h with freeze := fz }
  if bitsOf v 4 1 = 1 then s.startReset p
  else
    let ab := bitsOf v 2 1 == 1
    let s := if ab then s.abortBlock p else s
    let s := if bitsOf v 0 1 = 0 then s.enClear p else if ab ∧ (s.page k).en then s else s.enSet p
    if bitsOf v 1 1 = 1 ∧ !ab then s.drain p else s

/-! ### The other header words -/

/-- PG_OWNER (02 R73, R74, R651): from the PF alone. -/
def State.ownerWrite (s : State) (snd : Sender) (p : PageId) (v : Word) : State :=
  if senderFunc snd ≠ 0 then s
  else
    let k := slotOf p.blk p.inst
    let h := s.page k
    let lock := bitsOf v 8 1 == 1
    let new : Byte := BitVec.ofNat 8 (bitsOf v 0 8)
    if h.locked ∧ lock then
      if new = h.ownerCtx then s else s.wordEvent snd 0x1183 (k * 0x1000 + 0x24)
    else s.setPage k { h with ownerCtx := if ownable p.blk then new else h.ownerCtx, locked := lock }

/-- PG_PERTURB and PG_PERTURB_SEED (02 R60, 19 R622). -/
def State.perturbWrite (s : State) (p : PageId) (seed : Bool) (v : Word) : State :=
  if !s.unlocked ∨ !perturbable p.blk p.inst then s
  else
    let k := slotOf p.blk p.inst
    let h := s.page k
    if seed then s.setPage k { h with seed := v }
    else (s.setPage k { h with perturb := BitVec.ofNat 16 v.toNat }).countPerturbed

/-- A word of the page header; other offsets are read-only. -/
def State.headerWrite (s : State) (snd : Sender) (p : PageId) (o : Nat) (v : Word) : State :=
  let k := slotOf p.blk p.inst
  let h := s.page k
  match o with
  | 0x08 => s.ctlWrite snd p v
  | 0x10 => s.setPageEv k { h with evRaw := h.evRaw &&& ~~~v }
  | 0x14 => s.setPageEv k { h with evEn := v }
  | 0x1C => s.setPageEv k { h with evRaw := h.evRaw ||| v }
  | 0x24 => s.ownerWrite snd p v
  | 0x28 => s.perturbWrite p false v
  | 0x2C => s.perturbWrite p true v
  | 0x38 => s.commitWrite snd p v
  | _ => s

/-! ### Which writes are ignored -/

/-- Ring and admission registers of a context page (04 R126, 05 R156). -/
def isRingReg (o : Nat) : Bool := (decide (0x4C ≤ o) && decide (o < 0xB0)) || (decide (0x100 ≤ o) && decide (o < 0x120))

/-- Configuration words that the scanner port takes only in IDLE and FAULT (14, "Registers"). -/
def isScanCfg (b : Blk) (o : Nat) : Bool :=
  (b = .scn && (o == 0x40 || o == 0x44 || o == 0x48 || o == 0x4C || o == 0x64 || decide (0x800 ≤ o))) ||
  (b = .mot && decide (0x40 ≤ o) && decide (o < 0x50))

/-- A block-specific word whose write the device ignores now, with what it logs. -/
def State.ignores (s : State) (snd : Sender) (p : PageId) (o : Nat) : Option State :=
  let a := ro p.blk p.inst o
  if s.lockedAt a then some (s.wordEvent snd 0x1183 a)
  else match p.blk with
    | .ctx =>
      if isRingReg o ∧ s.ctxState p.inst ≠ stFree then some (s.raise (ctxSrc p.inst) 0x11A4 [] p.inst) else none
    | .scn | .mot =>
      if isScanCfg p.blk o ∧ s.scanState ≠ sIdle ∧ s.scanState ≠ sFault then some s else none
    | .yard =>
      if o = 0x44 ∧ s.yard.created then some s
      else if 0x800 ≤ o ∧ (o - 0x800) % 32 < 16 ∧ s.poolSt ((o - 0x800) / 32) = 2 then some s else none
    | .swap =>
      if (o = 0x40 ∨ o = 0x44 ∨ o = 0x48) ∧ !s.yard.swap.isEmpty then some (s.raise 0x1112 0x11E7 []) else none
    | .coll =>
      if 0x800 ≤ o ∧ s.kl.ops.any (fun c => c.group == (o - 0x800) / 16) then some s else none
    | _ => none

/-! ### The management pages -/

/-- A word of a management page. BTN_CFG.DISABLE = 1 puts the button logic into IDLE (03 R107), and the manual does not say
what becomes of MGMT.STATUS.BTN_MASKED then; DESIGN CHOICE: it stays as it is (log 20). -/
def State.mgmtWord (s : State) (snd : Sender) (b : Blk) (o : Nat) (v : Word) : State :=
  let a := ro b 0 o
  let plain := s.storeRw a v
  match b, o with
  | .mgmt, 0x48 => if bitsOf v 16 16 = 0xB007 then s.rstCmd (bitsOf v 0 3) else s
  | .mgmt, 0x4C => s.writeUnlock (bitsOf v 0 16) (senderFunc snd)
  | .gts, 0x50 => if bitsOf v 0 1 = 0 then plain.syncFree else plain
  | .evr, 0x48 => s.snapTake v
  | .evr, 0x54 =>
    let s := s.storeRw a (withBits v 0 10 (min 1000 (bitsOf v 0 10)))
    if bitsOf v 16 1 = 0 then s.setMirror mirOff
    else if s.mirror = mirOff then s.setMirror (if s.bit stA 14 then mirReadOnly else mirActive) else s
  | .evr, 0x70 => s.mread v
  | .pwr, 0x44 => s.writePwrCfg v
  | .pwr, 0x68 => if snd = .i3c ∧ bitsOf v 3 1 = 1 then plain.wakeP4 2 else plain
  | .pwr, _ => s.storeRw a (clampPwr o v)
  | .therm, 0x40 => s.storeRw a (clampTherm v)
  | .rst, 0x44 => if bitsOf v 0 1 = 1 then plain.setBtn 0 else plain
  | .test, 0x44 => s.writeInj v
  | _, _ => plain

/-! ### Control pages -/

/-- HOST.CTX_FUNC (02 R47): a context that is not FREE keeps its function, and no VF gets more than 63. -/
def State.assignCtx (s : State) (n fn : Nat) : State :=
  let have' := ((List.range 256).filter fun m => m != n && s.ctxFunc m == fn).length
  if s.ctxFunc n = fn ∨ s.ctxState n ≠ stFree ∨ (fn ≠ 0 ∧ 63 ≤ have') then s
  else s.setFld (ro .host 0 (0x800 + n / 4 * 4)) (n % 4 * 8) 4 fn

/-- A word of HOST.CTX_FUNC carries four contexts, taken in ascending order. -/
def State.ctxFuncWord (s : State) (w : Nat) (v : Word) : State :=
  (List.range 4).foldl (fun (s : State) i => s.assignCtx (w * 4 + i) (bitsOf v (8 * i) 4)) s

def State.hostWord (s : State) (o : Nat) (v : Word) : State :=
  let a := ro .host 0 o
  if o = 0x58 then s.storeRw a (BitVec.ofNat 32 (min 4096 (bitsOf v 0 13)))
  else if 0x800 ≤ o ∧ o < 0x900 then s.ctxFuncWord ((o - 0x800) / 4) v
  else s.storeRw a v

/-- SBOX with its clamps (05 R189). A new limit of reservations is evaluated with cause 7 (R185, R187); clearing
REPLAY_SAVE clears REPLAY_OFF (R184). -/
def State.sboxWord (s : State) (o : Nat) (v : Word) : State :=
  let a := ro .sbox 0 o
  if o = 0x40 then s.storeRw a (BitVec.ofNat 32 (clampNat 10 10000 (bitsOf v 0 14)))
  else if o = 0x48 then
    s.storeRw a (withBits (withBits v 0 11 (clampNat 200 1500 (bitsOf v 0 11))) 12 7 (clampNat 1 100 (bitsOf v 12 7)))
  else if o = 0x4C then (s.storeRw a v).evalWanted 7
  else if 0x800 ≤ o ∧ bitsOf v 0 1 = 0 then
    let n := (o - 0x800) / 4
    ((s.storeRw a v).setFld (cr n 0x120) 23 1 0).setCtx n { s.ctx n with noRoomLogged := false }
  else s.storeRw a v

def State.ctxWord (s : State) (n o : Nat) (v : Word) : State :=
  if o = 0x44 then s.ctxCmd n (bitsOf v 0 3)
  else if o = 0x48 then
    (s.storeRw (cr n o) v).setCtx n { s.ctx n with tolWrittenAt := some s.gts }
  else s.storeRw (cr n o) v

/-- The Yard's pages (10 R342, R366, R377 to R379). -/
def State.yardWord (s : State) (b : Blk) (o : Nat) (v : Word) : State :=
  let a := ro b 0 o
  match b, o with
  | .yard, 0x54 => if 1 ≤ bitsOf v 8 3 ∧ bitsOf v 8 3 ≤ 4 then s.poolCmd (bitsOf v 0 6) (bitsOf v 8 3) else s
  | .pfx, 0x40 => s.storeRw a (BitVec.ofNat 32 (clampNat 1 32768 (bitsOf v 0 16)))
  | .pfx, 0x60 => s.pfxFlush v
  | .swap, _ => (s.storeRw a v).countSwap
  | _, _ => s.storeRw a v

/-! ### Cameras, scanner, cores, groups -/

/-- 13 R466 to R468, R470: the PHY configuration locks at its first write, CCI_CMD starts a transfer, with DET_EN the
level of CAMn_DET counts. -/
def State.csiWord (s : State) (n o : Nat) (v : Word) : State :=
  let a := ro .csi n o
  if o = 0x40 then
    if s.rwl.contains a then s else { s.wr a (v &&& maskWhere (fun f => f.acc = .rwl) a) with rwl := s.rwl ++ [a] }
  else if o = 0x64 then
    match bitsOf v 10 2 with
    | 1 => s.cciStart n (s.cciSingle n v false)
    | 2 => s.cciStart n (s.cciSingle n v true)
    | 3 => s.cciStart n (s.cciEntry n (bitsOf v 16 8) (bitsOf v 24 8) (bitsOf v 12 1 == 1))
    | _ => s
  else if o = 0x48 then (if bitsOf v 0 1 = 1 then (s.storeRw a v).camDet n else s.storeRw a v)
  else s.storeRw a v

/-- The shading entry at SHD_ADDR, which each access increments (14 R500). -/
def State.shadeWrite (s : State) (v : Word) : State :=
  let i := s.fld (afe 0x88) 0 16
  let s := if i < 61440 then s.withScan fun c =>
      { c with dark := c.dark.put i (bitsOf v 0 16), gain := c.gain.put i (bitsOf v 16 16) } else s
  s.addFld (afe 0x88) 0 16 1

/-- 14 R491, R499 to R501. -/
def State.scanWord (s : State) (b : Blk) (o : Nat) (v : Word) : State :=
  let a := ro b 0 o
  match b, o with
  | .scn, 0x60 => s.scanFaultClr v
  | .afe, 0x78 => s.calStart v
  | .afe, 0x8C => s.shadeWrite v
  | .mot, 0x40 => s.storeRw a (withBits v 8 7 (clampNat 8 64 (bitsOf v 8 7)))
  | _, _ => s.storeRw a v

/-- A word of CLn.SRAM_OWN carries four slices (07 R229). -/
def State.clusterWord (s : State) (n o : Nat) (v : Word) : State :=
  if 0x800 ≤ o ∧ o < 0x80C then
    (List.range 4).foldl (fun (s : State) i =>
      s.sramOwn n ((o - 0x800) + i) (BitVec.ofNat 8 (bitsOf v (8 * i) 8))) s
  else s.storeRw (ro .cl n o) v

/-! ### One word, one pair -/

/-- A block-specific word that is not ignored. -/
def State.blockWord (s : State) (snd : Sender) (p : PageId) (o : Nat) (v : Word) : State :=
  match p.blk with
  | .mgmt | .gts | .evr | .pwr | .therm | .rst | .cal | .test | .fuse => s.mgmtWord snd p.blk o v
  | .host => s.hostWord o v
  | .sbox => s.sboxWord o v
  | .ctx => s.ctxWord p.inst o v
  | .yard | .pfx | .swap => s.yardWord p.blk o v
  | .csi => s.csiWord p.inst o v
  | .scn | .afe | .mot => s.scanWord p.blk o v
  | .cl => s.clusterWord p.inst o v
  | .dbg => if o = 0x40 then s.debugCtl p.inst v else s.storeRw (ro .dbg p.inst o) v
  | _ => s.storeRw (ro p.blk p.inst o) v

/-- Both halves of a pair at once (02 R69). -/
def State.pairWrite (s : State) (snd : Sender) (p : PageId) (o : Nat) (lo hi : Word) : State :=
  match s.ignores snd p o with
  | some t => t
  | none =>
    if p.blk = .gts ∧ o = 0x48 then s.setGts lo hi
    else (s.blockWord snd p o lo).blockWord snd p (o + 4) hi

/-- The low half waits in the function's write latch (02 R69). -/
def State.latchLow (s : State) (snd : Sender) (p : PageId) (v : Word) : State :=
  let k := slotOf p.blk p.inst
  let h := s.page k
  s.setPage k { h with writeLatch := h.writeLatch.put (senderFunc snd) v }

/-- A write of the word at page offset `o` takes effect; `low` is the low half of an 8-byte write whose high half is
the word. -/
def State.wordEffect (s : State) (snd : Sender) (p : PageId) (o : Nat) (low : Option Word) (v : Word) : State :=
  if o < 0x40 then s.headerWrite snd p o v
  else if isPairLow p.blk o then
    match s.ignores snd p o with
    | some t => t
    | none => s.latchLow snd p v
  else if 4 ≤ o ∧ isPairLow p.blk (o - 4) then
    let lo := low.getD ((s.page (slotOf p.blk p.inst)).writeLatch.look 0 (senderFunc snd))
    s.pairWrite snd p (o - 4) lo v
  else match s.ignores snd p o with
    | some t => t
    | none => s.blockWord snd p o v

end Sys2Proof.Machine
end

