-- ==== Sys2Proof/Machine/Flags.lean ====
section
/-! DEFINITION. What a read of a register word returns: the status bits of the page header (02 R59) and the
read-only fields that are computed from the state rather than stored; every other word is the bank's. -/

namespace Sys2Proof.Machine

def b2n (b : Bool) : Nat := if b then 1 else 0

/-- PG_CAP (02 R59): the block-defined bits are not given. -/
def capWord (p : PageId) : Nat :=
  b2n (ownable p.blk) * 2 ^ 31 + b2n (shadowedPage p.blk) * 2 ^ 30 + b2n (perturbable p.blk p.inst) * 2 ^ 29 +
  (Config.capBlock (blockType p.blk)).toNat

/-- PG_STAT (02 R59, R64, 01 R17, R18, R35). -/
def State.statWord (s : State) (p : PageId) : Nat :=
  let h := s.page (slotOf p.blk p.inst)
  b2n (h.resetting || s.hasWork p.blk p.inst) + b2n h.quiescent * 2 + b2n h.fault * 4 +
  b2n (!h.fifo.isEmpty || !h.held.isEmpty) * 8 + b2n (s.domainGated (domainOf p.blk p.inst)) * 16 +
  domainOf p.blk p.inst * 2 ^ 8 + islandOf p.blk p.inst * 2 ^ 16

/-- PG_COMMIT.DIRTY: a shadow differs from its active value. -/
def State.dirty (s : State) (p : PageId) : Bool :=
  (shadowsOf p).any fun a => (s.rd a ^^^ s.act a) &&& shadowMask a != 0

/-- A word of the page header. -/
def State.headerWord (s : State) (p : PageId) (o : Nat) : Nat :=
  let h := s.page (slotOf p.blk p.inst)
  match o with
  | 0x00 => blockType p.blk * 2 ^ 20 + p.inst * 2 ^ 8 + 2
  | 0x04 => capWord p
  | 0x08 => b2n h.en + b2n h.freeze * 8
  | 0x0C => s.statWord p
  | 0x10 => h.evRaw.toNat
  | 0x14 => h.evEn.toNat
  | 0x18 => h.pend.toNat
  | 0x20 => h.epoch.toNat
  | 0x24 => h.ownerCtx.toNat + b2n h.locked * 2 ^ 8
  | 0x28 => h.perturb.toNat
  | 0x2C => h.seed.toNat
  | 0x30 => h.evGts % 2 ^ 32
  | 0x34 => h.evGts / 2 ^ 32
  | 0x38 => b2n h.pendingCommit * 2 + b2n (s.dirty p) * 4 + h.commitCount.toNat * 2 ^ 16
  | 0x3C => srcOf p.blk p.inst
  | _ => 0

/-- HOST.EV_SUMMARY (04 R129). -/
def State.evSummary (s : State) : Nat :=
  let areas := (s.pages.filter fun e => e.2.pend != 0).filterMap fun e =>
    (pageAt e.1).map fun p => srcOf p.blk p.inst / 0x1000
  (List.range 16).foldl (fun w a => w + b2n (areas.contains a) * 2 ^ a) 0

/-- YARD.FRAME_INFO of the frame selected (10 R377). -/
def State.frameInfo (s : State) : Nat :=
  let f := s.fld (yardA 0x64) 0 17
  let st := s.frameSt f
  (s.framePool f).getD 0 + b2n (s.framePool f).isSome * 2 ^ 8 + b2n (decide (st = .yardArea)) * 2 ^ 9 +
  b2n (decide (st = .retired)) * 2 ^ 10 + b2n (s.yard.retiring.contains f) * 2 ^ 11 +
  b2n (decide (24576 ≤ f)) * 2 ^ 12 + f / 12288 % 4 * 2 ^ 13

/-- CO.STAT with the bits of the units at work (07 R268). -/
def State.coreStat (s : State) (c : Nat) : Nat :=
  let k := s.core c
  let me := (List.range 4).foldl (fun w m => w + b2n (!(k.me.look MeUnit.reset m).lists.isEmpty) * 2 ^ m) 0
  let runs := fun (t : Tidy) => t.runs && !t.ended
  (s.rd (ro .co c 0x40)).toNat % 2 ^ 16 + me * 2 ^ 16 +
  b2n (!k.dm0.descs.isEmpty || !k.dm1.descs.isEmpty) * 2 ^ 20 + b2n (runs k.tc0) * 2 ^ 21 +
  b2n (runs k.tc1) * 2 ^ 22 + bitsOf (s.rd (ro .co c 0x40)) 23 2 * 2 ^ 23

/-- CO.WU_STAT (08 R305). -/
def State.wuStat (s : State) (c : Nat) : Nat :=
  let w := (s.core c).wu
  let op := (w.queue.head?.map fun l => (s.bayByte (kBay c l.addr)).toNat % 8).getD 0
  (if w.started then op + 8 else 0) + w.queue.length * 2 ^ 4 + min w.items 65535 * 2 ^ 16

/-- CO.RS_STAT (09 R336). -/
def State.rsStat (s : State) (c : Nat) : Nat :=
  let r := (s.core c).rs
  let op := (r.queue.head?.map fun l => (s.bayByte (kBay c l.addr)).toNat % 4).getD 0
  (if r.started then op + 4 else 0) + r.queue.length * 2 ^ 3 + b2n r.waitPage.isSome * 2 ^ 6 + min r.items 65535 * 2 ^ 16

/-- DEC.STAT (12 R444). How far a picture has come that no tap writes is timing: ROW is then any row from the last one
known. -/
def State.decStat (s : State) (n : Nat) : Nat :=
  let w := s.rd (ro .dec n 0x40)
  match s.media.decs.findSome? fun e => e.2.pic.filter fun p => p.core == n with
  | none => w.toNat
  | some p =>
    let rows := (p.info.h + max 1 p.info.ctu - 1) / max 1 p.info.ctu
    let row := bitsOf w 16 16
    let ahead := if p.taps.any PicTap.writes then 0 else (Config.freeWord s.free n).toNat % max 1 (rows - row)
    (withBits w 16 16 (min (rows - 1) (row + ahead))).toNat

/-- Words whose contents the manual does not lay out, or that count cycles without a stated reset value: the debug page
(07 R269), NOC.STAT and STALL, CO.ME_STALL. Their values are free. -/
def untracked (b : Blk) (o : Nat) : Bool :=
  match b with
  | .dbg => decide (0x40 ≤ o)
  | .noc => o == 0x40 || o == 0x44
  | .co => o == 0x54
  | _ => false

/-- A block-specific word. The manual is silent on an offset of a populated page that no table lists; DESIGN CHOICE: it
reads 0 and ignores writes, but for the debug page, whose words from 0x40 on read free values (log 11, 37). -/
def State.blockRead (s : State) (p : PageId) (o : Nat) : Nat :=
  let a := ro p.blk p.inst o
  match p.blk, o with
  | .gts, 0x40 => s.gts % 2 ^ 32
  | .gts, 0x44 => s.gts / 2 ^ 32
  | .evr, 0x58 =>
    (withBits (s.rd a) 8 8 (min 255 (s.evr.intake.filter fun e => decide (evClass e.2.code.toNat ≤ 2)).length)).toNat
  | .rst, 0x40 =>
    (withBits (s.rd a) 16 16 (if s.btnState ≠ 0 ∧ s.bit a 2 then min 65535 (s.holdTime / 100000000) else 0)).toNat
  | .host, 0x48 => s.evSummary
  | .pwr, 0x50 => (withBits (s.rd a) 12 3 s.p4Block).toNat
  | .pwr, 0x5C => min s.idleEst 0xFFFFFFFF
  | .sbox, 0x50 => (s.sumReservations.rd a).toNat
  | .sbox, 0x58 => (s.countCores.rd a).toNat
  | .sbox, 0x64 => (s.countBroken.rd a).toNat
  | .yard, 0x68 => s.frameInfo
  | .smp, 0x40 => (withBits (s.rd a) 4 4 s.smpWaits).toNat
  | .co, 0x40 => s.coreStat p.inst
  | .co, 0x68 => s.wuStat p.inst
  | .co, 0x6C => s.rsStat p.inst
  | .dec, 0x40 => s.decStat p.inst
  | .afe, 0x8C =>
    let i := s.fld (afe 0x88) 0 16
    s.scan.dark.look 0 i + s.scan.gain.look 4096 i * 2 ^ 16
  | b, _ => if untracked b o then (Config.freeWord s.free a).toNat else (s.rd a).toNat

/-- A word of a page. -/
def State.readWord (s : State) (p : PageId) (o : Nat) : Word :=
  BitVec.ofNat 32 (if o < 0x40 then s.headerWord p o else s.blockRead p o)

end Sys2Proof.Machine
end

