-- ==== Sys2Proof/Machine/RegOps.lean ====
section
/-! DEFINITION. Accesses to BAR0 and BAR4 (02 R41 to R75): posted writes and their order, refused accesses, pairs,
the controls of a page and what ends them, shadows, ownership, and the window onto HBM. -/

namespace Sys2Proof.Machine

/-! ### Where an access lands -/

/-- Where an access to BAR0 lands: a word of a page, the record window (18 R591), the read-only function page of a
VF (02 R48), no place it can reach, or the refusal of 02 R650 by the event it logs. -/
inductive Reach where
  | word (a : Nat)
  | window (a : Nat)
  | funcPage (o : Nat)
  | outside
  | refused (code : Nat)
  deriving DecidableEq, Repr

def State.reachPf (s : State) (off width : Nat) (write : Bool) : Reach :=
  match s.refusedBy off width write with
  | some c => .refused c
  | none => if isRecordWindow (off / 0x1000) then .window off else .word off

/-- 02 R48, R650. -/
def State.reach (s : State) (snd : Sender) (off width : Nat) (write : Bool) : Reach :=
  match snd with
  | .i3c => if off < 0x100000 then s.reachPf off width write else .outside
  | .pcie f =>
    if f.val = 0 then s.reachPf off width write
    else if !widthOk off width then .refused 0x2188
    else if !s.ready then .refused 0x0184
    else if off < 0x1000 then (if width = 8 ∧ off ≠ 0x30 then .refused 0x2188 else .funcPage off)
    else match s.bar0Of snd off with
      | some a => s.reachPf a width write
      | none => .refused 0x2182

/-- The word of the record window at BAR0 offset `a`: the recorder's SRAM (18 R591); a slot never written reads 0. -/
def State.windowWord (s : State) (a : Nat) : Nat :=
  match s.evr.slots.look? ((a - 0x40000) / 64) with
  | some r => leNat ((r.bytes.drop (a % 64 / 4 * 4)).take 4)
  | none => 0

/-- A word of a VF's function page (02 R48): PG_ID, and the list of its contexts, whose layout the manual does not
give. -/
def State.funcWord (s : State) (fn o : Nat) : Nat :=
  if o = 0 then 0x010 * 2 ^ 20 + fn * 2 ^ 8 + 2
  else (Config.funcPage fn o ((List.range 256).filter fun n => s.ctxFunc n == fn)).toNat

/-! ### Posted writes (02 R64 to R66) -/

/-- A write waits behind a block reset that runs. -/
def State.hold (s : State) (slot : Nat) (w : PostedWrite) : State :=
  s.setPage slot { s.page slot with held := (s.page slot).held ++ [w] }

def State.applyWrite (s : State) (slot : Nat) (w : PostedWrite) : State :=
  match pageAt slot with
  | some p => s.wordEffect w.sender p w.off w.low w.val
  | none => s

/-- The oldest posted write of a page takes effect. -/
def State.takeWrite (s : State) (slot : Nat) : State :=
  match (s.page slot).fifo with
  | [] => s
  | w :: rest => (s.setPage slot { s.page slot with fifo := rest }).applyWrite slot w

/-- Every posted write of a page takes effect, in order. -/
def State.flushPage (s : State) (slot : Nat) : State :=
  (s.page slot).fifo.foldl (fun (s : State) _ => s.takeWrite slot) s

/-- A write that takes effect behind every earlier write of its page (02 R64). -/
def State.ordered (s : State) (a : Nat) (w : PostedWrite) : State :=
  let slot := a / 0x1000
  let s := s.flushPage slot
  if (s.page slot).resetting then s.hold slot w else s.applyWrite slot w

/-- A write that a command of its own makes: refused, ignored, or taking effect in order. -/
def State.hostWrite (s : State) (snd : Sender) (off : Nat) (low : Option Word) (v : Word) : State :=
  let width := if low.isSome then 8 else 4
  let base := if low.isSome then off - 4 else off
  match s.reach snd base width true with
  | .refused c => s.refuse snd base width true c
  | .word a =>
    let a := if low.isSome then a + 4 else a
    s.ordered a ⟨snd, a % 0x1000, low, v⟩
  | _ => s

/-- The write of a register of the PF's map that has a command of its own, from the PF or over I3C. A VF reaches no
such page (02 R48): its write is not this one. -/
def State.ownWrite (s : State) (snd : Sender) (off : Nat) (v : Word) (low : Option Word := none) : State :=
  if senderFunc snd = 0 ∨ snd = .i3c then s.hostWrite snd off low v else s

/-- The same from the PF. -/
def State.pfWrite (s : State) (off : Nat) (v : Word) : State := s.hostWrite (.pcie 0) off none v

/-- 02 R64: the write enters the page's crossing FIFO. -/
def execRegisterWrite (snd : Sender) (off : Fin 33554432) (val : Word) (s : State) : Next :=
  match s.reach snd off 4 true with
  | .refused c => .next (s.refuse snd off 4 true c)
  | .word a =>
    let slot := a / 0x1000
    let w : PostedWrite := ⟨snd, a % 0x1000, none, val⟩
    let h := s.page slot
    .next (if h.resetting then s.hold slot w else s.setPage slot { h with fifo := h.fifo ++ [w] })
  | _ => .next s

/-- 02 R64: the oldest write of a page takes effect. -/
def execWriteTakesEffect (slot : Fin 8192) (s : State) : Next := .next (s.takeWrite slot)

/-! ### Doorbells (02 R46, R53, 04 R122, R124, R128, 03 R87) -/

/-- Offset of register `o` of context `n`'s doorbell page in the function's BAR2 (02 R46, R48); none where the
function does not reach it. -/
def State.bar2Off (s : State) (fn n o : Nat) : Option Nat :=
  if fn = 0 then some (n * 0x1000 + o)
  else if s.ctxFunc n = fn then
    some ((((List.range 256).filter fun m => s.ctxFunc m == fn).idxOf n + 1) * 0x1000 + o)
  else none

/-- The function's earlier writes to context pages take effect before its doorbell (02 R53). -/
def State.flushContexts (s : State) (fn : Nat) : State :=
  let mine := s.pages.filter fun e =>
    (pageAt e.1).any (fun p => p.blk = .ctx) && e.2.fifo.any fun w => senderFunc w.sender == fn
  mine.foldl (fun (s : State) (e : Nat × Page) => s.flushPage e.1) s

/-- An earlier write of the function to a context page waits for a block reset (02 R66). -/
def State.holdsWrites (s : State) (fn : Nat) : Bool :=
  s.pages.any fun e => (pageAt e.1).any (fun p => p.blk = .ctx) && e.2.held.any fun w => senderFunc w.sender == fn

/-- 04 R122. -/
def State.announce (s : State) (n q : Nat) (val : Word) : State :=
  let st := s.ctxState n
  if st = stFree ∨ st = stQuiescing then s
  else if s.fld (cr n 0x4C) 0 2 < q ∨ 2 ^ s.sqSize n q < (val - s.sqHead n q).toNat then
    s.raise (ctxSrc n) 0x21A2 [] n
  else s.setCtx n { s.ctx n with tails := (s.ctx n).tails.put q val }

/-- What waited for space in the context's completion ring goes on: encoders, the scan job, sample runs. -/
def State.spaceReturned (s : State) (n : Nat) : State :=
  let s := s.encStartAll
  let s := if (s.jobOf n).isSome then s.scanRecords 40 else s
  (s.smp.runs.filter fun r => r.desc.ctx == n).foldl (fun (s : State) r => s.smpRelease r.desc.uid r.steps) s

/-- 04 R124, R125: CQ_HEAD frees ring space, and what was held is written. -/
def State.consumed (s : State) (n : Nat) (val : Word) : State :=
  let s := s.wr (cr n 0xC0) val
  let c := s.ctx n
  (s.drainHeld n (c.held.length + c.atSource.length + 2)).spaceReturned n

/-- A doorbell write takes effect; other offsets of the page are ignored (04 R128). -/
def State.ring (s : State) (b : Bell) : State :=
  if b.off = 0x10 then s.consumed b.ctx b.val
  else if b.off < 0x10 ∧ b.off % 4 = 0 then s.announce b.ctx (b.off / 4) b.val
  else s

/-- A doorbell behind the earlier writes of its function (02 R53): it waits while one of them does. -/
def State.ringInOrder (s : State) (b : Bell) : State :=
  if s.holdsWrites b.fn ∨ s.host.bells.any fun x => x.fn == b.fn then
    { s with host := { s.host with bells := s.host.bells ++ [b] } }
  else s.ring b

/-- The doorbells that wait are tried again. -/
def State.ringWaiting (s : State) : State :=
  s.host.bells.foldl State.ringInOrder { s with host := { s.host with bells := [] } }

/-- A doorbell write that reaches a doorbell page (03 R87). -/
def State.doorbell (s : State) (b : Bell) : State :=
  if s.pst = 4 then s
  else match s.bar2Off b.fn b.ctx b.off with
    | none => s
    | some off => if s.ready then (s.flushContexts b.fn).ringInOrder b else s.accessEvent 0x0184 2 off b.fn

/-! ### Reads (02 R58, R67, R68) -/

/-- The read of a word once every earlier write of its page has taken effect. The low word of a pair loads the high
half into the function's latch, the high word returns the latch, an 8-byte read returns both halves and leaves the
latch. A read of AFE.SHD_DATA moves SHD_ADDR on (14 R500). -/
def State.readHere (s : State) (snd : Sender) (slot : Nat) (p : PageId) (o : Nat) (wide : Bool) : State :=
  let lo := (s.readWord p o).toNat
  let hi := s.readWord p (o + 4)
  let h := s.page slot
  if wide then s.answer (lo + hi.toNat * 2 ^ 32)
  else if isPairLow p.blk o then
    (s.answer lo).setPage slot { h with readLatch := h.readLatch.put (senderFunc snd) hi }
  else if 4 ≤ o ∧ isPairLow p.blk (o - 4) then s.answer (h.readLatch.look 0 (senderFunc snd)).toNat
  else if p.blk = .afe ∧ o = 0x8C then (s.answer lo).addFld (afe 0x88) 0 16 1
  else s.answer lo

/-- A host read. Behind writes that a block reset holds it waits with them (02 R58, R66). -/
def State.hostRead (s : State) (snd : Sender) (off : Nat) (wide : Bool) : State :=
  let width := if wide then 8 else 4
  match s.reach snd off width false with
  | .refused c => s.refuse snd off width false c
  | .window a => s.answer (s.windowWord a + if wide then s.windowWord (a + 4) * 2 ^ 32 else 0)
  | .funcPage o =>
    s.answer (s.funcWord (senderFunc snd) o + if wide then s.funcWord (senderFunc snd) (o + 4) * 2 ^ 32 else 0)
  | .outside => s
  | .word a =>
    let slot := a / 0x1000
    match pageAt slot with
    | none => s
    | some p =>
      let h := s.page slot
      if h.resetting ∧ ¬ h.held.isEmpty then s.setPage slot { h with heldReads := h.heldReads ++ [⟨snd, off, wide⟩] }
      else (s.flushPage slot).readHere snd slot p (a % 0x1000) wide

/-- 02 R650: an access to BAR0 that one of its rules answers; any other access is not this command's. On a doorbell
page a read returns 0 and a write to an offset without a doorbell is ignored (04 R128); before READY its writes are
dropped and logged (03 R87). -/
def execRefusedAccess (snd : Sender) (off : BarOff) (width : Nat) (write : Bool) (s : State) : Next :=
  match off with
  | .bar2 o =>
    .next (if !write then s.answer 0
      else if s.ready ∨ s.pst = 4 then s else s.accessEvent 0x0184 2 o (senderFunc snd))
  | .bar0 o =>
    match s.reach snd o width write with
    | .refused c => .next (s.refuse snd o width write c)
    | _ => .next s

/-! ### Pairs (02 R67 to R69) -/

/-- The word lies at a pair's low word (`d` = 0) or high word (`d` = 4). -/
def State.inPair (s : State) (snd : Sender) (off d : Nat) : Bool :=
  match s.bar0Of snd off with
  | some a => decide (d ≤ a % 0x1000) && (pageAt (a / 0x1000)).any fun p => isPairLow p.blk (a % 0x1000 - d)
  | none => true

/-- 02 R68. The table has no row for the read of another word; this command makes it as well. -/
def execPairLowRead (snd : Sender) (off : Fin 33554432) (wide : Bool) (s : State) : Next :=
  .next (s.hostRead snd off wide)

def execPairLowWrite (snd : Sender) (off : Fin 33554432) (val : Word) (s : State) : Next :=
  .next (if s.inPair snd off 0 then s.hostWrite snd off none val else s)

/-- `off` is the offset of the high word; `low` is given by an 8-byte write. -/
def execPairHighWrite (snd : Sender) (off : Fin 33554432) (low : Option Word) (val : Word) (s : State) : Next :=
  .next (if s.inPair snd off 4 then s.hostWrite snd off low val else s)

/-- 02 R59, R62: PG_GTS_LO. -/
def execPgGtsLoRead (snd : Sender) (slot : Fin 8192) (s : State) : Next :=
  .next (s.hostRead snd (slot * 0x1000 + 0x30) false)

/-! ### PG_CTL -/

/-- A write of PG_CTL that leaves the fields EN and FREEZE as they are, but for `en` and `fz`, and sets the action
bits `act`. -/
def State.ctlRow (s : State) (snd : Sender) (slot act : Nat) (en fz : Option Bool) : State :=
  match s.bar0Of snd (slot * 0x1000) with
  | some a =>
    let t := s.flushPage (a / 0x1000)
    let h := t.page (a / 0x1000)
    s.hostWrite snd (slot * 0x1000 + 8) none
      (BitVec.ofNat 32 (b2n (en.getD h.en) + b2n (fz.getD h.freeze) * 8 + act))
  | none => s.hostWrite snd (slot * 0x1000 + 8) none 0

def execPgCtlEnSet (snd : Sender) (slot : Fin 8192) (s : State) : Next :=
  .next (s.ctlRow snd slot 0 (some true) none)
def execPgCtlEnClear (snd : Sender) (slot : Fin 8192) (s : State) : Next :=
  .next (s.ctlRow snd slot 0 (some false) none)
def execPgCtlDrain (snd : Sender) (slot : Fin 8192) (s : State) : Next := .next (s.ctlRow snd slot 2 none none)
def execPgCtlAbort (snd : Sender) (slot : Fin 8192) (s : State) : Next := .next (s.ctlRow snd slot 4 none none)
def execPgCtlFreeze (snd : Sender) (slot : Fin 8192) (on : Bool) (s : State) : Next :=
  .next (s.ctlRow snd slot 0 none (some on))
def execPgCtlSrst (snd : Sender) (slot : Fin 8192) (s : State) : Next := .next (s.ctlRow snd slot 16 none none)

/-- 04 R151, R154: at its atom boundary a disabled block cancels what it holds and becomes QUIESCENT, unless EN was
set again. -/
def execBlockQuiesced (slot : Fin 8192) (s : State) : Next :=
  match pageAt slot with
  | none => .next s
  | some p =>
    if (s.page slot).stopping ≠ .disabling then .next s
    else
      let s := s.cancelBlock p.blk p.inst .cancelled
      let h := s.page slot
      let s := s.setPage slot { h with stopping := .no, quiescent := !h.en }
      .next (if h.en then s.enableWork p else s)

/-- 04 R152: the draining block has completed its last descriptor. -/
def execDrainDone (slot : Fin 8192) (s : State) : Next :=
  match pageAt slot with
  | none => .next s
  | some p =>
    let h := s.page slot
    if h.stopping ≠ .draining ∨ s.hasWork p.blk p.inst then .next s
    else
      let s := s.setPage slot { h with en := false, stopping := .no, quiescent := true }
      .next (if p.blk = .kl then s.disablePort p.inst else s)

/-! ### Block reset (02 R61) -/

/-- Bits of read-only fields that show state which the reset of their block leaves (00 R5: they reflect hardware state):
the standing of the package, of admissions, pools, slots, lanes, membership and streams. Counters and results do not
stand among them: they reset with the block. -/
def showsState (b : Blk) (o : Nat) : Word :=
  let w := fun (l : List Nat) => if l.contains o then (0xFFFFFFFF : Word) else 0
  match b with
  | .mgmt => w [0x40, 0x44]
  | .evr => if o = 0x58 then 3 else w [0x40, 0x44, 0x5C, 0x68, 0x78, 0x7C]
  | .pwr => w [0x50, 0x54, 0x60, 0x64]
  | .therm | .rst | .cal => 0xFFFFFFFF
  | .test => w [0x40]
  | .host => w [0x5C, 0x60]
  | .sbox => if o = 0x64 then 0xFFFF else w [0x50, 0x54, 0x58, 0x5C, 0x60]
  | .yard => if o = 0x60 then 1 else if 0x800 ≤ o then 0xFFFFFFFF else w [0x4C, 0x50]
  | .pfx => w [0x44, 0x64]
  | .swap => if 0x800 ≤ o then 0xFFFFFFFF else w [0x4C, 0x64, 0x68]
  | .ctx => w [0x9C]
  | .cl => w [0x40, 0x44, 0x48]
  | .cpl => w [0x40, 0x50]
  | .rhs => w [0x40, 0x44]
  | .co | .ttb => w [0x40]
  | .csi => if o = 0x44 then 0x10 else 0
  | .klr => if 0x900 ≤ o then 0xFFFFFFFF else w [0x40, 0x58]
  | _ => 0

/-- The bits of a word that a block reset leaves. -/
def resetKeeps (p : PageId) (o : Nat) : Word :=
  let a := ro p.blk p.inst o
  let inputs : Word := if p.blk = .scn ∧ o = 0x50 then 0x1F8 else 0
  maskWhere (fun f => f.acc = .rwl || f.acc = .rws) a ||| (maskWhere (fun f => f.acc = .ro) a &&& showsState p.blk o) |||
    inputs

/-- The block-specific registers take their Reset column. -/
def State.resetRegs (s : State) (p : PageId) : State :=
  let slot := slotOf p.blk p.inst
  let one := fun (e : Nat × Word) =>
    if e.1 / 0x1000 = slot then
      let m := resetKeeps p (e.1 % 0x1000)
      (e.1, (e.2 &&& m) ||| (resetWord e.1 &&& ~~~m))
    else e
  { s with regs := s.regs.map one, active := s.active.filter fun e => e.1 / 0x1000 != slot }

/-- What goes with the registers of some blocks. -/
def State.afterReset (s : State) (p : PageId) : State :=
  match p.blk with
  | .sbox => s.evalWanted 5
  | .swap => s.countSwap
  | .gts => s.syncFree
  | .evr => s.withEvr fun e => { e with searching := none }
  | .scn => s.withScan fun c => { c with ring := [], haltNext := false }
  | .afe => s.withScan fun c => { c with dark := [], gain := [], cal := none }
  | .csi => s.setPort p.inst { s.port p.inst with cci := none }
  | .klr => s.recomputeRoutes
  | .test => { s with test := { s.test with inj := none } }
  | _ => s

/-- 02 R61, R66. -/
def execBlockResetDone (slot : Fin 8192) (s : State) : Next :=
  match pageAt slot with
  | none => .next s
  | some p =>
    let h := s.page slot
    if !h.resetting then .next s
    else
      let z := Page.reset false
      let s := (s.resetRegs p).setPage slot
        { z with evEn := h.evEn, epoch := h.epoch, ownerCtx := h.ownerCtx, perturb := h.perturb, seed := h.seed,
                 evGts := h.evGts, fifo := h.held }
      let s := s.afterReset p
      let s := h.heldReads.foldl (fun (s : State) r => s.hostRead r.sender r.off r.wide) s
      .next (if p.blk = .ctx then (if s.host.bells.isEmpty then s else (s.flushPage slot).ringWaiting) else s)

/-! ### Events, shadows, owners -/

/-- 02 R62: a bit of `hw` is set by hardware in the same cycle, and ends set. -/
def execPgEvRawClear (snd : Sender) (slot : Fin 8192) (mask hw : Word) (s : State) : Next :=
  .next (s.hostWrite snd (slot * 0x1000 + 0x10) none (mask &&& ~~~hw))

def execPgEvForceWrite (snd : Sender) (slot : Fin 8192) (val : Word) (s : State) : Next :=
  .next (s.hostWrite snd (slot * 0x1000 + 0x1C) none val)

/-- 02 R71, R72; with `both` the write also sets DISCARD. -/
def execPgCommitCommit (snd : Sender) (slot : Fin 8192) (both : Bool) (s : State) : Next :=
  .next (s.hostWrite snd (slot * 0x1000 + 0x38) none (if both then 9 else 1))

def execPgCommitDiscard (snd : Sender) (slot : Fin 8192) (s : State) : Next :=
  .next (s.hostWrite snd (slot * 0x1000 + 0x38) none 8)

/-- 02 R71: an atom boundary of the block. -/
def execShadowInstall (slot : Fin 8192) (s : State) : Next :=
  match pageAt slot with
  | some p => if (s.page slot).resetting then .next s else .next (s.installPage p)
  | none => .next s

def execPgOwnerWrite (snd : Sender) (slot : Fin 8192) (val : Word) (s : State) : Next :=
  .next (s.hostWrite snd (slot * 0x1000 + 0x24) none val)

/-- 02 R47: word `word` of HOST.CTX_FUNC. -/
def execCtxFuncWrite (snd : Sender) (word : Fin 64) (val : Word) (s : State) : Next :=
  match snd with
  | .pcie f => if f.val = 0 then .next (s.hostWrite snd (ro .host 0 (0x800 + word * 4)) none val) else .next s
  | .i3c => .next s

/-! ### BAR4 (02 R50 to R52) -/

/-- HBM byte that offset `off` of a function's BAR4 addresses. -/
def State.bar4Byte (s : State) (fn off : Nat) : Nat :=
  ((s.rd64 (ro .host 0 (if fn = 0 then 0x40 else 0xA00 + fn * 8))).toNat + off) % 2 ^ 64

/-- The access is in HBM, and for a VF in frames of its pools. -/
def State.bar4Ok (s : State) (fn b n : Nat) : Bool :=
  decide (b + n ≤ hbmBytes) && (fn == 0 || s.framesGiven fn b n)

/-- A refused BAR4 access: a read returns all-ones. -/
def State.bar4Refuse (s : State) (fn off len : Nat) (code : Option Nat) : State :=
  let s := { s with host := { s.host with bar4Data := List.replicate len 0xFF, bar4Poisoned := false } }
  match code with
  | some c => s.accessEvent c 4 off fn
  | none => s

/-- Bytes of a function's BAR4 (02 R41, R48). -/
def State.bar4Size (s : State) (fn : Nat) : Nat := 2 ^ (if fn = 0 then s.host.bar4Log else s.host.vfBar4Log)

/-- 02 R50 to R52, 03 R87, 18 R604: a write of `data`, or a read of `len` bytes. No access arrives in P4, and none
beyond the BAR's size. -/
def execBar4Access (fn : Fin 16) (off : Fin 137438953472) (len : Nat) (data : Option (List Byte)) (s : State) : Next :=
  let n := (data.map List.length).getD len
  let b := s.bar4Byte fn off
  let got := if data.isSome then 0 else n
  if n = 0 ∨ s.pst = 4 ∨ s.bar4Size fn < off + n then .next s
  else if !s.ready then .next (s.bar4Refuse fn off got (some 0x0184))
  else if !s.bar4Ok fn b n then
    .next (s.bar4Refuse fn off got
      (if fn.val ≠ 0 then some 0x2186 else if data.isSome then some 0x2182 else none))
  else match data with
    | some bs => .next (s.store (kHbm b) bs)
    | none =>
      let s := s.touch (kHbm b) n
      .next { s with host := { s.host with
        bar4Data := s.load (kHbm b) n, bar4Poisoned := poisonedIn s.poison (kHbm b) n } }

end Sys2Proof.Machine
end

