-- ==== Sys2Proof/Machine/Doorbells.lean ====
section
/-! DEFINITION. Doorbells (02 R46, R53, 04 R122, R124, R128). -/

namespace Sys2Proof.Machine

/-- 04 R122. -/
def execSqTailWrite (fn : Fin 16) (ctx : Fin 256) (sq : Fin 4) (val : Word) (s : State) : Next :=
  .next (s.doorbell ⟨fn, ctx, sq * 4, val⟩)

/-- 04 R124, R125. -/
def execCqHeadWrite (fn : Fin 16) (ctx : Fin 256) (val : Word) (s : State) : Next :=
  .next (s.doorbell ⟨fn, ctx, 0x10, val⟩)

end Sys2Proof.Machine
end

