-- ==== Sys2Proof/Machine/OwnRows.lean ====
section
/-! DEFINITION. Writes of registers that have a command of their own. Each is a posted write like any other (02 R64): it
takes effect behind the earlier writes of its page, and waits with them while a block reset runs (02 R66); what it
does then is `State.wordEffect`. The pages are the PF's, but for the management group, which the I3C target reaches too. -/

namespace Sys2Proof.Machine

def rstCmdA : Nat := ro .mgmt 0 0x48

/-! ### Reset commands (03 R111) and test access (19 R620, R621) -/

def execRstCmdWarm (snd : Sender) (s : State) : Next := .next (s.ownWrite snd rstCmdA 0xB0070001)
def execRstCmdSoft (snd : Sender) (s : State) : Next := .next (s.ownWrite snd rstCmdA 0xB0070002)
def execRstCmdRecovery (snd : Sender) (s : State) : Next := .next (s.ownWrite snd rstCmdA 0xB0070003)
def execRstCmdPackage (snd : Sender) (s : State) : Next := .next (s.ownWrite snd rstCmdA 0xB0070004)

/-- 19 R620: a write of 0x7E57. -/
def execTestUnlockOpen (snd : Sender) (s : State) : Next := .next (s.ownWrite snd unlockA 0x7E57)

/-- 19 R620: a write of 0x5AFE. -/
def execTestUnlockConfirm (snd : Sender) (s : State) : Next := .next (s.ownWrite snd unlockA 0x5AFE)

/-- 19 R621: a write of 0x0000. -/
def execTestLock (snd : Sender) (s : State) : Next := .next (s.ownWrite snd unlockA 0)

/-- A write of INJ_CMD that carries KIND `k`. -/
def State.injWrite (s : State) (snd : Sender) (k : Nat) (val : Word) : State :=
  if bitsOf val 0 4 = k then s.ownWrite snd (tstA 0x44) val else s

/-- 19 R625, kind 1. -/
def execInjResidue (snd : Sender) (val : Word) (s : State) : Next := .next (s.injWrite snd 1 val)

/-- 19 R625, kind 2. -/
def execInjEccCe (snd : Sender) (val : Word) (s : State) : Next := .next (s.injWrite snd 2 val)

/-- 19 R625, kind 3. -/
def execInjEccUe (snd : Sender) (val : Word) (s : State) : Next := .next (s.injWrite snd 3 val)

/-- 19 R625, kind 4. -/
def execInjCplLane (snd : Sender) (val : Word) (s : State) : Next := .next (s.injWrite snd 4 val)

/-- 19 R625, kind 5. -/
def execInjKlCrc (snd : Sender) (val : Word) (s : State) : Next := .next (s.injWrite snd 5 val)

/-! ### Time, the recorder and power -/

/-- 18 R584: GTS.SET. A 4-byte write takes the low half from the sender's write latch (02 R69). -/
def execGtsSet (snd : Sender) (low : Option Word) (hi : Word) (s : State) : Next :=
  .next (s.ownWrite snd (gtsA 0x4C) hi low)

/-- 18 R595: EVR.SNAP. -/
def execEvrSnapTake (snd : Sender) (val : Word) (s : State) : Next := .next (s.ownWrite snd (evrA 0x48) val)

/-- 18 R601: EVR.MREAD_SEQ. -/
def execMread (snd : Sender) (val : Word) (s : State) : Next := .next (s.ownWrite snd (evrA 0x70) val)

/-- 17 R565: PWR.CFG, which holds MAX_STATE. -/
def execMaxStateWrite (snd : Sender) (val : Word) (s : State) : Next := .next (s.ownWrite snd (pwrA 0x44) val)

/-- 17 R568: PWR.CTL over I3C, which holds WAKE. -/
def execP4WakeI3c (val : Word) (s : State) : Next := .next (s.ownWrite .i3c (pwrA 0x68) val)

/-! ### Contexts, pools, prefixes, members (04 R114, 10 R342, R362, 16 R543) -/

def execCtxCmdOpen (ctx : Fin 256) (s : State) : Next := .next (s.pfWrite (cr ctx 0x44) 1)
def execCtxCmdClose (ctx : Fin 256) (s : State) : Next := .next (s.pfWrite (cr ctx 0x44) 2)
def execCtxCmdReset (ctx : Fin 256) (s : State) : Next := .next (s.pfWrite (cr ctx 0x44) 3)

/-- A write of YARD.POOL_CMD. -/
def State.poolWrite (s : State) (pool op : Nat) : State := s.pfWrite (yardA 0x54) (BitVec.ofNat 32 (pool + op * 256))

def execPoolAssign (pool : Fin 64) (s : State) : Next := .next (s.poolWrite pool 1)
def execPoolRelease (pool : Fin 64) (s : State) : Next := .next (s.poolWrite pool 2)
def execPoolCreate (pool : Fin 64) (s : State) : Next := .next (s.poolWrite pool 3)
def execPoolDestroy (pool : Fin 64) (s : State) : Next := .next (s.poolWrite pool 4)

def execPfxFlush (val : Word) (s : State) : Next := .next (s.pfWrite (pfxA 0x60) val)

/-- 16 R543: a KLR commit. -/
def execConsistInstall (val : Word) (s : State) : Next := .next (s.pfWrite (klrA 0x38) val)

/-! ### Cores and clusters (07 R229, R269) -/

/-- A write of the debug page's CTL that commands one tidy core. -/
def State.debugWrite (s : State) (c t op : Nat) : State := s.pfWrite (ro .dbg c 0x40) (BitVec.ofNat 32 (op * 4 ^ t))

def execDbgHalt (core : Fin 64) (tc : Fin 2) (s : State) : Next := .next (s.debugWrite core tc 1)
def execDbgResume (core : Fin 64) (tc : Fin 2) (s : State) : Next := .next (s.debugWrite core tc 2)
def execDbgStep (core : Fin 64) (tc : Fin 2) (s : State) : Next := .next (s.debugWrite core tc 3)

/-- 07 R229: a write of the word of CLn.SRAM_OWN that holds the slice, which gives the word's other slices the owners
that they have or are to get. -/
def execSramOwnWrite (cluster : Fin 8) (slice : Fin 12) (val : Byte) (s : State) : Next :=
  let s := s.flushPage (ownReg cluster slice / 0x1000)
  let w := (List.range 4).foldl (fun (w : Word) i =>
    let n := slice.val / 4 * 4 + i
    withBits w (8 * i) 8 (if n = slice.val then val.toNat else s.ownerToBe cluster n)) 0
  .next (s.pfWrite (ownReg cluster slice) w)

/-! ### Cameras and the scanner (13 R446, R466, R467, 14 R480, R491) -/

/-- 13 R446: the first write fixes the PHY option until the next package reset. -/
def execCsiPhyCfgWrite (port : Fin 8) (val : Word) (s : State) : Next := .next (s.pfWrite (ro .csi port 0x40) val)

/-- A write of CCI_CMD with this OP. -/
def State.cciWrite (s : State) (port op : Nat) (val : Word) : State :=
  if bitsOf val 10 2 = op then s.pfWrite (ro .csi port 0x64) val else s

/-- 13 R466: OP 1. -/
def execCciWrite (port : Fin 8) (val : Word) (s : State) : Next := .next (s.cciWrite port 1 val)

/-- 13 R466: OP 2. -/
def execCciRead (port : Fin 8) (val : Word) (s : State) : Next := .next (s.cciWrite port 2 val)

/-- 13 R467: OP 3, at once or at the next frame end. -/
def execCciSeq (port : Fin 8) (val : Word) (s : State) : Next := .next (s.cciWrite port 3 val)

/-- 14 R491: SCN.CTL, which holds FAULT_CLR. -/
def execFaultClr (val : Word) (s : State) : Next := .next (s.pfWrite (scn 0x60) val)

/-- A write of AFE.CAL_CMD with this OP (14 R480). -/
def State.calWrite (s : State) (op : Nat) (val : Word) : State :=
  if bitsOf val 0 2 = op then s.pfWrite (afe 0x78) val else s

def execAfeCalDark (val : Word) (s : State) : Next := .next (s.calWrite 1 val)
def execAfeCalWhite (val : Word) (s : State) : Next := .next (s.calWrite 2 val)
def execAfeCalOffset (val : Word) (s : State) : Next := .next (s.calWrite 3 val)

end Sys2Proof.Machine
end

