-- ==== Sys2Proof/Machine/Standby.lean ====
section
/-! DEFINITION. Entering and leaving P4 (17 R566 to R569). -/

namespace Sys2Proof.Machine

/-- 17 R567: the entry into P4 completes: READY and PCIE_UP are cleared, the PCIe endpoint and islands 1 to 15
are off, and the GTS PLL stops (01 R40). -/
def execP4Entry (s : State) : Next :=
  if s.entering ∧ s.pTarget = 4 then
    let s := ((s.setPst 4).setTransit false).withPwr fun p => { p with entering := none }
    let s := s.addSat (pwrA 0x8C) 0 32 1
    let s := s.raise 0x0003 0x0030 [.w 4, .w (s.rd (pwrA 0x54)).toNat, .w (min s.idleEst 0xFFFFFFFF)]
    let s := (s.setReady false).resetEndpoint
    .next { s.withBoot fun b => { b with serdesDone := false } with sync := { s.sync with pll := false } }
  else .next s

/-- 17 R569: phase 6 of the exit from P4 ends: the package is in P0 and READY. Contexts keep their states and ring
registers. -/
def execP4ExitDone (s : State) : Next :=
  match s.pwr.leaving with
  | none => .next s
  | some x =>
    if x.left ≠ 4 ∨ !s.inPhase 6 then .next s
    else
      let s := s.phaseEnds 6 6
      let s := ((s.setPst 0).setTransit false).withPwr fun p => { p with leaving := none }
      .next ((s.raise 0x0003 0x0031 [.w 4, .w x.cause, .w ((s.now - x.since) / 1000)]).setsReady.countCores)

end Sys2Proof.Machine
end

