-- ==== Sys2Proof/Machine/Dispatch.lean ====
section
/-! DEFINITION. What each command does: one arm for each constructor of `Instr`. -/

namespace Sys2Proof.Machine

def exec (i : Instr) (s : State) : Host.Outcome State Fault Refusal :=
  match i with
  | .registerWrite snd off val => Sys2Proof.Machine.execRegisterWrite snd off val s
  | .writeTakesEffect slot => Sys2Proof.Machine.execWriteTakesEffect slot s
  | .refusedAccess snd off width write => Sys2Proof.Machine.execRefusedAccess snd off width write s
  | .pairLowRead snd off wide => Sys2Proof.Machine.execPairLowRead snd off wide s
  | .pairLowWrite snd off val => Sys2Proof.Machine.execPairLowWrite snd off val s
  | .pairHighWrite snd off low val => Sys2Proof.Machine.execPairHighWrite snd off low val s
  | .pgGtsLoRead snd slot => Sys2Proof.Machine.execPgGtsLoRead snd slot s
  | .pgCtlEnSet snd slot => Sys2Proof.Machine.execPgCtlEnSet snd slot s
  | .pgCtlEnClear snd slot => Sys2Proof.Machine.execPgCtlEnClear snd slot s
  | .pgCtlDrain snd slot => Sys2Proof.Machine.execPgCtlDrain snd slot s
  | .pgCtlAbort snd slot => Sys2Proof.Machine.execPgCtlAbort snd slot s
  | .pgCtlFreeze snd slot on => Sys2Proof.Machine.execPgCtlFreeze snd slot on s
  | .pgCtlSrst snd slot => Sys2Proof.Machine.execPgCtlSrst snd slot s
  | .blockQuiesced slot => Sys2Proof.Machine.execBlockQuiesced slot s
  | .drainDone slot => Sys2Proof.Machine.execDrainDone slot s
  | .blockResetDone slot => Sys2Proof.Machine.execBlockResetDone slot s
  | .pgEvRawClear snd slot mask hw => Sys2Proof.Machine.execPgEvRawClear snd slot mask hw s
  | .pgEvForceWrite snd slot val => Sys2Proof.Machine.execPgEvForceWrite snd slot val s
  | .pgCommitCommit snd slot both => Sys2Proof.Machine.execPgCommitCommit snd slot both s
  | .pgCommitDiscard snd slot => Sys2Proof.Machine.execPgCommitDiscard snd slot s
  | .shadowInstall slot => Sys2Proof.Machine.execShadowInstall slot s
  | .pgOwnerWrite snd slot val => Sys2Proof.Machine.execPgOwnerWrite snd slot val s
  | .ctxFuncWrite snd word val => Sys2Proof.Machine.execCtxFuncWrite snd word val s
  | .bar4Access fn off len data => Sys2Proof.Machine.execBar4Access fn off len data s
  | .pgAonAssert gpio => Sys2Proof.Machine.execPgAonAssert gpio s
  | .aonLeavesReset => Sys2Proof.Machine.execAonLeavesReset s
  | .powerGoodAssert input twoLinks => Sys2Proof.Machine.execPowerGoodAssert input twoLinks s
  | .powerGoodDeassert input => Sys2Proof.Machine.execPowerGoodDeassert input s
  | .vaonLoss => Sys2Proof.Machine.execVaonLoss s
  | .refclkLoss => Sys2Proof.Machine.execRefclkLoss s
  | .refclkReturn => Sys2Proof.Machine.execRefclkReturn s
  | .gtsPllRelock => Sys2Proof.Machine.execGtsPllRelock s
  | .phase2Done ok mean => Sys2Proof.Machine.execPhase2Done ok mean s
  | .pcieSerdesDone ok => Sys2Proof.Machine.execPcieSerdesDone ok s
  | .phase3Done slot0Ok slot1Ok mean => Sys2Proof.Machine.execPhase3Done slot0Ok slot1Ok mean s
  | .calItemDone item ok => Sys2Proof.Machine.execCalItemDone item ok s
  | .phase5Done iodOk uncoreOk slots slices sysc => Sys2Proof.Machine.execPhase5Done iodOk uncoreOk slots slices sysc s
  | .readySet => Sys2Proof.Machine.execReadySet s
  | .phaseTimeout => Sys2Proof.Machine.execPhaseTimeout s
  | .recoveryImageReceived signed => Sys2Proof.Machine.execRecoveryImageReceived signed s
  | .calRecordsSaved => Sys2Proof.Machine.execCalRecordsSaved s
  | .perstAssert => Sys2Proof.Machine.execPerstAssert s
  | .perstRelease => Sys2Proof.Machine.execPerstRelease s
  | .pcieLinkUp link => Sys2Proof.Machine.execPcieLinkUp link s
  | .msixVectorUnmasked fn vec => Sys2Proof.Machine.execMsixVectorUnmasked fn vec s
  | .rstCmdWarm snd => Sys2Proof.Machine.execRstCmdWarm snd s
  | .rstCmdSoft snd => Sys2Proof.Machine.execRstCmdSoft snd s
  | .rstCmdRecovery snd => Sys2Proof.Machine.execRstCmdRecovery snd s
  | .rstCmdPackage snd => Sys2Proof.Machine.execRstCmdPackage snd s
  | .rstBtnPress => Sys2Proof.Machine.execRstBtnPress s
  | .rstBtnRelease => Sys2Proof.Machine.execRstBtnRelease s
  | .buttonStuck => Sys2Proof.Machine.execButtonStuck s
  | .btnUnmask => Sys2Proof.Machine.execBtnUnmask s
  | .ctxCmdOpen ctx => Sys2Proof.Machine.execCtxCmdOpen ctx s
  | .ctxCmdClose ctx => Sys2Proof.Machine.execCtxCmdClose ctx s
  | .ctxCloseDone ctx => Sys2Proof.Machine.execCtxCloseDone ctx s
  | .ctxCmdReset ctx => Sys2Proof.Machine.execCtxCmdReset ctx s
  | .vfFlr fn => Sys2Proof.Machine.execVfFlr fn s
  | .pfFlr => Sys2Proof.Machine.execPfFlr s
  | .vfEnableClear => Sys2Proof.Machine.execVfEnableClear s
  | .sqTailWrite fn ctx sq val => Sys2Proof.Machine.execSqTailWrite fn ctx sq val s
  | .cqHeadWrite fn ctx val => Sys2Proof.Machine.execCqHeadWrite fn ctx val s
  | .descriptorFetch ctx sq pcieError => Sys2Proof.Machine.execDescriptorFetch ctx sq pcieError s
  | .completionNotice pcieError => Sys2Proof.Machine.execCompletionNotice pcieError s
  | .msixCoalesceExpiry fn vec => Sys2Proof.Machine.execMsixCoalesceExpiry fn vec s
  | .run ctx sq => Sys2Proof.Machine.execRun ctx sq s
  | .copy ctx sq => Sys2Proof.Machine.execCopy ctx sq s
  | .copyDone ctx sq pos => Sys2Proof.Machine.execCopyDone ctx sq pos s
  | .regionUpdate ctx sq => Sys2Proof.Machine.execRegionUpdate ctx sq s
  | .regionGranuleDone region => Sys2Proof.Machine.execRegionGranuleDone region s
  | .regionReadersClear region => Sys2Proof.Machine.execRegionReadersClear region s
  | .fence ctx sq => Sys2Proof.Machine.execFence ctx sq s
  | .fenceSatisfied ctx sq => Sys2Proof.Machine.execFenceSatisfied ctx sq s
  | .fenceTimeout ctx sq => Sys2Proof.Machine.execFenceTimeout ctx sq s
  | .waitGts ctx sq => Sys2Proof.Machine.execWaitGts ctx sq s
  | .waitGtsReached ctx sq => Sys2Proof.Machine.execWaitGtsReached ctx sq s
  | .seqOpen ctx sq => Sys2Proof.Machine.execSeqOpen ctx sq s
  | .seqAppend ctx sq => Sys2Proof.Machine.execSeqAppend ctx sq s
  | .seqFork ctx sq => Sys2Proof.Machine.execSeqFork ctx sq s
  | .seqClose ctx sq => Sys2Proof.Machine.execSeqClose ctx sq s
  | .streamOpen ctx sq => Sys2Proof.Machine.execStreamOpen ctx sq s
  | .streamTap ctx sq => Sys2Proof.Machine.execStreamTap ctx sq s
  | .tapChangeApplied stream => Sys2Proof.Machine.execTapChangeApplied stream s
  | .streamCloseDrain ctx sq => Sys2Proof.Machine.execStreamCloseDrain ctx sq s
  | .streamCloseAbort ctx sq => Sys2Proof.Machine.execStreamCloseAbort ctx sq s
  | .streamCloseDone stream => Sys2Proof.Machine.execStreamCloseDone stream s
  | .scanStart ctx sq => Sys2Proof.Machine.execScanStart ctx sq s
  | .scanAbortAfterPage ctx sq => Sys2Proof.Machine.execScanAbortAfterPage ctx sq s
  | .scanAbortAtLine ctx sq => Sys2Proof.Machine.execScanAbortAtLine ctx sq s
  | .smpRun ctx sq => Sys2Proof.Machine.execSmpRun ctx sq s
  | .marker ctx sq => Sys2Proof.Machine.execMarker ctx sq s
  | .gangDispatch gang cores => Sys2Proof.Machine.execGangDispatch gang cores s
  | .quantumEnd gang => Sys2Proof.Machine.execQuantumEnd gang s
  | .preemptStopped gang => Sys2Proof.Machine.execPreemptStopped gang s
  | .saveDone core ecc => Sys2Proof.Machine.execSaveDone core ecc s
  | .restoreDone gang ecc => Sys2Proof.Machine.execRestoreDone gang ecc s
  | .periodStart ctx => Sys2Proof.Machine.execPeriodStart ctx s
  | .budgetExhausted gang => Sys2Proof.Machine.execBudgetExhausted gang s
  | .capacityEvaluation => Sys2Proof.Machine.execCapacityEvaluation s
  | .runEnd gang => Sys2Proof.Machine.execRunEnd gang s
  | .coreFault core cause unit => Sys2Proof.Machine.execCoreFault core cause unit s
  | .coreRemap core => Sys2Proof.Machine.execCoreRemap core s
  | .tcEcall core tc => Sys2Proof.Machine.execTcEcall core tc s
  | .tcEbreak core tc => Sys2Proof.Machine.execTcEbreak core tc s
  | .meListLaunch core tc me val => Sys2Proof.Machine.execMeListLaunch core tc me val s
  | .meNop core me => Sys2Proof.Machine.execMeNop core me s
  | .meMma core me ce => Sys2Proof.Machine.execMeMma core me ce s
  | .meZero core me => Sys2Proof.Machine.execMeZero core me s
  | .meAccLoad core me => Sys2Proof.Machine.execMeAccLoad core me s
  | .meStore core me => Sys2Proof.Machine.execMeStore core me s
  | .meStoreRaw core me => Sys2Proof.Machine.execMeStoreRaw core me s
  | .meWait core me => Sys2Proof.Machine.execMeWait core me s
  | .meWaitSatisfied core me => Sys2Proof.Machine.execMeWaitSatisfied core me s
  | .meSignal core me => Sys2Proof.Machine.execMeSignal core me s
  | .semWrite core tc sem val => Sys2Proof.Machine.execSemWrite core tc sem val s
  | .semWaitRead core tc rd => Sys2Proof.Machine.execSemWaitRead core tc rd s
  | .semWaitRelease core tc => Sys2Proof.Machine.execSemWaitRelease core tc s
  | .barrierArrive core tc => Sys2Proof.Machine.execBarrierArrive core tc s
  | .barrierRead core tc rd => Sys2Proof.Machine.execBarrierRead core tc rd s
  | .liveWrite core tc val => Sys2Proof.Machine.execLiveWrite core tc val s
  | .nonfiniteClear core tc val => Sys2Proof.Machine.execNonfiniteClear core tc val s
  | .dmLaunch core tc queue val => Sys2Proof.Machine.execDmLaunch core tc queue val s
  | .dmCopy core queue ce => Sys2Proof.Machine.execDmCopy core queue ce s
  | .dmTranspose core queue => Sys2Proof.Machine.execDmTranspose core queue s
  | .dmFill core queue => Sys2Proof.Machine.execDmFill core queue s
  | .dmDescriptorDone core queue => Sys2Proof.Machine.execDmDescriptorDone core queue s
  | .sramOwnWrite cluster slice val => Sys2Proof.Machine.execSramOwnWrite cluster slice val s
  | .sliceCleared cluster slice => Sys2Proof.Machine.execSliceCleared cluster slice s
  | .dbgHalt core tc => Sys2Proof.Machine.execDbgHalt core tc s
  | .dbgResume core tc => Sys2Proof.Machine.execDbgResume core tc s
  | .dbgStep core tc => Sys2Proof.Machine.execDbgStep core tc s
  | .wuLaunch core tc val => Sys2Proof.Machine.execWuLaunch core tc val s
  | .convGroup core => Sys2Proof.Machine.execConvGroup core s
  | .convRowAvailable core => Sys2Proof.Machine.execConvRowAvailable core s
  | .cropResize core => Sys2Proof.Machine.execCropResize core s
  | .boxDecode core => Sys2Proof.Machine.execBoxDecode core s
  | .nms core => Sys2Proof.Machine.execNms core s
  | .depthToSpace core => Sys2Proof.Machine.execDepthToSpace core s
  | .wuDescriptorDone core => Sys2Proof.Machine.execWuDescriptorDone core s
  | .rsLaunch core tc val => Sys2Proof.Machine.execRsLaunch core tc val s
  | .attend core => Sys2Proof.Machine.execAttend core s
  | .append core => Sys2Proof.Machine.execAppend core s
  | .scatter core => Sys2Proof.Machine.execScatter core s
  | .rsDescriptorDone core => Sys2Proof.Machine.execRsDescriptorDone core s
  | .decodeStepForm region cores tableAt logitsAt => Sys2Proof.Machine.execDecodeStepForm region cores tableAt logitsAt s
  | .prefillChunk seq tokensAt logitAt => Sys2Proof.Machine.execPrefillChunk seq tokensAt logitAt s
  | .stepTableReceived region rows tableAt logitsAt => Sys2Proof.Machine.execStepTableReceived region rows tableAt logitsAt s
  | .spreadTokenReceived seq tok => Sys2Proof.Machine.execSpreadTokenReceived seq tok s
  | .poolAssign pool => Sys2Proof.Machine.execPoolAssign pool s
  | .poolRelease pool => Sys2Proof.Machine.execPoolRelease pool s
  | .poolCreate pool => Sys2Proof.Machine.execPoolCreate pool s
  | .poolDestroy pool => Sys2Proof.Machine.execPoolDestroy pool s
  | .pageAlloc pool => Sys2Proof.Machine.execPageAlloc pool s
  | .allocWaitTimeout pool => Sys2Proof.Machine.execAllocWaitTimeout pool s
  | .writeIntent core => Sys2Proof.Machine.execWriteIntent core s
  | .cowCopyDone core => Sys2Proof.Machine.execCowCopyDone core s
  | .lookaheadRequest core => Sys2Proof.Machine.execLookaheadRequest core s
  | .fetchDone seq entry pcieError => Sys2Proof.Machine.execFetchDone seq entry pcieError s
  | .preemptWriteoutDone seq => Sys2Proof.Machine.execPreemptWriteoutDone seq s
  | .seqRestored seq => Sys2Proof.Machine.execSeqRestored seq s
  | .pageSpilled pool page => Sys2Proof.Machine.execPageSpilled pool page s
  | .pfxFlush val => Sys2Proof.Machine.execPfxFlush val s
  | .pfxFlushDone => Sys2Proof.Machine.execPfxFlushDone s
  | .frameRetireRequest frame => Sys2Proof.Machine.execFrameRetireRequest frame s
  | .tokenisePretoken seq => Sys2Proof.Machine.execTokenisePretoken seq s
  | .maskReady seq ns => Sys2Proof.Machine.execMaskReady seq ns s
  | .tokenStep seq => Sys2Proof.Machine.execTokenStep seq s
  | .auData stream => Sys2Proof.Machine.execAuData stream s
  | .auEnd stream => Sys2Proof.Machine.execAuEnd stream s
  | .decodeDispatch core stream pic => Sys2Proof.Machine.execDecodeDispatch core stream pic s
  | .pictureDone stream marks => Sys2Proof.Machine.execPictureDone stream marks s
  | .tapPictureStart stream tap => Sys2Proof.Machine.execTapPictureStart stream tap s
  | .tapOutputRow stream tap ready => Sys2Proof.Machine.execTapOutputRow stream tap ready s
  | .encFrame stream => Sys2Proof.Machine.execEncFrame stream s
  | .encLinkedPicture stream => Sys2Proof.Machine.execEncLinkedPicture stream s
  | .encPictureDone stream size => Sys2Proof.Machine.execEncPictureDone stream size s
  | .csiPhyCfgWrite port val => Sys2Proof.Machine.execCsiPhyCfgWrite port val s
  | .csiDeskewSequence port lanes => Sys2Proof.Machine.execCsiDeskewSequence port lanes s
  | .csiPacket port vc dt hdr crcOk payload full => Sys2Proof.Machine.execCsiPacket port vc dt hdr crcOk payload full s
  | .frameStart port vc => Sys2Proof.Machine.execFrameStart port vc s
  | .frameEnd port vc => Sys2Proof.Machine.execFrameEnd port vc s
  | .frameDispatch port => Sys2Proof.Machine.execFrameDispatch port s
  | .ispLine port => Sys2Proof.Machine.execIspLine port s
  | .frameComplete port => Sys2Proof.Machine.execFrameComplete port s
  | .camFirstMsExpiry port => Sys2Proof.Machine.execCamFirstMsExpiry port s
  | .camSilenceExpiry port => Sys2Proof.Machine.execCamSilenceExpiry port s
  | .camDetChange port level => Sys2Proof.Machine.execCamDetChange port level s
  | .cciWrite port val => Sys2Proof.Machine.execCciWrite port val s
  | .cciRead port val => Sys2Proof.Machine.execCciRead port val s
  | .cciSeq port val => Sys2Proof.Machine.execCciSeq port val s
  | .cciSeqAtFeStart port => Sys2Proof.Machine.execCciSeqAtFeStart port s
  | .cciTransferDone port nack timeout bytes => Sys2Proof.Machine.execCciTransferDone port nack timeout bytes s
  | .scanLineStart samples => Sys2Proof.Machine.execScanLineStart samples s
  | .ringLineProcessed => Sys2Proof.Machine.execRingLineProcessed s
  | .motorSettleDone => Sys2Proof.Machine.execMotorSettleDone s
  | .motorReverseDone => Sys2Proof.Machine.execMotorReverseDone s
  | .ringLwmReached => Sys2Proof.Machine.execRingLwmReached s
  | .paperInputChange input level pos => Sys2Proof.Machine.execPaperInputChange input level pos s
  | .scanButton pressed => Sys2Proof.Machine.execScanButton pressed s
  | .cableChange present => Sys2Proof.Machine.execCableChange present s
  | .trayWaitExpiry => Sys2Proof.Machine.execTrayWaitExpiry s
  | .misfeed => Sys2Proof.Machine.execMisfeed s
  | .paperJam => Sys2Proof.Machine.execPaperJam s
  | .ejectDone => Sys2Proof.Machine.execEjectDone s
  | .clearDone => Sys2Proof.Machine.execClearDone s
  | .faultClr val => Sys2Proof.Machine.execFaultClr val s
  | .afeCalDark val => Sys2Proof.Machine.execAfeCalDark val s
  | .afeCalWhite val => Sys2Proof.Machine.execAfeCalWhite val s
  | .afeCalOffset val => Sys2Proof.Machine.execAfeCalOffset val s
  | .afeCalDone lines offsets => Sys2Proof.Machine.execAfeCalDone lines offsets s
  | .sampleIssue pipe => Sys2Proof.Machine.execSampleIssue pipe s
  | .sampleDone lane => Sys2Proof.Machine.execSampleDone lane s
  | .flitReceived port corrected uncorrected crcOk acked => Sys2Proof.Machine.execFlitReceived port corrected uncorrected crcOk acked s
  | .flitReplayTimer port => Sys2Proof.Machine.execFlitReplayTimer port s
  | .klSuspect port => Sys2Proof.Machine.execKlSuspect port s
  | .heartbeatSend port => Sys2Proof.Machine.execHeartbeatSend port s
  | .heartbeatReceived port hb => Sys2Proof.Machine.execHeartbeatReceived port hb s
  | .klDown port => Sys2Proof.Machine.execKlDown port s
  | .klRetrain port => Sys2Proof.Machine.execKlRetrain port s
  | .klUp port hb => Sys2Proof.Machine.execKlUp port hb s
  | .klHoldoffExpiry port => Sys2Proof.Machine.execKlHoldoffExpiry port s
  | .routeChanged => Sys2Proof.Machine.execRouteChanged s
  | .klMessageReceived port msg => Sys2Proof.Machine.execKlMessageReceived port msg s
  | .peerAccess addr data len => Sys2Proof.Machine.execPeerAccess addr data len s
  | .staleNackReceived => Sys2Proof.Machine.execStaleNackReceived s
  | .retryNackResend => Sys2Proof.Machine.execRetryNackResend s
  | .installWaitExpiry => Sys2Proof.Machine.execInstallWaitExpiry s
  | .fenceTimerExpiry => Sys2Proof.Machine.execFenceTimerExpiry s
  | .consistInstall val => Sys2Proof.Machine.execConsistInstall val s
  | .collLaunch core tc val => Sys2Proof.Machine.execCollLaunch core tc val s
  | .allReduce core => Sys2Proof.Machine.execAllReduce core s
  | .reduceScatter core => Sys2Proof.Machine.execReduceScatter core s
  | .allGather core => Sys2Proof.Machine.execAllGather core s
  | .broadcast core => Sys2Proof.Machine.execBroadcast core s
  | .collChunkReceived => Sys2Proof.Machine.execCollChunkReceived s
  | .collRetransmit group up origin idx => Sys2Proof.Machine.execCollRetransmit group up origin idx s
  | .collDone group => Sys2Proof.Machine.execCollDone group s
  | .collTimeout group => Sys2Proof.Machine.execCollTimeout group s
  | .cplLaneRepaired cpl rx bundle lane => Sys2Proof.Machine.execCplLaneRepaired cpl rx bundle lane s
  | .cplDegraded cpl rx bundle => Sys2Proof.Machine.execCplDegraded cpl rx bundle s
  | .cplFailed cpl retried => Sys2Proof.Machine.execCplFailed cpl retried s
  | .governorChooseState => Sys2Proof.Machine.execGovernorChooseState s
  | .pstateEnter => Sys2Proof.Machine.execPstateEnter s
  | .pstateExit serve => Sys2Proof.Machine.execPstateExit serve s
  | .pstateExitDone => Sys2Proof.Machine.execPstateExitDone s
  | .timedExit => Sys2Proof.Machine.execTimedExit s
  | .effTolDelivered => Sys2Proof.Machine.execEffTolDelivered s
  | .holdMsExpiry ctx => Sys2Proof.Machine.execHoldMsExpiry ctx s
  | .maxStateWrite snd val => Sys2Proof.Machine.execMaxStateWrite snd val s
  | .p4Entry => Sys2Proof.Machine.execP4Entry s
  | .p4WakeI3c val => Sys2Proof.Machine.execP4WakeI3c val s
  | .p4WakeEvent cause => Sys2Proof.Machine.execP4WakeEvent cause s
  | .p4ExitDone => Sys2Proof.Machine.execP4ExitDone s
  | .powerSample deciwatts => Sys2Proof.Machine.execPowerSample deciwatts s
  | .governMs => Sys2Proof.Machine.execGovernMs s
  | .clockChange die => Sys2Proof.Machine.execClockChange die s
  | .avsAck die => Sys2Proof.Machine.execAvsAck die s
  | .avsError rail status => Sys2Proof.Machine.execAvsError rail status s
  | .avsRetry rail ok => Sys2Proof.Machine.execAvsRetry rail ok s
  | .sensorSample readings hbm rpm => Sys2Proof.Machine.execSensorSample readings hbm rpm s
  | .thermTrip => Sys2Proof.Machine.execThermTrip s
  | .fanFail => Sys2Proof.Machine.execFanFail s
  | .fanRecovered => Sys2Proof.Machine.execFanRecovered s
  | .gtsSet snd low hi => Sys2Proof.Machine.execGtsSet snd low hi s
  | .syncCorrect => Sys2Proof.Machine.execSyncCorrect s
  | .syncParentLoss => Sys2Proof.Machine.execSyncParentLoss s
  | .eventIntake => Sys2Proof.Machine.execEventIntake s
  | .recordClose seq => Sys2Proof.Machine.execRecordClose seq s
  | .evrSnapTake snd val => Sys2Proof.Machine.execEvrSnapTake snd val s
  | .mirrorProgramDone us tries ok => Sys2Proof.Machine.execMirrorProgramDone us tries ok s
  | .norEraseDone us ok => Sys2Proof.Machine.execNorEraseDone us ok s
  | .norRetry ok => Sys2Proof.Machine.execNorRetry ok s
  | .mread snd val => Sys2Proof.Machine.execMread snd val s
  | .mreadDone => Sys2Proof.Machine.execMreadDone s
  | .hbmScrubLine line err => Sys2Proof.Machine.execHbmScrubLine line err s
  | .hbmStackFailed stack untrained => Sys2Proof.Machine.execHbmStackFailed stack untrained s
  | .fatalStop sram => Sys2Proof.Machine.execFatalStop sram s
  | .testUnlockOpen snd => Sys2Proof.Machine.execTestUnlockOpen snd s
  | .testUnlockConfirm snd => Sys2Proof.Machine.execTestUnlockConfirm snd s
  | .testLock snd => Sys2Proof.Machine.execTestLock snd s
  | .unlockWindowExpiry => Sys2Proof.Machine.execUnlockWindowExpiry s
  | .injResidue snd val => Sys2Proof.Machine.execInjResidue snd val s
  | .injEccCe snd val => Sys2Proof.Machine.execInjEccCe snd val s
  | .injEccUe snd val => Sys2Proof.Machine.execInjEccUe snd val s
  | .injCplLane snd val => Sys2Proof.Machine.execInjCplLane snd val s
  | .injKlCrc snd val => Sys2Proof.Machine.execInjKlCrc snd val s
  | .faultInjected => Sys2Proof.Machine.execFaultInjected s
  | .injectNotHit => Sys2Proof.Machine.execInjectNotHit s
  | .sheetPick => Sys2Proof.Machine.execSheetPick s
  | .poolCmdDone => Sys2Proof.Machine.execPoolCmdDone s
  | .pcieLink1Down => Sys2Proof.Machine.execPcieLink1Down s
  | .retryWaitExpiry pkg => Sys2Proof.Machine.execRetryWaitExpiry pkg s
  | .tcLoadStore core tc ce => Sys2Proof.Machine.execTcLoadStore core tc ce s
  | .tcIllegalInstruction core tc => Sys2Proof.Machine.execTcIllegalInstruction core tc s
  | .gpio2PulseEnd => Sys2Proof.Machine.execGpio2PulseEnd s
  | .gpio3Toggle => Sys2Proof.Machine.execGpio3Toggle s

end Sys2Proof.Machine
end

