-- ==== Sys2Proof/Machine/Tick.lean ====
section
/-! DEFINITION. One nanosecond (18 R582, 01 R40): model time, the GTS, budgets, tidy cores. -/

namespace Sys2Proof.Machine

/-- The GTS of the always-on island: 1 ns steps, less the counts that synchronisation omits (18 R587); steps of 5 ns
while its PLL is stopped (01 R40). The manual lets the oscillator's rate lie anywhere within 2 % of nominal; DESIGN CHOICE: it is
nominal (log 9). -/
def State.gtsTick (s : State) : State :=
  if !s.boot.aonUp then s
  else if s.sync.pll then
    if 0 < s.sync.skip then { s with sync := { s.sync with skip := s.sync.skip - 1 } } else { s with gts := s.gts + 1 }
  else if s.gtsPart < 4 then { s with gtsPart := s.gtsPart + 1 }
  else { s with gtsPart := 0, gts := s.gts + 5 }

/-- TEST.STALLS, while some page has STALL_P: how many cycles a nanosecond stalls is timing, and free (19 R622). -/
def State.stallTick (s : State) : State :=
  if s.pages.any fun e => e.2.perturb.toNat % 16 != 0 then
    let (f, s) := s.newFree
    s.addSat64 (ro .test 0 0x58) (Config.freeWord f 0).toNat
  else s

/-- One nanosecond passes. Every other effect of time is a command of its own. -/
def State.tick (s : State) : State := ((({ s with now := s.now + 1 }.gtsTick).stallTick).chargeBudgets).tidyTick

end Sys2Proof.Machine
end

