-- ==== Sys2Proof/WellFormed.lean ====
section
/-! DEFINITION. Which commands a sender or the environment can form: the ranges that the spec gives to handles (04
R135), pixel and sample words (13 R453, 14 R474), packets (13 R449), vectors (04 R129), accesses (02 R42) and the
readings of the package's own sensors (17 R575). `exec` is defined on every command; this is what a run is made of. -/

namespace Sys2Proof

/-- HBM bytes of the package (01 R7). -/
def hbmSize : Nat := 0x1800000000

/-- No element twice. -/
def distinct : List Nat → Bool
  | [] => true
  | x :: r => !r.contains x && distinct r

/-- At most six channels of 16-bit samples (14 R474). -/
def sampleLines (l : List (List Nat)) : Bool :=
  decide (l.length ≤ 6) && l.all fun c => c.all fun v => decide (v < 65536)

/-- The PF has 1,088 vectors, every VF 64 (04 R129). -/
def vectorOk (fn : Fin 16) (vec : Fin 1088) : Bool := fn.val == 0 || decide (vec.val < 64)

/-- A picture's header values (12 R413). -/
def PicInfo.wf (p : PicInfo) : Bool := decide (p.w < 65536) && decide (p.h < 65536) && decide (p.depth ≤ 16)

/-- Heartbeat fields (16 R526, 18 R586). -/
def Heartbeat.wf (h : Heartbeat) : Bool := decide (h.hops < 16) && decide (h.t3 < 2 ^ 64)

/-- Poisoned 64-byte groups lie in the data that carry them (18 R603). -/
def badWf (data : List Byte) (bad : List Nat) : Bool := bad.all fun g => decide (64 * g < data.length)

/-- A chunk is at most 4 KiB (16 R536). -/
def Chunk.wf (c : Chunk) : Bool :=
  decide (c.data.length ≤ 4096) && decide (c.origin < 16) && decide (c.group < 32) && badWf c.data c.bad

/-- Message bodies (16 R530 to R540). -/
def KlBody.wf : KlBody → Bool
  | .read _ addr len => decide (addr < hbmSize) && decide (len ≤ 4096)
  | .write _ addr data bad => decide (addr < hbmSize) && decide (data.length ≤ 4096) && badWf data bad
  | .reply _ data bad => decide (data.length ≤ 4096) && badWf data bad
  | .accessNack _ | .staleNack _ | .retryNack _ => true
  | .chunk c => c.wf
  | .table _ members => decide (members.length ≤ 256)
  | .token _ _ => true

/-- The command's operands lie in their ranges. -/
def Instr.wf : Instr → Bool
  | .registerWrite _ _ _ => true
  | .writeTakesEffect _ => true
  | .refusedAccess _ _ width _ => decide (1 ≤ width) && decide (width ≤ 64)
  | .pairLowRead _ off _ => off.val % 4 == 0
  | .pairLowWrite _ off _ => off.val % 8 == 0
  | .pairHighWrite _ off _ _ => off.val % 8 == 4
  | .pgGtsLoRead _ _ => true
  | .pgCtlEnSet _ _ => true
  | .pgCtlEnClear _ _ => true
  | .pgCtlDrain _ _ => true
  | .pgCtlAbort _ _ => true
  | .pgCtlFreeze _ _ _ => true
  | .pgCtlSrst _ _ => true
  | .blockQuiesced _ => true
  | .drainDone _ => true
  | .blockResetDone _ => true
  | .pgEvRawClear _ _ _ _ => true
  | .pgEvForceWrite _ _ _ => true
  | .pgCommitCommit _ _ _ => true
  | .pgCommitDiscard _ _ => true
  | .shadowInstall _ => true
  | .pgOwnerWrite _ _ _ => true
  | .ctxFuncWrite _ _ _ => true
  | .bar4Access _ _ len data =>
    match data with | some bs => decide (1 ≤ bs.length) && decide (bs.length ≤ 4096) | none => decide (1 ≤ len) && decide (len ≤ 4096)
  | .pgAonAssert _ => true
  | .aonLeavesReset => true
  | .powerGoodAssert _ _ => true
  | .powerGoodDeassert _ => true
  | .vaonLoss => true
  | .refclkLoss => true
  | .refclkReturn => true
  | .gtsPllRelock => true
  | .phase2Done _ _ => true
  | .pcieSerdesDone _ => true
  | .phase3Done _ _ _ => true
  | .calItemDone _ _ => true
  | .phase5Done _ _ _ _ sysc => distinct (sysc.map Fin.val)
  | .readySet => true
  | .phaseTimeout => true
  | .recoveryImageReceived _ => true
  | .calRecordsSaved => true
  | .perstAssert => true
  | .perstRelease => true
  | .pcieLinkUp _ => true
  | .msixVectorUnmasked fn vec => vectorOk fn vec
  | .rstCmdWarm _ => true
  | .rstCmdSoft _ => true
  | .rstCmdRecovery _ => true
  | .rstCmdPackage _ => true
  | .rstBtnPress => true
  | .rstBtnRelease => true
  | .buttonStuck => true
  | .btnUnmask => true
  | .ctxCmdOpen _ => true
  | .ctxCmdClose _ => true
  | .ctxCloseDone _ => true
  | .ctxCmdReset _ => true
  | .vfFlr _ => true
  | .pfFlr => true
  | .vfEnableClear => true
  | .sqTailWrite _ _ _ _ => true
  | .cqHeadWrite _ _ _ => true
  | .descriptorFetch _ _ _ => true
  | .completionNotice _ => true
  | .msixCoalesceExpiry fn vec => vectorOk fn vec
  | .run _ _ => true
  | .copy _ _ => true
  | .copyDone _ _ _ => true
  | .regionUpdate _ _ => true
  | .regionGranuleDone _ => true
  | .regionReadersClear _ => true
  | .fence _ _ => true
  | .fenceSatisfied _ _ => true
  | .fenceTimeout _ _ => true
  | .waitGts _ _ => true
  | .waitGtsReached _ _ => true
  | .seqOpen _ _ => true
  | .seqAppend _ _ => true
  | .seqFork _ _ => true
  | .seqClose _ _ => true
  | .streamOpen _ _ => true
  | .streamTap _ _ => true
  | .tapChangeApplied stream => decide (stream < 2 ^ 24)
  | .streamCloseDrain _ _ => true
  | .streamCloseAbort _ _ => true
  | .streamCloseDone stream => decide (stream < 2 ^ 24)
  | .scanStart _ _ => true
  | .scanAbortAfterPage _ _ => true
  | .scanAbortAtLine _ _ => true
  | .smpRun _ _ => true
  | .marker _ _ => true
  | .gangDispatch _ cores => distinct (cores.map Fin.val)
  | .quantumEnd _ => true
  | .preemptStopped _ => true
  | .saveDone _ _ => true
  | .restoreDone _ _ => true
  | .periodStart _ => true
  | .budgetExhausted _ => true
  | .capacityEvaluation => true
  | .runEnd _ => true
  | .coreFault _ _ _ => true
  | .coreRemap _ => true
  | .tcEcall _ _ => true
  | .tcEbreak _ _ => true
  | .meListLaunch _ _ _ _ => true
  | .meNop _ _ => true
  | .meMma _ _ _ => true
  | .meZero _ _ => true
  | .meAccLoad _ _ => true
  | .meStore _ _ => true
  | .meStoreRaw _ _ => true
  | .meWait _ _ => true
  | .meWaitSatisfied _ _ => true
  | .meSignal _ _ => true
  | .semWrite _ _ _ _ => true
  | .semWaitRead _ _ _ => true
  | .semWaitRelease _ _ => true
  | .barrierArrive _ _ => true
  | .barrierRead _ _ _ => true
  | .liveWrite _ _ _ => true
  | .nonfiniteClear _ _ _ => true
  | .dmLaunch _ _ _ _ => true
  | .dmCopy _ _ _ => true
  | .dmTranspose _ _ => true
  | .dmFill _ _ => true
  | .dmDescriptorDone _ _ => true
  | .sramOwnWrite _ _ _ => true
  | .sliceCleared _ _ => true
  | .dbgHalt _ _ => true
  | .dbgResume _ _ => true
  | .dbgStep _ _ => true
  | .wuLaunch _ _ _ => true
  | .convGroup _ => true
  | .convRowAvailable _ => true
  | .cropResize _ => true
  | .boxDecode _ => true
  | .nms _ => true
  | .depthToSpace _ => true
  | .wuDescriptorDone _ => true
  | .rsLaunch _ _ _ => true
  | .attend _ => true
  | .append _ => true
  | .scatter _ => true
  | .rsDescriptorDone _ => true
  | .decodeStepForm region cores tableAt logitsAt =>
    decide (region < 4096) && distinct (cores.map Fin.val) && decide (tableAt < hbmSize) && decide (logitsAt < hbmSize)
  | .prefillChunk seq tokensAt logitAt =>
    decide (seq < 2 ^ 24) && decide (tokensAt < hbmSize) && decide (logitAt < hbmSize)
  | .stepTableReceived region _ tableAt logitsAt =>
    decide (region < 4096) && decide (tableAt < hbmSize) && decide (logitsAt < hbmSize)
  | .spreadTokenReceived seq _ => decide (seq < 2 ^ 24)
  | .poolAssign _ => true
  | .poolRelease _ => true
  | .poolCreate _ => true
  | .poolDestroy _ => true
  | .pageAlloc _ => true
  | .allocWaitTimeout _ => true
  | .writeIntent _ => true
  | .cowCopyDone _ => true
  | .lookaheadRequest _ => true
  | .fetchDone seq _ _ => decide (seq < 2 ^ 24)
  | .preemptWriteoutDone seq => decide (seq < 2 ^ 24)
  | .seqRestored seq => decide (seq < 2 ^ 24)
  | .pageSpilled _ page => decide (page < 2 ^ 24)
  | .pfxFlush _ => true
  | .pfxFlushDone => true
  | .frameRetireRequest _ => true
  | .tokenisePretoken seq => decide (seq < 2 ^ 24)
  | .maskReady seq _ => decide (seq < 2 ^ 24)
  | .tokenStep seq => decide (seq < 2 ^ 24)
  | .auData stream => decide (stream < 2 ^ 24)
  | .auEnd stream => decide (stream < 2 ^ 24)
  | .decodeDispatch _ stream pic => decide (stream < 2 ^ 24) && pic.wf
  | .pictureDone stream marks => decide (stream < 2 ^ 24) && marks.all fun m => decide (m ≤ 2)
  | .tapPictureStart stream _ => decide (stream < 2 ^ 24)
  | .tapOutputRow stream _ _ => decide (stream < 2 ^ 24)
  | .encFrame stream => decide (stream < 2 ^ 24)
  | .encLinkedPicture stream => decide (stream < 2 ^ 24)
  | .encPictureDone stream _ => decide (stream < 2 ^ 24)
  | .csiPhyCfgWrite _ _ => true
  | .csiDeskewSequence _ _ => true
  | .csiPacket _ vc dt _ _ payload _ =>
    decide (vc < 16) && decide (dt < 64) && payload.all fun p => decide (p < 2 ^ 20)
  | .frameStart _ vc => decide (vc < 16)
  | .frameEnd _ vc => decide (vc < 16)
  | .frameDispatch _ => true
  | .ispLine _ => true
  | .frameComplete _ => true
  | .camFirstMsExpiry _ => true
  | .camSilenceExpiry _ => true
  | .camDetChange _ _ => true
  | .cciWrite _ _ => true
  | .cciRead _ _ => true
  | .cciSeq _ _ => true
  | .cciSeqAtFeStart _ => true
  | .cciTransferDone _ _ _ _ => true
  | .scanLineStart samples => sampleLines samples
  | .ringLineProcessed => true
  | .motorSettleDone => true
  | .motorReverseDone => true
  | .ringLwmReached => true
  | .paperInputChange _ _ _ => true
  | .scanButton _ => true
  | .cableChange _ => true
  | .trayWaitExpiry => true
  | .misfeed => true
  | .paperJam => true
  | .ejectDone => true
  | .clearDone => true
  | .faultClr _ => true
  | .afeCalDark _ => true
  | .afeCalWhite _ => true
  | .afeCalOffset _ => true
  | .afeCalDone lines offsets =>
    (lines.all sampleLines) && offsets.all fun o => decide (o.1 < 1024) && decide (o.2 < 65536)
  | .sampleIssue _ => true
  | .sampleDone _ => true
  | .flitReceived _ _ _ _ _ => true
  | .flitReplayTimer _ => true
  | .klSuspect _ => true
  | .heartbeatSend _ => true
  | .heartbeatReceived _ hb => hb.wf
  | .klDown _ => true
  | .klRetrain _ => true
  | .klUp _ hb => hb.wf
  | .klHoldoffExpiry _ => true
  | .routeChanged => true
  | .klMessageReceived _ msg => msg.body.wf
  | .peerAccess _ data len =>
    match data with | some bs => decide (1 ≤ bs.length) && decide (bs.length ≤ 4096) | none => decide (1 ≤ len) && decide (len ≤ 4096)
  | .staleNackReceived => true
  | .retryNackResend => true
  | .installWaitExpiry => true
  | .fenceTimerExpiry => true
  | .consistInstall _ => true
  | .collLaunch _ _ _ => true
  | .allReduce _ => true
  | .reduceScatter _ => true
  | .allGather _ => true
  | .broadcast _ => true
  | .collChunkReceived => true
  | .collRetransmit _ _ origin _ => decide (origin < 16)
  | .collDone _ => true
  | .collTimeout _ => true
  | .cplLaneRepaired _ _ _ _ => true
  | .cplDegraded _ _ _ => true
  | .cplFailed _ _ => true
  | .governorChooseState => true
  | .pstateEnter => true
  | .pstateExit _ => true
  | .pstateExitDone => true
  | .timedExit => true
  | .effTolDelivered => true
  | .holdMsExpiry _ => true
  | .maxStateWrite _ _ => true
  | .p4Entry => true
  | .p4WakeI3c _ => true
  | .p4WakeEvent _ => true
  | .p4ExitDone => true
  | .powerSample deciwatts => decide (deciwatts < 2 ^ 16)
  | .governMs => true
  | .clockChange _ => true
  | .avsAck _ => true
  | .avsError _ _ => true
  | .avsRetry _ _ => true
  | .sensorSample readings hbm rpm =>
    decide (readings.length = 48) && decide (hbm.length = 4) && decide (rpm < 2 ^ 16)
  | .thermTrip => true
  | .fanFail => true
  | .fanRecovered => true
  | .gtsSet _ _ _ => true
  | .syncCorrect => true
  | .syncParentLoss => true
  | .eventIntake => true
  | .recordClose _ => true
  | .evrSnapTake _ _ => true
  | .mirrorProgramDone _ _ _ => true
  | .norEraseDone _ _ => true
  | .norRetry _ => true
  | .mread _ _ => true
  | .mreadDone => true
  | .hbmScrubLine _ _ => true
  | .hbmStackFailed _ _ => true
  | .fatalStop _ => true
  | .testUnlockOpen _ => true
  | .testUnlockConfirm _ => true
  | .testLock _ => true
  | .unlockWindowExpiry => true
  | .injResidue _ _ => true
  | .injEccCe _ _ => true
  | .injEccUe _ _ => true
  | .injCplLane _ _ => true
  | .injKlCrc _ _ => true
  | .faultInjected => true
  | .injectNotHit => true
  | .sheetPick => true
  | .poolCmdDone => true
  | .pcieLink1Down => true
  | .retryWaitExpiry _ => true
  | .tcLoadStore _ _ _ => true
  | .tcIllegalInstruction _ _ => true
  | .gpio2PulseEnd => true
  | .gpio3Toggle => true

end Sys2Proof
end

