-- ==== Sys2Proof/Decode.lean ====
section
/-! DEFINITION. The command that a word spells. The opcode table gives none of its rows bits: the block takes its
commands as register accesses, protocol messages and events, so no word spells one. -/

namespace Sys2Proof

/-- No row of the table has bits (spec/opcode_table.json), so no word spells a command. -/
def decodeTableWord (_nbits _w : Nat) : Option Instr := none

end Sys2Proof
end

