-- ==== Sys2Proof/Safety.lean ====
section
/-! DEFINITION. What a safe run is, and the invariant of the sparse memories. -/

namespace Sys2Proof.Machine

/-- Numbers strictly rising. -/
def rising : List Nat → Bool
  | [] => true
  | x :: r => (match r with
    | [] => true
    | y :: _ => decide (x < y)) && rising r

/-- The sparse tables of the package are in canonical form, so that equal contents are equal data: HBM, SRAM and host
memory list rising addresses and no byte equal to what an unlisted address reads as; core bays list rising
addresses; poisoned lines are listed once each, rising. -/
structure State.Inv (s : State) : Prop where
  mem : Memory.wf s.mem = true
  bay : rising (s.bay.map Prod.fst) = true
  poison : rising s.poison = true

/-- A step that goes on. -/
def runs (s : State) : Prop := ∃ t, step s = .next t

/-- The command completes on `s`, in a state of which `P` holds. -/
def completes (c : Instr) (s : State) (P : State → Prop) : Prop := ∃ t, exec c s = .next t ∧ P t

/-- The write of `width` bytes at offset `off` of the sender's BAR0 meets none of the rules of 02 R650 and lands on the
word at `a`, where it takes effect at once: no write is posted before it and no block reset runs (02 R64, R66). -/
def State.lands (s : State) (snd : Sender) (off width a : Nat) : Prop :=
  s.reach snd off width true = .word a ∧ (s.page (a / 0x1000)).fifo = [] ∧ (s.page (a / 0x1000)).resetting = false

/-- The read of `width` bytes at offset `off` of the sender's BAR0 meets none of the rules of 02 R650 and finds the word at
`a`, with no write of its page waiting (02 R58). -/
def State.finds (s : State) (snd : Sender) (off width a : Nat) : Prop :=
  s.reach snd off width false = .word a ∧ (s.page (a / 0x1000)).fifo = [] ∧ (s.page (a / 0x1000)).held = []

/-- The next descriptor of a ring, when it is of class `cls` and its block holds no poison: the state in which it has
started and stands before its checks, and the descriptor (04 R142). -/
def State.beforeChecks (s : State) (n q cls : Nat) : Option (State × Desc) :=
  match s.nextDesc n q with
  | none => none
  | some d =>
    let d1 := { d with started := true, startedAt := s.gts, startedNow := s.now }
    let u := s.startDesc d
    let (a, len) := u.paramRange d1
    let u := u.touchAt a len
    if d.cls = cls ∧ d.formOk ∧ u.poisonAt a len = none then some (u, d1) else none

/-- The recorder holds the event (02 R63, 18 R590, R594): it waits in the intake, or its source holds it, or it is of
class 0 to 2 and all 256 places are taken. Its FUNC is the function named, or that of its context. -/
def State.logged (t : State) (gts src code : Nat) (data : List EvVal) (ctx func : Nat) : Prop :=
  let same := fun e : Event => e.gts = gts ∧ e.src = BitVec.ofNat 16 src ∧ e.code = BitVec.ofNat 16 code ∧
    e.ctx = BitVec.ofNat 8 ctx ∧ e.func = BitVec.ofNat 8 (t.eventFunc ctx func) ∧ e.data = evData data
  (∃ x ∈ t.evr.intake, same x.2) ∨ (∃ e ∈ t.evr.heldSources, same e) ∨
    (evClass (BitVec.ofNat 16 code).toNat ≤ 2 ∧ 256 ≤ placesTaken t.evr.intake .normal)

/-- A completion notice of descriptor `d` with this status and these results is on its way (01 R33, 04 R138). -/
def State.reported (t : State) (d : Desc) (st : Status) (result result2 : Nat) : Prop :=
  ∃ x ∈ t.notices, x.ctx = d.ctx ∧ x.epoch = d.epoch ∧ x.entry.ends = some d.pos ∧ x.entry.sq = d.sq ∧
    x.entry.tag = d.tag ∧ x.entry.status = BitVec.ofNat 8 st.code ∧ x.entry.result = BitVec.ofNat 32 result ∧
    x.entry.result2 = BitVec.ofNat 32 result2

/-- A notice without a descriptor's end is on its way to context `n` (04 R139). -/
def State.notified (t : State) (n : Nat) (st : Status) (cls : Nat) (tag : Word64) (result result2 : Nat) : Prop :=
  ∃ x ∈ t.notices, x.ctx = n ∧ x.entry.ends = none ∧ x.entry.notice = true ∧ x.entry.cls = cls ∧
    x.entry.tag = tag ∧ x.entry.status = BitVec.ofNat 8 st.code ∧ x.entry.result = BitVec.ofNat 32 result ∧
    x.entry.result2 = BitVec.ofNat 32 result2

/-- A reset of the package has begun (03 R90, R102, R110): its kind runs from its first phase, MGMT.STATUS.READY is 0 and
LAST_RESET names its cause. -/
def State.restarts (t : State) (kind : ResetKind) (last : Nat) : Prop :=
  t.boot.running = some kind ∧ t.boot.held = false ∧ t.bootPhase = (if kind = .soft then 5 else 2) ∧
    t.ready = false ∧ t.stFld 20 3 = last

/-- Start-up has ended in FW_NONE or BOOT_FAIL with this code (03 R92). -/
def State.bootFailed (t : State) (code : Nat) : Prop :=
  t.bootPhase = 7 ∧ t.stFld 6 1 = 1 ∧ t.stFld 8 4 = code ∧ t.boot.running = none

/-- Tidy core `tc` of core `c` has passed the instruction at its program counter, and no other core has changed. -/
def State.goesOn (s t : State) (c tc : Nat) : Prop :=
  ((t.core c).tidy tc).pc = ((s.core c).tidy tc).pc + BitVec.ofNat 32 (s.tcLen c tc) ∧ ∀ k, k ≠ c → t.core k = s.core k

/-- The RUN of gang `g` has ended with INVALID_DESCRIPTOR and a RESULT that names the cause, the gang index of core `c`
and the tidy core (07 R265). -/
def State.programError (s t : State) (g : Gang) (c tc cause : Nat) : Prop :=
  t.reported g.desc .invalidDescriptor (cause + (s.core c).idx * 256 + tc * 65536) g.slicesReplayed ∧
    ∀ h ∈ t.sbox.gangs, h.uid ≠ g.uid

/-- The next command of ME `m`, when the ME can go on with it, its list lies in the bay, and it is an `op` of `slots` slots
(07 R235, R240). -/
def State.meNext (s : State) (c m op slots : Nat) : Option MeCmd :=
  (s.meCmd c m).filter fun k => s.meReady c m && s.listOk c m && k.op == op && decide (slots ≤ k.left)

/-- ME `m` has passed `n` slots of its list, or the list has ended and the next one is at its head. -/
def State.mePassed (s t : State) (c m n : Nat) : Prop :=
  (t.meUnit c m).waiting = false ∧ (t.meUnit c m).piece = 0 ∧
    ∀ e r, (s.meUnit c m).lists = e :: r →
      ((s.meUnit c m).slot + n < e.2 → (t.meUnit c m).slot = (s.meUnit c m).slot + n ∧ (t.meUnit c m).lists = e :: r) ∧
      (e.2 ≤ (s.meUnit c m).slot + n → (t.meUnit c m).slot = 0 ∧ r <+: (t.meUnit c m).lists)

/-- The front descriptor of a data-mover queue, when it is well formed, of this OP and not done, and the queue goes on
(07 R258, R259, 09 R315). -/
def State.dmAt (s : State) (c q op : Nat) : Option DmD :=
  match s.dmFront c q, s.gangOf c with
  | some (_, d), some g =>
    if s.coreRuns c ∧ s.blockGoes .co c ∧ (q = 1 → s.walkHolds c = false) ∧ d.bad g.width = false ∧ d.op = op ∧
        (s.dmQueue c q).moved < d.total then some d else none
  | _, _ => none

/-- The front descriptor of the window unit, when it is of this OP and passes its check; with the state in which it has
started (08 R276). -/
def State.wuAt (s : State) (c op : Nat) (check : List Byte → WuCheck) : Option (State × List Byte) :=
  match s.wuFront c with
  | some (_, d) =>
    if s.wuRuns c op then
      if (s.core c).wu.started then some (s, d) else if check d = .ok then some (s.wuStart c, d) else none
    else none
  | none => none

/-- No memory line is poisoned or holds an error that a read would find (18 R602 to R604). -/
def State.clean (s : State) : Prop := s.poison = [] ∧ s.latent = []

/-- The result block of a finished descriptor `d` stands at the place that it names (08 R274, 09 R313). -/
def State.resultBlock (t : State) (c : Nat) (d : List Byte) (items bad aux : Nat) : Prop :=
  let a := fieldOf d 124 4
  a ≠ 0xFFFFFFFF → t.bayNat (kBay c a) 4 = items % 2 ^ 32 ∧ t.bayNat (kBay c (a + 4)) 4 = bad % 2 ^ 32 ∧
    t.bayNat (kBay c (a + 8)) 4 = aux % 2 ^ 32 ∧ t.bayNat (kBay c (a + 12)) 4 = 0

/-- The sequence into whose next slot core `c` may write row `r` (09 R325, R327, 10 R352): its page stands and the core's
write intent is granted. -/
def State.slotReady (s : State) (c : Nat) (b : List Byte) (r : KvRow) : Option (Nat × Seq) :=
  (s.rsSeq c r.list (fieldOf b 32 4)).filter fun e =>
    let x := e.2
    let slot := if x.geo.wPages = 0 then r.pos else r.pos % (256 * x.geo.wPages)
    blockOk x b r.layer r.head && r.pos == x.next r.layer r.head && decide (r.pos < 262144) &&
      s.entry x (slot / 256) != emptyEntry && ((s.yard.intents.find? fun i => i.core == c).any fun i => i.granted)

/-- Row `r` has been written into its slot, and the unit goes on with the next. -/
def State.rowWritten (s t : State) (c q : Nat) (r : KvRow) : Prop :=
  (t.core c).rs.items = (s.core c).rs.items + 1 ∧
    ∃ y, t.seq q = some y ∧ y.nextPos.look? (r.layer * 64 + r.head) = some (r.pos + 1)

/-- A register with a command of its own at offset `off` takes a 4-byte write from the PF at once: no rule of 02 R650
refuses it, no lock covers it (02 R74), no write of its page waits and no block reset runs (02 R64, R66). -/
abbrev State.ownTakes (s : State) (off : Nat) : Prop :=
  s.refusedBy off 4 true = none ∧ s.lockedAt off = false ∧ (s.page (off / 0x1000)).fifo = [] ∧
    (s.page (off / 0x1000)).resetting = false

/-- The record of entry `r` of ring `q` has ended with this status and these results (01 R33, 12 R419). -/
def State.recorded (t : State) (n q : Nat) (r : AuRec) (st : Status) (result result2 : Nat) : Prop :=
  ∃ x ∈ t.notices, x.ctx = n ∧ x.epoch = r.epoch ∧ x.entry.sq = q ∧ x.entry.ends = some r.pos ∧
    x.entry.tag = recAddr r.bits 8 ∧ x.entry.status = BitVec.ofNat 8 st.code ∧
    x.entry.result = BitVec.ofNat 32 result ∧ x.entry.result2 = BitVec.ofNat 32 result2

/-- Every command that waits is well formed. -/
def State.queueWf (s : State) : Bool := s.pending.all Instr.wf

end Sys2Proof.Machine
end

