-- ==== Sys2Proof/Laws/Memory.lean ====
section
/-! SUPPORT. What reads and writes of the sparse memories do: a read after a write, and that every operation keeps the
canonical form. -/

namespace Sys2Proof.Machine

/-! ### Memory -/

theorem memWfFrom_mono {m : List Host.Cell} {a b : Nat} (h : a ≤ b) (k : memWfFrom b m = true) : memWfFrom a m = true := by
  cases m with
  | nil => rfl
  | cons x r =>
    simp only [memWfFrom, Bool.and_eq_true, decide_eq_true_eq] at k ⊢
    exact ⟨⟨by omega, k.1.2⟩, k.2⟩

theorem memGet_below {m : List Host.Cell} {lo k : Nat} (h : memWfFrom lo m = true) (l : k < lo) : memGet m k = memDefault := by
  cases m with
  | nil => rfl
  | cons x r =>
    simp only [memWfFrom, Bool.and_eq_true, decide_eq_true_eq] at h
    simp only [memGet]
    rw [if_neg (by omega), if_pos (by omega)]

theorem memPut_wfFrom {m : List Host.Cell} {lo k : Nat} (b : Byte) (h : memWfFrom lo m = true) (l : lo ≤ k) :
    memWfFrom lo (memPut m k b) = true := by
  induction m generalizing lo with
  | nil =>
    simp only [memPut]
    split
    · rfl
    · simp_all [memWfFrom]
  | cons x r ih =>
    obtain ⟨j, c⟩ := x
    simp only [memWfFrom, Bool.and_eq_true, decide_eq_true_eq] at h
    simp only [memPut]
    repeat' split
    · exact memWfFrom_mono (by omega) h.2
    · simp only [memWfFrom, Bool.and_eq_true, decide_eq_true_eq]
      subst_vars
      exact ⟨⟨l, by assumption⟩, h.2⟩
    · simp only [memWfFrom, Bool.and_eq_true, decide_eq_true_eq]
      exact h
    · simp only [memWfFrom, Bool.and_eq_true, decide_eq_true_eq]
      exact ⟨⟨l, by assumption⟩, ⟨by omega, h.1.2⟩, h.2⟩
    · simp only [memWfFrom, Bool.and_eq_true, decide_eq_true_eq]
      exact ⟨h.1, ih h.2 (by omega)⟩

/-- A read after a write of one byte. -/
theorem memGet_memPut {m : List Host.Cell} (k j : Nat) (b : Byte) (h : Memory.wf m = true) :
    memGet (memPut m k b) j = if k = j then b else memGet m j := by
  unfold Memory.wf at h
  generalize 0 = lo at h
  induction m generalizing lo with
  | nil =>
    simp only [memPut]
    split
    · simp_all [memGet]
    · simp only [memGet]
      split <;> simp
  | cons x r ih =>
    obtain ⟨i, c⟩ := x
    simp only [memWfFrom, Bool.and_eq_true, decide_eq_true_eq] at h
    have ih := ih _ h.2
    simp only [memPut]
    split
    · rename_i e
      subst e
      split
      · rename_i e
        subst e
        simp only [memGet]
        split
        · rename_i g
          subst g
          exact memGet_below h.2 (by omega)
        · split
          · exact memGet_below h.2 (by omega)
          · rfl
      · simp only [memGet]
        split
        · rfl
        · rfl
    · split
      · split
        · rename_i e
          subst e
          simp only [memGet]
          by_cases g : k = j
          · rw [if_pos g, if_neg (by omega), if_pos (by omega)]
          · rw [if_neg g]
        · by_cases g : k = j
          · simp only [memGet, if_pos g]
          · simp only [memGet, if_neg g]
            by_cases g2 : j < k
            · rw [if_pos g2, if_neg (by omega), if_pos (by omega)]
            · rw [if_neg g2]
      · simp only [memGet, ih]
        by_cases g : k = j
        · simp only [if_pos g]
          rw [if_neg (by omega), if_neg (by omega)]
        · simp only [if_neg g]

theorem Memory.memPut_wf {m : List Host.Cell} (k : Nat) (b : Byte) (h : Memory.wf m = true) : Memory.wf (memPut m k b) = true :=
  memPut_wfFrom b h (Nat.zero_le k)

theorem Memory.memWrite_wf {m : List Host.Cell} (k : Nat) (bs : List Byte) (h : Memory.wf m = true) :
    Memory.wf (memWrite m k bs) = true := by
  induction bs generalizing m k with
  | nil => exact h
  | cons b r ih => exact ih _ (memPut_wf k b h)

/-- A read after a write of several bytes. -/
theorem memGet_memWrite {m : List Host.Cell} (k j : Nat) (bs : List Byte) (h : Memory.wf m = true) :
    memGet (memWrite m k bs) j = if k ≤ j ∧ j < k + bs.length then bs.getD (j - k) 0 else memGet m j := by
  induction bs generalizing m k with
  | nil => simp only [memWrite, List.length_nil]; rw [if_neg (by omega)]
  | cons b r ih =>
    simp only [memWrite, List.length_cons, ih _ (Memory.memPut_wf k b h), memGet_memPut k j b h]
    by_cases e : k = j
    · subst e
      rw [if_neg (by omega), if_pos rfl, if_pos (by omega)]
      simp
    · simp only [if_neg e]
      by_cases g : k + 1 ≤ j ∧ j < k + 1 + r.length
      · rw [if_pos g, if_pos (by omega)]
        obtain ⟨n, rfl⟩ : ∃ n, j = k + 1 + n := ⟨j - (k + 1), by omega⟩
        rw [show k + 1 + n - (k + 1) = n by omega, show k + 1 + n - k = n + 1 by omega]
        simp
      · rw [if_neg g, if_neg (by omega)]

theorem memFilter_wfFrom {m : List Host.Cell} {lo : Nat} (p : Host.Cell → Bool) (h : memWfFrom lo m = true) :
    memWfFrom lo (m.filter p) = true := by
  induction m generalizing lo with
  | nil => rfl
  | cons x r ih =>
    simp only [memWfFrom, Bool.and_eq_true, decide_eq_true_eq] at h
    simp only [List.filter]
    split
    · simp only [memWfFrom, Bool.and_eq_true, decide_eq_true_eq]
      exact ⟨h.1, ih h.2⟩
    · exact memWfFrom_mono (by omega) (ih h.2)

theorem Memory.filter_wf {m : List Host.Cell} (p : Host.Cell → Bool) (h : Memory.wf m = true) :
    Memory.wf (m.filter p) = true := memFilter_wfFrom p h

/-! ### Rising lists -/

theorem rising_cons {x : Nat} {l : List Nat} : rising (x :: l) = true ↔ (∀ y ∈ l.head?, x < y) ∧ rising l = true := by
  cases l <;> simp [rising]

theorem rising_iff {l : List Nat} : rising l = true ↔ l.Pairwise (· < ·) := by
  induction l with
  | nil => simp [rising]
  | cons x r ih =>
    rw [rising_cons, ih, List.pairwise_cons]
    refine ⟨fun h => ⟨?_, h.2⟩, fun h => ⟨fun y hy => h.1 y (List.mem_of_mem_head? hy), h.2⟩⟩
    cases r with
    | nil => simp
    | cons y r =>
      have h1 : x < y := h.1 y rfl
      have h2 := (List.pairwise_cons.mp h.2).1
      intro z hz
      rcases List.mem_cons.mp hz with rfl | hz
      · exact h1
      · exact h1.trans (h2 z hz)

theorem rising_filter {l : List Nat} (p : Nat → Bool) (h : rising l = true) : rising (l.filter p) = true :=
  rising_iff.mpr ((rising_iff.mp h).filter p)

theorem mem_setInsert {l : List Nat} {x y : Nat} : y ∈ setInsert l x ↔ y = x ∨ y ∈ l := by
  induction l with
  | nil => simp [setInsert]
  | cons z r ih =>
    simp only [setInsert]
    repeat' split
    · simp
    · subst_vars; simp
    · simp only [List.mem_cons, ih]
      tauto

theorem rising_setInsert {l : List Nat} (x : Nat) (h : rising l = true) : rising (setInsert l x) = true := by
  rw [rising_iff] at h ⊢
  induction l with
  | nil => simp [setInsert]
  | cons z r ih =>
    have h1 := List.pairwise_cons.mp h
    simp only [setInsert]
    repeat' split
    · refine List.pairwise_cons.mpr ⟨?_, h⟩
      intro y hy
      rcases List.mem_cons.mp hy with rfl | hy
      · assumption
      · have := h1.1 y hy; omega
    · exact h
    · refine List.pairwise_cons.mpr ⟨?_, ih h1.2⟩
      intro y hy
      rcases mem_setInsert.mp hy with rfl | hy
      · omega
      · exact h1.1 y hy

theorem rising_setInserts {l : List Nat} (xs : List Nat) (h : rising l = true) : rising (xs.foldl setInsert l) = true := by
  induction xs generalizing l with
  | nil => exact h
  | cons x r ih => exact ih (rising_setInsert x h)

/-! ### Core bays -/

theorem mem_cellPut {m : List Host.Cell} {k j : Nat} {b : Byte} (h : j ∈ (cellPut m k b).map Prod.fst) :
    j = k ∨ j ∈ m.map Prod.fst := by
  induction m with
  | nil => simpa [cellPut] using h
  | cons x r ih =>
    obtain ⟨i, c⟩ := x
    simp only [cellPut] at h
    repeat' split at h
    all_goals simp only [List.map_cons, List.mem_cons] at h ⊢
    · tauto
    · tauto
    · rcases h with h | h
      · tauto
      · rcases ih h with h | h <;> tauto

theorem rising_cellPut {m : List Host.Cell} (k : Nat) (b : Byte) (h : rising (m.map Prod.fst) = true) :
    rising ((cellPut m k b).map Prod.fst) = true := by
  rw [rising_iff] at h ⊢
  induction m with
  | nil => simp [cellPut]
  | cons x r ih =>
    obtain ⟨i, c⟩ := x
    rw [List.map_cons] at h
    have h1 := List.pairwise_cons.mp h
    simp only [cellPut]
    repeat' split
    all_goals rw [List.map_cons]
    · subst_vars; exact h
    · refine List.pairwise_cons.mpr ⟨?_, h⟩
      intro y hy
      rcases List.mem_cons.mp hy with rfl | hy
      · assumption
      · have := h1.1 y hy; simp only at *; omega
    · refine List.pairwise_cons.mpr ⟨?_, ih h1.2⟩
      intro y hy
      rcases mem_cellPut hy with rfl | hy
      · simp only; omega
      · exact h1.1 y hy

theorem rising_cellsWrite {m : List Host.Cell} (k : Nat) (bs : List Byte) (h : rising (m.map Prod.fst) = true) :
    rising ((cellsWrite m k bs).map Prod.fst) = true := by
  induction bs generalizing m k with
  | nil => exact h
  | cons b r ih => exact ih _ (rising_cellPut k b h)

theorem rising_map_filter {m : List Host.Cell} (p : Host.Cell → Bool) (h : rising (m.map Prod.fst) = true) :
    rising ((m.filter p).map Prod.fst) = true := by
  rw [rising_iff] at h ⊢
  exact h.sublist (List.filter_sublist.map _)

end Sys2Proof.Machine
end

