-- ==== Sys2Proof/Laws/State.lean ====
section
/-! SUPPORT. One lemma for each field of State and each of its basic updates: what the update leaves, and what it
writes. -/

namespace Sys2Proof.Machine

variable (s : State)

@[simp] theorem State.wr_pending (a : Nat) (v : Word) : (s.wr a v).pending = s.pending := rfl
@[simp] theorem State.wr_now (a : Nat) (v : Word) : (s.wr a v).now = s.now := rfl
@[simp] theorem State.wr_gts (a : Nat) (v : Word) : (s.wr a v).gts = s.gts := rfl
@[simp] theorem State.wr_gtsPart (a : Nat) (v : Word) : (s.wr a v).gtsPart = s.gtsPart := rfl
@[simp] theorem State.wr_uid (a : Nat) (v : Word) : (s.wr a v).uid = s.uid := rfl
@[simp] theorem State.wr_free (a : Nat) (v : Word) : (s.wr a v).free = s.free := rfl
@[simp] theorem State.wr_regs (a : Nat) (v : Word) : (s.wr a v).regs = s.regs.put a v := rfl
@[simp] theorem State.wr_active (a : Nat) (v : Word) : (s.wr a v).active = s.active := rfl
@[simp] theorem State.wr_rwl (a : Nat) (v : Word) : (s.wr a v).rwl = s.rwl := rfl
@[simp] theorem State.wr_pages (a : Nat) (v : Word) : (s.wr a v).pages = s.pages := rfl
@[simp] theorem State.wr_host (a : Nat) (v : Word) : (s.wr a v).host = s.host := rfl
@[simp] theorem State.wr_boot (a : Nat) (v : Word) : (s.wr a v).boot = s.boot := rfl
@[simp] theorem State.wr_evr (a : Nat) (v : Word) : (s.wr a v).evr = s.evr := rfl
@[simp] theorem State.wr_mem (a : Nat) (v : Word) : (s.wr a v).mem = s.mem := rfl
@[simp] theorem State.wr_poison (a : Nat) (v : Word) : (s.wr a v).poison = s.poison := rfl
@[simp] theorem State.wr_bay (a : Nat) (v : Word) : (s.wr a v).bay = s.bay := rfl
@[simp] theorem State.wr_bayGen (a : Nat) (v : Word) : (s.wr a v).bayGen = s.bayGen := rfl
@[simp] theorem State.wr_latent (a : Nat) (v : Word) : (s.wr a v).latent = s.latent := rfl
@[simp] theorem State.wr_ctxs (a : Nat) (v : Word) : (s.wr a v).ctxs = s.ctxs := rfl
@[simp] theorem State.wr_notices (a : Nat) (v : Word) : (s.wr a v).notices = s.notices := rfl
@[simp] theorem State.wr_regionJobs (a : Nat) (v : Word) : (s.wr a v).regionJobs = s.regionJobs := rfl
@[simp] theorem State.wr_regionHolds (a : Nat) (v : Word) : (s.wr a v).regionHolds = s.regionHolds := rfl
@[simp] theorem State.wr_sbox (a : Nat) (v : Word) : (s.wr a v).sbox = s.sbox := rfl
@[simp] theorem State.wr_cores (a : Nat) (v : Word) : (s.wr a v).cores = s.cores := rfl
@[simp] theorem State.wr_images (a : Nat) (v : Word) : (s.wr a v).images = s.images := rfl
@[simp] theorem State.wr_sliceClears (a : Nat) (v : Word) : (s.wr a v).sliceClears = s.sliceClears := rfl
@[simp] theorem State.wr_cutOff (a : Nat) (v : Word) : (s.wr a v).cutOff = s.cutOff := rfl
@[simp] theorem State.wr_yard (a : Nat) (v : Word) : (s.wr a v).yard = s.yard := rfl
@[simp] theorem State.wr_text (a : Nat) (v : Word) : (s.wr a v).text = s.text := rfl
@[simp] theorem State.wr_media (a : Nat) (v : Word) : (s.wr a v).media = s.media := rfl
@[simp] theorem State.wr_scan (a : Nat) (v : Word) : (s.wr a v).scan = s.scan := rfl
@[simp] theorem State.wr_smp (a : Nat) (v : Word) : (s.wr a v).smp = s.smp := rfl
@[simp] theorem State.wr_pwr (a : Nat) (v : Word) : (s.wr a v).pwr = s.pwr := rfl
@[simp] theorem State.wr_pins (a : Nat) (v : Word) : (s.wr a v).pins = s.pins := rfl
@[simp] theorem State.wr_kl (a : Nat) (v : Word) : (s.wr a v).kl = s.kl := rfl
@[simp] theorem State.wr_sync (a : Nat) (v : Word) : (s.wr a v).sync = s.sync := rfl
@[simp] theorem State.wr_cpl (a : Nat) (v : Word) : (s.wr a v).cpl = s.cpl := rfl
@[simp] theorem State.wr_test (a : Nat) (v : Word) : (s.wr a v).test = s.test := rfl
@[simp] theorem State.wr_scrub (a : Nat) (v : Word) : (s.wr a v).scrub = s.scrub := rfl

@[simp] theorem State.setFld_pending (a lo w n : Nat) : (s.setFld a lo w n).pending = s.pending := rfl
@[simp] theorem State.setFld_now (a lo w n : Nat) : (s.setFld a lo w n).now = s.now := rfl
@[simp] theorem State.setFld_gts (a lo w n : Nat) : (s.setFld a lo w n).gts = s.gts := rfl
@[simp] theorem State.setFld_gtsPart (a lo w n : Nat) : (s.setFld a lo w n).gtsPart = s.gtsPart := rfl
@[simp] theorem State.setFld_uid (a lo w n : Nat) : (s.setFld a lo w n).uid = s.uid := rfl
@[simp] theorem State.setFld_free (a lo w n : Nat) : (s.setFld a lo w n).free = s.free := rfl
@[simp] theorem State.setFld_regs (a lo w n : Nat) : (s.setFld a lo w n).regs = s.regs.put a (withBits (s.rd a) lo w n) := rfl
@[simp] theorem State.setFld_active (a lo w n : Nat) : (s.setFld a lo w n).active = s.active := rfl
@[simp] theorem State.setFld_rwl (a lo w n : Nat) : (s.setFld a lo w n).rwl = s.rwl := rfl
@[simp] theorem State.setFld_pages (a lo w n : Nat) : (s.setFld a lo w n).pages = s.pages := rfl
@[simp] theorem State.setFld_host (a lo w n : Nat) : (s.setFld a lo w n).host = s.host := rfl
@[simp] theorem State.setFld_boot (a lo w n : Nat) : (s.setFld a lo w n).boot = s.boot := rfl
@[simp] theorem State.setFld_evr (a lo w n : Nat) : (s.setFld a lo w n).evr = s.evr := rfl
@[simp] theorem State.setFld_mem (a lo w n : Nat) : (s.setFld a lo w n).mem = s.mem := rfl
@[simp] theorem State.setFld_poison (a lo w n : Nat) : (s.setFld a lo w n).poison = s.poison := rfl
@[simp] theorem State.setFld_bay (a lo w n : Nat) : (s.setFld a lo w n).bay = s.bay := rfl
@[simp] theorem State.setFld_bayGen (a lo w n : Nat) : (s.setFld a lo w n).bayGen = s.bayGen := rfl
@[simp] theorem State.setFld_latent (a lo w n : Nat) : (s.setFld a lo w n).latent = s.latent := rfl
@[simp] theorem State.setFld_ctxs (a lo w n : Nat) : (s.setFld a lo w n).ctxs = s.ctxs := rfl
@[simp] theorem State.setFld_notices (a lo w n : Nat) : (s.setFld a lo w n).notices = s.notices := rfl
@[simp] theorem State.setFld_regionJobs (a lo w n : Nat) : (s.setFld a lo w n).regionJobs = s.regionJobs := rfl
@[simp] theorem State.setFld_regionHolds (a lo w n : Nat) : (s.setFld a lo w n).regionHolds = s.regionHolds := rfl
@[simp] theorem State.setFld_sbox (a lo w n : Nat) : (s.setFld a lo w n).sbox = s.sbox := rfl
@[simp] theorem State.setFld_cores (a lo w n : Nat) : (s.setFld a lo w n).cores = s.cores := rfl
@[simp] theorem State.setFld_images (a lo w n : Nat) : (s.setFld a lo w n).images = s.images := rfl
@[simp] theorem State.setFld_sliceClears (a lo w n : Nat) : (s.setFld a lo w n).sliceClears = s.sliceClears := rfl
@[simp] theorem State.setFld_cutOff (a lo w n : Nat) : (s.setFld a lo w n).cutOff = s.cutOff := rfl
@[simp] theorem State.setFld_yard (a lo w n : Nat) : (s.setFld a lo w n).yard = s.yard := rfl
@[simp] theorem State.setFld_text (a lo w n : Nat) : (s.setFld a lo w n).text = s.text := rfl
@[simp] theorem State.setFld_media (a lo w n : Nat) : (s.setFld a lo w n).media = s.media := rfl
@[simp] theorem State.setFld_scan (a lo w n : Nat) : (s.setFld a lo w n).scan = s.scan := rfl
@[simp] theorem State.setFld_smp (a lo w n : Nat) : (s.setFld a lo w n).smp = s.smp := rfl
@[simp] theorem State.setFld_pwr (a lo w n : Nat) : (s.setFld a lo w n).pwr = s.pwr := rfl
@[simp] theorem State.setFld_pins (a lo w n : Nat) : (s.setFld a lo w n).pins = s.pins := rfl
@[simp] theorem State.setFld_kl (a lo w n : Nat) : (s.setFld a lo w n).kl = s.kl := rfl
@[simp] theorem State.setFld_sync (a lo w n : Nat) : (s.setFld a lo w n).sync = s.sync := rfl
@[simp] theorem State.setFld_cpl (a lo w n : Nat) : (s.setFld a lo w n).cpl = s.cpl := rfl
@[simp] theorem State.setFld_test (a lo w n : Nat) : (s.setFld a lo w n).test = s.test := rfl
@[simp] theorem State.setFld_scrub (a lo w n : Nat) : (s.setFld a lo w n).scrub = s.scrub := rfl

@[simp] theorem State.setPage_pending (k : Nat) (p : Page) : (s.setPage k p).pending = s.pending := rfl
@[simp] theorem State.setPage_now (k : Nat) (p : Page) : (s.setPage k p).now = s.now := rfl
@[simp] theorem State.setPage_gts (k : Nat) (p : Page) : (s.setPage k p).gts = s.gts := rfl
@[simp] theorem State.setPage_gtsPart (k : Nat) (p : Page) : (s.setPage k p).gtsPart = s.gtsPart := rfl
@[simp] theorem State.setPage_uid (k : Nat) (p : Page) : (s.setPage k p).uid = s.uid := rfl
@[simp] theorem State.setPage_free (k : Nat) (p : Page) : (s.setPage k p).free = s.free := rfl
@[simp] theorem State.setPage_regs (k : Nat) (p : Page) : (s.setPage k p).regs = s.regs := rfl
@[simp] theorem State.setPage_active (k : Nat) (p : Page) : (s.setPage k p).active = s.active := rfl
@[simp] theorem State.setPage_rwl (k : Nat) (p : Page) : (s.setPage k p).rwl = s.rwl := rfl
@[simp] theorem State.setPage_pages (k : Nat) (p : Page) : (s.setPage k p).pages = s.pages.put k p := rfl
@[simp] theorem State.setPage_host (k : Nat) (p : Page) : (s.setPage k p).host = s.host := rfl
@[simp] theorem State.setPage_boot (k : Nat) (p : Page) : (s.setPage k p).boot = s.boot := rfl
@[simp] theorem State.setPage_evr (k : Nat) (p : Page) : (s.setPage k p).evr = s.evr := rfl
@[simp] theorem State.setPage_mem (k : Nat) (p : Page) : (s.setPage k p).mem = s.mem := rfl
@[simp] theorem State.setPage_poison (k : Nat) (p : Page) : (s.setPage k p).poison = s.poison := rfl
@[simp] theorem State.setPage_bay (k : Nat) (p : Page) : (s.setPage k p).bay = s.bay := rfl
@[simp] theorem State.setPage_bayGen (k : Nat) (p : Page) : (s.setPage k p).bayGen = s.bayGen := rfl
@[simp] theorem State.setPage_latent (k : Nat) (p : Page) : (s.setPage k p).latent = s.latent := rfl
@[simp] theorem State.setPage_ctxs (k : Nat) (p : Page) : (s.setPage k p).ctxs = s.ctxs := rfl
@[simp] theorem State.setPage_notices (k : Nat) (p : Page) : (s.setPage k p).notices = s.notices := rfl
@[simp] theorem State.setPage_regionJobs (k : Nat) (p : Page) : (s.setPage k p).regionJobs = s.regionJobs := rfl
@[simp] theorem State.setPage_regionHolds (k : Nat) (p : Page) : (s.setPage k p).regionHolds = s.regionHolds := rfl
@[simp] theorem State.setPage_sbox (k : Nat) (p : Page) : (s.setPage k p).sbox = s.sbox := rfl
@[simp] theorem State.setPage_cores (k : Nat) (p : Page) : (s.setPage k p).cores = s.cores := rfl
@[simp] theorem State.setPage_images (k : Nat) (p : Page) : (s.setPage k p).images = s.images := rfl
@[simp] theorem State.setPage_sliceClears (k : Nat) (p : Page) : (s.setPage k p).sliceClears = s.sliceClears := rfl
@[simp] theorem State.setPage_cutOff (k : Nat) (p : Page) : (s.setPage k p).cutOff = s.cutOff := rfl
@[simp] theorem State.setPage_yard (k : Nat) (p : Page) : (s.setPage k p).yard = s.yard := rfl
@[simp] theorem State.setPage_text (k : Nat) (p : Page) : (s.setPage k p).text = s.text := rfl
@[simp] theorem State.setPage_media (k : Nat) (p : Page) : (s.setPage k p).media = s.media := rfl
@[simp] theorem State.setPage_scan (k : Nat) (p : Page) : (s.setPage k p).scan = s.scan := rfl
@[simp] theorem State.setPage_smp (k : Nat) (p : Page) : (s.setPage k p).smp = s.smp := rfl
@[simp] theorem State.setPage_pwr (k : Nat) (p : Page) : (s.setPage k p).pwr = s.pwr := rfl
@[simp] theorem State.setPage_pins (k : Nat) (p : Page) : (s.setPage k p).pins = s.pins := rfl
@[simp] theorem State.setPage_kl (k : Nat) (p : Page) : (s.setPage k p).kl = s.kl := rfl
@[simp] theorem State.setPage_sync (k : Nat) (p : Page) : (s.setPage k p).sync = s.sync := rfl
@[simp] theorem State.setPage_cpl (k : Nat) (p : Page) : (s.setPage k p).cpl = s.cpl := rfl
@[simp] theorem State.setPage_test (k : Nat) (p : Page) : (s.setPage k p).test = s.test := rfl
@[simp] theorem State.setPage_scrub (k : Nat) (p : Page) : (s.setPage k p).scrub = s.scrub := rfl

@[simp] theorem State.setCtx_pending (n : Nat) (c : Ctx) : (s.setCtx n c).pending = s.pending := rfl
@[simp] theorem State.setCtx_now (n : Nat) (c : Ctx) : (s.setCtx n c).now = s.now := rfl
@[simp] theorem State.setCtx_gts (n : Nat) (c : Ctx) : (s.setCtx n c).gts = s.gts := rfl
@[simp] theorem State.setCtx_gtsPart (n : Nat) (c : Ctx) : (s.setCtx n c).gtsPart = s.gtsPart := rfl
@[simp] theorem State.setCtx_uid (n : Nat) (c : Ctx) : (s.setCtx n c).uid = s.uid := rfl
@[simp] theorem State.setCtx_free (n : Nat) (c : Ctx) : (s.setCtx n c).free = s.free := rfl
@[simp] theorem State.setCtx_regs (n : Nat) (c : Ctx) : (s.setCtx n c).regs = s.regs := rfl
@[simp] theorem State.setCtx_active (n : Nat) (c : Ctx) : (s.setCtx n c).active = s.active := rfl
@[simp] theorem State.setCtx_rwl (n : Nat) (c : Ctx) : (s.setCtx n c).rwl = s.rwl := rfl
@[simp] theorem State.setCtx_pages (n : Nat) (c : Ctx) : (s.setCtx n c).pages = s.pages := rfl
@[simp] theorem State.setCtx_host (n : Nat) (c : Ctx) : (s.setCtx n c).host = s.host := rfl
@[simp] theorem State.setCtx_boot (n : Nat) (c : Ctx) : (s.setCtx n c).boot = s.boot := rfl
@[simp] theorem State.setCtx_evr (n : Nat) (c : Ctx) : (s.setCtx n c).evr = s.evr := rfl
@[simp] theorem State.setCtx_mem (n : Nat) (c : Ctx) : (s.setCtx n c).mem = s.mem := rfl
@[simp] theorem State.setCtx_poison (n : Nat) (c : Ctx) : (s.setCtx n c).poison = s.poison := rfl
@[simp] theorem State.setCtx_bay (n : Nat) (c : Ctx) : (s.setCtx n c).bay = s.bay := rfl
@[simp] theorem State.setCtx_bayGen (n : Nat) (c : Ctx) : (s.setCtx n c).bayGen = s.bayGen := rfl
@[simp] theorem State.setCtx_latent (n : Nat) (c : Ctx) : (s.setCtx n c).latent = s.latent := rfl
@[simp] theorem State.setCtx_ctxs (n : Nat) (c : Ctx) : (s.setCtx n c).ctxs = s.ctxs.put n c := rfl
@[simp] theorem State.setCtx_notices (n : Nat) (c : Ctx) : (s.setCtx n c).notices = s.notices := rfl
@[simp] theorem State.setCtx_regionJobs (n : Nat) (c : Ctx) : (s.setCtx n c).regionJobs = s.regionJobs := rfl
@[simp] theorem State.setCtx_regionHolds (n : Nat) (c : Ctx) : (s.setCtx n c).regionHolds = s.regionHolds := rfl
@[simp] theorem State.setCtx_sbox (n : Nat) (c : Ctx) : (s.setCtx n c).sbox = s.sbox := rfl
@[simp] theorem State.setCtx_cores (n : Nat) (c : Ctx) : (s.setCtx n c).cores = s.cores := rfl
@[simp] theorem State.setCtx_images (n : Nat) (c : Ctx) : (s.setCtx n c).images = s.images := rfl
@[simp] theorem State.setCtx_sliceClears (n : Nat) (c : Ctx) : (s.setCtx n c).sliceClears = s.sliceClears := rfl
@[simp] theorem State.setCtx_cutOff (n : Nat) (c : Ctx) : (s.setCtx n c).cutOff = s.cutOff := rfl
@[simp] theorem State.setCtx_yard (n : Nat) (c : Ctx) : (s.setCtx n c).yard = s.yard := rfl
@[simp] theorem State.setCtx_text (n : Nat) (c : Ctx) : (s.setCtx n c).text = s.text := rfl
@[simp] theorem State.setCtx_media (n : Nat) (c : Ctx) : (s.setCtx n c).media = s.media := rfl
@[simp] theorem State.setCtx_scan (n : Nat) (c : Ctx) : (s.setCtx n c).scan = s.scan := rfl
@[simp] theorem State.setCtx_smp (n : Nat) (c : Ctx) : (s.setCtx n c).smp = s.smp := rfl
@[simp] theorem State.setCtx_pwr (n : Nat) (c : Ctx) : (s.setCtx n c).pwr = s.pwr := rfl
@[simp] theorem State.setCtx_pins (n : Nat) (c : Ctx) : (s.setCtx n c).pins = s.pins := rfl
@[simp] theorem State.setCtx_kl (n : Nat) (c : Ctx) : (s.setCtx n c).kl = s.kl := rfl
@[simp] theorem State.setCtx_sync (n : Nat) (c : Ctx) : (s.setCtx n c).sync = s.sync := rfl
@[simp] theorem State.setCtx_cpl (n : Nat) (c : Ctx) : (s.setCtx n c).cpl = s.cpl := rfl
@[simp] theorem State.setCtx_test (n : Nat) (c : Ctx) : (s.setCtx n c).test = s.test := rfl
@[simp] theorem State.setCtx_scrub (n : Nat) (c : Ctx) : (s.setCtx n c).scrub = s.scrub := rfl

@[simp] theorem State.setCore_pending (c : Nat) (k : Core) : (s.setCore c k).pending = s.pending := rfl
@[simp] theorem State.setCore_now (c : Nat) (k : Core) : (s.setCore c k).now = s.now := rfl
@[simp] theorem State.setCore_gts (c : Nat) (k : Core) : (s.setCore c k).gts = s.gts := rfl
@[simp] theorem State.setCore_gtsPart (c : Nat) (k : Core) : (s.setCore c k).gtsPart = s.gtsPart := rfl
@[simp] theorem State.setCore_uid (c : Nat) (k : Core) : (s.setCore c k).uid = s.uid := rfl
@[simp] theorem State.setCore_free (c : Nat) (k : Core) : (s.setCore c k).free = s.free := rfl
@[simp] theorem State.setCore_regs (c : Nat) (k : Core) : (s.setCore c k).regs = s.regs := rfl
@[simp] theorem State.setCore_active (c : Nat) (k : Core) : (s.setCore c k).active = s.active := rfl
@[simp] theorem State.setCore_rwl (c : Nat) (k : Core) : (s.setCore c k).rwl = s.rwl := rfl
@[simp] theorem State.setCore_pages (c : Nat) (k : Core) : (s.setCore c k).pages = s.pages := rfl
@[simp] theorem State.setCore_host (c : Nat) (k : Core) : (s.setCore c k).host = s.host := rfl
@[simp] theorem State.setCore_boot (c : Nat) (k : Core) : (s.setCore c k).boot = s.boot := rfl
@[simp] theorem State.setCore_evr (c : Nat) (k : Core) : (s.setCore c k).evr = s.evr := rfl
@[simp] theorem State.setCore_mem (c : Nat) (k : Core) : (s.setCore c k).mem = s.mem := rfl
@[simp] theorem State.setCore_poison (c : Nat) (k : Core) : (s.setCore c k).poison = s.poison := rfl
@[simp] theorem State.setCore_bay (c : Nat) (k : Core) : (s.setCore c k).bay = s.bay := rfl
@[simp] theorem State.setCore_bayGen (c : Nat) (k : Core) : (s.setCore c k).bayGen = s.bayGen := rfl
@[simp] theorem State.setCore_latent (c : Nat) (k : Core) : (s.setCore c k).latent = s.latent := rfl
@[simp] theorem State.setCore_ctxs (c : Nat) (k : Core) : (s.setCore c k).ctxs = s.ctxs := rfl
@[simp] theorem State.setCore_notices (c : Nat) (k : Core) : (s.setCore c k).notices = s.notices := rfl
@[simp] theorem State.setCore_regionJobs (c : Nat) (k : Core) : (s.setCore c k).regionJobs = s.regionJobs := rfl
@[simp] theorem State.setCore_regionHolds (c : Nat) (k : Core) : (s.setCore c k).regionHolds = s.regionHolds := rfl
@[simp] theorem State.setCore_sbox (c : Nat) (k : Core) : (s.setCore c k).sbox = s.sbox := rfl
@[simp] theorem State.setCore_cores (c : Nat) (k : Core) : (s.setCore c k).cores = s.cores.put c k := rfl
@[simp] theorem State.setCore_images (c : Nat) (k : Core) : (s.setCore c k).images = s.images := rfl
@[simp] theorem State.setCore_sliceClears (c : Nat) (k : Core) : (s.setCore c k).sliceClears = s.sliceClears := rfl
@[simp] theorem State.setCore_cutOff (c : Nat) (k : Core) : (s.setCore c k).cutOff = s.cutOff := rfl
@[simp] theorem State.setCore_yard (c : Nat) (k : Core) : (s.setCore c k).yard = s.yard := rfl
@[simp] theorem State.setCore_text (c : Nat) (k : Core) : (s.setCore c k).text = s.text := rfl
@[simp] theorem State.setCore_media (c : Nat) (k : Core) : (s.setCore c k).media = s.media := rfl
@[simp] theorem State.setCore_scan (c : Nat) (k : Core) : (s.setCore c k).scan = s.scan := rfl
@[simp] theorem State.setCore_smp (c : Nat) (k : Core) : (s.setCore c k).smp = s.smp := rfl
@[simp] theorem State.setCore_pwr (c : Nat) (k : Core) : (s.setCore c k).pwr = s.pwr := rfl
@[simp] theorem State.setCore_pins (c : Nat) (k : Core) : (s.setCore c k).pins = s.pins := rfl
@[simp] theorem State.setCore_kl (c : Nat) (k : Core) : (s.setCore c k).kl = s.kl := rfl
@[simp] theorem State.setCore_sync (c : Nat) (k : Core) : (s.setCore c k).sync = s.sync := rfl
@[simp] theorem State.setCore_cpl (c : Nat) (k : Core) : (s.setCore c k).cpl = s.cpl := rfl
@[simp] theorem State.setCore_test (c : Nat) (k : Core) : (s.setCore c k).test = s.test := rfl
@[simp] theorem State.setCore_scrub (c : Nat) (k : Core) : (s.setCore c k).scrub = s.scrub := rfl

@[simp] theorem State.updCore_pending (c : Nat) (f : Core → Core) : (s.updCore c f).pending = s.pending := rfl
@[simp] theorem State.updCore_now (c : Nat) (f : Core → Core) : (s.updCore c f).now = s.now := rfl
@[simp] theorem State.updCore_gts (c : Nat) (f : Core → Core) : (s.updCore c f).gts = s.gts := rfl
@[simp] theorem State.updCore_gtsPart (c : Nat) (f : Core → Core) : (s.updCore c f).gtsPart = s.gtsPart := rfl
@[simp] theorem State.updCore_uid (c : Nat) (f : Core → Core) : (s.updCore c f).uid = s.uid := rfl
@[simp] theorem State.updCore_free (c : Nat) (f : Core → Core) : (s.updCore c f).free = s.free := rfl
@[simp] theorem State.updCore_regs (c : Nat) (f : Core → Core) : (s.updCore c f).regs = s.regs := rfl
@[simp] theorem State.updCore_active (c : Nat) (f : Core → Core) : (s.updCore c f).active = s.active := rfl
@[simp] theorem State.updCore_rwl (c : Nat) (f : Core → Core) : (s.updCore c f).rwl = s.rwl := rfl
@[simp] theorem State.updCore_pages (c : Nat) (f : Core → Core) : (s.updCore c f).pages = s.pages := rfl
@[simp] theorem State.updCore_host (c : Nat) (f : Core → Core) : (s.updCore c f).host = s.host := rfl
@[simp] theorem State.updCore_boot (c : Nat) (f : Core → Core) : (s.updCore c f).boot = s.boot := rfl
@[simp] theorem State.updCore_evr (c : Nat) (f : Core → Core) : (s.updCore c f).evr = s.evr := rfl
@[simp] theorem State.updCore_mem (c : Nat) (f : Core → Core) : (s.updCore c f).mem = s.mem := rfl
@[simp] theorem State.updCore_poison (c : Nat) (f : Core → Core) : (s.updCore c f).poison = s.poison := rfl
@[simp] theorem State.updCore_bay (c : Nat) (f : Core → Core) : (s.updCore c f).bay = s.bay := rfl
@[simp] theorem State.updCore_bayGen (c : Nat) (f : Core → Core) : (s.updCore c f).bayGen = s.bayGen := rfl
@[simp] theorem State.updCore_latent (c : Nat) (f : Core → Core) : (s.updCore c f).latent = s.latent := rfl
@[simp] theorem State.updCore_ctxs (c : Nat) (f : Core → Core) : (s.updCore c f).ctxs = s.ctxs := rfl
@[simp] theorem State.updCore_notices (c : Nat) (f : Core → Core) : (s.updCore c f).notices = s.notices := rfl
@[simp] theorem State.updCore_regionJobs (c : Nat) (f : Core → Core) : (s.updCore c f).regionJobs = s.regionJobs := rfl
@[simp] theorem State.updCore_regionHolds (c : Nat) (f : Core → Core) : (s.updCore c f).regionHolds = s.regionHolds := rfl
@[simp] theorem State.updCore_sbox (c : Nat) (f : Core → Core) : (s.updCore c f).sbox = s.sbox := rfl
@[simp] theorem State.updCore_cores (c : Nat) (f : Core → Core) : (s.updCore c f).cores = s.cores.put c (f (s.core c)) := rfl
@[simp] theorem State.updCore_images (c : Nat) (f : Core → Core) : (s.updCore c f).images = s.images := rfl
@[simp] theorem State.updCore_sliceClears (c : Nat) (f : Core → Core) : (s.updCore c f).sliceClears = s.sliceClears := rfl
@[simp] theorem State.updCore_cutOff (c : Nat) (f : Core → Core) : (s.updCore c f).cutOff = s.cutOff := rfl
@[simp] theorem State.updCore_yard (c : Nat) (f : Core → Core) : (s.updCore c f).yard = s.yard := rfl
@[simp] theorem State.updCore_text (c : Nat) (f : Core → Core) : (s.updCore c f).text = s.text := rfl
@[simp] theorem State.updCore_media (c : Nat) (f : Core → Core) : (s.updCore c f).media = s.media := rfl
@[simp] theorem State.updCore_scan (c : Nat) (f : Core → Core) : (s.updCore c f).scan = s.scan := rfl
@[simp] theorem State.updCore_smp (c : Nat) (f : Core → Core) : (s.updCore c f).smp = s.smp := rfl
@[simp] theorem State.updCore_pwr (c : Nat) (f : Core → Core) : (s.updCore c f).pwr = s.pwr := rfl
@[simp] theorem State.updCore_pins (c : Nat) (f : Core → Core) : (s.updCore c f).pins = s.pins := rfl
@[simp] theorem State.updCore_kl (c : Nat) (f : Core → Core) : (s.updCore c f).kl = s.kl := rfl
@[simp] theorem State.updCore_sync (c : Nat) (f : Core → Core) : (s.updCore c f).sync = s.sync := rfl
@[simp] theorem State.updCore_cpl (c : Nat) (f : Core → Core) : (s.updCore c f).cpl = s.cpl := rfl
@[simp] theorem State.updCore_test (c : Nat) (f : Core → Core) : (s.updCore c f).test = s.test := rfl
@[simp] theorem State.updCore_scrub (c : Nat) (f : Core → Core) : (s.updCore c f).scrub = s.scrub := rfl

@[simp] theorem State.answer_pending (n : Nat) : (s.answer n).pending = s.pending := rfl
@[simp] theorem State.answer_now (n : Nat) : (s.answer n).now = s.now := rfl
@[simp] theorem State.answer_gts (n : Nat) : (s.answer n).gts = s.gts := rfl
@[simp] theorem State.answer_gtsPart (n : Nat) : (s.answer n).gtsPart = s.gtsPart := rfl
@[simp] theorem State.answer_uid (n : Nat) : (s.answer n).uid = s.uid := rfl
@[simp] theorem State.answer_free (n : Nat) : (s.answer n).free = s.free := rfl
@[simp] theorem State.answer_regs (n : Nat) : (s.answer n).regs = s.regs := rfl
@[simp] theorem State.answer_active (n : Nat) : (s.answer n).active = s.active := rfl
@[simp] theorem State.answer_rwl (n : Nat) : (s.answer n).rwl = s.rwl := rfl
@[simp] theorem State.answer_pages (n : Nat) : (s.answer n).pages = s.pages := rfl
@[simp] theorem State.answer_boot (n : Nat) : (s.answer n).boot = s.boot := rfl
@[simp] theorem State.answer_evr (n : Nat) : (s.answer n).evr = s.evr := rfl
@[simp] theorem State.answer_mem (n : Nat) : (s.answer n).mem = s.mem := rfl
@[simp] theorem State.answer_poison (n : Nat) : (s.answer n).poison = s.poison := rfl
@[simp] theorem State.answer_bay (n : Nat) : (s.answer n).bay = s.bay := rfl
@[simp] theorem State.answer_bayGen (n : Nat) : (s.answer n).bayGen = s.bayGen := rfl
@[simp] theorem State.answer_latent (n : Nat) : (s.answer n).latent = s.latent := rfl
@[simp] theorem State.answer_ctxs (n : Nat) : (s.answer n).ctxs = s.ctxs := rfl
@[simp] theorem State.answer_notices (n : Nat) : (s.answer n).notices = s.notices := rfl
@[simp] theorem State.answer_regionJobs (n : Nat) : (s.answer n).regionJobs = s.regionJobs := rfl
@[simp] theorem State.answer_regionHolds (n : Nat) : (s.answer n).regionHolds = s.regionHolds := rfl
@[simp] theorem State.answer_sbox (n : Nat) : (s.answer n).sbox = s.sbox := rfl
@[simp] theorem State.answer_cores (n : Nat) : (s.answer n).cores = s.cores := rfl
@[simp] theorem State.answer_images (n : Nat) : (s.answer n).images = s.images := rfl
@[simp] theorem State.answer_sliceClears (n : Nat) : (s.answer n).sliceClears = s.sliceClears := rfl
@[simp] theorem State.answer_cutOff (n : Nat) : (s.answer n).cutOff = s.cutOff := rfl
@[simp] theorem State.answer_yard (n : Nat) : (s.answer n).yard = s.yard := rfl
@[simp] theorem State.answer_text (n : Nat) : (s.answer n).text = s.text := rfl
@[simp] theorem State.answer_media (n : Nat) : (s.answer n).media = s.media := rfl
@[simp] theorem State.answer_scan (n : Nat) : (s.answer n).scan = s.scan := rfl
@[simp] theorem State.answer_smp (n : Nat) : (s.answer n).smp = s.smp := rfl
@[simp] theorem State.answer_pwr (n : Nat) : (s.answer n).pwr = s.pwr := rfl
@[simp] theorem State.answer_pins (n : Nat) : (s.answer n).pins = s.pins := rfl
@[simp] theorem State.answer_kl (n : Nat) : (s.answer n).kl = s.kl := rfl
@[simp] theorem State.answer_sync (n : Nat) : (s.answer n).sync = s.sync := rfl
@[simp] theorem State.answer_cpl (n : Nat) : (s.answer n).cpl = s.cpl := rfl
@[simp] theorem State.answer_test (n : Nat) : (s.answer n).test = s.test := rfl
@[simp] theorem State.answer_scrub (n : Nat) : (s.answer n).scrub = s.scrub := rfl

@[simp] theorem State.withBoot_pending (f : Boot → Boot) : (s.withBoot f).pending = s.pending := rfl
@[simp] theorem State.withBoot_now (f : Boot → Boot) : (s.withBoot f).now = s.now := rfl
@[simp] theorem State.withBoot_gts (f : Boot → Boot) : (s.withBoot f).gts = s.gts := rfl
@[simp] theorem State.withBoot_gtsPart (f : Boot → Boot) : (s.withBoot f).gtsPart = s.gtsPart := rfl
@[simp] theorem State.withBoot_uid (f : Boot → Boot) : (s.withBoot f).uid = s.uid := rfl
@[simp] theorem State.withBoot_free (f : Boot → Boot) : (s.withBoot f).free = s.free := rfl
@[simp] theorem State.withBoot_regs (f : Boot → Boot) : (s.withBoot f).regs = s.regs := rfl
@[simp] theorem State.withBoot_active (f : Boot → Boot) : (s.withBoot f).active = s.active := rfl
@[simp] theorem State.withBoot_rwl (f : Boot → Boot) : (s.withBoot f).rwl = s.rwl := rfl
@[simp] theorem State.withBoot_pages (f : Boot → Boot) : (s.withBoot f).pages = s.pages := rfl
@[simp] theorem State.withBoot_host (f : Boot → Boot) : (s.withBoot f).host = s.host := rfl
@[simp] theorem State.withBoot_boot (f : Boot → Boot) : (s.withBoot f).boot = f s.boot := rfl
@[simp] theorem State.withBoot_evr (f : Boot → Boot) : (s.withBoot f).evr = s.evr := rfl
@[simp] theorem State.withBoot_mem (f : Boot → Boot) : (s.withBoot f).mem = s.mem := rfl
@[simp] theorem State.withBoot_poison (f : Boot → Boot) : (s.withBoot f).poison = s.poison := rfl
@[simp] theorem State.withBoot_bay (f : Boot → Boot) : (s.withBoot f).bay = s.bay := rfl
@[simp] theorem State.withBoot_bayGen (f : Boot → Boot) : (s.withBoot f).bayGen = s.bayGen := rfl
@[simp] theorem State.withBoot_latent (f : Boot → Boot) : (s.withBoot f).latent = s.latent := rfl
@[simp] theorem State.withBoot_ctxs (f : Boot → Boot) : (s.withBoot f).ctxs = s.ctxs := rfl
@[simp] theorem State.withBoot_notices (f : Boot → Boot) : (s.withBoot f).notices = s.notices := rfl
@[simp] theorem State.withBoot_regionJobs (f : Boot → Boot) : (s.withBoot f).regionJobs = s.regionJobs := rfl
@[simp] theorem State.withBoot_regionHolds (f : Boot → Boot) : (s.withBoot f).regionHolds = s.regionHolds := rfl
@[simp] theorem State.withBoot_sbox (f : Boot → Boot) : (s.withBoot f).sbox = s.sbox := rfl
@[simp] theorem State.withBoot_cores (f : Boot → Boot) : (s.withBoot f).cores = s.cores := rfl
@[simp] theorem State.withBoot_images (f : Boot → Boot) : (s.withBoot f).images = s.images := rfl
@[simp] theorem State.withBoot_sliceClears (f : Boot → Boot) : (s.withBoot f).sliceClears = s.sliceClears := rfl
@[simp] theorem State.withBoot_cutOff (f : Boot → Boot) : (s.withBoot f).cutOff = s.cutOff := rfl
@[simp] theorem State.withBoot_yard (f : Boot → Boot) : (s.withBoot f).yard = s.yard := rfl
@[simp] theorem State.withBoot_text (f : Boot → Boot) : (s.withBoot f).text = s.text := rfl
@[simp] theorem State.withBoot_media (f : Boot → Boot) : (s.withBoot f).media = s.media := rfl
@[simp] theorem State.withBoot_scan (f : Boot → Boot) : (s.withBoot f).scan = s.scan := rfl
@[simp] theorem State.withBoot_smp (f : Boot → Boot) : (s.withBoot f).smp = s.smp := rfl
@[simp] theorem State.withBoot_pwr (f : Boot → Boot) : (s.withBoot f).pwr = s.pwr := rfl
@[simp] theorem State.withBoot_pins (f : Boot → Boot) : (s.withBoot f).pins = s.pins := rfl
@[simp] theorem State.withBoot_kl (f : Boot → Boot) : (s.withBoot f).kl = s.kl := rfl
@[simp] theorem State.withBoot_sync (f : Boot → Boot) : (s.withBoot f).sync = s.sync := rfl
@[simp] theorem State.withBoot_cpl (f : Boot → Boot) : (s.withBoot f).cpl = s.cpl := rfl
@[simp] theorem State.withBoot_test (f : Boot → Boot) : (s.withBoot f).test = s.test := rfl
@[simp] theorem State.withBoot_scrub (f : Boot → Boot) : (s.withBoot f).scrub = s.scrub := rfl

@[simp] theorem State.withEvr_pending (f : Recorder → Recorder) : (s.withEvr f).pending = s.pending := rfl
@[simp] theorem State.withEvr_now (f : Recorder → Recorder) : (s.withEvr f).now = s.now := rfl
@[simp] theorem State.withEvr_gts (f : Recorder → Recorder) : (s.withEvr f).gts = s.gts := rfl
@[simp] theorem State.withEvr_gtsPart (f : Recorder → Recorder) : (s.withEvr f).gtsPart = s.gtsPart := rfl
@[simp] theorem State.withEvr_uid (f : Recorder → Recorder) : (s.withEvr f).uid = s.uid := rfl
@[simp] theorem State.withEvr_free (f : Recorder → Recorder) : (s.withEvr f).free = s.free := rfl
@[simp] theorem State.withEvr_regs (f : Recorder → Recorder) : (s.withEvr f).regs = s.regs := rfl
@[simp] theorem State.withEvr_active (f : Recorder → Recorder) : (s.withEvr f).active = s.active := rfl
@[simp] theorem State.withEvr_rwl (f : Recorder → Recorder) : (s.withEvr f).rwl = s.rwl := rfl
@[simp] theorem State.withEvr_pages (f : Recorder → Recorder) : (s.withEvr f).pages = s.pages := rfl
@[simp] theorem State.withEvr_host (f : Recorder → Recorder) : (s.withEvr f).host = s.host := rfl
@[simp] theorem State.withEvr_boot (f : Recorder → Recorder) : (s.withEvr f).boot = s.boot := rfl
@[simp] theorem State.withEvr_evr (f : Recorder → Recorder) : (s.withEvr f).evr = f s.evr := rfl
@[simp] theorem State.withEvr_mem (f : Recorder → Recorder) : (s.withEvr f).mem = s.mem := rfl
@[simp] theorem State.withEvr_poison (f : Recorder → Recorder) : (s.withEvr f).poison = s.poison := rfl
@[simp] theorem State.withEvr_bay (f : Recorder → Recorder) : (s.withEvr f).bay = s.bay := rfl
@[simp] theorem State.withEvr_bayGen (f : Recorder → Recorder) : (s.withEvr f).bayGen = s.bayGen := rfl
@[simp] theorem State.withEvr_latent (f : Recorder → Recorder) : (s.withEvr f).latent = s.latent := rfl
@[simp] theorem State.withEvr_ctxs (f : Recorder → Recorder) : (s.withEvr f).ctxs = s.ctxs := rfl
@[simp] theorem State.withEvr_notices (f : Recorder → Recorder) : (s.withEvr f).notices = s.notices := rfl
@[simp] theorem State.withEvr_regionJobs (f : Recorder → Recorder) : (s.withEvr f).regionJobs = s.regionJobs := rfl
@[simp] theorem State.withEvr_regionHolds (f : Recorder → Recorder) : (s.withEvr f).regionHolds = s.regionHolds := rfl
@[simp] theorem State.withEvr_sbox (f : Recorder → Recorder) : (s.withEvr f).sbox = s.sbox := rfl
@[simp] theorem State.withEvr_cores (f : Recorder → Recorder) : (s.withEvr f).cores = s.cores := rfl
@[simp] theorem State.withEvr_images (f : Recorder → Recorder) : (s.withEvr f).images = s.images := rfl
@[simp] theorem State.withEvr_sliceClears (f : Recorder → Recorder) : (s.withEvr f).sliceClears = s.sliceClears := rfl
@[simp] theorem State.withEvr_cutOff (f : Recorder → Recorder) : (s.withEvr f).cutOff = s.cutOff := rfl
@[simp] theorem State.withEvr_yard (f : Recorder → Recorder) : (s.withEvr f).yard = s.yard := rfl
@[simp] theorem State.withEvr_text (f : Recorder → Recorder) : (s.withEvr f).text = s.text := rfl
@[simp] theorem State.withEvr_media (f : Recorder → Recorder) : (s.withEvr f).media = s.media := rfl
@[simp] theorem State.withEvr_scan (f : Recorder → Recorder) : (s.withEvr f).scan = s.scan := rfl
@[simp] theorem State.withEvr_smp (f : Recorder → Recorder) : (s.withEvr f).smp = s.smp := rfl
@[simp] theorem State.withEvr_pwr (f : Recorder → Recorder) : (s.withEvr f).pwr = s.pwr := rfl
@[simp] theorem State.withEvr_pins (f : Recorder → Recorder) : (s.withEvr f).pins = s.pins := rfl
@[simp] theorem State.withEvr_kl (f : Recorder → Recorder) : (s.withEvr f).kl = s.kl := rfl
@[simp] theorem State.withEvr_sync (f : Recorder → Recorder) : (s.withEvr f).sync = s.sync := rfl
@[simp] theorem State.withEvr_cpl (f : Recorder → Recorder) : (s.withEvr f).cpl = s.cpl := rfl
@[simp] theorem State.withEvr_test (f : Recorder → Recorder) : (s.withEvr f).test = s.test := rfl
@[simp] theorem State.withEvr_scrub (f : Recorder → Recorder) : (s.withEvr f).scrub = s.scrub := rfl

@[simp] theorem State.withYard_pending (f : Yard → Yard) : (s.withYard f).pending = s.pending := rfl
@[simp] theorem State.withYard_now (f : Yard → Yard) : (s.withYard f).now = s.now := rfl
@[simp] theorem State.withYard_gts (f : Yard → Yard) : (s.withYard f).gts = s.gts := rfl
@[simp] theorem State.withYard_gtsPart (f : Yard → Yard) : (s.withYard f).gtsPart = s.gtsPart := rfl
@[simp] theorem State.withYard_uid (f : Yard → Yard) : (s.withYard f).uid = s.uid := rfl
@[simp] theorem State.withYard_free (f : Yard → Yard) : (s.withYard f).free = s.free := rfl
@[simp] theorem State.withYard_regs (f : Yard → Yard) : (s.withYard f).regs = s.regs := rfl
@[simp] theorem State.withYard_active (f : Yard → Yard) : (s.withYard f).active = s.active := rfl
@[simp] theorem State.withYard_rwl (f : Yard → Yard) : (s.withYard f).rwl = s.rwl := rfl
@[simp] theorem State.withYard_pages (f : Yard → Yard) : (s.withYard f).pages = s.pages := rfl
@[simp] theorem State.withYard_host (f : Yard → Yard) : (s.withYard f).host = s.host := rfl
@[simp] theorem State.withYard_boot (f : Yard → Yard) : (s.withYard f).boot = s.boot := rfl
@[simp] theorem State.withYard_evr (f : Yard → Yard) : (s.withYard f).evr = s.evr := rfl
@[simp] theorem State.withYard_mem (f : Yard → Yard) : (s.withYard f).mem = s.mem := rfl
@[simp] theorem State.withYard_poison (f : Yard → Yard) : (s.withYard f).poison = s.poison := rfl
@[simp] theorem State.withYard_bay (f : Yard → Yard) : (s.withYard f).bay = s.bay := rfl
@[simp] theorem State.withYard_bayGen (f : Yard → Yard) : (s.withYard f).bayGen = s.bayGen := rfl
@[simp] theorem State.withYard_latent (f : Yard → Yard) : (s.withYard f).latent = s.latent := rfl
@[simp] theorem State.withYard_ctxs (f : Yard → Yard) : (s.withYard f).ctxs = s.ctxs := rfl
@[simp] theorem State.withYard_notices (f : Yard → Yard) : (s.withYard f).notices = s.notices := rfl
@[simp] theorem State.withYard_regionJobs (f : Yard → Yard) : (s.withYard f).regionJobs = s.regionJobs := rfl
@[simp] theorem State.withYard_regionHolds (f : Yard → Yard) : (s.withYard f).regionHolds = s.regionHolds := rfl
@[simp] theorem State.withYard_sbox (f : Yard → Yard) : (s.withYard f).sbox = s.sbox := rfl
@[simp] theorem State.withYard_cores (f : Yard → Yard) : (s.withYard f).cores = s.cores := rfl
@[simp] theorem State.withYard_images (f : Yard → Yard) : (s.withYard f).images = s.images := rfl
@[simp] theorem State.withYard_sliceClears (f : Yard → Yard) : (s.withYard f).sliceClears = s.sliceClears := rfl
@[simp] theorem State.withYard_cutOff (f : Yard → Yard) : (s.withYard f).cutOff = s.cutOff := rfl
@[simp] theorem State.withYard_yard (f : Yard → Yard) : (s.withYard f).yard = f s.yard := rfl
@[simp] theorem State.withYard_text (f : Yard → Yard) : (s.withYard f).text = s.text := rfl
@[simp] theorem State.withYard_media (f : Yard → Yard) : (s.withYard f).media = s.media := rfl
@[simp] theorem State.withYard_scan (f : Yard → Yard) : (s.withYard f).scan = s.scan := rfl
@[simp] theorem State.withYard_smp (f : Yard → Yard) : (s.withYard f).smp = s.smp := rfl
@[simp] theorem State.withYard_pwr (f : Yard → Yard) : (s.withYard f).pwr = s.pwr := rfl
@[simp] theorem State.withYard_pins (f : Yard → Yard) : (s.withYard f).pins = s.pins := rfl
@[simp] theorem State.withYard_kl (f : Yard → Yard) : (s.withYard f).kl = s.kl := rfl
@[simp] theorem State.withYard_sync (f : Yard → Yard) : (s.withYard f).sync = s.sync := rfl
@[simp] theorem State.withYard_cpl (f : Yard → Yard) : (s.withYard f).cpl = s.cpl := rfl
@[simp] theorem State.withYard_test (f : Yard → Yard) : (s.withYard f).test = s.test := rfl
@[simp] theorem State.withYard_scrub (f : Yard → Yard) : (s.withYard f).scrub = s.scrub := rfl

@[simp] theorem State.withKl_pending (f : Kl → Kl) : (s.withKl f).pending = s.pending := rfl
@[simp] theorem State.withKl_now (f : Kl → Kl) : (s.withKl f).now = s.now := rfl
@[simp] theorem State.withKl_gts (f : Kl → Kl) : (s.withKl f).gts = s.gts := rfl
@[simp] theorem State.withKl_gtsPart (f : Kl → Kl) : (s.withKl f).gtsPart = s.gtsPart := rfl
@[simp] theorem State.withKl_uid (f : Kl → Kl) : (s.withKl f).uid = s.uid := rfl
@[simp] theorem State.withKl_free (f : Kl → Kl) : (s.withKl f).free = s.free := rfl
@[simp] theorem State.withKl_regs (f : Kl → Kl) : (s.withKl f).regs = s.regs := rfl
@[simp] theorem State.withKl_active (f : Kl → Kl) : (s.withKl f).active = s.active := rfl
@[simp] theorem State.withKl_rwl (f : Kl → Kl) : (s.withKl f).rwl = s.rwl := rfl
@[simp] theorem State.withKl_pages (f : Kl → Kl) : (s.withKl f).pages = s.pages := rfl
@[simp] theorem State.withKl_host (f : Kl → Kl) : (s.withKl f).host = s.host := rfl
@[simp] theorem State.withKl_boot (f : Kl → Kl) : (s.withKl f).boot = s.boot := rfl
@[simp] theorem State.withKl_evr (f : Kl → Kl) : (s.withKl f).evr = s.evr := rfl
@[simp] theorem State.withKl_mem (f : Kl → Kl) : (s.withKl f).mem = s.mem := rfl
@[simp] theorem State.withKl_poison (f : Kl → Kl) : (s.withKl f).poison = s.poison := rfl
@[simp] theorem State.withKl_bay (f : Kl → Kl) : (s.withKl f).bay = s.bay := rfl
@[simp] theorem State.withKl_bayGen (f : Kl → Kl) : (s.withKl f).bayGen = s.bayGen := rfl
@[simp] theorem State.withKl_latent (f : Kl → Kl) : (s.withKl f).latent = s.latent := rfl
@[simp] theorem State.withKl_ctxs (f : Kl → Kl) : (s.withKl f).ctxs = s.ctxs := rfl
@[simp] theorem State.withKl_notices (f : Kl → Kl) : (s.withKl f).notices = s.notices := rfl
@[simp] theorem State.withKl_regionJobs (f : Kl → Kl) : (s.withKl f).regionJobs = s.regionJobs := rfl
@[simp] theorem State.withKl_regionHolds (f : Kl → Kl) : (s.withKl f).regionHolds = s.regionHolds := rfl
@[simp] theorem State.withKl_sbox (f : Kl → Kl) : (s.withKl f).sbox = s.sbox := rfl
@[simp] theorem State.withKl_cores (f : Kl → Kl) : (s.withKl f).cores = s.cores := rfl
@[simp] theorem State.withKl_images (f : Kl → Kl) : (s.withKl f).images = s.images := rfl
@[simp] theorem State.withKl_sliceClears (f : Kl → Kl) : (s.withKl f).sliceClears = s.sliceClears := rfl
@[simp] theorem State.withKl_cutOff (f : Kl → Kl) : (s.withKl f).cutOff = s.cutOff := rfl
@[simp] theorem State.withKl_yard (f : Kl → Kl) : (s.withKl f).yard = s.yard := rfl
@[simp] theorem State.withKl_text (f : Kl → Kl) : (s.withKl f).text = s.text := rfl
@[simp] theorem State.withKl_media (f : Kl → Kl) : (s.withKl f).media = s.media := rfl
@[simp] theorem State.withKl_scan (f : Kl → Kl) : (s.withKl f).scan = s.scan := rfl
@[simp] theorem State.withKl_smp (f : Kl → Kl) : (s.withKl f).smp = s.smp := rfl
@[simp] theorem State.withKl_pwr (f : Kl → Kl) : (s.withKl f).pwr = s.pwr := rfl
@[simp] theorem State.withKl_pins (f : Kl → Kl) : (s.withKl f).pins = s.pins := rfl
@[simp] theorem State.withKl_kl (f : Kl → Kl) : (s.withKl f).kl = f s.kl := rfl
@[simp] theorem State.withKl_sync (f : Kl → Kl) : (s.withKl f).sync = s.sync := rfl
@[simp] theorem State.withKl_cpl (f : Kl → Kl) : (s.withKl f).cpl = s.cpl := rfl
@[simp] theorem State.withKl_test (f : Kl → Kl) : (s.withKl f).test = s.test := rfl
@[simp] theorem State.withKl_scrub (f : Kl → Kl) : (s.withKl f).scrub = s.scrub := rfl

@[simp] theorem State.withSync_pending (f : Sync → Sync) : (s.withSync f).pending = s.pending := rfl
@[simp] theorem State.withSync_now (f : Sync → Sync) : (s.withSync f).now = s.now := rfl
@[simp] theorem State.withSync_gts (f : Sync → Sync) : (s.withSync f).gts = s.gts := rfl
@[simp] theorem State.withSync_gtsPart (f : Sync → Sync) : (s.withSync f).gtsPart = s.gtsPart := rfl
@[simp] theorem State.withSync_uid (f : Sync → Sync) : (s.withSync f).uid = s.uid := rfl
@[simp] theorem State.withSync_free (f : Sync → Sync) : (s.withSync f).free = s.free := rfl
@[simp] theorem State.withSync_regs (f : Sync → Sync) : (s.withSync f).regs = s.regs := rfl
@[simp] theorem State.withSync_active (f : Sync → Sync) : (s.withSync f).active = s.active := rfl
@[simp] theorem State.withSync_rwl (f : Sync → Sync) : (s.withSync f).rwl = s.rwl := rfl
@[simp] theorem State.withSync_pages (f : Sync → Sync) : (s.withSync f).pages = s.pages := rfl
@[simp] theorem State.withSync_host (f : Sync → Sync) : (s.withSync f).host = s.host := rfl
@[simp] theorem State.withSync_boot (f : Sync → Sync) : (s.withSync f).boot = s.boot := rfl
@[simp] theorem State.withSync_evr (f : Sync → Sync) : (s.withSync f).evr = s.evr := rfl
@[simp] theorem State.withSync_mem (f : Sync → Sync) : (s.withSync f).mem = s.mem := rfl
@[simp] theorem State.withSync_poison (f : Sync → Sync) : (s.withSync f).poison = s.poison := rfl
@[simp] theorem State.withSync_bay (f : Sync → Sync) : (s.withSync f).bay = s.bay := rfl
@[simp] theorem State.withSync_bayGen (f : Sync → Sync) : (s.withSync f).bayGen = s.bayGen := rfl
@[simp] theorem State.withSync_latent (f : Sync → Sync) : (s.withSync f).latent = s.latent := rfl
@[simp] theorem State.withSync_ctxs (f : Sync → Sync) : (s.withSync f).ctxs = s.ctxs := rfl
@[simp] theorem State.withSync_notices (f : Sync → Sync) : (s.withSync f).notices = s.notices := rfl
@[simp] theorem State.withSync_regionJobs (f : Sync → Sync) : (s.withSync f).regionJobs = s.regionJobs := rfl
@[simp] theorem State.withSync_regionHolds (f : Sync → Sync) : (s.withSync f).regionHolds = s.regionHolds := rfl
@[simp] theorem State.withSync_sbox (f : Sync → Sync) : (s.withSync f).sbox = s.sbox := rfl
@[simp] theorem State.withSync_cores (f : Sync → Sync) : (s.withSync f).cores = s.cores := rfl
@[simp] theorem State.withSync_images (f : Sync → Sync) : (s.withSync f).images = s.images := rfl
@[simp] theorem State.withSync_sliceClears (f : Sync → Sync) : (s.withSync f).sliceClears = s.sliceClears := rfl
@[simp] theorem State.withSync_cutOff (f : Sync → Sync) : (s.withSync f).cutOff = s.cutOff := rfl
@[simp] theorem State.withSync_yard (f : Sync → Sync) : (s.withSync f).yard = s.yard := rfl
@[simp] theorem State.withSync_text (f : Sync → Sync) : (s.withSync f).text = s.text := rfl
@[simp] theorem State.withSync_media (f : Sync → Sync) : (s.withSync f).media = s.media := rfl
@[simp] theorem State.withSync_scan (f : Sync → Sync) : (s.withSync f).scan = s.scan := rfl
@[simp] theorem State.withSync_smp (f : Sync → Sync) : (s.withSync f).smp = s.smp := rfl
@[simp] theorem State.withSync_pwr (f : Sync → Sync) : (s.withSync f).pwr = s.pwr := rfl
@[simp] theorem State.withSync_pins (f : Sync → Sync) : (s.withSync f).pins = s.pins := rfl
@[simp] theorem State.withSync_kl (f : Sync → Sync) : (s.withSync f).kl = s.kl := rfl
@[simp] theorem State.withSync_sync (f : Sync → Sync) : (s.withSync f).sync = f s.sync := rfl
@[simp] theorem State.withSync_cpl (f : Sync → Sync) : (s.withSync f).cpl = s.cpl := rfl
@[simp] theorem State.withSync_test (f : Sync → Sync) : (s.withSync f).test = s.test := rfl
@[simp] theorem State.withSync_scrub (f : Sync → Sync) : (s.withSync f).scrub = s.scrub := rfl

@[simp] theorem State.withScan_pending (f : Scanner → Scanner) : (s.withScan f).pending = s.pending := rfl
@[simp] theorem State.withScan_now (f : Scanner → Scanner) : (s.withScan f).now = s.now := rfl
@[simp] theorem State.withScan_gts (f : Scanner → Scanner) : (s.withScan f).gts = s.gts := rfl
@[simp] theorem State.withScan_gtsPart (f : Scanner → Scanner) : (s.withScan f).gtsPart = s.gtsPart := rfl
@[simp] theorem State.withScan_uid (f : Scanner → Scanner) : (s.withScan f).uid = s.uid := rfl
@[simp] theorem State.withScan_free (f : Scanner → Scanner) : (s.withScan f).free = s.free := rfl
@[simp] theorem State.withScan_regs (f : Scanner → Scanner) : (s.withScan f).regs = s.regs := rfl
@[simp] theorem State.withScan_active (f : Scanner → Scanner) : (s.withScan f).active = s.active := rfl
@[simp] theorem State.withScan_rwl (f : Scanner → Scanner) : (s.withScan f).rwl = s.rwl := rfl
@[simp] theorem State.withScan_pages (f : Scanner → Scanner) : (s.withScan f).pages = s.pages := rfl
@[simp] theorem State.withScan_host (f : Scanner → Scanner) : (s.withScan f).host = s.host := rfl
@[simp] theorem State.withScan_boot (f : Scanner → Scanner) : (s.withScan f).boot = s.boot := rfl
@[simp] theorem State.withScan_evr (f : Scanner → Scanner) : (s.withScan f).evr = s.evr := rfl
@[simp] theorem State.withScan_mem (f : Scanner → Scanner) : (s.withScan f).mem = s.mem := rfl
@[simp] theorem State.withScan_poison (f : Scanner → Scanner) : (s.withScan f).poison = s.poison := rfl
@[simp] theorem State.withScan_bay (f : Scanner → Scanner) : (s.withScan f).bay = s.bay := rfl
@[simp] theorem State.withScan_bayGen (f : Scanner → Scanner) : (s.withScan f).bayGen = s.bayGen := rfl
@[simp] theorem State.withScan_latent (f : Scanner → Scanner) : (s.withScan f).latent = s.latent := rfl
@[simp] theorem State.withScan_ctxs (f : Scanner → Scanner) : (s.withScan f).ctxs = s.ctxs := rfl
@[simp] theorem State.withScan_notices (f : Scanner → Scanner) : (s.withScan f).notices = s.notices := rfl
@[simp] theorem State.withScan_regionJobs (f : Scanner → Scanner) : (s.withScan f).regionJobs = s.regionJobs := rfl
@[simp] theorem State.withScan_regionHolds (f : Scanner → Scanner) : (s.withScan f).regionHolds = s.regionHolds := rfl
@[simp] theorem State.withScan_sbox (f : Scanner → Scanner) : (s.withScan f).sbox = s.sbox := rfl
@[simp] theorem State.withScan_cores (f : Scanner → Scanner) : (s.withScan f).cores = s.cores := rfl
@[simp] theorem State.withScan_images (f : Scanner → Scanner) : (s.withScan f).images = s.images := rfl
@[simp] theorem State.withScan_sliceClears (f : Scanner → Scanner) : (s.withScan f).sliceClears = s.sliceClears := rfl
@[simp] theorem State.withScan_cutOff (f : Scanner → Scanner) : (s.withScan f).cutOff = s.cutOff := rfl
@[simp] theorem State.withScan_yard (f : Scanner → Scanner) : (s.withScan f).yard = s.yard := rfl
@[simp] theorem State.withScan_text (f : Scanner → Scanner) : (s.withScan f).text = s.text := rfl
@[simp] theorem State.withScan_media (f : Scanner → Scanner) : (s.withScan f).media = s.media := rfl
@[simp] theorem State.withScan_scan (f : Scanner → Scanner) : (s.withScan f).scan = f s.scan := rfl
@[simp] theorem State.withScan_smp (f : Scanner → Scanner) : (s.withScan f).smp = s.smp := rfl
@[simp] theorem State.withScan_pwr (f : Scanner → Scanner) : (s.withScan f).pwr = s.pwr := rfl
@[simp] theorem State.withScan_pins (f : Scanner → Scanner) : (s.withScan f).pins = s.pins := rfl
@[simp] theorem State.withScan_kl (f : Scanner → Scanner) : (s.withScan f).kl = s.kl := rfl
@[simp] theorem State.withScan_sync (f : Scanner → Scanner) : (s.withScan f).sync = s.sync := rfl
@[simp] theorem State.withScan_cpl (f : Scanner → Scanner) : (s.withScan f).cpl = s.cpl := rfl
@[simp] theorem State.withScan_test (f : Scanner → Scanner) : (s.withScan f).test = s.test := rfl
@[simp] theorem State.withScan_scrub (f : Scanner → Scanner) : (s.withScan f).scrub = s.scrub := rfl

@[simp] theorem State.withPwr_pending (f : Power → Power) : (s.withPwr f).pending = s.pending := rfl
@[simp] theorem State.withPwr_now (f : Power → Power) : (s.withPwr f).now = s.now := rfl
@[simp] theorem State.withPwr_gts (f : Power → Power) : (s.withPwr f).gts = s.gts := rfl
@[simp] theorem State.withPwr_gtsPart (f : Power → Power) : (s.withPwr f).gtsPart = s.gtsPart := rfl
@[simp] theorem State.withPwr_uid (f : Power → Power) : (s.withPwr f).uid = s.uid := rfl
@[simp] theorem State.withPwr_free (f : Power → Power) : (s.withPwr f).free = s.free := rfl
@[simp] theorem State.withPwr_regs (f : Power → Power) : (s.withPwr f).regs = s.regs := rfl
@[simp] theorem State.withPwr_active (f : Power → Power) : (s.withPwr f).active = s.active := rfl
@[simp] theorem State.withPwr_rwl (f : Power → Power) : (s.withPwr f).rwl = s.rwl := rfl
@[simp] theorem State.withPwr_pages (f : Power → Power) : (s.withPwr f).pages = s.pages := rfl
@[simp] theorem State.withPwr_host (f : Power → Power) : (s.withPwr f).host = s.host := rfl
@[simp] theorem State.withPwr_boot (f : Power → Power) : (s.withPwr f).boot = s.boot := rfl
@[simp] theorem State.withPwr_evr (f : Power → Power) : (s.withPwr f).evr = s.evr := rfl
@[simp] theorem State.withPwr_mem (f : Power → Power) : (s.withPwr f).mem = s.mem := rfl
@[simp] theorem State.withPwr_poison (f : Power → Power) : (s.withPwr f).poison = s.poison := rfl
@[simp] theorem State.withPwr_bay (f : Power → Power) : (s.withPwr f).bay = s.bay := rfl
@[simp] theorem State.withPwr_bayGen (f : Power → Power) : (s.withPwr f).bayGen = s.bayGen := rfl
@[simp] theorem State.withPwr_latent (f : Power → Power) : (s.withPwr f).latent = s.latent := rfl
@[simp] theorem State.withPwr_ctxs (f : Power → Power) : (s.withPwr f).ctxs = s.ctxs := rfl
@[simp] theorem State.withPwr_notices (f : Power → Power) : (s.withPwr f).notices = s.notices := rfl
@[simp] theorem State.withPwr_regionJobs (f : Power → Power) : (s.withPwr f).regionJobs = s.regionJobs := rfl
@[simp] theorem State.withPwr_regionHolds (f : Power → Power) : (s.withPwr f).regionHolds = s.regionHolds := rfl
@[simp] theorem State.withPwr_sbox (f : Power → Power) : (s.withPwr f).sbox = s.sbox := rfl
@[simp] theorem State.withPwr_cores (f : Power → Power) : (s.withPwr f).cores = s.cores := rfl
@[simp] theorem State.withPwr_images (f : Power → Power) : (s.withPwr f).images = s.images := rfl
@[simp] theorem State.withPwr_sliceClears (f : Power → Power) : (s.withPwr f).sliceClears = s.sliceClears := rfl
@[simp] theorem State.withPwr_cutOff (f : Power → Power) : (s.withPwr f).cutOff = s.cutOff := rfl
@[simp] theorem State.withPwr_yard (f : Power → Power) : (s.withPwr f).yard = s.yard := rfl
@[simp] theorem State.withPwr_text (f : Power → Power) : (s.withPwr f).text = s.text := rfl
@[simp] theorem State.withPwr_media (f : Power → Power) : (s.withPwr f).media = s.media := rfl
@[simp] theorem State.withPwr_scan (f : Power → Power) : (s.withPwr f).scan = s.scan := rfl
@[simp] theorem State.withPwr_smp (f : Power → Power) : (s.withPwr f).smp = s.smp := rfl
@[simp] theorem State.withPwr_pwr (f : Power → Power) : (s.withPwr f).pwr = f s.pwr := rfl
@[simp] theorem State.withPwr_pins (f : Power → Power) : (s.withPwr f).pins = s.pins := rfl
@[simp] theorem State.withPwr_kl (f : Power → Power) : (s.withPwr f).kl = s.kl := rfl
@[simp] theorem State.withPwr_sync (f : Power → Power) : (s.withPwr f).sync = s.sync := rfl
@[simp] theorem State.withPwr_cpl (f : Power → Power) : (s.withPwr f).cpl = s.cpl := rfl
@[simp] theorem State.withPwr_test (f : Power → Power) : (s.withPwr f).test = s.test := rfl
@[simp] theorem State.withPwr_scrub (f : Power → Power) : (s.withPwr f).scrub = s.scrub := rfl

@[simp] theorem State.setDec_pending (i : Nat) (d : DecStream) : (s.setDec i d).pending = s.pending := rfl
@[simp] theorem State.setDec_now (i : Nat) (d : DecStream) : (s.setDec i d).now = s.now := rfl
@[simp] theorem State.setDec_gts (i : Nat) (d : DecStream) : (s.setDec i d).gts = s.gts := rfl
@[simp] theorem State.setDec_gtsPart (i : Nat) (d : DecStream) : (s.setDec i d).gtsPart = s.gtsPart := rfl
@[simp] theorem State.setDec_uid (i : Nat) (d : DecStream) : (s.setDec i d).uid = s.uid := rfl
@[simp] theorem State.setDec_free (i : Nat) (d : DecStream) : (s.setDec i d).free = s.free := rfl
@[simp] theorem State.setDec_regs (i : Nat) (d : DecStream) : (s.setDec i d).regs = s.regs := rfl
@[simp] theorem State.setDec_active (i : Nat) (d : DecStream) : (s.setDec i d).active = s.active := rfl
@[simp] theorem State.setDec_rwl (i : Nat) (d : DecStream) : (s.setDec i d).rwl = s.rwl := rfl
@[simp] theorem State.setDec_pages (i : Nat) (d : DecStream) : (s.setDec i d).pages = s.pages := rfl
@[simp] theorem State.setDec_host (i : Nat) (d : DecStream) : (s.setDec i d).host = s.host := rfl
@[simp] theorem State.setDec_boot (i : Nat) (d : DecStream) : (s.setDec i d).boot = s.boot := rfl
@[simp] theorem State.setDec_evr (i : Nat) (d : DecStream) : (s.setDec i d).evr = s.evr := rfl
@[simp] theorem State.setDec_mem (i : Nat) (d : DecStream) : (s.setDec i d).mem = s.mem := rfl
@[simp] theorem State.setDec_poison (i : Nat) (d : DecStream) : (s.setDec i d).poison = s.poison := rfl
@[simp] theorem State.setDec_bay (i : Nat) (d : DecStream) : (s.setDec i d).bay = s.bay := rfl
@[simp] theorem State.setDec_bayGen (i : Nat) (d : DecStream) : (s.setDec i d).bayGen = s.bayGen := rfl
@[simp] theorem State.setDec_latent (i : Nat) (d : DecStream) : (s.setDec i d).latent = s.latent := rfl
@[simp] theorem State.setDec_ctxs (i : Nat) (d : DecStream) : (s.setDec i d).ctxs = s.ctxs := rfl
@[simp] theorem State.setDec_notices (i : Nat) (d : DecStream) : (s.setDec i d).notices = s.notices := rfl
@[simp] theorem State.setDec_regionJobs (i : Nat) (d : DecStream) : (s.setDec i d).regionJobs = s.regionJobs := rfl
@[simp] theorem State.setDec_regionHolds (i : Nat) (d : DecStream) : (s.setDec i d).regionHolds = s.regionHolds := rfl
@[simp] theorem State.setDec_sbox (i : Nat) (d : DecStream) : (s.setDec i d).sbox = s.sbox := rfl
@[simp] theorem State.setDec_cores (i : Nat) (d : DecStream) : (s.setDec i d).cores = s.cores := rfl
@[simp] theorem State.setDec_images (i : Nat) (d : DecStream) : (s.setDec i d).images = s.images := rfl
@[simp] theorem State.setDec_sliceClears (i : Nat) (d : DecStream) : (s.setDec i d).sliceClears = s.sliceClears := rfl
@[simp] theorem State.setDec_cutOff (i : Nat) (d : DecStream) : (s.setDec i d).cutOff = s.cutOff := rfl
@[simp] theorem State.setDec_yard (i : Nat) (d : DecStream) : (s.setDec i d).yard = s.yard := rfl
@[simp] theorem State.setDec_text (i : Nat) (d : DecStream) : (s.setDec i d).text = s.text := rfl
@[simp] theorem State.setDec_scan (i : Nat) (d : DecStream) : (s.setDec i d).scan = s.scan := rfl
@[simp] theorem State.setDec_smp (i : Nat) (d : DecStream) : (s.setDec i d).smp = s.smp := rfl
@[simp] theorem State.setDec_pwr (i : Nat) (d : DecStream) : (s.setDec i d).pwr = s.pwr := rfl
@[simp] theorem State.setDec_pins (i : Nat) (d : DecStream) : (s.setDec i d).pins = s.pins := rfl
@[simp] theorem State.setDec_kl (i : Nat) (d : DecStream) : (s.setDec i d).kl = s.kl := rfl
@[simp] theorem State.setDec_sync (i : Nat) (d : DecStream) : (s.setDec i d).sync = s.sync := rfl
@[simp] theorem State.setDec_cpl (i : Nat) (d : DecStream) : (s.setDec i d).cpl = s.cpl := rfl
@[simp] theorem State.setDec_test (i : Nat) (d : DecStream) : (s.setDec i d).test = s.test := rfl
@[simp] theorem State.setDec_scrub (i : Nat) (d : DecStream) : (s.setDec i d).scrub = s.scrub := rfl

@[simp] theorem State.setEnc_pending (i : Nat) (d : EncStream) : (s.setEnc i d).pending = s.pending := rfl
@[simp] theorem State.setEnc_now (i : Nat) (d : EncStream) : (s.setEnc i d).now = s.now := rfl
@[simp] theorem State.setEnc_gts (i : Nat) (d : EncStream) : (s.setEnc i d).gts = s.gts := rfl
@[simp] theorem State.setEnc_gtsPart (i : Nat) (d : EncStream) : (s.setEnc i d).gtsPart = s.gtsPart := rfl
@[simp] theorem State.setEnc_uid (i : Nat) (d : EncStream) : (s.setEnc i d).uid = s.uid := rfl
@[simp] theorem State.setEnc_free (i : Nat) (d : EncStream) : (s.setEnc i d).free = s.free := rfl
@[simp] theorem State.setEnc_regs (i : Nat) (d : EncStream) : (s.setEnc i d).regs = s.regs := rfl
@[simp] theorem State.setEnc_active (i : Nat) (d : EncStream) : (s.setEnc i d).active = s.active := rfl
@[simp] theorem State.setEnc_rwl (i : Nat) (d : EncStream) : (s.setEnc i d).rwl = s.rwl := rfl
@[simp] theorem State.setEnc_pages (i : Nat) (d : EncStream) : (s.setEnc i d).pages = s.pages := rfl
@[simp] theorem State.setEnc_host (i : Nat) (d : EncStream) : (s.setEnc i d).host = s.host := rfl
@[simp] theorem State.setEnc_boot (i : Nat) (d : EncStream) : (s.setEnc i d).boot = s.boot := rfl
@[simp] theorem State.setEnc_evr (i : Nat) (d : EncStream) : (s.setEnc i d).evr = s.evr := rfl
@[simp] theorem State.setEnc_mem (i : Nat) (d : EncStream) : (s.setEnc i d).mem = s.mem := rfl
@[simp] theorem State.setEnc_poison (i : Nat) (d : EncStream) : (s.setEnc i d).poison = s.poison := rfl
@[simp] theorem State.setEnc_bay (i : Nat) (d : EncStream) : (s.setEnc i d).bay = s.bay := rfl
@[simp] theorem State.setEnc_bayGen (i : Nat) (d : EncStream) : (s.setEnc i d).bayGen = s.bayGen := rfl
@[simp] theorem State.setEnc_latent (i : Nat) (d : EncStream) : (s.setEnc i d).latent = s.latent := rfl
@[simp] theorem State.setEnc_ctxs (i : Nat) (d : EncStream) : (s.setEnc i d).ctxs = s.ctxs := rfl
@[simp] theorem State.setEnc_notices (i : Nat) (d : EncStream) : (s.setEnc i d).notices = s.notices := rfl
@[simp] theorem State.setEnc_regionJobs (i : Nat) (d : EncStream) : (s.setEnc i d).regionJobs = s.regionJobs := rfl
@[simp] theorem State.setEnc_regionHolds (i : Nat) (d : EncStream) : (s.setEnc i d).regionHolds = s.regionHolds := rfl
@[simp] theorem State.setEnc_sbox (i : Nat) (d : EncStream) : (s.setEnc i d).sbox = s.sbox := rfl
@[simp] theorem State.setEnc_cores (i : Nat) (d : EncStream) : (s.setEnc i d).cores = s.cores := rfl
@[simp] theorem State.setEnc_images (i : Nat) (d : EncStream) : (s.setEnc i d).images = s.images := rfl
@[simp] theorem State.setEnc_sliceClears (i : Nat) (d : EncStream) : (s.setEnc i d).sliceClears = s.sliceClears := rfl
@[simp] theorem State.setEnc_cutOff (i : Nat) (d : EncStream) : (s.setEnc i d).cutOff = s.cutOff := rfl
@[simp] theorem State.setEnc_yard (i : Nat) (d : EncStream) : (s.setEnc i d).yard = s.yard := rfl
@[simp] theorem State.setEnc_text (i : Nat) (d : EncStream) : (s.setEnc i d).text = s.text := rfl
@[simp] theorem State.setEnc_scan (i : Nat) (d : EncStream) : (s.setEnc i d).scan = s.scan := rfl
@[simp] theorem State.setEnc_smp (i : Nat) (d : EncStream) : (s.setEnc i d).smp = s.smp := rfl
@[simp] theorem State.setEnc_pwr (i : Nat) (d : EncStream) : (s.setEnc i d).pwr = s.pwr := rfl
@[simp] theorem State.setEnc_pins (i : Nat) (d : EncStream) : (s.setEnc i d).pins = s.pins := rfl
@[simp] theorem State.setEnc_kl (i : Nat) (d : EncStream) : (s.setEnc i d).kl = s.kl := rfl
@[simp] theorem State.setEnc_sync (i : Nat) (d : EncStream) : (s.setEnc i d).sync = s.sync := rfl
@[simp] theorem State.setEnc_cpl (i : Nat) (d : EncStream) : (s.setEnc i d).cpl = s.cpl := rfl
@[simp] theorem State.setEnc_test (i : Nat) (d : EncStream) : (s.setEnc i d).test = s.test := rfl
@[simp] theorem State.setEnc_scrub (i : Nat) (d : EncStream) : (s.setEnc i d).scrub = s.scrub := rfl

@[simp] theorem State.setCam_pending (i : Nat) (d : CamStream) : (s.setCam i d).pending = s.pending := rfl
@[simp] theorem State.setCam_now (i : Nat) (d : CamStream) : (s.setCam i d).now = s.now := rfl
@[simp] theorem State.setCam_gts (i : Nat) (d : CamStream) : (s.setCam i d).gts = s.gts := rfl
@[simp] theorem State.setCam_gtsPart (i : Nat) (d : CamStream) : (s.setCam i d).gtsPart = s.gtsPart := rfl
@[simp] theorem State.setCam_uid (i : Nat) (d : CamStream) : (s.setCam i d).uid = s.uid := rfl
@[simp] theorem State.setCam_free (i : Nat) (d : CamStream) : (s.setCam i d).free = s.free := rfl
@[simp] theorem State.setCam_regs (i : Nat) (d : CamStream) : (s.setCam i d).regs = s.regs := rfl
@[simp] theorem State.setCam_active (i : Nat) (d : CamStream) : (s.setCam i d).active = s.active := rfl
@[simp] theorem State.setCam_rwl (i : Nat) (d : CamStream) : (s.setCam i d).rwl = s.rwl := rfl
@[simp] theorem State.setCam_pages (i : Nat) (d : CamStream) : (s.setCam i d).pages = s.pages := rfl
@[simp] theorem State.setCam_host (i : Nat) (d : CamStream) : (s.setCam i d).host = s.host := rfl
@[simp] theorem State.setCam_boot (i : Nat) (d : CamStream) : (s.setCam i d).boot = s.boot := rfl
@[simp] theorem State.setCam_evr (i : Nat) (d : CamStream) : (s.setCam i d).evr = s.evr := rfl
@[simp] theorem State.setCam_mem (i : Nat) (d : CamStream) : (s.setCam i d).mem = s.mem := rfl
@[simp] theorem State.setCam_poison (i : Nat) (d : CamStream) : (s.setCam i d).poison = s.poison := rfl
@[simp] theorem State.setCam_bay (i : Nat) (d : CamStream) : (s.setCam i d).bay = s.bay := rfl
@[simp] theorem State.setCam_bayGen (i : Nat) (d : CamStream) : (s.setCam i d).bayGen = s.bayGen := rfl
@[simp] theorem State.setCam_latent (i : Nat) (d : CamStream) : (s.setCam i d).latent = s.latent := rfl
@[simp] theorem State.setCam_ctxs (i : Nat) (d : CamStream) : (s.setCam i d).ctxs = s.ctxs := rfl
@[simp] theorem State.setCam_notices (i : Nat) (d : CamStream) : (s.setCam i d).notices = s.notices := rfl
@[simp] theorem State.setCam_regionJobs (i : Nat) (d : CamStream) : (s.setCam i d).regionJobs = s.regionJobs := rfl
@[simp] theorem State.setCam_regionHolds (i : Nat) (d : CamStream) : (s.setCam i d).regionHolds = s.regionHolds := rfl
@[simp] theorem State.setCam_sbox (i : Nat) (d : CamStream) : (s.setCam i d).sbox = s.sbox := rfl
@[simp] theorem State.setCam_cores (i : Nat) (d : CamStream) : (s.setCam i d).cores = s.cores := rfl
@[simp] theorem State.setCam_images (i : Nat) (d : CamStream) : (s.setCam i d).images = s.images := rfl
@[simp] theorem State.setCam_sliceClears (i : Nat) (d : CamStream) : (s.setCam i d).sliceClears = s.sliceClears := rfl
@[simp] theorem State.setCam_cutOff (i : Nat) (d : CamStream) : (s.setCam i d).cutOff = s.cutOff := rfl
@[simp] theorem State.setCam_yard (i : Nat) (d : CamStream) : (s.setCam i d).yard = s.yard := rfl
@[simp] theorem State.setCam_text (i : Nat) (d : CamStream) : (s.setCam i d).text = s.text := rfl
@[simp] theorem State.setCam_scan (i : Nat) (d : CamStream) : (s.setCam i d).scan = s.scan := rfl
@[simp] theorem State.setCam_smp (i : Nat) (d : CamStream) : (s.setCam i d).smp = s.smp := rfl
@[simp] theorem State.setCam_pwr (i : Nat) (d : CamStream) : (s.setCam i d).pwr = s.pwr := rfl
@[simp] theorem State.setCam_pins (i : Nat) (d : CamStream) : (s.setCam i d).pins = s.pins := rfl
@[simp] theorem State.setCam_kl (i : Nat) (d : CamStream) : (s.setCam i d).kl = s.kl := rfl
@[simp] theorem State.setCam_sync (i : Nat) (d : CamStream) : (s.setCam i d).sync = s.sync := rfl
@[simp] theorem State.setCam_cpl (i : Nat) (d : CamStream) : (s.setCam i d).cpl = s.cpl := rfl
@[simp] theorem State.setCam_test (i : Nat) (d : CamStream) : (s.setCam i d).test = s.test := rfl
@[simp] theorem State.setCam_scrub (i : Nat) (d : CamStream) : (s.setCam i d).scrub = s.scrub := rfl

@[simp] theorem State.setPort_pending (i : Nat) (d : Port) : (s.setPort i d).pending = s.pending := rfl
@[simp] theorem State.setPort_now (i : Nat) (d : Port) : (s.setPort i d).now = s.now := rfl
@[simp] theorem State.setPort_gts (i : Nat) (d : Port) : (s.setPort i d).gts = s.gts := rfl
@[simp] theorem State.setPort_gtsPart (i : Nat) (d : Port) : (s.setPort i d).gtsPart = s.gtsPart := rfl
@[simp] theorem State.setPort_uid (i : Nat) (d : Port) : (s.setPort i d).uid = s.uid := rfl
@[simp] theorem State.setPort_free (i : Nat) (d : Port) : (s.setPort i d).free = s.free := rfl
@[simp] theorem State.setPort_regs (i : Nat) (d : Port) : (s.setPort i d).regs = s.regs := rfl
@[simp] theorem State.setPort_active (i : Nat) (d : Port) : (s.setPort i d).active = s.active := rfl
@[simp] theorem State.setPort_rwl (i : Nat) (d : Port) : (s.setPort i d).rwl = s.rwl := rfl
@[simp] theorem State.setPort_pages (i : Nat) (d : Port) : (s.setPort i d).pages = s.pages := rfl
@[simp] theorem State.setPort_host (i : Nat) (d : Port) : (s.setPort i d).host = s.host := rfl
@[simp] theorem State.setPort_boot (i : Nat) (d : Port) : (s.setPort i d).boot = s.boot := rfl
@[simp] theorem State.setPort_evr (i : Nat) (d : Port) : (s.setPort i d).evr = s.evr := rfl
@[simp] theorem State.setPort_mem (i : Nat) (d : Port) : (s.setPort i d).mem = s.mem := rfl
@[simp] theorem State.setPort_poison (i : Nat) (d : Port) : (s.setPort i d).poison = s.poison := rfl
@[simp] theorem State.setPort_bay (i : Nat) (d : Port) : (s.setPort i d).bay = s.bay := rfl
@[simp] theorem State.setPort_bayGen (i : Nat) (d : Port) : (s.setPort i d).bayGen = s.bayGen := rfl
@[simp] theorem State.setPort_latent (i : Nat) (d : Port) : (s.setPort i d).latent = s.latent := rfl
@[simp] theorem State.setPort_ctxs (i : Nat) (d : Port) : (s.setPort i d).ctxs = s.ctxs := rfl
@[simp] theorem State.setPort_notices (i : Nat) (d : Port) : (s.setPort i d).notices = s.notices := rfl
@[simp] theorem State.setPort_regionJobs (i : Nat) (d : Port) : (s.setPort i d).regionJobs = s.regionJobs := rfl
@[simp] theorem State.setPort_regionHolds (i : Nat) (d : Port) : (s.setPort i d).regionHolds = s.regionHolds := rfl
@[simp] theorem State.setPort_sbox (i : Nat) (d : Port) : (s.setPort i d).sbox = s.sbox := rfl
@[simp] theorem State.setPort_cores (i : Nat) (d : Port) : (s.setPort i d).cores = s.cores := rfl
@[simp] theorem State.setPort_images (i : Nat) (d : Port) : (s.setPort i d).images = s.images := rfl
@[simp] theorem State.setPort_sliceClears (i : Nat) (d : Port) : (s.setPort i d).sliceClears = s.sliceClears := rfl
@[simp] theorem State.setPort_cutOff (i : Nat) (d : Port) : (s.setPort i d).cutOff = s.cutOff := rfl
@[simp] theorem State.setPort_yard (i : Nat) (d : Port) : (s.setPort i d).yard = s.yard := rfl
@[simp] theorem State.setPort_text (i : Nat) (d : Port) : (s.setPort i d).text = s.text := rfl
@[simp] theorem State.setPort_scan (i : Nat) (d : Port) : (s.setPort i d).scan = s.scan := rfl
@[simp] theorem State.setPort_smp (i : Nat) (d : Port) : (s.setPort i d).smp = s.smp := rfl
@[simp] theorem State.setPort_pwr (i : Nat) (d : Port) : (s.setPort i d).pwr = s.pwr := rfl
@[simp] theorem State.setPort_pins (i : Nat) (d : Port) : (s.setPort i d).pins = s.pins := rfl
@[simp] theorem State.setPort_kl (i : Nat) (d : Port) : (s.setPort i d).kl = s.kl := rfl
@[simp] theorem State.setPort_sync (i : Nat) (d : Port) : (s.setPort i d).sync = s.sync := rfl
@[simp] theorem State.setPort_cpl (i : Nat) (d : Port) : (s.setPort i d).cpl = s.cpl := rfl
@[simp] theorem State.setPort_test (i : Nat) (d : Port) : (s.setPort i d).test = s.test := rfl
@[simp] theorem State.setPort_scrub (i : Nat) (d : Port) : (s.setPort i d).scrub = s.scrub := rfl

@[simp] theorem State.putSeq_pending (q : Nat) (x : Seq) : (s.putSeq q x).pending = s.pending := rfl
@[simp] theorem State.putSeq_now (q : Nat) (x : Seq) : (s.putSeq q x).now = s.now := rfl
@[simp] theorem State.putSeq_gts (q : Nat) (x : Seq) : (s.putSeq q x).gts = s.gts := rfl
@[simp] theorem State.putSeq_gtsPart (q : Nat) (x : Seq) : (s.putSeq q x).gtsPart = s.gtsPart := rfl
@[simp] theorem State.putSeq_uid (q : Nat) (x : Seq) : (s.putSeq q x).uid = s.uid := rfl
@[simp] theorem State.putSeq_free (q : Nat) (x : Seq) : (s.putSeq q x).free = s.free := rfl
@[simp] theorem State.putSeq_regs (q : Nat) (x : Seq) : (s.putSeq q x).regs = s.regs := rfl
@[simp] theorem State.putSeq_active (q : Nat) (x : Seq) : (s.putSeq q x).active = s.active := rfl
@[simp] theorem State.putSeq_rwl (q : Nat) (x : Seq) : (s.putSeq q x).rwl = s.rwl := rfl
@[simp] theorem State.putSeq_pages (q : Nat) (x : Seq) : (s.putSeq q x).pages = s.pages := rfl
@[simp] theorem State.putSeq_host (q : Nat) (x : Seq) : (s.putSeq q x).host = s.host := rfl
@[simp] theorem State.putSeq_boot (q : Nat) (x : Seq) : (s.putSeq q x).boot = s.boot := rfl
@[simp] theorem State.putSeq_evr (q : Nat) (x : Seq) : (s.putSeq q x).evr = s.evr := rfl
@[simp] theorem State.putSeq_mem (q : Nat) (x : Seq) : (s.putSeq q x).mem = s.mem := rfl
@[simp] theorem State.putSeq_poison (q : Nat) (x : Seq) : (s.putSeq q x).poison = s.poison := rfl
@[simp] theorem State.putSeq_bay (q : Nat) (x : Seq) : (s.putSeq q x).bay = s.bay := rfl
@[simp] theorem State.putSeq_bayGen (q : Nat) (x : Seq) : (s.putSeq q x).bayGen = s.bayGen := rfl
@[simp] theorem State.putSeq_latent (q : Nat) (x : Seq) : (s.putSeq q x).latent = s.latent := rfl
@[simp] theorem State.putSeq_ctxs (q : Nat) (x : Seq) : (s.putSeq q x).ctxs = s.ctxs := rfl
@[simp] theorem State.putSeq_notices (q : Nat) (x : Seq) : (s.putSeq q x).notices = s.notices := rfl
@[simp] theorem State.putSeq_regionJobs (q : Nat) (x : Seq) : (s.putSeq q x).regionJobs = s.regionJobs := rfl
@[simp] theorem State.putSeq_regionHolds (q : Nat) (x : Seq) : (s.putSeq q x).regionHolds = s.regionHolds := rfl
@[simp] theorem State.putSeq_sbox (q : Nat) (x : Seq) : (s.putSeq q x).sbox = s.sbox := rfl
@[simp] theorem State.putSeq_cores (q : Nat) (x : Seq) : (s.putSeq q x).cores = s.cores := rfl
@[simp] theorem State.putSeq_images (q : Nat) (x : Seq) : (s.putSeq q x).images = s.images := rfl
@[simp] theorem State.putSeq_sliceClears (q : Nat) (x : Seq) : (s.putSeq q x).sliceClears = s.sliceClears := rfl
@[simp] theorem State.putSeq_cutOff (q : Nat) (x : Seq) : (s.putSeq q x).cutOff = s.cutOff := rfl
@[simp] theorem State.putSeq_yard (q : Nat) (x : Seq) : (s.putSeq q x).yard = s.yard := rfl
@[simp] theorem State.putSeq_media (q : Nat) (x : Seq) : (s.putSeq q x).media = s.media := rfl
@[simp] theorem State.putSeq_scan (q : Nat) (x : Seq) : (s.putSeq q x).scan = s.scan := rfl
@[simp] theorem State.putSeq_smp (q : Nat) (x : Seq) : (s.putSeq q x).smp = s.smp := rfl
@[simp] theorem State.putSeq_pwr (q : Nat) (x : Seq) : (s.putSeq q x).pwr = s.pwr := rfl
@[simp] theorem State.putSeq_pins (q : Nat) (x : Seq) : (s.putSeq q x).pins = s.pins := rfl
@[simp] theorem State.putSeq_kl (q : Nat) (x : Seq) : (s.putSeq q x).kl = s.kl := rfl
@[simp] theorem State.putSeq_sync (q : Nat) (x : Seq) : (s.putSeq q x).sync = s.sync := rfl
@[simp] theorem State.putSeq_cpl (q : Nat) (x : Seq) : (s.putSeq q x).cpl = s.cpl := rfl
@[simp] theorem State.putSeq_test (q : Nat) (x : Seq) : (s.putSeq q x).test = s.test := rfl
@[simp] theorem State.putSeq_scrub (q : Nat) (x : Seq) : (s.putSeq q x).scrub = s.scrub := rfl

@[simp] theorem State.putImage_pending (k : Nat) (m : Image) : (s.putImage k m).pending = s.pending := rfl
@[simp] theorem State.putImage_now (k : Nat) (m : Image) : (s.putImage k m).now = s.now := rfl
@[simp] theorem State.putImage_gts (k : Nat) (m : Image) : (s.putImage k m).gts = s.gts := rfl
@[simp] theorem State.putImage_gtsPart (k : Nat) (m : Image) : (s.putImage k m).gtsPart = s.gtsPart := rfl
@[simp] theorem State.putImage_uid (k : Nat) (m : Image) : (s.putImage k m).uid = s.uid := rfl
@[simp] theorem State.putImage_free (k : Nat) (m : Image) : (s.putImage k m).free = s.free := rfl
@[simp] theorem State.putImage_regs (k : Nat) (m : Image) : (s.putImage k m).regs = s.regs := rfl
@[simp] theorem State.putImage_active (k : Nat) (m : Image) : (s.putImage k m).active = s.active := rfl
@[simp] theorem State.putImage_rwl (k : Nat) (m : Image) : (s.putImage k m).rwl = s.rwl := rfl
@[simp] theorem State.putImage_pages (k : Nat) (m : Image) : (s.putImage k m).pages = s.pages := rfl
@[simp] theorem State.putImage_host (k : Nat) (m : Image) : (s.putImage k m).host = s.host := rfl
@[simp] theorem State.putImage_boot (k : Nat) (m : Image) : (s.putImage k m).boot = s.boot := rfl
@[simp] theorem State.putImage_evr (k : Nat) (m : Image) : (s.putImage k m).evr = s.evr := rfl
@[simp] theorem State.putImage_mem (k : Nat) (m : Image) : (s.putImage k m).mem = s.mem := rfl
@[simp] theorem State.putImage_poison (k : Nat) (m : Image) : (s.putImage k m).poison = s.poison := rfl
@[simp] theorem State.putImage_bay (k : Nat) (m : Image) : (s.putImage k m).bay = s.bay := rfl
@[simp] theorem State.putImage_bayGen (k : Nat) (m : Image) : (s.putImage k m).bayGen = s.bayGen := rfl
@[simp] theorem State.putImage_latent (k : Nat) (m : Image) : (s.putImage k m).latent = s.latent := rfl
@[simp] theorem State.putImage_ctxs (k : Nat) (m : Image) : (s.putImage k m).ctxs = s.ctxs := rfl
@[simp] theorem State.putImage_notices (k : Nat) (m : Image) : (s.putImage k m).notices = s.notices := rfl
@[simp] theorem State.putImage_regionJobs (k : Nat) (m : Image) : (s.putImage k m).regionJobs = s.regionJobs := rfl
@[simp] theorem State.putImage_regionHolds (k : Nat) (m : Image) : (s.putImage k m).regionHolds = s.regionHolds := rfl
@[simp] theorem State.putImage_sbox (k : Nat) (m : Image) : (s.putImage k m).sbox = s.sbox := rfl
@[simp] theorem State.putImage_cores (k : Nat) (m : Image) : (s.putImage k m).cores = s.cores := rfl
@[simp] theorem State.putImage_images (k : Nat) (m : Image) : (s.putImage k m).images = s.images.put k m := rfl
@[simp] theorem State.putImage_sliceClears (k : Nat) (m : Image) : (s.putImage k m).sliceClears = s.sliceClears := rfl
@[simp] theorem State.putImage_cutOff (k : Nat) (m : Image) : (s.putImage k m).cutOff = s.cutOff := rfl
@[simp] theorem State.putImage_yard (k : Nat) (m : Image) : (s.putImage k m).yard = s.yard := rfl
@[simp] theorem State.putImage_text (k : Nat) (m : Image) : (s.putImage k m).text = s.text := rfl
@[simp] theorem State.putImage_media (k : Nat) (m : Image) : (s.putImage k m).media = s.media := rfl
@[simp] theorem State.putImage_scan (k : Nat) (m : Image) : (s.putImage k m).scan = s.scan := rfl
@[simp] theorem State.putImage_smp (k : Nat) (m : Image) : (s.putImage k m).smp = s.smp := rfl
@[simp] theorem State.putImage_pwr (k : Nat) (m : Image) : (s.putImage k m).pwr = s.pwr := rfl
@[simp] theorem State.putImage_pins (k : Nat) (m : Image) : (s.putImage k m).pins = s.pins := rfl
@[simp] theorem State.putImage_kl (k : Nat) (m : Image) : (s.putImage k m).kl = s.kl := rfl
@[simp] theorem State.putImage_sync (k : Nat) (m : Image) : (s.putImage k m).sync = s.sync := rfl
@[simp] theorem State.putImage_cpl (k : Nat) (m : Image) : (s.putImage k m).cpl = s.cpl := rfl
@[simp] theorem State.putImage_test (k : Nat) (m : Image) : (s.putImage k m).test = s.test := rfl
@[simp] theorem State.putImage_scrub (k : Nat) (m : Image) : (s.putImage k m).scrub = s.scrub := rfl

@[simp] theorem State.updGang_pending (u : Nat) (f : Gang → Gang) : (s.updGang u f).pending = s.pending := rfl
@[simp] theorem State.updGang_now (u : Nat) (f : Gang → Gang) : (s.updGang u f).now = s.now := rfl
@[simp] theorem State.updGang_gts (u : Nat) (f : Gang → Gang) : (s.updGang u f).gts = s.gts := rfl
@[simp] theorem State.updGang_gtsPart (u : Nat) (f : Gang → Gang) : (s.updGang u f).gtsPart = s.gtsPart := rfl
@[simp] theorem State.updGang_uid (u : Nat) (f : Gang → Gang) : (s.updGang u f).uid = s.uid := rfl
@[simp] theorem State.updGang_free (u : Nat) (f : Gang → Gang) : (s.updGang u f).free = s.free := rfl
@[simp] theorem State.updGang_regs (u : Nat) (f : Gang → Gang) : (s.updGang u f).regs = s.regs := rfl
@[simp] theorem State.updGang_active (u : Nat) (f : Gang → Gang) : (s.updGang u f).active = s.active := rfl
@[simp] theorem State.updGang_rwl (u : Nat) (f : Gang → Gang) : (s.updGang u f).rwl = s.rwl := rfl
@[simp] theorem State.updGang_pages (u : Nat) (f : Gang → Gang) : (s.updGang u f).pages = s.pages := rfl
@[simp] theorem State.updGang_host (u : Nat) (f : Gang → Gang) : (s.updGang u f).host = s.host := rfl
@[simp] theorem State.updGang_boot (u : Nat) (f : Gang → Gang) : (s.updGang u f).boot = s.boot := rfl
@[simp] theorem State.updGang_evr (u : Nat) (f : Gang → Gang) : (s.updGang u f).evr = s.evr := rfl
@[simp] theorem State.updGang_mem (u : Nat) (f : Gang → Gang) : (s.updGang u f).mem = s.mem := rfl
@[simp] theorem State.updGang_poison (u : Nat) (f : Gang → Gang) : (s.updGang u f).poison = s.poison := rfl
@[simp] theorem State.updGang_bay (u : Nat) (f : Gang → Gang) : (s.updGang u f).bay = s.bay := rfl
@[simp] theorem State.updGang_bayGen (u : Nat) (f : Gang → Gang) : (s.updGang u f).bayGen = s.bayGen := rfl
@[simp] theorem State.updGang_latent (u : Nat) (f : Gang → Gang) : (s.updGang u f).latent = s.latent := rfl
@[simp] theorem State.updGang_ctxs (u : Nat) (f : Gang → Gang) : (s.updGang u f).ctxs = s.ctxs := rfl
@[simp] theorem State.updGang_notices (u : Nat) (f : Gang → Gang) : (s.updGang u f).notices = s.notices := rfl
@[simp] theorem State.updGang_regionJobs (u : Nat) (f : Gang → Gang) : (s.updGang u f).regionJobs = s.regionJobs := rfl
@[simp] theorem State.updGang_regionHolds (u : Nat) (f : Gang → Gang) : (s.updGang u f).regionHolds = s.regionHolds := rfl
@[simp] theorem State.updGang_cores (u : Nat) (f : Gang → Gang) : (s.updGang u f).cores = s.cores := rfl
@[simp] theorem State.updGang_images (u : Nat) (f : Gang → Gang) : (s.updGang u f).images = s.images := rfl
@[simp] theorem State.updGang_sliceClears (u : Nat) (f : Gang → Gang) : (s.updGang u f).sliceClears = s.sliceClears := rfl
@[simp] theorem State.updGang_cutOff (u : Nat) (f : Gang → Gang) : (s.updGang u f).cutOff = s.cutOff := rfl
@[simp] theorem State.updGang_yard (u : Nat) (f : Gang → Gang) : (s.updGang u f).yard = s.yard := rfl
@[simp] theorem State.updGang_text (u : Nat) (f : Gang → Gang) : (s.updGang u f).text = s.text := rfl
@[simp] theorem State.updGang_media (u : Nat) (f : Gang → Gang) : (s.updGang u f).media = s.media := rfl
@[simp] theorem State.updGang_scan (u : Nat) (f : Gang → Gang) : (s.updGang u f).scan = s.scan := rfl
@[simp] theorem State.updGang_smp (u : Nat) (f : Gang → Gang) : (s.updGang u f).smp = s.smp := rfl
@[simp] theorem State.updGang_pwr (u : Nat) (f : Gang → Gang) : (s.updGang u f).pwr = s.pwr := rfl
@[simp] theorem State.updGang_pins (u : Nat) (f : Gang → Gang) : (s.updGang u f).pins = s.pins := rfl
@[simp] theorem State.updGang_kl (u : Nat) (f : Gang → Gang) : (s.updGang u f).kl = s.kl := rfl
@[simp] theorem State.updGang_sync (u : Nat) (f : Gang → Gang) : (s.updGang u f).sync = s.sync := rfl
@[simp] theorem State.updGang_cpl (u : Nat) (f : Gang → Gang) : (s.updGang u f).cpl = s.cpl := rfl
@[simp] theorem State.updGang_test (u : Nat) (f : Gang → Gang) : (s.updGang u f).test = s.test := rfl
@[simp] theorem State.updGang_scrub (u : Nat) (f : Gang → Gang) : (s.updGang u f).scrub = s.scrub := rfl

end Sys2Proof.Machine
end

