-- ==== Sys2Proof/Laws/Regs.lean ====
section
/-! SUPPORT. Reading back what a table, a field or a register was given. -/

namespace Sys2Proof.Machine

theorem Tbl.look_put {α : Type} (t : Tbl α) (d : α) (k j : Nat) (v : α) :
    (t.put k v).look d j = if k = j then v else t.look d j := by
  induction t with
  | nil => simp [Tbl.put, Tbl.look]
  | cons e r ih =>
    obtain ⟨i, w⟩ := e
    unfold Tbl.put
    by_cases h : i = k
    · subst h; simp only [if_true, Tbl.look]; split <;> rfl
    · simp only [h, if_false, Tbl.look, ih]
      by_cases hij : i = j
      · simp [hij, show k ≠ j from fun hk => h (hij.trans hk.symm)]
      · simp [hij]

@[simp] theorem Tbl.look_put_same {α : Type} (t : Tbl α) (d : α) (k : Nat) (v : α) :
    (t.put k v).look d k = v := by simp [Tbl.look_put]

theorem Tbl.look_put_other {α : Type} (t : Tbl α) (d : α) {k j : Nat} (v : α) (h : k ≠ j) :
    (t.put k v).look d j = t.look d j := by simp [Tbl.look_put, h]

theorem Tbl.look?_put {α : Type} (t : Tbl α) (k j : Nat) (v : α) :
    (t.put k v).look? j = if k = j then some v else t.look? j := by
  induction t with
  | nil => simp [Tbl.put, Tbl.look?]
  | cons e r ih =>
    obtain ⟨i, w⟩ := e
    unfold Tbl.put
    by_cases h : i = k
    · subst h; simp only [if_true, Tbl.look?]; split <;> rfl
    · simp only [h, if_false, Tbl.look?, ih]
      by_cases hij : i = j
      · simp [hij, show k ≠ j from fun hk => h (hij.trans hk.symm)]
      · simp [hij]

theorem State.rd_wr (s : State) (a b : Nat) (v : Word) : (s.wr a v).rd b = if a = b then v else s.rd b := by
  unfold State.rd State.wr
  rw [Tbl.look_put]

@[simp] theorem State.rd_wr_same (s : State) (a : Nat) (v : Word) : (s.wr a v).rd a = v := by simp [State.rd_wr]

theorem State.rd_wr_other (s : State) {a b : Nat} (v : Word) (h : a ≠ b) : (s.wr a v).rd b = s.rd b := by
  simp [State.rd_wr, h]

theorem bitsOf_withBits (v : Word) (lo w n : Nat) (h : lo + w ≤ 32) :
    bitsOf (withBits v lo w n) lo w = n % 2 ^ w := by
  unfold bitsOf withBits
  have e : v.toNat % 2 ^ lo + n % 2 ^ w * 2 ^ lo + v.toNat / 2 ^ (lo + w) * 2 ^ (lo + w)
      = v.toNat % 2 ^ lo + 2 ^ lo * (n % 2 ^ w + 2 ^ w * (v.toNat / 2 ^ (lo + w))) := by ring
  have hlo : v.toNat % 2 ^ lo < 2 ^ lo := Nat.mod_lt _ (by positivity)
  have hw : n % 2 ^ w < 2 ^ w := Nat.mod_lt _ (by positivity)
  have split32 : (2 : Nat) ^ 32 = 2 ^ lo * (2 ^ w * 2 ^ (32 - (lo + w))) := by
    rw [← mul_assoc, ← pow_add, ← pow_add]; congr 1; omega
  rw [BitVec.toNat_ofNat, e, split32, Nat.mod_mul_right_div_self, Nat.add_mul_div_left _ _ (by positivity),
    Nat.div_eq_of_lt hlo, zero_add, Nat.mod_mul_right_mod, Nat.add_mul_mod_self_left, Nat.mod_eq_of_lt hw]

theorem State.fld_setFld (s : State) (a lo w n : Nat) (h : lo + w ≤ 32) :
    (s.setFld a lo w n).fld a lo w = n % 2 ^ w := by
  simp [State.fld, State.setFld, bitsOf_withBits _ _ _ _ h]

theorem State.fld_wr_other (s : State) {a b : Nat} (v : Word) (lo w : Nat) (h : a ≠ b) :
    (s.wr a v).fld b lo w = s.fld b lo w := by simp [State.fld, State.rd_wr_other _ _ h]

theorem State.rd_setFld_other (s : State) {a b : Nat} (lo w n : Nat) (h : a ≠ b) :
    (s.setFld a lo w n).rd b = s.rd b := by simp [State.setFld, State.rd_wr_other _ _ h]

theorem State.fld_setFld_other (s : State) {a b : Nat} (lo w n l2 w2 : Nat) (h : a ≠ b) :
    (s.setFld a lo w n).fld b l2 w2 = s.fld b l2 w2 := by simp [State.fld, State.rd_setFld_other _ _ _ _ h]

/-- A field apart from the one written keeps its bits. -/
theorem bitsOf_withBits_apart (v : Word) (lo w n l2 w2 : Nat) (h : lo + w ≤ 32)
    (d : lo + w ≤ l2 ∨ l2 + w2 ≤ lo) : bitsOf (withBits v lo w n) l2 w2 = bitsOf v l2 w2 := by
  unfold bitsOf withBits
  have hv := v.isLt
  have hlo : v.toNat % 2 ^ lo < 2 ^ lo := Nat.mod_lt _ (by positivity)
  have hn : n % 2 ^ w < 2 ^ w := Nat.mod_lt _ (by positivity)
  have p1 : n % 2 ^ w * 2 ^ lo + 2 ^ lo ≤ 2 ^ w * 2 ^ lo := by
    have := Nat.mul_le_mul_right (2 ^ lo) (Nat.succ_le_of_lt hn)
    rwa [Nat.succ_mul] at this
  have hb : v.toNat % 2 ^ lo + n % 2 ^ w * 2 ^ lo + v.toNat / 2 ^ (lo + w) * 2 ^ (lo + w) < 2 ^ 32 := by
    have q : v.toNat / 2 ^ (lo + w) < 2 ^ (32 - (lo + w)) := by
      rw [Nat.div_lt_iff_lt_mul (by positivity), ← pow_add]
      convert hv using 2; omega
    have e : (2 : Nat) ^ 32 = 2 ^ (32 - (lo + w)) * (2 ^ w * 2 ^ lo) := by
      rw [← pow_add, ← pow_add]; congr 1; omega
    rw [e, pow_add, mul_comm (2 ^ lo) (2 ^ w)]
    rw [pow_add, mul_comm (2 ^ lo) (2 ^ w)] at q
    have p2 := Nat.mul_le_mul_right (2 ^ w * 2 ^ lo) (Nat.succ_le_of_lt q)
    rw [Nat.succ_mul] at p2
    omega
  rw [BitVec.toNat_ofNat, Nat.mod_eq_of_lt hb]
  rcases d with d | d
  · have e1 : (v.toNat % 2 ^ lo + n % 2 ^ w * 2 ^ lo + v.toNat / 2 ^ (lo + w) * 2 ^ (lo + w)) / 2 ^ (lo + w)
        = v.toNat / 2 ^ (lo + w) := by
      rw [mul_comm (v.toNat / _), Nat.add_mul_div_left _ _ (by positivity), Nat.div_eq_of_lt, zero_add]
      rw [pow_add, mul_comm (2 ^ lo)]; omega
    have e2 : (2 : Nat) ^ l2 = 2 ^ (lo + w) * 2 ^ (l2 - (lo + w)) := by rw [← pow_add]; congr 1; omega
    rw [e2, ← Nat.div_div_eq_div_mul, e1, Nat.div_div_eq_div_mul]
  · have e2 : (2 : Nat) ^ lo = 2 ^ l2 * (2 ^ w2 * 2 ^ (lo - l2 - w2)) := by
      rw [← pow_add, ← pow_add]; congr 1; omega
    have key : ∀ x y : Nat, (x % 2 ^ lo + y * 2 ^ lo) / 2 ^ l2 % 2 ^ w2 = x / 2 ^ l2 % 2 ^ w2 := by
      intro x y
      rw [e2, mul_comm y, mul_assoc, mul_assoc, Nat.add_mul_div_left _ _ (by positivity), Nat.add_mul_mod_self_left,
        Nat.mod_mul_right_div_self, Nat.mod_mul_right_mod]
    have e3 : v.toNat % 2 ^ lo + n % 2 ^ w * 2 ^ lo + v.toNat / 2 ^ (lo + w) * 2 ^ (lo + w)
        = v.toNat % 2 ^ lo + (n % 2 ^ w + v.toNat / 2 ^ (lo + w) * 2 ^ w) * 2 ^ lo := by
      rw [pow_add]; ring
    rw [e3, key]

theorem State.fld_setFld_apart (s : State) (a lo w n l2 w2 : Nat) (h : lo + w ≤ 32)
    (d : lo + w ≤ l2 ∨ l2 + w2 ≤ lo) : (s.setFld a lo w n).fld a l2 w2 = s.fld a l2 w2 := by
  simp [State.fld, State.setFld, bitsOf_withBits_apart _ _ _ _ _ _ h d]

@[simp] theorem State.page_setPage_same (s : State) (k : Nat) (p : Page) : (s.setPage k p).page k = p := by
  simp [State.page]

theorem State.page_setPage_other (s : State) {k j : Nat} (p : Page) (h : k ≠ j) : (s.setPage k p).page j = s.page j := by
  simp [State.page, Tbl.look_put_other _ _ _ h]

@[simp] theorem State.ctx_setCtx_same (s : State) (n : Nat) (c : Ctx) : (s.setCtx n c).ctx n = c := by
  simp [State.ctx]

@[simp] theorem State.core_setCore_same (s : State) (c : Nat) (k : Core) : (s.setCore c k).core c = k := by
  simp [State.core]

/-- What depends on the registers alone is the same for two states with the same registers. -/
theorem State.rd_congr {s t : State} (h : s.regs = t.regs) (a : Nat) : s.rd a = t.rd a := by simp [State.rd, h]

theorem State.fld_congr {s t : State} (h : s.regs = t.regs) (a lo w : Nat) : s.fld a lo w = t.fld a lo w := by
  simp [State.fld, State.rd_congr h]

end Sys2Proof.Machine
end

