-- ==== Sys2Proof/Laws/Events.lean ====
section
/-! SUPPORT. What raising an event and reporting a completion can change: the spec lemmas of State.raise,
State.complete, State.completeMore and State.notify. -/

namespace Sys2Proof.Machine

variable (s : State)

/-- Only the two words of the recorder that count drops differ. -/
def dropRegs (r q : Tbl Word) : Prop :=
  ∀ (d : Word) (a : Nat), a ≠ ro .evr 0 0x60 → a ≠ ro .evr 0 0x58 → Tbl.look q d a = Tbl.look r d a

theorem dropRegs_refl (r : Tbl Word) : dropRegs r r := fun _ _ _ _ => rfl

theorem dropRegs_countDrop : dropRegs s.regs s.countDrop.regs := by
  intro d a h1 h2
  simp only [State.countDrop, State.addSat, State.setFld_regs]
  rw [Tbl.look_put_other _ _ _ (Ne.symm h2), Tbl.look_put_other _ _ _ (Ne.symm h1)]

/-- A page keeps everything but what an event sets: PG_EV_RAW and PG_GTS (02 R62). -/
def pageKept (p q : Page) : Prop := ∃ w g, q = { p with evRaw := w, evGts := g }

theorem pageKept_refl (p : Page) : pageKept p p := ⟨_, _, rfl⟩

theorem pageKept_trans {p q r : Page} (h : pageKept p q) (k : pageKept q r) : pageKept p r := by
  obtain ⟨w, g, rfl⟩ := h
  obtain ⟨w', g', rfl⟩ := k
  exact ⟨_, _, rfl⟩

/-- The last answers to the host stand. -/
def answersKept (h k : HostSide) : Prop :=
  k.answer = h.answer ∧ k.bar4Data = h.bar4Data ∧ k.bar4Poisoned = h.bar4Poisoned

/-- What an event may change: the page headers, the recorder, the MSI-X side, the pins, and the drop counter. -/
def State.touched (t : State) : Prop :=
  ∃ r g e h p, t = { s with regs := r, pages := g, evr := e, host := h, pins := p } ∧ dropRegs s.regs r ∧
    (∀ k, pageKept (s.page k) (t.page k)) ∧ answersKept s.host h

theorem answersKept_refl (h : HostSide) : answersKept h h := ⟨rfl, rfl, rfl⟩

theorem State.touched_refl : s.touched s :=
  ⟨_, _, _, _, _, rfl, dropRegs_refl _, fun _ => pageKept_refl _, answersKept_refl _⟩

theorem dropRegs_trans {a b c : Tbl Word} (h : dropRegs a b) (k : dropRegs b c) : dropRegs a c :=
  fun d x p q => (k d x p q).trans (h d x p q)

theorem State.touched_trans {s t u : State} (h : s.touched t) (k : t.touched u) : s.touched u := by
  obtain ⟨r, g, e, x, p, rfl, hr, hg, ha⟩ := h
  obtain ⟨r', g', e', x', p', rfl, hr', hg', ha'⟩ := k
  refine ⟨r', g', e', x', p', rfl, dropRegs_trans hr hr', fun k => pageKept_trans (hg k) (hg' k), ?_⟩
  exact ⟨ha'.1.trans ha.1, ha'.2.1.trans ha.2.1, ha'.2.2.trans ha.2.2⟩

theorem State.sendMsi_touched (fn vec : Nat) : s.touched (s.sendMsi fn vec) := by
  unfold State.sendMsi
  dsimp only
  split <;> exact ⟨_, _, _, _, _, rfl, dropRegs_refl _, fun _ => pageKept_refl _, ⟨rfl, rfl, rfl⟩⟩

theorem State.setPage_touched (k : Nat) (p : Page) (h : pageKept (s.page k) p) : s.touched (s.setPage k p) := by
  refine ⟨_, _, _, _, _, rfl, dropRegs_refl _, fun j => ?_, answersKept_refl _⟩
  by_cases hj : k = j
  · subst hj; rw [State.page_setPage_same]; exact h
  · rw [State.page_setPage_other _ _ hj]; exact pageKept_refl _

theorem State.setPageEv_touched (k : Nat) (p : Page) (h : pageKept (s.page k) p) : s.touched (s.setPageEv k p) := by
  unfold State.setPageEv
  dsimp only
  split
  · exact State.touched_trans (s.setPage_touched k p h) (State.sendMsi_touched _ _ _)
  · exact s.setPage_touched k p h

theorem State.markEvent_touched (src code : Nat) : s.touched (s.markEvent src code) := by
  unfold State.markEvent
  split
  · exact s.setPageEv_touched _ _ ⟨_, _, rfl⟩
  · exact s.touched_refl

theorem State.pulse_touched (code : Nat) : s.touched (s.pulse code) := by
  unfold State.pulse
  split
  · exact ⟨_, _, _, _, _, rfl, dropRegs_refl _, fun _ => pageKept_refl _, answersKept_refl _⟩
  · exact s.touched_refl

theorem State.countDrop_touched : s.touched s.countDrop :=
  ⟨s.countDrop.regs, _, _, _, _, rfl, dropRegs_countDrop s, fun _ => pageKept_refl _, answersKept_refl _⟩

theorem State.pushIntake_touched (p : Place) (e : Event) : s.touched (s.pushIntake p e) :=
  ⟨_, _, _, _, _, rfl, dropRegs_refl _, fun _ => pageKept_refl _, answersKept_refl _⟩

theorem State.offer_touched (e : Event) : s.touched (s.offer e) := by
  unfold State.offer
  dsimp only
  split
  · exact s.pushIntake_touched _ _
  · split
    · split
      · split
        · exact s.pushIntake_touched _ _
        · refine State.touched_trans ?_ (State.pushIntake_touched _ _ _)
          refine State.touched_trans ?_ (State.countDrop_touched _)
          exact ⟨_, _, _, _, _, rfl, dropRegs_refl _, fun _ => pageKept_refl _, answersKept_refl _⟩
      · split
        · exact s.pushIntake_touched _ _
        · exact ⟨_, _, _, _, _, rfl, dropRegs_refl _, fun _ => pageKept_refl _, answersKept_refl _⟩
    · split
      · exact s.pushIntake_touched _ _
      · exact s.countDrop_touched

/-- Everything that raising an event can change. -/
theorem State.raise_touched (src code : Nat) (data : List EvVal) (ctx func : Nat) :
    s.touched (s.raise src code data ctx func) := by
  unfold State.raise
  exact State.touched_trans (State.touched_trans (s.markEvent_touched _ _) (State.pulse_touched _ _))
    (State.offer_touched _ _)

@[simp] theorem State.raise_pending (src code : Nat) (data : List EvVal) (ctx func : Nat) :
    (s.raise src code data ctx func).pending = s.pending := by
  obtain ⟨r, g, e, h, p, he, -⟩ := s.raise_touched src code data ctx func
  rw [he]

@[simp] theorem State.raise_now (src code : Nat) (data : List EvVal) (ctx func : Nat) :
    (s.raise src code data ctx func).now = s.now := by
  obtain ⟨r, g, e, h, p, he, -⟩ := s.raise_touched src code data ctx func
  rw [he]

@[simp] theorem State.raise_gts (src code : Nat) (data : List EvVal) (ctx func : Nat) :
    (s.raise src code data ctx func).gts = s.gts := by
  obtain ⟨r, g, e, h, p, he, -⟩ := s.raise_touched src code data ctx func
  rw [he]

@[simp] theorem State.raise_gtsPart (src code : Nat) (data : List EvVal) (ctx func : Nat) :
    (s.raise src code data ctx func).gtsPart = s.gtsPart := by
  obtain ⟨r, g, e, h, p, he, -⟩ := s.raise_touched src code data ctx func
  rw [he]

@[simp] theorem State.raise_uid (src code : Nat) (data : List EvVal) (ctx func : Nat) :
    (s.raise src code data ctx func).uid = s.uid := by
  obtain ⟨r, g, e, h, p, he, -⟩ := s.raise_touched src code data ctx func
  rw [he]

@[simp] theorem State.raise_free (src code : Nat) (data : List EvVal) (ctx func : Nat) :
    (s.raise src code data ctx func).free = s.free := by
  obtain ⟨r, g, e, h, p, he, -⟩ := s.raise_touched src code data ctx func
  rw [he]

@[simp] theorem State.raise_active (src code : Nat) (data : List EvVal) (ctx func : Nat) :
    (s.raise src code data ctx func).active = s.active := by
  obtain ⟨r, g, e, h, p, he, -⟩ := s.raise_touched src code data ctx func
  rw [he]

@[simp] theorem State.raise_rwl (src code : Nat) (data : List EvVal) (ctx func : Nat) :
    (s.raise src code data ctx func).rwl = s.rwl := by
  obtain ⟨r, g, e, h, p, he, -⟩ := s.raise_touched src code data ctx func
  rw [he]

@[simp] theorem State.raise_boot (src code : Nat) (data : List EvVal) (ctx func : Nat) :
    (s.raise src code data ctx func).boot = s.boot := by
  obtain ⟨r, g, e, h, p, he, -⟩ := s.raise_touched src code data ctx func
  rw [he]

@[simp] theorem State.raise_mem (src code : Nat) (data : List EvVal) (ctx func : Nat) :
    (s.raise src code data ctx func).mem = s.mem := by
  obtain ⟨r, g, e, h, p, he, -⟩ := s.raise_touched src code data ctx func
  rw [he]

@[simp] theorem State.raise_poison (src code : Nat) (data : List EvVal) (ctx func : Nat) :
    (s.raise src code data ctx func).poison = s.poison := by
  obtain ⟨r, g, e, h, p, he, -⟩ := s.raise_touched src code data ctx func
  rw [he]

@[simp] theorem State.raise_bay (src code : Nat) (data : List EvVal) (ctx func : Nat) :
    (s.raise src code data ctx func).bay = s.bay := by
  obtain ⟨r, g, e, h, p, he, -⟩ := s.raise_touched src code data ctx func
  rw [he]

@[simp] theorem State.raise_bayGen (src code : Nat) (data : List EvVal) (ctx func : Nat) :
    (s.raise src code data ctx func).bayGen = s.bayGen := by
  obtain ⟨r, g, e, h, p, he, -⟩ := s.raise_touched src code data ctx func
  rw [he]

@[simp] theorem State.raise_latent (src code : Nat) (data : List EvVal) (ctx func : Nat) :
    (s.raise src code data ctx func).latent = s.latent := by
  obtain ⟨r, g, e, h, p, he, -⟩ := s.raise_touched src code data ctx func
  rw [he]

@[simp] theorem State.raise_ctxs (src code : Nat) (data : List EvVal) (ctx func : Nat) :
    (s.raise src code data ctx func).ctxs = s.ctxs := by
  obtain ⟨r, g, e, h, p, he, -⟩ := s.raise_touched src code data ctx func
  rw [he]

@[simp] theorem State.raise_notices (src code : Nat) (data : List EvVal) (ctx func : Nat) :
    (s.raise src code data ctx func).notices = s.notices := by
  obtain ⟨r, g, e, h, p, he, -⟩ := s.raise_touched src code data ctx func
  rw [he]

@[simp] theorem State.raise_regionJobs (src code : Nat) (data : List EvVal) (ctx func : Nat) :
    (s.raise src code data ctx func).regionJobs = s.regionJobs := by
  obtain ⟨r, g, e, h, p, he, -⟩ := s.raise_touched src code data ctx func
  rw [he]

@[simp] theorem State.raise_regionHolds (src code : Nat) (data : List EvVal) (ctx func : Nat) :
    (s.raise src code data ctx func).regionHolds = s.regionHolds := by
  obtain ⟨r, g, e, h, p, he, -⟩ := s.raise_touched src code data ctx func
  rw [he]

@[simp] theorem State.raise_sbox (src code : Nat) (data : List EvVal) (ctx func : Nat) :
    (s.raise src code data ctx func).sbox = s.sbox := by
  obtain ⟨r, g, e, h, p, he, -⟩ := s.raise_touched src code data ctx func
  rw [he]

@[simp] theorem State.raise_cores (src code : Nat) (data : List EvVal) (ctx func : Nat) :
    (s.raise src code data ctx func).cores = s.cores := by
  obtain ⟨r, g, e, h, p, he, -⟩ := s.raise_touched src code data ctx func
  rw [he]

@[simp] theorem State.raise_images (src code : Nat) (data : List EvVal) (ctx func : Nat) :
    (s.raise src code data ctx func).images = s.images := by
  obtain ⟨r, g, e, h, p, he, -⟩ := s.raise_touched src code data ctx func
  rw [he]

@[simp] theorem State.raise_sliceClears (src code : Nat) (data : List EvVal) (ctx func : Nat) :
    (s.raise src code data ctx func).sliceClears = s.sliceClears := by
  obtain ⟨r, g, e, h, p, he, -⟩ := s.raise_touched src code data ctx func
  rw [he]

@[simp] theorem State.raise_cutOff (src code : Nat) (data : List EvVal) (ctx func : Nat) :
    (s.raise src code data ctx func).cutOff = s.cutOff := by
  obtain ⟨r, g, e, h, p, he, -⟩ := s.raise_touched src code data ctx func
  rw [he]

@[simp] theorem State.raise_yard (src code : Nat) (data : List EvVal) (ctx func : Nat) :
    (s.raise src code data ctx func).yard = s.yard := by
  obtain ⟨r, g, e, h, p, he, -⟩ := s.raise_touched src code data ctx func
  rw [he]

@[simp] theorem State.raise_text (src code : Nat) (data : List EvVal) (ctx func : Nat) :
    (s.raise src code data ctx func).text = s.text := by
  obtain ⟨r, g, e, h, p, he, -⟩ := s.raise_touched src code data ctx func
  rw [he]

@[simp] theorem State.raise_media (src code : Nat) (data : List EvVal) (ctx func : Nat) :
    (s.raise src code data ctx func).media = s.media := by
  obtain ⟨r, g, e, h, p, he, -⟩ := s.raise_touched src code data ctx func
  rw [he]

@[simp] theorem State.raise_scan (src code : Nat) (data : List EvVal) (ctx func : Nat) :
    (s.raise src code data ctx func).scan = s.scan := by
  obtain ⟨r, g, e, h, p, he, -⟩ := s.raise_touched src code data ctx func
  rw [he]

@[simp] theorem State.raise_smp (src code : Nat) (data : List EvVal) (ctx func : Nat) :
    (s.raise src code data ctx func).smp = s.smp := by
  obtain ⟨r, g, e, h, p, he, -⟩ := s.raise_touched src code data ctx func
  rw [he]

@[simp] theorem State.raise_pwr (src code : Nat) (data : List EvVal) (ctx func : Nat) :
    (s.raise src code data ctx func).pwr = s.pwr := by
  obtain ⟨r, g, e, h, p, he, -⟩ := s.raise_touched src code data ctx func
  rw [he]

@[simp] theorem State.raise_kl (src code : Nat) (data : List EvVal) (ctx func : Nat) :
    (s.raise src code data ctx func).kl = s.kl := by
  obtain ⟨r, g, e, h, p, he, -⟩ := s.raise_touched src code data ctx func
  rw [he]

@[simp] theorem State.raise_sync (src code : Nat) (data : List EvVal) (ctx func : Nat) :
    (s.raise src code data ctx func).sync = s.sync := by
  obtain ⟨r, g, e, h, p, he, -⟩ := s.raise_touched src code data ctx func
  rw [he]

@[simp] theorem State.raise_cpl (src code : Nat) (data : List EvVal) (ctx func : Nat) :
    (s.raise src code data ctx func).cpl = s.cpl := by
  obtain ⟨r, g, e, h, p, he, -⟩ := s.raise_touched src code data ctx func
  rw [he]

@[simp] theorem State.raise_test (src code : Nat) (data : List EvVal) (ctx func : Nat) :
    (s.raise src code data ctx func).test = s.test := by
  obtain ⟨r, g, e, h, p, he, -⟩ := s.raise_touched src code data ctx func
  rw [he]

@[simp] theorem State.raise_scrub (src code : Nat) (data : List EvVal) (ctx func : Nat) :
    (s.raise src code data ctx func).scrub = s.scrub := by
  obtain ⟨r, g, e, h, p, he, -⟩ := s.raise_touched src code data ctx func
  rw [he]

theorem State.complete_reported (d : Desc) (st : Status) (r q : Nat) : (s.complete d st r q).reported d st r q := by
  simp [State.reported, State.complete]

theorem State.notify_notified (n : Nat) (st : Status) (cls : Nat) (tag : Word64) (r q : Nat) :
    (s.notify n st cls tag r q).notified n st cls tag r q := by
  simp [State.notified, State.notify]

theorem State.raise_rd (src code : Nat) (data : List EvVal) (ctx func : Nat) {a : Nat} (h1 : a ≠ ro .evr 0 0x60)
    (h2 : a ≠ ro .evr 0 0x58) : (s.raise src code data ctx func).rd a = s.rd a := by
  obtain ⟨r, g, e, h, p, he, hr, -⟩ := s.raise_touched src code data ctx func
  rw [he]
  exact hr _ a h1 h2

theorem State.raise_page (src code : Nat) (data : List EvVal) (ctx func k : Nat) :
    pageKept (s.page k) ((s.raise src code data ctx func).page k) := by
  obtain ⟨r, g, e, h, p, -, -, hg, -⟩ := s.raise_touched src code data ctx func
  exact hg k

theorem State.raise_answers (src code : Nat) (data : List EvVal) (ctx func : Nat) :
    answersKept s.host (s.raise src code data ctx func).host := by
  obtain ⟨r, g, e, h, p, he, -, -, ha⟩ := s.raise_touched src code data ctx func
  rw [he]
  exact ha

@[simp] theorem State.raise_answer (src code : Nat) (data : List EvVal) (ctx func : Nat) :
    (s.raise src code data ctx func).host.answer = s.host.answer := (s.raise_answers src code data ctx func).1

@[simp] theorem State.answer_answer (n : Nat) : (s.answer n).host.answer = BitVec.ofNat 64 n := rfl

theorem State.raise_fld (src code : Nat) (data : List EvVal) (ctx func : Nat) {a : Nat} (lo w : Nat)
    (h1 : a ≠ ro .evr 0 0x60) (h2 : a ≠ ro .evr 0 0x58) :
    (s.raise src code data ctx func).fld a lo w = s.fld a lo w := by
  simp [State.fld, s.raise_rd src code data ctx func h1 h2]

theorem State.raise_logged (src code : Nat) (data : List EvVal) (ctx func : Nat) :
    (s.raise src code data ctx func).logged s.gts src code data ctx func := by
  have hg : ((s.markEvent src code).pulse code).gts = s.gts := by
    obtain ⟨r, g, e, h, p, he, -⟩ := State.touched_trans (s.markEvent_touched src code) (State.pulse_touched _ code)
    rw [he]
  have hne : ∀ o, o < 0x1000 → ro .host 0 (0x800 + ctx / 4 * 4) ≠ ro .evr 0 o := by
    have h1 : slotOf .host 0 = 0x100 := by decide
    have h2 : slotOf .evr 0 = 2 := by decide
    intro o ho
    simp only [ro, h1, h2]
    omega
  have hf : (s.raise src code data ctx func).eventFunc ctx func = s.eventFunc ctx func := by
    simp only [State.eventFunc, State.ctxFunc]
    rw [s.raise_fld src code data ctx func _ _ (hne _ (by decide)) (hne _ (by decide))]
  unfold State.logged
  rw [hf]
  unfold State.raise
  generalize ((s.markEvent src code).pulse code) = t
  simp only [State.offer]
  split
  · exact .inl (by simp [State.pushIntake])
  · split
    · split
      · split
        · exact .inl (by simp [State.pushIntake])
        · exact .inl (by simp [State.pushIntake])
      · split
        · exact .inl (by simp [State.pushIntake])
        · exact .inr (.inl (by simp))
    · split
      · exact .inl (by simp [State.pushIntake])
      · next hc hp =>
        refine .inr (.inr ⟨by omega, ?_⟩)
        simpa [State.countDrop, State.addSat] using hp

@[simp] theorem State.complete_pending (d : Desc) (st : Status) (r q : Nat) :
    (s.complete d st r q).pending = s.pending := rfl

@[simp] theorem State.complete_now (d : Desc) (st : Status) (r q : Nat) :
    (s.complete d st r q).now = s.now := rfl

@[simp] theorem State.complete_gts (d : Desc) (st : Status) (r q : Nat) :
    (s.complete d st r q).gts = s.gts := rfl

@[simp] theorem State.complete_gtsPart (d : Desc) (st : Status) (r q : Nat) :
    (s.complete d st r q).gtsPart = s.gtsPart := rfl

@[simp] theorem State.complete_uid (d : Desc) (st : Status) (r q : Nat) :
    (s.complete d st r q).uid = s.uid := rfl

@[simp] theorem State.complete_free (d : Desc) (st : Status) (r q : Nat) :
    (s.complete d st r q).free = s.free := rfl

@[simp] theorem State.complete_regs (d : Desc) (st : Status) (r q : Nat) :
    (s.complete d st r q).regs = s.regs := rfl

@[simp] theorem State.complete_active (d : Desc) (st : Status) (r q : Nat) :
    (s.complete d st r q).active = s.active := rfl

@[simp] theorem State.complete_rwl (d : Desc) (st : Status) (r q : Nat) :
    (s.complete d st r q).rwl = s.rwl := rfl

@[simp] theorem State.complete_pages (d : Desc) (st : Status) (r q : Nat) :
    (s.complete d st r q).pages = s.pages := rfl

@[simp] theorem State.complete_host (d : Desc) (st : Status) (r q : Nat) :
    (s.complete d st r q).host = s.host := rfl

@[simp] theorem State.complete_boot (d : Desc) (st : Status) (r q : Nat) :
    (s.complete d st r q).boot = s.boot := rfl

@[simp] theorem State.complete_evr (d : Desc) (st : Status) (r q : Nat) :
    (s.complete d st r q).evr = s.evr := rfl

@[simp] theorem State.complete_mem (d : Desc) (st : Status) (r q : Nat) :
    (s.complete d st r q).mem = s.mem := rfl

@[simp] theorem State.complete_poison (d : Desc) (st : Status) (r q : Nat) :
    (s.complete d st r q).poison = s.poison := rfl

@[simp] theorem State.complete_bay (d : Desc) (st : Status) (r q : Nat) :
    (s.complete d st r q).bay = s.bay := rfl

@[simp] theorem State.complete_bayGen (d : Desc) (st : Status) (r q : Nat) :
    (s.complete d st r q).bayGen = s.bayGen := rfl

@[simp] theorem State.complete_latent (d : Desc) (st : Status) (r q : Nat) :
    (s.complete d st r q).latent = s.latent := rfl

@[simp] theorem State.complete_regionJobs (d : Desc) (st : Status) (r q : Nat) :
    (s.complete d st r q).regionJobs = s.regionJobs := rfl

@[simp] theorem State.complete_regionHolds (d : Desc) (st : Status) (r q : Nat) :
    (s.complete d st r q).regionHolds = s.regionHolds := rfl

@[simp] theorem State.complete_sbox (d : Desc) (st : Status) (r q : Nat) :
    (s.complete d st r q).sbox = s.sbox := rfl

@[simp] theorem State.complete_cores (d : Desc) (st : Status) (r q : Nat) :
    (s.complete d st r q).cores = s.cores := rfl

@[simp] theorem State.complete_images (d : Desc) (st : Status) (r q : Nat) :
    (s.complete d st r q).images = s.images := rfl

@[simp] theorem State.complete_sliceClears (d : Desc) (st : Status) (r q : Nat) :
    (s.complete d st r q).sliceClears = s.sliceClears := rfl

@[simp] theorem State.complete_cutOff (d : Desc) (st : Status) (r q : Nat) :
    (s.complete d st r q).cutOff = s.cutOff := rfl

@[simp] theorem State.complete_yard (d : Desc) (st : Status) (r q : Nat) :
    (s.complete d st r q).yard = s.yard := rfl

@[simp] theorem State.complete_text (d : Desc) (st : Status) (r q : Nat) :
    (s.complete d st r q).text = s.text := rfl

@[simp] theorem State.complete_media (d : Desc) (st : Status) (r q : Nat) :
    (s.complete d st r q).media = s.media := rfl

@[simp] theorem State.complete_scan (d : Desc) (st : Status) (r q : Nat) :
    (s.complete d st r q).scan = s.scan := rfl

@[simp] theorem State.complete_smp (d : Desc) (st : Status) (r q : Nat) :
    (s.complete d st r q).smp = s.smp := rfl

@[simp] theorem State.complete_pwr (d : Desc) (st : Status) (r q : Nat) :
    (s.complete d st r q).pwr = s.pwr := rfl

@[simp] theorem State.complete_pins (d : Desc) (st : Status) (r q : Nat) :
    (s.complete d st r q).pins = s.pins := rfl

@[simp] theorem State.complete_kl (d : Desc) (st : Status) (r q : Nat) :
    (s.complete d st r q).kl = s.kl := rfl

@[simp] theorem State.complete_sync (d : Desc) (st : Status) (r q : Nat) :
    (s.complete d st r q).sync = s.sync := rfl

@[simp] theorem State.complete_cpl (d : Desc) (st : Status) (r q : Nat) :
    (s.complete d st r q).cpl = s.cpl := rfl

@[simp] theorem State.complete_test (d : Desc) (st : Status) (r q : Nat) :
    (s.complete d st r q).test = s.test := rfl

@[simp] theorem State.complete_scrub (d : Desc) (st : Status) (r q : Nat) :
    (s.complete d st r q).scrub = s.scrub := rfl

@[simp] theorem State.notify_pending (n : Nat) (st : Status) (cls : Nat) (tag : Word64) (r q : Nat) :
    (s.notify n st cls tag r q).pending = s.pending := rfl

@[simp] theorem State.notify_now (n : Nat) (st : Status) (cls : Nat) (tag : Word64) (r q : Nat) :
    (s.notify n st cls tag r q).now = s.now := rfl

@[simp] theorem State.notify_gts (n : Nat) (st : Status) (cls : Nat) (tag : Word64) (r q : Nat) :
    (s.notify n st cls tag r q).gts = s.gts := rfl

@[simp] theorem State.notify_gtsPart (n : Nat) (st : Status) (cls : Nat) (tag : Word64) (r q : Nat) :
    (s.notify n st cls tag r q).gtsPart = s.gtsPart := rfl

@[simp] theorem State.notify_uid (n : Nat) (st : Status) (cls : Nat) (tag : Word64) (r q : Nat) :
    (s.notify n st cls tag r q).uid = s.uid := rfl

@[simp] theorem State.notify_free (n : Nat) (st : Status) (cls : Nat) (tag : Word64) (r q : Nat) :
    (s.notify n st cls tag r q).free = s.free := rfl

@[simp] theorem State.notify_regs (n : Nat) (st : Status) (cls : Nat) (tag : Word64) (r q : Nat) :
    (s.notify n st cls tag r q).regs = s.regs := rfl

@[simp] theorem State.notify_active (n : Nat) (st : Status) (cls : Nat) (tag : Word64) (r q : Nat) :
    (s.notify n st cls tag r q).active = s.active := rfl

@[simp] theorem State.notify_rwl (n : Nat) (st : Status) (cls : Nat) (tag : Word64) (r q : Nat) :
    (s.notify n st cls tag r q).rwl = s.rwl := rfl

@[simp] theorem State.notify_pages (n : Nat) (st : Status) (cls : Nat) (tag : Word64) (r q : Nat) :
    (s.notify n st cls tag r q).pages = s.pages := rfl

@[simp] theorem State.notify_host (n : Nat) (st : Status) (cls : Nat) (tag : Word64) (r q : Nat) :
    (s.notify n st cls tag r q).host = s.host := rfl

@[simp] theorem State.notify_boot (n : Nat) (st : Status) (cls : Nat) (tag : Word64) (r q : Nat) :
    (s.notify n st cls tag r q).boot = s.boot := rfl

@[simp] theorem State.notify_evr (n : Nat) (st : Status) (cls : Nat) (tag : Word64) (r q : Nat) :
    (s.notify n st cls tag r q).evr = s.evr := rfl

@[simp] theorem State.notify_mem (n : Nat) (st : Status) (cls : Nat) (tag : Word64) (r q : Nat) :
    (s.notify n st cls tag r q).mem = s.mem := rfl

@[simp] theorem State.notify_poison (n : Nat) (st : Status) (cls : Nat) (tag : Word64) (r q : Nat) :
    (s.notify n st cls tag r q).poison = s.poison := rfl

@[simp] theorem State.notify_bay (n : Nat) (st : Status) (cls : Nat) (tag : Word64) (r q : Nat) :
    (s.notify n st cls tag r q).bay = s.bay := rfl

@[simp] theorem State.notify_bayGen (n : Nat) (st : Status) (cls : Nat) (tag : Word64) (r q : Nat) :
    (s.notify n st cls tag r q).bayGen = s.bayGen := rfl

@[simp] theorem State.notify_latent (n : Nat) (st : Status) (cls : Nat) (tag : Word64) (r q : Nat) :
    (s.notify n st cls tag r q).latent = s.latent := rfl

@[simp] theorem State.notify_ctxs (n : Nat) (st : Status) (cls : Nat) (tag : Word64) (r q : Nat) :
    (s.notify n st cls tag r q).ctxs = s.ctxs := rfl

@[simp] theorem State.notify_regionJobs (n : Nat) (st : Status) (cls : Nat) (tag : Word64) (r q : Nat) :
    (s.notify n st cls tag r q).regionJobs = s.regionJobs := rfl

@[simp] theorem State.notify_regionHolds (n : Nat) (st : Status) (cls : Nat) (tag : Word64) (r q : Nat) :
    (s.notify n st cls tag r q).regionHolds = s.regionHolds := rfl

@[simp] theorem State.notify_sbox (n : Nat) (st : Status) (cls : Nat) (tag : Word64) (r q : Nat) :
    (s.notify n st cls tag r q).sbox = s.sbox := rfl

@[simp] theorem State.notify_cores (n : Nat) (st : Status) (cls : Nat) (tag : Word64) (r q : Nat) :
    (s.notify n st cls tag r q).cores = s.cores := rfl

@[simp] theorem State.notify_images (n : Nat) (st : Status) (cls : Nat) (tag : Word64) (r q : Nat) :
    (s.notify n st cls tag r q).images = s.images := rfl

@[simp] theorem State.notify_sliceClears (n : Nat) (st : Status) (cls : Nat) (tag : Word64) (r q : Nat) :
    (s.notify n st cls tag r q).sliceClears = s.sliceClears := rfl

@[simp] theorem State.notify_cutOff (n : Nat) (st : Status) (cls : Nat) (tag : Word64) (r q : Nat) :
    (s.notify n st cls tag r q).cutOff = s.cutOff := rfl

@[simp] theorem State.notify_yard (n : Nat) (st : Status) (cls : Nat) (tag : Word64) (r q : Nat) :
    (s.notify n st cls tag r q).yard = s.yard := rfl

@[simp] theorem State.notify_text (n : Nat) (st : Status) (cls : Nat) (tag : Word64) (r q : Nat) :
    (s.notify n st cls tag r q).text = s.text := rfl

@[simp] theorem State.notify_media (n : Nat) (st : Status) (cls : Nat) (tag : Word64) (r q : Nat) :
    (s.notify n st cls tag r q).media = s.media := rfl

@[simp] theorem State.notify_scan (n : Nat) (st : Status) (cls : Nat) (tag : Word64) (r q : Nat) :
    (s.notify n st cls tag r q).scan = s.scan := rfl

@[simp] theorem State.notify_smp (n : Nat) (st : Status) (cls : Nat) (tag : Word64) (r q : Nat) :
    (s.notify n st cls tag r q).smp = s.smp := rfl

@[simp] theorem State.notify_pwr (n : Nat) (st : Status) (cls : Nat) (tag : Word64) (r q : Nat) :
    (s.notify n st cls tag r q).pwr = s.pwr := rfl

@[simp] theorem State.notify_pins (n : Nat) (st : Status) (cls : Nat) (tag : Word64) (r q : Nat) :
    (s.notify n st cls tag r q).pins = s.pins := rfl

@[simp] theorem State.notify_kl (n : Nat) (st : Status) (cls : Nat) (tag : Word64) (r q : Nat) :
    (s.notify n st cls tag r q).kl = s.kl := rfl

@[simp] theorem State.notify_sync (n : Nat) (st : Status) (cls : Nat) (tag : Word64) (r q : Nat) :
    (s.notify n st cls tag r q).sync = s.sync := rfl

@[simp] theorem State.notify_cpl (n : Nat) (st : Status) (cls : Nat) (tag : Word64) (r q : Nat) :
    (s.notify n st cls tag r q).cpl = s.cpl := rfl

@[simp] theorem State.notify_test (n : Nat) (st : Status) (cls : Nat) (tag : Word64) (r q : Nat) :
    (s.notify n st cls tag r q).test = s.test := rfl

@[simp] theorem State.notify_scrub (n : Nat) (st : Status) (cls : Nat) (tag : Word64) (r q : Nat) :
    (s.notify n st cls tag r q).scrub = s.scrub := rfl

@[simp] theorem State.completeMore_pending (d : Desc) (st : Status) (tag : Word64) (r q : Nat) (more irq : Bool) (pos : Option Word) :
    (s.completeMore d st tag r q more irq pos).pending = s.pending := rfl

@[simp] theorem State.completeMore_now (d : Desc) (st : Status) (tag : Word64) (r q : Nat) (more irq : Bool) (pos : Option Word) :
    (s.completeMore d st tag r q more irq pos).now = s.now := rfl

@[simp] theorem State.completeMore_gts (d : Desc) (st : Status) (tag : Word64) (r q : Nat) (more irq : Bool) (pos : Option Word) :
    (s.completeMore d st tag r q more irq pos).gts = s.gts := rfl

@[simp] theorem State.completeMore_gtsPart (d : Desc) (st : Status) (tag : Word64) (r q : Nat) (more irq : Bool) (pos : Option Word) :
    (s.completeMore d st tag r q more irq pos).gtsPart = s.gtsPart := rfl

@[simp] theorem State.completeMore_uid (d : Desc) (st : Status) (tag : Word64) (r q : Nat) (more irq : Bool) (pos : Option Word) :
    (s.completeMore d st tag r q more irq pos).uid = s.uid := rfl

@[simp] theorem State.completeMore_free (d : Desc) (st : Status) (tag : Word64) (r q : Nat) (more irq : Bool) (pos : Option Word) :
    (s.completeMore d st tag r q more irq pos).free = s.free := rfl

@[simp] theorem State.completeMore_regs (d : Desc) (st : Status) (tag : Word64) (r q : Nat) (more irq : Bool) (pos : Option Word) :
    (s.completeMore d st tag r q more irq pos).regs = s.regs := rfl

@[simp] theorem State.completeMore_active (d : Desc) (st : Status) (tag : Word64) (r q : Nat) (more irq : Bool) (pos : Option Word) :
    (s.completeMore d st tag r q more irq pos).active = s.active := rfl

@[simp] theorem State.completeMore_rwl (d : Desc) (st : Status) (tag : Word64) (r q : Nat) (more irq : Bool) (pos : Option Word) :
    (s.completeMore d st tag r q more irq pos).rwl = s.rwl := rfl

@[simp] theorem State.completeMore_pages (d : Desc) (st : Status) (tag : Word64) (r q : Nat) (more irq : Bool) (pos : Option Word) :
    (s.completeMore d st tag r q more irq pos).pages = s.pages := rfl

@[simp] theorem State.completeMore_host (d : Desc) (st : Status) (tag : Word64) (r q : Nat) (more irq : Bool) (pos : Option Word) :
    (s.completeMore d st tag r q more irq pos).host = s.host := rfl

@[simp] theorem State.completeMore_boot (d : Desc) (st : Status) (tag : Word64) (r q : Nat) (more irq : Bool) (pos : Option Word) :
    (s.completeMore d st tag r q more irq pos).boot = s.boot := rfl

@[simp] theorem State.completeMore_evr (d : Desc) (st : Status) (tag : Word64) (r q : Nat) (more irq : Bool) (pos : Option Word) :
    (s.completeMore d st tag r q more irq pos).evr = s.evr := rfl

@[simp] theorem State.completeMore_mem (d : Desc) (st : Status) (tag : Word64) (r q : Nat) (more irq : Bool) (pos : Option Word) :
    (s.completeMore d st tag r q more irq pos).mem = s.mem := rfl

@[simp] theorem State.completeMore_poison (d : Desc) (st : Status) (tag : Word64) (r q : Nat) (more irq : Bool) (pos : Option Word) :
    (s.completeMore d st tag r q more irq pos).poison = s.poison := rfl

@[simp] theorem State.completeMore_bay (d : Desc) (st : Status) (tag : Word64) (r q : Nat) (more irq : Bool) (pos : Option Word) :
    (s.completeMore d st tag r q more irq pos).bay = s.bay := rfl

@[simp] theorem State.completeMore_bayGen (d : Desc) (st : Status) (tag : Word64) (r q : Nat) (more irq : Bool) (pos : Option Word) :
    (s.completeMore d st tag r q more irq pos).bayGen = s.bayGen := rfl

@[simp] theorem State.completeMore_latent (d : Desc) (st : Status) (tag : Word64) (r q : Nat) (more irq : Bool) (pos : Option Word) :
    (s.completeMore d st tag r q more irq pos).latent = s.latent := rfl

@[simp] theorem State.completeMore_ctxs (d : Desc) (st : Status) (tag : Word64) (r q : Nat) (more irq : Bool) (pos : Option Word) :
    (s.completeMore d st tag r q more irq pos).ctxs = s.ctxs := rfl

@[simp] theorem State.completeMore_regionJobs (d : Desc) (st : Status) (tag : Word64) (r q : Nat) (more irq : Bool) (pos : Option Word) :
    (s.completeMore d st tag r q more irq pos).regionJobs = s.regionJobs := rfl

@[simp] theorem State.completeMore_regionHolds (d : Desc) (st : Status) (tag : Word64) (r q : Nat) (more irq : Bool) (pos : Option Word) :
    (s.completeMore d st tag r q more irq pos).regionHolds = s.regionHolds := rfl

@[simp] theorem State.completeMore_sbox (d : Desc) (st : Status) (tag : Word64) (r q : Nat) (more irq : Bool) (pos : Option Word) :
    (s.completeMore d st tag r q more irq pos).sbox = s.sbox := rfl

@[simp] theorem State.completeMore_cores (d : Desc) (st : Status) (tag : Word64) (r q : Nat) (more irq : Bool) (pos : Option Word) :
    (s.completeMore d st tag r q more irq pos).cores = s.cores := rfl

@[simp] theorem State.completeMore_images (d : Desc) (st : Status) (tag : Word64) (r q : Nat) (more irq : Bool) (pos : Option Word) :
    (s.completeMore d st tag r q more irq pos).images = s.images := rfl

@[simp] theorem State.completeMore_sliceClears (d : Desc) (st : Status) (tag : Word64) (r q : Nat) (more irq : Bool) (pos : Option Word) :
    (s.completeMore d st tag r q more irq pos).sliceClears = s.sliceClears := rfl

@[simp] theorem State.completeMore_cutOff (d : Desc) (st : Status) (tag : Word64) (r q : Nat) (more irq : Bool) (pos : Option Word) :
    (s.completeMore d st tag r q more irq pos).cutOff = s.cutOff := rfl

@[simp] theorem State.completeMore_yard (d : Desc) (st : Status) (tag : Word64) (r q : Nat) (more irq : Bool) (pos : Option Word) :
    (s.completeMore d st tag r q more irq pos).yard = s.yard := rfl

@[simp] theorem State.completeMore_text (d : Desc) (st : Status) (tag : Word64) (r q : Nat) (more irq : Bool) (pos : Option Word) :
    (s.completeMore d st tag r q more irq pos).text = s.text := rfl

@[simp] theorem State.completeMore_media (d : Desc) (st : Status) (tag : Word64) (r q : Nat) (more irq : Bool) (pos : Option Word) :
    (s.completeMore d st tag r q more irq pos).media = s.media := rfl

@[simp] theorem State.completeMore_scan (d : Desc) (st : Status) (tag : Word64) (r q : Nat) (more irq : Bool) (pos : Option Word) :
    (s.completeMore d st tag r q more irq pos).scan = s.scan := rfl

@[simp] theorem State.completeMore_smp (d : Desc) (st : Status) (tag : Word64) (r q : Nat) (more irq : Bool) (pos : Option Word) :
    (s.completeMore d st tag r q more irq pos).smp = s.smp := rfl

@[simp] theorem State.completeMore_pwr (d : Desc) (st : Status) (tag : Word64) (r q : Nat) (more irq : Bool) (pos : Option Word) :
    (s.completeMore d st tag r q more irq pos).pwr = s.pwr := rfl

@[simp] theorem State.completeMore_pins (d : Desc) (st : Status) (tag : Word64) (r q : Nat) (more irq : Bool) (pos : Option Word) :
    (s.completeMore d st tag r q more irq pos).pins = s.pins := rfl

@[simp] theorem State.completeMore_kl (d : Desc) (st : Status) (tag : Word64) (r q : Nat) (more irq : Bool) (pos : Option Word) :
    (s.completeMore d st tag r q more irq pos).kl = s.kl := rfl

@[simp] theorem State.completeMore_sync (d : Desc) (st : Status) (tag : Word64) (r q : Nat) (more irq : Bool) (pos : Option Word) :
    (s.completeMore d st tag r q more irq pos).sync = s.sync := rfl

@[simp] theorem State.completeMore_cpl (d : Desc) (st : Status) (tag : Word64) (r q : Nat) (more irq : Bool) (pos : Option Word) :
    (s.completeMore d st tag r q more irq pos).cpl = s.cpl := rfl

@[simp] theorem State.completeMore_test (d : Desc) (st : Status) (tag : Word64) (r q : Nat) (more irq : Bool) (pos : Option Word) :
    (s.completeMore d st tag r q more irq pos).test = s.test := rfl

@[simp] theorem State.completeMore_scrub (d : Desc) (st : Status) (tag : Word64) (r q : Nat) (more irq : Bool) (pos : Option Word) :
    (s.completeMore d st tag r q more irq pos).scrub = s.scrub := rfl

end Sys2Proof.Machine
end

