-- ==== Sys2Proof/Laws/Map.lean ====
section
/-! SUPPORT. A slot of BAR0 and the page in it name each other (02 R44, R45). -/

namespace Sys2Proof.Machine

theorem slotIn_some {b : Blk} {f n s : Nat} {p : PageId} (h : slotIn b f n s = some p) :
    f ≤ s ∧ s < f + n ∧ p = ⟨b, s - f⟩ := by
  unfold slotIn at h
  split at h
  · next hc => exact ⟨hc.1, hc.2, (Option.some.inj h).symm⟩
  · exact absurd h (by simp)

theorem slotOf_cluster0 (s : Nat) (p : PageId) (h : clusterPage 0 (s - 0x400) = some p) (h1 : 0x400 ≤ s)
    (h2 : s < 0x480) : slotOf p.blk p.inst = s := by
  unfold clusterPage at h
  dsimp only at h
  split at h
  · split at h
    · cases h; simp only [slotOf]; split <;> omega
    · split at h
      · split at h
        · cases h; simp only [slotOf]; split <;> omega
        · cases h; simp only [slotOf]; split <;> omega
      · cases h
  · cases h

theorem slotOf_cluster4 (s : Nat) (p : PageId) (h : clusterPage 4 (s - 0x800) = some p) (h1 : 0x800 ≤ s)
    (h2 : s < 0x880) : slotOf p.blk p.inst = s := by
  unfold clusterPage at h
  dsimp only at h
  split at h
  · split at h
    · cases h; simp only [slotOf]; split <;> omega
    · split at h
      · split at h
        · cases h; simp only [slotOf]; split <;> omega
        · cases h; simp only [slotOf]; split <;> omega
      · cases h
  · cases h

theorem slotOf_uncore (d b s : Nat) (p : PageId) (hd : d = 0 ∧ b = 0x500 ∨ d = 1 ∧ b = 0x900)
    (h : uncorePage d (s - b) = some p) (h1 : b ≤ s) : slotOf p.blk p.inst = s := by
  unfold uncorePage at h
  split at h
  · cases h; simp only [slotOf]; split <;> omega
  · split at h
    · cases h; simp only [slotOf]; split <;> omega
    · split at h
      · cases h; simp only [slotOf]; split <;> omega
      · cases h

theorem slotOf_iod (s : Nat) (p : PageId) (h : iodPage s = some p) : slotOf p.blk p.inst = s := by
  unfold iodPage at h
  by_cases hx : s < 9
  · rw [if_pos hx] at h; injection h with h; subst h; interval_cases s <;> rfl
  rw [if_neg hx] at h; clear hx
  by_cases hx : 0x100 ≤ s ∧ s < 0x106
  · rw [if_pos hx] at h; injection h with h; subst h; obtain ⟨a, b⟩ := hx; interval_cases s <;> rfl
  rw [if_neg hx] at h; clear hx
  by_cases hx : s = 0x300
  · rw [if_pos hx] at h; injection h with h; subst h; exact hx.symm
  rw [if_neg hx] at h; clear hx
  by_cases hx : s = 0x301
  · rw [if_pos hx] at h; injection h with h; subst h; exact hx.symm
  rw [if_neg hx] at h; clear hx
  by_cases hx : s = 0x302
  · rw [if_pos hx] at h; injection h with h; subst h; exact hx.symm
  rw [if_neg hx] at h; clear hx
  by_cases hx : s = 0x31C
  · rw [if_pos hx] at h; injection h with h; subst h; exact hx.symm
  rw [if_neg hx] at h; clear hx
  by_cases hx : s = 0x31D
  · rw [if_pos hx] at h; injection h with h; subst h; exact hx.symm
  rw [if_neg hx] at h; clear hx
  by_cases hx : s = 0x330
  · rw [if_pos hx] at h; injection h with h; subst h; exact hx.symm
  rw [if_neg hx] at h; clear hx
  by_cases hx : s = 0x331
  · rw [if_pos hx] at h; injection h with h; subst h; exact hx.symm
  rw [if_neg hx] at h; clear hx
  by_cases hx : s = 0x332
  · rw [if_pos hx] at h; injection h with h; subst h; exact hx.symm
  rw [if_neg hx] at h; clear hx
  by_cases hx : s = 0x340
  · rw [if_pos hx] at h; injection h with h; subst h; exact hx.symm
  rw [if_neg hx] at h; clear hx
  by_cases hx : s = 0xC10
  · rw [if_pos hx] at h; injection h with h; subst h; exact hx.symm
  rw [if_neg hx] at h; clear hx
  by_cases hx : s = 0xC11
  · rw [if_pos hx] at h; injection h with h; subst h; exact hx.symm
  rw [if_neg hx] at h; clear hx
  have key : ∀ {x : Option PageId} {y : Unit → Option PageId}, x.orElse y = some p → x = some p ∨ y () = some p := by
    intro x y hx
    cases x with
    | none => exact .inr hx
    | some v => exact .inl hx
  rcases key h with h | h
  · obtain ⟨a, b, rfl⟩ := slotIn_some h; simp only [slotOf]; omega
  rcases key h with h | h
  · obtain ⟨a, b, rfl⟩ := slotIn_some h; simp only [slotOf]; omega
  rcases key h with h | h
  · obtain ⟨a, b, rfl⟩ := slotIn_some h; simp only [slotOf]; omega
  rcases key h with h | h
  · obtain ⟨a, b, rfl⟩ := slotIn_some h; simp only [slotOf]; omega
  rcases key h with h | h
  · obtain ⟨a, b, rfl⟩ := slotIn_some h; simp only [slotOf]; omega
  · obtain ⟨a, b, rfl⟩ := slotIn_some h; simp only [slotOf]; omega

theorem slotOf_pageAt (n : Nat) (p : PageId) (h : pageAt n = some p) : slotOf p.blk p.inst = n := by
  unfold pageAt at h
  split at h
  · next hc => exact slotOf_cluster0 n p h hc.1 hc.2
  · split at h
    · next hc => exact slotOf_cluster4 n p h hc.1 hc.2
    · split at h
      · next hc => exact slotOf_uncore 0 _ n p (.inl ⟨rfl, rfl⟩) h hc.1
      · split at h
        · next hc => exact slotOf_uncore 1 _ n p (.inr ⟨rfl, rfl⟩) h hc.1
        · exact slotOf_iod n p h

end Sys2Proof.Machine
end

