-- ==== Sys2Proof/Laws/Writes.lean ====
section
/-! SUPPORT. A write that lands on a word takes effect there: from the command to State.headerWrite and
State.wordEffect. -/

namespace Sys2Proof.Machine

theorem Tbl.put_put {α : Type} (t : Tbl α) (k : Nat) (v w : α) : (t.put k v).put k w = t.put k w := by
  induction t with
  | nil => simp [Tbl.put]
  | cons e r ih =>
    obtain ⟨i, x⟩ := e
    unfold Tbl.put
    by_cases h : i = k
    · simp [h, Tbl.put]
    · simp only [h, if_false]
      simp only [Tbl.put, if_neg h, ih]

@[simp] theorem State.setPage_setPage (s : State) (k : Nat) (p q : Page) : (s.setPage k p).setPage k q = s.setPage k q := by
  simp [State.setPage, Tbl.put_put]

@[simp] theorem State.wr_wr (s : State) (a : Nat) (v w : Word) : (s.wr a v).wr a w = s.wr a w := by
  simp [State.wr, Tbl.put_put]

theorem State.reachPf_word {s : State} {off width a : Nat} {w : Bool} (h : s.reachPf off width w = .word a) :
    a = off ∧ s.refusedBy off width w = none := by
  unfold State.reachPf at h
  split at h
  · cases h
  · next h1 =>
    split at h
    · cases h
    · exact ⟨(Reach.word.inj h).symm, h1⟩

/-- The slot and the offset in the page of the word an access lands on. -/
theorem State.reach_word {s : State} {snd : Sender} {off width a : Nat} {w : Bool} (h : s.reach snd off width w = .word a) :
    s.bar0Of snd off = some a ∧ a % 0x1000 = off % 0x1000 := by
  unfold State.reach at h
  split at h
  · split at h
    · next h1 => have := (reachPf_word h).1; subst this; exact ⟨by simp [State.bar0Of, h1], rfl⟩
    · cases h
  · next f =>
    split at h
    · next h1 => have := (reachPf_word h).1; subst this; exact ⟨by simp [State.bar0Of, h1], rfl⟩
    · next h1 =>
      split at h
      · cases h
      · split at h
        · cases h
        · split at h
          · split at h <;> cases h
          · split at h
            · next b hb =>
              have := (reachPf_word h).1
              subst this
              refine ⟨hb, ?_⟩
              simp only [State.bar0Of, h1, if_false, Option.map_eq_some_iff] at hb
              obtain ⟨n, -, rfl⟩ := hb
              omega
            · cases h

theorem State.flushPage_nil {s : State} {k : Nat} (h : (s.page k).fifo = []) : s.flushPage k = s := by
  simp [State.flushPage, h]

/-- A 4-byte write that lands takes effect at its word. -/
theorem State.hostWrite_lands {s : State} {snd : Sender} {off a : Nat} {p : PageId} (v : Word)
    (h : s.lands snd off 4 a) (hp : pageAt (a / 0x1000) = some p) :
    s.hostWrite snd off none v = s.wordEffect snd p (off % 0x1000) none v := by
  obtain ⟨h1, h2, h3⟩ := h
  have hm := (reach_word h1).2
  simp [State.hostWrite, h1, State.ordered, State.flushPage_nil h2, h3, State.applyWrite, hp, hm]

/-- An 8-byte write of a pair that lands takes effect at its high word. -/
theorem State.hostWrite_wide {s : State} {snd : Sender} {off a : Nat} {p : PageId} (lo v : Word) (ho : 4 ≤ off)
    (h : s.lands snd (off - 4) 8 a) (hp : pageAt (a / 0x1000) = some p) (hr : (off - 4) % 0x1000 < 0xFFC) :
    s.hostWrite snd off (some lo) v = s.wordEffect snd p (off % 0x1000) (some lo) v := by
  obtain ⟨h1, h2, h3⟩ := h
  have hm := (reach_word h1).2
  have e1 : (a + 4) / 0x1000 = a / 0x1000 := by omega
  have e2 : (a + 4) % 0x1000 = off % 0x1000 := by omega
  simp [State.hostWrite, h1, State.ordered, e1, State.flushPage_nil h2, h3, State.applyWrite, hp, e2]

/-- The page of a word that a write to a page's header at `slot` lands on. -/
theorem State.lands_base {s : State} {snd : Sender} {slot o a : Nat} (ho : o < 0x1000)
    (h : s.lands snd (slot * 0x1000 + o) 4 a) :
    s.bar0Of snd (slot * 0x1000) = some (a / 0x1000 * 0x1000) ∧ a % 0x1000 = o := by
  have hm := State.reach_word h.1
  have e : (slot * 0x1000 + o) % 0x1000 = o := by omega
  refine ⟨?_, hm.2.trans e⟩
  have hb := hm.1
  have e4 : ∀ k : Nat, (k * 0x1000 + o) / 0x1000 = k := fun k => by
    rw [Nat.add_comm, Nat.add_mul_div_right _ _ (by decide), Nat.div_eq_of_lt ho, Nat.zero_add]
  have e1 := e4 slot
  have e2 : slot * 0x1000 / 0x1000 = slot := Nat.mul_div_cancel _ (by decide)
  have e3 : slot * 0x1000 % 0x1000 = 0 := Nat.mul_mod_left _ _
  cases snd with
  | i3c =>
    simp only [State.bar0Of] at hb ⊢
    by_cases h1 : slot * 0x1000 + o < 0x100000
    · rw [if_pos h1] at hb
      have hb := Option.some.inj hb
      rw [if_pos (Nat.lt_of_le_of_lt (Nat.le_add_right _ _) h1), ← hb, e1]
    · rw [if_neg h1] at hb; exact absurd hb (by simp)
  | pcie f =>
    simp only [State.bar0Of] at hb ⊢
    by_cases h1 : f.val = 0
    · rw [if_pos h1] at hb
      have hb := Option.some.inj hb
      rw [if_pos h1, ← hb, e1]
    · rw [if_neg h1, e1, e, Option.map_eq_some_iff] at hb
      obtain ⟨n, hn, rfl⟩ := hb
      rw [if_neg h1, e2, hn, e3, Option.map_some]
      rw [e4, Nat.add_zero]

/-- What a command on PG_CTL writes. -/
theorem State.ctlRow_lands {s : State} {snd : Sender} {slot a : Nat} {p : PageId} (act : Nat) (en fz : Option Bool)
    (h : s.lands snd (slot * 0x1000 + 8) 4 a) (hp : pageAt (a / 0x1000) = some p) :
    s.ctlRow snd slot act en fz = s.ctlWrite snd p
      (BitVec.ofNat 32 (b2n (en.getD (s.page (a / 0x1000)).en) + b2n (fz.getD (s.page (a / 0x1000)).freeze) * 8 + act)) := by
  have hb := (State.lands_base (by omega) h).1
  have e : a / 0x1000 * 0x1000 / 0x1000 = a / 0x1000 := by omega
  have e8 : (slot * 0x1000 + 8) % 0x1000 = 8 := by omega
  simp only [State.ctlRow, hb, e, State.flushPage_nil h.2.1]
  rw [State.hostWrite_lands _ h hp, e8]
  simp [State.wordEffect, State.headerWrite]

/-- A 4-byte read of a pair's low word (02 R67). -/
theorem State.hostRead_low {s : State} {snd : Sender} {off a : Nat} {p : PageId} (h : s.finds snd off 4 a)
    (hp : pageAt (a / 0x1000) = some p) (hl : isPairLow p.blk (a % 0x1000) = true) :
    s.hostRead snd off false = (s.answer (s.readWord p (a % 0x1000)).toNat).setPage (a / 0x1000)
      { s.page (a / 0x1000) with
        readLatch := (s.page (a / 0x1000)).readLatch.put (senderFunc snd) (s.readWord p (a % 0x1000 + 4)) } := by
  obtain ⟨h1, h2, h3⟩ := h
  simp [State.hostRead, h1, hp, h3, State.flushPage_nil h2, State.readHere, hl]

/-- The read of a pair's high word returns the latch (02 R68). -/
theorem State.hostRead_high {s : State} {snd : Sender} {off a : Nat} {p : PageId} (h : s.finds snd off 4 a)
    (hp : pageAt (a / 0x1000) = some p) (h0 : isPairLow p.blk (a % 0x1000) = false) (h4 : 4 ≤ a % 0x1000)
    (hl : isPairLow p.blk (a % 0x1000 - 4) = true) :
    s.hostRead snd off false = s.answer ((s.page (a / 0x1000)).readLatch.look 0 (senderFunc snd)).toNat := by
  obtain ⟨h1, h2, h3⟩ := h
  simp [State.hostRead, h1, hp, h3, State.flushPage_nil h2, State.readHere, hl, h0, h4]

/-- An 8-byte read of a pair (02 R67). -/
theorem State.hostRead_wide {s : State} {snd : Sender} {off a : Nat} {p : PageId} (h : s.finds snd off 8 a)
    (hp : pageAt (a / 0x1000) = some p) :
    s.hostRead snd off true =
      s.answer ((s.readWord p (a % 0x1000)).toNat + (s.readWord p (a % 0x1000 + 4)).toNat * 2 ^ 32) := by
  obtain ⟨h1, h2, h3⟩ := h
  simp [State.hostRead, h1, hp, h3, State.flushPage_nil h2, State.readHere]

/-- The write of a register with a command of its own, where it takes effect at once. -/
theorem State.pfWrite_takes {s : State} {off : Nat} {p : PageId} (v : Word) (h : s.ownTakes off)
    (hp : pageAt (off / 0x1000) = some p) (hr : isRecordWindow (off / 0x1000) = false) :
    s.pfWrite off v = s.wordEffect (.pcie 0) p (off % 0x1000) none v := by
  obtain ⟨h1, -, h3, h4⟩ := h
  exact State.hostWrite_lands v ⟨by simp [State.reach, State.reachPf, h1, hr], h3, h4⟩ hp

end Sys2Proof.Machine
end

