-- ==== Sys2Proof/Laws/Boot.lean ====
section
/-! SUPPORT. MGMT.STATUS field by field, and what resets, stops and start-up failures leave (03). -/

namespace Sys2Proof.Machine

variable (s : State)

@[simp] theorem State.raise_stFld (src code : Nat) (data : List EvVal) (ctx func lo w : Nat) :
    (s.raise src code data ctx func).stFld lo w = s.stFld lo w :=
  s.raise_fld src code data ctx func lo w (by decide) (by decide)

theorem State.stFld_setSt (lo w n : Nat) (h : lo + w ≤ 32) : (s.setSt lo w n).stFld lo w = n % 2 ^ w :=
  s.fld_setFld stA lo w n h

theorem State.stFld_setSt_apart (lo w n l2 w2 : Nat) (h : lo + w ≤ 32) (d : lo + w ≤ l2 ∨ l2 + w2 ≤ lo) :
    (s.setSt lo w n).stFld l2 w2 = s.stFld l2 w2 := s.fld_setFld_apart stA lo w n l2 w2 h d

theorem State.stFld_wr_other {a : Nat} (v : Word) (lo w : Nat) (h : a ≠ stA) : (s.wr a v).stFld lo w = s.stFld lo w :=
  s.fld_wr_other v lo w h

theorem State.stFld_setFld_other {a : Nat} (lo w n l2 w2 : Nat) (h : a ≠ stA) :
    (s.setFld a lo w n).stFld l2 w2 = s.stFld l2 w2 := s.fld_setFld_other lo w n l2 w2 h

theorem State.stFld_congr {s t : State} (h : s.regs = t.regs) (lo w : Nat) : s.stFld lo w = t.stFld lo w :=
  State.fld_congr h stA lo w

@[simp] theorem State.setSt_boot (lo w n : Nat) : (s.setSt lo w n).boot = s.boot := rfl

theorem State.ready_eq : s.ready = (s.stFld 0 1 == 1) := rfl

@[simp] theorem State.raise_ready (src code : Nat) (data : List EvVal) (ctx func : Nat) :
    (s.raise src code data ctx func).ready = s.ready := by rw [State.ready_eq, State.ready_eq, State.raise_stFld]

/-- The tail of every reset: READY, BOOT_PHASE and LAST_RESET. -/
theorem State.status_tail (v : State) (last n c : Nat) (h : last < 8) :
    let t := (((v.setSt 20 3 last).setSt 15 1 c).setReady false).setPhase n
    t.bootPhase = n % 8 ∧ t.ready = false ∧ t.stFld 20 3 = last := by
  dsimp only
  rw [State.ready_eq]
  unfold State.bootPhase State.setPhase State.setReady
  rw [State.stFld_setSt _ _ _ _ (by decide), State.stFld_setSt_apart _ _ _ _ _ _ (by decide) (by decide),
    State.stFld_setSt _ _ _ _ (by decide), State.stFld_setSt_apart _ _ _ _ _ _ (by decide) (by decide),
    State.stFld_setSt_apart _ _ _ _ _ _ (by decide) (by decide),
    State.stFld_setSt_apart _ _ _ _ _ _ (by decide) (by decide), State.stFld_setSt _ _ _ _ (by decide)]
  exact ⟨rfl, rfl, Nat.mod_eq_of_lt h⟩

theorem State.beginReset_restarts (kind : ResetKind) (last : Nat) (h : last < 8) :
    (s.beginReset kind last).restarts kind last := by
  unfold State.beginReset
  extract_lets s1 s2 s3 s4 s5 s6 s7
  have hb : s5.boot.running = some kind ∧ s5.boot.held = false := ⟨rfl, rfl⟩
  have hb6 : s6.boot = s5.boot := by
    show (if _ then _ else _ : State).boot = _
    split <;> rfl
  obtain ⟨h1, h2, h3⟩ := State.status_tail s6 last (if kind = .soft then 5 else 2) (if kind = .cold then 1 else 0) h
  refine ⟨?_, ?_, ?_, h2, h3⟩
  · exact (congrArg Boot.running hb6).trans hb.1
  · exact (congrArg Boot.held hb6).trans hb.2
  · rw [h1]; split <;> rfl

/-- A stop of the package (03 R82, R84): islands 1 to 15 held, READY 0, nothing runs. -/
theorem State.holdIslands_held : s.holdIslands.boot.held = true ∧ s.holdIslands.boot.running = none ∧
    s.holdIslands.ready = false := by
  unfold State.holdIslands
  generalize s.resetIslands false = u
  dsimp only
  refine ⟨by rw [State.withBoot_boot], by rw [State.withBoot_boot], ?_⟩
  rw [State.ready_eq, State.stFld_congr (State.withBoot_regs _ _), State.stFld_setFld_other _ _ _ _ _ _ (by decide)]
  unfold State.setPcieUp State.setReady
  rw [State.stFld_setSt_apart _ _ _ _ _ _ (by decide) (by decide), State.stFld_setSt _ _ _ _ (by decide)]
  rfl

/-- 03 R92. -/
theorem State.bootFail_failed (code : Nat) (h : code < 16) : (s.bootFail code).bootFailed code := by
  unfold State.bootFail State.bootFailed State.bootPhase State.setPhase
  dsimp only
  simp only [State.raise_stFld]
  refine ⟨?_, ?_, ?_, by simp⟩
  · show State.stFld (State.setSt _ _ _ _) _ _ = _
    rw [State.stFld_setSt _ _ _ _ (by decide)]; rfl
  · show State.stFld (State.setSt _ _ _ _) _ _ = _
    rw [State.stFld_setSt_apart _ _ _ _ _ _ (by decide) (by decide),
      State.stFld_setSt_apart _ _ _ _ _ _ (by decide) (by decide), State.stFld_setSt _ _ _ _ (by decide)]; rfl
  · show State.stFld (State.setSt _ _ _ _) _ _ = _
    rw [State.stFld_setSt_apart _ _ _ _ _ _ (by decide) (by decide), State.stFld_setSt _ _ _ _ (by decide)]
    exact Nat.mod_eq_of_lt h

end Sys2Proof.Machine
end

