-- ==== Sys2Proof/Laws/Rings.lean ====
section
/-! SUPPORT. Taking up a descriptor (04 R134, R142). -/

namespace Sys2Proof.Machine

/-- A descriptor that stands before its checks completes with the first status that applies, or goes on. -/
theorem State.take_before {s u : State} {n q cls : Nat} {d : Desc} (check : State → Desc → Option Status)
    (body : State → Desc → State) (h : s.beforeChecks n q cls = some (u, d)) :
    s.take n q cls check body = match check u d with
      | some st => u.complete d st 0 0
      | none => body u d := by
  unfold State.beforeChecks at h
  unfold State.take
  cases hd : s.nextDesc n q with
  | none => rw [hd] at h; cases h
  | some x =>
    rw [hd] at h
    dsimp only at h ⊢
    split at h
    · next hc =>
      obtain ⟨h1, h2, h3⟩ := hc
      have he := Option.some.inj h
      obtain ⟨rfl, rfl⟩ := Prod.mk.inj he
      rw [if_neg (by simp [h1]), if_neg (by simp [h2])]
      simp only [h3] <;> rfl
    · cases h

theorem State.take_refused {s u : State} {n q cls : Nat} {d : Desc} {st : Status} (check : State → Desc → Option Status)
    (body : State → Desc → State) (h : s.beforeChecks n q cls = some (u, d)) (c : check u d = some st) :
    s.take n q cls check body = u.complete d st 0 0 := by rw [State.take_before check body h, c]

theorem State.take_goes {s u : State} {n q cls : Nat} {d : Desc} (check : State → Desc → Option Status)
    (body : State → Desc → State) (h : s.beforeChecks n q cls = some (u, d)) (c : check u d = none) :
    s.take n q cls check body = body u d := by rw [State.take_before check body h, c]

end Sys2Proof.Machine
end

