-- ==== Sys2Proof/Certificates/Slice0/Obligations.lean ====
section
/-! DEFINITION. The statements for the provers. Each docstring names the rules of spec/ that it rests on, as file number
and rule; `completes` says that the command answers a next state of which the rest holds. -/

open Sys2Proof Sys2Proof.Machine

/-- From the form of a block: the command at the front of the queue runs on the state with the queue's rest (log 1). -/
def Obligations.StepRunsTheFront : Prop :=
  ∀ (c : Instr) (r : List Instr) (s : State), s.pending = c :: r → step s = exec c { s with pending := r }

/-- 00 R5, 04 R114, 16 R542, 18 R582, 19 R620, 02 R60: before power-on the GTS is 0, READY reads 0, every context is FREE, the package is
SOLO with CONSIST_EPOCH 0, test access is locked and every page has epoch 0 and no perturbation. No command waits and every byte of HBM
reads as zero (the model's choice, log 3). The model's reading: log 3, 6, 10. -/
def Obligations.ResetValues : Prop :=
  State.reset.gts = 0 ∧ State.reset.ready = false ∧ State.reset.pending = [] ∧ State.reset.consist = csSolo ∧
  State.reset.consistEpoch = 0 ∧ State.reset.unlocked = false ∧ State.reset.pst = 0 ∧ State.reset.evrHead = 0 ∧
  (∀ n : Fin 256, State.reset.ctxState n = stFree ∧ State.reset.ctxFunc n = 0) ∧
  (∀ k, (State.reset.page k).epoch = 0 ∧ (State.reset.page k).perturb = 0 ∧ (State.reset.page k).locked = false) ∧
  ∀ a, memGet State.reset.mem a = 0

/-- Log 3: at reset the sparse tables are in their canonical form. -/
def Obligations.ResetSatisfiesInv : Prop :=
 State.reset.Inv

/-- Log 3: every step keeps the canonical form of HBM, SRAM and host memory, of the core bays and of the poisoned lines. -/
def Obligations.StepKeepsInv : Prop :=
 ∀ s t : State, s.Inv → step s = .next t → t.Inv

/-- Log 1, 2: no command faults or is refused, and with no command waiting one step lets 1 ns pass. -/
def Obligations.EveryStepGoesOn : Prop :=
  (∀ (c : Instr) (s : State), ∃ t, exec c s = .next t) ∧
  (∀ s : State, s.pending = [] → step s = .next s.tick ∧ s.tick.now = s.now + 1 ∧ s.tick.pending = [])

/-- 02 R64, R42, R43, R54 to R56, R650: a host write enters the crossing FIFO of its page, a block reset that runs holds it (R66), the
oldest write of a page takes effect in order, and an access that a rule of R650 answers is refused with the event of that rule: a write is
dropped, a read is answered with the fixed word. 04 R128: a read of a doorbell page returns 0, and a write to another of its offsets is
ignored. The model's reading: log 5, 11. Completes: registerWrite, writeTakesEffect, refusedAccess. -/
def Obligations.PostedWritesAndRefusals : Prop :=
  (∀ (snd : Sender) (off : Fin 33554432) (v : Word) (s : State) (a : Nat), s.reach snd off 4 true = .word a →
    completes (.registerWrite snd off v) s (fun t =>
      let w : PostedWrite := ⟨snd, a % 0x1000, none, v⟩
      let h := s.page (a / 0x1000)
      t.page (a / 0x1000) = (if h.resetting then { h with held := h.held ++ [w] } else { h with fifo := h.fifo ++ [w] }) ∧
      (∀ k, k ≠ a / 0x1000 → t.page k = s.page k) ∧ t.regs = s.regs ∧ t.mem = s.mem)) ∧
  (∀ (slot : Fin 8192) (p : PageId) (w : PostedWrite) (r : List PostedWrite) (s : State),
    pageAt slot = some p → (s.page slot).fifo = w :: r →
    exec (.writeTakesEffect slot) s =
      .next ((s.setPage slot { s.page slot with fifo := r }).wordEffect w.sender p w.off w.low w.val)) ∧
  (∀ (snd : Sender) (off : Fin 33554432) (width c : Nat) (write : Bool) (s : State),
    s.reach snd off width write = .refused c →
    completes (.refusedAccess snd (.bar0 off) width write) s (fun t =>
      (write = true → t.logged s.gts 0x1120 c [.w 0, .d off] 0xFF (senderFunc snd)) ∧
      (write = false → c ≠ 0x2181 → t.logged s.gts 0x1120 c [.w 0, .d off] 0xFF (senderFunc snd)) ∧
      (write = false → width = 4 → t.host.answer = BitVec.ofNat 64 (refusedWord c)) ∧
      t.mem = s.mem ∧ t.ctxs = s.ctxs ∧ ∀ a, a ≠ ro .evr 0 0x60 → a ≠ ro .evr 0 0x58 → t.rd a = s.rd a)) ∧
  (∀ (snd : Sender) (off : Fin 33554432) (width : Nat) (s : State),
    exec (.refusedAccess snd (.bar2 off) width false) s = .next (s.answer 0) ∧
    (s.ready = true → exec (.refusedAccess snd (.bar2 off) width true) s = .next s))

/-- 02 R67 to R69: the read of a pair's low word loads the high word into the reader's latch, the read of its high word returns the latch,
an 8-byte read returns both halves; a low-half write waits in the writer's latch and changes no register; the high-half write installs
both halves, the latched one or the one its 8-byte write carries. R59, R62: PG_GTS is such a pair. The model's reading: log 5. Completes:
pairLowRead, pairLowWrite, pairHighWrite, pgGtsLoRead. -/
def Obligations.PairsAreReadAndWrittenWhole : Prop :=
  (∀ (snd : Sender) (off : Fin 33554432) (a : Nat) (p : PageId) (s : State), s.finds snd off 4 a →
    pageAt (a / 0x1000) = some p → isPairLow p.blk (a % 0x1000) = true →
    completes (.pairLowRead snd off false) s (fun t =>
      t.host.answer = BitVec.ofNat 64 (s.readWord p (a % 0x1000)).toNat ∧
      (t.page (a / 0x1000)).readLatch.look 0 (senderFunc snd) = s.readWord p (a % 0x1000 + 4) ∧ t.regs = s.regs)) ∧
  (∀ (snd : Sender) (off : Fin 33554432) (a : Nat) (p : PageId) (s : State), s.finds snd off 4 a →
    pageAt (a / 0x1000) = some p → isPairLow p.blk (a % 0x1000) = false → 4 ≤ a % 0x1000 →
    isPairLow p.blk (a % 0x1000 - 4) = true →
    completes (.pairLowRead snd off false) s (fun t =>
      t.host.answer = BitVec.ofNat 64 ((s.page (a / 0x1000)).readLatch.look 0 (senderFunc snd)).toNat ∧
      t.pages = s.pages ∧ t.regs = s.regs)) ∧
  (∀ (snd : Sender) (off : Fin 33554432) (a : Nat) (p : PageId) (s : State), s.finds snd off 8 a →
    pageAt (a / 0x1000) = some p →
    completes (.pairLowRead snd off true) s (fun t =>
      t.host.answer = BitVec.ofNat 64
        ((s.readWord p (a % 0x1000)).toNat + (s.readWord p (a % 0x1000 + 4)).toNat * 2 ^ 32) ∧
      t.pages = s.pages ∧ t.regs = s.regs)) ∧
  (∀ (snd : Sender) (off : Fin 33554432) (v : Word) (a : Nat) (p : PageId) (s : State), s.lands snd off 4 a →
    pageAt (a / 0x1000) = some p → isPairLow p.blk (a % 0x1000) = true → 0x40 ≤ a % 0x1000 →
    s.ignores snd p (a % 0x1000) = none →
    completes (.pairLowWrite snd off v) s (fun t =>
      (t.page (a / 0x1000)).writeLatch.look 0 (senderFunc snd) = v ∧ t.regs = s.regs ∧ t.mem = s.mem)) ∧
  (∀ (snd : Sender) (off : Fin 33554432) (v : Word) (a : Nat) (p : PageId) (s : State), s.lands snd off 4 a →
    pageAt (a / 0x1000) = some p → 0x44 ≤ a % 0x1000 → isPairLow p.blk (a % 0x1000) = false →
    isPairLow p.blk (a % 0x1000 - 4) = true →
    exec (.pairHighWrite snd off none v) s =
      .next (s.pairWrite snd p (a % 0x1000 - 4) ((s.page (a / 0x1000)).writeLatch.look 0 (senderFunc snd)) v)) ∧
  (∀ (snd : Sender) (off : Fin 33554432) (lo v : Word) (a : Nat) (p : PageId) (s : State), 4 ≤ off.val →
    s.lands snd (off - 4 : Nat) 8 a → s.bar0Of snd off = some (a + 4) → pageAt (a / 0x1000) = some p →
    0x40 ≤ a % 0x1000 → a % 0x1000 < 0xFF8 → isPairLow p.blk (a % 0x1000 + 4) = false → isPairLow p.blk (a % 0x1000) = true →
    exec (.pairHighWrite snd off (some lo) v) s = .next (s.pairWrite snd p (a % 0x1000) lo v)) ∧
  (∀ (snd : Sender) (slot : Fin 8192) (a : Nat) (p : PageId) (s : State),
    s.finds snd (slot * 0x1000 + 0x30) 4 a → pageAt (a / 0x1000) = some p →
    completes (.pgGtsLoRead snd slot) s (fun t =>
      t.host.answer = BitVec.ofNat 64 ((s.page (slotOf p.blk p.inst)).evGts % 2 ^ 32) ∧
      (t.page (a / 0x1000)).readLatch.look 0 (senderFunc snd) =
        BitVec.ofNat 32 ((s.page (slotOf p.blk p.inst)).evGts / 2 ^ 32) ∧ t.regs = s.regs))

/-- 02 R59, R61, 04 R150 to R154: the commands on PG_CTL. EN set enables the page; EN cleared disables it, at its atom boundary; DRAIN
stops an enabled page after its work; ABORT ends the block's work at once and stops a drain; FREEZE is stored, and kept on a locked page
(R74); SRST starts a block reset. 04 R151, R152, 02 R61, R66: a disabled page that reaches its atom boundary has cancelled its work and is
quiescent; a drained page with no work left is disabled and quiescent; a finished block reset leaves the header at its reset values, but
for what R61 keeps, and the held writes in the FIFO. The model's reading: log 5, 12, 13. Completes: pgCtlEnSet, pgCtlEnClear, pgCtlDrain,
pgCtlAbort, pgCtlFreeze, pgCtlSrst, blockQuiesced, drainDone, blockResetDone. -/
def Obligations.PageControlsAndTheirEnd : Prop :=
  (∀ (snd : Sender) (slot : Fin 8192) (a : Nat) (p : PageId) (s : State), pageAt (a / 0x1000) = some p →
    s.lands snd (slot * 0x1000 + 8) 4 a →
    let k := a / 0x1000
    let h := s.page k
    exec (.pgCtlEnSet snd slot) s =
      (let u := s.setPage k { h with en := true, quiescent := h.quiescent && decide (h.stopping = .disabling) }
       .next (if h.stopping = .no ∧ (h.en = false ∨ p.blk = .kl) then u.enableWork p else u)) ∧
    (h.en = true →
      exec (.pgCtlEnClear snd slot) s = .next (s.setPage k { h with en := false, stopping := .disabling }) ∧
      (h.stopping = .no → completes (.pgCtlDrain snd slot) s (fun t =>
        (t.page k).stopping = .draining ∧ (t.page k).en = true))) ∧
    completes (.pgCtlAbort snd slot) s (fun t => (t.page k).stopping ≠ .draining) ∧
    (∀ on : Bool, completes (.pgCtlFreeze snd slot on) s (fun t =>
      (t.page k).freeze = (if h.locked then h.freeze else on) ∧ t.mem = s.mem ∧ t.ctxs = s.ctxs)) ∧
    completes (.pgCtlSrst snd slot) s (fun t =>
      (t.page k).resetting = true ∧ (t.page k).stopping = .no ∧ (t.page k).quiescent = false ∧ (t.page k).fifo = [])) ∧
  (∀ (slot : Fin 8192) (p : PageId) (s : State), pageAt slot = some p →
    ((s.page slot).stopping = .disabling → completes (.blockQuiesced slot) s (fun t =>
      let u := s.cancelBlock p.blk p.inst .cancelled
      let h := u.page slot
      let v := u.setPage slot { h with stopping := .no, quiescent := !h.en }
      t = if h.en then v.enableWork p else v)) ∧
    ((s.page slot).stopping = .draining → s.hasWork p.blk p.inst = false → completes (.drainDone slot) s (fun t =>
      let u := s.setPage slot { s.page slot with en := false, stopping := .no, quiescent := true }
      t = if p.blk = .kl then u.disablePort p.inst else u)) ∧
    ((s.page slot).resetting = true → (s.page slot).heldReads = [] → (p.blk = .ctx → s.host.bells = []) →
      completes (.blockResetDone slot) s (fun t =>
      (t.page slot).resetting = false ∧ (t.page slot).en = false ∧ (t.page slot).freeze = false ∧
      (t.page slot).fault = false ∧ (t.page slot).locked = false ∧ (t.page slot).held = [] ∧
      (t.page slot).fifo = (s.page slot).held ∧ (t.page slot).epoch = (s.page slot).epoch ∧
      (t.page slot).ownerCtx = (s.page slot).ownerCtx ∧ t.mem = s.mem)))

/-- 02 R59, R62: a write of PG_EV_RAW clears the bits it sets but those that hardware sets in the same cycle; a write of PG_EV_FORCE sets
them; nothing else of the page changes. 02 R70 to R72: COMMIT on an idle shadowed page makes the shadows active at once and counts it;
with DISCARD it acts behind the DISCARD; DISCARD alone gives every shadow its active value; the block's atom boundary installs a pending
snapshot. The model's reading: log 5, 8. Completes: pgEvRawClear, pgEvForceWrite, pgCommitCommit, pgCommitDiscard, shadowInstall. -/
def Obligations.PageEventsAndShadows : Prop :=
  (∀ (snd : Sender) (slot : Fin 8192) (a : Nat) (p : PageId) (s : State) (v w : Word), pageAt (a / 0x1000) = some p →
    let k := a / 0x1000
    let h := s.page k
    (s.lands snd (slot * 0x1000 + 0x10) 4 a → completes (.pgEvRawClear snd slot v w) s (fun t =>
      t.page k = { h with evRaw := h.evRaw &&& ~~~(v &&& ~~~w) } ∧ (∀ j, j ≠ k → t.page j = s.page j) ∧
      t.regs = s.regs)) ∧
    (s.lands snd (slot * 0x1000 + 0x1C) 4 a → completes (.pgEvForceWrite snd slot v) s (fun t =>
      t.page k = { h with evRaw := h.evRaw ||| v } ∧ (∀ j, j ≠ k → t.page j = s.page j) ∧ t.regs = s.regs))) ∧
  ((∀ (snd : Sender) (slot : Fin 8192) (a : Nat) (p : PageId) (s : State), pageAt (a / 0x1000) = some p →
    s.lands snd (slot * 0x1000 + 0x38) 4 a → shadowedPage p.blk = true →
    exec (.pgCommitCommit snd slot false) s = .next (s.commit snd p) ∧
    exec (.pgCommitCommit snd slot true) s = .next ((s.discard p).commit snd p) ∧
    exec (.pgCommitDiscard snd slot) s = .next (s.discard p) ∧
    (p.blk ≠ .klr → (s.page (a / 0x1000)).pendingCommit = false → s.hasWork p.blk p.inst = false →
      completes (.pgCommitCommit snd slot false) s (fun t =>
        (t.page (a / 0x1000)).pendingCommit = false ∧
        (t.page (a / 0x1000)).commitCount = (s.page (a / 0x1000)).commitCount + 1 ∧ t.regs = s.regs))) ∧
  (∀ (slot : Fin 8192) (p : PageId) (s : State), pageAt slot = some p → (s.page slot).resetting = false →
    (s.page slot).pendingCommit = true → completes (.shadowInstall slot) s (fun t =>
      (t.page slot).pendingCommit = false ∧ (t.page slot).commitCount = (s.page slot).commitCount + 1 ∧
      t.regs = s.regs)))

/-- 02 R73, R74, R651 and R47: the PF's write of PG_OWNER stores the context of an ownable block and the lock, which holds until a write
clears it; the PF's write of a word of HOST.CTX_FUNC assigns its four contexts, each of which must be FREE, and no VF gets more than 63.
The model's reading: log 5. Completes: pgOwnerWrite, ctxFuncWrite. -/
def Obligations.OwnersOfPagesAndContexts : Prop :=
  (∀ (slot : Fin 8192) (a : Nat) (p : PageId) (v : Word) (s : State), pageAt (a / 0x1000) = some p →
    s.lands (.pcie 0) (slot * 0x1000 + 0x24) 4 a → ((s.page (a / 0x1000)).locked = false ∨ bitsOf v 8 1 = 0) →
    completes (.pgOwnerWrite (.pcie 0) slot v) s (fun t =>
      t.page (a / 0x1000) = { s.page (a / 0x1000) with
        ownerCtx := if ownable p.blk then BitVec.ofNat 8 (bitsOf v 0 8) else (s.page (a / 0x1000)).ownerCtx,
        locked := bitsOf v 8 1 == 1 } ∧ t.regs = s.regs)) ∧
  (∀ (w : Fin 64) (v : Word) (s : State), s.lands (.pcie 0) (ro .host 0 (0x800 + w * 4)) 4 (ro .host 0 (0x800 + w * 4)) →
    (s.page 0x100).locked = false → (∀ i : Fin 4, s.ctxState (w * 4 + i) = stFree) →
    (∀ fn : Nat, ((List.range 256).filter fun m => s.ctxFunc m == fn).length ≤ 59 ∨ fn = 0) →
    completes (.ctxFuncWrite (.pcie 0) w v) s (fun t => ∀ n : Fin 256,
      t.ctxFunc n = if n.val / 4 = w then bitsOf v (8 * (n % 4 : Nat)) 4 else s.ctxFunc n))

/-- 02 R50 to R52: in service, a write through BAR4 that the function may make stores its bytes in HBM and a read returns the bytes and
whether a line of them is poisoned (18 R604); an access that the function may not make changes no memory, and a VF's is logged. The
model's reading: log 3, 16. Completes: bar4Access. -/
def Obligations.HbmWindow : Prop :=
  ∀ (fn : Fin 16) (off : Fin 137438953472) (s : State), s.pst ≠ 4 → s.ready = true →
    (∀ bs : List Byte, bs ≠ [] → off + bs.length ≤ s.bar4Size fn → s.bar4Ok fn (s.bar4Byte fn off) bs.length = true →
      exec (.bar4Access fn off bs.length (some bs)) s = .next (s.store (kHbm (s.bar4Byte fn off)) bs)) ∧
    (∀ n : Nat, 0 < n → off + n ≤ s.bar4Size fn → s.bar4Ok fn (s.bar4Byte fn off) n = true → s.latent = [] →
      completes (.bar4Access fn off n none) s (fun t =>
        t.host.bar4Data = s.load (kHbm (s.bar4Byte fn off)) n ∧
        t.host.bar4Poisoned = poisonedIn s.poison (kHbm (s.bar4Byte fn off)) n ∧ t.mem = s.mem)) ∧
    (∀ n : Nat, 0 < n → off + n ≤ s.bar4Size fn → s.bar4Ok fn (s.bar4Byte fn off) n = false → fn.val ≠ 0 →
      completes (.bar4Access fn off n none) s (fun t =>
        t.logged s.gts 0x1120 0x2186 [.w 4, .d off] 0xFF fn ∧ t.mem = s.mem ∧ t.poison = s.poison))

/-- 03 R79 to R85, R87, 17 R577, 18 R608: rails and REFCLK. The last power-good input is T0, and starts a cold reset once the always-on
island is up; a rail, REFCLK, THERM_TRIP or an IOD control SRAM that fails holds islands 1 to 15 in reset; REFCLK's return starts a warm
reset; VAON's loss leaves what NOR holds. 03 R90 to R96: the phases of a reset. Phase 2 ends with the PLLs locked, phase 3 with verified
firmware, phase 6 with READY; a failure ends start-up with its code (R92), and a phase that lasts too long starts one warm reset (R91).
The model's reading: log 10, 18, 19. Completes: pgAonAssert, aonLeavesReset, powerGoodAssert, vaonLoss, powerGoodDeassert, refclkLoss,
refclkReturn, thermTrip, fatalStop, phase2Done, phase3Done, phase5Done, readySet, phaseTimeout, recoveryImageReceived. -/
def Obligations.RailsClockAndPhases : Prop :=
  (∀ s : State,
    (∀ g : Fin 4, s.boot.pg.toNat % 2 = 0 → completes (.pgAonAssert g) s (fun t =>
      t.boot.pg = s.boot.pg ||| 1 ∧ t.boot.refclk = true ∧ t.boot.aonSince = s.now ∧ t.pins.i3cSel = g ∧
      t.regs = s.regs ∧ t.mem = s.mem)) ∧
    (s.boot.aonUp = false → s.boot.pg.toNat % 2 = 1 → s.boot.pg ≠ 0xFF → s.boot.refclk = true →
      s.boot.aonSince + 1000000 ≤ s.now → completes .aonLeavesReset s (fun t =>
        t.boot.aonUp = true ∧ t.boot.held = true ∧ t.gts = 0)) ∧
    (∀ (i : Fin 8) (two : Bool), i.val ≠ 0 → s.boot.pg.toNat / 2 ^ i.val % 2 = 0 →
      let pg := s.boot.pg ||| BitVec.ofNat 8 (2 ^ i.val)
      (pg ≠ 0xFF → completes (.powerGoodAssert i two) s (fun t => t.boot.pg = pg ∧ t.mem = s.mem)) ∧
      (pg = 0xFF → s.boot.aonUp = true → s.boot.refclk = true → s.boot.refLost = false →
        completes (.powerGoodAssert i two) s (fun t =>
          t.restarts .cold 0 ∧ t.boot.startAt = s.now ∧ t.boot.phaseAt = s.now))) ∧
    completes .vaonLoss s (fun t => t.boot.aonUp = false ∧ t.ready = false ∧ t.gts = 0 ∧ t.evr.slots = [] ∧
      t.evr.mirrored = s.evr.mirrored ∧ t.boot.calStore = s.boot.calStore ∧ t.ctxs = []) ∧
    (∀ i : Fin 8, i.val ≠ 0 → s.boot.pg.toNat / 2 ^ i.val % 2 = 1 → s.boot.aonUp = true →
      completes (.powerGoodDeassert i) s (fun t => t.boot.held = true ∧ t.bootPhase = 1 ∧ t.ready = false)) ∧
    (s.boot.refclk = true → s.boot.aonUp = true → completes .refclkLoss s (fun t =>
      t.boot.held = true ∧ t.boot.refLost = true ∧ t.sync.pll = false ∧ t.ready = false)) ∧
    (s.boot.refclk = false → s.boot.aonUp = true → s.boot.pg = 0xFF → s.boot.fatal = false → s.boot.tripped = false →
      s.boot.running ≠ some .cold → completes .refclkReturn s (fun t => t.restarts .warm 5)) ∧
    (s.boot.aonUp = true → s.boot.held = false → (s.starting = false ∨ 2 < s.bootPhase) →
      completes .thermTrip s (fun t => t.boot.held = true ∧ t.boot.tripped = true ∧ t.pins.thermTripN = false ∧
        t.ready = false)) ∧
    (∀ n : Nat, s.boot.aonUp = true → s.boot.held = false → s.pst ≠ 4 →
      completes (.fatalStop n) s (fun t => t.boot.held = true ∧ t.boot.fatal = true ∧ t.ready = false))) ∧
  (∀ s : State,
    (∀ mean : Int, s.inPhase 2 = true →
      (s.p4Exit = false → (s.boot.running ≠ some .warm ∨ s.boot.fwRuns = false) →
        completes (.phase2Done true mean) s (fun t =>
          t.bootPhase = 3 ∧ t.sync.pll = true ∧ t.boot.phaseAt = s.now)) ∧
      (s.p4Exit = true → completes (.phase2Done true mean) s (fun t =>
        t.bootPhase = 4 ∧ t.sync.pll = true ∧ t.boot.phaseAt = s.now ∧ t.boot.calFull = s.boot.calFull)) ∧
      completes (.phase2Done false mean) s (fun t => t.bootFailed 1)) ∧
    (∀ (a b : Bool) (mean : Int), s.inPhase 3 = true → s.activeSlot = none →
      completes (.phase3Done a b mean) s (fun t => t.bootFailed 2)) ∧
    (∀ (a b act : Bool) (mean : Int), s.inPhase 3 = true → s.activeSlot = some act →
      (if act then b else a) = true → s.boot.wantGolden = false →
      exec (.phase3Done a b mean) s = .next (s.fwLoaded false mean)) ∧
    (∀ slots slices sysc, s.inPhase 5 = true → s.p4Exit = false → s.boot.running ≠ some .soft →
      completes (.phase5Done false true slots slices sysc) s (fun t => t.bootFailed 5) ∧
      completes (.phase5Done true false slots slices sysc) s (fun t => t.bootFailed 6)) ∧
    (∀ io un slots slices sysc, s.inPhase 5 = true →
      (s.p4Exit = false → s.boot.running = some .soft →
        exec (.phase5Done io un slots slices sysc) s = .next (s.phaseEnds 5 6).countCores) ∧
      (s.p4Exit = true → completes (.phase5Done io un slots slices sysc) s (fun t => t.bootPhase = 6 ∧ t.bay = [] ∧
        ∀ a, a < hbmBytes → memGet t.mem a = 0))) ∧
    (s.inPhase 6 = true → s.p4Exit = false → completes .readySet s (fun t =>
      t.ready = true ∧ t.boot.running = none ∧ t.boot.wasReady = true ∧ t.bit flrA 0 = false ∧
      (s.bit flrA 0 = true → t.logged t.gts 0x1120 0x01A7 [] 0xFF 0))) ∧
    (s.starting = true → s.boot.held = false → 2 ≤ s.bootPhase → s.bootPhase ≤ 6 →
      s.boot.phaseAt + phaseMax s.bootPhase * 1000000 ≤ s.now →
      (s.boot.retried = false → completes .phaseTimeout s (fun t => t.restarts .warm 7 ∧ t.boot.retried = true)) ∧
      (s.boot.retried = true → completes .phaseTimeout s (fun t => t.bootFailed 7))) ∧
    (s.stFld 6 1 = 1 → s.stFld 8 4 = 2 → s.canReset = true → completes (.recoveryImageReceived true) s (fun t =>
      t.restarts .recovery 6 ∧ t.boot.wantGolden = false ∧
      (s.activeSlot = some false → t.boot.slot0Good = true) ∧ (s.activeSlot = some true → t.boot.slot1Good = true))))

/-- 03 R86, R98, R99: an attempt of an item of phase 4 that succeeds ends the item, and that of the PCIe SerDes opens the link's time; an
attempt that fails is followed by the full calibration; calibrated items' records are written to NOR in service. The model's reading: log
19. Completes: calItemDone, pcieSerdesDone, calRecordsSaved. -/
def Obligations.CalibrationItems : Prop :=
  ∀ s : State,
    (s.inPhase 4 = true → ∀ item : Fin 14, s.boot.calDone.contains item.val = false →
      completes (.calItemDone item true) s (fun t => t.boot.calDone = s.boot.calDone ++ [item.val]) ∧
      (s.boot.calFull.contains item.val = false →
        exec (.calItemDone item false) s =
          .next ((if s.p4Exit ∧ s.boot.calFull = [] then s.raise 0x0003 0x2035 [] else s).withBoot fun b =>
            { b with calFull := s.boot.calFull ++ [item.val] }))) ∧
    (s.inPhase 4 = true ∨ s.inPhase 3 = true → s.boot.calDone.contains 0 = false →
      completes (.pcieSerdesDone true) s (fun t => t.boot.serdesDone = true ∧ t.boot.serdesAt = s.now)) ∧
    (s.ready = true → s.bit (calA 0x40) 1 = true → completes .calRecordsSaved s (fun t =>
      t.boot.calFull = [] ∧ t.regs = s.regs ∧ ∀ i ∈ s.boot.calFull,
        t.boot.calStore.look? i = some ⟨true, true, true, sNat 2 (s.fld (calA 0x48) 0 16)⟩))

/-- 03 R86 to R89, 04 R129: PERST# in service starts a warm reset; its release opens the endpoint; a link that trains sets PCIE_UP; a
vector that becomes enabled and unmasked sends the message that was pending. Completes: perstAssert, perstRelease, pcieLinkUp,
msixVectorUnmasked. -/
def Obligations.PciePinsAndVectors : Prop :=
  ∀ s : State,
    (s.boot.perst = false → s.pst ≠ 4 → s.ready = true → s.boot.aonUp = true → s.canReset = true →
      s.boot.running = none → completes .perstAssert s (fun t => t.restarts .warm 1)) ∧
    (s.boot.perst = true → completes .perstRelease s (fun t =>
      t.boot.perst = false ∧ t.boot.perstAt = s.now ∧ t.regs = s.regs)) ∧
    (s.boot.perst = false → s.boot.serdesDone = true → s.boot.held = false → s.boot.fatal = false →
      ∀ (b : Fin 10) (v : Fin 9), completes (.pcieLinkUp ⟨0, b, v⟩) s (fun t => t.stFld 13 1 = 1 ∧
        t.bit (ro .host 0 0x60) 1 = true ∧ t.pins.wakeN = true ∧ t.bar4Size 0 = 2 ^ (28 + b.val) ∧
        t.bar4Size 1 = 2 ^ (26 + v.val))) ∧
    (∀ (fn : Fin 16) (v : Fin 1088), (fn.val = 0 ∨ v.val < 64) → completes (.msixVectorUnmasked fn v) s (fun t =>
      t.host.vecOpen.look false (vecKey fn v) = true ∧ t.host.vecPending.look false (vecKey fn v) = false ∧
      t.host.vecSent.look 0 (vecKey fn v) = s.host.vecSent.look 0 (vecKey fn v) +
        (if s.host.vecPending.look false (vecKey fn v) then 1 else 0)))

/-- 03 R105, R111, 04 R120: a reset that MGMT.RST_CMD or an FLR of the PF requests in service starts, from the PF or over I3C. 03 R106 to
R108: the reset button. A press is counted from its start; its release within 4 s requests a warm reset, from 4 s to 15 s a recovery
reset; a hold of 30 s masks the button, and a release that holds for 1 s frees it. The model's reading: log 18, 20. Completes: rstCmdWarm,
rstCmdSoft, rstCmdRecovery, rstCmdPackage, pfFlr, rstBtnPress, rstBtnRelease, buttonStuck, btnUnmask. -/
def Obligations.ResetRequestsAndButton : Prop :=
  (∀ (snd : Sender) (s : State), snd = .pcie 0 ∨ snd = .i3c → s.ownTakes rstCmdA →
    s.boot.aonUp = true → s.canReset = true → s.boot.running = none → s.boot.wasReady = true →
    completes (.rstCmdWarm snd) s (fun t => t.restarts .warm 3) ∧
    completes (.rstCmdSoft snd) s (fun t => t.restarts .soft 4) ∧
    completes (.rstCmdRecovery snd) s (fun t => t.restarts .recovery 6) ∧
    completes (.rstCmdPackage snd) s (fun t => t.restarts .cold 3) ∧
    completes .pfFlr s (fun t => t.restarts .soft 4 ∧ t.bit flrA 0 = true)) ∧
  (∀ s : State,
    (s.boot.aonUp = true → s.btnDisabled = false → s.btnState = 0 → completes .rstBtnPress s (fun t =>
      t.btnState = 1 ∧ t.boot.btnSince = s.now ∧ t.bit btnA 2 = true)) ∧
    (s.boot.aonUp = true → s.bit btnA 2 = true → s.btnState = 1 → s.canReset = true → s.boot.running = none →
      (s.holdTime < 4000000000 → completes .rstBtnRelease s (fun t => t.restarts .warm 2)) ∧
      (4000000000 ≤ s.holdTime → s.holdTime ≤ 15000000000 →
        completes .rstBtnRelease s (fun t => t.restarts .recovery 6)) ∧
      (15000000000 < s.holdTime → s.holdTime < 30000000000 → completes .rstBtnRelease s (fun t =>
        t.btnState = 0 ∧ t.logged s.gts 0x0005 0x1015 [] 0xFF 0xFF))) ∧
    (s.btnState = 1 → 30000000000 ≤ s.holdTime → s.boot.pg = 0xFF → completes .buttonStuck s (fun t =>
      t.btnState = 2 ∧ t.stFld 7 1 = 1 ∧ t.logged s.gts 0x0005 0x2019 [] 0xFF 0xFF)) ∧
    (∀ n : Nat, s.boot.btnReleasedAt = some n → s.btnState = 2 → n + 1000000000 ≤ s.now →
      completes .btnUnmask s (fun t => t.btnState = 0 ∧ t.stFld 7 1 = 0 ∧ t.boot.btnReleasedAt = none)))

/-- 04 R115 to R119, 05 R156 to R160: the commands of a context from the PF. OPEN of a FREE context whose rings are valid and whose
reservation is admitted makes it OPEN with its counts at 0 and the next admission order; a refused reservation leaves it FREE with the
reason (R160). CLOSE drains it; RESET aborts it and leaves it OPEN; a drained context becomes FREE. A command that the state does not
allow is ignored and logged (R115). 04 R119, R120: a function-level reset of a VF aborts every context of the function that is not FREE
and raises FLR_DONE for it; clearing VF Enable does so for every VF of link 0. The model's reading: log 21. Completes: ctxCmdOpen,
ctxCmdClose, ctxCmdReset, ctxCloseDone, vfFlr, vfEnableClear. -/
def Obligations.ContextLifeAndVfResets : Prop :=
  (∀ (ctx : Fin 256) (s : State),
    (s.ownTakes (cr ctx 0x44) →
      (∀ load : Nat, s.ctxState ctx = stFree → s.ringsValid ctx = true →
        (((s.wr (cr ctx 0x124) (s.rd (ro .sbox 0 0x60))).setCtx ctx { s.ctx ctx with admitted := true }).admTest ctx)
          = (0, load) → completes (.ctxCmdOpen ctx) s (fun t =>
            t.ctxState ctx = stOpen ∧ (t.ctx ctx).admitted = true ∧ (t.ctx ctx).descs = [] ∧ t.cqTail ctx = 0 ∧
            t.cqSeen ctx = 0 ∧ t.rd (cr ctx 0x124) = s.rd (ro .sbox 0 0x60) ∧
            t.rd (ro .sbox 0 0x60) = s.rd (ro .sbox 0 0x60) + 1 ∧ ∀ q : Fin 4, t.sqHead ctx q = 0 ∧ t.sqDone ctx q = 0)) ∧
      (∀ why load : Nat, s.ctxState ctx = stFree → s.ringsValid ctx = true → why ≠ 0 → why < 16 →
        (((s.wr (cr ctx 0x124) (s.rd (ro .sbox 0 0x60))).setCtx ctx { s.ctx ctx with admitted := true }).admTest ctx)
          = (why, load) → completes (.ctxCmdOpen ctx) s (fun t =>
            t.ctxState ctx = stFree ∧ t.fld (cr ctx 0x120) 8 4 = why ∧
            t.fld (cr ctx 0x40) 8 8 = Status.code .limitRejected ∧ t.logged s.gts 0x1100 0x11C1 [.w why] ctx 0xFF)) ∧
      (s.ctxState ctx = stOpen ∨ s.ctxState ctx = stRunning ∨ s.ctxState ctx = stPreempted →
        completes (.ctxCmdClose ctx) s (fun t => t.ctxState ctx = stQuiescing ∧ (t.ctx ctx).quiesce = .closing) ∧
        completes (.ctxCmdReset ctx) s (fun t => t.ctxState ctx = stOpen ∧ (t.ctx ctx).quiesce = .none)) ∧
      (s.ctxState ctx ≠ stFree → completes (.ctxCmdOpen ctx) s (fun t =>
        t.ctxState ctx = s.ctxState ctx ∧ t.ctxs = s.ctxs ∧ t.logged s.gts (ctxSrc ctx) 0x11A0 [] ctx 0xFF))) ∧
    (s.ctxState ctx = stQuiescing → (s.ctx ctx).quiesce = .closing → s.drained ctx = true →
      completes (.ctxCloseDone ctx) s (fun t => t.ctxState ctx = stFree ∧ (t.ctx ctx).admitted = false))) ∧
  (∀ s : State,
    (∀ fn : Fin 16, fn.val ≠ 0 → completes (.vfFlr fn) s (fun t =>
      t = (((List.range 256).filter fun n => s.ctxFunc n == fn.val && s.ctxState n != stFree).foldl
        (fun (s : State) n => s.abortCtx n true) s).raise 0x1120 0x01A7 [] 0xFF fn ∧
      t.logged t.gts 0x1120 0x01A7 [] 0xFF fn)) ∧
    (s.bit (ro .host 0 0x60) 0 = true →
      exec .vfEnableClear s = .next ((upFrom 1 14).foldl (fun (s : State) f => s.vfReset f) s)) ∧
    (s.bit (ro .host 0 0x60) 0 = false →
      exec .vfEnableClear s = .next ((upFrom 1 15).foldl (fun (s : State) f => s.vfReset f) s)))

/-- 02 R46, R53, 04 R122 to R125: a doorbell in service, of the PF or of the VF that has the context. A submission tail that its ring
allows is announced; one that it does not allow is ignored and logged; CQ_HEAD frees the ring's space. An announced descriptor is fetched
with the context's epoch and its index. The model's reading: log 5, 21. Completes: sqTailWrite, cqHeadWrite, descriptorFetch. -/
def Obligations.DoorbellsAndFetch : Prop :=
  ∀ (fn : Fin 16) (ctx : Fin 256) (sq : Fin 4) (s : State), s.pst ≠ 4 → s.ready = true →
    (fn.val = 0 ∨ s.ctxFunc ctx = fn) → (∀ e ∈ s.pages, e.2.fifo = []) →
    (∀ v : Word, s.ctxState ctx ≠ stFree → s.ctxState ctx ≠ stQuiescing → sq.val ≤ s.fld (cr ctx 0x4C) 0 2 →
      (v - s.sqHead ctx sq).toNat ≤ 2 ^ s.sqSize ctx sq → completes (.sqTailWrite fn ctx sq v) s (fun t =>
        (t.ctx ctx).tails.look 0 sq = v ∧ t.regs = s.regs ∧ t.mem = s.mem)) ∧
    (∀ v : Word, s.ctxState ctx ≠ stFree → s.ctxState ctx ≠ stQuiescing →
      2 ^ s.sqSize ctx sq < (v - s.sqHead ctx sq).toNat → completes (.sqTailWrite fn ctx sq v) s (fun t =>
        t.ctxs = s.ctxs ∧ t.logged s.gts (ctxSrc ctx) 0x21A2 [] ctx 0xFF)) ∧
    (∀ v : Word, (s.ctx ctx).held = [] → (s.ctx ctx).atSource = [] → (s.ctx ctx).lostNotices = 0 → s.media.encs = [] →
      s.jobOf ctx = none → s.smp.runs = [] → completes (.cqHeadWrite fn ctx v) s (fun t =>
        t.cqSeen ctx = v ∧ t.mem = s.mem)) ∧
    (∀ k : Nat, (s.ctxState ctx = stOpen ∨ s.ctxState ctx = stRunning ∨ s.ctxState ctx = stPreempted) →
      sq.val ≤ s.fld (cr ctx 0x4C) 0 2 → (s.boundStream ctx sq).isSome = false →
      s.sqHead ctx sq ≠ (s.ctx ctx).tails.look 0 sq → s.latent = [] →
      addrKey (s.rd64 (cr ctx (0x50 + sq * 0x10)) +
        BitVec.ofNat 64 ((s.sqHead ctx sq).toNat % 2 ^ s.sqSize ctx sq * 64)) = some k →
      firstPoisoned s.poison k 64 = none →
      let d : Desc :=
        { uid := s.uid, ctx := ctx, sq := sq, pos := s.sqHead ctx sq, epoch := s.ctxEpoch ctx,
          bits := BitVec.ofNat 512 (s.loadNat k 64), started := false, ending := false, fetchedAt := s.gts,
          startedAt := 0, startedNow := 0 }
      1 ≤ d.cls → d.cls ≤ 0x10 → completes (.descriptorFetch ctx sq false) s (fun t =>
        (t.ctx ctx).descs = (s.ctx ctx).descs ++ [d] ∧ t.sqHead ctx sq = s.sqHead ctx sq + 1 ∧ t.mem = s.mem ∧
        t.notices = s.notices))

/-- 01 R33, 04 R121, R124, R138, R145: the oldest notice of the current epoch is written into the completion ring, at the tail, as the 32
bytes of R138; one with an old epoch is dropped. R130: at the end of a vector's interval its delayed message is sent. The model's reading:
log 21, 22. Completes: completionNotice, msixCoalesceExpiry. -/
def Obligations.NoticesBecomeRecords : Prop :=
  ∀ s : State,
    (∀ (x : Notice) (r : List Notice) (k : Nat), s.notices = x :: r → x.step = none → x.epoch = s.ctxEpoch x.ctx →
      x.quiet = false → x.faults = false → s.cqFull x.ctx = false → (s.ctx x.ctx).held = [] → x.ctx < 256 →
      addrKey (s.rd64 (cr x.ctx 0x90) +
        BitVec.ofNat 64 ((s.cqTail x.ctx).toNat % 2 ^ s.cqSize x.ctx * 32)) = some k →
      completes (.completionNotice false) s (fun t =>
        t.notices = r ∧ t.cqTail x.ctx = s.cqTail x.ctx + 1 ∧
        t.load k 32 = x.entry.bytes (s.ctx x.ctx).phase)) ∧
    (∀ (x : Notice) (r : List Notice), s.notices = x :: r → x.step = none → x.epoch ≠ s.ctxEpoch x.ctx →
      exec (.completionNotice false) s = .next { s with notices := r }) ∧
    (∀ (fn : Fin 16) (v : Fin 1088) (n : Fin 256), s.host.vecDelayed.contains (vecKey fn v) = true →
      s.ctxFunc n = fn → s.fld (cr n 0xA0) 0 11 = v → s.fld (cr n 0xA0) 16 8 ≠ 0 →
      s.host.vecLast.look 0 (vecKey fn v) + s.fld (cr n 0xA0) 16 8 * 1000 ≤ s.gts →
      s.host.vecOpen.look false (vecKey fn v) = true → completes (.msixCoalesceExpiry fn v) s (fun t =>
        t.host.vecSent.look 0 (vecKey fn v) = s.host.vecSent.look 0 (vecKey fn v) + 1 ∧
        t.host.vecDelayed.contains (vecKey fn v) = false ∧ t.mem = s.mem))

/-- 04 R134, R140, R142: a descriptor taken up whose checks find a status completes at once with the first one that applies, and does
nothing else. The model's reading: log 22, 61. -/
def Obligations.RefusedDescriptorsCompleteAtOnce : Prop :=
  ∀ (ctx : Fin 256) (sq : Fin 4) (s u : State) (d : Desc) (st : Status),
    (s.beforeChecks ctx sq 0x01 = some (u, d) → u.runCheck d = some st → exec (.run ctx sq) s = .next (u.complete d st 0 0)) ∧
    (s.beforeChecks ctx sq 0x02 = some (u, d) → u.copyCheck d = some st →
      exec (.copy ctx sq) s = .next (u.complete d st 0 0)) ∧
    (s.beforeChecks ctx sq 0x03 = some (u, d) → u.regionCheck d = some st →
      exec (.regionUpdate ctx sq) s = .next (u.complete d st 0 0)) ∧
    (s.beforeChecks ctx sq 0x06 = some (u, d) → u.seqOpenCheck d = some st →
      exec (.seqOpen ctx sq) s = .next (u.complete d st 0 0)) ∧
    (s.beforeChecks ctx sq 0x07 = some (u, d) → s.turns ctx sq 0x07 = [] → u.appendCheck d = some st →
      exec (.seqAppend ctx sq) s = .next (u.complete d st 0 0)) ∧
    (s.beforeChecks ctx sq 0x0A = some (u, d) → u.openCheck d = some st →
      exec (.streamOpen ctx sq) s = .next (u.complete d st 0 0)) ∧
    (s.beforeChecks ctx sq 0x0B = some (u, d) → u.tapCheck d = some st →
      exec (.streamTap ctx sq) s = .next (u.complete d st 0 0)) ∧
    (s.beforeChecks ctx sq 0x0C = some (u, d) → s.closeMode ctx sq ≠ some 1 → u.closeCheck d = some st →
      exec (.streamCloseDrain ctx sq) s = .next (u.complete d st 0 0)) ∧
    (u.complete d st 0 0).reported d st 0 0

/-- 04 R133, R153, 18 R604: a RUN that passes its checks queues one waiting gang for its image and arguments; a COPY starts, and its end
stores its bytes and reports its granules. The model's reading: log 23, 61. Completes: run, copy, copyDone. -/
def Obligations.RunsAndCopies : Prop :=
  (∀ (ctx : Fin 256) (sq : Fin 4) (s u : State) (d : Desc) (k : Nat), s.beforeChecks ctx sq 0x01 = some (u, d) →
    u.runCheck d = none → (u.runRead d).runPoison d = none → progKey (d.addr 16) = some k →
    completes (.run ctx sq) s (fun t => ∃ g : Gang, t.sbox.gangs = (u.runRead d).sbox.gangs ++ [g] ∧ g.ctx = d.ctx ∧
      g.desc = d ∧ g.phase = .waiting ∧ g.cores = [] ∧ g.prog = k ∧ g.width = (u.runRead d).runCores d ∧
      g.uid = (u.runRead d).uid ∧ t.uid = (u.runRead d).uid + 1 ∧ t.mem = (u.runRead d).mem)) ∧
  (∀ (ctx : Fin 256) (sq : Fin 4) (s u : State) (d : Desc), s.beforeChecks ctx sq 0x02 = some (u, d) →
    u.copyCheck d = none → exec (.copy ctx sq) s = .next u) ∧
  (∀ (ctx : Fin 256) (sq : Fin 4) (pos : Word) (s : State) (d : Desc), s.startedAt ctx sq pos 0x02 = some d →
    s.frozen .yard 0 = false → s.latent = [] →
    firstPoisoned s.poison (s.keyOf (d.addr 16)) d.copyLen = none →
    completes (.copyDone ctx sq pos) s (fun t => t.reported d .ok (granulesOf d.copyLen) 0 ∧
      t.mem = memWrite s.mem (s.keyOf (d.addr 24)) (s.load (s.keyOf (d.addr 16)) d.copyLen)))

/-- 04 R146 to R149: a region update queues and begins when no reader holds the generation before the current one; each granule is written
in turn, and the last one reports. The model's reading: log 23. Completes: regionUpdate, regionReadersClear, regionGranuleDone. -/
def Obligations.RegionUpdates : Prop :=
  (∀ (ctx : Fin 256) (sq : Fin 4) (s u : State) (d : Desc), s.beforeChecks ctx sq 0x03 = some (u, d) →
    u.regionCheck d = none → (d.supersede = false ∨ u.regionJobsOf d.target = []) →
    exec (.regionUpdate ctx sq) s =
      .next ({ u with regionJobs := u.regionJobs ++ [(⟨d, d.target, 0, false, false⟩ : RegionJob)] }.tendRegion d.target)) ∧
  (∀ (r : Fin 4096) (s : State) (j : RegionJob) (l : List RegionJob), s.regionJobsOf r = j :: l →
    j.started = false → (s.setRegionBusy r 1).readersClear r = true → completes (.regionReadersClear r) s (fun t =>
      ∀ x ∈ t.regionJobs, x.desc.uid = j.desc.uid → x.started = true)) ∧
  (∀ (r : Fin 4096) (s : State) (j : RegionJob) (l : List RegionJob) (e : RegionEntry), s.regionJobsOf r = j :: l →
    s.region r = some e → j.started = true → j.poisoned = false → s.frozen .yard 0 = false → s.blockGoes .yard 0 = true →
    s.poison = [] → s.latent = [] → j.granules < granulesOf j.desc.srcLen →
    (j.granules + 1 = granulesOf j.desc.srcLen → completes (.regionGranuleDone r) s (fun t =>
      ∃ g : Nat, t.reported j.desc .ok g (granulesOf j.desc.srcLen))) ∧
    (j.granules + 1 < granulesOf j.desc.srcLen → (l.any fun x => x.desc.supersede) = false →
      completes (.regionGranuleDone r) s (fun t => t.mem = (s.copyGranule j e).mem ∧ t.notices = s.notices ∧
        ∃ x ∈ t.regionJobs, x.desc = j.desc ∧ x.granules = j.granules + 1)))

/-- 04 R143, R144, R133: a FENCE waits until the count it names has reached its value, or its time is over; a WAIT_GTS until its GTS,
reporting how late it is. The model's reading: log 9, 23. Completes: fence, fenceSatisfied, fenceTimeout, waitGts, waitGtsReached. -/
def Obligations.FencesAndWaits : Prop :=
  ∀ (ctx : Fin 256) (sq : Fin 4) (s u : State) (d : Desc),
    (s.beforeChecks ctx sq 0x04 = some (u, d) → u.ctxFunc d.waitCtx = u.ctxFunc d.ctx → d.waitSq ≤ 3 →
      exec (.fence ctx sq) s = .next u) ∧
    (s.holding ctx sq 0x04 = some d → s.fenceMet d = true →
      completes (.fenceSatisfied ctx sq) s (fun t => t.reported d .ok 0 0 ∧ t.mem = s.mem ∧ t.regs = s.regs)) ∧
    (s.holding ctx sq 0x04 = some d → s.fenceMet d = false → d.nat 24 4 ≠ 0 →
      d.startedNow + d.nat 24 4 * 1000 ≤ s.now →
      completes (.fenceTimeout ctx sq) s (fun t => t.reported d .timeout 0 0 ∧ t.mem = s.mem ∧ t.regs = s.regs)) ∧
    (s.beforeChecks ctx sq 0x05 = some (u, d) → d.nat 24 1 ≤ 1 →
      (u.gts < d.waitTarget → exec (.waitGts ctx sq) s = .next u) ∧
      (d.waitTarget ≤ u.gts → completes (.waitGts ctx sq) s (fun t =>
        t.reported d .ok (min (u.gts - d.waitTarget) 0xFFFFFFFF) 0))) ∧
    (s.holding ctx sq 0x05 = some d → d.waitTarget ≤ s.gts → completes (.waitGtsReached ctx sq) s (fun t =>
      t.reported d .ok (min (s.gts - d.waitTarget) 0xFFFFFFFF) 0 ∧ t.mem = s.mem ∧ t.regs = s.regs))

/-- 04 R137: a MARKER completes when it starts, and writes an event record with the user source of its function and context, code 0x0F00,
CODE and VALUE. Completes: marker. -/
def Obligations.MarkersRecordAndComplete : Prop :=
  ∀ (ctx : Fin 256) (sq : Fin 4) (s u : State) (d : Desc),
    (s.beforeChecks ctx sq 0x10 = some (u, d) → completes (.marker ctx sq) s (fun t => t.reported d .ok 0 0 ∧
      t.logged u.gts (0xF000 + u.ctxFunc d.ctx * 0x100 + d.ctx) 0x0F00 [.w (d.nat 16 4), .d (d.nat 24 8)] d.ctx
        (u.ctxFunc d.ctx)))

/-- 09 R331, R332, 10 R345, R360, R361, R374, R375: SEQ_OPEN makes a sequence under the lowest free index and reports its handle; the
operations on a sequence stand in order, and the first one that may begin does: SEQ_FORK makes a second sequence, SEQ_CLOSE removes its
sequence, SEQ_APPEND starts its text. The model's reading: log 24, 38. Completes: seqOpen, seqAppend, seqFork, seqClose. -/
def Obligations.SequenceDescriptors : Prop :=
  ∀ (ctx : Fin 256) (sq : Fin 4) (s u : State) (d : Desc),
    (∀ k b q : Nat, s.beforeChecks ctx sq 0x06 = some (u, d) → u.seqOpenCheck d = none →
      u.regionBuf (d.nat 24 4) = some k → u.freeBlock d.target = some b →
      lowestFree 0x1000000 u.text.seqs.keys = some q → (u.touch k 256).seqOpenPoison d k = none →
      completes (.seqOpen ctx sq) s (fun t => (t.seq q).isSome = true ∧
        ∃ st h r, (st = .ok ∨ st = .lengthLimit) ∧ t.reported d st h r ∧ handleIdx h = q)) ∧
    (∀ i : Nat, s.beforeChecks ctx sq 0x07 = some (u, d) → s.turns ctx sq 0x07 = [] → u.appendCheck d = none →
      i = handleIdx d.target → (u.updSeq i fun x => { x with ops := x.ops ++ [d.uid] }).heads d = false →
      exec (.seqAppend ctx sq) s =
        .next ((u.updSeq i fun x => { x with ops := x.ops ++ [d.uid] }).holdAtStart d)) ∧
    (∀ (x : Seq) (k : Nat), (s.turns ctx sq 0x07).find? s.mayBegin = some d → s.seq (handleIdx d.target) = some x →
      x.lost = none → s.clean → s.readerBuf d.uid x.region = some k →
      s.modelFails k x.region x.pool = none →
      exec (.seqAppend ctx sq) s = .next (s.startText (handleIdx d.target) x d (s.modelAt k))) ∧
    (∀ (x : Seq) (b q : Nat), (s.turns ctx sq 0x08).find? s.mayBegin = some d → s.seq (handleIdx d.target) = some x →
      x.lost = none → s.freeBlock x.pool = some b → lowestFree 0x1000000 s.text.seqs.keys = some q →
      s.refsFull x = false → completes (.seqFork ctx sq) s (fun t =>
        ∃ h, t.reported d .ok h ((s.entries x).filter fun e => isPage e.2).length ∧ handleIdx h = q)) ∧
    (∀ x : Seq, (s.turns ctx sq 0x09).find? s.mayBegin = some d → s.seq (handleIdx d.target) = some x →
      completes (.seqClose ctx sq) s (fun t => t.seq (handleIdx d.target) = none ∧ ∃ n p, t.reported d .ok n p))

/-- 12 R415, R429, R435, R442, 13 R451: STREAM_OPEN opens a stream of its kind; STREAM_TAP queues a change, which takes effect between
pictures; STREAM_CLOSE marks the stream as closing, with MODE 1 after ending its work; the stream's last record closes it. The model's
reading: log 24, 45. Completes: streamOpen, streamTap, tapChangeApplied, streamCloseDrain, streamCloseAbort, streamCloseDone. -/
def Obligations.StreamDescriptors : Prop :=
  (∀ (ctx : Fin 256) (sq : Fin 4) (s u : State) (d : Desc), s.beforeChecks ctx sq 0x0A = some (u, d) →
    u.openCheck d = none →
    exec (.streamOpen ctx sq) s =
      .next (if d.nat 16 1 = 1 then u.openEnc d else if d.nat 16 1 = 3 then u.openCam d else u.openDec d) ∧
    (∀ b : List MBuf, d.nat 16 1 = 1 → (let p := encParamOf (u.param d 32 64)
        reserveBufs (u.poolBufs (d.nat 20 4)) (u.poolBytes (d.nat 20 4))
          (List.replicate 4 (videoBufBytes p.outW p.outH 8))) = some b →
      completes (.streamOpen ctx sq) s (fun t => (t.enc u.newStream).isSome = true ∧
        t.reported d .ok (u.mkHandle d.ctx u.newStream) 0))) ∧
  (∀ (ctx : Fin 256) (sq : Fin 4) (s u : State) (d : Desc) (st : DecStream), s.beforeChecks ctx sq 0x0B = some (u, d) →
    u.tapCheck d = none → u.decHandle d.ctx d.target = some st →
    (st.pic ≠ none → completes (.streamTap ctx sq) s (fun t =>
      ∃ c, c.desc = d ∧ c.tap = d.nat 16 1 ∧ t.dec (handleIdx d.target) = some { st with changes := st.changes ++ [c] })) ∧
    (st.pic = none → st.changes = [] → completes (.streamTap ctx sq) s (fun t => t.reported d .ok 0 0 ∧
      (t.dec (handleIdx d.target)).map (fun x => (x.changes, (x.taps.look? (d.nat 16 1)).isSome)) =
        some ([], decide (d.nat 17 1 ≠ 1))))) ∧
  (∀ (n : Nat) (s : State) (d : DecStream) (c : TapChange) (r : List TapChange), s.dec n = some d → d.pic = none →
    d.changes = c :: r → completes (.tapChangeApplied n) s (fun t => t.reported c.desc .ok 0 0 ∧
      (t.dec n).map DecStream.changes = some r)) ∧
  (∀ (ctx : Fin 256) (sq : Fin 4) (s u : State) (d : Desc) (st : DecStream), s.beforeChecks ctx sq 0x0C = some (u, d) →
    u.closeCheck d = none → u.dec (handleIdx d.target) = some st →
    (s.closeMode ctx sq ≠ some 1 → completes (.streamCloseDrain ctx sq) s (fun t =>
      t.dec (handleIdx d.target) =
        some { st with closing := some d, drainTo := some ((u.ctx d.ctx).tails.look 0 st.ring) })) ∧
    (s.closeMode ctx sq = some 1 → exec (.streamCloseAbort ctx sq) s =
      .next (((((u.setDec (handleIdx d.target) { st with
        closing := some d, drainTo := some ((u.ctx d.ctx).tails.look 0 st.ring) }).abortDec
        (handleIdx d.target)).abortEnc (handleIdx d.target)).abortCam (handleIdx d.target))))) ∧
  (∀ (n : Nat) (s : State) (d : DecStream) (c : Desc), s.dec n = some d → d.closing = some c → d.queue = [] →
    d.pic = none → (s.ringEntry d.ctx d.ring d.drainTo).isNone = true →
    s.sqDone d.ctx d.ring = s.sqHead d.ctx d.ring →
    completes (.streamCloseDone n) s (fun t => t.dec n = none ∧ t.reported c .ok d.decoded d.others))

/-- 05 R164 to R167, R174 to R178, R180: the first waiting gang in the order takes idle cores that R167 allows, and starts its first slice
or its restore; a gang that must give way at the end of its quantum is stopped, saved core by core and restored into its next slice. The
model's reading: log 25, 27. Completes: gangDispatch, quantumEnd, preemptStopped, saveDone, restoreDone. -/
def Obligations.GangsTakeAndGiveBackCores : Prop :=
  (∀ (s : State) (g : Gang) (cs : List (Fin 64)), s.firstWaiting = some g → s.pst = 0 → s.frozen .sbox 0 = false →
    s.blockGoes .sbox 0 = true → s.bit (ro .pwr 0 0x50) 6 = false → s.stepAhead (s.gangKey g) = false →
    (s.placement g (cs.map (·.val)) = true → completes (.gangDispatch g.uid cs) s (fun t =>
      ∃ h, t.gang g.uid = some h ∧ h.cores = cs.map (·.val) ∧
        h.phase = (if g.phase = .waiting then .running else .restoring))) ∧
    (s.placement g (cs.map (·.val)) = false → (s.placePool g).length < g.width → s.gangClassB g = true →
      exec (.gangDispatch g.uid cs) s = .next (s.stopGangs (s.victims g)))) ∧
  (∀ (s : State) (u : Nat) (g : Gang), s.gang u = some g → g.phase = .running → g.budgeted = false →
    g.sliceAt + s.quantum g * 1000 ≤ s.now →
    (s.pressed g = true → completes (.quantumEnd u) s (fun t =>
      t.gang u = some { g with phase := .stopping, decidedAt := s.now } ∧ t.regs = s.regs)) ∧
    (s.pressed g = false → completes (.quantumEnd u) s (fun t =>
      ∃ h, t.gang u = some h ∧ h.phase = .running ∧ h.sliceAt = s.now ∧ h.slice = g.slice + 1 ∧ h.cores = g.cores))) ∧
  (∀ (s : State) (u : Nat) (g : Gang), s.gang u = some g → g.phase = .stopping → s.gangHalted g = false →
    completes (.preemptStopped u) s (fun t =>
      t.gang u = some { g with phase := .saving, saving := List.range g.cores.length })) ∧
  (∀ (s : State) (c : Fin 64) (g : Gang), s.gangOf c = some g → g.phase = .saving →
    completes (.saveDone c false) s (fun t =>
      t.images.look? (imageKey g.uid (s.core c).idx g.images) = some (s.savedImage g c) ∧ (t.core c).gang = none ∧
      ∃ h, t.gang g.uid = some h ∧ h.cores = g.cores.filter (· != c.val) ∧
        (g.saving = [(s.core c).idx] → h.phase = .saved))) ∧
  (∀ (s : State) (u : Nat) (g : Gang), s.gang u = some g → g.phase = .restoring →
    (s.readImages g).imagesPoisoned g = false → completes (.restoreDone u false) s (fun t =>
      ∃ h, t.gang u = some h ∧ h.phase = .running ∧ h.slice = g.slice + 1 ∧ h.sliceAt = s.now ∧ h.cores = g.cores))

/-- 05 R168, R185, R189: a period of an admitted context ends and the next begins with a full budget and a new deadline; a gang whose
budget has run out falls to class Q; a change of capacity is evaluated once and the clock floor of the guarantees installed. The model's
reading: log 26. Completes: periodStart, budgetExhausted, capacityEvaluation. -/
def Obligations.BudgetsPeriodsAndEvaluation : Prop :=
  (∀ (n : Fin 256) (s : State), (s.ctx n).admitted = true → s.rd (cr n 0x104) ≠ 0 →
    (s.ctx n).periodAt + (s.rd (cr n 0x104)).toNat * 1000 ≤ s.gts → completes (.periodStart n) s (fun t =>
      (t.ctx n).periodAt = (s.ctx n).periodAt + (s.rd (cr n 0x104)).toNat * 1000 ∧
      t.rd (cr n 0x130) = BitVec.ofNat 32 (s.fld (cr n 0x10C) 0 7 * (s.rd (cr n 0x108)).toNat) ∧
      (t.ctx n).restoredWaiting = false)) ∧
  (∀ (s : State) (u : Nat) (g : Gang), s.gang u = some g → g.phase = .running → g.budgeted = true →
    s.gangClassB g = false → completes (.budgetExhausted u) s (fun t =>
      t.gang u = some { g with budgeted := false, sliceAt := s.now } ∧ t.regs = s.regs ∧ t.mem = s.mem)) ∧
  (∀ (s : State) (c : Nat), s.sbox.evalDue = some c → completes .capacityEvaluation s (fun t =>
    t.sbox.evalDue = none ∧
      let u := { s with sbox := { s.sbox with evalDue := none, evalChange := false } }.countCores
      t.fld (ro .sbox 0 0x5C) 0 11 = reqMhz u.capacity (u.admitted.map u.admIn) % 2 ^ 11))

/-- 07 R249, R266, 05 R181, R182, 01 R11: a RUN ends when every tidy core has ended and its cores' queues are empty; a core fault replays
the slice where R181 allows it and ends the RUN with DEVICE_FAULT otherwise; a failed core that no gang holds moves to its cluster's spare
slot, or becomes absent. The model's reading: log 27, 28. Completes: runEnd, coreFault, coreRemap. -/
def Obligations.RunsEndAndCoresFail : Prop :=
  (∀ (s : State) (u : Nat) (g : Gang), s.gang u = some g → (g.phase = .running ∨ g.phase = .stopping) →
    (g.cores.all fun c => (s.core c).queuesEmpty) = true → (s.text.steps.find? fun r => r.gang == g.uid) = none →
    completes (.runEnd u) s (fun t =>
      t.reported g.desc .ok ((g.cores.head?.map fun c => ((s.core c).tc0.x.look 0 10).toNat).getD 0) g.slicesReplayed ∧
      ∀ h ∈ t.sbox.gangs, h.uid ≠ g.uid)) ∧
  (∀ (s : State) (c : Fin 64) (k : Fin 4) (unit : Fin 8) (g : Gang), s.gangOf c = some g →
    (g.imaged = false → g.replaysOfSlice = 0 → (s.text.steps.find? fun r => r.gang == g.uid) = none →
      completes (.coreFault c k unit) s (fun t => t.reported g.desc .deviceFault 0 g.slicesReplayed)) ∧
    (g.imaged = true → g.noReplay = false → s.bit (cr g.ctx 0x120) 23 = false → g.ctx < 256 →
      g.replaysOfSlice < s.replayMax g.ctx → completes (.coreFault c k unit) s (fun t =>
        ∃ h, t.gang g.uid = some h ∧ h.replaysOfSlice = g.replaysOfSlice + 1 ∧ h.failed = some c.val ∧
          h.replaying = true ∧ (h.phase = .restoring ∧ h.cores.length = g.cores.length ∨
            h.phase = .saved ∧ h.cores = [])))) ∧
  (∀ (s : State) (c : Fin 64), s.absent c = false → s.slotFailed c = true → (s.core c).gang = none →
    completes (.coreRemap c) s (fun t =>
      t.fld (ro .cl (c / 8 : Nat) 0x40) (c % 8 * 4 : Nat) 4 = (if s.spareFree (c / 8 : Nat) then 8 else 15)))

/-- 07 R226, R251, R253, R256: an issuing tidy core adds to a semaphore, reads SEM_WAIT when its condition holds and stalls otherwise,
arrives at the gang barrier, whose last arrival ends the generation, reads a completed generation, writes LIVE and clears NONFINITE bits.
07 R244, R249, R264, R265: a tidy core's loads and stores reach its scratches at addresses below 20000h; ECALL with a7 = 0 ends the part,
and with any other a7, EBREAK without a debugger, an illegal instruction or a fetch from outside the scratch end the RUN with their cause.
The model's reading: log 30, 32, 37. Completes: semWrite, semWaitRead, barrierArrive, barrierRead, liveWrite, nonfiniteClear,
semWaitRelease, tcLoadStore, tcEcall, tcEbreak, tcIllegalInstruction. -/
def Obligations.CoreControlAndTidyInstructions : Prop :=
  (∀ (c : Fin 64) (tc : Fin 2) (rd : Fin 32) (val : Word) (s : State),
    (s.tcRuns c tc = true →
      (∀ sem : Fin 32, completes (.semWrite c tc sem val) s (fun t => s.goesOn t c tc ∧ t.mem = s.mem ∧ t.regs = s.regs ∧
        (t.core c).sems.look 0 sem = (s.core c).sems.look 0 sem + BitVec.ofNat 16 (bitsOf val 0 16) ∧
        ∀ k : Nat, k ≠ sem → (t.core c).sems.look 0 k = (s.core c).sems.look 0 k)) ∧
      (s.semHolds c tc = true → completes (.semWaitRead c tc rd) s (fun t => s.goesOn t c tc ∧ t.mem = s.mem ∧
        ((t.core c).tidy tc).xr rd = if rd = 0 then 0
          else ((s.core c).sems.look 0 ((s.core c).tidy tc).waitSem).zeroExtend 32)) ∧
      (s.semHolds c tc = false → completes (.semWaitRead c tc rd) s (fun t =>
        ((t.core c).tidy tc).stall = .semWait rd ∧ ((t.core c).tidy tc).pc = ((s.core c).tidy tc).pc)) ∧
      (∀ g : Gang, s.gangOf c = some g → (s.core c).arrived = false →
        (g.arrivals + 1 < g.width → completes (.barrierArrive c tc) s (fun t => s.goesOn t c tc ∧
          t.gang g.uid = some { g with arrivals := g.arrivals + 1 } ∧ (t.core c).arrived = true ∧
          (t.core c).arrivedGen = some g.generation)) ∧
        (g.width ≤ g.arrivals + 1 → completes (.barrierArrive c tc) s (fun t =>
          t.gang g.uid = some { g with arrivals := 0, generation := g.generation + 1 } ∧
          ∀ d ∈ g.cores, (t.core d).arrived = false))) ∧
      (∀ (n : Nat) (g : Gang), (s.core c).arrivedGen = some n → s.gangOf c = some g →
        (n < g.generation → completes (.barrierRead c tc rd) s (fun t => s.goesOn t c tc ∧ t.mem = s.mem ∧
          ((t.core c).tidy tc).xr rd = if rd = 0 then 0 else BitVec.ofNat 32 n)) ∧
        (g.generation ≤ n → completes (.barrierRead c tc rd) s (fun t => ((t.core c).tidy tc).stall = .barrier rd))) ∧
      completes (.liveWrite c tc val) s (fun t => s.goesOn t c tc ∧ t.mem = s.mem ∧
        (t.core c).live = BitVec.ofNat 24 (bitsOf val 0 24) ∧ t.fld (ro .co c 0x48) 0 24 = bitsOf val 0 24) ∧
      completes (.nonfiniteClear c tc val) s (fun t => s.goesOn t c tc ∧ t.mem = s.mem ∧ t.regs = s.regs ∧
        ∀ m : Fin 4, (t.meUnit c m).nonfinite = ((s.meUnit c m).nonfinite && bitsOf val m 1 != 1))) ∧
    (((s.core c).tidy tc).stall = .semWait rd → s.coreRuns c = true → s.semHolds c tc = true →
      completes (.semWaitRelease c tc) s (fun t => s.goesOn t c tc ∧ ((t.core c).tidy tc).stall = .none ∧
        ((t.core c).tidy tc).xr rd = if rd = 0 then 0
          else ((s.core c).sems.look 0 ((s.core c).tidy tc).waitSem).zeroExtend 32))) ∧
  (∀ (c : Fin 64) (tc : Fin 2) (w len : Nat) (s : State),
    (s.tcAt c tc .memory = some (w, len) →
      let k := (s.core c).tidy tc
      let la := (k.xr (ib w 15 5) + BitVec.ofInt 32 (immI w)).toNat
      let sa := (k.xr (ib w 15 5) + BitVec.ofInt 32 (immS w)).toNat
      (w % 128 = 0x03 → ib w 12 3 = 2 → la + 4 ≤ 0x20000 → completes (.tcLoadStore c tc none) s (fun t =>
        s.goesOn t c tc ∧ t.mem = s.mem ∧ ∀ r : Nat, ((t.core c).tidy tc).xr r = if r ≠ 0 ∧ r = ib w 7 5 then
          BitVec.ofNat 32 (leNat ((List.range 4).map fun i => memGet s.mem (scratchKey c tc (la + i)))) else k.xr r)) ∧
      (w % 128 = 0x23 → ib w 12 3 = 2 → sa + 4 ≤ 0x20000 → s.Inv → completes (.tcLoadStore c tc none) s (fun t =>
        s.goesOn t c tc ∧ (∀ i < 4, memGet t.mem (scratchKey c tc (sa + i)) =
          BitVec.ofNat 8 ((k.xr (ib w 20 5)).toNat / 256 ^ i)) ∧
        ∀ a, (∀ i < 4, a ≠ scratchKey c tc (sa + i)) → memGet t.mem a = memGet s.mem a))) ∧
    (s.tcAt c tc .ecall = some (w, len) → ((s.core c).tidy tc).xr 17 = 0 → completes (.tcEcall c tc) s (fun t =>
      ((t.core c).tidy tc).ended = true ∧ t.mem = s.mem ∧ t.regs = s.regs ∧ ∀ k, k ≠ c.val → t.core k = s.core k)) ∧
    (∀ g : Gang, s.gangOf c = some g → (s.text.steps.find? fun r => r.gang == g.uid) = none →
      (s.tcAt c tc .ecall = some (w, len) → ((s.core c).tidy tc).xr 17 ≠ 0 →
        completes (.tcEcall c tc) s (fun t => s.programError t g c tc 5)) ∧
      (s.tcAt c tc .ebreak = some (w, len) → s.debugged c = false →
        completes (.tcEbreak c tc) s (fun t => s.programError t g c tc 4)) ∧
      (s.tcRuns c tc = true → s.tcFetch c tc = none →
        completes (.tcIllegalInstruction c tc) s (fun t => s.programError t g c tc 2)) ∧
      (s.tcRuns c tc = true → s.tcFetch c tc = some (0, len) →
        completes (.tcIllegalInstruction c tc) s (fun t => s.programError t g c tc 1))))

/-- 07 R229, R269: the debug page halts, resumes and steps a tidy core that runs; a write of another owner into SRAM_OWN starts a clear,
after which the slice reads as zero and its owner is the new one. The model's reading: log 37. Completes: dbgHalt, dbgResume, dbgStep,
sramOwnWrite, sliceCleared. -/
def Obligations.DebugPageAndSliceOwners : Prop :=
  (∀ (c : Fin 64) (tc : Fin 2) (s : State), s.ownTakes (ro .dbg c 0x40) → ((s.core c).tidy tc).runs = true →
    completes (.dbgHalt c tc) s (fun t => ((t.core c).tidy tc).halted = true ∧ t.tcRuns c tc = false ∧ t.mem = s.mem) ∧
    completes (.dbgResume c tc) s (fun t => ((t.core c).tidy tc).halted = false ∧ t.mem = s.mem ∧ t.regs = s.regs) ∧
    completes (.dbgStep c tc) s (fun t => (t.core c).tidy tc = { (s.core c).tidy tc with
      stepping := ((s.core c).tidy tc).halted } ∧ t.mem = s.mem ∧ t.regs = s.regs)) ∧
  (∀ (cl : Fin 8) (sl : Fin 12) (val : Byte) (s : State), s.ownTakes (ownReg cl sl) → s.clearing cl sl = false → s.sliceOwner cl sl ≠ val.toNat →
    completes (.sramOwnWrite cl sl val) s (fun t => t.clearing cl sl = true ∧ t.mem = s.mem ∧ t.regs = s.regs)) ∧
  (∀ (cl : Fin 8) (sl : Fin 12) (k : SliceClear) (s : State),
    (s.sliceClears.find? fun k => k.cl == cl.val && k.slice == sl.val) = some k →
    completes (.sliceCleared cl sl) s (fun t => t.sliceOwner cl sl = k.owner.toNat ∧
      (∀ i < 0x100000, memGet t.mem (kSram cl (sl * 0x100000 + i)) = 0) ∧
      t.logged s.gts (dieSrc cl 0x10) (if cl.val < 4 then 0x0253 else 0x0353) [.w sl] k.owner.toNat 0xFF))

/-- 07 R235 to R237, R251: a store to ME_LIST_CNT queues a list, or stalls while four are queued; NOP, WAIT and SIGNAL act on nothing but
the list's place and the core's semaphores. 07 R233, R237 to R239, 06 R203 to R205: ZERO and ACC_LOAD write whole tiles of the banks; MMA
accumulates the chunks of its depth into every element in ascending order; STORE converts the banks by the QREC and STORE_RAW writes them
as they are, but every NaN as the canonical one (06 R193), to the core bay or memory. The model's reading: log 29. Completes:
meListLaunch, meNop, meWait, meWaitSatisfied, meSignal, meZero, meAccLoad, meMma, meStore, meStoreRaw. -/
def Obligations.MatrixEngines : Prop :=
  (∀ (c : Fin 64) (m : Fin 4) (s : State),
    (∀ (tc : Fin 2) (val : Word), s.tcRuns c tc = true →
      ((s.meUnit c m).lists.length < 4 → completes (.meListLaunch c tc m val) s (fun t => s.goesOn t c tc ∧
        t.meUnit c m = { s.meUnit c m with
          lists := (s.meUnit c m).lists ++ [(s.launchAt c tc (s.meUnit c m).listAddr, bitsOf val 0 13)] })) ∧
      (4 ≤ (s.meUnit c m).lists.length → completes (.meListLaunch c tc m val) s (fun t =>
        ((t.core c).tidy tc).stall = .list m (bitsOf val 0 13) ∧ t.meUnit c m = s.meUnit c m))) ∧
    (∀ k : MeCmd, s.meNext c m 0 1 = some k → k.zero 1 32 = true → completes (.meNop c m) s (fun t =>
      s.mePassed t c m 1 ∧ t.mem = s.mem ∧ t.bay = s.bay ∧ t.regs = s.regs)) ∧
    (∀ k : MeCmd, s.meNext c m 6 1 = some k → k.semBad = false →
      (k.waitOver (s.core c) = true → completes (.meWait c m) s (fun t => s.mePassed t c m 1 ∧ t.mem = s.mem)) ∧
      (k.waitOver (s.core c) = false → completes (.meWait c m) s (fun t =>
        t.meUnit c m = { s.meUnit c m with waiting := true } ∧ t.mem = s.mem))) ∧
    (∀ k : MeCmd, s.meCmd c m = some k → s.coreRuns c = true → (s.meUnit c m).waiting = true →
      k.waitOver (s.core c) = true → completes (.meWaitSatisfied c m) s (fun t => s.mePassed t c m 1 ∧ t.mem = s.mem ∧
        t.bay = s.bay ∧ t.regs = s.regs)) ∧
    (∀ k : MeCmd, s.meNext c m 7 1 = some k → k.semBad = false → completes (.meSignal c m) s (fun t =>
      s.mePassed t c m 1 ∧ t.bay = s.bay ∧
      (t.core c).sems.look 0 (k.at 4 1) = (s.core c).sems.look 0 (k.at 4 1) + BitVec.ofNat 16 (k.at 8 2)))) ∧
  (∀ (c : Fin 64) (m : Fin 4) (s : State),
    (∀ k : MeCmd, s.meNext c m 2 1 = some k → k.at 4 1 < 16 → k.at 5 1 ≤ 2 → k.zero 1 4 = true → k.zero 6 32 = true →
      completes (.meZero c m) s (fun t => s.mePassed t c m 1 ∧ t.mem = s.mem ∧ t.bay = s.bay ∧ ∀ b < 4,
        (t.meUnit c m).bank b = (if k.at 4 1 / 2 ^ b % 2 = 1 then List.replicate 256 0 else (s.meUnit c m).bank b) ∧
        (t.meUnit c m).mode b = (if k.at 4 1 / 2 ^ b % 2 = 1 then k.at 5 1 else (s.meUnit c m).mode b))) ∧
    (∀ k : MeCmd, s.meNext c m 3 1 = some k → k.at 5 1 ≤ 2 → k.rawBad (k.at 5 1) = false → s.poison = [] →
      completes (.meAccLoad c m) s (fun t => s.mePassed t c m 1 ∧ t.mem = s.mem ∧ t.bay = s.bay ∧
        ∀ n < k.tiles, ∀ e < 256,
          let w := rawBytes (k.at 5 1)
          let v := sInt (8 * w) (s.bayNat (k.rawKey c (k.at 5 1) (e / 16) n + e % 16 * w) w)
          (t.meUnit c m).accInt (k.at 5 1) (tileBank (k.at 5 1) k.bank n) e =
            if k.at 5 1 = mS48 then clampInt (-140737488355328) 140737488355327 v else v)) ∧
    (∀ (k : MeCmd) (p : MmaPair), s.meNext c m 1 1 = some k →
      ((s.gangOf c).bind fun g => mmaPair g.pairs (k.at 2 1)) = some p → k.mmaBad p = false → k.awin = false →
      k.clr = true → (s.meUnit c m).piece = 0 → s.residueArmed c m = false → s.poison = [] →
      k.depth / p.kc * k.tiles ≤ 8192 → completes (.meMma c m none) s (fun t => s.mePassed t c m 1 ∧ t.mem = s.mem ∧
        t.bay = s.bay ∧ ∀ n < k.tiles, ∀ e < 256,
          (t.meUnit c m).accInt p.mode (tileBank p.mode k.bank n) e =
            ((List.range (k.depth / p.kc)).foldl (s.mmaChunk c m k p n e) (0, 0)).1)) ∧
    (∀ (k : MeCmd) (g : Gang) (q : Qrec) (mode : Nat), s.meNext c m 4 2 = some k → s.gangOf c = some g →
      k.storeQ g.qrecs = some q → k.storeMode (s.meUnit c m) = some mode → k.storeBad q mode = false →
      (q.path = 0 → mode = mS48 → -32768 ≤ q.m ∧ q.m ≤ 32767) → k.toDev = false →
      exec (.meStore c m) s =
        .next (s.storeOut c m k q mode (.bay (kBay c (k.at 8 8)))
          (if isMx q.outFmt || isNgi q.outFmt then .bay (if k.scBytes q = 0 then 0 else kBay c (k.at 24 8)) else .bay 0)) ∧
      completes (.meStore c m) s (fun t => s.mePassed t c m 2 ∧ t.mem = s.mem ∧ t.regs = s.regs)) ∧
    (∀ k : MeCmd, let mode := (s.meUnit c m).mode k.bank
      s.meNext c m 5 1 = some k → k.zero 5 6 = true → k.rawBad mode = false → s.Inv →
      (∀ n < k.tiles, (s.meUnit c m).mode (tileBank mode k.bank n) = mode) → k.tiles * 16 * rawBytes mode ≤ k.at 16 4 →
      completes (.meStoreRaw c m) s (fun t => s.mePassed t c m 1 ∧ t.mem = s.mem ∧ ∀ n < k.tiles, ∀ e < 256,
        let w := rawBytes mode
        sInt (8 * w) (t.bayNat (k.rawKey c mode (e / 16) n + e % 16 * w) w) =
          if mode = mFp32 ∧ f32IsNan ((s.meUnit c m).word (tileBank mode k.bank n) e) then f32Nan.toInt
          else (s.meUnit c m).accInt mode (tileBank mode k.bank n) e)))

/-- 07 R245, R258, R259, 08 R273, 09 R313: a store to a launch register queues a descriptor at its core-bay address, or stalls the tidy
core while the queue is full. The model's reading: log 37. Completes: dmLaunch, wuLaunch, rsLaunch. -/
def Obligations.LaunchesQueueOrStall : Prop :=
  ∀ (c : Fin 64) (tc : Fin 2) (val : Word) (s : State), s.tcRuns c tc = true →
    (∀ q : Fin 2, let a := bitsOf val 0 21;
      ((s.dmQueue c q).descs.length < 16 → completes (.dmLaunch c tc q val) s (fun t => s.goesOn t c tc ∧
        t.dmQueue c q = { s.dmQueue c q with descs := (s.dmQueue c q).descs ++ [s.launchAt c tc a] })) ∧
      (16 ≤ (s.dmQueue c q).descs.length → completes (.dmLaunch c tc q val) s (fun t =>
        ((t.core c).tidy tc).stall = .dm q a ∧ t.dmQueue c q = s.dmQueue c q))) ∧
    (let a := bitsOf val 6 15 * 64;
      ((s.core c).wu.queue.length < 8 → completes (.wuLaunch c tc val) s (fun t => s.goesOn t c tc ∧
        (t.core c).wu = { (s.core c).wu with queue := (s.core c).wu.queue ++ [s.launchAt c tc a] })) ∧
      (8 ≤ (s.core c).wu.queue.length → completes (.wuLaunch c tc val) s (fun t =>
        ((t.core c).tidy tc).stall = .wu a ∧ (t.core c).wu = (s.core c).wu)) ∧
      ((s.core c).rs.queue.length < 4 → completes (.rsLaunch c tc val) s (fun t => s.goesOn t c tc ∧
        (t.core c).rs = { (s.core c).rs with queue := (s.core c).rs.queue ++ [s.launchAt c tc a] })) ∧
      (4 ≤ (s.core c).rs.queue.length → completes (.rsLaunch c tc val) s (fun t =>
        ((t.core c).tidy tc).stall = .rs a ∧ (t.core c).rs = (s.core c).rs)))

/-- 07 R258 to R260: COPY and FILL move the next 4 KiB of a descriptor row by row, TRANSPOSE element by element; a descriptor whose bytes
have all moved signals its semaphore and leaves the queue. The model's reading: log 35. Completes: dmCopy, dmFill, dmTranspose,
dmDescriptorDone. -/
def Obligations.DataMover : Prop :=
  ∀ (c : Fin 64) (q : Fin 2) (s : State) (d : DmD), s.Inv → s.clean →
    (s.dmAt c q 1 = some d → d.srcSpace = 1 → d.dstSpace = 1 → d.cnt1 = 1 → d.cnt2 = 1 → d.len0 ≤ 4096 →
      (s.dmQueue c q).moved = 0 → d.src + d.len0 ≤ bayBytes → d.dst + d.len0 ≤ bayBytes →
      completes (.dmCopy c q none) s (fun t => (t.dmQueue c q).moved = d.len0 ∧ t.mem = s.mem ∧ t.regs = s.regs ∧
        (∀ i < d.len0, t.bayByte (kBay c (d.dst + i)) = s.bayByte (kBay c (d.src + i))) ∧
        ∀ a, (∀ i < d.len0, a ≠ kBay c (d.dst + i)) → t.bayByte a = s.bayByte a)) ∧
    (s.dmAt c q 3 = some d → d.dstSpace = 1 → d.cnt1 = 1 → d.cnt2 = 1 → d.len0 ≤ 4096 →
      (s.dmQueue c q).moved = 0 → d.dst + d.len0 ≤ bayBytes →
      completes (.dmFill c q) s (fun t => (t.dmQueue c q).moved = d.len0 ∧ t.mem = s.mem ∧ t.regs = s.regs ∧
        (∀ i < d.len0, t.bayByte (kBay c (d.dst + i)) = BitVec.ofNat 8 (d.fill / 256 ^ (i % 4))) ∧
        ∀ a, (∀ i < d.len0, a ≠ kBay c (d.dst + i)) → t.bayByte a = s.bayByte a)) ∧
    (s.dmAt c q 2 = some d → d.srcSpace = 1 → d.dstSpace = 1 → d.cnt1 = 1 → d.cnt2 = 1 → d.len0 ≤ 4096 →
      (s.dmQueue c q).moved = 0 → d.src + d.len0 ≤ bayBytes →
      (∀ r ∈ d.elems 0 4096, d.dst + r.dst + r.n ≤ bayBytes) → d.elem ≤ d.ds1 →
      (∀ r ∈ d.elems 0 4096, ∀ i < d.elem, ∀ j < d.len0, d.src + j ≠ d.dst + r.dst + i) →
      completes (.dmTranspose c q) s (fun t => (t.dmQueue c q).moved = d.len0 ∧ t.mem = s.mem ∧ t.regs = s.regs ∧
        ∀ e < d.len0 / d.elem, ∀ i < d.elem,
          t.bayByte (kBay c (d.dst + e * d.ds1 + i)) = s.bayByte (kBay c (d.src + e * d.elem + i)))) ∧
    (∀ l : Launch, s.dmFront c q = some (l, d) → s.coreRuns c = true → d.total ≠ 0 → d.total ≤ (s.dmQueue c q).moved →
      completes (.dmDescriptorDone c q) s (fun t => (t.dmQueue c q).moved = 0 ∧ t.mem = s.mem ∧ t.bay = s.bay ∧
        (s.dmQueue c q).descs.drop 1 <+: (t.dmQueue c q).descs ∧ (d.sigRemote = false →
          (t.core c).sems.look 0 d.sem = (s.core c).sems.look 0 d.sem + (if d.sig then 1 else 0))))

/-- 08 R274, R276, R278, R281, R286, R289, R295, R299: a CONV that passes its check starts and takes in each input row that ROW_SEM shows;
the other operations go on by their step (an output row of a box, 64 pairs, 4,096 moves of the sort or one candidate of an NMS, 4 KiB;
R277), and a finished descriptor writes its result block, signals and leaves the queue. The model's reading: log 33, 34. Completes:
convGroup, convRowAvailable, cropResize, boxDecode, nms, depthToSpace, wuDescriptorDone. -/
def Obligations.WindowUnit : Prop :=
  ∀ (c : Fin 64) (s u : State) (d : List Byte),
    (∀ l : Launch, s.wuFront c = some (l, d) → s.wuRuns c 1 = true → (s.core c).wu.started = false →
      (convD d).malformed d = false → (convD d).beyond = false → completes (.convGroup c) s (fun t =>
        t.conv c = some (convD d) ∧ (t.core c).wu.headGroup = 0 ∧ (t.core c).wu.rows = 0 ∧ t.mem = s.mem ∧ t.bay = s.bay)) ∧
    (∀ p : ConvD, s.conv c = some p → s.coreRuns c = true → p.noSync = false → (s.core c).wu.rows < p.inH →
      (s.core c).semReached p.rowSem (BitVec.ofNat 16 (p.rsemBase + (s.core c).wu.rows + 1)) = true →
      completes (.convRowAvailable c) s (fun t =>
        (t.core c).wu = { (s.core c).wu with rows := (s.core c).wu.rows + 1 } ∧ t.mem = s.mem ∧ t.bay = s.bay)) ∧
    (∀ x : Loc, s.clean → s.wuAt c 2 cropCheck = some (u, d) → (u.core c).wu.items < (cropD d).nbox →
      u.spansAcc c (u.cropIn c d ++ u.cropWrites c d) = .ok x → completes (.cropResize c) s (fun t => t = u.cropRow c d ∧
        (t.core c).wu.items * (cropD d).oh + (t.core c).wu.rows =
          if (u.core c).wu.rows + 1 = (cropD d).oh then ((u.core c).wu.items + 1) * (cropD d).oh
          else (u.core c).wu.items * (cropD d).oh + (u.core c).wu.rows + 1)) ∧
    (let buf := (boxBuf d).at_ c 0
      ∀ x y : Loc, s.clean → s.wuAt c 3 boxCheck = some (u, d) → (u.core c).wu.items < (boxD d).pairs →
      u.spansAcc c [cbufSpan (boxBuf d) 0] = .ok x → u.cbufBad buf = false →
      u.spansAcc c (u.boxIn c d ++ [cbufSpan (boxBuf d) (u.locNat (buf.plus 4) 4)]) = .ok y →
      completes (.boxDecode c) s (fun t => t = u.boxStep c d ∧
        (t.core c).wu.items = min (boxD d).pairs ((u.core c).wu.items + 64))) ∧
    (let buf := (nmsBuf d).at_ c 0
      let n := u.locNat buf 4
      let w := (u.core c).wu
      ∀ x y : Loc, s.clean → s.wuAt c 4 nmsCheck = some (u, d) → w.ended = false →
      u.spansAcc c [cbufSpan (nmsBuf d) 0] = .ok x → u.cbufBad buf = false →
      (cbufSpan (nmsBuf d) (u.locNat (buf.plus 4) 4)).meets (nmsOutRange d) = false →
      u.spansAcc c (u.nmsAcc c d n) = .ok y →
      completes (.nms c) s (fun t => t = u.nmsStep c d ∧
        (w.moves < sortMoves n → (t.core c).wu.moves = min (sortMoves n) (w.moves + 4096) ∧
          (t.core c).wu.tested = w.tested) ∧
        (sortMoves n ≤ w.moves → (t.core c).wu.ended = true ∨ (t.core c).wu.tested = w.tested + 1))) ∧
    (let i := (u.core c).wu.items
      let p := d2sD d
      ∀ x : Loc, s.clean → s.wuAt c 5 d2sCheck = some (u, d) → i < p.bytes →
      u.spansAcc c (u.d2sIn c d ++ u.d2sWrites c d) = .ok x → completes (.depthToSpace c) s (fun t =>
        t = u.d2sStep c d ∧
        (t.core c).wu.items = i + (min (p.bytes / p.es) (i / p.es + 4096 / p.es) - i / p.es) * p.es)) ∧
    (∀ l : Launch, s.Inv → s.wuFront c = some (l, d) → s.coreRuns c = true → 1 ≤ fieldOf d 0 1 → fieldOf d 0 1 ≤ 5 →
      s.wuComplete c d = true → completes (.wuDescriptorDone c) s (fun t =>
        t.resultBlock c d (s.core c).wu.items (s.core c).wu.bad (s.core c).wu.aux ∧ (t.core c).wu.started = false ∧
        (s.core c).wu.queue.drop 1 <+: (t.core c).wu.queue ∧ (fieldOf d 1 1 % 2 = 1 →
          (t.core c).sems.look 0 (fieldOf d 2 1) = (s.core c).sems.look 0 (fieldOf d 2 1) + 1)))

/-- 09 R313, R315, R318, R325, R327: ATTEND walks its page blocks and then writes its output; an APPEND stages a row, or writes it into
the sequence's next slot of its layer and KV head, and SCATTER does so with a staged record; a finished descriptor writes its result
block, signals and leaves the queue. The model's reading: log 36. Completes: attend, append, scatter, rsDescriptorDone. -/
def Obligations.RowStatistics : Prop :=
  ∀ (c : Fin 64) (s : State) (l : Launch) (b : List Byte), s.rsFront c = some (l, b) → s.clean →
    (∀ (q : Nat) (x : Seq) (g : Gang) (r : List Byte), s.rsRuns c 1 = true → s.gangOf c = some g →
      g.qrecs[fieldOf b 10 1]? = some r → attendBad b (some (qrecOf r)) = false → attendBeyond b = false →
      s.rsSeq c (fieldOf b 24 8) (fieldOf b 32 4) = some (q, x) →
      blockOk x b (fieldOf b 6 2) (fieldOf b 8 2) = true → s.listDenied c b = false →
      extentsOk (attendExtents b (qrecOf r)) = true → (s.core c).rs.started = true → (s.core c).rs.written = false →
      (∀ e, (walkOf x b)[(s.core c).rs.items]? = some e → (s.entry x e = emptyEntry ∨ isPage (s.entry x e)) →
        completes (.attend c) s (fun t => t = s.attendStep c b q x (qrecOf r) ∧
          (t.core c).rs.items = (s.core c).rs.items + 1)) ∧
      ((walkOf x b)[(s.core c).rs.items]? = none → completes (.attend c) s (fun t =>
        t = s.attendWrite c b (qrecOf r) ∧ (t.core c).rs.written = true))) ∧
    (s.rsRuns c 2 = true → (s.core c).rs.started = true → (s.core c).rs.items < appendCount b →
      (let g := fieldOf b;
        extentsOk [(g 36 4 + (s.core c).rs.items * g 44 4, 4 * g 12 2),
          (g 40 4 + (s.core c).rs.items * g 44 4, 4 * g 12 2), (g 76 4, 2 * g 72 2)] = true) →
      let r := s.appendRow c b (s.core c).rs.items
      (∀ p : Loc, fieldOf b 84 8 ≠ 0 → s.stageAcc c b (s.core c).rs.items = .ok p →
        completes (.append c) s (fun t => t = (s.locStore p (r.bytes (fieldOf b 12 2))).rsDone1 c ∧
          (t.core c).rs.items = (s.core c).rs.items + 1)) ∧
      (∀ e, fieldOf b 84 8 = 0 → s.slotReady c b r = some e → completes (.append c) s (fun t => s.rowWritten t c e.1 r))) ∧
    (∀ p e, s.rsRuns c 3 = true → (s.core c).rs.started = true → (s.core c).rs.items < appendCount b →
      s.stageAcc c b (s.core c).rs.items = .ok p →
      let r := rowOfBytes (s.locLoad p (stageBytes (fieldOf b 12 2))) (fieldOf b 12 2)
      s.slotReady c b r = some e → completes (.scatter c) s (fun t => s.rowWritten t c e.1 r)) ∧
    (s.Inv → s.coreRuns c = true → 1 ≤ fieldOf b 0 1 → fieldOf b 0 1 ≤ 3 → s.rsComplete c b = true →
      completes (.rsDescriptorDone c) s (fun t =>
        t.resultBlock c b (s.core c).rs.items (s.core c).rs.bad (s.core c).rs.aux ∧ (t.core c).rs.started = false ∧
        (s.core c).rs.queue.drop 1 <+: (t.core c).rs.queue ∧ (fieldOf b 1 1 % 2 = 1 →
          (t.core c).sems.look 0 (fieldOf b 2 1) = (s.core c).sems.look 0 (fieldOf b 2 1) + 1)))

/-- 09 R328 to R334, 11 R381, R392, R402, R407: a SEQ_APPEND in progress: a pre-token becomes tokens; the next tokens go to the cores as a
prefill chunk; sequences ready for a decode step, or named in another package's step table, run in one step; GRM's mask makes a row ready;
the token step chooses a token, which ends the append or is the sequence's next; and a member of a spread sequence takes the token that
its first package chose. The model's reading: log 38, 39. Completes: tokenisePretoken, prefillChunk, decodeStepForm, stepTableReceived,
spreadTokenReceived, maskReady, tokenStep. -/
def Obligations.TextBecomesStepsAndTokens : Prop :=
  ∀ (q : Nat) (s : State) (x : Seq) (a : Appending) (k : Nat) (h : ModelHdr), s.seq q = some x → x.act = some a →
    s.actModel x a = some (k, h) →
    (∀ (p : Pre) (rest : List Pre) (v : Vocab) (l : List Nat), s.worksOn .txt = true → s.nextPre = some q → a.pretoks = p :: rest →
      s.actVocab a = some v → s.preTokens v p = .ok l → l ≠ [] → completes (.tokenisePretoken q) s (fun t =>
        (∃ n, t.seq q = some { x with act := some { a with tokens := a.tokens ++ l, pretoks := rest, inLeft := n } } ∧
          n ≤ a.inLeft ∧ (rest = [] → n = 0)) ∧ t.mem = s.mem)) ∧
    (∀ tokensAt logitAt : Nat, let n := chunkLen x h a.tokens.length;
      a.wantsChunk = true → x.pre = .inPlace → x.lost = none → x.len < x.limit →
      s.fld (cr x.ctx 0x10C) 0 7 ≤ h.prefillCores → h.prefillCores ≤ s.fld (cr x.ctx 0x10C) 8 7 →
      s.formerImage (k + h.prefillOff) h.prefillCores 48 = none → s.hbmIn h.stepPool tokensAt (4 * n) = true →
      s.hbmIn h.stepPool logitAt (4 * h.vocab) = true → completes (.prefillChunk q tokensAt logitAt) s (fun t =>
        t = s.startChunk q x a k h tokensAt logitAt ∧ ∃ r, t.text.steps = s.text.steps ++ [r] ∧
          r.members = [(q, 0, x.len)] ∧ r.prefill = a.tokens.take n ∧
          ∃ g ∈ t.sbox.gangs, g.uid = r.gang ∧ g.phase = .waiting ∧ g.width = h.prefillCores)) ∧
    (∀ (region : Nat) (cores : List (Fin 64)) (r : List (Nat × Seq)) (tableAt logitsAt u : Nat) (s1 : State) (g : Gang),
      s.stepMembers region = (q, x) :: r → s.pst = 0 → s.frozen .sbox 0 = false → s.blockGoes .sbox 0 = true →
      s.bit (ro .pwr 0 0x50) 6 = false → s.stepAhead (s.stepKey ((q, x) :: r)) = false →
      s.stepRoom h (r.length + 1) tableAt logitsAt = true → s.formerImage (k + h.stepOff) h.stepCores 64 = none →
      s.makeStep (((q, x) :: r).map fun e => (e.1, e.2.nextTok.getD 0, e.2.len)) a.desc k h tableAt logitsAt = (u, s1) →
      s1.gang u = some g → s1.waitsAhead u = false → s1.placement g (cores.map (·.val)) = true →
      completes (.decodeStepForm region cores tableAt logitsAt) s (fun t =>
        t = (s1.grant g (cores.map (·.val))).toSpread h.geo (.table h.geo.group
          (((q, x) :: r).map fun e => (s.seqHandle e.1, e.2.nextTok.getD 0, e.2.len))) ∧
        ∃ y, t.text.steps = s.text.steps ++ [y] ∧ y.gang = u ∧
          y.members = ((q, x) :: r).map fun e => (e.1, e.2.nextTok.getD 0, e.2.len))) ∧
    (∀ (region tok : Nat) (r : List (Nat × Nat)) (tableAt logitsAt : Nat) (m : Nat × KlBody),
      s.spreadMsg h.geo (isTable h.geo (((q, tok) :: r).map fun e => (e.2, ((s.seq e.1).map fun y => y.len).getD 0))) =
        some m →
      (∀ e ∈ (q, tok) :: r, s.spreadReady region e.1 = true) → (q :: r.map Prod.fst).Nodup →
      r.length + 1 ≤ h.stepMax → s.stepRoom h (r.length + 1) tableAt logitsAt = true →
      s.formerImage (k + h.stepOff) h.stepCores 64 = none →
      completes (.stepTableReceived region ((q, tok) :: r) tableAt logitsAt) s (fun t =>
        t.kl.inbox = s.kl.inbox.erase m ∧ ∃ y, t.text.steps = s.text.steps ++ [y] ∧ y.members =
          ((q, tok) :: r).map fun e => (e.1, e.2, ((s.seq e.1).map fun y => y.len).getD 0))) ∧
    (∀ (tok : Nat) (m : Nat × KlBody), s.spreadMsg x.geo (isToken tok) = some m → x.geo.spreadIdx ≠ 0 → x.nextTok = none → a.gang = none → a.tokens = [] → a.pretoks = [] →
      a.desc.genMax ≠ 0 →
      (tok = h.eos → completes (.spreadTokenReceived q tok) s (fun t => t.reported a.desc .ok a.appended a.written)) ∧
      (tok ≠ h.eos → x.limit ≤ x.len → completes (.spreadTokenReceived q tok) s (fun t =>
        t.reported a.desc .lengthLimit a.appended a.written)) ∧
      (tok ≠ h.eos → x.len < x.limit → a.generated + 1 < a.desc.genMax → completes (.spreadTokenReceived q tok) s
        (fun t => (t.seq q).bind Seq.nextTok = some tok)) ∧
      (tok ≠ h.eos → x.len < x.limit → a.desc.genMax ≤ a.generated + 1 → completes (.spreadTokenReceived q tok) s
        (fun t => t.reported a.desc .ok a.appended a.written ∧ (t.seq q).bind Seq.pendingTok = some tok))) ∧
    (∀ (ns : Nat) (g : Grammar) (l : List Bool) (o : Bool), s.nextMask = some q → s.worksOn .grm = true → s.actMask x a = some (g, .ok l o) → l.any id = true → completes (.maskReady q ns) s (fun t =>
        t.seq q = some { x with act := some { a with maskReady := true } } ∧ t.mem = s.mem ∧
        max (s.fld (grmA 0x44) 0 16) (min ns 65535) = t.fld (grmA 0x44) 0 16)) ∧
    (∀ key tok notes : Nat, a.row = some key → s.nextRow = some q → s.worksOn .samp = true →
      a.vocab = none → a.grammar = none → s.clean → s.samplerOk a.desc.sampler = true → a.desc.outLen = 0 →
      sampleRow ((List.range h.vocab).map fun i => (BitVec.ofNat 32 (s.loadNat (key + 4 * i) 4) : F32))
        (List.replicate h.vocab true) (s.profile a.desc.sampler) x.seed x.len = (some tok, notes) →
      (tok = h.eos → completes (.tokenStep q) s (fun t => ∃ w, t.reported a.desc .ok a.appended w)) ∧
      (tok ≠ h.eos → x.len < x.limit → a.generated + 1 < a.desc.genMax → completes (.tokenStep q) s (fun t =>
        (t.seq q).bind Seq.nextTok = some tok ∧ t.text.rows = s.text.rows.filter (· != q) ∧ t.mem = s.mem)) ∧
      (tok ≠ h.eos → x.len < x.limit → a.desc.genMax ≤ a.generated + 1 → completes (.tokenStep q) s (fun t =>
        t.reported a.desc .ok a.appended a.written ∧ (t.seq q).bind Seq.pendingTok = some tok)))

/-- 10 R339 to R344, R377: a pool command that YARD accepts takes effect and leaves its result: ASSIGN appends unassigned frames, RELEASE
returns the last ones, CREATE makes a pool active, DESTROY empties it; when it is done BUSY clears and DONE counts it. The model's
reading: log 41. Completes: poolAssign, poolRelease, poolCreate, poolDestroy, poolCmdDone. -/
def Obligations.PoolCommands : Prop :=
  ∀ (p : Fin 64) (s : State), let first := s.fld (yardA 0x58) 0 17; let count := s.fld (yardA 0x5C) 0 17;
    (s.ownTakes (yardA 0x54) → s.blockOn .yard 0 = true → s.yard.running = none → s.yard.cmds = [] →
      ((s.poolSt p = stEmpty ∨ s.poolOpen p = true) → count ≠ 0 → first + count ≤ 49152 →
        (∀ f ∈ upFrom first count, s.frameSt f = .unassigned) → completes (.poolAssign p) s (fun t =>
          t.fld (yardA 0x60) 0 1 = 1 ∧ t.fld (yardA 0x60) 4 4 = 0 ∧
          (t.pool p).frames = (s.pool p).frames ++ upFrom first count ∧
          (∀ f ∈ upFrom first count, t.frameSt f = .pool p) ∧
          t.poolSt p = (if s.poolSt p = stEmpty then stAssembling else s.poolSt p))) ∧
      (let l := (s.pool p).frames; let keep := l.length - count;
        s.poolOpen p = true → count ≠ 0 → count ≤ l.length →
        sortBy (fun a b => decide (a < b)) (l.drop keep) = upFrom first count → completes (.poolRelease p) s (fun t =>
          t.fld (yardA 0x60) 0 1 = 1 ∧ t.fld (yardA 0x60) 4 4 = 0 ∧ (t.pool p).frames = l.take keep ∧
          ∀ f ∈ l.drop keep, s.frameSt f = .pool p → f ∉ s.yard.retiring → t.frameSt f = .unassigned)) ∧
      (s.poolOpen p = false → completes (.poolRelease p) s (fun t => t.fld (yardA 0x60) 4 4 = 1 ∧
        t.logged s.gts 0x1110 0x11E8 [.w p, .w 2, .w 1] 0xFF 0xFF ∧ (t.pool p).frames = (s.pool p).frames)) ∧
      (∀ n : Nat, s.poolSt p = stAssembling → s.metaOk = true → s.poolKind p = 2 → s.kvValid p = some n →
        completes (.poolCreate p) s (fun t => t.fld (yardA 0x60) 4 4 = 0 ∧ t.poolSt p = stActive ∧
          (t.pool p).npages = n)) ∧
      (s.poolSt p = stAssembling → s.metaOk = true → s.poolKind p ≠ 2 → s.plainValid p = true →
        completes (.poolCreate p) s (fun t => t.fld (yardA 0x60) 4 4 = 0 ∧ t.poolSt p = stActive)) ∧
      (s.poolSt p ≠ stEmpty → (s.poolSt p = stActive → s.poolKind p = 2 → s.seqsIn p = []) →
        completes (.poolDestroy p) s (fun t => t.fld (yardA 0x60) 4 4 = 0 ∧ t.poolSt p = stEmpty ∧
          (t.pool p).frames = []))) ∧
    (∀ c : PoolCmd, s.yard.running = some c → s.yard.cmds = [] → completes .poolCmdDone s (fun t =>
      t.yard.running = none ∧ t.fld (yardA 0x60) 0 1 = 0 ∧
      t.fld (yardA 0x60) 16 16 = (s.fld (yardA 0x60) 16 16 + 1) % 65536 ∧ t.mem = s.mem))

/-- 09 R315, 10 R350 to R355, R369: the Yard serves the requests of a pool in order: it refuses one over its context's cap, gives one a
free page above the low-water mark, and fails one that has waited too long; a write intent is granted on a page that no one shares and
copies a shared one first; ATTEND asks ahead for pages that are away. The model's reading: log 42. Completes: pageAlloc, allocWaitTimeout,
writeIntent, cowCopyDone, lookaheadRequest. -/
def Obligations.PagesAreGrantedCopiedAndRefused : Prop :=
  (∀ (p : Fin 64) (s : State) (r : PageReq) (rest : List PageReq) (x : Seq) (P : Nat), s.reqOrder p = r :: rest →
    r.kind = .new → r.pool = p → s.seq r.seq = some x →
    (s.overCap x.ctx p = true →
      exec (.pageAlloc p) s = .next ((rest.foldl State.allocStep (s.failReq r)).keepWater p)) ∧
    (s.overCap x.ctx p = false → s.lowWm p < s.freePages p → s.lowestPage p = some P →
      exec (.pageAlloc p) s = .next ((rest.foldl State.allocStep (s.grantPage r)).keepWater p) ∧
      (s.Inv → P < 2 ^ 32 → rest = [] → completes (.pageAlloc p) s (fun t =>
        t.loadNat (s.listKey x + 4 * r.entry) 4 = P ∧ r ∉ t.yard.reqs)))) ∧
  (∀ (p : Fin 64) (s : State) (r : PageReq),
    (s.yard.reqs.find? fun r => r.pool == p.val &&
      r.waiting.any fun t => decide (t + s.fld (yardA 0x48) 0 16 * 1000000 ≤ s.now)) = some r →
    completes (.allocWaitTimeout p) s (fun t => r ∉ t.yard.reqs ∧ t.logged s.gts 0x1110 0x21E2 [.w p, .w r.kind.code]
      (((s.seq r.seq).map fun x => x.ctx).getD 0xFF) 0xFF)) ∧
  (∀ (c : Fin 64) (s : State) (i : Intent) (x : Seq),
    (s.yard.intents.find? fun i => i.core == c.val && !i.granted && !i.busy) = some i → s.seq i.seq = some x →
    let v := s.entry x i.entry
    let u := s.cancelSpill x.pool v
    isPage v = true → (s.yard.intents.any fun j => j.busy && (s.seq j.seq).any fun y =>
      y.pool == x.pool && s.entry y j.entry == v) = false → (u.kvPage x.pool v).st = .resident →
    ((u.kvPage x.pool v).ref ≤ 1 → completes (.writeIntent c) s (fun t => t = u.grantIntent c x.pool v ∧
      (∃ j ∈ t.yard.intents, j.core = c ∧ j.granted = true) ∧ t.mem = s.mem)) ∧
    (1 < (u.kvPage x.pool v).ref → completes (.writeIntent c) s (fun t =>
      ((∃ r ∈ t.yard.reqs, r.seq = i.seq ∧ r.entry = i.entry) ∨
        ∃ r ∈ t.yard.transfers, r.seq = i.seq ∧ r.entry = i.entry) ∧
      (∃ j ∈ t.yard.intents, j.core = c ∧ j.busy = true) ∧ t.mem = s.mem))) ∧
  (∀ (c : Fin 64) (s : State) (y : Transfer) (x : Seq) (i : Intent), s.Inv → s.clean →
    (s.yard.transfers.find? fun t => t.kind = .cow && t.core == some c.val) = some y → s.seq y.seq = some x →
    y.epoch = s.ctxEpoch x.ctx → i ∈ s.yard.intents → i.core = c → y.dst < 2 ^ 32 → completes (.cowCopyDone c) s (fun t =>
      t.loadNat (s.listKey x + 4 * y.entry) 4 = y.dst ∧ (∃ j ∈ t.yard.intents, j.core = c ∧ j.granted = true) ∧
      y ∉ t.yard.transfers)) ∧
  (∀ (c : Fin 64) (s : State) (l : Launch) (b : List Byte) (q e : Nat) (x : Seq), s.rsFront c = some (l, b) →
    s.rsRuns c 1 = true → (s.core c).rs.started = true → (s.core c).rs.written = false →
    s.rsSeq c (fieldOf b 24 8) (fieldOf b 32 4) = some (q, x) →
    ((((walkOf x b).drop (s.core c).rs.items).take 5).find? fun e =>
      !((s.core c).rs.ahead.any fun a => a.1 == e && (a.2.isSome || isAway (s.entry x e)))) = some e →
    (isAway (s.entry x e) = true → completes (.lookaheadRequest c) s (fun t => (e, none) ∈ (t.core c).rs.ahead ∧
      t.mem = s.mem ∧ ((∃ r ∈ t.yard.reqs, r.seq = q ∧ r.entry = e) ∨ ∃ r ∈ t.yard.transfers, r.seq = q ∧ r.entry = e))) ∧
    (isPage (s.entry x e) = true → (s.kvPage x.pool (s.entry x e)).pin < 255 → completes (.lookaheadRequest c) s (fun t =>
      (e, some (x.pool, s.entry x e)) ∈ (t.core c).rs.ahead ∧ t.mem = s.mem)))

/-- 10 R364 to R369: a fetched page takes the place of its AWAY entry, or its sequence is lost; a preempted sequence is out when the last
write is done and in place when its last entry is resident; a spilled page leaves its record's number in the list. 10 R362, R376, 18 R605:
a keyed write of PFX.FLUSH makes the directory BUSY until the flush is done, one without the key does nothing; a frame whose retirement is
requested is retired at once when no pool has it, and marked otherwise. The model's reading: log 41, 42. Completes: fetchDone,
preemptWriteoutDone, seqRestored, pageSpilled, pfxFlush, pfxFlushDone, frameRetireRequest. -/
def Obligations.PagesMoveFlushAndRetire : Prop :=
  ((∀ (q : Nat) (e : Fin 1024) (s : State) (y : Transfer) (x : Seq),
    (s.yard.transfers.find? fun t => t.kind ≠ .cow && t.seq == q && t.entry == e.val) = some y → s.seq q = some x →
    y.epoch = s.ctxEpoch x.ctx →
    (s.Inv → s.recGood y.pool y.recNo = true → x.pre ≠ .restoring → y.dst < 2 ^ 32 →
      completes (.fetchDone q e false) s (fun t => t.loadNat (s.listKey x + 4 * e) 4 = y.dst ∧ y ∉ t.yard.transfers)) ∧
    (y.core = none → x.lost = none → completes (.fetchDone q e true) s (fun t =>
      (t.seq q).bind Seq.lost =
        some (BitVec.ofNat 8 (if s.recCut y.recNo then Status.deviceFault else .eccUncorrectable).code) ∧
      t.logged s.gts 0x1112 0x31E5 [.w (s.seqHandle q), .w y.recNo] x.ctx 0xFF))) ∧
  (∀ (q : Nat) (s : State) (w : WriteOut) (x : Seq), s.clean → (s.yard.writeOuts.find? fun w => w.seq == q) = some w →
    s.seq q = some x → w.epoch = s.ctxEpoch x.ctx → x.ops = [] → completes (.preemptWriteoutDone q) s (fun t => (t.seq q).map Seq.pre = some .out ∧
      t.notified x.ctx .preempted 0 ((x.act.map fun a => a.desc.tag).getD 0) (s.seqHandle q) w.total)) ∧
  (∀ (q : Nat) (s : State) (x : Seq), s.seq q = some x → x.pre = .restoring →
    (∀ e ∈ s.entries x, isAway e.2 = false) → completes (.seqRestored q) s (fun t =>
      t.seq q = some { x with pre := .inPlace } ∧ q ∉ t.yard.preempted ∧ t.mem = s.mem ∧
      t.logged s.gts 0x1110 0x01E1 [.w (s.seqHandle q), .w ((s.gts - x.restoreAt) / 1000)] x.ctx 0xFF)) ∧
  (∀ (p : Fin 64) (P : Nat) (s : State) (z : Spill) (x : Seq), s.Inv → s.clean →
    (s.yard.spills.find? fun z => z.pool == p.val && z.page == P) = some z → s.seq z.seq = some x →
    z.epoch = s.ctxEpoch x.ctx → s.recCut z.recNo = false → z.recNo < 2 ^ 31 → completes (.pageSpilled p P) s (fun t =>
      t.loadNat (s.listKey x + 4 * z.entry) 4 = 0x80000000 + z.recNo))) ∧
  ((∀ (val : Word) (s : State), s.ownTakes (pfxA 0x60) →
    (bitsOf val 16 16 = 0xF1A5 → completes (.pfxFlush val) s (fun t => t.fld (pfxA 0x64) 0 1 = 1 ∧
      t.yard.flush = some (if bitsOf val 8 1 = 1 then none else some (bitsOf val 0 6)) ∧ t.mem = s.mem)) ∧
    (bitsOf val 16 16 ≠ 0xF1A5 → exec (.pfxFlush val) s = .next s)) ∧
  (∀ (s : State) (f : Option Nat), s.yard.flush = some f → completes .pfxFlushDone s (fun t =>
    t.yard.flush = none ∧ t.fld (pfxA 0x64) 0 1 = 0 ∧ t.mem = s.mem)) ∧
  (∀ (f : Fin 49152) (s : State), f.val ∉ s.yard.retiring →
    (s.frameSt f = .unassigned → completes (.frameRetireRequest f) s (fun t => t.frameSt f = .retired ∧
      t.logged s.gts 0x1110 0x21E4 [.w f, .w 0xFFFFFFFF] 0xFF 0xFF ∧ t.mem = s.mem)) ∧
    (s.frameSt f = .yardArea → completes (.frameRetireRequest f) s (fun t => f.val ∈ t.yard.retiring ∧
      t.frameSt f = .yardArea ∧ t.mem = s.mem)) ∧
    (∀ p : Nat, s.frameSt f = .pool p → (s.poolKind p = 2 → s.poolSt p ≠ stActive) →
      completes (.frameRetireRequest f) s (fun t => f.val ∈ t.yard.retiring ∧ t.frameSt f = .pool p ∧ t.mem = s.mem))))

/-- 12 R417 to R424, R428: a decode stream queues each well-formed DATA record of its ring and ends a malformed one in ring order; an END
record makes it wait for a random-access point; a free core takes the next record, or drops one that is not a random-access point while
the stream waits; a decoded picture reports its record and frees the core. The model's reading: log 44, 45. Completes: auData, auEnd,
decodeDispatch, pictureDone. -/
def Obligations.DecodeStreams : Prop :=
  ∀ (n : Nat) (s : State) (d : DecStream), s.dec n = some d → d.ctx < 256 → d.ring < 4 →
    (∀ r : AuRec, s.ringEntry d.ctx d.ring d.drainTo = some r →
      (recNat r.bits 0 1 ≠ 2 → s.auOk d.ctx r.bits = true → s.anyDecoder d.ctx = true →
        completes (.auData n) s (fun t => t.dec n = some { d with queue := d.queue ++ [r] } ∧
          t.sqHead d.ctx d.ring = s.sqHead d.ctx d.ring + 1 ∧ t.mem = s.mem)) ∧
      (recNat r.bits 0 1 ≠ 2 → s.auOk d.ctx r.bits = false → d.queue = [] → d.pic = none →
        completes (.auData n) s (fun t => t.recorded d.ctx d.ring r .invalidDescriptor (skippedBits d) d.begun ∧
          t.sqHead d.ctx d.ring = s.sqHead d.ctx d.ring + 1)) ∧
      (recNat r.bits 0 1 = 2 → endOk r.bits = true → d.queue = [] → d.pic = none →
        completes (.auEnd n) s (fun t => t.recorded d.ctx d.ring r .ok 0 d.begun ∧
          (t.dec n).map DecStream.waiting = some true ∧ t.sqHead d.ctx d.ring = s.sqHead d.ctx d.ring + 1))) ∧
    (∀ (c : Fin 4) (pic : PicInfo) (r : AuRec) (rest : List AuRec), d.queue = r :: rest → s.clean →
      s.blockGoes .dec c = true → s.frozen .dec c = false → s.bit (ro .dec c 0x40) 0 = false →
      s.decReady c d = true → s.decFirst c d = true → d.changes = [] → recNat r.bits 1 1 / 4 % 2 = 0 → picBeyond d pic = false →
      (((d.waiting && !pic.rap) || (d.skipRasl && pic.rasl)) = true → completes (.decodeDispatch c n pic) s (fun t =>
        t.recorded d.ctx d.ring r .ok (2 ^ 11 + skippedBits d) d.begun ∧
        t.dec n = some { d with queue := rest, begun := d.begun + 1, others := d.others + 1 })) ∧
      (((d.waiting && !pic.rap) || (d.skipRasl && pic.rasl)) = false → d.stale = 0 →
        pic.hidden.length + (if pic.existing.isSome then 0 else 1) ≤ d.unused.length →
        completes (.decodeDispatch c n pic) s (fun t => t.bit (ro .dec c 0x40) 0 = true ∧
          (pic.hidden = [] → t.mem = s.mem) ∧
          ∃ p, (t.dec n).bind DecStream.pic = some p ∧ p.entry = r ∧ p.core = c ∧ p.number = d.begun ∧
            p.info = pic ∧ p.taps.map PicTap.tap = d.taps.keys))) ∧
    (∀ (p : Picture) (marks : List Nat), d.pic = some p → s.frozen .dec p.core = false →
      (p.taps.all fun t => t.begun && (!t.writes || t.done == s.tapTotal p t.cfg)) = true →
      ((s.linkedTo n (recNat p.entry.bits 24 8)).all fun e => p.linked.contains e) = true →
      completes (.pictureDone n marks) s (fun t => t.rd (ro .dec p.core 0x40) = 0xFF00 ∧
        (∃ x, t.dec n = some x ∧ x.pic = none ∧ x.decoded = d.decoded + 1) ∧
        ∃ result, t.recorded d.ctx d.ring p.entry (if p.stale then .staleDropped else .ok) result p.number))

/-- 12 R431 to R435: a tap that has a free slot starts a picture and writes its progress word; one that has none skips it and counts an
overrun; it writes its next row or box when the source rows that it needs are complete. The model's reading: log 46. Completes:
tapPictureStart, tapOutputRow. -/
def Obligations.TensorTaps : Prop :=
  ∀ (n : Nat) (tap : Fin 4) (s : State) (d : DecStream) (p : Picture) (x : PicTap) (cur : Tap), s.dec n = some d →
    d.pic = some p → (p.taps.find? fun t => t.tap == tap.val) = some x → d.taps.look? tap = some cur →
    (x.begun = false → s.blockGoes .ttb 0 = true → s.slotFree x.cfg cur.written = true →
      completes (.tapPictureStart n tap) s (fun t =>
        t.mem = (s.progressStart x.cfg cur.written (recNat p.entry.bits 24 8)).mem ∧
        (((t.dec n).bind DecStream.pic).bind fun p => p.taps.find? fun t => t.tap == tap.val) =
          some { x with begun := true, writes := true })) ∧
    (x.begun = false → s.blockGoes .ttb 0 = true → s.slotFree x.cfg cur.written = false →
      completes (.tapPictureStart n tap) s (fun t => t.mem = s.mem ∧
        (((t.dec n).bind DecStream.pic).bind fun p => p.taps.find? fun t => t.tap == tap.val) =
          some { x with begun := true } ∧
        t.logged s.gts 0x4030 0x1430 [.w (s.mkHandle d.ctx n), .w tap] d.ctx 0xFF)) ∧
    (∀ ready : Nat, x.writes = true → x.done < s.tapTotal p x.cfg → ready ≤ p.info.h → s.frozen .ttb 0 = false →
      (p.info.existing = none → s.tapNeeds p x.cfg x.done ≤ ready) → completes (.tapOutputRow n tap ready) s (fun t =>
        t.mem = ((s.tapWrite d p x.cfg cur.written x.done).progressDone x.cfg (x.done + 1)).mem ∧
        (((t.dec n).bind DecStream.pic).bind fun p => p.taps.find? fun t => t.tap == tap.val).map PicTap.done =
          some (x.done + 1)))

/-- 12 R436 to R441: an encoder takes a FRAME record's picture, or the picture in progress of its linked source, into a free input buffer;
a linked encoder with both buffers taken skips it; an access unit is written to OUT and reported with its size and offset, or is too large
and is rejected. The model's reading: log 44, 47. Completes: encFrame, encLinkedPicture, encPictureDone. -/
def Obligations.EncodeStreams : Prop :=
  ∀ (n : Nat) (s : State) (e : EncStream), s.enc n = some e →
    (∀ r : AuRec, e.ctx < 256 → e.param.ring < 4 → e.param.linked = false → s.ringEntry e.ctx e.param.ring e.drainTo = some r →
      recNat r.bits 0 1 = 3 → s.frameRecOk e.ctx r.bits = true → s.anyEncoder e.ctx = true → e.pics.length < 2 →
      s.ringBlocked e.ctx = false → s.clean → completes (.encFrame n) s (fun t =>
        (t.enc n).map (fun x => x.pics.length) = some (e.pics.length + 1) ∧
        t.sqHead e.ctx e.param.ring = s.sqHead e.ctx e.param.ring + 1)) ∧
    (∀ (d : DecStream) (p : Picture), let i := handleIdx e.param.src;
      e.param.linked = true → e.closing = none → s.dec i = some d → d.pic = some p → n ∉ p.linked →
      n ∈ s.linkedTo i (recNat p.entry.bits 24 8) →
      (e.pics.length < 2 → completes (.encLinkedPicture n) s (fun t =>
        (t.enc n).map (fun x => x.pics.length) = some (e.pics.length + 1) ∧
        t.dec i = some { d with pic := some { p with linked := p.linked ++ [n] } })) ∧
      (2 ≤ e.pics.length → completes (.encLinkedPicture n) s (fun t =>
        t.enc n = some { e with others := e.others + 1 } ∧ t.logged s.gts (0x4010 + e.lastCore) 0x1411 [] e.ctx 0xFF ∧
        t.dec i = some { d with pic := some { p with linked := p.linked ++ [n] } }))) ∧
    (∀ (p : EncPic) (rest : List EncPic) (c size : Nat), e.pics = p :: rest → p.core = some c →
      s.blockGoes .enc c = true → s.frozen .enc c = false → e.rateAllows p.capture size = true →
      (2 * size ≤ e.param.outBytes → completes (.encPictureDone n size) s (fun t =>
        let off := if e.param.outBytes < e.outPos + size then 0 else e.outPos
        (t.enc n).map (fun x => (x.encoded, x.outPos, x.pics.length)) = some (e.encoded + 1, off + size, rest.length) ∧
        ∃ x ∈ t.notices, x.ctx = e.ctx ∧ x.entry.tag = p.tag ∧ x.entry.status = 0 ∧
          x.entry.result = BitVec.ofNat 32 size ∧ x.entry.result2 = BitVec.ofNat 32 off)) ∧
      (e.param.outBytes < 2 * size → completes (.encPictureDone n size) s (fun t => t.mem = s.mem ∧
        t.logged s.gts (0x4010 + c) 0x1410 [.w size] e.ctx 0xFF ∧ (t.enc n).map EncStream.wantIdr = some true ∧
        ∃ x ∈ t.notices, x.ctx = e.ctx ∧ x.entry.tag = p.tag ∧
          x.entry.status = BitVec.ofNat 8 Status.limitRejected.code)))

/-- 13 R446 to R450, R455: the first write of PHY_CFG fixes it; the first deskew sequence calibrates the receiver; a frame start stamps a
new frame and the port streams; a line of an exposure is unpacked into the frame; a frame ends with the last of its exposures. The model's
reading: log 48. Completes: csiPhyCfgWrite, csiDeskewSequence, frameStart, csiPacket, frameEnd. -/
def Obligations.CameraReceiver : Prop :=
  (∀ (p : Fin 8) (val : Word) (s : State), let a := ro .csi p 0x40;
    s.ownTakes a →
    (a ∉ s.rwl → completes (.csiPhyCfgWrite p val) s (fun t =>
      t.rd a = val &&& maskWhere (fun f => f.acc = .rwl) a ∧ a ∈ t.rwl ∧ t.mem = s.mem ∧ ∀ b, b ≠ a → t.rd b = s.rd b)) ∧
    (a ∈ s.rwl → exec (.csiPhyCfgWrite p val) s = .next s)) ∧
  (∀ (p : Fin 8) (lanes : Word) (s : State), s.blockGoes .csi p = true → s.needsDeskew p = true →
    s.deskewed p = false → completes (.csiDeskewSequence p lanes) s (fun t => t.rd (ro .csi p 0x54) = lanes ∧
      t.deskewed p = true ∧ t.mem = s.mem)) ∧
  (∀ (p : Fin 8) (vc : Nat) (s : State) (i : Nat) (c : CamStream), s.camOf p = some (i, c) → s.cam i = some c →
    s.blockGoes .csi p = true → (s.portState p = pArmed ∨ s.portState p = pStreaming) →
    (s.needsDeskew p = false ∨ s.deskewed p = true) →
    (c.p.vcs.getD 0 16 = vc → c.closing = none → s.blockOn .csi p = true → c.open? = none →
      completes (.frameStart p vc) s (fun t => t.portState p = pStreaming ∧ ∃ f, f.number = c.begun ∧ f.gts = s.gts ∧
        f.ended = false ∧ t.cam i = some { c with frames := c.frames ++ [f], begun := c.begun + 1 })) ∧
    (∀ (f : CamFrame) (e dt : Nat) (payload : List Nat), c.open? = some f → c.p.exposureOf vc dt = some e → 0x10 ≤ dt →
      f.overflow = false → e ∉ f.ends → f.seen.look 0 e < c.p.height → payload.length = lineSamples (c.p.dts.getD e 0) c.p.width →
      (0 < e → f.seen.look 0 0 ≤ f.seen.look 0 e + c.p.hdrLag + 1) →
      completes (.csiPacket p vc dt 0 true payload false) s (fun t => ∃ d, t.cam i = some d ∧ ∃ g ∈ d.frames,
        g.number = f.number ∧ g.seen.look 0 e = f.seen.look 0 e + 1 ∧ g.isDamaged = f.isDamaged ∧
        g.lines.look? (e * 65536 + f.seen.look 0 e) =
          some (payload.map fun v => v % 2 ^ (rawBits (c.p.dts.getD e 0)).getD 8))) ∧
    (∀ f : CamFrame, c.open? = some f → (∀ e < c.p.exposures, c.p.vcs.getD e 16 = vc ∨ e ∈ f.ends) →
      completes (.frameEnd p vc) s (fun t => ∃ d, t.cam i = some d ∧ ∃ g ∈ d.frames, g.number = f.number ∧
        g.ended = true)))

/-- 13 R457 to R465, R468: the pipeline takes a frame with its checked table, goes through its lines and ends the frame with its notice; a
camera that sends nothing in time, or whose presence pin says that it is gone, is lost, and one that returns is marked present. The
model's reading: log 48. Completes: frameDispatch, ispLine, frameComplete, camFirstMsExpiry, camSilenceExpiry, camDetChange. -/
def Obligations.CameraFramesAndLoss : Prop :=
  ∀ (p : Fin 8) (s : State) (i : Nat) (c : CamStream), s.camOf p = some (i, c) → s.cam i = some c →
    (∀ (f : CamFrame) (e : RegionEntry), c.frames.head? = some f → s.frozen .isp p = false →
      (f.dispatched = false → (f.lines ≠ [] ∨ f.ended = true) → s.blockGoes .isp p = true → c.p.stale = 0 →
        s.region c.p.table = some e → s.clean → c.checked.contains e.gen = true →
        completes (.frameDispatch p) s (fun t => t.bit (ro .isp p 0x40) 0 = true ∧ ∃ d, t.cam i = some d ∧
          ∃ g ∈ d.frames, g.number = f.number ∧ g.dispatched = true ∧ g.discard = f.discard ∧
            g.writes = (c.p.tensor && s.slotFree c.p.tap c.written) ∧
            g.overrun = (c.p.tensor && !s.slotFree c.p.tap c.written))) ∧
      (∀ k : Nat, f.dispatched = true → f.discard = none → f.lineNo < c.p.height →
        (∀ x < c.p.exposures, (f.lines.look? (x * 65536 + f.lineNo)).isSome = true) →
        s.heldBuf c.p.table f.serial = some k → completes (.ispLine p) s (fun t => ∃ d, t.cam i = some d ∧
          ∃ g ∈ d.frames, g.number = f.number ∧ g.lineNo = f.lineNo + 1))) ∧
    (∀ (f : CamFrame) (st : Byte), c.frames.head? = some f → f.dispatched = true → f.ended = true →
      (f.discard = some st ∨ (f.discard = none ∧ st = 0 ∧ f.lineNo = c.p.height ∧
        ∀ e ∈ s.linkedTo i f.gts, e ∈ f.linked)) →
      completes (.frameComplete p) s (fun t => t = s.endFrame i f st ∧
        (t.cam i).map CamStream.frames = some (c.frames.filter fun g => g.number != f.number) ∧
        (¬ (c.p.quiet ∧ st = 0) → ∃ x ∈ t.notices, x.ctx = c.ctx ∧ x.entry.notice = true ∧
          x.entry.tag = BitVec.ofNat 64 f.gts ∧ x.entry.status = st ∧ x.entry.result2 = BitVec.ofNat 32 f.number))) ∧
    (let lost := fun (cause : Nat) (t : State) => t.portState p = pLost ∧ (t.cam i).map CamStream.frames = some [] ∧
        t.logged s.gts (0x5000 + p) 0x2501 [.w p, .w (s.mkHandle c.ctx i), .w cause] c.ctx 0xFF;
      (s.portState p = pArmed → c.p.firstMs ≠ 0 → c.openedAt + c.p.firstMs * 1000000 ≤ s.now →
        completes (.camFirstMsExpiry p) s (lost 2)) ∧
      (s.portState p = pStreaming → s.blockGoes .csi p = true →
        (s.port p).lastSot + 2 * c.p.frameUs * 1000 ≤ s.now → completes (.camSilenceExpiry p) s (lost 1)) ∧
      (∀ level : Bool, s.bit (ro .csi p 0x48) 0 = true →
        (level = s.bit (ro .csi p 0x48) 1 → (s.portState p = pArmed ∨ s.portState p = pStreaming) →
          completes (.camDetChange p level) s (lost 0)) ∧
        (level ≠ s.bit (ro .csi p 0x48) 1 → completes (.camDetChange p level) s (fun t =>
          t.bit (ro .csi p 0x44) 2 = true ∧ t.bit (ro .csi p 0x44) 4 = level ∧ t.portState p = s.portState p))))

/-- 13 R466, R467: a CCI command starts a transfer or a sequence unless one runs or waits; a sequence that waits for a frame end starts
there; a finished transfer leaves its data or its error, and a sequence goes on with its next entry. The model's reading: log 48.
Completes: cciWrite, cciRead, cciSeq, cciSeqAtFeStart, cciTransferDone. -/
def Obligations.CameraControlTransfers : Prop :=
  ∀ (p : Fin 8) (s : State), let a := ro .csi p 0x64;
    (∀ val : Word, s.ownTakes a → s.bit (cciStat p) 0 = false →
      (bitsOf val 10 2 = 1 → completes (.cciWrite p val) s (fun t => t.bit (cciStat p) 0 = true ∧
        (t.port p).cci = some (s.cciSingle p val false) ∧ t.mem = s.mem)) ∧
      (bitsOf val 10 2 = 2 → completes (.cciRead p val) s (fun t => t.bit (cciStat p) 0 = true ∧
        (t.port p).cci = some (s.cciSingle p val true) ∧ t.mem = s.mem)) ∧
      (bitsOf val 10 2 = 3 → completes (.cciSeq p val) s (fun t => t.bit (cciStat p) 0 = true ∧
        t.fld (cciStat p) 8 8 = bitsOf val 16 8 ∧ t.mem = s.mem ∧
        (t.port p).cci = some (s.cciEntry p (bitsOf val 16 8) (bitsOf val 24 8) (bitsOf val 12 1 == 1))))) ∧
    (∀ val : Word, s.ownTakes a → s.bit (cciStat p) 0 = true → bitsOf val 10 2 = 1 →
      completes (.cciWrite p val) s (fun t => t.port p = s.port p ∧ t.mem = s.mem)) ∧
    (∀ j : CciJob, (s.port p).cci = some j →
      (j.waitFe = true → j.feSeen = true →
        completes (.cciSeqAtFeStart p) s (fun t => (t.port p).cci = some { j with waitFe := false } ∧ t.regs = s.regs)) ∧
      (∀ bytes : Word, j.waitFe = false →
        (completes (.cciTransferDone p true false bytes) s (fun t => (t.port p).cci = none ∧
          t.bit (cciStat p) 0 = false ∧ t.bit (cciStat p) 1 = true ∧ t.bit (cciStat p) 2 = false)) ∧
        (completes (.cciTransferDone p false true bytes) s (fun t => (t.port p).cci = none ∧
          t.bit (cciStat p) 0 = false ∧ t.bit (cciStat p) 1 = false ∧ t.bit (cciStat p) 2 = true)) ∧
        (j.read = true → completes (.cciTransferDone p false false bytes) s (fun t => (t.port p).cci = none ∧
          t.bit (cciStat p) 0 = false ∧ t.rd (ro .csi p 0x70) = BitVec.ofNat 32 (bytes.toNat % 2 ^ (8 * j.len)))) ∧
        (j.read = false → j.left = 0 → completes (.cciTransferDone p false false bytes) s (fun t =>
          (t.port p).cci = none ∧ t.bit (cciStat p) 0 = false)) ∧
        (j.read = false → j.left ≠ 0 → completes (.cciTransferDone p false false bytes) s (fun t =>
          (t.port p).cci = some (s.cciEntry p ((j.entry + 1) % 256) (j.left - 1) false) ∧
          t.fld (cciStat p) 8 8 = (j.entry + 1) % 256))))

/-- 14 R482 to R487, R491, R494: SCAN_START opens a job and the port waits, or clears its path first; SCAN_ABORT ends it after the page or
at the line; a sheet is picked while paper, a slot and ring space are there; a line leaves the ring; the port goes back to WAIT after a
sheet or a clear path, and the job ends after its last page or an empty tray. The model's reading: log 49. Completes: scanStart,
scanAbortAfterPage, scanAbortAtLine, sheetPick, trayWaitExpiry, ringLineProcessed, ejectDone, clearDone. -/
def Obligations.ScanJobs : Prop :=
  (∀ (ctx : Fin 256) (sq : Fin 4) (s u : State) (d : Desc), s.beforeChecks ctx sq 0x0D = some (u, d) →
    u.scanCheck d = none → ([Blk.scn, .afe, .mot].all fun b => u.blockOn b 0) = true → completes (.scanStart ctx sq) s (fun t =>
      t.scan.job = some (scanJobOf u d) ∧ t.scanState = (if u.bit (scn 0x50) 10 then sClear else sWait) ∧
      (u.bit (scn 0x50) 10 = true → t.motPhase = mRun) ∧ t.fld (scn 0x50) 16 8 = d.ctx % 256 ∧ t.mem = u.mem)) ∧
  (∀ (ctx : Fin 256) (sq : Fin 4) (s u : State) (d : Desc) (j : ScanJob), s.beforeChecks ctx sq 0x0E = some (u, d) →
    u.scanAbortCheck d = none → u.scan.job = some j →
    (s.scanAbortMode ctx sq ≠ some 1 → (u.scanState ≠ sWait → completes (.scanAbortAfterPage ctx sq) s (fun t =>
        t.scan.job = some { j with abort0 := true, aborts := j.aborts ++ [d] } ∧ t.scanState = u.scanState)) ∧
      (u.scanState = sWait → completes (.scanAbortAfterPage ctx sq) s (fun t => t.scanState = sIdle))) ∧
    (s.scanAbortMode ctx sq = some 1 → j.final = none → completes (.scanAbortAtLine ctx sq) s (fun t =>
      t.scanState = sIdle ∧ t.motPhase = mStopped ∧ ∀ x ∈ t.scan.sheets, x.ended.isSome = true)) ∧
    (s.scanAbortMode ctx sq = some 1 → j.final ≠ none → completes (.scanAbortAtLine ctx sq) s (fun t =>
      t.scan.job = some { j with aborts := j.aborts ++ [d] } ∧ t.scanState = u.scanState))) ∧
  (∀ (s : State) (j : ScanJob), s.scan.job = some j → j.final = none → s.scanState = sWait →
    (s.scanInput 0 = true → s.scanInput 2 = false → s.bit (scn 0x50) 9 = false →
      (BitVec.ofNat 32 j.picked - BitVec.ofNat 32 (s.natAt j.credit 4)).toNat < j.nslot →
      s.scan.ring.length ≤ s.fld (scn 0x4C) 16 12 → (j.onButton = true → j.pressed = true) →
      s.blockGoes .scn 0 = true → s.frozen .scn 0 = false → s.ringBlocked j.desc.ctx = false →
      completes .sheetPick s (fun t => t.scanState = sFeed ∧ t.motPhase = mRun ∧ t.rd (mot 0x50) = 0 ∧
        t.scan.job = some { j with picked := j.picked + 1 } ∧ t.mem = s.mem ∧
        ∃ x, t.scan.sheets = s.scan.sheets ++ [x] ∧ x.page = j.picked ∧ x.ended = none)) ∧
    (s.scanInput 0 = false → j.waitSince + j.trayMs * 1000000 ≤ s.now → completes .trayWaitExpiry s (fun t =>
      t.scanState = sIdle ∧ (s.scan.sheets = [] → t.reported j.desc .ok j.pages 0 ∧ t.scan.job = none)))) ∧
  (∀ (s : State) (j : ScanJob) (l : RingLine) (rest : List RingLine), s.scan.job = some j → s.scan.ring = l :: rest →
    (s.page (slotOf .scn 0)).perturb.toNat / 256 % 2 = 0 → s.frozen .scn 0 = false →
    completes .ringLineProcessed s (fun t => t = s.processLine ∧ t.scan.ring = rest)) ∧
  (∀ (s : State) (j : ScanJob), s.scan.job = some j → s.scanState = sEject →
    s.scan.countFrom + s.fld (mot 0x4C) 0 12 ≤ s.scan.line →
    ((j.maxPages ≠ 0 ∧ j.maxPages ≤ j.picked) → completes .ejectDone s (fun t => t.scanState = sIdle ∧
      t.motPhase = mIdle)) ∧
    (¬ (j.maxPages ≠ 0 ∧ j.maxPages ≤ j.picked) → j.abort0 = false → completes .ejectDone s (fun t =>
      t.scanState = sWait ∧ t.motPhase = mIdle ∧ t.scan.job = some { j with waitSince := s.now }))) ∧
  (∀ (s : State) (j : ScanJob) (n : Nat), s.scan.job = some j → s.scanState = sClear → s.scan.clearFrom = some n →
    n + s.fld (mot 0x4C) 0 12 ≤ s.scan.line → j.abort0 = false → completes .clearDone s (fun t =>
      t.scanState = sWait ∧ t.motPhase = mIdle ∧ t.bit (scn 0x50) 10 = false))

/-- 14 R476, R488 to R495: while the motor runs each line start counts, and in SCAN a good line of an inked span enters the ring; the
paper edge starts and ends the sheet, the cover and a double feed stop the port; a restart settles, reverses, waits for the low-water mark
and runs forward again. 14 R480, R491, R492: the button is recorded, an unplugged cable or a jam or misfeed stops the port, FAULT_CLR
clears a fault; a calibration begins in IDLE without paper, and its end leaves its tables. The model's reading: log 49. Completes:
scanLineStart, motorSettleDone, motorReverseDone, ringLwmReached, paperInputChange, scanButton, cableChange, misfeed, paperJam, faultClr,
afeCalDark, afeCalWhite, afeCalOffset, afeCalDone. -/
def Obligations.ScanLinesFaultsAndCalibration : Prop :=
  ((∀ (s : State) (j : ScanJob) (samples : List (List Nat)), s.scan.job = some j →
    (s.motPhase = mRun ∨ s.motPhase = mReplay) → s.frozen .scn 0 = false → s.frozen .mot 0 = false →
    ((s.scanState = sFeed ∨ s.scanState = sEject ∨ s.scanState = sClear) → completes (.scanLineStart samples) s (fun t =>
      t.scan = { s.scan with line := s.scan.line + 1 } ∧ t.mem = s.mem ∧
      t.rd (mot 0x50) = BitVec.ofNat 32 (s.scan.line * s.steps))) ∧
    (∀ sh : Sheet, let pos : Int := ((s.scan.line * s.steps : Nat) : Int)
      let u := ((s.installShadow .afe 0).wr (mot 0x50) (BitVec.ofInt 32 pos)).withScan fun c =>
        { c with line := s.scan.line + 1 }
      let v := u.setObMeans (codesOf samples)
      s.scanState = sScan → u.curSheet = some sh → scansFront j = true → scansBack j = false →
      u.inSpan sh 0 pos = true → v.obFails samples [0] = [] → v.wrFails j samples [0] = [] →
      sh.front.stored < v.maxNative j → completes (.scanLineStart samples) s (fun t =>
        t.scan.line = s.scan.line + 1 ∧
        t.scan.ring = s.scan.ring ++ [(⟨sh.page, some sh.front.stored, none, codesOf samples⟩ : RingLine)]))) ∧
  (∀ s : State, s.scanState = sBackup →
    (s.motPhase = mSettle → s.settled = true → s.scan.settle2 = false → completes .motorSettleDone s (fun t =>
      t.motPhase = mReverse ∧ t.bit (mot 0x58) 1 = true ∧ t.scan.reversed = min s.backupLines s.scan.line)) ∧
    (s.motPhase = mSettle → s.settled = true → s.scan.settle2 = true → completes .motorSettleDone s (fun t =>
      t.motPhase = mWait ∧ t.bit (mot 0x58) 0 = false ∧ t.scan = s.scan)) ∧
    (s.motPhase = mReverse → completes .motorReverseDone s (fun t => t.motPhase = mSettle ∧ t.scan.settle2 = true ∧
      t.scan.line = s.scan.line - s.scan.reversed ∧ t.scan.settleAt = s.now)) ∧
    (s.motPhase = mWait → s.scan.ring.length ≤ s.fld (scn 0x4C) 16 12 → completes .ringLwmReached s (fun t =>
      t.motPhase = mReplay ∧ t.bit (mot 0x58) 0 = true ∧ t.scan = s.scan))) ∧
  (∀ (s : State) (level : Bool) (pos : Int),
    (∀ k : Fin 4, (level != s.bit (scn 0x64) k) = s.scanInput k →
      exec (.paperInputChange k level pos) s = .next s) ∧
    ((level != s.bit (scn 0x64) 0) ≠ s.scanInput 0 → completes (.paperInputChange 0 level pos) s (fun t =>
      t.scanInput 0 = (level != s.bit (scn 0x64) 0) ∧ t.scanState = s.scanState)) ∧
    (∀ sh : Sheet, (level != s.bit (scn 0x64) 1) ≠ s.scanInput 1 → s.curSheet = some sh →
      (s.scanInput 1 = false → s.scanState = sFeed → completes (.paperInputChange 1 level pos) s (fun t =>
        t.scanState = sScan ∧ t.bit (mot 0x58) 5 = false ∧ (t.curSheet).map Sheet.lead = some (some pos))) ∧
      (s.scanInput 1 = true → s.scanState = sScan → sh.trail = none →
        completes (.paperInputChange 1 level pos) s (fun t => t.scanState = sScan ∧
          (t.curSheet).map Sheet.trail = some (some pos)))) ∧
    ((level != s.bit (scn 0x64) 2) = true → s.scanInput 2 = false → s.scanState = sScan →
      completes (.paperInputChange 2 level pos) s (fun t => t.scanState = sIdle ∧ t.motPhase = mStopped ∧
        t.bit (scn 0x50) 10 = true ∧
        t.logged s.gts 0x6000 0x1605 [] ((s.scan.job.map fun j => j.desc.ctx).getD 0xFF) 0xFF)) ∧
    ((level != s.bit (scn 0x64) 2) = false → s.scanInput 2 = true → completes (.paperInputChange 2 level pos) s (fun t =>
      t.bit (scn 0x50) 9 = false ∧ t.bit (scn 0x50) 10 = false ∧ t.scanState = s.scanState)) ∧
    ((level != s.bit (scn 0x64) 3) = true → s.scanInput 3 = false → s.scanState = sFeed →
      completes (.paperInputChange 3 level pos) s (fun t => t.scanState = sIdle ∧ t.motPhase = mStopped ∧
        t.logged s.gts 0x6000 0x2604 [] ((s.scan.job.map fun j => j.desc.ctx).getD 0xFF) 0xFF)))) ∧
  ((∀ s : State, completes (.scanButton true) s (fun t => t.scanInput 4 = true ∧ t.logged s.gts 0x6000 0x0600 [] 0xFF 0xFF ∧
      t.scan.job.map ScanJob.pressed = s.scan.job.map fun _ => true) ∧
    completes (.scanButton false) s (fun t => t.scanInput 4 = false ∧ t.scan = s.scan ∧ t.mem = s.mem)) ∧
  (∀ s : State, (s.scanState ≠ sFault → completes (.cableChange false) s (fun t => t.scanState = sFault ∧
      t.fld (scn 0x50) 12 3 = 3 ∧ t.scanInput 5 = false ∧ t.motPhase = mStopped ∧ t.scan.cal = none ∧
      t.logged s.gts 0x6000 0x0608 [.w 0] 0xFF 0xFF)) ∧
    (s.scanState = sFault → s.scan.unplugged = true → completes (.cableChange true) s (fun t => t.scanState = sIdle ∧
      t.fld (scn 0x50) 12 3 = 0 ∧ t.scanInput 5 = true ∧ t.logged s.gts 0x6000 0x0609 [] 0xFF 0xFF))) ∧
  (∀ (s : State) (j : ScanJob), s.scan.job = some j →
    (s.scanState = sFeed → s.fld (mot 0x48) 0 12 ≤ s.scan.line → completes .misfeed s (fun t => t.scanState = sIdle ∧
      t.motPhase = mStopped ∧ t.bit (scn 0x50) 10 = true ∧ t.logged s.gts 0x6000 0x2606 [] j.desc.ctx 0xFF)) ∧
    (∀ x : Sheet, s.scanState = sScan → s.curSheet = some x → x.trail = none →
      s.maxNative j + s.fld (mot 0x48) 16 12 ≤ s.scan.line - s.scan.countFrom → completes .paperJam s (fun t =>
        t.scanState = sIdle ∧ t.motPhase = mStopped ∧ t.bit (scn 0x50) 9 = true ∧ t.bit (scn 0x50) 10 = true ∧
        t.logged s.gts 0x6000 0x2603 [] j.desc.ctx 0xFF))) ∧
  (∀ (s : State) (val : Word), s.ownTakes (scn 0x60) → bitsOf val 0 1 = 1 → s.scanState = sFault →
    completes (.faultClr val) s (fun t => t.scanState = sIdle ∧ t.fld (scn 0x50) 12 3 = 0 ∧
      t.logged s.gts 0x6000 0x0609 [] 0xFF 0xFF)) ∧
  (∀ (s : State) (val : Word), s.ownTakes (afe 0x78) → s.scanState = sIdle → s.scanInput 1 = false → s.scan.cal = none →
    let starts := fun (op : Nat) (t : State) => t.scan = { s.scan with cal := some (op, max 1 (bitsOf val 8 8)) } ∧
      t.rd (afe 0x7C) = 1 ∧ t.mem = s.mem;
    (bitsOf val 0 2 = 1 → completes (.afeCalDark val) s (starts 1)) ∧
    (bitsOf val 0 2 = 2 → completes (.afeCalWhite val) s (starts 2)) ∧
    (bitsOf val 0 2 = 3 → completes (.afeCalOffset val) s (starts 3))) ∧
  (∀ (s : State) (lines : List (List (List Nat))) (offsets : List (Nat × Nat)) (op n : Nat), s.scan.cal = some (op, n) →
    completes (.afeCalDone lines offsets) s (fun t => t.scan.cal = none ∧ t.fld (afe 0x7C) 0 1 = 0 ∧
      (s.scanInput 5 = false → t.fld (afe 0x7C) 1 3 = 3) ∧
      (s.scanInput 5 = true → op = 1 → s.npix ≤ 10304 → t.fld (afe 0x7C) 1 3 = 0 ∧ ∀ i < 6, ∀ p < s.npix - 64,
        t.scan.dark.look 0 (i * 10240 + p) = calMean (lines.map codesOf) n i p))))

/-- 15 R505 to R519: a SMP_RUN that passes its checks joins the runs of its pipeline; a pipeline without credit waits and says so, and one
with credit gives its next position to a free lane or, at or above N, pads the entry; a lane that finishes is free again, its entry is
final, and complete steps are released in order. The model's reading: log 50. Completes: smpRun, sampleIssue, sampleDone. -/
def Obligations.SamplePipelines : Prop :=
  (∀ (ctx : Fin 256) (sq : Fin 4) (s u : State) (d : Desc), s.beforeChecks ctx sq 0x0F = some (u, d) →
    (∀ st, u.smpCheck d = some st → completes (.smpRun ctx sq) s (fun t => t.reported d st 0 0)) ∧
    (u.smpCheck d = none → u.blockOn .smp 0 = true → completes (.smpRun ctx sq) s (fun t =>
      ∃ r, t.smp.runs = u.smp.runs ++ [r] ∧ r.desc = d ∧ r.pipe = d.target ∧ r.seed = d.addr 16 ∧
        r.epoch = d.nat 24 4 ∧ r.first = d.nat 28 4 ∧ r.steps = d.nat 32 4 ∧ r.batch = d.nat 36 4 ∧
        r.next = r.first * r.batch ∧ r.released = 0 ∧ t.mem = u.mem))) ∧
  (∀ (pipe : Fin 4) (s : State) (r : SmpRun), s.pipeRun pipe = some r → r.more = true → s.blockGoes .smp 0 = true →
    s.frozen .smp 0 = false →
    let k := r.next / max 1 r.batch
    (s.smpCredit r k = false → exec (.sampleIssue pipe) s = .next s ∧
      bitsOf (s.readWord ⟨.smp, 0⟩ 0x40) (4 + pipe) 1 = 1) ∧
    (s.smpCredit r k = true → r.n ≤ r.next → bitsOf (s.readWord ⟨.smp, 0⟩ 0x40) (4 + pipe) 1 = 0 ∧
      exec (.sampleIssue pipe) s = .next ((((s.updRun r.desc.uid fun r => { r with next := r.next + 1 }).storeAt
        (r.dataAddr k (r.next % r.batch)) (List.replicate r.block.sb 0)).smpFinal r r.next
        ⟨0xFFFFFFFF, 0, 0, r.openLabel 0xFFFFFFFF r.next, true⟩).smpRelease r.desc.uid r.steps)) ∧
    (∀ l, s.smpCredit r k = true → r.next < r.n → s.smpAhead r = false → s.freeLane = some l →
      completes (.sampleIssue pipe) s (fun t => (∃ b, t.smp.lanes.look? l = some ⟨r.desc.uid, r.next, b⟩) ∧
        (∃ y ∈ t.smp.runs, y.desc.uid = r.desc.uid ∧ y.next = r.next + 1) ∧ t.mem = s.mem))) ∧
  (∀ (lane : Fin 8) (s : State) (l : SmpLane) (r : SmpRun), s.smp.lanes.look? lane = some l →
    (s.smp.runs.find? fun r => r.desc.uid == l.run) = some r → s.frozen .smp 0 = false →
    (s.clean → s.smpHeader r (shuffle r.seed.toNat r.epoch r.n l.pos) = none → s.smpProcess r l =
      some (s.smpReject r l.pos (shuffle r.seed.toNat r.epoch r.n l.pos) .limitRejected)) ∧
    (∀ v, s.smpProcess r l = some v → completes (.sampleDone lane) s (fun t =>
      t.smp.lanes.look? lane = none ∧
      t = ({ v with smp := { v.smp with lanes := v.smp.lanes.del lane } }.smpStat).smpRelease r.desc.uid r.steps)))

/-- 17 R561 to R566: the governor enters the deepest state that its rule chooses and counts the entry; a request, a fall of the tolerance,
an earliest target and a lowered MAX_STATE start the exit, each with its cause, or abandon the entry, and HOLD_MS ends the effect of a
LAT_TOL write. 17 R567 to R569: the entry into P4 clears READY and PCIE_UP and stops the GTS PLL; a write of WAKE over I3C and the four
events start its exit, each with its cause, and all but PERST# pull PCIE_WAKE_N low; the exit begins with phase 2 and ends after phase 6
in P0 with READY set and every context in its state. The model's reading: log 9. Completes: governorChooseState, pstateEnter, pstateExit,
timedExit, pstateExitDone, holdMsExpiry, maxStateWrite, p4Entry, p4WakeI3c, p4WakeEvent, p4ExitDone. -/
def Obligations.PowerStatesAndStandby : Prop :=
  (∀ s : State, let tol := (s.rd (pwrA 0x54)).toNat;
    (s.ready = true → s.transit = false → s.pst ≠ 4 → s.computing = false → completes .governorChooseState s (fun t =>
      let st := s.chooseState tol s.idleEst
      t.pst = s.pst ∧ s.readWord ⟨.pwr, 0⟩ 0x5C = BitVec.ofNat 32 (min s.idleEst 0xFFFFFFFF) ∧
      (s.pst < st → t.pTarget = st ∧ t.transit = true ∧ t.pwr.entering = some s.now) ∧
      (st ≤ s.pst → t.pTarget = s.pTarget ∧ t.transit = false))) ∧
    (s.entering = true → 1 ≤ s.pTarget → s.pTarget ≤ 3 → s.computing = false → completes .pstateEnter s (fun t =>
      t.pst = s.pTarget ∧ t.pwr.entering = none ∧ (exitUs s.pTarget ≤ tol → t.transit = false) ∧
      (tol < exitUs s.pTarget → ∃ k, t.pwr.leaving = some ⟨s.pTarget, k, 1, s.now, false⟩) ∧
      (t.rd (pwrA (0x80 + 4 * (s.pTarget - 1)))).toNat =
        min ((s.rd (pwrA (0x80 + 4 * (s.pTarget - 1)))).toNat + 1) (2 ^ 32 - 1))) ∧
    (∀ j : Fin 4,
      (s.entering = true → s.pTarget ≤ 3 → completes (.pstateExit (some j)) s (fun t =>
        t.pwr.leaving = some ⟨s.pTarget, s.pst, 2, s.now, true⟩ ∧ t.pTarget = s.pst ∧ t.pwr.entering = none)) ∧
      (s.pst ≤ 3 → j.val < s.pst → s.transit = false → completes (.pstateExit (some j)) s (fun t =>
        t.pwr.leaving = some ⟨s.pst, j, 2, s.now, false⟩ ∧ t.pTarget = j ∧ t.transit = true))) ∧
    (1 ≤ s.pst → s.pst ≤ 3 → s.transit = false →
      (tol < exitUs s.pst → completes (.pstateExit none) s (fun t =>
        t.pwr.leaving = some ⟨s.pst, s.fitting s.pst, 1, s.now, false⟩ ∧ t.transit = true)) ∧
      (∀ x ∈ minNat? s.wakeTimes, x ≤ s.gts + exitUs s.pst * 1000 → completes .timedExit s (fun t =>
        t.pwr.leaving = some ⟨s.pst, 0, 3, s.now, false⟩ ∧ t.pTarget = 0 ∧ t.transit = true))) ∧
    (∀ x, s.pwr.leaving = some x → x.left ≠ 4 → x.target < 8 → completes .pstateExitDone s (fun t =>
      t.pst = x.target ∧ t.transit = false ∧ t.pwr.leaving = none ∧
      (x.left = 3 → x.abandoned = false → t.bay = []) ∧ (x.left ≠ 3 → t.mem = s.mem ∧ t.bay = s.bay))) ∧
    (∀ (ctx : Fin 256) (x : Nat), (s.ctx ctx).tolWrittenAt = some x → x + s.fld (pwrA 0x44) 24 8 * 1000000 ≤ s.gts →
      completes (.holdMsExpiry ctx) s (fun t => t.ctx ctx = { s.ctx ctx with tolWrittenAt := none } ∧
        t.regs = s.regs)) ∧
    (∀ (snd : Sender) (val : Word), snd = .i3c ∨ snd = .pcie 0 → s.ownTakes (pwrA 0x44) →
      completes (.maxStateWrite snd val) s (fun t => t.maxState = min 4 (bitsOf val 0 3) ∧
        (s.transit = false → s.pst ≤ 3 → t.maxState < s.pst → ∃ k, t.pwr.leaving = some ⟨s.pst, k, 4, s.now, false⟩ ∧
          k ≤ t.maxState ∧ t.transit = true)))) ∧
  (∀ s : State,
    (s.entering = true → s.pTarget = 4 → completes .p4Entry s (fun t => t.pst = 4 ∧ t.transit = false ∧
      t.ready = false ∧ t.stFld 13 1 = 0 ∧ t.sync.pll = false ∧ t.mem = s.mem)) ∧
    (s.pst = 4 → s.transit = false →
      (∀ val : Word, s.ownTakes (pwrA 0x68) → bitsOf val 3 1 = 1 → completes (.p4WakeI3c val) s (fun t =>
        t.pwr.leaving = some ⟨4, 0, 6, s.now, false⟩ ∧ t.fld (pwrA 0x50) 16 3 = 2 ∧ t.pins.wakeN = false ∧
        t.rd (pwrA 0x68) = val &&& 7)) ∧
      (∀ cause : Fin 6, (cause.val = 1 ∨
          (cause.val = 3 ∧ s.rd64 (pwrA 0x70) ≠ 0 ∧ (s.rd64 (pwrA 0x70)).toNat ≤ s.gts + 1500000000) ∨
          (cause.val = 4 ∧ s.bit (pwrA 0x68) 1 = true) ∨ (cause.val = 5 ∧ s.bit (pwrA 0x68) 2 = true)) →
        completes (.p4WakeEvent cause) s (fun t => t.pwr.leaving = some ⟨4, 0, 4 + cause, s.now, false⟩ ∧
          t.bootPhase = 2 ∧ t.boot.phaseAt = s.now ∧
          t.fld (pwrA 0x50) 16 3 = cause ∧ t.pins.wakeN = (if cause.val = 1 then s.pins.wakeN else false)))) ∧
    (∀ x : Leaving, s.pwr.leaving = some x → x.left = 4 → s.inPhase 6 = true → completes .p4ExitDone s (fun t =>
      t.pst = 0 ∧ t.transit = false ∧ t.ready = true ∧ t.pwr.leaving = none ∧ t.boot.phaseAt = s.now ∧
      t.mem = s.mem ∧ ∀ n : Fin 256, t.ctxState n = s.ctxState n)))

/-- 17 R570 to R574: a power sample enters the window's mean, and one above 360 W lowers lim at once; each millisecond lim moves by 25 MHz
towards the limit; a lowered clock switches before its voltage, a raised one when the regulator acknowledges; a failed regulator is
logged, stops the die's raise and is tried again. The model's reading: log 56. Completes: powerSample, governMs, clockChange, avsAck,
avsError, avsRetry. -/
def Obligations.PowerLimitAndClocks : Prop :=
  ∀ s : State,
    (∀ dw : Nat, s.boot.aonUp = true → completes (.powerSample dw) s (fun t =>
      let l := (dw :: s.pwr.samples).take (10 * s.fld (pwrA 0x44) 8 8)
      t.pwr.samples = l ∧ t.avgDw = min 65535 (l.sum / max 1 l.length) ∧ t.fld (pwrA 0x64) 16 16 = min 65535 dw ∧
      (dw ≤ 3600 → t.pwr.lim = s.pwr.lim) ∧
      (3600 < dw → s.ready = true → (∀ x, s.pwr.limFastAt = some x → x + 1000000 ≤ s.now) →
        t.pwr.lim = max 200 (s.pwr.lim - 100)))) ∧
    (s.ready = true → completes .governMs s (fun t =>
      t.pwr.lim = (if s.limitDw < s.avgDw then max 200 (s.pwr.lim - 25)
        else if s.avgDw + s.fld (pwrA 0x44) 16 8 * 10 < s.limitDw then min 1500 (s.pwr.lim + 25) else s.pwr.lim) ∧
      ∀ d : Fin 2, t.mhz d = s.mhz d ∧ let goal := min s.wantMhz (min t.pwr.lim (s.thermCap d));
        (goal ≠ s.mhz d → s.pwr.steps.look? d = none → s.pwr.avsBad.look? d = none →
          ∃ x, t.pwr.steps.look? d = some x ∧ x.mhz = goal ∧ x.raising = decide (s.mhz d < goal) ∧
            x.switched = false))) ∧
    (∀ (d : Fin 2) (x : ClockStep), s.pwr.steps.look? d = some x → x.mhz < 2048 →
      (x.raising = false → x.switched = false → completes (.clockChange d) s (fun t => t.mhz d = x.mhz ∧
        t.sbox.evalDue = some x.cause ∧
        (s.pwr.avsBad.look? d = none → t.pwr.steps.look? d = some { x with switched := true }))) ∧
      (x.raising = true → completes (.avsAck d) s (fun t => t.mhz d = x.mhz ∧ t.sbox.evalDue = some x.cause ∧
        t.pwr.steps.look? d = none)) ∧
      (x.raising = false → x.switched = true → completes (.avsAck d) s (fun t => t.mhz d = s.mhz d ∧
        t.pwr.steps.look? d = none))) ∧
    (∀ (rail : Fin 3) (status : Nat), completes (.avsError rail status) s (fun t =>
      t.pwr.avsBad.look? rail = some s.now ∧ t.logged s.gts 0x000C 0x3050 [.w rail, .w status] 0xFF 0xFF ∧
      ∀ x, s.pwr.steps.look? rail = some x → x.raising = true → t.pwr.steps.look? rail = none)) ∧
    (∀ (rail : Fin 3) (x : Nat), s.pwr.avsBad.look? rail = some x → x + 100000000 ≤ s.now →
      completes (.avsRetry rail true) s (fun t => t.pwr.avsBad.look? rail = none) ∧
      completes (.avsRetry rail false) s (fun t => t.pwr.avsBad.look? rail = some s.now))

/-- 17 R575, R576, R578, 20 R633: the sensors' readings are stored and each die's cap follows its hottest reading: 200 MHz from T_HOT on,
100 MHz less in a millisecond from T_THROTTLE on; two readings of 105 °C stop its clock; a fan slow for 2 s runs at full duty until it has
recovered for 2 s; GPIO2's pulse ends and GPIO3 toggles. The model's reading: log 19, 60. Completes: sensorSample, fanFail, fanRecovered,
gpio2PulseEnd, gpio3Toggle. -/
def Obligations.HeatFanAndPins : Prop :=
  ∀ s : State,
    (∀ (rs : List (Option Int)) (hbm : List Int) (rpm : Nat), s.boot.aonUp = true →
      completes (.sensorSample rs hbm rpm) s (fun t =>
        (∀ i < 48, t.bit (thA (0x800 + 4 * i)) 16 = !tempOk (rs.getD i none) ∧
          ∀ x, rs.getD i none = some x → t.fld (thA (0x800 + 4 * i)) 0 16 = (x % 65536).toNat) ∧
        t.fld (thA 0x58) 16 16 = min 65535 rpm ∧
        (s.armed = true → ∀ d : Fin 2, let x := (s.dieTemp rs hbm d).1; let cap := s.thermCap d;
          (s.tHot ≤ x → t.thermCap d = min 200 cap) ∧
          (s.tThr ≤ x → x < s.tHot → 200 < cap → s.pwr.capDownAt.look? d = none →
            t.thermCap d = max 200 (cap - 100)) ∧
          (s.tThr - s.tHyst ≤ x → x < s.tThr → x < s.tHot → t.thermCap d = cap) ∧
          (1680 ≤ x → 1 ≤ s.pwr.hot.look 0 d → d.val ∈ t.pwr.stopped)))) ∧
    (s.bit (thA 0x58) 8 = false → (∃ x, s.pwr.fanLowSince = some x ∧ x + 2000000000 ≤ s.now) →
      completes .fanFail s (fun t => t.bit (thA 0x58) 8 = true ∧ t.fld (thA 0x58) 0 8 = 100 ∧
        t.logged s.gts 0x0004 0x2044 [.w (s.fld (thA 0x58) 16 16), .w (s.fld (thA 0x58) 0 8)] 0xFF 0xFF)) ∧
    (s.bit (thA 0x58) 8 = true → (∃ x, s.pwr.fanHighSince = some x ∧ x + 2000000000 ≤ s.now) →
      completes .fanRecovered s (fun t => t.bit (thA 0x58) 8 = false)) ∧
    (s.pins.gpio2 = true → s.pins.severeAt + 1000000000 ≤ s.now →
      exec .gpio2PulseEnd s = .next { s with pins := { s.pins with gpio2 := false } }) ∧
    (s.boot.fwRuns = true → s.pins.gpio3At + 500000000 ≤ s.now →
      exec .gpio3Toggle s = .next { s with pins := { s.pins with gpio3 := !s.pins.gpio3, gpio3At := s.now } })

/-- 16 R524 to R528: a good flit counts and acknowledges, a bad one does not; an unacknowledged flit is replayed, eight times at most,
then the port is SUSPECT and its flits go to the router; heartbeats are sent each 100 µs and noted; without them a port goes DOWN and
trains again, and the first one brings it UP; a port is usable after HOLDOFF_MS, and a change of usability recomputes the routes. The
model's reading: log 51. Completes: flitReceived, heartbeatSend, heartbeatReceived, klDown, flitReplayTimer, klSuspect, klRetrain, klUp,
klHoldoffExpiry, routeChanged. -/
def Obligations.KarlundPorts : Prop :=
  ∀ (p : Fin 8) (s : State), let q := s.klPort p; let live := s.klSt p = kUp ∨ s.klSt p = kSuspect;
    (live →
      (∀ corr acked : Nat, completes (.flitReceived p corr 0 true acked) s (fun t =>
        (t.klPort p).rxGood = q.rxGood + 1 ∧ (t.klPort p).replay = q.replay.drop acked ∧ (0 < acked → t.klSt p = kUp) ∧
        (t.rd (klA p 0x50)).toNat = min ((s.rd (klA p 0x50)).toNat + corr) (2 ^ 32 - 1))) ∧
      (∀ corr unc acked : Nat, ∀ ok : Bool, ok = false ∨ 0 < unc → completes (.flitReceived p corr unc ok acked) s
        (fun t => t.klPort p = q ∧ t.klSt p = s.klSt p)) ∧
      (q.hbSentAt + 100000 ≤ s.now → completes (.heartbeatSend p) s (fun t =>
        t.klPort p = { q with hbSentAt := s.now } ∧ t.regs = s.regs)) ∧
      (∀ hb : Heartbeat, completes (.heartbeatReceived p hb) s (fun t => (t.klPort p).hbAt = s.now ∧
        t.fld (klA p 0x40) 8 4 = hb.pkg ∧ t.fld (klA p 0x40) 16 2 = hb.st ∧
        t.fld (klA p 0x44) 0 16 = hb.epoch.toNat ∧ t.rd64 (klA p 0x48) = hb.serial ∧ t.klSt p = s.klSt p)) ∧
      (q.hbAt + 800000 ≤ s.now → completes (.klDown p) s (fun t => t.klSt p = kDown ∧ t.portUsable p = false ∧
        (t.klPort p).downAt = s.now ∧ (t.klPort p).replay = [] ∧
        t.logged s.gts (0x8000 + p) 0x2801 [.w (s.fld (klA p 0x40) 8 4)] 0xFF 0xFF))) ∧
    (s.klSt p = kUp → q.sentAt + 2000 ≤ s.now →
      (q.replay ≠ [] → q.replays < 8 → completes (.flitReplayTimer p) s (fun t =>
        (t.klPort p).replays = q.replays + 1 ∧ (t.klPort p).sentAt = s.now ∧ (t.klPort p).replay = q.replay ∧
        (t.rd (klA p 0x58)).toNat = min ((s.rd (klA p 0x58)).toNat + q.replay.length) (2 ^ 32 - 1))) ∧
      (q.replays = 8 → completes (.klSuspect p) s (fun t => t.klSt p = kSuspect ∧ t.portUsable p = false ∧
        (t.klPort p).replay = [] ∧ t.logged s.gts (0x8000 + p) 0x1800 [] 0xFF 0xFF))) ∧
    (s.klSt p = kDown → q.downAt + 10000000 ≤ s.now → completes (.klRetrain p) s (fun t => t.klSt p = kTraining ∧
      t.kl = s.kl)) ∧
    (∀ hb : Heartbeat, s.klSt p = kTraining → completes (.klUp p hb) s (fun t => t.klSt p = kUp ∧
      (t.klPort p).upAt = s.now ∧ (t.klPort p).replay = [] ∧
      t.logged s.gts (0x8000 + p) 0x0802 [.w hb.pkg, .d hb.serial.toNat] 0xFF 0xFF)) ∧
    completes (.klHoldoffExpiry p) s (fun t => t.portUsable p = s.nowUsable p ∧ t.kl = s.kl) ∧
    (s.usableNow ≠ s.kl.usableSeen → completes .routeChanged s (fun t =>
      (∀ e ∈ s.text.seqs, e.2.geo.spreadN ≤ 1) → t.kl.usableSeen = s.usableNow ∧
        ∀ d : Fin 16, t.bit (klrA 0x58) d = !(s.routePorts d).isEmpty ∧
          t.fld (klrA (0x900 + 4 * d)) 16 8 = (s.routePorts d).foldl (fun m p => m + 2 ^ p) 0))

/-- 16 R529 to R532, R545: a message for this package is delivered in its order when its epoch agrees, and answered with a NACK otherwise;
one for another package goes on with one hop less, or is dropped at its last; a peer access is served at home, refused, or sent; a held
message waits for the NACK's term and is sent again. The model's reading: log 51, 52. Completes: klMessageReceived, peerAccess,
staleNackReceived, retryNackResend, retryWaitExpiry. -/
def Obligations.KarlundMessages : Prop :=
  ∀ s : State,
    (∀ (p : Fin 8) (m : KlMsg), s.klSt p = kUp ∨ s.klSt p = kSuspect →
      (m.dst.val = s.pkgId → s.consist = csMember →
        (∀ c, m.body = .chunk c → m.epoch = BitVec.ofNat 16 s.consistEpoch → m.seq = s.kl.rxNext.look 0 m.src →
          (∀ x ∈ s.kl.rxHeld, x.src ≠ m.src) → completes (.klMessageReceived p m) s (fun t =>
            t.kl.inbox = s.kl.inbox ++ [(m.src.val, m.body)] ∧ t.kl.rxNext.look 0 m.src = m.seq + 1 ∧
            t.mem = s.mem)) ∧
        (∀ x a d bad, m.body = .write x a d bad → m.epoch = BitVec.ofNat 16 s.consistEpoch → m.seq = s.kl.rxNext.look 0 m.src →
          (∀ x ∈ s.kl.rxHeld, x.src ≠ m.src) → completes (.klMessageReceived p m) s (fun t =>
            t.mem = (if s.inPeerWin a d.length then (s.store (kHbm a) d).mem else s.mem) ∧
            (s.inPeerWin a d.length = true → t.poison = (s.putPiece (kHbm a) ⟨d, bad⟩).poison))) ∧
        (∀ c, m.body = .chunk c → m.epoch ≠ BitVec.ofNat 16 s.consistEpoch → completes (.klMessageReceived p m) s
          (fun t => t.kl.inbox = s.kl.inbox ∧ t.kl.rxNext = s.kl.rxNext ∧ t.mem = s.mem ∧
            (epochDiff m.epoch (BitVec.ofNat 16 s.consistEpoch) < 0 → (m.src.val, m.epoch.toNat) ∈ t.kl.staleLogged ∧
              ((m.src.val, m.epoch.toNat) ∉ s.kl.staleLogged →
                t.logged s.gts 0x8010 0x1815 [.w m.src, .w m.epoch.toNat] 0xFF 0xFF))))) ∧
      (m.dst.val ≠ s.pkgId → s.consist = csMember → s.portUsable p = true →
        (m.hops.val ≤ 1 → completes (.klMessageReceived p m) s (fun t => t.kl = s.kl ∧
          t.logged s.gts 0x8010 0x2816 [] 0xFF 0xFF)) ∧
        (1 < m.hops.val → exec (.klMessageReceived p m) s =
          .next (s.transmit { m with hops := m.hops - 1 } (hashKey m.body))))) ∧
    (∀ (a : Word64) (p b : Nat), addrSpace a = some (.peer p b) →
      (∀ d, addrRangeOk a d.length = true → p = s.pkgId → completes (.peerAccess a (some d) 0) s (fun t =>
        t.mem = (s.store (kHbm b) d).mem ∧ t.kl.peerStatus = some 0)) ∧
      (∀ n, addrRangeOk a n = true → p = s.pkgId → completes (.peerAccess a none n) s (fun t =>
        t.kl.peerStatus = some 0 ∧ t.kl.peerData = s.load (kHbm b) n ∧ t.mem = s.mem)) ∧
      (∀ n, addrRangeOk a n = true → p ≠ s.pkgId →
        (∀ st, s.peerRefusal p = some st → completes (.peerAccess a none n) s (fun t =>
          t.kl.peerStatus = some (BitVec.ofNat 8 st.code) ∧ t.kl.peerAccs = s.kl.peerAccs)) ∧
        (s.peerRefusal p = none → completes (.peerAccess a none n) s (fun t => ∃ x,
          t.kl.peerAccs = s.kl.peerAccs ++ [⟨x, p, b, none, n⟩] ∧ t.mem = s.mem)))) ∧
    (∀ (p : Nat) (e : Half) (r : List (Nat × KlBody)), s.kl.inbox = (p, .staleNack e) :: r → s.consist = csMember →
      0 < epochDiff e (BitVec.ofNat 16 s.consistEpoch) → completes .staleNackReceived s (fun t => t.kl.inbox = r ∧
        t.kl.holding = some (s.kl.holding.getD (e, s.now)))) ∧
    (∀ (m : KlMsg) (x y : Nat) (r : List (KlMsg × Nat × Nat)), s.kl.retry = (m, x, y) :: r → 0 < x →
      x + 10000 ≤ s.now → completes .retryNackResend s (fun t => (m, 0, y) ∈ t.kl.retry ∧
        ∀ p, s.routePorts m.dst = [p] → m ∈ (t.klPort p).replay)) ∧
    (∀ (pkg : Fin 16), (∃ r ∈ s.kl.retry, r.1.dst = pkg ∧ 0 < r.2.1 ∧ r.2.2 + s.installNs ≤ s.now) →
      completes (.retryWaitExpiry pkg) s (fun t => (∀ e ∈ s.text.seqs, e.2.geo.spreadN ≤ 1) →
        pkg.val ∈ t.kl.shut ∧ (∀ r ∈ t.kl.retry, r.1.dst ≠ pkg) ∧ ∀ a ∈ t.kl.peerAccs, a.pkg ≠ pkg))

/-- 16 R543 to R547: a refused installation changes nothing but its result; one of the same epoch installs the routes; a newer epoch makes
the package a MEMBER, forgets the old epoch's messages and ends its collectives and peer accesses; a package that waits in vain for a
newer installation is quarantined, and one that has lost package 0 is fenced. The model's reading: log 52. Completes: consistInstall,
installWaitExpiry, fenceTimerExpiry. -/
def Obligations.ConsistMembership : Prop :=
  ∀ s : State, let alone := (∀ e ∈ s.text.seqs, e.2.geo.spreadN ≤ 1) ∧ ∀ e ∈ s.yard.swap, e.2.atPeer = false;
    (∀ val : Word, s.ownTakes (klrA 0x38) → bitsOf val 0 1 = 1 →
      (s.installRefusal ≠ 0 → completes (.consistInstall val) s (fun t => t.fld (klrA 0x54) 0 3 = s.installRefusal ∧
        t.active = s.active ∧ t.kl = s.kl ∧ t.consist = s.consist ∧ t.consistEpoch = s.consistEpoch ∧
        t.logged s.gts 0x8010 0x1817 [.w s.installRefusal] 0xFF 0xFF)) ∧
      (s.installRefusal = 0 → completes (.consistInstall val) s (fun t => alone →
        (t.page (slotOf .klr 0)).commitCount = (s.page (slotOf .klr 0)).commitCount + 1 ∧
        t.fld (klrA 0x54) 0 3 = 0 ∧ t.consistEpoch = s.fld (klrA 0x50) 0 16 ∧
        (∀ d : Fin 16, t.act (klrA (0x900 + 4 * d)) = s.rd (klrA (0x900 + 4 * d)) &&& shadowMask (klrA (0x900 + 4 * d))) ∧
        (s.fld (klrA 0x50) 0 16 = s.consistEpoch → t.consist = s.consist ∧ t.pkgId = s.pkgId) ∧
        (s.fld (klrA 0x50) 0 16 ≠ s.consistEpoch → t.consist = csMember ∧ t.pkgId = s.fld (klrA 0x50) 16 4 ∧
          t.kl.rxHeld = [] ∧ t.kl.inbox = [] ∧ t.kl.peerAccs = [] ∧ ∀ o ∈ t.kl.ops, o.status.isSome = true)))) ∧
    (∀ (e : Half) (x : Nat), s.kl.holding = some (e, x) → x + s.installNs ≤ s.now → s.consist = csMember →
      completes .installWaitExpiry s (fun t => alone → t.consist = csQuarantine ∧ t.kl.holding = none ∧
        t.kl.heldOut = [] ∧ t.kl.peerAccs = [] ∧ (∀ o ∈ t.kl.ops, o.status.isSome = true) ∧
        t.logged s.gts 0x8010 0x3813 [.w e.toNat] 0xFF 0xFF)) ∧
    (∀ x : Nat, s.kl.fenceSince = some x → x + s.installNs ≤ s.now → s.consist = csMember → s.pkgId ≠ 0 →
      completes .fenceTimerExpiry s (fun t => alone → t.consist = csFenced ∧ t.kl.fenceSince = none ∧
        t.kl.peerAccs = [] ∧ (∀ o ∈ t.kl.ops, o.status.isSome = true) ∧
        t.logged s.gts 0x8010 0x3812 [] 0xFF 0xFF))

/-- 16 R534 to R540: a launch queues or stalls; a launched descriptor that passes its checks starts an operation with its group's next
number; a chunk is discarded when held, ends the operation when it differs, and is summed at the end of the chain or placed; a lost chunk
is sent again and counted; a finished or late operation leaves and counts. The model's reading: log 53. Completes: collLaunch, allReduce,
reduceScatter, allGather, broadcast, collChunkReceived, collRetransmit, collDone, collTimeout. -/
def Obligations.Collectives : Prop :=
  (∀ (c : Fin 64) (tc : Fin 2) (val : Word) (s : State), s.tcRuns c tc = true → let a := bitsOf val 6 15 * 64;
    ((s.core c).coll.length < 4 → completes (.collLaunch c tc val) s (fun t => s.goesOn t c tc ∧
      (t.core c).coll = (s.core c).coll ++ [s.launchAt c tc a])) ∧
    (4 ≤ (s.core c).coll.length → completes (.collLaunch c tc val) s (fun t =>
      ((t.core c).tidy tc).stall = .coll a ∧ (t.core c).coll = (s.core c).coll))) ∧
  (∀ (c : Fin 64) (s : State) (g : Gang) (l : Launch), s.gangOf c = some g → s.blockGoes .coll 0 = true →
    s.frozen .coll 0 = false → (s.core c).coll[(s.opsOf g.uid (s.core c).idx).length]? = some l →
    let d := collDesc (s.bayLoad (kBay c l.addr) 64)
    d.malformed = false → s.groupAllows d.group g.ctx = true → d.lenOk (s.groupN d.group) = true →
    (∀ a ∈ s.collAccs d g.ctx, a ≠ .denied ∧ a ≠ .waits) →
    let begun : State → Prop := fun t => let sa := collA (0x804 + 16 * d.group)
      t.rd sa = s.rd sa + 1 ∧ ∃ o ∈ t.kl.ops, o.group = d.group ∧ o.seq = s.rd sa ∧ o.op = d.op ∧ o.len = d.len ∧
        o.rank = s.groupRank d.group ∧ o.startedAt = s.now ∧ o.src = d.src ∧ o.dst = d.dst ∧
        (s.consist = csSolo ∨ s.consist = csFenced → o.status = some (BitVec.ofNat 8 Status.deviceFault.code))
    (d.op = 1 → completes (.allReduce c) s begun) ∧ (d.op = 2 → completes (.reduceScatter c) s begun) ∧
    (d.op = 3 → completes (.allGather c) s begun) ∧ (d.op = 4 → completes (.broadcast c) s begun)) ∧
  (∀ (s : State) (o : CollOp) (c : Chunk) (src : Nat), s.kl.inbox = [(src, .chunk c)] →
    (s.kl.ops.find? fun o => o.group == c.group && o.seq == c.seq) = some o →
    ((c.up, c.origin, c.idx) ∈ o.seen → completes .collChunkReceived s (fun t => t.kl.inbox = [] ∧
      t.kl.ops = s.kl.ops ∧ t.mem = s.mem)) ∧
    ((c.up, c.origin, c.idx) ∉ o.seen → o.status = none →
      (c.op ≠ o.op ∨ c.dtype ≠ o.dtype ∨ c.len ≠ o.len ∨ c.root ≠ o.root → completes .collChunkReceived s (fun t =>
        t.mem = s.mem ∧ ∃ y ∈ t.kl.ops, y.group = o.group ∧ y.seq = o.seq ∧
          y.status = some (BitVec.ofNat 8 Status.invalidDescriptor.code))) ∧
      (c.op = 1 → o.op = 1 → c.dtype = o.dtype → c.len = o.len → c.root = o.root →
        completes .collChunkReceived s (fun t => t.mem =
          if c.up then
            (let own := s.ownChunk o c.idx
             if o.rank + 1 = o.n then (s.store (keyAt o.dst (4096 * c.idx)) (collSum o.dtype (own.data.length + 1) c.data own.data).2).mem
             else s.mem)
          else (s.store (keyAt o.dst (4096 * c.idx)) c.data).mem)))) ∧
  (∀ (s : State) (g : Fin 32) (o : CollOp), (s.kl.ops.find? fun o => o.group == g.val) = some o →
    (∀ (up : Bool) (origin idx : Nat) (c : Chunk),
      (o.copies.find? fun c => c.up == up && c.origin == origin && c.idx == idx) = some c →
      completes (.collRetransmit g up origin idx) s (fun t => t.mem = s.mem ∧
        (t.rd (collA 0x48)).toNat = min ((s.rd (collA 0x48)).toNat + 1) (2 ^ 32 - 1) ∧
        ∃ y ∈ t.kl.ops, y.group = o.group ∧ y.seq = o.seq ∧ y.retrans = o.retrans + 1)) ∧
    (o.status.isSome = true ∨ o.complete = true → completes (.collDone g) s (fun t =>
      (∀ y ∈ t.kl.ops, ¬ (y.group = o.group ∧ y.seq = o.seq)) ∧
      (t.rd (collA 0x44)).toNat = min ((s.rd (collA 0x44)).toNat + 1) (2 ^ 32 - 1) ∧
      (∀ st, o.status = some st → st ≠ 0 →
        t.logged s.gts 0x8020 0x3821 [.w o.group, .w o.seq.toNat, .w st.toNat] 0xFF 0xFF))) ∧
    (o.timeoutUs ≠ 0 → o.status = none → o.complete = false → o.startedAt + o.timeoutUs * 1000 ≤ s.now →
      completes (.collTimeout g) s (fun t => (∀ y ∈ t.kl.ops, ¬ (y.group = o.group ∧ y.seq = o.seq)) ∧
        t.logged s.gts 0x8020 0x3821 [.w o.group, .w o.seq.toNat, .w Status.timeout.code] 0xFF 0xFF)))

/-- 16 R548 to R551, 18 R605, R606, 02 R49: a failed lane is replaced by a spare, a third takes its bundle out, and a link without bundles
fails, which cuts off a die that has lost both; the scrub finds the errors of HBM and poisons a line it cannot correct; a stack that
cannot train is retired with its frames; link 1 down resets function 15. The model's reading: log 54, 55. Completes: cplLaneRepaired,
cplDegraded, cplFailed, hbmScrubLine, hbmStackFailed, pcieLink1Down. -/
def Obligations.CouplingsAndStacks : Prop :=
  (∀ (n : Fin 4) (rx : Bool) (b : Fin 50) (s : State), let link := cplLink n; let dir := cplDir n rx;
    b.val < cplBundles n → link ∉ s.cpl.failed → (link, dir, b.val) ∉ s.cpl.out →
    (∀ lane : Fin 22, (link, dir, b.val, lane.val) ∉ s.cpl.lanes → s.lanesOut link dir b < 2 →
      completes (.cplLaneRepaired n rx b lane) s (fun t =>
        t.cpl = { s.cpl with lanes := s.cpl.lanes ++ [(link, dir, b.val, lane.val)] } ∧ t.mem = s.mem ∧
        (t.rd (cplA n 0x48)).toNat = min ((s.rd (cplA n 0x48)).toNat + 1) (2 ^ 32 - 1) ∧
        t.logged s.gts (cplSrc n) (cplCode n 0x1280) [.w b, .w lane] 0xFF 0xFF)) ∧
    (2 ≤ s.lanesOut link dir b → completes (.cplDegraded n rx b) s (fun t =>
      t.cpl = { s.cpl with out := s.cpl.out ++ [(link, dir, b.val)] } ∧ t.mem = s.mem ∧
      t.bundlesUp link dir = s.bundlesUp link dir - 1 ∧
      t.logged s.gts (cplSrc n) (cplCode n 0x2281) [.w (t.bundlesUp link dir)] 0xFF 0xFF))) ∧
  (∀ (n : Fin 4) (retried : Bool) (s : State), let link := cplLink n;
    link ∉ s.cpl.failed → retried = true ∨ s.bundlesUp link 0 = 0 ∨ s.bundlesUp link 1 = 0 →
    completes (.cplFailed n retried) s (fun t => t.cpl.failed = s.cpl.failed ++ [link] ∧
      (∀ d < 2, 0 ∈ t.cpl.failed → d + 1 ∈ t.cpl.failed → d ∈ t.cutOff) ∧
      t.logged s.gts (cplSrc n) (cplCode n 0x3282) [] 0xFF 0xFF)) ∧
  (∀ (line : Fin 1610612736) (s : State), line.val / 32768 / 12288 ∉ s.scrub.retired → s.latent = [] →
    exec (.hbmScrubLine line none) s = .next s ∧
    completes (.hbmScrubLine line (some false)) s (fun t => t.mem = s.mem ∧ t.poison = s.poison) ∧
    completes (.hbmScrubLine line (some true)) s (fun t => line.val ∈ t.poison ∧ t.mem = s.mem)) ∧
  (∀ (k : Fin 4) (s : State), k.val ∉ s.scrub.retired → completes (.hbmStackFailed k true) s (fun t =>
    k.val ∈ t.scrub.retired ∧ t.logged s.gts (hbmSrc k) (hbmCode k 0x3292) [.w k] 0xFF 0xFF)) ∧
  (∀ s : State, s.bit (ro .host 0 0x60) 0 = true →
    exec .pcieLink1Down s = .next ((s.setFld (ro .host 0 0x60) 2 1 0).vfReset 15))

/-- 18 R584 to R588, 01 R40: a SOLO package's GTS is set forward and never back; the PLL relocks; a child is corrected each 100 µs: by a
step when it is more than 1 ms behind, else by its slew; without a parent for 1 ms it is in HOLDOVER. The model's reading: log 58.
Completes: gtsSet, gtsPllRelock, syncCorrect, syncParentLoss. -/
def Obligations.TimeIsSetAndCorrected : Prop :=
  ∀ s : State,
    (∀ (snd : Sender) (low hi : Word), snd = .i3c ∨ snd = .pcie 0 → s.ownTakes (gtsA 0x4C) →
      completes (.gtsSet snd (some low) hi) s (fun t => let v := low.toNat + hi.toNat * 2 ^ 32
        t.gts = (if s.consist = csSolo then max s.gts v else s.gts) ∧ t.rd (gtsA 0x48) = low ∧
        t.rd (gtsA 0x4C) = hi ∧ t.mem = s.mem)) ∧
    (s.sync.pll = false → s.boot.refclk = true → s.boot.refLost = false → s.pst ≠ 4 →
      completes .gtsPllRelock s (fun t => t.sync = { s.sync with pll := true } ∧ t.gts = s.gts ∧ t.gtsPart = 0 ∧
        t.regs = s.regs)) ∧
    (s.syncChild = true →
      (s.syncSt = syHoldover → exec .syncCorrect s = .next (s.slew s.sync.rate)) ∧
      (s.syncSt = syAcquiring ∨ s.syncSt = syLocked → s.sync.theta < -1000000 → completes .syncCorrect s (fun t =>
        t.gts = s.gts + s.sync.theta.natAbs ∧ t.sync.samples = [] ∧ t.sync.theta = 0)) ∧
      (s.syncSt = syAcquiring ∨ s.syncSt = syLocked → -1000000 ≤ s.sync.theta → completes .syncCorrect s (fun t =>
        s.gts ≤ t.gts ∧ t.sync.theta = s.sync.theta ∧ t.regs = s.regs ∧
        t.sync.rate.natAbs ≤ max 1 (s.fld (gtsA 0x50) 8 8))) ∧
      (∀ x, s.sync.lostSince = some x → x + 1000000 ≤ s.now → s.syncSt = syAcquiring →
        completes .syncParentLoss s (fun t => t.syncSt = syHoldover ∧ t.gts = s.gts ∧
          t.logged s.gts 0x0001 0x2062 [.d (s64 s.sync.theta)] 0xFF 0xFF)))

/-- 18 R590 to R601: the first event after a reset is EVR_BOOT; an event that merges counts in its record, and any other makes a record at
HEAD; a record closes and the mirror takes it; SNAP.TAKE copies HEAD and OLDEST; the mirror programs the oldest waiting record, erases
ahead, suspends after three errors and resumes; MREAD finds a mirrored record. The model's reading: log 57. Completes: eventIntake,
recordClose, evrSnapTake, mread, mreadDone, mirrorProgramDone, norEraseDone, norRetry. -/
def Obligations.EventRecordsAndMirror : Prop :=
  ∀ s : State,
    (s.boot.aonUp = true →
      (s.boot.bootRecordDue = true → completes .eventIntake s (fun t => t.evrHead = s.evrHead + 1 ∧
        t.boot.bootRecordDue = false ∧ ∃ r, t.record s.evrHead = some r ∧ r.ev.code = 0x0066 ∧ r.ev.gts = s.gts)) ∧
      (∀ x e r, s.boot.bootRecordDue = false → s.evr.intake = (x, e) :: r → s.bit (evrA 0x58) 2 = false →
        (s.mergeTarget e = none → completes .eventIntake s (fun t => t.evrHead = s.evrHead + 1 ∧
          ∃ y, t.record s.evrHead = some y ∧ y.ev = e ∧ y.rep = 1 ∧ y.lastGts = e.gts)) ∧
        (∀ z, s.mergeTarget e = some z → completes .eventIntake s (fun t => t.evrHead = s.evrHead ∧
          ∃ y, t.record z.seq = some y ∧ y.lastGts = e.gts ∧ y.ev = z.ev ∧
            y.rep = (if z.rep = 0xFFFFFFFF then z.rep else z.rep + 1))))) ∧
    (∀ q r, s.record q = some r → r.closed = false → r.ev.gts + s.mergeMs * 1000000 ≤ s.gts →
      completes (.recordClose q) s (fun t => t.record q = some { r with closed := true } ∧ t.evrHead = s.evrHead ∧
        (s.fld (evrA 0x54) 12 3 ≤ evClass r.ev.code.toNat → t.evr.toMirror = s.evr.toMirror ++ [{ r with closed := true }]))) ∧
    (∀ (snd : Sender) (val : Word), snd = .i3c ∨ snd = .pcie 0 →
      (s.ownTakes (evrA 0x48) → bitsOf val 0 1 = 1 → completes (.evrSnapTake snd val) s (fun t =>
        t.rd (evrA 0x4C) = s.rd (evrA 0x40) ∧ t.rd (evrA 0x50) = s.rd (evrA 0x44) ∧ t.evr = s.evr)) ∧
      (s.ownTakes (evrA 0x70) → completes (.mread snd val) s (fun t => t.rd (evrA 0x74) = 1 ∧
        t.evr = { s.evr with searching := some val }))) ∧
    (∀ q, s.evr.searching = some q → completes .mreadDone s (fun t => t.evr = { s.evr with searching := none } ∧
      (∀ r, (s.evr.mirrored.find? fun r => r.2.seq == q && r.2.crcOk) = some r → t.rd (evrA 0x74) = 2 ∧
        ∀ i < 16, t.rd (evrA (0x800 + 4 * i)) = BitVec.ofNat 32 (leNat ((r.2.bytes.drop (4 * i)).take 4))) ∧
      ((s.evr.mirrored.find? fun r => r.2.seq == q && r.2.crcOk) = none → t.rd (evrA 0x74) = 0))) ∧
    (s.mirror = mirActive →
      (∀ r rest us tries, s.evr.toMirror = r :: rest → s.evr.mirrorPlace ≠ 0 ∨ s.evr.erasedAhead ≠ 0 →
        (r.crcOk = true → completes (.mirrorProgramDone us tries true) s (fun t => t.evr.toMirror = rest ∧
          t.evr.mirrored = s.evr.mirrored ++ [(s.evr.mirrorSector, r)] ∧
          t.evr.mirrorPlace = (s.evr.mirrorPlace + 1) % 63)) ∧
        (r.crcOk = false → completes (.mirrorProgramDone us tries true) s (fun t => t.evr.toMirror = rest ∧
          t.evr.mirrored = s.evr.mirrored)) ∧
        completes (.mirrorProgramDone us tries false) s (fun t => t.evr.toMirror = s.evr.toMirror ∧
          t.evr.norErrors = s.evr.norErrors + 1 ∧ (2 ≤ s.evr.norErrors → t.mirror = mirSuspended) ∧
          (s.evr.norErrors < 2 → t.mirror = mirActive))) ∧
      (∀ us, s.evr.erasedAhead < 4095 → completes (.norEraseDone us true) s (fun t =>
        t.evr.erasedAhead = s.evr.erasedAhead + 1 ∧ t.evr.toMirror = s.evr.toMirror ∧
        let first := if s.evr.mirrorPlace = 0 then s.evr.mirrorSector else s.evr.mirrorSector + 1
        t.evr.mirrored = s.evr.mirrored.filter fun r => r.1 != (first + s.evr.erasedAhead) % 4096))) ∧
    (s.mirror = mirSuspended → s.evr.norRetryAt + 10000000000 ≤ s.now →
      completes (.norRetry true) s (fun t => t.mirror = mirActive ∧ t.evr = { s.evr with norErrors := 0 }) ∧
      completes (.norRetry false) s (fun t => t.mirror = mirSuspended ∧ t.evr = { s.evr with norRetryAt := s.now }))

/-- 19 R620, R621, R625: the key opens the window, the confirmation within it unlocks, the zero key locks and clears the perturbations; a
command of an unlocked port arms its injection, a locked one is refused with LOCKED; an injection that has taken effect is reported, and
one that meets nothing in 1 s ends. The model's reading: log 59. Completes: testUnlockOpen, testUnlockConfirm, testLock, injResidue,
injEccCe, injEccUe, injCplLane, injKlCrc, unlockWindowExpiry, faultInjected, injectNotHit. -/
def Obligations.TestAccessAndInjection : Prop :=
  ∀ s : State,
    (∀ snd : Sender, snd = .i3c ∨ snd = .pcie 0 →
      (s.ownTakes unlockA →
        completes (.testUnlockOpen snd) s (fun t => t.bit (tstA 0x40) 1 = true ∧ t.test.windowAt = s.now ∧
          t.unlocked = s.unlocked) ∧
        (s.bit (tstA 0x40) 1 = true → s.now ≤ s.test.windowAt + 1000000 →
          completes (.testUnlockConfirm snd) s (fun t => t.unlocked = true ∧ t.bit (tstA 0x40) 1 = false ∧
            t.logged s.gts 0x0007 0x1070 [] 0xFF (senderFunc snd))) ∧
        (s.bit (tstA 0x40) 1 = false → completes (.testUnlockConfirm snd) s (fun t => t.unlocked = s.unlocked ∧
          t.logged s.gts 0x0007 0x1071 [.w 0x5AFE] 0xFF 0xFF)) ∧
        completes (.testLock snd) s (fun t => t.unlocked = false ∧ t.bit (tstA 0x40) 1 = false ∧
          (s.unlocked = true → t.test.inj = none ∧ (∀ k, (t.page k).perturb = 0) ∧
            t.logged s.gts 0x0007 0x0072 [] 0xFF 0xFF))) ∧
      (s.ownTakes (tstA 0x44) → ∀ val : Word,
        let kind := bitsOf val 0 4; let unit := bitsOf val 4 4; let target := bitsOf val 16 6;
        let addr := s.rd64 (tstA 0x48); let fits := s.injTarget kind unit (bitsOf val 8 8) target addr;
        let turned : Nat → State → Prop := fun r t => t.fld (tstA 0x50) 1 3 = r ∧ t.test = s.test ∧ t.kl = s.kl
        let armed : State → Prop := fun t => t.rd (tstA 0x50) = 1 ∧ t.mem = s.mem ∧
          t.test.inj = some ⟨kind, unit, if kind = 5 then unit else target, addr, s.now, kind == 4⟩ ∧
          (kind = 5 → (t.klPort unit).crcBad = bitsOf val 8 8)
        (∀ x ∈ [(Instr.injResidue snd val, 1), (.injEccCe snd val, 2), (.injEccUe snd val, 3), (.injCplLane snd val, 4),
            (.injKlCrc snd val, 5)], kind = x.2 →
          (s.unlocked = false → completes x.1 s (turned 1)) ∧
          (s.unlocked = true → s.bit (tstA 0x50) 0 = false → fits = false → completes x.1 s (turned 2))) ∧
        (s.unlocked = true → s.bit (tstA 0x50) 0 = false → fits = true →
          (kind = 1 → completes (.injResidue snd val) s armed) ∧ (kind = 2 → completes (.injEccCe snd val) s armed) ∧
          (kind = 3 → completes (.injEccUe snd val) s armed) ∧ (kind = 4 → completes (.injCplLane snd val) s armed) ∧
          (kind = 5 → completes (.injKlCrc snd val) s armed)))) ∧
    (s.bit (tstA 0x40) 1 = true → s.test.windowAt + 1000000 ≤ s.now → completes .unlockWindowExpiry s (fun t =>
      t.bit (tstA 0x40) 1 = false ∧ t.unlocked = s.unlocked)) ∧
    (∀ i, s.test.inj = some i →
      (i.hit = true → completes .faultInjected s (fun t => t.rd (tstA 0x50) = 0 ∧ t.test.inj = none ∧
        t.logged s.gts 0x0007 0x1073 [.w i.kind, .w i.target, .d i.addr.toNat] 0xFF 0xFF)) ∧
      (i.kind ≤ 3 → i.hit = false → i.since + 1000000000 ≤ s.now → completes .injectNotHit s (fun t =>
        t.rd (tstA 0x50) = 6 ∧ t.test.inj = none ∧
        t.logged s.gts 0x0007 0x1074 [.w i.kind, .w i.target] 0xFF 0xFF)))

/-- 17 R557: PWR.EFF_TOL is the minimum of PWR.IDLE_TOL and the LAT_TOL of every counting context; a counting context with LAT_TOL = 0
holds the package in P0; the recomputed value is delivered to the register. Completes: effTolDelivered. -/
def Obligations.EffectiveToleranceIsTheMinimum : Prop :=
  ∀ s : State,
    s.effTol ≤ (s.rd (pwrA 0x48)).toNat ∧
    (∀ n : Fin 256, s.counts n = true → s.effTol ≤ s.latTol n) ∧
    (s.effTol = (s.rd (pwrA 0x48)).toNat ∨ ∃ n : Fin 256, s.counts n = true ∧ s.effTol = s.latTol n) ∧
    (∀ n : Fin 256, s.counts n = true → s.latTol n = 0 → ∀ idle : Nat, s.chooseState s.effTol idle = 0) ∧
    completes .effTolDelivered s (fun t => (t.rd (pwrA 0x54)).toNat = s.effTol ∧ t.pst = s.pst)
end

