-- ==== Sys2Proof/Tests/Slice0.lean ====
section
/-! SUPPORT. Tests: an ill-formed term for each check of WellFormed, and for each statement a concrete state and operands
that meet its hypotheses, with the command's effect. Expected values come from the rules that the statements cite. -/

open Sys2Proof Sys2Proof.Machine

set_option Elab.async false

namespace Sys2Proof.Tests

/-- The command goes on, in a state that passes the check. -/
def after (c : Instr) (s : State) (f : State → Bool) : Bool :=
  match exec c s with
  | .next t => f t
  | _ => false

/-- The always-on island is up, all rails are good and REFCLK runs. -/
def powered : State :=
  { State.reset with boot := { State.reset.boot with pg := 0xFF, aonUp := true, refclk := true, held := false, perst := false } }

/-- In service: READY is set. -/
def up : State :=
  let s := powered.setReady true
  { s with boot := { s.boot with running := none, wasReady := true, fwRuns := true } }

/-- A phase of a reset of this kind. -/
def inReset (k : ResetKind) (ph : Nat) : State :=
  let s := powered.setSt 1 3 ph
  { s with boot := { s.boot with running := some k, fwRuns := false } }

/-! ### Ill-formed commands: for each check of WellFormed a command that it refuses -/

/-- Every one of these commands is ill formed. -/
def refused (l : List Instr) : Bool := l.all fun i => !i.wf

def badChunk : Chunk := { group := 32, seq := 0, idx := 0, up := true, origin := 0, op := 1, dtype := 7, len := 4, root := 0, data := [], bad := [] }
def goodPic : PicInfo := { supported := true, w := 64, h := 64, depth := 8, chroma := 1, reference := true, rap := true, rasl := false, hidden := [], existing := none, ctu := 16, lost := [], intra := true, ref0 := none }
def goodBeat : Heartbeat := { pkg := 1, serial := 0, epoch := 0, st := 1, port := 0, echo := none, t3 := 0, locked := true, hops := 0, offset := 0 }
def big : List Byte := List.replicate 4097 0
def msgOf (b : KlBody) : Instr := .klMessageReceived 0 { src := 1, dst := 0, epoch := 0, seq := 0, hops := 3, body := b }

theorem test_wf_window : refused [.refusedAccess .i3c (.bar0 0) 0 true, .refusedAccess .i3c (.bar2 0) 65 true, .pairLowRead .i3c 2 false,
    .pairLowWrite .i3c 4 0, .pairHighWrite .i3c 0 none 0, .bar4Access 0 0 0 none, .bar4Access 0 0 4097 none,
    .bar4Access 0 0 1 (some []), .bar4Access 0 0 1 (some big)] = true := by decide +kernel
theorem test_wf_lists : refused [.phase5Done true true [] [] [1, 1], .msixVectorUnmasked 1 64, .msixCoalesceExpiry 1 64,
    .gangDispatch 9 [3, 3]] = true := by decide +kernel
theorem test_wf_handles : refused [.tapChangeApplied 16777216, .streamCloseDone 16777216, .prefillChunk 16777216 0 0,
    .spreadTokenReceived 16777216 0, .fetchDone 16777216 0 false, .preemptWriteoutDone 16777216, .seqRestored 16777216,
    .pageSpilled 0 16777216, .tokenisePretoken 16777216, .maskReady 16777216 0, .tokenStep 16777216, .auData 16777216,
    .auEnd 16777216, .tapPictureStart 16777216 0, .tapOutputRow 16777216 0 0, .encFrame 16777216,
    .encLinkedPicture 16777216, .encPictureDone 16777216 0] = true := by decide +kernel
theorem test_wf_steps : refused [.decodeStepForm 4096 [] 0 0, .decodeStepForm 0 [1, 1] 0 0, .decodeStepForm 0 [] 0x1800000000 0,
    .decodeStepForm 0 [] 0 0x1800000000, .prefillChunk 0 0x1800000000 0, .prefillChunk 0 0 0x1800000000,
    .stepTableReceived 4096 [] 0 0, .stepTableReceived 0 [] 0x1800000000 0, .stepTableReceived 0 [] 0 0x1800000000] = true := by
  decide +kernel
theorem test_wf_media : refused [.decodeDispatch 0 16777216 goodPic, .decodeDispatch 0 0 { goodPic with w := 65536 },
    .decodeDispatch 0 0 { goodPic with h := 65536 }, .decodeDispatch 0 0 { goodPic with depth := 17 }, .pictureDone 16777216 [],
    .pictureDone 0 [3], .csiPacket 0 16 0 0 true [] false, .csiPacket 0 0 64 0 true [] false,
    .csiPacket 0 0 0 0 true [1048576] false, .frameStart 0 16, .frameEnd 0 16] = true := by decide +kernel
theorem test_wf_scanner : refused [.scanLineStart [[], [], [], [], [], [], []], .scanLineStart [[65536]],
    .afeCalDone [[[65536]]] [], .afeCalDone [] [(1024, 0)], .afeCalDone [] [(0, 65536)]] = true := by decide +kernel
theorem test_wf_karlund : refused [.heartbeatReceived 0 { goodBeat with hops := 16 }, .heartbeatReceived 0 { goodBeat with t3 := 2 ^ 64 },
    .klUp 0 { goodBeat with hops := 16 }, msgOf (.read 0 0x1800000000 1), msgOf (.read 0 0 4097), msgOf (.write 0 0x1800000000 [] []),
    msgOf (.write 0 0 big []), msgOf (.reply 0 big []), msgOf (.reply 0 [1] [1]), msgOf (.chunk badChunk), msgOf (.chunk { badChunk with group := 1, origin := 16 }),
    msgOf (.chunk { badChunk with group := 1, data := big }), msgOf (.chunk { badChunk with group := 1, data := [1], bad := [1] }), msgOf (.table 0 (List.replicate 257 (0, 0, 0))),
    .peerAccess 0 none 0, .peerAccess 0 none 4097, .peerAccess 0 (some []) 1, .peerAccess 0 (some big) 1,
    .collRetransmit 0 true 16 0] = true := by decide +kernel
theorem test_wf_sensors : refused [.powerSample 65536, .sensorSample [] [0, 0, 0, 0] 0,
    .sensorSample (List.replicate 48 none) [] 0, .sensorSample (List.replicate 48 none) [0, 0, 0, 0] 65536] = true := by
  decide +kernel
theorem test_wf_good : (Instr.decodeDispatch 0 0 goodPic).wf = true ∧ (Instr.klUp 0 goodBeat).wf = true ∧
    (msgOf (.chunk { badChunk with group := 1 })).wf = true ∧ Instr.readySet.wf = true := by decide +kernel

/-! ### Statements about steps, reset and the invariant -/

theorem test_step_front : step { up with pending := [.readySet] } = exec .readySet up := by rfl
theorem test_idle_step : up.pending = [] ∧ up.tick.now = 1 ∧ up.tick.gts = up.gts + 1 := by decide +kernel
theorem test_inv_met : up.Inv := ⟨by decide, by decide, by decide⟩

/-! ### Pages and the window (02) -/

/-- Offsets of CTX0.LAT_TOL, of SBOX.PG_CTL, of DEC0.PG_OWNER and of HOST.BAR4_BASE. -/
def lat : Fin 33554432 := ⟨0x200048, by decide⟩
def base4 : Fin 33554432 := ⟨0x100040, by decide⟩

theorem test_posted_write : up.reach (.pcie 0) lat 4 true = .word 0x200048 ∧
    after (.registerWrite (.pcie 0) lat 5) up (fun t => (t.page 0x200).fifo == [⟨.pcie 0, 0x48, none, 5⟩]) := by decide +kernel

/-- A posted write of LAT_TOL that waits. -/
def posted : State := up.setPage 0x200 { up.page 0x200 with fifo := [⟨.pcie 0, 0x48, none, 5⟩] }

theorem test_write_takes_effect : pageAt 0x200 = some ⟨.ctx, 0⟩ ∧ (posted.page 0x200).fifo = [⟨.pcie 0, 0x48, none, 5⟩] ∧
    after (.writeTakesEffect 0x200) posted (fun t => t.rd lat == 5) := by decide +kernel
theorem test_refused_write : powered.reach (.pcie 0) lat 4 true = .refused 0x0184 := by decide +kernel
theorem test_refused_read : powered.reach (.pcie 0) lat 4 false = .refused 0x0184 := by decide +kernel

/-- HOST.BAR4_BASE holds 0x2_0000_0001. -/
def based : State := up.wr64 0x100040 0x200000001

theorem test_pair_low_read : based.reach (.pcie 0) base4 4 false = .word 0x100040 ∧ isPairLow .host 0x40 = true ∧
    (based.page 0x100).fifo = [] ∧ after (.pairLowRead (.pcie 0) base4 false) based (fun t =>
      t.host.answer == 1 && (t.page 0x100).readLatch.look 0 0 == 2) := by decide +kernel
theorem test_pair_whole_read : based.reach (.pcie 0) base4 8 false = .word 0x100040 ∧
    after (.pairLowRead (.pcie 0) base4 true) based (fun t => t.host.answer == 0x200000001) := by decide +kernel
theorem test_pair_low_write : up.lands (.pcie 0) base4 4 0x100040 ∧ up.ignores (.pcie 0) ⟨.host, 0⟩ 0x40 = none ∧
    after (.pairLowWrite (.pcie 0) base4 9) up (fun t => (t.page 0x100).writeLatch.look 0 0 == 9) := by
  refine ⟨⟨?_, ?_, ?_⟩, ?_⟩ <;> decide +kernel
theorem test_pair_high_write : up.lands (.pcie 0) 0x100044 4 0x100044 ∧ isPairLow .host 0x44 = false ∧
    after (.pairHighWrite (.pcie 0) 0x100044 none 3)
      (up.setPage 0x100 { up.page 0x100 with writeLatch := [(0, 0x40000000)] })
      (fun t => t.rd64 0x100040 == 0x340000000) := by
  refine ⟨⟨?_, ?_, ?_⟩, ?_⟩ <;> decide +kernel
theorem test_pair_whole_write : up.lands (.pcie 0) 0x100040 8 0x100040 ∧ up.bar0Of (.pcie 0) 0x100044 = some 0x100044 ∧
    after (.pairHighWrite (.pcie 0) 0x100044 (some 0x40000000) 3) up (fun t => t.rd64 0x100040 == 0x340000000) := by
  refine ⟨⟨?_, ?_, ?_⟩, ?_⟩ <;> decide +kernel
theorem test_pg_gts_read : up.reach (.pcie 0) 0x101030 4 false = .word 0x101030 ∧
    after (.pgGtsLoRead (.pcie 0) 0x101) (up.setPage 0x101 { up.page 0x101 with evGts := 0x300000007 }) (fun t =>
      t.host.answer == 7 && (t.page 0x101).readLatch.look 0 0 == 3) := by decide +kernel

/-- DEC0 enabled. -/
def dec0 : State := up.setPage 0x310 { up.page 0x310 with en := true }

theorem test_ctl_lands : up.lands (.pcie 0) 0x310008 4 0x310008 ∧ dec0.lands (.pcie 0) 0x310008 4 0x310008 ∧
    pageAt 0x310 = some ⟨.dec, 0⟩ := by refine ⟨⟨?_, ?_, ?_⟩, ⟨?_, ?_, ?_⟩, ?_⟩ <;> decide +kernel
theorem test_en_set : after (.pgCtlEnSet (.pcie 0) 0x310) up (fun t => (t.page 0x310).en) := by decide +kernel
theorem test_en_clear : (dec0.page 0x310).en = true ∧ after (.pgCtlEnClear (.pcie 0) 0x310) dec0 (fun t =>
    !(t.page 0x310).en && (t.page 0x310).stopping == .disabling) := by decide +kernel
theorem test_drain : (dec0.page 0x310).stopping = .no ∧ after (.pgCtlDrain (.pcie 0) 0x310) dec0 (fun t =>
    (t.page 0x310).en && (t.page 0x310).stopping == .draining) := by decide +kernel
theorem test_abort : after (.pgCtlAbort (.pcie 0) 0x310) dec0 (fun t => (t.page 0x310).stopping != .draining) := by
  decide +kernel
theorem test_freeze : after (.pgCtlFreeze (.pcie 0) 0x310 true) dec0 (fun t => (t.page 0x310).freeze) := by decide +kernel
theorem test_srst : after (.pgCtlSrst (.pcie 0) 0x310) dec0 (fun t => (t.page 0x310).resetting) := by decide +kernel
theorem test_quiesced : let s := up.setPage 0x310 { up.page 0x310 with stopping := .disabling, quiescent := false }
    (s.page 0x310).stopping = .disabling ∧ after (.blockQuiesced 0x310) s (fun t =>
      (t.page 0x310).quiescent && (t.page 0x310).stopping == .no) := by decide +kernel
theorem test_drain_done : let s := dec0.setPage 0x310 { dec0.page 0x310 with stopping := .draining }
    s.hasWork .dec 0 = false ∧ after (.drainDone 0x310) s (fun t => !(t.page 0x310).en) := by decide +kernel
theorem test_reset_done :
    let s := dec0.setPage 0x310 { dec0.page 0x310 with resetting := true, held := [⟨.pcie 0, 0x40, none, 5⟩] }
    (s.page 0x310).resetting = true ∧ after (.blockResetDone 0x310) s (fun t =>
      !(t.page 0x310).en && (t.page 0x310).fifo == [⟨.pcie 0, 0x40, none, 5⟩]) := by decide +kernel
theorem test_ev_raw : up.lands (.pcie 0) 0x310010 4 0x310010 ∧
    after (.pgEvRawClear (.pcie 0) 0x310 6 2) (up.setPage 0x310 { up.page 0x310 with evRaw := 7 }) (fun t =>
      (t.page 0x310).evRaw == 3) := by refine ⟨⟨?_, ?_, ?_⟩, ?_⟩ <;> decide +kernel
theorem test_ev_force : up.lands (.pcie 0) 0x31001C 4 0x31001C ∧
    after (.pgEvForceWrite (.pcie 0) 0x310 6) up (fun t => (t.page 0x310).evRaw == 6) := by
  refine ⟨⟨?_, ?_, ?_⟩, ?_⟩ <;> decide +kernel
theorem test_commit : up.lands (.pcie 0) 0x101038 4 0x101038 ∧ shadowedPage .sbox = true ∧
    (up.page 0x101).pendingCommit = false ∧ up.hasWork .sbox 0 = false ∧
    after (.pgCommitCommit (.pcie 0) 0x101 false) up (fun t => (t.page 0x101).commitCount == 1) ∧
    after (.pgCommitDiscard (.pcie 0) 0x101) (up.wr 0x101048 0) (fun t => t.rd 0x101048 == up.rd 0x101048) := by
  refine ⟨⟨?_, ?_, ?_⟩, ?_⟩ <;> decide +kernel
theorem test_shadow_install : let s := up.setPage 0x101 { up.page 0x101 with pendingCommit := true }
    (s.page 0x101).resetting = false ∧ after (.shadowInstall 0x101) s (fun t =>
      !(t.page 0x101).pendingCommit && (t.page 0x101).commitCount == 1) := by decide +kernel
theorem test_owner_write : up.lands (.pcie 0) 0x310024 4 0x310024 ∧ (up.page 0x310).locked = false ∧
    after (.pgOwnerWrite (.pcie 0) 0x310 0x105) up (fun t =>
      (t.page 0x310).ownerCtx == 5 && (t.page 0x310).locked) := by refine ⟨⟨?_, ?_, ?_⟩, ?_⟩ <;> decide +kernel
theorem test_ctx_func : up.lands (.pcie 0) 0x100800 4 0x100800 ∧ (up.page 0x100).locked = false ∧
    (∀ i : Fin 4, up.ctxState i = stFree) ∧
    (∀ fn < 16, ((List.range 256).filter fun m => up.ctxFunc m == fn).length ≤ 59 ∨ fn = 0) ∧
    after (.ctxFuncWrite (.pcie 0) 0 0x03020100) up (fun t => t.ctxFunc 3 == 3 && t.ctxFunc 4 == 0) := by
  refine ⟨⟨?_, ?_, ?_⟩, ?_⟩ <;> decide +kernel
theorem test_bar4_write : up.pst ≠ 4 ∧ up.ready = true ∧ up.bar4Ok 0 (up.bar4Byte 0 64) 2 = true ∧
    after (.bar4Access 0 64 2 (some [7, 8])) up (fun t => t.mem == [(64, 7), (65, 8)]) := by decide +kernel
theorem test_bar4_read : up.latent = [] ∧ up.bar4Ok 0 (up.bar4Byte 0 64) 2 = true ∧
    after (.bar4Access 0 64 2 none) { up with mem := [(64, 7), (65, 8)] } (fun t => t.host.bar4Data == [7, 8]) := by
  decide +kernel
theorem test_bar4_denied : up.bar4Ok 1 (up.bar4Byte 1 64) 2 = false := by decide +kernel

/-! ### Power, phases and resets (03) -/

/-- Powered with no rail or clock yet. -/
def dark : State := State.reset

theorem test_pg_aon : dark.boot.pg.toNat % 2 = 0 ∧ after (.pgAonAssert 2) dark (fun t => t.boot.pg == 1 && t.boot.refclk) := by
  decide +kernel
theorem test_aon_leaves_reset : let s := { dark with now := 1000000, boot := { dark.boot with pg := 1, refclk := true } }
    s.boot.aonUp = false ∧ s.boot.pg ≠ 0xFF ∧ s.boot.aonSince + 1000000 ≤ s.now ∧
    after .aonLeavesReset s (fun t => t.boot.aonUp && t.boot.held) := by decide +kernel
theorem test_power_good : let s := { dark with boot := { dark.boot with pg := 0x7F, aonUp := true, refclk := true } }
    s.boot.pg.toNat / 2 ^ 7 % 2 = 0 ∧ s.boot.pg ||| BitVec.ofNat 8 (2 ^ 7) = 0xFF ∧ s.boot.refLost = false ∧
    { dark with boot := { dark.boot with pg := 1 } }.boot.pg ||| BitVec.ofNat 8 (2 ^ 7) ≠ 0xFF := by decide +kernel
theorem test_vaon_loss : after .vaonLoss up (fun t => !t.boot.aonUp && t.gts == 0) := by decide +kernel
theorem test_rail_lost : up.boot.pg.toNat / 2 ^ 3 % 2 = 1 ∧ up.boot.aonUp = true := by decide +kernel
theorem test_refclk_loss : up.boot.refclk = true ∧ up.boot.aonUp = true := by decide +kernel
theorem test_refclk_return : let s := { up with boot := { up.boot with refclk := false, refLost := true, held := true } }
    s.boot.aonUp = true ∧ s.boot.pg = 0xFF ∧ s.boot.fatal = false ∧ s.boot.tripped = false ∧ s.boot.running ≠ some .cold := by
  decide +kernel
theorem test_therm_trip : up.boot.aonUp = true ∧ up.boot.held = false ∧ up.starting = false ∧ up.pst ≠ 4 := by
  decide +kernel
theorem test_phase2 : (inReset .cold 2).inPhase 2 = true ∧ (inReset .cold 2).p4Exit = false ∧
    (inReset .cold 2).boot.fwRuns = false := by decide +kernel
theorem test_phase3 : (inReset .cold 3).inPhase 3 = true ∧ (inReset .cold 3).activeSlot = some false ∧
    (inReset .cold 3).boot.wantGolden = false := by decide +kernel
theorem test_phase3_no_slot : let b := (inReset .cold 3).boot.bootA
    let s := { inReset .cold 3 with boot := { (inReset .cold 3).boot with bootA := { b with crcOk := false }, bootB := { b with crcOk := false } } }
    s.inPhase 3 = true ∧ s.activeSlot = none := by decide +kernel
theorem test_phase5 : (inReset .cold 5).inPhase 5 = true ∧ (inReset .soft 5).inPhase 5 = true ∧
    (inReset .cold 5).p4Exit = false ∧ (inReset .soft 5).p4Exit = false := by decide +kernel
theorem test_ready : (inReset .cold 6).inPhase 6 = true ∧ (inReset .cold 6).p4Exit = false := by
  decide +kernel
theorem test_phase_timeout : let s := { inReset .cold 4 with now := phaseMax 4 * 1000000 }
    s.starting = true ∧ s.boot.held = false ∧ 2 ≤ s.bootPhase ∧ s.bootPhase ≤ 6 ∧ s.boot.retried = false ∧
    s.boot.phaseAt + phaseMax s.bootPhase * 1000000 ≤ s.now := by decide +kernel
theorem test_recovery_image : let s := (powered.setSt 6 1 1).setSt 8 4 2
    s.stFld 6 1 = 1 ∧ s.stFld 8 4 = 2 ∧ s.canReset = true := by decide +kernel
theorem test_cal_item : (inReset .cold 4).inPhase 4 = true ∧ (inReset .cold 4).boot.calDone.contains 13 = false ∧
    (inReset .cold 4).boot.calFull.contains 13 = false ∧
    after (.calItemDone 13 true) (inReset .cold 4) (fun t => t.boot.calDone == [13]) ∧
    after (.calItemDone 13 false) (inReset .cold 4) (fun t => t.boot.calFull == [13]) := by decide +kernel
theorem test_serdes : (inReset .cold 4).boot.calDone.contains 0 = false ∧
    after (.pcieSerdesDone true) (inReset .cold 4) (fun t => t.boot.serdesDone) := by decide +kernel
theorem test_cal_saved : let s := { up with boot := { up.boot with calFull := [3] } }
    s.ready = true ∧ s.bit (calA 0x40) 1 = true ∧ after .calRecordsSaved s (fun t => t.boot.calFull == [] &&
      t.boot.calStore.look? 3 == some ⟨true, true, true, 0⟩) := by decide +kernel
theorem test_perst : up.boot.perst = false ∧ up.pst ≠ 4 ∧ up.ready = true ∧ up.boot.aonUp = true ∧ up.canReset = true ∧
    up.boot.running = none := by decide +kernel
theorem test_perst_release : after .perstRelease { up with boot := { up.boot with perst := true } } (fun t =>
    !t.boot.perst) := by decide +kernel
theorem test_link_up : let s := { up with boot := { up.boot with serdesDone := true } }
    s.boot.perst = false ∧ s.boot.held = false ∧ s.boot.fatal = false ∧ s.pst ≠ 4 ∧
    after (.pcieLinkUp ⟨0, 0, 0⟩) s (fun t => t.stFld 13 1 == 1) := by decide +kernel
theorem test_vector : after (.msixVectorUnmasked 0 1087)
    { up with host := { up.host with vecPending := [(vecKey 0 1087, true)] } } (fun t =>
      t.host.vecSent.look 0 (vecKey 0 1087) == 1) := by decide +kernel
theorem test_rst_cmd : up.ownTakes rstCmdA ∧ up.boot.wasReady = true ∧
    up.canReset = true := by decide +kernel
theorem test_button : up.btnDisabled = false ∧ up.btnState = 0 ∧ after .rstBtnPress up (fun t =>
    t.btnState == 1 && t.bit btnA 2) := by decide +kernel

/-- The button is held. -/
def heldDown (ns : Nat) : State :=
  { (up.setFld btnA 0 2 1).setFld btnA 2 1 1 with now := ns, boot := { up.boot with btnSince := 0 } }

theorem test_button_release : (heldDown 1).bit btnA 2 = true ∧ (heldDown 1).btnState = 1 ∧ (heldDown 1).holdTime < 4000000000 ∧
    4000000000 ≤ (heldDown 4000000000).holdTime ∧ (heldDown 15000000000).holdTime ≤ 15000000000 ∧
    15000000000 < (heldDown 15000000001).holdTime := by decide +kernel
theorem test_button_stuck : (heldDown 30000000000).btnState = 1 ∧ 30000000000 ≤ (heldDown 30000000000).holdTime ∧
    (heldDown 30000000000).boot.pg = 0xFF := by decide +kernel
theorem test_button_unmask : let s := { (up.setFld btnA 0 2 2) with now := 1000000000, boot := { up.boot with btnReleasedAt := some 0 } }
    s.btnState = 2 ∧ after .btnUnmask s (fun t => t.btnState == 0) := by decide +kernel

/-! ### Contexts, rings and descriptors (04) -/

/-- Context 0 has the state `st`. -/
def ctxIn (s : State) (st : Nat) : State := s.setFld (cr 0 0x40) 0 3 st

/-- Bits of fields (offset in bytes, value). -/
def fb (l : List (Nat × Nat)) : Nat := (l.map fun x => x.2 * 256 ^ x.1).sum

/-- A fetched descriptor of context 0, ring 0. -/
def descOf (l : List (Nat × Nat)) : Desc :=
  { uid := 1, ctx := 0, sq := 0, pos := 0, epoch := 0, bits := BitVec.ofNat 512 (fb l), started := false,
    ending := false, fetchedAt := 0, startedAt := 0, startedNow := 0 }

/-- Context 0 is OPEN and has fetched this descriptor. -/
def withDesc (s : State) (d : Desc) : State :=
  let s := { ctxIn s stOpen with uid := 2 }
  s.setCtx 0 { s.ctx 0 with descs := [d] }

/-- The descriptor comes to its checks, and they answer this. -/
def checked (s : State) (l : List (Nat × Nat)) (cls : Nat) (f : State → Desc → Bool) : Bool :=
  ((withDesc s (descOf ((0, cls) :: l))).beforeChecks 0 0 cls).any fun x => f x.1 x.2

/-- Numbers (address, bytes, value) in HBM. -/
def memOf (s : State) (l : List (Nat × Nat × Nat)) : State :=
  l.foldl (fun (s : State) x => { s with mem := memWrite s.mem x.1 (leBytes x.2.1 x.2.2) }) s

/-- The page is enabled. -/
def on (s : State) (k : Nat) : State := s.setPage k { s.page k with en := true, quiescent := false }

theorem test_ctx_open : up.ownTakes (cr 255 0x44) ∧
    up.ctxState 255 = stFree ∧ (up.wr (cr 255 0x4C) 0).ringsValid 255 = true := by decide +kernel
theorem test_ctx_open_refused : (ctxIn up stOpen).ctxState 0 = stOpen ∧ (ctxIn up stOpen).ctxState 0 ≠ stFree := by
  decide +kernel
theorem test_ctx_close : after (.ctxCmdClose 0) (ctxIn up stOpen) (fun t => t.ctxState 0 == stQuiescing) ∧
    (let s := (ctxIn up stQuiescing).setCtx 0 { up.ctx 0 with quiesce := .closing, admitted := true }
     s.drained 0 = true ∧ (s.ctx 0).quiesce = .closing) := by decide +kernel
theorem test_vf_enable : up.bit (ro .host 0 0x60) 0 = false ∧ (up.setFld (ro .host 0 0x60) 0 1 1).bit (ro .host 0 0x60) 0 = true := by
  decide +kernel

/-- Context 0 is OPEN and in service. -/
def svc : State := ctxIn up stOpen

theorem test_doorbell : svc.pst ≠ 4 ∧ svc.ready = true ∧ (∀ e ∈ svc.pages, e.2.fifo = []) ∧ svc.sqSize 0 0 = 6 ∧
    (64 - svc.sqHead 0 0).toNat ≤ 2 ^ svc.sqSize 0 0 ∧ 2 ^ svc.sqSize 0 0 < (65 - svc.sqHead 0 0).toNat ∧
    after (.sqTailWrite 0 0 0 64) svc (fun t => (t.ctx 0).tails.look 0 0 == 64) := by decide +kernel
theorem test_cq_head : (svc.ctx 0).held = [] ∧ (svc.ctx 0).atSource = [] ∧ (svc.ctx 0).lostNotices = 0 ∧ svc.media.encs = [] ∧
    svc.jobOf 0 = none ∧ svc.smp.runs = [] ∧ after (.cqHeadWrite 0 0 3) svc (fun t => t.cqSeen 0 == 3) := by decide +kernel
theorem test_fetch : let s := memOf (svc.setCtx 0 { svc.ctx 0 with tails := [(0, 1)] }) [(0, 1, 0x10)]
    (s.boundStream 0 0).isSome = false ∧ s.sqHead 0 0 ≠ (s.ctx 0).tails.look 0 0 ∧ s.latent = [] ∧
    firstPoisoned s.poison 0 64 = none ∧ after (.descriptorFetch 0 0 false) s (fun t =>
      (t.ctx 0).descs.length == 1 && t.sqHead 0 0 == 1) := by decide +kernel

/-- A completion of the MARKER at index 0. -/
def noted : State := svc.complete (descOf [(0, 0x10), (8, 0x77)]) .ok 1 2

theorem test_notice : noted.notices.length = 1 ∧ (noted.notices.all fun x => x.step.isNone && x.epoch == noted.ctxEpoch 0 &&
    !x.quiet && !x.faults) = true ∧ noted.cqFull 0 = false ∧ after (.completionNotice false) noted (fun t =>
      t.cqTail 0 == 1 && t.load 0 8 == leBytes 8 0x77) := by decide +kernel
theorem test_coalesce : let s := { (svc.setFld (cr 0 0xA0) 0 11 2).setFld (cr 0 0xA0) 16 8 1 with
      gts := 1000, host := { svc.host with vecDelayed := [vecKey 0 2], vecOpen := [(vecKey 0 2, true)] } }
    s.host.vecDelayed.contains (vecKey 0 2) = true ∧ s.fld (cr 0 0xA0) 0 11 = 2 ∧ s.fld (cr 0 0xA0) 16 8 ≠ 0 ∧
    after (.msixCoalesceExpiry 0 2) s (fun t => t.host.vecSent.look 0 (vecKey 0 2) == 1) := by decide +kernel

/-- The program image of one core at HBM 100000h, without parts. -/
def image : State := memOf up [(0x100000, 4, 0x4E4C5047), (0x100004, 2, 1), (0x10000C, 2, 1), (0x10000E, 2, 64), (0x10003C, 4, 128)]
def runFields : List (Nat × Nat) := [(16, 0x100000), (36, 1), (40, 0xFFFFFFFF)]

theorem test_run : checked image runFields 0x01 (fun u d => (u.runCheck d).isNone && ((u.runRead d).runPoison d).isNone &&
    progKey (d.addr 16) == some 0x100000) ∧
    after (.run 0 0) (withDesc image (descOf ((0, 1) :: runFields))) (fun t => t.sbox.gangs.length == 1) := by decide +kernel
theorem test_run_refused : checked up runFields 0x01 (fun u d => u.runCheck d == some .invalidDescriptor) := by decide +kernel
theorem test_copy : checked (on up 0x102) [(16, 0x1000), (24, 0x2000), (32, 64)] 0x02 (fun u d => (u.copyCheck d).isNone) ∧
    checked up [(16, 0x1000), (24, 0x2000)] 0x02 (fun u d => u.copyCheck d == some .limitRejected) := by decide +kernel
theorem test_copy_done : let d := { descOf [(0, 2), (16, 0x1000), (24, 0x2000), (32, 64)] with started := true }
    let s := memOf (withDesc (on up 0x102) d) [(0x1000, 2, 0x1234)]
    s.startedAt 0 0 0 0x02 = some d ∧ s.frozen .yard 0 = false ∧ s.latent = [] ∧
    after (.copyDone 0 0 0) s (fun t => t.loadNat 0x2000 2 == 0x1234 && t.notices.length == 1) := by decide +kernel

/-- Region 0 of 4,096 bytes of weights, its entry at HBM 0, its buffers at 10000h and 20000h. -/
def regioned : State :=
  memOf (((on up 0x102).setFrameSt 0 (.pool 1)).setFld (ro .host 0 0x58) 0 13 1) [(0, 8, 0x10000), (8, 8, 0x20000), (16, 8, 4096), (28, 1, 1)]

theorem test_region : regioned.regionCount = 1 ∧
    checked regioned [(16, 0x40000), (24, 4096)] 0x03 (fun u d => (u.regionCheck d).isNone && !d.supersede) ∧
    checked regioned [(4, 1)] 0x03 (fun u d => u.regionCheck d == some .invalidDescriptor) := by decide +kernel

/-- An update of region 0 that has begun. -/
def updating (started : Bool) (n : Nat) : State :=
  { regioned with regionJobs := [⟨descOf [(0, 3), (16, 0x40000), (24, 4096)], 0, n, started, false⟩] }

theorem test_region_job : (updating true 0).poison = [] ∧ (updating true 0).frozen .yard 0 = false ∧
    (updating true 0).blockGoes .yard 0 = true ∧ ((updating true 0).region 0).isSome ∧
    granulesOf (descOf [(24, 4096)]).srcLen = 1 ∧
    after (.regionGranuleDone 0) (updating true 0) (fun t => t.notices.length == 1) ∧
    ((updating false 0).setRegionBusy 0 1).readersClear 0 = true ∧
    after (.regionReadersClear 0) (updating false 0) (fun t => t.regionJobs.all fun j => j.started) := by decide +kernel
theorem test_fence : checked up [(16, 0)] 0x04 (fun u d => u.ctxFunc d.waitCtx == u.ctxFunc d.ctx && decide (d.waitSq ≤ 3)) := by
  decide +kernel

/-- A descriptor that has started and waits. -/
def holds (l : List (Nat × Nat)) : State := withDesc up { descOf l with started := true }

theorem test_fence_met : let l := [(0, 4)]
    (holds l).holding 0 0 0x04 = some { descOf l with started := true } ∧ (holds l).fenceMet { descOf l with started := true } = true ∧
    after (.fenceSatisfied 0 0) (holds l) (fun t => t.notices.length == 1) := by decide +kernel
theorem test_wait_gts : checked up [(16, 5)] 0x05 (fun u d => decide (d.nat 24 1 ≤ 1) && decide (u.gts < d.waitTarget)) ∧
    checked { up with gts := 9 } [(16, 5)] 0x05 (fun u d => decide (d.waitTarget ≤ u.gts)) ∧
    (let l := [(0, 5), (16, 5)]
     (holds l).holding 0 0 0x05 = some { descOf l with started := true } ∧
     after (.waitGtsReached 0 0) { holds l with gts := 5 } (fun t => t.notices.length == 1)) := by decide +kernel
theorem test_marker : checked up [(16, 7), (24, 9)] 0x10 (fun _ d => d.nat 16 4 == 7 && d.nat 24 8 == 9) := by decide +kernel

/-! ### Sequences and streams (09, 10, 12) -/

/-- Pool `p` is ACTIVE, of this kind, with these frames. -/
def pooled (s : State) (p kind : Nat) (frames : List Nat) : State :=
  ((s.setFld (poolA p 0) 0 3 kind).setFld (poolA p 0) 28 3 2).updPool p fun _ => ⟨frames, 8, []⟩

/-- A model header (offset, bytes, value): one layer of 4 KV heads of width 64. -/
def header : List (Nat × Nat × Nat) :=
  [(0, 4, 0x4E4C534D), (4, 2, 1), (6, 1, 3), (8, 2, 1), (10, 2, 64), (12, 1, 1), (14, 2, 4), (24, 4, 0x3F800000),
   (48, 2, 1), (50, 2, 1), (52, 2, 256), (54, 2, 1), (56, 4, 2), (76, 1, 1)]

/-- KV pool 2 for that model, the model in region 0. -/
def modelled : State :=
  memOf (((((pooled regioned 2 2 [4, 5]).setFld (poolA 2 0) 8 8 3).setFld (poolA 2 0) 16 12 2).wr
    (poolA 2 8) 32).setFld (poolA 2 4) 0 15 4) (header.map fun x => (0x10000 + x.1, x.2))

def openFields : List (Nat × Nat) := [(4, 2), (28, 4096)]

theorem test_seq_open : checked modelled openFields 0x06 (fun u d => (u.seqOpenCheck d).isNone && u.regionBuf (d.nat 24 4) == some 0x10000 &&
    u.freeBlock d.target == some 0 && lowestFree 0x1000000 u.text.seqs.keys == some 0 &&
    ((u.touch 0x10000 256).seqOpenPoison d 0x10000).isNone) := by decide +kernel
theorem test_seq_open_refused : checked up openFields 0x06 (fun u d => u.seqOpenCheck d == some .invalidDescriptor) := by
  decide +kernel

/-- An open sequence of context 0 under index 0, with these operations. -/
def seqOf (ops : List Nat) : Seq :=
  { newSeq (descOf (openFields.map fun x => x)) (modelHdr (modelled.load 0x10000 256)) 0 0 with ops := ops }

def seqd (ops : List Nat) (s : State) : State := s.putSeq 0 (seqOf ops)

theorem test_seq_append_waits : (seqd [7] modelled).turns 0 0 0x07 = [] ∧
    checked (seqd [7] modelled) [(16, 0x1000), (36, 0xFFFFFFFF)] 0x07 (fun u d => (u.appendCheck d).isNone &&
      !(u.updSeq 0 fun x => { x with ops := x.ops ++ [d.uid] }).heads d) := by decide +kernel

/-- A started operation of class `cls` on sequence 0, whose turn it is. -/
def turn (cls : Nat) : State := withDesc (seqd [1] modelled) { descOf [(0, cls)] with started := true }

theorem test_turns : ((turn 0x07).turns 0 0 0x07).find? (turn 0x07).mayBegin = some { descOf [(0, 7)] with started := true } ∧
    (turn 0x07).seq 0 = some (seqOf [1]) ∧ (seqOf [1]).lost = none ∧ (turn 7).latent = [] ∧ (turn 7).poisonAt 0 0 = none ∧
    (turn 7).modelStatus 0 2 = none ∧ ((turn 7).holdRegion 0 1).readerBuf 1 0 = some 0x10000 := by decide +kernel
theorem test_fork : ((turn 0x08).turns 0 0 0x08).find? (turn 0x08).mayBegin = some { descOf [(0, 8)] with started := true } ∧
    (turn 8).freeBlock 2 = some 1 ∧ lowestFree 0x1000000 (turn 8).text.seqs.keys = some 1 ∧ (turn 8).refsFull (seqOf [1]) = false := by
  decide +kernel
theorem test_close : ((turn 0x09).turns 0 0 0x09).find? (turn 0x09).mayBegin = some { descOf [(0, 9)] with started := true } := by
  decide +kernel

/-- Media pool 3 and the PARAM blocks of an encoder (at 1000h) and of a decode stream (at 2000h). -/
def media : State :=
  memOf ((on (on (pooled (up.setFld (cr 0 0x4C) 0 2 3) 3 3 [8, 9]) 0x310) (slotOf .enc 0)))
    [(0x1000, 1, 1), (0x1004, 2, 64), (0x1006, 2, 64), (0x100C, 2, 64), (0x100E, 2, 64), (0x1014, 2, 30), (0x1028, 4, 0x100000),
     (0x2000, 1, 1), (0x2001, 1, 8), (0x2002, 1, 1), (0x2004, 2, 64), (0x2006, 2, 64)]

theorem test_open_enc : checked media [(16, 1), (17, 0xFF), (20, 3), (32, 0x1000), (40, 64)] 0x0A (fun u d =>
    (u.openCheck d).isNone && (let p := encParamOf (u.param d 32 64)
      (reserveBufs (u.poolBufs (d.nat 20 4)) (u.poolBytes (d.nat 20 4)) (List.replicate 4 (videoBufBytes p.outW p.outH 8))).isSome)) ∧
    after (.streamOpen 0 0) (withDesc media (descOf [(0, 0x0A), (16, 1), (17, 0xFF), (20, 3), (32, 0x1000), (40, 64)]))
      (fun t => t.media.encs.length == 1 && t.notices.length == 1) := by decide +kernel
theorem test_open_dec : checked media [(17, 0xFF), (20, 3), (32, 0x2000), (40, 64)] 0x0A (fun u d => (u.openCheck d).isNone) := by
  decide +kernel

/-- An open decode stream of context 0, ring 1. -/
def decOf : DecStream :=
  { ctx := 0, ring := 1, codec := 0, depth := 8, maxW := 64, maxH := 64, pool := 3, stale := 0,
    bufs := [⟨0, 65536, 0⟩, ⟨65536, 65536, 0⟩], taps := [], changes := [], queue := [], pic := none, begun := 0, decoded := 0,
    others := 0, waiting := true, skipRasl := false, closing := none, drainTo := none }

def streaming (d : DecStream) : State := media.setDec 0 d

theorem test_tap : checked (streaming { decOf with taps := [(2, ⟨tapOf [], 0⟩)] }) [(16, 2), (17, 1)] 0x0B (fun u d =>
    (u.tapCheck d).isNone && (u.decHandle 0 0).isSome) := by decide +kernel
theorem test_tap_change : let c : TapChange := ⟨descOf [(0, 0x0B), (16, 2), (17, 1)], 2, none⟩
    after (.tapChangeApplied 0) (streaming { decOf with changes := [c], taps := [(2, ⟨tapOf [], 0⟩)] }) (fun t =>
      ((t.dec 0).any fun d => d.taps.isEmpty && d.changes.isEmpty) && t.notices.length == 1) := by decide +kernel
theorem test_stream_close : checked (streaming decOf) [] 0x0C (fun u d => (u.closeCheck d).isNone && (u.dec 0).isSome) ∧
    (withDesc (streaming decOf) (descOf [(0, 0x0C)])).closeMode 0 0 = some 0 ∧
    (withDesc (streaming decOf) (descOf [(0, 0x0C), (16, 1)])).closeMode 0 0 = some 1 ∧
    after (.streamCloseDrain 0 0) (withDesc (streaming decOf) (descOf [(0, 0x0C)])) (fun t =>
      (t.dec 0).any fun d => d.closing.isSome) := by decide +kernel
theorem test_stream_closed : let s := streaming { decOf with closing := some (descOf [(0, 0x0C)]), drainTo := some 0 }
    (s.ringEntry 0 1 (some 0)).isNone ∧ s.sqDone 0 1 = s.sqHead 0 1 ∧ after (.streamCloseDone 0) s (fun t =>
      t.media.decs.isEmpty && t.notices.length == 1) := by decide +kernel

/-! ### Gangs, cores and their units (05, 07) -/

/-- A gang of context 0 with uid 9. -/
def gangOf (w : Nat) (ph : GangPhase) (cores : List Nat) : Gang :=
  { uid := 9, ctx := 0, desc := { descOf [(0, 1), (16, 0x100000)] with started := true }, width := w, phase := ph, cores := cores,
    readyAt := 0, sliceAt := 0, decidedAt := 0, residueCycles := 0, slice := 1, replaysOfSlice := 0, slicesReplayed := 0,
    imaged := false, alternate := false, noReplay := false, replaying := false, saving := [], failed := none, prog := 0x100000, args := [],
    result := 0, arrivals := 0, generation := 0, startBarrier := (0, 0), members := [], images := 0, replayable := false,
    live := 0, pairs := [], qrecs := [], budgeted := false }

/-- A gang of one core holds core 0, whose two tidy cores run. -/
def held (g : Gang) (s : State) : State :=
  { (on s (slotOf .co 0)).setCore 0 { Core.reset with gang := some 9, tc0 := { Tidy.reset with runs := true }, tc1 := { Tidy.reset with runs := true } }
    with sbox := ⟨[g], none, false⟩ }

def busy : State := held (gangOf 1 .running [0]) up

/-- A gang of one core that waits, with core 0 idle. -/
def waiting (ph : GangPhase) : State := { on (on image (slotOf .co 0)) 0x101 with sbox := ⟨[gangOf 1 ph []], none, false⟩ }

theorem test_dispatch : (waiting .waiting).firstWaiting = some (gangOf 1 .waiting []) ∧ (waiting .waiting).pst = 0 ∧
    (waiting .waiting).frozen .sbox 0 = false ∧ (waiting .waiting).stepAhead ((waiting .waiting).gangKey (gangOf 1 .waiting [])) = false ∧ (waiting .waiting).blockGoes .sbox 0 = true ∧
    (waiting .waiting).placement (gangOf 1 .waiting []) [0] = true := by decide +kernel
theorem test_dispatch_saved : (waiting .saved).firstWaiting = some (gangOf 1 .saved []) ∧
    (waiting .saved).placement (gangOf 1 .saved []) [0] = true ∧
    after (.gangDispatch 9 [0]) (waiting .saved) (fun t => (t.gang 9).any fun h => h.phase == .restoring && h.cores == [0]) := by
  decide +kernel

/-- A class B gang of two cores waits; context 0 is budgeted. -/
def wantsTwo : State :=
  { ((on (on up (slotOf .co 0)) 0x101).wr (cr 0 0x104) 1000).wr (cr 0 0x130) 5 with sbox := ⟨[gangOf 2 .waiting []], none, false⟩ }

theorem test_preempt : wantsTwo.firstWaiting = some (gangOf 2 .waiting []) ∧ wantsTwo.placement (gangOf 2 .waiting []) [] = false ∧
    (wantsTwo.placePool (gangOf 2 .waiting [])).length < 2 ∧ wantsTwo.gangClassB (gangOf 2 .waiting []) = true := by decide +kernel
theorem test_quantum : let s := { busy with now := 10000000 }
    s.gang 9 = some (gangOf 1 .running [0]) ∧ s.quantum (gangOf 1 .running [0]) * 1000 ≤ s.now ∧
    s.pressed (gangOf 1 .running [0]) = false ∧
    (let p := { s with sbox := ⟨[gangOf 1 .running [0], { gangOf 1 .waiting [] with uid := 10 }], none, false⟩ }
     p.pressed (gangOf 1 .running [0]) = true ∧ after (.quantumEnd 9) p (fun t => (t.gang 9).any fun h => h.phase == .stopping)) ∧
    after (.quantumEnd 9) s (fun t => (t.gang 9).any fun h => h.slice == 2) := by decide +kernel
theorem test_stopped : let s := held (gangOf 1 .stopping [0]) up
    s.gangHalted (gangOf 1 .stopping [0]) = false ∧ after (.preemptStopped 9) s (fun t =>
      (t.gang 9).any fun h => h.phase == .saving && h.saving == [0]) := by decide +kernel
theorem test_saved : let g := { gangOf 1 .saving [0] with saving := [0] }
    (held g up).gangOf 0 = some g ∧ after (.saveDone 0 false) (held g up) (fun t =>
      (t.gang 9).any fun h => h.phase == .saved && h.cores == []) := by decide +kernel
theorem test_restored : ((held (gangOf 1 .restoring [0]) up).readImages (gangOf 1 .restoring [0])).imagesPoisoned
      (gangOf 1 .restoring [0]) = false ∧ after (.restoreDone 9 false) (held (gangOf 1 .restoring [0]) up) (fun t =>
    (t.gang 9).any fun h => h.phase == .running && h.slice == 2) := by decide +kernel
theorem test_period : let s := { up.wr (cr 0 0x104) 1000 with ctxs := [(0, { Ctx.reset with admitted := true })], gts := 1000000 }
    (s.ctx 0).admitted = true ∧ s.rd (cr 0 0x104) ≠ 0 ∧ (s.ctx 0).periodAt + (s.rd (cr 0 0x104)).toNat * 1000 ≤ s.gts ∧
    after (.periodStart 0) s (fun t => (t.ctx 0).periodAt == 1000000) := by decide +kernel
theorem test_budget : let g := { gangOf 1 .running [0] with budgeted := true }
    (held g up).gangClassB g = false ∧ after (.budgetExhausted 9) (held g up) (fun t => (t.gang 9).any fun h => !h.budgeted) := by
  decide +kernel
theorem test_evaluation : ({ up with sbox := ⟨[], some 1, true⟩ } : State).sbox.evalDue = some 1 := by decide +kernel
/-- Both tidy cores have ended. -/
def ended : State := (busy.updTidy 0 0 fun k => { k with ended := true }).updTidy 0 1 fun k => { k with ended := true }

theorem test_run_end : ((gangOf 1 .running [0]).cores.all fun c => (ended.core c).queuesEmpty) = true ∧ ended.text.steps = [] ∧
    after (.runEnd 9) (withDesc ended (gangOf 1 .running [0]).desc) (fun t => t.sbox.gangs.isEmpty && t.notices.length == 1) := by
  decide +kernel
theorem test_core_fault : busy.gangOf 0 = some (gangOf 1 .running [0]) ∧ (gangOf 1 .running [0]).imaged = false ∧
    (let g := { gangOf 1 .running [0] with imaged := true, replayable := true }
     (held g up).gangOf 0 = some g ∧ (held g up).bit (cr 0 0x120) 23 = false ∧ 0 < (held g up).replayMax 0) := by decide +kernel
theorem test_core_remap : let s := up.setFld (ro .cl 0 0x44) 0 1 1
    s.absent 0 = false ∧ s.slotFailed 0 = true ∧ (s.core 0).gang = none := by decide +kernel

/-! Core control and the tidy cores. -/

theorem test_sem_write : busy.tcRuns 0 0 = true ∧ after (.semWrite 0 0 3 5) busy (fun t => (t.core 0).sems.look 0 3 == 5) := by
  decide +kernel
theorem test_sem_wait : busy.semHolds 0 0 = true ∧
    (let s := busy.updTidy 0 0 fun k => { k with waitVal := 7 }
     s.tcRuns 0 0 = true ∧ s.semHolds 0 0 = false ∧ after (.semWaitRead 0 0 5) s (fun t =>
       ((t.core 0).tidy 0).stall == .semWait 5)) ∧
    (let s := busy.updTidy 0 0 fun k => { k with stall := .semWait 5 }
     s.coreRuns 0 = true ∧ s.semHolds 0 0 = true ∧ after (.semWaitRelease 0 0) s (fun t =>
       ((t.core 0).tidy 0).stall == .none)) := by decide +kernel
theorem test_barrier : (busy.core 0).arrived = false ∧ after (.barrierArrive 0 0) busy (fun t =>
    (t.gang 9).any fun g => g.generation == 1 && g.arrivals == 0) ∧
    after (.barrierArrive 0 0) (held (gangOf 2 .running [0, 1]) up) (fun t => (t.gang 9).any fun g => g.arrivals == 1) := by
  decide +kernel
theorem test_barrier_read : let s := busy.updCore 0 fun k => { k with arrivedGen := some 0 }
    s.tcRuns 0 0 = true ∧ (s.core 0).arrivedGen = some 0 ∧ after (.barrierRead 0 0 5) s (fun t =>
      ((t.core 0).tidy 0).stall == .barrier 5) ∧
    (let u := held { gangOf 1 .running [0] with generation := 1 } up
     let s := u.updCore 0 fun k => { k with arrivedGen := some 0 }
     s.tcRuns 0 0 = true ∧ (s.gangOf 0).isSome ∧ after (.barrierRead 0 0 5) s (fun t =>
       ((t.core 0).tidy 0).stall == .none)) := by decide +kernel

/-- Tidy core 0 of core 0 is at this instruction, address 0 of its scratch. -/
def at' (w : Nat) (x : Tbl Word) : State :=
  (memOf busy [(kScratch 0 0 0, 4, w)]).updTidy 0 0 fun k => { k with x := x }

theorem test_load : (at' 0x0102A303 [(5, 0x10)]).tcAt 0 0 .memory = some (0x0102A303, 4) ∧
    after (.tcLoadStore 0 0 none) (memOf (at' 0x0102A303 [(5, 0x10)]) [(kScratch 0 0 0x20, 4, 77)]) (fun t =>
      ((t.core 0).tidy 0).xr 6 == 77) := by decide +kernel
theorem test_store : (at' 0x0062A823 [(5, 0x10), (6, 0x55)]).tcAt 0 0 .memory = some (0x0062A823, 4) ∧
    after (.tcLoadStore 0 0 none) (at' 0x0062A823 [(5, 0x10), (6, 0x55)]) (fun t =>
      memGet t.mem (kScratch 0 0 0x20) == 0x55) := by decide +kernel
theorem test_store_inv : Memory.wf (at' 0x0062A823 [(5, 0x10), (6, 0x55)]).mem = true := by decide +kernel
theorem test_ecall : (at' 0x73 []).tcAt 0 0 .ecall = some (0x73, 4) ∧ after (.tcEcall 0 0) (at' 0x73 []) (fun t =>
    ((t.core 0).tidy 0).ended) ∧ (at' 0x73 [(17, 1)]).tcAt 0 0 .ecall = some (0x73, 4) ∧ (at' 0x73 []).text.steps = [] := by
  decide +kernel
theorem test_ebreak : (at' 0x00100073 []).tcAt 0 0 .ebreak = some (0x00100073, 4) ∧ (at' 0x00100073 []).debugged 0 = false := by
  decide +kernel
theorem test_illegal : (at' 0 []).tcRuns 0 0 = true ∧ (at' 0 []).tcFetch 0 0 = some (0, 2) ∧
    (busy.updTidy 0 0 fun k => { k with pc := 0x10000 }).tcFetch 0 0 = none ∧
    (busy.updTidy 0 0 fun k => { k with pc := 0x10000 }).tcRuns 0 0 = true := by decide +kernel
theorem test_debug : busy.ownTakes (ro .dbg 0 0x40) ∧
    ((busy.core 0).tidy 0).runs = true := by decide +kernel
theorem test_debug_on : let s := on busy (slotOf .dbg 0)
    s.ownTakes (ro .dbg 0 0x40) := by decide +kernel
theorem test_sram_own : up.ownTakes (ownReg 0 3) ∧ up.clearing 0 3 = false ∧
    up.sliceOwner 0 3 ≠ 5 ∧ after (.sramOwnWrite 0 3 5) up (fun t => t.clearing 0 3) := by decide +kernel
theorem test_slice_cleared : let s := { up with sliceClears := [⟨0, 3, 5⟩] }
    (s.sliceClears.find? fun k => k.cl == 0 && k.slice == 3) = some ⟨0, 3, 5⟩ := by decide +kernel

/-! The matrix engines. -/

/-- 64 bytes of the bay of core 0 (fields by offset). -/
def bayed (s : State) (l : List (Nat × List (Nat × Nat))) : State :=
  l.foldl (fun (s : State) x => s.bayStore (kBay 0 x.1) (leBytes 64 (fb x.2))) s

/-- ME 0 of core 0 is at this command. -/
def meAt (l : List (Nat × Nat)) (g : Gang) (f : MeUnit → MeUnit) : State :=
  (bayed (held g up) [(0, l)]).updMe 0 0 fun u => f { u with lists := [(⟨0, 0, 0, 0⟩, 2)] }

def g1 : Gang := { gangOf 1 .running [0] with pairs := [(6, 6)], qrecs := [leBytes 64 (fb [(0, 5)])] }
def meIs (l : List (Nat × Nat)) (op slots : Nat) (ok : MeCmd → Bool) : Bool :=
  ((meAt l g1 id).meNext 0 0 op slots).any ok

theorem test_me_launch : (busy.meUnit 0 0).lists.length < 4 ∧ after (.meListLaunch 0 0 0 2) busy (fun t =>
    (t.meUnit 0 0).lists.length == 1) ∧
    (let s := busy.updMe 0 0 fun u => { u with lists := List.replicate 4 (⟨0, 0, 0, 0⟩, 2) }
     after (.meListLaunch 0 0 0 2) s (fun t => ((t.core 0).tidy 0).stall == .list 0 2)) := by decide +kernel
theorem test_me_nop : meIs [] 0 1 (fun k => k.zero 1 32) ∧ after (.meNop 0 0) (meAt [] g1 id) (fun t => (t.meUnit 0 0).slot == 1) := by
  decide +kernel
theorem test_me_wait : meIs [(0, 6)] 6 1 (fun k => !k.semBad && k.waitOver Core.reset) ∧
    meIs [(0, 6), (8, 1)] 6 1 (fun k => !k.semBad && !k.waitOver Core.reset) ∧
    after (.meWait 0 0) (meAt [(0, 6), (8, 1)] g1 id) (fun t => (t.meUnit 0 0).waiting) := by decide +kernel
theorem test_me_wait_over : let s := meAt [(0, 6)] g1 fun u => { u with waiting := true }
    (s.meCmd 0 0).any (fun k => k.waitOver (s.core 0)) ∧ s.coreRuns 0 = true ∧
    after (.meWaitSatisfied 0 0) s (fun t => (t.meUnit 0 0).slot == 1) := by decide +kernel
theorem test_me_signal : meIs [(0, 7), (4, 3), (8, 2)] 7 1 (fun k => !k.semBad) ∧
    after (.meSignal 0 0) (meAt [(0, 7), (4, 3), (8, 2)] g1 id) (fun t => (t.core 0).sems.look 0 3 == 2) := by decide +kernel
theorem test_me_zero : meIs [(0, 2), (4, 3), (5, 1)] 2 1 (fun k => decide (k.at 4 1 < 16) && decide (k.at 5 1 ≤ 2) &&
    k.zero 1 4 && k.zero 6 32) ∧ after (.meZero 0 0) (meAt [(0, 2), (4, 3), (5, 1)] g1 id) (fun t =>
      (t.meUnit 0 0).mode 0 == 1 && (t.meUnit 0 0).mode 2 == 0) := by decide +kernel
theorem test_me_acc_load : meIs [(0, 3), (5, 1), (8, 0x1000), (17, 1)] 3 1 (fun k => decide (k.at 5 1 ≤ 2) && !k.rawBad (k.at 5 1)) ∧
    (meAt [] g1 id).poison = [] := by decide +kernel
theorem test_me_mma : meIs [(0, 1), (1, 2), (8, 0x1000), (12, 0x2000), (16, 64), (18, 64), (20, 16)] 1 1 (fun k => !k.awin && k.clr) ∧
    ((mmaPair g1.pairs 0).any fun p => p.kc == 16 && meIs [(0, 1), (1, 2), (8, 0x1000), (12, 0x2000), (16, 64), (18, 64), (20, 16)] 1 1
      (fun k => !k.mmaBad p && decide (k.depth / p.kc * k.tiles ≤ 8192))) ∧
    (meAt [] g1 id).residueArmed 0 0 = false := by decide +kernel
theorem test_me_store : meIs [(0, 4), (5, 16), (6, 16), (8, 0x1000), (16, 64)] 4 2 (fun k =>
    (k.storeQ g1.qrecs).any fun q => (k.storeMode { MeUnit.reset with modes := [(0, 1)] }).any fun m => !k.storeBad q m && m == 1 &&
      !k.toDev) := by decide +kernel
theorem test_me_store_raw : meIs [(0, 5), (8, 0x1000), (17, 1)] 5 1 (fun k => k.zero 5 6 && !k.rawBad 0 &&
    decide (k.tiles * 16 * rawBytes 0 ≤ k.at 16 4)) ∧ (meAt [] g1 id).meUnit 0 0 = { MeUnit.reset with lists := [(⟨0, 0, 0, 0⟩, 2)] } := by
  decide +kernel
theorem test_me_inv : Memory.wf (meAt [(0, 5), (8, 0x1000), (17, 1)] g1 id).mem = true ∧
    rising ((meAt [(0, 5), (8, 0x1000), (17, 1)] g1 id).bay.map Prod.fst) = true := by decide +kernel
theorem test_launches : (busy.dmQueue 0 1).descs.length < 16 ∧ after (.dmLaunch 0 0 1 64) busy (fun t => (t.dmQueue 0 1).descs.length == 1) ∧
    after (.dmLaunch 0 0 0 64) (busy.updDm 0 0 fun _ => ⟨List.replicate 16 ⟨0, 0, 0, 0⟩, 0⟩) (fun t =>
      ((t.core 0).tidy 0).stall == .dm 0 64) ∧
    after (.wuLaunch 0 0 64) busy (fun t => (t.core 0).wu.queue.length == 1) ∧
    after (.wuLaunch 0 0 64) (busy.updCore 0 fun k => { k with wu := { k.wu with queue := List.replicate 8 ⟨0, 0, 0, 0⟩ } }) (fun t =>
      ((t.core 0).tidy 0).stall == .wu 64) ∧
    after (.rsLaunch 0 0 64) busy (fun t => (t.core 0).rs.queue.length == 1) ∧
    after (.rsLaunch 0 0 64) (busy.updCore 0 fun k => { k with rs := { k.rs with queue := List.replicate 4 ⟨0, 0, 0, 0⟩ } }) (fun t =>
      ((t.core 0).tidy 0).stall == .rs 64) := by decide +kernel

/-! ### The data mover, the window unit and row statistics (07 to 09) -/

/-- Queue 0 of the data mover of core 0 is at this descriptor. -/
def dmAtD (l : List (Nat × Nat)) (moved : Nat) : State :=
  (bayed busy [(0, l), (64, [(0, 1)])]).updDm 0 0 fun _ => ⟨[⟨0, 0, 0, 0⟩], moved⟩

def dmF (op : Nat) : List (Nat × Nat) := [(0, op), (2, 1), (3, 1), (8, 64), (16, 0x1000), (24, 4), (28, 1), (32, 1), (44, 1), (52, 9)]

theorem test_dm_copy : (dmAtD (dmF 1) 0).dmAt 0 0 1 = some (dmD (leBytes 64 (fb (dmF 1)))) ∧ (dmAtD (dmF 1) 0).poison = [] ∧
    (dmAtD (dmF 1) 0).latent = [] ∧ after (.dmCopy 0 0 none) (dmAtD (dmF 1) 0) (fun t => t.bayByte (kBay 0 0x1000) == 1) := by
  decide +kernel
theorem test_dm_fill : (dmAtD (dmF 3) 0).dmAt 0 0 3 = some (dmD (leBytes 64 (fb (dmF 3)))) ∧
    after (.dmFill 0 0) (dmAtD (dmF 3) 0) (fun t => t.bayByte (kBay 0 0x1000) == 9) := by decide +kernel

def dmT : List (Nat × Nat) := (4, 1) :: dmF 2

theorem test_dm_transpose : (dmAtD dmT 0).dmAt 0 0 2 = some (dmD (leBytes 64 (fb dmT))) ∧
    (let d := dmD (leBytes 64 (fb dmT))
     (d.elems 0 4096).map (fun r => d.dst + r.dst) = [0x1000, 0x1001, 0x1002, 0x1003] ∧ d.elem ≤ d.ds1 ∧ d.src + d.len0 ≤ 0x1000) ∧
    after (.dmTranspose 0 0) (dmAtD dmT 0) (fun t => (t.dmQueue 0 0).moved == 4) := by decide +kernel
theorem test_dm_done : (dmAtD (dmF 3) 4).dmFront 0 0 = some (⟨0, 0, 0, 0⟩, dmD (leBytes 64 (fb (dmF 3)))) ∧
    (dmD (leBytes 64 (fb (dmF 3)))).total = 4 ∧ after (.dmDescriptorDone 0 0) (dmAtD (dmF 3) 4) (fun t =>
      (t.dmQueue 0 0).descs.isEmpty) := by decide +kernel

/-- 128 bytes of the bay of core 0 at 0. -/
def bay128 (s : State) (l : List (Nat × Nat)) : State := s.bayStore (kBay 0 0) (leBytes 128 (fb l))

/-- The window unit of core 0 is at this descriptor, whose result block is none. -/
def wuAtD (l : List (Nat × Nat)) (f : WuUnit → WuUnit) : State :=
  (bay128 busy ((124, 0xFFFFFFFF) :: l)).updWu 0 fun w => f { w with queue := [⟨0, 0, 0, 0⟩] }

/-- A 1×1 CONV of an image of 2 × 1 pixels of 32 INT8 channels. -/
def convF : List (Nat × Nat) :=
  [(0, 1), (3, 1), (4, 5), (5, 1), (6, 1), (8, 1), (9, 1), (10, 1), (11, 1), (16, 2), (18, 1), (20, 1), (30, 2), (32, 0x1000),
   (36, 2), (38, 32), (40, 32), (44, 32), (54, 65535)]

theorem test_conv : (wuAtD convF id).wuFront 0 = some (⟨0, 0, 0, 0⟩, leBytes 128 (fb ((124, 0xFFFFFFFF) :: convF))) ∧
    (wuAtD convF id).wuRuns 0 1 = true ∧ (let d := leBytes 128 (fb ((124, 0xFFFFFFFF) :: convF))
     (convD d).malformed d = false ∧ (convD d).beyond = false) ∧
    after (.convGroup 0) (wuAtD convF id) (fun t => (t.conv 0).isSome) := by decide +kernel
theorem test_conv_row : let s := wuAtD convF fun w => { w with started := true }
    (s.conv 0).any (fun p => !p.noSync && decide ((s.core 0).wu.rows < p.inH) &&
      (s.core 0).semReached p.rowSem (BitVec.ofNat 16 (p.rsemBase + (s.core 0).wu.rows + 1))) = true ∧
    after (.convRowAvailable 0) s (fun t => (t.core 0).wu.rows == 1) := by decide +kernel

/-- The front descriptor passes its check, the spans named are places, and the state is as asked. -/
def wuSpans (s : State) (op : Nat) (check : List Byte → WuCheck) (sp : State → List Byte → List Span) (ok : State → List Byte → Bool) : Bool :=
  s.poison == [] && s.latent == [] && (s.wuAt 0 op check).any fun e =>
    match e.1.spansAcc 0 (sp e.1 e.2) with
    | .ok _ => ok e.1 e.2
    | _ => false

def cropF : List (Nat × Nat) :=
  [(0, 2), (3, 7), (4, 5), (6, 1), (8, 1), (10, 1), (12, 1), (14, 1), (16, 1), (18, 1), (20, 0x3F800000), (24, 0x1000), (48, 0x2000), (56, 0x3000)]

theorem test_crop : wuSpans (wuAtD cropF id) 2 cropCheck (fun u d => u.cropIn 0 d ++ u.cropWrites 0 d)
    (fun u d => decide ((u.core 0).wu.items < (cropD d).nbox)) = true := by decide +kernel

def boxF : List (Nat × Nat) :=
  [(0, 3), (3, 7), (4, 5), (5, 1), (6, 1), (8, 1), (10, 1), (12, 0x3F800000), (16, 0x1000), (72, 0x2000), (80, 0x3000)]

/-- The candidate buffer at 3000h of the bay holds no candidate of 4. -/
def withCbuf (s : State) : State := bayed s [(0x3000, [(4, 4)])]

theorem test_box : let s := withCbuf (wuAtD boxF id)
    wuSpans s 3 boxCheck (fun _ d => [cbufSpan (boxBuf d) 0]) (fun u d =>
      decide ((u.core 0).wu.items < (boxD d).pairs) && !u.cbufBad ((boxBuf d).at_ 0 0)) = true ∧
    wuSpans s 3 boxCheck (fun u d => u.boxIn 0 d ++ [cbufSpan (boxBuf d) (u.locNat (((boxBuf d).at_ 0 0).plus 4) 4)])
      (fun _ _ => true) = true := by decide +kernel

def nmsF : List (Nat × Nat) := [(0, 4), (3, 3), (8, 1), (16, 0x3000), (24, 0x4000)]

theorem test_nms : let s := withCbuf (wuAtD nmsF id)
    wuSpans s 4 nmsCheck (fun _ d => [cbufSpan (nmsBuf d) 0]) (fun u d => !(u.core 0).wu.ended &&
      !u.cbufBad ((nmsBuf d).at_ 0 0) &&
      !(cbufSpan (nmsBuf d) (u.locNat (((nmsBuf d).at_ 0 0).plus 4) 4)).meets (nmsOutRange d)) = true ∧
    wuSpans s 4 nmsCheck (fun u d => u.nmsAcc 0 d (u.locNat ((nmsBuf d).at_ 0 0) 4)) (fun _ _ => true) = true ∧
    after (.nms 0) s (fun t => (t.core 0).wu.ended) := by decide +kernel

def d2sF : List (Nat × Nat) :=
  [(0, 5), (3, 3), (4, 2), (5, 1), (8, 1), (10, 1), (12, 1), (16, 0x1000), (24, 0x2000), (40, 32), (42, 1), (44, 2)]

theorem test_depth_to_space : wuSpans (wuAtD d2sF id) 5 d2sCheck (fun u d => u.d2sIn 0 d ++ u.d2sWrites 0 d)
    (fun u d => decide ((u.core 0).wu.items < (d2sD d).bytes)) = true := by decide +kernel
theorem test_wu_done : let s := wuAtD [(0, 5)] fun w => { w with started := true }
    (s.wuFront 0).isSome ∧ s.wuComplete 0 (leBytes 128 (fb [(124, 0xFFFFFFFF), (0, 5)])) = true ∧
    after (.wuDescriptorDone 0) s (fun t => (t.core 0).wu.queue.isEmpty) := by decide +kernel

/-! Row statistics on sequence 0 of pool 2. -/

/-- Its LIST, with page 0 as entry 0. -/
def listA : Nat := 0x810000

def g2 : Gang := { gangOf 1 .running [0] with qrecs := [leBytes 64 (fb [(0, 2), (1, 2)])] }

/-- The row-statistics unit of core 0 is at this descriptor. -/
def rsAtD (l : List (Nat × Nat)) (x : Seq) (f : RsUnit → RsUnit) : State :=
  memOf ((bay128 (held g2 (modelled.putSeq 0 x)) (((124, 0xFFFFFFFF) :: (11, 3) :: (12, 64) :: (24, listA) :: (32, 2) :: l))).updCore 0
    fun k => { k with rs := f { k.rs with queue := [⟨0, 0, 0, 0⟩] } }) [(listA, 4, 0), (listA + 4, 4, 0xFFFFFFFF)]

def attF : List (Nat × Nat) := [(0, 1), (3, 1), (4, 1), (5, 1), (16, 1), (36, 0x1000), (44, 0x2000), (52, 0x3F800000)]
def rsB (l : List (Nat × Nat)) : List Byte :=
  leBytes 128 (fb ((124, 0xFFFFFFFF) :: (11, 3) :: (12, 64) :: (24, listA) :: (32, 2) :: l))

def began (u : RsUnit) : RsUnit := { u with started := true }

theorem test_list_key : modelled.listKey (seqOf []) = listA := by decide +kernel
theorem test_attend : let s := rsAtD attF { seqOf [] with nextPos := [(0, 1)] } began
    s.rsFront 0 = some (⟨0, 0, 0, 0⟩, rsB attF) ∧ s.rsRuns 0 1 = true ∧
    attendBad (rsB attF) (some (qrecOf (leBytes 64 (fb [(0, 2), (1, 2)])))) = false ∧ attendBeyond (rsB attF) = false := by
  decide +kernel
theorem test_attend_seq : let x := { seqOf [] with nextPos := [(0, 1)] }
    let s := rsAtD attF x began
    s.rsSeq 0 listA 2 = some (0, x) ∧ blockOk x (rsB attF) 0 0 = true ∧ s.listDenied 0 (rsB attF) = false ∧
    extentsOk (attendExtents (rsB attF) (qrecOf (leBytes 64 (fb [(0, 2), (1, 2)])))) = true ∧
    walkOf x (rsB attF) = [0] ∧ s.entry x 0 = 0 := by decide +kernel
theorem test_attend_end : walkOf (seqOf []) (rsB attF) = [] := by decide +kernel

def appF : List (Nat × Nat) := [(0, 2), (4, 1), (36, 0x1000), (40, 0x1100), (44, 256)]

theorem test_append : let s := rsAtD appF (seqOf []) began
    s.rsRuns 0 2 = true ∧ (s.core 0).rs.items < appendCount (rsB appF) ∧
    extentsOk [(0x1000, 256), (0x1100, 256), (0, 0)] = true := by decide +kernel
theorem test_append_stage : (match (rsAtD ((84, 0x100040) :: appF) (seqOf []) began).stageAcc 0 (rsB ((84, 0x100040) :: appF)) 0 with
    | .ok _ => true
    | _ => false) = true := by decide +kernel

/-- Core 0 has a granted write intent. -/
def granted (s : State) : State := s.withYard fun y => { y with intents := [⟨0, 0, 0, true, false⟩] }

theorem test_append_slot : ((granted (rsAtD appF (seqOf []) began)).slotReady 0 (rsB appF) ⟨listA, 0, 0, 0, [], []⟩).isSome := by
  decide +kernel
theorem test_scatter : let f := [(0, 3), (4, 1), (84, 0x100040)]
    let s := memOf (rsAtD f (seqOf []) began) [(0x100040, 8, listA)]
    s.rsRuns 0 3 = true ∧ (s.core 0).rs.items < appendCount (rsB f) ∧
    (match s.stageAcc 0 (rsB f) 0 with
     | .ok p => ((granted s).slotReady 0 (rsB f) (rowOfBytes (s.locLoad p (stageBytes 64)) 64)).isSome
     | _ => false) = true := by decide +kernel
theorem test_rs_done : let s := rsAtD attF (seqOf []) fun u => { u with started := true, written := true }
    (s.rsFront 0).isSome ∧ s.rsComplete 0 (rsB attF) = true ∧ after (.rsDescriptorDone 0) s (fun t => (t.core 0).rs.queue.isEmpty) := by
  decide +kernel

/-! ### Text, pools and pages (09 to 11) -/

/-- The model of `modelled` with its RUN images, a vocabulary of two tokens in region 1, a grammar in region 2, STEP_POOL 1
and one core for each RUN. -/
def language : State :=
  let s := (modelled.setFld (ro .host 0 0x58) 0 13 3).wr (cr 0 0x10C) 0x0101
  memOf { s with regionHolds := [⟨0, 0, 1⟩, ⟨1, 0, 1⟩, ⟨2, 0, 1⟩] }
    [(0x10028, 4, 0x800), (0x1002C, 4, 0x800), (0x10048, 4, 1),
     (0x10800, 4, 0x4E4C5047), (0x10804, 2, 1), (0x1080C, 2, 1), (0x1080E, 2, 64), (0x1083C, 4, 128),
     (32, 8, 0x30000), (48, 8, 4096), (60, 1, 4), (64, 8, 0x32000), (80, 8, 4096), (92, 1, 2),
     (0x30006, 1, 1), (0x30008, 4, 2), (0x30020, 4, 0x80), (0x30038, 4, 0x400), (0x30504, 4, 1),
     (0x32008, 4, 1), (0x3200E, 2, 1), (0x32010, 4, 2), (0x32020, 4, 0x40), (0x32046, 1, 1), (0x32048, 4, 0xFFFFFFFF), (0x3204C, 4, 0xFFFFFFFF)]

/-- A SEQ_APPEND that generates up to 4 tokens, in progress. -/
def appending : Appending :=
  { desc := { descOf [(0, 7), (32, 4)] with started := true }, tokens := [], pretoks := [], inLeft := 0, appended := 0, generated := 0, written := 0,
    gang := none, row := none, maskReady := false, vocab := none, grammar := none, invalidBytes := 0, splits := 0, nonfinite := 0, readyAt := 0 }

def seqAct (a : Appending) : Seq := { seqOf [1] with act := some a }
def withAct (a : Appending) : State := language.putSeq 0 (seqAct a)

theorem test_act_model : ((withAct appending).actModel (seqAct appending) appending).any (fun m => m.1 == 0x10000 && m.2.stepPool == 1 &&
    m.2.eos == 0 && m.2.prefillCores == 1) = true := by decide +kernel

def toText : Appending := { appending with pretoks := [.invalid [0x41]], vocab := some 1 }

theorem test_tokenise : let s := on (withAct toText) (slotOf .txt 0)
    s.worksOn .txt = true ∧ s.nextPre = some 0 ∧ (s.actVocab toText).any (fun v => s.preTokens v (.invalid [0x41]) matches .ok [1]) = true := by
  decide +kernel

/-- The few rows of the Unicode tables for U+0301 and the decompositions of U+00E9 and U+FB01. -/
def small : NormData := ⟨tableOf "0 301;E6 1", tableOf "E9 0 65 301;FB01 2 66 69"⟩

theorem test_normalise : small.normalise false [0x65, 0x301, 0xFB01] = [0xE9, 0xFB01] ∧
    small.normalise true [0xFB01, 0xE9] = [0x66, 0x69, 0xE9] ∧ small.normalise false [0x1112, 0x1161, 0x11AB] = [0xD55C] ∧
    runValue 29 (tableOf "19 20;16 1") 0x20 = 0x16 := by decide +kernel

def prompt : Appending := { appending with tokens := [1, 1] }

theorem test_chunk : prompt.wantsChunk = true ∧ (seqAct prompt).len < (seqAct prompt).limit ∧
    (withAct prompt).fld (cr 0 0x10C) 0 7 = 1 ∧ (withAct prompt).fld (cr 0 0x10C) 8 7 = 1 ∧
    (withAct prompt).formerImage 0x10800 1 48 = none ∧ (withAct prompt).hbmIn 1 0x40000 8 = true ∧
    (withAct prompt).hbmIn 1 0x41000 8 = true := by decide +kernel

/-- Sequence 0 is ready for a decode step, and core 0 is free. -/
def ready1 : State := on (on (language.putSeq 0 { seqAct appending with nextTok := some 1 }) (slotOf .co 0)) 0x101

theorem test_step_members : let x := { seqAct appending with nextTok := some 1 }
    ready1.stepMembers 0 = [(0, x)] ∧ ready1.pst = 0 ∧ ready1.blockGoes .sbox 0 = true ∧ ready1.frozen .sbox 0 = false ∧
    ready1.bit (ro .pwr 0 0x50) 6 = false ∧ ready1.stepAhead (ready1.stepKey [(0, x)]) = false := by decide +kernel
theorem test_step_form : (ready1.actModel (seqAct appending) appending).any (fun m => ready1.stepRoom m.2 1 0x40000 0x41000 &&
    (ready1.formerImage (m.1 + m.2.stepOff) m.2.stepCores 64).isNone &&
    (let e := ready1.makeStep [(0, 1, 0)] appending.desc m.1 m.2 0x40000 0x41000
     (e.2.gang e.1).any (fun g => !e.2.waitsAhead e.1 && e.2.placement g [0]))) = true := by decide +kernel

/-- A member of a spread sequence that is not on its first package. -/
def spread : Seq := { seqAct appending with geo := { (seqAct appending).geo with spreadN := 2, spreadIdx := 1 } }

/-- These messages have been delivered from package 0. -/
def told (s : State) (l : List KlBody) : State := s.withKl fun k => { k with inbox := l.map fun b => (0, b) }

theorem test_step_table : let s := told (language.putSeq 0 spread) [.table 0 [(0, 1, 0)]]
    s.spreadReady 0 0 = true ∧ s.spreadMsg spread.geo (isTable spread.geo [(1, spread.len)]) = some (0, .table 0 [(0, 1, 0)]) ∧ (s.actModel spread appending).any (fun m => decide (1 ≤ m.2.stepMax) &&
      s.stepRoom m.2 1 0x40000 0x41000 && (s.formerImage (m.1 + m.2.stepOff) m.2.stepCores 64).isNone) = true := by decide +kernel
theorem test_spread_token : spread.geo.spreadIdx ≠ 0 ∧ spread.nextTok = none ∧ appending.desc.genMax = 4 ∧ spread.limit = 4096 ∧
    (let s := told (language.putSeq 0 spread) [.token 0 1]
     s.spreadMsg spread.geo (isToken 1) = some (0, .token 0 1) ∧
     after (.spreadTokenReceived 0 1) s (fun t => (t.seq 0).bind Seq.nextTok == some 1 && t.kl.inbox.isEmpty)) := by decide +kernel
theorem test_spread_token_end : ({ appending with generated := 3 } : Appending).desc.genMax ≤ 3 + 1 ∧
    ({ spread with len := 4096 } : Seq).limit ≤ ({ spread with len := 4096 } : Seq).len := by decide +kernel

def masking : Appending := { appending with row := some 0x40000, vocab := some 1, grammar := some 2 }

theorem test_mask : let s := on (withAct masking) (slotOf .grm 0)
    s.worksOn .grm = true ∧ s.nextMask = some 0 ∧ (s.actMask (seqAct masking) masking).any (fun r => match r.2 with
      | .ok l _ => l == [true, false]
      | _ => false) = true := by decide +kernel

def sampling : Appending := { appending with row := some 0x40000, maskReady := true }

/-- Its logit row is the only one, with this second logit. -/
def rowed (z : Nat) : State :=
  let s := on (memOf (withAct sampling) [(0x40004, 4, z)]) (slotOf .samp 0)
  { s with text := { s.text with rows := [0] }, active := [(ro .samp 0 0x808, 0x3F800000)] }

theorem test_token_step : (rowed 0).worksOn .samp = true ∧ (rowed 0).nextRow = some 0 ∧ (rowed 0).samplerOk 0 = true ∧ (rowed 0).poison = [] ∧
    ((List.range 2).map fun i => (BitVec.ofNat 32 ((rowed 0).loadNat (0x40000 + 4 * i) 4) : F32)) = [0, 0] ∧
    sampleRow [0, 0] [true, true] ((rowed 0).profile 0) 0 0 = (some 0, 0) := by decide +kernel
theorem test_token_step_next : ((List.range 2).map fun i => (BitVec.ofNat 32 ((rowed 0x3F800000).loadNat (0x40000 + 4 * i) 4) : F32)) =
      [0, 0x3F800000] ∧ sampleRow [0, 0x3F800000] [true, true] ((rowed 0).profile 0) 0 0 = (some 1, 0) ∧
    after (.tokenStep 0) (rowed 0x3F800000) (fun t => (t.seq 0).bind Seq.nextTok == some 1) := by decide +kernel

/-! Pools. -/

/-- YARD is enabled and CMD_FIRST and CMD_COUNT name frames 6 and 7. -/
def cmdd (s : State) : State := ((on s (slotOf .yard 0)).setFld (yardA 0x58) 0 17 6).setFld (yardA 0x5C) 0 17 2

theorem test_pool_accepts : (cmdd up).ownTakes (yardA 0x54) ∧
    (cmdd up).blockOn .yard 0 = true ∧ (cmdd up).yard.running = none ∧ (cmdd up).yard.cmds = [] := by decide +kernel
theorem test_assign : (cmdd up).poolSt 4 = stEmpty ∧ (∀ f ∈ upFrom 6 2, (cmdd up).frameSt f = .unassigned) ∧
    after (.poolAssign 4) (cmdd up) (fun t => (t.pool 4).frames == [6, 7] && t.poolSt 4 == stAssembling) := by decide +kernel

/-- Pool 4 is being assembled from frames 6 and 7. -/
def assembling (kind : Nat) : State :=
  ((((cmdd up).setFld (yardA 0x44) 0 17 16).setFrameSt 6 (.pool 4)).setFrameSt 7 (.pool 4)).setFld (poolA 4 0) 28 3 1 |>.setFld (poolA 4 0) 0 3 kind
    |>.updPool 4 fun _ => ⟨[6, 7], 0, []⟩

theorem test_release : (assembling 1).poolOpen 4 = true ∧
    sortBy (fun a b => decide (a < b)) (((assembling 1).pool 4).frames.drop 0) = upFrom 6 2 ∧
    (cmdd up).poolOpen 4 = false ∧ after (.poolRelease 4) (assembling 1) (fun t => (t.pool 4).frames == []) := by decide +kernel

/-- The same as a KV pool of 64 KiB pages. -/
def assemblingKv : State :=
  (((assembling 2).setFld (poolA 4 0) 8 8 1).setFld (poolA 4 0) 16 12 1).setFld (poolA 4 4) 0 15 1

theorem test_create : (assemblingKv.kvValid 4).isSome = true ∧ assemblingKv.metaOk = true ∧ assemblingKv.poolSt 4 = stAssembling ∧
    assemblingKv.poolKind 4 = 2 := by decide +kernel
theorem test_create_plain : (assembling 1).plainValid 4 = true ∧ (assembling 1).metaOk = true ∧ (assembling 1).poolKind 4 ≠ 2 := by
  decide +kernel
theorem test_destroy : (assembling 1).poolSt 4 ≠ stEmpty ∧ after (.poolDestroy 4) (assembling 1) (fun t => t.poolSt 4 == stEmpty) := by
  decide +kernel
theorem test_pool_done : let s := (cmdd up).withYard fun y => { y with running := some ⟨4, 1, 6, 2⟩ }
    s.yard.running = some ⟨4, 1, 6, 2⟩ ∧ after .poolCmdDone s (fun t => t.fld (yardA 0x60) 16 16 == 1) := by decide +kernel

/-! Pages of sequence 0 of KV pool 2. -/

/-- Page 0 of the pool, and the LIST's entry 0. -/
def paged (k : KvPage) (entry : Nat) (f : Yard → Yard) : State :=
  memOf (((((modelled.putSeq 0 (seqOf [])).setFrameSt 4 (.pool 2)).setFrameSt 5 (.pool 2)).putKv 2 0 k).withYard f)
    [(listA, 4, entry), (listA + 4, 4, 0xFFFFFFFF)]

theorem test_page_alloc : let r : PageReq := ⟨.new, 2, 0, 0, none, 0, none⟩
    let s := (paged ⟨1, 0, .resident, none, 0, false⟩ 0xFFFFFFFF fun y => { y with reqs := [r] }).setFld (poolA 2 0x14) 0 24 7
    s.reqOrder 2 = [r] ∧ s.overCap 0 2 = false ∧ s.lowWm 2 < s.freePages 2 ∧ s.lowestPage 2 = some 1 := by decide +kernel
theorem test_alloc_timeout : let s := paged KvPage.reset 0xFFFFFFFF fun y => { y with reqs := [⟨.new, 2, 0, 0, none, 0, some 0⟩] }
    (({ s with now := 65535000000 } : State).yard.reqs.find? fun r => r.pool == 2 &&
      r.waiting.any fun t => decide (t + s.fld (yardA 0x48) 0 16 * 1000000 ≤ 65535000000)).isSome := by decide +kernel

def intent : Intent := ⟨0, 0, 0, false, false⟩
def wanting (ref : Nat) : State := paged ⟨ref, 0, .resident, none, 0, false⟩ 0 fun y => { y with intents := [intent] }

theorem test_intent : ((wanting 1).yard.intents.find? fun i => i.core == 0 && !i.granted && !i.busy) = some intent ∧
    (wanting 1).entry (seqOf []) 0 = 0 ∧ (((wanting 1).cancelSpill 2 0).kvPage 2 0).st = .resident ∧
    after (.writeIntent 0) (wanting 1) (fun t => t.yard.intents.any fun j => j.granted) := by decide +kernel
theorem test_intent_shared : (((wanting 2).cancelSpill 2 0).kvPage 2 0).ref = 2 ∧
    after (.writeIntent 0) (wanting 2) (fun t => t.yard.intents.any fun j => j.busy) := by decide +kernel
theorem test_cow : let y : Transfer := ⟨.cow, 0, 0, 2, 0, 1, 0, some 0, 0⟩
    let s := paged ⟨2, 1, .resident, none, 0, false⟩ 0 fun x => { x with transfers := [y], intents := [{ intent with busy := true }] }
    (s.yard.transfers.find? fun t => t.kind = .cow && t.core == some 0) = some y ∧ s.seq 0 = some (seqOf []) ∧ s.poison = [] := by
  decide +kernel
theorem test_lookahead : let x := { seqOf [] with nextPos := [(0, 1)] }
    let s := memOf (rsAtD attF x began) [(listA, 4, 0x80000001)]
    (((walkOf x (rsB attF)).drop 0).take 5) = [0] ∧ isAway (s.entry x 0) = true ∧ (s.core 0).rs.ahead = [] ∧
    isPage ((rsAtD attF x began).entry x 0) = true ∧ ((rsAtD attF x began).kvPage 2 0).pin < 255 := by decide +kernel

/-- A fetch of entry 0 into page 1, from a record of an empty page (PAGE_BYTES 0). -/
def fetching : State :=
  ((paged KvPage.reset 0x80000003 fun x => { x with
    transfers := [⟨.fetch, 0, 0, 2, 0, 1, 3, none, 0⟩], swap := [(3, ⟨false, 0, 1, 0, false, 0⟩)] }).setFld (poolA 2 0) 16 12 0).wr (poolA 2 8) 0

theorem test_fetch_done : (fetching.yard.transfers.find? fun t => t.kind ≠ .cow && t.seq == 0 && t.entry == 0) =
      some ⟨.fetch, 0, 0, 2, 0, 1, 3, none, 0⟩ ∧ fetching.recGood 2 3 = true ∧ (seqOf []).pre = .inPlace ∧ (seqOf []).lost = none := by
  decide +kernel
theorem test_written_out : let s := modelled.putSeq 0 { seqOf [] with pre := .writing } |>.withYard fun y => { y with writeOuts := [⟨0, [], 3, 0⟩] }
    s.poison = [] ∧ (s.yard.writeOuts.find? fun w => w.seq == 0) = some ⟨0, [], 3, 0⟩ ∧ (s.seq 0).isSome := by decide +kernel
theorem test_seq_restored : let x := { seqOf [] with pre := .restoring }
    let s := memOf (modelled.putSeq 0 x) []
    x.pre = .restoring ∧ (s.entries x).all (fun e => !isAway e.2) = true := by decide +kernel
theorem test_spilled : let s := paged ⟨1, 0, .draining, some 0, 0, false⟩ 0 fun y => { y with spills := [⟨2, 0, 0, 0, 3, 0⟩] }
    (s.yard.spills.find? fun z => z.pool == 2 && z.page == 0) = some ⟨2, 0, 0, 0, 3, 0⟩ ∧ s.seq 0 = some (seqOf []) := by decide +kernel
theorem test_flush : up.ownTakes (pfxA 0x60) ∧
    after (.pfxFlush 0xF1A50100) up (fun t => t.yard.flush == some none) ∧
    after .pfxFlushDone (up.withYard fun y => { y with flush := some none }) (fun t => t.yard.flush.isNone) := by decide +kernel
theorem test_retire : up.frameSt 9 = .unassigned ∧ (9 ∉ up.yard.retiring) ∧
    after (.frameRetireRequest 7) (assembling 1) (fun t => t.yard.retiring == [7]) ∧
    after (.frameRetireRequest 9) (up.setFrameSt 9 .yardArea) (fun t => t.yard.retiring == [9]) := by decide +kernel

/-! ### Media (12) -/

/-- Ring 1 of context 0 lies at 50000h and announces this record. -/
def announced (s : State) (l : List (Nat × Nat)) : State :=
  let s := memOf (s.wr (cr 0 0x60) 0x50000) [(0x50000, 64, fb l)]
  s.setCtx 0 { s.ctx 0 with tails := [(1, 1)] }

def auF : List (Nat × Nat) := [(0, 1), (4, 16), (8, 0x77), (16, 0x3000)]
def auRec (l : List (Nat × Nat)) : AuRec := ⟨0, 0, BitVec.ofNat 512 (fb l), 0⟩

theorem test_au : (announced (streaming decOf) auF).ringEntry 0 1 none = some (auRec auF) ∧
    (announced (streaming decOf) auF).auOk 0 (auRec auF).bits = true ∧ (announced (streaming decOf) auF).anyDecoder 0 = true ∧
    after (.auData 0) (announced (streaming decOf) auF) (fun t => (t.dec 0).any fun d => d.queue.length == 1) := by decide +kernel
theorem test_au_bad : (announced (streaming decOf) [(0, 1)]).auOk 0 (auRec [(0, 1)]).bits = false ∧
    (announced (streaming decOf) [(0, 1)]).ringEntry 0 1 none = some (auRec [(0, 1)]) := by decide +kernel
theorem test_au_end : (announced (streaming decOf) [(0, 2)]).ringEntry 0 1 none = some (auRec [(0, 2)]) ∧
    endOk (auRec [(0, 2)]).bits = true ∧ after (.auEnd 0) (announced (streaming decOf) [(0, 2)]) (fun t => t.notices.length == 1) := by
  decide +kernel

def intraPic : PicInfo :=
  { supported := true, w := 64, h := 2, depth := 8, chroma := 1, reference := true, rap := true, rasl := false, hidden := [],
    existing := none, ctu := 64, lost := [], intra := true, ref0 := none }

def queued : DecStream := { decOf with queue := [auRec auF] }

theorem test_dispatch_pic : let s := streaming queued
    s.blockGoes .dec 0 = true ∧ s.frozen .dec 0 = false ∧ s.bit (ro .dec 0 0x40) 0 = false ∧ s.decReady 0 queued = true ∧
    s.decFirst 0 queued = true ∧ picBeyond queued intraPic = false ∧ queued.unused.length = 2 ∧ s.poison = [] ∧ s.latent = [] ∧
    after (.decodeDispatch 0 0 intraPic) s (fun t => t.bit (ro .dec 0 0x40) 0) ∧
    after (.decodeDispatch 0 0 { intraPic with rap := false }) s (fun t => t.notices.length == 1) := by decide +kernel

/-- A SCALE tap of one output row whose progress word is at 6000h and whose credit word is at 7000h. -/
def tapF : List (Nat × Nat) := [(4, 2), (6, 1), (12, 2), (14, 2), (16, 0x8000), (24, 64), (28, 1), (32, 0x6000), (40, 0x7000)]
def tapC : TapCfg := tapOf (leBytes 96 (fb tapF))

/-- A picture in progress on decoder core 0, with tap 2. -/
def picOf (x : PicTap) : Picture :=
  { entry := auRec auF, core := 0, info := intraPic, stale := false, number := 0, serial := 0, hidden := [], buf := 0, taps := [x],
    overrun := false, linked := [] }

def tapped (x : PicTap) (n : Word) : DecStream := { decOf with pic := some (picOf x), taps := [(2, ⟨tapC, n⟩)] }
def fresh : PicTap := ⟨2, tapC, false, false, 0, 0⟩

theorem test_picture_done : let x := { fresh with begun := true }
    (picOf x).taps.all (fun t => t.begun && (!t.writes || t.done == up.tapTotal (picOf x) t.cfg)) = true ∧
    (streaming (tapped x 0)).linkedTo 0 0 = [] ∧ (streaming (tapped x 0)).frozen .dec 0 = false ∧
    after (.pictureDone 0 [1]) (streaming (tapped x 0)) (fun t => t.notices.length == 1) := by decide +kernel
theorem test_tap_start : let s := on (streaming (tapped fresh 0)) (slotOf .ttb 0)
    (s.dec 0).isSome ∧ s.blockGoes .ttb 0 = true ∧ s.slotFree tapC 0 = true ∧
    (on (streaming (tapped fresh 1)) (slotOf .ttb 0)).slotFree tapC 1 = false ∧
    after (.tapPictureStart 0 2) s (fun t => ((t.dec 0).bind DecStream.pic).any fun p => p.taps.any fun t => t.begun && t.writes) := by
  decide +kernel
theorem test_tap_row : let x := { fresh with begun := true, writes := true }
    let s := on (streaming (tapped x 0)) (slotOf .ttb 0)
    x.done < s.tapTotal (picOf x) tapC ∧ s.frozen .ttb 0 = false ∧ s.tapNeeds (picOf x) tapC 0 ≤ 2 ∧ (picOf x).info.h = 2 := by
  decide +kernel

/-- The encode stream of `test_open_enc`, bound to ring 1 or linked to stream 0. -/
def encOf (linked : Bool) (pics : List EncPic) : EncStream :=
  { ctx := 0, openSq := 0, codec := 0, pool := 3, param := { encParamOf (media.load 0x1000 64) with linked := linked }, bufs := [],
    queue := [], pics := pics, count := 0, encoded := 0, others := 0, wantIdr := true, hist := 0, vectors := [], recent := [], outPos := 0, lastCore := 0,
    closing := none, drainTo := none }

def frameF : List (Nat × Nat) := [(0, 3), (4, 384), (16, 0x3000), (32, 0x4000), (40, 16), (42, 16), (44, 16)]
def encPic : EncPic := ⟨0x77, false, false, none, 0, 0, 0, some 0, 0, false⟩

theorem test_enc_frame : let s := announced (media.setEnc 0 (encOf false [])) frameF
    s.ringEntry 0 1 none = some (auRec frameF) ∧ s.frameRecOk 0 (auRec frameF).bits = true ∧ s.anyEncoder 0 = true ∧
    s.ringBlocked 0 = false ∧ s.poison = [] ∧ (encOf false []).param.ring = 1 := by decide +kernel
theorem test_enc_linked : let s := (streaming (tapped fresh 0)).setEnc 1 (encOf true [])
    s.linkedTo 0 0 = [1] ∧ handleIdx (encOf true []).param.src = 0 ∧
    (((streaming (tapped fresh 0)).setEnc 1 (encOf true [encPic, encPic])).linkedTo 0 0 = [1]) := by decide +kernel
theorem test_enc_done : let s := media.setEnc 0 (encOf false [encPic])
    s.blockGoes .enc 0 = true ∧ s.frozen .enc 0 = false ∧ (encOf false [encPic]).rateAllows 0 4 = true ∧
    (encOf false [encPic]).param.outBytes = 0x100000 := by decide +kernel

theorem test_tap_waits : checked (streaming (tapped fresh 0)) [(16, 2), (17, 1)] 0x0B (fun u d =>
    (u.tapCheck d).isNone && (u.decHandle 0 0).any fun x => x.pic.isSome) := by decide +kernel

/-! ### Cameras (13) -/

theorem test_phy_cfg : let a := ro .csi 0 0x40
    up.ownTakes a ∧ a ∉ up.rwl ∧
    after (.csiPhyCfgWrite 0 0x03200000) up (fun t => t.fld a 19 13 == 100 && t.rwl == [a]) := by decide +kernel

/-- A camera of 16 × 16 RAW8 pixels on port 0, without outputs. -/
def camP : CamParam :=
  { camParamOf (descOf []) [] with
    exposures := 1, width := 16, height := 16, vcs := [0, 0, 0], dts := [0x2A, 0, 0], frameUs := 1000, firstMs := 1 }

def camOf' (frames : List CamFrame) : CamStream :=
  { ctx := 0, sq := 0, pool := 3, p := camP, bufs := [], frames := frames, begun := 1, okCount := 0, others := 0,
    written := 0, checked := [0], openedAt := 0, deskewLogged := false, presentLogged := false, closing := none }

def frameOf : CamFrame :=
  { number := 0, gts := 0, lines := [], seen := [], ends := [], damaged := [], isDamaged := false, overflow := false, ended := false,
    dispatched := false, discard := none, writes := false, overrun := false, rows := 0, yuvRows := 0, lineNo := 0, serial := 5, emb := 0,
    linked := [] }

/-- Port 0 is in this state, with the stream under index 0. -/
def cam (st : Nat) (frames : List CamFrame) : State :=
  ((on (on regioned (slotOf .csi 0)) (slotOf .isp 0)).setPortState 0 st).setCam 0 (camOf' frames)

theorem test_deskew : let s := (cam pArmed []).setFld (ro .csi 0 0x40) 19 13 2000
    s.blockGoes .csi 0 = true ∧ s.needsDeskew 0 = true ∧ s.deskewed 0 = false ∧
    after (.csiDeskewSequence 0 3) s (fun t => t.deskewed 0) := by decide +kernel
theorem test_frame_start : (cam pArmed []).camOf 0 = some (0, camOf' []) ∧ (cam pArmed []).needsDeskew 0 = false ∧
    (cam pArmed []).portState 0 = pArmed ∧ (cam pArmed []).blockOn .csi 0 = true ∧
    after (.frameStart 0 0) (cam pArmed []) (fun t => t.portState 0 == pStreaming) := by decide +kernel
theorem test_csi_line : let s := cam pStreaming [frameOf]
    s.camOf 0 = some (0, camOf' [frameOf]) ∧ (camOf' [frameOf]).p.exposureOf 0 0x2A = some 0 ∧ lineSamples 0x2A 16 = 16 ∧
    after (.csiPacket 0 0 0x2A 0 true (List.replicate 16 7) false) s (fun t => (t.cam 0).any fun c => c.frames.any fun f =>
      f.lines.look? 0 == some (List.replicate 16 7)) := by decide +kernel
theorem test_frame_end : (camOf' [frameOf]).open? = some frameOf ∧
    after (.frameEnd 0 0) (cam pStreaming [{ frameOf with seen := [(0, 16)] }]) (fun t => (t.cam 0).any fun c => c.frames.any fun f => f.ended) := by
  decide +kernel

/-- The same frame with its first line, dispatched, with the table of region 0 held. -/
def lined (f : CamFrame) : State :=
  { cam pStreaming [f] with regionHolds := [⟨0, 0, 5⟩] }
def line1 : CamFrame := { frameOf with lines := [(0, List.replicate 16 7)] }

theorem test_frame_dispatch : (cam pStreaming [line1]).frozen .isp 0 = false ∧ (cam pStreaming [line1]).blockGoes .isp 0 = true ∧
    ((cam pStreaming [line1]).region 0).any (fun e => (camOf' []).checked.contains e.gen) = true ∧ (cam pStreaming [line1]).poison = [] ∧
    after (.frameDispatch 0) (cam pStreaming [line1]) (fun t => t.bit (ro .isp 0 0x40) 0) := by decide +kernel
theorem test_isp_line : (lined { line1 with dispatched := true }).heldBuf 0 5 = some 0x10000 ∧
    after (.ispLine 0) (lined { line1 with dispatched := true }) (fun t => (t.cam 0).any fun c => c.frames.any fun f => f.lineNo == 1) := by
  decide +kernel
theorem test_frame_complete : let f := { line1 with dispatched := true, ended := true, lineNo := 16 }
    (cam pStreaming [f]).linkedTo 0 0 = [] ∧ (camOf' [f]).p.height = 16 ∧
    after (.frameComplete 0) (cam pStreaming [f]) (fun t => t.notices.length == 1) := by decide +kernel
theorem test_cam_loss : let s := { cam pArmed [] with now := 2000000 }
    (camOf' []).openedAt + (camOf' []).p.firstMs * 1000000 ≤ s.now ∧
    (let u := { cam pStreaming [] with now := 2000000 }
     u.portState 0 = pStreaming ∧ (u.port 0).lastSot + 2 * (camOf' []).p.frameUs * 1000 ≤ u.now) ∧
    (let u := (cam pStreaming []).setFld (ro .csi 0 0x48) 0 1 1
     u.bit (ro .csi 0 0x48) 0 = true ∧ u.bit (ro .csi 0 0x48) 1 = false ∧ u.portState 0 = pStreaming) := by decide +kernel
theorem test_cci : up.ownTakes (ro .csi 0 0x64) ∧ up.bit (cciStat 0) 0 = false ∧
    after (.cciWrite 0 0x410) up (fun t => (t.port 0).cci.isSome) ∧ after (.cciRead 0 0x810) up (fun t => (t.port 0).cci.isSome) ∧
    after (.cciSeq 0 0x02030C00) up (fun t => t.fld (cciStat 0) 8 8 == 3) ∧ (up.setFld (cciStat 0) 0 1 1).bit (cciStat 0) 0 = true := by
  decide +kernel

def cciJob (read wait : Bool) (left : Nat) : CciJob := ⟨read, 3, left, true, wait, true, 0x10, 0, false, 1, 0⟩
def cci (j : CciJob) : State := (cam pStreaming [{ frameOf with ended := true }]).setPort 0 ⟨some j, 0, []⟩

theorem test_cci_jobs : (cciJob false true 0).feSeen = true ∧
    after (.cciSeqAtFeStart 0) (cci (cciJob false true 0)) (fun t => (t.port 0).cci == some (cciJob false false 0)) ∧
    after (.cciTransferDone 0 false false 5) (cci (cciJob true false 0)) (fun t => t.rd (ro .csi 0 0x70) == 5) ∧
    after (.cciTransferDone 0 false false 5) (cci (cciJob false false 0)) (fun t => (t.port 0).cci.isNone) ∧
    after (.cciTransferDone 0 false false 5) (cci (cciJob false false 2)) (fun t => t.fld (cciStat 0) 8 8 == 4) := by decide +kernel

/-! ### The scanner port (14) -/

/-- The port and the motor are configured: 300 dpi, a grey line of 128 samples, HWM 4, cable in; the PARAM block is at 1000h. -/
def scanner : State :=
  let s := on (on (on (pooled (up.setFrameSt 8 (.pool 3)) 3 3 [8]) (slotOf .scn 0)) (slotOf .mot 0)) (slotOf .afe 0)
  let s := ((s.wr (scn 0x40) (0x01000802)).wr (scn 0x44) 6000).wr (mot 0x44) 1200
  let s := ((s.wr (scn 0x4C) 4).setFld (scn 0x50) 8 1 1).wr (mot 0x40) 0x0801
  memOf s [(0x1000, 8, 0x1000000), (0x1008, 4, 4096), (0x100C, 1, 1), (0x1012, 2, 8), (0x1014, 4, 16), (0x1018, 8, 0x2000)]

def scanF : List (Nat × Nat) := [(16, 300), (18, 1), (20, 3), (32, 0x1000), (40, 64)]

theorem test_scan_start : checked scanner scanF 0x0D (fun u d => (u.scanCheck d).isNone && ([Blk.scn, .afe, .mot].all fun b => u.blockOn b 0) && !u.bit (scn 0x50) 10) ∧
    checked (scanner.setFld (scn 0x50) 10 1 1) scanF 0x0D (fun u d => (u.scanCheck d).isNone && u.bit (scn 0x50) 10) := by
  decide +kernel

/-- The open job. -/
def jobOf : ScanJob := scanJobOf scanner (descOf ((0, 0x0D) :: scanF))
def inJob (st : Nat) (f : Scanner → Scanner) : State := ((scanner.setScanState st).withScan fun c => f { c with job := some jobOf })

theorem test_scan_abort : checked (inJob sFeed id) [] 0x0E (fun u d => (u.scanAbortCheck d).isNone && u.scanState == sFeed) ∧
    checked (inJob sWait id) [] 0x0E (fun u d => (u.scanAbortCheck d).isNone && u.scanState == sWait) ∧
    (withDesc (inJob sWait id) (descOf [(0, 0x0E)])).scanAbortMode 0 0 = some 0 ∧
    (withDesc (inJob sWait id) (descOf [(0, 0x0E), (16, 1)])).scanAbortMode 0 0 = some 1 ∧
    after (.scanAbortAfterPage 0 0) (withDesc (inJob sFeed id) (descOf [(0, 0x0E)])) (fun t => t.scan.job.any fun j => j.abort0) := by
  decide +kernel
theorem test_sheet_pick : let s := (inJob sWait id).setFld (scn 0x50) 3 1 1
    s.scanInput 0 = true ∧ s.scanInput 2 = false ∧ s.bit (scn 0x50) 9 = false ∧ s.natAt jobOf.credit 4 = 0 ∧ jobOf.nslot = 1 ∧
    jobOf.onButton = false ∧ s.blockGoes .scn 0 = true ∧ s.ringBlocked 0 = false ∧
    after .sheetPick s (fun t => t.scanState == sFeed && t.scan.sheets.length == 1) := by decide +kernel
theorem test_tray : (inJob sWait id).scanInput 0 = false ∧ jobOf.waitSince + jobOf.trayMs * 1000000 ≤ (inJob sWait id).now ∧
    after .trayWaitExpiry (inJob sWait id) (fun t => t.scan.job.isNone) := by decide +kernel

def sheetOf : Sheet :=
  { page := 0, gts := none, lead := some 0, trail := none, front := ⟨0, 0, 0, false⟩, back := ⟨0, 0, 0, false⟩, rows := [], ended := none }

theorem test_ring_line : let s := inJob sScan fun c => { c with sheets := [sheetOf], ring := [⟨0, none, none, []⟩] }
    (s.page (slotOf .scn 0)).perturb = 0 ∧ s.frozen .scn 0 = false ∧ after .ringLineProcessed s (fun t => t.scan.ring.isEmpty) := by
  decide +kernel
theorem test_eject_clear : after .ejectDone (inJob sEject fun c => { c with line := 4095 }) (fun t => t.scanState == sWait) ∧
    after .clearDone (inJob sClear fun c => { c with line := 4095, clearFrom := some 0 }) (fun t => t.scanState == sWait) ∧
    (let s := inJob sEject fun c => { c with line := 4095, job := some { jobOf with maxPages := 1, picked := 1 } }
     s.scanState = sEject ∧ s.scan.countFrom + s.fld (mot 0x4C) 0 12 ≤ s.scan.line) := by decide +kernel
theorem test_line_feed : let s := (inJob sFeed id).setMotor mRun
    s.motPhase = mRun ∧ s.frozen .mot 0 = false ∧ after (.scanLineStart []) s (fun t => t.scan.line == 1) := by decide +kernel
theorem test_line_scan : let s := ((inJob sScan fun c => { c with sheets := [sheetOf], line := 5000 }).wr (afe 0x70) 0xFFFF0000).setMotor mRun
    let u := ((s.installShadow .afe 0).wr (mot 0x50) 5000).withScan fun c => { c with line := 5001 }
    let v := u.setObMeans [List.replicate 128 7]
    s.steps = 1 ∧ u.curSheet = some sheetOf ∧ scansFront jobOf = true ∧ scansBack jobOf = false ∧ u.inSpan sheetOf 0 5000 = true ∧
    v.obFails [List.replicate 128 7] [0] = [] ∧ v.wrFails jobOf [List.replicate 128 7] [0] = [] ∧ 0 < v.maxNative jobOf := by
  decide +kernel
theorem test_restart : let s := { (inJob sBackup id).setMotor mSettle with now := 4095000 }
    s.settled = true ∧ s.motPhase = mSettle ∧ after .motorSettleDone s (fun t => t.motPhase == mReverse) ∧
    after .motorSettleDone (s.withScan fun c => { c with settle2 := true }) (fun t => t.motPhase == mWait) ∧
    after .motorReverseDone (s.setMotor mReverse) (fun t => t.scan.settle2) ∧
    after .ringLwmReached (s.setMotor mWait) (fun t => t.motPhase == mReplay) := by decide +kernel
theorem test_inputs : (inJob sFeed id).scanInput 0 = false ∧ (inJob sFeed id).bit (scn 0x64) 0 = false ∧
    after (.paperInputChange 0 true 0) (inJob sFeed id) (fun t => t.scanInput 0) ∧
    (let s := inJob sFeed fun c => { c with sheets := [{ sheetOf with lead := none }] }
     s.curSheet = some { sheetOf with lead := none } ∧ s.scanInput 1 = false ∧
     after (.paperInputChange 1 true 3) s (fun t => t.scanState == sScan)) ∧
    (let s := (inJob sScan fun c => { c with sheets := [sheetOf] }).setFld (scn 0x50) 4 1 1
     s.curSheet = some sheetOf ∧ s.scanInput 1 = true ∧
     after (.paperInputChange 1 false 3) s (fun t => t.scanState == sScan)) ∧
    (inJob sScan id).scanInput 2 = false ∧
    after (.paperInputChange 2 false 0) ((inJob sWait id).setFld (scn 0x50) 5 1 1) (fun t => !t.scanInput 2) ∧
    (inJob sFeed id).scanInput 3 = false := by decide +kernel
theorem test_button_up : after (.scanButton false) (inJob sWait id) (fun t => !t.scanInput 4) := by decide +kernel
theorem test_cable : (inJob sFeed id).scanState ≠ sFault ∧ (inJob sFault fun c => { c with unplugged := true }).scanState = sFault := by
  decide +kernel
theorem test_misfeed : let s := inJob sFeed fun c => { c with line := 4095 }
    s.fld (mot 0x48) 0 12 ≤ s.scan.line ∧
    (let s := inJob sScan fun c => { c with line := 9000, sheets := [sheetOf] }
     s.curSheet = some sheetOf ∧ s.maxNative jobOf + s.fld (mot 0x48) 16 12 ≤ s.scan.line - s.scan.countFrom) := by decide +kernel
theorem test_fault_clr : up.ownTakes (scn 0x60) ∧
    (up.setScanState sFault).scanState = sFault := by decide +kernel
theorem test_afe_cal : up.ownTakes (afe 0x78) ∧ up.scanState = sIdle ∧
    up.scanInput 1 = false ∧ after (.afeCalDark 0x101) up (fun t => t.scan.cal == some (1, 1)) ∧
    after (.afeCalWhite 0x202) up (fun t => t.scan.cal == some (2, 2)) ∧
    after (.afeCalOffset 3) up (fun t => t.scan.cal == some (3, 1)) := by decide +kernel
theorem test_dark : let s := (scanner.setFld (scn 0x40) 4 14 66).withScan fun c => { c with cal := some (1, 1) }
    s.npix = 66 ∧ s.scan.cal = some (1, 1) ∧ calMean [List.replicate 6 (List.replicate 66 9)] 1 0 0 = 9 := by decide +kernel

/-! ### Sample pipelines (15) -/

/-- SMP is enabled; its run block is at 1000h: one slot at 4000h, images of 1 × 1 pixel of one channel. -/
def smp : State :=
  memOf (on (pooled up 3 5 [8]) (slotOf .smp 0))
    [(0x1000, 8, 0x4000), (0x1008, 4, 256), (0x100C, 1, 1), (0x100E, 1, 1), (0x1010, 2, 1), (0x1012, 2, 1), (0x101C, 4, 3),
     (0x1040, 8, 0x2000)]
def smpF : List (Nat × Nat) := [(32, 1), (36, 1), (40, 0x3000), (48, 0x1000), (56, 1)]

theorem test_smp_run : checked smp smpF 0x0F (fun u d => (u.smpCheck d).isNone && u.blockOn .smp 0) ∧
    checked up smpF 0x0F (fun u d => u.smpCheck d == some .invalidDescriptor) ∧
    after (.smpRun 0 0) (withDesc smp (descOf ((0, 0x0F) :: smpF))) (fun t => t.smp.runs.length == 1) := by decide +kernel

/-- A run of pipeline 0 of `n` samples in two steps of one. -/
def runOf (n next : Nat) : SmpRun :=
  { desc := descOf ((0, 0x0F) :: smpF), pipe := 0, seed := 0, epoch := 0, first := 0, steps := 2, batch := 1, n := n, dataset := 0x3000,
    block := smpBlockOf (smp.load 0x1000 128), next := next, opened := [], released := 0, notOk := 0, rejects := 0, firstBad := none, queuedAt := 0, poisoned := false }
def running (n next : Nat) (lanes : Tbl SmpLane) : State := { smp with smp := ⟨[runOf n next], lanes⟩ }

theorem test_issue : (running 2 0 []).pipeRun 0 = some (runOf 2 0) ∧ (runOf 2 0).more = true ∧ (running 2 0 []).blockGoes .smp 0 = true ∧
    (running 2 0 []).smpCredit (runOf 2 0) 0 = true ∧ (running 2 0 []).smpCredit (runOf 2 1) 1 = false ∧
    ((running 2 0 []).setFld (ro .smp 0 0x40) 4 1 0).smpAhead (runOf 2 0) = false ∧ (running 2 0 []).freeLane = some 0 ∧
    after (.sampleIssue 0) (running 2 0 []) (fun t => t.smp.lanes.length == 1) ∧
    ((running 0 0 []).pipeRun 0 = some (runOf 0 0)) := by decide +kernel
theorem test_sample_done : let s := running 2 1 [(0, ⟨1, 0, []⟩)]
    s.smp.lanes.look? 0 = some ⟨1, 0, []⟩ ∧ (s.smpHeader (runOf 2 1) (shuffle 0 0 2 0)).isSome ∧
    (s.smpProcess (runOf 2 1) ⟨1, 0, []⟩).isSome ∧ after (.sampleDone 0) s (fun t => t.smp.lanes.isEmpty) := by decide +kernel
theorem test_sample_header : let s := memOf (running 2 1 [(0, ⟨1, 0, []⟩)]) [(0x3000, 8, 0xC000000000000000), (0x3010, 8, 0xC000000000000000)]
    s.smpHeader (runOf 2 1) (shuffle 0 0 2 0) = none := by decide +kernel

/-! ### Power, heat and pins (17, 20) -/

/-- The governor's page shows this state, target and transit. -/
def inP (p target : Nat) (tr : Bool) : State := ((up.setPst p).setPTarget target).setTransit tr

def entersP (target : Nat) : State := (inP 0 target true).withPwr fun p => { p with entering := some 0 }

theorem test_governor : up.transit = false ∧ up.pst ≠ 4 ∧ up.computing = false ∧
    after .governorChooseState up (fun t => t.pst == 0) := by decide +kernel
theorem test_pst_enter : (entersP 1).entering = true ∧ (entersP 1).pTarget = 1 ∧ (entersP 4).entering = true ∧
    (entersP 4).pTarget = 4 := by decide +kernel
theorem test_pst_exit : (inP 2 2 false).pst = 2 ∧ (inP 2 2 false).transit = false ∧
    after (.pstateExit (some 0)) (entersP 1) (fun t => t.pTarget == 0 && t.pwr.leaving == some ⟨1, 0, 2, 0, true⟩) ∧
    after (.pstateExit (some 0)) (inP 2 2 false) (fun t => t.pTarget == 0 && t.transit) ∧
    (let s := (inP 2 2 false).wr (pwrA 0x54) 10
     (s.rd (pwrA 0x54)).toNat < exitUs s.pst ∧ after (.pstateExit none) s (fun t =>
       t.pwr.leaving == some ⟨2, 1, 1, 0, false⟩)) ∧
    (let s := (inP 2 2 false).wr64 (pwrA 0x70) 1000
     minNat? s.wakeTimes = some 1000 ∧ after .timedExit s (fun t => t.pwr.leaving == some ⟨2, 0, 3, 0, false⟩)) := by decide +kernel

/-- An exit is in progress. -/
def leavesP (x : Leaving) : State := (inP x.left x.target true).withPwr fun p => { p with leaving := some x }

theorem test_pst_exit_done : (leavesP ⟨2, 0, 2, 0, false⟩).pwr.leaving = some ⟨2, 0, 2, 0, false⟩ ∧
    (leavesP ⟨3, 1, 2, 0, false⟩).pwr.leaving = some ⟨3, 1, 2, 0, false⟩ ∧
    (let s := (leavesP ⟨4, 0, 6, 0, false⟩).setReady false
     s.p4Exit = true ∧ (s.setPhase 2).inPhase 2 = true ∧ (s.setPhase 4).inPhase 4 = true ∧
     (s.setPhase 5).inPhase 5 = true ∧ (s.setPhase 6).inPhase 6 = true) := by decide +kernel
theorem test_hold_ms : let s := { up with ctxs := [(0, { Ctx.reset with tolWrittenAt := some 0 })], gts := 300000000 }
    (s.ctx 0).tolWrittenAt = some 0 ∧ 0 + s.fld (pwrA 0x44) 24 8 * 1000000 ≤ s.gts ∧
    after (.holdMsExpiry 0) s (fun t => (t.ctx 0).tolWrittenAt == none) := by decide +kernel
theorem test_max_state : up.ownTakes (pwrA 0x44) ∧
    after (.maxStateWrite .i3c 0x01010001) (inP 2 2 false) (fun t => t.maxState == 1 &&
      t.pwr.leaving == some ⟨2, 1, 4, 0, false⟩) := by decide +kernel
theorem test_p4_wakes : let s := ((inP 4 4 false).wr64 (pwrA 0x70) 1000).wr (pwrA 0x68) 7
    s.pst = 4 ∧ s.transit = false ∧ s.ownTakes (pwrA 0x68) ∧
    after (.p4WakeI3c 8) s (fun t => t.pwr.leaving == some ⟨4, 0, 6, 0, false⟩ && !t.pins.wakeN) ∧
    after (.p4WakeEvent 1) s (fun t => t.fld (pwrA 0x50) 16 3 == 1 && t.pins.wakeN == s.pins.wakeN &&
      t.bootPhase == 2 && t.p4Exit && t.inPhase 2) ∧
    after (.p4WakeEvent 3) s (fun t => t.fld (pwrA 0x50) 16 3 == 3 && !t.pins.wakeN) := by decide +kernel
theorem test_power_sample : after (.powerSample 3000) up (fun t => t.avgDw == 3000 && t.pwr.lim == up.pwr.lim) ∧
    up.pwr.limFastAt = none ∧ after (.powerSample 3700) { up with pwr := { up.pwr with lim := 1000 } } (fun t =>
      t.pwr.lim == 900) := by decide +kernel
theorem test_govern_ms : up.ready = true ∧ up.pwr.steps = [] ∧ up.pwr.avsBad = [] ∧
    after .governMs { up with pwr := { up.pwr with lim := 1000 } } (fun t => t.pwr.lim == 1025 &&
      t.pwr.steps.look? 0 == some ⟨1025, 1, decide (up.mhz 0 < 1025), false⟩) := by decide +kernel

/-- A clock change of die 0. -/
def stepping (x : ClockStep) : State := up.withPwr fun p => { p with steps := [(0, x)] }

theorem test_clocks : (stepping ⟨500, 1, false, false⟩).pwr.steps.look? 0 = some ⟨500, 1, false, false⟩ ∧
    (stepping ⟨900, 2, true, false⟩).pwr.steps.look? 0 = some ⟨900, 2, true, false⟩ ∧
    after (.avsAck 0) (stepping ⟨500, 1, false, true⟩) (fun t => t.pwr.steps.look? 0 == none) := by decide +kernel
theorem test_avs_retry : let s := { up with now := 100000000, pwr := { up.pwr with avsBad := [(1, 0)] } }
    s.pwr.avsBad.look? 1 = some 0 ∧ after (.avsRetry 1 true) s (fun t => t.pwr.avsBad.look? 1 == none) ∧
    after (.avsRetry 1 false) s (fun t => t.pwr.avsBad.look? 1 == some 100000000) := by decide +kernel

/-- 48 readings of the same temperature in 1/16 °C. -/
def allAt (x : Int) : List (Option Int) := List.replicate 48 (some x)

theorem test_sensors : let s := up.setCap 0 900
    s.armed = true ∧
    (s.dieTemp (allAt 800) [40, 40, 40, 40] 0).1 = 800 ∧ s.tHyst < s.tThr ∧ s.tThr < s.tHot ∧ s.tHot < 1680 ∧
    after (.sensorSample (allAt 800) [40, 40, 40, 40] 2000) s (fun t => t.fld (thA 0x58) 16 16 == 2000 &&
      t.fld (thA 0x800) 0 16 == 800 && t.thermCap 1 == 1500) := by decide +kernel
theorem test_fan : let s := { up with now := 2000000000, pwr := { up.pwr with fanLowSince := some 0, fanHighSince := some 0 } }
    s.bit (thA 0x58) 8 = false ∧ (∃ x, s.pwr.fanLowSince = some x ∧ x + 2000000000 ≤ s.now) ∧
    after .fanRecovered (s.setFld (thA 0x58) 8 1 1) (fun t => !t.bit (thA 0x58) 8) := by
  refine ⟨?_, ⟨0, ?_, ?_⟩, ?_⟩ <;> decide +kernel
theorem test_pins : let s := { up with now := 1000000000, pins := { up.pins with gpio2 := true } }
    s.pins.gpio2 = true ∧ s.boot.fwRuns = true ∧ s.pins.severeAt + 1000000000 ≤ s.now ∧ s.pins.gpio3At + 500000000 ≤ s.now := by
  decide +kernel
theorem test_eff_tol : let s := { (ctxIn up stOpen).wr (cr 0 0x48) 0 with ctxs := [(0, { Ctx.reset with tolWrittenAt := some 0 })] }
    s.counts 0 = true ∧ s.latTol 0 = 0 ∧ s.effTol = 0 := by decide +kernel

/-! ### Karlund (16) -/

/-- Port 0 in this state, with this port record. -/
def klAt (st : Nat) (q : KlPort) : State := { up.setFld (klA 0 0x40) 0 3 st with now := 20000000, kl := { up.kl with ports := [(0, q)] } }

def chunk0 : Chunk := { group := 1, seq := 0, idx := 0, up := true, origin := 0, op := 1, dtype := 7, len := 4, root := 0, data := [1, 0, 0, 0], bad := [] }
def msg0 : KlMsg := { src := 1, dst := 0, epoch := 0, seq := 0, hops := 3, body := .chunk chunk0 }
def beat : Heartbeat := { pkg := 1, serial := 77, epoch := 0, st := 1, port := 0, echo := none, t3 := 0, locked := true, hops := 0, offset := 0 }
def q0 : KlPort := { KlPort.reset with replay := [msg0] }

theorem test_flits : (klAt kUp q0).klSt 0 = kUp ∧
    after (.flitReceived 0 2 0 true 1) (klAt kSuspect q0) (fun t => t.klSt 0 == kUp && (t.klPort 0).replay == [] &&
      t.rd (klA 0 0x50) == 2) ∧
    after (.flitReceived 0 0 1 true 1) (klAt kUp q0) (fun t => t.klPort 0 == q0) ∧
    after (.flitReplayTimer 0) (klAt kUp q0) (fun t => (t.klPort 0).replays == 1 && t.rd (klA 0 0x58) == 1) := by decide +kernel
theorem test_suspect : (klAt kUp { q0 with replays := 8 }).klSt 0 = kUp ∧
    (klAt kUp { q0 with replays := 8 }).klPort 0 = { q0 with replays := 8 } := by decide +kernel
theorem test_heartbeats : after (.heartbeatSend 0) (klAt kUp q0) (fun t => (t.klPort 0).hbSentAt == 20000000) ∧
    after (.heartbeatReceived 0 beat) (klAt kUp q0) (fun t => t.rd64 (klA 0 0x48) == 77 && t.fld (klA 0 0x40) 8 4 == 1) ∧
    q0.hbAt + 800000 ≤ (klAt kUp q0).now := by decide +kernel
theorem test_train : (klAt kDown q0).klSt 0 = kDown ∧ q0.downAt + 10000000 ≤ (klAt kDown q0).now ∧
    after (.klRetrain 0) (klAt kDown q0) (fun t => t.klSt 0 == kTraining) ∧ (klAt kTraining q0).klSt 0 = kTraining := by
  decide +kernel
theorem test_usable : let s := ((klAt kUp q0).setFld (klA 0 0x40) 16 2 1).setFld (klA 0 0x44) 0 16 0
    s.nowUsable 0 = true ∧ after (.klHoldoffExpiry 0) s (fun t => t.portUsable 0) ∧
    (let u := s.setFld (klA 0 0x40) 3 1 1
     u.usableNow ≠ u.kl.usableSeen ∧ u.text.seqs = []) := by decide +kernel

/-- A MEMBER with package number 0, port 0 UP and usable; its route to package 1 is port 0, package 1 is a member. -/
def member : State :=
  let s := (((klAt kUp KlPort.reset).setFld (klrA 0x40) 4 2 csMember).setFld (klA 0 0x40) 3 1 1).setFld (klrA 0x40) 16 16 0
  { s with active := (s.active.put (klrA 0x904) 1).put (klrA 0x818) 1 }

theorem test_routes : member.routePorts 1 = [0] ∧ member.memberValid 1 = true ∧ member.consist = csMember ∧ member.pkgId = 0 ∧
    member.portUsable 0 = true := by decide +kernel
theorem test_message : msg0.dst.val = member.pkgId ∧ msg0.epoch = BitVec.ofNat 16 member.consistEpoch ∧
    msg0.seq = member.kl.rxNext.look 0 msg0.src ∧ member.kl.rxHeld = [] ∧
    after (.klMessageReceived 0 msg0) member (fun t => t.kl.inbox == [(1, .chunk chunk0)]) := by decide +kernel
theorem test_write_message : let s := (member.setFld (klrA 0x64) 0 17 0).setFld (klrA 0x68) 0 17 1
    s.inPeerWin 64 1 = true ∧ s.kl.rxHeld = [] ∧ s.consist = csMember ∧
    after (.klMessageReceived 0 { msg0 with body := .reply 5 [9] [] }) (s.withKl fun k => { k with peerAccs := [⟨5, 1, 64, none, 1⟩] })
      (fun t => t.kl.peerData == [9] && t.kl.peerAccs.isEmpty) := by decide +kernel
theorem test_stale : (4 : Half) ≠ BitVec.ofNat 16 member.consistEpoch ∧
    epochDiff 0xFFFF (BitVec.ofNat 16 member.consistEpoch) < 0 ∧ member.kl.staleLogged = [] := by decide +kernel
theorem test_forward : ({ msg0 with dst := 1 } : KlMsg).dst.val ≠ member.pkgId ∧ (1 < msg0.hops.val) ∧
    ({ msg0 with dst := 1, hops := 1 } : KlMsg).hops.val ≤ 1 := by decide +kernel

/-- Byte 64 of package `p`. -/
def peer (p : Nat) : Word64 := BitVec.ofNat 64 (3 * 2 ^ 62 + p * 2 ^ 56 + 64)

theorem test_peer : addrSpace (peer 0) = some (.peer 0 64) ∧ addrSpace (peer 1) = some (.peer 1 64) ∧
    addrRangeOk (peer 0) 1 = true ∧ addrRangeOk (peer 1) 1 = true ∧ (0 : Nat) = member.pkgId ∧
    after (.peerAccess (peer 0) (some [9]) 0) member (fun t => t.mem == [(64, 9)] && t.kl.peerStatus == some 0) ∧
    member.peerRefusal 2 = some .deviceFault ∧ member.peerRefusal 1 = none := by decide +kernel
theorem test_retry : let s := member.withKl fun k => { k with retry := [({ msg0 with dst := 1 }, 1, 0)] }
    s.now = 20000000 ∧ 1 + 10000 ≤ s.now ∧ s.routePorts 1 = [0] := by decide +kernel

/-! ### Membership and collectives (16) -/

/-- KLR's shadow words name this package as number 0, a valid member, under this CONSIST_EPOCH. -/
def installs (s : State) (epoch : Nat) : State :=
  (((s.wr (klrA 0x50) (BitVec.ofNat 32 epoch)).wr64 (klrA 0x800) Config.serial).wr (klrA 0x808) 1)

theorem test_install : up.ownTakes (klrA 0x38) ∧ up.text.seqs = [] ∧
    up.yard.swap = [] ∧ ((up.wr (klrA 0x50) 0xFFFF)).installRefusal = 1 ∧
    (let s := { member with active := member.active.put (klrA 0x808) 1 }
     s.consistEpoch = 0 ∧ (s.wr (klrA 0x50) 2).fld (klrA 0x50) 0 16 ≠ s.consistEpoch) := by decide +kernel
theorem test_install_taken : (installs up 2).rd64 (klrA 0x800) = Config.serial →
    (installs up 2).installRefusal = 0 := by
  intro h
  have e : (installs up 2).fld (klrA 0x50) 16 4 = 0 := by decide +kernel
  have d : epochDiff (BitVec.ofNat 16 ((installs up 2).fld (klrA 0x50) 0 16)) (BitVec.ofNat 16 (installs up 2).consistEpoch) = 2 := by
    decide +kernel
  have v : (installs up 2).fld (klrA 0x808) 0 1 = 1 := by decide +kernel
  have c : (installs up 2).consist = 0 := by decide +kernel
  simp only [State.installRefusal, e, d]
  simp [v, c, h, csQuarantine]
theorem test_waits : let s := member.withKl fun k => { k with holding := some (2, 0), fenceSince := some 0 }
    0 + s.installNs ≤ s.now + 1000000000000 ∧ s.kl.holding = some (2, 0) ∧ s.consist = csMember ∧
    (let u := { s.setFld (klrA 0x40) 0 4 3 with now := s.installNs }
     u.pkgId ≠ 0 ∧ u.kl.fenceSince = some 0 ∧ 0 + u.installNs ≤ u.now) := by decide +kernel

/-- Group 1 has two members, this package's rank is 1, and context 0 may use it; the core's descriptor is an
ALL_REDUCE of one INT32 element. -/
def collAt (op : Nat) : State :=
  let s := bayed ((on busy (slotOf .coll 0)).wr (collA 0x810) 0x102) [(0x400, [(0, op), (3, if op ≤ 2 then 7 else 0), (4, 1), (8, 0x1000), (16, 0x2000), (24, 8)])]
  s.updCore 0 fun k => { k with coll := [⟨0x400, 0, 0, 0⟩] }

theorem test_coll_launch : busy.tcRuns 0 0 = true ∧ (busy.core 0).coll.length < 4 ∧
    after (.collLaunch 0 0 0x400) busy (fun t => (t.core 0).coll == [⟨0x400, 0, 0, 1⟩]) ∧
    (let s := busy.updCore 0 fun k => { k with coll := List.replicate 4 ⟨0, 0, 0, 0⟩ }
     s.tcRuns 0 0 = true ∧ after (.collLaunch 0 0 0x400) s (fun t => ((t.core 0).tidy 0).stall == .coll 0x400)) := by decide +kernel
theorem test_coll_start : ∀ op ∈ [1, 2, 3, 4], let s := collAt op; let d := collDesc (s.bayLoad (kBay 0 0x400) 64)
    s.gangOf 0 = some (gangOf 1 .running [0]) ∧ s.blockGoes .coll 0 = true ∧ s.frozen .coll 0 = false ∧
    (s.core 0).coll[(s.opsOf 9 (s.core 0).idx).length]? = some ⟨0x400, 0, 0, 0⟩ ∧ d.malformed = false ∧ d.op = op ∧
    s.groupAllows d.group 0 = true ∧ d.lenOk (s.groupN d.group) = true ∧ s.consist = csSolo ∧
    (s.collAccs d 0).all (fun a => a != .denied && a != .waits) = true := by decide +kernel
theorem test_coll_started : after (.allReduce 0) (collAt 1) (fun t => t.kl.ops.any fun o =>
    o.rank == 1 && o.status == some (BitVec.ofNat 8 Status.deviceFault.code)) ∧
    after (.reduceScatter 0) (collAt 2) (fun t => t.kl.ops.length == 1) ∧
    after (.allGather 0) (collAt 3) (fun t => t.kl.ops.length == 1) ∧
    after (.broadcast 0) (collAt 4) (fun t => t.rd (collA 0x814) == 1) := by decide +kernel

/-- The ALL_REDUCE, started, of four bytes; its neighbour's chunk has arrived. -/
def op0 : CollOp :=
  { core := 0, gang := 9, idx := 0, ctx := 0, addr := 0x400, op := 1, dtype := 7, group := 1, seq := 0, rank := 1, n := 2, root := 0,
    len := 4, src := 0x1000, dst := 0x2000, sig := none, timeoutUs := 5, resAddr := 0, startedAt := 0, next := 0, written := [],
    seen := [], copies := [chunk0], processed := 0, retrans := 0, status := none }
def reducing (o : CollOp) : State :=
  { busy with mem := [(0x1000, 3)], now := 5000, kl := { up.kl with inbox := [(1, .chunk chunk0)], ops := [o] } }

theorem test_coll_chunk : let s := reducing op0
    (s.kl.ops.find? fun o => o.group == chunk0.group && o.seq == chunk0.seq) = some op0 ∧
    (chunk0.up, chunk0.origin, chunk0.idx) ∉ op0.seen ∧ op0.rank + 1 = op0.n ∧
    collSum 7 5 [1, 0, 0, 0] [3, 0, 0, 0] = (0, [4, 0, 0, 0]) ∧ (s.ownChunk op0 0).data = [3, 0, 0, 0] ∧
    after .collChunkReceived (reducing { op0 with seen := [(true, 0, 0)] }) (fun t => t.kl.inbox == [] && t.mem == [(0x1000, 3)]) ∧
    after .collChunkReceived (reducing { op0 with root := 1 }) (fun t => t.kl.ops.any fun y =>
      y.status == some (BitVec.ofNat 8 Status.invalidDescriptor.code)) := by decide +kernel
theorem test_coll_ends : let s := reducing op0
    (s.kl.ops.find? fun o => o.group == 1) = some op0 ∧
    (op0.copies.find? fun c => c.up == true && c.origin == 0 && c.idx == 0) = some chunk0 ∧ op0.complete = false ∧
    op0.timeoutUs ≠ 0 ∧ op0.startedAt + op0.timeoutUs * 1000 ≤ s.now ∧
    ({ op0 with next := 1, written := [(0, 0)] } : CollOp).complete = true := by decide +kernel
theorem test_coll_done : after (.collDone 1) (reducing { op0 with next := 1, written := [(0, 0)] }) (fun t =>
    t.kl.ops.isEmpty && t.rd (collA 0x44) == 1) := by decide +kernel

/-! ### Couplings, stacks, time (16, 18) -/

theorem test_lanes : (5 < cplBundles 0) ∧ up.cpl.failed = [] ∧ up.cpl.out = [] ∧ up.cpl.lanes = [] ∧
    up.lanesOut (cplLink 0) (cplDir 0 false) 5 < 2 ∧
    (let s := { up with cpl := { up.cpl with lanes := [(0, 0, 5, 1), (0, 0, 5, 2)] } }
     2 ≤ s.lanesOut (cplLink 0) (cplDir 0 false) 5) := by decide +kernel
theorem test_scrub : up.scrub.retired = [] ∧ up.latent = [] ∧ up.bit (ro .host 0 0x60) 0 = false ∧
    (up.setFld (ro .host 0 0x60) 0 1 1).bit (ro .host 0 0x60) 0 = true := by decide +kernel
theorem test_time : up.ownTakes (gtsA 0x4C) ∧ up.consist = csSolo ∧
    (let s := { up with sync := { up.sync with pll := false } }
     s.boot.refclk = true ∧ s.boot.refLost = false ∧ s.pst ≠ 4 ∧ after .gtsPllRelock s (fun t => t.sync.pll)) ∧
    after (.gtsSet .i3c (some 0) 0) { up with gts := 7 } (fun t => t.gts == 7) := by decide +kernel

/-- A MEMBER with package number 1 that corrects its GTS, in this state with this offset. -/
def child (st : Nat) (theta : Int) : State :=
  { ((member.setFld (klrA 0x40) 0 4 1).setFld (gtsA 0x50) 0 1 1).setSyncSt st with
    gts := 1000, sync := { up.sync with theta := theta, lostSince := some 0, rate := 20 } }

theorem test_corrected : (child syAcquiring 50).syncChild = true ∧ (child syAcquiring 50).syncSt = syAcquiring ∧
    (child syLocked 50).syncSt = syLocked ∧ (child syHoldover 50).syncSt = syHoldover ∧
    0 + 1000000 ≤ (child syAcquiring 50).now ∧
    after .syncCorrect (child syHoldover 0) (fun t => t.gts == 1002) ∧
    after .syncCorrect (child syLocked (-50)) (fun t => decide (1000 ≤ t.gts) && t.sync.theta == -50) := by decide +kernel

/-! ### The recorder and its mirror (18) -/

def evt : Event := { gts := 5, src := 4, code := 0x2044, ctx := 0xFF, func := 0xFF, data := List.replicate 24 0, synced := false }
def record0 : EvRecord := EvRecord.sealed
  { seq := 0, ev := evt, rep := 1, lastGts := 5, pkg := 0, loss := false, valid := true, closed := false, crc := 0 }

/-- The recorder without its first record due, with HEAD at 1 and record 0 open. -/
def recording : State :=
  let e := { up.evr with slots := [(0, record0)], intake := [(.normal, { evt with gts := 9 })] }
  { up.wr (evrA 0x40) 1 with gts := 2000000000, boot := { up.boot with bootRecordDue := false }, evr := e }

theorem test_boot_record : let s := { up with boot := { up.boot with bootRecordDue := true } }
    s.boot.aonUp = true ∧ s.boot.bootRecordDue = true ∧ s.bit (evrA 0x58) 2 = false := by decide +kernel
theorem test_merge : let s := { recording with gts := 9 }
    s.mergeTarget { evt with gts := 9 } = some record0 ∧ s.mergeTarget { evt with gts := 9, src := 3 } = none ∧
    recording.mergeTarget { evt with gts := 9 } = none ∧ after .eventIntake s (fun t => t.evrHead == 1 && ((t.record 0).any fun y => y.rep == 2 && y.lastGts == 9)) := by
  decide +kernel
theorem test_new_record : let s := { recording with evr := { recording.evr with intake := [(.normal, { evt with src := 3 })] } }
    after .eventIntake s (fun t => t.evrHead == 2 && ((t.record 1).any fun y => y.rep == 1 && y.ev.src == 3)) := by decide +kernel
theorem test_record_close : recording.record 0 = some record0 ∧ record0.ev.gts + recording.mergeMs * 1000000 ≤ recording.gts ∧
    after (.recordClose 0) recording (fun t => ((t.record 0).any fun y => y.closed)) := by decide +kernel
theorem test_snap : up.ownTakes (evrA 0x48) ∧
    up.ownTakes (evrA 0x70) ∧
    after (.evrSnapTake .i3c 1) recording (fun t => t.rd (evrA 0x4C) == 1) ∧
    after (.mread .i3c 5) recording (fun t => t.rd (evrA 0x74) == 1 && t.evr.searching == some 5) := by decide +kernel

/-- The mirror in this state, with record 0 waiting. -/
def mirrors (st : Nat) (e : Recorder → Recorder) : State :=
  { recording.setMirror st with evr := e { recording.evr with toMirror := [record0], mirrorPlace := 3 } }

theorem test_mirror : (mirrors mirActive id).mirror = mirActive ∧ record0.crcOk = true ∧ ({ record0 with rep := 2 } : EvRecord).crcOk = false ∧
    after (.mirrorProgramDone 200 1 true) (mirrors mirActive id) (fun t => t.evr.toMirror == [] && t.evr.mirrorPlace == 4 &&
      t.evr.mirrored.length == 1) ∧
    after (.mirrorProgramDone 200 1 false) (mirrors mirActive id) (fun t => t.evr.norErrors == 1 && t.mirror == mirActive) ∧
    after (.norEraseDone 900 true) (mirrors mirActive fun e => { e with erasedAhead := 0 }) (fun t => t.evr.erasedAhead == 1) := by
  decide +kernel
theorem test_nor_retry : let s := { mirrors mirSuspended id with now := 10000000000 }
    s.mirror = mirSuspended ∧ s.evr.norRetryAt + 10000000000 ≤ s.now ∧ after (.norRetry true) s (fun t => t.mirror == mirActive) := by
  decide +kernel
theorem test_mread : after .mreadDone (mirrors mirActive fun e => { e with searching := some 0, mirrored := [(0, record0)] }) (fun t =>
      t.rd (evrA 0x74) == 2 && t.rd (evrA 0x800) == 5) ∧
    after .mreadDone (mirrors mirActive fun e => { e with searching := some 1, mirrored := [(0, record0)] }) (fun t =>
      t.rd (evrA 0x74) == 0) := by decide +kernel

/-! ### Test access (19) -/

/-- Test access is unlocked, with this injection armed. -/
def opened (i : Option Injection) : State :=
  { up.setFld (tstA 0x40) 0 1 1 with now := 1000000000, test := { up.test with inj := i } }

theorem test_unlock : up.ownTakes unlockA ∧
    up.ownTakes (tstA 0x44) ∧ up.unlocked = false ∧
    after (.testUnlockOpen .i3c) up (fun t => t.bit (tstA 0x40) 1 && !t.unlocked) ∧
    (up.setWindow true).bit (tstA 0x40) 1 = true ∧ up.now ≤ up.test.windowAt + 1000000 ∧
    after (.testLock .i3c) up (fun t => !t.unlocked) ∧
    after .unlockWindowExpiry { up.setWindow true with now := 1000000 } (fun t => !t.bit (tstA 0x40) 1) := by decide +kernel
theorem test_inject : (opened none).unlocked = true ∧ (opened none).bit (tstA 0x50) 0 = false ∧
    after (.injResidue .i3c 1) up (fun t => t.fld (tstA 0x50) 1 3 == 1) ∧
    after (.injResidue .i3c 0x00050001) (opened none) (fun t => t.rd (tstA 0x50) == 1 && t.test.inj.isSome) ∧
    after (.injEccCe .i3c 2) (opened none) (fun t => t.rd (tstA 0x50) == 1) ∧
    after (.injEccUe .i3c 3) (opened none) (fun t => t.rd (tstA 0x50) == 1) ∧
    after (.injCplLane .i3c 0x00040004) (opened none) (fun t => t.fld (tstA 0x50) 1 3 == 2) ∧
    after (.injCplLane .i3c 0x00010004) (opened none) (fun t => t.cpl.injected.length == 1) ∧
    after (.injKlCrc .i3c 0x0325) (opened none) (fun t => (t.klPort 2).crcBad == 3) := by decide +kernel
theorem test_injected : (opened (some ⟨2, 0, 0, 0, 0, true⟩)).test.inj = some ⟨2, 0, 0, 0, 0, true⟩ ∧
    (opened (some ⟨2, 0, 0, 0, 0, false⟩)).test.inj = some ⟨2, 0, 0, 0, 0, false⟩ ∧
    0 + 1000000000 ≤ (opened (some ⟨2, 0, 0, 0, 0, false⟩)).now := by decide +kernel

/-! ### Vector instructions of the tidy cores (07 R242) -/

/-- Four elements of 32 bits in the low part of a vector register. -/
def four (a b c d : Nat) : BitVec 512 := BitVec.ofNat 512 (a + b * 2 ^ 32 + c * 2 ^ 64 + d * 2 ^ 96)

/-- A tidy core with vl = 4 elements of 32 bits; v2 holds 1, 2, 3, 4 and v3 holds 10, 20, 30, −1. -/
def vec : Tidy :=
  let k := { Tidy.reset with vl := 4, vtype := 0x10 }
  let k := { k with v := [(2, four 1 2 3 4), (3, four 10 20 30 0xFFFFFFFF)] }
  { k with x := [(11, 40)], f := [(10, 0x40000000)] }

/-- The first four elements of a register after a vector instruction. -/
def vRun (k : Tidy) (w r : Nat) : List Nat :=
  match k.run 0 w 4 with
  | some t => (List.range 4).map (t.vget 32 r)
  | none => []

theorem test_vset : ((vec.run 0 0x0105F557 4).any fun t => t.vl == 16 && t.xr 10 == 16 && t.vtype == 0x10) = true ∧
    ((vec.run 0 0x0185F557 4).any fun t => t.vl == 0 && t.vtype == 0x80000000) = true := by decide +kernel
theorem test_vadd : vRun vec 0x022180D7 1 = [11, 22, 33, 3] ∧ vRun { vec with vtype := 0x80000000 } 0x022180D7 1 = [] := by
  decide +kernel
theorem test_vmask : vRun { vec with v := vec.v.put 0 5 } 0x002180D7 1 = [11, 0, 33, 0] := by decide +kernel
theorem test_vredsum : vRun vec 0x0221A0D7 1 = [20, 0, 0, 0] := by decide +kernel
theorem test_vfmacc : vRun { vec with v := [(16, 0x3F800000), (8, 0x40400000)] } 0xB3055457 8 = [0x40A00000, 0, 0, 0] := by
  decide +kernel
theorem test_vle32 : let s := memOf (at' 0x0202E087 [(5, 0x20)]) [(kScratch 0 0 0x20, 4, 77), (kScratch 0 0 0x2C, 4, 9)]
    after (.tcLoadStore 0 0 none) (s.updTidy 0 0 fun k => { k with vl := 4, vtype := 0x10 }) (fun t =>
      let k := (t.core 0).tidy 0
      (List.range 4).map (k.vget 32 1) == [77, 0, 0, 9] && k.pc == 4) := by decide +kernel
theorem test_vse32 : let s := at' 0x0202E127 [(5, 0x20)]
    after (.tcLoadStore 0 0 none) (s.updTidy 0 0 fun k => { vec with pc := k.pc, runs := true, x := [(5, 0x20)] }) (fun t =>
      t.load (kScratch 0 0 0x20) 16 == [1, 0, 0, 0, 2, 0, 0, 0, 3, 0, 0, 0, 4, 0, 0, 0]) := by decide +kernel

end Sys2Proof.Tests
end

section
/-! A MARKER records its event and completes at its start (04 R137). -/

namespace Sys2Proof.Machine

/-- Completing a descriptor takes no event from the recorder and moves no context to another function. -/
theorem State.logged_complete {s : State} {gts src code ctx func : Nat} {data : List EvVal}
    (h : s.logged gts src code data ctx func) (d : Desc) (st : Status) (r q : Nat) :
    (s.complete d st r q).logged gts src code data ctx func := by
  have hf : (s.complete d st r q).eventFunc ctx func = s.eventFunc ctx func := by
    simp only [State.eventFunc, State.ctxFunc, State.fld, State.rd, State.complete_regs]
  simpa only [State.logged, hf, State.complete_evr] using h

/-- A MARKER that stands before its checks meets none: it raises its event and completes (04 R137). -/
theorem exec_marker_of_beforeChecks {ctx : Fin 256} {sq : Fin 4} {s u : State} {d : Desc}
    (h : s.beforeChecks ctx sq 0x10 = some (u, d)) :
    exec (.marker ctx sq) s =
      .next ((u.raise (0xF000 + u.ctxFunc d.ctx * 0x100 + d.ctx) 0x0F00 [.w (d.nat 16 4), .d (d.nat 24 8)] d.ctx
        (u.ctxFunc d.ctx)).complete d .ok 0 0) := by
  have hexec : exec (.marker ctx sq) s = execMarker ctx sq s := rfl
  rw [hexec, execMarker, State.take_goes _ _ h rfl]

/-- Settles O23: the event that the start raises stays logged through the completion. -/
theorem markersRecordAndComplete : Obligations.MarkersRecordAndComplete := by
  unfold Obligations.MarkersRecordAndComplete
  intro ctx sq s u d h
  exact ⟨_, exec_marker_of_beforeChecks h, State.complete_reported _ d .ok 0 0,
    State.logged_complete (u.raise_logged _ _ _ _ _) d .ok 0 0⟩

end Sys2Proof.Machine
end

section
/-! The effective tolerance is the least of IDLE_TOL and the counting contexts' LAT_TOL, and its delivery reaches the
register (17 R557, R565). -/

namespace Sys2Proof.Machine

/-- What PWR.EFF_TOL is the minimum of: IDLE_TOL, and the LAT_TOL of every counting context (17 R557). -/
def State.tolerances (s : State) : List Nat :=
  (s.rd (pwrA 0x48)).toNat :: ((List.range 256).filter s.counts).map s.latTol

theorem State.mem_tolerances {s : State} {m : Nat} :
    m ∈ s.tolerances ↔ m = (s.rd (pwrA 0x48)).toNat ∨ ∃ n < 256, s.counts n = true ∧ m = s.latTol n := by
  simp [State.tolerances, and_assoc, eq_comm (a := m)]

theorem State.min?_tolerances (s : State) : s.tolerances.min? = some s.effTol := by
  rw [State.tolerances, List.min?_cons', List.foldl_map, State.effTol]

theorem State.effTol_mem_tolerances (s : State) : s.effTol ∈ s.tolerances :=
  (List.min?_eq_some_iff.mp s.min?_tolerances).1

theorem State.effTol_le_of_mem {s : State} {m : Nat} (h : m ∈ s.tolerances) : s.effTol ≤ m :=
  (List.min?_eq_some_iff.mp s.min?_tolerances).2 m h

theorem State.effTol_le_idleTol (s : State) : s.effTol ≤ (s.rd (pwrA 0x48)).toNat :=
  State.effTol_le_of_mem (State.mem_tolerances.mpr (.inl rfl))

theorem State.effTol_le_latTol {s : State} (n : Fin 256) (h : s.counts n = true) : s.effTol ≤ s.latTol n :=
  State.effTol_le_of_mem (State.mem_tolerances.mpr (.inr ⟨n, n.isLt, h, rfl⟩))

theorem State.effTol_attained (s : State) : s.effTol = (s.rd (pwrA 0x48)).toNat ∨
    ∃ n : Fin 256, s.counts n = true ∧ s.effTol = s.latTol n := by
  obtain hidle | ⟨n, hn, hcounts, htol⟩ := State.mem_tolerances.mp s.effTol_mem_tolerances
  · exact .inl hidle
  · exact .inr ⟨⟨n, hn⟩, hcounts, htol⟩

/-- The minimum fits the register, since IDLE_TOL does. -/
theorem State.effTol_lt (s : State) : s.effTol < 2 ^ 32 :=
  s.effTol_le_idleTol.trans_lt (s.rd (pwrA 0x48)).isLt

/-- Every state below P0 takes time to leave, so no tolerance of 0 admits one (17 R559, R561). -/
theorem State.chooseState_zero_tol (s : State) (idle : Nat) : s.chooseState 0 idle = 0 := by
  have hexit : ∀ st ∈ [4, 3, 2, 1], ¬ exitUs st ≤ 0 := by decide
  rw [State.chooseState, List.find?_eq_none.mpr, Option.getD_none]
  intro st hst
  simp [hexit st hst]

/-- Beginning an exit writes no register but PWR.STAT. -/
theorem State.startExit_rd_other (s : State) (target cause : Nat) (b : Bool) {a : Nat} (h : pwrA 0x50 ≠ a) :
    (s.startExit target cause b).rd a = s.rd a := by
  change ((s.setPTarget target).setTransit true).rd a = s.rd a
  rw [State.setTransit, State.rd_setFld_other _ _ _ _ h, State.setPTarget, State.rd_setFld_other _ _ _ _ h]

/-- Beginning an exit leaves the state in force until the exit is done (17 R564). -/
theorem State.startExit_pst (s : State) (target cause : Nat) (b : Bool) :
    (s.startExit target cause b).pst = s.pst := by
  change ((s.setPTarget target).setTransit true).fld (pwrA 0x50) 0 3 = s.fld (pwrA 0x50) 0 3
  rw [State.setTransit, State.fld_setFld_apart _ _ _ _ _ _ _ (by decide) (by decide), State.setPTarget,
    State.fld_setFld_apart _ _ _ _ _ _ _ (by decide) (by decide)]

/-- What the check of the tolerance can do: nothing, or begin an exit (17 R565). -/
theorem State.tolExit_eq_or (s : State) :
    s.tolExit = s ∨ s.tolExit = s.startExit (s.fitting s.pst) 1 false := by
  unfold State.tolExit
  split
  · exact .inr rfl
  · exact .inl rfl

theorem State.tolExit_rd_other (s : State) {a : Nat} (h : pwrA 0x50 ≠ a) : s.tolExit.rd a = s.rd a := by
  obtain hs | hs := s.tolExit_eq_or
  · rw [hs]
  · rw [hs, s.startExit_rd_other _ _ _ h]

theorem State.tolExit_pst (s : State) : s.tolExit.pst = s.pst := by
  obtain hs | hs := s.tolExit_eq_or
  · rw [hs]
  · rw [hs, s.startExit_pst]

/-- The delivery puts the recomputed minimum into PWR.EFF_TOL and keeps the state in force (01 R34). -/
theorem exec_effTolDelivered_completes (s : State) :
    completes .effTolDelivered s (fun t => (t.rd (pwrA 0x54)).toNat = s.effTol ∧ t.pst = s.pst) := by
  refine ⟨(s.wr (pwrA 0x54) (BitVec.ofNat 32 s.effTol)).tolExit, rfl, ?_, ?_⟩
  · rw [State.tolExit_rd_other _ (by decide), State.rd_wr_same, BitVec.toNat_ofNat, Nat.mod_eq_of_lt s.effTol_lt]
  · rw [State.tolExit_pst]
    exact s.fld_wr_other _ 0 3 (by decide)

/-- Settles O60: the effective tolerance is the minimum of the list of tolerances, so a LAT_TOL of 0 makes it 0. -/
theorem effectiveToleranceIsTheMinimum : Obligations.EffectiveToleranceIsTheMinimum := by
  unfold Obligations.EffectiveToleranceIsTheMinimum
  intro s
  refine ⟨s.effTol_le_idleTol, State.effTol_le_latTol, s.effTol_attained, ?_, exec_effTolDelivered_completes s⟩
  intro n hcounts hzero idle
  have htol : s.effTol = 0 := Nat.le_zero.mp (hzero ▸ State.effTol_le_latTol n hcounts)
  rw [htol, State.chooseState_zero_tol]

end Sys2Proof.Machine
end

section
/-! O4 and O5: every command goes on, keeps the time and the queue of commands, and keeps the sparse tables canonical. Only
the functions of Memory and Access write those tables; each of them keeps the canonical form, and one lemma for every
other function of the model says that it goes on through those. The functions that the loss of a pool, a stack or a die goes
through keep also what O56 needs of them (`State.Spares`). The lemmas stand in the order of the definitions. -/

set_option Elab.async false

namespace Sys2Proof.Machine

variable {z s : State}

/-! ### What is kept -/

/-- A severe event waits in the places that severe events have, or is held at its source (18 R594). -/
def State.severeWaits (s : State) (e : Event) : Prop := (Place.severe, e) ∈ s.evr.intake ∨ e ∈ s.evr.heldSources

/-- What the loss of a pool, a stack or a die leaves alone: the Couplings, the dies that are cut off, the retired stacks and
the severe events. -/
structure State.Spares (z t : State) : Prop where
  cpl : t.cpl = z.cpl
  cutOff : t.cutOff = z.cutOff
  retired : t.scrub.retired = z.scrub.retired
  severe : ∀ e, z.severeWaits e → t.severeWaits e

/-- `t` has the time and the waiting commands of `z`, and its sparse tables are canonical where those of `z` are. A function
that the loss of a pool, a stack or a die goes through keeps also what `State.Spares` says: it is `full`. -/
structure State.Keeps (z t : State) (full : Bool := false) : Prop where
  now : t.now = z.now
  pending : t.pending = z.pending
  inv : z.Inv → t.Inv
  rest : full = true → z.Spares t

variable {full : Bool}

theorem State.Keeps.refl : s.Keeps s full := ⟨rfl, rfl, id, fun _ => ⟨rfl, rfl, rfl, fun _ => id⟩⟩

/-- An update of the sparse tables that keeps them canonical. -/
theorem State.Keeps.tables {t : State} (h : z.Keeps s) (f : s.Inv → t.Inv) (hn : t.now = s.now := by rfl)
    (hp : t.pending = s.pending := by rfl) : z.Keeps t :=
  ⟨hn.trans h.now, hp.trans h.pending, fun hz => f (h.inv hz), nofun⟩

/-- An update that writes neither the sparse tables, nor the time, nor the queue of commands. -/
theorem State.Keeps.congr {t : State} (h : z.Keeps s) (hm : t.mem = s.mem := by rfl) (hb : t.bay = s.bay := by rfl)
    (hl : t.poison = s.poison := by rfl) (hn : t.now = s.now := by rfl) (hp : t.pending = s.pending := by rfl) :
    z.Keeps t := h.tables (fun i => ⟨hm ▸ i.mem, hb ▸ i.bay, hl ▸ i.poison⟩) hn hp

/-- An update of the sparse tables that keeps them canonical, and adds at most events. -/
theorem State.Keeps.tablesSevere {t : State} (h : z.Keeps s full) (f : s.Inv → t.Inv)
    (he : ∀ e, s.severeWaits e → t.severeWaits e) (hn : t.now = s.now := by rfl)
    (hp : t.pending = s.pending := by rfl) (hc : t.cpl = s.cpl := by rfl) (hk : t.cutOff = s.cutOff := by rfl)
    (hr : t.scrub.retired = s.scrub.retired := by rfl) : z.Keeps t full := by
  refine ⟨hn.trans h.now, hp.trans h.pending, fun hz => f (h.inv hz), fun hf => ?_⟩
  obtain ⟨h1, h2, h3, h4⟩ := h.rest hf
  exact ⟨hc.trans h1, hk.trans h2, hr.trans h3, fun e hw => he e (h4 e hw)⟩

/-- An update of the sparse tables that keeps them canonical, and writes nothing that `State.Spares` names. -/
theorem State.Keeps.tablesSame {t : State} (h : z.Keeps s full) (f : s.Inv → t.Inv) (hn : t.now = s.now := by rfl)
    (hp : t.pending = s.pending := by rfl) (hc : t.cpl = s.cpl := by rfl) (hk : t.cutOff = s.cutOff := by rfl)
    (hr : t.scrub.retired = s.scrub.retired := by rfl) (he : t.evr = s.evr := by rfl) : z.Keeps t full :=
  h.tablesSevere f (fun e hw => by rw [State.severeWaits, he]; exact hw) hn hp hc hk hr

/-- An update that writes neither what `State.Keeps` nor what `State.Spares` names. -/
theorem State.Keeps.same {t : State} (h : z.Keeps s full) (hm : t.mem = s.mem := by rfl) (hb : t.bay = s.bay := by rfl)
    (hl : t.poison = s.poison := by rfl) (hn : t.now = s.now := by rfl) (hp : t.pending = s.pending := by rfl)
    (hc : t.cpl = s.cpl := by rfl) (hk : t.cutOff = s.cutOff := by rfl) (hr : t.scrub.retired = s.scrub.retired := by rfl)
    (he : t.evr = s.evr := by rfl) : z.Keeps t full :=
  h.tablesSame (fun i => ⟨hm ▸ i.mem, hb ▸ i.bay, hl ▸ i.poison⟩) hn hp hc hk hr he

/-! ### Building blocks -/

section
variable {c : Prop} {_ : Decidable c} {u : State}

theorem State.Keeps.ite (h : z.Keeps s full) (hu : z.Keeps u full) : z.Keeps (if c then s else u) full := by split <;> assumption

/-- An update made on a condition. -/
theorem State.Keeps.when (h : z.Keeps s full) (hu : z.Keeps s full → z.Keeps u full) : z.Keeps (if c then u else s) full := (hu h).ite h

/-- An update made but on a condition. -/
theorem State.Keeps.unless (h : z.Keeps s full) (hu : z.Keeps s full → z.Keeps u full) : z.Keeps (if c then s else u) full := h.ite (hu h)

end

section
variable {α β : Type} {l : List α}

theorem State.Keeps.foldl (h : z.Keeps s full) {f : State → α → State} (hf : ∀ u x, z.Keeps u full → z.Keeps (f u x) full) :
    z.Keeps (l.foldl f s) full := by
  induction l generalizing s with
  | nil => exact h
  | cons x r ih => exact ih (hf s x h)

theorem State.Keeps.foldl_fst {p : State × β} (h : z.Keeps p.1) {f : State × β → α → State × β}
    (hf : ∀ u x, z.Keeps u.1 → z.Keeps (f u x).1) : z.Keeps (l.foldl f p).1 := by
  induction l generalizing p with
  | nil => exact h
  | cons x r ih => exact ih (hf p x h)

theorem State.Keeps.foldl_snd {p : β × State} (h : z.Keeps p.2 full) {f : β × State → α → β × State}
    (hf : ∀ u x, z.Keeps u.2 full → z.Keeps (f u x).2 full) : z.Keeps (l.foldl f p).2 full := by
  induction l generalizing p with
  | nil => exact h
  | cons x r ih => exact ih (hf p x h)

theorem State.Keeps.getD {o : Option State} (h : z.Keeps s) (ho : ∀ u, o = some u → z.Keeps u) : z.Keeps (o.getD s) := by
  cases o with
  | none => exact h
  | some u => exact ho u rfl

end

section
variable {α : Type} {x : α} {u : State}

theorem State.Keeps.snd_of_eq {p : α × State} (h : z.Keeps p.2) (e : p = (x, u)) : z.Keeps u := by subst e; exact h

theorem State.Keeps.fst_of_eq {p : State × α} (h : z.Keeps p.1 full) (e : p = (u, x)) : z.Keeps u full := by subst e; exact h

end

section
variable {α : Type} {c : Prop} {_ : Decidable c} {p q : α × State}

theorem State.Keeps.ite_snd (hp : z.Keeps p.2) (hq : z.Keeps q.2) : z.Keeps (if c then p else q).2 := by
  split <;> assumption

end

/-- The command goes on, and keeps the state `z` in the sense of `State.Keeps`. -/
def NextKeeps (z : State) (n : Next) : Prop := ∃ t, n = .next t ∧ z.Keeps t

theorem State.Keeps.next (h : z.Keeps s) : NextKeeps z (.next s) := ⟨s, rfl, h⟩

theorem NextKeeps.ite {c : Prop} {_ : Decidable c} {a b : Next} (ha : NextKeeps z a) (hb : NextKeeps z b) :
    NextKeeps z (if c then a else b) := by split <;> assumption

/-! ### The functions of `Machine/Memory` -/

theorem State.Keeps.stampErrors (h : z.Keeps s full) {k n : Nat} : z.Keeps (s.stampErrors k n) full := by
  unfold State.stampErrors
  dsimp only
  split
  · exact h.same
  · split
    · exact h.same
    · exact .ite h.same h.same

theorem State.Keeps.clearSaved (h : z.Keeps s full) {k n : Nat} : z.Keeps (s.clearSaved k n) full := by
  unfold State.clearSaved
  exact .ite h h.same

theorem State.Keeps.store (h : z.Keeps s full) {k : Nat} {bs : List Byte} : z.Keeps (s.store k bs) full := by
  have h1 : z.Keeps { s with mem := memWrite s.mem k bs, poison := poisonAfterWrite s.poison k bs.length } full :=
    h.tablesSame fun i => ⟨Memory.memWrite_wf k bs i.mem, i.bay, rising_filter _ i.poison⟩
  exact h1.stampErrors.clearSaved

theorem State.Keeps.poisonLines (h : z.Keeps s full) {ls : List Nat} : z.Keeps (s.poisonLines ls) full :=
  h.tablesSame fun i => ⟨i.mem, i.bay, rising_setInserts ls i.poison⟩

theorem State.Keeps.copyBytes (h : z.Keeps s full) {src dst n : Nat} : z.Keeps (s.copyBytes src dst n) full := h.store.poisonLines

theorem State.Keeps.bayStore (h : z.Keeps s full) {k : Nat} {bs : List Byte} : z.Keeps (s.bayStore k bs) full :=
  h.tablesSame fun i => ⟨i.mem, rising_cellsWrite k bs i.bay, rising_filter _ i.poison⟩

theorem State.Keeps.bayUndefine (h : z.Keeps s full) {c : Nat} {banks : Nat → Bool} : z.Keeps (s.bayUndefine c banks) full :=
  h.tablesSame fun i => ⟨i.mem, rising_map_filter _ i.bay, i.poison⟩

theorem State.Keeps.clearKeys (h : z.Keeps s full) {lo hi : Nat} : z.Keeps (s.clearKeys lo hi) full :=
  h.tablesSame fun i => ⟨Memory.filter_wf _ i.mem, i.bay, rising_filter _ i.poison⟩

/-! ### The functions of `Machine/Ops` -/

theorem State.Keeps.wr (h : z.Keeps s full) {a : Nat} {v : Word} : z.Keeps (s.wr a v) full := h.same

theorem State.Keeps.setFld (h : z.Keeps s full) {a lo w n : Nat} : z.Keeps (s.setFld a lo w n) full := h.wr

theorem State.Keeps.wr64 (h : z.Keeps s) {a : Nat} {v : Word64} : z.Keeps (s.wr64 a v) := h.wr.wr

theorem State.Keeps.addFld (h : z.Keeps s full) {a lo w n : Nat} : z.Keeps (s.addFld a lo w n) full := h.setFld

theorem State.Keeps.addSat (h : z.Keeps s full) {a lo w n : Nat} : z.Keeps (s.addSat a lo w n) full := h.setFld

theorem State.Keeps.add64 (h : z.Keeps s) {a n : Nat} : z.Keeps (s.add64 a n) := h.wr64

theorem State.Keeps.addSat64 (h : z.Keeps s) {a n : Nat} : z.Keeps (s.addSat64 a n) := h.wr64

theorem State.Keeps.setPage (h : z.Keeps s full) {slot : Nat} {p : Page} : z.Keeps (s.setPage slot p) full := h.same

theorem State.Keeps.sendMsi (h : z.Keeps s full) {fn vec : Nat} : z.Keeps (s.sendMsi fn vec) full := by
  unfold State.sendMsi
  exact .ite h.same h.same

theorem State.Keeps.setPageEv (h : z.Keeps s full) {slot : Nat} {p : Page} : z.Keeps (s.setPageEv slot p) full :=
  h.setPage.when (·.sendMsi)

/-- An update of the recorder that keeps the severe events. -/
theorem State.Keeps.withEvents (h : z.Keeps s full) {v : Recorder}
    (hv : ∀ e, s.severeWaits e → State.severeWaits { s with evr := v } e) : z.Keeps { s with evr := v } full :=
  h.tablesSevere (fun i => ⟨i.mem, i.bay, i.poison⟩) hv

theorem State.Keeps.countDrop (h : z.Keeps s full) : z.Keeps s.countDrop full :=
  h.tablesSevere (fun i => ⟨i.mem, i.bay, i.poison⟩) fun _ hw => hw

theorem State.Keeps.pushIntake (h : z.Keeps s full) {p : Place} {e : Event} : z.Keeps (s.pushIntake p e) full :=
  h.withEvents fun _ => Or.imp_left (List.mem_append_left _)

/-- The oldest event that makes room is none of the severe ones' places. -/
theorem severe_mem_dropOldest {e : Event} {l : List (Place × Event)} (h : (Place.severe, e) ∈ l) : (Place.severe, e) ∈ dropOldest l := by
  induction l with
  | nil => exact h
  | cons y l ih =>
    unfold dropOldest
    split
    · next hy =>
      obtain rfl | h := List.mem_cons.mp h
      · exact Place.noConfusion (show Place.severe = Place.normal from hy.1)
      · exact h
    · obtain rfl | h := List.mem_cons.mp h
      · exact .head _
      · exact .tail _ (ih h)

theorem State.Keeps.offer (h : z.Keeps s full) {e : Event} : z.Keeps (s.offer e) full := by
  have hold : z.Keeps { s with evr := { s.evr with heldSources := s.evr.heldSources ++ [e] } } full :=
    h.withEvents fun _ => Or.imp_right (List.mem_append_left _)
  have hdrop : z.Keeps { s with evr := { s.evr with intake := dropOldest s.evr.intake } } full :=
    h.withEvents fun _ => Or.imp_left severe_mem_dropOldest
  unfold State.offer
  exact .ite h.pushIntake (.ite (.ite (.ite h.pushIntake hdrop.countDrop.pushIntake) (.ite h.pushIntake hold))
    (.ite h.pushIntake h.countDrop))

theorem State.Keeps.markEvent (h : z.Keeps s full) {src code : Nat} : z.Keeps (s.markEvent src code) full := by
  unfold State.markEvent
  split
  · exact h.setPageEv
  · exact h

theorem State.Keeps.pulse (h : z.Keeps s full) {code : Nat} : z.Keeps (s.pulse code) full := by
  unfold State.pulse
  exact .ite h.same h

theorem State.Keeps.raise (h : z.Keeps s full) {src code : Nat} {data : List EvVal} {ctx func : Nat} :
    z.Keeps (s.raise src code data ctx func) full :=
  h.markEvent.pulse.offer

theorem State.Keeps.eccEvent (h : z.Keeps s full) {l : Nat} {bad : Bool} : z.Keeps (s.eccEvent l bad) full := by
  unfold State.eccEvent
  exact .ite (.ite h.raise h.raise) (.ite h.raise h.raise)

theorem State.Keeps.findError (h : z.Keeps s full) {l : Nat} {bad : Bool} : z.Keeps (s.findError l bad) full :=
  (h.same.when (·.poisonLines)).eccEvent

theorem State.Keeps.touch (h : z.Keeps s full) {k n : Nat} : z.Keeps (s.touch k n) full := h.foldl (fun _ _ h1 => h1.findError)

theorem State.Keeps.setCtx (h : z.Keeps s full) {n : Nat} {c : Ctx} : z.Keeps (s.setCtx n c) full := h.same

theorem State.Keeps.setCtxState (h : z.Keeps s full) {n st : Nat} : z.Keeps (s.setCtxState n st) full := h.setFld

theorem State.Keeps.updDesc (h : z.Keeps s) {n uid : Nat} {f : Desc → Desc} : z.Keeps (s.updDesc n uid f) := h.setCtx

theorem State.Keeps.faultNotice (h : z.Keeps s full) {d : Desc} : z.Keeps (s.faultNotice d) full := h.same

theorem State.Keeps.complete (h : z.Keeps s full) {d : Desc} {st : Status} {result result2 : Nat} :
    z.Keeps (s.complete d st result result2) full :=
  h.same

theorem State.Keeps.completeMore (h : z.Keeps s full) {d : Desc} {st : Status} {tag : Word64} {result result2 : Nat}
    {more irq : Bool} {pos : Option Word} : z.Keeps (s.completeMore d st tag result result2 more irq pos) full :=
  h.same

theorem State.Keeps.notify (h : z.Keeps s) {n : Nat} {st : Status} {cls : Nat} {tag : Word64} {result result2 : Nat} :
    z.Keeps (s.notify n st cls tag result result2) :=
  h.congr

theorem State.Keeps.markDone (h : z.Keeps s full) {n q : Nat} {pos : Word} : z.Keeps (s.markDone n q pos) full := h.setCtx.wr

theorem State.Keeps.recordMsi (h : z.Keeps s full) {n : Nat} {r : Rec} : z.Keeps (s.recordMsi n r) full := by
  unfold State.recordMsi
  exact .ite (.ite (.ite h.same h.sendMsi.same) h) h

theorem State.Keeps.putRecord (h : z.Keeps s full) {n : Nat} {r : Rec} : z.Keeps (s.putRecord n r) full := by
  unfold State.putRecord
  refine .recordMsi ?_
  split
  · refine .markDone (.setCtx (.wr ?_))
    split
    · exact h.store
    · exact h
  · refine .setCtx (.wr ?_)
    split
    · exact h.store
    · exact h

theorem State.Keeps.logStall (h : z.Keeps s full) {n : Nat} : z.Keeps (s.logStall n) full := by
  unfold State.logStall
  exact .ite h h.setCtx.raise

theorem State.Keeps.stallIfFull (h : z.Keeps s full) {n : Nat} : z.Keeps (s.stallIfFull n) full := by
  unfold State.stallIfFull
  exact .ite h.logStall h

theorem State.Keeps.deliver (h : z.Keeps s full) {n : Nat} {r : Rec} : z.Keeps (s.deliver n r) full := by
  unfold State.deliver
  exact .ite h.putRecord.stallIfFull (.ite h.setCtx.logStall (.ite
      (.ite h.setCtx.addSat h.setCtx.addSat.setCtx.raise) h.setCtx))

theorem State.Keeps.drainHeld (h : z.Keeps s) {n fuel : Nat} : z.Keeps (s.drainHeld n fuel) := by
  induction fuel generalizing s with
  | zero => exact h
  | succ fuel ih =>
    unfold State.drainHeld
    split
    · exact h
    · dsimp only
      split
      · exact ih h.setCtx.putRecord.setCtx.stallIfFull
      · split
        · exact h.setCtx
        · exact ih h.setCtx.setCtx.putRecord.stallIfFull

theorem State.Keeps.startDesc (h : z.Keeps s) {d : Desc} : z.Keeps (s.startDesc d) := h.updDesc.when (·.setCtxState)

theorem State.Keeps.settle (h : z.Keeps s) {n : Nat} : z.Keeps (s.settle n) := by
  unfold State.settle
  exact .ite h.setCtxState h

theorem State.Keeps.newUid (h : z.Keeps s) : z.Keeps (s.newUid).2 := h.congr

theorem State.Keeps.newFree (h : z.Keeps s full) : z.Keeps (s.newFree).2 full := h.same

theorem State.Keeps.undefine (h : z.Keeps s full) {k n : Nat} : z.Keeps (s.undefine k n) full := h.newFree.store.poisonLines

theorem State.Keeps.undefineAt (h : z.Keeps s full) {a : Word64} {n : Nat} : z.Keeps (s.undefineAt a n) full := by
  unfold State.undefineAt
  split
  · exact .ite h h.undefine
  · exact h

/-! ### The functions of `Machine/Access` -/

theorem State.Keeps.accessEvent (h : z.Keeps s) {code bar off fn : Nat} : z.Keeps (s.accessEvent code bar off fn) :=
  h.raise

theorem State.Keeps.answer (h : z.Keeps s) {n : Nat} : z.Keeps (s.answer n) := h.congr

theorem State.Keeps.refuse (h : z.Keeps s) {snd : Sender} {off width : Nat} {write : Bool} {code : Nat} :
    z.Keeps (s.refuse snd off width write code) := by
  unfold State.refuse
  exact .unless (.ite h h.answer) (·.accessEvent)

/-! ### The functions of `Machine/Regions` -/

theorem State.Keeps.setRegionGen (h : z.Keeps s) {r : Nat} {g : Word} : z.Keeps (s.setRegionGen r g) := by
  unfold State.setRegionGen
  split
  · exact h.store
  · exact h

theorem State.Keeps.setRegionBusy (h : z.Keeps s full) {r b : Nat} : z.Keeps (s.setRegionBusy r b) full := by
  unfold State.setRegionBusy
  split
  · exact h.store
  · exact h

theorem State.Keeps.holdRegion (h : z.Keeps s) {r holder : Nat} : z.Keeps (s.holdRegion r holder) := by
  unfold State.holdRegion
  split
  · exact h.congr
  · exact h

theorem State.Keeps.holdRegions (h : z.Keeps s) {rs : List Nat} {holder : Nat} : z.Keeps (s.holdRegions rs holder) :=
  h.foldl (fun _ _ h1 => h1.holdRegion)

theorem State.Keeps.releaseHolds (h : z.Keeps s full) {holder : Nat} : z.Keeps (s.releaseHolds holder) full := h.same

/-! ### The functions of `Machine/Operands` -/

theorem State.Keeps.touchAt (h : z.Keeps s) {a : Word64} {n : Nat} : z.Keeps (s.touchAt a n) := by
  unfold State.touchAt
  split
  · exact .ite h h.touch
  · exact h

theorem State.Keeps.poisonEvent (h : z.Keeps s) {ctx line : Nat} : z.Keeps (s.poisonEvent ctx line) := h.raise

theorem State.Keeps.consume (h : z.Keeps s) {d : Desc} {line : Nat} :
    z.Keeps (s.consume d line) := h.poisonEvent.complete

theorem State.Keeps.take (h : z.Keeps s) {n q cls : Nat} {check : State → Desc → Option Status}
    {body : State → Desc → State} (hbody : ∀ x1 x2, z.Keeps x1 → z.Keeps (body x1 x2)) : z.Keeps
    (s.take n q cls check body) := by
  unfold State.take
  split
  · exact h
  · split
    · exact h
    · dsimp only
      split
      · exact h.startDesc.complete
      · split
        · exact h.startDesc.touchAt.consume
        · split
          · exact h.startDesc.touchAt.complete
          · exact hbody _ _ h.startDesc.touchAt

/-! ### The functions of `Machine/Sched` -/

theorem State.Keeps.setCore (h : z.Keeps s full) {c : Nat} {k : Core} : z.Keeps (s.setCore c k) full := h.same

theorem State.Keeps.updCore (h : z.Keeps s full) {c : Nat} {f : Core → Core} : z.Keeps (s.updCore c f) full := h.setCore

theorem State.Keeps.countCores (h : z.Keeps s full) : z.Keeps s.countCores full := h.setFld.setFld.setFld.setFld

theorem State.Keeps.breakNotice (h : z.Keeps s) {n kind cause : Nat} : z.Keeps (s.breakNotice n kind cause) :=
  h.notify.addFld.raise

theorem State.Keeps.installBroken (h : z.Keeps s) {cause n new : Nat} : z.Keeps (s.installBroken cause n new) := by
  unfold State.installBroken
  exact ((((((h.setFld.when (·.breakNotice)).when (·.breakNotice)).when (·.breakNotice)).when (·.raise)).when
      (·.setCtx.raise)).when (·.raise)).when (·.setCtx)

theorem State.Keeps.countBroken (h : z.Keeps s) : z.Keeps s.countBroken := h.setFld

theorem State.Keeps.sumReservations (h : z.Keeps s) : z.Keeps s.sumReservations := h.setFld

theorem State.Keeps.evalWanted (h : z.Keeps s full) {cause : Nat} : z.Keeps (s.evalWanted cause) full := h.same

theorem State.Keeps.evalAdmission (h : z.Keeps s full) {cause : Nat} : z.Keeps (s.evalAdmission cause) full := h.same

theorem State.Keeps.updGang (h : z.Keeps s full) {u : Nat} {f : Gang → Gang} : z.Keeps (s.updGang u f) full := h.same

theorem State.Keeps.countHeld (h : z.Keeps s full) {n : Nat} : z.Keeps (s.countHeld n) full := h.setFld

theorem State.Keeps.settleRun (h : z.Keeps s full) {n : Nat} : z.Keeps (s.settleRun n) full := by
  unfold State.settleRun
  exact .ite h.setCtxState (.ite h.setCtxState h)

theorem State.Keeps.holdCore (h : z.Keeps s full) {c : Nat} {g : Option (Nat × Nat × Nat)} : z.Keeps (s.holdCore c g) full := by
  unfold State.holdCore
  split
  · exact h.updCore.setFld.setFld
  · exact h.updCore.wr

theorem State.Keeps.noteIdle (h : z.Keeps s full) : z.Keeps s.noteIdle full := by
  unfold State.noteIdle
  exact .ite h h.same

theorem State.Keeps.noteBusy (h : z.Keeps s full) : z.Keeps s.noteBusy full := by
  unfold State.noteBusy
  split
  · exact h
  · exact h.same

theorem State.Keeps.freeCores (h : z.Keeps s full) {g : Gang} : z.Keeps (s.freeCores g) full := by
  unfold State.freeCores
  exact (h.foldl (fun _ _ h1 => h1.holdCore)).updGang.countCores.countHeld.noteIdle.unless (·.foldl (fun _
      _ h1 => h1.settleRun))

theorem State.Keeps.dropGang (h : z.Keeps s full) {g : Gang} : z.Keeps (s.dropGang g) full := h.freeCores.same

/-! ### The functions of `Machine/Sync` -/

theorem State.Keeps.withSync (h : z.Keeps s) {f : Sync → Sync} : z.Keeps (s.withSync f) := h.congr

theorem State.Keeps.setSyncSt (h : z.Keeps s) {n : Nat} : z.Keeps (s.setSyncSt n) := h.setFld

theorem State.Keeps.stepGts (h : z.Keeps s) {n : Nat} : z.Keeps (s.stepGts n) :=
  h.congr.foldl (fun _ _ h1 => .ite h1.setCtx.add64 h1)

theorem State.Keeps.setGts (h : z.Keeps s) {low hi : Word} : z.Keeps (s.setGts low hi) := h.wr.wr.when (·.stepGts.raise)

theorem execGtsPllRelock_keeps (h : z.Keeps s) : NextKeeps z (execGtsPllRelock s) := by
  unfold execGtsPllRelock
  exact .ite h.next h.congr.withSync.next

theorem State.Keeps.syncLost (h : z.Keeps s) : z.Keeps s.syncLost := h.raise

theorem State.Keeps.chooseParent (h : z.Keeps s) : z.Keeps s.chooseParent := by
  unfold State.chooseParent
  split
  · exact h
  · split
    · exact h.setFld.setFld.setSyncSt.withSync
    · exact h.withSync

theorem State.Keeps.syncFree (h : z.Keeps s) : z.Keeps s.syncFree := h.setSyncSt.setFld.withSync

theorem State.Keeps.syncInstall (h : z.Keeps s) : z.Keeps s.syncInstall := by
  unfold State.syncInstall
  exact .ite h.syncFree (.ite h.setSyncSt.setFld.setFld.wr h.setSyncSt.setFld.chooseParent)

theorem State.Keeps.takeSample (h : z.Keeps s) {hb : Heartbeat} {t1 t2 t4 : Nat} :
    z.Keeps (s.takeSample hb t1 t2 t4) := by
  unfold State.takeSample
  exact .ite h.withSync.wr.setSyncSt.raise (h.withSync.wr.when (·.setSyncSt.withSync.syncLost))

theorem State.Keeps.syncHeartbeat (h : z.Keeps s) {port : Nat} {hb : Heartbeat} :
    z.Keeps (s.syncHeartbeat port hb) := by
  unfold State.syncHeartbeat
  split
  · exact h
  · split
    · exact .ite h.chooseParent h
    · split
      · exact h
      · split
        · dsimp only
          split
          · exact h.withSync.setFld.takeSample
          · exact h.withSync.setFld
        · exact h.withSync

theorem State.Keeps.holdover (h : z.Keeps s) : z.Keeps s.holdover := by
  unfold State.holdover
  exact .ite h.setSyncSt.syncLost h

theorem State.Keeps.slew (h : z.Keeps s) {tenths : ℤ} : z.Keeps (s.slew tenths) := by
  unfold State.slew
  exact .ite h.congr h.withSync.withSync

theorem execSyncCorrect_keeps (h : z.Keeps s) : NextKeeps z (execSyncCorrect s) := by
  unfold execSyncCorrect
  exact .ite h.slew.next (.ite h.next (.ite h.stepGts.withSync.raise.next h.slew.next))

theorem execSyncParentLoss_keeps (h : z.Keeps s) : NextKeeps z (execSyncParentLoss s) := by
  unfold execSyncParentLoss
  exact .ite h.holdover.next h.next

/-! ### The functions of `Machine/CoreOps` -/

theorem State.Keeps.updTidy (h : z.Keeps s) {c t : Nat} {f : Tidy → Tidy} : z.Keeps (s.updTidy c t f) := h.updCore

theorem State.Keeps.tcPass (h : z.Keeps s) {c t len : Nat} : z.Keeps (s.tcPass c t len) := h.updTidy

theorem State.Keeps.tcNext (h : z.Keeps s) {c t : Nat} : z.Keeps (s.tcNext c t) := h.tcPass

/-! ### The functions of `Machine/Pixel` -/

theorem State.Keeps.storeAt (h : z.Keeps s full) {a : Word64} {bs : List Byte} : z.Keeps (s.storeAt a bs) full := by
  unfold State.storeAt
  split
  · exact h.store
  · exact h

theorem State.Keeps.writeRow (h : z.Keeps s) {t : TapCfg} {base : Word64} {i : Nat} {elem : Nat → Nat → Byte} :
    z.Keeps (s.writeRow t base i elem) :=
  h.foldl (fun _ _ h1 => h1.storeAt)

theorem State.Keeps.progressStart (h : z.Keeps s) {t : TapCfg} {written : Word} {capture : Nat} :
    z.Keeps (s.progressStart t written capture) :=
  h.storeAt

theorem State.Keeps.progressDone (h : z.Keeps s) {t : TapCfg} {n : Nat} : z.Keeps (s.progressDone t n) := h.storeAt

theorem State.Keeps.poolStoreN (h : z.Keeps s full) {p x : Nat} {bs : List Byte} {fuel : Nat} :
    z.Keeps (s.poolStoreN p x bs fuel) full := by
  induction fuel generalizing s x bs with
  | zero => exact h
  | succ fuel ih =>
    unfold State.poolStoreN
    exact .ite h.store (ih h.store)

theorem State.Keeps.poolStore (h : z.Keeps s full) {p x : Nat} {bs : List Byte} : z.Keeps (s.poolStore p x bs) full :=
  h.poolStoreN

theorem State.Keeps.undefinePool (h : z.Keeps s full) {p x n : Nat} : z.Keeps (s.undefinePool p x n) full :=
  h.foldl (fun _ _ h1 => h1.undefine)

/-! ### The functions of `Machine/Roundhouse` -/

theorem State.Keeps.setDec (h : z.Keeps s full) {i : Nat} {d : DecStream} : z.Keeps (s.setDec i d) full := h.same

theorem State.Keeps.setEnc (h : z.Keeps s full) {i : Nat} {d : EncStream} : z.Keeps (s.setEnc i d) full := h.same

theorem State.Keeps.setCam (h : z.Keeps s full) {i : Nat} {d : CamStream} : z.Keeps (s.setCam i d) full := h.same

theorem State.Keeps.countMedia (h : z.Keeps s full) : z.Keeps s.countMedia full := h.setFld.setFld.setFld.setFld

theorem State.Keeps.reserve (h : z.Keeps s) {d : Desc} {pool : Nat} {sizes : List Nat} {ok : State → List MBuf → State}
    (hok : ∀ x1 x2, z.Keeps x1 → z.Keeps (ok x1 x2)) : z.Keeps (s.reserve d pool sizes ok) := by
  unfold State.reserve
  split
  · exact hok _ _ h
  · exact h.raise.complete

theorem State.Keeps.endRecord (h : z.Keeps s full) {n q : Nat} {pos : Option Word} {sqPos : Nat} {epoch : Half}
    {tag : Word64} {irq quiet : Bool} {st : Status} {result result2 : Nat} : z.Keeps
    (s.endRecord n q pos sqPos epoch tag irq quiet st result result2) full :=
  h.same

theorem State.Keeps.endAu (h : z.Keeps s full) {n q : Nat} {r : AuRec} {st : Status} {result result2 : Nat} :
    z.Keeps (s.endAu n q r st result result2) full :=
  h.endRecord

theorem State.Keeps.bumpHead (h : z.Keeps s full) {n q : Nat} : z.Keeps (s.bumpHead n q) full := h.wr

theorem State.Keeps.enterWaiting (h : z.Keeps s full) {i core : Nat} : z.Keeps (s.enterWaiting i core) full := by
  unfold State.enterWaiting
  split
  · exact h
  · exact .ite h h.setDec.raise

theorem State.Keeps.encSkip (h : z.Keeps s full) {i : Nat} {log : Bool} : z.Keeps (s.encSkip i log) full := by
  unfold State.encSkip
  split
  · exact h
  · exact h.setEnc.addSat.when (·.raise)

theorem State.Keeps.skipLinked (h : z.Keeps s full) {i g : Nat} {had : List Nat} : z.Keeps (s.skipLinked i g had) full :=
  h.foldl (fun _ _ h1 => h1.encSkip)

/-! ### The functions of `Machine/Yard` -/

theorem State.Keeps.withYard (h : z.Keeps s full) {f : Yard → Yard} : z.Keeps (s.withYard f) full := h.same

theorem State.Keeps.updPool (h : z.Keeps s full) {p : Nat} {f : Pool → Pool} : z.Keeps (s.updPool p f) full := h.withYard

theorem State.Keeps.putKv (h : z.Keeps s full) {p P : Nat} {k : KvPage} : z.Keeps (s.putKv p P k) full := h.updPool

theorem State.Keeps.putSeq (h : z.Keeps s full) {q : Nat} {x : Seq} : z.Keeps (s.putSeq q x) full := h.same

theorem State.Keeps.updSeq (h : z.Keeps s full) {q : Nat} {f : Seq → Seq} : z.Keeps (s.updSeq q f) full := by
  unfold State.updSeq
  split
  · exact h.putSeq
  · exact h

theorem State.Keeps.setEntry (h : z.Keeps s) {x : Seq} {e v : Nat} : z.Keeps (s.setEntry x e v) := h.store

theorem State.Keeps.setChain (hs : z.Keeps s) {x : Seq} {k : Nat} {h : Word64} : z.Keeps (s.setChain x k h) := by
  unfold State.setChain
  exact hs.store

theorem State.Keeps.countPool (h : z.Keeps s full) {p : Nat} : z.Keeps (s.countPool p) full := h.setFld.setFld

theorem State.Keeps.countSeqs (h : z.Keeps s full) {p : Nat} : z.Keeps (s.countSeqs p) full := h.setFld.setFld

theorem State.Keeps.setFrameSt (h : z.Keeps s full) {f : Nat} {st : FrameSt} : z.Keeps (s.setFrameSt f st) full := h.withYard

theorem State.Keeps.retireFrame (h : z.Keeps s full) {f : Nat} {pool : Option Nat} : z.Keeps (s.retireFrame f pool) full :=
  (h.setFrameSt.withYard.addFld.when (·.setFld)).setFld.raise.evalWanted

theorem State.Keeps.settleFrames (h : z.Keeps s full) {p : Nat} : z.Keeps (s.settleFrames p) full :=
  h.foldl (fun _ _ h1 => .ite (.ite h1.retireFrame.setFld h1) h1)

theorem State.Keeps.markFrame (h : z.Keeps s full) {p f : Nat} : z.Keeps (s.markFrame p f) full :=
  h.foldl (fun _ _ h1 => h1.putKv)

theorem State.Keeps.markFrames (h : z.Keeps s full) {p : Nat} : z.Keeps (s.markFrames p) full :=
  (h.foldl (fun _ _ h1 => h1.markFrame)).countPool.settleFrames

theorem State.Keeps.charge (h : z.Keeps s) {n p : Nat} : z.Keeps (s.charge n p) := h.setFld

theorem State.Keeps.uncharge (h : z.Keeps s full) {q p : Nat} : z.Keeps (s.uncharge q p) full := by
  unfold State.uncharge
  split
  · exact h.setFld
  · exact h

theorem State.Keeps.freeKv (h : z.Keeps s full) {p P : Nat} : z.Keeps (s.freeKv p P) full := by
  unfold State.freeKv
  refine .when (.countPool (.putKv ?_)) (·.settleFrames)
  split
  · exact h.uncharge
  · exact h

theorem State.Keeps.freeIfZero (h : z.Keeps s full) {p P : Nat} : z.Keeps (s.freeIfZero p P) full := by
  unfold State.freeIfZero
  exact .ite h.freeKv h

theorem State.Keeps.refPage (h : z.Keeps s) {p P : Nat} : z.Keeps (s.refPage p P) := h.putKv

theorem State.Keeps.unref (h : z.Keeps s full) {p P : Nat} {q : Option Nat} : z.Keeps (s.unref p P q) full := by
  unfold State.unref
  refine .freeIfZero (.putKv ?_)
  split
  · exact .ite h.uncharge h
  · exact h

theorem State.Keeps.pinPage (h : z.Keeps s) {p P : Nat} : z.Keeps (s.pinPage p P) := h.putKv

theorem State.Keeps.unpin (h : z.Keeps s full) {p P : Nat} : z.Keeps (s.unpin p P) full := h.putKv.freeIfZero

theorem State.Keeps.takePage (h : z.Keeps s) {p P q : Nat} {st : PageSt} : z.Keeps (s.takePage p P q st) := by
  unfold State.takePage
  refine .countPool ?_
  split
  · exact h.putKv.charge
  · exact h.putKv

theorem State.Keeps.countSwap (h : z.Keeps s full) : z.Keeps s.countSwap full := h.setFld.setFld.setFld

theorem State.Keeps.takeRec (h : z.Keeps s) {atPeer : Bool} {units : Nat} {t : Nat × State}
    (e : s.takeRec atPeer units = some t) : z.Keeps t.2 := by
  unfold State.takeRec at e
  dsimp only at e
  split at e
  · obtain rfl := Option.some.inj e
    exact h.withYard.countSwap
  · cases e

theorem State.Keeps.freeRec (h : z.Keeps s full) {r : Nat} : z.Keeps (s.freeRec r) full := h.withYard.countSwap

theorem State.Keeps.badRec (h : z.Keeps s) {r : Nat} : z.Keeps (s.badRec r) := by
  unfold State.badRec
  split
  · exact .ite h h.withYard.addFld
  · exact h

theorem State.Keeps.cancelSpill (h : z.Keeps s full) {p P : Nat} : z.Keeps (s.cancelSpill p P) full := by
  unfold State.cancelSpill
  split
  · exact h.withYard.freeRec.putKv
  · exact h

theorem State.Keeps.putDir (h : z.Keeps s) {d : Tbl DirEntry} : z.Keeps (s.putDir d) := h.withYard.setFld

theorem State.Keeps.evictEntry (h : z.Keeps s) {i : Nat} {e : DirEntry} {reason : Nat} :
    z.Keeps (s.evictEntry i e reason) := by
  unfold State.evictEntry
  exact h.putDir.addFld.raise.unref

theorem State.Keeps.evictAll (h : z.Keeps s) {sel : Nat → DirEntry → Bool} {reason fuel : Nat} :
    z.Keeps (s.evictAll sel reason fuel) := by
  induction fuel generalizing s with
  | zero => exact h
  | succ fuel ih =>
    unfold State.evictAll
    split
    · exact ih h.evictEntry
    · exact h

theorem State.Keeps.noteCollision (h : z.Keeps s) {key : Word64} : z.Keeps (s.noteCollision key) := by
  unfold State.noteCollision
  exact .ite h.addFld h

theorem State.Keeps.lookupPages (h : z.Keeps s) {q : Nat} {x : Seq} {k : Nat} {parent : Option Nat} {key : Word64}
    {l : List (List Nat)} : z.Keeps (s.lookupPages q x k parent key l).2 := by
  induction l generalizing s k parent key with
  | nil => exact h
  | cons toks rest ih =>
    unfold State.lookupPages
    dsimp only
    split
    · exact h.add64.noteCollision
    · split
      · exact h.add64
      · exact ih h.add64.refPage.setEntry.setChain.putDir.add64

theorem State.Keeps.makeRoom (h : z.Keeps s) {chain : List Nat} {fuel : Nat} : z.Keeps (s.makeRoom chain fuel) := by
  induction fuel generalizing s with
  | zero => exact h
  | succ fuel ih =>
    unfold State.makeRoom
    split
    · exact h
    · split
      · exact ih h.evictEntry
      · exact h

theorem State.Keeps.publishFrom (h : z.Keeps s) {x : Seq} {chain : List Nat} {parent : Option Nat}
    {n k done fuel : Nat} : z.Keeps (s.publishFrom x chain parent n k done fuel).2 := by
  induction fuel generalizing s chain parent k done with
  | zero => exact h
  | succ fuel ih =>
    unfold State.publishFrom
    dsimp only
    split
    · exact h
    · split
      · exact ih h
      · split
        · exact h.noteCollision.makeRoom
        · split
          · exact h.noteCollision.makeRoom
          · exact ih h.noteCollision.makeRoom.putDir.addFld.cancelSpill.refPage

theorem State.Keeps.publish (h : z.Keeps s) {x : Seq} : z.Keeps (s.publish x).2 := by
  unfold State.publish
  split
  · exact h.publishFrom
  · exact h

theorem State.Keeps.gather (h : z.Keeps s) {k : Nat} {l : List (Nat × Nat)} : z.Keeps (s.gather k l) := by
  induction l generalizing s k with
  | nil => exact h
  | cons x r ih => exact ih h.copyBytes

theorem State.Keeps.scatter (h : z.Keeps s) {k : Nat} {l : List (Nat × Nat)} : z.Keeps (s.scatter k l) := by
  induction l generalizing s k with
  | nil => exact h
  | cons x r ih => exact ih h.copyBytes

theorem State.Keeps.pageOut (h : z.Keeps s) {p P r : Nat} : z.Keeps (s.pageOut p P r) := by
  unfold State.pageOut
  split
  · exact h.gather.withYard
  · exact h

theorem State.Keeps.pageIn (h : z.Keeps s) {p P r : Nat} : z.Keeps (s.pageIn p P r) := by
  unfold State.pageIn
  split
  · exact h.scatter
  · exact h

theorem State.Keeps.takeRecs (h : z.Keeps s) {units : Nat} {l : List (Nat × Nat)} {t : List (Nat × Nat × Nat) × State}
    (e : s.takeRecs units l = some t) : z.Keeps t.2 := by
  induction l generalizing s t with
  | nil => exact Option.some.inj e ▸ h
  | cons x r ih =>
    unfold State.takeRecs at e
    split at e
    · cases e
    · next e1 =>
      split at e
      · cases e
      · next e2 =>
        obtain rfl := Option.some.inj e
        have h1 := ih (h.takeRec e1) e2
        exact h1

theorem State.Keeps.startWriteOut (h : z.Keeps s) {q : Nat} {x : Seq} : z.Keeps (s.startWriteOut q x) := by
  unfold State.startWriteOut
  split
  · exact h
  next l s1 e => exact (((h.takeRecs e)).foldl (fun _ _ h1 => h1.putKv)).withYard.updSeq.countSeqs

theorem State.Keeps.startSpill (h : z.Keeps s) {p : Nat} {t : State} (e : s.startSpill p = some t) : z.Keeps t := by
  simp only [State.startSpill, Option.bind_eq_some_iff, Option.map_eq_some_iff, Option.orElse_eq_or,
    Option.or_eq_some_iff] at e
  obtain ⟨_, _, _, e1 | ⟨_, e1⟩, rfl⟩ := e <;> exact (h.takeRec e1).putKv.withYard

theorem State.Keeps.keepWater (h : z.Keeps s) {p : Nat} : z.Keeps (s.keepWater p) := by
  unfold State.keepWater
  exact .ite (h.getD (fun _ e => h.startSpill e)) h

theorem State.Keeps.addReq (h : z.Keeps s) {kind : ReqKind} {p q e : Nat} {core : Option Nat} :
    z.Keeps (s.addReq kind p q e core) := by
  unfold State.addReq
  exact .ite h (.ite h h.withYard)

theorem State.Keeps.nextRestore (h : z.Keeps s) {q : Nat} {x : Seq} : z.Keeps (s.nextRestore q x) := by
  unfold State.nextRestore
  split
  · exact h.addReq
  · exact h

theorem State.Keeps.startRestore (h : z.Keeps s) {q : Nat} : z.Keeps (s.startRestore q) := by
  unfold State.startRestore
  split
  · exact .ite h.putSeq.nextRestore h
  · exact h

theorem State.Keeps.stopTransfers (h : z.Keeps s full) {q : Nat} : z.Keeps (s.stopTransfers q) full := by
  unfold State.stopTransfers
  exact (((h.foldl (fun _ _ h1 => .freeKv (.putKv (.ite h1.unpin h1)))).foldl (fun _ _ h1 => h1.cancelSpill)).foldl
      (fun _ _ h1 => h1.foldl (fun _ _ h2 => h2.freeRec.putKv))).withYard

theorem State.Keeps.releaseList (h : z.Keeps s full) {q : Nat} {x : Seq} : z.Keeps (s.releaseList q x).2 full := by
  have del (v : State) (hv : z.Keeps v full) :
      State.Keeps z { v with text := { v.text with seqs := v.text.seqs.del q } } full := hv.same
  unfold State.releaseList
  refine (del _ (.foldl_snd (p := (0, s.stopTransfers q)) h.stopTransfers fun u e h1 => ?_)).countSeqs
  split
  · exact h1.unref (p := x.pool) (P := e.2) (q := some q)
  · split
    · exact h1.freeRec (r := e.2 - 0x80000000)
    · exact h1

/-! ### The functions of `Machine/GangOps` -/

theorem State.Keeps.putImage (h : z.Keeps s full) {k : Nat} {m : Image} : z.Keeps (s.putImage k m) full := h.same

theorem State.Keeps.updMember (h : z.Keeps s) {u i : Nat} {f : Core → Core} : z.Keeps (s.updMember u i f) := by
  unfold State.updMember
  split
  · exact h.updCore
  · split
    · exact h.putImage
    · exact h

theorem State.Keeps.bayWriteMember (h : z.Keeps s) {u i a : Nat} {bs : List Byte} :
    z.Keeps (s.bayWriteMember u i a bs) := by
  unfold State.bayWriteMember
  split
  · exact h.bayStore
  · split
    · exact .ite h.putImage h
    · exact h

theorem State.Keeps.signalMember (h : z.Keeps s) {u i sem : Nat} : z.Keeps (s.signalMember u i sem) := h.updMember

theorem State.Keeps.countEvent (h : z.Keeps s full) {c code n ctx : Nat} : z.Keeps (s.countEvent c code n ctx) full := by
  unfold State.countEvent
  exact .ite h h.raise

theorem State.Keeps.sliceEnd (h : z.Keeps s full) {c ctx : Nat} : z.Keeps (s.sliceEnd c ctx) full := by
  unfold State.sliceEnd
  exact h.countEvent.countEvent.countEvent.countEvent.countEvent.countEvent.countEvent.updCore

theorem State.Keeps.notePc (h : z.Keeps s full) {c : Nat} : z.Keeps (s.notePc c) full := h.wr.wr

theorem State.Keeps.dropCoreYard (h : z.Keeps s full) {c : Nat} : z.Keeps (s.dropCoreYard c) full := by
  unfold State.dropCoreYard
  refine .updCore (.withYard (.foldl (.foldl (.foldl h (fun _ _ h1 => ?_)) (fun _ _ h1 => ?_)) (fun _
      _ h1 => h1.unpin.putKv.freeKv)))
  · split
    · exact h1.unpin
    · exact h1
  · split
    · exact h1.unpin
    · exact h1

theorem State.Keeps.appendEvents (h : z.Keeps s full) {q : Nat} {x : Seq} {a : Appending} :
    z.Keeps (s.appendEvents q x a) full := by
  unfold State.appendEvents
  exact .unless (.unless (.ite h h.raise) (·.raise)) (·.raise)

theorem State.Keeps.unqueueRow (h : z.Keeps s full) {q : Nat} : z.Keeps (s.unqueueRow q) full := h.same

theorem State.Keeps.discardRow (h : z.Keeps s full) {q : Nat} : z.Keeps (s.discardRow q) full := by
  unfold State.discardRow
  exact .ite h.unqueueRow.addSat h

theorem State.Keeps.endAppend (h : z.Keeps s full) {q : Nat} {st : Status} : z.Keeps (s.endAppend q st) full := by
  unfold State.endAppend
  split
  · split
    · exact h.appendEvents.complete.releaseHolds.putSeq.discardRow
    · exact h
  · exact h

theorem State.Keeps.endOp (h : z.Keeps s full) {q : Nat} {st : Status} : z.Keeps (s.endOp q st) full := by
  unfold State.endOp
  split
  · split
    · exact h.endAppend
    · split
      · refine .updSeq ?_
        split
        · exact h.complete.releaseHolds
        · exact h
      · exact h
  · exact h

theorem State.Keeps.dropOps (h : z.Keeps s) {n : Nat} {st : Status} {us : List Nat} : z.Keeps (s.dropOps n st us) := by
  unfold State.dropOps
  refine .foldl h (fun _ _ h1 => ?_)
  split
  · exact h1.complete.releaseHolds
  · exact h1

theorem State.Keeps.loseSeq (h : z.Keeps s full) {q : Nat} {st : Status} : z.Keeps (s.loseSeq q st) full := by
  unfold State.loseSeq
  split
  · exact .ite h (h.putSeq.when (·.endOp))
  · exact h

theorem State.Keeps.closeSeq (h : z.Keeps s full) {q : Nat} : z.Keeps (s.closeSeq q) full := by
  unfold State.closeSeq
  split
  · exact h.releaseList.discardRow
  · exact h

theorem State.Keeps.dropColl (h : z.Keeps s full) {u : Nat} : z.Keeps (s.dropColl u) full := h.same

theorem State.Keeps.quitGang (h : z.Keeps s full) {g : Gang} : z.Keeps (s.quitGang g) full :=
  (h.foldl (fun _ _ h1 => h1.sliceEnd.notePc.dropCoreYard.updCore.wr)).same.dropGang

theorem State.Keeps.unuse (h : z.Keeps s full) {u : Nat} : z.Keeps (s.unuse u) full := h.same

theorem State.Keeps.finishGang (h : z.Keeps s full) {g : Gang} {st : Status} {result : Nat} :
    z.Keeps (s.finishGang g st result) full := by
  unfold State.finishGang
  dsimp only
  split
  · exact h.quitGang.complete.settleRun
  · split
    · exact h.quitGang.same
    · refine .foldl h.quitGang.same (fun _ _ h1 => ?_)
      split
      · exact h1.endAppend.when (·.faultNotice)
      · exact h1.endAppend

theorem State.Keeps.noteStop (h : z.Keeps s) {c cause unit ctx : Nat} : z.Keeps (s.noteStop c cause unit ctx) :=
  h.setFld.setFld.setFld

theorem State.Keeps.progStop (h : z.Keeps s) {c tc : Nat} {pc : Word} {unit cause : Nat} {st : Status} :
    z.Keeps (s.progStop c tc pc unit cause st) := by
  unfold State.progStop
  split
  · exact h
  · exact h.noteStop.raise.finishGang

theorem State.Keeps.progErrorAt (h : z.Keeps s) {c tc : Nat} {pc : Word} {unit cause : Nat} :
    z.Keeps (s.progErrorAt c tc pc unit cause) :=
  h.progStop

theorem State.Keeps.limitError (h : z.Keeps s) {core : Nat} {l : Launch} : z.Keeps (s.limitError core l) := h.progStop

theorem State.Keeps.progError (h : z.Keeps s) {core : Nat} {l : Launch} {cause : Nat} :
    z.Keeps (s.progError core l cause) :=
  h.progErrorAt

theorem State.Keeps.tcError (h : z.Keeps s) {c t cause : Nat} : z.Keeps (s.tcError c t cause) := h.progErrorAt

theorem State.Keeps.endRun (h : z.Keeps s) {core : Nat} {st : Status} : z.Keeps (s.endRun core st) := by
  unfold State.endRun
  split
  · exact h.finishGang
  · exact h

theorem State.Keeps.endRunWith (h : z.Keeps s) {core : Nat} {_l : Launch} {st : Status} :
    z.Keeps (s.endRunWith core _l st) :=
  h.endRun

theorem State.Keeps.meError (h : z.Keeps s) {core m : Nat} {l : Launch} {st : Status} :
    z.Keeps (s.meError core m l st) :=
  h.progStop

theorem State.Keeps.corePoison (h : z.Keeps s) {core line : Nat} : z.Keeps (s.corePoison core line) := by
  unfold State.corePoison
  split
  · exact h.raise.finishGang
  · exact h

theorem State.Keeps.stopRunOf (h : z.Keeps s full) {q : Nat} : z.Keeps (s.stopRunOf q) full := by
  unfold State.stopRunOf
  split
  · exact h
  · split
    · exact .ite h.quitGang.same.unuse h
    · exact h

theorem State.Keeps.loseSpread (h : z.Keeps s) {dst : Option Nat} : z.Keeps (s.loseSpread dst) :=
  h.foldl (fun _ _ h1 => .ite h1 h1.stopRunOf.endOp.dropOps.closeSeq.raise)

theorem State.Keeps.losePeerSpills (h : z.Keeps s) : z.Keeps s.losePeerSpills := by
  unfold State.losePeerSpills
  exact (h.foldl (fun _ _ h1 => h1.cancelSpill)).unless (fun h => ((h.foldl (fun _ _ h1 => h1.badRec)).foldl (fun _
      _ h1 => h1.loseSeq)).raise)

/-! ### The functions of `Machine/Runs` -/

theorem State.Keeps.newGang (h : z.Keeps s) {n : Nat} {d : Desc} {width k : Nat} {args : List Byte} {members : List
    (Nat × Nat)} : z.Keeps (s.newGang n d width k args members).2 :=
  h.congr.holdRegions

theorem State.Keeps.runRead (h : z.Keeps s) {d : Desc} : z.Keeps (s.runRead d) := h.touchAt.touchAt

theorem execRun_keeps (h : z.Keeps s) {ctx : Fin 256} {sq : Fin 4} : NextKeeps z (execRun ctx sq s) := by
  unfold execRun
  refine State.Keeps.next (.take h (fun _ _ h1 => ?_))
  dsimp only
  split
  · exact h1.runRead.consume
  · split
    · exact h1.runRead
    · exact h1.runRead.newGang

/-! ### The functions of `Machine/Gangs` -/

theorem State.Keeps.writeImage (h : z.Keeps s full) {g : Gang} {c : Nat} : z.Keeps (s.writeImage g c) full := by
  have drop (v : State) (hv : z.Keeps v full) (p : Nat × Image → Bool) :
      State.Keeps z { v with images := v.images.filter p } full := hv.same
  unfold State.writeImage
  exact (drop _ (h.newFree.store (k := kHbm ((s.savedImage g c).frame * 0x200000))) _).putImage

theorem State.Keeps.lostStatistics (h : z.Keeps s) {c : Nat} {live : BitVec 24} :
    z.Keeps (s.lostStatistics c live) := by
  unfold State.lostStatistics
  exact .ite h h.congr.updCore

theorem State.Keeps.loadImage (h : z.Keeps s) {c : Nat} {m : Image} : z.Keeps (s.loadImage c m) := by
  have puts : ∀ (l m : List Host.Cell), Memory.wf m = true →
      Memory.wf (l.foldl (fun (m : List Host.Cell) (e : Nat × Byte) => memPut m
          (kScratch c 0 0 + e.1) e.2) m) = true := by
    intro l
    induction l with
    | nil => exact fun _ h => h
    | cons x r ih => exact fun _ h => ih _ (Memory.memPut_wf _ _ h)
  have cells : ∀ (l m : List Host.Cell), rising (m.map Prod.fst) = true →
      rising ((l.foldl (fun (m : List Host.Cell) (e : Nat × Byte) => cellPut m
          (kBay c e.1) e.2) m).map Prod.fst) = true := by
    intro l
    induction l with
    | nil => exact fun _ h => h
    | cons x r ih => exact fun _ h => ih _ (rising_cellPut _ _ h)
  unfold State.loadImage
  refine .setFld (.lostStatistics (.updCore (.tables
    (h.clearKeys (lo := kScratch c 0 0) (hi := kScratch (c + 1) 0 0)) fun i => ⟨?_, ?_, ?_⟩)))
  · exact puts _ _ i.mem
  · exact cells _ _ (rising_map_filter _ i.bay)
  · exact rising_setInserts _ (rising_filter _ i.poison)

theorem State.Keeps.startCore (h : z.Keeps s full) {g : Gang} {c : Nat} : z.Keeps (s.startCore g c) full :=
  h.clearKeys.store.store.bayUndefine.bayStore.updCore.setFld

theorem State.Keeps.noteRoom (h : z.Keeps s full) {n : Nat} : z.Keeps (s.noteRoom n) full := by
  unfold State.noteRoom
  exact .ite (h.setFld.unless (·.setCtx.raise)) h

theorem State.Keeps.imageAll (h : z.Keeps s full) {g : Gang} : z.Keeps (s.imageAll g) full :=
  (h.foldl (fun _ _ h1 => h1.writeImage)).updGang

theorem State.Keeps.startSlice (h : z.Keeps s full) {u : Nat} {restored : Bool} : z.Keeps (s.startSlice u restored) full := by
  unfold State.startSlice
  split
  · exact h
  · exact (h.noteRoom.when (·.imageAll)).updGang

theorem State.Keeps.giveCores (h : z.Keeps s full) {g : Gang} {cs : List Nat} : z.Keeps (s.giveCores g cs) full := by
  unfold State.giveCores
  exact (h.noteBusy.foldl (fun _ _ h1 => h1.holdCore)).updGang.countCores.countHeld.foldl (fun _ _ h1 => h1.settleRun)

theorem State.Keeps.grant (h : z.Keeps s full) {g : Gang} {cs : List Nat} : z.Keeps (s.grant g cs) full := by
  unfold State.grant
  exact .ite (h.giveCores.foldl (fun _ _ h1 => h1.startCore)).updGang.startSlice (h.giveCores.foldl (fun _
      _ h1 => h1.setFld)).updGang

theorem State.Keeps.stopGangs (h : z.Keeps s) {vs : List Gang} : z.Keeps (s.stopGangs vs) :=
  h.foldl (fun _ _ h1 => h1.updGang)

theorem execGangDispatch_keeps (h : z.Keeps s) {gang : Nat} {cores : List (Fin 64)} :
    NextKeeps z (execGangDispatch gang cores s) := by
  unfold execGangDispatch
  split
  · exact h.next
  · exact .ite h.next (.ite h.grant.next (.ite h.next (.ite h.stopGangs.next h.next)))

theorem execQuantumEnd_keeps (h : z.Keeps s) {gang : Nat} : NextKeeps z (execQuantumEnd gang s) := by
  unfold execQuantumEnd
  split
  · exact h.next
  · exact .ite h.next (.ite h.stopGangs.next (h.foldl (fun _ _ h1 => h1.sliceEnd)).startSlice.next)

theorem execPreemptStopped_keeps (h : z.Keeps s) {gang : Nat} : NextKeeps z (execPreemptStopped gang s) := by
  unfold execPreemptStopped
  split
  · exact h.next
  · exact .ite h.next (State.Keeps.next (.updGang (.addFld (.addFld (.foldl (.ite h.raise h) (fun _
      _ h1 => h1.sliceEnd.notePc.setFld))))))

theorem execSaveDone_keeps (h : z.Keeps s) {core : Fin 64} {ecc : Bool} : NextKeeps z (execSaveDone core ecc s) := by
  unfold execSaveDone
  split
  · exact h.next
  · exact .ite h.next
      (.ite h.finishGang.next h.writeImage.setCore.holdCore.wr.updGang.countCores.countHeld.settleRun.noteIdle.next)

theorem State.Keeps.readImages (h : z.Keeps s) {g : Gang} : z.Keeps (s.readImages g) := h.foldl (fun _ _ h1 => h1.touch)

theorem execRestoreDone_keeps (h : z.Keeps s) {gang : Nat} {ecc : Bool} : NextKeeps z (execRestoreDone gang ecc s) := by
  unfold execRestoreDone
  split
  · exact h.next
  · split
    · exact h.next
    · dsimp only
      split
      · exact h.readImages.finishGang.next
      · refine State.Keeps.next (.startSlice (.foldl h.readImages (fun _ _ h1 => ?_)))
        split
        · exact h1.loadImage.setFld
        · exact h1

theorem State.Keeps.reclass (h : z.Keeps s) : z.Keeps s.reclass := h.foldl (fun _ _ h1 => .ite h1 h1.updGang)

theorem State.Keeps.missed (h : z.Keeps s) {n left : Nat} : z.Keeps (s.missed n left) := h.addFld.notify.addFld.raise

theorem execPeriodStart_keeps (h : z.Keeps s) {ctx : Fin 256} : NextKeeps z (execPeriodStart ctx s) := by
  unfold execPeriodStart
  exact .ite h.next (State.Keeps.next (.reclass (.setCtx (.wr64 (.wr (.ite h.missed h))))))

theorem execBudgetExhausted_keeps (h : z.Keeps s) {gang : Nat} : NextKeeps z (execBudgetExhausted gang s) := by
  unfold execBudgetExhausted
  split
  · exact h.next
  · exact .ite h.next h.updGang.next

theorem State.Keeps.chargeGang (h : z.Keeps s) {g : Gang} : z.Keeps (s.chargeGang g) := by
  unfold State.chargeGang
  exact .ite h (h.foldl (fun _ _ h1 => h1.wr)).updGang

theorem State.Keeps.chargeBudgets (h : z.Keeps s) : z.Keeps s.chargeBudgets := h.foldl (fun _ _ h1 => h1.chargeGang)

theorem execCapacityEvaluation_keeps (h : z.Keeps s) : NextKeeps z (execCapacityEvaluation s) := by
  unfold execCapacityEvaluation
  split
  · exact h.next
  · exact ((h.congr.countCores.setFld.setFld.setFld.when (·.raise)).foldl (fun _
      _ h1 => h1.installBroken)).countBroken.sumReservations.reclass.next

theorem execRunEnd_keeps (h : z.Keeps s) {gang : Nat} : NextKeeps z (execRunEnd gang s) := by
  unfold execRunEnd
  split
  · exact h.next
  · exact .ite h.next h.finishGang.next

theorem State.Keeps.freshCore (h : z.Keeps s full) {c : Nat} : z.Keeps (s.freshCore c) full :=
  (((h.setCore (c := c) (k := Core.reset)).bayUndefine (c := c) (banks := fun _ => true)).clearKeys
    (lo := kScratch c 0 0) (hi := kScratch (c + 1) 0 0)).tablesSame fun i => ⟨i.mem, i.bay, rising_filter _ i.poison⟩

theorem State.Keeps.remap (h : z.Keeps s full) {c : Nat} : z.Keeps (s.remap c) full := by
  unfold State.remap
  exact .ite h.setFld.freshCore.raise h.setFld

theorem State.Keeps.standIns (h : z.Keeps s) {g : Gang} {l : List Nat} {t : List Nat × State}
    (e : s.standIns g l = some t) : z.Keeps t.2 := by
  induction l generalizing s t with
  | nil => exact Option.some.inj e ▸ h
  | cons c r ih =>
    unfold State.standIns at e
    dsimp only at e
    split at e
    · cases e
    · split at e
      · cases e
      · next e1 =>
        obtain rfl := Option.some.inj e
        have h1 := ih h.holdCore e1
        exact h1

theorem State.Keeps.replay (h : z.Keeps s full) {g : Gang} {core : Nat} : z.Keeps (s.replay g core) full := by
  unfold State.replay
  dsimp only
  split
  · exact (((h.foldl (fun _ _ h1 => h1.notePc.dropCoreYard.setCore.wr)).dropColl.foldl (fun _ _ h1 => h1.remap)).when
      (·.evalWanted)).freeCores.updGang.addFld.addFld.raise.grant
  · exact (((h.foldl (fun _ _ h1 => h1.notePc.dropCoreYard.setCore.wr)).dropColl.foldl (fun _ _ h1 => h1.remap)).when
      (·.evalWanted)).freeCores.updGang.addFld.addFld.raise.settleRun

theorem State.Keeps.gangFault (h : z.Keeps s full) {g : Gang} {core : Nat} : z.Keeps (s.gangFault g core) full := by
  unfold State.gangFault
  exact .ite h.replay (.finishGang (.ite h.raise h))

theorem State.Keeps.countFault (h : z.Keeps s) {c cause : Nat} : z.Keeps (s.countFault c cause) := by
  unfold State.countFault
  exact .ite h.addSat (.ite h h.addSat)

theorem State.Keeps.coreFault (h : z.Keeps s) {c cause unit : Nat} {injected : Bool} :
    z.Keeps (s.coreFault c cause unit injected) := by
  unfold State.coreFault
  split
  · exact h
  · exact (h.noteStop.countFault.unless (·.addSat.setFld)).raise.gangFault

theorem execCoreFault_keeps (h : z.Keeps s) {core : Fin 64} {cause : Fin 4} {unit : Fin 8} :
    NextKeeps z (execCoreFault core cause unit s) := by
  unfold execCoreFault
  exact h.coreFault.next

theorem execCoreRemap_keeps (h : z.Keeps s) {core : Fin 64} : NextKeeps z (execCoreRemap core s) := by
  unfold execCoreRemap
  exact .ite h.next (h.remap.countCores.when (·.evalWanted)).next

/-! ### The functions of `Machine/CoreMem` -/

theorem State.Keeps.locTouch (h : z.Keeps s) {l : Loc} {n : Nat} : z.Keeps (s.locTouch l n) := by
  unfold State.locTouch
  split
  · exact h
  · exact h.touch

theorem State.Keeps.locStore (h : z.Keeps s) {l : Loc} {bs : List Byte} : z.Keeps (s.locStore l bs) := by
  unfold State.locStore
  split
  · exact h.bayStore
  · exact h.store

theorem State.Keeps.spoilLoc (h : z.Keeps s) {l : Loc} {n : Nat} : z.Keeps (s.spoilLoc l n) := by
  unfold State.spoilLoc
  split
  · exact .ite h h.undefine
  · exact h.newFree.bayStore

theorem State.Keeps.locCopy (h : z.Keeps s) {src dst : Loc} {n : Nat} : z.Keeps (s.locCopy src dst n) :=
  h.locTouch.locStore.poisonLines

theorem State.Keeps.bayCorrected (h : z.Keeps s) {c : Nat} {ce : Option (Fin 24)} : z.Keeps (s.bayCorrected c ce) := by
  unfold State.bayCorrected
  split
  · exact h
  · exact h.addSat.raise

theorem State.Keeps.semAdd (h : z.Keeps s) {c sem n : Nat} : z.Keeps (s.semAdd c sem n) := h.updCore

theorem State.Keeps.putElem (h : z.Keeps s) {l : Loc} {w i v : Nat} : z.Keeps (s.putElem l w i v) := h.locStore

/-! ### The functions of `Machine/Recorder` -/

theorem State.Keeps.withEvr (h : z.Keeps s) {f : Recorder → Recorder} : z.Keeps (s.withEvr f) := h.congr

theorem State.Keeps.putSlot (h : z.Keeps s) {r : EvRecord} : z.Keeps (s.putSlot r) := h.withEvr

theorem State.Keeps.updMirrorSeq (h : z.Keeps s) : z.Keeps s.updMirrorSeq := h.wr

theorem State.Keeps.closeRecord (h : z.Keeps s) {r : EvRecord} : z.Keeps (s.closeRecord r) := h.putSlot.when (·.withEvr)

theorem State.Keeps.closeAll (h : z.Keeps s) : z.Keeps s.closeAll := (h.foldl
    (fun _ _ h1 => h1.closeRecord)).updMirrorSeq

theorem State.Keeps.loseUnmirrored (h : z.Keeps s) {slot : Nat} : z.Keeps (s.loseUnmirrored slot) := by
  unfold State.loseUnmirrored
  split
  · exact h
  · exact h.addSat.withEvr.when (·.raise)

theorem State.Keeps.writeRecord (h : z.Keeps s) {ev : Event} : z.Keeps (s.writeRecord ev) := by
  unfold State.writeRecord
  refine .updMirrorSeq ?_
  split
  · exact (h.loseUnmirrored.putSlot.withEvr.wr.wr.when (·.closeRecord)).unless (·.closeRecord)
  · exact h.loseUnmirrored.putSlot.withEvr.wr.wr.when (·.closeRecord)

theorem State.Keeps.selfRecord (h : z.Keeps s) {code : Nat} {vals : List EvVal} : z.Keeps (s.selfRecord code vals) :=
  h.markEvent.pulse.writeRecord

theorem State.Keeps.admitHeld (h : z.Keeps s) : z.Keeps s.admitHeld := by
  unfold State.admitHeld
  split
  · exact h
  · exact .ite h.withEvr.pushIntake h

theorem State.Keeps.reportLoss (h : z.Keeps s) : z.Keeps s.reportLoss := by
  unfold State.reportLoss
  exact .ite h.selfRecord.setFld.withEvr h

theorem execEventIntake_keeps (h : z.Keeps s) : NextKeeps z (execEventIntake s) := by
  unfold execEventIntake
  split
  · exact h.next
  · split
    · exact h.congr.selfRecord.next
    · split
      · exact h.next
      · refine State.Keeps.next (.reportLoss ?_)
        split
        · exact h.withEvr.admitHeld.putSlot
        · exact h.withEvr.admitHeld.writeRecord

theorem execRecordClose_keeps (h : z.Keeps s) {seq : Word} : NextKeeps z (execRecordClose seq s) := by
  unfold execRecordClose
  split
  · exact .ite h.closeRecord.updMirrorSeq.next h.next
  · exact h.next

theorem State.Keeps.snapTake (h : z.Keeps s) {val : Word} : z.Keeps (s.snapTake val) := by
  unfold State.snapTake
  exact .ite h.wr.wr h

theorem State.Keeps.setMirror (h : z.Keeps s) {n : Nat} : z.Keeps (s.setMirror n) := h.setFld

theorem State.Keeps.retireSector (h : z.Keeps s) {l us base : Nat} : z.Keeps (s.retireSector l us base) :=
  h.setFld.addSat.addSat.raise.withEvr.when (·.setMirror.setFld.raise)

theorem State.Keeps.norError (h : z.Keeps s) : z.Keeps s.norError := h.withEvr.when (·.setMirror.raise)

theorem State.Keeps.updMirrorRange (h : z.Keeps s) : z.Keeps s.updMirrorRange := h.wr.wr

theorem execMirrorProgramDone_keeps (h : z.Keeps s) {us tries : Nat} {ok : Bool} :
    NextKeeps z (execMirrorProgramDone us tries ok s) := by
  unfold execMirrorProgramDone
  split
  · exact h.next
  · exact .ite h.next (.ite h.norError.next (.ite h.withEvr.updMirrorSeq.next (h.withEvr.when
      (·.retireSector)).updMirrorSeq.updMirrorRange.next))

theorem execNorEraseDone_keeps (h : z.Keeps s) {us : Nat} {ok : Bool} : NextKeeps z (execNorEraseDone us ok s) := by
  unfold execNorEraseDone
  exact .ite h.next (.ite h.norError.next (.ite h.next (h.withEvr.when (·.retireSector)).updMirrorRange.next))

theorem execNorRetry_keeps (h : z.Keeps s) {ok : Bool} : NextKeeps z (execNorRetry ok s) := by
  unfold execNorRetry
  exact .ite h.next (.ite h.setMirror.withEvr.next h.withEvr.next)

theorem State.Keeps.mread (h : z.Keeps s) {val : Word} : z.Keeps (s.mread val) := h.wr.withEvr

theorem execMreadDone_keeps (h : z.Keeps s) : NextKeeps z (execMreadDone s) := by
  unfold execMreadDone
  split
  · exact h.next
  · dsimp only
    split
    · exact h.withEvr.wr.next
    · exact (h.withEvr.foldl (fun _ _ h1 => h1.wr)).wr.next

/-! ### The functions of `Machine/Karlund` -/

theorem State.Keeps.withKl (h : z.Keeps s) {f : Kl → Kl} : z.Keeps (s.withKl f) := h.congr

theorem State.Keeps.updPort (h : z.Keeps s) {n : Nat} {f : KlPort → KlPort} : z.Keeps (s.updPort n f) := h.withKl

theorem State.Keeps.refreshUsable (h : z.Keeps s) {n : Nat} : z.Keeps (s.refreshUsable n) := h.setFld

theorem State.Keeps.spoilCrc (h : z.Keeps s) {p n : Nat} : z.Keeps (s.spoilCrc p n) := by
  unfold State.spoilCrc
  exact .ite h.congr h

theorem State.Keeps.putPiece (h : z.Keeps s) {k : Nat} {p : Piece} : z.Keeps (s.putPiece k p) := h.store.poisonLines

theorem State.Keeps.transmit (h : z.Keeps s) {m : KlMsg} {key : Nat} : z.Keeps (s.transmit m key) := by
  unfold State.transmit
  dsimp only
  split
  · exact h.withKl
  · exact h.updPort.spoilCrc

theorem State.Keeps.klSend (h : z.Keeps s) {dst : Nat} {b : KlBody} : z.Keeps (s.klSend dst b) := by
  unfold State.klSend
  exact .ite h.transmit (.ite h.withKl.withKl h.withKl.withKl.transmit)

theorem execFlitReceived_keeps (h : z.Keeps s) {port : Fin 8} {corrected uncorrected : Nat} {crcOk : Bool}
    {acked : Nat} : NextKeeps z (execFlitReceived port corrected uncorrected crcOk acked s) := by
  unfold execFlitReceived
  exact .ite h.next (.ite h.addSat.addSat.next
      (.ite h.addSat.addSat.updPort.setFld.updPort.refreshUsable.next h.addSat.addSat.updPort.next))

theorem execFlitReplayTimer_keeps (h : z.Keeps s) {port : Fin 8} : NextKeeps z (execFlitReplayTimer port s) := by
  unfold execFlitReplayTimer
  exact .ite h.addSat.updPort.spoilCrc.next h.next

theorem State.Keeps.handOver (h : z.Keeps s) {port : Nat} : z.Keeps (s.handOver port) :=
  h.updPort.foldl (fun _ _ h1 => h1.transmit)

theorem execKlSuspect_keeps (h : z.Keeps s) {port : Fin 8} : NextKeeps z (execKlSuspect port s) := by
  unfold execKlSuspect
  exact .ite h.setFld.setFld.raise.handOver.next h.next

theorem execHeartbeatSend_keeps (h : z.Keeps s) {port : Fin 8} : NextKeeps z (execHeartbeatSend port s) := by
  unfold execHeartbeatSend
  exact .ite h.updPort.next h.next

theorem State.Keeps.noteHeartbeat (h : z.Keeps s) {n : Nat} {hb : Heartbeat} : z.Keeps (s.noteHeartbeat n hb) :=
  h.setFld.setFld.setFld.setFld.wr64.updPort.refreshUsable

theorem execHeartbeatReceived_keeps (h : z.Keeps s) {port : Fin 8} {hb : Heartbeat} :
    NextKeeps z (execHeartbeatReceived port hb s) := by
  unfold execHeartbeatReceived
  exact .ite h.noteHeartbeat.syncHeartbeat.next h.next

theorem execKlDown_keeps (h : z.Keeps s) {port : Fin 8} : NextKeeps z (execKlDown port s) := by
  unfold execKlDown
  exact .ite h.setFld.setFld.addSat.updPort.raise.handOver.next h.next

theorem execKlRetrain_keeps (h : z.Keeps s) {port : Fin 8} : NextKeeps z (execKlRetrain port s) := by
  unfold execKlRetrain
  exact .ite h.setFld.next h.next

theorem execKlUp_keeps (h : z.Keeps s) {port : Fin 8} {hb : Heartbeat} : NextKeeps z (execKlUp port hb s) := by
  unfold execKlUp
  exact .ite h.setFld.updPort.noteHeartbeat.raise.next h.next

theorem execKlHoldoffExpiry_keeps (h : z.Keeps s) {port : Fin 8} : NextKeeps z (execKlHoldoffExpiry port s) := by
  unfold execKlHoldoffExpiry
  exact h.refreshUsable.next

theorem State.Keeps.failOps (h : z.Keeps s) {sel : CollOp → Bool} {st : Status} : z.Keeps (s.failOps sel st) := by
  unfold State.failOps
  exact h.withKl

theorem State.Keeps.failUnreachable (h : z.Keeps s) : z.Keeps s.failUnreachable := h.failOps

theorem State.Keeps.failAccesses (h : z.Keeps s) {sel : PeerAcc → Bool} {st : Status} :
    z.Keeps (s.failAccesses sel st) := by
  unfold State.failAccesses
  exact .ite h.withKl h

theorem State.Keeps.reportUnreachable (h : z.Keeps s) : z.Keeps s.reportUnreachable := by
  unfold State.reportUnreachable
  exact .ite (h.foldl (fun _ _ h1 => h1.raise)).withKl h

theorem State.Keeps.fenceTimer (h : z.Keeps s) : z.Keeps s.fenceTimer := by
  unfold State.fenceTimer
  exact .ite h.withKl h.withKl

theorem State.Keeps.sendStranded (h : z.Keeps s) : z.Keeps s.sendStranded := h.withKl.foldl (fun _ _ h1 => h1.transmit)

theorem State.Keeps.recomputeRoutes (h : z.Keeps s) : z.Keeps s.recomputeRoutes := by
  unfold State.recomputeRoutes
  exact (((h.foldl (fun _ _ h1 => h1.setFld.setFld)).withKl.when
      (·.raise)).sendStranded.fenceTimer.reportUnreachable.failUnreachable.failAccesses.foldl (fun _
          _ h1 => h1.loseSpread)).chooseParent

theorem execRouteChanged_keeps (h : z.Keeps s) : NextKeeps z (execRouteChanged s) := by
  unfold execRouteChanged
  exact .ite h.next h.recomputeRoutes.next

theorem State.Keeps.actOn (h : z.Keeps s) {src : Nat} {b : KlBody} : z.Keeps (s.actOn src b) := by
  unfold State.actOn
  split
  · exact .ite h.touch.klSend h.klSend
  · exact .ite h.putPiece.klSend h.klSend
  · exact .ite h.withKl h
  · exact .ite h.withKl h
  · exact h.withKl

theorem State.Keeps.deliverInOrder (h : z.Keeps s) {src fuel : Nat} : z.Keeps (s.deliverInOrder src fuel) := by
  induction fuel generalizing s with
  | zero => exact h
  | succ fuel ih =>
    unfold State.deliverInOrder
    dsimp only
    split
    · exact h
    · exact ih h.withKl.actOn

theorem State.Keeps.noteRetry (h : z.Keeps s) {src : Nat} {q : Word} : z.Keeps (s.noteRetry src q) := by
  unfold State.noteRetry
  split
  · exact h
  · exact h.withKl

theorem State.Keeps.staleDrop (h : z.Keeps s) {src epoch : Nat} : z.Keeps (s.staleDrop src epoch) := by
  unfold State.staleDrop
  exact .ite (h.addSat.when (·.raise)) h.addSat.withKl.raise

theorem State.Keeps.acceptMsg (h : z.Keeps s) {m : KlMsg} : z.Keeps (s.acceptMsg m) := by
  unfold State.acceptMsg
  split
  · exact h
  · split
    · exact h.withKl
    · exact h.noteRetry
    · exact .ite h.staleDrop.klSend (.ite h.klSend (.ite h h.withKl.deliverInOrder))

theorem execKlMessageReceived_keeps (h : z.Keeps s) {port : Fin 8} {msg : KlMsg} :
    NextKeeps z (execKlMessageReceived port msg s) := by
  unfold execKlMessageReceived
  exact .ite h.next (.ite h.acceptMsg.next (.ite h.next (.ite h.addSat.raise.next h.transmit.next)))

theorem execPeerAccess_keeps (h : z.Keeps s) {addr : Word64} {data : Option (List Byte)} {len : Nat} :
    NextKeeps z (execPeerAccess addr data len s) := by
  unfold execPeerAccess
  dsimp only
  split
  · split
    · exact h.next
    · split
      · split
        · exact h.store.withKl.next
        · exact h.touch.withKl.next
      · split
        · exact h.withKl.next
        · exact h.newUid.withKl.klSend.next
  · exact h.next

theorem execStaleNackReceived_keeps (h : z.Keeps s) : NextKeeps z (execStaleNackReceived s) := by
  unfold execStaleNackReceived
  split
  · exact .ite h.withKl.withKl.next h.withKl.next
  · exact h.next

theorem execRetryNackResend_keeps (h : z.Keeps s) : NextKeeps z (execRetryNackResend s) := by
  unfold execRetryNackResend
  split
  · exact h.next
  · exact h.withKl.transmit.next

theorem execRetryWaitExpiry_keeps (h : z.Keeps s) {pkg : Fin 16} : NextKeeps z (execRetryWaitExpiry pkg s) := by
  unfold execRetryWaitExpiry
  exact .ite h.withKl.failUnreachable.failAccesses.loseSpread.next h.next

theorem execInstallWaitExpiry_keeps (h : z.Keeps s) : NextKeeps z (execInstallWaitExpiry s) := by
  unfold execInstallWaitExpiry
  split
  · exact .ite h.setFld.withKl.raise.failOps.failAccesses.loseSpread.losePeerSpills.holdover.next h.next
  · exact h.next

theorem execFenceTimerExpiry_keeps (h : z.Keeps s) : NextKeeps z (execFenceTimerExpiry s) := by
  unfold execFenceTimerExpiry
  split
  · exact .ite h.setFld.withKl.raise.failOps.failAccesses.loseSpread.losePeerSpills.holdover.next h.next
  · exact h.next

theorem State.Keeps.installWords (h : z.Keeps s) {l : List Nat} : z.Keeps (s.installWords l) := h.congr

theorem State.Keeps.bumpEpoch (h : z.Keeps s full) {slot : Nat} : z.Keeps (s.bumpEpoch slot) full := h.setPage

theorem State.Keeps.installConsist (h : z.Keeps s) : z.Keeps s.installConsist := by
  unfold State.installConsist
  exact .ite h.setFld.raise (.ite h.setFld.setPage.installWords.recomputeRoutes
      ((h.setFld.setPage.installWords.setFld.setFld.setFld.foldl (fun _
          _ h1 => h1.bumpEpoch)).withKl.failOps.failAccesses.loseSpread.losePeerSpills.raise.foldl (fun _
              _ h1 => h1.refreshUsable)).recomputeRoutes.syncInstall)

/-! ### The functions of `Machine/Coll` -/

theorem State.Keeps.collLaunch (h : z.Keeps s) {c t : Nat} {val : Word} : z.Keeps (s.collLaunch c t val) := by
  unfold State.collLaunch
  dsimp only
  split
  · exact h.updTidy
  · refine .tcNext (.updCore ?_)
    split
    · exact h.updGang
    · exact h

theorem execCollLaunch_keeps (h : z.Keeps s) {core : Fin 64} {tc : Fin 2} {val : Word} :
    NextKeeps z (execCollLaunch core tc val s) := by
  unfold execCollLaunch
  exact .ite h.collLaunch.next h.next

theorem State.Keeps.touchOwn (h : z.Keeps s) {o : CollOp} {i : Nat} : z.Keeps (s.touchOwn o i) := h.touch

theorem State.Keeps.updOp (h : z.Keeps s) {g : Nat} {q : Word} {f : CollOp → CollOp} : z.Keeps (s.updOp g q f) := by
  unfold State.updOp
  exact h.withKl

theorem State.Keeps.sendChunk (h : z.Keeps s) {o : CollOp} {up : Bool} {origin i : Nat} {p : Piece} :
    z.Keeps (s.sendChunk o up origin i p) := by
  unfold State.sendChunk
  exact .ite h h.updOp.klSend

theorem State.Keeps.placeChunk (h : z.Keeps s) {o : CollOp} {origin i : Nat} {p : Piece} :
    z.Keeps (s.placeChunk o origin i p) := by
  unfold State.placeChunk
  exact .updOp (.ite (.ite h.putPiece h) (.ite h.putPiece h.putPiece))

theorem State.Keeps.pushOwn (h : z.Keeps s) {o : CollOp} : z.Keeps (s.pushOwn o) := by
  unfold State.pushOwn
  exact .ite h (.ite ((h.updOp.unless (·.touchOwn)).when (·.sendChunk)) (.ite (h.updOp.unless
      (·.touchOwn)).placeChunk.sendChunk.sendChunk ((h.updOp.unless (·.touchOwn)).when
          (·.placeChunk.sendChunk.sendChunk))))

theorem State.Keeps.collStart (h : z.Keeps s) {core op : Nat} {g : Gang} {l : Launch} :
    z.Keeps (s.collStart core op g l) := by
  unfold State.collStart
  exact .ite h.progError (.ite h.progError (.ite h.endRunWith (.ite h.progError
      (.ite h h.wr.addFld.updGang.withKl.pushOwn))))

theorem State.Keeps.collGo (h : z.Keeps s) {core op : Nat} : z.Keeps (s.collGo core op) := by
  unfold State.collGo
  split
  · exact h
  · dsimp only
    split
    · exact h
    · split
      · split
        · exact h.collStart
        · split
          · exact h.pushOwn
          · exact h
      · split
        · exact h.pushOwn
        · exact h

theorem execAllReduce_keeps (h : z.Keeps s) {core : Fin 64} : NextKeeps z (execAllReduce core s) := by
  unfold execAllReduce
  exact h.collGo.next

theorem execReduceScatter_keeps (h : z.Keeps s) {core : Fin 64} : NextKeeps z (execReduceScatter core s) := by
  unfold execReduceScatter
  exact h.collGo.next

theorem execAllGather_keeps (h : z.Keeps s) {core : Fin 64} : NextKeeps z (execAllGather core s) := by
  unfold execAllGather
  exact h.collGo.next

theorem execBroadcast_keeps (h : z.Keeps s) {core : Fin 64} : NextKeeps z (execBroadcast core s) := by
  unfold execBroadcast
  exact h.collGo.next

theorem State.Keeps.takeChunk (h : z.Keeps s) {o : CollOp} {c : Chunk} : z.Keeps (s.takeChunk o c) := by
  unfold State.takeChunk
  exact .ite h (.ite h.failOps (.ite
      (.ite h.updOp.touchOwn.addSat.placeChunk.sendChunk h.updOp.touchOwn.addSat.sendChunk)
          h.updOp.placeChunk.sendChunk))

theorem execCollChunkReceived_keeps (h : z.Keeps s) : NextKeeps z (execCollChunkReceived s) := by
  unfold execCollChunkReceived
  dsimp only
  split
  · exact h.next
  · split
    · exact h.next
    · exact h.withKl.takeChunk.next

theorem execCollRetransmit_keeps (h : z.Keeps s) {group : Fin 32} {up : Bool} {origin idx : Nat} :
    NextKeeps z (execCollRetransmit group up origin idx s) := by
  unfold execCollRetransmit
  split
  · exact h.next
  · split
    · exact h.next
    · exact h.addSat.updOp.klSend.next

theorem State.Keeps.collFinish (h : z.Keeps s) {o : CollOp} {st : Byte} : z.Keeps (s.collFinish o st) := by
  unfold State.collFinish
  refine .unless (.when (.addSat (.setFld (.updMember ?_))) (·.raise)) (·.undefineAt.addSat.raise)
  split
  · exact h.withKl.bayWriteMember.signalMember
  · exact h.withKl.bayWriteMember

theorem execCollDone_keeps (h : z.Keeps s) {group : Fin 32} : NextKeeps z (execCollDone group s) := by
  unfold execCollDone
  split
  · exact h.next
  · exact h.collFinish.next

theorem execCollTimeout_keeps (h : z.Keeps s) {group : Fin 32} : NextKeeps z (execCollTimeout group s) := by
  unfold execCollTimeout
  split
  · exact h.next
  · exact h.collFinish.next

/-! ### The functions of `Machine/Isp` -/

theorem State.Keeps.camRow (h : z.Keeps s) {k : Nat} {c : CamStream} {f : CamFrame} {i : Nat} :
    z.Keeps (s.camRow k c f i) :=
  h.writeRow.progressDone

theorem State.Keeps.yuvRow (h : z.Keeps s) {k : Nat} {c : CamStream} {f : CamFrame} {i : Nat} :
    z.Keeps (s.yuvRow k c f i) := by
  unfold State.yuvRow
  dsimp only
  split
  · exact h
  · exact h.poolStore.poolStore.poolStore

theorem State.Keeps.spoilYuv (h : z.Keeps s) {c : CamStream} {f : CamFrame} {i : Nat} : z.Keeps (s.spoilYuv c f i) := by
  unfold State.spoilYuv
  dsimp only
  split
  · exact h
  · exact h.undefinePool.undefinePool.undefinePool

/-! ### The functions of `Machine/Camera` -/

theorem State.Keeps.setPortState (h : z.Keeps s full) {p st : Nat} : z.Keeps (s.setPortState p st) full := h.setFld

theorem State.Keeps.setPort (h : z.Keeps s) {p : Nat} {q : Port} : z.Keeps (s.setPort p q) := h.congr

theorem State.Keeps.camEvent (h : z.Keeps s) {src code p : Nat} {extra : List EvVal} :
    z.Keeps (s.camEvent src code p extra) := by
  unfold State.camEvent
  split
  · exact h.raise
  · exact h.raise

theorem State.Keeps.camNotice (h : z.Keeps s full) {c : CamStream} {f : CamFrame} {st : Byte} {emb : Bool} :
    z.Keeps (s.camNotice c f st emb) full := by
  unfold State.camNotice
  exact .ite h h.same

theorem State.Keeps.endFrame (h : z.Keeps s full) {i : Nat} {f : CamFrame} {st : Byte} : z.Keeps (s.endFrame i f st) full := by
  unfold State.endFrame
  split
  · exact h
  · exact .setCam (.setFld (.setFld (.foldl (.when
      (.ite h.camNotice.releaseHolds.addSat h.camNotice.releaseHolds.addSat) (·.addSat)) (fun _ _ h1 => h1.encSkip))))

theorem State.Keeps.setFrame (h : z.Keeps s) {i : Nat} {f : CamFrame} : z.Keeps (s.setFrame i f) := by
  unfold State.setFrame
  split
  · exact h
  · exact h.setCam

theorem State.Keeps.noteFrameEnd (h : z.Keeps s) {p : Nat} : z.Keeps (s.noteFrameEnd p) := h.setPort

theorem State.Keeps.closeFrame (h : z.Keeps s) {i : Nat} {f : CamFrame} {early : Bool} :
    z.Keeps (s.closeFrame i f early) := by
  unfold State.closeFrame
  split
  · exact h
  · exact h.setFrame.noteFrameEnd.when (·.camEvent)

theorem State.Keeps.camLoss (h : z.Keeps s) {p cause : Nat} : z.Keeps (s.camLoss p cause) := by
  unfold State.camLoss
  split
  · exact h
  · refine .camEvent (.setFld (.setFld (.setPortState ?_)))
    split
    · refine .setCam (.foldl h (fun _ _ h1 => ?_))
      split
      · exact h1.setCam.endFrame
      · exact h1
    · refine .foldl h (fun _ _ h1 => ?_)
      split
      · exact h1.setCam.endFrame
      · exact h1

theorem State.Keeps.camReturn (h : z.Keeps s) {p : Nat} : z.Keeps (s.camReturn p) := by
  unfold State.camReturn
  dsimp only
  split
  · exact h.setFld.unless (·.setCam.camEvent)
  · exact h.setFld

theorem State.Keeps.sot (h : z.Keeps s) {p : Nat} : z.Keeps (s.sot p) := h.setPort.when (·.camReturn)

theorem State.Keeps.countNoDeskew (h : z.Keeps s) {p : Nat} : z.Keeps (s.countNoDeskew p) := by
  unfold State.countNoDeskew
  dsimp only
  split
  · exact h.addSat.unless (·.setCam.camEvent)
  · exact h.addSat

theorem State.Keeps.rxUse (h : z.Keeps s) {p : Nat} : z.Keeps (s.rxUse p).2 := by
  unfold State.rxUse
  split
  · exact h
  · dsimp only
    split
    · exact h.sot.when (·.countNoDeskew)
    · exact h.sot.setFld

theorem execCsiDeskewSequence_keeps (h : z.Keeps s) {port : Fin 8} {lanes : Word} :
    NextKeeps z (execCsiDeskewSequence port lanes s) := by
  unfold execCsiDeskewSequence
  exact .ite h.next (.ite h.sot.wr.setFld.next h.sot.next)

theorem State.Keeps.fifoFull (h : z.Keeps s) {i : Nat} {c : CamStream} {f : CamFrame} : z.Keeps (s.fifoFull i c f) := by
  unfold State.fifoFull
  exact .ite h h.setFrame.camEvent

theorem State.Keeps.takeLine (h : z.Keeps s) {i : Nat} {c : CamStream} {f : CamFrame} {e : Nat} {crcOk : Bool}
    {payload : List Nat} {full : Bool} : z.Keeps (s.takeLine i c f e crcOk payload full) := by
  unfold State.takeLine
  exact .ite h (.ite h.fifoFull (.ite h.setFrame h.setFrame))

theorem execCsiPacket_keeps (h : z.Keeps s) {port : Fin 8} {vc dt : Nat} {hdr : Fin 3} {crcOk : Bool}
    {payload : List Nat} {full : Bool} : NextKeeps z (execCsiPacket port vc dt hdr crcOk payload full s) := by
  have crc {v : State} (hv : z.Keeps v) : z.Keeps (if crcOk then v else v.addSat (ro .csi port 0x50) 0 32 1) :=
    hv.unless (·.addSat)
  unfold execCsiPacket
  refine .ite h.next (.ite (State.Keeps.ite h.sot h.rxUse).next (.ite ?_ ?_))
  · exact (h.sot.addSat.when (·.countNoDeskew)).next
  · extract_lets v0
    have hv : z.Keeps (v0.rxUse port).2 := (h.when (·.addSat)).rxUse
    generalize v0.rxUse port = p at hv ⊢
    refine .ite hv.next (.ite hv.next ?_)
    split
    · exact hv.next
    · next i c _ =>
      dsimp only
      split
      · refine .ite hv.addSat.next ?_
        split
        · exact .ite (crc hv).fifoFull.next (.ite (crc hv).storeAt.setFrame.next (crc hv).next)
        · exact (crc hv).next
      · split
        · exact (crc hv).takeLine.next
        · exact (crc hv).next

theorem State.Keeps.newFrame (h : z.Keeps s) {i : Nat} {c : CamStream} : z.Keeps (s.newFrame i c) := h.newUid.setCam

theorem State.Keeps.unnamedVc (h : z.Keeps s) {port : Nat} {p : CamParam} {vc : Nat} :
    z.Keeps (s.unnamedVc port p vc) := by
  unfold State.unnamedVc
  exact .ite h h.addSat

theorem execFrameStart_keeps (h : z.Keeps s) {port : Fin 8} {vc : Nat} : NextKeeps z (execFrameStart port vc s) := by
  unfold execFrameStart
  split
  · next use v e =>
    have hv : z.Keeps v := h.rxUse.snd_of_eq e
    refine .ite hv.next ?_
    split
    · exact hv.next
    · next i c _ =>
      refine .ite hv.unnamedVc.next ?_
      extract_lets v1 v2
      have hv1 : z.Keeps v1 := by
        unfold v1
        split
        · exact hv.closeFrame
        · exact hv
      have hv2 : z.Keeps v2 := hv1.when (·.setPortState)
      split
      · exact hv2.newFrame.next
      · exact hv2.next

theorem execFrameEnd_keeps (h : z.Keeps s) {port : Fin 8} {vc : Nat} : NextKeeps z (execFrameEnd port vc s) := by
  unfold execFrameEnd
  dsimp only
  split
  · exact h.rxUse.next
  · split
    · exact h.rxUse.next
    · split
      · exact h.rxUse.unnamedVc.next
      · exact .ite h.rxUse.unnamedVc.closeFrame.next h.rxUse.unnamedVc.setFrame.next

theorem execFrameDispatch_keeps (h : z.Keeps s) {port : Fin 8} : NextKeeps z (execFrameDispatch port s) := by
  unfold execFrameDispatch
  split
  · exact h.next
  · split
    · exact h.next
    · split
      · exact h.next
      · dsimp only
        split
        · exact h.setFld.setFld.setFrame.next
        · split
          · exact h.setFld.setFld.setFrame.camEvent.next
          · split
            · exact h.setFld.setFld.setFrame.next
            · split
              · exact h.setFld.setFld.touchAt.poisonEvent.setFrame.next
              · split
                · exact h.setFld.setFld.touchAt.setFrame.camEvent.next
                · split
                  · exact (h.setFld.setFld.touchAt.holdRegion.when (·.progressStart)).setFrame.setCam.next
                  · exact (h.setFld.setFld.touchAt.holdRegion.when (·.progressStart)).setFrame.next

theorem State.Keeps.emitRows (h : z.Keeps s) {k i fuel : Nat} {c : CamStream} {f : CamFrame} :
    z.Keeps (s.emitRows k i fuel c f).1 := by
  induction fuel generalizing s f with
  | zero => exact h
  | succ fuel ih =>
    unfold State.emitRows
    split
    · exact ih h.camRow
    · exact h

theorem State.Keeps.emitYuv (h : z.Keeps s) {k i fuel : Nat} {c : CamStream} {f : CamFrame} :
    z.Keeps (s.emitYuv k i fuel c f).1 := by
  induction fuel generalizing s f with
  | zero => exact h
  | succ fuel ih =>
    unfold State.emitYuv
    split
    · exact ih h.yuvRow
    · exact h

theorem execIspLine_keeps (h : z.Keeps s) {port : Fin 8} : NextKeeps z (execIspLine port s) := by
  unfold execIspLine
  split
  · exact h.next
  · split
    · exact h.next
    · dsimp only
      split
      · exact h.next
      · split
        · exact h.next
        · exact h.add64.emitRows.emitYuv.setFrame.setFld.next

theorem execFrameComplete_keeps (h : z.Keeps s) {port : Fin 8} : NextKeeps z (execFrameComplete port s) := by
  unfold execFrameComplete
  split
  · exact h.next
  · split
    · exact h.next
    · split
      · exact h.next
      · split
        · exact h.endFrame.next
        · exact .ite h.endFrame.next h.next

theorem execCamFirstMsExpiry_keeps (h : z.Keeps s) {port : Fin 8} : NextKeeps z (execCamFirstMsExpiry port s) := by
  unfold execCamFirstMsExpiry
  split
  · exact .ite h.camLoss.next h.next
  · exact h.next

theorem execCamSilenceExpiry_keeps (h : z.Keeps s) {port : Fin 8} : NextKeeps z (execCamSilenceExpiry port s) := by
  unfold execCamSilenceExpiry
  split
  · exact .ite h.camLoss.next h.next
  · exact h.next

theorem State.Keeps.camDet (h : z.Keeps s) {port : Nat} : z.Keeps (s.camDet port) := by
  unfold State.camDet
  exact .ite (.ite h.camReturn h) (.ite h.setFld.camLoss (h.setFld.when (·.camReturn)))

theorem execCamDetChange_keeps (h : z.Keeps s) {port : Fin 8} {level : Bool} :
    NextKeeps z (execCamDetChange port level s) := by
  unfold execCamDetChange
  exact h.setFld.camDet.next

theorem State.Keeps.cciError (h : z.Keeps s) {port addr what : Nat} : z.Keeps (s.cciError port addr what) := h.camEvent

theorem State.Keeps.cciStart (h : z.Keeps s) {port : Nat} {j : CciJob} : z.Keeps (s.cciStart port j) := by
  unfold State.cciStart
  exact .ite h.cciError h.setPort.wr.setFld.setFld

theorem execCciSeqAtFeStart_keeps (h : z.Keeps s) {port : Fin 8} : NextKeeps z (execCciSeqAtFeStart port s) := by
  unfold execCciSeqAtFeStart
  split
  · exact .ite h.setPort.next h.next
  · exact h.next

theorem execCciTransferDone_keeps (h : z.Keeps s) {port : Fin 8} {nack timeout : Bool} {bytes : Word} :
    NextKeeps z (execCciTransferDone port nack timeout bytes s) := by
  unfold execCciTransferDone
  split
  · exact h.next
  · exact .ite h.next (.ite h.setPort.setFld.setFld.setPort.setFld.cciError.next
      (.ite h.setPort.setFld.setFld.wr.setPort.setFld.next
          (.ite h.setPort.setFld.setFld.setPort.setFld.next h.setPort.setFld.setFld.setPort.setFld.next)))

/-! ### The functions of `Machine/Samples` -/

theorem State.Keeps.updRun (h : z.Keeps s) {u : Nat} {f : SmpRun → SmpRun} : z.Keeps (s.updRun u f) := h.congr

theorem State.Keeps.smpStat (h : z.Keeps s full) : z.Keeps s.smpStat full := h.setFld.setFld.foldl (fun _ _ h1 => h1.setFld)

theorem execSmpRun_keeps (h : z.Keeps s) {ctx : Fin 256} {sq : Fin 4} : NextKeeps z (execSmpRun ctx sq s) := by
  unfold execSmpRun
  exact (h.take (fun _ _ h1 => h1.congr.smpStat)).next

theorem State.Keeps.smpFinal (h : z.Keeps s) {r : SmpRun} {pos : Nat} {e : SmpEntry} : z.Keeps (s.smpFinal r pos e) :=
  h.storeAt.updRun

theorem State.Keeps.smpEnd (h : z.Keeps s full) {r : SmpRun} {st : Status} : z.Keeps (s.smpEnd r st) full := by
  unfold State.smpEnd
  refine .smpStat (.complete ?_)
  split
  · exact h.same.raise
  · exact h.same

theorem State.Keeps.smpRelease (h : z.Keeps s) {u fuel : Nat} : z.Keeps (s.smpRelease u fuel) := by
  induction fuel generalizing s with
  | zero => exact h
  | succ fuel ih =>
    unfold State.smpRelease
    split
    · exact h
    · dsimp only
      split
      · exact h
      · split
        · exact h
        · split
          · split
            · exact h.storeAt.storeAt.wr.updRun.smpEnd
            · exact h.storeAt.storeAt.wr.updRun
          · exact ih h.storeAt.storeAt.wr.updRun

theorem execSampleIssue_keeps (h : z.Keeps s) {pipe : Fin 4} : NextKeeps z (execSampleIssue pipe s) := by
  unfold execSampleIssue
  split
  · exact h.next
  · split
    · exact h.next
    · dsimp only
      split
      · exact h.next
      · split
        · exact h.updRun.storeAt.smpFinal.smpRelease.next
        · split
          · exact h.next
          · split
            · exact h.next
            · exact h.congr.updRun.smpStat.next

theorem State.Keeps.smpImage (h : z.Keeps s) {r : SmpRun} {x : SmpRec} {d : Nat} {at_ : Word64} :
    z.Keeps (s.smpImage r x d at_) :=
  h.foldl (fun _ _ h1 => h1.foldl (fun _ _ h2 => h2.storeAt))

theorem State.Keeps.smpReject (h : z.Keeps s) {r : SmpRun} {pos d : Nat} {st : Status} :
    z.Keeps (s.smpReject r pos d st) := by
  unfold State.smpReject
  exact .smpFinal (.ite h.storeAt.addSat.raise h.storeAt.addSat.updRun)

theorem State.Keeps.smpPoison (h : z.Keeps s) {r : SmpRun} {pos d line : Nat} : z.Keeps (s.smpPoison r pos d line) := by
  unfold State.smpPoison
  exact .smpReject (.ite h h.poisonEvent.updRun)

theorem State.Keeps.smpProcess (h : z.Keeps s) {r : SmpRun} {l : SmpLane} {t : State}
    (e : s.smpProcess r l = some t) : z.Keeps t := by
  unfold State.smpProcess at e
  dsimp only at e
  split at e
  · exact Option.some.inj e ▸ h.touchAt.smpPoison
  · split at e
    · exact Option.some.inj e ▸ h.touchAt.smpReject
    · split at e
      · exact Option.some.inj e ▸ h.touchAt.touch.smpPoison
      · split at e
        · exact Option.some.inj e ▸ h.touchAt.touch.smpReject
        · split at e
          · cases e
          · split at e
            · exact Option.some.inj e ▸ h.touchAt.touch.touch.smpPoison
            · split at e
              · exact Option.some.inj e ▸ h.touchAt.touch.touch.addSat64.smpImage.smpFinal
              · exact Option.some.inj e ▸ h.touchAt.touch.touch.addSat64.storeAt.smpFinal

theorem State.Keeps.laneDone (h : z.Keeps s) {n : Nat} {t : State} (e : s.laneDone n = some t) : z.Keeps t := by
  simp only [State.laneDone, Option.bind_eq_bind, Option.bind_eq_some_iff] at e
  obtain ⟨_, _, _, _, u, e1, e2⟩ := e
  obtain rfl := Option.some.inj e2
  refine .smpRelease (.smpStat ?_)
  exact (h.smpProcess e1).congr

theorem execSampleDone_keeps (h : z.Keeps s) {lane : Fin 8} : NextKeeps z (execSampleDone lane s) := by
  unfold execSampleDone
  exact .ite h.next (h.getD (fun _ e => h.laneDone e)).next

/-! ### The functions of `Machine/Scan` -/

theorem State.Keeps.setScanState (h : z.Keeps s full) {st : Nat} : z.Keeps (s.setScanState st) full := h.setFld

theorem State.Keeps.setMotor (h : z.Keeps s full) {phase : Nat} : z.Keeps (s.setMotor phase) full := h.setFld.setFld.setFld

theorem State.Keeps.setPick (h : z.Keeps s full) {b : Bool} : z.Keeps (s.setPick b) full := h.setFld

theorem State.Keeps.withScan (h : z.Keeps s full) {f : Scanner → Scanner} : z.Keeps (s.withScan f) full := h.same

theorem State.Keeps.updJob (h : z.Keeps s full) {f : ScanJob → ScanJob} : z.Keeps (s.updJob f) full := h.withScan

theorem State.Keeps.updSheet (h : z.Keeps s full) {page : Nat} {f : Sheet → Sheet} :
    z.Keeps (s.updSheet page f) full := h.withScan

theorem State.Keeps.ringLevel (h : z.Keeps s full) : z.Keeps s.ringLevel full := h.setFld

theorem State.Keeps.writeLine (h : z.Keeps s full) {j : ScanJob} {sh : Sheet} {side last y : Nat} :
    z.Keeps (s.writeLine j sh side last y) full :=
  h.storeAt

theorem State.Keeps.emitLines (h : z.Keeps s full) {j : ScanJob} {page side : Nat} {final : Bool} {fuel : Nat} :
    z.Keeps (s.emitLines j page side final fuel) full := by
  induction fuel generalizing s with
  | zero => exact h
  | succ fuel ih =>
    unfold State.emitLines
    split
    · exact h
    · dsimp only
      split
      · exact ih h.writeLine.updSheet
      · exact h

theorem State.Keeps.endSheet (h : z.Keeps s full) {j : ScanJob} {sh : Sheet} {st : Byte} : z.Keeps (s.endSheet j sh st) full :=
  h.emitLines.emitLines.same.storeAt.withScan.updJob.addSat.wr.completeMore

theorem State.Keeps.scanRecords (h : z.Keeps s full) {fuel : Nat} : z.Keeps (s.scanRecords fuel) full := by
  induction fuel generalizing s with
  | zero => exact h
  | succ fuel ih =>
    unfold State.scanRecords
    split
    · exact h
    · split
      · split
        · exact .ite h (ih h.endSheet)
        · exact h
      · split
        · exact h
        · exact (h.complete.foldl fun _ _ h1 => h1.complete).withScan.setFld

theorem State.Keeps.stopMotor (h : z.Keeps s full) {phase : Nat} : z.Keeps (s.stopMotor phase) full := h.setMotor.setPick

theorem State.Keeps.cutSheet (h : z.Keeps s full) {st : Byte} {always : Bool} : z.Keeps (s.cutSheet st always) full := by
  unfold State.cutSheet
  exact h.withScan

theorem State.Keeps.endJob (h : z.Keeps s full) {port : Nat} {st : Byte} : z.Keeps (s.endJob port st) full :=
  h.setScanState.updJob.scanRecords

theorem State.Keeps.setPath (h : z.Keeps s) {b : Bool} : z.Keeps (s.setPath b) := h.setFld

theorem State.Keeps.setJam (h : z.Keeps s) {b : Bool} : z.Keeps (s.setJam b) := h.setFld

theorem State.Keeps.lineFault (h : z.Keeps s) {cause chans : Nat} : z.Keeps (s.lineFault cause chans) := by
  unfold State.lineFault
  exact .ite ((h.stopMotor.when (·.setPath)).setFld.setFld.unless (·.setPage)).cutSheet.endJob ((h.stopMotor.when
      (·.setPath)).setFld.setFld.unless (·.setPage)).cutSheet.setScanState

theorem execScanStart_keeps (h : z.Keeps s) {ctx : Fin 256} {sq : Fin 4} : NextKeeps z (execScanStart ctx sq s) := by
  unfold execScanStart
  exact (h.take (fun _ _ h1 =>
      .ite h1.withScan.setFld.setFld.setScanState.setMotor h1.withScan.setFld.setFld.setScanState)).next

theorem execScanAbortAfterPage_keeps (h : z.Keeps s) {ctx : Fin 256} {sq : Fin 4} :
    NextKeeps z (execScanAbortAfterPage ctx sq s) := by
  unfold execScanAbortAfterPage
  exact .ite h.next (h.take (fun _ _ h1 => h1.updJob.when (·.endJob))).next

theorem execScanAbortAtLine_keeps (h : z.Keeps s) {ctx : Fin 256} {sq : Fin 4} :
    NextKeeps z (execScanAbortAtLine ctx sq s) := by
  unfold execScanAbortAtLine
  exact .ite (h.take (fun _ _ h1 => h1.updJob.unless (·.stopMotor.cutSheet.endJob))).next h.next

theorem execSheetPick_keeps (h : z.Keeps s) : NextKeeps z (execSheetPick s) := by
  unfold execSheetPick
  split
  · exact h.next
  · exact .ite h.withScan.updJob.setScanState.setMotor.setPick.wr.next h.next

theorem State.Keeps.setObMeans (h : z.Keeps s) {raw : List (List Nat)} : z.Keeps (s.setObMeans raw) := by
  unfold State.setObMeans
  refine .foldl h (fun _ _ h1 => ?_)
  split
  · exact h1.wr
  · exact h1

theorem State.Keeps.installShadow (h : z.Keeps s) {b : Blk} {i : Nat} : z.Keeps (s.installShadow b i) := by
  unfold State.installShadow
  exact .ite h.congr.setPage h

theorem State.Keeps.storeLine (h : z.Keeps s) {j : ScanJob} {sh : Sheet} {raw : List (List Nat)} {sides : List Nat} :
    z.Keeps (s.storeLine j sh raw sides) := by
  unfold State.storeLine
  exact .foldl (.updSheet (.ite h.withScan.ringLevel h)) (fun _ _ h1 => h1.raise)

theorem State.Keeps.startBackup (h : z.Keeps s) {j : ScanJob} {pos : ℤ} : z.Keeps (s.startBackup j pos) :=
  h.wr.wr.setMotor.setScanState.withScan.addSat.raise

theorem execScanLineStart_keeps (h : z.Keeps s) {samples : List (List Nat)} :
    NextKeeps z (execScanLineStart samples s) := by
  unfold execScanLineStart
  extract_lets st runs k pos v1 v2 raw
  have hv2 : z.Keeps v2 := h.installShadow.wr.withScan
  clear_value v2
  split
  · exact h.next
  · next j _ =>
    refine .ite h.next ?_
    split
    · exact hv2.next
    · next sh _ =>
      refine .ite hv2.next ?_
      extract_lets used sides v3 ob wr bad chans cause native halt v4 was v5 sh2 v6 v7
      have hv3 : z.Keeps v3 := hv2.unless (·.setObMeans)
      refine .ite hv3.lineFault.raise.next ?_
      have hv4 : z.Keeps v4 := hv3.when (·.setScanState.setMotor)
      have hv5 : z.Keeps v5 := hv4.unless (·.storeLine)
      refine .ite hv3.addSat.next (.ite ?_ (.ite hv5.startBackup.next (.ite hv5.withScan.next hv5.next)))
      exact hv5.updSheet.withScan.setScanState.scanRecords.next

theorem State.Keeps.processLine (h : z.Keeps s full) : z.Keeps s.processLine full := by
  unfold State.processLine
  split
  · next j l rest _ _ =>
    extract_lets v put
    have hput : ∀ (u : State) (side : Nat) (i : Option Nat), z.Keeps u full → z.Keeps (put u side i) full := by
      intro u side i hu
      unfold put
      split
      · exact hu
      · exact hu.updSheet.emitLines
    exact (hput _ _ _ (hput _ _ _ h.withScan.ringLevel)).scanRecords
  · exact h

theorem State.Keeps.flushRing (h : z.Keeps s full) : z.Keeps s.flushRing full := h.foldl (fun _ _ h1 => h1.processLine)

theorem execRingLineProcessed_keeps (h : z.Keeps s) : NextKeeps z (execRingLineProcessed s) := by
  unfold execRingLineProcessed
  exact .ite h.next h.processLine.next

theorem execMotorSettleDone_keeps (h : z.Keeps s) : NextKeeps z (execMotorSettleDone s) := by
  unfold execMotorSettleDone
  exact .ite (.ite h.setMotor.next h.withScan.setMotor.next) h.next

theorem execMotorReverseDone_keeps (h : z.Keeps s) : NextKeeps z (execMotorReverseDone s) := by
  unfold execMotorReverseDone
  exact .ite h.withScan.setMotor.wr.next h.next

theorem execRingLwmReached_keeps (h : z.Keeps s) : NextKeeps z (execRingLwmReached s) := by
  unfold execRingLwmReached
  exact .ite h.setMotor.next h.next

theorem State.Keeps.pathAbort (h : z.Keeps s) {code : Nat} : z.Keeps (s.pathAbort code) := by
  unfold State.pathAbort
  exact .ite h.stopMotor.cutSheet.setPath.raise.endJob h

theorem State.Keeps.edgeChange (h : z.Keeps s) {paper : Bool} {pos : ℤ} : z.Keeps (s.edgeChange paper pos) := by
  unfold State.edgeChange
  dsimp only
  split
  · split
    · exact h.updSheet.setPick.setScanState.withScan
    · exact h
  · split
    · split
      · exact h.updSheet
      · exact h
    · exact .ite h.withScan h

theorem execPaperInputChange_keeps (h : z.Keeps s) {input : Fin 4} {level : Bool} {pos : ℤ} :
    NextKeeps z (execPaperInputChange input level pos s) := by
  unfold execPaperInputChange
  dsimp only
  split
  · exact h.next
  · split
    · exact h.next
    · split
      · exact h.setFld.updJob.next
      · exact h.setFld.edgeChange.next
      · exact State.Keeps.next (.ite h.setFld.pathAbort h.setFld.setJam.setPath)
      · exact (h.setFld.when (·.pathAbort)).next

theorem execScanButton_keeps (h : z.Keeps s) {pressed : Bool} : NextKeeps z (execScanButton pressed s) := by
  unfold execScanButton
  exact .ite h.setFld.next h.setFld.raise.updJob.next

theorem State.Keeps.endCal (h : z.Keeps s) {op result : Nat} : z.Keeps (s.endCal op result) := h.withScan.wr.raise

theorem execCableChange_keeps (h : z.Keeps s) {present : Bool} : NextKeeps z (execCableChange present s) := by
  unfold execCableChange
  dsimp only
  split
  · refine State.Keeps.next (.unless (.withScan ?_) (·.lineFault))
    split
    · exact h.setFld.raise.endCal
    · exact h.setFld.raise
  · exact .ite h.setFld.raise.withScan.setScanState.setFld.raise.next h.setFld.raise.withScan.next

theorem execTrayWaitExpiry_keeps (h : z.Keeps s) : NextKeeps z (execTrayWaitExpiry s) := by
  unfold execTrayWaitExpiry
  split
  · exact .ite h.endJob.next h.next
  · exact h.next

theorem execMisfeed_keeps (h : z.Keeps s) : NextKeeps z (execMisfeed s) := by
  unfold execMisfeed
  split
  · exact .ite h.stopMotor.cutSheet.setPath.raise.endJob.next h.next
  · exact h.next

theorem execPaperJam_keeps (h : z.Keeps s) : NextKeeps z (execPaperJam s) := by
  unfold execPaperJam
  split
  · exact .ite h.stopMotor.cutSheet.setPath.setJam.raise.endJob.next h.next
  · exact h.next

theorem State.Keeps.toWait (h : z.Keeps s) : z.Keeps s.toWait := by
  unfold State.toWait
  split
  · exact h
  · exact .ite h.setMotor.endJob h.setMotor.setScanState.updJob.withScan

theorem execEjectDone_keeps (h : z.Keeps s) : NextKeeps z (execEjectDone s) := by
  unfold execEjectDone
  split
  · exact .ite (.ite h.setMotor.endJob.next h.toWait.next) h.next
  · exact h.next

theorem execClearDone_keeps (h : z.Keeps s) : NextKeeps z (execClearDone s) := by
  unfold execClearDone
  split
  · exact .ite h.setPath.toWait.next h.next
  · exact h.next

theorem State.Keeps.scanFaultClr (h : z.Keeps s) {val : Word} : z.Keeps (s.scanFaultClr val) := by
  unfold State.scanFaultClr
  exact .ite h.setScanState.setFld.raise h

theorem State.Keeps.calStart (h : z.Keeps s) {val : Word} : z.Keeps (s.calStart val) := by
  unfold State.calStart
  exact .ite h (.ite h.setFld h.withScan.wr)

theorem State.Keeps.calShade (h : z.Keeps s) {lines : List (List (List Nat))} {n op : Nat} :
    z.Keeps (s.calShade lines n op) :=
  h.foldl (fun _ _ h1 => h1.foldl (fun _ _ h2 => .ite h2.withScan h2.withScan))

theorem State.Keeps.calOffset (h : z.Keeps s) {offsets : List (Nat × Nat)} : z.Keeps (s.calOffset offsets).1 := by
  unfold State.calOffset
  refine .foldl_fst h (fun _ _ h1 => ?_)
  split
  · exact h1
  · dsimp only
    split
    · exact h1
    · exact h1.congr

theorem execAfeCalDone_keeps (h : z.Keeps s) {lines : List (List (List Nat))} {offsets : List (Nat × Nat)} :
    NextKeeps z (execAfeCalDone lines offsets s) := by
  unfold execAfeCalDone
  split
  · exact h.next
  · exact .ite h.endCal.next (.ite h.calOffset.endCal.next h.calShade.endCal.next)

/-! ### The functions of `Machine/Video` -/

theorem State.Keeps.writePicture (h : z.Keeps s full) {d : DecStream} {p : Picture} {b : Nat} :
    z.Keeps (s.writePicture d p b) full := by
  unfold State.writePicture
  split
  · exact h
  · exact .ite ((h.foldl (fun _ _ h1 => h1.poolStore)).foldl (fun _ _ h1 => h1.poolStore.poolStore)) (((h.foldl (fun _
      _ h1 => h1.poolStore)).foldl (fun _ _ h1 => h1.poolStore)).foldl (fun _ _ h1 => h1.poolStore))

theorem State.Keeps.writeUnshown (h : z.Keeps s) {d : DecStream} {p : Picture} : z.Keeps (s.writeUnshown d p) := by
  unfold State.writeUnshown
  refine .foldl h (fun _ _ h1 => ?_)
  split
  · exact h1.writePicture
  · exact h1

theorem State.Keeps.undefinePicture (h : z.Keeps s full) {d : DecStream} {p : Picture} {marks : Bool} :
    z.Keeps (s.undefinePicture d p marks) full := by
  unfold State.undefinePicture
  split
  · exact h.newFree.writePicture.when (fun h => (h.foldl (fun _ _ h1 => h1.undefinePool)).foldl (fun _
      _ h1 => h1.undefinePool))
  · exact h

theorem State.Keeps.rejectAu (h : z.Keeps s) {src n q : Nat} {r : AuRec} {st : Status} {result number : Nat} :
    z.Keeps (s.rejectAu src n q r st result number) :=
  h.raise.endAu

theorem State.Keeps.dropAu (h : z.Keeps s full) {i : Nat} {d : DecStream} {r : AuRec} {st : Status} :
    z.Keeps (s.dropAu i d r st) full :=
  h.setDec.skipLinked.endAu

theorem execAuData_keeps (h : z.Keeps s) {stream : Nat} : NextKeeps z (execAuData stream s) := by
  unfold execAuData
  split
  · split
    · exact h.next
    · exact .ite h.next (.ite (.ite h.bumpHead.rejectAu.next h.next) (.ite
        (.ite h.bumpHead.dropAu.next h.next) h.bumpHead.setDec.next))
  · split
    · exact h.next
    · split
      · exact h.next
      · split
        · exact h.next
        · exact .ite h.next h.bumpHead.rejectAu.next

theorem execAuEnd_keeps (h : z.Keeps s) {stream : Nat} : NextKeeps z (execAuEnd stream s) := by
  unfold execAuEnd
  split
  · split
    · exact h.next
    · exact .ite h.next (.ite h.bumpHead.rejectAu.next h.bumpHead.enterWaiting.endAu.next)
  · split
    · exact h.next
    · split
      · exact h.next
      · split
        · exact h.next
        · exact .ite h.next (.ite h.bumpHead.rejectAu.next h.bumpHead.setEnc.endAu.next)

theorem execDecodeDispatch_keeps (h : z.Keeps s) {core : Fin 4} {stream : Nat} {pic : PicInfo} :
    NextKeeps z (execDecodeDispatch core stream pic s) := by
  unfold execDecodeDispatch
  split
  · exact h.next
  · split
    · exact h.next
    · split
      · exact h.next
      · exact .ite (State.Keeps.next (.endAu (.enterWaiting (.skipLinked (.setDec (.poisonEvent (.touchAt (.touchAt
          (.ite h.enterWaiting h))))))))) (.ite (State.Keeps.next (.rejectAu (.enterWaiting (.skipLinked (.setDec
              (.touchAt (.touchAt (.ite h.enterWaiting h)))))))) (.ite (State.Keeps.next (.endAu (.skipLinked (.setDec
                  (.touchAt (.touchAt (.ite h.enterWaiting h))))))) (.ite (State.Keeps.next (.endAu (.skipLinked
                      (.setDec (.when (.touchAt (.touchAt (.ite h.enterWaiting h))) (·.raise)))))) (.ite
                          (State.Keeps.next (.rejectAu (.enterWaiting (.skipLinked (.setDec (.when (.touchAt (.touchAt
                              (.ite h.enterWaiting h))) (·.raise))))))) (State.Keeps.next (.setFld (.setFld (.setFld
                                  (.setDec (.writeUnshown (.congr (.when (.touchAt (.touchAt (.ite h.enterWaiting h)))
                                      (·.raise)))))))))))))

theorem State.Keeps.freeDecoder (h : z.Keeps s full) {core : Nat} : z.Keeps (s.freeDecoder core) full := h.wr

theorem execPictureDone_keeps (h : z.Keeps s) {stream : Nat} {marks : List Nat} :
    NextKeeps z (execPictureDone stream marks s) := by
  unfold execPictureDone
  split
  · exact h.next
  · split
    · exact h.next
    · exact .ite h.next (State.Keeps.next (.endAu (.freeDecoder (.addSat64 (.when (.addSat (.setDec
        (.ite h h.writePicture))) (·.addSat.raise))))))

theorem State.Keeps.setPicTap (h : z.Keeps s) {i : Nat} {d : DecStream} {p : Picture} {t : PicTap} :
    z.Keeps (s.setPicTap i d p t) :=
  h.setDec

theorem execTapPictureStart_keeps (h : z.Keeps s) {stream : Nat} {tap : Fin 4} :
    NextKeeps z (execTapPictureStart stream tap s) := by
  unfold execTapPictureStart
  split
  · exact h.next
  · split
    · exact h.next
    · split
      · exact .ite h.next (.ite h.setPicTap.next (.ite h.progressStart.setPicTap.next h.setPicTap.addSat.raise.next))
      · exact h.next

theorem State.Keeps.tapWrite (h : z.Keeps s) {d : DecStream} {p : Picture} {t : TapCfg} {written : Word} {i : Nat} :
    z.Keeps (s.tapWrite d p t written i) := by
  unfold State.tapWrite
  exact .ite (h.foldl (fun _ _ h1 => h1.writeRow)) h.writeRow

theorem execTapOutputRow_keeps (h : z.Keeps s) {stream : Nat} {tap : Fin 4} {ready : Nat} :
    NextKeeps z (execTapOutputRow stream tap ready s) := by
  unfold execTapOutputRow
  split
  · exact h.next
  · split
    · exact h.next
    · split
      · exact .ite h.next ((h.tapWrite.progressDone.setPicTap.addSat64.setFld.when (·.addSat)).when (·.raise)).next
      · exact h.next

theorem State.Keeps.writeEncInput (h : z.Keeps s) {e : EncStream} {b : Nat} {src : EncSrc} :
    z.Keeps (s.writeEncInput e b src) := by
  unfold State.writeEncInput
  split
  · exact h
  · exact (h.foldl (fun _ _ h1 => h1.poolStore)).foldl (fun _ _ h1 => h1.poolStore)

theorem State.Keeps.encStart (h : z.Keeps s full) {core : Nat} : z.Keeps (s.encStart core) full := by
  unfold State.encStart
  split
  · exact h
  · dsimp only
    split
    · exact h
    · exact h.setEnc.setFld.setFld

theorem State.Keeps.encStartAll (h : z.Keeps s full) : z.Keeps s.encStartAll full := h.encStart.encStart

theorem State.Keeps.encAdd (h : z.Keeps s) {i : Nat} {e : EncStream} {p : EncPic} {src : EncSrc} :
    z.Keeps (s.encAdd i e p src) :=
  h.writeEncInput.setEnc.encStartAll

theorem State.Keeps.frameRead (h : z.Keeps s) {b : DescBits} : z.Keeps (s.frameRead b) := h.touchAt.touchAt

theorem execEncFrame_keeps (h : z.Keeps s) {stream : Nat} : NextKeeps z (execEncFrame stream s) := by
  unfold execEncFrame
  split
  · exact h.next
  · split
    · exact h.next
    · split
      · exact h.next
      · split
        · exact h.next
        · dsimp only
          split
          · exact .ite (State.Keeps.next (.ite h.bumpHead.setEnc.endAu h.bumpHead.rejectAu)) h.next
          · split
            · exact h.next
            · split
              · exact .ite h.frameRead.poisonEvent.bumpHead.setEnc.endAu.next h.frameRead.next
              · exact h.frameRead.bumpHead.encAdd.next

theorem execEncLinkedPicture_keeps (h : z.Keeps s) {stream : Nat} : NextKeeps z (execEncLinkedPicture stream s) := by
  unfold execEncLinkedPicture
  split
  · exact h.next
  · dsimp only
    split
    · exact h.next
    · split
      · split
        · exact h.next
        · exact .ite h.next (.ite h.setDec.encSkip.next h.setDec.encAdd.next)
      · split
        · exact h.next
        · split
          · exact h.next
          · exact .ite h.next (.ite h.setFrame.encSkip.next h.setFrame.encAdd.next)

theorem State.Keeps.freeEncoder (h : z.Keeps s full) {core : Nat} :
    z.Keeps (s.freeEncoder core) full := h.setFld.setFld.encStartAll

theorem State.Keeps.encRecord (h : z.Keeps s full) {e : EncStream} {p : EncPic} {st : Status} {result result2 : Nat} :
    z.Keeps (s.encRecord e p st result result2) full :=
  h.endRecord

theorem execEncPictureDone_keeps (h : z.Keeps s) {stream size : Nat} :
    NextKeeps z (execEncPictureDone stream size s) := by
  unfold execEncPictureDone
  split
  · exact h.next
  · split
    · exact h.next
    · split
      · exact h.next
      · exact .ite h.next
          (.ite h.setEnc.raise.encRecord.freeEncoder.next h.storeAt.setEnc.addSat.addSat64.encRecord.freeEncoder.next)

/-! ### The functions of `Machine/Streams` -/

theorem State.Keeps.openDec (h : z.Keeps s) {d : Desc} : z.Keeps (s.openDec d) := by
  unfold State.openDec
  exact h.reserve (fun _ _ h1 => (h1.setDec.countMedia.unless (·.enterWaiting)).complete)

theorem State.Keeps.openEnc (h : z.Keeps s) {d : Desc} : z.Keeps (s.openEnc d) := by
  unfold State.openEnc
  exact h.reserve (fun _ _ h1 => h1.setEnc.countMedia.complete)

theorem State.Keeps.openCam (h : z.Keeps s) {d : Desc} : z.Keeps (s.openCam d) := by
  unfold State.openCam
  exact h.reserve (fun _ _ h1 => h1.setCam.countMedia.setPortState.setFld.setFld.setPort.complete.when (·.camLoss))

theorem execStreamOpen_keeps (h : z.Keeps s) {ctx : Fin 256} {sq : Fin 4} : NextKeeps z (execStreamOpen ctx sq s) := by
  unfold execStreamOpen
  exact (h.take (fun _ _ h1 => .ite h1.openEnc (.ite h1.openCam h1.openDec))).next

theorem State.Keeps.applyTap (h : z.Keeps s) {i : Nat} : z.Keeps (s.applyTap i) := by
  unfold State.applyTap
  split
  · exact h
  · split
    · exact h.setDec.countMedia.complete
    · exact h

theorem execStreamTap_keeps (h : z.Keeps s) {ctx : Fin 256} {sq : Fin 4} : NextKeeps z (execStreamTap ctx sq s) := by
  unfold execStreamTap
  refine State.Keeps.next (.take h (fun _ _ h1 => ?_))
  split
  · exact h1
  · exact h1.setDec.applyTap

theorem execTapChangeApplied_keeps (h : z.Keeps s) {stream : Nat} : NextKeeps z (execTapChangeApplied stream s) := by
  unfold execTapChangeApplied
  exact h.applyTap.next

theorem State.Keeps.cancelRing (h : z.Keeps s full) {n q pic result result2 fuel count : Nat} :
    z.Keeps (s.cancelRing n q pic result result2 fuel count).1 full := by
  induction fuel generalizing s count with
  | zero => exact h
  | succ fuel ih =>
    unfold State.cancelRing
    split
    · exact h
    · exact ih h.bumpHead.endAu

theorem State.Keeps.cancelChanges (h : z.Keeps s full) {d : DecStream} : z.Keeps (s.cancelChanges d) full :=
  h.foldl (fun _ _ h1 => h1.complete)

theorem State.Keeps.stopPicture (h : z.Keeps s full) {i : Nat} {st : Status} : z.Keeps (s.stopPicture i st) full := by
  unfold State.stopPicture
  split
  · exact h
  · split
    · exact h
    · exact h.undefinePicture.setDec.freeDecoder.skipLinked.endAu.enterWaiting

theorem State.Keeps.stopEncode (h : z.Keeps s full) {i : Nat} {st : Status} : z.Keeps (s.stopEncode i st) full := by
  unfold State.stopEncode
  split
  · exact h
  · split
    · exact h
    · dsimp only
      split
      · exact h.setEnc.encRecord.freeEncoder
      · exact h.setEnc.encRecord

theorem State.Keeps.abortDec (h : z.Keeps s full) {i : Nat} : z.Keeps (s.abortDec i) full := by
  unfold State.abortDec
  split
  · exact h
  · next d0 _ =>
    have hv : z.Keeps (d0.queue.foldl (fun s r => match s.dec i with
        | some d => s.dropAu i d r .cancelled
        | none => s) (s.stopPicture i .aborted)) full := by
      refine h.stopPicture.foldl fun u r hu => ?_
      split
      · exact hu.dropAu
      · exact hu
    dsimp only
    split
    · exact hv
    · exact hv.cancelRing.setDec.cancelChanges

theorem State.Keeps.abortEnc (h : z.Keeps s full) {i : Nat} : z.Keeps (s.abortEnc i) full := by
  unfold State.abortEnc
  split
  · exact h
  · next e0 _ =>
    extract_lets v
    have hv : z.Keeps v full := h.foldl fun _ _ hu => hu.stopEncode
    refine .ite hv ?_
    split
    next e =>
    have hw := hv.cancelRing.fst_of_eq e
    split
    · exact hw
    · exact hw.setEnc

theorem State.Keeps.abortCam (h : z.Keeps s full) {i : Nat} : z.Keeps (s.abortCam i) full := by
  unfold State.abortCam
  split
  · exact h
  · exact h.foldl (fun _ _ h1 => h1.endFrame)

theorem State.Keeps.markClosing (h : z.Keeps s) {i : Nat} {d : Desc} : z.Keeps (s.markClosing i d) := by
  unfold State.markClosing
  dsimp only
  split
  · exact h.setDec
  · split
    · exact h.setEnc
    · split
      · exact h.setCam
      · exact h

theorem execStreamCloseDrain_keeps (h : z.Keeps s) {ctx : Fin 256} {sq : Fin 4} :
    NextKeeps z (execStreamCloseDrain ctx sq s) := by
  unfold execStreamCloseDrain
  exact .ite h.next (h.take (fun _ _ h1 => h1.markClosing)).next

theorem execStreamCloseAbort_keeps (h : z.Keeps s) {ctx : Fin 256} {sq : Fin 4} :
    NextKeeps z (execStreamCloseAbort ctx sq s) := by
  unfold execStreamCloseAbort
  exact .ite (h.take (fun _ _ h1 => h1.markClosing.abortDec.abortEnc.abortCam)).next h.next

theorem State.Keeps.unbindRing (h : z.Keeps s full) {n q : Nat} : z.Keeps (s.unbindRing n q) full := h.wr.wr

theorem State.Keeps.dropStream (h : z.Keeps s full) {i : Nat} : z.Keeps (s.dropStream i) full := h.same.countMedia

theorem State.Keeps.releaseDec (h : z.Keeps s full) {i : Nat} {d : DecStream} : z.Keeps (s.releaseDec i d) full :=
  h.unbindRing.dropStream

theorem State.Keeps.releaseEnc (h : z.Keeps s full) {i : Nat} {e : EncStream} : z.Keeps (s.releaseEnc i e) full := by
  unfold State.releaseEnc
  exact .dropStream (.ite h h.unbindRing)

theorem State.Keeps.releaseCam (h : z.Keeps s full) {i : Nat} {c : CamStream} : z.Keeps (s.releaseCam i c) full :=
  h.setPortState.setFld.setFld.dropStream

theorem execStreamCloseDone_keeps (h : z.Keeps s) {stream : Nat} : NextKeeps z (execStreamCloseDone stream s) := by
  unfold execStreamCloseDone
  split
  · split
    · exact h.next
    · exact .ite h.cancelChanges.releaseDec.complete.next h.next
  · split
    · split
      · exact h.next
      · exact .ite h.next (State.Keeps.next (.complete (.releaseEnc (.ite h.storeAt h))))
    · split
      · split
        · exact h.next
        · exact .ite h.releaseCam.complete.next h.next
      · exact h.next

/-! ### The functions of `Machine/Power` -/

theorem State.Keeps.withPwr (h : z.Keeps s) {f : Power → Power} : z.Keeps (s.withPwr f) := h.congr

theorem State.Keeps.setTransit (h : z.Keeps s) {b : Bool} : z.Keeps (s.setTransit b) := h.setFld

theorem State.Keeps.setPst (h : z.Keeps s) {n : Nat} : z.Keeps (s.setPst n) := h.setFld

theorem State.Keeps.setPTarget (h : z.Keeps s) {n : Nat} : z.Keeps (s.setPTarget n) := h.setFld

theorem execGovernorChooseState_keeps (h : z.Keeps s) : NextKeeps z (execGovernorChooseState s) := by
  unfold execGovernorChooseState
  exact .ite h.next (.ite (State.Keeps.next (.withPwr (.setTransit (.setPTarget (.ite h.raise h))))) (State.Keeps.next
      (.ite h.raise h)))

theorem State.Keeps.startExit (h : z.Keeps s) {target cause : Nat} {wasEntering : Bool} :
    z.Keeps (s.startExit target cause wasEntering) := by
  unfold State.startExit
  exact h.setPTarget.setTransit.withPwr

theorem State.Keeps.tolExit (h : z.Keeps s) : z.Keeps s.tolExit := by
  unfold State.tolExit
  exact .ite h.startExit h

theorem execPstateEnter_keeps (h : z.Keeps s) : NextKeeps z (execPstateEnter s) := by
  unfold execPstateEnter
  exact .ite (h.setPst.setTransit.withPwr.addSat.raise.when (·.countCores.evalWanted)).tolExit.next h.next

theorem execPstateExit_keeps (h : z.Keeps s) {serve : Option (Fin 4)} : NextKeeps z (execPstateExit serve s) := by
  unfold execPstateExit
  split
  · exact h.tolExit.next
  · exact .ite h.startExit.next (.ite h.startExit.next h.next)

theorem State.Keeps.clearDieSram (h : z.Keeps s) : z.Keeps s.clearDieSram :=
  h.tables fun i => ⟨Memory.filter_wf _ (Memory.filter_wf _ i.mem), rfl, rising_filter _ i.poison⟩

theorem execPstateExitDone_keeps (h : z.Keeps s) : NextKeeps z (execPstateExitDone s) := by
  unfold execPstateExitDone
  split
  · exact h.next
  · exact .ite h.next ((h.setPst.setTransit.withPwr.when (·.clearDieSram)).raise.countCores.when (·.evalWanted)).next

theorem execTimedExit_keeps (h : z.Keeps s) : NextKeeps z (execTimedExit s) := by
  unfold execTimedExit
  exact .ite h.startExit.next h.next

theorem execEffTolDelivered_keeps (h : z.Keeps s) : NextKeeps z (execEffTolDelivered s) := by
  unfold execEffTolDelivered
  exact h.wr.tolExit.next

theorem execHoldMsExpiry_keeps (h : z.Keeps s) {ctx : Fin 256} : NextKeeps z (execHoldMsExpiry ctx s) := by
  unfold execHoldMsExpiry
  dsimp only
  split
  · exact .ite h.setCtx.next h.next
  · exact h.next

theorem State.Keeps.writePwrCfg (h : z.Keeps s) {val : Word} : z.Keeps (s.writePwrCfg val) := by
  unfold State.writePwrCfg
  exact .ite (h.wr.when (·.startExit)) (h.wr.when (·.startExit))

theorem State.Keeps.wakeP4 (h : z.Keeps s) {cause : Nat} : z.Keeps (s.wakeP4 cause) := by
  unfold State.wakeP4
  exact .ite h (h.congr.wr.unless (·.congr))

theorem execP4WakeEvent_keeps (h : z.Keeps s) {cause : Fin 6} : NextKeeps z (execP4WakeEvent cause s) := by
  unfold execP4WakeEvent
  exact .ite h.wakeP4.next h.next

theorem State.Keeps.retarget (h : z.Keeps s) : z.Keeps s.retarget :=
  (h.setFld.setFld.unless (·.withPwr)).unless (·.withPwr)

theorem execPowerSample_keeps (h : z.Keeps s) {deciwatts : Nat} : NextKeeps z (execPowerSample deciwatts s) := by
  unfold execPowerSample
  exact .ite h.next (.ite (h.setFld.setFld.add64.withPwr.when (·.setFld)).withPwr.retarget.next
      (h.setFld.setFld.add64.withPwr.when (·.setFld)).next)

theorem execGovernMs_keeps (h : z.Keeps s) : NextKeeps z (execGovernMs s) := by
  unfold execGovernMs
  exact .ite h.next (h.withPwr.when (·.setFld.raise)).retarget.next

theorem State.Keeps.switchClock (h : z.Keeps s) {d : Nat} {x : ClockStep} : z.Keeps (s.switchClock d x) :=
  h.setFld.raise.evalWanted

theorem State.Keeps.setStep (h : z.Keeps s) {d : Nat} {x : Option ClockStep} : z.Keeps (s.setStep d x) := h.withPwr

theorem execClockChange_keeps (h : z.Keeps s) {die : Fin 2} : NextKeeps z (execClockChange die s) := by
  unfold execClockChange
  split
  · exact .ite h.next h.switchClock.setStep.next
  · exact h.next

theorem State.Keeps.setRail (h : z.Keeps s) {d mhz : Nat} : z.Keeps (s.setRail d mhz) := h.withPwr

theorem execAvsAck_keeps (h : z.Keeps s) {die : Fin 2} : NextKeeps z (execAvsAck die s) := by
  unfold execAvsAck
  split
  · exact .ite h.setRail.switchClock.setStep.next (.ite h.setRail.setStep.next h.next)
  · exact h.next

theorem execAvsError_keeps (h : z.Keeps s) {rail : Fin 3} {status : Nat} :
    NextKeeps z (execAvsError rail status s) := by
  unfold execAvsError
  refine State.Keeps.next (.raise ?_)
  split
  · exact h.withPwr.when (·.setStep)
  · exact h.withPwr

theorem execAvsRetry_keeps (h : z.Keeps s) {rail : Fin 3} {ok : Bool} : NextKeeps z (execAvsRetry rail ok s) := by
  unfold execAvsRetry
  split
  · exact .ite h.withPwr.next h.next
  · exact h.next

theorem State.Keeps.setCap (h : z.Keeps s) {d v : Nat} : z.Keeps (s.setCap d v) := h.setFld

theorem State.Keeps.controlDie (h : z.Keeps s) {d : Nat} {t : ℤ × Nat} : z.Keeps (s.controlDie d t) := by
  unfold State.controlDie
  exact .ite (.evalWanted (.countCores (.raise (.withPwr (.withPwr (.ite (.ite h.setCap.raise h) (.ite
      (.ite h.setCap.withPwr.raise h) (.ite (.ite h.setCap.withPwr h) h)))))))) (.when (.withPwr (.ite
          (.ite h.setCap.raise h) (.ite (.ite h.setCap.withPwr.raise h) (.ite (.ite h.setCap.withPwr h) h))))
              (·.withPwr.countCores.evalWanted))

theorem State.Keeps.takeSensor (h : z.Keeps s) {i : Nat} {r : Option ℤ} : z.Keeps (s.takeSensor i r) := by
  unfold State.takeSensor
  refine .when (.setFld ?_) (·.raise)
  split
  · exact h.setFld
  · exact h

theorem State.Keeps.setDuty (h : z.Keeps s) : z.Keeps s.setDuty := h.setFld

theorem State.Keeps.takeFan (h : z.Keeps s) {rpm : Nat} : z.Keeps (s.takeFan rpm) := by
  unfold State.takeFan
  exact h.setFld.withPwr

theorem State.Keeps.holdBoot (h : z.Keeps s) {t : ℤ} : z.Keeps (s.holdBoot t) := by
  unfold State.holdBoot
  exact .ite h (.ite h.withPwr (.ite h.withPwr h))

theorem execSensorSample_keeps (h : z.Keeps s) {readings : List (Option ℤ)} {hbm : List ℤ} {rpm : Nat} :
    NextKeeps z (execSensorSample readings hbm rpm s) := by
  unfold execSensorSample
  split
  · exact h.next
  · refine State.Keeps.next (.when (.setDuty (.takeFan (.when (.foldl ?_ (fun _ _ h1 => h1.setFld))
      (·.controlDie.controlDie.holdBoot)))) (·.retarget))
    split
    · exact (h.foldl (fun _ _ h1 => h1.takeSensor)).setFld.setFld
    · exact h.foldl (fun _ _ h1 => h1.takeSensor)

theorem execFanFail_keeps (h : z.Keeps s) : NextKeeps z (execFanFail s) := by
  unfold execFanFail
  exact .ite h.setFld.setDuty.raise.next h.next

theorem execFanRecovered_keeps (h : z.Keeps s) : NextKeeps z (execFanRecovered s) := by
  unfold execFanRecovered
  exact .ite h.setFld.setDuty.next h.next

theorem execGpio2PulseEnd_keeps (h : z.Keeps s) : NextKeeps z (execGpio2PulseEnd s) := by
  unfold execGpio2PulseEnd
  exact .ite h.congr.next h.next

theorem execGpio3Toggle_keeps (h : z.Keeps s) : NextKeeps z (execGpio3Toggle s) := by
  unfold execGpio3Toggle
  exact .ite h.congr.next h.next

/-! ### The functions of `Machine/Copies` -/

theorem execCopy_keeps (h : z.Keeps s) {ctx : Fin 256} {sq : Fin 4} : NextKeeps z (execCopy ctx sq s) := by
  unfold execCopy
  exact (h.take (fun _ _ h1 => h1)).next

theorem State.Keeps.copyFirst (h : z.Keeps s full) {d : Desc} {n : Nat} : z.Keeps (s.copyFirst d n) full := h.touch.copyBytes

theorem execCopyDone_keeps (h : z.Keeps s) {ctx : Fin 256} {sq : Fin 4} {pos : Word} :
    NextKeeps z (execCopyDone ctx sq pos s) := by
  unfold execCopyDone
  split
  · exact h.next
  · split
    · exact h.next
    · dsimp only
      split
      · exact h.touch.copyFirst.raise.complete.next
      · exact h.touch.copyFirst.complete.next

theorem State.Keeps.stopCopy (h : z.Keeps s full) {d : Desc} {st : Status} {abort : Bool} :
    z.Keeps (s.stopCopy d st abort) full :=
  (h.newFree.copyFirst.when (·.undefine)).complete

theorem State.Keeps.tendRegion (h : z.Keeps s full) {r : Nat} : z.Keeps (s.tendRegion r) full := by
  unfold State.tendRegion
  split
  · exact h.setRegionBusy
  · exact h.setRegionBusy.unless (·.same)

theorem State.Keeps.dropJob (h : z.Keeps s full) {u : Nat} : z.Keeps (s.dropJob u) full := h.same

theorem State.Keeps.endUpdate (h : z.Keeps s full) {j : RegionJob} {st : Status} : z.Keeps (s.endUpdate j st) full :=
  h.dropJob.complete

theorem State.Keeps.supersedeJob (h : z.Keeps s) {j : RegionJob} : z.Keeps (s.supersedeJob j) := h.endUpdate.raise

theorem execRegionUpdate_keeps (h : z.Keeps s) {ctx : Fin 256} {sq : Fin 4} :
    NextKeeps z (execRegionUpdate ctx sq s) := by
  unfold execRegionUpdate
  refine (h.take fun u d hu => ?_).next
  extract_lets r v
  have hv : z.Keeps v := by
    refine .ite ?_ hu
    split
    · exact hu
    · exact hu.foldl fun _ _ h1 => h1.supersedeJob
  exact (hv.congr : State.Keeps z { v with regionJobs := _ }).tendRegion

theorem execRegionReadersClear_keeps (h : z.Keeps s) {region : Fin 4096} :
    NextKeeps z (execRegionReadersClear region s) := by
  unfold execRegionReadersClear
  exact h.tendRegion.next

theorem State.Keeps.copyGranule (h : z.Keeps s) {j : RegionJob} {e : RegionEntry} : z.Keeps (s.copyGranule j e) := by
  unfold State.copyGranule
  dsimp only
  split
  · exact h.touch.copyBytes
  · exact h.touch

theorem execRegionGranuleDone_keeps (h : z.Keeps s) {region : Fin 4096} :
    NextKeeps z (execRegionGranuleDone region s) := by
  have log (j : RegionJob) (b : Option Nat) {v : State} (hv : z.Keeps v) : State.Keeps z (match b with
      | some l => if j.poisoned then v else v.raise 0x1100 0x31F2 [.d (l * 64)] j.desc.ctx
      | none => v) := by
    cases b with
    | none => exact hv
    | some l => exact hv.unless (·.raise)
  unfold execRegionGranuleDone
  split
  · next j rest e _ _ =>
    refine .ite h.next ?_
    extract_lets total v1 src bad v2 j2 v3
    have hv1 : z.Keeps v1 := h.when (·.copyGranule)
    have hv2 : z.Keeps v2 := log j bad hv1
    have hv3 : z.Keeps v3 := hv2.unless (·.setRegionGen)
    exact .ite hv3.endUpdate.tendRegion.next (.ite hv2.supersedeJob.tendRegion.next hv2.congr.next)
  · exact h.next

theorem State.Keeps.stopJob (h : z.Keeps s full) {j : RegionJob} {st : Status} {abort : Bool} :
    z.Keeps (s.stopJob j st abort) full := by
  unfold State.stopJob
  refine .tendRegion (.endUpdate ?_)
  split
  · exact h.undefine
  · exact h

theorem execFence_keeps (h : z.Keeps s) {ctx : Fin 256} {sq : Fin 4} : NextKeeps z (execFence ctx sq s) := by
  unfold execFence
  exact (h.take (fun _ _ h1 => h1)).next

theorem execFenceSatisfied_keeps (h : z.Keeps s) {ctx : Fin 256} {sq : Fin 4} :
    NextKeeps z (execFenceSatisfied ctx sq s) := by
  unfold execFenceSatisfied
  split
  · exact .ite h.complete.next h.next
  · exact h.next

theorem execFenceTimeout_keeps (h : z.Keeps s) {ctx : Fin 256} {sq : Fin 4} :
    NextKeeps z (execFenceTimeout ctx sq s) := by
  unfold execFenceTimeout
  split
  · exact .ite h.complete.next h.next
  · exact h.next

theorem State.Keeps.staleFences (h : z.Keeps s full) {n : Nat} :
    z.Keeps (s.staleFences n) full := h.foldl (fun _ _ h1 => h1.complete)

theorem State.Keeps.endWait (h : z.Keeps s) {d : Desc} : z.Keeps (s.endWait d) := h.complete

theorem execWaitGts_keeps (h : z.Keeps s) {ctx : Fin 256} {sq : Fin 4} : NextKeeps z (execWaitGts ctx sq s) := by
  unfold execWaitGts
  exact (h.take (fun _ _ h1 => .ite h1.endWait h1)).next

theorem execWaitGtsReached_keeps (h : z.Keeps s) {ctx : Fin 256} {sq : Fin 4} :
    NextKeeps z (execWaitGtsReached ctx sq s) := by
  unfold execWaitGtsReached
  split
  · exact .ite h.endWait.next h.next
  · exact h.next

theorem execMarker_keeps (h : z.Keeps s) {ctx : Fin 256} {sq : Fin 4} : NextKeeps z (execMarker ctx sq s) := by
  unfold execMarker
  exact (h.take (fun _ _ h1 => h1.raise.complete)).next

/-! ### The functions of `Machine/Window` -/

theorem State.Keeps.updWu (h : z.Keeps s) {c : Nat} {f : WuUnit → WuUnit} : z.Keeps (s.updWu c f) := h.updCore

theorem State.Keeps.wuBegin (h : z.Keeps s) {c : Nat} {l : Launch} {v : WuCheck} {body : State → State}
    (hbody : ∀ x1, z.Keeps x1 → z.Keeps (body x1)) : z.Keeps (s.wuBegin c l v body) := by
  unfold State.wuBegin
  split
  · exact h.progError
  · exact h.limitError
  · exact hbody _ h

theorem State.Keeps.wuDenied (h : z.Keeps s) {c : Nat} {l : Launch} : z.Keeps (s.wuDenied c l) := h.progError

theorem State.Keeps.awinDone (h : z.Keeps s) {c m : Nat} : z.Keeps (s.awinDone c m) := by
  unfold State.awinDone
  split
  · exact h
  · exact .ite h.updWu (.ite h.updWu.semAdd h.updWu)

theorem execConvGroup_keeps (h : z.Keeps s) {core : Fin 64} : NextKeeps z (execConvGroup core s) := by
  unfold execConvGroup
  split
  · exact h.next
  · exact .ite h.next (h.wuBegin (fun _ h1 => h1.updWu)).next

theorem execConvRowAvailable_keeps (h : z.Keeps s) {core : Fin 64} : NextKeeps z (execConvRowAvailable core s) := by
  unfold execConvRowAvailable
  split
  · exact h.next
  · exact .ite h.updWu.next h.next

theorem State.Keeps.wuUnstall (h : z.Keeps s) {c : Nat} : z.Keeps (s.wuUnstall c) := by
  unfold State.wuUnstall
  extract_lets one
  have hone : ∀ (u : State) (t : Nat), z.Keeps u → z.Keeps (one u t) := by
    intro u t hu
    unfold one
    split
    · exact .ite hu.updWu.updTidy.tcNext hu
    · exact hu
  exact hone _ _ (hone _ _ h)

theorem State.Keeps.wuLaunch (h : z.Keeps s) {c t : Nat} {val : Word} : z.Keeps (s.wuLaunch c t val) := by
  unfold State.wuLaunch
  exact .ite h.updTidy h.updWu.tcNext

theorem execWuLaunch_keeps (h : z.Keeps s) {core : Fin 64} {tc : Fin 2} {val : Word} :
    NextKeeps z (execWuLaunch core tc val s) := by
  unfold execWuLaunch
  exact .ite h.wuLaunch.next h.next

theorem State.Keeps.wuFinish (h : z.Keeps s) {c : Nat} {d : List Byte} {items bad aux : Nat} :
    z.Keeps (s.wuFinish c d items bad aux) := by
  unfold State.wuFinish
  exact .wuUnstall (.updWu (.when (.ite h h.bayStore) (·.semAdd)))

/-! ### The functions of `Machine/Engines` -/

theorem State.Keeps.updMe (h : z.Keeps s) {c m : Nat} {f : MeUnit → MeUnit} : z.Keeps (s.updMe c m f) := h.updCore

theorem State.Keeps.meUnstall (h : z.Keeps s) {c m : Nat} : z.Keeps (s.meUnstall c m) := by
  unfold State.meUnstall
  dsimp only
  split
  · split
    · refine .tcNext (.updTidy (.updMe ?_))
      split
      · exact .ite h.updMe.updTidy.tcNext h
      · exact h
    · split
      · exact .ite h.updMe.updTidy.tcNext h
      · exact h
  · split
    · exact .ite h.updMe.updTidy.tcNext h
    · exact h

theorem State.Keeps.meAdvance (h : z.Keeps s) {c m n : Nat} : z.Keeps (s.meAdvance c m n) := by
  unfold State.meAdvance
  dsimp only
  split
  · exact h
  · exact .ite h.updMe h.updMe.meUnstall

theorem State.Keeps.meLaunch (h : z.Keeps s) {c t m : Nat} {val : Word} : z.Keeps (s.meLaunch c t m val) := by
  unfold State.meLaunch
  exact .ite h.updTidy h.updMe.tcNext

theorem execMeListLaunch_keeps (h : z.Keeps s) {core : Fin 64} {tc : Fin 2} {me : Fin 4} {val : Word} :
    NextKeeps z (execMeListLaunch core tc me val s) := by
  unfold execMeListLaunch
  exact .ite h.meLaunch.next h.next

theorem State.Keeps.meRun (h : z.Keeps s) {c m op slots : Nat} {bad : MeCmd → Bool} {body : MeCmd → State}
    (hbody : ∀ x1, z.Keeps (body x1)) : NextKeeps z (s.meRun c m op slots bad body) := by
  unfold State.meRun
  split
  · exact h.next
  · exact .ite h.next (.ite h.meError.next (.ite h.next (.ite h.meError.next (hbody _ ).next)))

theorem execMeNop_keeps (h : z.Keeps s) {core : Fin 64} {me : Fin 4} : NextKeeps z (execMeNop core me s) := by
  unfold execMeNop
  split
  · exact h.next
  · exact .ite h.meError.next (h.meRun (fun _ => h.meAdvance))

theorem execMeZero_keeps (h : z.Keeps s) {core : Fin 64} {me : Fin 4} : NextKeeps z (execMeZero core me s) := by
  unfold execMeZero
  exact h.meRun (fun _ => h.updMe.meAdvance)

theorem State.Keeps.ifBayClean (h : z.Keeps s) {c : Nat} {rows : List (Nat × Nat)} {body : State}
    (hbody : z.Keeps body) : z.Keeps (s.ifBayClean c rows body) := by
  unfold State.ifBayClean
  split
  · exact h.corePoison
  · exact hbody

theorem execMeAccLoad_keeps (h : z.Keeps s) {core : Fin 64} {me : Fin 4} : NextKeeps z (execMeAccLoad core me s) := by
  unfold execMeAccLoad
  exact h.meRun (fun _ => h.ifBayClean h.updMe.meAdvance)

theorem execMeStoreRaw_keeps (h : z.Keeps s) {core : Fin 64} {me : Fin 4} : NextKeeps z (execMeStoreRaw core me s) := by
  unfold execMeStoreRaw
  exact h.meRun (fun _ => (h.foldl (fun _ _ h2 => h2.bayStore)).updMe.meAdvance)

theorem State.Keeps.mmaStep (h : z.Keeps s) {c m : Nat} {k : MeCmd} {p : MmaPair} : z.Keeps (s.mmaStep c m k p) := by
  unfold State.mmaStep
  exact .ite h.congr.coreFault (h.ifBayClean (h.congr.add64.updCore.unless (·.meAdvance.when (·.awinDone))))

theorem execMeMma_keeps (h : z.Keeps s) {core : Fin 64} {me : Fin 4} {ce : Option (Fin 24)} :
    NextKeeps z (execMeMma core me ce s) := by
  unfold execMeMma
  refine State.Keeps.meRun h (fun _ => ?_)
  split
  · exact h
  · dsimp only
    split
    · exact h.bayCorrected.mmaStep
    · split
      · exact h.bayCorrected
      · exact .ite h.bayCorrected.meError (.ite h.bayCorrected h.bayCorrected.mmaStep)

theorem State.Keeps.storeOut (h : z.Keeps s) {c m : Nat} {k : MeCmd} {q : Qrec} {mode : Nat} {dst sc : Loc} :
    z.Keeps (s.storeOut c m k q mode dst sc) := by
  unfold State.storeOut
  exact (h.foldl (fun _ _ h1 => (h1.foldl (fun _ _ h2 => .ite h2 (.ite h2.putElem h2.putElem))).unless
      (·.locStore))).updCore.updMe.meAdvance

theorem execMeStore_keeps (h : z.Keeps s) {core : Fin 64} {me : Fin 4} : NextKeeps z (execMeStore core me s) := by
  unfold execMeStore
  refine State.Keeps.meRun h (fun _ => ?_)
  split
  · split
    · exact h.meError
    · dsimp only
      split
      · exact h.storeOut
      · exact h
      · exact h
      · exact h.progErrorAt
  · exact h

theorem State.Keeps.spoilStore (h : z.Keeps s) {c m : Nat} : z.Keeps (s.spoilStore c m) := by
  unfold State.spoilStore
  split
  · split
    · split
      · exact h
      · split
        · exact h.spoilLoc
        · exact h
    · exact h
  · exact h

theorem execMeWait_keeps (h : z.Keeps s) {core : Fin 64} {me : Fin 4} : NextKeeps z (execMeWait core me s) := by
  unfold execMeWait
  exact h.meRun (fun _ => .ite h.meAdvance h.updMe)

theorem execMeWaitSatisfied_keeps (h : z.Keeps s) {core : Fin 64} {me : Fin 4} :
    NextKeeps z (execMeWaitSatisfied core me s) := by
  unfold execMeWaitSatisfied
  split
  · exact h.next
  · exact .ite h.meAdvance.next h.next

theorem execMeSignal_keeps (h : z.Keeps s) {core : Fin 64} {me : Fin 4} : NextKeeps z (execMeSignal core me s) := by
  unfold execMeSignal
  exact h.meRun (fun _ => h.semAdd.meAdvance)

/-! ### The functions of `Machine/Mover` -/

theorem State.Keeps.updDm (h : z.Keeps s) {c q : Nat} {f : DmQueue → DmQueue} : z.Keeps (s.updDm c q f) := h.updCore

theorem State.Keeps.dmStep (h : z.Keeps s) {c q : Nat} {l : Launch} {d : DmD} {runs : List DmRun} {n : Nat} :
    z.Keeps (s.dmStep c q l d runs n) := by
  unfold State.dmStep
  dsimp only
  refine .ite h.progError ?_
  split
  · exact h.endRunWith
  · refine .ite h (State.Keeps.updDm (h.foldl fun u a hu => ?_))
    split
    · exact .ite hu.locStore hu.locCopy
    · exact hu

theorem State.Keeps.dmRow (h : z.Keeps s) {c q op : Nat} {runs : DmD → Nat → List DmRun} :
    z.Keeps (s.dmRow c q op runs) := by
  unfold State.dmRow
  split
  · exact .ite h (.ite (.ite h.progError h) (.ite h h.dmStep))
  · exact h

theorem execDmCopy_keeps (h : z.Keeps s) {core : Fin 64} {queue : Fin 2} {ce : Option (Fin 24)} :
    NextKeeps z (execDmCopy core queue ce s) := by
  unfold execDmCopy
  exact h.dmRow.bayCorrected.next

theorem execDmTranspose_keeps (h : z.Keeps s) {core : Fin 64} {queue : Fin 2} :
    NextKeeps z (execDmTranspose core queue s) := by
  unfold execDmTranspose
  exact h.dmRow.next

theorem execDmFill_keeps (h : z.Keeps s) {core : Fin 64} {queue : Fin 2} : NextKeeps z (execDmFill core queue s) := by
  unfold execDmFill
  exact h.dmRow.next

theorem State.Keeps.dmUnstall (h : z.Keeps s) {c q : Nat} : z.Keeps (s.dmUnstall c q) := by
  unfold State.dmUnstall
  dsimp only
  split
  · split
    · refine .tcNext (.updTidy (.updDm ?_))
      split
      · exact .ite h.updDm.updTidy.tcNext h
      · exact h
    · split
      · exact .ite h.updDm.updTidy.tcNext h
      · exact h
  · split
    · exact .ite h.updDm.updTidy.tcNext h
    · exact h

theorem State.Keeps.dmLaunch (h : z.Keeps s) {c t q : Nat} {val : Word} : z.Keeps (s.dmLaunch c t q val) := by
  unfold State.dmLaunch
  exact .ite h.updTidy h.updDm.tcNext

theorem execDmLaunch_keeps (h : z.Keeps s) {core : Fin 64} {tc queue : Fin 2} {val : Word} :
    NextKeeps z (execDmLaunch core tc queue val s) := by
  unfold execDmLaunch
  exact .ite h.dmLaunch.next h.next

theorem execDmDescriptorDone_keeps (h : z.Keeps s) {core : Fin 64} {queue : Fin 2} :
    NextKeeps z (execDmDescriptorDone core queue s) := by
  unfold execDmDescriptorDone
  split
  · exact h.next
  · split
    · exact h.next
    · refine State.Keeps.next (.dmUnstall (.updDm ?_))
      split
      · exact h
      · split
        · split
          · exact h.signalMember
          · exact h
        · exact h.semAdd

theorem State.Keeps.spoilDm (h : z.Keeps s) {c q : Nat} : z.Keeps (s.spoilDm c q) := by
  unfold State.spoilDm
  split
  · dsimp only
    split
    · exact h
    · refine .foldl h (fun _ _ h1 => ?_)
      split
      · exact h1.spoilLoc
      · exact h1
  · exact h

/-! ### The functions of `Machine/Detect` -/

theorem State.Keeps.withSpans (h : z.Keeps s) {c : Nat} {l : Launch} {ps : List Span} {body : State}
    (hbody : z.Keeps body) : z.Keeps (s.withSpans c l ps body) := by
  unfold State.withSpans
  split
  · exact hbody
  · exact h.wuDenied
  · exact h

theorem State.Keeps.ifClean (h : z.Keeps s) {c : Nat} {reads : List (Loc × Nat)} {body : State → State}
    (hbody : ∀ x1, z.Keeps x1 → z.Keeps (body x1)) : z.Keeps (s.ifClean c reads body) := by
  unfold State.ifClean
  dsimp only
  split
  · exact (h.foldl (fun _ _ h1 => h1.locTouch)).corePoison
  · exact hbody _ (h.foldl (fun _ _ h1 => h1.locTouch))

theorem State.Keeps.countBad (h : z.Keeps s) {c n : Nat} : z.Keeps (s.countBad c n) := h.updWu

theorem State.Keeps.wuStart (h : z.Keeps s) {c : Nat} : z.Keeps (s.wuStart c) := h.updWu

theorem State.Keeps.wuStep (h : z.Keeps s) {c op : Nat} {check : Launch → List Byte → State → WuCheck}
    {step : Launch → List Byte → State → State} (hstep : ∀ x1 x2 x3, z.Keeps x3 → z.Keeps (step x1 x2 x3)) : z.Keeps
    (s.wuStep c op check step) := by
  unfold State.wuStep
  split
  · exact h
  · exact .ite h (.ite (hstep _ _ _ h) (h.wuBegin (fun _ h1 => hstep _ _ _ h1.wuStart)))

theorem State.Keeps.cropRow (h : z.Keeps s) {c : Nat} {d : List Byte} : z.Keeps (s.cropRow c d) := by
  unfold State.cropRow
  exact h.ifClean (fun _ h1 => ((h1.foldl (fun _ _ h2 => h2.locStore)).when (·.countBad)).updWu)

theorem execCropResize_keeps (h : z.Keeps s) {core : Fin 64} : NextKeeps z (execCropResize core s) := by
  unfold execCropResize
  exact (h.wuStep (fun _ _ _ h1 => .ite h1 (h1.withSpans h1.cropRow))).next

theorem State.Keeps.putCands (h : z.Keeps s) {b : Loc} {l : List Cand} : z.Keeps (s.putCands b l) := h.locStore

theorem State.Keeps.boxStep (h : z.Keeps s) {c : Nat} {d : List Byte} : z.Keeps (s.boxStep c d) := by
  unfold State.boxStep
  exact h.ifClean (fun _ h1 => h1.newFree.putCands.locStore.locStore.locStore.countBad.updWu)

theorem execBoxDecode_keeps (h : z.Keeps s) {core : Fin 64} : NextKeeps z (execBoxDecode core s) := by
  unfold execBoxDecode
  exact (h.wuStep (fun _ _ _ h1 => .ite h1 (h1.withSpans (.ite h1.limitError (h1.withSpans h1.boxStep))))).next

theorem State.Keeps.nmsSort (h : z.Keeps s) {c : Nat} {buf : Loc} {n : Nat} : z.Keeps (s.nmsSort c buf n) :=
  h.ifClean (fun _ h1 => h1.newFree.putCands.updWu)

theorem State.Keeps.nmsTest (h : z.Keeps s) {c : Nat} {d : List Byte} {n : Nat} : z.Keeps (s.nmsTest c d n) := by
  unfold State.nmsTest
  refine .ifClean h (fun _ h1 => ?_)
  split
  · exact h1.locStore.updWu
  · exact h1.updWu
  · exact h1.locStore.updWu

theorem State.Keeps.nmsStep (h : z.Keeps s) {c : Nat} {d : List Byte} : z.Keeps (s.nmsStep c d) := by
  unfold State.nmsStep
  exact .ite h.nmsSort h.nmsTest

theorem execNms_keeps (h : z.Keeps s) {core : Fin 64} : NextKeeps z (execNms core s) := by
  unfold execNms
  exact (h.wuStep (fun _ _ _ h1 => .ite h1 (h1.withSpans (.ite h1.limitError (.ite h1.progError
      (h1.withSpans h1.nmsStep)))))).next

theorem State.Keeps.d2sStep (h : z.Keeps s) {c : Nat} {d : List Byte} : z.Keeps (s.d2sStep c d) := by
  unfold State.d2sStep
  exact h.ifClean (fun _ h1 => (h1.foldl (fun _ _ h2 => h2.locStore)).updWu)

theorem execDepthToSpace_keeps (h : z.Keeps s) {core : Fin 64} : NextKeeps z (execDepthToSpace core s) := by
  unfold execDepthToSpace
  exact (h.wuStep (fun _ _ _ h1 => .ite h1 (h1.withSpans h1.d2sStep))).next

theorem execWuDescriptorDone_keeps (h : z.Keeps s) {core : Fin 64} : NextKeeps z (execWuDescriptorDone core s) := by
  unfold execWuDescriptorDone
  split
  · exact h.next
  · exact .ite h.next (.ite h.progError.next (.ite h.wuFinish.next h.next))

/-! ### The functions of `Machine/YardRows` -/

theorem State.Keeps.setPoolSt (h : z.Keeps s) {p n : Nat} : z.Keeps (s.setPoolSt p n) := h.setFld

theorem State.Keeps.setPoolFrames (h : z.Keeps s) {p : Nat} {l : List Nat} : z.Keeps (s.setPoolFrames p l) :=
  h.updPool.setFld

theorem State.Keeps.releaseFrame (h : z.Keeps s) {p f : Nat} : z.Keeps (s.releaseFrame p f) := by
  unfold State.releaseFrame
  exact .ite h.retireFrame (.ite h.setFrameSt.addFld h)

theorem State.Keeps.poolAssign (h : z.Keeps s) {c : PoolCmd} : z.Keeps (s.poolAssign c).2 := by
  unfold State.poolAssign
  dsimp only
  split
  · exact h
  · split
    · exact h
    · exact (h.foldl (fun _ _ h1 => h1.setFrameSt)).setPoolFrames.setFld.when (·.setPoolSt)

theorem State.Keeps.poolRelease (h : z.Keeps s) {c : PoolCmd} : z.Keeps (s.poolRelease c).2 := by
  unfold State.poolRelease
  dsimp only
  split
  · exact h
  · split
    · exact h
    · exact (h.foldl (fun _ _ h1 => h1.releaseFrame)).setPoolFrames

theorem State.Keeps.makeMeta (h : z.Keeps s) : z.Keeps s.makeMeta := by
  unfold State.makeMeta
  exact .ite h (h.foldl (fun _ _ h1 => h1.setFrameSt)).withYard.setFld.clearKeys

theorem State.Keeps.poolCreate (h : z.Keeps s) {c : PoolCmd} : z.Keeps (s.poolCreate c).2 := by
  unfold State.poolCreate
  dsimp only
  split
  · exact h
  · split
    · exact h
    · split
      · split
        · exact h
        · exact (h.makeMeta.setPoolSt.updPool.foldl (fun _ _ h1 => h1.clearKeys)).markFrames.countSeqs
      · split
        · exact h.makeMeta.setPoolSt
        · exact h

theorem State.Keeps.poolDestroy (h : z.Keeps s) {c : PoolCmd} : z.Keeps (s.poolDestroy c).2 := by
  unfold State.poolDestroy
  dsimp only
  split
  · exact h
  · split
    · exact h
    · exact (h.evictAll.foldl (fun _ _ h1 => h1.releaseFrame)).withYard.setPoolSt.setFld.setFld.setFld.wr

theorem State.Keeps.startCmd (h : z.Keeps s) : z.Keeps s.startCmd := by
  unfold State.startCmd
  split
  · next c r _ _ =>
    extract_lets v
    have hv : z.Keeps v := h.withYard
    have done (res : Nat) {u : State} (hu : z.Keeps u) :
        z.Keeps (if res = 0 then (u.setFld (yardA 0x60) 0 1 1).setFld (yardA 0x60) 4 4 res
          else ((u.setFld (yardA 0x60) 0 1 1).setFld (yardA 0x60) 4 4 res).raise 0x1110 0x11E8
            [.w c.pool, .w c.op, .w res]) := .ite hu.setFld.setFld hu.setFld.setFld.raise
    split
    next res u e =>
    refine done res ?_
    split at e
    exacts [hv.poolAssign.snd_of_eq e, hv.poolRelease.snd_of_eq e, hv.poolCreate.snd_of_eq e,
        hv.poolDestroy.snd_of_eq e]
  · exact h

theorem State.Keeps.poolCmd (h : z.Keeps s) {pool op : Nat} : z.Keeps (s.poolCmd pool op) := by
  unfold State.poolCmd
  exact .ite h.withYard.startCmd h

theorem execPoolCmdDone_keeps (h : z.Keeps s) : NextKeeps z (execPoolCmdDone s) := by
  unfold execPoolCmdDone
  split
  · exact h.next
  · exact h.withYard.setFld.addFld.startCmd.next

theorem State.Keeps.unitOn (h : z.Keeps s) {core : Option Nat} : z.Keeps (s.unitOn core) := by
  unfold State.unitOn
  split
  · exact h.updCore
  · exact h

theorem State.Keeps.grantPage (h : z.Keeps s) {r : PageReq} : z.Keeps (s.grantPage r) := by
  unfold State.grantPage
  split
  · refine .keepWater ?_
    split
    · exact h.withYard.takePage.setEntry.unitOn
    · exact h.withYard.when (·.pinPage.takePage.withYard)
    · exact h.withYard.when (·.takePage.withYard)
  · exact h

theorem State.Keeps.waitReq (h : z.Keeps s) {r : PageReq} : z.Keeps (s.waitReq r) := by
  unfold State.waitReq
  exact .ite h h.withYard.addFld

theorem State.Keeps.serveReq (h : z.Keeps s) {r : PageReq} {fuel : Nat} : z.Keeps (s.serveReq r fuel) := by
  induction fuel generalizing s with
  | zero => exact h
  | succ fuel ih =>
    unfold State.serveReq
    extract_lets low
    refine .ite h.grantPage ?_
    split
    · exact ih h.evictEntry
    · refine .ite (.ite h ?_) (.ite h ?_)
      · split
        · next e => exact h.startSpill e
        · exact h.waitReq
      · split
        · exact h.startWriteOut
        · exact h.waitReq

theorem State.Keeps.skipRow (h : z.Keeps s) {c : Nat} : z.Keeps (s.skipRow c) := h.updCore

theorem State.Keeps.failReq (h : z.Keeps s) {r : PageReq} : z.Keeps (s.failReq r) := by
  unfold State.failReq
  dsimp only
  split
  · split
    · exact .ite (h.withYard.stopRunOf.endOp.when (·.skipRow)) h.withYard.endRun
    · exact h.withYard
  · exact h.withYard.updSeq.endOp
  · exact h.withYard.endRun
  · exact h.withYard.endOp

theorem State.Keeps.allocStep (h : z.Keeps s) {r : PageReq} : z.Keeps (s.allocStep r) := by
  unfold State.allocStep
  exact .ite h (.ite h.failReq h.serveReq)

theorem execPageAlloc_keeps (h : z.Keeps s) {pool : Fin 64} : NextKeeps z (execPageAlloc pool s) := by
  unfold execPageAlloc
  exact (h.foldl (fun _ _ h1 => h1.allocStep)).keepWater.next

theorem execAllocWaitTimeout_keeps (h : z.Keeps s) {pool : Fin 64} : NextKeeps z (execAllocWaitTimeout pool s) := by
  unfold execAllocWaitTimeout
  dsimp only
  split
  · exact h.next
  · exact h.addFld.raise.failReq.next

theorem State.Keeps.updIntent (h : z.Keeps s) {c : Nat} {f : Intent → Intent} : z.Keeps (s.updIntent c f) := h.withYard

theorem State.Keeps.grantIntent (h : z.Keeps s) {c p P : Nat} : z.Keeps (s.grantIntent c p P) :=
  h.pinPage.updIntent.unitOn

theorem execWriteIntent_keeps (h : z.Keeps s) {core : Fin 64} : NextKeeps z (execWriteIntent core s) := by
  unfold execWriteIntent
  split
  · exact h.next
  · split
    · exact h.next
    · exact .ite h.addReq.next (.ite h.next (.ite h.cancelSpill.next
        (.ite h.cancelSpill.grantIntent.next h.cancelSpill.addReq.updIntent.next)))

theorem State.Keeps.yardPoison (h : z.Keeps s) {q line : Nat} : z.Keeps (s.yardPoison q line) := h.raise.loseSeq

theorem State.Keeps.dropTransfer (h : z.Keeps s) {t : Transfer} : z.Keeps (s.dropTransfer t) := h.withYard

theorem State.Keeps.freeDst (h : z.Keeps s) {t : Transfer} : z.Keeps (s.freeDst t) := h.putKv.freeKv

theorem execCowCopyDone_keeps (h : z.Keeps s) {core : Fin 64} : NextKeeps z (execCowCopyDone core s) := by
  unfold execCowCopyDone
  split
  · exact h.next
  · split
    · exact h.next
    · dsimp only
      split
      · exact h.dropTransfer.freeDst.unpin.next
      · split
        · exact h.dropTransfer.freeDst.unpin.yardPoison.endRun.next
        · exact (h.dropTransfer.foldl (fun _
            _ h1 => h1.poolStore)).poolStore.putKv.setEntry.unref.unpin.add64.grantIntent.next

theorem State.Keeps.fetched (h : z.Keeps s) {q e : Nat} : z.Keeps (s.fetched q e) := h.foldl (fun _ _ h1 => h1.unitOn)

theorem execFetchDone_keeps (h : z.Keeps s) {seq : Nat} {entry : Fin 1024} {pcieError : Bool} :
    NextKeeps z (execFetchDone seq entry pcieError s) := by
  unfold execFetchDone
  split
  · exact h.next
  · split
    · exact h.next
    · dsimp only
      split
      · exact h.dropTransfer.freeDst.next
      · split
        · split
          · exact h.dropTransfer.freeDst.badRec.raise.loseSeq.endRun.next
          · exact h.dropTransfer.freeDst.badRec.raise.loseSeq.next
        · exact
            .ite h.dropTransfer.pageIn.putKv.setEntry.freeRec.addFld.fetched.nextRestore.next
                h.dropTransfer.pageIn.putKv.setEntry.freeRec.addFld.fetched.next

theorem State.Keeps.sendAway (h : z.Keeps s) {q : Nat} {x : Seq} {e P r : Nat} : z.Keeps (s.sendAway q x e P r) := by
  unfold State.sendAway
  dsimp only
  split
  · exact h.pageOut.setEntry.unref.badRec.yardPoison
  · exact h.pageOut.setEntry.unref

theorem execPreemptWriteoutDone_keeps (h : z.Keeps s) {seq : Nat} : NextKeeps z (execPreemptWriteoutDone seq s) := by
  unfold execPreemptWriteoutDone
  split
  · exact h.next
  · split
    · exact h.next
    · exact .ite h.withYard.next ((h.withYard.foldl (fun _ _ h1 => h1.sendAway)).updSeq.notify.addFld.raise.unless
        (·.startRestore)).next

theorem execSeqRestored_keeps (h : z.Keeps s) {seq : Nat} : NextKeeps z (execSeqRestored seq s) := by
  unfold execSeqRestored
  split
  · exact h.next
  · exact .ite h.putSeq.withYard.addFld.countSeqs.raise.next h.next

theorem execPageSpilled_keeps (h : z.Keeps s) {pool : Fin 64} {page : Nat} :
    NextKeeps z (execPageSpilled pool page s) := by
  unfold execPageSpilled
  split
  · exact h.next
  · split
    · exact h.next
    · exact .ite h.cancelSpill.next h.withYard.sendAway.addFld.raise.keepWater.next

theorem State.Keeps.pfxFlush (h : z.Keeps s) {val : Word} : z.Keeps (s.pfxFlush val) := by
  unfold State.pfxFlush
  exact .ite h h.evictAll.withYard.setFld

theorem execPfxFlushDone_keeps (h : z.Keeps s) : NextKeeps z (execPfxFlushDone s) := by
  unfold execPfxFlushDone
  split
  · exact h.next
  · exact h.withYard.setFld.next

theorem State.Keeps.requestRetire (h : z.Keeps s full) {f : Nat} : z.Keeps (s.requestRetire f) full := by
  unfold State.requestRetire
  split
  · exact h
  · dsimp only
    split
    · exact h
    · exact h.retireFrame
    · exact h.withYard
    · exact h.withYard.when (·.markFrames)

theorem State.Keeps.askRetire (h : z.Keeps s) {f : Nat} : z.Keeps (s.askRetire f) := h.congr.requestRetire

theorem execFrameRetireRequest_keeps (h : z.Keeps s) {frame : Fin 49152} :
    NextKeeps z (execFrameRetireRequest frame s) := by
  unfold execFrameRetireRequest
  exact h.askRetire.next

/-! ### The functions of `Machine/RowStat` -/

theorem State.Keeps.updRs (h : z.Keeps s) {c : Nat} {f : RsUnit → RsUnit} : z.Keeps (s.updRs c f) := h.updCore

theorem State.Keeps.rsEnqueue (h : z.Keeps s) {c t a : Nat} : z.Keeps (s.rsEnqueue c t a) := by
  unfold State.rsEnqueue
  dsimp only
  split
  · exact h.updRs.when (·.updGang)
  · exact h.updRs

theorem State.Keeps.rsLaunch (h : z.Keeps s) {c t : Nat} {val : Word} : z.Keeps (s.rsLaunch c t val) := by
  unfold State.rsLaunch
  exact .ite h.updTidy h.rsEnqueue.tcNext

theorem execRsLaunch_keeps (h : z.Keeps s) {core : Fin 64} {tc : Fin 2} {val : Word} :
    NextKeeps z (execRsLaunch core tc val s) := by
  unfold execRsLaunch
  exact .ite h.rsLaunch.next h.next

theorem State.Keeps.rsUnstall (h : z.Keeps s) {c : Nat} : z.Keeps (s.rsUnstall c) := by
  unfold State.rsUnstall
  extract_lets one
  have hone : ∀ (u : State) (t : Nat), z.Keeps u → z.Keeps (one u t) := by
    intro u t hu
    unfold one
    split
    · exact .ite hu.rsEnqueue.updTidy.tcNext hu
    · exact hu
  exact hone _ _ (hone _ _ h)

theorem State.Keeps.poolTouch (h : z.Keeps s) {p x n : Nat} : z.Keeps (s.poolTouch p x n) :=
  h.foldl (fun _ _ h1 => h1.touch)

theorem State.Keeps.ifPoolClean (h : z.Keeps s) {c p : Nat} {l : List (Nat × Nat)} {body : State → State}
    (hbody : ∀ x1, z.Keeps x1 → z.Keeps (body x1)) : z.Keeps (s.ifPoolClean c p l body) := by
  unfold State.ifPoolClean
  dsimp only
  split
  · exact (h.foldl (fun _ _ h1 => h1.poolTouch)).corePoison
  · exact hbody _ (h.foldl (fun _ _ h1 => h1.poolTouch))

theorem State.Keeps.attendWrite (h : z.Keeps s) {c : Nat} {b : List Byte} {q : Qrec} :
    z.Keeps (s.attendWrite c b q) := by
  unfold State.attendWrite
  exact (h.foldl (fun _ _ h1 => (h1.foldl (fun _ _ h2 => h2.putElem)).updCore)).updRs

theorem State.Keeps.unpinAhead (h : z.Keeps s) {c e : Nat} : z.Keeps (s.unpinAhead c e) := by
  unfold State.unpinAhead
  refine .updRs ?_
  split
  · exact h.unpin
  · exact h

theorem State.Keeps.attendStep (h : z.Keeps s) {c : Nat} {b : List Byte} {q : Nat} {x : Seq} {qr : Qrec} :
    z.Keeps (s.attendStep c b q x qr) := by
  unfold State.attendStep
  dsimp only
  split
  · exact h
  · split
    · exact h.attendWrite
    · exact .ite h.addReq.updRs (.ite h.updRs (h.ifPoolClean (fun _ h1 => h1.updCore.unpinAhead)))

theorem execAttend_keeps (h : z.Keeps s) {core : Fin 64} : NextKeeps z (execAttend core s) := by
  unfold execAttend
  split
  · exact h.next
  · dsimp only
    split
    · exact h.next
    · split
      · exact h.progError.next
      · split
        · exact h.limitError.next
        · split
          · exact .ite h.progError.next (.ite h.progError.next (.ite h.attendStep.next
              (.ite h.next h.bayUndefine.updRs.attendStep.next)))
          · exact h.progError.next

theorem execLookaheadRequest_keeps (h : z.Keeps s) {core : Fin 64} : NextKeeps z (execLookaheadRequest core s) := by
  unfold execLookaheadRequest
  split
  · exact h.next
  · dsimp only
    split
    · exact h.next
    · split
      · exact h.next
      · split
        · exact h.next
        · exact .ite h.addReq.updRs.next (.ite h.cancelSpill.pinPage.updRs.next h.next)

theorem State.Keeps.fp8Part (h : z.Keeps s) {b : KvBlock} {off : Nat → Nat} {sc : Nat} {held : List Nat} {row : Nat}
    {x : List F32} : z.Keeps (s.fp8Part b off sc held row x).1 := by
  unfold State.fp8Part
  exact .poolStore (.poolStore (.ite (h.foldl (fun _ _ h1 => h1.poolStore)) h))

theorem State.Keeps.ngiKRow (h : z.Keeps s) {b : KvBlock} {row : Nat} {x : List F32} {kbase : F32} :
    z.Keeps (s.ngiKRow b row x kbase).1 :=
  h.foldl (fun _ _ h1 => h1.poolStore.poolStore)

theorem State.Keeps.ngiVElem (h : z.Keeps s) {b : KvBlock} {held : List Nat} {row : Nat} {vbase : F32} {a : RowCount}
    {d : Nat} {x : F32} : z.Keeps (s.ngiVElem b held row vbase a d x).1 := by
  unfold State.ngiVElem
  exact .poolStore (.poolStore (.ite (h.foldl (fun _ _ h1 => h1.poolStore)) h))

theorem State.Keeps.ngiVRow (h : z.Keeps s) {b : KvBlock} {held : List Nat} {row : Nat} {x : List F32} {vbase : F32} :
    z.Keeps (s.ngiVRow b held row x vbase).1 :=
  h.foldl_fst (fun _ _ h1 => h1.ngiVElem)

theorem State.Keeps.writeKv (h : z.Keeps s) {b : KvBlock} {held : List Nat} {row : Nat} {k v : List F32}
    {kbase vbase : F32} : z.Keeps (s.writeKv b held row k v kbase vbase).1 := by
  unfold State.writeKv
  split
  · exact h.poolStore.poolStore
  · split
    · exact h.fp8Part.fp8Part
    · exact h.ngiKRow.ngiVRow

theorem State.Keeps.rsDone1 (h : z.Keeps s) {c : Nat} : z.Keeps (s.rsDone1 c) := h.updRs

theorem State.Keeps.slotRow (h : z.Keeps s) {c : Nat} {l : Launch} {b : List Byte} {r : KvRow} :
    z.Keeps (s.slotRow c l b r) := by
  unfold State.slotRow
  split
  · exact h.progError
  · refine .ite h.progError (.ite h.limitError ?_)
    extract_lets slot e row v wait
    refine .ite h.addReq.updRs ?_
    split
    · exact h.withYard.updRs
    · exact .ite h (h.ifPoolClean (fun _ h1 => h1.writeKv.withYard.unpin.updSeq.updCore.updRs.rsDone1))

theorem State.Keeps.kvStep (h : z.Keeps s) {c op : Nat} {step : Launch → List Byte → State → State}
    (hstep : ∀ x1 x2 x3, z.Keeps x3 → z.Keeps (step x1 x2 x3)) : z.Keeps (s.kvStep c op step) := by
  unfold State.kvStep
  split
  · exact h
  · exact .ite h (.ite (.ite (hstep _ _ _ h) h) (.ite h.progError (.ite h.limitError (.ite h.progError (hstep _ _
      _ h.updRs)))))

theorem execAppend_keeps (h : z.Keeps s) {core : Fin 64} : NextKeeps z (execAppend core s) := by
  unfold execAppend
  refine State.Keeps.next (.kvStep h (fun _ _ _ h1 => ?_))
  dsimp only
  split
  · exact h1.progError
  · refine .ifClean h1 (fun _ h2 => ?_)
    split
    · exact h2.slotRow
    · split
      · exact h2.locStore.rsDone1
      · exact h2
      · exact h2.progError

theorem execScatter_keeps (h : z.Keeps s) {core : Fin 64} : NextKeeps z (execScatter core s) := by
  unfold execScatter
  refine State.Keeps.next (.kvStep h (fun _ _ _ h1 => ?_))
  dsimp only
  split
  · exact h1.ifClean (fun _ h2 => h2.slotRow)
  · exact h1
  · exact h1.progError

theorem execRsDescriptorDone_keeps (h : z.Keeps s) {core : Fin 64} : NextKeeps z (execRsDescriptorDone core s) := by
  unfold execRsDescriptorDone
  split
  · exact h.next
  · exact .ite h.next (.ite h.progError.next (.ite h.next (State.Keeps.next (.rsUnstall (.updRs (.foldl (.when
      (.ite h h.bayStore) (·.semAdd)) (fun _ _ h1 => h1.unpinAhead)))))))

/-! ### The functions of `Machine/SeqOps` -/

theorem execSeqOpen_keeps (h : z.Keeps s) {ctx : Fin 256} {sq : Fin 4} : NextKeeps z (execSeqOpen ctx sq s) := by
  unfold execSeqOpen
  refine (h.take fun u d hu => ?_).next
  split
  · extract_lets v x w0 w pages
    have hw : z.Keeps w := hu.touch.putSeq.countSeqs.store
    clear_value w
    split
    · exact hu.touch.consume
    · split
      next e =>
        refine State.Keeps.complete (State.Keeps.putSeq ?_)
        split at e
        · exact hw.lookupPages.snd_of_eq e
        · exact hw.snd_of_eq e
  · exact hu

theorem State.Keeps.askPages (h : z.Keeps s) {d : Desc} : z.Keeps (s.askPages d) := by
  unfold State.askPages
  dsimp only
  split
  · exact h
  · exact .ite h (.ite h.startRestore (.ite (h.foldl (fun _ _ h1 => h1.addReq)) h))

theorem State.Keeps.holdMore (h : z.Keeps s) {rs : List Nat} {holder : Nat} : z.Keeps (s.holdMore rs holder) :=
  h.holdRegions

theorem State.Keeps.holdAtStart (h : z.Keeps s) {d : Desc} : z.Keeps (s.holdAtStart d) := by
  unfold State.holdAtStart
  split
  · exact h
  · exact .ite h.putSeq.holdMore (.ite h.holdMore h)

theorem State.Keeps.seqRow (h : z.Keeps s) {n q cls : Nat} {check : State → Desc → Option Status}
    {begin' : State → Nat → Desc → State} (hbegin' : ∀ x1 x2 x3, z.Keeps x1 → z.Keeps (begin' x1 x2 x3)) : z.Keeps
    (s.seqRow n q cls check begin') := by
  unfold State.seqRow
  split
  · exact hbegin' _ _ _ h
  · exact (h.foldl (fun _ _ h1 => h1.askPages)).take (fun _ _ h1 => .ite h1.updSeq.holdAtStart (.ite (hbegin' _ _
      _ h1.updSeq.holdAtStart) h1.updSeq.holdAtStart.askPages))

theorem State.Keeps.forkNow (h : z.Keeps s) {i : Nat} {x : Seq} {d : Desc} : z.Keeps (s.forkNow i x d) := by
  unfold State.forkNow
  split
  · exact .ite h.endOp (h.putSeq.countSeqs.copyBytes.foldl (fun _
      _ h1 => h1.cancelSpill.refPage)).updSeq.complete.releaseHolds
  · exact h.endOp

theorem execSeqFork_keeps (h : z.Keeps s) {ctx : Fin 256} {sq : Fin 4} : NextKeeps z (execSeqFork ctx sq s) := by
  unfold execSeqFork
  refine State.Keeps.next (.seqRow h (fun _ _ _ h1 => ?_))
  split
  · exact h1
  · split
    · exact h1.endOp
    · exact h1.forkNow

theorem execSeqClose_keeps (h : z.Keeps s) {ctx : Fin 256} {sq : Fin 4} : NextKeeps z (execSeqClose ctx sq s) := by
  unfold execSeqClose
  refine (h.seqRow fun u i d hu => ?_).next
  split
  · exact hu
  · next x _ =>
    have hp : z.Keeps (if d.nat 16 1 = 1 ∧ x.lost.isNone then u.publish x else (0, u)).2 := .ite_snd hu.publish hu
    generalize (if d.nat 16 1 = 1 ∧ x.lost.isNone then u.publish x else (0, u)) = p at hp ⊢
    obtain ⟨pub, v⟩ := p
    have hv : z.Keeps (v.releaseList i x).2 := State.Keeps.releaseList hp
    dsimp only
    generalize v.releaseList i x = r at hv ⊢
    exact hv.discardRow.complete.dropOps

/-! ### The functions of `Machine/SeqAppend` -/

theorem State.Keeps.textFault (h : z.Keeps s) {q region id : Nat} : z.Keeps (s.textFault q region id) := by
  unfold State.textFault
  split
  · exact h.raise.endAppend
  · exact h

theorem State.Keeps.gramFault (h : z.Keeps s) {q region st : Nat} : z.Keeps (s.gramFault q region st) := by
  unfold State.gramFault
  split
  · exact h.raise.endAppend
  · exact h

theorem State.Keeps.seqPoison (h : z.Keeps s) {q line : Nat} : z.Keeps (s.seqPoison q line) := by
  unfold State.seqPoison
  split
  · exact h.raise.endOp
  · exact h

theorem State.Keeps.updAct (h : z.Keeps s) {q : Nat} {f : Appending → Appending} : z.Keeps (s.updAct q f) := h.updSeq

theorem State.Keeps.countLines (h : z.Keeps s) {hits : Nat} : z.Keeps (s.countLines hits) := h.newFree.addSat.addSat

theorem State.Keeps.endIfEmpty (h : z.Keeps s) {q : Nat} : z.Keeps (s.endIfEmpty q) := by
  unfold State.endIfEmpty
  exact .ite h.endAppend h

theorem State.Keeps.startText (hs : z.Keeps s) {q : Nat} {x : Seq} {d : Desc} {h : ModelHdr} :
    z.Keeps (s.startText q x d h) := by
  unfold State.startText
  extract_lets u need bound vr v1 v2 gbad
  have hv1 : z.Keeps v1 := hs.holdMore
  refine .ite hv1.endOp (.ite hv1.endOp ?_)
  split
  · exact hv1.raise.endOp
  · exact hv1.addSat.addSat.newUid.updSeq.endIfEmpty

theorem execSeqAppend_keeps (h : z.Keeps s) {ctx : Fin 256} {sq : Fin 4} : NextKeeps z (execSeqAppend ctx sq s) := by
  unfold execSeqAppend
  refine State.Keeps.next (.seqRow h (fun _ _ _ h1 => ?_))
  split
  · exact h1
  · split
    · exact h1.endOp
    · dsimp only
      split
      · refine .seqPoison ?_
        split
        · exact h1.touch
        · exact h1
      · split
        · refine .endOp ?_
          split
          · exact h1.touch
          · exact h1
        · split
          · refine .startText ?_
            split
            · exact h1.touch
            · exact h1
          · refine .endOp ?_
            split
            · exact h1.touch
            · exact h1

theorem execTokenisePretoken_keeps (h : z.Keeps s) {seq : Nat} : NextKeeps z (execTokenisePretoken seq s) := by
  unfold execTokenisePretoken
  split
  · exact h.next
  · split
    · exact h.next
    · split
      · split
        · exact h.next
        · split
          · exact h.textFault.next
          · exact h.updAct.addSat64.countLines.endIfEmpty.next
      · exact h.next

theorem State.Keeps.writeText (h : z.Keeps s) {q : Nat} {a : Appending} {bs : List Byte} :
    z.Keeps (s.writeText q a bs) :=
  h.storeAt.addSat64.updAct

theorem State.Keeps.endText (h : z.Keeps s) {q : Nat} : z.Keeps (s.endText q) := by
  unfold State.endText
  split
  · exact h
  · split
    · exact h
    · exact .updSeq (.ite h (.raise (.addSat (.ite h.writeText h))))

theorem State.Keeps.startChunk (hs : z.Keeps s) {q : Nat} {x : Seq} {a : Appending} {k : Nat} {h : ModelHdr}
    {tokensAt logitAt : Nat} : z.Keeps (s.startChunk q x a k h tokensAt logitAt) := by
  unfold State.startChunk
  extract_lets n toks last v args
  have hv : z.Keeps (v.newGang x.ctx a.desc h.prefillCores (k + h.prefillOff) args []).2 := hs.store.newGang
  refine .updAct ?_
  exact hv.congr

theorem execPrefillChunk_keeps (h : z.Keeps s) {seq tokensAt logitAt : Nat} :
    NextKeeps z (execPrefillChunk seq tokensAt logitAt s) := by
  unfold execPrefillChunk
  split
  · exact h.next
  · split
    · exact h.next
    · split
      · exact h.next
      · split
        · exact h.next
        · split
          · exact h.endText.endAppend.next
          · dsimp only
            split
            · exact h.endAppend.next
            · split
              · exact h.endAppend.next
              · exact .ite h.startChunk.next h.next

theorem State.Keeps.makeStep (hs : z.Keeps s) {ms : List (Nat × Nat × Nat)} {d : Desc} {k : Nat} {h : ModelHdr}
    {tableAt logitsAt : Nat} : z.Keeps (s.makeStep ms d k h tableAt logitsAt).2 := by
  have log (v : State) (hv : z.Keeps v) (r : List StepRun) (n : Nat) :
      State.Keeps z { v with text := { v.text with steps := r, stepCount := n } } := hv.congr
  unfold State.makeStep
  exact State.Keeps.foldl (log _ ((hs.store (k := kHbm tableAt)).newGang.updGang) _ _) fun _ _ h1 => h1.updAct

theorem State.Keeps.toSpread (h : z.Keeps s) {g : Geo} {b : KlBody} : z.Keeps (s.toSpread g b) :=
  h.foldl (fun _ _ h1 => h1.klSend)

theorem execDecodeStepForm_keeps (h : z.Keeps s) {region : Nat} {cores : List (Fin 64)} {tableAt logitsAt : Nat} :
    NextKeeps z (execDecodeStepForm region cores tableAt logitsAt s) := by
  unfold execDecodeStepForm
  split
  · exact h.next
  · split
    · exact h.next
    · split
      · exact h.next
      · dsimp only
        split
        · exact h.next
        · split
          · exact (h.foldl (fun _ _ h1 => h1.endAppend)).next
          · split
            · exact h.next
            · exact .ite h.next (.ite h.makeStep.grant.toSpread.next (.ite h.next (.ite h.stopGangs.next h.next)))

theorem State.Keeps.recordToken (h : z.Keeps s) {q tok : Nat} : z.Keeps (s.recordToken q tok) := by
  unfold State.recordToken
  split
  · exact h
  · exact (h.store.when (·.setChain)).putSeq

theorem State.Keeps.recordTokens (h : z.Keeps s) {q : Nat} {toks : List Nat} : z.Keeps (s.recordTokens q toks) :=
  h.foldl (fun _ _ h1 => h1.recordToken)

theorem State.Keeps.queueRow (h : z.Keeps s) {q key : Nat} : z.Keeps (s.queueRow q key) := h.updAct.congr

theorem State.Keeps.acceptChunk (h : z.Keeps s) {r : StepRun} {q : Nat} {x : Seq} {a : Appending} :
    z.Keeps (s.acceptChunk r q x a) := by
  unfold State.acceptChunk
  dsimp only
  split
  · exact h.recordTokens.updSeq.updAct.when (·.queueRow)
  · exact h.recordTokens.updSeq.updAct.when (·.endAppend)

theorem State.Keeps.acceptEntry (h : z.Keeps s) {r : StepRun} {i : Nat} {m : Nat × Nat × Nat} {live : Bool} :
    z.Keeps (s.acceptEntry r i m live) := by
  unfold State.acceptEntry
  split
  · exact h.addSat
  · exact .ite h.addSat (h.recordToken.updSeq.updAct.when (·.queueRow))

theorem State.Keeps.acceptStep (h : z.Keeps s) {u : Nat} : z.Keeps (s.acceptStep u) := by
  unfold State.acceptStep
  split
  · exact h
  · dsimp only
    split
    · split
      · exact h.congr
      · split
        · exact .ite h.congr.acceptChunk (h.congr.when (·.addSat))
        · exact h.congr.when (·.addSat)
    · exact h.congr.foldl (fun _ _ h1 => h1.acceptEntry)

theorem State.Keeps.takeMsg (h : z.Keeps s) {e : Nat × KlBody} : z.Keeps (s.takeMsg e) := h.withKl

theorem execStepTableReceived_keeps (h : z.Keeps s) {region : Nat} {rows : List (Nat × Nat)} {tableAt logitsAt : Nat} :
    NextKeeps z (execStepTableReceived region rows tableAt logitsAt s) := by
  unfold execStepTableReceived
  split
  · exact h.next
  · split
    · exact h.next
    · split
      · exact h.next
      · split
        · exact h.next
        · dsimp only
          split
          · exact h.next
          · split
            · exact h.next
            · split
              · exact (h.takeMsg.foldl (fun _ _ h1 => h1.endAppend)).next
              · exact h.takeMsg.makeStep.next

theorem State.Keeps.tokenChosen (h : z.Keeps s) {q tok : Nat} : z.Keeps (s.tokenChosen q tok) := by
  unfold State.tokenChosen
  exact .ite h.newUid.updAct.updSeq.endAppend h.newUid.updAct.updSeq

theorem execSpreadTokenReceived_keeps (h : z.Keeps s) {seq tok : Nat} :
    NextKeeps z (execSpreadTokenReceived seq tok s) := by
  unfold execSpreadTokenReceived
  split
  · exact h.next
  · split
    · exact h.next
    · split
      · exact h.next
      · split
        · exact h.next
        · split
          · exact h.next
          · exact .ite h.takeMsg.endAppend.next (.ite h.takeMsg.endAppend.next h.takeMsg.tokenChosen.next)

theorem State.Keeps.gramEnd (h : z.Keeps s) {q : Nat} {x : Seq} {g : Grammar} {isOver : Bool} {st depth : Nat} :
    z.Keeps (s.gramEnd q x g isOver st depth) := by
  unfold State.gramEnd
  exact .endAppend (.unqueueRow (.when (.ite h.addSat.raise h.addSat.raise) (·.endText)))

theorem State.Keeps.countMask (h : z.Keeps s) {q : Nat} {x : Seq} {ns : Nat} : z.Keeps (s.countMask q x ns) :=
  h.addSat64.setFld.when (·.addSat.raise)

theorem execMaskReady_keeps (h : z.Keeps s) {seq ns : Nat} : NextKeeps z (execMaskReady seq ns s) := by
  unfold execMaskReady
  split
  · exact h.next
  · split
    · exact h.next
    · split
      · exact h.next
      · split
        · exact h.next
        · dsimp only
          split
          · exact h.countMask.countLines.countLines.unqueueRow.gramFault.next
          · exact h.countMask.countLines.countLines.unqueueRow.textFault.next
          · exact .ite h.countMask.countLines.countLines.updAct.next h.countMask.countLines.countLines.gramEnd.next

theorem State.Keeps.commitToken (h : z.Keeps s) {q tok : Nat} {x : Seq} {a : Appending} {t : Detok} {g : Option
    (Nat × List Nat)} : z.Keeps (s.commitToken q tok x a t g) := by
  unfold State.commitToken
  exact .tokenChosen (.updSeq (.addSat (.ite h h.writeText)))

theorem State.Keeps.takeToken (hs : z.Keeps s) {q tok : Nat} {x : Seq} {a : Appending} {h : ModelHdr} :
    z.Keeps (s.takeToken q tok x a h) := by
  unfold State.takeToken
  split
  · exact hs.endText.endAppend
  · split
    · exact hs.endText.endAppend
    · split
      · exact hs.textFault
      · split
        · exact hs.endAppend
        · split
          · exact hs.textFault
          · exact hs.commitToken
          · dsimp only
            split
            · exact hs.commitToken
            · exact hs.gramEnd
            · exact hs.gramFault
            · exact hs.gramFault

theorem execTokenStep_keeps (h : z.Keeps s) {seq : Nat} : NextKeeps z (execTokenStep seq s) := by
  unfold execTokenStep
  split
  · exact h.next
  · split
    · exact h.next
    · split
      · split
        · exact h.next
        · dsimp only
          split
          · exact h.unqueueRow.touch.seqPoison.next
          · split
            · exact h.unqueueRow.touch.endAppend.next
            · split
              · exact h.unqueueRow.touch.gramEnd.next
              · split
                · exact h.unqueueRow.touch.next
                · exact State.Keeps.next (.takeToken (.toSpread (.ite (.countLines
                    (.ite h.unqueueRow.touch.addSat.addSat64.updAct.countLines
                        h.unqueueRow.touch.addSat.addSat64.updAct))
                            (.ite h.unqueueRow.touch.addSat.addSat64.updAct.countLines
                                h.unqueueRow.touch.addSat.addSat64.updAct))))
      · exact h.next

/-! ### The functions of `Machine/Cancel` -/

theorem State.Keeps.spoilCore (h : z.Keeps s) {c : Nat} : z.Keeps (s.spoilCore c) :=
  (h.foldl (fun _ _ h1 => h1.spoilStore)).spoilDm.spoilDm

theorem State.Keeps.cancelCore (h : z.Keeps s) {c : Nat} {st : Status} : z.Keeps (s.cancelCore c st) := by
  unfold State.cancelCore
  split
  · exact .finishGang (.newFree (.ite (h.foldl (fun _ _ h1 => h1.spoilCore)) h))
  · exact h

theorem State.Keeps.cancelDec (h : z.Keeps s) {n : Nat} {st : Status} : z.Keeps (s.cancelDec n st) := by
  unfold State.cancelDec
  refine (h.foldl fun _ _ hu => hu.stopPicture).foldl fun u i hu => hu.foldl fun v r hv => ?_
  dsimp only
  split
  · exact hv.dropAu
  · exact hv

theorem State.Keeps.cancelEnc (h : z.Keeps s) {n : Nat} {st : Status} : z.Keeps (s.cancelEnc n st) := by
  unfold State.cancelEnc
  refine .encStartAll (.foldl (h.foldl (fun _ _ h1 => h1.stopEncode)) (fun _ _ h1 => ?_))
  split
  · exact h1
  · exact h1.foldl (fun _ _ h2 => h2.stopEncode)

theorem State.Keeps.cancelTaps (h : z.Keeps s) {st : Status} : z.Keeps (s.cancelTaps st) := by
  unfold State.cancelTaps
  extract_lets spoil v
  have hspoil (u : State) (d : DecStream) (p : Picture) (t : PicTap) (hu : z.Keeps u) : z.Keeps (spoil u d p t) := by
    dsimp only [spoil]
    split
    · exact .ite hu.undefineAt hu
    · exact hu
  have hv : z.Keeps v := by
    refine h.when fun h => h.foldl fun u e hu => ?_
    split
    · exact hu.foldl fun w t hw => hspoil w _ _ t hw
    · exact hu
  exact hv.congr

theorem State.Keeps.spoilFrame (h : z.Keeps s) {c : CamStream} {f : CamFrame} : z.Keeps (s.spoilFrame c f) := by
  unfold State.spoilFrame
  exact .ite h (.when (.ite h.undefineAt h) (·.spoilYuv))

theorem State.Keeps.cancelCam (h : z.Keeps s) {port : Nat} {st : Status} : z.Keeps (s.cancelCam port st) := by
  unfold State.cancelCam
  split
  · exact .foldl (.ite (h.foldl (fun _ _ h1 => h1.spoilFrame)) h) (fun _ _ h1 => h1.endFrame)
  · exact h

theorem State.Keeps.spoilSheet (h : z.Keeps s full) {j : ScanJob} {sh : Sheet} : z.Keeps (s.spoilSheet j sh) full := by
  unfold State.spoilSheet
  exact .ite h (.when (.ite h.undefineAt h) (·.undefineAt))

theorem State.Keeps.cancelScan (h : z.Keeps s full) {st : Status} : z.Keeps (s.cancelScan st) full := by
  unfold State.cancelScan
  split
  · refine .endJob (.cutSheet (.stopMotor ?_))
    split
    · exact .ite (h.foldl (fun _ _ h1 => h1.spoilSheet)) h
    · exact h
  · exact h

theorem State.Keeps.cancelText (h : z.Keeps s) {b : Blk} {st : Status} : z.Keeps (s.cancelText b st) := by
  unfold State.cancelText
  refine .foldl (h.foldl (fun _ _ h1 => h1.complete.releaseHolds.updSeq)) (fun _ _ h1 => ?_)
  split
  · exact .endAppend (.ite h1.undefineAt h1)
  · exact h1

theorem State.Keeps.cancelYard (h : z.Keeps s) {st : Status} : z.Keeps (s.cancelYard st) :=
  ((h.foldl (fun _ _ h1 => h1.stopCopy)).foldl (fun _ _ h1 => h1.stopJob)).foldl (fun _ _ h1 => h1.stopJob)

theorem State.Keeps.spoilRun (h : z.Keeps s) {r : SmpRun} : z.Keeps (s.spoilRun r) :=
  h.foldl (fun _ _ h1 => h1.undefineAt.undefineAt)

theorem State.Keeps.finishLanes (h : z.Keeps s) : z.Keeps s.finishLanes :=
  h.foldl (fun _ _ h1 => h1.getD (fun _ e => h1.laneDone e))

theorem State.Keeps.cancelSmp (h : z.Keeps s) {st : Status} : z.Keeps (s.cancelSmp st) := by
  unfold State.cancelSmp
  exact .foldl (.ite (h.foldl (fun _ _ h1 => h1.spoilRun)) h.finishLanes) (fun _ _ h1 => h1.smpEnd)

theorem State.Keeps.cancelColl (h : z.Keeps s) {st : Status} : z.Keeps (s.cancelColl st) := by
  unfold State.cancelColl
  refine .foldl (h.foldl (fun _ _ h1 => h1.collFinish)) (fun _ _ h1 => .foldl (.foldl h1 (fun _ _ h2 => ?_)) (fun _
      _ h2 => h2.collFinish))
  split
  · exact h2.collStart
  · exact h2

theorem State.Keeps.disablePort (h : z.Keeps s) {n : Nat} : z.Keeps (s.disablePort n) := h.setFld.setFld.handOver

theorem State.Keeps.stopWork (h : z.Keeps s) {b : Blk} {n : Nat} {st : Status} : z.Keeps (s.stopWork b n st) := by
  unfold State.stopWork
  split
  · exact h.cancelCore
  · exact h.cancelDec
  · exact h.cancelEnc
  · exact h.cancelTaps
  · exact h.cancelCam
  · exact h.cancelCam
  · exact h.cancelScan
  · exact h.cancelScan
  · exact h.cancelScan
  · exact h.cancelText
  · exact h.cancelText
  · exact h.cancelText
  · exact h.cancelYard
  · exact h.cancelSmp
  · exact h.cancelColl
  · exact h.disablePort
  · exact h

theorem State.Keeps.cancelBlock (h : z.Keeps s) {b : Blk} {n : Nat} {st : Status} : z.Keeps (s.cancelBlock b n st) :=
  h.setPage.stopWork.setPage

/-! ### The functions of `Machine/Contexts` -/

theorem State.Keeps.setLastStatus (h : z.Keeps s full) {n : Nat} {st : Status} : z.Keeps (s.setLastStatus n st) full := h.setFld

theorem State.Keeps.ctxIgnored (h : z.Keeps s) {n : Nat} : z.Keeps (s.ctxIgnored n) := h.raise

theorem State.Keeps.tellVf (h : z.Keeps s full) {n : Nat} : z.Keeps (s.tellVf n) full := by
  unfold State.tellVf
  exact .ite h h.sendMsi

theorem State.Keeps.zeroRings (h : z.Keeps s full) {n : Nat} : z.Keeps (s.zeroRings n) full :=
  (h.foldl (fun _ _ h1 => h1.wr.wr)).setCtx

theorem State.Keeps.openAccepted (h : z.Keeps s) {n load : Nat} : z.Keeps (s.openAccepted n load) :=
  h.zeroRings.setCtx.wr.wr.wr.wr.wr.wr.setFld.wr.wr64.setCtxState.raise.drainHeld.evalAdmission

theorem State.Keeps.openCtx (h : z.Keeps s) {n : Nat} : z.Keeps (s.openCtx n) := by
  unfold State.openCtx
  exact .ite h.ctxIgnored (.ite h.setLastStatus (.ite h.wr.wr.openAccepted h.setLastStatus.setFld.raise))

theorem State.Keeps.releaseOwned (h : z.Keeps s full) {n : Nat} : z.Keeps (s.releaseOwned n) full := by
  unfold State.releaseOwned
  exact .ite h (h.foldl (fun _ _ h1 => h1.setPage.raise))

theorem State.Keeps.freeCtx (h : z.Keeps s full) {n : Nat} : z.Keeps (s.freeCtx n) full :=
  h.setCtx.setFld.setFld.setCtxState.releaseOwned.tellVf.evalAdmission

theorem State.Keeps.endStarted (h : z.Keeps s full) {n : Nat} {st : Status} : z.Keeps (s.endStarted n st) full :=
  h.foldl (fun _ _ h1 => h1.complete.releaseHolds)

theorem State.Keeps.abortPrograms (h : z.Keeps s full) {n : Nat} : z.Keeps (s.abortPrograms n) full :=
  (h.foldl (fun _ _ h1 => h1.finishGang)).foldl (fun _ _ h1 => h1.stopRunOf.endAppend)

theorem State.Keeps.abortTransfers (h : z.Keeps s full) {n : Nat} : z.Keeps (s.abortTransfers n) full :=
  ((h.foldl (fun _ _ h1 => h1.stopCopy)).foldl (fun _ _ h1 => h1.stopJob)).foldl (fun _ _ h1 => h1.smpEnd)

theorem State.Keeps.abortScan (h : z.Keeps s full) {n : Nat} : z.Keeps (s.abortScan n) full := by
  unfold State.abortScan
  exact .ite h.cancelScan.flushRing h

theorem State.Keeps.dropClosings (h : z.Keeps s full) {n : Nat} : z.Keeps (s.dropClosings n) full := h.same

theorem State.Keeps.abortStarted (h : z.Keeps s full) {n : Nat} : z.Keeps (s.abortStarted n) full :=
  h.abortPrograms.abortTransfers.abortScan.endStarted.dropClosings

theorem State.Keeps.closeObjects (h : z.Keeps s full) {n : Nat} : z.Keeps (s.closeObjects n) full := by
  unfold State.closeObjects
  refine .abortScan (.foldl (.foldl (.foldl (h.foldl (fun _ _ h1 => h1.closeSeq)) (fun _ _ h1 => ?_)) (fun _
      _ h1 => ?_)) (fun _ _ h1 => ?_))
  · split
    · dsimp only
      split
      · exact h1.setDec.abortDec.releaseDec
      · exact h1.setDec.abortDec
    · exact h1
  · dsimp only
    split
    · exact h1.abortEnc.releaseEnc
    · exact h1.abortEnc
  · dsimp only
    split
    · exact h1.abortCam.releaseCam
    · exact h1.abortCam

theorem State.Keeps.takeNotice (h : z.Keeps s full) {x : Notice} : z.Keeps (s.takeNotice x) full := by
  unfold State.takeNotice
  split
  · split
    · exact h.markDone
    · exact h
  · exact h.deliver

theorem State.Keeps.deliverAll (h : z.Keeps s full) {n : Nat} : z.Keeps (s.deliverAll n) full :=
  h.same.foldl (fun _ _ h1 => h1.takeNotice)

theorem State.Keeps.abortCtx (h : z.Keeps s full) {n : Nat} {free : Bool} : z.Keeps (s.abortCtx n free) full := by
  unfold State.abortCtx
  exact .ite (h.setCtxState.abortStarted.foldl (fun _
      _ h1 => h1.complete)).closeObjects.deliverAll.bumpEpoch.staleFences.zeroRings.raise.freeCtx
          (h.setCtxState.abortStarted.foldl (fun _
              _ h1 => h1.complete)).closeObjects.deliverAll.bumpEpoch.staleFences.zeroRings.raise.setCtx.setCtxState

theorem State.Keeps.faultCtx (h : z.Keeps s full) {n : Nat} {st : Status} : z.Keeps (s.faultCtx n st) full := by
  unfold State.faultCtx
  exact .ite h.setCtxState.setLastStatus.abortStarted.raise.tellVf (.ite h.setLastStatus.abortCtx h)

theorem State.Keeps.closeCtx (h : z.Keeps s) {n : Nat} : z.Keeps (s.closeCtx n) := by
  unfold State.closeCtx
  exact .ite h.setCtxState.setCtx (.ite h.abortCtx h.ctxIgnored)

theorem State.Keeps.resetCtx (h : z.Keeps s) {n : Nat} : z.Keeps (s.resetCtx n) := by
  unfold State.resetCtx
  exact .ite h.abortCtx h.ctxIgnored

theorem State.Keeps.ctxCmd (h : z.Keeps s) {n cmd : Nat} : z.Keeps (s.ctxCmd n cmd) := by
  unfold State.ctxCmd
  exact .ite h.openCtx (.ite h.closeCtx (.ite h.resetCtx h))

theorem execCtxCloseDone_keeps (h : z.Keeps s) {ctx : Fin 256} : NextKeeps z (execCtxCloseDone ctx s) := by
  unfold execCtxCloseDone
  exact .ite h.closeObjects.deliverAll.freeCtx.next h.next

theorem State.Keeps.vfReset (h : z.Keeps s) {fn : Nat} : z.Keeps (s.vfReset fn) :=
  (h.foldl (fun _ _ h1 => h1.abortCtx)).raise

theorem execVfFlr_keeps (h : z.Keeps s) {fn : Fin 16} : NextKeeps z (execVfFlr fn s) := by
  unfold execVfFlr
  exact .ite h.next h.vfReset.next

theorem execVfEnableClear_keeps (h : z.Keeps s) : NextKeeps z (execVfEnableClear s) := by
  unfold execVfEnableClear
  exact (h.foldl (fun _ _ h1 => h1.vfReset)).next

theorem execDescriptorFetch_keeps (h : z.Keeps s) {ctx : Fin 256} {sq : Fin 4} {pcieError : Bool} :
    NextKeeps z (execDescriptorFetch ctx sq pcieError s) := by
  unfold execDescriptorFetch
  exact .ite h.next (.ite h.touch.faultCtx.next (.ite h.touch.faultCtx.next (h.touch.newUid.wr.setCtx.when (·.take (fun
      _ _ h1 => h1))).next))

theorem execCompletionNotice_keeps (h : z.Keeps s) {pcieError : Bool} :
    NextKeeps z (execCompletionNotice pcieError s) := by
  unfold execCompletionNotice
  split
  · exact h.next
  · dsimp only
    split
    · exact h.congr.acceptStep.next
    · exact .ite h.congr.next ((h.congr.takeNotice.settle.when (·.faultCtx)).when (·.faultCtx)).next

theorem execMsixCoalesceExpiry_keeps (h : z.Keeps s) {fn : Fin 16} {vec : Fin 1088} :
    NextKeeps z (execMsixCoalesceExpiry fn vec s) := by
  unfold execMsixCoalesceExpiry
  exact .ite h.sendMsi.congr.next h.next

/-! ### The functions of `Machine/TestAccess` -/

theorem State.Keeps.countPerturbed (h : z.Keeps s) : z.Keeps s.countPerturbed := h.setFld

theorem State.Keeps.endInjection (h : z.Keeps s) {result : Nat} : z.Keeps (s.endInjection result) := by
  unfold State.endInjection
  extract_lets v
  have hv : z.Keeps v := by
    unfold v
    split
    · exact .ite h.updPort h
    · exact h
  exact hv.congr

theorem State.Keeps.lockTest (h : z.Keeps s) : z.Keeps s.lockTest := by
  unfold State.lockTest
  exact .ite h (h.congr.setFld.countPerturbed.when (·.endInjection)).raise

theorem State.Keeps.setWindow (h : z.Keeps s) {b : Bool} : z.Keeps (s.setWindow b) := h.setFld

theorem State.Keeps.writeUnlock (h : z.Keeps s) {key fn : Nat} : z.Keeps (s.writeUnlock key fn) := by
  unfold State.writeUnlock
  exact .ite h.congr (.ite h.setWindow.setFld.raise (.ite h.setWindow.lockTest h.setWindow.raise))

theorem execUnlockWindowExpiry_keeps (h : z.Keeps s) : NextKeeps z (execUnlockWindowExpiry s) := by
  unfold execUnlockWindowExpiry
  exact .ite h.setWindow.next h.next

theorem State.Keeps.writeInj (h : z.Keeps s) {val : Word} : z.Keeps (s.writeInj val) := by
  unfold State.writeInj
  exact .ite h.setFld (.ite h (.ite h.setFld (.ite h.setFld (.ite h.congr (h.congr.when (·.updPort))))))

theorem execFaultInjected_keeps (h : z.Keeps s) : NextKeeps z (execFaultInjected s) := by
  unfold execFaultInjected
  split
  · exact .ite h.congr.raise.next h.next
  · exact h.next

theorem execInjectNotHit_keeps (h : z.Keeps s) : NextKeeps z (execInjectNotHit s) := by
  unfold execInjectNotHit
  split
  · exact .ite h.endInjection.raise.next h.next
  · exact h.next

/-! ### The functions of `Machine/Coupling` -/

theorem State.Keeps.showEnd (h : z.Keeps s full) {n : Nat} : z.Keeps (s.showEnd n) full := h.setFld.setFld.setFld.setFld.setFld

theorem State.Keeps.showLink (h : z.Keeps s full) {link : Nat} :
    z.Keeps (s.showLink link) full := h.foldl (fun _ _ h1 => h1.showEnd)

theorem State.Keeps.resend (h : z.Keeps s full) {n : Nat} : z.Keeps (s.resend n) full := h.newFree.addSat

theorem execCplLaneRepaired_keeps (h : z.Keeps s) {cpl : Fin 4} {rx : Bool} {bundle : Fin 50} {lane : Fin 22} :
    NextKeeps z (execCplLaneRepaired cpl rx bundle lane s) := by
  unfold execCplLaneRepaired
  exact .ite h.next h.congr.showLink.addSat.resend.raise.next

theorem execCplDegraded_keeps (h : z.Keeps s) {cpl : Fin 4} {rx : Bool} {bundle : Fin 50} :
    NextKeeps z (execCplDegraded cpl rx bundle s) := by
  unfold execCplDegraded
  exact .ite h.next h.congr.showLink.resend.raise.next

/-! ### The functions of `Machine/Losses` -/

theorem State.Keeps.loseSeqs (h : z.Keeps s full) {ps : List Nat} :
    z.Keeps (s.loseSeqs ps) full := h.foldl (fun _ _ h1 => h1.loseSeq)

theorem State.Keeps.loseStreams (h : z.Keeps s full) {ps : List Nat} : z.Keeps (s.loseStreams ps) full := by
  unfold State.loseStreams
  exact ((h.foldl (fun _ _ h1 => h1.stopPicture)).foldl (fun _ _ h1 => h1.stopEncode)).foldl (fun _ _ h1 => h1.foldl
      (fun _ _ h2 => h2.endFrame))

theorem State.Keeps.loseRuns (h : z.Keeps s full) {ps : List Nat} : z.Keeps (s.loseRuns ps) full :=
  (h.foldl (fun _ _ h1 => h1.stopJob)).foldl (fun _ _ h1 => h1.finishGang)

theorem State.Keeps.losePools (h : z.Keeps s full) {ps : List Nat} : z.Keeps (s.losePools ps) full := by
  unfold State.losePools
  exact ((h.loseSeqs.loseStreams.loseRuns.when (·.cancelScan)).foldl (fun _ _ h1 => h1.smpEnd)).foldl (fun _
      _ h1 => h1.faultCtx)

theorem State.Keeps.loseStack (h : z.Keeps s) {k : Nat} : z.Keeps (s.loseStack k) := by
  unfold State.loseStack
  have drop (v : State) (hv : z.Keeps v) :
      State.Keeps z { v with scrub := { v.scrub with retired := v.scrub.retired ++ [k] } } := hv.congr
  exact (drop _ (h.foldl fun _ _ h1 => h1.requestRetire)).losePools

theorem execHbmStackFailed_keeps (h : z.Keeps s) {stack : Fin 4} {untrained : Bool} :
    NextKeeps z (execHbmStackFailed stack untrained s) := by
  unfold execHbmStackFailed
  exact .ite h.next h.raise.loseStack.next

theorem execHbmScrubLine_keeps (h : z.Keeps s) {line : Fin 1610612736} {err : Option Bool} :
    NextKeeps z (execHbmScrubLine line err s) := by
  unfold execHbmScrubLine
  dsimp only
  split
  · exact h.next
  · split
    · exact h.touch.next
    · exact h.touch.findError.askRetire.next
    · exact (h.touch.findError.congr.when (·.askRetire)).next

theorem State.Keeps.dropCores (h : z.Keeps s full) {d : Nat} : z.Keeps (s.dropCores d) full := h.foldl (fun _ _ h1 => h1.wr)

theorem State.Keeps.faultGangs (h : z.Keeps s full) {d : Nat} : z.Keeps (s.faultGangs d) full := by
  unfold State.faultGangs
  refine .foldl h (fun _ _ h1 => ?_)
  split
  · exact h1
  · exact h1.gangFault

theorem State.Keeps.loseDie (h : z.Keeps s) {d : Nat} : z.Keeps (s.loseDie d) :=
  h.raise.congr.dropCores.faultGangs.countCores.evalWanted.clearKeys.loseStack.loseStack.evalWanted

theorem execCplFailed_keeps (h : z.Keeps s) {cpl : Fin 4} {retried : Bool} :
    NextKeeps z (execCplFailed cpl retried s) := by
  unfold execCplFailed
  exact .ite h.next (h.congr.showLink.resend.raise.foldl (fun _ _ h1 => h1.loseDie)).next

theorem execPcieLink1Down_keeps (h : z.Keeps s) : NextKeeps z (execPcieLink1Down s) := by
  unfold execPcieLink1Down
  exact .ite h.setFld.vfReset.next h.next

/-! ### The functions of `Machine/Resets` -/

theorem State.Keeps.withBoot (h : z.Keeps s) {f : Boot → Boot} : z.Keeps (s.withBoot f) := h.congr

theorem State.Keeps.setSt (h : z.Keeps s) {lo w n : Nat} : z.Keeps (s.setSt lo w n) := h.setFld

theorem State.Keeps.setPhase (h : z.Keeps s) {n : Nat} : z.Keeps (s.setPhase n) := h.setSt

theorem State.Keeps.setReady (h : z.Keeps s) {b : Bool} : z.Keeps (s.setReady b) := h.setSt

theorem State.Keeps.setPcieUp (h : z.Keeps s) {b : Bool} : z.Keeps (s.setPcieUp b) := h.setSt

theorem State.Keeps.degraded (h : z.Keeps s) : z.Keeps s.degraded := h.setSt

theorem State.Keeps.countFrames (h : z.Keeps s) : z.Keeps s.countFrames := h.setFld.setFld

theorem State.Keeps.islandFollowers (h : z.Keeps s) : z.Keeps s.islandFollowers := h.foldl (fun _ _ h1 => h1.wr)

theorem State.Keeps.resetIslands (h : z.Keeps s) {soft : Bool} : z.Keeps (s.resetIslands soft) := by
  unfold State.resetIslands
  refine .countPerturbed (.countFrames (.unless (.islandFollowers (.setFld ?_)) (·.foldl fun _ _ h1 => h1.showLink)))
  exact h.tables fun i => ⟨Memory.filter_wf _ i.mem, rfl, rising_filter _ i.poison⟩

theorem State.Keeps.recheckDies (h : z.Keeps s) : z.Keeps s.recheckDies := h.congr

theorem State.Keeps.epochs (h : z.Keeps s) {kind : ResetKind} : z.Keeps (s.epochs kind) := by
  unfold State.epochs
  exact h.congr

theorem State.Keeps.coldOnly (h : z.Keeps s) : z.Keeps s.coldOnly := h.congr.countFrames

theorem State.Keeps.afeFault (h : z.Keeps s) : z.Keeps s.afeFault := h.setPage.setFld.setFld

theorem State.Keeps.beginReset (h : z.Keeps s) {kind : ResetKind} {last : Nat} : z.Keeps (s.beginReset kind last) := by
  unfold State.beginReset
  exact ((h.closeAll.lockTest.resetIslands.congr.when (·.coldOnly)).epochs.withBoot.when
      (·.afeFault)).setSt.setSt.setReady.setPhase

theorem State.Keeps.holdIslands (h : z.Keeps s) : z.Keeps s.holdIslands := by
  unfold State.holdIslands
  exact h.resetIslands.setReady.setPcieUp.setFld.withBoot

theorem State.Keeps.resetNotices (h : z.Keeps s) : z.Keeps s.resetNotices := by
  unfold State.resetNotices
  dsimp only
  split
  · refine .foldl h (fun _ _ h1 => ?_)
    split
    · exact h1
    · split
      · exact h1.deliver
      · exact h1
  · exact h

theorem State.Keeps.requestHeld (h : z.Keeps s) {asked : ResetKind} {last : Nat} :
    z.Keeps (s.requestHeld asked last) := by
  unfold State.requestHeld
  split
  · exact h
  · split
    · exact h.beginReset.withBoot
    · exact h.withBoot
    · exact h

theorem State.Keeps.request (h : z.Keeps s) {asked : ResetKind} {last : Nat} {notices : Bool} :
    z.Keeps (s.request asked last notices) := by
  unfold State.request
  refine .ite h ?_
  extract_lets v w
  have hw : z.Keeps w := (State.Keeps.ite h.resetNotices h).raise
  refine .ite hw.requestHeld ?_
  split
  · exact hw
  · exact hw.beginReset.withBoot

theorem State.Keeps.resetEndpoint (h : z.Keeps s) : z.Keeps s.resetEndpoint := h.congr

/-! ### The functions of `Machine/Boot` -/

theorem State.Keeps.atT0 (h : z.Keeps s) : z.Keeps s.atT0 := h.beginReset.withBoot.raise.when (·.withBoot)

theorem execPgAonAssert_keeps (h : z.Keeps s) {gpio : Fin 4} : NextKeeps z (execPgAonAssert gpio s) := by
  unfold execPgAonAssert
  exact .ite h.next h.congr.withBoot.next

theorem State.Keeps.restartSeq (h : z.Keeps s) : z.Keeps s.restartSeq := h.withEvr.wr.wr

theorem execAonLeavesReset_keeps (h : z.Keeps s) : NextKeeps z (execAonLeavesReset s) := by
  unfold execAonLeavesReset
  exact .ite h.next ((h.congr.withBoot.restartSeq.updMirrorSeq.when (·.raise)).withBoot.when (·.atT0)).next

theorem execPowerGoodAssert_keeps (h : z.Keeps s) {input : Fin 8} {twoLinks : Bool} :
    NextKeeps z (execPowerGoodAssert input twoLinks s) := by
  unfold execPowerGoodAssert
  exact .ite h.next (.ite (State.Keeps.next (.withBoot (.ite h.raise h))) (State.Keeps.next (.when (.setFld (.withBoot
      (.withBoot (.ite h.raise h)))) (·.atT0))))

theorem State.Keeps.loseVaon (h : z.Keeps s) : z.Keeps s.loseVaon :=
  h.tables fun i => ⟨Memory.filter_wf _ i.mem, rfl, rising_filter _ i.poison⟩

theorem execVaonLoss_keeps (h : z.Keeps s) : NextKeeps z (execVaonLoss s) := by
  unfold execVaonLoss
  exact h.loseVaon.next

theorem execPowerGoodDeassert_keeps (h : z.Keeps s) {input : Fin 8} : NextKeeps z (execPowerGoodDeassert input s) := by
  unfold execPowerGoodDeassert
  exact .ite h.next (.ite h.loseVaon.next (h.withBoot.when (·.raise.holdIslands.setPhase)).next)

theorem execRefclkLoss_keeps (h : z.Keeps s) : NextKeeps z (execRefclkLoss s) := by
  unfold execRefclkLoss
  refine .ite h.next ?_
  extract_lets due v w
  have hw : z.Keeps w := h.withBoot.raise.holdIslands
  clear_value w
  exact .ite h.withBoot.next (State.Keeps.withBoot hw.congr).next

theorem State.Keeps.clockReset (h : z.Keeps s) : z.Keeps s.clockReset := by
  unfold State.clockReset
  dsimp only
  split
  · exact h.beginReset.withBoot
  · exact h.raise.beginReset.withBoot
  · exact h.raise.beginReset

theorem execRefclkReturn_keeps (h : z.Keeps s) : NextKeeps z (execRefclkReturn s) := by
  unfold execRefclkReturn
  exact .ite h.next (h.withBoot.unless (·.clockReset)).next

theorem State.Keeps.bootFail (h : z.Keeps s) {code : Nat} : z.Keeps (s.bootFail code) := h.congr.withBoot.raise

theorem execThermTrip_keeps (h : z.Keeps s) : NextKeeps z (execThermTrip s) := by
  unfold execThermTrip
  refine .ite h.next ?_
  extract_lets v
  have hv : z.Keeps v := h.raise.holdIslands
  clear_value v
  exact (State.Keeps.withBoot hv.congr).next

theorem execFatalStop_keeps (h : z.Keeps s) {sram : Nat} : NextKeeps z (execFatalStop sram s) := by
  unfold execFatalStop
  exact .ite h.next h.raise.holdIslands.withBoot.next

theorem State.Keeps.phaseEnds (h : z.Keeps s) {n next : Nat} : z.Keeps (s.phaseEnds n next) := h.raise.withBoot.setPhase

theorem State.Keeps.beginItem (h : z.Keeps s) {mean : ℤ} {item : Nat} : z.Keeps (s.beginItem mean item) := by
  unfold State.beginItem
  exact .ite h.setFld (h.withBoot.unless (·.raise))

theorem State.Keeps.beginPhase4 (h : z.Keeps s) {mean : ℤ} : z.Keeps (s.beginPhase4 mean) := by
  unfold State.beginPhase4
  exact (h.setFld.foldl (fun _ _ h1 => h1.beginItem)).withBoot

theorem State.Keeps.beginPhase4Kept (h : z.Keeps s) {mean : ℤ} : z.Keeps (s.beginPhase4Kept mean) := h.setFld.withBoot

theorem execPhase2Done_keeps (h : z.Keeps s) {ok : Bool} {mean : ℤ} : NextKeeps z (execPhase2Done ok mean s) := by
  unfold execPhase2Done
  exact .ite h.next (.ite h.bootFail.next (.ite h.congr.phaseEnds.beginPhase4Kept.next
      (h.congr.phaseEnds.wr.beginItem.when (·.beginPhase4)).next))

theorem State.Keeps.startMirror (h : z.Keeps s) : z.Keeps s.startMirror := by
  unfold State.startMirror
  exact .ite h.setFld.setMirror (.ite h.setFld.setMirror.setSt h.setFld.setMirror)

theorem State.Keeps.fwLoaded (h : z.Keeps s) {golden : Bool} {mean : ℤ} : z.Keeps (s.fwLoaded golden mean) :=
  (h.withBoot.setSt.when (·.startMirror)).phaseEnds.beginPhase4

theorem execPhase3Done_keeps (h : z.Keeps s) {slot0Ok slot1Ok : Bool} {mean : ℤ} :
    NextKeeps z (execPhase3Done slot0Ok slot1Ok mean s) := by
  unfold execPhase3Done
  split
  · exact h.next
  · dsimp only
    split
    · exact h.bootFail.next
    · exact .ite h.fwLoaded.next (State.Keeps.next (.ite h.raise.fwLoaded h.raise.bootFail))

theorem State.Keeps.itemDone (h : z.Keeps s) {item : Nat} : z.Keeps (s.itemDone item) :=
  (h.withBoot.when (·.withBoot)).when (fun h => (h.phaseEnds.unless (·.setSt)).unless (·.degraded))

theorem State.Keeps.itemFails (h : z.Keeps s) {item : Nat} : z.Keeps (s.itemFails item) := by
  unfold State.itemFails
  exact .ite h.withBoot.bootFail (.ite h.withBoot.withBoot.degraded.setFld.itemDone (.ite
      (.ite h.congr.countFrames.setSt.degraded.raise.bootFail h.congr.countFrames.setSt.degraded.raise.itemDone)
          h.withBoot.withBoot.afeFault.itemDone))

theorem State.Keeps.itemEnds (h : z.Keeps s) {item : Nat} {ok : Bool} : z.Keeps (s.itemEnds item ok) := by
  unfold State.itemEnds
  exact .ite h (.ite h.itemDone (.ite (.withBoot (.ite h.raise h)) (h.withBoot.unless (·.itemFails))))

theorem execPcieSerdesDone_keeps (h : z.Keeps s) {ok : Bool} : NextKeeps z (execPcieSerdesDone ok s) := by
  unfold execPcieSerdesDone
  exact h.itemEnds.next

theorem execCalItemDone_keeps (h : z.Keeps s) {item : Fin 14} {ok : Bool} :
    NextKeeps z (execCalItemDone item ok s) := by
  unfold execCalItemDone
  exact h.itemEnds.next

theorem State.Keeps.lostCapacity (h : z.Keeps s) : z.Keeps s.lostCapacity := h.degraded.raise

theorem State.Keeps.remapAll (h : z.Keeps s) : z.Keeps s.remapAll := by
  unfold State.remapAll
  exact h.foldl (fun _ _ h1 => .ite h1 (h1.remap.when (·.lostCapacity)))

theorem State.Keeps.retireSlices (h : z.Keeps s) {slices : List (Fin 8 × Fin 12)} {sysc : List (Fin 64)} :
    z.Keeps (s.retireSlices slices sysc) :=
  (h.foldl (fun _ _ h1 => h1.setFld.lostCapacity)).foldl (fun _ _ h1 => h1.withBoot.lostCapacity)

theorem State.Keeps.clearMemories (h : z.Keeps s) : z.Keeps s.clearMemories := h.clearKeys.clearKeys.clearDieSram

theorem State.Keeps.remakeYard (h : z.Keeps s) : z.Keeps s.remakeYard :=
  (h.foldl (fun _ _ h1 => h1.updPool.countPool)).withYard.setFld

theorem execPhase5Done_keeps (h : z.Keeps s) {iodOk uncoreOk : Bool} {slots : List (Fin 8 × Fin 9)} {slices : List
    (Fin 8 × Fin 12)} {sysc : List (Fin 64)} : NextKeeps z (execPhase5Done iodOk uncoreOk slots slices sysc s) := by
  unfold execPhase5Done
  exact .ite h.next (.ite h.clearMemories.remakeYard.remapAll.phaseEnds.next (.ite h.phaseEnds.countCores.next
      (.ite h.bootFail.next (.ite h.bootFail.next ((h.foldl (fun _ _ h1 => h1.setFld)).retireSlices.remapAll.foldl (fun
          _ _ h1 => h1.dropCores)).phaseEnds.countCores.next))))

theorem State.Keeps.flrDone (h : z.Keeps s) : z.Keeps s.flrDone := h.setFld.raise

theorem State.Keeps.setsReady (h : z.Keeps s) : z.Keeps s.setsReady :=
  h.setReady.setFld.withBoot.sendMsi.congr.when (·.flrDone)

theorem execReadySet_keeps (h : z.Keeps s) : NextKeeps z (execReadySet s) := by
  unfold execReadySet
  exact .ite h.phaseEnds.setsReady.next h.next

theorem execPhaseTimeout_keeps (h : z.Keeps s) : NextKeeps z (execPhaseTimeout s) := by
  unfold execPhaseTimeout
  exact .ite h.next (.ite h.raise.bootFail.next h.raise.raise.beginReset.withBoot.next)

theorem execRecoveryImageReceived_keeps (h : z.Keeps s) {signed : Bool} :
    NextKeeps z (execRecoveryImageReceived signed s) := by
  unfold execRecoveryImageReceived
  exact .ite h.withBoot.raise.beginReset.withBoot.next h.next

theorem execCalRecordsSaved_keeps (h : z.Keeps s) : NextKeeps z (execCalRecordsSaved s) := by
  unfold execCalRecordsSaved
  exact .ite h.next h.withBoot.next

theorem execPerstAssert_keeps (h : z.Keeps s) : NextKeeps z (execPerstAssert s) := by
  unfold execPerstAssert
  exact .ite h.next (.ite h.withBoot.resetEndpoint.wakeP4.next (.ite h.withBoot.request.next
      (.ite h.withBoot.resetEndpoint.raise.next h.withBoot.next)))

theorem execPerstRelease_keeps (h : z.Keeps s) : NextKeeps z (execPerstRelease s) := by
  unfold execPerstRelease
  exact h.withBoot.next

theorem execPcieLinkUp_keeps (h : z.Keeps s) {link : LinkCfg} : NextKeeps z (execPcieLinkUp link s) := by
  unfold execPcieLinkUp
  exact .ite h.next (h.setFld.when (·.congr)).next

theorem execMsixVectorUnmasked_keeps (h : z.Keeps s) {fn : Fin 16} {vec : Fin 1088} :
    NextKeeps z (execMsixVectorUnmasked fn vec s) := by
  unfold execMsixVectorUnmasked
  exact .ite h.next (h.congr.when (·.sendMsi)).next

theorem State.Keeps.rstCmd (h : z.Keeps s) {kind : Nat} : z.Keeps (s.rstCmd kind) := by
  unfold State.rstCmd
  exact .ite h.request (.ite h.request (.ite h.request (.ite h.request h)))

theorem execPfFlr_keeps (h : z.Keeps s) : NextKeeps z (execPfFlr s) := by
  unfold execPfFlr
  exact .ite (h.request.when (·.setFld)).next h.resetEndpoint.flrDone.next

theorem State.Keeps.setBtn (h : z.Keeps s) {n : Nat} : z.Keeps (s.setBtn n) := h.setFld

theorem State.Keeps.setLevel (h : z.Keeps s) {b : Bool} : z.Keeps (s.setLevel b) := h.setFld

theorem execRstBtnPress_keeps (h : z.Keeps s) : NextKeeps z (execRstBtnPress s) := by
  unfold execRstBtnPress
  exact .ite h.next (.ite h.setLevel.next (.ite h.setLevel.setBtn.withBoot.next
      (.ite h.setLevel.withBoot.next h.setLevel.next)))

theorem State.Keeps.stuck (h : z.Keeps s) : z.Keeps s.stuck := h.setBtn.setSt.raise

theorem execRstBtnRelease_keeps (h : z.Keeps s) : NextKeeps z (execRstBtnRelease s) := by
  unfold execRstBtnRelease
  exact .ite h.next (.ite h.setLevel.withBoot.next (.ite h.setLevel.next (.ite h.setLevel.stuck.withBoot.next
      (.ite h.setLevel.setBtn.request.next (.ite h.setLevel.setBtn.request.next h.setLevel.setBtn.raise.next)))))

theorem execButtonStuck_keeps (h : z.Keeps s) : NextKeeps z (execButtonStuck s) := by
  unfold execButtonStuck
  exact .ite h.stuck.next h.next

theorem execBtnUnmask_keeps (h : z.Keeps s) : NextKeeps z (execBtnUnmask s) := by
  unfold execBtnUnmask
  split
  · exact .ite h.setBtn.setSt.withBoot.next h.next
  · exact h.next

/-! ### The functions of `Machine/TidyRows` -/

theorem State.Keeps.tcLoaded (h : z.Keeps s) {c t r : Nat} {v : Word} : z.Keeps (s.tcLoaded c t r v) := h.updTidy.tcNext

theorem State.Keeps.semWrite (h : z.Keeps s) {c t sem : Nat} {val : Word} : z.Keeps (s.semWrite c t sem val) :=
  h.semAdd.tcNext

theorem State.Keeps.semWaitRead (h : z.Keeps s) {c t r : Nat} : z.Keeps (s.semWaitRead c t r) := by
  unfold State.semWaitRead
  exact .ite h.tcLoaded h.updTidy

theorem execSemWrite_keeps (h : z.Keeps s) {core : Fin 64} {tc : Fin 2} {sem : Fin 32} {val : Word} :
    NextKeeps z (execSemWrite core tc sem val s) := by
  unfold execSemWrite
  exact .ite h.semWrite.next h.next

theorem execSemWaitRead_keeps (h : z.Keeps s) {core : Fin 64} {tc : Fin 2} {rd : Fin 32} :
    NextKeeps z (execSemWaitRead core tc rd s) := by
  unfold execSemWaitRead
  exact .ite h.semWaitRead.next h.next

theorem execSemWaitRelease_keeps (h : z.Keeps s) {core : Fin 64} {tc : Fin 2} :
    NextKeeps z (execSemWaitRelease core tc s) := by
  unfold execSemWaitRelease
  split
  · exact .ite h.updTidy.semWaitRead.next h.next
  · exact h.next

theorem State.Keeps.barrierRead (h : z.Keeps s) {c t r : Nat} : z.Keeps (s.barrierRead c t r) := by
  unfold State.barrierRead
  split
  · exact .ite h.tcLoaded h.updTidy
  · exact h.congr.tcLoaded

theorem State.Keeps.barrierGo (h : z.Keeps s) {c : Nat} : z.Keeps (s.barrierGo c) := by
  unfold State.barrierGo
  dsimp only
  split
  · refine .barrierRead (.updTidy ?_)
    split
    · exact h.updTidy.barrierRead
    · exact h
  · split
    · exact h.updTidy.barrierRead
    · exact h

theorem State.Keeps.barrierArrive (h : z.Keeps s) {c t : Nat} : z.Keeps (s.barrierArrive c t) := by
  unfold State.barrierArrive
  split
  · exact h
  · exact .ite h.tcNext (.ite h.updCore.tcNext.updGang ((h.updCore.tcNext.updGang.foldl (fun _
      _ h1 => h1.updCore)).foldl (fun _ _ h1 => h1.barrierGo)))

theorem execBarrierArrive_keeps (h : z.Keeps s) {core : Fin 64} {tc : Fin 2} :
    NextKeeps z (execBarrierArrive core tc s) := by
  unfold execBarrierArrive
  exact .ite h.barrierArrive.next h.next

theorem execBarrierRead_keeps (h : z.Keeps s) {core : Fin 64} {tc : Fin 2} {rd : Fin 32} :
    NextKeeps z (execBarrierRead core tc rd s) := by
  unfold execBarrierRead
  exact .ite h.barrierRead.next h.next

theorem State.Keeps.liveWrite (h : z.Keeps s) {c t : Nat} {val : Word} : z.Keeps (s.liveWrite c t val) :=
  h.updCore.setFld.tcNext

theorem execLiveWrite_keeps (h : z.Keeps s) {core : Fin 64} {tc : Fin 2} {val : Word} :
    NextKeeps z (execLiveWrite core tc val s) := by
  unfold execLiveWrite
  exact .ite h.liveWrite.next h.next

theorem State.Keeps.nonfiniteClear (h : z.Keeps s) {c t : Nat} {val : Word} : z.Keeps (s.nonfiniteClear c t val) :=
  (h.foldl (fun _ _ h1 => .ite h1.updMe h1)).tcNext

theorem execNonfiniteClear_keeps (h : z.Keeps s) {core : Fin 64} {tc : Fin 2} {val : Word} :
    NextKeeps z (execNonfiniteClear core tc val s) := by
  unfold execNonfiniteClear
  exact .ite h.nonfiniteClear.next h.next

theorem State.Keeps.ctlLoad (h : z.Keeps s) {c t o r : Nat} : z.Keeps (s.ctlLoad c t o r) := by
  unfold State.ctlLoad
  exact .ite h.semWaitRead (.ite h.barrierRead h.tcLoaded)

theorem State.Keeps.ctlStore (h : z.Keeps s) {c t o : Nat} {val : Word} : z.Keeps (s.ctlStore c t o val) := by
  unfold State.ctlStore
  exact .ite h.liveWrite (.ite h.updTidy.tcNext (.ite h.updTidy.tcNext (.ite (.ite h.updMe.tcNext h.meLaunch)
      (.ite h.dmLaunch (.ite h.semWrite (.ite h.updTidy.tcNext (.ite h.barrierArrive (.ite h.nonfiniteClear
          (.ite h.wuLaunch (.ite h.rsLaunch (.ite h.collLaunch h.tcNext)))))))))))

theorem State.Keeps.tcLoad (h : z.Keeps s) {c t a n r : Nat} {fix : Nat → Word} : z.Keeps (s.tcLoad c t a n r fix) := by
  unfold State.tcLoad
  dsimp only
  split
  · exact h.tcError
  · exact h
  · exact h.ctlLoad
  · split
    · exact h.locTouch.corePoison
    · exact h.locTouch.tcLoaded
  · exact h.tcLoaded

theorem State.Keeps.tcStore (h : z.Keeps s) {c t a n : Nat} {val : Word} : z.Keeps (s.tcStore c t a n val) := by
  unfold State.tcStore
  split
  · exact h.tcError
  · exact h
  · exact h.ctlStore
  · exact h.locStore.tcNext
  · exact (h.foldl (fun _ _ h1 => h1.store)).tcPass
  · exact h

theorem State.Keeps.tcMemory (h : z.Keeps s) {c t w : Nat} : z.Keeps (s.tcMemory c t w) := by
  unfold State.tcMemory
  dsimp only
  split
  · exact h.tcLoad
  · exact h.tcStore
  · exact h.tcLoad
  · exact h.tcStore

theorem State.Keeps.vLoads (h : z.Keeps s) {c t : Nat} {p : VPlan} {k : Tidy} {l : List (Nat × Nat × Nat)} :
    z.Keeps (s.vLoads c t p k l).1 := by
  induction l generalizing s k with
  | nil => exact h
  | cons x r ih =>
    unfold State.vLoads
    dsimp only
    split
    · exact h
    · exact h
    · split
      · exact h.locTouch
      · exact ih h.locTouch
    · exact ih h

theorem State.Keeps.vStores (h : z.Keeps s) {c t : Nat} {p : VPlan} {k : Tidy} {l : List (Nat × Nat × Nat)} :
    z.Keeps (s.vStores c t p k l).1 := by
  induction l generalizing s with
  | nil => exact h
  | cons x r ih =>
    unfold State.vStores
    dsimp only
    split
    · exact h
    · exact h
    · exact ih h.locStore
    · exact ih h.store
    · exact h

theorem State.Keeps.vMemory (h : z.Keeps s) {c t : Nat} {p : VPlan} : z.Keeps (s.vMemory c t p) := by
  unfold State.vMemory
  refine .ite ?_ ?_
  · split
    next u l stop e =>
    have hu : z.Keeps u := h.vLoads.fst_of_eq e
    have hdone : ∀ f, z.Keeps ((({ u with free := u.free + 1 } : State).updTidy c t f).tcPass c t 4) :=
      fun _ => hu.congr.tcPass
    split
    · exact hdone _
    · exact .ite (hdone _) hu.tcError
    · exact h
    · exact hu.corePoison
  · split
    next u stop e =>
    have hu : z.Keeps u := h.vStores.fst_of_eq e
    split
    · exact hu.updTidy.tcPass
    · exact hu.tcError
    · exact h
    · exact hu.corePoison

theorem execTcLoadStore_keeps (h : z.Keeps s) {core : Fin 64} {tc : Fin 2} {ce : Option (Fin 24)} :
    NextKeeps z (execTcLoadStore core tc ce s) := by
  unfold execTcLoadStore
  split
  · dsimp only
    split
    · split
      · exact State.Keeps.next (.vMemory (.ite h.bayCorrected h))
      · exact h.next
    · exact State.Keeps.next (.tcMemory (.ite h.bayCorrected h))
  · exact h.next

theorem execTcEcall_keeps (h : z.Keeps s) {core : Fin 64} {tc : Fin 2} : NextKeeps z (execTcEcall core tc s) := by
  unfold execTcEcall
  split
  · exact .ite h.updTidy.next h.tcError.next
  · exact h.next

theorem execTcEbreak_keeps (h : z.Keeps s) {core : Fin 64} {tc : Fin 2} : NextKeeps z (execTcEbreak core tc s) := by
  unfold execTcEbreak
  split
  · exact .ite h.updTidy.next h.tcError.next
  · exact h.next

theorem execTcIllegalInstruction_keeps (h : z.Keeps s) {core : Fin 64} {tc : Fin 2} :
    NextKeeps z (execTcIllegalInstruction core tc s) := by
  unfold execTcIllegalInstruction
  split
  · exact h.next
  · split
    · exact h.tcError.next
    · exact .ite h.tcError.next h.next

theorem State.Keeps.tcStep (h : z.Keeps s) {c t : Nat} : z.Keeps (s.tcStep c t) := by
  unfold State.tcStep
  split
  · split
    · exact h.congr.updTidy
    · exact h
  · exact h

theorem State.Keeps.tidyTick (h : z.Keeps s) : z.Keeps s.tidyTick := h.foldl (fun _ _ h1 => .ite h1.tcStep.tcStep h1)

theorem State.Keeps.debugCtl (h : z.Keeps s) {c : Nat} {val : Word} : z.Keeps (s.debugCtl c val) := by
  unfold State.debugCtl
  refine .foldl h (fun _ _ h1 => ?_)
  split
  · split
    · exact h1.updTidy
    · exact h1.updTidy
    · exact h1.updTidy
    · exact h1
  · exact h1

theorem State.Keeps.sramOwn (h : z.Keeps s) {c slice : Nat} {val : Byte} : z.Keeps (s.sramOwn c slice val) := by
  unfold State.sramOwn
  exact .ite h.congr (.ite h h.congr)

theorem execSliceCleared_keeps (h : z.Keeps s) {cluster : Fin 8} {slice : Fin 12} :
    NextKeeps z (execSliceCleared cluster slice s) := by
  unfold execSliceCleared
  split
  · exact h.next
  · exact h.congr.clearKeys.setFld.raise.next

/-! ### The functions of `Machine/RegWords` -/

theorem State.Keeps.wordEvent (h : z.Keeps s) {snd : Sender} {code a : Nat} : z.Keeps (s.wordEvent snd code a) :=
  h.accessEvent

theorem State.Keeps.storeRw (h : z.Keeps s) {a : Nat} {v : Word} : z.Keeps (s.storeRw a v) := h.wr

theorem State.Keeps.installPage (h : z.Keeps s) {p : PageId} : z.Keeps (s.installPage p) :=
  h.installShadow.when (·.evalWanted)

theorem State.Keeps.discard (h : z.Keeps s) {p : PageId} : z.Keeps (s.discard p) := h.foldl (fun _ _ h1 => h1.wr)

theorem State.Keeps.commit (h : z.Keeps s) {snd : Sender} {p : PageId} : z.Keeps (s.commit snd p) := by
  unfold State.commit
  exact .ite h.installConsist (.unless (.setPage (.ite h.wordEvent h)) (·.installPage))

theorem State.Keeps.commitWrite (h : z.Keeps s) {snd : Sender} {p : PageId} {v : Word} :
    z.Keeps (s.commitWrite snd p v) := by
  unfold State.commitWrite
  exact .ite h (.when (.ite h.discard h) (·.commit))

theorem State.Keeps.enableWork (h : z.Keeps s) {p : PageId} : z.Keeps (s.enableWork p) := by
  unfold State.enableWork
  split
  · exact .ite h.setFld h
  · exact h.encStartAll
  · exact h.setPort
  · exact h

theorem State.Keeps.enSet (h : z.Keeps s) {p : PageId} : z.Keeps (s.enSet p) := h.setPage.when (·.enableWork)

theorem State.Keeps.enClear (h : z.Keeps s) {p : PageId} : z.Keeps (s.enClear p) := by
  unfold State.enClear
  exact .ite h.setPage h

theorem State.Keeps.drain (h : z.Keeps s) {p : PageId} : z.Keeps (s.drain p) := by
  unfold State.drain
  exact .ite h.setPage h

theorem State.Keeps.abortBlock (h : z.Keeps s) {p : PageId} : z.Keeps (s.abortBlock p) := h.cancelBlock.setPage

theorem State.Keeps.startReset (h : z.Keeps s) {p : PageId} : z.Keeps (s.startReset p) := by
  unfold State.startReset
  exact .when (.setPage (.ite h.abortCtx (.ite h h.cancelBlock))) (·.staleFences)

theorem State.Keeps.ctlWrite (h : z.Keeps s) {snd : Sender} {p : PageId} {v : Word} : z.Keeps (s.ctlWrite snd p v) := by
  unfold State.ctlWrite
  exact .ite (.startReset (.ite (.ite h h.wordEvent) h.setPage)) (.when (.ite (.enClear (.when (.ite
      (.ite h h.wordEvent) h.setPage) (·.abortBlock))) (.unless (.when (.ite (.ite h h.wordEvent) h.setPage)
          (·.abortBlock)) (·.enSet))) (·.drain))

theorem State.Keeps.ownerWrite (h : z.Keeps s) {snd : Sender} {p : PageId} {v : Word} :
    z.Keeps (s.ownerWrite snd p v) := by
  unfold State.ownerWrite
  exact .ite h (.ite (.ite h h.wordEvent) h.setPage)

theorem State.Keeps.perturbWrite (h : z.Keeps s) {p : PageId} {seed : Bool} {v : Word} :
    z.Keeps (s.perturbWrite p seed v) := by
  unfold State.perturbWrite
  exact .ite h (.ite h.setPage h.setPage.countPerturbed)

theorem State.Keeps.headerWrite (h : z.Keeps s) {snd : Sender} {p : PageId} {o : Nat} {v : Word} :
    z.Keeps (s.headerWrite snd p o v) := by
  unfold State.headerWrite
  dsimp only
  split
  · exact h.ctlWrite
  · exact h.setPageEv
  · exact h.setPageEv
  · exact h.setPageEv
  · exact h.ownerWrite
  · exact h.perturbWrite
  · exact h.perturbWrite
  · exact h.commitWrite
  · exact h

theorem State.Keeps.ignores (h : z.Keeps s) {snd : Sender} {p : PageId} {o : Nat} {t : State}
    (e : s.ignores snd p o = some t) : z.Keeps t := by
  unfold State.ignores at e
  dsimp only at e
  split at e
  · exact Option.some.inj e ▸ h.wordEvent
  · split at e
    · split at e
      · exact Option.some.inj e ▸ h.raise
      · cases e
    · split at e
      · exact Option.some.inj e ▸ h
      · cases e
    · split at e
      · exact Option.some.inj e ▸ h
      · cases e
    · split at e
      · exact Option.some.inj e ▸ h
      · split at e
        · exact Option.some.inj e ▸ h
        · cases e
    · split at e
      · exact Option.some.inj e ▸ h.raise
      · cases e
    · split at e
      · exact Option.some.inj e ▸ h
      · cases e
    · cases e

theorem State.Keeps.mgmtWord (h : z.Keeps s) {snd : Sender} {b : Blk} {o : Nat} {v : Word} :
    z.Keeps (s.mgmtWord snd b o v) := by
  unfold State.mgmtWord
  dsimp only
  split
  · exact .ite h.rstCmd h
  · exact h.writeUnlock
  · exact h.storeRw.when (·.syncFree)
  · exact h.snapTake
  · exact .ite h.storeRw.setMirror (h.storeRw.when (·.setMirror))
  · exact h.mread
  · exact h.writePwrCfg
  · exact h.storeRw.when (·.wakeP4)
  · exact h.storeRw
  · exact h.storeRw
  · exact h.storeRw.when (·.setBtn)
  · exact h.writeInj
  · exact h.storeRw

theorem State.Keeps.assignCtx (h : z.Keeps s) {n fn : Nat} : z.Keeps (s.assignCtx n fn) := by
  unfold State.assignCtx
  exact .ite h h.setFld

theorem State.Keeps.ctxFuncWord (h : z.Keeps s) {w : Nat} {v : Word} : z.Keeps (s.ctxFuncWord w v) :=
  h.foldl (fun _ _ h1 => h1.assignCtx)

theorem State.Keeps.hostWord (h : z.Keeps s) {o : Nat} {v : Word} : z.Keeps (s.hostWord o v) := by
  unfold State.hostWord
  exact .ite h.storeRw (.ite h.ctxFuncWord h.storeRw)

theorem State.Keeps.sboxWord (h : z.Keeps s) {o : Nat} {v : Word} : z.Keeps (s.sboxWord o v) := by
  unfold State.sboxWord
  exact .ite h.storeRw (.ite h.storeRw (.ite h.storeRw.evalWanted (h.storeRw.when (·.setFld.setCtx))))

theorem State.Keeps.ctxWord (h : z.Keeps s) {n o : Nat} {v : Word} : z.Keeps (s.ctxWord n o v) := by
  unfold State.ctxWord
  exact .ite h.ctxCmd (h.storeRw.when (·.setCtx))

theorem State.Keeps.yardWord (h : z.Keeps s) {b : Blk} {o : Nat} {v : Word} : z.Keeps (s.yardWord b o v) := by
  unfold State.yardWord
  dsimp only
  split
  · exact .ite h.poolCmd h
  · exact h.storeRw
  · exact h.pfxFlush
  · exact h.storeRw.countSwap
  · exact h.storeRw

theorem State.Keeps.csiWord (h : z.Keeps s) {n o : Nat} {v : Word} : z.Keeps (s.csiWord n o v) := by
  unfold State.csiWord
  dsimp only
  split
  · exact .ite h h.congr
  · split
    · split
      · exact h.cciStart
      · exact h.cciStart
      · exact h.cciStart
      · exact h
    · exact h.storeRw.when (·.when (·.camDet))

theorem State.Keeps.shadeWrite (h : z.Keeps s) {v : Word} : z.Keeps (s.shadeWrite v) := by
  unfold State.shadeWrite
  exact .addFld (.ite h.withScan h)

theorem State.Keeps.scanWord (h : z.Keeps s) {b : Blk} {o : Nat} {v : Word} : z.Keeps (s.scanWord b o v) := by
  unfold State.scanWord
  dsimp only
  split
  · exact h.scanFaultClr
  · exact h.calStart
  · exact h.shadeWrite
  · exact h.storeRw
  · exact h.storeRw

theorem State.Keeps.clusterWord (h : z.Keeps s) {n o : Nat} {v : Word} : z.Keeps (s.clusterWord n o v) := by
  unfold State.clusterWord
  exact .ite (h.foldl (fun _ _ h1 => h1.sramOwn)) h.storeRw

theorem State.Keeps.blockWord (h : z.Keeps s) {snd : Sender} {p : PageId} {o : Nat} {v : Word} :
    z.Keeps (s.blockWord snd p o v) := by
  unfold State.blockWord
  split
  · exact h.mgmtWord
  · exact h.mgmtWord
  · exact h.mgmtWord
  · exact h.mgmtWord
  · exact h.mgmtWord
  · exact h.mgmtWord
  · exact h.mgmtWord
  · exact h.mgmtWord
  · exact h.mgmtWord
  · exact h.hostWord
  · exact h.sboxWord
  · exact h.ctxWord
  · exact h.yardWord
  · exact h.yardWord
  · exact h.yardWord
  · exact h.csiWord
  · exact h.scanWord
  · exact h.scanWord
  · exact h.scanWord
  · exact h.clusterWord
  · exact .ite h.debugCtl h.storeRw
  · exact h.storeRw

theorem State.Keeps.pairWrite (h : z.Keeps s) {snd : Sender} {p : PageId} {o : Nat} {lo hi : Word} :
    z.Keeps (s.pairWrite snd p o lo hi) := by
  unfold State.pairWrite
  split
  next t e => exact (h.ignores e)
  · exact .ite h.setGts h.blockWord.blockWord

theorem State.Keeps.latchLow (h : z.Keeps s) {snd : Sender} {p : PageId} {v : Word} : z.Keeps (s.latchLow snd p v) :=
  h.setPage

theorem State.Keeps.wordEffect (h : z.Keeps s) {snd : Sender} {p : PageId} {o : Nat} {low : Option Word} {v : Word} :
    z.Keeps (s.wordEffect snd p o low v) := by
  unfold State.wordEffect
  split
  · exact h.headerWrite
  · split
    · split
      next t e => exact (h.ignores e)
      · exact h.latchLow
    · split
      · exact h.pairWrite
      · split
        next t e => exact (h.ignores e)
        · exact h.blockWord

/-! ### The functions of `Machine/RegOps` -/

theorem State.Keeps.hold (h : z.Keeps s) {slot : Nat} {w : PostedWrite} : z.Keeps (s.hold slot w) := h.setPage

theorem State.Keeps.applyWrite (h : z.Keeps s) {slot : Nat} {w : PostedWrite} : z.Keeps (s.applyWrite slot w) := by
  unfold State.applyWrite
  split
  · exact h.wordEffect
  · exact h

theorem State.Keeps.takeWrite (h : z.Keeps s) {slot : Nat} : z.Keeps (s.takeWrite slot) := by
  unfold State.takeWrite
  split
  · exact h
  · exact h.setPage.applyWrite

theorem State.Keeps.flushPage (h : z.Keeps s) {slot : Nat} : z.Keeps (s.flushPage slot) :=
  h.foldl (fun _ _ h1 => h1.takeWrite)

theorem State.Keeps.ordered (h : z.Keeps s) {a : Nat} {w : PostedWrite} : z.Keeps (s.ordered a w) := by
  unfold State.ordered
  exact .ite h.flushPage.hold h.flushPage.applyWrite

theorem State.Keeps.hostWrite (h : z.Keeps s) {snd : Sender} {off : Nat} {low : Option Word} {v : Word} :
    z.Keeps (s.hostWrite snd off low v) := by
  unfold State.hostWrite
  dsimp only
  split
  · exact h.refuse
  · exact h.ordered
  · exact h

theorem State.Keeps.ownWrite (h : z.Keeps s) {snd : Sender} {off : Nat} {v : Word} {low : Option Word} :
    z.Keeps (s.ownWrite snd off v low) := by
  unfold State.ownWrite
  exact .ite h.hostWrite h

theorem State.Keeps.pfWrite (h : z.Keeps s) {off : Nat} {v : Word} : z.Keeps (s.pfWrite off v) := h.hostWrite

theorem execRegisterWrite_keeps (h : z.Keeps s) {snd : Sender} {off : Fin 33554432} {val : Word} :
    NextKeeps z (execRegisterWrite snd off val s) := by
  unfold execRegisterWrite
  split
  · exact h.refuse.next
  · exact State.Keeps.next (.ite h.hold h.setPage)
  · exact h.next

theorem execWriteTakesEffect_keeps (h : z.Keeps s) {slot : Fin 8192} : NextKeeps z (execWriteTakesEffect slot s) := by
  unfold execWriteTakesEffect
  exact h.takeWrite.next

theorem State.Keeps.flushContexts (h : z.Keeps s) {fn : Nat} : z.Keeps (s.flushContexts fn) :=
  h.foldl (fun _ _ h1 => h1.flushPage)

theorem State.Keeps.announce (h : z.Keeps s) {n q : Nat} {val : Word} : z.Keeps (s.announce n q val) := by
  unfold State.announce
  exact .ite h (.ite h.raise h.setCtx)

theorem State.Keeps.spaceReturned (h : z.Keeps s) {n : Nat} : z.Keeps (s.spaceReturned n) :=
  (h.encStartAll.when (·.scanRecords)).foldl (fun _ _ h1 => h1.smpRelease)

theorem State.Keeps.consumed (h : z.Keeps s) {n : Nat} {val : Word} : z.Keeps (s.consumed n val) :=
  h.wr.drainHeld.spaceReturned

theorem State.Keeps.ring (h : z.Keeps s) {b : Bell} : z.Keeps (s.ring b) := by
  unfold State.ring
  exact .ite h.consumed (.ite h.announce h)

theorem State.Keeps.ringInOrder (h : z.Keeps s) {b : Bell} : z.Keeps (s.ringInOrder b) := by
  unfold State.ringInOrder
  exact .ite h.congr h.ring

theorem State.Keeps.ringWaiting (h : z.Keeps s) : z.Keeps s.ringWaiting := h.congr.foldl (fun _ _ h1 => h1.ringInOrder)

theorem State.Keeps.doorbell (h : z.Keeps s) {b : Bell} : z.Keeps (s.doorbell b) := by
  unfold State.doorbell
  split
  · exact h
  · split
    · exact h
    · exact .ite h.flushContexts.ringInOrder h.accessEvent

theorem State.Keeps.readHere (h : z.Keeps s) {snd : Sender} {slot : Nat} {p : PageId} {o : Nat} {wide : Bool} :
    z.Keeps (s.readHere snd slot p o wide) := by
  unfold State.readHere
  exact .ite h.answer (.ite h.answer.setPage (.ite h.answer (.ite h.answer.addFld h.answer)))

theorem State.Keeps.hostRead (h : z.Keeps s) {snd : Sender} {off : Nat} {wide : Bool} :
    z.Keeps (s.hostRead snd off wide) := by
  unfold State.hostRead
  dsimp only
  split
  · exact h.refuse
  · exact h.answer
  · exact h.answer
  · exact h
  · split
    · exact h
    · exact .ite h.setPage h.flushPage.readHere

theorem execRefusedAccess_keeps (h : z.Keeps s) {snd : Sender} {off : BarOff} {width : Nat} {write : Bool} :
    NextKeeps z (execRefusedAccess snd off width write s) := by
  unfold execRefusedAccess
  split
  · exact State.Keeps.next (.ite h.answer (.ite h h.accessEvent))
  · split
    · exact h.refuse.next
    · exact h.next

theorem execPairLowRead_keeps (h : z.Keeps s) {snd : Sender} {off : Fin 33554432} {wide : Bool} :
    NextKeeps z (execPairLowRead snd off wide s) := by
  unfold execPairLowRead
  exact h.hostRead.next

theorem execPairLowWrite_keeps (h : z.Keeps s) {snd : Sender} {off : Fin 33554432} {val : Word} :
    NextKeeps z (execPairLowWrite snd off val s) := by
  unfold execPairLowWrite
  exact State.Keeps.next (.ite h.hostWrite h)

theorem execPairHighWrite_keeps (h : z.Keeps s) {snd : Sender} {off : Fin 33554432} {low : Option Word} {val : Word} :
    NextKeeps z (execPairHighWrite snd off low val s) := by
  unfold execPairHighWrite
  exact State.Keeps.next (.ite h.hostWrite h)

theorem execPgGtsLoRead_keeps (h : z.Keeps s) {snd : Sender} {slot : Fin 8192} :
    NextKeeps z (execPgGtsLoRead snd slot s) := by
  unfold execPgGtsLoRead
  exact h.hostRead.next

theorem State.Keeps.ctlRow (h : z.Keeps s) {snd : Sender} {slot act : Nat} {en fz : Option Bool} :
    z.Keeps (s.ctlRow snd slot act en fz) := by
  unfold State.ctlRow
  split
  · exact h.hostWrite
  · exact h.hostWrite

theorem execPgCtlEnSet_keeps (h : z.Keeps s) {snd : Sender} {slot : Fin 8192} :
    NextKeeps z (execPgCtlEnSet snd slot s) := by
  unfold execPgCtlEnSet
  exact h.ctlRow.next

theorem execPgCtlEnClear_keeps (h : z.Keeps s) {snd : Sender} {slot : Fin 8192} :
    NextKeeps z (execPgCtlEnClear snd slot s) := by
  unfold execPgCtlEnClear
  exact h.ctlRow.next

theorem execPgCtlDrain_keeps (h : z.Keeps s) {snd : Sender} {slot : Fin 8192} :
    NextKeeps z (execPgCtlDrain snd slot s) := by
  unfold execPgCtlDrain
  exact h.ctlRow.next

theorem execPgCtlAbort_keeps (h : z.Keeps s) {snd : Sender} {slot : Fin 8192} :
    NextKeeps z (execPgCtlAbort snd slot s) := by
  unfold execPgCtlAbort
  exact h.ctlRow.next

theorem execPgCtlFreeze_keeps (h : z.Keeps s) {snd : Sender} {slot : Fin 8192} {on : Bool} :
    NextKeeps z (execPgCtlFreeze snd slot on s) := by
  unfold execPgCtlFreeze
  exact h.ctlRow.next

theorem execPgCtlSrst_keeps (h : z.Keeps s) {snd : Sender} {slot : Fin 8192} :
    NextKeeps z (execPgCtlSrst snd slot s) := by
  unfold execPgCtlSrst
  exact h.ctlRow.next

theorem execBlockQuiesced_keeps (h : z.Keeps s) {slot : Fin 8192} : NextKeeps z (execBlockQuiesced slot s) := by
  unfold execBlockQuiesced
  split
  · exact h.next
  · exact .ite h.next (h.cancelBlock.setPage.when (·.enableWork)).next

theorem execDrainDone_keeps (h : z.Keeps s) {slot : Fin 8192} : NextKeeps z (execDrainDone slot s) := by
  unfold execDrainDone
  split
  · exact h.next
  · exact .ite h.next (h.setPage.when (·.disablePort)).next

theorem State.Keeps.resetRegs (h : z.Keeps s) {p : PageId} : z.Keeps (s.resetRegs p) := h.congr

theorem State.Keeps.afterReset (h : z.Keeps s) {p : PageId} : z.Keeps (s.afterReset p) := by
  unfold State.afterReset
  split
  · exact h.evalWanted
  · exact h.countSwap
  · exact h.syncFree
  · exact h.withEvr
  · exact h.withScan
  · exact h.withScan
  · exact h.setPort
  · exact h.recomputeRoutes
  · exact h.congr
  · exact h

theorem execBlockResetDone_keeps (h : z.Keeps s) {slot : Fin 8192} : NextKeeps z (execBlockResetDone slot s) := by
  unfold execBlockResetDone
  split
  · exact h.next
  · exact .ite h.next ((h.resetRegs.setPage.afterReset.foldl (fun _ _ h1 => h1.hostRead)).when (·.unless
      (·.flushPage.ringWaiting))).next

theorem execPgEvRawClear_keeps (h : z.Keeps s) {snd : Sender} {slot : Fin 8192} {mask hw : Word} :
    NextKeeps z (execPgEvRawClear snd slot mask hw s) := by
  unfold execPgEvRawClear
  exact h.hostWrite.next

theorem execPgEvForceWrite_keeps (h : z.Keeps s) {snd : Sender} {slot : Fin 8192} {val : Word} :
    NextKeeps z (execPgEvForceWrite snd slot val s) := by
  unfold execPgEvForceWrite
  exact h.hostWrite.next

theorem execPgCommitCommit_keeps (h : z.Keeps s) {snd : Sender} {slot : Fin 8192} {both : Bool} :
    NextKeeps z (execPgCommitCommit snd slot both s) := by
  unfold execPgCommitCommit
  exact h.hostWrite.next

theorem execPgCommitDiscard_keeps (h : z.Keeps s) {snd : Sender} {slot : Fin 8192} :
    NextKeeps z (execPgCommitDiscard snd slot s) := by
  unfold execPgCommitDiscard
  exact h.hostWrite.next

theorem execShadowInstall_keeps (h : z.Keeps s) {slot : Fin 8192} : NextKeeps z (execShadowInstall slot s) := by
  unfold execShadowInstall
  split
  · exact .ite h.next h.installPage.next
  · exact h.next

theorem execPgOwnerWrite_keeps (h : z.Keeps s) {snd : Sender} {slot : Fin 8192} {val : Word} :
    NextKeeps z (execPgOwnerWrite snd slot val s) := by
  unfold execPgOwnerWrite
  exact h.hostWrite.next

theorem execCtxFuncWrite_keeps (h : z.Keeps s) {snd : Sender} {word : Fin 64} {val : Word} :
    NextKeeps z (execCtxFuncWrite snd word val s) := by
  unfold execCtxFuncWrite
  split
  · exact .ite h.hostWrite.next h.next
  · exact h.next

theorem State.Keeps.bar4Refuse (h : z.Keeps s) {fn off len : Nat} {code : Option Nat} :
    z.Keeps (s.bar4Refuse fn off len code) := by
  unfold State.bar4Refuse
  dsimp only
  split
  · exact h.congr.accessEvent
  · exact h.congr

theorem execBar4Access_keeps (h : z.Keeps s) {fn : Fin 16} {off : Fin 137438953472} {len : Nat} {data : Option
    (List Byte)} : NextKeeps z (execBar4Access fn off len data s) := by
  unfold execBar4Access
  dsimp only
  split
  · exact h.next
  · split
    · exact h.bar4Refuse.next
    · split
      · exact h.bar4Refuse.next
      · split
        · exact h.store.next
        · exact h.touch.congr.next

/-! ### The functions of `Machine/Doorbells` -/

theorem execSqTailWrite_keeps (h : z.Keeps s) {fn : Fin 16} {ctx : Fin 256} {sq : Fin 4} {val : Word} :
    NextKeeps z (execSqTailWrite fn ctx sq val s) := by
  unfold execSqTailWrite
  exact h.doorbell.next

theorem execCqHeadWrite_keeps (h : z.Keeps s) {fn : Fin 16} {ctx : Fin 256} {val : Word} :
    NextKeeps z (execCqHeadWrite fn ctx val s) := by
  unfold execCqHeadWrite
  exact h.doorbell.next

/-! ### The functions of `Machine/OwnRows` -/

theorem execRstCmdWarm_keeps (h : z.Keeps s) {snd : Sender} : NextKeeps z (execRstCmdWarm snd s) := by
  unfold execRstCmdWarm
  exact h.ownWrite.next

theorem execRstCmdSoft_keeps (h : z.Keeps s) {snd : Sender} : NextKeeps z (execRstCmdSoft snd s) := by
  unfold execRstCmdSoft
  exact h.ownWrite.next

theorem execRstCmdRecovery_keeps (h : z.Keeps s) {snd : Sender} : NextKeeps z (execRstCmdRecovery snd s) := by
  unfold execRstCmdRecovery
  exact h.ownWrite.next

theorem execRstCmdPackage_keeps (h : z.Keeps s) {snd : Sender} : NextKeeps z (execRstCmdPackage snd s) := by
  unfold execRstCmdPackage
  exact h.ownWrite.next

theorem execTestUnlockOpen_keeps (h : z.Keeps s) {snd : Sender} : NextKeeps z (execTestUnlockOpen snd s) := by
  unfold execTestUnlockOpen
  exact h.ownWrite.next

theorem execTestUnlockConfirm_keeps (h : z.Keeps s) {snd : Sender} : NextKeeps z (execTestUnlockConfirm snd s) := by
  unfold execTestUnlockConfirm
  exact h.ownWrite.next

theorem execTestLock_keeps (h : z.Keeps s) {snd : Sender} : NextKeeps z (execTestLock snd s) := by
  unfold execTestLock
  exact h.ownWrite.next

theorem State.Keeps.injWrite (h : z.Keeps s) {snd : Sender} {k : Nat} {val : Word} :
    z.Keeps (s.injWrite snd k val) := by
  unfold State.injWrite
  exact .ite h.ownWrite h

theorem execInjResidue_keeps (h : z.Keeps s) {snd : Sender} {val : Word} : NextKeeps z (execInjResidue snd val s) := by
  unfold execInjResidue
  exact h.injWrite.next

theorem execInjEccCe_keeps (h : z.Keeps s) {snd : Sender} {val : Word} : NextKeeps z (execInjEccCe snd val s) := by
  unfold execInjEccCe
  exact h.injWrite.next

theorem execInjEccUe_keeps (h : z.Keeps s) {snd : Sender} {val : Word} : NextKeeps z (execInjEccUe snd val s) := by
  unfold execInjEccUe
  exact h.injWrite.next

theorem execInjCplLane_keeps (h : z.Keeps s) {snd : Sender} {val : Word} : NextKeeps z (execInjCplLane snd val s) := by
  unfold execInjCplLane
  exact h.injWrite.next

theorem execInjKlCrc_keeps (h : z.Keeps s) {snd : Sender} {val : Word} : NextKeeps z (execInjKlCrc snd val s) := by
  unfold execInjKlCrc
  exact h.injWrite.next

theorem execGtsSet_keeps (h : z.Keeps s) {snd : Sender} {low : Option Word} {hi : Word} :
    NextKeeps z (execGtsSet snd low hi s) := by
  unfold execGtsSet
  exact h.ownWrite.next

theorem execEvrSnapTake_keeps (h : z.Keeps s) {snd : Sender} {val : Word} :
    NextKeeps z (execEvrSnapTake snd val s) := by
  unfold execEvrSnapTake
  exact h.ownWrite.next

theorem execMread_keeps (h : z.Keeps s) {snd : Sender} {val : Word} : NextKeeps z (execMread snd val s) := by
  unfold execMread
  exact h.ownWrite.next

theorem execMaxStateWrite_keeps (h : z.Keeps s) {snd : Sender} {val : Word} :
    NextKeeps z (execMaxStateWrite snd val s) := by
  unfold execMaxStateWrite
  exact h.ownWrite.next

theorem execP4WakeI3c_keeps (h : z.Keeps s) {val : Word} : NextKeeps z (execP4WakeI3c val s) := by
  unfold execP4WakeI3c
  exact h.ownWrite.next

theorem execCtxCmdOpen_keeps (h : z.Keeps s) {ctx : Fin 256} : NextKeeps z (execCtxCmdOpen ctx s) := by
  unfold execCtxCmdOpen
  exact h.pfWrite.next

theorem execCtxCmdClose_keeps (h : z.Keeps s) {ctx : Fin 256} : NextKeeps z (execCtxCmdClose ctx s) := by
  unfold execCtxCmdClose
  exact h.pfWrite.next

theorem execCtxCmdReset_keeps (h : z.Keeps s) {ctx : Fin 256} : NextKeeps z (execCtxCmdReset ctx s) := by
  unfold execCtxCmdReset
  exact h.pfWrite.next

theorem State.Keeps.poolWrite (h : z.Keeps s) {pool op : Nat} : z.Keeps (s.poolWrite pool op) := h.pfWrite

theorem execPoolAssign_keeps (h : z.Keeps s) {pool : Fin 64} : NextKeeps z (execPoolAssign pool s) := by
  unfold execPoolAssign
  exact h.poolWrite.next

theorem execPoolRelease_keeps (h : z.Keeps s) {pool : Fin 64} : NextKeeps z (execPoolRelease pool s) := by
  unfold execPoolRelease
  exact h.poolWrite.next

theorem execPoolCreate_keeps (h : z.Keeps s) {pool : Fin 64} : NextKeeps z (execPoolCreate pool s) := by
  unfold execPoolCreate
  exact h.poolWrite.next

theorem execPoolDestroy_keeps (h : z.Keeps s) {pool : Fin 64} : NextKeeps z (execPoolDestroy pool s) := by
  unfold execPoolDestroy
  exact h.poolWrite.next

theorem execPfxFlush_keeps (h : z.Keeps s) {val : Word} : NextKeeps z (execPfxFlush val s) := by
  unfold execPfxFlush
  exact h.pfWrite.next

theorem execConsistInstall_keeps (h : z.Keeps s) {val : Word} : NextKeeps z (execConsistInstall val s) := by
  unfold execConsistInstall
  exact h.pfWrite.next

theorem State.Keeps.debugWrite (h : z.Keeps s) {c t op : Nat} : z.Keeps (s.debugWrite c t op) := h.pfWrite

theorem execDbgHalt_keeps (h : z.Keeps s) {core : Fin 64} {tc : Fin 2} : NextKeeps z (execDbgHalt core tc s) := by
  unfold execDbgHalt
  exact h.debugWrite.next

theorem execDbgResume_keeps (h : z.Keeps s) {core : Fin 64} {tc : Fin 2} : NextKeeps z (execDbgResume core tc s) := by
  unfold execDbgResume
  exact h.debugWrite.next

theorem execDbgStep_keeps (h : z.Keeps s) {core : Fin 64} {tc : Fin 2} : NextKeeps z (execDbgStep core tc s) := by
  unfold execDbgStep
  exact h.debugWrite.next

theorem execSramOwnWrite_keeps (h : z.Keeps s) {cluster : Fin 8} {slice : Fin 12} {val : Byte} :
    NextKeeps z (execSramOwnWrite cluster slice val s) := by
  unfold execSramOwnWrite
  exact h.flushPage.pfWrite.next

theorem execCsiPhyCfgWrite_keeps (h : z.Keeps s) {port : Fin 8} {val : Word} :
    NextKeeps z (execCsiPhyCfgWrite port val s) := by
  unfold execCsiPhyCfgWrite
  exact h.pfWrite.next

theorem State.Keeps.cciWrite (h : z.Keeps s) {port op : Nat} {val : Word} : z.Keeps (s.cciWrite port op val) := by
  unfold State.cciWrite
  exact .ite h.pfWrite h

theorem execCciWrite_keeps (h : z.Keeps s) {port : Fin 8} {val : Word} : NextKeeps z (execCciWrite port val s) := by
  unfold execCciWrite
  exact h.cciWrite.next

theorem execCciRead_keeps (h : z.Keeps s) {port : Fin 8} {val : Word} : NextKeeps z (execCciRead port val s) := by
  unfold execCciRead
  exact h.cciWrite.next

theorem execCciSeq_keeps (h : z.Keeps s) {port : Fin 8} {val : Word} : NextKeeps z (execCciSeq port val s) := by
  unfold execCciSeq
  exact h.cciWrite.next

theorem execFaultClr_keeps (h : z.Keeps s) {val : Word} : NextKeeps z (execFaultClr val s) := by
  unfold execFaultClr
  exact h.pfWrite.next

theorem State.Keeps.calWrite (h : z.Keeps s) {op : Nat} {val : Word} : z.Keeps (s.calWrite op val) := by
  unfold State.calWrite
  exact .ite h.pfWrite h

theorem execAfeCalDark_keeps (h : z.Keeps s) {val : Word} : NextKeeps z (execAfeCalDark val s) := by
  unfold execAfeCalDark
  exact h.calWrite.next

theorem execAfeCalWhite_keeps (h : z.Keeps s) {val : Word} : NextKeeps z (execAfeCalWhite val s) := by
  unfold execAfeCalWhite
  exact h.calWrite.next

theorem execAfeCalOffset_keeps (h : z.Keeps s) {val : Word} : NextKeeps z (execAfeCalOffset val s) := by
  unfold execAfeCalOffset
  exact h.calWrite.next

/-! ### The functions of `Machine/Standby` -/

theorem execP4Entry_keeps (h : z.Keeps s) : NextKeeps z (execP4Entry s) := by
  unfold execP4Entry
  extract_lets v1 v2 v3 v4
  have hv : z.Keeps v4 := h.setPst.setTransit.withPwr.addSat.raise.setReady.resetEndpoint
  exact .ite (hv.congr : State.Keeps z { v4.withBoot _ with sync := _ }).next h.next

theorem execP4ExitDone_keeps (h : z.Keeps s) : NextKeeps z (execP4ExitDone s) := by
  unfold execP4ExitDone
  split
  · exact h.next
  · exact .ite h.next h.phaseEnds.setPst.setTransit.withPwr.raise.setsReady.countCores.next

/-! ### Every command, and every step -/

/-- Every command goes on and keeps its state: one lemma for each arm of `exec`. -/
theorem exec_keeps (h : z.Keeps s) (c : Instr) : NextKeeps z (exec c s) := by
  cases c
  exacts [
    execRegisterWrite_keeps h, execWriteTakesEffect_keeps h, execRefusedAccess_keeps h, execPairLowRead_keeps h,
    execPairLowWrite_keeps h, execPairHighWrite_keeps h, execPgGtsLoRead_keeps h, execPgCtlEnSet_keeps h,
    execPgCtlEnClear_keeps h, execPgCtlDrain_keeps h, execPgCtlAbort_keeps h, execPgCtlFreeze_keeps h,
        execPgCtlSrst_keeps h,
    execBlockQuiesced_keeps h, execDrainDone_keeps h, execBlockResetDone_keeps h, execPgEvRawClear_keeps h,
    execPgEvForceWrite_keeps h, execPgCommitCommit_keeps h, execPgCommitDiscard_keeps h, execShadowInstall_keeps h,
    execPgOwnerWrite_keeps h, execCtxFuncWrite_keeps h, execBar4Access_keeps h, execPgAonAssert_keeps h,
    execAonLeavesReset_keeps h, execPowerGoodAssert_keeps h, execPowerGoodDeassert_keeps h, execVaonLoss_keeps h,
    execRefclkLoss_keeps h, execRefclkReturn_keeps h, execGtsPllRelock_keeps h, execPhase2Done_keeps h,
    execPcieSerdesDone_keeps h, execPhase3Done_keeps h, execCalItemDone_keeps h, execPhase5Done_keeps h,
        execReadySet_keeps h,
    execPhaseTimeout_keeps h, execRecoveryImageReceived_keeps h, execCalRecordsSaved_keeps h, execPerstAssert_keeps h,
    execPerstRelease_keeps h, execPcieLinkUp_keeps h, execMsixVectorUnmasked_keeps h, execRstCmdWarm_keeps h,
    execRstCmdSoft_keeps h, execRstCmdRecovery_keeps h, execRstCmdPackage_keeps h, execRstBtnPress_keeps h,
    execRstBtnRelease_keeps h, execButtonStuck_keeps h, execBtnUnmask_keeps h, execCtxCmdOpen_keeps h,
    execCtxCmdClose_keeps h, execCtxCloseDone_keeps h, execCtxCmdReset_keeps h, execVfFlr_keeps h, execPfFlr_keeps h,
    execVfEnableClear_keeps h, execSqTailWrite_keeps h, execCqHeadWrite_keeps h, execDescriptorFetch_keeps h,
    execCompletionNotice_keeps h, execMsixCoalesceExpiry_keeps h, execRun_keeps h, execCopy_keeps h,
        execCopyDone_keeps h,
    execRegionUpdate_keeps h, execRegionGranuleDone_keeps h, execRegionReadersClear_keeps h, execFence_keeps h,
    execFenceSatisfied_keeps h, execFenceTimeout_keeps h, execWaitGts_keeps h, execWaitGtsReached_keeps h,
    execSeqOpen_keeps h, execSeqAppend_keeps h, execSeqFork_keeps h, execSeqClose_keeps h, execStreamOpen_keeps h,
    execStreamTap_keeps h, execTapChangeApplied_keeps h, execStreamCloseDrain_keeps h, execStreamCloseAbort_keeps h,
    execStreamCloseDone_keeps h, execScanStart_keeps h, execScanAbortAfterPage_keeps h, execScanAbortAtLine_keeps h,
    execSmpRun_keeps h, execMarker_keeps h, execGangDispatch_keeps h, execQuantumEnd_keeps h,
        execPreemptStopped_keeps h,
    execSaveDone_keeps h, execRestoreDone_keeps h, execPeriodStart_keeps h, execBudgetExhausted_keeps h,
    execCapacityEvaluation_keeps h, execRunEnd_keeps h, execCoreFault_keeps h, execCoreRemap_keeps h,
        execTcEcall_keeps h,
    execTcEbreak_keeps h, execMeListLaunch_keeps h, execMeNop_keeps h, execMeMma_keeps h, execMeZero_keeps h,
    execMeAccLoad_keeps h, execMeStore_keeps h, execMeStoreRaw_keeps h, execMeWait_keeps h, execMeWaitSatisfied_keeps h,
    execMeSignal_keeps h, execSemWrite_keeps h, execSemWaitRead_keeps h, execSemWaitRelease_keeps h,
    execBarrierArrive_keeps h, execBarrierRead_keeps h, execLiveWrite_keeps h, execNonfiniteClear_keeps h,
    execDmLaunch_keeps h, execDmCopy_keeps h, execDmTranspose_keeps h, execDmFill_keeps h, execDmDescriptorDone_keeps h,
    execSramOwnWrite_keeps h, execSliceCleared_keeps h, execDbgHalt_keeps h, execDbgResume_keeps h, execDbgStep_keeps h,
    execWuLaunch_keeps h, execConvGroup_keeps h, execConvRowAvailable_keeps h, execCropResize_keeps h,
        execBoxDecode_keeps h,
    execNms_keeps h, execDepthToSpace_keeps h, execWuDescriptorDone_keeps h, execRsLaunch_keeps h, execAttend_keeps h,
    execAppend_keeps h, execScatter_keeps h, execRsDescriptorDone_keeps h, execDecodeStepForm_keeps h,
    execPrefillChunk_keeps h, execStepTableReceived_keeps h, execSpreadTokenReceived_keeps h, execPoolAssign_keeps h,
    execPoolRelease_keeps h, execPoolCreate_keeps h, execPoolDestroy_keeps h, execPageAlloc_keeps h,
    execAllocWaitTimeout_keeps h, execWriteIntent_keeps h, execCowCopyDone_keeps h, execLookaheadRequest_keeps h,
    execFetchDone_keeps h, execPreemptWriteoutDone_keeps h, execSeqRestored_keeps h, execPageSpilled_keeps h,
    execPfxFlush_keeps h, execPfxFlushDone_keeps h, execFrameRetireRequest_keeps h, execTokenisePretoken_keeps h,
    execMaskReady_keeps h, execTokenStep_keeps h, execAuData_keeps h, execAuEnd_keeps h, execDecodeDispatch_keeps h,
    execPictureDone_keeps h, execTapPictureStart_keeps h, execTapOutputRow_keeps h, execEncFrame_keeps h,
    execEncLinkedPicture_keeps h, execEncPictureDone_keeps h, execCsiPhyCfgWrite_keeps h, execCsiDeskewSequence_keeps h,
    execCsiPacket_keeps h, execFrameStart_keeps h, execFrameEnd_keeps h, execFrameDispatch_keeps h, execIspLine_keeps h,
    execFrameComplete_keeps h, execCamFirstMsExpiry_keeps h, execCamSilenceExpiry_keeps h, execCamDetChange_keeps h,
    execCciWrite_keeps h, execCciRead_keeps h, execCciSeq_keeps h, execCciSeqAtFeStart_keeps h,
        execCciTransferDone_keeps h,
    execScanLineStart_keeps h, execRingLineProcessed_keeps h, execMotorSettleDone_keeps h, execMotorReverseDone_keeps h,
    execRingLwmReached_keeps h, execPaperInputChange_keeps h, execScanButton_keeps h, execCableChange_keeps h,
    execTrayWaitExpiry_keeps h, execMisfeed_keeps h, execPaperJam_keeps h, execEjectDone_keeps h, execClearDone_keeps h,
    execFaultClr_keeps h, execAfeCalDark_keeps h, execAfeCalWhite_keeps h, execAfeCalOffset_keeps h,
        execAfeCalDone_keeps h,
    execSampleIssue_keeps h, execSampleDone_keeps h, execFlitReceived_keeps h, execFlitReplayTimer_keeps h,
    execKlSuspect_keeps h, execHeartbeatSend_keeps h, execHeartbeatReceived_keeps h, execKlDown_keeps h,
    execKlRetrain_keeps h, execKlUp_keeps h, execKlHoldoffExpiry_keeps h, execRouteChanged_keeps h,
    execKlMessageReceived_keeps h, execPeerAccess_keeps h, execStaleNackReceived_keeps h, execRetryNackResend_keeps h,
    execInstallWaitExpiry_keeps h, execFenceTimerExpiry_keeps h, execConsistInstall_keeps h, execCollLaunch_keeps h,
    execAllReduce_keeps h, execReduceScatter_keeps h, execAllGather_keeps h, execBroadcast_keeps h,
    execCollChunkReceived_keeps h, execCollRetransmit_keeps h, execCollDone_keeps h, execCollTimeout_keeps h,
    execCplLaneRepaired_keeps h, execCplDegraded_keeps h, execCplFailed_keeps h, execGovernorChooseState_keeps h,
    execPstateEnter_keeps h, execPstateExit_keeps h, execPstateExitDone_keeps h, execTimedExit_keeps h,
    execEffTolDelivered_keeps h, execHoldMsExpiry_keeps h, execMaxStateWrite_keeps h, execP4Entry_keeps h,
    execP4WakeI3c_keeps h, execP4WakeEvent_keeps h, execP4ExitDone_keeps h, execPowerSample_keeps h,
        execGovernMs_keeps h,
    execClockChange_keeps h, execAvsAck_keeps h, execAvsError_keeps h, execAvsRetry_keeps h, execSensorSample_keeps h,
    execThermTrip_keeps h, execFanFail_keeps h, execFanRecovered_keeps h, execGtsSet_keeps h, execSyncCorrect_keeps h,
    execSyncParentLoss_keeps h, execEventIntake_keeps h, execRecordClose_keeps h, execEvrSnapTake_keeps h,
    execMirrorProgramDone_keeps h, execNorEraseDone_keeps h, execNorRetry_keeps h, execMread_keeps h,
        execMreadDone_keeps h,
    execHbmScrubLine_keeps h, execHbmStackFailed_keeps h, execFatalStop_keeps h, execTestUnlockOpen_keeps h,
    execTestUnlockConfirm_keeps h, execTestLock_keeps h, execUnlockWindowExpiry_keeps h, execInjResidue_keeps h,
    execInjEccCe_keeps h, execInjEccUe_keeps h, execInjCplLane_keeps h, execInjKlCrc_keeps h, execFaultInjected_keeps h,
    execInjectNotHit_keeps h, execSheetPick_keeps h, execPoolCmdDone_keeps h, execPcieLink1Down_keeps h,
    execRetryWaitExpiry_keeps h, execTcLoadStore_keeps h, execTcIllegalInstruction_keeps h, execGpio2PulseEnd_keeps h,
    execGpio3Toggle_keeps h]

/-! ### The functions of `Machine/Tick` -/

theorem State.Keeps.gtsTick (h : z.Keeps s) : z.Keeps s.gtsTick := by
  unfold State.gtsTick
  exact .ite h (.ite (.ite h.congr h.congr) (.ite h.congr h.congr))

theorem State.Keeps.stallTick (h : z.Keeps s) : z.Keeps s.stallTick := by
  unfold State.stallTick
  exact .ite h.newFree.addSat64 h

/-- A nanosecond keeps everything but the time. -/
theorem State.tick_keeps (s : State) : State.Keeps { s with now := s.now + 1 } s.tick :=
  State.Keeps.refl.gtsTick.stallTick.chargeBudgets.tidyTick

/-- Settles O4: every command keeps the canonical form, and so does a nanosecond. -/
theorem stepKeepsInv : Obligations.StepKeepsInv := by
  intro s t i e
  unfold step at e
  split at e
  · obtain rfl := Host.Outcome.next.inj e
    exact s.tick_keeps.inv ⟨i.mem, i.bay, i.poison⟩
  · next c rest _ =>
    obtain ⟨u, hu, k⟩ := exec_keeps (State.Keeps.refl (s := { s with pending := rest })) c
    obtain rfl := Host.Outcome.next.inj (hu.symm.trans e)
    exact k.inv ⟨i.mem, i.bay, i.poison⟩

/-- Settles O5: every command goes on; the nanosecond that passes ends one later, with no command waiting. -/
theorem everyStepGoesOn : Obligations.EveryStepGoesOn := by
  refine ⟨fun c s => ?_, fun s h => ?_⟩
  · obtain ⟨t, ht, -⟩ := exec_keeps (State.Keeps.refl (s := s)) c
    exact ⟨t, ht⟩
  · have k := s.tick_keeps
    refine ⟨?_, k.now, k.pending.trans h⟩
    unfold step
    rw [h]

end Sys2Proof.Machine
end

section
/-! What an update of one core, of one of its tidy cores or of one of its units leaves of the cores. -/

namespace Sys2Proof.Machine

variable {s : State}

theorem State.core_congr {s t : State} (h : s.cores = t.cores) (c : Nat) : s.core c = t.core c := by
  simp [State.core, h]

@[simp] theorem State.core_updCore_same (s : State) (c : Nat) (f : Core → Core) :
    (s.updCore c f).core c = f (s.core c) := s.core_setCore_same c _

theorem State.core_setCore_other (s : State) {c j : Nat} (k : Core) (h : j ≠ c) : (s.setCore c k).core j = s.core j := by
  simp [State.core, Tbl.look_put_other _ _ _ (Ne.symm h)]

theorem State.core_updCore_other (s : State) {c j : Nat} (f : Core → Core) (h : j ≠ c) :
    (s.updCore c f).core j = s.core j := s.core_setCore_other _ h

@[simp] theorem State.core_updGang (s : State) (u : Nat) (f : Gang → Gang) (c : Nat) :
    (s.updGang u f).core c = s.core c := rfl

section
variable (k : Core) (t : Nat) (f : Tidy → Tidy)

@[simp] theorem Core.tidy_updTidy_same : (k.updTidy t f).tidy t = f (k.tidy t) := by
  unfold Core.updTidy Core.tidy
  by_cases h : t = 0 <;> simp [h]

theorem Core.updTidy_eq : ∃ a b, k.updTidy t f = { k with tc0 := a, tc1 := b } := by
  unfold Core.updTidy
  split
  · exact ⟨_, _, rfl⟩
  · exact ⟨_, _, rfl⟩

@[simp] theorem Core.updTidy_wu : (k.updTidy t f).wu = k.wu := by obtain ⟨a, b, h⟩ := k.updTidy_eq t f; rw [h]
@[simp] theorem Core.updTidy_rs : (k.updTidy t f).rs = k.rs := by obtain ⟨a, b, h⟩ := k.updTidy_eq t f; rw [h]
@[simp] theorem Core.updTidy_dm0 : (k.updTidy t f).dm0 = k.dm0 := by obtain ⟨a, b, h⟩ := k.updTidy_eq t f; rw [h]
@[simp] theorem Core.updTidy_dm1 : (k.updTidy t f).dm1 = k.dm1 := by obtain ⟨a, b, h⟩ := k.updTidy_eq t f; rw [h]
@[simp] theorem Core.updTidy_me : (k.updTidy t f).me = k.me := by obtain ⟨a, b, h⟩ := k.updTidy_eq t f; rw [h]
@[simp] theorem Core.updTidy_gang : (k.updTidy t f).gang = k.gang := by obtain ⟨a, b, h⟩ := k.updTidy_eq t f; rw [h]
@[simp] theorem Core.updTidy_idx : (k.updTidy t f).idx = k.idx := by obtain ⟨a, b, h⟩ := k.updTidy_eq t f; rw [h]

end

@[simp] theorem State.tidy_updTidy_same (s : State) (c t : Nat) (f : Tidy → Tidy) :
    ((s.updTidy c t f).core c).tidy t = f ((s.core c).tidy t) := by
  simp [State.updTidy]

theorem State.core_updTidy_other (s : State) {c j : Nat} (t : Nat) (f : Tidy → Tidy) (h : j ≠ c) :
    (s.updTidy c t f).core j = s.core j := s.core_updCore_other _ h

theorem State.tcLen_congr {s t : State} {c tc : Nat} (hm : t.mem = s.mem)
    (hk : (t.core c).tidy tc = (s.core c).tidy tc) : t.tcLen c tc = s.tcLen c tc := by
  simp [State.tcLen, hm, hk]

/-- A tidy core that goes on after an update of its own core's units passes its instruction. -/
theorem State.goesOn_tcNext {u : State} {c tc : Nat} (hm : u.mem = s.mem)
    (hk : (u.core c).tidy tc = (s.core c).tidy tc) (ho : ∀ k, k ≠ c → u.core k = s.core k) :
    s.goesOn (u.tcNext c tc) c tc := by
  refine ⟨?_, fun k h => (State.core_updTidy_other _ _ _ h).trans (ho k h)⟩
  unfold State.tcNext State.tcPass
  rw [State.tidy_updTidy_same, State.tcLen_congr hm hk, hk]
  rfl

@[simp] theorem State.core_tcNext_wu (s : State) (c tc : Nat) : ((s.tcNext c tc).core c).wu = (s.core c).wu := by
  simp [State.tcNext, State.tcPass, State.updTidy]

@[simp] theorem State.core_tcNext_rs (s : State) (c tc : Nat) : ((s.tcNext c tc).core c).rs = (s.core c).rs := by
  simp [State.tcNext, State.tcPass, State.updTidy]

@[simp] theorem State.dmQueue_updTidy (s : State) (c t q : Nat) (f : Tidy → Tidy) :
    (s.updTidy c t f).dmQueue c q = s.dmQueue c q := by
  simp [State.dmQueue, State.updTidy]

@[simp] theorem State.dmQueue_tcNext (s : State) (c tc q : Nat) : (s.tcNext c tc).dmQueue c q = s.dmQueue c q :=
  State.dmQueue_updTidy s c tc q _

@[simp] theorem State.dmQueue_updDm_same (s : State) (c q : Nat) (f : DmQueue → DmQueue) :
    (s.updDm c q f).dmQueue c q = f (s.dmQueue c q) := by
  unfold State.dmQueue State.updDm
  by_cases h : q = 0 <;> simp [h]

/-- A data-mover queue is apart from the tidy cores. -/
@[simp] theorem State.tidy_updDm (s : State) (c q t : Nat) (f : DmQueue → DmQueue) :
    ((s.updDm c q f).core c).tidy t = (s.core c).tidy t := by
  unfold State.updDm Core.tidy
  by_cases h : q = 0 <;> simp [h]

@[simp] theorem State.tidy_updWu (s : State) (c t : Nat) (f : WuUnit → WuUnit) :
    ((s.updWu c f).core c).tidy t = (s.core c).tidy t := by simp [State.updWu, Core.tidy]

@[simp] theorem State.tidy_updRs (s : State) (c t : Nat) (f : RsUnit → RsUnit) :
    ((s.updRs c f).core c).tidy t = (s.core c).tidy t := by simp [State.updRs, Core.tidy]

@[simp] theorem State.wu_updWu (s : State) (c : Nat) (f : WuUnit → WuUnit) :
    ((s.updWu c f).core c).wu = f (s.core c).wu := by simp [State.updWu]

@[simp] theorem State.rs_updRs (s : State) (c : Nat) (f : RsUnit → RsUnit) :
    ((s.updRs c f).core c).rs = f (s.core c).rs := by simp [State.updRs]

end Sys2Proof.Machine
end

section
/-! What a store and a completion record can change. -/

namespace Sys2Proof.Machine

variable {s : State}

/-- A store writes memory and what is known of its lines; and of the registers the words of retained pools (17 R569). -/
theorem State.store_eq (s : State) (k : Nat) (bs : List Byte) : ∃ r m p l x, s.store k bs =
    { s with regs := r, mem := m, poison := p, latent := l, test := x } := by
  have stamp : ∀ (u : State) (n : Nat), ∃ l x, u.stampErrors k n = { u with latent := l, test := x } := fun u n => by
    unfold State.stampErrors
    dsimp only
    split
    · exact ⟨_, _, rfl⟩
    · split
      · exact ⟨_, _, rfl⟩
      · split <;> exact ⟨_, _, rfl⟩
  have saved : ∀ (u : State) (n : Nat), ∃ r, u.clearSaved k n = { u with regs := r } := fun u n => by
    unfold State.clearSaved
    split <;> exact ⟨_, rfl⟩
  unfold State.store
  dsimp only
  obtain ⟨l, x, h1⟩ := stamp { s with mem := memWrite s.mem k bs, poison := poisonAfterWrite s.poison k bs.length } bs.length
  rw [h1]
  obtain ⟨r, h2⟩ := saved { s with mem := memWrite s.mem k bs, poison := poisonAfterWrite s.poison k bs.length,
                                   latent := l, test := x } bs.length
  exact ⟨r, _, _, l, x, h2⟩

@[simp] theorem State.store_boot (s : State) (k : Nat) (bs : List Byte) : (s.store k bs).boot = s.boot := by
  obtain ⟨_, _, _, _, _, h⟩ := s.store_eq k bs; rw [h]

@[simp] theorem State.store_ctxs (s : State) (k : Nat) (bs : List Byte) : (s.store k bs).ctxs = s.ctxs := by
  obtain ⟨_, _, _, _, _, h⟩ := s.store_eq k bs; rw [h]

@[simp] theorem State.store_notices (s : State) (k : Nat) (bs : List Byte) : (s.store k bs).notices = s.notices := by
  obtain ⟨_, _, _, _, _, h⟩ := s.store_eq k bs; rw [h]

@[simp] theorem State.store_regionJobs (s : State) (k : Nat) (bs : List Byte) : (s.store k bs).regionJobs = s.regionJobs := by
  obtain ⟨_, _, _, _, _, h⟩ := s.store_eq k bs; rw [h]

@[simp] theorem State.store_sbox (s : State) (k : Nat) (bs : List Byte) : (s.store k bs).sbox = s.sbox := by
  obtain ⟨_, _, _, _, _, h⟩ := s.store_eq k bs; rw [h]

@[simp] theorem State.store_yard (s : State) (k : Nat) (bs : List Byte) : (s.store k bs).yard = s.yard := by
  obtain ⟨_, _, _, _, _, h⟩ := s.store_eq k bs; rw [h]

@[simp] theorem State.store_media (s : State) (k : Nat) (bs : List Byte) : (s.store k bs).media = s.media := by
  obtain ⟨_, _, _, _, _, h⟩ := s.store_eq k bs; rw [h]

@[simp] theorem State.store_cores (s : State) (k : Nat) (bs : List Byte) : (s.store k bs).cores = s.cores := by
  obtain ⟨_, _, _, _, _, h⟩ := s.store_eq k bs; rw [h]

@[simp] theorem State.store_scan (s : State) (k : Nat) (bs : List Byte) : (s.store k bs).scan = s.scan := by
  obtain ⟨_, _, _, _, _, h⟩ := s.store_eq k bs; rw [h]

@[simp] theorem State.store_smp (s : State) (k : Nat) (bs : List Byte) : (s.store k bs).smp = s.smp := by
  obtain ⟨_, _, _, _, _, h⟩ := s.store_eq k bs; rw [h]

@[simp] theorem State.store_text (s : State) (k : Nat) (bs : List Byte) : (s.store k bs).text = s.text := by
  obtain ⟨_, _, _, _, _, h⟩ := s.store_eq k bs; rw [h]

@[simp] theorem State.store_pages (s : State) (k : Nat) (bs : List Byte) : (s.store k bs).pages = s.pages := by
  obtain ⟨_, _, _, _, _, h⟩ := s.store_eq k bs; rw [h]

@[simp] theorem State.store_gts (s : State) (k : Nat) (bs : List Byte) : (s.store k bs).gts = s.gts := by
  obtain ⟨_, _, _, _, _, h⟩ := s.store_eq k bs; rw [h]

@[simp] theorem State.store_now (s : State) (k : Nat) (bs : List Byte) : (s.store k bs).now = s.now := by
  obtain ⟨_, _, _, _, _, h⟩ := s.store_eq k bs; rw [h]

@[simp] theorem State.store_uid (s : State) (k : Nat) (bs : List Byte) : (s.store k bs).uid = s.uid := by
  obtain ⟨_, _, _, _, _, h⟩ := s.store_eq k bs; rw [h]

theorem State.stampErrors_kept (s : State) (k n : Nat) : (s.stampErrors k n).mem = s.mem ∧
    (s.stampErrors k n).poison = s.poison := by
  unfold State.stampErrors
  dsimp only
  split
  · exact ⟨rfl, rfl⟩
  · split
    · exact ⟨rfl, rfl⟩
    · split <;> exact ⟨rfl, rfl⟩

theorem State.clearSaved_kept (s : State) (k n : Nat) : (s.clearSaved k n).mem = s.mem ∧
    (s.clearSaved k n).poison = s.poison := by
  unfold State.clearSaved
  split <;> exact ⟨rfl, rfl⟩

@[simp] theorem State.store_mem (s : State) (k : Nat) (bs : List Byte) : (s.store k bs).mem = memWrite s.mem k bs :=
  (State.clearSaved_kept _ _ _).1.trans (State.stampErrors_kept _ _ _).1

@[simp] theorem State.store_poison (s : State) (k : Nat) (bs : List Byte) :
    (s.store k bs).poison = poisonAfterWrite s.poison k bs.length :=
  (State.clearSaved_kept _ _ _).2.trans (State.stampErrors_kept _ _ _).2

/-- With no latent error a read finds none (18 R603). -/
theorem State.touch_of_latent (h : s.latent = []) (k n : Nat) : s.touch k n = s := by
  simp [State.touch, h]

/-- No pool's contents are retained through P4 (17 R569). -/
def State.noneSaved (s : State) : Prop :=
  s.regs.look 0 (ro .pwr 0 0x78) = 0 ∧ s.regs.look 0 (ro .pwr 0 0x7C) = 0

theorem State.store_regs (h : s.noneSaved) (k : Nat) (bs : List Byte) : (s.store k bs).regs = s.regs := by
  have stamp : ∀ (u : State) (n : Nat), (u.stampErrors k n).regs = u.regs := fun u n => by
    unfold State.stampErrors
    dsimp only
    split
    · rfl
    · split
      · rfl
      · split <;> rfl
  unfold State.store
  dsimp only
  rw [State.clearSaved, if_pos, stamp]
  rw [stamp]
  exact .inr (.inr h)

/-- The message of a record touches the host's side alone. -/
theorem State.recordMsi_eq (s : State) (n : Nat) (r : Rec) : ∃ h, s.recordMsi n r = { s with host := h } := by
  have msi : ∀ fn vec, ∃ h, s.sendMsi fn vec = { s with host := h } := fun fn vec => by
    unfold State.sendMsi
    dsimp only
    split <;> exact ⟨_, rfl⟩
  unfold State.recordMsi
  dsimp only
  split
  · split
    · split
      · exact ⟨_, rfl⟩
      · obtain ⟨h, e⟩ := msi (s.ctxFunc n) (s.fld (cr n 0xA0) 0 11)
        rw [e]
        exact ⟨_, rfl⟩
    · exact ⟨s.host, rfl⟩
  · exact ⟨s.host, rfl⟩

@[simp] theorem State.recordMsi_boot (s : State) (n : Nat) (r : Rec) : (s.recordMsi n r).boot = s.boot := by
  obtain ⟨_, h⟩ := s.recordMsi_eq n r; rw [h]

@[simp] theorem State.recordMsi_regs (s : State) (n : Nat) (r : Rec) : (s.recordMsi n r).regs = s.regs := by
  obtain ⟨_, h⟩ := s.recordMsi_eq n r; rw [h]

@[simp] theorem State.recordMsi_ctxs (s : State) (n : Nat) (r : Rec) : (s.recordMsi n r).ctxs = s.ctxs := by
  obtain ⟨_, h⟩ := s.recordMsi_eq n r; rw [h]

/-- PHASE after a record (04 R123). -/
def State.nextPhase (s : State) (n : Nat) : Bool :=
  if ((s.cqTail n).toNat + 1) % 2 ^ s.cqSize n = 0 then !(s.ctx n).phase else (s.ctx n).phase

/-- The tail and the PHASE after a record. -/
def State.tailAdvanced (s u : State) (n : Nat) : State :=
  (u.wr (cr n 0x9C) (s.cqTail n + 1)).setCtx n { s.ctx n with phase := s.nextPhase n }

/-- A record is stored where its place has an address, the tail goes on, its descriptor's index is done, and its message is
due (04 R123, R127). -/
theorem State.putRecord_eq (s : State) (n : Nat) (r : Rec) : ∃ u, s.putRecord n r =
    (match r.ends with
      | some pos => (s.tailAdvanced u n).markDone n r.sq pos
      | none => s.tailAdvanced u n).recordMsi n r ∧ (u = s ∨ ∃ k bs, u = s.store k bs) := by
  refine ⟨_, rfl, ?_⟩
  split
  · exact .inr ⟨_, _, rfl⟩
  · exact .inl rfl

theorem State.markDone_boot (s : State) (n q : Nat) (pos : Word) : (s.markDone n q pos).boot = s.boot := by
  simp [State.markDone]

@[simp] theorem State.putRecord_boot (s : State) (n : Nat) (r : Rec) : (s.putRecord n r).boot = s.boot := by
  obtain ⟨u, he, hu⟩ := s.putRecord_eq n r
  have hb : (s.tailAdvanced u n).boot = s.boot := by
    obtain rfl | ⟨k, bs, rfl⟩ := hu <;> simp [State.tailAdvanced]
  rw [he, State.recordMsi_boot]
  split
  · exact (State.markDone_boot _ _ _ _).trans hb
  · exact hb

theorem State.cqTail_tailAdvanced (s u : State) (n : Nat) : (s.tailAdvanced u n).cqTail n = s.cqTail n + 1 := by
  simp [State.tailAdvanced, State.cqTail, State.rd]

theorem State.ctx_tailAdvanced (s u : State) (n : Nat) :
    (s.tailAdvanced u n).ctx n = { s.ctx n with phase := s.nextPhase n } := State.ctx_setCtx_same _ _ _

/-- The record of a lost notice ends no descriptor: the tail goes on, and of the context only PHASE can change. -/
theorem State.putRecord_lost (n : Nat) (r : Rec) (h : r.ends = none) : (s.putRecord n r).cqTail n = s.cqTail n + 1 ∧
    (s.putRecord n r).ctx n = { s.ctx n with phase := s.nextPhase n } := by
  obtain ⟨u, he, -⟩ := s.putRecord_eq n r
  rw [h] at he
  rw [he]
  dsimp only
  obtain ⟨x, hx⟩ := (s.tailAdvanced u n).recordMsi_eq n r
  rw [hx]
  exact ⟨s.cqTail_tailAdvanced u n, s.ctx_tailAdvanced u n⟩

/-- A stall that is logged changes nothing else of a context, and no register but the recorder's count of drops. -/
theorem State.logStall_kept (s : State) (n : Nat) : (∃ b, (s.logStall n).ctx n = { s.ctx n with stallLogged := b }) ∧
    (s.logStall n).boot = s.boot ∧ ∀ a, a ≠ ro .evr 0 0x60 → a ≠ ro .evr 0 0x58 → (s.logStall n).rd a = s.rd a := by
  unfold State.logStall
  split
  · exact ⟨⟨(s.ctx n).stallLogged, rfl⟩, rfl, fun _ _ _ => rfl⟩
  · refine ⟨⟨true, ?_⟩, by simp, fun a h1 h2 => State.raise_rd _ _ _ _ _ _ h1 h2⟩
    unfold State.ctx
    rw [State.raise_ctxs]
    exact Tbl.look_put_same _ _ _ _

theorem State.stallIfFull_kept (s : State) (n : Nat) : (∃ b, (s.stallIfFull n).ctx n = { s.ctx n with stallLogged := b }) ∧
    (s.stallIfFull n).boot = s.boot ∧
    ∀ a, a ≠ ro .evr 0 0x60 → a ≠ ro .evr 0 0x58 → (s.stallIfFull n).rd a = s.rd a := by
  unfold State.stallIfFull
  split
  · exact s.logStall_kept n
  · exact ⟨⟨(s.ctx n).stallLogged, rfl⟩, rfl, fun _ _ _ => rfl⟩

end Sys2Proof.Machine
end

section
/-! The tie between a step and `exec` (O1), the reset state (O2, O3), and descriptors that are refused, wait or are queued
(O19, O22, O32). -/

namespace Sys2Proof.Machine

/-- Settles O1: `step` takes the queue apart. -/
theorem stepRunsTheFront : Obligations.StepRunsTheFront := by
  intro c r s h
  unfold step
  rw [h]

/-- At reset every context is FREE and belongs to the PF: its registers read their Reset column. -/
theorem State.reset_ctx : ∀ n : Fin 256, State.reset.ctxState n = stFree ∧ State.reset.ctxFunc n = 0 := by
  decide +kernel

/-- Settles O2: the registers by their Reset columns, the tables because they are empty. -/
theorem resetValues : Obligations.ResetValues := by
  have regs : State.reset.ready = false ∧ State.reset.consist = csSolo ∧ State.reset.consistEpoch = 0 ∧
      State.reset.unlocked = false ∧ State.reset.pst = 0 ∧ State.reset.evrHead = 0 := by decide +kernel
  obtain ⟨hready, hconsist, hepoch, hlock, hpst, hhead⟩ := regs
  exact ⟨rfl, hready, rfl, hconsist, hepoch, hlock, hpst, hhead, State.reset_ctx, fun _ => ⟨rfl, rfl, rfl⟩, fun _ => rfl⟩

/-- Settles O3: the tables are empty. -/
theorem resetSatisfiesInv : Obligations.ResetSatisfiesInv := ⟨rfl, rfl, rfl⟩

/-- A command that reads text from the ring takes up the next descriptor where no earlier one has its turn. -/
theorem State.seqRow_of_no_turns {s : State} {n q cls : Nat} {check : State → Desc → Option Status}
    {begin' : State → Nat → Desc → State} (h : s.turns n q cls = []) :
    s.seqRow n q cls check begin' = s.take n q cls check fun s d =>
      let i := handleIdx d.target
      let s := (s.updSeq i fun x => { x with ops := x.ops ++ [d.uid] }).holdAtStart d
      if !s.heads d then s else if s.mayBegin d then begin' s i d else s.askPages d := by
  unfold State.seqRow
  rw [h]
  rfl

/-- Settles O19: each class goes through `State.take`, whose checks name the status. -/
theorem refusedDescriptorsCompleteAtOnce : Obligations.RefusedDescriptorsCompleteAtOnce := by
  intro ctx sq s u d st
  refine ⟨fun h c => ?_, fun h c => ?_, fun h c => ?_, fun h c => ?_, fun h turns c => ?_, fun h c => ?_,
    fun h c => ?_, fun h mode c => ?_, State.complete_reported u d st 0 0⟩
  · exact congrArg Host.Outcome.next (State.take_refused _ _ h c)
  · exact congrArg Host.Outcome.next (State.take_refused _ _ h c)
  · exact congrArg Host.Outcome.next (State.take_refused _ _ h c)
  · exact congrArg Host.Outcome.next (State.take_refused _ _ h c)
  · exact congrArg Host.Outcome.next ((State.seqRow_of_no_turns turns).trans (State.take_refused _ _ h c))
  · exact congrArg Host.Outcome.next (State.take_refused _ _ h c)
  · exact congrArg Host.Outcome.next (State.take_refused _ _ h c)
  · exact (if_neg mode).trans (congrArg Host.Outcome.next (State.take_refused _ _ h c))

/-- Settles O22: a FENCE and a WAIT_GTS pass their checks and wait; a descriptor that is held completes when its count or its
time is reached. -/
theorem fencesAndWaits : Obligations.FencesAndWaits := by
  intro ctx sq s u d
  refine ⟨fun h hf hq => ?_, fun h hm => ?_, fun h hm hn ht => ?_, fun h hn => ?_, fun h ht => ?_⟩
  · have hc : firstStatus [(u.ctxFunc d.waitCtx != u.ctxFunc d.ctx, .invalidDescriptor),
        (decide (3 < d.waitSq), Status.limitRejected)] = none := by
      simp [firstStatus, hf, Nat.not_lt.mpr hq]
    exact congrArg Host.Outcome.next (State.take_goes _ _ h hc)
  · refine ⟨s.complete d .ok 0 0, ?_, State.complete_reported _ _ _ _ _, rfl, rfl⟩
    show execFenceSatisfied ctx sq s = _
    simp [execFenceSatisfied, h, hm]
  · refine ⟨s.complete d .timeout 0 0, ?_, State.complete_reported _ _ _ _ _, rfl, rfl⟩
    show execFenceTimeout ctx sq s = _
    simp [execFenceTimeout, h, hm, hn, ht]
  · have hx : exec (.waitGts ctx sq) s = .next (if d.waitTarget ≤ u.gts then u.endWait d else u) :=
      congrArg Host.Outcome.next (State.take_goes _ _ h (if_neg (Nat.not_lt.mpr hn)))
    refine ⟨fun ht => ?_, fun ht => ⟨u.endWait d, ?_, State.complete_reported _ _ _ _ _⟩⟩
    · rw [hx, if_neg (Nat.not_le.mpr ht)]
    · rw [hx, if_pos ht]
  · refine ⟨s.endWait d, ?_, State.complete_reported _ _ _ _ _, rfl, rfl⟩
    show execWaitGtsReached ctx sq s = _
    simp [execWaitGtsReached, h, ht]

/-! ### Launch registers -/

section
variable {s : State} {c tc : Nat}

/-- A launch of the row-statistics unit queues the descriptor; of the gang it changes at most whether it can be replayed. -/
theorem State.rsEnqueue_queues (s : State) (c tc a : Nat) : (s.rsEnqueue c tc a).mem = s.mem ∧ (s.rsEnqueue c tc a).cores =
    (s.updRs c fun u => { u with queue := u.queue ++ [s.launchAt c tc a] }).cores := by
  unfold State.rsEnqueue
  dsimp only
  split
  · split
    · exact ⟨rfl, rfl⟩
    · exact ⟨rfl, rfl⟩
  · exact ⟨rfl, rfl⟩

/-- The stalled core keeps its queues. -/
theorem State.stalls_updTidy (x : Stall) :
    (((s.updTidy c tc fun k => { k with stall := x }).core c).tidy tc).stall = x ∧
      ((s.updTidy c tc fun k => { k with stall := x }).core c).wu = (s.core c).wu ∧
      ((s.updTidy c tc fun k => { k with stall := x }).core c).rs = (s.core c).rs := by
  simp [State.updTidy]

end

/-- Settles O32: each launch register queues below its unit's limit and stalls at it. -/
theorem launchesQueueOrStall : Obligations.LaunchesQueueOrStall := by
  intro c tc val s hr
  refine ⟨fun q => ⟨fun h => ⟨_, if_pos hr, ?_⟩, fun h => ⟨_, if_pos hr, ?_⟩⟩, fun h => ⟨_, if_pos hr, ?_⟩,
    fun h => ⟨_, if_pos hr, ?_⟩, fun h => ⟨_, if_pos hr, ?_⟩, fun h => ⟨_, if_pos hr, ?_⟩⟩
  · unfold State.dmLaunch
    rw [if_neg (Nat.not_le.mpr h)]
    refine ⟨State.goesOn_tcNext rfl (State.tidy_updDm _ _ _ _ _) fun k hk => State.core_updCore_other _ _ hk, ?_⟩
    simp
  · unfold State.dmLaunch
    rw [if_pos h]
    exact ⟨State.stalls_updTidy _ |>.1, by simp⟩
  · unfold State.wuLaunch
    rw [if_neg (Nat.not_le.mpr h)]
    refine ⟨State.goesOn_tcNext rfl (State.tidy_updWu _ _ _ _) fun k hk => State.core_updCore_other _ _ hk, ?_⟩
    simp
  · unfold State.wuLaunch
    rw [if_pos h]
    exact ⟨State.stalls_updTidy _ |>.1, State.stalls_updTidy _ |>.2.1⟩
  · unfold State.rsLaunch
    rw [if_neg (Nat.not_le.mpr h)]
    obtain ⟨hm, hcores⟩ := s.rsEnqueue_queues c tc (bitsOf val 6 15 * 64)
    refine ⟨State.goesOn_tcNext hm ((congrArg (·.tidy tc) (State.core_congr hcores c)).trans (State.tidy_updRs _ _ _ _))
      fun k hk => (State.core_congr hcores k).trans (State.core_updCore_other _ _ hk), ?_⟩
    rw [State.core_tcNext_rs, State.core_congr hcores]
    exact State.rs_updRs _ _ _
  · unfold State.rsLaunch
    rw [if_pos h]
    exact ⟨State.stalls_updTidy _ |>.1, State.stalls_updTidy _ |>.2.2⟩

end Sys2Proof.Machine
end

section
/-! Accesses of the host: posted writes and refusals (O6), pairs (O7), owners of pages and contexts (O10). -/

namespace Sys2Proof.Machine

variable {s : State}

/-- What the command answers, and what holds then. -/
theorem completes_next {c : Instr} {t : State} {P : State → Prop} (h : exec c s = .next t) (hp : P t) : completes c s P :=
  ⟨t, h, hp⟩

/-! ### Posted writes and refused accesses -/

/-- A refused access answers a read with the fixed word; all else is an event, which the read of an island without power
does not raise (02 R650). -/
theorem State.refuse_cases (s : State) (snd : Sender) (off width : Nat) (write : Bool) (c : Nat) :
    ∃ u : State, (u = s ∨ ∃ n, u = s.answer n) ∧
      (write = false → width = 4 → u.host.answer = BitVec.ofNat 64 (refusedWord c)) ∧
      s.refuse snd off width write c = if c = 0x2181 ∧ !write then u else u.accessEvent c 0 off (senderFunc snd) := by
  cases write with
  | true => exact ⟨s, .inl rfl, nofun, rfl⟩
  | false =>
    refine ⟨s.answer (if width = 8 then refusedWord c * 2 ^ 32 + refusedWord c else refusedWord c), .inr ⟨_, rfl⟩,
      fun _ h => ?_, rfl⟩
    subst h
    rfl

/-- Settles O6. -/
theorem postedWritesAndRefusals : Obligations.PostedWritesAndRefusals := by
  refine ⟨fun snd off v s a h => ?_, fun slot p w r s hp hf => ?_, fun snd off width c write s h => ?_,
    fun snd off width s => ⟨rfl, fun hr => ?_⟩⟩
  · have hx : exec (.registerWrite snd off v) s = execRegisterWrite snd off v s := rfl
    simp only [execRegisterWrite, h] at hx
    refine completes_next hx ?_
    dsimp only
    split
    · exact ⟨State.page_setPage_same _ _ _, fun k hk => State.page_setPage_other _ _ (Ne.symm hk), rfl, rfl⟩
    · exact ⟨State.page_setPage_same _ _ _, fun k hk => State.page_setPage_other _ _ (Ne.symm hk), rfl, rfl⟩
  · show Host.Outcome.next (s.takeWrite slot) = _
    simp only [State.takeWrite, State.applyWrite, hf, hp]
  · have hx : exec (.refusedAccess snd (.bar0 off) width write) s = .next (s.refuse snd off width write c) := by
      show execRefusedAccess snd (.bar0 off) width write s = _
      simp only [execRefusedAccess, h]
    obtain ⟨u, hu, hans, he⟩ := s.refuse_cases snd off width write c
    have hkept : u.gts = s.gts ∧ u.mem = s.mem ∧ u.ctxs = s.ctxs ∧ u.regs = s.regs := by
      obtain rfl | ⟨n, rfl⟩ := hu
      · exact ⟨rfl, rfl, rfl, rfl⟩
      · exact ⟨rfl, rfl, rfl, rfl⟩
    obtain ⟨hg, hm, hc, hr⟩ := hkept
    refine completes_next hx ?_
    rw [he]
    split
    · next hq =>
      have hw : write = false := by simpa using hq.2
      exact ⟨fun h => absurd h (by simp [hw]), fun _ h => absurd hq.1 h, hans, hm, hc,
        fun a _ _ => State.rd_congr hr a⟩
    · have hl : (u.accessEvent c 0 off (senderFunc snd)).logged s.gts 0x1120 c [.w 0, .d off] 0xFF (senderFunc snd) :=
        hg ▸ u.raise_logged _ _ _ _ _
      refine ⟨fun _ => hl, fun _ _ => hl, fun h4 h5 => ?_, ?_, ?_, fun a h1 h2 => ?_⟩
      · exact (u.raise_answer _ _ _ _ _).trans (hans h4 h5)
      · exact (u.raise_mem _ _ _ _ _).trans hm
      · exact (u.raise_ctxs _ _ _ _ _).trans hc
      · exact (u.raise_rd _ _ _ _ _ h1 h2).trans (State.rd_congr hr a)
  · show execRefusedAccess snd (.bar2 off) width true s = _
    simp [execRefusedAccess, hr]

/-! ### Pairs -/

/-- What a read of a pair's low word leaves. -/
theorem State.hostRead_low_kept {snd : Sender} {off a : Nat} {p : PageId} (h : s.finds snd off 4 a)
    (hp : pageAt (a / 0x1000) = some p) (hl : isPairLow p.blk (a % 0x1000) = true) :
    let t := s.hostRead snd off false
    t.host.answer = BitVec.ofNat 64 (s.readWord p (a % 0x1000)).toNat ∧
      (t.page (a / 0x1000)).readLatch.look 0 (senderFunc snd) = s.readWord p (a % 0x1000 + 4) ∧ t.regs = s.regs := by
  dsimp only
  rw [State.hostRead_low h hp hl]
  refine ⟨rfl, ?_, rfl⟩
  rw [State.page_setPage_same]
  exact Tbl.look_put_same _ _ _ _

theorem State.inPair_eq {snd : Sender} {off d a : Nat} {p : PageId} (h : s.bar0Of snd off = some a) (hd : d ≤ a % 0x1000)
    (hp : pageAt (a / 0x1000) = some p) (hl : isPairLow p.blk (a % 0x1000 - d) = true) : s.inPair snd off d = true := by
  simp [State.inPair, h, hd, hp, hl]

/-- A write to a pair's low word waits in the writer's latch (02 R68). -/
theorem State.wordEffect_low {snd : Sender} {p : PageId} {o : Nat} (low : Option Word) (v : Word)
    (hl : isPairLow p.blk o = true) (ho : 0x40 ≤ o) (hi : s.ignores snd p o = none) :
    s.wordEffect snd p o low v = s.latchLow snd p v := by
  simp [State.wordEffect, Nat.not_lt.mpr ho, hl, hi]

/-- A write to a pair's high word installs both halves (02 R69). -/
theorem State.wordEffect_high {snd : Sender} {p : PageId} {o : Nat} (low : Option Word) (v : Word) (ho : 0x44 ≤ o)
    (h0 : isPairLow p.blk o = false) (hl : isPairLow p.blk (o - 4) = true) :
    s.wordEffect snd p o low v = s.pairWrite snd p (o - 4)
      (low.getD ((s.page (slotOf p.blk p.inst)).writeLatch.look 0 (senderFunc snd))) v := by
  have h1 : ¬ o < 0x40 := by omega
  have h2 : 4 ≤ o := by omega
  simp [State.wordEffect, h1, h0, hl, h2]

theorem State.exec_pairHighWrite {snd : Sender} {off : Fin 33554432} {low : Option Word} {v : Word}
    (h : s.inPair snd off 4 = true) : exec (.pairHighWrite snd off low v) s = .next (s.hostWrite snd off low v) :=
  congrArg Host.Outcome.next (if_pos h)

/-- PG_GTS is the pair at 0x30 (R59, R62). -/
theorem State.hostRead_gts {snd : Sender} {off a : Nat} {p : PageId} (h : s.finds snd off 4 a)
    (hp : pageAt (a / 0x1000) = some p) (hm : a % 0x1000 = 0x30) :
    let t := s.hostRead snd off false
    t.host.answer = BitVec.ofNat 64 ((s.page (slotOf p.blk p.inst)).evGts % 2 ^ 32) ∧
      (t.page (a / 0x1000)).readLatch.look 0 (senderFunc snd) =
        BitVec.ofNat 32 ((s.page (slotOf p.blk p.inst)).evGts / 2 ^ 32) ∧ t.regs = s.regs := by
  have hl : isPairLow p.blk (a % 0x1000) = true := by simp [isPairLow, hm]
  have hk := State.hostRead_low_kept h hp hl
  have hlo : (s.readWord p 0x30).toNat = (s.page (slotOf p.blk p.inst)).evGts % 2 ^ 32 := by
    simp [State.readWord, State.headerWord]
  have hhi : s.readWord p 0x34 = BitVec.ofNat 32 ((s.page (slotOf p.blk p.inst)).evGts / 2 ^ 32) := by
    simp [State.readWord, State.headerWord]
  rw [hm, hlo, hhi] at hk
  exact hk

/-- Settles O7: PG_GTS is the pair at 0x30, and every other pair is read and written as the architect's laws say. -/
theorem pairsAreReadAndWrittenWhole : Obligations.PairsAreReadAndWrittenWhole := by
  refine ⟨fun snd off a p s h hp hl => ⟨_, rfl, State.hostRead_low_kept h hp hl⟩,
    fun snd off a p s h hp h0 h4 hl => ⟨_, congrArg Host.Outcome.next (State.hostRead_high h hp h0 h4 hl), rfl, rfl, rfl⟩,
    fun snd off a p s h hp => ⟨_, congrArg Host.Outcome.next (State.hostRead_wide h hp),
      s.answer_answer _, s.answer_pages _, s.answer_regs _⟩,
    fun snd off v a p s h hp hl ho hi => ?_, fun snd off v a p s h hp ho h0 hl => ?_,
    fun snd off lo v a p s h4 h hb hp ho hr h0 hl => ?_, fun snd slot a p s h hp => ?_⟩
  · obtain ⟨hb, hm⟩ := State.reach_word h.1
    have hx : exec (.pairLowWrite snd off v) s = .next (s.hostWrite snd off none v) :=
      congrArg Host.Outcome.next (if_pos (State.inPair_eq hb (Nat.zero_le _) hp hl))
    rw [State.hostWrite_lands v h hp, ← hm, State.wordEffect_low none v hl ho hi] at hx
    refine completes_next hx ⟨?_, rfl, rfl⟩
    unfold State.latchLow
    rw [slotOf_pageAt _ _ hp, State.page_setPage_same]
    exact Tbl.look_put_same _ _ _ _
  · obtain ⟨hb, hm⟩ := State.reach_word h.1
    rw [State.exec_pairHighWrite (State.inPair_eq hb (by omega) hp hl), State.hostWrite_lands v h hp, ← hm,
      State.wordEffect_high none v ho h0 hl, slotOf_pageAt _ _ hp]
    rfl
  · obtain ⟨-, hm⟩ := State.reach_word h.1
    have hmod : off.val % 0x1000 = a % 0x1000 + 4 := by omega
    have hmod' : (a + 4) % 0x1000 = a % 0x1000 + 4 := by omega
    have hdiv : (a + 4) / 0x1000 = a / 0x1000 := by omega
    have hin : s.inPair snd off 4 = true := State.inPair_eq (p := p) hb (by omega) (by rw [hdiv]; exact hp)
      (by rw [hmod']; exact hl)
    rw [State.exec_pairHighWrite hin, State.hostWrite_wide lo v h4 h hp (by omega), hmod,
      State.wordEffect_high (some lo) v (by omega) (by exact h0) hl]
    rfl
  · have hm : a % 0x1000 = 0x30 := (State.reach_word h.1).2.trans (by omega)
    exact ⟨_, rfl, State.hostRead_gts h hp hm⟩

/-! ### Owners of pages and contexts -/

/-- 02 R74: an unlocked page takes the owner and the lock; a locked one takes a write that clears the lock. -/
theorem State.ownerWrite_pf {p : PageId} {k : Nat} {v : Word} (hk : slotOf p.blk p.inst = k)
    (hl : (s.page k).locked = false ∨ bitsOf v 8 1 = 0) :
    s.ownerWrite (.pcie 0) p v = s.setPage k { s.page k with
      ownerCtx := if ownable p.blk then BitVec.ofNat 8 (bitsOf v 0 8) else (s.page k).ownerCtx,
      locked := bitsOf v 8 1 == 1 } := by
  have h : ¬ ((s.page k).locked = true ∧ (bitsOf v 8 1 == 1) = true) := by
    rintro ⟨h1, h2⟩
    obtain hl | hl := hl
    · exact absurd (hl.symm.trans h1) (by decide)
    · exact absurd (hl.symm.trans (beq_iff_eq.mp h2)) (by decide)
  unfold State.ownerWrite
  rw [hk, if_neg (by simp [senderFunc]), if_neg h]

theorem bitsOf_lt (v : Word) (lo w : Nat) : bitsOf v lo w < 2 ^ w := Nat.mod_lt _ (by positivity)

/-- The number of contexts that a function has. -/
def State.ctxCount (s : State) (fn : Nat) : Nat := ((List.range 256).filter fun m => s.ctxFunc m == fn).length

/-- A list without repetitions has at most one more element that meets a test that differs at one place. -/
theorem length_filter_le_succ {l : List Nat} (hl : l.Nodup) {p q : Nat → Bool} {n : Nat} (h : ∀ m, m ≠ n → q m = p m) :
    (l.filter q).length ≤ (l.filter p).length + 1 := by
  have hq : ∀ m ∈ l, q m = true → (p m || m == n) = true := fun m _ hm => by
    by_cases e : m = n
    · simp [e]
    · simp [← h m e, hm]
  have hone : l.countP (· == n) ≤ 1 := List.nodup_iff_count_le_one.mp hl n
  have hor : ∀ l : List Nat, l.countP (fun m => p m || m == n) ≤ l.countP p + l.countP (· == n) := fun l => by
    induction l with
    | nil => simp
    | cons x r ih =>
      simp only [List.countP_cons]
      cases p x <;> cases x == n <;> simp <;> omega
  rw [← List.countP_eq_length_filter, ← List.countP_eq_length_filter]
  calc l.countP q ≤ l.countP (fun m => p m || m == n) := List.countP_mono_left hq
    _ ≤ l.countP p + l.countP (· == n) := hor l
    _ ≤ l.countP p + 1 := Nat.add_le_add_left hone _

/-- The registers of HOST.CTX_FUNC hold a context's function each, in four bits. -/
theorem State.ctxFunc_setFld (s : State) (n m fn : Nat) (hf : fn < 16) :
    (s.setFld (ro .host 0 (0x800 + n / 4 * 4)) (n % 4 * 8) 4 fn).ctxFunc m = if m = n then fn else s.ctxFunc m := by
  unfold State.ctxFunc
  by_cases e : m = n
  · subst e
    rw [State.fld_setFld _ _ _ _ _ (by omega), if_pos rfl]
    exact Nat.mod_eq_of_lt hf
  · rw [if_neg e]
    by_cases w : m / 4 = n / 4
    · rw [w, State.fld_setFld_apart _ _ _ _ _ _ _ (by omega) (by omega)]
    · exact State.fld_setFld_other _ _ _ _ _ _ (by simp only [ro]; omega)

/-- The states of the contexts stand in pages of their own. -/
theorem State.ctxState_setFld_host (s : State) (n m fn : Nat) (hn : n < 256) :
    (s.setFld (ro .host 0 (0x800 + n / 4 * 4)) (n % 4 * 8) 4 fn).ctxState m = s.ctxState m :=
  State.fld_setFld_other _ _ _ _ _ _ (by simp only [cr, ro, slotOf]; omega)

/-- 02 R47: a FREE context goes to a function that has fewer than 63 others. -/
theorem State.assignCtx_ctxFunc (s : State) {n fn : Nat} (hn : n < 256) (hf : fn < 16) (hs : s.ctxState n = stFree)
    (hc : s.ctxCount fn < 63 ∨ fn = 0) (m : Nat) :
    (s.assignCtx n fn).ctxFunc m = (if m = n then fn else s.ctxFunc m) ∧ (s.assignCtx n fn).ctxState m = s.ctxState m := by
  have hle : ((List.range 256).filter fun m => m != n && s.ctxFunc m == fn).length ≤ s.ctxCount fn := by
    rw [State.ctxCount, ← List.countP_eq_length_filter, ← List.countP_eq_length_filter]
    exact List.countP_mono_left fun m _ h => (Bool.and_eq_true_iff.mp h).2
  unfold State.assignCtx
  dsimp only
  split
  · next h =>
    refine ⟨?_, rfl⟩
    obtain h | h | h := h
    · split
      · next e => rw [e, h]
      · rfl
    · exact absurd hs h
    · omega
  · exact ⟨State.ctxFunc_setFld s n m fn hf, State.ctxState_setFld_host s n m fn hn⟩

theorem State.assignCtx_ctxCount (s : State) {n fn : Nat} (h : ∀ m, m ≠ n → (s.assignCtx n fn).ctxFunc m = s.ctxFunc m)
    (g : Nat) : (s.assignCtx n fn).ctxCount g ≤ s.ctxCount g + 1 :=
  length_filter_le_succ List.nodup_range fun m hm => by rw [h m hm]

/-- The first `k` contexts of word `w` have their functions of `v`, all others theirs of `s`; each function has gained at
most `k`. -/
structure State.Assigned (s t : State) (w : Nat) (v : Word) (k : Nat) : Prop where
  func : ∀ m, t.ctxFunc m = if m / 4 = w ∧ m % 4 < k then bitsOf v (8 * (m % 4)) 4 else s.ctxFunc m
  state : ∀ m, t.ctxState m = s.ctxState m
  count : ∀ g, t.ctxCount g ≤ s.ctxCount g + k

theorem State.Assigned.succ {t : State} {w k : Nat} {v : Word} (h : s.Assigned t w v k) (hw : w < 64) (hk : k < 4)
    (hs : s.ctxState (w * 4 + k) = stFree) (hc : ∀ g, s.ctxCount g ≤ 59 ∨ g = 0) :
    s.Assigned (t.assignCtx (w * 4 + k) (bitsOf v (8 * k) 4)) w v (k + 1) := by
  have hroom : t.ctxCount (bitsOf v (8 * k) 4) < 63 ∨ bitsOf v (8 * k) 4 = 0 := by
    have h1 := h.count (bitsOf v (8 * k) 4)
    obtain h2 | h2 := hc (bitsOf v (8 * k) 4)
    · exact .inl (by omega)
    · exact .inr h2
  have step := State.assignCtx_ctxFunc t (n := w * 4 + k) (by omega) (bitsOf_lt v (8 * k) 4) ((h.state _).trans hs) hroom
  refine ⟨fun m => ?_, fun m => (step m).2.trans (h.state m), fun g => ?_⟩
  · rw [(step m).1, h.func m]
    by_cases e : m = w * 4 + k
    · have e1 : m / 4 = w := by omega
      have e2 : m % 4 = k := by omega
      rw [if_pos e, if_pos ⟨e1, by omega⟩, e2]
    · rw [if_neg e]
      exact if_congr (by omega) rfl rfl
  · have h1 := State.assignCtx_ctxCount t (fun m hm => (step m).1.trans (if_neg hm)) g
    have h2 := h.count g
    omega

/-- A word of HOST.CTX_FUNC assigns its four contexts. -/
theorem State.ctxFuncWord_assigned {w : Nat} (v : Word) (hw : w < 64) (hs : ∀ i < 4, s.ctxState (w * 4 + i) = stFree)
    (hc : ∀ g, s.ctxCount g ≤ 59 ∨ g = 0) : s.Assigned (s.ctxFuncWord w v) w v 4 := by
  have h0 : s.Assigned s w v 0 := ⟨fun m => (if_neg (by omega)).symm, fun _ => rfl, fun _ => Nat.le_refl _⟩
  have h1 := h0.succ hw (by decide) (hs 0 (by decide)) hc
  have h2 := h1.succ hw (by decide) (hs 1 (by decide)) hc
  have h3 := h2.succ hw (by decide) (hs 2 (by decide)) hc
  exact h3.succ hw (by decide) (hs 3 (by decide)) hc

/-- The words of HOST.CTX_FUNC are no pairs, and an unlocked HOST page ignores no write. -/
theorem State.wordEffect_ctxFunc {w : Nat} (v : Word) (hw : w < 64) (hl : (s.page 0x100).locked = false) :
    s.wordEffect (.pcie 0) ⟨.host, 0⟩ (0x800 + w * 4) none v = s.ctxFuncWord w v := by
  have hpair : isPairLow .host (0x800 + w * 4) = false ∧ isPairLow .host (0x800 + w * 4 - 4) = false := by
    interval_cases w <;> decide
  have hro : ro .host 0 (0x800 + w * 4) / 0x1000 = 0x100 := by simp only [ro, slotOf]; omega
  have hign : s.ignores (.pcie 0) ⟨.host, 0⟩ (0x800 + w * 4) = none := by
    simp [State.ignores, State.lockedAt, hro, hl]
  have hlt : ¬ 0x800 + w * 4 < 0x40 := by omega
  have hne : ¬ 0x800 + w * 4 = 0x58 := by omega
  have hin : 0x800 ≤ 0x800 + w * 4 ∧ 0x800 + w * 4 < 0x900 := by omega
  have hdiv : (0x800 + w * 4 - 0x800) / 4 = w := by omega
  simp only [State.wordEffect, if_neg hlt, hpair, hign, State.blockWord, State.hostWord, if_neg hne, if_pos hin, hdiv]
  simp

/-- Settles O10. -/
theorem ownersOfPagesAndContexts : Obligations.OwnersOfPagesAndContexts := by
  refine ⟨fun slot a p v s hp h hl => ?_, fun w v s h hl hs hc => ?_⟩
  · have he : s.hostWrite (.pcie 0) (slot * 0x1000 + 0x24) none v = s.ownerWrite (.pcie 0) p v := by
      rw [State.hostWrite_lands v h hp, show (slot.val * 0x1000 + 0x24) % 0x1000 = 0x24 by omega]
      rfl
    refine completes_next (t := s.ownerWrite (.pcie 0) p v) (congrArg Host.Outcome.next he) ?_
    rw [State.ownerWrite_pf (slotOf_pageAt _ _ hp) hl]
    exact ⟨State.page_setPage_same _ _ _, rfl⟩
  · have hdiv : ro .host 0 (0x800 + w * 4) / 0x1000 = 0x100 := by simp only [ro, slotOf]; omega
    have hmod : ro .host 0 (0x800 + w * 4) % 0x1000 = 0x800 + w * 4 := by simp only [ro, slotOf]; omega
    have hp : pageAt (ro .host 0 (0x800 + w * 4) / 0x1000) = some ⟨.host, 0⟩ := by rw [hdiv]; decide
    have he : s.hostWrite (.pcie 0) (ro .host 0 (0x800 + w * 4)) none v = s.ctxFuncWord w v := by
      rw [State.hostWrite_lands v h hp, hmod, State.wordEffect_ctxFunc v w.isLt hl]
    refine completes_next (t := s.ctxFuncWord w v) (congrArg Host.Outcome.next he) fun n => ?_
    have ha := State.ctxFuncWord_assigned v w.isLt (fun i hi => hs ⟨i, hi⟩) hc
    rw [ha.func n]
    exact if_congr (by omega) rfl rfl

end Sys2Proof.Machine
end

section
/-! Start-up, resets and the reset button (O12 to O15). -/

namespace Sys2Proof.Machine

variable {s : State}

/-! ### What keeps the start-up sequencer -/

theorem State.deliver_boot (s : State) (n : Nat) (r : Rec) : (s.deliver n r).boot = s.boot := by
  unfold State.deliver
  dsimp only
  split
  · exact (State.stallIfFull_kept _ _).2.1.trans (s.putRecord_boot n r)
  · split
    · exact (State.logStall_kept _ _).2.1
    · split
      · split
        · rfl
        · rw [State.raise_boot]; rfl
      · rfl

theorem State.resetNotices_boot (s : State) : s.resetNotices.boot = s.boot := by
  unfold State.resetNotices
  dsimp only
  split
  · refine List.foldlRecOn (motive := fun t : State => t.boot = s.boot) _ _ rfl fun t ht n _ => ?_
    split
    · exact ht
    · split
      · exact (State.deliver_boot _ _ _).trans ht
      · exact ht
  · rfl

/-! ### Requests for a reset -/

theorem State.restarts_withBoot {t : State} {kind : ResetKind} {last : Nat} (h : t.restarts kind last) {f : Boot → Boot}
    (hr : (f t.boot).running = t.boot.running) (hh : (f t.boot).held = t.boot.held) :
    (t.withBoot f).restarts kind last := by
  obtain ⟨h1, h2, h3, h4, h5⟩ := h
  exact ⟨hr.trans h1, hh.trans h2, h3, h4, h5⟩

theorem State.canReset_congr {s t : State} (h : t.boot = s.boot) : t.canReset = s.canReset := by
  simp [State.canReset, h]

/-- 03 R105: no reset runs, so the one requested does; a soft one where the package was READY. -/
theorem State.resolve_idle {asked : ResetKind} (last : Nat) (hr : s.boot.running = none)
    (hw : asked = .soft → s.boot.wasReady = true) : s.resolve asked last = some (asked, last) := by
  unfold State.resolve
  rw [hr]
  cases asked
  case soft => simp [hw rfl]
  all_goals rfl

theorem State.request_restarts {kind : ResetKind} {last : Nat} (notices : Bool) (hl : last < 8)
    (hc : s.canReset = true) (hr : s.boot.running = none) (hw : kind = .soft → s.boot.wasReady = true) :
    (s.request kind last notices).restarts kind last := by
  have haon : s.boot.aonUp = true := by
    simp only [State.canReset, Bool.and_eq_true] at hc
    exact hc.1.1.1
  obtain ⟨u, hu, hboot⟩ : ∃ u : State,
      u = (if notices ∧ kind ≠ .cold then s.resetNotices else s).raise 0x0005 0x0011 [.w kind.code] ∧ u.boot = s.boot := by
    refine ⟨_, rfl, ?_⟩
    rw [State.raise_boot]
    split
    · exact s.resetNotices_boot
    · rfl
  have hcu : u.canReset = true := (State.canReset_congr hboot).trans hc
  have hres : u.resolve kind last = some (kind, last) :=
    State.resolve_idle last (hboot ▸ hr) fun e => hboot ▸ hw e
  unfold State.request
  simp only [haon, ← hu, hcu, hres, Bool.not_true, Bool.false_eq_true, if_false]
  exact State.restarts_withBoot (State.beginReset_restarts u kind last hl) rfl rfl

/-! ### O12: REFCLK returns while a recovery reset is due -/

/-- The package with its rails good and the always-on island up, whose REFCLK is lost while a recovery reset is due: what
`execRefclkLoss` leaves of a recovery that ran (03 R84, R105). -/
def recoveryDue : State :=
  { State.reset with boot := { State.reset.boot with
      pg := 0xFF, aonUp := true, refclk := false, refLost := true, held := true, running := some .recovery } }

theorem exec_refclkReturn (hclk : s.boot.refclk = false) (haon : s.boot.aonUp = true) (hpg : s.boot.pg = 0xFF)
    (hfatal : s.boot.fatal = false) (htrip : s.boot.tripped = false) :
    exec .refclkReturn s =
      .next (s.withBoot fun b => { b with refclk := true, refLost := false, aonSince := s.now }).clockReset := by
  show execRefclkReturn s = _
  simp [execRefclkReturn, hclk, haon, hpg, hfatal, htrip]

/-- A recovery reset that is due begins when the clock is back (03 R105). -/
theorem State.clockReset_recovery (hrun : s.boot.running = some .recovery) :
    s.clockReset.boot.running = some .recovery := by
  unfold State.clockReset
  rw [hrun]
  exact (State.restarts_withBoot (State.beginReset_restarts (s.raise 0x0005 0x0011 [.w 1]) .recovery 6 (by decide))
    rfl rfl).1

/-- Refutes O12: its clause on REFCLK's return asks for a warm reset wherever no cold one runs, but a recovery reset that is
due is begun instead. -/
theorem not_railsClockAndPhases : ¬ Obligations.RailsClockAndPhases := by
  rintro ⟨h, -⟩
  obtain ⟨-, -, -, -, -, -, href, -, -⟩ := h recoveryDue
  obtain ⟨t, ht, hwarm, -⟩ := href rfl rfl rfl rfl rfl (by decide)
  obtain rfl := Host.Outcome.next.inj ((exec_refclkReturn (s := recoveryDue) rfl rfl rfl rfl rfl).symm.trans ht)
  exact absurd (hwarm.symm.trans (State.clockReset_recovery rfl)) (by decide)

/-! ### O13 -/

@[simp] theorem State.phaseEnds_boot (s : State) (n next : Nat) :
    (s.phaseEnds n next).boot = { s.boot with phaseAt := s.now } := by
  simp [State.phaseEnds, State.setPhase]

@[simp] theorem State.degraded_boot (s : State) : s.degraded.boot = s.boot := rfl

/-- Where the item leaves the sequencer: it is done, the SerDes' own marks are set, and only the phase's time may change. -/
theorem State.itemDone_boot (s : State) (item : Nat) : ∃ at', (s.itemDone item).boot =
    { s.boot with calDone := s.boot.calDone ++ [item], phaseAt := at',
                  serdesDone := if item = 0 then true else s.boot.serdesDone,
                  serdesAt := if item = 0 then s.now else s.boot.serdesAt } := by
  have tail : ∀ u : State, ∃ at', (if u.bootPhase = 4 ∧ (List.range 14).all (fun i => u.boot.calDone.contains i) then
      let fast := u.boot.calFull.isEmpty && u.fld (calA 0x44) 0 14 == 0x3FFF
      let u := u.phaseEnds 4 5
      let u := if u.p4Exit then u else u.setSt 4 1 (if fast then 1 else 0)
      if u.stFld 16 4 = 0 then u else u.degraded
    else u).boot = { u.boot with phaseAt := at' } := fun u => by
    split
    · exact ⟨u.now, by simp [apply_ite State.boot]⟩
    · exact ⟨_, rfl⟩
  unfold State.itemDone
  obtain ⟨at', h⟩ := tail (if item = 0 then (s.withBoot fun b => { b with calDone := b.calDone ++ [item] }).withBoot fun b =>
    { b with serdesDone := true, serdesAt := s.now } else s.withBoot fun b => { b with calDone := b.calDone ++ [item] })
  refine ⟨at', h.trans ?_⟩
  by_cases h0 : item = 0 <;> simp [h0]

/-- A list of records put one after another is there. -/
theorem look?_foldl_put {α : Type} (l : List Nat) (r : α) (t : Tbl α) (i : Nat) :
    (l.foldl (fun t i => t.put i r) t).look? i = if i ∈ l then some r else t.look? i := by
  induction l generalizing t with
  | nil => rfl
  | cons x l ih =>
    rw [List.foldl_cons, ih, Tbl.look?_put]
    by_cases h : i ∈ l
    · simp [h]
    · simp [h, eq_comm]

/-- Settles O13. -/
theorem calibrationItems : Obligations.CalibrationItems := by
  refine fun s => ⟨fun hp item hd => ⟨?_, fun hf => ?_⟩, fun hp hd => ?_, fun hr hb => ?_⟩
  · have he : s.itemEnds item true = s.itemDone item := by
      simp only [State.itemEnds, hp, hd]
      simp
    obtain ⟨at', h⟩ := s.itemDone_boot item
    exact completes_next (congrArg Host.Outcome.next he) (by rw [h])
  · refine congrArg Host.Outcome.next ?_
    simp only [State.itemEnds, hp, hd, hf, Bool.true_or, Bool.not_true, Bool.false_eq_true, or_self, if_false,
      Bool.not_false, if_true, Bool.and_eq_true, List.isEmpty_iff]
    split
    · simp [State.withBoot]
    · rfl
  · have hp' : (s.inPhase 4 || s.inPhase 3) = true := by simpa using hp
    have he : s.itemEnds 0 true = s.itemDone 0 := by
      simp only [State.itemEnds, hd]
      simp [hp']
    obtain ⟨at', h⟩ := s.itemDone_boot 0
    exact completes_next (congrArg Host.Outcome.next he) (by rw [h]; exact ⟨rfl, rfl⟩)
  · have hx : exec .calRecordsSaved s = execCalRecordsSaved s := rfl
    simp only [execCalRecordsSaved, hr, hb, Bool.not_true, Bool.false_eq_true, or_self, if_false] at hx
    refine completes_next hx ⟨rfl, rfl, fun i hi => ?_⟩
    exact (look?_foldl_put _ _ _ _).trans (if_pos hi)

/-! ### O14 -/

/-- A message is sent where its vector is open. -/
theorem State.sendMsi_open {fn vec : Nat} (h : s.host.vecOpen.look false (vecKey fn vec) = true) :
    s.sendMsi fn vec = { s with host := { s.host with
      vecSent := s.host.vecSent.put (vecKey fn vec) (s.host.vecSent.look 0 (vecKey fn vec) + 1),
      vecLast := s.host.vecLast.put (vecKey fn vec) s.gts } } := if_pos h

/-- A link of the first port that trains (03 R86, R87). -/
theorem exec_pcieLinkUp {b : Fin 10} {v : Fin 9} (hp : s.boot.perst = false) (hd : s.boot.serdesDone = true)
    (hh : s.boot.held = false) (hf : s.boot.fatal = false) : exec (.pcieLinkUp ⟨0, b, v⟩) s =
      .next { (s.setFld (ro .host 0 0x60) 1 1 1).setPcieUp true with
        pins := { s.pins with wakeN := true }, host := { s.host with bar4Log := 28 + b, vfBar4Log := 26 + v } } := by
  show execPcieLinkUp ⟨0, b, v⟩ s = _
  simp [execPcieLinkUp, hp, hd, hh, hf]

/-- Settles O14. -/
theorem pciePinsAndVectors : Obligations.PciePinsAndVectors := by
  refine fun s => ⟨fun hp hst hr haon hc hrun => ?_, fun hp => ?_, fun hp hd hh hf b v => ?_, fun fn v hv => ?_⟩
  · obtain ⟨u, hu⟩ : ∃ u : State, u = s.withBoot fun b => { b with perst := true } := ⟨_, rfl⟩
    have hx : exec .perstAssert s = .next (u.request .warm 1 false) := by
      have h4 : u.pst ≠ 4 := by rw [hu]; exact hst
      have hready : u.ready = true := by rw [hu]; exact hr
      show execPerstAssert s = _
      simp only [execPerstAssert, hp, ← hu, h4, hready, Bool.false_eq_true, false_and, if_false, if_true]
    refine completes_next hx (State.request_restarts false (by decide) ?_ ?_ nofun)
    · rw [hu]; exact hc
    · rw [hu]; exact hrun
  · refine ⟨_, rfl, ?_⟩
    simp [hp]
  · refine completes_next (exec_pcieLinkUp hp hd hh hf) ⟨?_, ?_, rfl, rfl, rfl⟩
    · exact State.stFld_setSt _ _ _ _ (by decide)
    · refine beq_iff_eq.mpr ((State.fld_setFld_other (s.setFld (ro .host 0 0x60) 1 1 1) 13 1 1 1 1 (by decide)).trans ?_)
      exact s.fld_setFld _ _ _ _ (by decide)
  · obtain ⟨u, hu⟩ : ∃ u : State, u = { s with host := { s.host with
        vecOpen := s.host.vecOpen.put (vecKey fn v) true, vecPending := s.host.vecPending.put (vecKey fn v) false } } :=
      ⟨_, rfl⟩
    have hopen : u.host.vecOpen.look false (vecKey fn v) = true := by rw [hu]; exact Tbl.look_put_same _ _ _ _
    have hpend : u.host.vecPending.look false (vecKey fn v) = false := by rw [hu]; exact Tbl.look_put_same _ _ _ _
    have hsent : u.host.vecSent = s.host.vecSent := by rw [hu]
    have hx : exec (.msixVectorUnmasked fn v) s =
        .next (if s.host.vecPending.look false (vecKey fn v) then u.sendMsi fn v else u) := by
      show execMsixVectorUnmasked fn v s = _
      have hmasked : ¬ (fn.val ≠ 0 ∧ 64 ≤ v.val) := by omega
      simp only [execMsixVectorUnmasked, if_neg hmasked, ← hu]
    refine completes_next hx ?_
    split
    · rw [State.sendMsi_open hopen]
      exact ⟨hopen, hpend, by simp [hsent]⟩
    · exact ⟨hopen, hpend, by rw [hsent]; rfl⟩

/-! ### O15 -/

/-- The keyed write of MGMT.RST_CMD (03 R111). -/
theorem State.ownWrite_rstCmd {snd : Sender} (v : Word) (hs : snd = .pcie 0 ∨ snd = .i3c) (h : s.ownTakes rstCmdA)
    (hk : bitsOf v 16 16 = 0xB007) : s.ownWrite snd rstCmdA v = s.rstCmd (bitsOf v 0 3) := by
  obtain ⟨href, hlock, hfifo, hreset⟩ := h
  have hwin : isRecordWindow (rstCmdA / 0x1000) = false := by decide
  have hreach : s.reachPf rstCmdA 4 true = .word rstCmdA := by simp [State.reachPf, href, hwin]
  have hlands : s.lands snd rstCmdA 4 rstCmdA := by
    refine ⟨?_, hfifo, hreset⟩
    obtain rfl | rfl := hs
    · exact hreach
    · have hmgmt : rstCmdA < 0x100000 := by decide
      unfold State.reach
      simp only [hmgmt, if_true, hreach]
  have hp : pageAt (rstCmdA / 0x1000) = some ⟨.mgmt, 0⟩ := by decide
  have hown : senderFunc snd = 0 ∨ snd = .i3c := by
    obtain rfl | rfl := hs
    · exact .inl rfl
    · exact .inr rfl
  have hign : s.ignores snd ⟨.mgmt, 0⟩ 0x48 = none := by
    have h0 : ro .mgmt 0 0x48 = rstCmdA := rfl
    simp [State.ignores, h0, hlock]
  have hoff : rstCmdA % 0x1000 = 0x48 := by decide
  have hlow : isPairLow .mgmt 0x48 = false ∧ isPairLow .mgmt (0x48 - 4) = false := by decide
  unfold State.ownWrite
  rw [if_pos hown, State.hostWrite_lands v hlands hp, hoff]
  simp [State.wordEffect, hlow, hign, State.blockWord, State.mgmtWord, hk]

theorem State.restarts_setFld {t : State} {kind : ResetKind} {last : Nat} (h : t.restarts kind last) {a : Nat}
    (lo w n : Nat) (ha : a ≠ stA) : (t.setFld a lo w n).restarts kind last := by
  have hst : ∀ l2 w2, (t.setFld a lo w n).stFld l2 w2 = t.stFld l2 w2 := fun l2 w2 => t.stFld_setFld_other lo w n l2 w2 ha
  obtain ⟨h1, h2, h3, h4, h5⟩ := h
  refine ⟨h1, h2, (hst 1 3).trans h3, ?_, (hst 20 3).trans h5⟩
  rw [State.ready_eq, hst, ← State.ready_eq]
  exact h4

/-- 04 R120: the FLR of a PF that was READY is a soft reset, which HOST.FLR_STAT shows. -/
theorem exec_pfFlr (hc : s.canReset = true) (hr : s.boot.running = none) (hw : s.boot.wasReady = true) :
    exec .pfFlr s = .next ((s.request .soft 4 false).setFld flrA 0 1 1) := by
  have hsoft := (State.request_restarts (s := s) (kind := .soft) (last := 4) false (by decide) hc hr fun _ => hw).1
  show execPfFlr s = _
  simp [execPfFlr, hw, hsoft]

/-- The hold of the button is a matter of the time and of the sequencer's marks. -/
theorem State.holdTime_congr {s t : State} (hn : t.now = s.now) (hb : t.boot = s.boot) : t.holdTime = s.holdTime := by
  simp [State.holdTime, hn, hb]

/-- A release of a counted press that ends before the hold is stuck. -/
theorem exec_rstBtnRelease (haon : s.boot.aonUp = true) (hl : s.bit btnA 2 = true) (hb : s.btnState = 1)
    (ht : s.holdTime < 30000000000) : exec .rstBtnRelease s =
      .next (if s.holdTime < 4000000000 then ((s.setLevel false).setBtn 0).request .warm 2 true
        else if s.holdTime ≤ 15000000000 then ((s.setLevel false).setBtn 0).request .recovery 6 true
        else ((s.setLevel false).setBtn 0).raise 0x0005 0x1015 []) := by
  have hl' : s.fld btnA 2 1 ≠ 0 := by
    have := beq_iff_eq.mp hl
    omega
  have hst : (s.setLevel false).btnState = 1 := (s.fld_setFld_apart btnA 2 1 0 0 2 (by decide) (by decide)).trans hb
  have hhold : (s.setLevel false).holdTime = s.holdTime := State.holdTime_congr rfl rfl
  have h30 : ¬ 30 * sec ≤ s.holdTime := by simp only [sec]; omega
  show execRstBtnRelease s = _
  simp only [execRstBtnRelease, haon, hl', hst, hhold, Bool.not_true, Bool.false_eq_true, false_or, if_false, if_neg h30]
  simp only [sec]
  norm_num
  split
  · rfl
  · split <;> rfl

/-- Settles O15. -/
theorem resetRequestsAndButton : Obligations.ResetRequestsAndButton := by
  refine ⟨fun snd s hs h haon hc hr hw => ⟨?_, ?_, ?_, ?_, ?_⟩, fun s => ⟨fun haon hdis hb => ?_,
    fun haon hl hb hc hr => ⟨fun ht => ?_, fun ht ht' => ?_, fun ht ht' => ?_⟩, fun hb ht hpg => ?_, fun n hn hb ht => ?_⟩⟩
  · exact completes_next (congrArg Host.Outcome.next (State.ownWrite_rstCmd _ hs h (by decide)))
      (State.request_restarts true (by decide) hc hr nofun)
  · exact completes_next (congrArg Host.Outcome.next (State.ownWrite_rstCmd _ hs h (by decide)))
      (State.request_restarts true (by decide) hc hr fun _ => hw)
  · exact completes_next (congrArg Host.Outcome.next (State.ownWrite_rstCmd _ hs h (by decide)))
      (State.request_restarts true (by decide) hc hr nofun)
  · exact completes_next (congrArg Host.Outcome.next (State.ownWrite_rstCmd _ hs h (by decide)))
      (State.request_restarts false (by decide) hc hr nofun)
  · exact completes_next (exec_pfFlr hc hr hw)
      ⟨State.restarts_setFld (State.request_restarts false (by decide) hc hr fun _ => hw) _ _ _
          (show flrA ≠ stA by decide),
        beq_iff_eq.mpr (State.fld_setFld _ _ _ _ _ (by decide))⟩
  · have hdis' : (s.setLevel true).btnDisabled = false := by
      refine (congrArg (· == 1) (s.fld_setFld_other (b := ro .rst 0 0x44) 2 1 1 0 1 (by decide))).trans hdis
    have hb' : (s.setLevel true).btnState = 0 := (s.fld_setFld_apart btnA 2 1 1 0 2 (by decide) (by decide)).trans hb
    have hx : exec .rstBtnPress s = .next (((s.setLevel true).setBtn 1).withBoot fun b => { b with btnSince := s.now }) := by
      show execRstBtnPress s = _
      simp only [execRstBtnPress, haon, hdis', hb', Bool.not_true, Bool.false_eq_true, if_false, if_true]
      rfl
    refine completes_next hx ⟨?_, rfl, ?_⟩
    · exact State.fld_setFld _ _ _ _ _ (by decide)
    · refine beq_iff_eq.mpr ((State.fld_setFld_apart (s.setLevel true) btnA 0 2 1 2 1 (by decide) (by decide)).trans ?_)
      exact State.fld_setFld _ _ _ _ _ (by decide)
  · refine completes_next (exec_rstBtnRelease haon hl hb (by omega)) ?_
    rw [if_pos ht]
    exact State.request_restarts true (by decide) hc hr nofun
  · refine completes_next (exec_rstBtnRelease haon hl hb (by omega)) ?_
    rw [if_neg (by omega), if_pos ht']
    exact State.request_restarts true (by decide) hc hr nofun
  · refine completes_next (exec_rstBtnRelease haon hl hb ht') ?_
    rw [if_neg (by omega), if_neg (by omega)]
    refine ⟨?_, State.raise_logged _ _ _ _ _ _⟩
    exact (State.raise_fld _ _ _ _ _ _ _ _ (by decide) (by decide)).trans (State.fld_setFld _ _ _ _ _ (by decide))
  · have hx : exec .buttonStuck s = .next s.stuck := if_pos ⟨hb, by simpa [sec] using ht, hpg⟩
    refine completes_next hx ⟨?_, ?_, State.raise_logged _ _ _ _ _ _⟩
    · refine (State.raise_fld _ _ _ _ _ _ _ _ (by decide) (by decide)).trans ?_
      exact (State.fld_setFld_other (s.setBtn 2) 7 1 1 0 2 (by decide)).trans (State.fld_setFld _ _ _ _ _ (by decide))
    · exact (State.raise_stFld _ _ _ _ _ _ _ _).trans (State.stFld_setSt _ _ _ _ (by decide))
  · have hx : exec .btnUnmask s =
        .next (((s.setBtn 0).setSt 7 1 0).withBoot fun b => { b with btnReleasedAt := none }) := by
      show execBtnUnmask s = _
      simp [execBtnUnmask, hn, hb, sec, ht]
    refine completes_next hx ⟨?_, ?_, rfl⟩
    · exact (State.fld_setFld_other (s.setBtn 0) 7 1 0 0 2 (by decide)).trans (State.fld_setFld _ _ _ _ _ (by decide))
    · exact State.stFld_setSt (s.setBtn 0) _ _ _ (by decide)

end Sys2Proof.Machine
end

section
/-! Contexts and rings: OPEN of a context that is owed a notice (O16), doorbells and fetches (O17). -/

namespace Sys2Proof.Machine

/-! ### O16: a FREE context that still owes its host the record of a lost notice -/

/-- In service. Context 255 is FREE with valid rings and an empty reservation, and one notice found no place while it was
open: `Ctx.freed` keeps that count (04 R125). -/
def owedNotice : State :=
  { (State.reset.setReady true).wr (cr 255 0x10C) 0 with
    boot := { State.reset.boot with pg := 0xFF, aonUp := true, refclk := true, held := false, perst := false }
    ctxs := [(255, { Ctx.reset with lostNotices := 1 })] }

theorem owedNotice_ownTakes : owedNotice.ownTakes (cr 255 0x44) := by decide +kernel

/-- The OPEN meets the premises of O16. -/
theorem owedNotice_admitted : owedNotice.ctxState 255 = stFree ∧ owedNotice.ringsValid 255 = true ∧
    ((owedNotice.wr (cr 255 0x124) (owedNotice.rd (ro .sbox 0 0x60))).setCtx 255
      { owedNotice.ctx 255 with admitted := true }).admTest 255 = (0, 0) := by decide +kernel

theorem State.cqFull_eq_false {s : State} {n : Nat} :
    s.cqFull n = false ↔ (s.cqTail n - s.cqSeen n).toNat < 2 ^ s.cqSize n := by
  rw [State.cqFull, decide_eq_false_iff_not, Nat.not_le]

/-- CQ_TAIL is no register of the recorder. -/
theorem State.cqTail_of_rd {s t : State} {n : Nat}
    (h : ∀ a, a ≠ ro .evr 0 0x60 → a ≠ ro .evr 0 0x58 → t.rd a = s.rd a) : t.cqTail n = s.cqTail n :=
  h _ (by simp only [cr, ro, slotOf]; omega) (by simp only [cr, ro, slotOf]; omega)

@[simp] theorem State.cqTail_setCtx (s : State) (n m : Nat) (c : Ctx) : (s.setCtx n c).cqTail m = s.cqTail m := by
  simp [State.cqTail, State.rd]

/-- A context that holds nothing back delivers nothing. -/
theorem State.drainHeld_nothing {u : State} {n : Nat} (hl : (u.ctx n).lostNotices = 0) (hh : (u.ctx n).held = [])
    (k : Nat) : (u.drainHeld n k).cqTail n = u.cqTail n := by
  cases k with
  | zero => rfl
  | succ k =>
    unfold State.drainHeld
    split
    · rfl
    · simp only [hl, hh, Nat.lt_irrefl, if_false]
      exact State.cqTail_setCtx _ _ _ _

/-- With the record of lost notices written and nothing else held, no more is delivered. -/
theorem State.drainHeld_settled {w : State} {n : Nat} (hh : (w.ctx n).held = []) (k : Nat) :
    (((w.setCtx n { w.ctx n with lostNotices := 0 }).stallIfFull n).drainHeld n k).cqTail n = w.cqTail n := by
  obtain ⟨⟨b, hctx⟩, -, hrd⟩ := (w.setCtx n { w.ctx n with lostNotices := 0 }).stallIfFull_kept n
  rw [State.ctx_setCtx_same] at hctx
  rw [State.drainHeld_nothing (by rw [hctx]) (by rw [hctx]; exact hh), State.cqTail_of_rd hrd, State.cqTail_setCtx]

/-- The record of lost notices is the first to be delivered (04 R125). -/
theorem State.drainHeld_lost {u : State} {n : Nat} (hfull : u.cqFull n = false) (hl : 0 < (u.ctx n).lostNotices)
    (hh : (u.ctx n).held = []) (k : Nat) : (u.drainHeld n (k + 1)).cqTail n = u.cqTail n + 1 := by
  unfold State.drainHeld
  simp only [hfull, Bool.false_eq_true, if_false, if_pos hl]
  generalize hv : u.setCtx n { u.ctx n with stallLogged := false, overflowLogged := false } = v
  have hvtail : v.cqTail n = u.cqTail n := by rw [← hv, State.cqTail_setCtx]
  have hvheld : (v.ctx n).held = [] := by rw [← hv, State.ctx_setCtx_same]; exact hh
  obtain ⟨htail, hctx⟩ := v.putRecord_lost n (lostNotice v n) rfl
  rw [State.drainHeld_settled (by rw [hctx]; exact hvheld), htail, hvtail]

/-- The state in which an accepted OPEN raises CTX_OPENED (04 R116). -/
def State.opened (s : State) (n : Nat) : State :=
  let us := (s.rd (cr n 0x104)).toNat
  let s := s.zeroRings n
  let s := s.setCtx n { (s.ctx n).freed with admitted := true, periodAt := s.gts, heldWholePeriod := true, phase := true }
  let s := ((s.wr (cr n 0x9C) 0).wr (cr n 0xC0) 0).wr (cr n 0xC4) 0
  let s := ((s.wr (cr n 0x134) 0).wr (cr n 0x138) 0).wr (cr n 0x13C) 0
  let s := s.setFld (cr n 0x120) 0 4 0
  let s := s.wr (cr n 0x130) (BitVec.ofNat 32 (s.fld (cr n 0x10C) 0 7 * (s.rd (cr n 0x108)).toNat))
  let s := s.wr64 (cr n 0x128) (if us = 0 then 0 else BitVec.ofNat 64 (s.gts + us * 1000))
  s.setCtxState n stOpen

/-- The OPEN ends with the delivery of what the context holds. -/
theorem State.openAccepted_eq (s : State) (n load : Nat) : ∃ data k, s.openAccepted n load =
    (((s.opened n).raise 0x1100 0x01C0 data n).drainHeld n (k + 1)).evalAdmission 8 := by
  unfold State.openAccepted State.opened
  exact ⟨_, _, rfl⟩

theorem State.openAccepted_cqTail {s : State} {n load : Nat} (hfull : (s.opened n).cqFull n = false)
    (hl : 0 < ((s.opened n).ctx n).lostNotices) (hh : ((s.opened n).ctx n).held = []) :
    (s.openAccepted n load).cqTail n = (s.opened n).cqTail n + 1 := by
  obtain ⟨data, k, he⟩ := s.openAccepted_eq n load
  rw [he]
  generalize s.opened n = v at hfull hl hh ⊢
  obtain ⟨w, hw⟩ : ∃ w, w = v.raise 0x1100 0x01C0 data n := ⟨_, rfl⟩
  rw [← hw]
  have hrd : ∀ o, w.rd (cr n o) = v.rd (cr n o) := fun o => by
    rw [hw]
    exact v.raise_rd _ _ _ _ _ (by simp only [cr, ro, slotOf]; omega) (by simp only [cr, ro, slotOf]; omega)
  have hctx : w.ctx n = v.ctx n := by
    rw [hw]
    simp [State.ctx]
  have hfull' : w.cqFull n = false := by
    rw [State.cqFull_eq_false] at hfull ⊢
    simpa only [State.cqSize, State.cqTail, State.cqSeen, State.fld, hrd] using hfull
  show (w.drainHeld n (k + 1)).cqTail n = _
  rw [State.drainHeld_lost hfull' (hctx ▸ hl) (hctx ▸ hh) k]
  exact congrArg (· + 1) (hrd 0x9C)

theorem pageAt_ctx : ∀ n : Fin 256, pageAt (0x200 + n) = some ⟨.ctx, n⟩ := by decide +kernel

/-- CTX_CMD.OPEN reaches `openCtx` (04 R115). -/
theorem State.pfWrite_ctxCmd {s : State} {n : Fin 256} (v : Word) (h : s.ownTakes (cr n 0x44)) :
    s.pfWrite (cr n 0x44) v = s.ctxCmd n (bitsOf v 0 3) := by
  have hdiv : cr n 0x44 / 0x1000 = 0x200 + n := by simp only [cr, ro, slotOf]; omega
  have hmod : cr n 0x44 % 0x1000 = 0x44 := by simp only [cr, ro, slotOf]; omega
  have hp : pageAt (cr n 0x44 / 0x1000) = some ⟨.ctx, n⟩ := by
    rw [hdiv]
    exact pageAt_ctx n
  have hwin : isRecordWindow (cr n 0x44 / 0x1000) = false := by
    simp only [hdiv, isRecordWindow]
    simp
    omega
  have hign : s.ignores (.pcie 0) ⟨.ctx, n⟩ 0x44 = none := by
    have h0 : s.lockedAt (ro .ctx n 0x44) = false := h.2.1
    simp [State.ignores, h0, isRingReg]
  have hlow : isPairLow .ctx 0x44 = false ∧ isPairLow .ctx (0x44 - 4) = false := by decide
  rw [State.pfWrite_takes v h hp hwin, hmod]
  simp [State.wordEffect, hlow, hign, State.blockWord, State.ctxWord]

/-- What the OPEN of `owedNotice` finds. -/
theorem owedNotice_opened :
    let v := (((owedNotice.wr (cr 255 0x124) (owedNotice.rd (ro .sbox 0 0x60))).wr (ro .sbox 0 0x60)
      (owedNotice.rd (ro .sbox 0 0x60) + 1))).opened 255
    v.cqFull 255 = false ∧ (v.ctx 255).lostNotices = 1 ∧ (v.ctx 255).held = [] ∧ v.cqTail 255 = 0 := by decide +kernel

/-- Refutes O16: its first clause has CQ_TAIL 0 after every accepted OPEN, but the OPEN of a context that is owed the record
of a lost notice puts that record into the new queue. -/
theorem not_contextLifeAndVfResets : ¬ Obligations.ContextLifeAndVfResets := by
  rintro ⟨h, -⟩
  obtain ⟨hopen, -, -, -⟩ := (h 255 owedNotice).1 owedNotice_ownTakes
  obtain ⟨hfree, hrings, hadm⟩ := owedNotice_admitted
  obtain ⟨t, ht, -, -, -, htail, -⟩ := hopen 0 hfree hrings hadm
  have hx : exec (.ctxCmdOpen 255) owedNotice = .next (owedNotice.openCtx 255) :=
    congrArg Host.Outcome.next (State.pfWrite_ctxCmd 1 owedNotice_ownTakes)
  obtain rfl := Host.Outcome.next.inj (hx.symm.trans ht)
  obtain ⟨hfull, hlost, hheld, h0⟩ := owedNotice_opened
  have h1 := State.openAccepted_cqTail (load := 0) hfull (by rw [hlost]; decide) hheld
  rw [h0] at h1
  unfold State.openCtx at htail
  simp only [hfree, hrings, hadm, ne_eq, not_true_eq_false, if_false, Bool.not_true, Bool.false_eq_true, if_true] at htail
  exact absurd (htail.symm.trans h1) (by decide)

end Sys2Proof.Machine
end

section
/-! Doorbells behind held writes (O17). -/

namespace Sys2Proof.Machine

/-- In service. Context 0 is OPEN, and the block reset of its page holds a write of the PF (02 R66), which is not in the
page's crossing FIFO any more. -/
def heldWriteBefore : State :=
  { ((State.reset.setReady true).setCtxState 0 stOpen) with
    pages := [(0x200, { Page.reset false with held := [⟨.pcie 0, 0x200004, none, 1⟩] })] }

/-- Refutes O17: the state meets its premises, which ask for empty crossing FIFOs only, but a doorbell keeps its place behind
the writes that a block reset holds, so the tail that the ring allows is not announced yet. -/
theorem not_doorbellsAndFetch : ¬ Obligations.DoorbellsAndFetch := by
  intro h
  obtain ⟨hring, -⟩ := h 0 0 0 heldWriteBefore (by decide +kernel) (by decide +kernel) (.inl rfl) (by decide +kernel)
  obtain ⟨t, ht, htail, -⟩ := hring 1 (by decide +kernel) (by decide +kernel) (by decide +kernel) (by decide +kernel)
  have hx : exec (.sqTailWrite 0 0 0 1) heldWriteBefore = .next (heldWriteBefore.doorbell ⟨0, 0, 0, 1⟩) := rfl
  obtain rfl := Host.Outcome.next.inj (hx.symm.trans ht)
  exact absurd htail (by decide +kernel)

end Sys2Proof.Machine
end

section
/-! RUN, COPY and REGION_UPDATE (O20, O21). -/

namespace Sys2Proof.Machine

/-! ### RUN and COPY (O20) -/

/-- A hold of a generation changes nothing but the list of holds (04 R146). -/
theorem State.holdRegion_eq (s : State) (r holder : Nat) : ∃ l, s.holdRegion r holder = { s with regionHolds := l } := by
  unfold State.holdRegion
  split
  · exact ⟨_, rfl⟩
  · exact ⟨s.regionHolds, rfl⟩

theorem State.holdRegions_eq (s : State) (rs : List Nat) (holder : Nat) :
    ∃ l, s.holdRegions rs holder = { s with regionHolds := l } := by
  induction rs generalizing s with
  | nil => exact ⟨s.regionHolds, rfl⟩
  | cons r rs ih =>
    obtain ⟨l, hl⟩ := s.holdRegion_eq r holder
    obtain ⟨l', hl'⟩ := ih (s.holdRegion r holder)
    exact ⟨l', show (s.holdRegion r holder).holdRegions rs holder = _ by rw [hl', hl]⟩

/-- A new gang waits at the end of the list (05 R164). -/
theorem State.newGang_queues (s : State) (n : Nat) (d : Desc) (width k : Nat) (args : List Byte)
    (members : List (Nat × Nat)) :
    ∃ g : Gang, (s.newGang n d width k args members).2.sbox.gangs = s.sbox.gangs ++ [g] ∧ g.ctx = n ∧ g.desc = d ∧
      g.phase = .waiting ∧ g.cores = [] ∧ g.prog = k ∧ g.width = width ∧ g.uid = s.uid ∧
      (s.newGang n d width k args members).2.uid = s.uid + 1 ∧ (s.newGang n d width k args members).2.mem = s.mem := by
  unfold State.newGang
  dsimp only
  obtain ⟨l, hl⟩ := State.holdRegions_eq { s with uid := s.uid + 1, sbox := { s.sbox with gangs := s.sbox.gangs ++
    [{ uid := s.uid, ctx := n, desc := d, width := width, phase := .waiting, cores := [], readyAt := s.now,
       sliceAt := s.now, decidedAt := 0, residueCycles := 0, slice := 0, replaysOfSlice := 0,
       slicesReplayed := 0, imaged := false, alternate := false, noReplay := false, replaying := false, saving := [],
       failed := none, prog := k, args := args, result := 0, arrivals := 0, generation := 0, startBarrier := (0, 0),
       members := members, images := 0, replayable := (s.progHdr k).flags % 2 == 1, live := BitVec.ofNat 24 (s.progHdr k).live,
       pairs := s.progPairs k (s.progHdr k), qrecs := s.progQrecs k (s.progHdr k), budgeted := false }] } }
    (s.progRegions k (s.progHdr k)) s.uid
  rw [hl]
  exact ⟨_, rfl, rfl, rfl, rfl, rfl, rfl, rfl, rfl, rfl, rfl⟩

/-- A line that is not poisoned in the source is not poisoned by the copy (18 R604); memory is written as by a store. -/
theorem State.copyBytes_mem (s : State) (src dst n : Nat) : (s.copyBytes src dst n).mem = memWrite s.mem dst (s.load src n) := by
  simp [State.copyBytes, State.poisonLines]

/-- Settles O20. -/
theorem runsAndCopies : Obligations.RunsAndCopies := by
  refine ⟨fun ctx sq s u d k h hc hp hk => ?_, fun ctx sq s u d h hc => ?_, fun ctx sq pos s d h hf hl hp => ?_⟩
  · have hx : exec (.run ctx sq) s = .next
        ((u.runRead d).newGang d.ctx d ((u.runRead d).runCores d) k ((u.runRead d).loadAt (d.addr 24) (d.nat 32 4)) []).2 := by
      refine congrArg Host.Outcome.next ((State.take_goes _ _ h hc).trans ?_)
      simp only [hp, hk]
    exact completes_next hx (State.newGang_queues _ _ _ _ _ _ _)
  · exact congrArg Host.Outcome.next (State.take_goes _ _ h hc)
  · refine ⟨(s.copyFirst d d.copyLen).complete d .ok (granulesOf d.copyLen) 0, ?_, State.complete_reported _ _ _ _ _, ?_⟩
    · show execCopyDone ctx sq pos s = _
      simp [execCopyDone, h, hf, hp, s.touch_of_latent hl]
    · rw [State.complete_mem, State.copyFirst, s.touch_of_latent hl, State.copyBytes_mem]

/-! ### REGION_UPDATE (O21) -/

section
variable {s : State} {j : RegionJob} {e : RegionEntry}

/-- BUSY of an entry is a store into the region table (04 R146). -/
theorem State.setRegionBusy_kept (s : State) (r b : Nat) : (s.setRegionBusy r b).regionJobs = s.regionJobs ∧
    (s.setRegionBusy r b).notices = s.notices := by
  unfold State.setRegionBusy
  split
  · exact ⟨State.store_regionJobs _ _ _, State.store_notices _ _ _⟩
  · exact ⟨rfl, rfl⟩

theorem State.setRegionGen_notices (s : State) (r : Nat) (g : Word) : (s.setRegionGen r g).notices = s.notices := by
  unfold State.setRegionGen
  split
  · exact State.store_notices _ _ _
  · rfl

theorem State.tendRegion_notices (s : State) (r : Nat) : (s.tendRegion r).notices = s.notices := by
  unfold State.tendRegion
  split
  · exact (s.setRegionBusy_kept r 0).2
  · dsimp only
    split <;> exact (s.setRegionBusy_kept r 1).2

/-- The first job of a region begins when no reader holds the generation before the current one. -/
theorem State.tendRegion_starts {r : Nat} {l : List RegionJob} (h : s.regionJobsOf r = j :: l) (hs : j.started = false)
    (hr : (s.setRegionBusy r 1).readersClear r = true) :
    ∀ x ∈ (s.tendRegion r).regionJobs, x.desc.uid = j.desc.uid → x.started = true := by
  have he : (s.tendRegion r).regionJobs = s.regionJobs.map fun x =>
      if x.desc.uid = j.desc.uid then { x with started := true } else x := by
    simp [State.tendRegion, h, hs, hr, (s.setRegionBusy_kept r 1).1]
  intro x hx hu
  obtain ⟨y, -, rfl⟩ := List.mem_map.1 (he ▸ hx)
  split at hu
  · simp_all
  · contradiction

/-- What a granule's copy keeps where nothing is poisoned or latent. -/
theorem State.copyGranule_clean (hl : s.latent = []) (hp : s.poison = []) : (s.copyGranule j e).poison = [] ∧
    (s.copyGranule j e).notices = s.notices ∧ (s.copyGranule j e).regionJobs = s.regionJobs := by
  unfold State.copyGranule
  simp only [s.touch_of_latent hl]
  split
  · simp [State.copyBytes, State.poisonLines, poisonedIn, hp, poisonAfterWrite]
  · exact ⟨hp, rfl, rfl⟩

theorem State.endUpdate_reported (s : State) (j : RegionJob) (st : Status) :
    ∃ g, (s.endUpdate j st).reported j.desc st g j.granules := ⟨_, State.complete_reported _ _ _ _ _⟩

/-- A job whose next granule is written, with no poison found. -/
def RegionJob.advanced (j : RegionJob) : RegionJob := { j with granules := j.granules + 1, poisoned := false }

/-- Settles O21. -/
theorem regionUpdates : Obligations.RegionUpdates := by
  refine ⟨fun ctx sq s u d h hc hs => ?_, fun r s j l h hs hr => completes_next rfl (State.tendRegion_starts h hs hr),
    fun r s j l e h he hst hjp hf hg hp hl hlt => ⟨fun hlast => ?_, fun hmore hsup => ?_⟩⟩
  · refine congrArg Host.Outcome.next ((State.take_goes _ _ h hc).trans ?_)
    obtain hs | hs := hs <;> simp [hs]
  all_goals obtain ⟨hpois, hnot, hjobs⟩ := State.copyGranule_clean (j := j) (e := e) hl hp
  · obtain ⟨g, x, hx, hr⟩ := State.endUpdate_reported ((s.copyGranule j e).setRegionGen r (e.gen + 1))
      { j with granules := granulesOf j.desc.srcLen, poisoned := false } .ok
    refine ⟨_, ?_, g, x, (State.tendRegion_notices _ r).symm ▸ hx, hr⟩
    show execRegionGranuleDone r s = _
    simp [execRegionGranuleDone, h, he, hst, hjp, hf, hg, hlt, hpois, hlast, firstPoisoned]
  · have hmem : j ∈ (s.copyGranule j e).regionJobs := by
      rw [hjobs]
      exact List.mem_of_mem_filter (h ▸ List.mem_cons_self)
    refine ⟨{ s.copyGranule j e with regionJobs := (s.copyGranule j e).regionJobs.map fun x =>
      if x.desc.uid = j.desc.uid then j.advanced else x }, ?_, rfl, hnot, j.advanced,
      List.mem_map.2 ⟨j, hmem, if_pos rfl⟩, rfl, rfl⟩
    show execRegionGranuleDone r s = _
    simp [execRegionGranuleDone, h, he, hst, hjp, hf, hg, hlt, hpois, hmore.ne, hsup, firstPoisoned,
      RegionJob.advanced]

end

end Sys2Proof.Machine
end

section
/-! STREAM_OPEN, STREAM_TAP and STREAM_CLOSE (O25). -/

namespace Sys2Proof.Machine

theorem Tbl.look?_del_same {α : Type} (t : Tbl α) (k : Nat) : (t.del k).look? k = none := by
  induction t with
  | nil => rfl
  | cons e t ih =>
    by_cases hk : e.1 = k
    · simpa [Tbl.del, hk] using ih
    · simpa [Tbl.del, hk, Tbl.look?] using ih

theorem Tbl.look?_put_same {α : Type} (t : Tbl α) (k : Nat) (v : α) : (t.put k v).look? k = some v := by
  rw [Tbl.look?_put, if_pos rfl]

/-! ### What a stream's operations keep -/

section
variable (s : State) (i : Nat)

theorem State.dec_setDec (d : DecStream) : (s.setDec i d).dec i = some d := Tbl.look?_put_same _ _ _

theorem State.enc_setEnc (d : EncStream) : (s.setEnc i d).enc i = some d := Tbl.look?_put_same _ _ _

@[simp] theorem State.countMedia_media : s.countMedia.media = s.media := rfl

@[simp] theorem State.complete_dec (d : Desc) (st : Status) (r q : Nat) : (s.complete d st r q).dec i = s.dec i := by
  simp [State.dec]

@[simp] theorem State.complete_enc (d : Desc) (st : Status) (r q : Nat) : (s.complete d st r q).enc i = s.enc i := by
  simp [State.enc]

theorem State.dec_countMedia : s.countMedia.dec i = s.dec i := rfl

theorem State.enc_countMedia : s.countMedia.enc i = s.enc i := rfl

theorem State.dec_dropStream : (s.dropStream i).dec i = none := Tbl.look?_del_same _ _

end

/-- The taps of a stream after a change (12 R435). -/
def DecStream.tapsChanged (d : DecStream) (c : TapChange) : Tbl Tap :=
  match c.cfg with
  | some t => d.taps.put c.tap ⟨t, 0⟩
  | none => d.taps.del c.tap

theorem DecStream.tapsChanged_isSome (d : DecStream) (c : TapChange) :
    ((d.tapsChanged c).look? c.tap).isSome = c.cfg.isSome := by
  unfold DecStream.tapsChanged
  cases c.cfg with
  | none => rw [Tbl.look?_del_same]; rfl
  | some t => rw [Tbl.look?_put_same]; rfl

section
variable {s : State} {i : Nat} {d : DecStream} {c : TapChange} {r : List TapChange}

/-- Between pictures the first queued change takes effect and reports. -/
theorem State.applyTap_between (h : s.dec i = some d) (hp : d.pic = none) (hc : d.changes = c :: r) :
    s.applyTap i = ((s.setDec i { d with taps := d.tapsChanged c, changes := r }).countMedia).complete c.desc .ok 0 0 := by
  unfold State.applyTap
  simp only [h, hp, hc]
  rfl

/-- A change waits while a picture is in work. -/
theorem State.applyTap_within (h : s.dec i = some d) (hp : d.pic ≠ none) : s.applyTap i = s := by
  unfold State.applyTap
  cases hd : d.pic with
  | none => exact absurd hd hp
  | some p => simp [h, hd]

theorem State.dec_applyTap (h : s.dec i = some d) (hp : d.pic = none) (hc : d.changes = c :: r) :
    (s.applyTap i).dec i = some { d with taps := d.tapsChanged c, changes := r } := by
  rw [State.applyTap_between h hp hc, State.complete_dec, State.dec_countMedia, State.dec_setDec]

theorem State.applyTap_reported (h : s.dec i = some d) (hp : d.pic = none) (hc : d.changes = c :: r) :
    (s.applyTap i).reported c.desc .ok 0 0 := by
  rw [State.applyTap_between h hp hc]
  exact State.complete_reported _ _ _ _ _

end

/-- The change that a STREAM_TAP asks for. -/
def State.tapChange (u : State) (d : Desc) : TapChange :=
  ⟨d, d.nat 16 1, if d.nat 17 1 = 1 then none else some (tapOf (u.param d 24 96))⟩

theorem State.tapChange_isSome (u : State) (d : Desc) : (u.tapChange d).cfg.isSome = decide (d.nat 17 1 ≠ 1) := by
  unfold State.tapChange
  dsimp only
  split <;> simp_all

/-- STREAM_OPEN of an encoder whose buffers find room (12 R429). -/
theorem State.openEnc_opens {u : State} {d : Desc} {b : List MBuf} (h : (let p := encParamOf (u.param d 32 64)
      reserveBufs (u.poolBufs (d.nat 20 4)) (u.poolBytes (d.nat 20 4))
        (List.replicate 4 (videoBufBytes p.outW p.outH 8))) = some b) :
    ((u.openEnc d).enc u.newStream).isSome = true ∧ (u.openEnc d).reported d .ok (u.mkHandle d.ctx u.newStream) 0 := by
  unfold State.openEnc State.reserve
  simp only [h]
  refine ⟨?_, State.complete_reported _ _ _ _ _⟩
  rw [State.complete_enc, State.enc_countMedia, State.enc_setEnc]
  rfl

/-- STREAM_TAP queues its change and tries to apply it. -/
theorem streamTap_exec {ctx : Fin 256} {sq : Fin 4} {s u : State} {d : Desc} {st : DecStream}
    (h : s.beforeChecks ctx sq 0x0B = some (u, d)) (hc : u.tapCheck d = none) (hst : u.decHandle d.ctx d.target = some st) :
    exec (.streamTap ctx sq) s = .next ((u.setDec (handleIdx d.target)
      { st with changes := st.changes ++ [u.tapChange d] }).applyTap (handleIdx d.target)) := by
  refine congrArg Host.Outcome.next ((State.take_goes _ _ h hc).trans ?_)
  simp only [hst]
  rfl

theorem State.markClosing_dec {u : State} {i : Nat} {st : DecStream} (d : Desc) (h : u.dec i = some st) :
    u.markClosing i d = u.setDec i { st with closing := some d, drainTo := some ((u.ctx d.ctx).tails.look 0 st.ring) } := by
  unfold State.markClosing
  simp only [h]

/-- Settles O25. -/
theorem streamDescriptors : Obligations.StreamDescriptors := by
  refine ⟨fun ctx sq s u d h hc => ?_, fun ctx sq s u d st h hc hst => ⟨fun hp => ?_, fun hp hq => ?_⟩,
    fun n s d c r h hp hc => ?_, fun ctx sq s u d st h hc hst => ⟨fun hm => ?_, fun hm => ?_⟩,
    fun n s d c h hcl hq hp he hdone => ?_⟩
  · have hx : exec (.streamOpen ctx sq) s = .next (if d.nat 16 1 = 1 then u.openEnc d else if d.nat 16 1 = 3 then u.openCam d
        else u.openDec d) := congrArg Host.Outcome.next (State.take_goes _ _ h hc)

    refine ⟨hx, fun b hk hb => completes_next (t := u.openEnc d) (hx.trans ?_) (State.openEnc_opens hb)⟩
    rw [if_pos hk]
  · refine completes_next (streamTap_exec h hc hst) ⟨u.tapChange d, rfl, rfl, ?_⟩
    rw [State.applyTap_within (State.dec_setDec u (handleIdx d.target) _) (by exact hp), State.dec_setDec]
  · have hd := State.dec_setDec u (handleIdx d.target) { st with changes := st.changes ++ [u.tapChange d] }
    have hch : st.changes ++ [u.tapChange d] = u.tapChange d :: [] := by rw [hq]; rfl
    refine completes_next (streamTap_exec h hc hst) ⟨State.applyTap_reported hd hp hch, ?_⟩
    rw [State.dec_applyTap hd hp hch, ← u.tapChange_isSome d, ← DecStream.tapsChanged_isSome st]
    rfl
  · refine completes_next (t := s.applyTap n) rfl ⟨State.applyTap_reported h hp hc, ?_⟩
    rw [State.dec_applyTap h hp hc]
    rfl
  · refine completes_next (t := u.markClosing (handleIdx d.target) d) ?_ ?_
    · show execStreamCloseDrain ctx sq s = _
      rw [execStreamCloseDrain, if_neg hm]
      exact congrArg Host.Outcome.next (State.take_goes _ _ h hc)
    · rw [State.markClosing_dec d hst, State.dec_setDec]
  · show execStreamCloseAbort ctx sq s = _
    rw [execStreamCloseAbort, if_pos hm, ← State.markClosing_dec d hst]
    exact congrArg Host.Outcome.next (State.take_goes _ _ h hc)
  · refine completes_next (t := ((s.cancelChanges d).releaseDec n d).complete c .ok d.decoded d.others) ?_
      ⟨?_, State.complete_reported _ _ _ _ _⟩
    · show execStreamCloseDone n s = _
      simp only [execStreamCloseDone, h, hcl, hq, hp, he, hdone, List.isEmpty_nil, Option.isNone_none, and_self, if_true]
    · rw [State.complete_dec, State.releaseDec, State.dec_dropStream]

end Sys2Proof.Machine
end

section
/-! Gangs take cores and give them back (O26). -/

namespace Sys2Proof.Machine

/-- What every step of a fold keeps, the fold keeps. -/
theorem foldl_kept {σ α β : Type} (p : σ → β) (f : σ → α → σ) (h : ∀ s a, p (f s a) = p s) (l : List α) (s : σ) :
    p (l.foldl f s) = p s := by
  induction l generalizing s with
  | nil => rfl
  | cons a l ih => exact (ih (f s a)).trans (h s a)

theorem State.foldl_sbox {α : Type} {f : State → α → State} (h : ∀ s a, (f s a).sbox = s.sbox) (l : List α) (s : State) :
    (l.foldl f s).sbox = s.sbox := foldl_kept State.sbox f h l s

/-! ### What the operations of a slice keep -/

section
variable (s : State)

/-- A core's statistics become events (05 R176). -/
@[simp] theorem State.countEvent_sbox (c code n x : Nat) : (s.countEvent c code n x).sbox = s.sbox := by
  unfold State.countEvent
  split <;> simp

@[simp] theorem State.sliceEnd_sbox (c x : Nat) : (s.sliceEnd c x).sbox = s.sbox := by
  simp [State.sliceEnd]

@[simp] theorem State.noteRoom_sbox (n : Nat) : (s.noteRoom n).sbox = s.sbox := by
  unfold State.noteRoom
  split
  · dsimp only
    split <;> simp
  · rfl

/-- The image of a core goes to its place in the save area (05 R177). -/
theorem State.writeImage_eq (g : Gang) (c : Nat) : ∃ v : State, v.sbox = s.sbox ∧ v.cores = s.cores ∧
    s.writeImage g c = v.putImage (imageKey g.uid (v.core c).idx g.images) (s.savedImage g c) := by
  have kept : ∀ x k bs l, ({ ({ s with free := x }).store k bs with images := l } : State).sbox = s.sbox ∧
      ({ ({ s with free := x }).store k bs with images := l } : State).cores = s.cores := fun x k bs l => by simp
  obtain ⟨h1, h2⟩ := kept _ _ _ _
  exact ⟨_, h1, h2, rfl⟩

@[simp] theorem State.writeImage_sbox (g : Gang) (c : Nat) : (s.writeImage g c).sbox = s.sbox := by
  obtain ⟨v, hv, -, he⟩ := s.writeImage_eq g c
  rw [he, State.putImage_sbox, hv]

@[simp] theorem State.eccEvent_sbox (l : Nat) (bad : Bool) : (s.eccEvent l bad).sbox = s.sbox := by
  unfold State.eccEvent
  dsimp only
  split <;> split <;> simp

@[simp] theorem State.findError_sbox (l : Nat) (bad : Bool) : (s.findError l bad).sbox = s.sbox := by
  unfold State.findError
  dsimp only
  split <;> simp [State.poisonLines]

@[simp] theorem State.touch_sbox (k n : Nat) : (s.touch k n).sbox = s.sbox := by
  unfold State.touch
  exact foldl_kept State.sbox _ (fun s (e : Nat × Bool) => s.findError_sbox e.1 e.2) _ s

@[simp] theorem State.readImages_sbox (g : Gang) : (s.readImages g).sbox = s.sbox := by
  unfold State.readImages
  exact foldl_kept State.sbox _ (fun s (m : Image) => s.touch_sbox (kHbm (m.frame * 0x200000)) m.bytes) _ s

@[simp] theorem State.loadImage_sbox (c : Nat) (m : Image) : (s.loadImage c m).sbox = s.sbox := by
  unfold State.loadImage State.lostStatistics
  dsimp only
  split <;> rfl

end

/-! ### The list of gangs -/

section
variable {s t : State} {u : Nat} {g : Gang}

theorem State.gang_of_sbox (h : t.sbox = s.sbox) (u : Nat) : t.gang u = s.gang u := by rw [State.gang, h, State.gang]

theorem State.uid_of_gang (h : s.gang u = some g) : g.uid = u := by
  simpa using List.find?_some h

/-- What a search by number finds after an update that keeps the numbers. -/
theorem State.gang_updGang {f : Gang → Gang} (hf : ∀ g, (f g).uid = g.uid) (v : Nat) :
    (s.updGang v f).gang u = (s.gang u).map fun g => if g.uid = v then f g else g := by
  show (s.sbox.gangs.map fun g => if g.uid = v then f g else g).find? (fun g => g.uid == u) = _
  unfold State.gang
  induction s.sbox.gangs with
  | nil => rfl
  | cons g l ih =>
    by_cases hg : g.uid = u <;> by_cases hv : g.uid = v <;> simp_all

theorem State.gang_updGang_same {f : Gang → Gang} (hf : ∀ g, (f g).uid = g.uid) (h : s.gang u = some g) :
    (s.updGang u f).gang u = some (f g) := by
  rw [State.gang_updGang hf, h, Option.map_some, if_pos (State.uid_of_gang h)]

/-- A gang with its slice begun on the cores it has (05 R174). -/
structure Gang.Runs (g h : Gang) (now : Nat) : Prop where
  phase : h.phase = .running
  slice : h.slice = g.slice + 1
  sliceAt : h.sliceAt = now
  cores : h.cores = g.cores

theorem State.gang_imageAll {k : Gang} (hk : k.uid = u) (h : s.gang u = some g) :
    (s.imageAll k).gang u = some { g with images := g.images + 1 } := by
  have hw : (k.cores.foldl (fun (s : State) c => s.writeImage k c) s).gang u = some g := by
    rw [State.gang_of_sbox (State.foldl_sbox (fun s c => s.writeImage_sbox k c) _ s), h]
  unfold State.imageAll
  rw [hk]
  exact State.gang_updGang_same (fun _ => rfl) hw

theorem State.startSlice_runs (r : Bool) (h : s.gang u = some g) :
    ∃ k, (s.startSlice u r).gang u = some k ∧ g.Runs k s.now := by
  have hn : (s.noteRoom g.ctx).gang u = some g := (State.gang_of_sbox (s.noteRoom_sbox g.ctx) u).trans h
  have hnow : (s.noteRoom g.ctx).now = s.now := (State.Keeps.refl (full := false)).noteRoom.now
  unfold State.startSlice
  simp only [h]
  generalize s.noteRoom g.ctx = v at hn hnow ⊢
  rw [← hnow]
  split
  · refine ⟨_, State.gang_updGang_same (fun _ => rfl) (State.gang_imageAll (show g.uid = u from State.uid_of_gang h) hn), ?_⟩
    exact ⟨rfl, rfl, (State.Keeps.refl (full := false)).imageAll.now, rfl⟩
  · exact ⟨_, State.gang_updGang_same (fun _ => rfl) hn, rfl, rfl, rfl, rfl⟩

theorem State.startSlice_goesOn (r : Bool) {n : Nat} (h : s.gang u = some g) (hn : s.now = n) :
    ∃ k, (s.startSlice u r).gang u = some k ∧ k.phase = .running ∧ k.slice = g.slice + 1 ∧ k.sliceAt = n ∧
      k.cores = g.cores := by
  obtain ⟨k, hk, hr⟩ := State.startSlice_runs r h
  exact ⟨k, hk, hr.phase, hr.slice, hr.sliceAt.trans hn, hr.cores⟩

/-! ### Dispatch -/

@[simp] theorem State.noteBusy_sbox (s : State) : s.noteBusy.sbox = s.sbox := by
  unfold State.noteBusy
  split <;> rfl

@[simp] theorem State.holdCore_sbox (s : State) (c : Nat) (x : Option (Nat × Nat × Nat)) : (s.holdCore c x).sbox = s.sbox := by
  unfold State.holdCore
  split <;> rfl

theorem State.holdCore_images (s : State) (c : Nat) (x : Option (Nat × Nat × Nat)) : (s.holdCore c x).images = s.images := by
  unfold State.holdCore
  split <;> rfl

@[simp] theorem State.settleRun_sbox (s : State) (n : Nat) : (s.settleRun n).sbox = s.sbox := by
  unfold State.settleRun
  dsimp only
  split
  · rfl
  · split <;> rfl

@[simp] theorem State.startCore_sbox (s : State) (g : Gang) (c : Nat) : (s.startCore g c).sbox = s.sbox := by
  simp [State.startCore, State.bayStore, State.bayUndefine, State.clearKeys]

theorem State.countCores_sbox (s : State) : s.countCores.sbox = s.sbox := rfl

theorem State.countHeld_sbox (s : State) (n : Nat) : (s.countHeld n).sbox = s.sbox := rfl

/-- A gang is given its cores. -/
theorem State.gang_giveCores {k : Gang} (cs : List Nat) (hk : k.uid = u) (h : s.gang u = some g) :
    (s.giveCores k cs).gang u = some { g with cores := cs } := by
  have hheld : ((cs.zip (List.range cs.length)).foldl (fun (s : State) (e : Nat × Nat) =>
      s.holdCore e.1 (some (k.uid, k.ctx, e.2))) s.noteBusy).gang u = some g := by
    rw [State.gang_of_sbox (State.foldl_sbox (fun s e => s.holdCore_sbox _ _) _ _), State.gang_of_sbox s.noteBusy_sbox, h]
  unfold State.giveCores
  dsimp only
  rw [State.gang_of_sbox (State.foldl_sbox State.settleRun_sbox _ _), State.gang_of_sbox (State.countHeld_sbox _ _),
    State.gang_of_sbox (State.countCores_sbox _)]
  subst hk
  exact State.gang_updGang_same (fun _ => rfl) hheld

/-- A saved gang that is granted cores starts its restore. -/
theorem State.gang_grant_saved (cs : List Nat) (hu : g.uid = u) (hw : g.phase ≠ .waiting) (h : s.gang u = some k) :
    (s.grant g cs).gang u = some { k with cores := cs, phase := .restoring } := by
  subst hu
  have hs : (cs.foldl (fun (s : State) (c : Nat) => s.setFld (ro .co c 0x40) 24 1 1) (s.giveCores g cs)).gang g.uid =
      some { k with cores := cs } := by
    rw [State.gang_of_sbox (State.foldl_sbox (fun _ _ => State.setFld_sbox _ _ _ _ _) _ _), State.gang_giveCores cs rfl h]
  unfold State.grant
  dsimp only
  rw [if_neg hw]
  exact State.gang_updGang_same (f := fun g => { g with phase := .restoring }) (fun _ => rfl) hs

/-- A waiting gang that is granted cores starts its first slice; a saved one starts its restore. -/
theorem State.gang_grant (cs : List Nat) (h : s.gang g.uid = some k) :
    ∃ h, (s.grant g cs).gang g.uid = some h ∧ h.cores = cs ∧
      h.phase = (if g.phase = .waiting then .running else .restoring) := by
  split
  next hw =>
    have hs : (cs.foldl (fun (s : State) c => s.startCore g c) (s.giveCores g cs)).gang g.uid =
        some { k with cores := cs } := by
      rw [State.gang_of_sbox (State.foldl_sbox (fun s c => s.startCore_sbox g c) _ _), State.gang_giveCores cs rfl h]
    obtain ⟨x, hx, hr⟩ := State.startSlice_runs false
      (State.gang_updGang_same (f := fun g => { g with phase := .running }) (fun _ => rfl) hs)
    refine ⟨x, ?_, hr.cores, hr.phase⟩
    unfold State.grant
    dsimp only
    rw [if_pos hw]
    exact hx
  next hw => exact ⟨_, State.gang_grant_saved cs rfl hw h, rfl, rfl⟩

theorem mem_insertBy {α : Type} {lt : α → α → Bool} {x y : α} {l : List α} : y ∈ insertBy lt x l ↔ y = x ∨ y ∈ l := by
  induction l with
  | nil => simp [insertBy]
  | cons z l ih =>
    unfold insertBy
    split
    · simp
    · simp [ih, or_left_comm]

theorem mem_sortBy {α : Type} {lt : α → α → Bool} {y : α} {l : List α} : y ∈ sortBy lt l ↔ y ∈ l := by
  induction l with
  | nil => rfl
  | cons z l ih => rw [sortBy, mem_insertBy, ih, List.mem_cons]

/-- The first waiting gang is one of the list. -/
theorem State.gang_of_firstWaiting (h : s.firstWaiting = some g) : ∃ k, s.gang g.uid = some k := by
  have hm : g ∈ s.sbox.gangs := List.mem_of_mem_filter (mem_sortBy.1 (List.mem_of_head? h))
  exact Option.isSome_iff_exists.1 (List.find?_isSome.2 ⟨g, hm, beq_self_eq_true _⟩)

/-! ### Stopping, saving, restoring -/

@[simp] theorem State.notePc_sbox (s : State) (c : Nat) : (s.notePc c).sbox = s.sbox := rfl

/-- A gang that is to stop has its cores' statistics reported and its program counters noted (05 R176). -/
theorem State.gang_stopped (s : State) (cs : List Nat) (x u : Nat) :
    (cs.foldl (fun (s : State) c => ((s.sliceEnd c x).notePc c).setFld (ro .co c 0x40) 23 1 1) s).gang u = s.gang u :=
  State.gang_of_sbox (State.foldl_sbox (fun s c =>
    (State.setFld_sbox _ _ _ _ _).trans ((s.sliceEnd c x).notePc_sbox c |>.trans (s.sliceEnd_sbox c x))) cs s) u

/-- A gang that has saved one more core, and is saved when none is left (05 R177). -/
def Gang.without (left : List Nat) (c now : Nat) (g : Gang) : Gang :=
  { g with
    saving := left, cores := g.cores.filter (· != c), phase := if left.isEmpty then .saved else .saving,
    readyAt := if left.isEmpty then now else g.readyAt, images := if left.isEmpty then g.images + 1 else g.images }

/-- A core whose image is saved is given back. -/
def State.freedCore (s : State) (g : Gang) (c : Nat) : State :=
  (((s.writeImage g c).setCore c Core.reset).holdCore c none).wr (ro .co c 0x48) 0

/-- The counts after a core was given back. -/
def State.recount (s : State) (n : Nat) : State := (((s.countCores).countHeld n).settleRun n).noteIdle

theorem State.freedCore_sbox (s : State) (g : Gang) (c : Nat) : (s.freedCore g c).sbox = s.sbox := by
  rw [State.freedCore, State.wr_sbox, State.holdCore_sbox, State.setCore_sbox, State.writeImage_sbox]

theorem State.freedCore_image (s : State) (g : Gang) (c : Nat) :
    (s.freedCore g c).images.look? (imageKey g.uid (s.core c).idx g.images) = some (s.savedImage g c) := by
  obtain ⟨v, -, hc, he⟩ := s.writeImage_eq g c
  have hv : v.core c = s.core c := by rw [State.core, hc, State.core]
  rw [State.freedCore, State.wr_images, State.holdCore_images, State.setCore_images, he, ← hv, State.putImage_images,
    Tbl.look?_put_same]

theorem State.freedCore_gang (s : State) (g : Gang) (c : Nat) : ((s.freedCore g c).core c).gang = none := by
  have : ∀ v : State, (((v.holdCore c none).wr (ro .co c 0x48) 0).core c).gang = none := fun v => by
    simp [State.holdCore, State.core, Tbl.look_put_same]
  rw [State.freedCore, this]

theorem State.recount_kept (s : State) (n : Nat) :
    (s.recount n).sbox = s.sbox ∧ (s.recount n).images = s.images ∧ (s.recount n).cores = s.cores := by
  have settle : ∀ v : State, (v.settleRun n).images = v.images ∧ (v.settleRun n).cores = v.cores := fun v => by
    unfold State.settleRun
    dsimp only
    split
    · exact ⟨rfl, rfl⟩
    · split <;> exact ⟨rfl, rfl⟩
  have idle : ∀ v : State, v.noteIdle.sbox = v.sbox ∧ v.noteIdle.images = v.images ∧ v.noteIdle.cores = v.cores := fun v => by
    unfold State.noteIdle
    split <;> exact ⟨rfl, rfl, rfl⟩
  obtain ⟨h1, h2, h3⟩ := idle ((s.countCores.countHeld n).settleRun n)
  obtain ⟨h4, h5⟩ := settle (s.countCores.countHeld n)
  have counts : (s.countCores.countHeld n).sbox = s.sbox ∧ (s.countCores.countHeld n).images = s.images ∧
      (s.countCores.countHeld n).cores = s.cores := by simp [State.countCores, State.countHeld]
  obtain ⟨h6, h7, h8⟩ := counts
  exact ⟨h1.trans ((State.settleRun_sbox _ _).trans h6), h2.trans (h4.trans h7), h3.trans (h5.trans h8)⟩

theorem State.gang_of_gangOf {c : Nat} (h : s.gangOf c = some g) : s.gang g.uid = some g := by
  obtain ⟨u, -, hu⟩ := Option.bind_eq_some_iff.1 h
  exact (State.uid_of_gang hu).symm ▸ hu

end

/-- Settles O26. -/
theorem gangsTakeAndGiveBackCores : Obligations.GangsTakeAndGiveBackCores := by
  refine ⟨fun s g cs hf hpst hfr hgo hbit hst => ⟨fun hp => ?_, fun hp hl hb => ?_⟩,
    fun s u g h hph hbud hdue => ⟨fun hpr => ?_, fun hpr => ?_⟩, fun s u g h hph hh => ?_, fun s c g h hph => ?_,
    fun s u g h hph hpois => ?_⟩
  · obtain ⟨k, hk⟩ := State.gang_of_firstWaiting hf
    refine completes_next (t := s.grant g (cs.map (·.val))) ?_ (State.gang_grant _ hk)
    show execGangDispatch g.uid cs s = _
    simp [execGangDispatch, hf, hpst, hfr, hgo, hbit, hst, hp]
  · show execGangDispatch g.uid cs s = _
    simp [execGangDispatch, hf, hpst, hfr, hgo, hbit, hst, hp, hl, hb]
  · refine completes_next (t := s.stopGangs [g]) ?_ ⟨?_, rfl⟩
    · show execQuantumEnd u s = _
      simp [execQuantumEnd, h, hph, hbud, hpr, Nat.not_lt.mpr hdue]
    · obtain rfl := State.uid_of_gang h
      exact State.gang_updGang_same (fun _ => rfl) h
  · have hg : (g.cores.foldl (fun (s : State) c => s.sliceEnd c g.ctx) s).gang u = some g := by
      rw [State.gang_of_sbox (State.foldl_sbox (fun s c => s.sliceEnd_sbox c g.ctx) _ _), h]
    obtain ⟨k, hk, hr⟩ := State.startSlice_runs false hg
    refine completes_next ?_ ⟨k, hk, hr.phase, hr.sliceAt.trans ?_, hr.slice, hr.cores⟩
    · show execQuantumEnd u s = _
      simp [execQuantumEnd, h, hph, hbud, hpr, Nat.not_lt.mpr hdue]
    · exact ((State.Keeps.refl (full := false)).foldl fun _ _ h1 => h1.sliceEnd).now
  · have hu : ∀ v : State, v.sbox = s.sbox → (((g.cores.foldl (fun (s : State) c =>
        ((s.sliceEnd c g.ctx).notePc c).setFld (ro .co c 0x40) 23 1 1) v).addFld (cr g.ctx 0x134) 0 32 1).addFld
        (ro .sbox 0 0x68) 0 32 1).gang u = some g := fun v hv =>
      ((State.gang_stopped v g.cores g.ctx u).trans (State.gang_of_sbox hv u)).trans h
    refine completes_next (t := ((((g.cores.foldl (fun (s : State) c =>
      ((s.sliceEnd c g.ctx).notePc c).setFld (ro .co c 0x40) 23 1 1)
      (if s.stopBound g < s.now - g.decidedAt then s.raise 0x1100 0x21C7 [.d (s.now - g.decidedAt)] g.ctx else s)).addFld
      (cr g.ctx 0x134) 0 32 1).addFld (ro .sbox 0 0x68) 0 32 1).updGang u fun g => { g with phase := .saving, saving := List.range g.cores.length })) ?_
      (State.gang_updGang_same (fun _ => rfl) (hu _ ?_))
    · show execPreemptStopped u s = _
      simp only [execPreemptStopped, h, hph, hh]
      rfl
    · split
      · exact State.raise_sbox _ _ _ _ _ _
      · rfl
  · refine completes_next (t := ((s.freedCore g c).updGang g.uid (Gang.without (g.saving.filter (· != (s.core c).idx)) c s.now)).recount g.ctx) ?_ ?_
    · show execSaveDone c false s = _
      have hnow : (s.freedCore g c).now = s.now := (State.Keeps.refl (full := false)).writeImage.setCore.holdCore.wr.now
      simp only [execSaveDone, h, hph, ne_eq, not_true_eq_false, if_false, Bool.false_eq_true]
      rw [← hnow]
      refine congrArg (fun v : State => Host.Outcome.next (((v.countCores.countHeld g.ctx).settleRun g.ctx).noteIdle)) ?_
      exact congrArg (State.updGang (s.freedCore g c) g.uid) (funext fun _ => rfl)
    · have hg : (s.freedCore g c).gang g.uid = some g := by
        rw [State.gang_of_sbox (s.freedCore_sbox g c)]
        exact State.gang_of_gangOf h
      refine ⟨?_, ?_, _, ((State.gang_of_sbox (State.recount_kept _ _).1 _).trans
        (State.gang_updGang_same (fun _ => rfl) hg)), rfl, fun hs => by simp [Gang.without, hs]⟩
      · rw [(State.recount_kept _ _).2.1, State.updGang_images]
        exact s.freedCore_image g c
      · rw [State.core, (State.recount_kept _ _).2.2, State.updGang_cores]
        exact s.freedCore_gang g c
  · refine ⟨_, show execRestoreDone u false s = _ by
      simp only [execRestoreDone, h, hph, hpois, ne_eq, not_true_eq_false, if_false, Bool.false_eq_true, or_self]
      rfl, State.startSlice_goesOn true ?_ ?_⟩
    · refine (State.gang_of_sbox ((State.foldl_sbox (fun v e => ?_) _ _).trans (s.readImages_sbox g)) u).trans h
      split
      · exact (State.setFld_sbox _ _ _ _ _).trans (v.loadImage_sbox _ _)
      · rfl
    · refine (State.Keeps.refl.readImages.foldl fun v e hv => ?_).now
      split
      · exact hv.loadImage.setFld
      · exact hv

end Sys2Proof.Machine
end

section
/-! Runs end and cores fail (O28). -/

namespace Sys2Proof.Machine

theorem State.foldl_gangs {α : Type} {f : State → α → State} (h : ∀ s a, (f s a).sbox.gangs = s.sbox.gangs) (l : List α)
    (s : State) : (l.foldl f s).sbox.gangs = s.sbox.gangs := foldl_kept (fun s => s.sbox.gangs) f h l s

theorem State.gang_of_gangs {s t : State} (h : t.sbox.gangs = s.sbox.gangs) (u : Nat) : t.gang u = s.gang u := by
  rw [State.gang, h, State.gang]

/-! ### The Yard's work for a core keeps the list of gangs -/

section
variable (s : State)

@[simp] theorem State.updPool_sbox (p : Nat) (f : Pool → Pool) : (s.updPool p f).sbox = s.sbox := rfl

@[simp] theorem State.putKv_sbox (p P : Nat) (k : KvPage) : (s.putKv p P k).sbox = s.sbox := rfl

@[simp] theorem State.countPool_sbox (p : Nat) : (s.countPool p).sbox = s.sbox := rfl

@[simp] theorem State.uncharge_sbox (q p : Nat) : (s.uncharge q p).sbox = s.sbox := by
  unfold State.uncharge
  split <;> rfl

@[simp] theorem State.retireFrame_gangs (f : Nat) (p : Option Nat) : (s.retireFrame f p).sbox.gangs = s.sbox.gangs := by
  unfold State.retireFrame State.evalWanted
  dsimp only
  rw [State.raise_sbox]
  split <;> rfl

@[simp] theorem State.settleFrames_gangs (p : Nat) : (s.settleFrames p).sbox.gangs = s.sbox.gangs := by
  refine State.foldl_gangs (fun v f => ?_) _ s
  split
  · split
    · exact v.retireFrame_gangs f _
    · rfl
  · rfl

@[simp] theorem State.freeKv_gangs (p P : Nat) : (s.freeKv p P).sbox.gangs = s.sbox.gangs := by
  unfold State.freeKv
  dsimp only
  split <;> split <;> simp

@[simp] theorem State.unpin_gangs (p P : Nat) : (s.unpin p P).sbox.gangs = s.sbox.gangs := by
  unfold State.unpin State.freeIfZero
  dsimp only
  split <;> simp

@[simp] theorem State.dropCoreYard_gangs (c : Nat) : (s.dropCoreYard c).sbox.gangs = s.sbox.gangs := by
  unfold State.dropCoreYard
  dsimp only
  rw [State.updCore_sbox, State.withYard_sbox]
  refine (State.foldl_gangs (fun v t => ?_) _ _).trans ((State.foldl_gangs (fun v i => ?_) _ _).trans
    (State.foldl_gangs (fun v a => ?_) _ s))
  · simp
  · split <;> simp
  · split <;> simp

@[simp] theorem State.freshCore_sbox (c : Nat) : (s.freshCore c).sbox = s.sbox := rfl

@[simp] theorem State.remap_sbox (c : Nat) : (s.remap c).sbox = s.sbox := by
  unfold State.remap
  dsimp only
  split <;> simp

end

/-! ### The end of a RUN -/

section
variable {s : State} {g : Gang}

@[simp] theorem State.settleRun_notices (s : State) (n : Nat) : (s.settleRun n).notices = s.notices := by
  unfold State.settleRun
  dsimp only
  split
  · rfl
  · split <;> rfl

theorem State.quitGang_gone (s : State) (g : Gang) : ∀ h ∈ (s.quitGang g).sbox.gangs, h.uid ≠ g.uid := fun h hh => by
  simpa using (List.mem_filter.1 hh).2

/-- A gang that runs no step ends with its one record. -/
theorem State.finishGang_record (h : (s.text.steps.find? fun r => r.gang == g.uid) = none) (st : Status) (r : Nat) :
    s.finishGang g st r = ((s.quitGang g).complete g.desc st r g.slicesReplayed).settleRun g.ctx := by
  unfold State.finishGang
  simp only [h]

theorem State.finishGang_ends (h : (s.text.steps.find? fun r => r.gang == g.uid) = none) (st : Status) (r : Nat) :
    (s.finishGang g st r).reported g.desc st r g.slicesReplayed ∧ ∀ h ∈ (s.finishGang g st r).sbox.gangs, h.uid ≠ g.uid := by
  rw [State.finishGang_record h]
  refine ⟨?_, ?_⟩
  · rw [State.reported, State.settleRun_notices]
    exact State.complete_reported _ _ _ _ _
  · rw [State.settleRun_sbox, State.complete_sbox]
    exact s.quitGang_gone g

/-! ### A core fault -/

/-- The stop of a core is noted and counted (07 R269). -/
def State.stopCounted (s : State) (c cause unit ctx : Nat) : State := (s.noteStop c cause unit ctx).countFault c cause

/-- The state in which the fault of a core reaches its gang. -/
def State.faultNoted (s : State) (c cause unit ctx : Nat) : State :=
  (((s.stopCounted c cause unit ctx).addSat (ro .co c 0x44) 24 8 1).setFld (ro .cl (c / 8) 0x44)
    (16 + (s.stopCounted c cause unit ctx).slotOfCore c) 1 1).raise
    (dieSrc (c / 8) (c % 8)) (if c < 32 then 0x3250 else 0x3350) [.w cause, .w unit] ctx

theorem coreFault_exec {c : Fin 64} {k : Fin 4} {unit : Fin 8} (h : s.gangOf c = some g) :
    exec (.coreFault c k unit) s = .next ((s.faultNoted c (0x10 + k) unit g.ctx).gangFault g c) := by
  show Host.Outcome.next (s.coreFault c (0x10 + k) unit false) = _
  unfold State.coreFault
  simp only [h]
  rfl

@[simp] theorem State.addSat_sbox (s : State) (a lo w n : Nat) : (s.addSat a lo w n).sbox = s.sbox := State.setFld_sbox ..

@[simp] theorem State.addSat_text (s : State) (a lo w n : Nat) : (s.addSat a lo w n).text = s.text := State.setFld_text ..

theorem State.stopCounted_kept (s : State) (c cause unit ctx : Nat) : (s.stopCounted c cause unit ctx).sbox = s.sbox ∧
    (s.stopCounted c cause unit ctx).text = s.text ∧
    ∀ a, a ≠ ro .co c 0x44 → a ≠ ro .co c 0x4C → a ≠ ro .co c 0x50 → (s.stopCounted c cause unit ctx).rd a = s.rd a := by
  have note : (s.noteStop c cause unit ctx).sbox = s.sbox ∧ (s.noteStop c cause unit ctx).text = s.text ∧
      ∀ a, a ≠ ro .co c 0x44 → (s.noteStop c cause unit ctx).rd a = s.rd a := by
    simp only [State.noteStop, State.setFld_sbox, State.setFld_text, true_and]
    intro a h
    simp only [State.rd_setFld_other _ _ _ _ h.symm]
  obtain ⟨h1, h2, h3⟩ := note
  unfold State.stopCounted State.countFault
  split
  · exact ⟨by simp [h1], by simp [h2], fun a h _ h' => by simp [State.addSat, State.rd_setFld_other _ _ _ _ h'.symm, h3 a h]⟩
  · split
    · exact ⟨h1, h2, fun a h _ _ => h3 a h⟩
    · exact ⟨by simp [h1], by simp [h2], fun a h h' _ => by
        simp [State.addSat, State.rd_setFld_other _ _ _ _ h'.symm, h3 a h]⟩

/-- A counted fault in two words, and its event. -/
theorem State.raiseCounted_kept (v : State) (a b x src code ctx : Nat) (data : List EvVal) :
    (((v.addSat a 24 8 1).setFld b x 1 1).raise src code data ctx).sbox = v.sbox ∧
    (((v.addSat a 24 8 1).setFld b x 1 1).raise src code data ctx).text = v.text ∧
    ∀ c, c ≠ a → c ≠ b → c ≠ ro .evr 0 0x60 → c ≠ ro .evr 0 0x58 →
      (((v.addSat a 24 8 1).setFld b x 1 1).raise src code data ctx).rd c = v.rd c := by
  refine ⟨by rw [State.raise_sbox, State.setFld_sbox, State.addSat_sbox],
    by rw [State.raise_text, State.setFld_text, State.addSat_text], fun c h1 h2 h3 h4 => ?_⟩
  rw [State.raise_rd _ _ _ _ _ _ h3 h4, State.rd_setFld_other _ _ _ _ h2.symm, State.addSat,
    State.rd_setFld_other _ _ _ _ h1.symm]

theorem State.faultNoted_kept (s : State) (c cause unit ctx : Nat) : (s.faultNoted c cause unit ctx).sbox = s.sbox ∧
    (s.faultNoted c cause unit ctx).text = s.text ∧
    ∀ a, a ≠ ro .co c 0x44 → a ≠ ro .co c 0x4C → a ≠ ro .co c 0x50 → a ≠ ro .cl (c / 8) 0x44 → a ≠ ro .evr 0 0x60 →
      a ≠ ro .evr 0 0x58 → (s.faultNoted c cause unit ctx).rd a = s.rd a := by
  obtain ⟨h1, h2, h3⟩ := s.stopCounted_kept c cause unit ctx
  obtain ⟨k1, k2, k3⟩ := (s.stopCounted c cause unit ctx).raiseCounted_kept (ro .co c 0x44) (ro .cl (c / 8) 0x44)
    (16 + (s.stopCounted c cause unit ctx).slotOfCore c) (dieSrc (c / 8) (c % 8)) (if c < 32 then 0x3250 else 0x3350) ctx
    [.w cause, .w unit]
  exact ⟨k1.trans h1, k2.trans h2, fun a n1 n2 n3 n4 n5 n6 => (k3 a n1 n4 n5 n6).trans (h3 a n1 n2 n3)⟩

/-- The words of a context and of its row in the Signal Box are none of a core's. -/
theorem State.faultNoted_rd {n o : Nat} (s : State) (c : Fin 64) (cause unit ctx : Nat) (hn : n < 256) (ho : o < 0x1000) :
    (s.faultNoted c cause unit ctx).rd (cr n o) = s.rd (cr n o) ∧
    (s.faultNoted c cause unit ctx).rd (ro .sbox 0 (0x800 + 4 * n)) = s.rd (ro .sbox 0 (0x800 + 4 * n)) := by
  obtain ⟨-, -, h⟩ := s.faultNoted_kept c cause unit ctx
  have hc : slotOf .co c < 0x500 ∧ 0x400 ≤ slotOf .co c ∨ slotOf .co c < 0x900 ∧ 0x800 ≤ slotOf .co c := by
    simp only [slotOf]
    split <;> omega
  have hk : slotOf .cl (c / 8) < 0x500 ∧ 0x400 ≤ slotOf .cl (c / 8) ∨ slotOf .cl (c / 8) < 0x900 ∧ 0x800 ≤ slotOf .cl (c / 8) := by
    simp only [slotOf]
    split <;> omega
  have h1 : slotOf .ctx n = 0x200 + n := rfl
  have h2 : slotOf .sbox 0 = 0x101 := rfl
  have h3 : slotOf .evr 0 = 2 := rfl
  constructor
  all_goals refine h _ ?_ ?_ ?_ ?_ ?_ ?_ <;> simp only [cr, ro, h1, h2, h3] <;> omega

/-! ### Replay -/

/-- The stand-ins of a list of cores are as many. -/
theorem State.standIns_length {g : Gang} {l : List Nat} {s t : State} {x : List Nat} (h : s.standIns g l = some (x, t)) :
    x.length = l.length := by
  induction l generalizing s t x with
  | nil => simp_all [State.standIns]
  | cons c r ih =>
    unfold State.standIns at h
    dsimp only at h
    split at h
    · contradiction
    next y _ =>
      split at h
      · contradiction
      next l' t' hr =>
        obtain ⟨rfl, rfl⟩ := Prod.mk.inj (Option.some.inj h)
        simp [ih hr]

/-- A gang whose slice is to be replayed (05 R181). -/
def Gang.toReplay (core now : Nat) (g : Gang) : Gang :=
  { g with
    phase := .saved, replaying := true, replaysOfSlice := g.replaysOfSlice + 1, readyAt := now,
    slicesReplayed := g.slicesReplayed + 1, failed := some core,
    arrivals := g.startBarrier.1, generation := g.startBarrier.2 }

@[simp] theorem State.noteIdle_sbox (s : State) : s.noteIdle.sbox = s.sbox := by
  unfold State.noteIdle
  split <;> rfl

theorem State.gang_freeCores {u : Nat} {k : Gang} (hk : g.uid = u) (h : s.gang u = some k) :
    (s.freeCores g).gang u = some { k with cores := [] } := by
  have hh : (g.cores.foldl (fun s c => s.holdCore c none) s).gang u = some k := by
    rw [State.gang_of_sbox (State.foldl_sbox (fun s c => s.holdCore_sbox c none) _ _), h]
  have hg : ((((g.cores.foldl (fun s c => s.holdCore c none) s).updGang g.uid fun g => { g with cores := [] }).countCores).countHeld
      g.ctx).noteIdle.gang u = some { k with cores := [] } := by
    rw [State.gang_of_sbox (State.noteIdle_sbox _), State.gang_of_sbox (State.countHeld_sbox _ _),
      State.gang_of_sbox (State.countCores_sbox _), hk]
    exact State.gang_updGang_same (f := fun g => { g with cores := [] }) (fun _ => rfl) hh
  unfold State.freeCores
  dsimp only
  split
  · exact hg
  · rw [State.gang_of_sbox (State.foldl_sbox State.settleRun_sbox _ _), hg]

/-- The cores of a gang that is to replay are stopped; a failed one moves to its spare slot or is absent (05 R181). -/
def State.replayCleared (s : State) (g : Gang) : State :=
  let stop := fun (s : State) (c : Nat) =>
    (((s.notePc c).dropCoreYard c).setCore c { Core.reset with gang := some g.uid }).wr (ro .co c 0x48) 0
  let s := (g.cores.foldl stop s).dropColl g.uid
  let lost := g.cores.filter fun c => s.slotFailed c && !s.absent c
  let s := lost.foldl (fun (s : State) c => s.remap c) s
  if lost.any s.absent then s.evalWanted 3 else s

/-- The gang waits for the cores of its replay. -/
def State.replayQueued (s : State) (g : Gang) (core : Nat) : State :=
  let s := (s.replayCleared g).freeCores g
  (((s.updGang g.uid (Gang.toReplay core s.now)).addFld (cr g.ctx 0x138) 0 32 1).addFld (ro .sbox 0 0x6C) 0 32 1).raise
    0x1100 0x11C5 [.w (core / 8), .w (core % 8)] g.ctx

theorem State.replay_eq (s : State) (g : Gang) (core : Nat) : s.replay g core =
    match ((s.replayCleared g).standIns g g.cores).map Prod.fst, (s.replayQueued g core).gang g.uid with
    | some cs, some h => (s.replayQueued g core).grant h cs
    | _, _ => (s.replayQueued g core).settleRun g.ctx := rfl

theorem State.replayCleared_gangs (s : State) (g : Gang) : (s.replayCleared g).sbox.gangs = s.sbox.gangs := by
  have stop : ∀ l : List Nat, ((l.foldl (fun (s : State) (c : Nat) => (((s.notePc c).dropCoreYard c).setCore c
      { Core.reset with gang := some g.uid }).wr (ro .co c 0x48) 0) s).dropColl g.uid).sbox.gangs = s.sbox.gangs := fun l =>
    State.foldl_gangs (fun v c => by rw [State.wr_sbox, State.setCore_sbox, State.dropCoreYard_gangs, State.notePc_sbox]) l s
  have move : ∀ (v : State) (l : List Nat),
      (l.foldl (fun (s : State) c => s.remap c) v).sbox.gangs = v.sbox.gangs := fun v l =>
    State.foldl_gangs (fun v c => by rw [State.remap_sbox]) l v
  unfold State.replayCleared
  dsimp only
  split
  · exact (move _ _).trans (stop _)
  · exact (move _ _).trans (stop _)

theorem State.gang_replayQueued {k : Gang} (core : Nat) (h : s.gang g.uid = some k) :
    ∃ y, (s.replayQueued g core).gang g.uid = some y ∧ y.uid = g.uid ∧ y.replaysOfSlice = k.replaysOfSlice + 1 ∧
      y.failed = some core ∧ y.replaying = true ∧ y.phase = .saved ∧ y.cores = [] := by
  have hc : (s.replayCleared g).gang g.uid = some k := (State.gang_of_gangs (s.replayCleared_gangs g) _).trans h
  have hf := State.gang_freeCores rfl hc
  have hq : (s.replayQueued g core).gang g.uid =
      some (Gang.toReplay core ((s.replayCleared g).freeCores g).now { k with cores := [] }) := by
    unfold State.replayQueued
    dsimp only
    rw [State.gang_of_sbox (State.raise_sbox _ _ _ _ _ _)]
    exact State.gang_updGang_same (fun _ => rfl) hf
  exact ⟨_, hq, State.uid_of_gang hq, rfl, rfl, rfl, rfl, rfl⟩

/-- What the replay of a slice leaves of its gang. -/
theorem State.gang_replay {k : Gang} (core : Nat) (h : s.gang g.uid = some k) :
    ∃ x, (s.replay g core).gang g.uid = some x ∧ x.replaysOfSlice = k.replaysOfSlice + 1 ∧ x.failed = some core ∧
      x.replaying = true ∧ (x.phase = .restoring ∧ x.cores.length = g.cores.length ∨ x.phase = .saved ∧ x.cores = []) := by
  obtain ⟨y, hq, hu, hn, hf, hr, hp, hcs⟩ := State.gang_replayQueued core h
  rw [State.replay_eq]
  split
  next cs x hcs hx =>
    obtain rfl := Option.some.inj (hq.symm.trans hx)
    obtain ⟨⟨cs, t⟩, hst, rfl⟩ := Option.map_eq_some_iff.1 hcs
    exact ⟨_, State.gang_grant_saved cs hu (by simp [hp]) hq, hn, hf, hr, .inl ⟨rfl, State.standIns_length hst⟩⟩
  · exact ⟨y, (State.gang_of_sbox (State.settleRun_sbox _ _) _).trans hq, hn, hf, hr, .inr ⟨hp, hcs⟩⟩

/-! ### The move to the spare slot -/

theorem State.remap_fld (s : State) (c : Nat) :
    (s.remap c).fld (ro .cl (c / 8) 0x40) (c % 8 * 4) 4 = if s.spareFree (c / 8) then 8 else 15 := by
  have hlo : c % 8 * 4 + 4 ≤ 32 := by omega
  have hset : ∀ n, n < 16 → (s.setFld (ro .cl (c / 8) 0x40) (c % 8 * 4) 4 n).fld (ro .cl (c / 8) 0x40) (c % 8 * 4) 4 = n :=
    fun n hn => (State.fld_setFld _ _ _ _ _ hlo).trans (Nat.mod_eq_of_lt hn)
  unfold State.remap
  dsimp only
  split
  · rw [State.fld, State.raise_rd _ _ _ _ _ _ (by simp only [ro]; omega) (by simp only [ro]; omega)]
    exact hset 8 (by decide)
  · exact hset 15 (by decide)

theorem State.countCores_fld (s : State) {a : Nat} (lo w : Nat) (h : ro .sbox 0 0x58 ≠ a) :
    s.countCores.fld a lo w = s.fld a lo w := by
  unfold State.countCores
  dsimp only
  simp only [State.fld_setFld_other _ _ _ _ _ _ h]

/-! ### The three commands -/

/-- A fault of a slice that has no image ends the RUN (05 R182). -/
theorem State.gangFault_ends (hi : g.imaged = false) (hr : g.replaysOfSlice = 0)
    (h : (s.text.steps.find? fun r => r.gang == g.uid) = none) (c : Nat) :
    (s.gangFault g c).reported g.desc .deviceFault 0 g.slicesReplayed := by
  have hg : s.gangFault g c = s.finishGang g .deviceFault 0 := by
    unfold State.gangFault
    simp only [hi, hr, Bool.false_and, Bool.false_eq_true, false_and, if_false, Nat.lt_irrefl]
  rw [hg]
  exact (State.finishGang_ends h _ _).1

theorem State.gangFault_replays (hi : g.imaged = true) (hn : g.noReplay = false) (hr : s.bit (cr g.ctx 0x120) 23 = false)
    (hm : g.replaysOfSlice < s.replayMax g.ctx) (c : Nat) : s.gangFault g c = s.replay g c := by
  unfold State.gangFault
  simp only [hi, hn, hr, hm, Bool.not_false, Bool.and_self, and_self, if_true]

theorem coreFault_replays {c : Fin 64} {k : Fin 4} {unit : Fin 8} (h : s.gangOf c = some g) (hi : g.imaged = true)
    (hn : g.noReplay = false) (hr : s.bit (cr g.ctx 0x120) 23 = false) (hctx : g.ctx < 256)
    (hm : g.replaysOfSlice < s.replayMax g.ctx) :
    exec (.coreFault c k unit) s = .next ((s.faultNoted c (0x10 + k) unit g.ctx).replay g c) := by
  obtain ⟨hbit, hword⟩ := s.faultNoted_rd c (0x10 + k) unit g.ctx hctx (o := 0x120) (by decide)
  rw [coreFault_exec h]
  generalize s.faultNoted c (0x10 + k) unit g.ctx = v at hbit hword ⊢
  have hr' : v.bit (cr g.ctx 0x120) 23 = false := by rw [State.bit, State.fld, hbit]; exact hr
  have hm' : v.replayMax g.ctx = s.replayMax g.ctx := by simp only [State.replayMax, State.fld, hword]
  rw [State.gangFault_replays hi hn hr' (hm' ▸ hm)]

/-- An evaluation is due where a core is lost (05 R155). -/
def State.wantedIf (s : State) (b : Bool) : State := if b then s.evalWanted 3 else s

theorem State.wantedIf_rd (s : State) (b : Bool) (a : Nat) : (s.wantedIf b).rd a = s.rd a := by
  unfold State.wantedIf
  split <;> rfl

theorem coreRemap_exec {c : Fin 64} (habs : s.absent c = false) (hfail : s.slotFailed c = true)
    (hgang : (s.core c).gang = none) : ∃ t, exec (.coreRemap c) s = .next t ∧ ∀ a, t.rd a = (s.remap c).countCores.rd a := by
  have hx : exec (.coreRemap c) s = .next ((s.remap c).countCores.wantedIf ((s.remap c).countCores.absent c)) := by
    show execCoreRemap c s = _
    unfold execCoreRemap
    simp only [habs, hfail, hgang, Bool.not_true, Bool.false_eq_true, Option.isSome_none, or_self, if_false]
    rfl
  exact ⟨_, hx, State.wantedIf_rd _ _⟩

end

/-- Settles O28. -/
theorem runsEndAndCoresFail : Obligations.RunsEndAndCoresFail := by
  refine ⟨fun s u g h hph hq hst => ?_, fun s c k unit g h => ⟨fun hi hr hst => ?_, fun hi hn hroom hctx hmax => ?_⟩,
    fun s c habs hfail hgang => ?_⟩
  · refine completes_next (t := s.finishGang g .ok
      ((g.cores.head?.map fun c => ((s.core c).tc0.x.look 0 10).toNat).getD 0)) ?_ (State.finishGang_ends hst _ _)
    show execRunEnd u s = _
    obtain hph | hph := hph <;> simp [execRunEnd, h, hph, hq]
  · obtain ⟨-, htext, -⟩ := s.faultNoted_kept c (0x10 + k) unit g.ctx
    refine completes_next (coreFault_exec h) ?_
    exact State.gangFault_ends hi hr (htext ▸ hst) _
  · obtain ⟨hsbox, -, -⟩ := s.faultNoted_kept c (0x10 + k) unit g.ctx
    have hgang := (State.gang_of_sbox hsbox g.uid).trans (State.gang_of_gangOf h)
    exact completes_next (coreFault_replays h hi hn hroom hctx hmax) (State.gang_replay c.val hgang)
  · obtain ⟨t, hx, hrd⟩ := coreRemap_exec habs hfail hgang
    refine completes_next hx ?_
    rw [State.fld, hrd]
    exact (State.countCores_fld _ _ _ (by simp only [ro]; omega)).trans (s.remap_fld c)

end Sys2Proof.Machine
end

section
/-! Core control and tidy-core instructions (O29). -/

namespace Sys2Proof.Machine

section
variable {s u : State} {c tc : Nat}

/-! ### Going on -/

theorem State.tcLen_of_pc (hm : u.mem = s.mem) (hpc : ((u.core c).tidy tc).pc = ((s.core c).tidy tc).pc) :
    u.tcLen c tc = s.tcLen c tc := by
  simp only [State.tcLen, hm, hpc]

/-- A tidy core whose program counter stands passes its instruction. -/
theorem State.goesOn_tcPass {n : Nat} (hn : n = s.tcLen c tc) (hpc : ((u.core c).tidy tc).pc = ((s.core c).tidy tc).pc)
    (ho : ∀ k, k ≠ c → u.core k = s.core k) : s.goesOn (u.tcPass c tc n) c tc := by
  refine ⟨?_, fun k h => (State.core_updTidy_other _ _ _ h).trans (ho k h)⟩
  rw [State.tcPass, State.tidy_updTidy_same, ← hn, ← hpc]
  rfl

theorem State.goesOn_tcNext_pc (hm : u.mem = s.mem) (hpc : ((u.core c).tidy tc).pc = ((s.core c).tidy tc).pc)
    (ho : ∀ k, k ≠ c → u.core k = s.core k) : s.goesOn (u.tcNext c tc) c tc :=
  State.goesOn_tcPass (State.tcLen_of_pc hm hpc) hpc ho

/-- What reads the cores alone does not see another part of the state change. -/
theorem State.goesOn_congr {t : State} (h : s.goesOn u c tc) (hc : t.cores = u.cores) : s.goesOn t c tc := by
  obtain ⟨h1, h2⟩ := h
  have hk : ∀ k, t.core k = u.core k := State.core_congr hc
  exact ⟨(hk c).symm ▸ h1, fun k hne => (hk k).trans (h2 k hne)⟩

@[simp] theorem State.tcNext_mem (s : State) (c t : Nat) : (s.tcNext c t).mem = s.mem := rfl

@[simp] theorem State.tcPass_mem (s : State) (c t n : Nat) : (s.tcPass c t n).mem = s.mem := rfl

@[simp] theorem State.tcNext_regs (s : State) (c t : Nat) : (s.tcNext c t).regs = s.regs := rfl

@[simp] theorem State.tcNext_sbox (s : State) (c t : Nat) : (s.tcNext c t).sbox = s.sbox := rfl

/-- Passing an instruction writes a core's tidy cores alone. -/
theorem State.core_tcNext (s : State) (c t : Nat) : ∃ a b, (s.tcNext c t).core c = { s.core c with tc0 := a, tc1 := b } := by
  obtain ⟨a, b, h⟩ := (s.core c).updTidy_eq t fun k => { k with pc := k.pc + BitVec.ofNat 32 (s.tcLen c t) }.retire
  exact ⟨a, b, (State.core_updCore_same _ _ _).trans h⟩

/-! ### Registers -/

/-- x0 reads 0 (07 R242). -/
theorem Tidy.xr_setReg (k : Tidy) {r : Nat} (hr : r < 32) (v : Word) (j : Nat) :
    (k.setReg r v).xr j = if j ≠ 0 ∧ j = r then v else k.xr j := by
  unfold Tidy.setReg Tidy.setX Tidy.xr
  rw [if_pos hr]
  by_cases hj : j = 0
  · simp [hj]
  · by_cases hr0 : r = 0
    · have : j ≠ r := fun e => hj (e.trans hr0)
      simp [hj, hr0]
    · by_cases hjr : j = r
      · simp [hjr, hr0, Tbl.look_put_same]
      · simp [hj, hjr, hr0, Tbl.look_put_other _ _ _ (Ne.symm hjr)]

theorem Tidy.setReg_pc (k : Tidy) (r : Nat) (v : Word) : (k.setReg r v).pc = k.pc := by
  unfold Tidy.setReg Tidy.setX Tidy.setF
  split
  · split <;> rfl
  · rfl

theorem Tidy.setReg_stall (k : Tidy) (r : Nat) (v : Word) : (k.setReg r v).stall = k.stall := by
  unfold Tidy.setReg Tidy.setX Tidy.setF
  split
  · split <;> rfl
  · rfl

theorem State.tidy_tcNext (s : State) (c t : Nat) : ((s.tcNext c t).core c).tidy t =
    { (s.core c).tidy t with pc := ((s.core c).tidy t).pc + BitVec.ofNat 32 (s.tcLen c t) }.retire :=
  State.tidy_updTidy_same _ _ _ _

/-- What a load leaves. -/
theorem State.tcLoaded_goesOn (s : State) (c t : Nat) {r : Nat} (hr : r < 32) (v : Word) :
    s.goesOn (s.tcLoaded c t r v) c t ∧ (s.tcLoaded c t r v).mem = s.mem ∧
    (∀ j, (((s.tcLoaded c t r v).core c).tidy t).xr j = if j ≠ 0 ∧ j = r then v else ((s.core c).tidy t).xr j) ∧
    (((s.tcLoaded c t r v).core c).tidy t).stall = ((s.core c).tidy t).stall := by
  refine ⟨State.goesOn_tcNext_pc rfl ?_ fun k h => State.core_updTidy_other _ _ _ h, rfl, fun j => ?_, ?_⟩
  · rw [State.tidy_updTidy_same, Tidy.setReg_pc]
  · rw [State.tcLoaded, State.tidy_tcNext, State.tidy_updTidy_same]
    exact Tidy.xr_setReg _ hr v j
  · rw [State.tcLoaded, State.tidy_tcNext, State.tidy_updTidy_same]
    exact Tidy.setReg_stall _ _ _

/-- A load into a register that the instruction names. -/
theorem State.tcLoaded_xr (s : State) (c t : Nat) (r : Fin 32) (v : Word) :
    (((s.tcLoaded c t r v).core c).tidy t).xr r = if r = 0 then 0 else v := by
  rw [(s.tcLoaded_goesOn c t r.isLt v).2.2.1]
  by_cases h : r = 0
  · simp [h, Tidy.xr]
  · have : r.val ≠ 0 := fun e => h (Fin.ext e)
    simp [h, this]

end

/-! ### Core control -/

section
variable {s : State} {c : Fin 64} {tc : Fin 2}

theorem semWrite_completes (h : s.tcRuns c tc = true) (sem : Fin 32) (val : Word) :
    completes (.semWrite c tc sem val) s (fun t => s.goesOn t c tc ∧ t.mem = s.mem ∧ t.regs = s.regs ∧
      (t.core c).sems.look 0 sem = (s.core c).sems.look 0 sem + BitVec.ofNat 16 (bitsOf val 0 16) ∧
      ∀ k : Nat, k ≠ sem → (t.core c).sems.look 0 k = (s.core c).sems.look 0 k) := by
  have hx : exec (.semWrite c tc sem val) s = .next (s.semWrite c tc sem val) := if_pos h
  obtain ⟨a, b, hk⟩ := (s.semAdd c sem (bitsOf val 0 16)).core_tcNext c tc
  refine completes_next hx ⟨State.goesOn_tcNext_pc rfl ?_ fun k h => State.core_updCore_other _ _ h, rfl, rfl, ?_, ?_⟩
  · rw [State.semAdd, State.core_updCore_same]
    rfl
  · rw [State.semWrite, hk, State.semAdd, State.core_updCore_same]
    exact Tbl.look_put_same _ _ _ _
  · intro k hne
    rw [State.semWrite, hk, State.semAdd, State.core_updCore_same]
    exact Tbl.look_put_other _ _ _ (Ne.symm hne)

theorem semWaitRead_exec (h : s.tcRuns c tc = true) (rd : Fin 32) :
    exec (.semWaitRead c tc rd) s = .next (s.semWaitRead c tc rd) := if_pos h

theorem State.semWaitRead_holds {c tc : Nat} (h : s.semHolds c tc = true) (r : Nat) : s.semWaitRead c tc r =
    s.tcLoaded c tc r (((s.core c).sems.look 0 ((s.core c).tidy tc).waitSem).zeroExtend 32) := if_pos h

theorem State.semWaitRead_stalls {c tc : Nat} (h : s.semHolds c tc = false) (r : Nat) : s.semWaitRead c tc r =
    s.updTidy c tc fun k => { k with stall := .semWait r } := by simp [State.semWaitRead, h]

/-! ### The barrier -/

/-- What does not touch a core's place in the barrier or the list of gangs. -/
def State.barrierKept (s t : State) : Prop := t.sbox = s.sbox ∧ ∀ d, (t.core d).arrived = (s.core d).arrived

theorem State.barrierKept_trans {t u : State} (h : s.barrierKept t) (k : t.barrierKept u) : s.barrierKept u :=
  ⟨k.1.trans h.1, fun d => (k.2 d).trans (h.2 d)⟩

theorem State.updTidy_barrierKept (s : State) (c t : Nat) (f : Tidy → Tidy) : s.barrierKept (s.updTidy c t f) := by
  refine ⟨rfl, fun d => ?_⟩
  by_cases hd : d = c
  · subst hd
    obtain ⟨a, b, h⟩ := (s.core d).updTidy_eq t f
    rw [State.updTidy, State.core_updCore_same, h]
  · rw [State.core_updTidy_other _ _ _ hd]

theorem State.tcLoaded_barrierKept (s : State) (c t r : Nat) (v : Word) : s.barrierKept (s.tcLoaded c t r v) :=
  State.barrierKept_trans (State.updTidy_barrierKept _ _ _ _) (State.updTidy_barrierKept _ _ _ _)

theorem State.barrierRead_barrierKept (s : State) (c t r : Nat) : s.barrierKept (s.barrierRead c t r) := by
  unfold State.barrierRead
  split
  · split
    · exact State.tcLoaded_barrierKept _ _ _ _ _
    · exact State.updTidy_barrierKept _ _ _ _
  · exact State.barrierKept_trans (t := { s with free := s.free + 1 }) ⟨rfl, fun _ => rfl⟩
      (State.tcLoaded_barrierKept _ _ _ _ _)

theorem State.barrierGo_barrierKept (s : State) (c : Nat) : s.barrierKept (s.barrierGo c) := by
  have one : ∀ (v : State) (t : Nat), v.barrierKept (match ((v.core c).tidy t).stall with
      | .barrier r => (v.updTidy c t fun k => { k with stall := .none }).barrierRead c t r
      | _ => v) := fun v t => by
    split
    · exact State.barrierKept_trans (State.updTidy_barrierKept _ _ _ _) (State.barrierRead_barrierKept _ _ _ _)
    · exact ⟨rfl, fun _ => rfl⟩
  exact State.barrierKept_trans (one s 0) (one _ 1)

theorem State.foldl_barrierGo_kept (l : List Nat) (s : State) : s.barrierKept (l.foldl State.barrierGo s) := by
  induction l generalizing s with
  | nil => exact ⟨rfl, fun _ => rfl⟩
  | cons d l ih => exact State.barrierKept_trans (s.barrierGo_barrierKept d) (ih _)

/-- The cores of a gang leave the barrier together. -/
theorem State.arrived_cleared (l : List Nat) (s : State) : (l.foldl (fun (s : State) d =>
      s.updCore d fun k => { k with arrived := false }) s).sbox = s.sbox ∧
    ∀ d, ((l.foldl (fun (s : State) d => s.updCore d fun k => { k with arrived := false }) s).core d).arrived =
      ((s.core d).arrived && !l.contains d) := by
  induction l generalizing s with
  | nil => exact ⟨rfl, fun d => by simp⟩
  | cons e l ih =>
    obtain ⟨h1, h2⟩ := ih (s.updCore e fun k => { k with arrived := false })
    refine ⟨h1.trans rfl, fun d => (h2 d).trans ?_⟩
    by_cases hd : d = e
    · subst hd
      simp
    · rw [State.core_updCore_other _ _ hd]
      simp [hd]

section
variable {g : Gang}

theorem barrierArrive_waits (h : s.tcRuns c tc = true) (hg : s.gangOf c = some g) (ha : (s.core c).arrived = false)
    (hw : g.arrivals + 1 < g.width) : completes (.barrierArrive c tc) s (fun t => s.goesOn t c tc ∧
      t.gang g.uid = some { g with arrivals := g.arrivals + 1 } ∧ (t.core c).arrived = true ∧
      (t.core c).arrivedGen = some g.generation) := by
  obtain ⟨u, hu⟩ : ∃ u, u = (s.updCore c fun k => { k with arrivedGen := some g.generation, arrived := true }).tcNext c tc :=
    ⟨_, rfl⟩
  have hx : exec (.barrierArrive c tc) s =
      .next (u.updGang g.uid fun g => { g with arrivals := g.arrivals + 1 }) := by
    refine (if_pos h).trans ?_
    unfold State.barrierArrive
    simp only [hg, ha, hw, Bool.false_eq_true, if_false, if_true, hu]
  have hgo : s.goesOn u c tc := by
    rw [hu]
    refine State.goesOn_tcNext_pc rfl ?_ fun k h => State.core_updCore_other _ _ h
    rw [State.core_updCore_same]
    rfl
  obtain ⟨a, b, hk⟩ := (s.updCore c fun k => { k with arrivedGen := some g.generation, arrived := true }).core_tcNext c tc
  rw [State.core_updCore_same, ← hu] at hk
  have hgang : u.gang g.uid = some g := (State.gang_of_sbox (hu ▸ rfl) _).trans (State.gang_of_gangOf hg)
  refine completes_next hx ⟨State.goesOn_congr hgo rfl, State.gang_updGang_same (fun _ => rfl) hgang, ?_, ?_⟩
  · rw [State.core_updGang, hk]
  · rw [State.core_updGang, hk]

/-- The last arrival ends the generation (07 R253). -/
theorem barrierArrive_ends (h : s.tcRuns c tc = true) (hg : s.gangOf c = some g) (ha : (s.core c).arrived = false)
    (hw : g.width ≤ g.arrivals + 1) : completes (.barrierArrive c tc) s (fun t =>
      t.gang g.uid = some { g with arrivals := 0, generation := g.generation + 1 } ∧
      ∀ d ∈ g.cores, (t.core d).arrived = false) := by
  obtain ⟨u, hu⟩ : ∃ u, u = ((s.updCore c fun k => { k with arrivedGen := some g.generation, arrived := true }).tcNext c
    tc).updGang g.uid fun g => { g with arrivals := 0, generation := g.generation + 1 } := ⟨_, rfl⟩
  have hx : exec (.barrierArrive c tc) s = .next (g.cores.foldl State.barrierGo
      (g.cores.foldl (fun (s : State) d => s.updCore d fun k => { k with arrived := false }) u)) := by
    refine (if_pos h).trans ?_
    unfold State.barrierArrive
    simp only [hg, ha, Nat.not_lt.mpr hw, Bool.false_eq_true, if_false, hu]
  have hgang : u.gang g.uid = some { g with arrivals := 0, generation := g.generation + 1 } := by
    rw [hu]
    exact State.gang_updGang_same (fun _ => rfl)
      ((State.gang_of_sbox (s := s) ((State.tcNext_sbox _ _ _).trans (State.updCore_sbox _ _ _)) _).trans
        (State.gang_of_gangOf hg))
  obtain ⟨h1, h2⟩ := State.arrived_cleared g.cores u
  obtain ⟨h3, h4⟩ := State.foldl_barrierGo_kept g.cores
    (g.cores.foldl (fun (s : State) d => s.updCore d fun k => { k with arrived := false }) u)
  refine completes_next hx ⟨(State.gang_of_sbox (h3.trans h1) _).trans hgang, fun d hd => ?_⟩
  rw [h4, h2]
  simp [hd]

end

theorem barrierRead_exec (h : s.tcRuns c tc = true) (rd : Fin 32) :
    exec (.barrierRead c tc rd) s = .next (s.barrierRead c tc rd) := if_pos h

/-! ### LIVE and NONFINITE -/

theorem liveWrite_completes (h : s.tcRuns c tc = true) (val : Word) :
    completes (.liveWrite c tc val) s (fun t => s.goesOn t c tc ∧ t.mem = s.mem ∧
      (t.core c).live = BitVec.ofNat 24 (bitsOf val 0 24) ∧ t.fld (ro .co c 0x48) 0 24 = bitsOf val 0 24) := by
  have hx : exec (.liveWrite c tc val) s = .next (s.liveWrite c tc val) := if_pos h
  obtain ⟨u, hu⟩ : ∃ u, u = (s.updCore c fun k => { k with live := BitVec.ofNat 24 (bitsOf val 0 24) }) := ⟨_, rfl⟩
  have hl : s.liveWrite c tc val = (u.setFld (ro .co c 0x48) 0 24 (bitsOf val 0 24)).tcNext c tc := by rw [hu]; rfl
  have hcore : (u.setFld (ro .co c 0x48) 0 24 (bitsOf val 0 24)).core c =
      { s.core c with live := BitVec.ofNat 24 (bitsOf val 0 24) } := by
    rw [State.core_congr (State.setFld_cores _ _ _ _ _), hu, State.core_updCore_same]
  rw [hl] at hx
  refine completes_next hx ⟨State.goesOn_tcNext_pc (by rw [hu]; rfl) (by rw [hcore]; rfl) fun k hk => ?_,
    by rw [hu]; rfl, ?_, ?_⟩
  · rw [State.core_congr (State.setFld_cores _ _ _ _ _), hu, State.core_updCore_other _ _ hk]
  · obtain ⟨a, b, hk⟩ := (u.setFld (ro .co c 0x48) 0 24 (bitsOf val 0 24)).core_tcNext c tc
    rw [hk, hcore]
  · have hlt : bitsOf val 0 24 % 2 ^ 24 = bitsOf val 0 24 := Nat.mod_eq_of_lt (Nat.mod_lt _ (by decide))
    exact ((State.fld_setFld _ _ _ _ _ (by decide)).trans hlt)

@[simp] theorem State.meUnit_updMe_same (s : State) (c m : Nat) (f : MeUnit → MeUnit) :
    (s.updMe c m f).meUnit c m = f (s.meUnit c m) := by
  simp [State.updMe, State.meUnit, Tbl.look_put_same]

theorem State.meUnit_updMe_other (s : State) (c : Nat) {m j : Nat} (f : MeUnit → MeUnit) (h : j ≠ m) :
    (s.updMe c m f).meUnit c j = s.meUnit c j := by
  simp [State.updMe, State.meUnit, Tbl.look_put_other _ _ _ (Ne.symm h)]

@[simp] theorem State.tidy_updMe (s : State) (c m t : Nat) (f : MeUnit → MeUnit) :
    ((s.updMe c m f).core c).tidy t = (s.core c).tidy t := by simp [State.updMe, Core.tidy]

@[simp] theorem State.meUnit_tcNext (s : State) (c t m : Nat) : (s.tcNext c t).meUnit c m = s.meUnit c m := by
  obtain ⟨a, b, h⟩ := s.core_tcNext c t
  rw [State.meUnit, h, State.meUnit]

/-- NONFINITE of one ME is cleared by a 1. -/
def State.clearNonfinite (c : Nat) (val : Word) (s : State) (m : Nat) : State :=
  if bitsOf val m 1 = 1 then s.updMe c m fun u => { u with nonfinite := false } else s

theorem State.clearNonfinite_kept (c : Nat) (val : Word) (s : State) (m : Nat) :
    (s.clearNonfinite c val m).mem = s.mem ∧ (s.clearNonfinite c val m).regs = s.regs ∧
    (∀ t, ((s.clearNonfinite c val m).core c).tidy t = (s.core c).tidy t) ∧
    (∀ k, k ≠ c → (s.clearNonfinite c val m).core k = s.core k) ∧
    ∀ j, ((s.clearNonfinite c val m).meUnit c j).nonfinite =
      ((s.meUnit c j).nonfinite && !(j == m && bitsOf val m 1 == 1)) := by
  unfold State.clearNonfinite
  split
  next h =>
    refine ⟨rfl, rfl, fun t => State.tidy_updMe _ _ _ _ _, fun k hk => State.core_updCore_other _ _ hk, fun j => ?_⟩
    by_cases hj : j = m
    · subst hj
      simp [h]
    · simp [State.meUnit_updMe_other _ _ _ hj, hj]
  next h => exact ⟨rfl, rfl, fun _ => rfl, fun _ _ => rfl, fun j => by simp [h]⟩

theorem State.foldl_clearNonfinite (c : Nat) (val : Word) (l : List Nat) (s : State) :
    (l.foldl (State.clearNonfinite c val) s).mem = s.mem ∧ (l.foldl (State.clearNonfinite c val) s).regs = s.regs ∧
    (∀ t, ((l.foldl (State.clearNonfinite c val) s).core c).tidy t = (s.core c).tidy t) ∧
    (∀ k, k ≠ c → (l.foldl (State.clearNonfinite c val) s).core k = s.core k) ∧
    ∀ j, ((l.foldl (State.clearNonfinite c val) s).meUnit c j).nonfinite =
      ((s.meUnit c j).nonfinite && !(l.contains j && bitsOf val j 1 == 1)) := by
  induction l generalizing s with
  | nil => exact ⟨rfl, rfl, fun _ => rfl, fun _ _ => rfl, fun j => by simp⟩
  | cons m l ih =>
    obtain ⟨m0, r0, t0, o0, n0⟩ := State.clearNonfinite_kept c val s m
    obtain ⟨m1, r1, t1, o1, n1⟩ := ih (s.clearNonfinite c val m)
    refine ⟨m1.trans m0, r1.trans r0, fun t => (t1 t).trans (t0 t), fun k h => (o1 k h).trans (o0 k h), fun j => ?_⟩
    rw [List.foldl_cons, n1, n0]
    by_cases hj : j = m
    · subst hj
      by_cases hb : bitsOf val j 1 = 1 <;> simp [hb]
    · have hjm : (j == m) = false := beq_false_of_ne hj
      rw [List.contains_cons, hjm, Bool.false_and, Bool.not_false, Bool.and_true, Bool.false_or]

theorem nonfiniteClear_completes (h : s.tcRuns c tc = true) (val : Word) :
    completes (.nonfiniteClear c tc val) s (fun t => s.goesOn t c tc ∧ t.mem = s.mem ∧ t.regs = s.regs ∧
      ∀ m : Fin 4, (t.meUnit c m).nonfinite = ((s.meUnit c m).nonfinite && bitsOf val m 1 != 1)) := by
  have hx : exec (.nonfiniteClear c tc val) s = .next (((List.range 4).foldl (State.clearNonfinite c val) s).tcNext c tc) :=
    if_pos h
  obtain ⟨m0, r0, t0, o0, n0⟩ := State.foldl_clearNonfinite c val (List.range 4) s
  refine completes_next hx ⟨State.goesOn_tcNext m0 (t0 tc) o0, m0, r0, fun m => ?_⟩
  rw [State.meUnit_tcNext, n0]
  simp [bne]

/-! ### Loads and stores in the scratches -/

section
variable {w len : Nat}

theorem State.tcFetch_of_tcAt {c tc : Nat} {kind : RvKind} (h : s.tcAt c tc kind = some (w, len)) :
    s.tcRuns c tc = true ∧ s.tcFetch c tc = some (w, len) ∧ rvKind w = kind := by
  unfold State.tcAt at h
  split at h
  next hr =>
    obtain ⟨h1, h2⟩ := Option.filter_eq_some_iff.1 h
    exact ⟨hr, h1, of_decide_eq_true h2⟩
  · contradiction

/-- A memory instruction that is no vector's and does not reach the core bay. -/
theorem tcLoadStore_exec (h : s.tcAt c tc .memory = some (w, len)) (hb : s.tcInBay c tc w = false)
    (hv : isVector w = false) : exec (.tcLoadStore c tc none) s = .next (s.tcMemory c tc w) := by
  show execTcLoadStore c tc none s = _
  unfold execTcLoadStore
  simp only [h, hb, hv, Bool.false_eq_true, if_false]

/-- A load from the scratches (07 R244). -/
theorem State.tcLoad_scratch {c tc a n r : Nat} {fix : Nat → Word} (ha : a < 0x20000) (hn : a + n ≤ 0x20000) :
    s.tcLoad c tc a n r fix =
      s.tcLoaded c tc r (fix (leNat ((List.range n).map fun i => memGet s.mem (scratchKey c tc (a + i))))) := by
  have hacc : s.tcAccess c tc a n false = .scratch a := by
    unfold State.tcAccess
    simp only [ha, hn, if_true]
  unfold State.tcLoad
  simp only [hacc, State.tcBytes]

/-- The bytes of a word that a store puts into the scratches. -/
def State.putScratch (c tc a val : Nat) (s : State) (i : Nat) : State :=
  s.store (scratchKey c tc (a + i)) (leBytes 1 (val / 256 ^ i))

theorem State.tcStore_scratch {c tc a n : Nat} {val : Word} (ha : a < 0x20000) (hn : a + n ≤ 0x20000) :
    s.tcStore c tc a n val = ((List.range n).foldl (State.putScratch c tc a val.toNat) s).tcPass c tc (s.tcLen c tc) := by
  have hacc : s.tcAccess c tc a n true = .scratch a := by
    unfold State.tcAccess
    simp only [ha, hn, if_true]
  unfold State.tcStore
  simp only [hacc]
  rfl

/-- Two bytes of the scratches of one core have two keys. -/
theorem scratchKey_inj {c tc a b : Nat} (ht : tc < 2) (ha : a < 0x20000) (hb : b < 0x20000)
    (h : scratchKey c tc a = scratchKey c tc b) : a = b := by
  unfold scratchKey kScratch at h
  split at h <;> split at h <;> omega

theorem State.putScratch_mem (c tc a val : Nat) (s : State) (i : Nat) :
    (State.putScratch c tc a val s i).mem = memPut s.mem (scratchKey c tc (a + i)) (BitVec.ofNat 8 (val / 256 ^ i)) :=
  State.store_mem _ _ _

theorem State.putScratch_cores (c tc a val : Nat) (s : State) (i : Nat) : (State.putScratch c tc a val s i).cores = s.cores := by
  rw [State.putScratch, State.store_cores]

theorem State.foldl_putScratch_kept (c tc a val : Nat) (l : List Nat) (s : State) :
    (l.foldl (State.putScratch c tc a val) s).cores = s.cores :=
  foldl_kept State.cores (State.putScratch c tc a val) (fun s i => State.putScratch_cores c tc a val s i) l s

/-- What the stores of a list of bytes leave in memory. -/
theorem State.foldl_putScratch_mem {c tc a val : Nat} (l : List Nat) (hl : l.Nodup) (s : State) (hm : Memory.wf s.mem = true)
    (hinj : ∀ i ∈ l, ∀ j ∈ l, scratchKey c tc (a + i) = scratchKey c tc (a + j) → i = j) :
    (∀ i ∈ l, memGet (l.foldl (State.putScratch c tc a val) s).mem (scratchKey c tc (a + i)) =
      BitVec.ofNat 8 (val / 256 ^ i)) ∧
    ∀ k, (∀ i ∈ l, k ≠ scratchKey c tc (a + i)) →
      memGet (l.foldl (State.putScratch c tc a val) s).mem k = memGet s.mem k := by
  induction l generalizing s with
  | nil => exact ⟨fun i hi => absurd hi (List.not_mem_nil), fun k _ => rfl⟩
  | cons i l ih =>
    obtain ⟨hi, hl⟩ := List.nodup_cons.1 hl
    have hm' : Memory.wf (State.putScratch c tc a val s i).mem = true := by
      rw [State.putScratch_mem]
      exact Memory.memPut_wf _ _ hm
    obtain ⟨h1, h2⟩ := ih hl (State.putScratch c tc a val s i) hm' fun x hx y hy =>
      hinj x (List.mem_cons_of_mem _ hx) y (List.mem_cons_of_mem _ hy)
    refine ⟨fun x hx => ?_, fun k hk => ?_⟩
    · obtain rfl | hx := List.mem_cons.1 hx
      · rw [List.foldl_cons, h2, State.putScratch_mem, memGet_memPut _ _ _ hm, if_pos rfl]
        intro y hy e
        exact hi (hinj x List.mem_cons_self y (List.mem_cons_of_mem _ hy) e ▸ hy)
      · exact h1 x hx
    · rw [List.foldl_cons, h2 k fun y hy => hk y (List.mem_cons_of_mem _ hy), State.putScratch_mem,
        memGet_memPut _ _ _ hm, if_neg (hk i List.mem_cons_self).symm]

/-- LW from the scratches. -/
theorem lw_completes (h : s.tcAt c tc .memory = some (w, len)) (hw : w % 128 = 0x03) (hf : ib w 12 3 = 2)
    (ha : (((s.core c).tidy tc).xr (ib w 15 5) + BitVec.ofInt 32 (immI w)).toNat + 4 ≤ 0x20000) :
    completes (.tcLoadStore c tc none) s (fun t => s.goesOn t c tc ∧ t.mem = s.mem ∧
      ∀ r : Nat, ((t.core c).tidy tc).xr r = if r ≠ 0 ∧ r = ib w 7 5 then
        BitVec.ofNat 32 (leNat ((List.range 4).map fun i => memGet s.mem (scratchKey c tc
          ((((s.core c).tidy tc).xr (ib w 15 5) + BitVec.ofInt 32 (immI w)).toNat + i))))
        else ((s.core c).tidy tc).xr r) := by
  have hv : isVector w = false := by simp [isVector, hw]
  have hb : s.tcInBay c tc w = false := by
    unfold State.tcInBay
    simp only [hv, hw, Bool.false_eq_true, if_false, Nat.reduceEqDiff, or_self]
    exact Bool.and_eq_false_iff.2 (.inl (decide_eq_false (by omega)))
  have hrd : ib w 7 5 < 32 := Nat.mod_lt _ (by decide)
  have hx := tcLoadStore_exec h hb hv
  unfold State.tcMemory at hx
  simp only [hw, hf, Nat.reduceMod, Nat.reducePow] at hx
  rw [State.tcLoad_scratch (by omega) ha] at hx
  obtain ⟨h1, h2, h3, -⟩ := s.tcLoaded_goesOn c tc hrd (loadFix 2 (leNat ((List.range 4).map fun i =>
    memGet s.mem (scratchKey c tc ((((s.core c).tidy tc).xr (ib w 15 5) + BitVec.ofInt 32 (immI w)).toNat + i)))))
  exact completes_next hx ⟨h1, h2, h3⟩

/-- A word stored into the scratches at address `a`. -/
theorem State.storeWord_leaves {c tc a : Nat} {val : Word} (htc : tc < 2) (ha : a + 4 ≤ 0x20000) (hi : s.Inv) :
    s.goesOn (s.tcStore c tc a 4 val) c tc ∧
    (∀ i < 4, memGet (s.tcStore c tc a 4 val).mem (scratchKey c tc (a + i)) = BitVec.ofNat 8 (val.toNat / 256 ^ i)) ∧
    ∀ k, (∀ i < 4, k ≠ scratchKey c tc (a + i)) → memGet (s.tcStore c tc a 4 val).mem k = memGet s.mem k := by
  rw [State.tcStore_scratch (by omega) ha]
  have hcores := State.foldl_putScratch_kept c tc a val.toNat (List.range 4) s
  obtain ⟨h1, h2⟩ := State.foldl_putScratch_mem (c := c) (tc := tc) (a := a) (val := val.toNat) (List.range 4)
    List.nodup_range s hi.mem fun i hi j hj e => by
      have hi := List.mem_range.1 hi
      have hj := List.mem_range.1 hj
      exact Nat.add_left_cancel (scratchKey_inj htc (by omega) (by omega) e)
  generalize (List.range 4).foldl (State.putScratch c tc a val.toNat) s = u at hcores h1 h2 ⊢
  rw [State.tcPass_mem]
  refine ⟨State.goesOn_tcPass rfl ?_ fun k _ => State.core_congr hcores k,
    fun i hi => h1 i (List.mem_range.2 hi), fun k hk => h2 k fun i hi => hk i (List.mem_range.1 hi)⟩
  rw [State.core_congr hcores]

/-- SW into the scratches. -/
theorem sw_completes (h : s.tcAt c tc .memory = some (w, len)) (hw : w % 128 = 0x23) (hf : ib w 12 3 = 2)
    (ha : (((s.core c).tidy tc).xr (ib w 15 5) + BitVec.ofInt 32 (immS w)).toNat + 4 ≤ 0x20000) (hi : s.Inv) :
    completes (.tcLoadStore c tc none) s (fun t => s.goesOn t c tc ∧
      (∀ i < 4, memGet t.mem (scratchKey c tc ((((s.core c).tidy tc).xr (ib w 15 5) + BitVec.ofInt 32 (immS w)).toNat + i)) =
        BitVec.ofNat 8 ((((s.core c).tidy tc).xr (ib w 20 5)).toNat / 256 ^ i)) ∧
      ∀ a, (∀ i < 4, a ≠ scratchKey c tc ((((s.core c).tidy tc).xr (ib w 15 5) + BitVec.ofInt 32 (immS w)).toNat + i)) →
        memGet t.mem a = memGet s.mem a) := by
  have hv : isVector w = false := by simp [isVector, hw]
  have hb : s.tcInBay c tc w = false := by
    unfold State.tcInBay
    simp only [hv, hw, Bool.false_eq_true, if_false, true_or, if_true]
    exact Bool.and_eq_false_iff.2 (.inl (decide_eq_false (by omega)))
  have hx := tcLoadStore_exec h hb hv
  unfold State.tcMemory at hx
  simp only [hw, hf, Nat.reducePow] at hx
  exact completes_next hx (State.storeWord_leaves tc.isLt ha hi)

/-! ### The end of a part, and program errors -/

theorem State.tcError_ends {c tc cause : Nat} {g : Gang} (hg : s.gangOf c = some g)
    (h : (s.text.steps.find? fun r => r.gang == g.uid) = none) : s.programError (s.tcError c tc cause) g c tc cause := by
  unfold State.programError State.tcError State.progErrorAt State.progStop
  simp only [hg]
  refine State.finishGang_ends ?_ _ _
  rw [State.raise_text]
  exact h

theorem tcEcall_ends (h : s.tcAt c tc .ecall = some (w, len)) (ha : ((s.core c).tidy tc).xr 17 = 0) :
    completes (.tcEcall c tc) s (fun t => ((t.core c).tidy tc).ended = true ∧ t.mem = s.mem ∧ t.regs = s.regs ∧
      ∀ k, k ≠ c.val → t.core k = s.core k) := by
  refine ⟨s.updTidy c tc fun k => { k with ended := true, stepping := false }, ?_, ?_, rfl, rfl,
    fun k hk => State.core_updTidy_other _ _ _ hk⟩
  · show execTcEcall c tc s = _
    unfold execTcEcall
    simp only [h, ha, if_true]
  · rw [State.tidy_updTidy_same]

theorem illegal_zero : rvKind 0 = .other ∧ ∀ (k : Tidy) (n len : Nat), (k.run n 0 len).isNone = true :=
  ⟨rfl, fun _ _ _ => rfl⟩

theorem tcIllegal_exec {g : Gang} (hr : s.tcRuns c tc = true) {cause : Nat}
    (hf : s.tcFetch c tc = none ∧ cause = 2 ∨ s.tcFetch c tc = some (0, len) ∧ cause = 1) (hg : s.gangOf c = some g)
    (h : (s.text.steps.find? fun r => r.gang == g.uid) = none) :
    completes (.tcIllegalInstruction c tc) s (fun t => s.programError t g c tc cause) := by
  refine completes_next ?_ (State.tcError_ends hg h)
  show execTcIllegalInstruction c tc s = _
  unfold execTcIllegalInstruction
  obtain ⟨hf, rfl⟩ | ⟨hf, rfl⟩ := hf
  · simp only [hr, hf, Bool.not_true, Bool.false_eq_true, if_false]
  · obtain ⟨h1, h2⟩ := illegal_zero
    simp only [hr, hf, Bool.not_true, Bool.false_eq_true, if_false, h1, h2, true_and, true_or, if_true]

end

end

/-- Settles O29. -/
theorem coreControlAndTidyInstructions : Obligations.CoreControlAndTidyInstructions := by
  refine ⟨fun c tc rd val s => ⟨fun hr => ⟨fun sem => semWrite_completes hr sem val, fun hh => ?_, fun hh => ?_, fun g hg ha =>
      ⟨barrierArrive_waits hr hg ha, barrierArrive_ends hr hg ha⟩, fun n g hn hg => ⟨fun hlt => ?_, fun hle => ?_⟩,
      liveWrite_completes hr val, nonfiniteClear_completes hr val⟩, fun hst hr hh => ?_⟩,
    fun c tc w len s => ⟨fun h => ⟨lw_completes h, sw_completes h⟩, tcEcall_ends, fun g hg hst =>
      ⟨fun h ha => ?_, fun h hd => ?_, fun hr hf => tcIllegal_exec (len := len) hr (.inl ⟨hf, rfl⟩) hg hst,
        fun hr hf => tcIllegal_exec hr (.inr ⟨hf, rfl⟩) hg hst⟩⟩⟩
  · obtain ⟨h1, h2, -⟩ := s.tcLoaded_goesOn c tc rd.isLt (((s.core c).sems.look 0 ((s.core c).tidy tc).waitSem).zeroExtend 32)
    refine completes_next (semWaitRead_exec hr rd) ?_
    rw [State.semWaitRead_holds hh]
    exact ⟨h1, h2, s.tcLoaded_xr c tc rd _⟩
  · refine completes_next (semWaitRead_exec hr rd) ?_
    rw [State.semWaitRead_stalls hh, State.tidy_updTidy_same]
    exact ⟨rfl, rfl⟩
  · have hb : s.barrierRead c tc rd = s.tcLoaded c tc rd (BitVec.ofNat 32 n) := by
      unfold State.barrierRead
      simp only [hn, hg, hlt, if_true]
    obtain ⟨h1, h2, -⟩ := s.tcLoaded_goesOn c tc rd.isLt (BitVec.ofNat 32 n)
    refine completes_next (barrierRead_exec hr rd) ?_
    rw [hb]
    exact ⟨h1, h2, s.tcLoaded_xr c tc rd _⟩
  · have hb : s.barrierRead c tc rd = s.updTidy c tc fun k => { k with stall := .barrier rd } := by
      unfold State.barrierRead
      simp only [hn, hg, Nat.not_lt.mpr hle, if_false]
    refine completes_next (barrierRead_exec hr rd) ?_
    rw [hb, State.tidy_updTidy_same]
  · obtain ⟨u, hu⟩ : ∃ u, u = s.updTidy c tc fun k => { k with stall := .none } := ⟨_, rfl⟩
    have htidy : (u.core c).tidy tc = { (s.core c).tidy tc with stall := .none } := by rw [hu, State.tidy_updTidy_same]
    have hsems : (u.core c).sems = (s.core c).sems := by
      obtain ⟨a, b, hk⟩ := (s.core c).updTidy_eq tc fun k => { k with stall := .none }
      rw [hu, State.updTidy, State.core_updCore_same, hk]
    have hholds : u.semHolds c tc = true := by
      unfold State.semHolds Core.semReached at hh ⊢
      simpa only [htidy, hsems] using hh
    have hx : exec (.semWaitRelease c tc) s = .next (u.semWaitRead c tc rd) := by
      show execSemWaitRelease c tc s = _
      unfold execSemWaitRelease
      simp only [hst, hr, hh, and_self, if_true, hu]
    obtain ⟨⟨h1, h2⟩, -, -, h4⟩ := u.tcLoaded_goesOn c tc rd.isLt
      (((u.core c).sems.look 0 ((u.core c).tidy tc).waitSem).zeroExtend 32)
    have hlen : u.tcLen c tc = s.tcLen c tc := State.tcLen_of_pc (by rw [hu]; rfl) (by rw [htidy])
    rw [State.semWaitRead_holds hholds] at hx
    refine completes_next hx ⟨⟨?_, fun k hk => (h2 k hk).trans (hu ▸ State.core_updTidy_other _ _ _ hk)⟩, ?_, ?_⟩
    · rw [h1, hlen, htidy]
    · rw [h4, htidy]
    · rw [State.tcLoaded_xr, hsems, htidy]
  · refine completes_next ?_ (State.tcError_ends hg hst)
    show execTcEcall c tc s = _
    unfold execTcEcall
    simp only [h, ha, if_false]
  · refine completes_next ?_ (State.tcError_ends hg hst)
    show execTcEbreak c tc s = _
    unfold execTcEbreak
    simp only [h, hd, Bool.false_eq_true, if_false]

end Sys2Proof.Machine
end

section
/-! The debug page, and the owners of cluster SRAM slices (O30). -/

namespace Sys2Proof.Machine

/-! ### The debug page -/

section
variable {s : State} {c : Fin 64} {tc : Fin 2}

/-- What a command of CTL does to a tidy core that runs (07 R269). -/
def Tidy.commanded (op : Nat) (k : Tidy) : Tidy :=
  match op with
  | 1 => { k with halted := true, stepping := false }
  | 2 => { k with halted := false, stepping := false }
  | 3 => { k with stepping := k.halted }
  | _ => k

/-- The field of tidy core `t` in CTL. -/
def State.commandOne (c : Nat) (val : Word) (s : State) (t : Nat) : State :=
  if ((s.core c).tidy t).runs then
    match bitsOf val (2 * t) 2 with
    | 1 => s.updTidy c t fun k => { k with halted := true, stepping := false }
    | 2 => s.updTidy c t fun k => { k with halted := false, stepping := false }
    | 3 => s.updTidy c t fun k => { k with stepping := k.halted }
    | _ => s
  else s

theorem State.debugCtl_eq (s : State) (c : Nat) (val : Word) :
    s.debugCtl c val = State.commandOne c val (State.commandOne c val s 0) 1 := rfl

theorem State.commandOne_none {c t : Nat} {val : Word} (h : bitsOf val (2 * t) 2 = 0) : State.commandOne c val s t = s := by
  unfold State.commandOne
  simp only [h, ite_self]

theorem State.commandOne_some {c t op : Nat} {val : Word} (h : bitsOf val (2 * t) 2 = op) (ho : op = 1 ∨ op = 2 ∨ op = 3)
    (hr : ((s.core c).tidy t).runs = true) : State.commandOne c val s t = s.updTidy c t (Tidy.commanded op) := by
  unfold State.commandOne
  obtain rfl | rfl | rfl := ho <;> simp only [h, hr, if_true] <;> rfl

theorem command_bits : ∀ (op : Fin 4) (tc t : Fin 2),
    bitsOf (BitVec.ofNat 32 (op.val * 4 ^ tc.val)) (2 * t.val) 2 = if t = tc then op.val else 0 := by decide

/-- The command of one tidy core leaves the other alone. -/
theorem State.debugCtl_one (op : Fin 4) (ho : op.val = 1 ∨ op.val = 2 ∨ op.val = 3) (hr : ((s.core c).tidy tc).runs = true) :
    s.debugCtl c (BitVec.ofNat 32 (op.val * 4 ^ tc.val)) = s.updTidy c tc (Tidy.commanded op) := by
  have h0 := command_bits op tc 0
  have h1 := command_bits op tc 1
  rw [State.debugCtl_eq]
  obtain rfl | rfl : tc = 0 ∨ tc = 1 := by omega
  · rw [State.commandOne_some (t := 0) h0 ho hr]
    exact State.commandOne_none h1
  · rw [State.commandOne_none (t := 0) h0]
    exact State.commandOne_some (t := 1) h1 ho hr

theorem pageAt_dbg : ∀ c : Fin 64, pageAt (slotOf .dbg c) = some ⟨.dbg, c⟩ ∧
    isRecordWindow (slotOf .dbg c) = false := by decide +kernel

/-- CTL of the debug page reaches `debugCtl`. -/
theorem State.debugWrite_takes (op : Nat) (h : s.ownTakes (ro .dbg c 0x40)) :
    s.debugWrite c tc op = s.debugCtl c (BitVec.ofNat 32 (op * 4 ^ tc.val)) := by
  have hdiv : ro .dbg c 0x40 / 0x1000 = slotOf .dbg c := by simp only [ro]; omega
  have hmod : ro .dbg c 0x40 % 0x1000 = 0x40 := by simp only [ro]; omega
  obtain ⟨hp, hwin⟩ := pageAt_dbg c
  have hign : s.ignores (.pcie 0) ⟨.dbg, c⟩ 0x40 = none := by
    have h0 : s.lockedAt (ro .dbg c 0x40) = false := h.2.1
    simp [State.ignores, h0]
  have hlow : isPairLow .dbg 0x40 = false ∧ isPairLow .dbg (0x40 - 4) = false := by decide
  unfold State.debugWrite
  rw [State.pfWrite_takes _ h (by rw [hdiv]; exact hp) (by rw [hdiv]; exact hwin), hmod]
  simp [State.wordEffect, hlow, hign, State.blockWord]

/-- A command of the debug page to a tidy core that runs. -/
theorem debugWrite_commands (op : Fin 4) (ho : op.val = 1 ∨ op.val = 2 ∨ op.val = 3) (h : s.ownTakes (ro .dbg c 0x40))
    (hr : ((s.core c).tidy tc).runs = true) : s.debugWrite c tc op = s.updTidy c tc (Tidy.commanded op) :=
  (State.debugWrite_takes op h).trans (State.debugCtl_one op ho hr)

end

/-! ### Owners of slices -/

section
variable {s : State} {cl : Fin 8} {sl : Fin 12}

theorem pageAt_cl : ∀ c : Fin 8, pageAt (slotOf .cl c) = some ⟨.cl, c⟩ ∧ isRecordWindow (slotOf .cl c) = false := by
  decide +kernel

theorem ownReg_noPair : ∀ k : Fin 3, isPairLow .cl (0x800 + k.val * 4) = false ∧
    isPairLow .cl (0x800 + k.val * 4 - 4) = false := by decide

/-- The word of SRAM_OWN that a slice's byte is in, with that byte new. -/
def State.ownWord (s : State) (cl sl val : Nat) : Word :=
  (List.range 4).foldl (fun (w : Word) i =>
    withBits w (8 * i) 8 (if sl / 4 * 4 + i = sl then val else s.ownerToBe cl (sl / 4 * 4 + i))) 0

theorem bitsOf_four (a : Nat → Nat) (i : Nat) (hi : i < 4) :
    bitsOf ((List.range 4).foldl (fun (w : Word) i => withBits w (8 * i) 8 (a i)) 0) (8 * i) 8 = a i % 2 ^ 8 := by
  show bitsOf (withBits (withBits (withBits (withBits 0 (8 * 0) 8 (a 0)) (8 * 1) 8 (a 1)) (8 * 2) 8 (a 2)) (8 * 3) 8 (a 3))
    (8 * i) 8 = a i % 2 ^ 8
  obtain rfl | rfl | rfl | rfl : i = 0 ∨ i = 1 ∨ i = 2 ∨ i = 3 := by omega
  · rw [bitsOf_withBits_apart _ _ _ _ _ _ (by decide) (.inr (by decide)),
      bitsOf_withBits_apart _ _ _ _ _ _ (by decide) (.inr (by decide)),
      bitsOf_withBits_apart _ _ _ _ _ _ (by decide) (.inr (by decide)), bitsOf_withBits _ _ _ _ (by decide)]
  · rw [bitsOf_withBits_apart _ _ _ _ _ _ (by decide) (.inr (by decide)),
      bitsOf_withBits_apart _ _ _ _ _ _ (by decide) (.inr (by decide)), bitsOf_withBits _ _ _ _ (by decide)]
  · rw [bitsOf_withBits_apart _ _ _ _ _ _ (by decide) (.inr (by decide)), bitsOf_withBits _ _ _ _ (by decide)]
  · rw [bitsOf_withBits _ _ _ _ (by decide)]

theorem State.ownWord_bits (s : State) (cl sl : Nat) (val : Byte) :
    bitsOf (s.ownWord cl sl val.toNat) (8 * (sl % 4)) 8 = val.toNat := by
  have h := bitsOf_four (fun i => if sl / 4 * 4 + i = sl then val.toNat else s.ownerToBe cl (sl / 4 * 4 + i)) (sl % 4)
    (Nat.mod_lt _ (by decide))
  rw [if_pos (by omega), Nat.mod_eq_of_lt val.isLt] at h
  exact h

/-- What a byte of SRAM_OWN may change: the list of clears. -/
def State.clearsOnly (s t : State) : Prop := ∃ l, t = { s with sliceClears := l }

theorem State.sramOwn_clears (s : State) (c n : Nat) (val : Byte) : s.clearsOnly (s.sramOwn c n val) ∧
    ∀ m, m ≠ n → (s.sramOwn c n val).clearing c m = s.clearing c m := by
  have others : ∀ m, m ≠ n → ((s.sliceClears.filter fun k => !(k.cl == c && k.slice == n)) ++
      [(⟨c, n, val⟩ : SliceClear)]).any
      (fun k => k.cl == c && k.slice == m) = s.sliceClears.any fun k => k.cl == c && k.slice == m := fun m hm => by
    have hnm : (n == m) = false := beq_false_of_ne (Ne.symm hm)
    simp only [List.any_append, List.any_cons, List.any_nil, hnm, Bool.and_false, Bool.or_false]
    rw [List.any_filter]
    congr 1
    funext k
    by_cases hk : k.slice = m
    · have hkn : (k.slice == n) = false := beq_false_of_ne (hk ▸ hm)
      simp [hkn]
    · simp [hk]
  unfold State.sramOwn
  dsimp only
  split
  · exact ⟨⟨_, rfl⟩, others⟩
  · split
    · exact ⟨⟨s.sliceClears, rfl⟩, fun _ _ => rfl⟩
    · exact ⟨⟨_, rfl⟩, others⟩

/-- A new owner starts a clear (07 R229). -/
theorem State.sramOwn_starts (c n : Nat) (val : Byte) (h : s.sliceOwner c n ≠ val.toNat) :
    (s.sramOwn c n val).clearing c n = true := by
  unfold State.sramOwn
  dsimp only
  split
  · simp [State.clearing]
  · simp [State.clearing]

theorem State.sramOwn_stays (c n m : Nat) (val : Byte) (h : s.clearing c m = true) :
    (s.sramOwn c n val).clearing c m = true := by
  by_cases hm : m = n
  · subst hm
    unfold State.sramOwn
    simp only [h, if_true]
    simp [State.clearing]
  · rw [(s.sramOwn_clears c n val).2 m hm, h]

theorem State.clearsOnly_trans {t u : State} (h : s.clearsOnly t) (k : t.clearsOnly u) : s.clearsOnly u := by
  obtain ⟨l, rfl⟩ := h
  obtain ⟨m, rfl⟩ := k
  exact ⟨m, rfl⟩

/-- The bytes `l` of a word of SRAM_OWN. -/
def State.ownBytes (c base : Nat) (w : Word) (l : List Nat) (s : State) : State :=
  l.foldl (fun (s : State) i => s.sramOwn c (base + i) (BitVec.ofNat 8 (bitsOf w (8 * i) 8))) s

theorem State.ownBytes_clears (c base : Nat) (w : Word) (l : List Nat) (s : State) : s.clearsOnly (State.ownBytes c base w l s) ∧
    ∀ m, s.clearing c m = true → (State.ownBytes c base w l s).clearing c m = true := by
  induction l generalizing s with
  | nil => exact ⟨⟨_, rfl⟩, fun _ => id⟩
  | cons i l ih =>
    obtain ⟨h1, h2⟩ := ih (s.sramOwn c (base + i) (BitVec.ofNat 8 (bitsOf w (8 * i) 8)))
    exact ⟨State.clearsOnly_trans (s.sramOwn_clears _ _ _).1 h1, fun m hm => h2 m (State.sramOwn_stays _ _ _ _ hm)⟩

/-- The byte of a new owner starts its slice's clear, and the other bytes leave that clear running. -/
theorem State.ownBytes_starts {c base i : Nat} {w : Word} {l : List Nat} (hi : i ∈ l) (s : State)
    (h : s.sliceOwner c (base + i) ≠ (BitVec.ofNat 8 (bitsOf w (8 * i) 8)).toNat) :
    (State.ownBytes c base w l s).clearing c (base + i) = true := by
  induction l generalizing s with
  | nil => exact absurd hi List.not_mem_nil
  | cons j l ih =>
    by_cases hj : i = j
    · subst hj
      exact (State.ownBytes_clears c base w l _).2 _ (State.sramOwn_starts _ _ _ h)
    · obtain ⟨x, hx⟩ := (s.sramOwn_clears c (base + j) (BitVec.ofNat 8 (bitsOf w (8 * j) 8))).1
      refine ih ((List.mem_cons.1 hi).resolve_left hj) _ ?_
      dsimp only
      rw [hx]
      exact h

theorem State.clusterWord_starts (val : Byte) (h : s.sliceOwner cl sl ≠ val.toNat) :
    s.clearsOnly (s.clusterWord cl (0x800 + sl / 4 * 4) (s.ownWord cl sl val.toNat)) ∧
    (s.clusterWord cl (0x800 + sl / 4 * 4) (s.ownWord cl sl val.toNat)).clearing cl sl = true := by
  have hw : s.clusterWord cl (0x800 + sl / 4 * 4) (s.ownWord cl sl val.toNat) =
      State.ownBytes cl (0x800 + sl / 4 * 4 - 0x800) (s.ownWord cl sl val.toNat) (List.range 4) s :=
    if_pos ⟨by omega, by omega⟩
  have hsl : 0x800 + sl.val / 4 * 4 - 0x800 + sl.val % 4 = sl := by omega
  rw [hw]
  refine ⟨(State.ownBytes_clears _ _ _ _ _).1, ?_⟩
  have hs := State.ownBytes_starts (c := cl) (base := 0x800 + sl / 4 * 4 - 0x800) (i := sl % 4)
    (w := s.ownWord cl sl val.toNat) (List.mem_range.2 (Nat.mod_lt _ (by decide))) s (by
      rw [hsl, s.ownWord_bits]
      simpa using h)
  rw [hsl] at hs
  exact hs

/-- SRAM_OWN reaches `clusterWord`. -/
theorem sramOwnWrite_exec (val : Byte) (h : s.ownTakes (ownReg cl sl)) : exec (.sramOwnWrite cl sl val) s =
    .next (s.clusterWord cl (0x800 + sl / 4 * 4) (s.ownWord cl sl val.toNat)) := by
  obtain ⟨hp, hwin⟩ := pageAt_cl cl
  have hk : sl.val / 4 < 3 := by omega
  have hdiv : ownReg cl sl / 0x1000 = slotOf .cl cl := by simp only [ownReg, ro]; omega
  have hmod : ownReg cl sl % 0x1000 = 0x800 + sl / 4 * 4 := by simp only [ownReg, ro]; omega
  have hfl : s.flushPage (ownReg cl sl / 0x1000) = s := by
    unfold State.flushPage
    rw [h.2.2.1]
    rfl
  have hign : s.ignores (.pcie 0) ⟨.cl, cl⟩ (0x800 + sl / 4 * 4) = none := by
    have h0 : s.lockedAt (ro .cl cl (0x800 + sl / 4 * 4)) = false := h.2.1
    simp [State.ignores, h0]
  obtain ⟨hl0, hl1⟩ := ownReg_noPair ⟨sl / 4, hk⟩
  have hx : exec (.sramOwnWrite cl sl val) s = .next ((s.flushPage (ownReg cl sl / 0x1000)).pfWrite (ownReg cl sl)
      ((s.flushPage (ownReg cl sl / 0x1000)).ownWord cl sl val.toNat)) := rfl
  rw [hx, hfl, State.pfWrite_takes _ h (by rw [hdiv]; exact hp) (by rw [hdiv]; exact hwin), hmod]
  have ho : ¬ 0x800 + sl.val / 4 * 4 < 0x40 := by omega
  simp only [State.wordEffect, ho, if_false, hl0, hl1, hign, State.blockWord, Bool.false_eq_true, and_false]

/-! ### The end of a clear -/

/-- A byte that no cell holds reads as the default. -/
theorem memGet_default {m : List Host.Cell} {k : Nat} (h : ∀ e ∈ m, e.1 ≠ k) : memGet m k = 0 := by
  induction m with
  | nil => rfl
  | cons e m ih =>
    unfold memGet
    rw [if_neg (h e List.mem_cons_self)]
    split
    · rfl
    · exact ih fun x hx => h x (List.mem_cons_of_mem _ hx)

theorem State.clearKeys_zero (s : State) {lo hi k : Nat} (h1 : lo ≤ k) (h2 : k < hi) : memGet (s.clearKeys lo hi).mem k = 0 :=
  memGet_default fun e he hk => by
    have := (List.mem_filter.1 he).2
    simp only [hk, h1, h2, decide_true, Bool.and_self, Bool.not_true, Bool.false_eq_true] at this

/-- The state that a finished clear leaves. -/
def State.sliceClear (s : State) (cl sl : Nat) (k : SliceClear) : State :=
  (({ s with sliceClears := s.sliceClears.filter fun x => x != k }.clearKeys (kSram cl (sl * 0x100000))
    (kSram cl (sl * 0x100000 + 0x100000))).setFld (ownReg cl sl) (sl % 4 * 8) 8 k.owner.toNat).raise (dieSrc cl 0x10)
    (if cl < 4 then 0x0253 else 0x0353) [.w sl] k.owner.toNat

theorem sliceCleared_exec {k : SliceClear} (h : (s.sliceClears.find? fun k => k.cl == cl.val && k.slice == sl.val) = some k) :
    exec (.sliceCleared cl sl) s = .next (s.sliceClear cl sl k) := by
  show execSliceCleared cl sl s = _
  unfold execSliceCleared
  simp only [h]
  rfl

theorem State.sliceClear_owner (k : SliceClear) : (s.sliceClear cl sl k).sliceOwner cl sl = k.owner.toNat := by
  unfold State.sliceClear
  rw [State.sliceOwner, State.raise_fld _ _ _ _ _ _ _ _ (by simp only [ro]; omega) (by simp only [ro]; omega)]
  exact (State.fld_setFld _ _ _ _ _ (by omega)).trans (Nat.mod_eq_of_lt k.owner.isLt)

theorem State.sliceClear_mem (k : SliceClear) {i : Nat} (hi : i < 0x100000) :
    memGet (s.sliceClear cl sl k).mem (kSram cl (sl * 0x100000 + i)) = 0 := by
  unfold State.sliceClear
  rw [State.raise_mem, State.setFld_mem]
  exact State.clearKeys_zero _ (by simp only [kSram]; omega) (by simp only [kSram]; omega)

end

/-- Settles O30. -/
theorem debugPageAndSliceOwners : Obligations.DebugPageAndSliceOwners := by
  refine ⟨fun c tc s h hr => ⟨?_, ?_, ?_⟩, fun cl sl val s h hc hne => ?_, fun cl sl k s h => ?_⟩
  · refine completes_next (congrArg Host.Outcome.next (debugWrite_commands 1 (.inl rfl) h hr)) ⟨?_, ?_, rfl⟩
    · rw [State.tidy_updTidy_same]
      rfl
    · unfold State.tcRuns
      simp [Tidy.commanded]
  · refine completes_next (congrArg Host.Outcome.next (debugWrite_commands 2 (.inr (.inl rfl)) h hr)) ⟨?_, rfl, rfl⟩
    rw [State.tidy_updTidy_same]
    rfl
  · refine completes_next (congrArg Host.Outcome.next (debugWrite_commands 3 (.inr (.inr rfl)) h hr)) ⟨?_, rfl, rfl⟩
    rw [State.tidy_updTidy_same]
    rfl
  · obtain ⟨⟨l, hl⟩, hcl⟩ := State.clusterWord_starts val hne
    exact completes_next (sramOwnWrite_exec val h) ⟨hcl, by rw [hl], by rw [hl]⟩
  · exact completes_next (sliceCleared_exec h) ⟨State.sliceClear_owner k, fun i hi => State.sliceClear_mem k hi,
      State.raise_logged _ _ _ _ _ _⟩

end Sys2Proof.Machine
end

section
/-! Reads of the core bay after writes. -/

namespace Sys2Proof.Machine

theorem cellAt_cellPut {m : List Host.Cell} (k j : Nat) (b : Byte) (h : rising (m.map Prod.fst) = true) :
    cellAt (cellPut m k b) j = if j = k then some b else cellAt m j := by
  rw [rising_iff] at h
  induction m with
  | nil =>
    by_cases hj : j = k
    · simp [cellPut, cellAt, hj]
    · simp [cellPut, cellAt, hj, Ne.symm hj]
  | cons x r ih =>
    obtain ⟨i, c⟩ := x
    obtain ⟨h1, h2⟩ := List.pairwise_cons.1 h
    unfold cellPut
    split
    next e =>
      subst e
      by_cases hj : j = i
      · simp [cellAt, hj]
      · simp [cellAt, hj, Ne.symm hj]
    next hne =>
      split
      next hlt =>
        by_cases hj : j = k
        · simp [cellAt, hj]
        · by_cases hjk : j < k
          · simp [cellAt, hj, Ne.symm hj, hjk, show i ≠ j by omega, show j < i by omega]
          · simp [cellAt, hj, Ne.symm hj, hjk]
      next hle =>
        unfold cellAt
        rw [ih h2]
        by_cases hj : j = k
        · simp [hj, show i ≠ k by omega, show ¬ k < i by omega]
        · simp [hj]

theorem cellAt_cellsWrite {m : List Host.Cell} (k j : Nat) (bs : List Byte) (h : rising (m.map Prod.fst) = true) :
    cellAt (cellsWrite m k bs) j = if k ≤ j ∧ j < k + bs.length then some (bs.getD (j - k) 0) else cellAt m j := by
  induction bs generalizing m k with
  | nil => rw [cellsWrite, List.length_nil, if_neg (by omega)]
  | cons b r ih =>
    rw [cellsWrite, ih _ (rising_cellPut k b h), cellAt_cellPut k j b h]
    by_cases e : j = k
    · subst e
      rw [if_neg (by omega), if_pos rfl, if_pos ⟨Nat.le_refl _, by simp⟩]
      simp
    · rw [if_neg e]
      by_cases g : k + 1 ≤ j ∧ j < k + 1 + r.length
      · rw [if_pos g, if_pos ⟨by omega, by simp only [List.length_cons]; omega⟩,
          show j - k = (j - (k + 1)) + 1 by omega, List.getD_cons_succ]
      · rw [if_neg g, if_neg (by simp only [List.length_cons]; omega)]

section
variable {s : State}

/-- A byte of the core bay after a store. -/
theorem State.bayByte_bayStore (h : s.Inv) (k j : Nat) (bs : List Byte) :
    (s.bayStore k bs).bayByte j = if k ≤ j ∧ j < k + bs.length then bs.getD (j - k) 0 else s.bayByte j := by
  unfold State.bayByte State.bayStore
  dsimp only
  rw [cellAt_cellsWrite k j bs h.bay]
  split <;> rfl

theorem State.bayByte_bayStore_other (h : s.Inv) {k j : Nat} {bs : List Byte} (hj : j < k ∨ k + bs.length ≤ j) :
    (s.bayStore k bs).bayByte j = s.bayByte j := by
  rw [State.bayByte_bayStore h, if_neg (by omega)]

theorem State.bayByte_bayStore_in (h : s.Inv) {k i : Nat} {bs : List Byte} (hi : i < bs.length) :
    (s.bayStore k bs).bayByte (k + i) = bs.getD i 0 := by
  rw [State.bayByte_bayStore h, if_pos (by omega), Nat.add_sub_cancel_left]

theorem State.bayStore_inv (h : s.Inv) (k : Nat) (bs : List Byte) : (s.bayStore k bs).Inv :=
  (State.Keeps.refl (full := false)).bayStore.inv h

end

/-! ### Numbers as bytes -/

theorem length_leBytes (n v : Nat) : (leBytes n v).length = n := by
  induction n generalizing v with
  | zero => rfl
  | succ n ih => rw [leBytes, List.length_cons, ih]

theorem leNat_leBytes (n v : Nat) : leNat (leBytes n v) = v % 256 ^ n := by
  induction n generalizing v with
  | zero => simp [leBytes, leNat, Nat.mod_one]
  | succ n ih =>
    have hp : 256 ^ (n + 1) = 256 * 256 ^ n := Nat.pow_succ'
    rw [leBytes, leNat, ih, BitVec.toNat_ofNat, hp]
    exact Nat.mod_mul.symm

theorem getD_leBytes (n v i : Nat) (hi : i < n) : (leBytes n v).getD i 0 = BitVec.ofNat 8 (v / 256 ^ i) := by
  induction n generalizing v i with
  | zero => omega
  | succ n ih =>
    cases i with
    | zero => simp [leBytes]
    | succ i =>
      rw [leBytes, List.getD_cons_succ, ih _ _ (by omega), Nat.div_div_eq_div_mul, Nat.pow_succ, Nat.mul_comm]

theorem sInt_mod_bytes (w n : Nat) : sInt (8 * w) (n % 256 ^ w) = sInt (8 * w) n := by
  have hp : 256 ^ w = 2 ^ (8 * w) := by rw [Nat.pow_mul]
  unfold sInt
  rw [hp, Nat.mod_mod]

/-- A signed number that fits is what its bits read as. -/
theorem sInt_emod {w : Nat} (hw : 0 < w) {v : Int} (h1 : -2 ^ (w - 1) ≤ v) (h2 : v < 2 ^ (w - 1)) :
    sInt w (v % 2 ^ w).toNat = v := by
  obtain ⟨k, rfl⟩ : ∃ k, w = k + 1 := ⟨w - 1, by omega⟩
  rw [Nat.add_sub_cancel] at h1 h2
  unfold sInt
  rw [Nat.add_sub_cancel, Nat.pow_succ, pow_succ]
  have hcast : (2 : Int) ^ k = ((2 ^ k : Nat) : Int) := by push_cast; rfl
  rw [hcast] at h1 h2 ⊢
  have hP : 0 < 2 ^ k := by positivity
  generalize 2 ^ k = P at *
  obtain hv | hv := Int.lt_or_le v 0
  · have e : v % ((P : Int) * 2) = v + P * 2 := by
      rw [← Int.add_emod_right, Int.emod_eq_of_lt (by omega) (by omega)]
    rw [e, Nat.mod_eq_of_lt (by omega), if_neg (by omega)]
    omega
  · rw [Int.emod_eq_of_lt hv (by omega), Nat.mod_eq_of_lt (by omega), if_pos (by omega)]
    omega

/-- Bytes that are a number's read as that number. -/
theorem State.bayNat_of_bytes {s : State} {k w v : Nat} (h : ∀ i < w, s.bayByte (k + i) = BitVec.ofNat 8 (v / 256 ^ i)) :
    s.bayNat k w = v % 256 ^ w := by
  have hl : s.bayLoad k w = leBytes w v := by
    refine List.ext_getElem (by simp [State.bayLoad, length_leBytes]) fun i h1 h2 => ?_
    have hi : i < w := by simpa [State.bayLoad] using h1
    have hb := getD_leBytes w v i hi
    rw [List.getD_eq_getElem _ _ h2] at hb
    simp [State.bayLoad, h i hi, hb]
  rw [State.bayNat, hl, leNat_leBytes]

theorem length_flatMap_leBytes (w n : Nat) (f : Nat → Nat) :
    ((List.range n).flatMap fun j => leBytes w (f j)).length = n * w := by
  simp [List.length_flatMap, length_leBytes]

/-- Elements of `w` bytes each, one after the other. -/
theorem getD_flatMap_leBytes {w n j i : Nat} (f : Nat → Nat) (hj : j < n) (hi : i < w) :
    ((List.range n).flatMap fun j => leBytes w (f j)).getD (j * w + i) 0 = BitVec.ofNat 8 (f j / 256 ^ i) := by
  induction n with
  | zero => omega
  | succ n ih =>
    rw [List.range_succ, List.flatMap_append, List.flatMap_singleton]
    obtain hlt | rfl := Nat.lt_succ_iff_lt_or_eq.1 hj
    · have hb : j * w + i < n * w := by
        have := Nat.mul_le_mul_right w hlt
        rw [Nat.succ_mul] at this
        omega
      rw [List.getD_append _ _ _ _ (by rw [length_flatMap_leBytes]; exact hb)]
      exact ih hlt
    · rw [List.getD_append_right _ _ _ _ (by rw [length_flatMap_leBytes]; omega), length_flatMap_leBytes, Nat.add_sub_cancel_left]
      exact getD_leBytes w _ i hi

section
variable {α : Type} (K : α → Nat) (B : α → List Byte)

/-- Stores into the core bay, one for each element of a list. -/
def State.bayStores (l : List α) (s : State) : State := l.foldl (fun (s : State) x => s.bayStore (K x) (B x)) s

theorem State.bayStores_inv (l : List α) {s : State} (h : s.Inv) : (s.bayStores K B l).Inv := by
  induction l generalizing s with
  | nil => exact h
  | cons x l ih => exact ih (State.bayStore_inv h _ _)

/-- A byte that none of the stores reaches stands. -/
theorem State.bayStores_other (l : List α) {s : State} (h : s.Inv) {j : Nat}
    (hj : ∀ x ∈ l, j < K x ∨ K x + (B x).length ≤ j) : (s.bayStores K B l).bayByte j = s.bayByte j := by
  induction l generalizing s with
  | nil => rfl
  | cons x l ih =>
    refine (ih (State.bayStore_inv h _ _) fun y hy => hj y (List.mem_cons_of_mem _ hy)).trans ?_
    exact State.bayByte_bayStore_other h (hj x List.mem_cons_self)

/-- Each of several stores apart from each other can be read back. -/
theorem State.bayStores_in {l : List α} {s : State} (h : s.Inv)
    (hd : l.Pairwise fun x y => K x + (B x).length ≤ K y ∨ K y + (B y).length ≤ K x) {x : α} (hx : x ∈ l) {i : Nat}
    (hi : i < (B x).length) : (s.bayStores K B l).bayByte (K x + i) = (B x).getD i 0 := by
  induction l generalizing s with
  | nil => exact absurd hx List.not_mem_nil
  | cons y l ih =>
    obtain ⟨h1, h2⟩ := List.pairwise_cons.1 hd
    obtain rfl | hx := List.mem_cons.1 hx
    · refine (State.bayStores_other K B l (State.bayStore_inv h _ _) fun z hz => ?_).trans (State.bayByte_bayStore_in h hi)
      have := h1 z hz
      omega
    · exact ih (State.bayStore_inv h _ _) h2 hx

/-- Such stores write the bay and what is known of its lines. -/
theorem State.bayStores_eq (l : List α) (s : State) : ∃ b p, s.bayStores K B l = { s with bay := b, poison := p } := by
  induction l generalizing s with
  | nil => exact ⟨_, _, rfl⟩
  | cons x l ih =>
    obtain ⟨b, p, hb⟩ := ih (s.bayStore (K x) (B x))
    exact ⟨b, p, hb⟩

end

end Sys2Proof.Machine
end

section
/-! The matrix engines (O31). -/

namespace Sys2Proof.Machine

section
variable {s u : State} {c m : Nat}

/-! ### A command that is next -/

theorem State.meNext_cases {op n : Nat} {k : MeCmd} (h : s.meNext c m op n = some k) :
    s.meCmd c m = some k ∧ s.meReady c m = true ∧ s.listOk c m = true ∧ k.op = op ∧ n ≤ k.left := by
  obtain ⟨h1, h2⟩ := Option.filter_eq_some_iff.1 h
  simp only [Bool.and_eq_true, beq_iff_eq, decide_eq_true_eq] at h2
  obtain ⟨⟨⟨hr, hl⟩, ho⟩, hn⟩ := h2
  exact ⟨h1, hr, hl, ho, hn⟩

/-- The body of a command that passes its checks runs (07 R236). -/
theorem State.meRun_body {op n : Nat} {k : MeCmd} {bad : MeCmd → Bool} (body : MeCmd → State) (h : s.meNext c m op n = some k)
    (hb : bad k = false) : s.meRun c m op n bad body = .next (body k) := by
  obtain ⟨h1, hr, hl, ho, hn⟩ := State.meNext_cases h
  unfold State.meRun
  simp only [h1, hr, hl, ho, hb, Nat.not_lt.mpr hn, Bool.not_true, Bool.false_eq_true, if_false, ne_eq, not_true_eq_false,
    or_self]

theorem State.lists_of_meNext {op n : Nat} {k : MeCmd} (h : s.meNext c m op n = some k) :
    ∃ e r, (s.meUnit c m).lists = e :: r := by
  obtain ⟨h1, -⟩ := State.meNext_cases h
  obtain ⟨e, he, -⟩ := Option.map_eq_some_iff.1 h1
  exact ⟨e, _, (List.head?_eq_some_iff.1 he).choose_spec⟩

/-! ### The end of a command -/

/-- What the end of a command of an ME leaves alone, but for the place in the list. -/
structure State.MeKept (c m : Nat) (s t : State) : Prop where
  mem : t.mem = s.mem
  bay : t.bay = s.bay
  bayGen : t.bayGen = s.bayGen
  regs : t.regs = s.regs
  sems : (t.core c).sems = (s.core c).sems
  banks : (t.meUnit c m).banks = (s.meUnit c m).banks
  modes : (t.meUnit c m).modes = (s.meUnit c m).modes
  waiting : (t.meUnit c m).waiting = (s.meUnit c m).waiting
  piece : (t.meUnit c m).piece = (s.meUnit c m).piece
  slot : (t.meUnit c m).slot = (s.meUnit c m).slot
  lists : (s.meUnit c m).lists <+: (t.meUnit c m).lists

theorem State.MeKept.refl (s : State) : s.MeKept c m s := ⟨rfl, rfl, rfl, rfl, rfl, rfl, rfl, rfl, rfl, rfl, List.prefix_rfl⟩

theorem State.MeKept.trans {s t u : State} (h : s.MeKept c m t) (k : t.MeKept c m u) : s.MeKept c m u :=
  ⟨k.mem.trans h.mem, k.bay.trans h.bay, k.bayGen.trans h.bayGen, k.regs.trans h.regs, k.sems.trans h.sems,
    k.banks.trans h.banks, k.modes.trans h.modes, k.waiting.trans h.waiting, k.piece.trans h.piece, k.slot.trans h.slot,
    h.lists.trans k.lists⟩

theorem State.updTidy_meKept (s : State) (c m t : Nat) (f : Tidy → Tidy) : s.MeKept c m (s.updTidy c t f) := by
  obtain ⟨a, b, hk⟩ := (s.core c).updTidy_eq t f
  have hc : (s.updTidy c t f).core c = { s.core c with tc0 := a, tc1 := b } := (State.core_updCore_same _ _ _).trans hk
  have hm : (s.updTidy c t f).meUnit c m = s.meUnit c m := by rw [State.meUnit, hc, State.meUnit]
  exact ⟨rfl, rfl, rfl, rfl, by rw [hc], by rw [hm], by rw [hm], by rw [hm], by rw [hm], by rw [hm], by rw [hm]⟩

/-- A list that joins the queue. -/
theorem State.queueList_meKept (s : State) (c m : Nat) (l : MeUnit → List (Launch × Nat)) :
    s.MeKept c m (s.updMe c m fun u => { u with lists := u.lists ++ l u }) := by
  have hm := State.meUnit_updMe_same s c m fun u => { u with lists := u.lists ++ l u }
  exact ⟨rfl, rfl, rfl, rfl, by rw [State.updMe, State.core_updCore_same], by rw [hm], by rw [hm], by rw [hm], by rw [hm],
    by rw [hm], by rw [hm]; exact List.prefix_append _ _⟩

/-- A tidy core that stalled on the full queue launches its list (07 R236). -/
def State.unstallOne (c m : Nat) (s : State) (t : Nat) : State :=
  match ((s.core c).tidy t).stall with
  | .list k n =>
    if k = m ∧ (s.meUnit c m).lists.length < 4 then
      ((s.updMe c m fun u => { u with lists := u.lists ++ [(s.launchAt c t u.listAddr, n)] }).updTidy c t fun k =>
        { k with stall := .none }).tcNext c t
    else s
  | _ => s

theorem State.meUnstall_eq (s : State) (c m : Nat) :
    s.meUnstall c m = State.unstallOne c m (State.unstallOne c m s 0) 1 := rfl

theorem State.unstallOne_meKept (s : State) (t : Nat) : s.MeKept c m (State.unstallOne c m s t) := by
  unfold State.unstallOne
  split
  · split
    · exact ((State.queueList_meKept s c m fun u => [(s.launchAt c t u.listAddr, _)]).trans
        (State.updTidy_meKept _ _ _ _ _)).trans (State.updTidy_meKept _ _ _ _ _)
    · exact .refl _
  · exact .refl _

theorem State.meUnstall_meKept (s : State) (c m : Nat) : s.MeKept c m (s.meUnstall c m) :=
  (State.unstallOne_meKept s 0).trans (State.unstallOne_meKept _ 1)

/-- What the end of a command leaves of the core, the bay and the accumulators. -/
structure State.MeDone (c m : Nat) (s t : State) : Prop where
  mem : t.mem = s.mem
  bay : t.bay = s.bay
  bayGen : t.bayGen = s.bayGen
  regs : t.regs = s.regs
  sems : (t.core c).sems = (s.core c).sems
  banks : (t.meUnit c m).banks = (s.meUnit c m).banks
  modes : (t.meUnit c m).modes = (s.meUnit c m).modes

theorem State.updMe_meDone (s : State) (c m : Nat) {f : MeUnit → MeUnit} (hb : (f (s.meUnit c m)).banks = (s.meUnit c m).banks)
    (hm : (f (s.meUnit c m)).modes = (s.meUnit c m).modes) : s.MeDone c m (s.updMe c m f) := by
  have hu := State.meUnit_updMe_same s c m f
  exact ⟨rfl, rfl, rfl, rfl, by rw [State.updMe, State.core_updCore_same], by rw [hu, hb], by rw [hu, hm]⟩

theorem State.meAdvance_done (s : State) (c m n : Nat) : s.MeDone c m (s.meAdvance c m n) := by
  unfold State.meAdvance
  dsimp only
  split
  · exact ⟨rfl, rfl, rfl, rfl, rfl, rfl, rfl⟩
  next e r _ =>
    split
    · exact State.updMe_meDone s c m rfl rfl
    · have h := State.updMe_meDone (f := fun u => { u with lists := r, slot := 0, piece := 0, waiting := false }) s c m rfl rfl
      have k := State.meUnstall_meKept (s.updMe c m fun u => { u with lists := r, slot := 0, piece := 0, waiting := false }) c m
      exact ⟨k.mem.trans h.mem, k.bay.trans h.bay, k.bayGen.trans h.bayGen, k.regs.trans h.regs, k.sems.trans h.sems,
        k.banks.trans h.banks, k.modes.trans h.modes⟩

/-- A command passes: the next slot of its list, or the next list (07 R236). -/
theorem State.meAdvance_passed {v : State} {n : Nat} (hl : (v.meUnit c m).lists = (s.meUnit c m).lists)
    (hs : (v.meUnit c m).slot = (s.meUnit c m).slot) (hne : ∃ e r, (s.meUnit c m).lists = e :: r) :
    s.mePassed (v.meAdvance c m n) c m n := by
  obtain ⟨e, r, he⟩ := hne
  have hv : (v.meUnit c m).lists = e :: r := hl.trans he
  unfold State.meAdvance
  simp only [hv]
  rw [hs]
  split
  next hlt =>
    have hu := State.meUnit_updMe_same v c m fun u => { u with slot := u.slot + n, piece := 0, waiting := false }
    refine ⟨by rw [hu], by rw [hu], fun e' r' h => ?_⟩
    obtain ⟨rfl, rfl⟩ := List.cons.inj (he.symm.trans h)
    exact ⟨fun _ => by rw [hu]; exact ⟨by rw [hs], hv⟩, fun h' => absurd hlt (Nat.not_lt.mpr h')⟩
  next hge =>
    have hu := State.meUnit_updMe_same v c m fun u => { u with lists := r, slot := 0, piece := 0, waiting := false }
    have k := State.meUnstall_meKept (v.updMe c m fun u => { u with lists := r, slot := 0, piece := 0, waiting := false }) c m
    refine ⟨by rw [k.waiting, hu], by rw [k.piece, hu], fun e' r' h => ?_⟩
    obtain ⟨rfl, rfl⟩ := List.cons.inj (he.symm.trans h)
    refine ⟨fun h' => absurd h' hge, fun _ => ⟨by rw [k.slot, hu], ?_⟩⟩
    have hpre := k.lists
    rw [hu] at hpre
    exact hpre

end

/-! ### Lists, waits and signals -/

section
variable {s : State} {c : Fin 64} {m : Fin 4}

theorem meListLaunch_queues {tc : Fin 2} {val : Word} (h : s.tcRuns c tc = true) (hl : (s.meUnit c m).lists.length < 4) :
    completes (.meListLaunch c tc m val) s (fun t => s.goesOn t c tc ∧ t.meUnit c m = { s.meUnit c m with
      lists := (s.meUnit c m).lists ++ [(s.launchAt c tc (s.meUnit c m).listAddr, bitsOf val 0 13)] }) := by
  refine completes_next (t := (s.updMe c m fun u => { u with
    lists := u.lists ++ [(s.launchAt c tc u.listAddr, bitsOf val 0 13)] }).tcNext c tc) ?_ ⟨?_, ?_⟩
  · refine (if_pos h).trans ?_
    unfold State.meLaunch
    simp only [Nat.not_le.mpr hl, if_false]
  · exact State.goesOn_tcNext rfl (State.tidy_updMe _ _ _ _ _) fun k hk => State.core_updCore_other _ _ hk
  · rw [State.meUnit_tcNext, State.meUnit_updMe_same]

theorem meListLaunch_stalls {tc : Fin 2} {val : Word} (h : s.tcRuns c tc = true) (hl : 4 ≤ (s.meUnit c m).lists.length) :
    completes (.meListLaunch c tc m val) s (fun t =>
      ((t.core c).tidy tc).stall = .list m (bitsOf val 0 13) ∧ t.meUnit c m = s.meUnit c m) := by
  refine completes_next (t := s.updTidy c tc fun k => { k with stall := .list m (bitsOf val 0 13) }) ?_ ⟨?_, ?_⟩
  · refine (if_pos h).trans ?_
    unfold State.meLaunch
    simp only [hl, if_true]
  · rw [State.tidy_updTidy_same]
  · obtain ⟨a, b, hk⟩ := (s.core c).updTidy_eq tc fun k => { k with stall := .list m (bitsOf val 0 13) }
    rw [State.meUnit, State.updTidy, State.core_updCore_same, hk, State.meUnit]

/-- A command that does nothing but pass. -/
theorem State.meAdvance_alone {n : Nat} (hne : ∃ e r, (s.meUnit c m).lists = e :: r) :
    s.mePassed (s.meAdvance c m n) c m n ∧ (s.meAdvance c m n).mem = s.mem ∧ (s.meAdvance c m n).bay = s.bay ∧
      (s.meAdvance c m n).regs = s.regs :=
  have h := s.meAdvance_done c m n
  ⟨State.meAdvance_passed rfl rfl hne, h.mem, h.bay, h.regs⟩

theorem meNop_exec {k : MeCmd} (h : s.meNext c m 0 1 = some k) (hz : k.zero 1 32 = true) :
    exec (.meNop c m) s = .next (s.meAdvance c m 1) := by
  obtain ⟨h1, -, -, ho, -⟩ := State.meNext_cases h
  show execMeNop c m s = _
  unfold execMeNop
  simp only [h1, ho, Nat.not_lt_zero, and_false, if_false]
  exact State.meRun_body (fun _ => s.meAdvance c m 1) h (by simp [hz])

theorem meWait_exec {k : MeCmd} (h : s.meNext c m 6 1 = some k) (hb : k.semBad = false) : exec (.meWait c m) s =
    .next (if k.waitOver (s.core c) then s.meAdvance c m 1 else s.updMe c m fun u => { u with waiting := true }) :=
  State.meRun_body (fun k => if k.waitOver (s.core c) then s.meAdvance c m 1
    else s.updMe c m fun u => { u with waiting := true }) h hb

theorem meWaitSatisfied_exec {k : MeCmd} (h : s.meCmd c m = some k) (hr : s.coreRuns c = true)
    (hw : (s.meUnit c m).waiting = true) (ho : k.waitOver (s.core c) = true) :
    exec (.meWaitSatisfied c m) s = .next (s.meAdvance c m 1) := by
  show execMeWaitSatisfied c m s = _
  unfold execMeWaitSatisfied
  simp only [h, hr, hw, ho, and_self, if_true]

theorem State.meUnit_semAdd (s : State) (c m sem n : Nat) : (s.semAdd c sem n).meUnit c m = s.meUnit c m := by
  rw [State.meUnit, State.semAdd, State.core_updCore_same, Core.signal, State.meUnit]

theorem meSignal_completes {k : MeCmd} (h : s.meNext c m 7 1 = some k) (hb : k.semBad = false) :
    completes (.meSignal c m) s (fun t => s.mePassed t c m 1 ∧ t.bay = s.bay ∧
      (t.core c).sems.look 0 (k.at 4 1) = (s.core c).sems.look 0 (k.at 4 1) + BitVec.ofNat 16 (k.at 8 2)) := by
  have hx : exec (.meSignal c m) s = .next ((s.semAdd c (k.at 4 1) (k.at 8 2)).meAdvance c m 1) :=
    State.meRun_body (fun k => (s.semAdd c (k.at 4 1) (k.at 8 2)).meAdvance c m 1) h hb
  have hd := (s.semAdd c (k.at 4 1) (k.at 8 2)).meAdvance_done c m 1
  have hu := s.meUnit_semAdd c m (k.at 4 1) (k.at 8 2)
  refine completes_next hx ⟨State.meAdvance_passed (by rw [hu]) (by rw [hu]) (State.lists_of_meNext h), hd.bay, ?_⟩
  rw [hd.sems, State.semAdd, State.core_updCore_same]
  exact Tbl.look_put_same _ _ _ _

end

end Sys2Proof.Machine
end

section
/-! Tiles of the accumulator banks, and the commands that read and write them (O31). -/

namespace Sys2Proof.Machine

/-! ### A tile written and read -/

section
variable {u : MeUnit} {mode b e : Nat} {f : Nat → Int}

/-- What an accumulator of a mode can hold (07 R237): 48 bits or 32. -/
def fits (mode : Nat) (v : Int) : Prop :=
  if mode = mS48 then -140737488355328 ≤ v ∧ v ≤ 140737488355327 else -2147483648 ≤ v ∧ v ≤ 2147483647

theorem getD_tile (f : Nat → Int) (g : Int → Word) (he : e < 256) :
    (((List.range 256).map f).map g).getD e 0 = g (f e) := by
  simp [List.getD, he]

theorem MeUnit.setTile_word (he : e < 256) : (u.setTile mode b f).word b e = BitVec.ofInt 32 (f e) := by
  unfold MeUnit.setTile MeUnit.word MeUnit.bank
  dsimp only
  split
  · rw [Tbl.look_put_other _ _ _ (by omega), Tbl.look_put_same, getD_tile f _ he]
  · rw [Tbl.look_put_same, getD_tile f _ he]

theorem MeUnit.setTile_high (he : e < 256) : (u.setTile mS48 b f).word (b + 1) e = BitVec.ofInt 32 (f e / 2 ^ 32) := by
  unfold MeUnit.setTile MeUnit.word MeUnit.bank
  dsimp only
  rw [if_pos rfl, Tbl.look_put_same, getD_tile f _ he]

theorem toInt_ofInt {v : Int} (h1 : -2147483648 ≤ v) (h2 : v ≤ 2147483647) : (BitVec.ofInt 32 v).toInt = v := by
  rw [BitVec.toInt_ofInt]
  exact Int.bmod_eq_of_le (by omega) (by omega)

theorem MeUnit.accInt_setTile (he : e < 256) (hf : fits mode (f e)) : (u.setTile mode b f).accInt mode b e = f e := by
  unfold fits at hf
  unfold MeUnit.accInt
  split
  next hm =>
    rw [if_pos hm] at hf
    subst hm
    rw [MeUnit.setTile_word he, MeUnit.setTile_high he, toInt_ofInt (by omega) (by omega), BitVec.toNat_ofInt]
    omega
  next hm =>
    rw [if_neg hm] at hf
    rw [MeUnit.setTile_word he, toInt_ofInt hf.1 hf.2]

/-- Another bank keeps its words and its mode. -/
theorem MeUnit.setTile_other {j : Nat} (h : j ≠ b) (h' : mode = mS48 → j ≠ b + 1) :
    (u.setTile mode b f).bank j = u.bank j ∧ (u.setTile mode b f).mode j = u.mode j := by
  unfold MeUnit.setTile MeUnit.bank MeUnit.mode
  dsimp only
  split
  next hm =>
    rw [Tbl.look_put_other _ _ _ (h' hm).symm, Tbl.look_put_other _ _ _ h.symm, Tbl.look_put_other _ _ _ (h' hm).symm,
      Tbl.look_put_other _ _ _ h.symm]
    exact ⟨rfl, rfl⟩
  next hm =>
    rw [Tbl.look_put_other _ _ _ h.symm, Tbl.look_put_other _ _ _ h.symm]
    exact ⟨rfl, rfl⟩

theorem MeUnit.accInt_setTile_other {t n bank : Nat} (h : t ≠ n) :
    (u.setTile mode (tileBank mode bank n) f).accInt mode (tileBank mode bank t) e =
      u.accInt mode (tileBank mode bank t) e := by
  unfold MeUnit.accInt MeUnit.word tileBank
  split
  next hm =>
    have h1 := MeUnit.setTile_other (u := u) (f := f) (mode := mode) (b := bank + 2 * n) (j := bank + 2 * t) (by omega)
      (fun _ => by omega)
    have h2 := MeUnit.setTile_other (u := u) (f := f) (mode := mode) (b := bank + 2 * n) (j := bank + 2 * t + 1) (by omega)
      (fun _ => by omega)
    rw [h1.1, h2.1]
  next hm =>
    have h1 := MeUnit.setTile_other (u := u) (f := f) (mode := mode) (b := bank + n) (j := bank + t) (by omega)
      (fun hm' => absurd hm' hm)
    rw [h1.1]

theorem MeUnit.setTile_place (u : MeUnit) (mode b : Nat) (f : Nat → Int) : (u.setTile mode b f).lists = u.lists ∧
    (u.setTile mode b f).slot = u.slot ∧ (u.setTile mode b f).waiting = u.waiting := by
  unfold MeUnit.setTile
  dsimp only
  split <;> exact ⟨rfl, rfl, rfl⟩

/-- The first `n` tiles written one after the other. -/
def MeUnit.setTiles (u : MeUnit) (mode bank : Nat) (g : Nat → Nat → Int) (n : Nat) : MeUnit :=
  (List.range n).foldl (fun (u : MeUnit) t => u.setTile mode (tileBank mode bank t) (g t)) u

theorem MeUnit.setTiles_succ (u : MeUnit) (mode bank : Nat) (g : Nat → Nat → Int) (n : Nat) :
    u.setTiles mode bank g (n + 1) = (u.setTiles mode bank g n).setTile mode (tileBank mode bank n) (g n) := by
  unfold MeUnit.setTiles
  rw [List.range_succ, List.foldl_append]
  rfl

theorem MeUnit.accInt_setTiles {bank n t : Nat} {g : Nat → Nat → Int} (ht : t < n) (he : e < 256)
    (hf : fits mode (g t e)) : (u.setTiles mode bank g n).accInt mode (tileBank mode bank t) e = g t e := by
  induction n with
  | zero => omega
  | succ n ih =>
    rw [MeUnit.setTiles_succ]
    obtain rfl | hne := eq_or_ne t n
    · exact MeUnit.accInt_setTile he hf
    · rw [MeUnit.accInt_setTile_other hne]
      exact ih (by omega)

theorem MeUnit.setTiles_place (u : MeUnit) (mode bank : Nat) (g : Nat → Nat → Int) (n : Nat) :
    (u.setTiles mode bank g n).lists = u.lists ∧ (u.setTiles mode bank g n).slot = u.slot := by
  induction n with
  | zero => exact ⟨rfl, rfl⟩
  | succ n ih =>
    rw [MeUnit.setTiles_succ]
    obtain ⟨h1, h2, -⟩ := (u.setTiles mode bank g n).setTile_place mode (tileBank mode bank n) (g n)
    exact ⟨h1.trans ih.1, h2.trans ih.2⟩

end

end Sys2Proof.Machine
end

section
/-! ZERO, ACC_LOAD, MMA, STORE and STORE_RAW, and the settling of O31. -/

namespace Sys2Proof.Machine

/-! ### ZERO -/

/-- A bank that the mask of ZERO names. -/
def MeUnit.zeroBank (mask mode : Nat) (u : MeUnit) (b : Nat) : MeUnit :=
  if mask / 2 ^ b % 2 = 1 then
    { u with banks := Tbl.put u.banks b (List.replicate 256 (0 : Word)), modes := u.modes.put b mode }
  else u

theorem MeUnit.foldl_zeroBank (mask mode : Nat) (l : List Nat) (u : MeUnit) :
    (l.foldl (MeUnit.zeroBank mask mode) u).lists = u.lists ∧ (l.foldl (MeUnit.zeroBank mask mode) u).slot = u.slot ∧
    ∀ b, (l.foldl (MeUnit.zeroBank mask mode) u).bank b =
        (if b ∈ l ∧ mask / 2 ^ b % 2 = 1 then List.replicate 256 0 else u.bank b) ∧
      (l.foldl (MeUnit.zeroBank mask mode) u).mode b = if b ∈ l ∧ mask / 2 ^ b % 2 = 1 then mode else u.mode b := by
  induction l generalizing u with
  | nil => exact ⟨rfl, rfl, fun b => by simp⟩
  | cons a l ih =>
    have one : (MeUnit.zeroBank mask mode u a).lists = u.lists ∧ (MeUnit.zeroBank mask mode u a).slot = u.slot ∧
        ∀ b, (MeUnit.zeroBank mask mode u a).bank b =
          (if b = a ∧ mask / 2 ^ b % 2 = 1 then List.replicate 256 0 else u.bank b) ∧
        (MeUnit.zeroBank mask mode u a).mode b = if b = a ∧ mask / 2 ^ b % 2 = 1 then mode else u.mode b := by
      unfold MeUnit.zeroBank
      split
      next h =>
        refine ⟨rfl, rfl, fun b => ?_⟩
        by_cases hb : b = a
        · subst hb
          rw [if_pos ⟨rfl, h⟩, if_pos ⟨rfl, h⟩]
          exact ⟨Tbl.look_put_same _ _ _ _, Tbl.look_put_same _ _ _ _⟩
        · rw [if_neg fun e => hb e.1, if_neg fun e => hb e.1]
          exact ⟨Tbl.look_put_other _ _ _ (Ne.symm hb), Tbl.look_put_other _ _ _ (Ne.symm hb)⟩
      next h =>
        refine ⟨rfl, rfl, fun b => ?_⟩
        by_cases hb : b = a
        · subst hb
          rw [if_neg fun e => h e.2, if_neg fun e => h e.2]
          exact ⟨rfl, rfl⟩
        · rw [if_neg fun e => hb e.1, if_neg fun e => hb e.1]
          exact ⟨rfl, rfl⟩
    obtain ⟨h1, h2, h3⟩ := ih (MeUnit.zeroBank mask mode u a)
    obtain ⟨k1, k2, k3⟩ := one
    refine ⟨h1.trans k1, h2.trans k2, fun b => ?_⟩
    rw [List.foldl_cons, (h3 b).1, (h3 b).2, (k3 b).1, (k3 b).2]
    by_cases hbit : mask / 2 ^ b % 2 = 1
    · by_cases hl : b ∈ l
      · simp only [hl, hbit, List.mem_cons, or_true, and_self, if_true]
      · simp only [hl, hbit, List.mem_cons, or_false, and_true, if_false]
    · simp only [hbit, and_false, if_false, true_and]

section
variable {s : State} {c : Fin 64} {m : Fin 4} {k : MeCmd}

theorem meZero_completes (h : s.meNext c m 2 1 = some k) (h4 : k.at 4 1 < 16) (h5 : k.at 5 1 ≤ 2) (hz : k.zero 1 4 = true)
    (hz' : k.zero 6 32 = true) : completes (.meZero c m) s (fun t => s.mePassed t c m 1 ∧ t.mem = s.mem ∧ t.bay = s.bay ∧
      ∀ b < 4, (t.meUnit c m).bank b = (if k.at 4 1 / 2 ^ b % 2 = 1 then List.replicate 256 0 else (s.meUnit c m).bank b) ∧
        (t.meUnit c m).mode b = (if k.at 4 1 / 2 ^ b % 2 = 1 then k.at 5 1 else (s.meUnit c m).mode b)) := by
  have hx : exec (.meZero c m) s = .next ((s.updMe c m fun u =>
      (List.range 4).foldl (MeUnit.zeroBank (k.at 4 1) (k.at 5 1)) u).meAdvance c m 1) :=
    State.meRun_body (fun k => (s.updMe c m fun u => (List.range 4).foldl
      (MeUnit.zeroBank (k.at 4 1) (k.at 5 1)) u).meAdvance c m 1) h
      (by simp [hz, hz', Nat.not_le.mpr h4, Nat.not_lt.mpr h5])
  obtain ⟨v, hv⟩ : ∃ v, v = s.updMe c m fun u => (List.range 4).foldl (MeUnit.zeroBank (k.at 4 1) (k.at 5 1)) u := ⟨_, rfl⟩
  rw [← hv] at hx
  have hu : v.meUnit c m = (List.range 4).foldl (MeUnit.zeroBank (k.at 4 1) (k.at 5 1)) (s.meUnit c m) := by
    rw [hv, State.meUnit_updMe_same]
  obtain ⟨hl, hs, hb⟩ := MeUnit.foldl_zeroBank (k.at 4 1) (k.at 5 1) (List.range 4) (s.meUnit c m)
  have hd := v.meAdvance_done c m 1
  refine completes_next hx ⟨State.meAdvance_passed (by rw [hu, hl]) (by rw [hu, hs]) (State.lists_of_meNext h),
    hd.mem.trans (hv ▸ rfl), hd.bay.trans (hv ▸ rfl), fun b hb4 => ?_⟩
  obtain ⟨hbank, hmode⟩ := hb b
  simp only [List.mem_range.2 hb4, true_and] at hbank hmode
  rw [MeUnit.bank, MeUnit.mode, hd.banks, hd.modes, hu]
  exact ⟨hbank, hmode⟩

/-! ### ACC_LOAD -/

theorem State.ifBayClean_clean (h : s.poison = []) (c : Nat) (rows : List (Nat × Nat)) (body : State) :
    s.ifBayClean c rows body = body := by
  have hp : ∀ l n, s.locPoison l n = none := fun l n => by
    unfold State.locPoison
    simp [h, firstPoisoned]
  have hr : (rows.findSome? fun r => s.locPoison (.bay r.1) r.2) = none := by
    simp [List.findSome?_eq_none_iff, hp]
  unfold State.ifBayClean
  simp only [hr]

/-- What ACC_LOAD puts into element `e` of tile `t`. -/
def State.accLoaded (s : State) (c : Nat) (k : MeCmd) (t e : Nat) : Int :=
  let w := rawBytes (k.at 5 1)
  let v := sInt (8 * w) (s.bayNat (k.rawKey c (k.at 5 1) (e / 16) t + e % 16 * w) w)
  if k.at 5 1 = mS48 then clampInt (-140737488355328) 140737488355327 v else v

theorem clampInt_bounds {lo hi v : Int} (h : lo ≤ hi) : lo ≤ clampInt lo hi v ∧ clampInt lo hi v ≤ hi := by
  unfold clampInt
  omega

theorem sInt_bounds (n : Nat) : -2147483648 ≤ sInt 32 n ∧ sInt 32 n ≤ 2147483647 := by
  unfold sInt
  have := Nat.mod_lt n (show 0 < 2 ^ 32 by decide)
  split <;> omega

theorem State.accLoaded_fits (s : State) (c : Nat) (k : MeCmd) (t e : Nat) : fits (k.at 5 1) (s.accLoaded c k t e) := by
  unfold fits State.accLoaded
  dsimp only
  split
  · exact clampInt_bounds (by decide)
  next hm =>
    rw [rawBytes, if_neg hm]
    exact sInt_bounds _

theorem meAccLoad_completes (h : s.meNext c m 3 1 = some k) (h5 : k.at 5 1 ≤ 2) (hr : k.rawBad (k.at 5 1) = false)
    (hp : s.poison = []) : completes (.meAccLoad c m) s (fun t => s.mePassed t c m 1 ∧ t.mem = s.mem ∧ t.bay = s.bay ∧
      ∀ n < k.tiles, ∀ e < 256, (t.meUnit c m).accInt (k.at 5 1) (tileBank (k.at 5 1) k.bank n) e = s.accLoaded c k n e) := by
  obtain ⟨u, hu⟩ : ∃ u, u = (s.meUnit c m).setTiles (k.at 5 1) k.bank (s.accLoaded c k) k.tiles := ⟨_, rfl⟩
  have hx : exec (.meAccLoad c m) s = .next ((s.updMe c m fun _ => u).meAdvance c m 1) := by
    refine (State.meRun_body (fun k => s.ifBayClean c ((List.range k.tiles).flatMap fun t => (List.range 16).map fun i =>
      (k.rawKey c (k.at 5 1) i t, 16 * rawBytes (k.at 5 1))) ((s.updMe c m fun _ => (s.meUnit c m).setTiles (k.at 5 1) k.bank
        (s.accLoaded c k) k.tiles).meAdvance c m 1)) h (by simp [hr, Nat.not_lt.mpr h5])).trans ?_
    rw [State.ifBayClean_clean hp, hu]
  have hv : (s.updMe c m fun _ => u).meUnit c m = u := State.meUnit_updMe_same _ _ _ _
  obtain ⟨hl, hs⟩ := (s.meUnit c m).setTiles_place (k.at 5 1) k.bank (s.accLoaded c k) k.tiles
  have hd := (s.updMe c m fun _ => u).meAdvance_done c m 1
  refine completes_next hx ⟨State.meAdvance_passed (by rw [hv, hu, hl]) (by rw [hv, hu, hs]) (State.lists_of_meNext h),
    hd.mem, hd.bay, fun n hn e he => ?_⟩
  rw [MeUnit.accInt, MeUnit.word, MeUnit.word, MeUnit.bank, MeUnit.bank, hd.banks, hv, hu]
  exact MeUnit.accInt_setTiles hn he (s.accLoaded_fits c k n e)

/-! ### MMA -/

/-- One more row of the table of pairs. -/
theorem modes_ite {x : Nat × Nat} {o : Option (Nat × Nat)} {q : Prop} [Decidable q]
    (hx : x.2 = mFp32 ∨ x.2 = mInt32 ∨ x.2 = mS48) (ho : ∀ r, o = some r → r.2 = mFp32 ∨ r.2 = mInt32 ∨ r.2 = mS48) :
    ∀ r, (if q then some x else o) = some r → r.2 = mFp32 ∨ r.2 = mInt32 ∨ r.2 = mS48 := by
  split
  · rintro r ⟨⟩
    exact hx
  · exact ho

theorem pairOf_mode (a b : Nat) : ∀ r, pairOf a b = some r → r.2 = mFp32 ∨ r.2 = mInt32 ∨ r.2 = mS48 :=
  modes_ite (.inl rfl) <| modes_ite (.inl rfl) <| modes_ite (.inl rfl) <| modes_ite (.inl rfl) <| modes_ite (.inl rfl) <|
    modes_ite (.inl rfl) <| modes_ite (.inr (.inl rfl)) <| modes_ite (.inr (.inl rfl)) <| modes_ite (.inr (.inr rfl)) <|
    modes_ite (.inr (.inr rfl)) fun _ h => nomatch h

theorem mmaPair_mode {pairs : List (Nat × Nat)} {i : Nat} {p : MmaPair} (h : mmaPair pairs i = some p) :
    p.mode = mFp32 ∨ p.mode = mInt32 ∨ p.mode = mS48 := by
  obtain ⟨x, -, hx⟩ := Option.bind_eq_some_iff.1 h
  obtain ⟨r, hr, rfl⟩ := Option.map_eq_some_iff.1 hx
  exact pairOf_mode _ _ r hr

/-- A chunk leaves an accumulator within its range (06 R203 to R205). -/
theorem State.mmaChunk_fits {p : MmaPair} (hm : p.mode = mFp32 ∨ p.mode = mInt32 ∨ p.mode = mS48) (s : State)
    (c m : Nat) (k : MeCmd) (t e : Nat) {acc : Int × Nat} (h : fits p.mode acc.1) (chunk : Nat) :
    fits p.mode (s.mmaChunk c m k p t e acc chunk).1 := by
  unfold State.mmaChunk
  obtain hm | hm | hm := hm
  · rw [if_pos hm, fits, hm, if_neg (by decide)]
    have h1 := BitVec.le_toInt (accF32 (BitVec.ofInt 32 acc.1)
      ((upFrom (chunk * p.kc) p.kc).map fun kk => (elemValue p.a (s.aScale c k p (e / 16) kk) (s.aBits c m k p (e / 16) kk),
        elemValue p.b (s.bScale c k p (16 * t + e % 16) kk) (s.bBits c k p (16 * t + e % 16) kk))))
    have h2 := BitVec.toInt_lt (x := accF32 (BitVec.ofInt 32 acc.1)
      ((upFrom (chunk * p.kc) p.kc).map fun kk => (elemValue p.a (s.aScale c k p (e / 16) kk) (s.aBits c m k p (e / 16) kk),
        elemValue p.b (s.bScale c k p (16 * t + e % 16) kk) (s.bBits c k p (16 * t + e % 16) kk))))
    exact ⟨h1, Int.le_of_lt_add_one h2⟩
  · rw [if_neg (by rw [hm]; decide), if_pos hm, fits, hm, if_neg (by decide)]
    exact clampInt_bounds (by decide)
  · rw [if_neg (by rw [hm]; decide), if_neg (by rw [hm]; decide)]
    dsimp only
    split
    · exact h
    · rw [fits, hm, if_pos rfl]
      exact clampInt_bounds (by decide)

/-- Element `e` of tile `t` after all chunks, from 0. -/
def State.mmaTotal (s : State) (c m : Nat) (k : MeCmd) (p : MmaPair) (t e : Nat) : Int :=
  ((List.range (k.depth / p.kc)).foldl (s.mmaChunk c m k p t e) (0, 0)).1

theorem foldl_fits {α : Type} {mode : Nat} {f : Int × Nat → α → Int × Nat} (hf : ∀ a x, fits mode a.1 → fits mode (f a x).1)
    (l : List α) {a : Int × Nat} (h : fits mode a.1) : fits mode (l.foldl f a).1 := by
  induction l generalizing a with
  | nil => exact h
  | cons x l ih => exact ih (hf a x h)

theorem State.mmaTotal_fits {p : MmaPair} (hm : p.mode = mFp32 ∨ p.mode = mInt32 ∨ p.mode = mS48) (t e : Nat) :
    fits p.mode (s.mmaTotal c m k p t e) := by
  refine foldl_fits (fun a x ha => s.mmaChunk_fits hm c m k t e ha x) _ ?_
  unfold fits
  split <;> decide

theorem MeCmd.tiles_pos (k : MeCmd) : 0 < k.tiles := Nat.succ_pos _

/-- All chunks of a tile, where no piece was done before (07 R238). -/
theorem tileChunks_all {tiles d t : Nat} (ht : t < tiles) : tileChunks tiles 0 (d * tiles) t = List.range d := by
  have hin : ∀ h ∈ List.range d, (decide (0 ≤ h * tiles + t) && decide (h * tiles + t < d * tiles)) = true := fun h hh => by
    have hlt : (h + 1) * tiles ≤ d * tiles := Nat.mul_le_mul_right _ (List.mem_range.1 hh)
    rw [Nat.add_mul] at hlt
    rw [Bool.and_eq_true, decide_eq_true_eq, decide_eq_true_eq]
    omega
  have hout : ¬ (decide (0 ≤ d * tiles + t) && decide (d * tiles + t < d * tiles)) = true := by
    rw [Bool.and_eq_true, decide_eq_true_eq, decide_eq_true_eq]
    omega
  unfold tileChunks upFrom
  rw [Nat.zero_div, Nat.mul_div_cancel _ (by omega : 0 < tiles), Nat.sub_zero]
  simp only [Nat.zero_add, List.map_id']
  rw [List.range_succ, List.filter_append, List.filter_eq_self.2 hin, List.filter_cons_of_neg
    (p := fun h => decide (0 ≤ h * tiles + t) && decide (h * tiles + t < d * tiles)) hout]
  simp

/-- The fold over the tiles, without its count of saturations. -/
theorem foldl_step_fst {β : Type} (f : MeUnit → Nat → MeUnit) (g : β → Nat → β) (l : List Nat) (a : MeUnit × β) :
    (l.foldl (fun (a : MeUnit × β) t => (f a.1 t, g a.2 t)) a).1 = l.foldl f a.1 := by
  induction l generalizing a with
  | nil => rfl
  | cons x l ih => exact ih _

/-- What one piece leaves that does all chunks of a command which clears its accumulators. -/
theorem State.mmaPiece_all (s : State) (c m : Nat) {k : MeCmd} (p : MmaPair) (hclr : k.clr = true)
    (hp : (s.meUnit c m).piece = 0) : ∃ g : Nat → Nat → Int,
      (s.mmaPiece c m k p 0 (k.depth / p.kc * k.tiles)).1 = (s.meUnit c m).setTiles p.mode k.bank g k.tiles ∧
      ∀ n < k.tiles, ∀ e < 256, g n e = s.mmaTotal c m k p n e := by
  refine ⟨fun t e => (((List.range 256).map fun e => (tileChunks k.tiles 0 (k.depth / p.kc * k.tiles) t).foldl
    (s.mmaChunk c m k p t e) (s.mmaStart c m k p.mode t e, 0)).getD e (0, 0)).1, ?_, fun n hn e he => ?_⟩
  · exact foldl_step_fst (fun u t => u.setTile p.mode (tileBank p.mode k.bank t) fun e => (((List.range 256).map fun e =>
      (tileChunks k.tiles 0 (k.depth / p.kc * k.tiles) t).foldl (s.mmaChunk c m k p t e)
        (s.mmaStart c m k p.mode t e, 0)).getD e (0, 0)).1) (fun (a : Nat) t => a + (((List.range 256).map fun e =>
      (tileChunks k.tiles 0 (k.depth / p.kc * k.tiles) t).foldl (s.mmaChunk c m k p t e)
        (s.mmaStart c m k p.mode t e, 0)).map Prod.snd).foldl (· + ·) 0) (List.range k.tiles) (s.meUnit c m, 0)
  · have h0 : s.mmaStart c m k p.mode n e = 0 := by
      unfold State.mmaStart
      simp only [hp, hclr, and_self, if_true]
    dsimp only
    rw [tileChunks_all hn, List.getD_eq_getElem _ _ (by simpa using he), List.getElem_map, List.getElem_range, h0]
    rfl

/-- An ME after a piece, and its core's saturations. -/
def State.putMePiece (s : State) (c m : Nat) (v : MeUnit) (sat : Nat) : State :=
  s.updCore c fun x => { x with me := x.me.put m v, sat := x.sat + sat }

theorem State.meUnit_putMePiece (s : State) (c m : Nat) (v : MeUnit) (sat : Nat) : (s.putMePiece c m v sat).meUnit c m = v := by
  rw [State.meUnit, State.putMePiece, State.core_updCore_same]
  exact Tbl.look_put_same _ _ _ _

theorem State.mmaStep_all {p : MmaPair} (ha : k.awin = false) (h0 : (s.meUnit c m).piece = 0)
    (hr : s.residueArmed c m = false) (hp : s.poison = []) (hd : k.depth / p.kc * k.tiles ≤ 8192) :
    s.mmaStep c m k p = (({ s with free := s.free + 2 }.add64 (ro .co c 0x58) (k.depth / p.kc * k.tiles)).putMePiece c m
      { (s.mmaPiece c m k p 0 (k.depth / p.kc * k.tiles)).1 with piece := k.depth / p.kc * k.tiles }
      (s.mmaPiece c m k p 0 (k.depth / p.kc * k.tiles)).2).meAdvance c m 1 := by
  have hmin : min (k.depth / p.kc * k.tiles) (0 + 8192) = k.depth / p.kc * k.tiles :=
    Nat.min_eq_left (hd.trans (Nat.le_of_eq (Nat.zero_add _).symm))
  unfold State.mmaStep
  simp only [hr, h0, Bool.false_eq_true, if_false, State.ifBayClean_clean hp, hmin, Nat.sub_zero, Nat.lt_irrefl, ha]
  rfl

theorem meMma_exec {p : MmaPair} (h : s.meNext c m 1 1 = some k)
    (hpair : ((s.gangOf c).bind fun g => mmaPair g.pairs (k.at 2 1)) = some p) (hb : k.mmaBad p = false)
    (ha : k.awin = false) : exec (.meMma c m none) s = .next (s.mmaStep c m k p) := by
  show execMeMma c m none s = _
  unfold execMeMma
  rw [State.meRun_body _ h (by dsimp only; rw [hpair]; exact hb)]
  simp only [hpair, ha, Bool.not_false, if_true]
  rfl

theorem meMma_completes {p : MmaPair} (h : s.meNext c m 1 1 = some k)
    (hpair : ((s.gangOf c).bind fun g => mmaPair g.pairs (k.at 2 1)) = some p) (hb : k.mmaBad p = false) (ha : k.awin = false)
    (hclr : k.clr = true) (h0 : (s.meUnit c m).piece = 0) (hr : s.residueArmed c m = false) (hp : s.poison = [])
    (hn : k.depth / p.kc * k.tiles ≤ 8192) : completes (.meMma c m none) s (fun t => s.mePassed t c m 1 ∧ t.mem = s.mem ∧
      t.bay = s.bay ∧ ∀ n < k.tiles, ∀ e < 256,
        (t.meUnit c m).accInt p.mode (tileBank p.mode k.bank n) e = s.mmaTotal c m k p n e) := by
  have hx := (meMma_exec h hpair hb ha).trans (congrArg Host.Outcome.next (State.mmaStep_all ha h0 hr hp hn))
  obtain ⟨w, hw⟩ : ∃ w, w = { s with free := s.free + 2 }.add64 (ro .co c 0x58) (k.depth / p.kc * k.tiles) := ⟨_, rfl⟩
  have hwm : w.mem = s.mem ∧ w.bay = s.bay := by rw [hw]; exact ⟨rfl, rfl⟩
  rw [← hw] at hx
  have hv := w.meUnit_putMePiece c m { (s.mmaPiece c m k p 0 (k.depth / p.kc * k.tiles)).1 with
    piece := k.depth / p.kc * k.tiles } (s.mmaPiece c m k p 0 (k.depth / p.kc * k.tiles)).2
  obtain ⟨g, hg, hval⟩ := s.mmaPiece_all c m p hclr h0
  obtain ⟨x, -, hpx⟩ := Option.bind_eq_some_iff.1 hpair
  have hm := mmaPair_mode hpx
  obtain ⟨hl, hs⟩ := (s.meUnit c m).setTiles_place p.mode k.bank g k.tiles
  rw [hg] at hv hx
  obtain ⟨v, hvw⟩ : ∃ v, v = w.putMePiece c m { (s.meUnit c m).setTiles p.mode k.bank g k.tiles with
    piece := k.depth / p.kc * k.tiles } (s.mmaPiece c m k p 0 (k.depth / p.kc * k.tiles)).2 := ⟨_, rfl⟩
  have hvm : v.mem = s.mem ∧ v.bay = s.bay := by rw [hvw]; exact hwm
  rw [← hvw] at hv hx
  have hd := v.meAdvance_done c m 1
  refine completes_next hx ⟨State.meAdvance_passed (by rw [hv]; exact hl) (by rw [hv]; exact hs) (State.lists_of_meNext h),
    hd.mem.trans hvm.1, hd.bay.trans hvm.2, fun n hn e he => ?_⟩
  rw [MeUnit.accInt, MeUnit.word, MeUnit.word, MeUnit.bank, MeUnit.bank, hd.banks, hv, ← hval n hn e he]
  exact MeUnit.accInt_setTiles hn he (hval n hn e he ▸ State.mmaTotal_fits hm n e)

/-! ### STORE -/

/-- Stores into the core bay alone. -/
def State.bayOnly (s t : State) : Prop := ∃ b p, t = { s with bay := b, poison := p }

theorem State.bayOnly_trans {s t u : State} (h : s.bayOnly t) (k : t.bayOnly u) : s.bayOnly u := by
  obtain ⟨b, p, rfl⟩ := h
  obtain ⟨b', p', rfl⟩ := k
  exact ⟨b', p', rfl⟩

theorem State.foldl_bayOnly {α : Type} {f : State → α → State} (h : ∀ (s : State) a, s.bayOnly (f s a)) (l : List α) (s : State) :
    s.bayOnly (l.foldl f s) := by
  induction l generalizing s with
  | nil => exact ⟨_, _, rfl⟩
  | cons x l ih => exact State.bayOnly_trans (h s x) (ih _)

/-- The rows that STORE writes to the core bay (07 R239). -/
theorem State.storeOut_eq (s : State) (c m : Nat) (k : MeCmd) (q : Qrec) (mode a b : Nat) :
    ∃ (v : State) (n : Nat) (f : Bool), s.bayOnly v ∧
    s.storeOut c m k q mode (.bay a) (.bay b) = ((v.updCore c fun x => { x with qnan := x.qnan + n }).updMe c m
      fun u => if f then { u with nonfinite := true } else u).meAdvance c m 2 := by
  unfold State.storeOut
  dsimp only
  refine ⟨_, _, _, State.foldl_bayOnly (fun v e => ?_) _ s, rfl⟩
  have hput : v.bayOnly ((List.range (16 * k.tiles)).foldl (fun (s : State) n => if k.cols ≤ n % 16 then s
      else if k.tc then s.putElem ((Loc.bay a).plus (n * k.at 16 4)) (elemBits q.outFmt) e.1 (e.2.elems.getD n 0)
      else s.putElem ((Loc.bay a).plus (e.1 * k.at 16 4)) (elemBits q.outFmt) n (e.2.elems.getD n 0)) v) := by
    refine State.foldl_bayOnly (fun w n => ?_) _ v
    split
    · exact ⟨_, _, rfl⟩
    · split <;> exact ⟨_, _, rfl⟩
  split
  · exact hput
  · exact State.bayOnly_trans hput ⟨_, _, rfl⟩

theorem meStore_exec {g : Gang} {q : Qrec} {mode : Nat} (h : s.meNext c m 4 2 = some k) (hg : s.gangOf c = some g)
    (hq : k.storeQ g.qrecs = some q) (hm : k.storeMode (s.meUnit c m) = some mode) (hb : k.storeBad q mode = false)
    (hl : q.path = 0 → mode = mS48 → -32768 ≤ q.m ∧ q.m ≤ 32767) (hd : k.toDev = false) :
    exec (.meStore c m) s = .next (s.storeOut c m k q mode (.bay (kBay c (k.at 8 8)))
      (if isMx q.outFmt || isNgi q.outFmt then .bay (if k.scBytes q = 0 then 0 else kBay c (k.at 24 8)) else .bay 0)) := by
  have hq' : ((s.gangOf c).bind fun g => k.storeQ g.qrecs) = some q := by rw [hg]; exact hq
  have hlim : ¬ (q.path = 0 ∧ mode = mS48 ∧ (q.m < -32768 ∨ 32767 < q.m)) := fun ⟨h1, h2, h3⟩ => by
    have := hl h1 h2
    omega
  have hacc : ∀ o n, s.storeAcc c k o n = .ok (.bay (kBay c (k.at o 8))) := fun o n => by
    unfold State.storeAcc
    rw [if_neg (by rw [hd]; decide)]
  have hsc : (if (if isMx q.outFmt || isNgi q.outFmt then k.scBytes q else 0) = 0 then DevAcc.ok (.bay 0)
      else s.storeAcc c k 24 (if isMx q.outFmt || isNgi q.outFmt then k.scBytes q else 0)) =
      .ok (if isMx q.outFmt || isNgi q.outFmt then .bay (if k.scBytes q = 0 then 0 else kBay c (k.at 24 8)) else .bay 0) := by
    by_cases hgr : (isMx q.outFmt || isNgi q.outFmt) = true
    · by_cases h0 : k.scBytes q = 0 <;> simp only [hgr, h0, hacc, if_true, if_false]
    · rw [if_neg hgr, if_neg hgr, if_pos rfl]
  show execMeStore c m s = _
  unfold execMeStore
  rw [State.meRun_body _ h (by dsimp only; rw [hq', hm]; exact hb)]
  simp only [hq', hm, hlim, if_false]
  rw [hsc, hacc]

theorem meStore_completes {q : Qrec} {mode a b : Nat} (h : s.meNext c m 4 2 = some k)
    (hx : exec (.meStore c m) s = .next (s.storeOut c m k q mode (.bay a) (.bay b))) :
    completes (.meStore c m) s (fun t => s.mePassed t c m 2 ∧ t.mem = s.mem ∧ t.regs = s.regs) := by
  obtain ⟨v, n, f, ⟨b, p, hv⟩, he⟩ := s.storeOut_eq c m k q mode a b
  rw [he] at hx
  obtain ⟨w, hw⟩ : ∃ w, w = (v.updCore c fun x => { x with qnan := x.qnan + n }).updMe c m
    fun u => if f then { u with nonfinite := true } else u := ⟨_, rfl⟩
  have hu : (w.meUnit c m).lists = (s.meUnit c m).lists ∧ (w.meUnit c m).slot = (s.meUnit c m).slot := by
    have hq : (v.updCore c fun x => { x with qnan := x.qnan + n }).meUnit c m = s.meUnit c m := by
      rw [State.meUnit, State.core_updCore_same, hv]
      rfl
    rw [hw, State.meUnit_updMe_same, hq]
    split <;> exact ⟨rfl, rfl⟩
  rw [← hw] at hx
  have hk : w.mem = s.mem ∧ w.regs = s.regs := by rw [hw, hv]; exact ⟨rfl, rfl⟩
  have hd := w.meAdvance_done c m 2
  exact completes_next hx ⟨State.meAdvance_passed hu.1 hu.2 (State.lists_of_meNext h), hd.mem.trans hk.1, hd.regs.trans hk.2⟩

/-! ### STORE_RAW -/

/-- The word that STORE_RAW writes for an element (07 R239, 06 R193). -/
def MeUnit.rawWord (u : MeUnit) (mode b e : Nat) : Nat :=
  if mode = mFp32 ∧ f32IsNan (u.word b e) then f32Nan.toNat else (u.accInt mode b e % 2 ^ (8 * rawBytes mode)).toNat

/-- Row `q` of a STORE_RAW: row `q % 16` of tile `q / 16`. -/
def MeUnit.rawRow (u : MeUnit) (mode bank q : Nat) : List Byte :=
  (List.range 16).flatMap fun j => leBytes (rawBytes mode) (u.rawWord mode (tileBank mode bank (q / 16)) (16 * (q % 16) + j))

theorem rawBytes_pos (mode : Nat) : 0 < rawBytes mode := by
  unfold rawBytes
  split <;> decide

theorem MeUnit.length_rawRow (u : MeUnit) (mode bank q : Nat) : (u.rawRow mode bank q).length = 16 * rawBytes mode :=
  length_flatMap_leBytes _ _ _

theorem MeUnit.accInt_bounds (u : MeUnit) (mode b e : Nat) :
    -2 ^ (8 * rawBytes mode - 1) ≤ u.accInt mode b e ∧ u.accInt mode b e < 2 ^ (8 * rawBytes mode - 1) := by
  unfold MeUnit.accInt rawBytes
  split
  · have h1 := BitVec.le_toInt (u.word (b + 1) e)
    have h2 := BitVec.toInt_lt (x := u.word (b + 1) e)
    have h3 := (u.word b e).isLt
    constructor <;> omega
  · exact ⟨BitVec.le_toInt _, BitVec.toInt_lt⟩

/-- A raw word reads back as the accumulator, or as the canonical NaN. -/
theorem MeUnit.sInt_rawWord (u : MeUnit) (mode b e : Nat) : sInt (8 * rawBytes mode) (u.rawWord mode b e) =
    if mode = mFp32 ∧ f32IsNan (u.word b e) then f32Nan.toInt else u.accInt mode b e := by
  unfold MeUnit.rawWord
  split
  next h =>
    rw [h.1]
    decide
  next h =>
    obtain ⟨h1, h2⟩ := u.accInt_bounds mode b e
    exact sInt_emod (Nat.mul_pos (by decide) (rawBytes_pos mode)) h1 h2

/-- The rows of a STORE_RAW do not meet where their stride holds the tiles side by side. -/
theorem MeCmd.rawKey_apart {k : MeCmd} {c mode : Nat} (hs : k.tiles * 16 * rawBytes mode ≤ k.at 16 4) {q r : Nat}
    (hq : q < 16 * k.tiles) (hr : r < 16 * k.tiles) (hne : q ≠ r) :
    k.rawKey c mode (q % 16) (q / 16) + 16 * rawBytes mode ≤ k.rawKey c mode (r % 16) (r / 16) ∨
    k.rawKey c mode (r % 16) (r / 16) + 16 * rawBytes mode ≤ k.rawKey c mode (q % 16) (q / 16) := by
  have row : ∀ {i j t : Nat}, i < j → t < k.tiles → i * k.at 16 4 + t * 16 * rawBytes mode + 16 * rawBytes mode ≤ j * k.at 16 4 :=
    fun {i j t} hij ht => by
      have h1 := Nat.mul_le_mul_right (k.at 16 4) (Nat.succ_le_of_lt hij)
      have h2 := Nat.mul_le_mul_right (16 * rawBytes mode) (Nat.succ_le_of_lt ht)
      rw [Nat.succ_mul] at h1 h2
      rw [← Nat.mul_assoc, ← Nat.mul_assoc] at h2
      omega
  have tile : ∀ {t t' : Nat}, t < t' → t * 16 * rawBytes mode + 16 * rawBytes mode ≤ t' * 16 * rawBytes mode := fun {t t'} ht => by
    have h2 := Nat.mul_le_mul_right (16 * rawBytes mode) (Nat.succ_le_of_lt ht)
    rw [Nat.succ_mul, ← Nat.mul_assoc, ← Nat.mul_assoc] at h2
    exact h2
  have hq' : q / 16 < k.tiles := by omega
  have hr' : r / 16 < k.tiles := by omega
  unfold MeCmd.rawKey kBay
  obtain hlt | heq | hlt := Nat.lt_trichotomy (q % 16) (r % 16)
  · have := row hlt hq'
    omega
  · rw [heq]
    obtain ht | ht := Nat.lt_or_gt_of_ne (show q / 16 ≠ r / 16 by omega)
    · have := tile ht
      omega
    · have := tile ht
      omega
  · have := row hlt hr'
    omega

theorem meStoreRaw_completes (h : s.meNext c m 5 1 = some k) (hz : k.zero 5 6 = true)
    (hr : k.rawBad ((s.meUnit c m).mode k.bank) = false) (hi : s.Inv)
    (hm : ∀ n < k.tiles, (s.meUnit c m).mode (tileBank ((s.meUnit c m).mode k.bank) k.bank n) = (s.meUnit c m).mode k.bank)
    (hs : k.tiles * 16 * rawBytes ((s.meUnit c m).mode k.bank) ≤ k.at 16 4) :
    completes (.meStoreRaw c m) s (fun t => s.mePassed t c m 1 ∧ t.mem = s.mem ∧ ∀ n < k.tiles, ∀ e < 256,
      sInt (8 * rawBytes ((s.meUnit c m).mode k.bank)) (t.bayNat (k.rawKey c ((s.meUnit c m).mode k.bank) (e / 16) n +
          e % 16 * rawBytes ((s.meUnit c m).mode k.bank)) (rawBytes ((s.meUnit c m).mode k.bank))) =
        if (s.meUnit c m).mode k.bank = mFp32 ∧
            f32IsNan ((s.meUnit c m).word (tileBank ((s.meUnit c m).mode k.bank) k.bank n) e) then f32Nan.toInt
        else (s.meUnit c m).accInt ((s.meUnit c m).mode k.bank) (tileBank ((s.meUnit c m).mode k.bank) k.bank n) e) := by
  generalize hmode : (s.meUnit c m).mode k.bank = mode at *
  obtain ⟨v, hv⟩ : ∃ v, v = s.bayStores (fun q => k.rawKey c mode (q % 16) (q / 16)) ((s.meUnit c m).rawRow mode k.bank)
    (List.range (16 * k.tiles)) := ⟨_, rfl⟩
  obtain ⟨b, p, hb⟩ := State.bayStores_eq (fun q => k.rawKey c mode (q % 16) (q / 16))
    ((s.meUnit c m).rawRow mode k.bank) (List.range (16 * k.tiles)) s
  rw [← hv] at hb
  have hx : ∃ f : MeUnit → MeUnit, (∀ u, (f u).lists = u.lists ∧ (f u).slot = u.slot) ∧
      exec (.meStoreRaw c m) s = .next ((v.updMe c m f).meAdvance c m 1) := by
    subst hmode hv
    have hbad : (!k.zero 5 6 || k.rawBad ((s.meUnit c m).mode k.bank) || (List.range k.tiles).any fun t =>
        (s.meUnit c m).mode (tileBank ((s.meUnit c m).mode k.bank) k.bank t) != (s.meUnit c m).mode k.bank) = false := by
      simp only [hz, hr, Bool.not_true, Bool.false_or, List.any_eq_false, List.mem_range]
      intro t ht
      simp [hm t ht]
    refine ⟨_, fun u => ?_, State.meRun_body _ h hbad⟩
    split <;> exact ⟨rfl, rfl⟩
  obtain ⟨f, hf, hx⟩ := hx
  obtain ⟨w, hw⟩ : ∃ w, w = v.updMe c m f := ⟨_, rfl⟩
  rw [← hw] at hx
  have hvu : v.meUnit c m = s.meUnit c m := by rw [hb]; rfl
  have hu : (w.meUnit c m).lists = (s.meUnit c m).lists ∧ (w.meUnit c m).slot = (s.meUnit c m).slot := by
    rw [hw, State.meUnit_updMe_same, hvu]
    exact hf _
  have hwm : w.mem = s.mem := by rw [hw, hb]; rfl
  have hd := w.meAdvance_done c m 1
  have hbyte : ∀ a, (w.meAdvance c m 1).bayByte a = v.bayByte a := fun a => by
    rw [State.bayByte, hd.bay, hd.bayGen, hw]
    rfl
  refine completes_next hx ⟨State.meAdvance_passed hu.1 hu.2 (State.lists_of_meNext h), hd.mem.trans hwm, fun n hn e he => ?_⟩
  have hq : 16 * n + e / 16 < 16 * k.tiles := by omega
  have hq1 : (16 * n + e / 16) % 16 = e / 16 := by omega
  have hq2 : (16 * n + e / 16) / 16 = n := by omega
  have hap : (List.range (16 * k.tiles)).Pairwise fun q r =>
      k.rawKey c mode (q % 16) (q / 16) + ((s.meUnit c m).rawRow mode k.bank q).length ≤ k.rawKey c mode (r % 16) (r / 16) ∨
      k.rawKey c mode (r % 16) (r / 16) + ((s.meUnit c m).rawRow mode k.bank r).length ≤
        k.rawKey c mode (q % 16) (q / 16) := by
    refine (List.nodup_range.pairwise_of_forall_ne fun q hq r hr hne => ?_)
    rw [MeUnit.length_rawRow, MeUnit.length_rawRow]
    exact MeCmd.rawKey_apart hs (List.mem_range.1 hq) (List.mem_range.1 hr) hne
  have hval : (w.meAdvance c m 1).bayNat (k.rawKey c mode (e / 16) n + e % 16 * rawBytes mode) (rawBytes mode) =
      (s.meUnit c m).rawWord mode (tileBank mode k.bank n) e % 256 ^ rawBytes mode := by
    refine State.bayNat_of_bytes fun i hiw => ?_
    have hoff : e % 16 * rawBytes mode + i < 16 * rawBytes mode := by
      have := Nat.mul_le_mul_right (rawBytes mode) (show e % 16 + 1 ≤ 16 by omega)
      rw [Nat.add_mul] at this
      omega
    have hin := State.bayStores_in (fun q => k.rawKey c mode (q % 16) (q / 16)) ((s.meUnit c m).rawRow mode k.bank) hi hap
      (List.mem_range.2 hq) (i := e % 16 * rawBytes mode + i) (by rw [MeUnit.length_rawRow]; exact hoff)
    rw [← hv] at hin
    rw [hq1, hq2, ← Nat.add_assoc] at hin
    rw [hbyte, hin, MeUnit.rawRow, getD_flatMap_leBytes _ (Nat.mod_lt _ (by decide)) hiw, hq1, hq2, Nat.div_add_mod]
  have hsi := (s.meUnit c m).sInt_rawWord mode (tileBank mode k.bank n) e
  rw [hval, ← hsi, sInt_mod_bytes]

end

/-- Settles O31. -/
theorem matrixEngines : Obligations.MatrixEngines := by
  refine ⟨fun c m s => ⟨fun tc val hr => ⟨fun hl => ?_, fun hl => ?_⟩, fun k h hz => ?_, fun k h hb => ⟨fun ho => ?_, fun ho => ?_⟩,
    fun k h hr hw ho => ?_, fun k h hb => ?_⟩, fun c m s => ⟨fun k h h4 h5 hz hz' => ?_, fun k h h5 hr hp => ?_,
    fun k p h hpair hb ha hclr h0 hr hp hd => ?_, fun k g q mode h hg hq hm hb hl hd => ?_,
    fun k => fun h hz hr hi hm hs => ?_⟩⟩
  · obtain ⟨t, hx, h1, h2⟩ := meListLaunch_queues hr hl
    exact ⟨t, hx, h1, h2⟩
  · exact meListLaunch_stalls hr hl
  · exact completes_next (meNop_exec h hz) (State.meAdvance_alone (State.lists_of_meNext h))
  · obtain ⟨h1, h2, -⟩ := State.meAdvance_alone (n := 1) (State.lists_of_meNext h)
    exact completes_next ((meWait_exec h hb).trans (by rw [if_pos ho])) ⟨h1, h2⟩
  · refine completes_next (t := s.updMe c m fun u => { u with waiting := true }) ?_ ⟨State.meUnit_updMe_same _ _ _ _, rfl⟩
    rw [meWait_exec h hb, if_neg (by simp [ho])]
  · obtain ⟨e, he, -⟩ := Option.map_eq_some_iff.1 h
    exact completes_next (meWaitSatisfied_exec h hr hw ho)
      (State.meAdvance_alone ⟨e, _, (List.head?_eq_some_iff.1 he).choose_spec⟩)
  · exact meSignal_completes h hb
  · exact meZero_completes h h4 h5 hz hz'
  · exact meAccLoad_completes h h5 hr hp
  · exact meMma_completes h hpair hb ha hclr h0 hr hp hd
  · have hx := meStore_exec h hg hq hm hb hl hd
    refine ⟨hx, ?_⟩
    split at hx
    · exact meStore_completes h hx
    · exact meStore_completes h hx
  · exact meStoreRaw_completes h hz hr hi hm hs

end Sys2Proof.Machine
end

section
/-! The data mover (O33). -/

namespace Sys2Proof.Machine

section
variable {s : State} {c q op : Nat} {d : DmD}

/-- A queue whose front is ready to move: its front, its gang and the checks that it has passed. -/
theorem State.dmAt_some (h : s.dmAt c q op = some d) : ∃ l g, s.dmFront c q = some (l, d) ∧ s.gangOf c = some g ∧
    s.coreRuns c = true ∧ s.blockGoes .co c = true ∧ (q = 1 → s.walkHolds c = false) ∧ d.bad g.width = false ∧ d.op = op ∧
    (s.dmQueue c q).moved < d.total := by
  unfold State.dmAt at h
  split at h
  next l d' g hf hg =>
    split at h
    next hc =>
      obtain rfl := Option.some.inj h
      exact ⟨l, g, hf, hg, hc⟩
    next => exact absurd h (by simp)
  next => exact absurd h (by simp)

theorem State.dmRow_of_dmAt (h : s.dmAt c q op = some d) (runs : DmD → Nat → List DmRun) :
    ∃ l, s.dmRow c q op runs = s.dmStep c q l d (runs d (s.dmQueue c q).moved) (min 4096 (d.total - (s.dmQueue c q).moved)) := by
  obtain ⟨l, g, hf, hg, hr, hb, hw, hbad, hop, hm⟩ := State.dmAt_some h
  refine ⟨l, ?_⟩
  have hw' : ¬ (q = 1 ∧ s.walkHolds c = true) := fun e => by simp [hw e.1] at e
  unfold State.dmRow
  rw [hf, hg]
  simp [hr, hb, hw', hbad, hop, Nat.not_le.2 hm]

/-- The bytes that a run of a descriptor moves within the bay of a core. -/
def State.dmBytes (s : State) (c : Nat) (d : DmD) (r : DmRun) : List Byte :=
  if d.op = 3 then d.fillBytes r.row r.n else s.bayLoad (kBay c (d.src + r.src)) r.n

theorem State.length_dmBytes (s : State) (c : Nat) (d : DmD) (r : DmRun) : (s.dmBytes c d r).length = r.n := by
  unfold State.dmBytes
  split
  · simp [DmD.fillBytes]
  · simp [State.bayLoad]

/-- One run within the bay of a core. -/
def State.dmOne (c : Nat) (d : DmD) (s : State) (r : DmRun) : State :=
  s.bayStore (kBay c (d.dst + r.dst)) (s.dmBytes c d r)

theorem State.dmOne_poison (h : s.poison = []) (r : DmRun) : (s.dmOne c d r).poison = [] := by
  rw [State.dmOne, State.bayStore, h]
  rfl

theorem State.locCopy_bay (h : s.poison = []) (a b n : Nat) :
    s.locCopy (.bay a) (.bay b) n = s.bayStore b (s.bayLoad a n) := by
  have hn : ∀ l : List Nat, l.filter (fun o => poisonedIn s.poison ((Loc.bay a).poisonKey + (o * 64 - (Loc.bay b).poisonKey))
      (min (64 - ((Loc.bay b).poisonKey + (o * 64 - (Loc.bay b).poisonKey)) % 64) (n - (o * 64 - (Loc.bay b).poisonKey)))) = [] :=
    fun l => List.filter_eq_nil_iff.2 fun o _ => by simp [h, poisonedIn]
  exact congrArg (s.bayStore b (s.bayLoad a n)).poisonLines (hn (linesOf (Loc.bay b).poisonKey n))

theorem foldl_congr_of {α β : Type} {P : α → Prop} {f g : α → β → α} (h : ∀ a, P a → ∀ b, f a b = g a b)
    (hg : ∀ a, P a → ∀ b, P (g a b)) (l : List β) {a : α} (ha : P a) : l.foldl f a = l.foldl g a := by
  induction l generalizing a with
  | nil => rfl
  | cons b l ih => rw [List.foldl_cons, List.foldl_cons, h a ha, ih (hg a ha b)]

theorem findSome?_map_none {α β γ : Type} {f : β → Option γ} {g : α → β} (h : ∀ a, f (g a) = none) (l : List α) :
    (l.map g).findSome? f = none := by
  rw [List.findSome?_eq_none_iff]
  intro b hb
  obtain ⟨a, -, rfl⟩ := List.mem_map.1 hb
  exact h a

/-- Runs within the bay of a core are stored one after the other (07 R258). -/
theorem State.dmStep_bay (hp : s.poison = []) {runs : List DmRun} (l : Launch) (n : Nat)
    (hs : d.op ≠ 3 → d.srcSpace = 1 ∧ ∀ r ∈ runs, d.src + r.src + r.n ≤ bayBytes)
    (hd : d.dstSpace = 1) (hd' : ∀ r ∈ runs, d.dst + r.dst + r.n ≤ bayBytes) :
    s.dmStep c q l d runs n = (runs.foldl (State.dmOne c d) s).updDm c q fun k => { k with moved := k.moved + n } := by
  have hacc : (runs.map fun r => (if (d.op == 3) = true then DmAcc.ok (.bay 0) else s.dmAcc c d.srcSpace d.peer (d.src + r.src) r.n,
      s.dmAcc c d.dstSpace d.peer (d.dst + r.dst) r.n, r)) =
      runs.map fun r => (DmAcc.ok (.bay (if d.op = 3 then 0 else kBay c (d.src + r.src))),
        DmAcc.ok (.bay (kBay c (d.dst + r.dst))), r) := by
    refine List.map_congr_left fun r hr => ?_
    have h2 := hd' r hr
    have e2 : s.dmAcc c d.dstSpace d.peer (d.dst + r.dst) r.n = .ok (.bay (kBay c (d.dst + r.dst))) := by
      simp [State.dmAcc, hd, Nat.not_lt.2 h2]
    rw [e2]
    by_cases h3 : d.op = 3
    · simp [h3]
    · obtain ⟨h1, h1'⟩ := hs h3
      simp [h3, State.dmAcc, h1, Nat.not_lt.2 (h1' r hr)]
  unfold State.dmStep
  dsimp only
  rw [hacc, if_neg (by simp)]
  rw [findSome?_map_none]
  case h => exact fun r => rfl
  dsimp only
  rw [if_neg (by simp), List.foldl_map]
  congr 1
  refine foldl_congr_of (P := fun u : State => u.poison = []) (fun u hu r => ?_) (fun u hu r => State.dmOne_poison hu r) runs hp
  dsimp only
  unfold State.dmOne State.dmBytes
  by_cases h3 : d.op = 3
  · simp [h3, State.locStore]
  · simp [h3, State.locCopy_bay hu]

theorem State.bayLoad_congr {t : State} {k n : Nat} (h : ∀ i < n, t.bayByte (k + i) = s.bayByte (k + i)) :
    t.bayLoad k n = s.bayLoad k n :=
  List.map_congr_left fun i hi => h i (List.mem_range.1 hi)

theorem State.dmBytes_congr {t : State} {r : DmRun}
    (h : d.op ≠ 3 → ∀ j < r.n, t.bayByte (kBay c (d.src + r.src) + j) = s.bayByte (kBay c (d.src + r.src) + j)) :
    t.dmBytes c d r = s.dmBytes c d r := by
  unfold State.dmBytes
  by_cases h3 : d.op = 3
  · rw [if_pos h3, if_pos h3]
  · rw [if_neg h3, if_neg h3]
    exact State.bayLoad_congr (h h3)

theorem kBay_add (c a b : Nat) : kBay c (a + b) = kBay c a + b := (Nat.add_assoc _ _ _).symm

/-- A place that is none of a range's lies outside of the range. -/
theorem kBay_apart {c a j b n : Nat} (h : ∀ i < n, a + j ≠ b + i) : kBay c a + j < kBay c b ∨ kBay c b + n ≤ kBay c a + j := by
  by_contra hno
  have hk : kBay c a + b = kBay c b + a := by rw [← kBay_add, ← kBay_add, Nat.add_comm]
  have := h (a + j - b) (by omega)
  omega

theorem State.bayStores_nil {α : Type} (K : α → Nat) (B : α → List Byte) (s : State) : s.bayStores K B [] = s := rfl

theorem State.bayStores_cons {α : Type} (K : α → Nat) (B : α → List Byte) (x : α) (l : List α) (s : State) :
    s.bayStores K B (x :: l) = (s.bayStore (K x) (B x)).bayStores K B l := rfl

/-- A run whose source no earlier run has written moves what was there. -/
theorem State.foldl_dmOne {runs : List DmRun} {u : State} (hu : u.Inv)
    (hsame : d.op ≠ 3 → ∀ r ∈ runs, ∀ j < r.n, u.bayByte (kBay c (d.src + r.src) + j) = s.bayByte (kBay c (d.src + r.src) + j))
    (hap : d.op ≠ 3 → runs.Pairwise fun r r' => ∀ j < r'.n, ∀ i < r.n, d.src + r'.src + j ≠ d.dst + r.dst + i) :
    runs.foldl (State.dmOne c d) u = u.bayStores (fun r => kBay c (d.dst + r.dst)) (s.dmBytes c d) runs := by
  induction runs generalizing u with
  | nil => rw [List.foldl_nil, State.bayStores_nil]
  | cons r l ih =>
    have hb : u.dmBytes c d r = s.dmBytes c d r := State.dmBytes_congr fun h3 => hsame h3 r List.mem_cons_self
    have h1 : u.dmOne c d r = u.bayStore (kBay c (d.dst + r.dst)) (s.dmBytes c d r) := by rw [State.dmOne, hb]
    rw [List.foldl_cons, h1, State.bayStores_cons]
    refine ih (State.bayStore_inv hu _ _) (fun h3 r' hr' j hj => ?_) fun h3 => (List.pairwise_cons.1 (hap h3)).2
    have hout := kBay_apart (c := c) fun i hi => (List.pairwise_cons.1 (hap h3)).1 r' hr' j hj i hi
    rw [← State.length_dmBytes s c d r] at hout
    exact (State.bayByte_bayStore_other hu hout).trans (hsame h3 r' (List.mem_cons_of_mem _ hr') j hj)

/-- What a step within the bay of a core leaves: the runs' bytes, and everything else as it was. -/
theorem State.dmStep_result (hi : s.Inv) (hp : s.poison = []) {runs : List DmRun} (l : Launch) (n : Nat)
    (hs : d.op ≠ 3 → d.srcSpace = 1 ∧ ∀ r ∈ runs, d.src + r.src + r.n ≤ bayBytes)
    (hd : d.dstSpace = 1) (hd' : ∀ r ∈ runs, d.dst + r.dst + r.n ≤ bayBytes)
    (hap : d.op ≠ 3 → runs.Pairwise fun r r' => ∀ j < r'.n, ∀ i < r.n, d.src + r'.src + j ≠ d.dst + r.dst + i) :
    ((s.dmStep c q l d runs n).dmQueue c q).moved = (s.dmQueue c q).moved + n ∧ (s.dmStep c q l d runs n).mem = s.mem ∧
    (s.dmStep c q l d runs n).regs = s.regs ∧ ∀ a, (s.dmStep c q l d runs n).bayByte a =
      (s.bayStores (fun r => kBay c (d.dst + r.dst)) (s.dmBytes c d) runs).bayByte a := by
  rw [State.dmStep_bay hp l n hs hd hd', State.foldl_dmOne (s := s) hi (fun _ _ _ _ _ => rfl) hap]
  obtain ⟨b, p, hb⟩ := State.bayStores_eq (fun r => kBay c (d.dst + r.dst)) (s.dmBytes c d) runs s
  rw [hb]
  exact ⟨by rw [State.dmQueue_updDm_same]; rfl, rfl, rfl, fun _ => rfl⟩

/-- A single row that one step moves (07 R258, R259). -/
theorem State.dmRow_one (hi : s.Inv) (hp : s.poison = []) (h : s.dmAt c q op = some d)
    (hs : op ≠ 3 → d.srcSpace = 1 ∧ d.src + d.len0 ≤ bayBytes) (hd : d.dstSpace = 1) (hd' : d.dst + d.len0 ≤ bayBytes)
    (h1 : d.cnt1 = 1) (h2 : d.cnt2 = 1) (hl : d.len0 ≤ 4096) (hm : (s.dmQueue c q).moved = 0) {t : State}
    (ht : t = s.dmRow c q op fun d o => d.runs o 4096 4097) :
    (t.dmQueue c q).moved = d.len0 ∧ t.mem = s.mem ∧ t.regs = s.regs ∧
    (∀ i < d.len0, t.bayByte (kBay c (d.dst + i)) = (s.dmBytes c d ⟨0, 0, d.len0, 0⟩).getD i 0) ∧
    ∀ a, (∀ i < d.len0, a ≠ kBay c (d.dst + i)) → t.bayByte a = s.bayByte a := by
  obtain ⟨-, -, -, -, -, -, -, -, hdop, hlt⟩ := State.dmAt_some h
  obtain ⟨l, hrow⟩ := State.dmRow_of_dmAt h fun d o => d.runs o 4096 4097
  have htot : d.total = d.len0 := by simp [DmD.total, h1, h2]
  rw [hm, htot] at hlt
  have hruns : d.runs 0 4096 4097 = [⟨0, 0, d.len0, 0⟩] := by
    have hk : min 4096 d.len0 = d.len0 := by omega
    rw [DmD.runs, if_neg (by omega)]
    simp only [Nat.zero_div, Nat.zero_mod, Nat.zero_mul, Nat.zero_add, Nat.sub_zero, hk]
    rw [DmD.runs, if_pos (Or.inr (Nat.le_of_eq htot))]
  rw [hrow, hm, hruns, htot, show min 4096 (d.len0 - 0) = d.len0 by omega] at ht
  obtain ⟨r1, r2, r3, r4⟩ := State.dmStep_result (c := c) (q := q) hi hp l d.len0
    (runs := [⟨0, 0, d.len0, 0⟩]) (d := d) (fun h3 => by simpa using hs (hdop ▸ h3)) hd (by simpa using hd')
    fun _ => List.pairwise_singleton _ _
  rw [← ht] at r1 r2 r3 r4
  refine ⟨by rw [r1, hm, Nat.zero_add], r2, r3, fun i hlt' => ?_, fun a ha => ?_⟩
  · rw [r4]
    have hin := State.bayStores_in (fun r : DmRun => kBay c (d.dst + r.dst)) (s.dmBytes c d) hi (List.pairwise_singleton _ _)
      (List.mem_singleton.2 rfl) (x := ⟨0, 0, d.len0, 0⟩) (i := i) (by rw [State.length_dmBytes]; exact hlt')
    rw [← hin]
    dsimp only
    rw [Nat.add_zero, kBay_add]
  · rw [r4]
    refine State.bayStores_other _ _ _ hi fun r hr => ?_
    rw [List.mem_singleton] at hr
    rw [hr, State.length_dmBytes]
    dsimp only
    by_contra hno
    refine ha (a - kBay c d.dst) ?_ ?_
    · rw [Nat.add_zero] at hno
      omega
    · rw [Nat.add_zero] at hno
      rw [kBay_add]
      omega

/-! ### TRANSPOSE -/

/-- The elements of a single plane and row (07 R260). -/
theorem DmD.elems_one (h1 : d.cnt1 = 1) (h2 : d.cnt2 = 1) (hl : d.len0 ≤ 4096) :
    d.elems 0 4096 = (List.range (d.len0 / d.elem)).map fun i => ⟨i * d.elem, i * d.ds1, d.elem, 0⟩ := by
  have htot : d.total = d.len0 := by simp [DmD.total, h1, h2]
  have hmin : min (d.len0 / d.elem) (4096 / d.elem) = d.len0 / d.elem := Nat.min_eq_left (Nat.div_le_div_right hl)
  unfold DmD.elems upFrom
  simp only [htot, h1, Nat.zero_div, Nat.zero_add, hmin, Nat.sub_zero, Nat.mod_one, Nat.zero_mul, Nat.div_one, Nat.one_mul,
    List.map_map]
  refine List.map_congr_left fun i hi => ?_
  have hi' := List.mem_range.1 hi
  simp [Nat.mod_eq_of_lt hi', Nat.div_eq_of_lt hi']

theorem DmD.elem_pos {w : Nat} (hb : d.bad w = false) (ho : d.op = 2) : 0 < d.elem ∧ d.len0 % d.elem = 0 := by
  simp only [DmD.bad, ho, Bool.or_eq_false_iff] at hb
  obtain ⟨⟨⟨⟨-, hb⟩, -⟩, -⟩, -⟩ := hb
  simp only [beq_self_eq_true, Bool.true_and, Bool.or_eq_false_iff, Bool.not_eq_false', bne_eq_false_iff_eq,
    List.contains_eq_mem, List.mem_cons, List.not_mem_nil, or_false, decide_eq_true_eq] at hb
  obtain ⟨h1, h2⟩ := hb
  exact ⟨by omega, h2⟩

theorem dmTranspose_completes {c : Fin 64} {q : Fin 2} (hi : s.Inv) (hp : s.poison = []) (h : s.dmAt c q 2 = some d)
    (hs : d.srcSpace = 1) (hd : d.dstSpace = 1) (h1 : d.cnt1 = 1) (h2 : d.cnt2 = 1) (hl : d.len0 ≤ 4096)
    (hm : (s.dmQueue c q).moved = 0) (hsrc : d.src + d.len0 ≤ bayBytes)
    (hdst : ∀ r ∈ d.elems 0 4096, d.dst + r.dst + r.n ≤ bayBytes) (he : d.elem ≤ d.ds1)
    (hap : ∀ r ∈ d.elems 0 4096, ∀ i < d.elem, ∀ j < d.len0, d.src + j ≠ d.dst + r.dst + i) :
    completes (.dmTranspose c q) s (fun t => (t.dmQueue c q).moved = d.len0 ∧ t.mem = s.mem ∧ t.regs = s.regs ∧
      ∀ e < d.len0 / d.elem, ∀ i < d.elem,
        t.bayByte (kBay c (d.dst + e * d.ds1 + i)) = s.bayByte (kBay c (d.src + e * d.elem + i))) := by
  obtain ⟨-, g, -, -, -, -, -, hbad, hdop, hlt⟩ := State.dmAt_some h
  obtain ⟨hpos, hdvd⟩ := DmD.elem_pos hbad hdop
  obtain ⟨l, hrow⟩ := State.dmRow_of_dmAt h fun d o => d.elems o 4096
  have htot : d.total = d.len0 := by simp [DmD.total, h1, h2]
  rw [hm, htot, show min 4096 (d.len0 - 0) = d.len0 by omega] at hrow
  have hmem : ∀ r ∈ d.elems 0 4096, r.n = d.elem ∧ r.src + d.elem ≤ d.len0 ∧ ∃ e < d.len0 / d.elem, r.src = e * d.elem ∧ r.dst = e * d.ds1 := by
    intro r hr
    rw [DmD.elems_one h1 h2 hl] at hr
    obtain ⟨e, he, rfl⟩ := List.mem_map.1 hr
    refine ⟨rfl, ?_, e, List.mem_range.1 he, rfl, rfl⟩
    have hmul := Nat.mul_le_mul_right d.elem (Nat.succ_le_of_lt (List.mem_range.1 he))
    rw [Nat.div_mul_cancel (Nat.dvd_of_mod_eq_zero hdvd), Nat.succ_mul] at hmul
    exact hmul
  obtain ⟨r1, r2, r3, r4⟩ := State.dmStep_result (c := c) (q := q) hi hp l d.len0 (runs := d.elems 0 4096) (d := d)
    (fun _ => ⟨hs, fun r hr => by
      obtain ⟨e1, e2, -⟩ := hmem r hr
      omega⟩) hd hdst
    (fun _ => List.pairwise_of_forall_mem_list fun r hr r' hr' j hj i hi' => by
      obtain ⟨e1, -⟩ := hmem r hr
      obtain ⟨f1, f2, -⟩ := hmem r' hr'
      have := hap r hr i (e1 ▸ hi') (r'.src + j) (by omega)
      omega)
  rw [← hrow] at r1 r2 r3 r4
  refine completes_next rfl ⟨by rw [r1, hm, Nat.zero_add], r2, r3, fun e hlt' i hi' => ?_⟩
  rw [r4]
  have hpair : (d.elems 0 4096).Pairwise fun x y => kBay c (d.dst + x.dst) + (s.dmBytes c d x).length ≤ kBay c (d.dst + y.dst) ∨
      kBay c (d.dst + y.dst) + (s.dmBytes c d y).length ≤ kBay c (d.dst + x.dst) := by
    rw [DmD.elems_one h1 h2 hl, List.pairwise_map]
    refine List.pairwise_lt_range.imp fun {a b} hab => Or.inl ?_
    rw [State.length_dmBytes]
    have hmul := Nat.mul_le_mul_right d.ds1 (Nat.succ_le_of_lt hab)
    rw [Nat.succ_mul] at hmul
    dsimp only
    rw [kBay_add, kBay_add]
    omega
  have hx : (⟨e * d.elem, e * d.ds1, d.elem, 0⟩ : DmRun) ∈ d.elems 0 4096 := by
    rw [DmD.elems_one h1 h2 hl]
    exact List.mem_map.2 ⟨e, List.mem_range.2 hlt', rfl⟩
  have hin := State.bayStores_in (fun r : DmRun => kBay c (d.dst + r.dst)) (s.dmBytes c d) hi hpair hx (i := i)
    (by rw [State.length_dmBytes]; exact hi')
  rw [kBay_add, hin, State.dmBytes, if_neg (by omega)]
  simp [State.bayLoad, hi', kBay_add]

/-! ### The end of a descriptor -/

/-- The launch that a tidy core waits with goes to the end of a queue with space (07 R259). -/
def State.dmUnstallTc (s : State) (c q t : Nat) : State :=
  match ((s.core c).tidy t).stall with
  | .dm k a =>
    if k = q ∧ (s.dmQueue c q).descs.length < 16 then
      ((s.updDm c q fun x => { x with descs := x.descs ++ [s.launchAt c t a] }).updTidy c t fun k =>
        { k with stall := .none }).tcNext c t
    else s
  | _ => s

/-- A queue has only grown, and neither memory, the bay nor the semaphores have changed. -/
def State.dmGrows (s t : State) (c q : Nat) : Prop :=
  (∃ x, t.dmQueue c q = { s.dmQueue c q with descs := (s.dmQueue c q).descs ++ x }) ∧ t.mem = s.mem ∧ t.bay = s.bay ∧
    (t.core c).sems = (s.core c).sems

theorem State.dmGrows_refl (s : State) (c q : Nat) : s.dmGrows s c q := ⟨⟨[], by rw [List.append_nil]⟩, rfl, rfl, rfl⟩

theorem State.dmGrows_trans {t u : State} (h : s.dmGrows t c q) (k : t.dmGrows u c q) : s.dmGrows u c q := by
  obtain ⟨⟨x, hx⟩, h1, h2, h3⟩ := h
  obtain ⟨⟨y, hy⟩, k1, k2, k3⟩ := k
  exact ⟨⟨x ++ y, by rw [hy, hx]; simp only [List.append_assoc]⟩, k1.trans h1, k2.trans h2, k3.trans h3⟩

theorem Core.updTidy_sems (k : Core) (t : Nat) (f : Tidy → Tidy) : (k.updTidy t f).sems = k.sems := by
  obtain ⟨a, b, h⟩ := k.updTidy_eq t f
  rw [h]

theorem State.sems_updTidy (s : State) (c t : Nat) (f : Tidy → Tidy) : ((s.updTidy c t f).core c).sems = (s.core c).sems := by
  rw [State.updTidy, State.core_updCore_same, Core.updTidy_sems]

theorem State.sems_updDm (s : State) (c q : Nat) (f : DmQueue → DmQueue) : ((s.updDm c q f).core c).sems = (s.core c).sems := by
  rw [State.updDm, State.core_updCore_same]
  split <;> rfl

theorem State.dmUnstallTc_grows (s : State) (c q t : Nat) : s.dmGrows (s.dmUnstallTc c q t) c q := by
  unfold State.dmUnstallTc
  split
  next a _ =>
    split
    · refine ⟨⟨[s.launchAt c t a], ?_⟩, rfl, rfl, ?_⟩
      · rw [State.dmQueue_tcNext, State.dmQueue_updTidy, State.dmQueue_updDm_same]
      · rw [State.tcNext, State.tcPass, State.sems_updTidy, State.sems_updTidy, State.sems_updDm]
    · exact s.dmGrows_refl c q
  next => exact s.dmGrows_refl c q

theorem State.dmUnstall_grows (s : State) (c q : Nat) : s.dmGrows (s.dmUnstall c q) c q :=
  State.dmGrows_trans (s.dmUnstallTc_grows c q 0) ((s.dmUnstallTc c q 0).dmUnstallTc_grows c q 1)

/-- The signal of a finished descriptor (07 R258). -/
def State.dmSignal (s : State) (c : Nat) (d : DmD) : State :=
  if !d.sig then s
  else if d.sigRemote then
    match (s.core c).gang with
    | some u => s.signalMember u d.peer d.sem
    | none => s
  else s.semAdd c d.sem 1

theorem State.dmQueue_semAdd (s : State) (k c q sem n : Nat) : (s.semAdd k sem n).dmQueue c q = s.dmQueue c q := by
  unfold State.dmQueue State.semAdd
  by_cases h : c = k
  · rw [h, State.core_updCore_same]
    rfl
  · rw [State.core_updCore_other _ _ h]

theorem State.dmSignal_frame (s : State) (c q : Nat) (d : DmD) : (s.dmSignal c d).mem = s.mem ∧ (s.dmSignal c d).bay = s.bay ∧
    (s.dmSignal c d).dmQueue c q = s.dmQueue c q := by
  unfold State.dmSignal
  split
  · exact ⟨rfl, rfl, rfl⟩
  · split
    · split
      · unfold State.signalMember State.updMember
        split
        · exact ⟨rfl, rfl, s.dmQueue_semAdd _ c q _ _⟩
        · split
          · exact ⟨rfl, rfl, rfl⟩
          · exact ⟨rfl, rfl, rfl⟩
      · exact ⟨rfl, rfl, rfl⟩
    · exact ⟨rfl, rfl, s.dmQueue_semAdd _ c q _ _⟩

theorem State.dmSignal_own (s : State) (c : Nat) (h : d.sigRemote = false) :
    ((s.dmSignal c d).core c).sems.look 0 d.sem = (s.core c).sems.look 0 d.sem + (if d.sig then 1 else 0) := by
  unfold State.dmSignal
  by_cases hsig : d.sig = true
  · simp only [hsig, h, Bool.not_true, Bool.false_eq_true, if_false, if_true]
    rw [State.semAdd, State.core_updCore_same, Core.signal, Tbl.look_put_same]
    rfl
  · simp [hsig]

theorem dmDescriptorDone_completes {c : Fin 64} {q : Fin 2} {l : Launch} (hf : s.dmFront c q = some (l, d))
    (hr : s.coreRuns c = true) (h0 : d.total ≠ 0) (hm : d.total ≤ (s.dmQueue c q).moved) :
    completes (.dmDescriptorDone c q) s (fun t => (t.dmQueue c q).moved = 0 ∧ t.mem = s.mem ∧ t.bay = s.bay ∧
      (s.dmQueue c q).descs.drop 1 <+: (t.dmQueue c q).descs ∧ (d.sigRemote = false →
        (t.core c).sems.look 0 d.sem = (s.core c).sems.look 0 d.sem + (if d.sig then 1 else 0))) := by
  obtain ⟨w, hw⟩ : ∃ w, w = (s.dmSignal c d).updDm c q fun k => { k with descs := k.descs.drop 1, moved := 0 } := ⟨_, rfl⟩
  have hx : exec (.dmDescriptorDone c q) s = .next (w.dmUnstall c q) := by
    show execDmDescriptorDone c q s = _
    unfold execDmDescriptorDone
    rw [hf]
    dsimp only
    rw [if_neg (by simp [hr, h0, Nat.not_lt.2 hm]), hw]
    rfl
  obtain ⟨f1, f2, f3⟩ := s.dmSignal_frame c q d
  obtain ⟨⟨x, hq⟩, g1, g2, g3⟩ := w.dmUnstall_grows c q
  have hwq : w.dmQueue c q = ⟨(s.dmQueue c q).descs.drop 1, 0⟩ := by rw [hw, State.dmQueue_updDm_same, f3]
  have hws : (w.core c).sems = ((s.dmSignal c d).core c).sems := by rw [hw, State.sems_updDm]
  rw [hwq] at hq
  refine completes_next hx ⟨by rw [hq], g1.trans (hw ▸ f1), g2.trans (hw ▸ f2), ⟨x, by rw [hq]⟩, fun hrem => ?_⟩
  rw [g3, hws]
  exact s.dmSignal_own c hrem

end

/-- Settles O33. -/
theorem dataMover : Obligations.DataMover := by
  refine fun c q s d hi hc => ?_
  obtain ⟨hp, -⟩ := hc
  refine ⟨fun h hs hd h1 h2 hl hm hsrc hdst => ?_, fun h hd h1 h2 hl hm hdst => ?_,
    fun h hs hd h1 h2 hl hm hsrc hdst he hap => dmTranspose_completes hi hp h hs hd h1 h2 hl hm hsrc hdst he hap,
    fun l hf hr h0 hm => dmDescriptorDone_completes hf hr h0 hm⟩
  · obtain ⟨-, -, -, -, -, -, -, -, hop, -⟩ := State.dmAt_some h
    have hx : exec (.dmCopy c q none) s = .next (s.dmRow c q 1 fun d o => d.runs o 4096 4097) := by
      show execDmCopy c q none s = _
      unfold execDmCopy
      rw [ite_self]
      rfl
    obtain ⟨r1, r2, r3, r4, r5⟩ := State.dmRow_one hi hp h (fun _ => ⟨hs, hsrc⟩) hd hdst h1 h2 hl hm rfl
    refine completes_next hx ⟨r1, r2, r3, fun i hlt => ?_, r5⟩
    rw [r4 i hlt, State.dmBytes, if_neg (by omega)]
    simp [State.bayLoad, hlt, kBay, Nat.add_assoc]
  · obtain ⟨-, -, -, -, -, -, -, -, hop, -⟩ := State.dmAt_some h
    have hx : exec (.dmFill c q) s = .next (s.dmRow c q 3 fun d o => d.runs o 4096 4097) := rfl
    obtain ⟨r1, r2, r3, r4, r5⟩ := State.dmRow_one hi hp h (fun e => absurd rfl e) hd hdst h1 h2 hl hm rfl
    refine completes_next hx ⟨r1, r2, r3, fun i hlt => ?_, r5⟩
    rw [r4 i hlt, State.dmBytes, if_pos hop]
    simp [DmD.fillBytes, hlt]

end Sys2Proof.Machine
end

section
/-! Stores alone, and the window unit (O34). -/

namespace Sys2Proof.Machine

/-! ### Stores alone -/

/-- `s` is `z` after stores: to memory, to the bays and into what the stores themselves keep up to date. -/
def State.Stored (z s : State) : Prop := ∃ r m p l x b f, s = { z with regs := r, mem := m, poison := p, latent := l, test := x, bay := b, free := f }

section
variable {z s : State}

theorem State.Stored.refl : s.Stored s := ⟨_, _, _, _, _, _, _, rfl⟩

theorem State.Stored.store (h : z.Stored s) (k : Nat) (bs : List Byte) : z.Stored (s.store k bs) := by
  obtain ⟨r, m, p, l, x, b, f, rfl⟩ := h
  obtain ⟨r', m', p', l', x', hs⟩ := State.store_eq { z with regs := r, mem := m, poison := p, latent := l, test := x, bay := b, free := f } k bs
  exact ⟨r', m', p', l', x', b, f, hs⟩

theorem State.Stored.bayStore (h : z.Stored s) (k : Nat) (bs : List Byte) : z.Stored (s.bayStore k bs) := by
  obtain ⟨r, m, p, l, x, b, f, rfl⟩ := h
  exact ⟨r, m, _, l, x, _, f, rfl⟩

theorem State.Stored.locStore (h : z.Stored s) (k : Loc) (bs : List Byte) : z.Stored (s.locStore k bs) := by
  cases k with
  | bay k => exact h.bayStore k bs
  | mem k => exact h.store k bs

theorem State.Stored.newFree (h : z.Stored s) : z.Stored s.newFree.2 := by
  obtain ⟨r, m, p, l, x, b, f, rfl⟩ := h
  exact ⟨r, m, p, l, x, b, f + 1, rfl⟩

theorem State.Stored.foldl {α : Type} {f : State → α → State} (hf : ∀ (s : State) a, z.Stored s → z.Stored (f s a)) (l : List α)
    (h : z.Stored s) : z.Stored (l.foldl f s) := by
  induction l generalizing s with
  | nil => exact h
  | cons a l ih => exact ih (hf s a h)

theorem State.Stored.cores (h : z.Stored s) : s.cores = z.cores := by
  obtain ⟨r, m, p, l, x, b, f, rfl⟩ := h
  rfl

theorem State.Stored.text (h : z.Stored s) : s.text = z.text := by
  obtain ⟨r, m, p, l, x, b, f, rfl⟩ := h
  rfl

theorem State.Stored.core (h : z.Stored s) (c : Nat) : s.core c = z.core c := State.core_congr h.cores c

end

section
variable {s u : State} {c : Nat} {d : List Byte}

/-! ### Reads without errors -/

/-- Neither poison nor a latent error: no read finds one (18 R605). -/
theorem State.ifClean_clean (h : s.clean) (c : Nat) (reads : List (Loc × Nat)) (body : State → State) :
    s.ifClean c reads body = body s := by
  obtain ⟨hp, hl⟩ := h
  have ht : reads.foldl (fun (s : State) (e : Loc × Nat) => s.locTouch e.1 e.2) s = s := by
    refine List.foldl_fixed' (fun e => ?_) reads
    rcases e with ⟨k | k, n⟩
    · rfl
    · exact State.touch_of_latent hl k n
  have hn : reads.findSome? (fun e => s.locPoison e.1 e.2) = none := by
    rw [List.findSome?_eq_none_iff]
    intro e _
    simp [State.locPoison, firstPoisoned, hp]
  unfold State.ifClean
  dsimp only
  rw [ht, hn]

theorem State.withSpans_ok {ps : List Span} {x : Loc} (h : s.spansAcc c ps = .ok x) (l : Launch) (body : State) :
    s.withSpans c l ps body = body := by
  unfold State.withSpans
  rw [h]

/-- The front of the window unit, whose check it has passed, goes on by its step. -/
theorem State.wuStep_of_wuAt {op : Nat} {check : List Byte → WuCheck} (hc : s.clean) (h : s.wuAt c op check = some (u, d))
    (step : Launch → List Byte → State → State) :
    u.clean ∧ ∃ l, s.wuStep c op (fun _ d _ => check d) step = step l d u := by
  unfold State.wuAt at h
  unfold State.wuStep
  split at h
  next l b hf =>
    rw [hf]
    dsimp only
    split at h
    next hr =>
      rw [if_neg (by simp [hr])]
      split at h
      next hs =>
        obtain ⟨rfl, rfl⟩ := Prod.mk.inj (Option.some.inj h)
        exact ⟨hc, l, by rw [if_pos hs]⟩
      next hs =>
        split at h
        next hk =>
          obtain ⟨rfl, rfl⟩ := Prod.mk.inj (Option.some.inj h)
          exact ⟨hc, l, by rw [if_neg hs, hk]; rfl⟩
        next => exact absurd h (by simp)
    next => exact absurd h (by simp)
  next => exact absurd h (by simp)

/-! ### The steps (08 R277) -/

theorem State.wu_countBad (s : State) (c n : Nat) : ((s.countBad c n).core c).wu =
    { (s.core c).wu with bad := (s.core c).wu.bad + n, badInput := (s.core c).wu.badInput + n } := State.wu_updWu _ _ _

/-- A row of a box is one more, or the box's last. -/
theorem State.cropRow_wu (h : u.clean) : ∃ w : WuUnit, w.items = (u.core c).wu.items ∧
    ((u.cropRow c d).core c).wu = if (u.core c).wu.rows + 1 = (cropD d).oh then { w with items := w.items + 1, rows := 0 }
      else { w with rows := (u.core c).wu.rows + 1 } := by
  unfold State.cropRow
  dsimp only
  rw [State.ifClean_clean h, State.wu_updWu]
  refine ⟨_, ?_, rfl⟩
  split
  · rw [State.wu_countBad]
    exact congrArg (fun k : Core => k.wu.items) (State.Stored.core (.foldl (fun _ _ hs => hs.locStore _ _) _ .refl) c)
  · exact congrArg (fun k : Core => k.wu.items) (State.Stored.core (.foldl (fun _ _ hs => hs.locStore _ _) _ .refl) c)

theorem State.boxStep_items (h : u.clean) : ((u.boxStep c d).core c).wu.items = min (boxD d).pairs ((u.core c).wu.items + 64) := by
  unfold State.boxStep
  dsimp only
  rw [State.ifClean_clean h, State.wu_updWu]

theorem State.nmsSort_moves (h : u.clean) (buf : Loc) (n : Nat) :
    ((u.nmsSort c buf n).core c).wu = { (u.core c).wu with moves := min (sortMoves n) ((u.core c).wu.moves + 4096) } := by
  unfold State.nmsSort
  rw [State.ifClean_clean h]
  dsimp only
  rw [State.wu_updWu, State.putCands, (State.Stored.locStore (State.Stored.refl (s := u)).newFree _ _).core]

/-- One candidate is tested, or the NMS ends. -/
theorem State.nmsTest_goes (h : u.clean) (n : Nat) :
    ((u.nmsTest c d n).core c).wu.ended = true ∨ ((u.nmsTest c d n).core c).wu.tested = (u.core c).wu.tested + 1 := by
  unfold State.nmsTest
  dsimp only
  rw [State.ifClean_clean h]
  split
  · exact .inl (by rw [State.wu_updWu])
  · exact .inr (by rw [State.wu_updWu])
  · exact .inr (by rw [State.wu_updWu, (State.Stored.locStore (State.Stored.refl (s := u)) _ _).core])

theorem State.d2sStep_items (h : u.clean) : ((u.d2sStep c d).core c).wu.items =
    (u.core c).wu.items + ((d2sD d).part (u.core c).wu.items).length * (d2sD d).es := by
  unfold State.d2sStep
  dsimp only
  rw [State.ifClean_clean h, State.wu_updWu]
  exact congrArg (fun k : Core => k.wu.items + ((d2sD d).part (u.core c).wu.items).length * (d2sD d).es)
    (State.Stored.core (.foldl (fun _ _ hs => hs.locStore _ _) _ .refl) c)

end

/-! ### The end of a descriptor -/

section
variable {α : Type} (U : Core → α) (grow : List Launch → α → α)

/-- A unit's queue has only grown, and neither memory, the bay nor the semaphores have changed. -/
def State.unitGrows (s t : State) (c : Nat) : Prop :=
  (∃ x, U (t.core c) = grow x (U (s.core c))) ∧ t.bay = s.bay ∧ t.bayGen = s.bayGen ∧ (t.core c).sems = (s.core c).sems

theorem State.unitGrows_trans (hg : ∀ x y a, grow y (grow x a) = grow (x ++ y) a) {s t u : State} {c : Nat}
    (h : s.unitGrows U grow t c) (k : t.unitGrows U grow u c) : s.unitGrows U grow u c := by
  obtain ⟨⟨x, hx⟩, h1, h2, h3⟩ := h
  obtain ⟨⟨y, hy⟩, k1, k2, k3⟩ := k
  exact ⟨⟨x ++ y, by rw [hy, hx, hg]⟩, k1.trans h1, k2.trans h2, k3.trans h3⟩

end

/-- Launches at the end of the window unit's queue. -/
def WuUnit.grow (x : List Launch) (w : WuUnit) : WuUnit := { w with queue := w.queue ++ x }

/-- The unit after its descriptor's end. -/
def WuUnit.finish (w : WuUnit) : WuUnit :=
  { w with queue := w.queue.drop 1, started := false, items := 0, headGroup := 0, released := [], rows := 0, bad := 0, aux := 0 }

/-- The launch that a tidy core waits with goes to the end of a queue with space (08 R273). -/
def State.wuUnstallTc (s : State) (c t : Nat) : State :=
  match ((s.core c).tidy t).stall with
  | .wu a =>
    if (s.core c).wu.queue.length < 8 then
      ((s.updWu c fun w => { w with queue := w.queue ++ [s.launchAt c t a] }).updTidy c t fun k =>
        { k with stall := .none }).tcNext c t
    else s
  | _ => s

theorem WuUnit.grow_nil (w : WuUnit) : w.grow [] = w := by rw [WuUnit.grow, List.append_nil]

theorem State.wuUnstallTc_grows (s : State) (c t : Nat) : s.unitGrows Core.wu WuUnit.grow (s.wuUnstallTc c t) c := by
  have stands : s.unitGrows Core.wu WuUnit.grow s c := ⟨⟨[], (WuUnit.grow_nil _).symm⟩, rfl, rfl, rfl⟩
  unfold State.wuUnstallTc
  split
  next a _ =>
    split
    · refine ⟨⟨[s.launchAt c t a], ?_⟩, rfl, rfl, ?_⟩
      · rw [State.core_tcNext_wu, State.updTidy, State.core_updCore_same, Core.updTidy_wu, State.wu_updWu]
        rfl
      · rw [State.tcNext, State.tcPass, State.sems_updTidy, State.sems_updTidy, State.updWu, State.core_updCore_same]
    · exact stands
  next => exact stands

theorem State.wuUnstall_grows (s : State) (c : Nat) : s.unitGrows Core.wu WuUnit.grow (s.wuUnstall c) c :=
  State.unitGrows_trans _ _ (fun x y a => by simp only [WuUnit.grow, List.append_assoc]) (s.wuUnstallTc_grows c 0)
    ((s.wuUnstallTc c 0).wuUnstallTc_grows c 1)

/-- The words of a result block, one after the other. -/
theorem resultWords (a b e : Nat) : leBytes 4 a ++ leBytes 4 b ++ leBytes 4 e ++ leBytes 4 0 =
    (List.range 4).flatMap fun j => leBytes 4 ([a, b, e, 0].getD j 0) := by
  simp [List.range_succ]

/-- The result block of a finished descriptor (07 R260). -/
def State.putResult (s : State) (c a items bad aux : Nat) : State :=
  if a = 0xFFFFFFFF then s
  else s.bayStore (kBay c a) (leBytes 4 items ++ leBytes 4 bad ++ leBytes 4 aux ++ leBytes 4 0)

section
variable {s t : State} {c : Nat} {d : List Byte}

theorem State.putResult_frame (s : State) (c a items bad aux : Nat) : (s.putResult c a items bad aux).cores = s.cores := by
  unfold State.putResult
  split <;> rfl

/-- What has the bay that the result block was written to shows the block. -/
theorem State.resultBlock_of_bay (hi : s.Inv) {items bad aux : Nat}
    (hb : t.bay = (s.putResult c (fieldOf d 124 4) items bad aux).bay)
    (hg : t.bayGen = (s.putResult c (fieldOf d 124 4) items bad aux).bayGen) : t.resultBlock c d items bad aux := by
  intro ha
  generalize fieldOf d 124 4 = a at *
  have hput : s.putResult c a items bad aux = s.bayStore (kBay c a)
      ((List.range 4).flatMap fun j => leBytes 4 ([items, bad, aux, 0].getD j 0)) := by
    rw [State.putResult, if_neg ha, resultWords]
  rw [hput] at hb hg
  have hbyte : ∀ k, t.bayByte k = (s.bayStore (kBay c a)
      ((List.range 4).flatMap fun j => leBytes 4 ([items, bad, aux, 0].getD j 0))).bayByte k := fun k => by
    rw [State.bayByte, hb, hg, State.bayByte]
  have word : ∀ j, j < 4 → t.bayNat (kBay c a + j * 4) 4 = [items, bad, aux, 0].getD j 0 % 256 ^ 4 := fun j hj => by
    refine State.bayNat_of_bytes fun i hlt => ?_
    rw [hbyte, Nat.add_assoc, State.bayByte_bayStore_in hi (by rw [length_flatMap_leBytes]; omega)]
    exact getD_flatMap_leBytes _ hj hlt
  refine ⟨?_, ?_, ?_, ?_⟩
  · have h0 := word 0 (by decide)
    rw [Nat.zero_mul, Nat.add_zero] at h0
    exact h0
  · rw [kBay_add]
    exact word 1 (by decide)
  · rw [kBay_add]
    exact word 2 (by decide)
  · rw [kBay_add]
    exact word 3 (by decide)

end

section
variable {s u : State} {c : Fin 64} {d : List Byte}

theorem wuDescriptorDone_completes {l : Launch} (hi : s.Inv) (hf : s.wuFront c = some (l, d)) (hr : s.coreRuns c = true)
    (h1 : 1 ≤ fieldOf d 0 1) (h5 : fieldOf d 0 1 ≤ 5) (hc : s.wuComplete c d = true) :
    completes (.wuDescriptorDone c) s (fun t =>
      t.resultBlock c d (s.core c).wu.items (s.core c).wu.bad (s.core c).wu.aux ∧ (t.core c).wu.started = false ∧
      (s.core c).wu.queue.drop 1 <+: (t.core c).wu.queue ∧ (fieldOf d 1 1 % 2 = 1 →
        (t.core c).sems.look 0 (fieldOf d 2 1) = (s.core c).sems.look 0 (fieldOf d 2 1) + 1)) := by
  have hx : exec (.wuDescriptorDone c) s = .next (s.wuFinish c d (s.core c).wu.items (s.core c).wu.bad (s.core c).wu.aux) := by
    show execWuDescriptorDone c s = _
    unfold execWuDescriptorDone
    rw [hf]
    dsimp only
    rw [if_neg (by simp [hr]), if_neg (by omega), if_pos hc]
  obtain ⟨p, hp⟩ : ∃ p, p = s.putResult c (fieldOf d 124 4) (s.core c).wu.items (s.core c).wu.bad (s.core c).wu.aux := ⟨_, rfl⟩
  obtain ⟨v, hv⟩ : ∃ v, v = if fieldOf d 1 1 % 2 = 1 then p.semAdd c (fieldOf d 2 1) 1 else p := ⟨_, rfl⟩
  obtain ⟨w, hw⟩ : ∃ w, w = v.updWu c WuUnit.finish := ⟨_, rfl⟩
  have hfin : s.wuFinish c d (s.core c).wu.items (s.core c).wu.bad (s.core c).wu.aux = w.wuUnstall c := by rw [hw, hv, hp]; rfl
  obtain ⟨⟨x, hq⟩, g1, g2, g3⟩ := w.wuUnstall_grows c
  have hpc : p.core c = s.core c := State.core_congr (hp ▸ State.putResult_frame s _ _ _ _ _) _
  have hvb : v.bay = p.bay ∧ v.bayGen = p.bayGen ∧ (v.core c).wu = (s.core c).wu ∧ (fieldOf d 1 1 % 2 = 1 →
      (v.core c).sems.look 0 (fieldOf d 2 1) = (s.core c).sems.look 0 (fieldOf d 2 1) + 1) := by
    rw [hv]
    split
    next hsig =>
      refine ⟨rfl, rfl, ?_, fun _ => ?_⟩
      · rw [State.semAdd, State.core_updCore_same, Core.signal, hpc]
      · rw [State.semAdd, State.core_updCore_same, Core.signal, hpc, Tbl.look_put_same]
        rfl
    next hsig => exact ⟨rfl, rfl, by rw [hpc], fun e => absurd e hsig⟩
  obtain ⟨v1, v2, v3, v4⟩ := hvb
  have hwu : (w.core c).wu = (s.core c).wu.finish := by rw [hw, State.wu_updWu, v3]
  have hws : (w.core c).sems = (v.core c).sems := by rw [hw, State.updWu, State.core_updCore_same]
  rw [hwu] at hq
  refine completes_next (hx.trans (congrArg Host.Outcome.next hfin)) ⟨State.resultBlock_of_bay hi ?_ ?_, ?_, ?_, fun hsig => ?_⟩
  · rw [g1, ← hp, hw]
    exact v1
  · rw [g2, ← hp, hw]
    exact v2
  · rw [hq, WuUnit.grow, WuUnit.finish]
  · rw [hq, WuUnit.grow, WuUnit.finish]
    exact ⟨x, rfl⟩
  · rw [g3, hws]
    exact v4 hsig

theorem convGroup_completes {l : Launch} (hf : s.wuFront c = some (l, d)) (hr : s.wuRuns c 1 = true)
    (hs : (s.core c).wu.started = false) (hm : (convD d).malformed d = false) (hb : (convD d).beyond = false) :
    completes (.convGroup c) s (fun t =>
      t.conv c = some (convD d) ∧ (t.core c).wu.headGroup = 0 ∧ (t.core c).wu.rows = 0 ∧ t.mem = s.mem ∧ t.bay = s.bay) := by
  have hop : fieldOf d 0 1 = 1 := by
    simp only [State.wuRuns, hf, Option.any_some, Bool.and_eq_true, beq_iff_eq] at hr
    exact hr.2
  obtain ⟨w, hw⟩ : ∃ w, w = s.updWu c fun w => { w with started := true, items := 0, headGroup := 0, released := [], rows := 0 } :=
    ⟨_, rfl⟩
  have hx : exec (.convGroup c) s = .next w := by
    show execConvGroup c s = _
    unfold execConvGroup
    rw [hf]
    dsimp only
    rw [if_neg (by simp [hr, hs]), hm, hb, hw]
    rfl
  have hwu : (w.core c).wu = { (s.core c).wu with started := true, items := 0, headGroup := 0, released := [], rows := 0 } := by
    rw [hw, State.wu_updWu]
  have hfront : w.wuFront c = some (l, d) := by
    rw [← hf, State.wuFront, hwu, hw]
    rfl
  refine completes_next hx ⟨?_, by rw [hwu], by rw [hwu], by rw [hw]; rfl, by rw [hw]; rfl⟩
  rw [State.conv, hwu, if_pos rfl, hfront, Option.bind_some, if_pos hop]

theorem convRowAvailable_completes {p : ConvD} (hp : s.conv c = some p) (hr : s.coreRuns c = true) (hn : p.noSync = false)
    (hrows : (s.core c).wu.rows < p.inH)
    (hs : (s.core c).semReached p.rowSem (BitVec.ofNat 16 (p.rsemBase + (s.core c).wu.rows + 1)) = true) :
    completes (.convRowAvailable c) s (fun t =>
      (t.core c).wu = { (s.core c).wu with rows := (s.core c).wu.rows + 1 } ∧ t.mem = s.mem ∧ t.bay = s.bay) := by
  have hx : exec (.convRowAvailable c) s = .next (s.updWu c fun w => { w with rows := w.rows + 1 }) := by
    show execConvRowAvailable c s = _
    unfold execConvRowAvailable
    rw [hp]
    dsimp only
    rw [if_pos ⟨hr, by simp [hn], hrows, hs⟩]
  exact completes_next hx ⟨State.wu_updWu _ _ _, rfl, rfl⟩

theorem cropResize_completes {x : Loc} (hc : s.clean) (h : s.wuAt c 2 cropCheck = some (u, d))
    (hi : (u.core c).wu.items < (cropD d).nbox) (hx : u.spansAcc c (u.cropIn c d ++ u.cropWrites c d) = .ok x) :
    completes (.cropResize c) s (fun t => t = u.cropRow c d ∧
      (t.core c).wu.items * (cropD d).oh + (t.core c).wu.rows =
        if (u.core c).wu.rows + 1 = (cropD d).oh then ((u.core c).wu.items + 1) * (cropD d).oh
        else (u.core c).wu.items * (cropD d).oh + (u.core c).wu.rows + 1) := by
  obtain ⟨hu, l, hs⟩ := State.wuStep_of_wuAt hc h fun l d s => if (cropD d).nbox ≤ (s.core c).wu.items then s
    else s.withSpans c l (s.cropIn c d ++ s.cropWrites c d) (s.cropRow c d)
  rw [if_neg (Nat.not_le.2 hi), State.withSpans_ok hx] at hs
  refine completes_next (congrArg Host.Outcome.next hs) ⟨rfl, ?_⟩
  obtain ⟨w, hw, hwu⟩ := State.cropRow_wu (c := c) (d := d) hu
  rw [hwu]
  split
  · rw [hw, Nat.add_zero]
  · rw [hw, Nat.add_assoc]

theorem boxDecode_completes {x y : Loc} (hc : s.clean) (h : s.wuAt c 3 boxCheck = some (u, d))
    (hi : (u.core c).wu.items < (boxD d).pairs) (hx : u.spansAcc c [cbufSpan (boxBuf d) 0] = .ok x)
    (hb : u.cbufBad ((boxBuf d).at_ c 0) = false)
    (hy : u.spansAcc c (u.boxIn c d ++ [cbufSpan (boxBuf d) (u.locNat (((boxBuf d).at_ c 0).plus 4) 4)]) = .ok y) :
    completes (.boxDecode c) s (fun t => t = u.boxStep c d ∧
      (t.core c).wu.items = min (boxD d).pairs ((u.core c).wu.items + 64)) := by
  obtain ⟨hu, l, hs⟩ := State.wuStep_of_wuAt hc h fun l d s => if (boxD d).pairs ≤ (s.core c).wu.items then s
    else s.withSpans c l [cbufSpan (boxBuf d) 0] (if s.cbufBad ((boxBuf d).at_ c 0) then s.limitError c l
      else s.withSpans c l (s.boxIn c d ++ [cbufSpan (boxBuf d) (s.locNat (((boxBuf d).at_ c 0).plus 4) 4)]) (s.boxStep c d))
  rw [if_neg (Nat.not_le.2 hi), State.withSpans_ok hx, hb, if_neg Bool.false_ne_true, State.withSpans_ok hy] at hs
  exact completes_next (congrArg Host.Outcome.next hs) ⟨rfl, State.boxStep_items hu⟩

theorem nms_completes {x y : Loc} (hc : s.clean) (h : s.wuAt c 4 nmsCheck = some (u, d)) (he : (u.core c).wu.ended = false)
    (hx : u.spansAcc c [cbufSpan (nmsBuf d) 0] = .ok x) (hb : u.cbufBad ((nmsBuf d).at_ c 0) = false)
    (hm : (cbufSpan (nmsBuf d) (u.locNat (((nmsBuf d).at_ c 0).plus 4) 4)).meets (nmsOutRange d) = false)
    (hy : u.spansAcc c (u.nmsAcc c d (u.locNat ((nmsBuf d).at_ c 0) 4)) = .ok y) :
    completes (.nms c) s (fun t => t = u.nmsStep c d ∧
      ((u.core c).wu.moves < sortMoves (u.locNat ((nmsBuf d).at_ c 0) 4) →
        (t.core c).wu.moves = min (sortMoves (u.locNat ((nmsBuf d).at_ c 0) 4)) ((u.core c).wu.moves + 4096) ∧
        (t.core c).wu.tested = (u.core c).wu.tested) ∧
      (sortMoves (u.locNat ((nmsBuf d).at_ c 0) 4) ≤ (u.core c).wu.moves →
        (t.core c).wu.ended = true ∨ (t.core c).wu.tested = (u.core c).wu.tested + 1)) := by
  obtain ⟨hu, l, hs⟩ := State.wuStep_of_wuAt hc h fun l d s => if (s.core c).wu.ended then s
    else s.withSpans c l [cbufSpan (nmsBuf d) 0] (if s.cbufBad ((nmsBuf d).at_ c 0) then s.limitError c l
      else if (cbufSpan (nmsBuf d) (s.locNat (((nmsBuf d).at_ c 0).plus 4) 4)).meets (nmsOutRange d) then s.progError c l 6
      else s.withSpans c l (s.nmsAcc c d (s.locNat ((nmsBuf d).at_ c 0) 4)) (s.nmsStep c d))
  rw [he, if_neg Bool.false_ne_true, State.withSpans_ok hx, hb, if_neg Bool.false_ne_true, hm, if_neg Bool.false_ne_true,
    State.withSpans_ok hy] at hs
  refine completes_next (congrArg Host.Outcome.next hs) ⟨rfl, fun hlt => ?_, fun hle => ?_⟩
  · have hwu := State.nmsSort_moves (c := c) hu ((nmsBuf d).at_ c 0) (u.locNat ((nmsBuf d).at_ c 0) 4)
    rw [State.nmsStep, if_pos hlt, hwu]
    exact ⟨rfl, rfl⟩
  · rw [State.nmsStep, if_neg (Nat.not_lt.2 hle)]
    exact State.nmsTest_goes hu _

theorem depthToSpace_completes {x : Loc} (hc : s.clean) (h : s.wuAt c 5 d2sCheck = some (u, d))
    (hi : (u.core c).wu.items < (d2sD d).bytes) (hx : u.spansAcc c (u.d2sIn c d ++ u.d2sWrites c d) = .ok x) :
    completes (.depthToSpace c) s (fun t => t = u.d2sStep c d ∧
      (t.core c).wu.items = (u.core c).wu.items + (min ((d2sD d).bytes / (d2sD d).es)
        ((u.core c).wu.items / (d2sD d).es + 4096 / (d2sD d).es) - (u.core c).wu.items / (d2sD d).es) * (d2sD d).es) := by
  obtain ⟨hu, l, hs⟩ := State.wuStep_of_wuAt hc h fun l d s => if (d2sD d).bytes ≤ (s.core c).wu.items then s
    else s.withSpans c l (s.d2sIn c d ++ s.d2sWrites c d) (s.d2sStep c d)
  rw [if_neg (Nat.not_le.2 hi), State.withSpans_ok hx] at hs
  refine completes_next (congrArg Host.Outcome.next hs) ⟨rfl, ?_⟩
  rw [State.d2sStep_items hu, D2sD.part]
  simp [upFrom]

end

/-- Settles O34. -/
theorem windowUnit : Obligations.WindowUnit :=
  fun _ _ _ _ => ⟨fun _ hf hr hs hm hb => convGroup_completes hf hr hs hm hb,
    fun _ hp hr hn hrows hs => convRowAvailable_completes hp hr hn hrows hs,
    fun _ hc h hi hx => cropResize_completes hc h hi hx,
    fun _ _ hc h hi hx hb hy => boxDecode_completes hc h hi hx hb hy,
    fun _ _ hc h he hx hb hm hy => nms_completes hc h he hx hb hm hy,
    fun _ hc h hi hx => depthToSpace_completes hc h hi hx,
    fun _ hi hf hr h1 h5 hc => wuDescriptorDone_completes hi hf hr h1 h5 hc⟩

end Sys2Proof.Machine
end

section
/-! What the Yard's page counts leave of the state, and row statistics (O35). -/

namespace Sys2Proof.Machine

/-! ### Page counts -/

/-- `s` is `z` but for the Yard, the registers, the order of the Signal Box and what an event changes. -/
def State.YardOnly (z s : State) : Prop :=
  ∃ r y g e h p b, s = { z with regs := r, yard := y, pages := g, evr := e, host := h, pins := p, sbox := b }

section
variable {z s : State}

theorem State.YardOnly.refl : s.YardOnly s := ⟨_, _, _, _, _, _, _, rfl⟩

theorem State.YardOnly.withYard (h : z.YardOnly s) (f : Yard → Yard) : z.YardOnly (s.withYard f) := by
  obtain ⟨r, y, g, e, i, p, b, rfl⟩ := h
  exact ⟨r, f y, g, e, i, p, b, rfl⟩

theorem State.YardOnly.setFld (h : z.YardOnly s) (a lo w n : Nat) : z.YardOnly (s.setFld a lo w n) := by
  obtain ⟨r, y, g, e, i, p, b, rfl⟩ := h
  exact ⟨_, y, g, e, i, p, b, rfl⟩

theorem State.YardOnly.raise (h : z.YardOnly s) (src code : Nat) (data : List EvVal) (ctx func : Nat) :
    z.YardOnly (s.raise src code data ctx func) := by
  obtain ⟨r, g, e, i, p, hs, -⟩ := s.raise_touched src code data ctx func
  obtain ⟨r', y, g', e', i', p', b, rfl⟩ := h
  exact ⟨r, y, g, e, i, p, b, hs⟩

theorem State.YardOnly.evalWanted (h : z.YardOnly s) (n : Nat) : z.YardOnly (s.evalWanted n) := by
  obtain ⟨r, y, g, e, i, p, b, rfl⟩ := h
  exact ⟨r, y, g, e, i, p, _, rfl⟩

theorem State.YardOnly.ite {c : Prop} {_ : Decidable c} {u : State} (h : z.YardOnly s) (k : z.YardOnly u) :
    z.YardOnly (if c then s else u) := by split <;> assumption

theorem State.YardOnly.foldl {α : Type} {f : State → α → State} (hf : ∀ (s : State) a, z.YardOnly s → z.YardOnly (f s a))
    (l : List α) (h : z.YardOnly s) : z.YardOnly (l.foldl f s) := by
  induction l generalizing s with
  | nil => exact h
  | cons a l ih => exact ih (hf s a h)

theorem State.YardOnly.cores (h : z.YardOnly s) : s.cores = z.cores := by
  obtain ⟨r, y, g, e, i, p, b, rfl⟩ := h
  rfl

theorem State.YardOnly.core (h : z.YardOnly s) (c : Nat) : s.core c = z.core c := State.core_congr h.cores c

theorem State.YardOnly.text (h : z.YardOnly s) : s.text = z.text := by
  obtain ⟨r, y, g, e, i, p, b, rfl⟩ := h
  rfl

theorem State.YardOnly.bay (h : z.YardOnly s) : s.bay = z.bay ∧ s.bayGen = z.bayGen := by
  obtain ⟨r, y, g, e, i, p, b, rfl⟩ := h
  exact ⟨rfl, rfl⟩

theorem State.YardOnly.retireFrame (h : z.YardOnly s) (f : Nat) (o : Option Nat) : z.YardOnly (s.retireFrame f o) :=
  (((((h.withYard _).withYard _).setFld _ _ _ _).setFld _ _ _ _ |>.ite <| ((h.withYard _).withYard _).setFld _ _ _ _).setFld
    _ _ _ _ |>.raise _ _ _ _ _).evalWanted _

theorem State.YardOnly.settleFrames (h : z.YardOnly s) (p : Nat) : z.YardOnly (s.settleFrames p) :=
  .foldl (fun _ _ h => .ite (.ite ((h.retireFrame _ _).setFld _ _ _ _) h) h) _ h

theorem State.YardOnly.countPool (h : z.YardOnly s) (p : Nat) : z.YardOnly (s.countPool p) := (h.setFld _ _ _ _).setFld _ _ _ _

theorem State.YardOnly.uncharge (h : z.YardOnly s) (q p : Nat) : z.YardOnly (s.uncharge q p) := by
  unfold State.uncharge
  split
  · exact h.setFld _ _ _ _
  · exact h

theorem State.YardOnly.putKv (h : z.YardOnly s) (p P : Nat) (k : KvPage) : z.YardOnly (s.putKv p P k) := by
  unfold State.putKv State.updPool
  exact h.withYard _

theorem State.YardOnly.freeKv (h : z.YardOnly s) (p P : Nat) : z.YardOnly (s.freeKv p P) := by
  have free : ∀ {s : State}, z.YardOnly s → ∀ k, z.YardOnly ((s.putKv p P k).countPool p) := fun h k => (h.putKv _ _ _).countPool _
  have owned : z.YardOnly (match (s.kvPage p P).owner with
    | some q => s.uncharge q p
    | none => s) := by
    split
    · exact h.uncharge _ _
    · exact h
  exact .ite ((free owned _).settleFrames _) (free owned _)

theorem State.YardOnly.unpin (h : z.YardOnly s) (p P : Nat) : z.YardOnly (s.unpin p P) := by
  unfold State.unpin State.freeIfZero
  exact .ite ((h.putKv _ _ _).freeKv _ _) (h.putKv _ _ _)

end

/-! ### Rows written to a sequence -/

section
variable {s u : State} {c : Nat} {b : List Byte}

theorem State.Stored.poolStoreN {z : State} (p x : Nat) (bs : List Byte) (n : Nat) {s : State} (h : z.Stored s) :
    z.Stored (s.poolStoreN p x bs n) := by
  induction n generalizing x bs s with
  | zero => exact h
  | succ n ih =>
    unfold State.poolStoreN
    dsimp only
    split
    · exact h.store _ _
    · exact ih _ _ (h.store _ _)

theorem State.Stored.poolStore {z s : State} (h : z.Stored s) (p x : Nat) (bs : List Byte) : z.Stored (s.poolStore p x bs) :=
  h.poolStoreN p x bs _

theorem State.Stored.ite {z s u : State} {c : Prop} {_ : Decidable c} (h : z.Stored s) (k : z.Stored u) :
    z.Stored (if c then s else u) := by split <;> assumption

theorem State.Stored.foldl_fst {z : State} {α β : Type} {f : State × β → α → State × β}
    (hf : ∀ u a, z.Stored u.1 → z.Stored (f u a).1) (l : List α) {p : State × β} (h : z.Stored p.1) : z.Stored (l.foldl f p).1 := by
  induction l generalizing p with
  | nil => exact h
  | cons a l ih => exact ih (hf p a h)

theorem State.Stored.fp8Part {z s : State} (h : z.Stored s) (k : KvBlock) (off : Nat → Nat) (sc : Nat) (held : List Nat) (row : Nat)
    (x : List F32) : z.Stored (s.fp8Part k off sc held row x).1 := by
  unfold State.fp8Part
  exact (State.Stored.ite (.foldl (fun _ _ h => h.poolStore _ _ _) _ h) h).poolStore _ _ _ |>.poolStore _ _ _

theorem State.Stored.ngiVElem {z s : State} (h : z.Stored s) (k : KvBlock) (held : List Nat) (row : Nat) (vbase : F32) (a : RowCount)
    (d : Nat) (x : F32) : z.Stored (s.ngiVElem k held row vbase a d x).1 := by
  unfold State.ngiVElem
  exact (State.Stored.ite (.foldl (fun _ _ h => h.poolStore _ _ _) _ h) h).poolStore _ _ _ |>.poolStore _ _ _

theorem State.Stored.ngiKRow {z s : State} (h : z.Stored s) (k : KvBlock) (row : Nat) (x : List F32) (kbase : F32) :
    z.Stored (s.ngiKRow k row x kbase).1 :=
  .foldl (fun _ _ h => (h.poolStore _ _ _).poolStore _ _ _) _ h

theorem State.Stored.ngiVRow {z s : State} (h : z.Stored s) (k : KvBlock) (held : List Nat) (row : Nat) (x : List F32) (vbase : F32) :
    z.Stored (s.ngiVRow k held row x vbase).1 :=
  .foldl_fst (fun _ _ h => h.ngiVElem _ _ _ _ _ _ _) _ h

theorem State.Stored.writeKv {z s : State} (h : z.Stored s) (kb : KvBlock) (held : List Nat) (row : Nat) (k v : List F32)
    (kbase vbase : F32) : z.Stored (s.writeKv kb held row k v kbase vbase).1 := by
  unfold State.writeKv
  split
  · exact (h.poolStore _ _ _).poolStore _ _ _
  · split
    · exact (h.fp8Part _ _ _ _ _ _).fp8Part _ _ _ _ _ _
    · exact (h.ngiKRow _ _ _ _).ngiVRow _ _ _ _ _

theorem State.ifPoolClean_clean (h : s.clean) (c p : Nat) (l : List (Nat × Nat)) (body : State → State) :
    s.ifPoolClean c p l body = body s := by
  obtain ⟨hp, hl⟩ := h
  have ht : l.foldl (fun (s : State) (e : Nat × Nat) => s.poolTouch p e.1 e.2) s = s :=
    List.foldl_fixed' (fun _ => List.foldl_fixed' (fun _ => State.touch_of_latent hl _ _) (s.spansOf _ _ _)) l
  have hn : l.findSome? (fun e => s.poolPoisoned p e.1 e.2) = none := by
    rw [List.findSome?_eq_none_iff]
    intro e _
    simp [State.poolPoisoned, firstPoisoned, hp]
  unfold State.ifPoolClean
  dsimp only
  rw [ht, hn]

/-- The sequence's next position of the row's layer and KV head goes on by one (09 R325). -/
def Seq.rowPut (r : KvRow) (gts : Nat) (x : Seq) : Seq :=
  { x with nextPos := x.nextPos.put (r.layer * 64 + r.head) (r.pos + 1), lastAppend := gts }

theorem State.rs_updRs_updCore (u : State) (c : Nat) (g : Core → Core) (hg : ∀ k, (g k).rs = k.rs) (f : RsUnit → RsUnit)
    (hf : ∀ x, (f x).items = x.items) :
    ((((u.updCore c g).updRs c f).rsDone1 c).core c).rs.items = (u.core c).rs.items + 1 := by
  rw [State.rsDone1, State.rs_updRs, State.rs_updRs, State.core_updCore_same, hg]
  dsimp only
  rw [hf]

theorem State.rowWritten_of {q : Nat} {x : Seq} {r : KvRow} (hs : s.seq q = some x) (hc : u.cores = s.cores) (ht : u.text = s.text)
    (gts : Nat) {g : Core → Core} (hg : ∀ k, (g k).rs = k.rs) {f : RsUnit → RsUnit} (hf : ∀ x, (f x).items = x.items) :
    s.rowWritten ((((u.updSeq q (Seq.rowPut r gts)).updCore c g).updRs c f).rsDone1 c) c q r := by
  have hu : u.seq q = some x := by rw [State.seq, ht]; exact hs
  refine ⟨?_, x.rowPut r gts, ?_, Tbl.look?_put_same _ _ _⟩
  · rw [State.rs_updRs_updCore _ _ _ hg _ hf, State.updSeq, hu]
    exact congrArg (fun k : Core => k.rs.items + 1) (State.core_congr (t := s) hc c)
  · rw [State.updSeq, hu]
    exact Tbl.look?_put_same _ _ _

/-- What a written row counts of its core (09 R322). -/
def Core.countRow (n : RowCount) (k : Core) : Core := { k with qnan := k.qnan + n.groups }

def RsUnit.countRow (n : RowCount) (u : RsUnit) : RsUnit :=
  { u with kvNonfinite := u.kvNonfinite + n.nan, rescaled := u.rescaled + n.grown }

/-- The Yard after a row has been written: the core's intent is gone and the page let go. -/
def State.rowLetGo (s : State) (c p v : Nat) : State :=
  (s.withYard fun y => { y with intents := y.intents.filter fun i => i.core != c }).unpin p v

/-- A row written to the page of its slot. -/
def State.putRow (s : State) (c q p v : Nat) (r : KvRow) (kb : KvBlock) (held : List Nat) (row : Nat) (x y : F32) : State :=
  let w := s.writeKv kb held row r.k r.v x y
  let u := w.1.rowLetGo c p v
  (((u.updSeq q (Seq.rowPut r u.gts)).updCore c (Core.countRow w.2)).updRs c (RsUnit.countRow w.2)).rsDone1 c

theorem State.rowLetGo_only (s : State) (c p v : Nat) : s.YardOnly (s.rowLetGo c p v) :=
  (State.YardOnly.withYard .refl _).unpin _ _

theorem State.putRow_written {q p v row : Nat} {x : Seq} {r : KvRow} {kb : KvBlock} {held : List Nat} {k w : F32}
    (hs : s.seq q = some x) : s.rowWritten (s.putRow c q p v r kb held row k w) c q r := by
  obtain ⟨n, u, hc, ht, he⟩ : ∃ (n : RowCount) (u : State), u.cores = s.cores ∧ u.text = s.text ∧
      s.putRow c q p v r kb held row k w = (((u.updSeq q (Seq.rowPut r u.gts)).updCore c (Core.countRow n)).updRs c
        (RsUnit.countRow n)).rsDone1 c := by
    have h1 := (State.Stored.refl (s := s)).writeKv kb held row r.k r.v k w
    have h2 := (s.writeKv kb held row r.k r.v k w).1.rowLetGo_only c p v
    exact ⟨_, _, h2.cores.trans h1.cores, h2.text.trans h1.text, rfl⟩
  rw [he]
  exact State.rowWritten_of hs hc ht u.gts (g := Core.countRow n) (fun _ => rfl) (f := RsUnit.countRow n) fun _ => rfl

/-- A row whose slot is there is written into it. -/
theorem State.slotRow_written (hc : s.clean) (l : Launch) {r : KvRow} {e : Nat × Seq} (h : s.slotReady c b r = some e) :
    s.rowWritten (s.slotRow c l b r) c e.1 r := by
  obtain ⟨q, x⟩ := e
  unfold State.slotReady at h
  rw [Option.filter_eq_some_iff] at h
  obtain ⟨hq, hready⟩ := h
  simp only [Bool.and_eq_true, beq_iff_eq, decide_eq_true_eq, bne_iff_ne, ne_eq] at hready
  obtain ⟨⟨⟨⟨hblk, hpos⟩, hlt⟩, hent⟩, hint⟩ := hready
  obtain ⟨i, hi, hg⟩ : ∃ i, (s.yard.intents.find? fun i => i.core == c) = some i ∧ i.granted = true := by
    rw [Option.any_eq_true] at hint
    exact hint
  have hseq : s.seq q = some x := by
    unfold State.rsSeq at hq
    obtain ⟨q', -, hq⟩ := Option.bind_eq_some_iff.1 hq
    obtain ⟨x', hx', hq⟩ := Option.bind_eq_some_iff.1 hq
    split at hq
    · obtain ⟨rfl, rfl⟩ := Prod.mk.inj (Option.some.inj hq)
      exact hx'
    · exact absurd hq (by simp)
  unfold State.slotRow
  rw [hq]
  dsimp only
  generalize (if x.geo.wPages = 0 then r.pos else r.pos % (256 * x.geo.wPages)) = slot at *
  rw [if_neg (by simp [hblk, hpos]), if_neg (Nat.not_le.2 hlt), if_neg hent, hi]
  dsimp only
  rw [if_neg (by simp [hg]), State.ifPoolClean_clean hc]
  exact State.putRow_written hseq

end

/-! ### ATTEND -/

section
variable {s : State} {c : Nat} {b : List Byte}

theorem State.items_unpinAhead (s : State) (c e : Nat) : ((s.unpinAhead c e).core c).rs.items = (s.core c).rs.items := by
  unfold State.unpinAhead
  dsimp only
  rw [State.rs_updRs]
  dsimp only
  split
  · rw [((State.YardOnly.refl (s := s)).unpin _ _).core]
  · rfl

/-- A page block of the walk is one more; an empty entry has no rows (09 R315). -/
theorem State.attendStep_items (hc : s.clean) {q : Nat} {x : Seq} {qr : Qrec} {e : Nat} (hw : (s.core c).rs.written = false)
    (he : (walkOf x b)[(s.core c).rs.items]? = some e) (hp : s.entry x e = emptyEntry ∨ isPage (s.entry x e) = true) :
    ((s.attendStep c b q x qr).core c).rs.items = (s.core c).rs.items + 1 := by
  have haway : isAway (s.entry x e) = false := by
    obtain h | h := hp
    · rw [h]
      decide
    · simp only [isPage, decide_eq_true_eq] at h
      simp [isAway, Nat.not_le.2 h]
  unfold State.attendStep
  dsimp only
  rw [if_neg (by simp [hw]), he]
  dsimp only
  rw [haway, if_neg Bool.false_ne_true]
  split
  · rw [State.rs_updRs]
  · rw [State.ifPoolClean_clean hc, State.items_unpinAhead, State.core_updCore_same]

theorem State.attendWrite_written (s : State) (c : Nat) (b : List Byte) (q : Qrec) :
    ((s.attendWrite c b q).core c).rs.written = true := by
  unfold State.attendWrite
  dsimp only
  rw [State.rs_updRs]

theorem attend_exec {c : Fin 64} {l : Launch} {g : Gang} {r : List Byte} {q : Nat} {x : Seq} (hf : s.rsFront c = some (l, b))
    (hr : s.rsRuns c 1 = true) (hg : s.gangOf c = some g) (hq : g.qrecs[fieldOf b 10 1]? = some r)
    (hbad : attendBad b (some (qrecOf r)) = false) (hbey : attendBeyond b = false)
    (hs : s.rsSeq c (fieldOf b 24 8) (fieldOf b 32 4) = some (q, x)) (hblk : blockOk x b (fieldOf b 6 2) (fieldOf b 8 2) = true)
    (hl : s.listDenied c b = false) (hx : extentsOk (attendExtents b (qrecOf r)) = true) (hst : (s.core c).rs.started = true) :
    exec (.attend c) s = .next (s.attendStep c b q x (qrecOf r)) := by
  show execAttend c s = _
  unfold execAttend
  simp only [hf, hr, hg, hq, Option.bind_some, Option.map_some, hbad, hbey, hs, hblk, hl, hx, hst, Bool.not_true,
    Bool.false_eq_true, or_self, if_false, if_true]

/-! ### APPEND and SCATTER -/

theorem State.kvStep_goes {op : Nat} {l : Launch} (hf : s.rsFront c = some (l, b)) (hr : s.rsRuns c op = true)
    (hs : (s.core c).rs.started = true) (hi : (s.core c).rs.items < appendCount b) (step : Launch → List Byte → State → State) :
    s.kvStep c op step = step l b s := by
  unfold State.kvStep
  rw [hf]
  simp only [hr, hs, hi, Bool.not_true, Bool.false_eq_true, if_false, if_true]

theorem append_slot_exec {c : Fin 64} {l : Launch} (hc : s.clean) (hf : s.rsFront c = some (l, b)) (hr : s.rsRuns c 2 = true)
    (hs : (s.core c).rs.started = true) (hi : (s.core c).rs.items < appendCount b)
    (hx : extentsOk [(fieldOf b 36 4 + (s.core c).rs.items * fieldOf b 44 4, 4 * fieldOf b 12 2),
      (fieldOf b 40 4 + (s.core c).rs.items * fieldOf b 44 4, 4 * fieldOf b 12 2), (fieldOf b 76 4, 2 * fieldOf b 72 2)] = true)
    (h0 : fieldOf b 84 8 = 0) :
    exec (.append c) s = .next (s.slotRow c l b (s.appendRow c b (s.core c).rs.items)) := by
  show execAppend c s = _
  unfold execAppend
  rw [State.kvStep_goes hf hr hs hi]
  dsimp only
  rw [hx, Bool.not_true, if_neg Bool.false_ne_true, State.ifClean_clean hc, if_pos h0]

theorem append_stage_exec {c : Fin 64} {l : Launch} (hc : s.clean) (hf : s.rsFront c = some (l, b)) (hr : s.rsRuns c 2 = true)
    (hs : (s.core c).rs.started = true) (hi : (s.core c).rs.items < appendCount b)
    (hx : extentsOk [(fieldOf b 36 4 + (s.core c).rs.items * fieldOf b 44 4, 4 * fieldOf b 12 2),
      (fieldOf b 40 4 + (s.core c).rs.items * fieldOf b 44 4, 4 * fieldOf b 12 2), (fieldOf b 76 4, 2 * fieldOf b 72 2)] = true)
    (h0 : fieldOf b 84 8 ≠ 0) {p : Loc} (hp : s.stageAcc c b (s.core c).rs.items = .ok p) :
    exec (.append c) s = .next ((s.locStore p ((s.appendRow c b (s.core c).rs.items).bytes (fieldOf b 12 2))).rsDone1 c) := by
  show execAppend c s = _
  unfold execAppend
  rw [State.kvStep_goes hf hr hs hi]
  dsimp only
  rw [hx, Bool.not_true, if_neg Bool.false_ne_true, State.ifClean_clean hc, if_neg h0, hp]

theorem State.rsDone1_items (s : State) (c : Nat) : ((s.rsDone1 c).core c).rs.items = (s.core c).rs.items + 1 := by
  rw [State.rsDone1, State.rs_updRs]

theorem append_stages {c : Fin 64} {l : Launch} {p : Loc} (hc : s.clean) (hf : s.rsFront c = some (l, b)) (hr : s.rsRuns c 2 = true)
    (hs : (s.core c).rs.started = true) (hi : (s.core c).rs.items < appendCount b)
    (hx : extentsOk [(fieldOf b 36 4 + (s.core c).rs.items * fieldOf b 44 4, 4 * fieldOf b 12 2),
      (fieldOf b 40 4 + (s.core c).rs.items * fieldOf b 44 4, 4 * fieldOf b 12 2), (fieldOf b 76 4, 2 * fieldOf b 72 2)] = true)
    (h0 : fieldOf b 84 8 ≠ 0) (hp : s.stageAcc c b (s.core c).rs.items = .ok p) :
    completes (.append c) s (fun t =>
      t = (s.locStore p ((s.appendRow c b (s.core c).rs.items).bytes (fieldOf b 12 2))).rsDone1 c ∧
      (t.core c).rs.items = (s.core c).rs.items + 1) := by
  refine completes_next (append_stage_exec hc hf hr hs hi hx h0 hp) ⟨rfl, ?_⟩
  rw [State.rsDone1_items, ((State.Stored.refl (s := s)).locStore _ _).core]

theorem scatter_completes {c : Fin 64} {l : Launch} {p : Loc} {e : Nat × Seq} (hc : s.clean) (hf : s.rsFront c = some (l, b))
    (hr : s.rsRuns c 3 = true) (hs : (s.core c).rs.started = true) (hi : (s.core c).rs.items < appendCount b)
    (hp : s.stageAcc c b (s.core c).rs.items = .ok p)
    (he : s.slotReady c b (rowOfBytes (s.locLoad p (stageBytes (fieldOf b 12 2))) (fieldOf b 12 2)) = some e) :
    completes (.scatter c) s (fun t =>
      s.rowWritten t c e.1 (rowOfBytes (s.locLoad p (stageBytes (fieldOf b 12 2))) (fieldOf b 12 2))) := by
  have hx : exec (.scatter c) s =
      .next (s.slotRow c l b (rowOfBytes (s.locLoad p (stageBytes (fieldOf b 12 2))) (fieldOf b 12 2))) := by
    show execScatter c s = _
    unfold execScatter
    rw [State.kvStep_goes hf hr hs hi]
    dsimp only
    rw [hp]
    dsimp only
    rw [State.ifClean_clean hc]
  exact completes_next hx (State.slotRow_written hc l he)

/-! ### The end of a descriptor -/

/-- Launches at the end of the queue of row statistics. -/
def RsUnit.grow (x : List Launch) (u : RsUnit) : RsUnit := { u with queue := u.queue ++ x }

theorem RsUnit.grow_nil (u : RsUnit) : u.grow [] = u := by rw [RsUnit.grow, List.append_nil]

/-- The unit after its descriptor's end. -/
def RsUnit.finish (u : RsUnit) : RsUnit :=
  { u with
    queue := u.queue.drop 1, started := false, items := 0, waitPage := none, rows := [], bad := 0, aux := 0,
    written := false, work := (0, 0) }

/-- The launch that a tidy core waits with goes to the end of a queue with space (09 R313). -/
def State.rsUnstallTc (s : State) (c t : Nat) : State :=
  match ((s.core c).tidy t).stall with
  | .rs a =>
    if (s.core c).rs.queue.length < 4 then
      ((s.rsEnqueue c t a).updTidy c t fun k => { k with stall := .none }).tcNext c t
    else s
  | _ => s

theorem State.rsEnqueue_core (s : State) (c t a : Nat) : (s.rsEnqueue c t a).core c =
      { s.core c with rs := (s.core c).rs.grow [s.launchAt c t a] } ∧ (s.rsEnqueue c t a).bay = s.bay ∧
    (s.rsEnqueue c t a).bayGen = s.bayGen := by
  have hu : (s.updRs c fun u => { u with queue := u.queue ++ [s.launchAt c t a] }).core c =
      { s.core c with rs := (s.core c).rs.grow [s.launchAt c t a] } := State.core_updCore_same _ _ _
  unfold State.rsEnqueue
  dsimp only
  split
  · split
    · exact ⟨(State.core_updGang _ _ _ _).trans hu, rfl, rfl⟩
    · exact ⟨hu, rfl, rfl⟩
  · exact ⟨hu, rfl, rfl⟩

theorem State.rsUnstallTc_grows (s : State) (c t : Nat) : s.unitGrows Core.rs RsUnit.grow (s.rsUnstallTc c t) c := by
  have stands : s.unitGrows Core.rs RsUnit.grow s c := ⟨⟨[], (RsUnit.grow_nil _).symm⟩, rfl, rfl, rfl⟩
  unfold State.rsUnstallTc
  split
  next a _ =>
    split
    · obtain ⟨h1, h2, h3⟩ := s.rsEnqueue_core c t a
      refine ⟨⟨[s.launchAt c t a], ?_⟩, h2, h3, ?_⟩
      · rw [State.core_tcNext_rs, State.updTidy, State.core_updCore_same, Core.updTidy_rs, h1]
      · rw [State.tcNext, State.tcPass, State.sems_updTidy, State.sems_updTidy, h1]
    · exact stands
  next => exact stands

theorem State.rsUnstall_grows (s : State) (c : Nat) : s.unitGrows Core.rs RsUnit.grow (s.rsUnstall c) c :=
  State.unitGrows_trans _ _ (fun x y a => by simp only [RsUnit.grow, List.append_assoc]) (s.rsUnstallTc_grows c 0)
    ((s.rsUnstallTc c 0).rsUnstallTc_grows c 1)

/-- Neither the bay, nor a core's semaphores, nor its queue of row statistics have changed. -/
def State.rsStands (s t : State) (c : Nat) : Prop :=
  t.bay = s.bay ∧ t.bayGen = s.bayGen ∧ (t.core c).sems = (s.core c).sems ∧ (t.core c).rs.queue = (s.core c).rs.queue

theorem State.unpinAhead_stands (s : State) (c e : Nat) : s.rsStands (s.unpinAhead c e) c := by
  have let_go : ∀ u : State, s.YardOnly u → ∀ l, s.rsStands (u.updRs c fun x => { x with ahead := l }) c := fun u hu l => by
    refine ⟨hu.bay.1, hu.bay.2, ?_, ?_⟩
    · rw [State.updRs, State.core_updCore_same, hu.core]
    · rw [State.rs_updRs, hu.core]
  unfold State.unpinAhead
  dsimp only
  split
  · exact let_go _ ((State.YardOnly.refl (s := s)).unpin _ _) _
  · exact let_go _ .refl _

theorem State.foldl_unpinAhead (s : State) (c : Nat) (l : List (Nat × Option (Nat × Nat))) :
    s.rsStands (l.foldl (fun (s : State) (e : Nat × Option (Nat × Nat)) => s.unpinAhead c e.1) s) c := by
  induction l generalizing s with
  | nil => exact ⟨rfl, rfl, rfl, rfl⟩
  | cons e l ih =>
    obtain ⟨h1, h2, h3, h4⟩ := s.unpinAhead_stands c e.1
    obtain ⟨k1, k2, k3, k4⟩ := ih (s.unpinAhead c e.1)
    exact ⟨k1.trans h1, k2.trans h2, k3.trans h3, k4.trans h4⟩

theorem rsDescriptorDone_completes {c : Fin 64} {l : Launch} (hi : s.Inv) (hf : s.rsFront c = some (l, b)) (hr : s.coreRuns c = true)
    (h1 : 1 ≤ fieldOf b 0 1) (h3 : fieldOf b 0 1 ≤ 3) (hc : s.rsComplete c b = true) :
    completes (.rsDescriptorDone c) s (fun t =>
      t.resultBlock c b (s.core c).rs.items (s.core c).rs.bad (s.core c).rs.aux ∧ (t.core c).rs.started = false ∧
      (s.core c).rs.queue.drop 1 <+: (t.core c).rs.queue ∧ (fieldOf b 1 1 % 2 = 1 →
        (t.core c).sems.look 0 (fieldOf b 2 1) = (s.core c).sems.look 0 (fieldOf b 2 1) + 1)) := by
  obtain ⟨p, hp⟩ : ∃ p, p = s.putResult c (fieldOf b 124 4) (s.core c).rs.items (s.core c).rs.bad (s.core c).rs.aux := ⟨_, rfl⟩
  obtain ⟨v, hv⟩ : ∃ v, v = if fieldOf b 1 1 % 2 = 1 then p.semAdd c (fieldOf b 2 1) 1 else p := ⟨_, rfl⟩
  obtain ⟨y, hy⟩ : ∃ y, y = (s.core c).rs.ahead.foldl (fun (s : State) (e : Nat × Option (Nat × Nat)) => s.unpinAhead c e.1) v :=
    ⟨_, rfl⟩
  obtain ⟨w, hw⟩ : ∃ w, w = y.updRs c RsUnit.finish := ⟨_, rfl⟩
  have hx : exec (.rsDescriptorDone c) s = .next (w.rsUnstall c) := by
    show execRsDescriptorDone c s = _
    unfold execRsDescriptorDone
    rw [hf]
    dsimp only
    rw [if_neg (by simp [hr]), if_neg (by omega), if_neg (by simp [hc]), hw, hy, hv, hp]
    rfl
  obtain ⟨⟨x, hq⟩, g1, g2, g3⟩ := w.rsUnstall_grows c
  obtain ⟨y1, y2, y3, y4⟩ := v.foldl_unpinAhead c (s.core c).rs.ahead
  rw [← hy] at y1 y2 y3 y4
  have hpc : p.core c = s.core c := State.core_congr (hp ▸ State.putResult_frame s _ _ _ _ _) _
  obtain ⟨v1, v2, v3, v4⟩ : v.bay = p.bay ∧ v.bayGen = p.bayGen ∧ (v.core c).rs = (s.core c).rs ∧ (fieldOf b 1 1 % 2 = 1 →
      (v.core c).sems.look 0 (fieldOf b 2 1) = (s.core c).sems.look 0 (fieldOf b 2 1) + 1) := by
    rw [hv]
    split
    next hsig =>
      refine ⟨rfl, rfl, ?_, fun _ => ?_⟩
      · rw [State.semAdd, State.core_updCore_same, Core.signal, hpc]
      · rw [State.semAdd, State.core_updCore_same, Core.signal, hpc, Tbl.look_put_same]
        rfl
    next hsig => exact ⟨rfl, rfl, by rw [hpc], fun e => absurd e hsig⟩
  have hrs : (w.core c).rs = (y.core c).rs.finish := by rw [hw, State.rs_updRs]
  have hws : (w.core c).sems = (y.core c).sems := by rw [hw, State.updRs, State.core_updCore_same]
  rw [hrs] at hq
  refine completes_next hx ⟨State.resultBlock_of_bay hi ?_ ?_, ?_, ?_, fun hsig => ?_⟩
  · rw [g1, ← hp, ← v1, ← y1, hw]
    rfl
  · rw [g2, ← hp, ← v2, ← y2, hw]
    rfl
  · rw [hq, RsUnit.grow, RsUnit.finish]
  · rw [hq, RsUnit.grow, RsUnit.finish]
    dsimp only
    rw [y4, v3]
    exact ⟨x, rfl⟩
  · rw [g3, hws, y3]
    exact v4 hsig

end

/-- Settles O35. -/
theorem rowStatistics : Obligations.RowStatistics := by
  refine fun c s l b hf hc => ⟨fun q x g r hr hg hq hbad hbey hs hblk hl hx hst hw => ?_, fun hr hs hi hx => ⟨fun p h0 hp => ?_,
    fun e h0 he => ?_⟩, fun p e hr hs hi hp he => scatter_completes hc hf hr hs hi hp he,
    fun hi hr h1 h3 hcomp => rsDescriptorDone_completes hi hf hr h1 h3 hcomp⟩
  · have hex := attend_exec hf hr hg hq hbad hbey hs hblk hl hx hst
    refine ⟨fun e he hp => completes_next hex ⟨rfl, State.attendStep_items hc hw he hp⟩, fun he => ?_⟩
    have hwr : s.attendStep c b q x (qrecOf r) = s.attendWrite c b (qrecOf r) := by
      unfold State.attendStep
      dsimp only
      rw [if_neg (by simp [hw]), he]
    exact completes_next hex ⟨hwr, hwr ▸ s.attendWrite_written c b _⟩
  · exact append_stages hc hf hr hs hi hx h0 hp
  · exact completes_next (append_slot_exec hc hf hr hs hi hx h0) (State.slotRow_written hc l he)

end Sys2Proof.Machine
end

section
/-! What the Signal Box and Kernel Lane leave alone, and the text path (O36). -/

namespace Sys2Proof.Machine

/-! ### What the Signal Box leaves alone -/

/-- The parts of the state that gangs and their cores stay apart from are those of `z`. -/
structure State.Aside (z t : State) : Prop where
  text : t.text = z.text
  yard : t.yard = z.yard
  media : t.media = z.media
  scan : t.scan = z.scan
  smp : t.smp = z.smp
  kl : t.kl = z.kl
  notices : t.notices = z.notices

section
variable {z s u : State}

theorem State.Aside.refl : s.Aside s := ⟨rfl, rfl, rfl, rfl, rfl, rfl, rfl⟩

theorem State.Aside.congr {t : State} (h : z.Aside s) (h1 : t.text = s.text := by rfl) (h2 : t.yard = s.yard := by rfl)
    (h3 : t.media = s.media := by rfl) (h4 : t.scan = s.scan := by rfl) (h5 : t.smp = s.smp := by rfl) (h6 : t.kl = s.kl := by rfl)
    (h7 : t.notices = s.notices := by rfl) : z.Aside t :=
  ⟨h1.trans h.text, h2.trans h.yard, h3.trans h.media, h4.trans h.scan, h5.trans h.smp, h6.trans h.kl, h7.trans h.notices⟩

theorem State.Aside.ite {c : Prop} {_ : Decidable c} (h : z.Aside s) (hu : z.Aside u) : z.Aside (if c then s else u) := by
  split <;> assumption

theorem State.Aside.foldl {α : Type} {f : State → α → State} (hf : ∀ u x, z.Aside u → z.Aside (f u x)) (l : List α) (h : z.Aside s) :
    z.Aside (l.foldl f s) := by
  induction l generalizing s with
  | nil => exact h
  | cons x r ih => exact ih (hf s x h)

theorem State.Aside.raise (h : z.Aside s) (src code : Nat) (data : List EvVal) (ctx func : Nat) :
    z.Aside (s.raise src code data ctx func) := by
  obtain ⟨r, g, e, i, p, hs, -⟩ := s.raise_touched src code data ctx func
  rw [hs]
  exact h.congr

theorem State.Aside.store (h : z.Aside s) (k : Nat) (bs : List Byte) : z.Aside (s.store k bs) := by
  obtain ⟨r, m, p, l, x, hs⟩ := State.store_eq s k bs
  rw [hs]
  exact h.congr

theorem State.Aside.setFld (h : z.Aside s) (a lo w n : Nat) : z.Aside (s.setFld a lo w n) := h.congr

theorem State.Aside.setCtx (h : z.Aside s) (n : Nat) (c : Ctx) : z.Aside (s.setCtx n c) := h.congr

theorem State.Aside.updCore (h : z.Aside s) (c : Nat) (f : Core → Core) : z.Aside (s.updCore c f) := h.congr

theorem State.Aside.updGang (h : z.Aside s) (n : Nat) (f : Gang → Gang) : z.Aside (s.updGang n f) := h.congr

theorem State.Aside.bayStore (h : z.Aside s) (k : Nat) (bs : List Byte) : z.Aside (s.bayStore k bs) := h.congr

theorem State.Aside.bayUndefine (h : z.Aside s) (c : Nat) (f : Nat → Bool) : z.Aside (s.bayUndefine c f) := h.congr

theorem State.Aside.clearKeys (h : z.Aside s) (a b : Nat) : z.Aside (s.clearKeys a b) := h.congr

theorem State.Aside.newFree (h : z.Aside s) : z.Aside s.newFree.2 := h.congr

theorem State.Aside.countCores (h : z.Aside s) : z.Aside s.countCores :=
  (((h.setFld _ _ _ _).setFld _ _ _ _).setFld _ _ _ _).setFld _ _ _ _

theorem State.Aside.noteBusy (h : z.Aside s) : z.Aside s.noteBusy := by
  unfold State.noteBusy
  split
  · exact h
  · exact h.congr

theorem State.Aside.holdCore (h : z.Aside s) (c : Nat) (g : Option (Nat × Nat × Nat)) : z.Aside (s.holdCore c g) := by
  unfold State.holdCore
  split
  · exact h.congr
  · exact h.congr

theorem State.Aside.settleRun (h : z.Aside s) (n : Nat) : z.Aside (s.settleRun n) := by
  unfold State.settleRun
  exact .ite h.congr (.ite h.congr h)

theorem State.Aside.giveCores (h : z.Aside s) (g : Gang) (cs : List Nat) : z.Aside (s.giveCores g cs) := by
  unfold State.giveCores
  refine .foldl (fun _ _ h1 => h1.settleRun _) _ ?_
  exact (((State.Aside.foldl (fun _ _ h1 => h1.holdCore _ _) _ h.noteBusy).updGang _ _).countCores).setFld _ _ _ _

theorem State.Aside.startCore (h : z.Aside s) (g : Gang) (c : Nat) : z.Aside (s.startCore g c) := by
  unfold State.startCore
  exact ((((((h.clearKeys _ _).store _ _).store _ _).bayUndefine _ _).bayStore _ _).updCore _ _).setFld _ _ _ _

theorem State.Aside.noteRoom (h : z.Aside s) (n : Nat) : z.Aside (s.noteRoom n) := by
  unfold State.noteRoom
  exact .ite (.ite (h.setFld _ _ _ _) (((h.setFld _ _ _ _).setCtx _ _).raise _ _ _ _ _)) h

theorem State.Aside.writeImage (h : z.Aside s) (g : Gang) (c : Nat) : z.Aside (s.writeImage g c) := by
  have putImage : ∀ {s : State}, z.Aside s → ∀ (f : Tbl Image → Tbl Image) k m, z.Aside (State.putImage { s with images := f s.images } k m) :=
    fun h _ _ _ => h.congr
  exact putImage (h.newFree.store _ _) (List.filter _) _ _

theorem State.Aside.startSlice (h : z.Aside s) (n : Nat) (r : Bool) : z.Aside (s.startSlice n r) := by
  unfold State.startSlice
  split
  · exact h
  · exact (State.Aside.ite ((State.Aside.foldl (fun _ _ h1 => h1.writeImage _ _) _ (h.noteRoom _)).updGang _ _)
      (h.noteRoom _)).updGang _ _

theorem State.Aside.grant (h : z.Aside s) (g : Gang) (cs : List Nat) : z.Aside (s.grant g cs) := by
  unfold State.grant
  exact .ite (((State.Aside.foldl (fun _ c h1 => h1.startCore g c) cs (h.giveCores g cs)).updGang _ _).startSlice _ _)
    ((State.Aside.foldl (fun _ _ h1 => h1.setFld _ _ _ _) cs (h.giveCores g cs)).updGang _ _)

end
/-! ### What counters and Kernel Lane leave of the text path -/

/-- The sequences, the notices and the memory are those of `z`. -/
structure State.Quiet (z t : State) : Prop where
  text : t.text = z.text
  notices : t.notices = z.notices
  mem : t.mem = z.mem

section
variable {z s u : State}

theorem State.Quiet.refl : s.Quiet s := ⟨rfl, rfl, rfl⟩

theorem State.Quiet.congr {t : State} (h : z.Quiet s) (h1 : t.text = s.text := by rfl) (h2 : t.notices = s.notices := by rfl)
    (h3 : t.mem = s.mem := by rfl) : z.Quiet t :=
  ⟨h1.trans h.text, h2.trans h.notices, h3.trans h.mem⟩

theorem State.Quiet.ite {c : Prop} {_ : Decidable c} (h : z.Quiet s) (hu : z.Quiet u) : z.Quiet (if c then s else u) := by
  split <;> assumption

theorem State.Quiet.foldl {α : Type} {f : State → α → State} (hf : ∀ u x, z.Quiet u → z.Quiet (f u x)) (l : List α) (h : z.Quiet s) :
    z.Quiet (l.foldl f s) := by
  induction l generalizing s with
  | nil => exact h
  | cons x r ih => exact ih (hf s x h)

theorem State.Quiet.raise (h : z.Quiet s) (src code : Nat) (data : List EvVal) (ctx func : Nat) :
    z.Quiet (s.raise src code data ctx func) := by
  obtain ⟨r, g, e, i, p, hs, -⟩ := s.raise_touched src code data ctx func
  rw [hs]
  exact h.congr

theorem State.Quiet.setFld (h : z.Quiet s) (a lo w n : Nat) : z.Quiet (s.setFld a lo w n) := h.congr

theorem State.Quiet.addSat (h : z.Quiet s) (a lo w n : Nat) : z.Quiet (s.addSat a lo w n) := h.setFld _ _ _ _

theorem State.Quiet.addSat64 (h : z.Quiet s) (a n : Nat) : z.Quiet (s.addSat64 a n) := h.congr

theorem State.Quiet.countLines (h : z.Quiet s) (a : Nat) : z.Quiet (s.countLines a) := by
  have free : z.Quiet s.newFree.2 := h.congr
  exact (free.addSat _ _ _ _).addSat _ _ _ _

theorem State.Quiet.withKl (h : z.Quiet s) (f : Kl → Kl) : z.Quiet (s.withKl f) := h.congr

theorem State.Quiet.spoilCrc (h : z.Quiet s) (p n : Nat) : z.Quiet (s.spoilCrc p n) := by
  have hit : ∀ {s : State}, z.Quiet s → ∀ f : Test → Test, z.Quiet { s with test := f s.test } := fun h _ => h.congr
  unfold State.spoilCrc
  exact .ite (hit (h.withKl _) fun x => { x with inj := x.inj.map fun i => if i.kind = 5 then { i with hit := true } else i }) h

theorem State.Quiet.transmit (h : z.Quiet s) (m : KlMsg) (key : Nat) : z.Quiet (s.transmit m key) := by
  unfold State.transmit
  dsimp only
  split
  · exact h.withKl _
  · exact State.Quiet.spoilCrc (h.withKl _) _ _

theorem State.Quiet.klSend (h : z.Quiet s) (dst : Nat) (b : KlBody) : z.Quiet (s.klSend dst b) := by
  unfold State.klSend
  exact .ite (h.transmit _ _) (.ite ((h.withKl _).withKl _) (((h.withKl _).withKl _).transmit _ _))

theorem State.Quiet.toSpread (h : z.Quiet s) (g : Geo) (b : KlBody) : z.Quiet (s.toSpread g b) :=
  .foldl (fun _ _ h1 => h1.klSend _ _) _ h

end

/-! ### Sequences -/

section
variable {s t : State} {q : Nat} {x : Seq} {a : Appending}

theorem State.seq_of_text (h : t.text = s.text) (q : Nat) : t.seq q = s.seq q := by rw [State.seq, h, State.seq]

theorem State.seq_putSeq_same (s : State) (q : Nat) (x : Seq) : (s.putSeq q x).seq q = some x := Tbl.look?_put_same _ _ _

theorem State.updSeq_of (h : s.seq q = some x) (f : Seq → Seq) : s.updSeq q f = s.putSeq q (f x) := by rw [State.updSeq, h]

theorem State.seq_updSeq_same (h : s.seq q = some x) (f : Seq → Seq) : (s.updSeq q f).seq q = some (f x) := by
  rw [State.updSeq_of h, State.seq_putSeq_same]

theorem State.updAct_of (h : s.seq q = some x) (ha : x.act = some a) (f : Appending → Appending) :
    s.updAct q f = s.putSeq q { x with act := some (f a) } := by
  rw [State.updAct, State.updSeq_of h, ha, Option.map_some]

/-- An update of a sequence writes the sequences alone. -/
theorem State.updSeq_eq (s : State) (q : Nat) (f : Seq → Seq) : ∃ l, s.updSeq q f = { s with text := { s.text with seqs := l } } := by
  unfold State.updSeq
  split
  · exact ⟨_, rfl⟩
  · exact ⟨_, rfl⟩

theorem State.foldl_updAct_eq {α : Type} (k : α → Nat) (f : Appending → Appending) (l : List α) (s : State) :
    ∃ x, l.foldl (fun (s : State) m => s.updAct (k m) f) s = { s with text := { s.text with seqs := x } } := by
  induction l generalizing s with
  | nil => exact ⟨_, rfl⟩
  | cons m l ih =>
    obtain ⟨x, hx⟩ := s.updSeq_eq (k m) fun x => { x with act := x.act.map f }
    obtain ⟨y, hy⟩ := ih (s.updAct (k m) f)
    refine ⟨y, hy.trans ?_⟩
    rw [State.updAct, hx]

theorem State.reported_congr {d : Desc} {st : Status} {r r2 : Nat} (hn : t.notices = s.notices) (h : s.reported d st r r2) :
    t.reported d st r r2 := by
  obtain ⟨e, he, hs⟩ := h
  exact ⟨e, hn ▸ he, hs⟩

theorem State.discardRow_frame (s : State) (q : Nat) : (s.discardRow q).notices = s.notices ∧
    ∀ k, (s.discardRow q).seq k = s.seq k := by
  unfold State.discardRow
  split
  · exact ⟨rfl, fun _ => rfl⟩
  · exact ⟨rfl, fun _ => rfl⟩

/-- The end of an append reports its descriptor and frees its sequence (09 R330). -/
theorem State.endAppend_ends (h : s.seq q = some x) (ha : x.act = some a) (st : Status) :
    (s.endAppend q st).reported a.desc st a.appended a.written ∧
    (s.endAppend q st).seq q = some { x.dropAhead with act := none, ops := x.ops.filter (· != a.desc.uid) } := by
  obtain ⟨u, hu⟩ : ∃ u, u = (s.appendEvents q x a).complete a.desc st a.appended a.written := ⟨_, rfl⟩
  have he : s.endAppend q st = ((u.releaseHolds a.desc.uid).putSeq q
      { x.dropAhead with act := none, ops := x.ops.filter (· != a.desc.uid) }).discardRow q := by
    unfold State.endAppend
    rw [h]
    dsimp only
    rw [ha, hu]
  obtain ⟨h1, h2⟩ := ((u.releaseHolds a.desc.uid).putSeq q
    { x.dropAhead with act := none, ops := x.ops.filter (· != a.desc.uid) }).discardRow_frame q
  rw [he]
  refine ⟨State.reported_congr h1 ?_, (h2 q).trans (State.seq_putSeq_same _ _ _)⟩
  have hr : u.reported a.desc st a.appended a.written := hu ▸ State.complete_reported _ _ _ _ _
  exact hr

/-! ### A chosen token -/

/-- A token that the append goes on with is the sequence's next; the last one ends the append (09 R332, R334). -/
theorem State.tokenChosen_next (h : s.seq q = some x) (ha : x.act = some a) (hg : a.generated + 1 < a.desc.genMax) (tok : Nat) :
    ((s.tokenChosen q tok).seq q).bind Seq.nextTok = some tok ∧ (s.tokenChosen q tok).text.rows = s.text.rows ∧
    (s.tokenChosen q tok).mem = s.mem := by
  have h' : s.newUid.2.seq q = some x := h
  unfold State.tokenChosen
  rw [show s.newUid = (s.newUid.1, s.newUid.2) from rfl]
  dsimp only
  rw [State.updAct_of h' ha, State.seq_putSeq_same, if_neg (by simpa using hg),
    State.updSeq_of (State.seq_putSeq_same _ _ _), State.seq_putSeq_same]
  exact ⟨rfl, rfl, rfl⟩

theorem State.tokenChosen_last (h : s.seq q = some x) (ha : x.act = some a) (hg : a.desc.genMax ≤ a.generated + 1) (tok : Nat) :
    (s.tokenChosen q tok).reported a.desc .ok a.appended a.written ∧
    ((s.tokenChosen q tok).seq q).bind Seq.pendingTok = some tok := by
  have h' : s.newUid.2.seq q = some x := h
  unfold State.tokenChosen
  rw [show s.newUid = (s.newUid.1, s.newUid.2) from rfl]
  dsimp only
  rw [State.updAct_of h' ha, State.seq_putSeq_same, if_pos (by simpa using hg), State.updSeq_of (State.seq_putSeq_same _ _ _)]
  obtain ⟨h1, h2⟩ := State.endAppend_ends (State.seq_putSeq_same (s.newUid.2.putSeq q
    { x with act := some { a with generated := a.generated + 1, readyAt := s.newUid.1 } }) q
    { x with act := some { a with generated := a.generated + 1, readyAt := s.newUid.1 }, pendingTok := some tok }) rfl .ok
  exact ⟨h1, by rw [h2]; rfl⟩

/-! ### Tokens and masks -/

theorem tokenisePretoken_completes {p : Pre} {rest : List Pre} {v : Vocab} {l : List Nat} (hx : s.seq q = some x) (ha : x.act = some a)
    (hw : s.worksOn .txt = true) (hn : s.nextPre = some q) (hp : a.pretoks = p :: rest) (hv : s.actVocab a = some v)
    (ht : s.preTokens v p = .ok l) (hl : l ≠ []) :
    completes (.tokenisePretoken q) s (fun t =>
      (∃ n, t.seq q = some { x with act := some { a with tokens := a.tokens ++ l, pretoks := rest, inLeft := n } } ∧
        n ≤ a.inLeft ∧ (rest = [] → n = 0)) ∧ t.mem = s.mem) := by
  obtain ⟨n, hn'⟩ : ∃ n, n = if rest.isEmpty then a.inLeft else min a.inLeft p.size := ⟨_, rfl⟩
  obtain ⟨u, hu⟩ : ∃ u, u = s.putSeq q { x with act := some { a with tokens := a.tokens ++ l, pretoks := rest, inLeft := a.inLeft - n } } :=
    ⟨_, rfl⟩
  have hex : exec (.tokenisePretoken q) s = .next (((u.addSat64 (txtA 0x58) n).countLines (txtA 0x68)).endIfEmpty q) := by
    show execTokenisePretoken q s = _
    unfold execTokenisePretoken
    simp only [hx, ha, hp, hv, hw, hn, ht, Bool.not_true, Bool.false_eq_true, ne_eq, not_true_eq_false, or_self, if_false]
    rw [State.updAct_of hx ha, ← hn', hu]
  have hq : u.Quiet ((u.addSat64 (txtA 0x58) n).countLines (txtA 0x68)) := (State.Quiet.refl.addSat64 _ _).countLines _
  have hseq : ((u.addSat64 (txtA 0x58) n).countLines (txtA 0x68)).seq q =
      some { x with act := some { a with tokens := a.tokens ++ l, pretoks := rest, inLeft := a.inLeft - n } } := by
    rw [State.seq_of_text hq.text, hu, State.seq_putSeq_same]
  have hend : ((u.addSat64 (txtA 0x58) n).countLines (txtA 0x68)).endIfEmpty q =
      (u.addSat64 (txtA 0x58) n).countLines (txtA 0x68) := by
    unfold State.endIfEmpty
    rw [hseq, if_neg (by simp [hl])]
  refine completes_next (hex.trans (congrArg Host.Outcome.next hend)) ⟨⟨a.inLeft - n, hseq, Nat.sub_le _ _, fun he => ?_⟩, ?_⟩
  · rw [hn', he]
    exact Nat.sub_self _
  · rw [hq.mem, hu]
    rfl

theorem spreadTokenReceived_exec {k tok : Nat} {h : ModelHdr} {m : Nat × KlBody} (hx : s.seq q = some x) (ha : x.act = some a)
    (hm : s.actModel x a = some (k, h)) (hmsg : s.spreadMsg x.geo (isToken tok) = some m) (hi : x.geo.spreadIdx ≠ 0)
    (hn : x.nextTok = none) (hg : a.gang = none) (ht : a.tokens = []) (hp : a.pretoks = []) (hgen : a.desc.genMax ≠ 0) :
    exec (.spreadTokenReceived q tok) s = .next (if tok = h.eos then (s.takeMsg m).endAppend q .ok
      else if x.limit ≤ x.len then (s.takeMsg m).endAppend q .lengthLimit else (s.takeMsg m).tokenChosen q tok) := by
  show execSpreadTokenReceived q tok s = _
  unfold execSpreadTokenReceived
  simp only [hx, ha, hm, hmsg, hi, hn, hg, ht, hp, hgen, Option.isSome_none, List.isEmpty_nil, Bool.not_true, Bool.false_eq_true,
    or_self, if_false]
  split
  · rfl
  · split <;> rfl

/-- GRM's mask makes the row ready and counts its time (11 R402). -/
theorem State.countMask_quiet (s : State) (q : Nat) (x : Seq) (ns : Nat) : s.Quiet (s.countMask q x ns) := by
  unfold State.countMask
  exact .ite ((((State.Quiet.refl.addSat64 _ _).setFld _ _ _ _).addSat _ _ _ _).raise _ _ _ _ _)
    ((State.Quiet.refl.addSat64 _ _).setFld _ _ _ _)

theorem State.countMask_fld (s : State) (q : Nat) (x : Seq) (ns : Nat) :
    (s.countMask q x ns).fld (grmA 0x44) 0 16 = max (s.fld (grmA 0x44) 0 16) (min ns 65535) := by
  have h0 : (s.addSat64 (grmA 0x50) 1).fld (grmA 0x44) 0 16 = s.fld (grmA 0x44) 0 16 := by
    rw [State.fld, State.addSat64, State.wr64, State.rd_wr_other _ _ (by decide), State.rd_wr_other _ _ (by decide), State.fld]
  have hlt : s.fld (grmA 0x44) 0 16 < 2 ^ 16 := Nat.mod_lt _ (by decide)
  have h1 : ((s.addSat64 (grmA 0x50) 1).setFld (grmA 0x44) 0 16 (max (s.fld (grmA 0x44) 0 16) (min ns 65535))).fld (grmA 0x44) 0 16 =
      max (s.fld (grmA 0x44) 0 16) (min ns 65535) := by
    rw [State.fld_setFld _ _ _ _ _ (by decide), Nat.mod_eq_of_lt]
    omega
  unfold State.countMask
  dsimp only
  rw [h0]
  split
  · rw [State.raise_fld _ _ _ _ _ _ _ _ (by decide) (by decide), State.addSat, State.fld_setFld_other _ _ _ _ _ _ (by decide), h1]
  · exact h1

theorem State.countLines_fld (s : State) {a b : Nat} (h1 : b ≠ a) (h2 : b ≠ a + 4) (lo w : Nat) :
    (s.countLines a).fld b lo w = s.fld b lo w := by
  unfold State.countLines
  rw [show s.newFree = (s.free, s.newFree.2) from rfl]
  dsimp only
  rw [State.addSat, State.fld_setFld_other _ _ _ _ _ _ h2.symm, State.addSat, State.fld_setFld_other _ _ _ _ _ _ h1.symm]
  rfl

theorem maskReady_completes {ns : Nat} {g : Grammar} {l : List Bool} {o : Bool} (hx : s.seq q = some x) (ha : x.act = some a)
    (hn : s.nextMask = some q) (hw : s.worksOn .grm = true) (hm : s.actMask x a = some (g, .ok l o)) (hl : l.any id = true) :
    completes (.maskReady q ns) s (fun t =>
      t.seq q = some { x with act := some { a with maskReady := true } } ∧ t.mem = s.mem ∧
      max (s.fld (grmA 0x44) 0 16) (min ns 65535) = t.fld (grmA 0x44) 0 16) := by
  obtain ⟨u, hu⟩ : ∃ u, u = ((s.countMask q x ns).countLines (grmA 0x5C)).countLines (txtA 0x68) := ⟨_, rfl⟩
  have hq : s.Quiet u := hu ▸ ((s.countMask_quiet q x ns).countLines _).countLines _
  have hex : exec (.maskReady q ns) s = .next (u.updAct q fun a => { a with maskReady := true }) := by
    show execMaskReady q ns s = _
    unfold execMaskReady
    simp only [hx, ha, hn, hw, hm, hl, Bool.not_true, Bool.false_eq_true, ne_eq, not_true_eq_false, or_self, if_false, true_or,
      if_true]
    rw [hu]
  rw [State.updAct_of ((State.seq_of_text hq.text q).trans hx) ha] at hex
  refine completes_next hex ⟨State.seq_putSeq_same _ _ _, hq.mem, ?_⟩
  have hf : u.fld (grmA 0x44) 0 16 = max (s.fld (grmA 0x44) 0 16) (min ns 65535) := by
    rw [hu, State.countLines_fld _ (by decide) (by decide), State.countLines_fld _ (by decide) (by decide), State.countMask_fld]
  exact hf.symm

/-! ### The token step -/

/-- The append whose row has been sampled (09 R332). -/
def Appending.sampled (a : Appending) (notes : Nat) : Appending :=
  { a with row := none, maskReady := false, nonfinite := a.nonfinite + notes }

/-- The state in which the sampled token is taken. -/
def State.sampled (s : State) (q : Nat) (x : Seq) (a : Appending) (notes tok : Nat) : State :=
  ((((s.unqueueRow q).addSat (sampA 0x48) 0 32 notes).addSat64 (sampA 0x40) 1).updAct q fun _ => a.sampled notes).toSpread x.geo
    (.token (((((s.unqueueRow q).addSat (sampA 0x48) 0 32 notes).addSat64 (sampA 0x40) 1).updAct q fun _ => a.sampled notes).seqHandle q) tok)

theorem tokenStep_exec {key tok notes k : Nat} {h : ModelHdr} (hx : s.seq q = some x) (ha : x.act = some a)
    (hm : s.actModel x a = some (k, h)) (hrow : a.row = some key) (hn : s.nextRow = some q) (hw : s.worksOn .samp = true)
    (hv : a.vocab = none) (hg : a.grammar = none) (hc : s.clean) (hs : s.samplerOk a.desc.sampler = true)
    (hr : sampleRow ((List.range h.vocab).map fun i => (BitVec.ofNat 32 (s.loadNat (key + 4 * i) 4) : F32))
      (List.replicate h.vocab true) (s.profile a.desc.sampler) x.seed x.len = (some tok, notes)) :
    exec (.tokenStep q) s = .next ((s.sampled q x a notes tok).takeToken q tok x (a.sampled notes) h) := by
  obtain ⟨hp, hl⟩ := hc
  have htouch : (s.unqueueRow q).touch key (4 * h.vocab) = s.unqueueRow q :=
    State.touch_of_latent (s := s.unqueueRow q) hl _ _
  have hpois : firstPoisoned (s.unqueueRow q).poison key (4 * h.vocab) = none := by
    rw [show (s.unqueueRow q).poison = [] from hp]
    rfl
  have hmask : (s.unqueueRow q).rowMask x a h.vocab = (List.replicate h.vocab true, none) := by
    have hvoc : (s.unqueueRow q).actVocab a = none := by rw [State.actVocab, hv]; rfl
    rw [State.rowMask, State.actMask, hvoc]
  have hsamp : (s.unqueueRow q).samplerOk a.desc.sampler = true := hs
  have hrow' : sampleRow ((List.range h.vocab).map fun i => (BitVec.ofNat 32 ((s.unqueueRow q).loadNat (key + 4 * i) 4) : F32))
      (List.replicate h.vocab true) ((s.unqueueRow q).profile a.desc.sampler) x.seed x.len = (some tok, notes) := hr
  show execTokenStep q s = _
  unfold execTokenStep
  rw [hx]
  dsimp only
  rw [ha]
  dsimp only
  rw [hrow, hm]
  dsimp only
  rw [if_neg (by simp [hn, hw, hv, hg]), htouch, hpois]
  dsimp only
  rw [hmask]
  dsimp only
  rw [hsamp, Bool.not_true, if_neg Bool.false_ne_true, hrow']
  dsimp only
  rw [if_neg (by simp [hg]), if_neg (by simp [hv])]
  rfl

theorem State.sampled_frame {notes : Nat} (hx : s.seq q = some x) (ha : x.act = some a) (tok : Nat) :
    (s.sampled q x a notes tok).seq q = some { x with act := some (a.sampled notes) } ∧
    (s.sampled q x a notes tok).text.rows = s.text.rows.filter (· != q) ∧ (s.sampled q x a notes tok).mem = s.mem := by
  obtain ⟨u, hu⟩ : ∃ u, u = ((s.unqueueRow q).addSat (sampA 0x48) 0 32 notes).addSat64 (sampA 0x40) 1 := ⟨_, rfl⟩
  have h1 : (s.unqueueRow q).Quiet u := hu ▸ (State.Quiet.refl.addSat _ _ _ _).addSat64 _ _
  have hux : u.seq q = some x := (State.seq_of_text h1.text q).trans hx
  have h2 : (u.putSeq q { x with act := some (a.sampled notes) }).Quiet (s.sampled q x a notes tok) := by
    rw [State.sampled, ← hu, State.updAct_of hux ha]
    exact State.Quiet.refl.toSpread _ _
  refine ⟨(State.seq_of_text h2.text q).trans (State.seq_putSeq_same _ _ _), ?_, ?_⟩
  · rw [h2.text]
    exact congrArg Text.rows h1.text
  · rw [h2.mem]
    exact h1.mem

/-- The text that ends an append leaves its descriptor and its positions. -/
theorem State.endText_act (hx : s.seq q = some x) (ha : x.act = some a) : ∃ y b, (s.endText q).seq q = some y ∧ y.act = some b ∧
    b.desc = a.desc ∧ b.appended = a.appended := by
  have upd : ∀ u : State, (∃ y b, u.seq q = some y ∧ y.act = some b ∧ b.desc = a.desc ∧ b.appended = a.appended) →
      ∃ y b, (u.updSeq q fun x => { x with hold := [], wroteCp := false, gram := none }).seq q = some y ∧ y.act = some b ∧
        b.desc = a.desc ∧ b.appended = a.appended := by
    rintro u ⟨y, b, hy, hb⟩
    exact ⟨_, b, State.seq_updSeq_same hy _, hb⟩
  have write : ∀ bs, ∃ y b, (s.writeText q a bs).seq q = some y ∧ y.act = some b ∧ b.desc = a.desc ∧ b.appended = a.appended := by
    intro bs
    obtain ⟨v, hv⟩ : ∃ v, v = s.storeAt (a.desc.addr 40 + BitVec.ofNat 64 a.written) bs := ⟨_, rfl⟩
    have hvt : v.text = s.text := by
      rw [hv, State.storeAt]
      split
      · exact State.store_text _ _ _
      · rfl
    have hw : (v.addSat64 (txtA 0x60) bs.length).seq q = some x := (State.seq_of_text (t := v) hvt q).trans hx
    rw [State.writeText, ← hv, State.updAct_of hw ha, State.seq_putSeq_same]
    exact ⟨_, _, rfl, rfl, rfl, rfl⟩
  unfold State.endText
  rw [hx]
  dsimp only
  rw [ha]
  refine upd _ ?_
  split
  · exact ⟨x, a, hx, ha, rfl, rfl⟩
  · have count : ∀ u : State, u.Quiet ((u.addSat (txtA 0x4C) 0 32 1).raise 0x7000 0x0702 [.w (u.seqHandle q), .w 1] x.ctx) :=
      fun u => (State.Quiet.refl.addSat _ _ _ _).raise _ _ _ _ _
    split
    · obtain ⟨y, b, hy, hb⟩ := write [0xEF, 0xBF, 0xBD]
      exact ⟨y, b, (State.seq_of_text (count _).text q).trans hy, hb⟩
    · exact ⟨x, a, (State.seq_of_text (count _).text q).trans hx, ha, rfl, rfl⟩

/-- A token without text and grammar is chosen (09 R332). -/
theorem State.takeToken_plain {h : ModelHdr} {tok : Nat} (he : tok ≠ h.eos) (hlen : x.len < x.limit) (ho : a.desc.outLen = 0)
    (hg : a.grammar = none) : s.takeToken q tok x a h =
      ((s.addSat (txtA 0x48) 0 32 0).updSeq q fun y => { y with hold := x.hold, wroteCp := x.wroteCp, gram := x.gram }).tokenChosen q tok := by
  have hgram : s.actGrammar a = none := by rw [State.actGrammar, hg]; rfl
  unfold State.takeToken
  rw [if_neg he, if_neg (Nat.not_le.2 hlen), State.tokenText]
  simp only [ho, if_true, ne_eq, not_true_eq_false, false_and, if_false]
  rw [State.tokenGram, hgram]
  rfl

/-! ### Steps -/

theorem prefillChunk_exec {k tokensAt logitAt : Nat} {h : ModelHdr} (hx : s.seq q = some x) (ha : x.act = some a)
    (hm : s.actModel x a = some (k, h)) (hw : a.wantsChunk = true) (hp : x.pre = .inPlace) (hlost : x.lost = none)
    (hlen : x.len < x.limit) (h1 : s.fld (cr x.ctx 0x10C) 0 7 ≤ h.prefillCores) (h2 : h.prefillCores ≤ s.fld (cr x.ctx 0x10C) 8 7)
    (hf : s.formerImage (k + h.prefillOff) h.prefillCores 48 = none)
    (hr1 : s.hbmIn h.stepPool tokensAt (4 * chunkLen x h a.tokens.length) = true)
    (hr2 : s.hbmIn h.stepPool logitAt (4 * h.vocab) = true) :
    exec (.prefillChunk q tokensAt logitAt) s = .next (s.startChunk q x a k h tokensAt logitAt) := by
  show execPrefillChunk q tokensAt logitAt s = _
  unfold execPrefillChunk
  simp only [hx, ha, hm, hw, hp, hlost, h1, h2, hf, hr1, hr2, Nat.not_le.2 hlen, Option.isSome_none, Bool.not_true,
    Bool.false_eq_true, ne_eq, not_true_eq_false, or_self, if_false, if_true, and_self, Bool.and_self]

theorem State.newGang_frame (s : State) (n : Nat) (d : Desc) (width k : Nat) (args : List Byte) (members : List (Nat × Nat)) :
    (s.newGang n d width k args members).2.text = s.text ∧ (s.newGang n d width k args members).2.kl = s.kl ∧
    ∃ g ∈ (s.newGang n d width k args members).2.sbox.gangs, g.uid = (s.newGang n d width k args members).1 ∧
      g.phase = .waiting ∧ g.width = width := by
  unfold State.newGang
  dsimp only
  obtain ⟨l, hl⟩ := State.holdRegions_eq { s with uid := s.uid + 1, sbox := { s.sbox with gangs := s.sbox.gangs ++ [_] } } _ _
  rw [hl]
  exact ⟨rfl, rfl, _, List.mem_append_right _ (List.mem_singleton.2 rfl), rfl, rfl, rfl⟩

theorem State.startChunk_step (s : State) (q : Nat) (x : Seq) (a : Appending) (k : Nat) (h : ModelHdr) (tokensAt logitAt : Nat) :
    ∃ r, (s.startChunk q x a k h tokensAt logitAt).text.steps = s.text.steps ++ [r] ∧ r.members = [(q, 0, x.len)] ∧
      r.prefill = a.tokens.take (chunkLen x h a.tokens.length) ∧
      ∃ g ∈ (s.startChunk q x a k h tokensAt logitAt).sbox.gangs, g.uid = r.gang ∧ g.phase = .waiting ∧
        g.width = h.prefillCores := by
  unfold State.startChunk
  dsimp only
  generalize hs : s.store _ _ = s1
  have h1 : s1.text = s.text := hs ▸ State.store_text _ _ _
  generalize hg : s1.newGang _ _ _ _ _ _ = p
  obtain ⟨h2, -, h3⟩ := hg ▸ s1.newGang_frame _ _ _ _ _ _
  obtain ⟨u, s2⟩ := p
  obtain ⟨l, hl⟩ := State.updSeq_eq { s2 with text := { s2.text with steps := s2.text.steps ++ [⟨u, [(q, 0, x.len)],
    if (chunkLen x h a.tokens.length == a.tokens.length && a.desc.genMax != 0) = true then some (kHbm logitAt) else none,
    4 * h.vocab, a.tokens.take (chunkLen x h a.tokens.length)⟩] } } q fun x => { x with act := x.act.map fun a => { a with gang := some u } }
  rw [State.updAct, hl]
  obtain ⟨g, hg1, hg2⟩ := h3
  exact ⟨_, by rw [← h1, ← h2], rfl, rfl, g, hg1, hg2⟩

theorem State.makeStep_frame (s : State) (ms : List (Nat × Nat × Nat)) (d : Desc) (k : Nat) (h : ModelHdr) (tableAt logitsAt : Nat) :
    (s.makeStep ms d k h tableAt logitsAt).2.kl = s.kl ∧
    ∃ y, (s.makeStep ms d k h tableAt logitsAt).2.text.steps = s.text.steps ++ [y] ∧
      y.gang = (s.makeStep ms d k h tableAt logitsAt).1 ∧ y.members = ms := by
  unfold State.makeStep
  dsimp only
  generalize hs : s.store _ _ = s1
  have h1 : s1.text = s.text ∧ s1.kl = s.kl := by
    obtain ⟨r, m, p, l, x, he⟩ := State.store_eq s (kHbm tableAt) (ms.flatMap s.tableEntry)
    rw [← hs, he]
    exact ⟨rfl, rfl⟩
  generalize hg : s1.newGang _ _ _ _ _ _ = p
  obtain ⟨h2, h3, -⟩ := hg ▸ s1.newGang_frame _ _ _ _ _ _
  generalize hf : List.foldl _ _ ms = s3
  obtain ⟨l, hl⟩ := hf ▸ State.foldl_updAct_eq (fun m : Nat × Nat × Nat => m.1) (fun a => { a with gang := some p.1 }) ms _
  rw [hl]
  refine ⟨h3.trans h1.2, ⟨p.1, ms, some (kHbm logitsAt), 4 * h.vocab, []⟩, ?_, rfl, rfl⟩
  rw [← h1.1, ← h2]
  rfl

theorem decodeStepForm_exec {region k u tableAt logitsAt : Nat} {cores : List (Fin 64)} {r : List (Nat × Seq)} {h : ModelHdr} {s1 : State}
    {g : Gang} (ha : x.act = some a) (hm : s.actModel x a = some (k, h)) (hms : s.stepMembers region = (q, x) :: r) (hp : s.pst = 0)
    (hfz : s.frozen .sbox 0 = false) (hb : s.blockGoes .sbox 0 = true) (hbit : s.bit (ro .pwr 0 0x50) 6 = false)
    (hah : s.stepAhead (s.stepKey ((q, x) :: r)) = false) (hroom : s.stepRoom h (r.length + 1) tableAt logitsAt = true)
    (hf : s.formerImage (k + h.stepOff) h.stepCores 64 = none)
    (hmk : s.makeStep (((q, x) :: r).map fun e => (e.1, e.2.nextTok.getD 0, e.2.len)) a.desc k h tableAt logitsAt = (u, s1))
    (hg : s1.gang u = some g) (hw : s1.waitsAhead u = false) (hpl : s1.placement g (cores.map (·.val)) = true) :
    exec (.decodeStepForm region cores tableAt logitsAt) s = .next ((s1.grant g (cores.map (·.val))).toSpread h.geo (.table h.geo.group
      (((q, x) :: r).map fun e => (s.seqHandle e.1, e.2.nextTok.getD 0, e.2.len)))) := by
  show execDecodeStepForm region cores tableAt logitsAt s = _
  unfold execDecodeStepForm
  rw [hms]
  dsimp only
  rw [ha]
  dsimp only
  rw [hm]
  dsimp only
  rw [if_neg (by simp [hp, hbit, hfz, hb, hroom]), hf]
  dsimp only
  rw [hmk]
  dsimp only
  rw [hg]
  dsimp only
  rw [if_neg (by simp [hw, hah]), if_pos hpl, List.map_map]
  rfl

theorem stepTableReceived_exec {region k tok tableAt logitsAt : Nat} {r : List (Nat × Nat)} {h : ModelHdr} {m : Nat × KlBody}
    (hx : s.seq q = some x) (ha : x.act = some a) (hm : s.actModel x a = some (k, h))
    (hmsg : s.spreadMsg h.geo (isTable h.geo (((q, tok) :: r).map fun e => (e.2, ((s.seq e.1).map fun y => y.len).getD 0))) = some m)
    (hready : ∀ e ∈ (q, tok) :: r, s.spreadReady region e.1 = true) (hnd : (q :: r.map Prod.fst).Nodup) (hmax : r.length + 1 ≤ h.stepMax)
    (hroom : s.stepRoom h (r.length + 1) tableAt logitsAt = true) (hf : s.formerImage (k + h.stepOff) h.stepCores 64 = none) :
    exec (.stepTableReceived region ((q, tok) :: r) tableAt logitsAt) s = .next ((s.takeMsg m).makeStep
      (((q, tok) :: r).map fun e => (e.1, e.2, ((s.seq e.1).map fun y => y.len).getD 0)) a.desc k h tableAt logitsAt).2 := by
  have hall : ((q, tok) :: r).all (fun e => s.spreadReady region e.1) = true := List.all_eq_true.2 hready
  have hf' : (s.takeMsg m).formerImage (k + h.stepOff) h.stepCores 64 = none := hf
  show execStepTableReceived region ((q, tok) :: r) tableAt logitsAt s = _
  unfold execStepTableReceived
  dsimp only
  rw [hx]
  dsimp only
  rw [ha]
  dsimp only
  rw [hm]
  dsimp only
  rw [List.map_map]
  rw [show (Prod.snd ∘ fun e : Nat × Nat => (e.1, e.2, ((s.seq e.1).map fun y => y.len).getD 0)) =
    fun e => (e.2, ((s.seq e.1).map fun y => y.len).getD 0) from rfl, hmsg]
  dsimp only
  rw [if_neg (by simp only [hall, List.map_cons, hnd, List.length_cons, hmax, hroom, decide_true, Bool.and_self, Bool.not_true,
    Bool.false_eq_true, not_false_eq_true]), hf']

end

/-- Settles O36. -/
theorem textBecomesStepsAndTokens : Obligations.TextBecomesStepsAndTokens := by
  refine fun q s x a k h hx ha hm => ⟨fun p rest v l hw hn hp hv ht hl => tokenisePretoken_completes hx ha hw hn hp hv ht hl,
    fun tokensAt logitAt => fun hw hp hlost hlen h1 h2 hf hr1 hr2 => ?_,
    fun region cores r tableAt logitsAt u s1 g hms hp hfz hb hbit hah hroom hf hmk hg hw hpl => ?_,
    fun region tok r tableAt logitsAt m hmsg hready hnd hmax hroom hf => ?_,
    fun tok m hmsg hi hn hg ht hp hgen => ?_,
    fun ns g l o hn hw hmask hl => maskReady_completes hx ha hn hw hmask hl,
    fun key tok notes hrow hn hw hv hg hc hs ho hr => ?_⟩
  · exact completes_next (prefillChunk_exec hx ha hm hw hp hlost hlen h1 h2 hf hr1 hr2) ⟨rfl, s.startChunk_step _ _ _ _ _ _ _⟩
  · refine completes_next (decodeStepForm_exec ha hm hms hp hfz hb hbit hah hroom hf hmk hg hw hpl) ⟨rfl, ?_⟩
    obtain ⟨-, y, h1, h2, h3⟩ := s.makeStep_frame (((q, x) :: r).map fun e => (e.1, e.2.nextTok.getD 0, e.2.len)) a.desc k h
      tableAt logitsAt
    rw [hmk] at h1 h2
    refine ⟨y, ?_, h2, h3⟩
    rw [(State.Quiet.refl.toSpread _ _).text, (State.Aside.refl.grant _ _).text]
    exact h1
  · obtain ⟨h1, y, h2, -, h3⟩ := (s.takeMsg m).makeStep_frame
      (((q, tok) :: r).map fun e => (e.1, e.2, ((s.seq e.1).map fun y => y.len).getD 0)) a.desc k h tableAt logitsAt
    exact completes_next (stepTableReceived_exec hx ha hm hmsg hready hnd hmax hroom hf) ⟨congrArg Kl.inbox h1, y, h2, h3⟩
  · have hex := spreadTokenReceived_exec hx ha hm hmsg hi hn hg ht hp hgen
    have hseq : (s.takeMsg m).seq q = some x := hx
    refine ⟨fun he => ?_, fun he hlen => ?_, fun he hlen hgo => ?_, fun he hlen hlast => ?_⟩
    · rw [if_pos he] at hex
      exact completes_next hex (State.endAppend_ends hseq ha _).1
    · rw [if_neg he, if_pos hlen] at hex
      exact completes_next hex (State.endAppend_ends hseq ha _).1
    · rw [if_neg he, if_neg (Nat.not_le.2 hlen)] at hex
      exact completes_next hex (State.tokenChosen_next hseq ha hgo tok).1
    · rw [if_neg he, if_neg (Nat.not_le.2 hlen)] at hex
      exact completes_next hex (State.tokenChosen_last hseq ha hlast tok)
  · have hex := tokenStep_exec hx ha hm hrow hn hw hv hg hc hs hr
    obtain ⟨f1, f2, f3⟩ := State.sampled_frame (notes := notes) hx ha tok
    refine ⟨fun he => ?_, fun he hlen hgo => ?_, fun he hlen hlast => ?_⟩
    · rw [State.takeToken, if_pos he] at hex
      obtain ⟨y, b, hy, hb, hd, happ⟩ := State.endText_act f1 rfl
      have hend := (State.endAppend_ends hy hb .ok).1
      rw [hd, happ] at hend
      exact completes_next hex ⟨_, hend⟩
    all_goals
      rw [State.takeToken_plain (a := a.sampled notes) he hlen ho hg] at hex
      have hseq := State.seq_updSeq_same (s := (s.sampled q x a notes tok).addSat (txtA 0x48) 0 32 0) f1
        fun y => { y with hold := x.hold, wroteCp := x.wroteCp, gram := x.gram }
    · obtain ⟨t1, t2, t3⟩ := State.tokenChosen_next hseq rfl hgo tok
      obtain ⟨l, hl⟩ := ((s.sampled q x a notes tok).addSat (txtA 0x48) 0 32 0).updSeq_eq q
        fun y => { y with hold := x.hold, wroteCp := x.wroteCp, gram := x.gram }
      refine completes_next hex ⟨t1, t2.trans ?_, t3.trans ?_⟩
      · rw [hl]
        exact f2
      · rw [hl]
        exact f3
    · exact completes_next hex (State.tokenChosen_last hseq rfl hlast tok)

end Sys2Proof.Machine
end

section
/-! The Yard's pool commands (O37). -/

namespace Sys2Proof.Machine

/-! ### Registers of the Yard -/

theorem poolA_ne_yardA {p o k : Nat} (hk : k < 0x800) : poolA p o ≠ yardA k := by
  unfold poolA yardA ro
  omega

theorem poolA_ne_poolA {p o k : Nat} (h : o ≠ k) : poolA p o ≠ poolA p k := by
  unfold poolA yardA ro
  omega

theorem poolA_ne_sbox {p o : Nat} : poolA p o ≠ ro .sbox 0 0x4C := by
  unfold poolA yardA ro
  have h1 : slotOf .yard 0 = 0x102 := rfl
  have h2 : slotOf .sbox 0 = 0x101 := rfl
  rw [h1, h2]
  omega

theorem poolA_ne_evr {p o k : Nat} (hk : k < 0x1000) : poolA p o ≠ ro .evr 0 k := by
  unfold poolA yardA ro
  have h1 : slotOf .yard 0 = 0x102 := rfl
  have h2 : slotOf .evr 0 = 2 := rfl
  rw [h1, h2]
  omega

section
variable {s : State} {p : Nat}

theorem State.poolSt_eq (s : State) (p : Nat) : s.poolSt p = s.fld (poolA p 0) 28 3 := rfl

theorem State.poolSt_setPoolSt (s : State) (p n : Nat) : (s.setPoolSt p n).poolSt p = n % 2 ^ 3 :=
  State.fld_setFld _ _ _ _ _ (by decide)

theorem State.poolSt_setFld_other {a : Nat} (h : a ≠ poolA p 0) (lo w n : Nat) : (s.setFld a lo w n).poolSt p = s.poolSt p :=
  State.fld_setFld_other _ _ _ _ _ _ h

/-! ### The start of a command -/

/-- What a command does to the pool, and its result (10 R343). -/
def State.runCmd (s : State) (c : PoolCmd) : Nat × State :=
  match c.op with
  | 1 => s.poolAssign c
  | 2 => s.poolRelease c
  | 3 => s.poolCreate c
  | _ => s.poolDestroy c

theorem State.runCmd_assign {c : PoolCmd} (h : c.op = 1) : s.runCmd c = s.poolAssign c := by simp only [State.runCmd, h]

theorem State.runCmd_release {c : PoolCmd} (h : c.op = 2) : s.runCmd c = s.poolRelease c := by simp only [State.runCmd, h]

theorem State.runCmd_create {c : PoolCmd} (h : c.op = 3) : s.runCmd c = s.poolCreate c := by simp only [State.runCmd, h]

theorem State.runCmd_destroy {c : PoolCmd} (h : c.op = 4) : s.runCmd c = s.poolDestroy c := by simp only [State.runCmd, h]

/-- BUSY and RESULT of a started command (10 R342). -/
def State.cmdStarted (c : PoolCmd) (r : Nat × State) : State :=
  let s := (r.2.setFld (yardA 0x60) 0 1 1).setFld (yardA 0x60) 4 4 r.1
  if r.1 = 0 then s else s.raise 0x1110 0x11E8 [.w c.pool, .w c.op, .w r.1]

/-- The Yard while a command runs. -/
def State.cmdRuns (s : State) (c : PoolCmd) : State := s.withYard fun y => { y with cmds := [], running := some c }

theorem State.poolCmd_starts (hb : s.blockOn .yard 0 = true) (hr : s.yard.running = none) (hc : s.yard.cmds = []) (op : Nat) {c : PoolCmd}
    (he : c = ⟨p, op, s.fld (yardA 0x58) 0 17, s.fld (yardA 0x5C) 0 17⟩) :
    s.poolCmd p op = State.cmdStarted c ((s.cmdRuns c).runCmd c) := by
  have hq : (s.withYard fun y => { y with cmds := y.cmds ++ [c] }).yard.cmds = [c] := by
    show s.yard.cmds ++ [c] = [c]
    rw [hc, List.nil_append]
  have hr' : (s.withYard fun y => { y with cmds := y.cmds ++ [c] }).yard.running = none := hr
  rw [State.poolCmd, if_pos hb, ← he, State.startCmd, hr', hq]
  rfl

theorem State.cmdStarted_done (c : PoolCmd) {r : Nat × State} (h : r.1 = 0) :
    (State.cmdStarted c r).fld (yardA 0x60) 0 1 = 1 ∧ (State.cmdStarted c r).fld (yardA 0x60) 4 4 = 0 ∧
    (State.cmdStarted c r).yard = r.2.yard ∧ (State.cmdStarted c r).scrub = r.2.scrub ∧
    (State.cmdStarted c r).poolSt p = r.2.poolSt p := by
  rw [State.cmdStarted, if_pos h, h]
  refine ⟨?_, State.fld_setFld _ _ _ _ _ (by decide), rfl, rfl, ?_⟩
  · rw [State.fld_setFld_apart _ _ _ _ _ _ _ (by decide) (by decide)]
    exact State.fld_setFld _ _ _ _ _ (by decide)
  · rw [State.poolSt_setFld_other (poolA_ne_yardA (by decide)).symm, State.poolSt_setFld_other (poolA_ne_yardA (by decide)).symm]

theorem bitsOf_cmd (p : Fin 64) {op : Nat} (ho : op ≤ 4) :
    bitsOf (BitVec.ofNat 32 (p + op * 256)) 8 3 = op ∧ bitsOf (BitVec.ofNat 32 (p + op * 256)) 0 6 = p := by
  have hp := p.isLt
  unfold bitsOf
  rw [BitVec.toNat_ofNat]
  omega

theorem State.poolWrite_takes (p : Fin 64) {op : Nat} (h1 : 1 ≤ op) (h4 : op ≤ 4) (h : s.ownTakes (yardA 0x54)) :
    s.poolWrite p op = s.poolCmd p op := by
  have hl : s.lockedAt (ro .yard 0 0x54) = false := h.2.1
  have hign : s.ignores (.pcie 0) ⟨.yard, 0⟩ 0x54 = none := by simp [State.ignores, hl]
  have hlow : isPairLow .yard 0x54 = false ∧ isPairLow .yard (0x54 - 4) = false := by decide
  obtain ⟨b1, b2⟩ := bitsOf_cmd p h4
  rw [State.poolWrite, State.pfWrite_takes (p := ⟨.yard, 0⟩) _ h (by decide) (by decide), show yardA 0x54 % 0x1000 = 0x54 from by decide]
  simp [State.wordEffect, hlow, hign, State.blockWord, State.yardWord, b1, b2, h1, h4]

/-! ### Frames -/

theorem State.frameSt_setFrameSt (s : State) (f g : Nat) (x : FrameSt) :
    (s.setFrameSt f x).frameSt g = if g = f then x else s.frameSt g := by
  by_cases h : g = f
  · rw [if_pos h, h]
    exact Tbl.look_put_same _ _ _ _
  · rw [if_neg h]
    exact Tbl.look_put_other _ _ _ (Ne.symm h)

/-- Only the Yard has changed, and of it neither the pools nor what leaves with the frames. -/
theorem State.foldl_setFrameSt (l : List Nat) (x : FrameSt) (s : State) :
    ∃ y : Yard, l.foldl (fun (s : State) f => s.setFrameSt f x) s = { s with yard := y } ∧ y.pools = s.yard.pools ∧
      ∀ f, (l.foldl (fun (s : State) f => s.setFrameSt f x) s).frameSt f = if f ∈ l then x else s.frameSt f := by
  induction l generalizing s with
  | nil => exact ⟨s.yard, rfl, rfl, fun f => by simp⟩
  | cons g l ih =>
    obtain ⟨y, h1, h2, h3⟩ := ih (s.setFrameSt g x)
    refine ⟨y, h1, h2, fun f => ?_⟩
    rw [List.foldl_cons, h3, State.frameSt_setFrameSt]
    by_cases hf : f ∈ l <;> by_cases hg : f = g <;> simp [hf, hg]

theorem State.pool_setPoolFrames (s : State) (p : Nat) (l : List Nat) : ((s.setPoolFrames p l).pool p).frames = l :=
  congrArg Pool.frames (Tbl.look_put_same s.yard.pools _ p { s.pool p with frames := l })

theorem State.poolSt_setPoolFrames (s : State) (p : Nat) (l : List Nat) : (s.setPoolFrames p l).poolSt p = s.poolSt p :=
  State.poolSt_setFld_other (poolA_ne_poolA (by decide)) _ _ _

/-! ### ASSIGN -/

theorem State.poolAssign_done {c : PoolCmd} (hst : s.poolSt c.pool = stEmpty ∨ s.poolOpen c.pool = true) (h0 : c.count ≠ 0)
    (hle : c.first + c.count ≤ 49152) (hfree : ∀ f ∈ upFrom c.first c.count, s.frameSt f = .unassigned) :
    (s.poolAssign c).1 = 0 ∧ ((s.poolAssign c).2.pool c.pool).frames = (s.pool c.pool).frames ++ upFrom c.first c.count ∧
    (∀ f ∈ upFrom c.first c.count, (s.poolAssign c).2.frameSt f = .pool c.pool) ∧
    (s.poolAssign c).2.poolSt c.pool = (if s.poolSt c.pool = stEmpty then stAssembling else s.poolSt c.pool) := by
  have hall : ((upFrom c.first c.count).all fun f => s.frameSt f = .unassigned) = true :=
    List.all_eq_true.2 fun f hf => decide_eq_true (hfree f hf)
  have hst' : (s.poolSt c.pool == stEmpty || s.poolOpen c.pool) = true := by simpa using hst
  obtain ⟨y, hy, hpools, hfr⟩ := State.foldl_setFrameSt (upFrom c.first c.count) (.pool c.pool) s
  obtain ⟨v, hv⟩ : ∃ v, v = ((List.foldl (fun (s : State) f => s.setFrameSt f (.pool c.pool)) s (upFrom c.first c.count)).setPoolFrames c.pool
    ((s.pool c.pool).frames ++ upFrom c.first c.count)) := ⟨_, rfl⟩
  have hpl : (List.foldl (fun (s : State) f => s.setFrameSt f (.pool c.pool)) s (upFrom c.first c.count)).pool c.pool = s.pool c.pool := by
    rw [hy, State.pool, hpools, State.pool]
  have hx : s.poolAssign c = (0, if (v.setFld (yardA 0x4C) 0 17 (v.fld (yardA 0x4C) 0 17 - c.count)).poolSt c.pool = stEmpty
      then (v.setFld (yardA 0x4C) 0 17 (v.fld (yardA 0x4C) 0 17 - c.count)).setPoolSt c.pool stAssembling
      else v.setFld (yardA 0x4C) 0 17 (v.fld (yardA 0x4C) 0 17 - c.count)) := by
    unfold State.poolAssign
    dsimp only
    rw [hst', hall, if_neg (by simp), if_neg (by simp [h0, Nat.not_lt.2 hle]), hpl, ← hv]
  have hvst : v.poolSt c.pool = s.poolSt c.pool := by
    rw [hv, State.poolSt_setPoolFrames, hy]
    rfl
  have hvf : ∀ f, v.frameSt f = if f ∈ upFrom c.first c.count then .pool c.pool else s.frameSt f := fun f => hv ▸ hfr f
  have hvp : (v.pool c.pool).frames = (s.pool c.pool).frames ++ upFrom c.first c.count := hv ▸ State.pool_setPoolFrames _ _ _
  rw [hx, State.poolSt_setFld_other (poolA_ne_yardA (by decide)).symm, hvst]
  refine ⟨rfl, ?_, fun f hf => ?_, ?_⟩
  · dsimp only
    split <;> exact hvp
  · have hpf := (hvf f).trans (if_pos hf)
    dsimp only
    split <;> exact hpf
  · dsimp only
    split
    · exact State.poolSt_setPoolSt _ _ _
    · rw [State.poolSt_setFld_other (poolA_ne_yardA (by decide)).symm, hvst]

/-- A pool command that the Yard accepts starts at once. -/
theorem State.poolWrite_starts {p : Fin 64} {op : Nat} (h1 : 1 ≤ op) (h4 : op ≤ 4) (h : s.ownTakes (yardA 0x54))
    (hb : s.blockOn .yard 0 = true) (hr : s.yard.running = none) (hc : s.yard.cmds = []) {c : PoolCmd}
    (he : c = ⟨p, op, s.fld (yardA 0x58) 0 17, s.fld (yardA 0x5C) 0 17⟩) :
    s.poolWrite p op = State.cmdStarted c ((s.cmdRuns c).runCmd c) :=
  (State.poolWrite_takes p h1 h4 h).trans (State.poolCmd_starts hb hr hc op he)

theorem poolAssign_completes {p : Fin 64} (h : s.ownTakes (yardA 0x54)) (hb : s.blockOn .yard 0 = true) (hr : s.yard.running = none)
    (hc : s.yard.cmds = []) (hst : s.poolSt p = stEmpty ∨ s.poolOpen p = true) (h0 : s.fld (yardA 0x5C) 0 17 ≠ 0)
    (hle : s.fld (yardA 0x58) 0 17 + s.fld (yardA 0x5C) 0 17 ≤ 49152)
    (hfree : ∀ f ∈ upFrom (s.fld (yardA 0x58) 0 17) (s.fld (yardA 0x5C) 0 17), s.frameSt f = .unassigned) :
    completes (.poolAssign p) s (fun t =>
      t.fld (yardA 0x60) 0 1 = 1 ∧ t.fld (yardA 0x60) 4 4 = 0 ∧
      (t.pool p).frames = (s.pool p).frames ++ upFrom (s.fld (yardA 0x58) 0 17) (s.fld (yardA 0x5C) 0 17) ∧
      (∀ f ∈ upFrom (s.fld (yardA 0x58) 0 17) (s.fld (yardA 0x5C) 0 17), t.frameSt f = .pool p) ∧
      t.poolSt p = (if s.poolSt p = stEmpty then stAssembling else s.poolSt p)) := by
  obtain ⟨c, he⟩ : ∃ c : PoolCmd, c = ⟨p, 1, s.fld (yardA 0x58) 0 17, s.fld (yardA 0x5C) 0 17⟩ := ⟨_, rfl⟩
  have hx : exec (.poolAssign p) s = .next (State.cmdStarted c ((s.cmdRuns c).poolAssign c)) := by
    have hrun : (s.cmdRuns c).runCmd c = (s.cmdRuns c).poolAssign c := State.runCmd_assign (by rw [he])
    rw [← hrun]
    exact congrArg Host.Outcome.next (State.poolWrite_starts (by decide) (by decide) h hb hr hc he)
  obtain ⟨a1, a2, a3, a4⟩ := State.poolAssign_done (s := s.cmdRuns c) (c := c) (by rw [he]; exact hst) (by rw [he]; exact h0)
    (by rw [he]; exact hle) (by rw [he]; exact hfree)
  obtain ⟨d1, d2, d3, d4, d5⟩ := State.cmdStarted_done (p := p) c a1
  have hcp : c.pool = p := by rw [he]
  rw [hcp] at a2 a3 a4
  refine completes_next hx ⟨d1, d2, ?_, fun f hf => ?_, d5.trans a4⟩
  · rw [State.pool, d3]
    refine a2.trans ?_
    rw [he]
    rfl
  · rw [State.frameSt, d3, d4]
    exact a3 f (by rw [he]; exact hf)

/-! ### RELEASE -/

theorem State.retireFrame_yard (s : State) (f : Nat) (o : Option Nat) : (s.retireFrame f o).yard =
      ((s.setFrameSt f .retired).withYard fun y => { y with retiring := y.retiring.filter (· != f) }).yard ∧
    (s.retireFrame f o).scrub = s.scrub := by
  unfold State.retireFrame
  dsimp only
  generalize hv : State.withYard _ _ = v
  have hvs : v.scrub = s.scrub := by rw [← hv]; rfl
  split
  · exact ⟨State.raise_yard _ _ _ _ _ _, (State.raise_scrub _ _ _ _ _ _).trans hvs⟩
  · exact ⟨State.raise_yard _ _ _ _ _ _, (State.raise_scrub _ _ _ _ _ _).trans hvs⟩

/-- A frame that does not wait for its retirement is released, or has been. -/
def State.leaves (s : State) (p f : Nat) : Prop := f ∉ s.yard.retiring ∧ (s.frameSt f = .pool p ∨ s.frameSt f = .unassigned)

theorem State.releaseFrame_leaves {f : Nat} (h : s.leaves p f) (g : Nat) : (s.releaseFrame p g).leaves p f ∧
    (g = f ∨ s.frameSt f = .unassigned → (s.releaseFrame p g).frameSt f = .unassigned) := by
  obtain ⟨hret, hst⟩ := h
  unfold State.releaseFrame
  split
  next hg =>
    have hne : f ≠ g := fun e => hret (by rw [e]; exact List.contains_iff_mem.1 hg)
    obtain ⟨h1, h2⟩ := s.retireFrame_yard g (some p)
    have hfr : (s.retireFrame g (some p)).frameSt f = s.frameSt f := by
      rw [State.frameSt, h1, h2]
      exact (State.frameSt_setFrameSt s g f .retired).trans (if_neg hne)
    refine ⟨⟨?_, hfr ▸ hst⟩, fun hor => ?_⟩
    · rw [h1]
      exact fun hm => hret (List.mem_of_mem_filter hm)
    · obtain e | e := hor
      · exact absurd e.symm hne
      · rw [hfr, e]
  next hg =>
    split
    next hp =>
      have hfr : ((s.setFrameSt g .unassigned).addFld (yardA 0x4C) 0 17 1).frameSt f =
        if f = g then .unassigned else s.frameSt f := State.frameSt_setFrameSt s g f .unassigned
      by_cases e : f = g
      · rw [if_pos e] at hfr
        exact ⟨⟨hret, .inr hfr⟩, fun _ => hfr⟩
      · rw [if_neg e] at hfr
        refine ⟨⟨hret, hfr ▸ hst⟩, fun hor => ?_⟩
        obtain e' | e' := hor
        · exact absurd e'.symm e
        · rw [hfr, e']
    next hp =>
      refine ⟨⟨hret, hst⟩, fun hor => ?_⟩
      obtain e | e := hor
      · exact hst.resolve_left (e ▸ hp)
      · exact e

theorem State.foldl_releaseFrame {f : Nat} (l : List Nat) {s : State} (h : s.leaves p f) :
    f ∈ l ∨ s.frameSt f = .unassigned → (l.foldl (fun (s : State) g => s.releaseFrame p g) s).frameSt f = .unassigned := by
  induction l generalizing s with
  | nil => exact fun hor => hor.resolve_left List.not_mem_nil
  | cons g l ih =>
    obtain ⟨h1, h2⟩ := State.releaseFrame_leaves h g
    refine fun hor => ih h1 ?_
    obtain hm | hu := hor
    · obtain e | hm := List.mem_cons.1 hm
      · exact .inr (h2 (.inl e.symm))
      · exact .inl hm
    · exact .inr (h2 (.inr hu))

theorem poolRelease_completes {p : Fin 64} (h : s.ownTakes (yardA 0x54)) (hb : s.blockOn .yard 0 = true) (hr : s.yard.running = none)
    (hc : s.yard.cmds = []) (ho : s.poolOpen p = true) (h0 : s.fld (yardA 0x5C) 0 17 ≠ 0)
    (hle : s.fld (yardA 0x5C) 0 17 ≤ (s.pool p).frames.length)
    (hs : sortBy (fun a b => decide (a < b)) ((s.pool p).frames.drop ((s.pool p).frames.length - s.fld (yardA 0x5C) 0 17)) =
      upFrom (s.fld (yardA 0x58) 0 17) (s.fld (yardA 0x5C) 0 17)) :
    completes (.poolRelease p) s (fun t => t.fld (yardA 0x60) 0 1 = 1 ∧ t.fld (yardA 0x60) 4 4 = 0 ∧
      (t.pool p).frames = (s.pool p).frames.take ((s.pool p).frames.length - s.fld (yardA 0x5C) 0 17) ∧
      ∀ f ∈ (s.pool p).frames.drop ((s.pool p).frames.length - s.fld (yardA 0x5C) 0 17), s.frameSt f = .pool p →
        f ∉ s.yard.retiring → t.frameSt f = .unassigned) := by
  obtain ⟨c, he⟩ : ∃ c : PoolCmd, c = ⟨p, 2, s.fld (yardA 0x58) 0 17, s.fld (yardA 0x5C) 0 17⟩ := ⟨_, rfl⟩
  obtain ⟨k, hk⟩ : ∃ k, k = (s.pool p).frames.length - s.fld (yardA 0x5C) 0 17 := ⟨_, rfl⟩
  rw [← hk] at hs
  rw [← hk]
  obtain ⟨r, hrel⟩ : ∃ r : Nat × State, r = (0, (((s.pool p).frames.drop k).foldl (fun (s : State) f => s.releaseFrame p f)
    (s.cmdRuns c)).setPoolFrames p ((s.pool p).frames.take k)) := ⟨_, rfl⟩
  have hx : exec (.poolRelease p) s = .next (State.cmdStarted c r) := by
    have hrun : (s.cmdRuns c).runCmd c = r := by
      have hcond : ¬ (s.fld (yardA 0x5C) 0 17 = 0 ∨ (s.pool p).frames.length < s.fld (yardA 0x5C) 0 17 ∨
          sortBy (fun a b => decide (a < b)) ((s.pool p).frames.drop k) ≠ upFrom (s.fld (yardA 0x58) 0 17) (s.fld (yardA 0x5C) 0 17)) := by
        simp [h0, Nat.not_lt.2 hle, hs]
      have ho' : (s.cmdRuns c).poolOpen p = true := ho
      have hrel' : (s.cmdRuns c).poolRelease c = r := by
        unfold State.poolRelease
        have e1 : c.pool = p := by rw [he]
        have e2 : c.count = s.fld (yardA 0x5C) 0 17 := by rw [he]
        have e3 : c.first = s.fld (yardA 0x58) 0 17 := by rw [he]
        have e4 : (s.cmdRuns c).pool p = s.pool p := rfl
        dsimp only
        rw [e1, e2, e3, e4, ho', Bool.not_true, if_neg Bool.false_ne_true, ← hk, if_neg hcond, hrel]
      exact (State.runCmd_release (by rw [he])).trans hrel'
    rw [← hrun]
    exact congrArg Host.Outcome.next (State.poolWrite_starts (by decide) (by decide) h hb hr hc he)
  obtain ⟨d1, d2, d3, d4, -⟩ := State.cmdStarted_done (p := p) c (r := r) (by rw [hrel])
  refine completes_next hx ⟨d1, d2, ?_, fun f hf hst hret => ?_⟩
  · rw [State.pool, d3, hrel]
    exact State.pool_setPoolFrames _ _ _
  · rw [State.frameSt, d3, d4, hrel]
    exact State.foldl_releaseFrame _ (s := s.cmdRuns c) ⟨hret, .inl hst⟩ (.inl hf)

theorem poolRelease_refused {p : Fin 64} (h : s.ownTakes (yardA 0x54)) (hb : s.blockOn .yard 0 = true) (hr : s.yard.running = none)
    (hc : s.yard.cmds = []) (ho : s.poolOpen p = false) :
    completes (.poolRelease p) s (fun t => t.fld (yardA 0x60) 4 4 = 1 ∧
      t.logged s.gts 0x1110 0x11E8 [.w p, .w 2, .w 1] 0xFF 0xFF ∧ (t.pool p).frames = (s.pool p).frames) := by
  obtain ⟨c, he⟩ : ∃ c : PoolCmd, c = ⟨p, 2, s.fld (yardA 0x58) 0 17, s.fld (yardA 0x5C) 0 17⟩ := ⟨_, rfl⟩
  obtain ⟨u, hu⟩ : ∃ u, u = ((s.cmdRuns c).setFld (yardA 0x60) 0 1 1).setFld (yardA 0x60) 4 4 1 := ⟨_, rfl⟩
  have hx : exec (.poolRelease p) s = .next (u.raise 0x1110 0x11E8 [.w p, .w 2, .w 1]) := by
    have ho' : (s.cmdRuns c).poolOpen p = false := ho
    have hrel : (s.cmdRuns c).poolRelease c = (1, s.cmdRuns c) := by
      have e1 : c.pool = p := by rw [he]
      unfold State.poolRelease
      dsimp only
      rw [e1, ho', Bool.not_false, if_pos rfl]
    have hrun : (s.cmdRuns c).runCmd c = (1, s.cmdRuns c) :=
      (State.runCmd_release (by rw [he])).trans hrel
    have hst : State.cmdStarted c (1, s.cmdRuns c) = u.raise 0x1110 0x11E8 [.w p, .w 2, .w 1] := by
      rw [State.cmdStarted, if_neg Nat.one_ne_zero, hu, he]
    rw [← hst, ← hrun]
    exact congrArg Host.Outcome.next (State.poolWrite_starts (by decide) (by decide) h hb hr hc he)
  have hug : u.gts = s.gts := by rw [hu]; rfl
  refine completes_next hx ⟨?_, hug ▸ State.raise_logged _ _ _ _ _ _, ?_⟩
  · rw [State.raise_fld _ _ _ _ _ _ _ _ (by decide) (by decide), hu]
    exact State.fld_setFld _ _ _ _ _ (by decide)
  · rw [State.pool, State.raise_yard, hu]
    rfl

/-! ### CREATE -/

/-- A pool's configuration word and its number of pages are those of `z`. -/
structure State.CfgKept (p : Nat) (z t : State) : Prop where
  cfg : t.rd (poolA p 0) = z.rd (poolA p 0)
  npages : (t.pool p).npages = (z.pool p).npages

section
variable {z u : State}

theorem State.CfgKept.refl : State.CfgKept p s s := ⟨rfl, rfl⟩

theorem State.CfgKept.ite {c : Prop} {_ : Decidable c} (h : State.CfgKept p z s) (k : State.CfgKept p z u) :
    State.CfgKept p z (if c then s else u) := by split <;> assumption

theorem State.CfgKept.foldl {α : Type} {f : State → α → State} (hf : ∀ u x, State.CfgKept p z u → State.CfgKept p z (f u x))
    (l : List α) (h : State.CfgKept p z s) : State.CfgKept p z (l.foldl f s) := by
  induction l generalizing s with
  | nil => exact h
  | cons x r ih => exact ih (hf s x h)

theorem State.CfgKept.setFld (h : State.CfgKept p z s) {a : Nat} (ha : a ≠ poolA p 0) (lo w n : Nat) :
    State.CfgKept p z (s.setFld a lo w n) := ⟨(State.rd_setFld_other _ _ _ _ ha).trans h.cfg, h.npages⟩

theorem State.CfgKept.retireFrame (h : State.CfgKept p z s) (f : Nat) (o : Option Nat) : State.CfgKept p z (s.retireFrame f o) := by
  have taken : State.CfgKept p z ((s.setFrameSt f .retired).withYard fun y => { y with retiring := y.retiring.filter (· != f) }) :=
    ⟨h.cfg, h.npages⟩
  have raised : ∀ u : State, State.CfgKept p z u → ∀ l,
      State.CfgKept p z ((u.raise 0x1110 0x21E4 l).evalWanted 6) := fun u hu l => by
    refine ⟨(State.raise_rd _ _ _ _ _ _ (poolA_ne_evr (by decide)) (poolA_ne_evr (by decide))).trans hu.cfg, ?_⟩
    refine Eq.trans ?_ hu.npages
    rw [State.pool, State.pool]
    exact congrArg (fun y : Yard => (y.pools.look ⟨[], 0, []⟩ p).npages) (State.raise_yard _ _ _ _ _ _)
  have counted := taken.setFld (poolA_ne_yardA (p := p) (o := 0) (k := 0x50) (by decide)).symm
  unfold State.retireFrame
  refine raised _ (State.CfgKept.setFld (.ite ((counted _ _ _).setFld (poolA_ne_yardA (by decide)).symm _ _ _) (counted _ _ _))
    poolA_ne_sbox.symm _ _ _) _

theorem State.CfgKept.settleFrames (h : State.CfgKept p z s) : State.CfgKept p z (s.settleFrames p) :=
  .foldl (fun _ _ h => .ite (.ite ((h.retireFrame _ _).setFld (poolA_ne_poolA (by decide)) _ _ _) h) h) _ h

theorem State.CfgKept.putKv (h : State.CfgKept p z s) (P : Nat) (k : KvPage) : State.CfgKept p z (s.putKv p P k) := by
  refine ⟨h.cfg, Eq.trans ?_ h.npages⟩
  have hl := Tbl.look_put_same s.yard.pools ⟨[], 0, []⟩ p { s.pool p with pages := (s.pool p).pages.put P k }
  exact (congrArg Pool.npages hl).trans rfl

theorem State.CfgKept.markFrames (h : State.CfgKept p z s) : State.CfgKept p z (s.markFrames p) := by
  have marked := State.CfgKept.foldl (fun (s : State) f h => State.CfgKept.foldl (fun (s : State) P h =>
    h.putKv P { s.kvPage p P with retire := true, st := if (s.kvPage p P).st = .free then .dead else (s.kvPage p P).st })
      (s.pagesOn p ((s.pool p).frames.idxOf f)) h) (s.yard.retiring.filter fun f => s.frameSt f = .pool p) h
  exact ((marked.setFld (poolA_ne_poolA (by decide)) _ _ _).setFld (poolA_ne_poolA (by decide)) _ _ _).settleFrames

theorem State.CfgKept.countSeqs (h : State.CfgKept p z s) : State.CfgKept p z (s.countSeqs p) :=
  (h.setFld (poolA_ne_poolA (by decide)) _ _ _).setFld (poolA_ne_poolA (by decide)) _ _ _

theorem State.CfgKept.clearKeys (h : State.CfgKept p z s) (a b : Nat) : State.CfgKept p z (s.clearKeys a b) := ⟨h.cfg, h.npages⟩

end

/-- The pool of a KV command becomes active with its pages (10 R343, R344). -/
theorem State.poolCreate_kv {c : PoolCmd} {n : Nat} (h1 : s.poolSt c.pool = stAssembling) (h2 : s.metaOk = true) (h3 : s.poolKind c.pool = 2)
    (h4 : s.kvValid c.pool = some n) : (s.poolCreate c).1 = 0 ∧ (s.poolCreate c).2.poolSt c.pool = stActive ∧
      ((s.poolCreate c).2.pool c.pool).npages = n := by
  obtain ⟨z, hz⟩ : ∃ z, z = (s.makeMeta.setPoolSt c.pool stActive).updPool c.pool fun q => { q with npages := n, pages := [] } := ⟨_, rfl⟩
  have hx : s.poolCreate c = (0, ((((z.spansOf c.pool 0 (z.pageOff c.pool 0)).foldl (fun (s : State) (k : Nat × Nat) =>
      s.clearKeys k.1 (k.1 + k.2)) z).markFrames c.pool).countSeqs c.pool)) := by
    unfold State.poolCreate
    dsimp only
    rw [if_neg (by simp [h1]), h2, if_neg (by simp), if_pos h3, h4, hz]
  have hk : State.CfgKept c.pool z (s.poolCreate c).2 := by
    rw [hx]
    exact (State.CfgKept.foldl (fun _ _ h => h.clearKeys _ _) _ .refl).markFrames.countSeqs
  have hst : z.poolSt c.pool = stActive := by
    rw [hz]
    exact State.poolSt_setPoolSt _ _ _
  refine ⟨by rw [hx], ?_, hk.npages.trans ?_⟩
  · rw [State.poolSt_eq, State.fld, hk.cfg]
    exact hst
  · rw [hz]
    exact congrArg Pool.npages (Tbl.look_put_same _ _ c.pool { (s.makeMeta.setPoolSt c.pool stActive).pool c.pool with npages := n, pages := [] })

theorem poolCreate_completes {p : Fin 64} {n : Nat} (h : s.ownTakes (yardA 0x54)) (hb : s.blockOn .yard 0 = true)
    (hr : s.yard.running = none) (hc : s.yard.cmds = []) (h1 : s.poolSt p = stAssembling) (h2 : s.metaOk = true) (h3 : s.poolKind p = 2)
    (h4 : s.kvValid p = some n) :
    completes (.poolCreate p) s (fun t => t.fld (yardA 0x60) 4 4 = 0 ∧ t.poolSt p = stActive ∧ (t.pool p).npages = n) := by
  obtain ⟨c, he⟩ : ∃ c : PoolCmd, c = ⟨p, 3, s.fld (yardA 0x58) 0 17, s.fld (yardA 0x5C) 0 17⟩ := ⟨_, rfl⟩
  have hcp : c.pool = p := by rw [he]
  have hx : exec (.poolCreate p) s = .next (State.cmdStarted c ((s.cmdRuns c).poolCreate c)) := by
    rw [← State.runCmd_create (by rw [he])]
    exact congrArg Host.Outcome.next (State.poolWrite_starts (by decide) (by decide) h hb hr hc he)
  obtain ⟨a1, a2, a3⟩ := State.poolCreate_kv (s := s.cmdRuns c) (c := c) (n := n) (by rw [hcp]; exact h1) h2 (by rw [hcp]; exact h3)
    (by rw [hcp]; exact h4)
  obtain ⟨-, d2, d3, -, d5⟩ := State.cmdStarted_done (p := p) c a1
  rw [hcp] at a2 a3
  refine completes_next hx ⟨d2, d5.trans a2, ?_⟩
  rw [State.pool, d3]
  exact a3

theorem poolCreate_plain {p : Fin 64} (h : s.ownTakes (yardA 0x54)) (hb : s.blockOn .yard 0 = true)
    (hr : s.yard.running = none) (hc : s.yard.cmds = []) (h1 : s.poolSt p = stAssembling) (h2 : s.metaOk = true) (h3 : s.poolKind p ≠ 2)
    (h4 : s.plainValid p = true) :
    completes (.poolCreate p) s (fun t => t.fld (yardA 0x60) 4 4 = 0 ∧ t.poolSt p = stActive) := by
  obtain ⟨c, he⟩ : ∃ c : PoolCmd, c = ⟨p, 3, s.fld (yardA 0x58) 0 17, s.fld (yardA 0x5C) 0 17⟩ := ⟨_, rfl⟩
  have hcp : c.pool = p := by rw [he]
  have hrun : (s.cmdRuns c).poolCreate c = (0, (s.cmdRuns c).makeMeta.setPoolSt p stActive) := by
    have h1' : (s.cmdRuns c).poolSt p = stAssembling := h1
    have h2' : (s.cmdRuns c).metaOk = true := h2
    have h3' : (s.cmdRuns c).poolKind p ≠ 2 := h3
    have h4' : (s.cmdRuns c).plainValid p = true := h4
    unfold State.poolCreate
    dsimp only
    rw [hcp, if_neg (by simp [h1']), h2', if_neg (by simp), if_neg h3', if_pos h4']
  have hx : exec (.poolCreate p) s = .next (State.cmdStarted c (0, (s.cmdRuns c).makeMeta.setPoolSt p stActive)) := by
    rw [← hrun, ← State.runCmd_create (by rw [he])]
    exact congrArg Host.Outcome.next (State.poolWrite_starts (by decide) (by decide) h hb hr hc he)
  obtain ⟨-, d2, -, -, d5⟩ := State.cmdStarted_done (p := p) c (r := (0, (s.cmdRuns c).makeMeta.setPoolSt p stActive)) rfl
  exact completes_next hx ⟨d2, d5.trans (State.poolSt_setPoolSt _ _ _)⟩

/-! ### DESTROY -/

theorem Tbl.look_del_same {α : Type} (t : Tbl α) (d : α) (k : Nat) : (t.del k).look d k = d := by
  induction t with
  | nil => rfl
  | cons e t ih =>
    obtain ⟨j, v⟩ := e
    unfold Tbl.del at ih ⊢
    by_cases h : j = k
    · simpa [h] using ih
    · simpa [h, Tbl.look] using ih

/-- The pool is empty (10 R343). -/
def State.emptied (s : State) (p : Nat) : State :=
  ((((s.withYard fun y => { y with pools := y.pools.del p, reqs := y.reqs.filter fun r => r.pool != p }).setPoolSt p stEmpty
    |>.setFld (poolA p 0x10) 0 24 0).setFld (poolA p 0x14) 0 24 0).setFld (poolA p 0x18) 0 17 0).wr (poolA p 0x1C) 0

theorem State.emptied_empty (s : State) (p : Nat) : (s.emptied p).poolSt p = stEmpty ∧ ((s.emptied p).pool p).frames = [] := by
  refine ⟨?_, ?_⟩
  · rw [State.emptied, State.poolSt_eq, State.fld, State.rd_wr_other _ _ (poolA_ne_poolA (by decide)),
      State.rd_setFld_other _ _ _ _ (poolA_ne_poolA (by decide)), State.rd_setFld_other _ _ _ _ (poolA_ne_poolA (by decide)),
      State.rd_setFld_other _ _ _ _ (poolA_ne_poolA (by decide))]
    exact State.poolSt_setPoolSt _ _ _
  · exact congrArg Pool.frames (Tbl.look_del_same s.yard.pools _ p)

theorem poolDestroy_completes {p : Fin 64} (h : s.ownTakes (yardA 0x54)) (hb : s.blockOn .yard 0 = true)
    (hr : s.yard.running = none) (hc : s.yard.cmds = []) (h1 : s.poolSt p ≠ stEmpty)
    (h2 : s.poolSt p = stActive → s.poolKind p = 2 → s.seqsIn p = []) :
    completes (.poolDestroy p) s (fun t => t.fld (yardA 0x60) 4 4 = 0 ∧ t.poolSt p = stEmpty ∧ (t.pool p).frames = []) := by
  obtain ⟨c, he⟩ : ∃ c : PoolCmd, c = ⟨p, 4, s.fld (yardA 0x58) 0 17, s.fld (yardA 0x5C) 0 17⟩ := ⟨_, rfl⟩
  have hcp : c.pool = p := by rw [he]
  obtain ⟨v, hrun⟩ : ∃ v : State, (s.cmdRuns c).poolDestroy c = (0, v.emptied p) := by
    have h1' : (s.cmdRuns c).poolSt p ≠ stEmpty := h1
    have h2' : ¬ ((s.cmdRuns c).poolSt p = stActive ∧ (s.cmdRuns c).poolKind p = 2 ∧ (!((s.cmdRuns c).seqsIn p).isEmpty) = true) :=
      fun ⟨e1, e2, e3⟩ => by
        have e4 : (s.cmdRuns c).seqsIn p = [] := h2 e1 e2
        simp [e4] at e3
    unfold State.poolDestroy
    dsimp only
    rw [hcp, if_neg h1', if_neg h2']
    exact ⟨_, rfl⟩
  have hx : exec (.poolDestroy p) s = .next (State.cmdStarted c (0, v.emptied p)) := by
    rw [← hrun, ← State.runCmd_destroy (by rw [he])]
    exact congrArg Host.Outcome.next (State.poolWrite_starts (by decide) (by decide) h hb hr hc he)
  obtain ⟨-, d2, d3, -, d5⟩ := State.cmdStarted_done (p := p) c (r := (0, v.emptied p)) rfl
  obtain ⟨e1, e2⟩ := v.emptied_empty p
  refine completes_next hx ⟨d2, d5.trans e1, ?_⟩
  rw [State.pool, d3]
  exact e2

/-! ### The end of a command -/

theorem poolCmdDone_completes {c : PoolCmd} (hr : s.yard.running = some c) (hc : s.yard.cmds = []) :
    completes .poolCmdDone s (fun t => t.yard.running = none ∧ t.fld (yardA 0x60) 0 1 = 0 ∧
      t.fld (yardA 0x60) 16 16 = (s.fld (yardA 0x60) 16 16 + 1) % 65536 ∧ t.mem = s.mem) := by
  obtain ⟨u, hu⟩ : ∃ u, u = ((s.withYard fun y => { y with running := none }).setFld (yardA 0x60) 0 1 0).addFld (yardA 0x60) 16 16 1 :=
    ⟨_, rfl⟩
  have hur : u.yard.running = none := by rw [hu]; rfl
  have huc : u.yard.cmds = [] := by rw [hu]; exact hc
  have hx : exec .poolCmdDone s = .next u := by
    have hst : u.startCmd = u := by rw [State.startCmd, hur, huc]
    show execPoolCmdDone s = _
    unfold execPoolCmdDone
    rw [hr]
    dsimp only
    rw [← hu, hst]
  refine completes_next hx ⟨hur, ?_, ?_, by rw [hu]; rfl⟩
  · rw [hu, State.addFld, State.fld_setFld_apart _ _ _ _ _ _ _ (by decide) (by decide)]
    exact State.fld_setFld _ _ _ _ _ (by decide)
  · rw [hu, State.addFld, State.fld_setFld _ _ _ _ _ (by decide), State.fld_setFld_apart _ _ _ _ _ _ _ (by decide) (by decide)]
    rfl

end

/-- Settles O37. -/
theorem poolCommands : Obligations.PoolCommands :=
  fun _ _ => ⟨fun h hb hr hc => ⟨fun hst h0 hle hfree => poolAssign_completes h hb hr hc hst h0 hle hfree,
    fun ho h0 hle hs => poolRelease_completes h hb hr hc ho h0 hle hs, fun ho => poolRelease_refused h hb hr hc ho,
    fun _ h1 h2 h3 h4 => poolCreate_completes h hb hr hc h1 h2 h3 h4, fun h1 h2 h3 h4 => poolCreate_plain h hb hr hc h1 h2 h3 h4,
    fun h1 h2 => poolDestroy_completes h hb hr hc h1 h2⟩, fun _ hr hc => poolCmdDone_completes hr hc⟩

end Sys2Proof.Machine
end

section
/-! Events of sequences whose context no register names (O38, O39). -/

namespace Sys2Proof.Machine

/-- A SEQ_APPEND of context 0 without input. -/
def strayDesc : Desc :=
  { uid := 1, ctx := 0, sq := 0, pos := 0, epoch := 0, bits := 0, started := true, ending := false, fetchedAt := 0, startedAt := 0,
    startedNow := 0 }

def strayAppend : Appending :=
  { desc := strayDesc, tokens := [], pretoks := [], inLeft := 0, appended := 0, generated := 0, written := 0, gang := none, row := none,
    maskReady := false, vocab := none, grammar := none, invalidBytes := 0, splits := 0, nonfinite := 0, readyAt := 0 }

/-- Sequence 0 belongs to a context whose entry of HOST.CTX_FUNC would lie at SAMP's count of discarded rows (02 R47, 11 R395):
the premises of O38 and O39 do not bound a sequence's context. -/
def straySeq : Seq :=
  { newSeq strayDesc (modelHdr []) 0 0 with ctx := 0x20184C, ops := [1], act := some strayAppend }

def strayReq : PageReq := ⟨.restore, 0, 0, 0, none, 0, some 0⟩

def strayTransfer : Transfer := ⟨.fetch, 0, 0, 0, 0, 0, 0, none, 0⟩

/-- The header of a page that shows an event already. -/
def eventful : Page := { Page.reset false with evRaw := 1, evEn := 1 }

/-- The sequence's row waits for its token step, and the Yard has a request or a transfer of it. -/
def strayBefore : State :=
  { State.reset with
    now := 0x10000000000
    pages := [(0x102, eventful), (0x104, eventful)]
    text := { State.reset.text with seqs := [(0, straySeq)], rows := [0] }
    yard := { State.reset.yard with reqs := [strayReq], transfers := [strayTransfer] } }

/-- Refutes O38: the failed request is logged with the function that the register names when it is raised; the end of the
append then counts its discarded row in that register, so the event's FUNC is not that of its context any more. -/
theorem not_pagesAreGrantedCopiedAndRefused : ¬ Obligations.PagesAreGrantedCopiedAndRefused := by
  intro h
  obtain ⟨-, hwait, -⟩ := h
  obtain ⟨t, ht, -, hlog⟩ := hwait 0 strayBefore strayReq (by decide +kernel)
  have hx : exec (.allocWaitTimeout 0) strayBefore =
      .next (((strayBefore.addFld (yardA 0x8C) 0 32 1).raise 0x1110 0x21E2 [.w 0, .w 4] 0x20184C).failReq strayReq) := rfl
  obtain rfl := Host.Outcome.next.inj (hx.symm.trans ht)
  unfold State.logged at hlog
  exact absurd hlog (by decide +kernel)

/-- Refutes O39: the lost record is logged before its sequence's append ends, and that end counts the discarded row in the
register from which the event's FUNC is read. -/
theorem not_pagesMoveFlushAndRetire : ¬ Obligations.PagesMoveFlushAndRetire := by
  intro h
  obtain ⟨⟨hfetch, -⟩, -⟩ := h
  obtain ⟨-, hlost⟩ := hfetch 0 0 strayBefore strayTransfer straySeq (by decide +kernel) (by decide +kernel) (by decide +kernel)
  obtain ⟨t, ht, -, hlog⟩ := hlost rfl rfl
  have hx : exec (.fetchDone 0 0 true) strayBefore =
      .next (((((strayBefore.dropTransfer strayTransfer).freeDst strayTransfer).badRec 0).raise 0x1112 0x31E5
        [.w (((strayBefore.dropTransfer strayTransfer).freeDst strayTransfer).badRec 0 |>.seqHandle 0), .w 0] 0x20184C).loseSeq 0
          .eccUncorrectable) := rfl
  obtain rfl := Host.Outcome.next.inj (hx.symm.trans ht)
  unfold State.logged at hlog
  exact absurd hlog (by decide +kernel)

end Sys2Proof.Machine
end

section
/-! Decode streams (O40) and tensor taps (O41). -/

namespace Sys2Proof.Machine

/-! ### Media tables -/

section
variable {s t : State} {n i : Nat} {d : DecStream}

theorem State.dec_congr (h : t.media.decs = s.media.decs) (n : Nat) : t.dec n = s.dec n := congrArg (Tbl.look? · n) h

@[simp] theorem State.raise_dec (src code : Nat) (data : List EvVal) (ctx func : Nat) :
    (s.raise src code data ctx func).dec n = s.dec n := by simp [State.dec]

@[simp] theorem State.setFld_dec (a lo w v : Nat) : (s.setFld a lo w v).dec n = s.dec n := rfl

theorem State.encSkip_decs (l : Bool) : (s.encSkip i l).media.decs = s.media.decs := by
  unfold State.encSkip
  dsimp only
  split
  · rfl
  · split
    · rw [State.raise_media]; rfl
    · rfl

theorem State.skipLinked_dec (g : Nat) (had : List Nat) : (s.skipLinked i g had).dec n = s.dec n :=
  State.dec_congr (foldl_kept (fun u : State => u.media.decs) _ (fun _ _ => State.encSkip_decs _) _ _) n

theorem State.Stored.media {z s : State} (h : z.Stored s) : s.media = z.media := by
  obtain ⟨r, m, p, l, x, b, f, rfl⟩ := h
  rfl

theorem State.Stored.storeAt {z s : State} (h : z.Stored s) (a : Word64) (bs : List Byte) : z.Stored (s.storeAt a bs) := by
  unfold State.storeAt
  split
  · exact h.store _ _
  · exact h

/-! ### Records of a stream -/

theorem State.endAu_recorded (c q : Nat) (r : AuRec) (st : Status) (result number : Nat) :
    (s.endAu c q r st result number).recorded c q r st result number :=
  ⟨_, List.mem_append_right _ (List.mem_singleton_self _), rfl, rfl, rfl, rfl, rfl, rfl, rfl, rfl⟩

theorem State.rejectAu_recorded (src c q : Nat) (r : AuRec) (st : Status) (result number : Nat) :
    (s.rejectAu src c q r st result number).recorded c q r st result number := State.endAu_recorded _ _ _ _ _ _

theorem State.sqHead_bumpHead (c q : Nat) : (s.bumpHead c q).sqHead c q = s.sqHead c q + 1 := State.rd_wr_same _ _ _

theorem State.sqHead_raise {c q : Nat} (src code : Nat) (data : List EvVal) (ctx func : Nat) :
    (s.raise src code data ctx func).sqHead c q = s.sqHead c q := by
  have h1 : slotOf .ctx c = 0x200 + c := rfl
  have h2 : slotOf .evr 0 = 2 := rfl
  refine s.raise_rd src code data ctx func ?_ ?_ <;> (unfold cr ro; rw [h1, h2]; omega)

theorem State.sqHead_rejectAu {c q : Nat} (src : Nat) (r : AuRec) (st : Status) (result number : Nat) :
    (s.rejectAu src c q r st result number).sqHead c q = s.sqHead c q := State.sqHead_raise _ _ _ _ _

theorem State.enterWaiting_dec (h : s.dec i = some d) (c : Nat) :
    ((s.enterWaiting i c).dec i).map DecStream.waiting = some true := by
  unfold State.enterWaiting
  simp only [h]
  split
  case isTrue hw => simp [h, hw]
  case isFalse hw => rw [State.raise_dec, State.dec_setDec]; rfl

theorem State.enterWaiting_sqHead {c q : Nat} (core : Nat) :
    (s.enterWaiting i core).sqHead c q = s.sqHead c q := by
  unfold State.enterWaiting
  split
  · rfl
  · split
    · rfl
    · exact State.sqHead_raise _ _ _ _ _

/-! ### Reading a record and its boxes -/

theorem State.poisonAt_clean (h : s.clean) (a : Word64) (k : Nat) : s.poisonAt a k = none := by
  unfold State.poisonAt
  cases addrKey a with
  | none => rfl
  | some x =>
    rw [Option.bind_some, h.1]
    split <;> rfl

theorem State.touchAt_clean (h : s.clean) (a : Word64) (k : Nat) : s.touchAt a k = s := by
  unfold State.touchAt
  split
  · split
    · rfl
    · exact State.touch_of_latent h.2 _ _
  · rfl

/-! ### A picture starts -/

theorem State.Stored.writePicture {z s : State} (h : z.Stored s) (d : DecStream) (p : Picture) (b : Nat) :
    z.Stored (s.writePicture d p b) := by
  unfold State.writePicture
  dsimp only
  split
  · exact h
  · refine .ite ?_ ?_
    · exact .foldl (fun _ _ h1 => (h1.poolStore _ _ _).poolStore _ _ _) _ (.foldl (fun _ _ h1 => h1.poolStore _ _ _) _ h)
    · exact .foldl (fun _ _ h1 => h1.poolStore _ _ _) _ (.foldl (fun _ _ h1 => h1.poolStore _ _ _) _
        (.foldl (fun _ _ h1 => h1.poolStore _ _ _) _ h))

theorem State.writeUnshown_shown {p : Picture} (h : p.hidden = []) : s.writeUnshown d p = s := by
  unfold State.writeUnshown
  rw [h]
  rfl

/-- The stream once its first record is taken (12 R419). -/
def DecStream.taken (d : DecStream) (rest : List AuRec) : DecStream := { d with queue := rest, begun := d.begun + 1 }

/-- The picture of a record that starts one, and the stream that has it (12 R419, R423). -/
def DecStream.begins (d : DecStream) (c : Fin 4) (pic : PicInfo) (r : AuRec) (serial : Nat) : Picture :=
  { entry := r, core := c, info := pic, stale := false, number := d.begun, serial := serial,
    hidden := d.unused.take pic.hidden.length, buf := pic.existing.getD (d.unused.getD pic.hidden.length 0),
    taps := d.taps.map fun t => ⟨t.1, t.2.cfg, false, false, 0, 0⟩,
    overrun := false, linked := [] }

def DecStream.showing (d : DecStream) (rest : List AuRec) (pic : PicInfo) : DecStream :=
  { d.taken rest with waiting := false, skipRasl := d.waiting || (d.skipRasl && !pic.rap) }

/-- A record taken without a picture: the stream's and its linked encoders' counts (12 R428). -/
def State.passesOver (s : State) (n : Nat) (d : DecStream) (r : AuRec) : State :=
  (s.setDec n { d with others := d.others + 1 }).skipLinked n (recNat r.bits 24 8) []

theorem State.passesOver_dec (r : AuRec) : (s.passesOver n d r).dec n = some { d with others := d.others + 1 } := by
  unfold State.passesOver
  rw [State.skipLinked_dec, State.dec_setDec]

/-- The core's status word when it takes a picture of context `ctx` (12 R418). -/
def State.takeDecoder (s : State) (c ctx : Nat) : State :=
  ((s.setFld (ro .dec c 0x40) 0 1 1).setFld (ro .dec c 0x40) 8 8 ctx).setFld (ro .dec c 0x40) 16 16 0

theorem State.takeDecoder_busy (c ctx : Nat) : (s.takeDecoder c ctx).bit (ro .dec c 0x40) 0 = true := by
  unfold State.takeDecoder State.bit
  rw [State.fld_setFld_apart _ _ _ _ _ _ _ (by decide) (by decide), State.fld_setFld_apart _ _ _ _ _ _ _ (by decide) (by decide),
    State.fld_setFld _ _ _ _ _ (by decide)]
  rfl

theorem State.takeDecoder_dec (c ctx : Nat) : (s.takeDecoder c ctx).dec n = s.dec n := rfl

theorem State.takeDecoder_mem (c ctx : Nat) : (s.takeDecoder c ctx).mem = s.mem := rfl

def State.beginPicture (s : State) (n : Nat) (d' : DecStream) (p : Picture) (k : Nat) : State :=
  (State.writeUnshown { s with free := s.free + k + 1 } d' p).setDec n { d' with pic := some p }

end

/-! ### Dispatch -/

section
variable {n : Nat} {s : State} {d : DecStream} {c : Fin 4} {pic : PicInfo} {r : AuRec} {rest : List AuRec}

/-- What lets a core take the first record of a stream (12 R418, R419). -/
structure Dispatches (n : Nat) (s : State) (d : DecStream) (c : Fin 4) (pic : PicInfo) (r : AuRec) (rest : List AuRec) : Prop where
  stream : s.dec n = some d
  queue : d.queue = r :: rest
  clean : s.clean
  goes : s.blockGoes .dec c = true
  thawed : s.frozen .dec c = false
  idle : s.bit (ro .dec c 0x40) 0 = false
  ready : s.decReady c d = true
  first : s.decFirst c d = true
  steady : d.changes = []
  plain : recNat r.bits 1 1 / 4 % 2 = 0
  fits : picBeyond d pic = false

theorem Dispatches.passes (h : Dispatches n s d c pic r rest) (hw : ((d.waiting && !pic.rap) || (d.skipRasl && pic.rasl)) = true) :
    exec (.decodeDispatch c n pic) s = .next ((s.passesOver n (d.taken rest) r).endAu d.ctx d.ring r .ok
      (2 ^ 11 + skippedBits d) d.begun) := by
  show execDecodeDispatch c n pic s = _
  have hp : ¬ recNat r.bits 1 1 / 4 % 2 = 1 := by rw [h.plain]; decide
  unfold execDecodeDispatch
  rw [h.stream]
  dsimp only
  rw [if_neg (by simp [h.goes, h.thawed, h.idle, h.ready, h.first, h.steady]), h.queue]
  dsimp only
  rw [if_neg hp, h.stream, Option.getD_some]
  rw [State.touchAt_clean h.clean, State.touchAt_clean h.clean, State.poisonAt_clean h.clean, State.poisonAt_clean h.clean]
  rw [if_neg (by simp), if_neg (by exact Bool.not_eq_true _ ▸ h.fits), if_pos hw]
  rfl

theorem Dispatches.begins (h : Dispatches n s d c pic r rest) (hw : ((d.waiting && !pic.rap) || (d.skipRasl && pic.rasl)) = false)
    (hs : d.stale = 0) (hn : pic.hidden.length + (if pic.existing.isSome then 0 else 1) ≤ d.unused.length) :
    exec (.decodeDispatch c n pic) s = .next ((s.beginPicture n (d.showing rest pic) (d.begins c pic r s.free)
      pic.hidden.length).takeDecoder c d.ctx) := by
  show execDecodeDispatch c n pic s = _
  have hp : ¬ recNat r.bits 1 1 / 4 % 2 = 1 := by rw [h.plain]; decide
  have hst : ∀ a : Int, ¬ (d.stale ≠ 0 ∧ (d.stale : Int) < a) := fun a h => h.1 hs
  unfold execDecodeDispatch
  rw [h.stream]
  dsimp only
  rw [if_neg (by simp [h.goes, h.thawed, h.idle, h.ready, h.first, h.steady]), h.queue]
  dsimp only
  rw [if_neg hp, h.stream, Option.getD_some]
  rw [State.touchAt_clean h.clean, State.touchAt_clean h.clean, State.poisonAt_clean h.clean, State.poisonAt_clean h.clean]
  rw [if_neg (by simp), if_neg (by exact Bool.not_eq_true _ ▸ h.fits), if_neg (by rw [hw]; decide)]
  rw [if_neg (hst _), if_neg (fun h => hst _ h.1)]
  refine (if_neg (Nat.not_lt.2 hn)).trans ?_
  rw [if_neg (hst _), decide_eq_false (hst _)]
  rfl

theorem State.begun_dec : (s.beginPicture n (d.showing rest pic) (d.begins c pic r s.free)
    pic.hidden.length).dec n = some { d.showing rest pic with pic := some (d.begins c pic r s.free) } := State.dec_setDec _ _ _

theorem State.beginPicture_mem {d' : DecStream} {p : Picture} {k : Nat} (h : p.hidden = []) : (s.beginPicture n d' p k).mem = s.mem := by
  unfold State.beginPicture
  rw [State.writeUnshown_shown h]
  rfl

/-! ### The end of a picture -/

/-- The stream when its picture is done (12 R423). -/
def DecStream.finished (d : DecStream) (p : Picture) (marks : List Nat) : DecStream :=
  { d with
    bufs := (List.range d.bufs.length).map fun i =>
      let b := d.bufs.getD i ⟨0, 0, 0⟩
      { b with mark := (marks.getD i b.mark) % 3 }
    taps := d.taps.map fun t => if p.taps.any fun x => x.tap == t.1 && x.writes then (t.1, { t.2 with written := t.2.written + 1 }) else t
    pic := none
    decoded := d.decoded + 1 }

/-- The count and the event of a concealed picture (12 R427). -/
def State.noteConcealed (s : State) (n core ctx : Nat) (concealed : Bool) : State :=
  if concealed then (s.addSat (ro .dec core 0x48) 0 32 1).raise (0x4000 + core) 0x1400 [.w (s.mkHandle ctx n)] ctx else s

theorem State.noteConcealed_dec (k core ctx : Nat) (b : Bool) : (s.noteConcealed k core ctx b).dec n = s.dec n := by
  unfold State.noteConcealed
  split
  · exact State.raise_dec _ _ _ _ _
  · rfl

/-- RESULT of a decoded picture (12 R424). -/
def Picture.result (p : Picture) (d : DecStream) : Nat :=
  let bit := fun (b : Bool) (n : Nat) => if b then 2 ^ n else 0
  let skipped := if p.stale then skippedBits d else (p.taps.map fun t => bit (!t.writes) (4 + t.tap % 4)).sum
  (p.taps.map fun t => bit t.writes (t.tap % 4)).sum + skipped + bit p.info.reference 8 + 2 ^ 9 +
    bit (!p.info.lost.isEmpty || p.info.hidden.any fun l => !l.lost.isEmpty) 10 + bit p.overrun 12 + p.buf % 32 * 65536

/-- The counts of a decoded picture (12 R424). -/
def State.countPicture (s : State) (n : Nat) (d : DecStream) (p : Picture) : State :=
  ((s.addSat (ro .dec p.core 0x44) 0 32 1).noteConcealed n p.core d.ctx
    (!p.info.lost.isEmpty || p.info.hidden.any fun l => !l.lost.isEmpty)).addSat64 (ro .dec p.core 0x50)
    ((p.hidden.length + (if p.info.existing.isSome then 0 else 1)) * p.info.w * p.info.h)

@[simp] theorem State.addSat_dec (a lo w v : Nat) : (s.addSat a lo w v).dec n = s.dec n := rfl

@[simp] theorem State.addSat64_dec (a v : Nat) : (s.addSat64 a v).dec n = s.dec n := rfl

theorem State.freeDecoder_dec (k : Nat) : (s.freeDecoder k).dec n = s.dec n := rfl

theorem State.endAu_dec (k q : Nat) (r : AuRec) (st : Status) (x y : Nat) : (s.endAu k q r st x y).dec n = s.dec n := rfl

theorem State.endAu_rd (k q : Nat) (r : AuRec) (st : Status) (x y a : Nat) : (s.endAu k q r st x y).rd a = s.rd a := rfl

theorem State.rd_freeDecoder (k : Nat) : (s.freeDecoder k).rd (ro .dec k 0x40) = 0xFF00 := State.rd_wr_same _ _ _

theorem State.countPicture_dec (k : Nat) (p : Picture) : (s.countPicture k d p).dec n = s.dec n := by
  unfold State.countPicture
  rw [State.addSat64_dec, State.noteConcealed_dec, State.addSat_dec]

/-- The state once a picture is decoded, with its core free (12 R423, R424). -/
def State.picturePut (s : State) (n : Nat) (d : DecStream) (p : Picture) (marks : List Nat) : State :=
  ((((if p.info.existing.isSome then s else s.writePicture d p p.buf).setDec n (d.finished p marks)).countPicture n d p).freeDecoder
    p.core)

theorem State.picturePut_dec (p : Picture) (marks : List Nat) : (s.picturePut n d p marks).dec n = some (d.finished p marks) := by
  unfold State.picturePut
  rw [State.freeDecoder_dec, State.countPicture_dec, State.dec_setDec]

theorem pictureDone_exec {p : Picture} {marks : List Nat} (hd : s.dec n = some d) (hp : d.pic = some p)
    (hf : s.frozen .dec p.core = false)
    (ht : (p.taps.all fun t => t.begun && (!t.writes || t.done == s.tapTotal p t.cfg)) = true)
    (hl : ((s.linkedTo n (recNat p.entry.bits 24 8)).all fun e => p.linked.contains e) = true) :
    exec (.pictureDone n marks) s = .next ((s.picturePut n d p marks).endAu d.ctx d.ring p.entry
      (if p.stale then .staleDropped else .ok) (p.result d) p.number) := by
  show execPictureDone n marks s = _
  unfold execPictureDone
  rw [hd]
  dsimp only
  rw [hp]
  dsimp only
  refine (if_neg ?_).trans ?_
  · rw [ht, hl, hf]
    simp
  · rfl

/-- Settles O40. -/
theorem decodeStreams : Obligations.DecodeStreams := by
  refine fun n s d hd hc hq => ⟨fun r hr => ⟨fun h2 hok hany => ?_, fun h2 hok he hp => ?_, fun h2 hok he hp => ?_⟩,
    fun c pic r rest hqu hcl hg hf hi hr h1 hch hpl hb => ⟨fun hw => ?_, fun hw hs hn => ?_⟩,
    fun p marks hp hf ht hl => ?_⟩
  · refine completes_next (t := (s.bumpHead d.ctx d.ring).setDec n { d with queue := d.queue ++ [r] }) ?_
      ⟨State.dec_setDec _ _ _, State.sqHead_bumpHead _ _, rfl⟩
    show execAuData n s = _
    unfold execAuData
    simp [hd, hr, h2, hok, hany]
  · refine completes_next (t := (s.bumpHead d.ctx d.ring).rejectAu 0x4000 d.ctx d.ring r .invalidDescriptor (skippedBits d) d.begun) ?_
      ⟨State.rejectAu_recorded _ _ _ _ _ _ _, (State.sqHead_rejectAu _ _ _ _ _).trans (State.sqHead_bumpHead _ _)⟩
    show execAuData n s = _
    unfold execAuData
    simp [hd, hr, h2, hok, he, hp]
  · refine completes_next (t := ((s.bumpHead d.ctx d.ring).enterWaiting n 0).endAu d.ctx d.ring r .ok 0 d.begun) ?_
      ⟨State.endAu_recorded _ _ _ _ _ _, State.enterWaiting_dec (s := s.bumpHead d.ctx d.ring) hd 0,
        State.enterWaiting_sqHead (s := s.bumpHead d.ctx d.ring) 0 |>.trans (State.sqHead_bumpHead _ _)⟩
    show execAuEnd n s = _
    unfold execAuEnd
    simp [hd, hr, h2, hok, he, hp]
  · have h : Dispatches n s d c pic r rest := ⟨hd, hqu, hcl, hg, hf, hi, hr, h1, hch, hpl, hb⟩
    exact completes_next (h.passes hw) ⟨State.endAu_recorded _ _ _ _ _ _, State.passesOver_dec r⟩
  · have h : Dispatches n s d c pic r rest := ⟨hd, hqu, hcl, hg, hf, hi, hr, h1, hch, hpl, hb⟩
    refine completes_next (h.begins hw hs hn) ⟨State.takeDecoder_busy _ _, fun hh => ?_, d.begins c pic r s.free, ?_, rfl, rfl, rfl, rfl, ?_⟩
    · have hid : (d.begins c pic r s.free).hidden = [] := by rw [DecStream.begins, hh]; rfl
      rw [State.takeDecoder_mem, State.beginPicture_mem hid]
    · rw [State.takeDecoder_dec, State.begun_dec]
      rfl
    · simp [DecStream.begins, Tbl.keys]
  · refine completes_next (pictureDone_exec hd hp hf ht hl) ⟨?_, ⟨d.finished p marks, ?_, rfl, rfl⟩, p.result d,
      State.endAu_recorded _ _ _ _ _ _⟩
    · rw [State.endAu_rd]
      exact State.rd_freeDecoder _
    · rw [State.endAu_dec, State.picturePut_dec]

end

/-! ### Tensor taps -/

theorem PicTap.find?_set {l : List PicTap} {k : Nat} {x t : PicTap} (h : l.find? (fun y => y.tap == k) = some x) (ht : t.tap = k) :
    (l.map fun y => if y.tap = t.tap then t else y).find? (fun y => y.tap == k) = some t := by
  induction l with
  | nil => simp at h
  | cons a l ih =>
    rw [List.map_cons]
    by_cases ha : a.tap = k
    · rw [if_pos (ha.trans ht.symm), List.find?_cons_of_pos (by simpa using ht)]
    · rw [if_neg (ht ▸ ha), List.find?_cons_of_neg (by simpa using ha)]
      exact ih ((List.find?_cons_of_neg (by simpa using ha)).symm.trans h)

/-- The tap `k` of the picture in work of a stream. -/
def State.picTap (s : State) (n k : Nat) : Option PicTap :=
  ((s.dec n).bind DecStream.pic).bind fun p => p.taps.find? fun t => t.tap == k

section
variable {n k : Nat} {s t : State} {d : DecStream} {p : Picture} {x y : PicTap}

theorem State.picTap_congr (h : t.dec n = s.dec n) : t.picTap n k = s.picTap n k := by
  unfold State.picTap
  rw [h]

theorem State.picTap_setPicTap (h : (p.taps.find? fun t => t.tap == k) = some x) (hy : y.tap = k) :
    (s.setPicTap n d p y).picTap n k = some y := by
  unfold State.picTap State.setPicTap
  rw [State.dec_setDec]
  exact PicTap.find?_set h hy

theorem State.setPicTap_mem : (s.setPicTap n d p y).mem = s.mem := rfl

theorem PicTap.tap_of_find (h : (p.taps.find? fun t => t.tap == k) = some x) : x.tap = k := by
  simpa using List.find?_some h

/-- The counts and the event of an output row (12 R433, R434). -/
def State.countRow (s : State) (d : DecStream) (p : Picture) (x : PicTap) (ready : Nat) (bad last : Bool) (bads : Nat) : State :=
  let s := (s.addSat64 (ro .ttb 0 0x50) (x.cfg.outW * (if x.cfg.boxes then x.cfg.outH else 1))).setFld (ro .dec p.core 0x40) 16 16
    (ready / max 1 p.info.ctu)
  let s := if bad then s.addSat (ro .ttb 0 0x48) 0 32 1 else s
  if 0 < bads ∧ last then s.raise 0x4030 0x0431 [.w bads] d.ctx else s

theorem State.Aside.addSat64 {z u : State} (h : z.Aside u) (a v : Nat) : z.Aside (u.addSat64 a v) := h.congr

theorem State.Aside.addSat {z u : State} (h : z.Aside u) (a lo w v : Nat) : z.Aside (u.addSat a lo w v) := h.congr

theorem State.Aside.countRow {z u : State} (h : z.Aside u) (ready bads : Nat) (bad last : Bool) : z.Aside (u.countRow d p x ready bad last bads) :=
  have hr := State.Aside.ite (c := bad = true) (((h.addSat64 _ _).setFld _ _ _ _).addSat _ _ _ _) ((h.addSat64 _ _).setFld _ _ _ _)
  .ite (hr.raise _ _ _ _ _) hr

theorem State.Quiet.countRow {z u : State} (h : z.Quiet u) (ready bads : Nat) (bad last : Bool) : z.Quiet (u.countRow d p x ready bad last bads) :=
  have hr := State.Quiet.ite (c := bad = true) (((h.addSat64 _ _).setFld _ _ _ _).addSat _ _ _ _) ((h.addSat64 _ _).setFld _ _ _ _)
  .ite (hr.raise _ _ _ _ _) hr

theorem State.countRow_mem (ready bads : Nat) (bad last : Bool) : (s.countRow d p x ready bad last bads).mem = s.mem :=
  (State.Quiet.refl (s := s) |>.countRow ready bads bad last).mem

theorem State.countRow_dec (ready bads : Nat) (bad last : Bool) : (s.countRow d p x ready bad last bads).dec n = s.dec n :=
  State.dec_congr (congrArg Media.decs (State.Aside.refl (s := s) |>.countRow ready bads bad last).media) n

theorem State.countRow_picTap (ready bads : Nat) (bad last : Bool) : (s.countRow d p x ready bad last bads).picTap n k = s.picTap n k :=
  State.picTap_congr (State.countRow_dec _ _ _ _)

theorem State.Stored.writeRow {z u : State} (h : z.Stored u) (c : TapCfg) (a : Word64) (r : Nat) (f : Nat → Nat → Byte) :
    z.Stored (u.writeRow c a r f) := .foldl (fun _ _ h1 => h1.storeAt _ _) _ h

theorem State.Stored.tapWrite {z u : State} (h : z.Stored u) (d : DecStream) (p : Picture) (c : TapCfg) (w : Word) (i : Nat) :
    z.Stored (u.tapWrite d p c w i) := by
  unfold State.tapWrite
  dsimp only
  exact .ite (.foldl (fun _ _ h1 => h1.writeRow _ _ _ _) _ h) (h.writeRow _ _ _ _)

theorem State.Stored.progressDone {z u : State} (h : z.Stored u) (c : TapCfg) (k : Nat) : z.Stored (u.progressDone c k) := h.storeAt _ _

variable {tap : Fin 4} {cur : Tap}

theorem tapPictureStart_takes (hd : s.dec n = some d) (hp : d.pic = some p) (hx : (p.taps.find? fun t => t.tap == tap.val) = some x)
    (hc : d.taps.look? tap = some cur) (hb : x.begun = false) (hg : s.blockGoes .ttb 0 = true) (hf : s.slotFree x.cfg cur.written = true) :
    exec (.tapPictureStart n tap) s = .next ((s.progressStart x.cfg cur.written (recNat p.entry.bits 24 8)).setPicTap n d p
      { x with begun := true, writes := true }) := by
  show execTapPictureStart n tap s = _
  unfold execTapPictureStart
  simp only [hd, hp, hx, hc]
  rw [if_neg (by simp [hb]), if_neg (by simp [hg]), if_pos hf]

theorem tapPictureStart_skips (hd : s.dec n = some d) (hp : d.pic = some p) (hx : (p.taps.find? fun t => t.tap == tap.val) = some x)
    (hc : d.taps.look? tap = some cur) (hb : x.begun = false) (hg : s.blockGoes .ttb 0 = true) (hf : s.slotFree x.cfg cur.written = false) :
    exec (.tapPictureStart n tap) s = .next (((s.setPicTap n d { p with overrun := true } { x with begun := true }).addSat
      (ro .ttb 0 0x44) 0 32 1).raise 0x4030 0x1430 [.w (s.mkHandle d.ctx n), .w tap] d.ctx) := by
  show execTapPictureStart n tap s = _
  unfold execTapPictureStart
  simp only [hd, hp, hx, hc]
  rw [if_neg (by simp [hb]), if_neg (by simp [hg]), if_neg (by simp [hf])]
  rfl

theorem tapOutputRow_writes {ready : Nat} (hd : s.dec n = some d) (hp : d.pic = some p)
    (hx : (p.taps.find? fun t => t.tap == tap.val) = some x) (hc : d.taps.look? tap = some cur) (hw : x.writes = true)
    (ht : x.done < s.tapTotal p x.cfg) (hr : ready ≤ p.info.h) (hf : s.frozen .ttb 0 = false)
    (hn : p.info.existing = none → s.tapNeeds p x.cfg x.done ≤ ready) :
    ∃ bad last bads, exec (.tapOutputRow n tap ready) s = .next ((((s.tapWrite d p x.cfg cur.written x.done).progressDone x.cfg
      (x.done + 1)).setPicTap n d p { x with done := x.done + 1, bad := bads }).countRow d p x ready bad last bads) := by
  refine ⟨x.cfg.boxes && (s.picBox p x.done).bad, decide (x.done + 1 = s.tapTotal p x.cfg),
    x.bad + (if x.cfg.boxes && (s.picBox p x.done).bad then 1 else 0), ?_⟩
  show execTapOutputRow n tap ready s = _
  unfold execTapOutputRow
  simp only [hd, hp, hx, hc]
  rw [if_neg]
  · unfold State.countRow
    simp only [decide_eq_true_eq]
  · have h1 := Nat.not_le.2 ht
    have h2 := Nat.not_lt.2 hr
    rintro (h | h | h | h | ⟨h, h'⟩)
    · exact h hw
    · exact h1 h
    · exact h2 h
    · rw [hf] at h
      exact absurd h (by decide)
    · exact absurd (hn (Option.isNone_iff_eq_none.1 h)) (Nat.not_le.2 h')

end

/-- Settles O41. -/
theorem tensorTaps : Obligations.TensorTaps := by
  intro n tap s d p x cur hd hp hx hc
  have hk : x.tap = tap := PicTap.tap_of_find hx
  refine ⟨fun hb hg hf => ?_, fun hb hg hf => ?_, fun ready hw ht hr hf hn => ?_⟩
  · exact completes_next (tapPictureStart_takes hd hp hx hc hb hg hf)
      ⟨State.setPicTap_mem, State.picTap_setPicTap (k := tap) hx hk⟩
  · refine completes_next (tapPictureStart_skips hd hp hx hc hb hg hf) ⟨State.raise_mem _ _ _ _ _ _, ?_, State.raise_logged _ _ _ _ _ _⟩
    exact (State.picTap_congr ((State.raise_dec _ _ _ _ _).trans (State.addSat_dec _ _ _ _))).trans
      (State.picTap_setPicTap (k := tap) (p := { p with overrun := true }) hx hk)
  · obtain ⟨bad, last, bads, h⟩ := tapOutputRow_writes hd hp hx hc hw ht hr hf hn
    refine completes_next h ⟨?_, ?_⟩
    · rw [State.countRow_mem, State.setPicTap_mem]
    · change Option.map PicTap.done (State.picTap _ n tap) = _
      rw [State.countRow_picTap, State.picTap_setPicTap hx (by exact hk)]
      rfl

end Sys2Proof.Machine
end

section
/-! The camera receiver (O43) and the CCI master (O45). -/

namespace Sys2Proof.Machine

/-! ### Registers of a camera port -/

section
variable {s t : State} {p : Fin 8} {i : Nat}

theorem pageAt_csi : ∀ p : Fin 8, pageAt (slotOf .csi p) = some ⟨.csi, p⟩ ∧ isRecordWindow (slotOf .csi p) = false := by decide +kernel

theorem csi_ne {p : Nat} {a b : Nat} (h : a ≠ b) : ro .csi p a ≠ ro .csi p b := by unfold ro; omega

theorem csi_ne_evr {p a b : Nat} (h : b < 0x1000) : ro .csi p a ≠ ro .evr 0 b := by
  have h1 : slotOf .csi p = 0x320 + p := rfl
  have h2 : slotOf .evr 0 = 2 := rfl
  unfold ro
  rw [h1, h2]
  omega

/-- A word of a camera port's page takes effect through `csiWord`. -/
theorem State.pfWrite_csi {o : Nat} (v : Word) (ho : 0x40 ≤ o ∧ o < 0x1000) (hl : isPairLow .csi o = false)
    (hh : isPairLow .csi (o - 4) = false) (h : s.ownTakes (ro .csi p o)) : s.pfWrite (ro .csi p o) v = s.csiWord p o v := by
  have hdiv : ro .csi p o / 0x1000 = slotOf .csi p := by simp only [ro]; omega
  have hmod : ro .csi p o % 0x1000 = o := by simp only [ro]; omega
  obtain ⟨hp, hwin⟩ := pageAt_csi p
  have hign : s.ignores (.pcie 0) ⟨.csi, p⟩ o = none := by
    have h0 : s.lockedAt (ro .csi p o) = false := h.2.1
    simp [State.ignores, h0]
  rw [State.pfWrite_takes _ h (by rw [hdiv]; exact hp) (by rw [hdiv]; exact hwin), hmod]
  simp [State.wordEffect, Nat.not_lt.2 ho.1, hl, hh, hign, State.blockWord]

/-! ### Events and the tables of the cameras -/

theorem State.camEvent_raises (s : State) (src code p : Nat) (extra : List EvVal) :
    ∃ data ctx, s.camEvent src code p extra = s.raise src code data ctx := by
  unfold State.camEvent
  split <;> exact ⟨_, _, rfl⟩

@[simp] theorem State.camEvent_media (src code p : Nat) (extra : List EvVal) : (s.camEvent src code p extra).media = s.media := by
  obtain ⟨d, c, h⟩ := s.camEvent_raises src code p extra
  rw [h, State.raise_media]

@[simp] theorem State.camEvent_mem (src code p : Nat) (extra : List EvVal) : (s.camEvent src code p extra).mem = s.mem := by
  obtain ⟨d, c, h⟩ := s.camEvent_raises src code p extra
  rw [h, State.raise_mem]

theorem State.camEvent_rd (src code q k o : Nat) (extra : List EvVal) :
    (s.camEvent src code q extra).rd (ro .csi k o) = s.rd (ro .csi k o) := by
  obtain ⟨d, c, h⟩ := s.camEvent_raises src code q extra
  rw [h]
  exact s.raise_rd _ _ _ _ _ (csi_ne_evr (by decide)) (csi_ne_evr (by decide))

theorem State.camEvent_fld (src code q k o lo w : Nat) (extra : List EvVal) :
    (s.camEvent src code q extra).fld (ro .csi k o) lo w = s.fld (ro .csi k o) lo w := by
  simp [State.fld, State.camEvent_rd]

theorem State.cam_congr (h : t.media.cams = s.media.cams) (i : Nat) : t.cam i = s.cam i := congrArg (Tbl.look? · i) h

theorem State.cam_setCam (c : CamStream) : (s.setCam i c).cam i = some c := Tbl.look?_put_same _ _ _

theorem State.port_setPort (k : Nat) (q : Port) : (s.setPort k q).port k = q := Tbl.look_put_same _ _ _ _

theorem State.camOf_congr (h : t.media.cams = s.media.cams) (k : Nat) : t.camOf k = s.camOf k :=
  congrArg (List.find? fun e : Nat × CamStream => e.2.p.port == k) h

end

/-! ### What a start of transmission does -/

section
variable {s : State} {p : Nat}

theorem State.sot_armed (h : s.portState p ≠ pLost) : s.sot p = s.setPort p { s.port p with lastSot := s.now } := by
  unfold State.sot
  exact if_neg fun h1 => h h1.1

/-- Of the registers, a camera's return changes its PRESENT bit (13 R468). -/
theorem State.camReturn_regs (k o : Nat) : (s.camReturn p).rd (ro .csi k o) = (s.setFld (ro .csi p 0x44) 2 1 1).rd (ro .csi k o) := by
  unfold State.camReturn
  dsimp only
  split
  · split
    · rfl
    · exact State.camEvent_rd _ _ _ _ _ _
  · rfl

theorem State.camReturn_mem : (s.camReturn p).mem = s.mem := by
  unfold State.camReturn
  dsimp only
  split
  · split
    · rfl
    · exact State.camEvent_mem _ _ _ _
  · rfl

theorem State.camReturn_fld (k o lo w : Nat) :
    (s.camReturn p).fld (ro .csi k o) lo w = (s.setFld (ro .csi p 0x44) 2 1 1).fld (ro .csi k o) lo w := by
  simp [State.fld, State.camReturn_regs]

theorem State.sot_mem : (s.sot p).mem = s.mem := by
  unfold State.sot
  dsimp only
  split
  · exact State.camReturn_mem
  · rfl

theorem State.sot_needsDeskew : (s.sot p).needsDeskew p = s.needsDeskew p := by
  unfold State.sot State.needsDeskew
  dsimp only
  split
  · simp only [State.camReturn_fld, State.fld_setFld_other _ _ _ _ _ _ (csi_ne (show 0x44 ≠ 0x40 by decide))]
    rfl
  · rfl

theorem State.sot_deskewed : (s.sot p).deskewed p = s.deskewed p := by
  unfold State.sot State.deskewed State.bit
  dsimp only
  split
  · rw [State.camReturn_fld, State.fld_setFld_apart _ _ _ _ _ _ _ (by decide) (by decide)]
    rfl
  · rfl

/-- A packet that an armed or streaming port of a calibrated receiver uses (13 R447, R468). -/
theorem State.rxUse_uses (hg : s.blockGoes .csi p = true) (hp : s.portState p = pArmed ∨ s.portState p = pStreaming)
    (hd : s.needsDeskew p = false ∨ s.deskewed p = true) :
    s.rxUse p = (true, (s.setPort p { s.port p with lastSot := s.now }).setFld (ro .csi p 0x44) 3 1 1) := by
  have hl : s.portState p ≠ pLost := by
    rcases hp with h | h <;> rw [h] <;> decide
  have ha : (State.setFld (s.setPort p { s.port p with lastSot := s.now }) (ro .csi p 0x44) 3 1 1).portState p = s.portState p :=
    State.fld_setFld_apart _ _ _ _ _ _ _ (by decide) (by decide)
  unfold State.rxUse
  rw [State.sot_armed hl, if_neg (by simp [hg]), if_neg]
  · dsimp only
    rw [ha, decide_eq_true hp]
  · rintro ⟨h1, h2⟩
    rcases hd with h | h
    · exact absurd (h1.symm.trans h) (by decide)
    · exact h2 h

end

/-! ### Frames -/

section
variable {s : State} {i : Nat} {c : CamStream} {f g : CamFrame}

theorem State.cam_setFrame (h : s.cam i = some c) : (s.setFrame i g).cam i =
    some { c with frames := c.frames.map fun x => if x.number = g.number then g else x } := by
  unfold State.setFrame
  rw [h]
  exact State.cam_setCam _

theorem CamFrame.mem_set {l : List CamFrame} (hf : f ∈ l) (hn : f.number = g.number) :
    g ∈ l.map fun x => if x.number = g.number then g else x := List.mem_map.2 ⟨f, hf, if_pos hn⟩

theorem CamStream.open?_mem (h : c.open? = some f) : f ∈ c.frames := List.mem_of_find?_eq_some h

@[simp] theorem CamFrame.fillMissing_number (f : CamFrame) (q : CamParam) (e : Nat) : (f.fillMissing q e).number = f.number := by
  unfold CamFrame.fillMissing
  dsimp only
  split
  · rfl
  · refine foldl_kept CamFrame.number _ ?_ _ f
    exact fun _ _ => rfl

@[simp] theorem CamFrame.fillMissing_ends (f : CamFrame) (q : CamParam) (e : Nat) : (f.fillMissing q e).ends = f.ends := by
  unfold CamFrame.fillMissing
  dsimp only
  split
  · rfl
  · refine foldl_kept CamFrame.ends _ ?_ _ f
    exact fun _ _ => rfl

/-- An exposure of a frame ends (13 R455). -/
def CamFrame.endExposure (q : CamParam) (f : CamFrame) (e : Nat) : CamFrame :=
  { f.fillMissing q e with ends := if f.ends.contains e then f.ends else f.ends ++ [e] }

theorem CamFrame.endExposures_number (q : CamParam) (l : List Nat) (f : CamFrame) : (l.foldl (CamFrame.endExposure q) f).number = f.number :=
  foldl_kept CamFrame.number (CamFrame.endExposure q) (fun f e => f.fillMissing_number q e) l f

theorem CamFrame.endExposures_ends (q : CamParam) (l : List Nat) (f : CamFrame) (e : Nat) (h : e ∈ f.ends ∨ e ∈ l) :
    e ∈ (l.foldl (CamFrame.endExposure q) f).ends := by
  induction l generalizing f with
  | nil => simpa using h
  | cons a l ih =>
    refine ih _ ?_
    have keep : ∀ x, x ∈ f.ends ∨ x = a → x ∈ (CamFrame.endExposure q f a).ends := by
      intro x hx
      unfold CamFrame.endExposure
      dsimp only
      split
      case isTrue ha => exact hx.elim id fun h => h ▸ List.contains_iff_mem.1 ha
      case isFalse ha => simpa using hx
    rcases h with h | h
    · exact .inl (keep e (.inl h))
    · exact (List.mem_cons.1 h).imp (fun h => keep e (.inr h)) id

/-- A frame that is closed stays in its stream, ended (13 R455). -/
theorem State.closeFrame_ends (h : s.cam i = some c) (hf : f ∈ c.frames) (hn : g.number = f.number) (early : Bool) :
    ∃ d, (s.closeFrame i g early).cam i = some d ∧ ∃ x ∈ d.frames, x.number = f.number ∧ x.ended = true := by
  let u := (List.range c.p.exposures).foldl (fun f e => f.fillMissing c.p e) g
  have hu : u.number = f.number := (foldl_kept CamFrame.number _ (fun f e => f.fillMissing_number c.p e) _ g).trans hn
  let v : CamFrame := { u with ended := true, isDamaged := u.isDamaged || early }
  have hv : ((s.setFrame i v).noteFrameEnd c.p.port).cam i =
      some { c with frames := c.frames.map fun x => if x.number = v.number then v else x } := State.cam_setFrame h
  refine ⟨{ c with frames := c.frames.map fun x => if x.number = v.number then v else x }, ?_, v, CamFrame.mem_set hf hu.symm, hu, rfl⟩
  unfold State.closeFrame
  rw [h]
  dsimp only
  split
  · exact (State.cam_congr (congrArg Media.cams (State.camEvent_media _ _ _ _)) i).trans hv
  · exact hv

end

/-! ### Settling O43 -/

section
variable {s : State} {p : Fin 8} {val : Word}

theorem State.csiWord_cfg (s : State) (p : Nat) (v : Word) : s.csiWord p 0x40 v = if s.rwl.contains (ro .csi p 0x40) then s else
    { s.wr (ro .csi p 0x40) (v &&& maskWhere (fun f => f.acc = .rwl) (ro .csi p 0x40)) with rwl := s.rwl ++ [ro .csi p 0x40] } := rfl

theorem phyCfg_exec (h : s.ownTakes (ro .csi p 0x40)) : exec (.csiPhyCfgWrite p val) s = .next (s.csiWord p 0x40 val) :=
  congrArg Host.Outcome.next (State.pfWrite_csi val (by decide) (by decide) (by decide) h)

variable {i vc : Nat} {c : CamStream}

/-- The receiver's state after a start of transmission that it uses. -/
def State.received (s : State) (p : Nat) : State := (s.setPort p { s.port p with lastSot := s.now }).setFld (ro .csi p 0x44) 3 1 1

theorem State.received_portState (p : Nat) : (s.received p).portState p = s.portState p :=
  State.fld_setFld_apart _ _ _ _ _ _ _ (by decide) (by decide)

theorem State.received_cam (p i : Nat) : (s.received p).cam i = s.cam i := rfl

theorem State.received_camOf (p q : Nat) : (s.received p).camOf q = s.camOf q := rfl

theorem frameStart_exec (hc : s.camOf p = some (i, c)) (hi : s.cam i = some c) (hu : s.rxUse p = (true, s.received p))
    (hv : c.p.vcs.getD 0 16 = vc) (hcl : c.closing = none) (hb : s.blockOn .csi p = true) (ho : c.open? = none) :
    exec (.frameStart p vc) s = .next ((if (s.received p).portState p = pArmed then (s.received p).setPortState p pStreaming
      else s.received p).newFrame i c) := by
  show execFrameStart p vc s = _
  unfold execFrameStart
  have hb' : (s.received p).blockOn .csi p = true := hb
  have hk : ∀ u : Prop, ∀ _ : Decidable u, (if u then (s.received p).setPortState p pStreaming else s.received p).cam i = some c := by
    intro u _
    split <;> exact hi
  rw [hu]
  dsimp only
  rw [if_neg (by simp), State.received_camOf, hc]
  dsimp only
  rw [if_neg (by rw [hv, hcl, hb']; simp), ho]
  dsimp only
  rw [hk]

theorem State.newFrame_adds (s : State) (i : Nat) (c : CamStream) : ∃ f : CamFrame, f.number = c.begun ∧ f.gts = s.gts ∧
    f.ended = false ∧ (s.newFrame i c).cam i = some { c with frames := c.frames ++ [f], begun := c.begun + 1 } :=
  ⟨_, rfl, rfl, rfl, State.cam_setCam _⟩

theorem State.newFrame_portState (s : State) (i : Nat) (c : CamStream) (p : Nat) : (s.newFrame i c).portState p = s.portState p := rfl

theorem frameEnd_exec {f : CamFrame} (hc : s.camOf p = some (i, c)) (hu : s.rxUse p = (true, s.received p)) (ho : c.open? = some f)
    (hall : ∀ e < c.p.exposures, c.p.vcs.getD e 16 = vc ∨ e ∈ f.ends) :
    exec (.frameEnd p vc) s = .next (((s.received p).unnamedVc p c.p vc).closeFrame i
      (((List.range c.p.exposures).filter fun e => c.p.vcs.getD e 16 == vc).foldl (CamFrame.endExposure c.p) f) false) := by
  show execFrameEnd p vc s = _
  unfold execFrameEnd
  rw [hu]
  dsimp only
  rw [if_neg (by simp), State.received_camOf, hc]
  dsimp only
  rw [ho]
  refine if_pos (List.all_eq_true.2 fun e he => List.contains_iff_mem.2 ?_)
  refine CamFrame.endExposures_ends c.p _ f e ((hall e (List.mem_range.1 he)).symm.imp id fun h => ?_)
  exact List.mem_filter.2 ⟨he, by simpa using h⟩

theorem State.unnamedVc_media (s : State) (k : Nat) (q : CamParam) (v : Nat) : (s.unnamedVc k q v).media = s.media := by
  unfold State.unnamedVc
  split <;> rfl

/-- The frame with a good line of exposure `e` (13 R450). -/
def CamFrame.withLine (f : CamFrame) (e dt : Nat) (payload : List Nat) : CamFrame :=
  { f with
    lines := f.lines.put (e * 65536 + f.seen.look 0 e) (payload.map fun v => v % 2 ^ (rawBits dt).getD 8)
    seen := f.seen.put e (f.seen.look 0 e + 1) }

theorem State.takeLine_good {f : CamFrame} {e : Nat} {payload : List Nat} (s : State) (hov : f.overflow = false) (hen : e ∉ f.ends)
    (hy : f.seen.look 0 e < c.p.height) (hlen : payload.length = lineSamples (c.p.dts.getD e 0) c.p.width)
    (hlag : 0 < e → f.seen.look 0 0 ≤ f.seen.look 0 e + c.p.hdrLag + 1) :
    s.takeLine i c f e true payload false = s.setFrame i (f.withLine e (c.p.dts.getD e 0) payload) := by
  have late : (decide (0 < e) && decide (f.seen.look 0 e + c.p.hdrLag + 1 < f.seen.look 0 0)) = false := by
    rcases Nat.eq_zero_or_pos e with h | h
    · simp [h]
    · simp [hlag h]
  unfold State.takeLine
  rw [if_neg (by simp [hov, hen]), if_neg (by simp)]
  dsimp only
  rw [if_neg (Nat.not_le.2 hy), late, hlen]
  simp only [bne_self_eq_false, Bool.not_true, Bool.or_false, Bool.false_eq_true, if_false]
  rfl

theorem csiPacket_exec {f : CamFrame} {e dt : Nat} {payload : List Nat} (hg : s.blockGoes .csi p = true)
    (hp : s.portState p = pArmed ∨ s.portState p = pStreaming) (hc : s.camOf p = some (i, c)) (hu : s.rxUse p = (true, s.received p))
    (ho : c.open? = some f) (he : c.p.exposureOf vc dt = some e) (hdt : 0x10 ≤ dt) :
    exec (.csiPacket p vc dt 0 true payload false) s = .next ((s.received p).takeLine i c f e true payload false) := by
  show execCsiPacket p vc dt 0 true payload false s = _
  unfold execCsiPacket
  dsimp only
  rw [if_neg (by simp [hg]), if_neg (not_not.2 hp), if_neg (show ¬ (0 : Fin 3) = 2 by decide),
    if_neg (show ¬ (0 : Fin 3) = 1 by decide), hu]
  dsimp only
  rw [if_neg (by simp), if_neg (Nat.not_lt.2 hdt), State.received_camOf, hc]
  dsimp only
  rw [he]
  dsimp only
  rw [ho]
  rfl

/-- Settles O43. -/
theorem cameraReceiver : Obligations.CameraReceiver := by
  refine ⟨?_, fun p lanes s hg hn hd => ?_, fun p vc s i c hc hi hg hp hd => ?_⟩
  · intro p val s a h
    refine ⟨fun ha => ?_, fun ha => ?_⟩
    · refine completes_next (phyCfg_exec h) ?_
      rw [State.csiWord_cfg, if_neg (by simpa using ha)]
      exact ⟨State.rd_wr_same _ _ _, List.mem_append_right _ (List.mem_singleton_self _), rfl,
        fun b hb => State.rd_wr_other _ _ (Ne.symm hb)⟩
    · rw [phyCfg_exec h, State.csiWord_cfg, if_pos (by simpa using ha)]
  · have hx : exec (.csiDeskewSequence p lanes) s =
        .next (((s.sot p).wr (ro .csi p 0x54) lanes).setFld (ro .csi p 0x44) 3 1 1) := by
      show execCsiDeskewSequence p lanes s = _
      unfold execCsiDeskewSequence
      rw [if_neg (by simp [hg])]
      dsimp only
      rw [State.sot_needsDeskew, State.sot_deskewed, if_pos (by simp [hn, hd])]
    refine completes_next hx ⟨?_, ?_, State.sot_mem⟩
    · rw [State.rd_setFld_other _ _ _ _ (csi_ne (by decide)), State.rd_wr_same]
    · unfold State.deskewed State.bit
      rw [State.fld_setFld _ _ _ _ _ (by decide)]
      rfl
  · have hu : s.rxUse p = (true, s.received p) := State.rxUse_uses hg hp hd
    refine ⟨fun hv hcl hb ho => ?_, fun f e dt payload ho he hdt hov hen hy hlen hlag => ?_, fun f ho hall => ?_⟩
    · refine completes_next (frameStart_exec hc hi hu hv hcl hb ho) ?_
      generalize hw : (if (s.received p).portState p = pArmed then (s.received p).setPortState p pStreaming else s.received p) = w
      have hps : w.portState p = pStreaming ∧ w.gts = s.gts := by
        subst hw
        rw [State.received_portState]
        split
        case isTrue h => exact ⟨State.fld_setFld _ _ _ _ _ (by decide), rfl⟩
        case isFalse h => exact ⟨(State.received_portState p).trans (hp.resolve_left h), rfl⟩
      obtain ⟨f, h1, h2, h3, h4⟩ := w.newFrame_adds i c
      exact ⟨hps.1, f, h1, h2.trans hps.2, h3, h4⟩
    · refine completes_next (csiPacket_exec hg hp hc hu ho he hdt) ?_
      rw [State.takeLine_good _ hov hen hy hlen hlag, State.cam_setFrame (by exact hi)]
      exact ⟨_, rfl, _, CamFrame.mem_set (CamStream.open?_mem ho) rfl, rfl, Tbl.look_put_same _ _ _ _, rfl, Tbl.look?_put_same _ _ _⟩
    · refine completes_next (frameEnd_exec hc hu ho hall) ?_
      have hi' : ((s.received p).unnamedVc p c.p vc).cam i = some c :=
        (State.cam_congr (congrArg Media.cams (State.unnamedVc_media _ _ _ _)) i).trans hi
      exact State.closeFrame_ends hi' (CamStream.open?_mem ho) (CamFrame.endExposures_number _ _ _) false

end

/-! ### The CCI master -/

section
variable {s : State} {p : Fin 8} {val : Word} {j : CciJob}

theorem State.csiWord_cci (s : State) (p : Nat) (v : Word) :
    (bitsOf v 10 2 = 1 → s.csiWord p 0x64 v = s.cciStart p (s.cciSingle p v false)) ∧
    (bitsOf v 10 2 = 2 → s.csiWord p 0x64 v = s.cciStart p (s.cciSingle p v true)) ∧
    (bitsOf v 10 2 = 3 → s.csiWord p 0x64 v =
      s.cciStart p (s.cciEntry p (bitsOf v 16 8) (bitsOf v 24 8) (bitsOf v 12 1 == 1))) := by
  refine ⟨fun h => ?_, fun h => ?_, fun h => ?_⟩ <;>
    · unfold State.csiWord
      dsimp only
      rw [if_neg (by decide), if_pos rfl]
      simp only [h]

/-- A command that CCI takes starts its job (13 R466). -/
theorem State.cciStart_idle (h : s.bit (cciStat p) 0 = false) (hj : j.entry < 2 ^ 8) :
    (s.cciStart p j).bit (cciStat p) 0 = true ∧ (s.cciStart p j).fld (cciStat p) 8 8 = j.entry ∧
      ((s.cciStart p j).port p).cci = some j ∧ (s.cciStart p j).mem = s.mem := by
  unfold State.cciStart
  rw [if_neg (by simp [h])]
  refine ⟨?_, ?_, ?_, rfl⟩
  · unfold State.bit
    rw [State.fld_setFld_apart _ _ _ _ _ _ _ (by decide) (by decide), State.fld_setFld _ _ _ _ _ (by decide)]
    rfl
  · rw [State.fld_setFld _ _ _ _ _ (by decide), Nat.mod_eq_of_lt hj]
  · exact congrArg Port.cci (State.port_setPort _ _)

theorem cciWrite_exec {op : Nat} (hv : bitsOf val 10 2 = op) (h : s.ownTakes (ro .csi p 0x64)) :
    s.cciWrite p op val = s.csiWord p 0x64 val := by
  unfold State.cciWrite
  rw [if_pos hv, State.pfWrite_csi val (by decide) (by decide) (by decide) h]

/-- The state as a transfer's job ends (13 R466). -/
def State.cciSent (s : State) (p : Nat) (j : CciJob) (nack timeout : Bool) : State :=
  ((s.setPort p { s.port p with sent := j.bytes }).setFld (cciStat p) 1 1 (if nack then 1 else 0)).setFld (cciStat p) 2 1
    (if timeout then 1 else 0)

def State.cciStop (s : State) (p : Nat) : State := (s.setPort p { s.port p with cci := none }).setFld (cciStat p) 0 1 0

theorem State.cciStop_idle (s : State) (p : Nat) : ((s.cciStop p).port p).cci = none ∧ (s.cciStop p).bit (cciStat p) 0 = false := by
  refine ⟨congrArg Port.cci (State.port_setPort _ _), ?_⟩
  unfold State.cciStop State.bit
  rw [State.fld_setFld _ _ _ _ _ (by decide)]
  rfl

theorem State.cciStop_status (s : State) (p : Nat) (j : CciJob) (nack timeout : Bool) :
    ((s.cciSent p j nack timeout).cciStop p).bit (cciStat p) 1 = nack ∧
      ((s.cciSent p j nack timeout).cciStop p).bit (cciStat p) 2 = timeout := by
  unfold State.cciStop State.bit
  rw [State.fld_setFld_apart _ _ _ _ _ _ _ (by decide) (by decide), State.fld_setFld_apart _ _ _ _ _ _ _ (by decide) (by decide)]
  have h1 : (s.cciSent p j nack timeout).fld (cciStat p) 1 1 = if nack then 1 else 0 := by
    unfold State.cciSent
    rw [State.fld_setFld_apart _ _ _ _ _ _ _ (by decide) (by decide), State.fld_setFld _ _ _ _ _ (by decide)]
    cases nack <;> rfl
  have h2 : (s.cciSent p j nack timeout).fld (cciStat p) 2 1 = if timeout then 1 else 0 := by
    unfold State.cciSent
    rw [State.fld_setFld _ _ _ _ _ (by decide)]
    cases timeout <;> rfl
  exact ⟨(congrArg (· == 1) h1).trans (by cases nack <;> rfl), (congrArg (· == 1) h2).trans (by cases timeout <;> rfl)⟩

theorem State.cciEntry_congr {t : State} (h : ∀ k, t.rd (ro .csi p (0x800 + k)) = s.rd (ro .csi p (0x800 + k))) (e left : Nat) (w : Bool) :
    t.cciEntry p e left w = s.cciEntry p e left w := by
  unfold State.cciEntry
  rw [h, show 0x804 + 8 * e = 0x800 + (4 + 8 * e) by omega, h]

theorem State.cciError_keeps (s : State) (p addr what : Nat) : (s.cciError p addr what).media = s.media ∧
    (s.cciError p addr what).mem = s.mem ∧ ∀ lo, (s.cciError p addr what).bit (cciStat p) lo = s.bit (cciStat p) lo :=
  ⟨State.camEvent_media _ _ _ _, State.camEvent_mem _ _ _ _, fun _ => congrArg (· == 1) (State.camEvent_fld _ _ _ _ _ _ _ _)⟩

theorem transferDone_fails {nack timeout : Bool} {bytes : Word} (hj : (s.port p).cci = some j) (hw : j.waitFe = false)
    (h : nack = true ∨ timeout = true) : exec (.cciTransferDone p nack timeout bytes) s =
      .next (((s.cciSent p j nack timeout).cciStop p).cciError p j.addr (if timeout then 2 else 1)) := by
  show execCciTransferDone p nack timeout bytes s = _
  unfold execCciTransferDone
  rw [hj]
  dsimp only
  rw [if_neg (by simp [hw]), if_pos h]
  rfl

theorem transferDone_reads {bytes : Word} (hj : (s.port p).cci = some j) (hw : j.waitFe = false) (hr : j.read = true) :
    exec (.cciTransferDone p false false bytes) s = .next (((s.cciSent p j false false).wr (ro .csi p 0x70)
      (BitVec.ofNat 32 (bytes.toNat % 2 ^ (8 * j.len)))).cciStop p) := by
  show execCciTransferDone p false false bytes s = _
  unfold execCciTransferDone
  rw [hj]
  dsimp only
  rw [if_neg (by simp [hw]), if_neg (by simp), if_pos hr]
  rfl

theorem transferDone_last {bytes : Word} (hj : (s.port p).cci = some j) (hw : j.waitFe = false) (hr : j.read = false)
    (hl : j.left = 0) : exec (.cciTransferDone p false false bytes) s = .next ((s.cciSent p j false false).cciStop p) := by
  show execCciTransferDone p false false bytes s = _
  unfold execCciTransferDone
  rw [hj]
  dsimp only
  rw [if_neg (by simp [hw]), if_neg (by simp), if_neg (by simp [hr]), if_pos hl]
  rfl

/-- The next entry of a sequence (13 R467). -/
def State.cciNext (s : State) (p : Nat) (j : CciJob) (e : Nat) : State :=
  (s.setPort p { s.port p with cci := some j }).setFld (cciStat p) 8 8 e

theorem transferDone_goesOn {bytes : Word} (hj : (s.port p).cci = some j) (hw : j.waitFe = false) (hr : j.read = false)
    (hl : j.left ≠ 0) : exec (.cciTransferDone p false false bytes) s = .next ((s.cciSent p j false false).cciNext p
      ((s.cciSent p j false false).cciEntry p ((j.entry + 1) % 256) (j.left - 1) false) ((j.entry + 1) % 256)) := by
  show execCciTransferDone p false false bytes s = _
  unfold execCciTransferDone
  rw [hj]
  dsimp only
  rw [if_neg (by simp [hw]), if_neg (by simp), if_neg (by simp [hr]), if_neg hl]
  rfl

theorem State.cciNext_next (s : State) (p : Nat) (j : CciJob) {e : Nat} (he : e < 2 ^ 8) :
    ((s.cciNext p j e).port p).cci = some j ∧ (s.cciNext p j e).fld (cciStat p) 8 8 = e := by
  refine ⟨congrArg Port.cci (State.port_setPort _ _), ?_⟩
  unfold State.cciNext
  rw [State.fld_setFld _ _ _ _ _ (by decide), Nat.mod_eq_of_lt he]

theorem State.cciSent_entry (s : State) (p : Nat) (j : CciJob) (x y : Bool) (k : Nat) :
    (s.cciSent p j x y).rd (ro .csi p (0x800 + k)) = s.rd (ro .csi p (0x800 + k)) := by
  have hne : cciStat p ≠ ro .csi p (0x800 + k) := csi_ne (by omega)
  unfold State.cciSent
  rw [State.rd_setFld_other _ _ _ _ hne, State.rd_setFld_other _ _ _ _ hne]
  rfl

theorem seqAtFe_exec (hj : (s.port p).cci = some j) (hw : j.waitFe = true) (hf : j.feSeen = true) :
    exec (.cciSeqAtFeStart p) s = .next (s.setPort p { s.port p with cci := some { j with waitFe := false } }) := by
  show execCciSeqAtFeStart p s = _
  unfold execCciSeqAtFeStart
  rw [hj]
  exact if_pos ⟨hw, hf⟩

end

/-- Settles O45. -/
theorem cameraControlTransfers : Obligations.CameraControlTransfers := by
  intro p s a
  refine ⟨fun val h hi => ⟨fun hv => ?_, fun hv => ?_, fun hv => ?_⟩, fun val h hi hv => ?_, fun j hj => ⟨fun hw hf => ?_, fun bytes hw =>
    ⟨?_, ?_, fun hr => ?_, fun hr hl => ?_, fun hr hl => ?_⟩⟩⟩
  · refine completes_next (congrArg Host.Outcome.next ((cciWrite_exec hv h).trans ((s.csiWord_cci p val).1 hv))) ?_
    obtain ⟨h1, -, h3, h4⟩ := State.cciStart_idle (j := s.cciSingle p val false) hi (by exact Nat.zero_lt_succ _)
    exact ⟨h1, h3, h4⟩
  · refine completes_next (congrArg Host.Outcome.next ((cciWrite_exec hv h).trans ((s.csiWord_cci p val).2.1 hv))) ?_
    obtain ⟨h1, -, h3, h4⟩ := State.cciStart_idle (j := s.cciSingle p val true) hi (by exact Nat.zero_lt_succ _)
    exact ⟨h1, h3, h4⟩
  · refine completes_next (congrArg Host.Outcome.next ((cciWrite_exec hv h).trans ((s.csiWord_cci p val).2.2 hv))) ?_
    obtain ⟨h1, h2, h3, h4⟩ := State.cciStart_idle (j := s.cciEntry p (bitsOf val 16 8) (bitsOf val 24 8) (bitsOf val 12 1 == 1)) hi
      (Nat.mod_lt _ (by decide))
    exact ⟨h1, h2, h4, h3⟩
  · refine completes_next (congrArg Host.Outcome.next ((cciWrite_exec hv h).trans ((s.csiWord_cci p val).1 hv))) ?_
    unfold State.cciStart
    rw [if_pos hi]
    obtain ⟨h1, h2, -⟩ := s.cciError_keeps p (s.cciSingle p val false).addr 0
    exact ⟨congrArg (fun m : Media => m.ports.look ⟨none, 0, []⟩ p) h1, h2⟩
  · exact completes_next (seqAtFe_exec hj hw hf) ⟨congrArg Port.cci (State.port_setPort _ _), rfl⟩
  · refine completes_next (transferDone_fails hj hw (.inl rfl)) ?_
    obtain ⟨h1, -, h3⟩ := ((s.cciSent p j true false).cciStop p).cciError_keeps p j.addr 1
    obtain ⟨h4, h5⟩ := (s.cciSent p j true false).cciStop_idle p
    obtain ⟨h6, h7⟩ := s.cciStop_status p j true false
    exact ⟨(congrArg (fun m : Media => (m.ports.look ⟨none, 0, []⟩ p).cci) h1).trans h4, (h3 0).trans h5, (h3 1).trans h6, (h3 2).trans h7⟩
  · refine completes_next (transferDone_fails hj hw (.inr rfl)) ?_
    obtain ⟨h1, -, h3⟩ := ((s.cciSent p j false true).cciStop p).cciError_keeps p j.addr 2
    obtain ⟨h4, h5⟩ := (s.cciSent p j false true).cciStop_idle p
    obtain ⟨h6, h7⟩ := s.cciStop_status p j false true
    exact ⟨(congrArg (fun m : Media => (m.ports.look ⟨none, 0, []⟩ p).cci) h1).trans h4, (h3 0).trans h5, (h3 1).trans h6, (h3 2).trans h7⟩
  · obtain ⟨h1, h2⟩ := State.cciStop_idle ((s.cciSent p j false false).wr (ro .csi p 0x70)
      (BitVec.ofNat 32 (bytes.toNat % 2 ^ (8 * j.len)))) p
    refine completes_next (transferDone_reads hj hw hr) ⟨h1, h2, ?_⟩
    exact (State.rd_setFld_other _ _ _ _ (csi_ne (by decide))).trans (State.rd_wr_same _ _ _)
  · exact completes_next (transferDone_last hj hw hr hl) (State.cciStop_idle _ p)
  · refine completes_next (transferDone_goesOn hj hw hr hl) ?_
    rw [State.cciEntry_congr (State.cciSent_entry s p j false false)]
    exact State.cciNext_next _ _ _ (Nat.mod_lt _ (by decide))

end Sys2Proof.Machine
end

section
/-! A pool that no register of retained pools names (O44). -/

namespace Sys2Proof.Machine

/-- A camera of port 0 with one tensor slot, whose progress word and credit lie at address 0. -/
def strayTap : TapCfg :=
  { boxes := false, colour := 0, matrix := 0, packed := false, outW := 0, outH := 0, x0 := 0, y0 := 0, cw := 0, ch := 0, dst := 0,
    slotBytes := 0, nslot := 1, pitch := 0, maxBox := 0, progress := 0, credit := 0, mul := [], add := [], sx := 0, sy := 0 }

def strayCamera : CamParam :=
  { port := 0, stale := 0, exposures := 1, cfa := 0, tensor := true, yuv := false, quiet := false, width := 16, height := 16,
    vcs := [0], dts := [0x2A], embVc := 0xFF, embLines := 0, hdrLag := 0, frameUs := 1000, firstMs := 1, table := 0, embBuf := 0,
    tap := strayTap, nbuf := 0 }

def strayFrame : CamFrame :=
  { number := 0, gts := 0, lines := [], seen := [], ends := [0], damaged := [], isDamaged := false, overflow := false, ended := true,
    dispatched := false, discard := none, writes := false, overrun := false, rows := 0, yuvRows := 0, lineNo := 0, serial := 5, emb := 0,
    linked := [] }

def strayCam : CamStream :=
  { ctx := 0, sq := 0, pool := 0, p := strayCamera, bufs := [], frames := [strayFrame], begun := 1, okCount := 0, others := 0,
    written := 0, checked := [0], openedAt := 0, deskewLogged := false, presentLogged := false, closing := none }

/-- Frame 0 of HBM belongs to pool 1927E40h, of which PWR's word of retained pools would lie at ISP0's status: the premises of O44 do
not bound the pools of the frame table. -/
def strayPool : State :=
  { State.reset with
    regs := [(ro .host 0 0x58, 1), (ro .pwr 0 0x78, 1)]
    pages := [(slotOf .isp 0, { Page.reset false with en := true })]
    yard := { State.reset.yard with frames := [(0, .pool (0xC93F2 * 32))] }
    media := { State.reset.media with cams := [(0, strayCam)] } }

/-- Refutes O44: the store of the tap's progress word clears the bit of the frame's pool among the retained ones (17 R569), and that bit
is BUSY of the pipeline. -/
theorem not_cameraFramesAndLoss : ¬ Obligations.CameraFramesAndLoss := by
  intro h
  obtain ⟨hframe, -⟩ := h 0 strayPool 0 strayCam (by decide +kernel) (by decide +kernel)
  obtain ⟨hdispatch, -⟩ := hframe strayFrame ⟨0, 0, 0, 0, 0, 0⟩ rfl (by decide +kernel)
  obtain ⟨t, ht, hbusy, -⟩ := hdispatch rfl (.inr rfl) (by decide +kernel) rfl (by decide +kernel) ⟨rfl, rfl⟩ (by decide +kernel)
  have idle : (match execFrameDispatch 0 strayPool with | .next t => t.bit (ro .isp 0 0x40) 0 | _ => true) = false := by decide +kernel
  rw [show execFrameDispatch 0 strayPool = .next t from ht] at idle
  exact absurd (hbusy.symm.trans idle) (by decide)

end Sys2Proof.Machine
end

section
/-! Page records of the scanner and a pool that no register of retained pools names (O46, O47). -/

namespace Sys2Proof.Machine

/-- A job whose slots lie at address 0. -/
def strayJob : ScanJob :=
  { desc := strayDesc, dst := 0, slotBytes := 64, nslot := 1, onButton := false, shading := false, btnStop := false, x0 := 0, width := 0,
    maxLines := 0, credit := 0, trayMs := 0, dpi := 300, sides := 1, colour := false, maxPages := 0, pool := 0, picked := 1, pages := 0,
    pressed := false, abort0 := false, aborts := [], final := none, waitSince := 0 }

/-- A sheet that has ended, whose page record is still to come. -/
def straySheet : Sheet :=
  { page := 0, gts := some 0, lead := none, trail := none, front := ⟨0, 0, 0, false⟩, back := ⟨0, 0, 0, false⟩, rows := [],
    ended := some 0 }

/-- Frame 0 of HBM belongs to pool 1967ECAh, of which PWR's word of retained pools would lie at SCN.STAT, with PAPER_IN_PATH as its bit;
a sheet is fed while the record of the one before is still to come. -/
def strayFeed : State :=
  { State.reset with
    regs := [(ro .pwr 0 0x78, 1), (scn 0x50, 2)]
    pages := [(slotOf .scn 0, eventful)]
    yard := { State.reset.yard with frames := [(0, .pool (0xCB3F6 * 32 + 10))] }
    scan := { Scanner.reset with job := some strayJob, sheets := [straySheet], line := 4096 } }

/-- Refutes O47: a misfeed marks the path as occupied and then writes the page record that is due; the store of the page's header clears
the bit of its frame's pool among the retained ones (17 R569), and that bit is PAPER_IN_PATH. -/
theorem not_scanLinesFaultsAndCalibration : ¬ Obligations.ScanLinesFaultsAndCalibration := by
  intro h
  obtain ⟨-, -, -, hfaults, -⟩ := h
  obtain ⟨hmis, -⟩ := hfaults strayFeed strayJob rfl
  obtain ⟨t, ht, -, -, hpath, -⟩ := hmis (by decide +kernel) (by decide +kernel)
  have clear : (match execMisfeed strayFeed with | .next t => t.bit (scn 0x50) 10 | _ => true) = false := by decide +kernel
  rw [show execMisfeed strayFeed = .next t from ht] at clear
  exact absurd (hpath.symm.trans clear) (by decide)

/-- A SCAN_ABORT of context 0 with MODE 1 (14 R487). -/
def strayAbort : Desc := { strayDesc with bits := BitVec.ofNat 512 (0x0E + 256 ^ 16), started := false }

/-- Frame 0 of HBM belongs to pool 1977F03h, of which PWR's word of retained pools would lie at MOT.STAT, with a bit of PHASE as its bit;
context 0 is OPEN, has a job and aborts it. -/
def strayHalt : State :=
  { State.reset with
    regs := [(ro .pwr 0 0x78, 1), (cr 0 0x40, BitVec.ofNat 32 stOpen)]
    ctxs := [(0, { Ctx.reset with descs := [strayAbort] })]
    yard := { State.reset.yard with frames := [(0, .pool (0xCBBF8 * 32 + 3))] }
    scan := { Scanner.reset with job := some strayJob, sheets := [straySheet] } }

/-- Refutes O46: an abort at the line stops the motor and then writes the page record that is due; the store of the page's header clears
the bit of its frame's pool among the retained ones (17 R569), and that bit is one of PHASE. -/
theorem not_scanJobs : ¬ Obligations.ScanJobs := by
  intro h
  obtain ⟨-, habort, -⟩ := h
  have premises : ((strayHalt.beforeChecks 0 0 0x0E).any fun x =>
      decide (x.1.scanAbortCheck x.2 = none) && decide (x.1.scan.job = some strayJob)) = true := by decide +kernel
  obtain ⟨hsome, hx⟩ := (Option.any_eq_true_iff_get _ _).1 premises
  obtain ⟨⟨u, d⟩, hu⟩ := Option.isSome_iff_exists.1 hsome
  simp only [hu, Option.get_some] at hx
  obtain ⟨hc, hj⟩ := Bool.and_eq_true_iff.1 hx
  obtain ⟨-, hline, -⟩ := habort 0 0 strayHalt u d strayJob hu (of_decide_eq_true hc) (of_decide_eq_true hj)
  obtain ⟨t, ht, -, hstopped, -⟩ := hline (by decide +kernel) rfl
  have phase : (match execScanAbortAtLine 0 0 strayHalt with | .next t => t.motPhase | _ => mStopped) = 4 := by decide +kernel
  rw [show execScanAbortAtLine 0 0 strayHalt = .next t from ht] at phase
  exact absurd (hstopped.symm.trans phase) (by decide)

end Sys2Proof.Machine
end

section
/-! The sample pipelines (O48). -/

namespace Sys2Proof.Machine

/-! ### Bits that show which of four pipelines something holds of -/

theorem bitsOf_within (v : Word) (lo : Nat) (k : Fin 4) : bitsOf v (lo + k) 1 = bitsOf v lo 4 / 2 ^ k.val % 2 := by
  unfold bitsOf
  rw [pow_add, ← Nat.div_div_eq_div_mul]
  generalize v.toNat / 2 ^ lo = x
  obtain rfl | rfl | rfl | rfl : k = 0 ∨ k = 1 ∨ k = 2 ∨ k = 3 := by omega
  all_goals
    simp only [Fin.val_zero, Fin.val_one, Fin.val_two, show ((3 : Fin 4) : Nat) = 3 from rfl]
    omega

theorem sum_bits (f : Nat → Bool) (k : Fin 4) :
    ((List.range 4).map fun p => if f p then 2 ^ p else 0).sum % 2 ^ 4 / 2 ^ k.val % 2 = if f k then 1 else 0 := by
  have bits : ∀ (a b c d : Bool) (k : Fin 4), ((if a then 2 ^ 0 else 0) + ((if b then 2 ^ 1 else 0) + ((if c then 2 ^ 2 else 0) +
      ((if d then 2 ^ 3 else 0) + 0)))) % 2 ^ 4 / 2 ^ k.val % 2 = if [a, b, c, d].getD k.val false then 1 else 0 := by decide
  refine (bits (f 0) (f 1) (f 2) (f 3) k).trans ?_
  obtain rfl | rfl | rfl | rfl : k = 0 ∨ k = 1 ∨ k = 2 ∨ k = 3 := by omega
  all_goals rfl

section
variable {s t : State} {pipe : Fin 4} {r : SmpRun}

/-- The pipeline's next position waits for credit (15 R516). -/
def State.smpStands (s : State) (p : Nat) : Bool :=
  (s.pipeRun p).any fun r => decide (r.next < (r.first + r.steps) * r.batch) && !s.smpCredit r (r.next / max 1 r.batch)

/-- STAT.CREDIT_WAIT of a pipeline (15 R521). -/
theorem State.smpStat_credit (s : State) (p : Fin 4) :
    bitsOf (s.readWord ⟨.smp, 0⟩ 0x40) (4 + p) 1 = if s.smpStands p then 1 else 0 := by
  have hr : s.readWord ⟨.smp, 0⟩ 0x40 = withBits (s.rd (ro .smp 0 0x40)) 4 4 s.smpWaits := BitVec.ofNat_toNat _ _
  rw [hr, bitsOf_within, bitsOf_withBits _ _ _ _ (by decide)]
  exact sum_bits s.smpStands p

theorem State.smpStands_of (h : s.pipeRun pipe = some r) (hm : r.more = true) :
    s.smpStands pipe = !s.smpCredit r (r.next / max 1 r.batch) := by
  unfold State.smpStands
  rw [h, Option.any_some, show decide (r.next < (r.first + r.steps) * r.batch) = true from hm, Bool.true_and]

/-! ### What leaves the lanes alone -/

theorem Tbl.look?_filter_none {α : Type} {t : Tbl α} {k : Nat} (h : t.look? k = none) (q : Nat × α → Bool) :
    Tbl.look? (t.filter q) k = none := by
  induction t with
  | nil => rfl
  | cons e t ih =>
    by_cases hk : e.1 = k
    · simp [Tbl.look?, hk] at h
    · have ht : Tbl.look? t k = none := by simpa [Tbl.look?, hk] using h
      by_cases hq : q e
      · simpa [List.filter_cons, hq, Tbl.look?, hk] using ih ht
      · simpa [List.filter_cons, hq] using ih ht

theorem State.smpStat_smp (s : State) : s.smpStat.smp = s.smp := by
  unfold State.smpStat
  dsimp only
  refine (foldl_kept State.smp _ ?_ _ _).trans rfl
  exact fun _ _ => rfl

theorem State.Stored.smp {z s : State} (h : z.Stored s) : s.smp = z.smp := by
  obtain ⟨r, m, p, l, x, b, f, rfl⟩ := h
  rfl

theorem State.updRun_lanes (u : Nat) (f : SmpRun → SmpRun) : (s.updRun u f).smp.lanes = s.smp.lanes := rfl

theorem State.smpEnd_lane {k : Nat} (h : s.smp.lanes.look? k = none) (st : Status) : (s.smpEnd r st).smp.lanes.look? k = none := by
  unfold State.smpEnd
  dsimp only
  rw [State.smpStat_smp, State.complete_smp]
  split
  · rw [State.raise_smp]
    exact Tbl.look?_filter_none h _
  · exact Tbl.look?_filter_none h _

/-- The header and index of a complete step, and its run without the step (15 R515, R516). -/
def State.releaseStep (s : State) (u : Nat) (r : SmpRun) (st : SmpStep) : State :=
  let k := r.first + r.released
  let real := st.done.filter fun e => !e.2.padding
  let ok := (real.filter fun e => e.2.status == 0).length
  let s := s.storeAt (r.slot k + 8) (leBytes 8 s.gts ++ leBytes 4 ok ++ leBytes 4 (real.length - ok) ++ List.replicate 40 0)
  let s := (s.storeAt (r.slot k) (leBytes 8 k)).wr (ro .smp 0 (0x64 + 8 * r.pipe)) (BitVec.ofNat 32 k)
  s.updRun u fun r => { r with released := r.released + 1, opened := r.opened.filter fun x => x.step != k }

theorem State.releaseStep_lanes (u : Nat) (st : SmpStep) : (s.releaseStep u r st).smp.lanes = s.smp.lanes := by
  unfold State.releaseStep
  dsimp only
  rw [State.updRun_lanes]
  exact congrArg Smp.lanes ((State.Stored.refl.storeAt _ _).storeAt _ _).smp

theorem State.smpRelease_succ (u fuel : Nat) : s.smpRelease u (fuel + 1) =
    match s.smp.runs.find? fun r => r.desc.uid == u with
    | none => s
    | some r => match r.opened.find? fun x => x.step == r.first + r.released with
      | none => s
      | some st => if st.done.length < r.batch ∨ s.ringBlocked r.desc.ctx then s
        else if r.released + 1 = r.steps then
          match (s.releaseStep u r st).smp.runs.find? fun r => r.desc.uid == u with
          | some r' => (s.releaseStep u r st).smpEnd r' .ok
          | none => s.releaseStep u r st
        else (s.releaseStep u r st).smpRelease u fuel := rfl

/-- A free lane stays free as steps are released. -/
theorem State.smpRelease_lane {k : Nat} (u fuel : Nat) {s : State} (h : s.smp.lanes.look? k = none) :
    (s.smpRelease u fuel).smp.lanes.look? k = none := by
  induction fuel generalizing s with
  | zero => exact h
  | succ fuel ih =>
    have next : ∀ r st, (s.releaseStep u r st).smp.lanes.look? k = none := fun r st => by rw [State.releaseStep_lanes, h]
    rw [State.smpRelease_succ]
    split
    · exact h
    · split
      · exact h
      · split
        · exact h
        · split
          · split
            · exact State.smpEnd_lane (next _ _) _
            · exact next _ _
          · exact ih (next _ _)

/-! ### SMP_RUN -/

/-- The run that a SMP_RUN asks for (15 R518). -/
def State.runOf (s : State) (d : Desc) : SmpRun :=
  { desc := d, pipe := d.target, seed := d.addr 16, epoch := d.nat 24 4, first := d.nat 28 4,
    steps := d.nat 32 4, batch := d.nat 36 4, n := d.nat 56 4, dataset := d.addr 40,
    block := smpBlockOf (s.smpBytes d), next := d.nat 28 4 * d.nat 36 4, opened := [], released := 0, notOk := 0,
    rejects := 0, firstBad := none, queuedAt := s.gts, poisoned := false }

def State.joinRuns (s : State) (r : SmpRun) : State := { s with smp := { s.smp with runs := s.smp.runs ++ [r] } }

theorem State.smpStat_mem (s : State) : s.smpStat.mem = s.mem := by
  unfold State.smpStat
  dsimp only
  refine (foldl_kept State.mem _ ?_ _ _).trans rfl
  exact fun _ _ => rfl

theorem smpRun_joins {ctx : Fin 256} {sq : Fin 4} {s u : State} {d : Desc} (h : s.beforeChecks ctx sq 0x0F = some (u, d))
    (hc : u.smpCheck d = none) (hb : u.blockOn .smp 0 = true) :
    exec (.smpRun ctx sq) s = .next (u.joinRuns (u.runOf d)).smpStat := by
  refine congrArg Host.Outcome.next (State.take_goes _ _ h ?_)
  rw [hc, hb]
  rfl

theorem smpRun_refuses {ctx : Fin 256} {sq : Fin 4} {s u : State} {d : Desc} {st : Status}
    (h : s.beforeChecks ctx sq 0x0F = some (u, d)) (hc : u.smpCheck d = some st) :
    exec (.smpRun ctx sq) s = .next (u.complete d st 0 0) := by
  refine congrArg Host.Outcome.next (State.take_refused _ _ h ?_)
  rw [hc]
  rfl

/-! ### Issue -/

/-- The run's next position goes to lane `l` (15 R514). -/
def State.issueTo (s : State) (r : SmpRun) (l : Nat) (bufs : List (Nat × Nat)) : State :=
  State.updRun { s with smp := { s.smp with lanes := s.smp.lanes.put l ⟨r.desc.uid, r.next, bufs⟩ } } r.desc.uid fun r =>
    { r with next := r.next + 1 }

section
variable (hr : s.pipeRun pipe = some r) (hm : r.more = true) (hg : s.blockGoes .smp 0 = true) (hf : s.frozen .smp 0 = false)
include hr hm hg hf

theorem sampleIssue_waits (hc : s.smpCredit r (r.next / max 1 r.batch) = false) : exec (.sampleIssue pipe) s = .next s := by
  show execSampleIssue pipe s = _
  unfold execSampleIssue
  rw [hr]
  dsimp only
  rw [if_neg (by simp [hm, hg, hf]), if_pos (by simp [hc])]

theorem sampleIssue_pads (hc : s.smpCredit r (r.next / max 1 r.batch) = true) (hn : r.n ≤ r.next) :
    exec (.sampleIssue pipe) s = .next ((((s.updRun r.desc.uid fun r => { r with next := r.next + 1 }).storeAt
      (r.dataAddr (r.next / max 1 r.batch) (r.next % r.batch)) (List.replicate r.block.sb 0)).smpFinal r r.next
      ⟨0xFFFFFFFF, 0, 0, r.openLabel 0xFFFFFFFF r.next, true⟩).smpRelease r.desc.uid r.steps) := by
  show execSampleIssue pipe s = _
  unfold execSampleIssue
  rw [hr]
  dsimp only
  rw [if_neg (by simp [hm, hg, hf]), if_neg (by simp [hc]), if_pos hn]

theorem sampleIssue_issues {l : Nat} (hc : s.smpCredit r (r.next / max 1 r.batch) = true) (hn : r.next < r.n)
    (ha : s.smpAhead r = false) (hl : s.freeLane = some l) :
    ∃ bufs, exec (.sampleIssue pipe) s = .next (s.issueTo r l bufs).smpStat := by
  refine ⟨?_, ?_⟩
  rotate_left
  · show execSampleIssue pipe s = _
    unfold execSampleIssue
    rw [hr]
    dsimp only
    rw [if_neg (by simp [hm, hg, hf]), if_neg (by simp [hc]), if_neg (Nat.not_le.2 hn), if_neg (by simp [ha]), hl]
    rfl

end

theorem State.issueTo_run {l : Nat} {bufs : List (Nat × Nat)} (h : r ∈ s.smp.runs) :
    ∃ y ∈ (s.issueTo r l bufs).smp.runs, y.desc.uid = r.desc.uid ∧ y.next = r.next + 1 :=
  ⟨{ r with next := r.next + 1 }, List.mem_map.2 ⟨r, h, if_pos rfl⟩, rfl, rfl⟩

/-! ### A lane's end -/

theorem State.smpProcess_unreadable {l : SmpLane} (h : s.clean)
    (hh : s.smpHeader r (shuffle r.seed.toNat r.epoch r.n l.pos) = none) :
    s.smpProcess r l = some (s.smpReject r l.pos (shuffle r.seed.toNat r.epoch r.n l.pos) .limitRejected) := by
  unfold State.smpProcess
  dsimp only
  rw [State.touchAt_clean h, State.poisonAt_clean h]
  dsimp only
  rw [hh]

/-- The lane is free again. -/
def State.freeSmpLane (s : State) (lane : Nat) : State := { s with smp := { s.smp with lanes := s.smp.lanes.del lane } }

theorem sampleDone_exec {lane : Fin 8} {l : SmpLane} {v : State} (hl : s.smp.lanes.look? lane = some l)
    (hr : (s.smp.runs.find? fun r => r.desc.uid == l.run) = some r) (hf : s.frozen .smp 0 = false) (hv : s.smpProcess r l = some v) :
    exec (.sampleDone lane) s = .next ((v.freeSmpLane lane).smpStat.smpRelease r.desc.uid r.steps) := by
  have done : s.laneDone lane = some ((v.freeSmpLane lane).smpStat.smpRelease r.desc.uid r.steps) := by
    unfold State.laneDone
    simp only [hl, hr, hv, Option.bind_eq_bind, Option.bind_some]
    rfl
  show execSampleDone lane s = _
  unfold execSampleDone
  rw [if_neg (by simp [hf]), done]
  rfl

theorem State.freeSmpLane_lane (v : State) (lane u fuel : Nat) :
    ((v.freeSmpLane lane).smpStat.smpRelease u fuel).smp.lanes.look? lane = none :=
  State.smpRelease_lane u fuel (by rw [State.smpStat_smp]; exact Tbl.look?_del_same _ _)

end

/-- Settles O48. -/
theorem samplePipelines : Obligations.SamplePipelines := by
  refine ⟨fun ctx sq s u d h => ⟨fun st hc => ?_, fun hc hb => ?_⟩, fun pipe s r hr hm hg hf => ?_,
    fun lane s l r hl hr hf => ⟨fun hcl hh => State.smpProcess_unreadable hcl hh, fun v hv => ?_⟩⟩
  · exact completes_next (smpRun_refuses h hc) (State.complete_reported _ _ _ _ _)
  · refine completes_next (smpRun_joins h hc hb) ⟨u.runOf d, ?_, rfl, rfl, rfl, rfl, rfl, rfl, rfl, rfl, rfl, ?_⟩
    · rw [State.smpStat_smp]
      rfl
    · rw [State.smpStat_mem]
      rfl
  · have hstands := State.smpStands_of hr hm
    refine ⟨fun hc => ⟨sampleIssue_waits hr hm hg hf hc, ?_⟩, fun hc hn => ⟨?_, sampleIssue_pads hr hm hg hf hc hn⟩,
      fun l hc hn ha hl => ?_⟩
    · rw [State.smpStat_credit, hstands, hc]
      rfl
    · rw [State.smpStat_credit, hstands, hc]
      rfl
    · obtain ⟨bufs, hx⟩ := sampleIssue_issues hr hm hg hf hc hn ha hl
      refine completes_next hx ?_
      rw [State.smpStat_smp, State.smpStat_mem]
      exact ⟨⟨bufs, Tbl.look?_put_same _ _ _⟩, State.issueTo_run (List.mem_of_find?_eq_some hr), rfl⟩
  · exact completes_next (sampleDone_exec hl hr hf hv) ⟨v.freeSmpLane_lane lane _ _, rfl⟩

end Sys2Proof.Machine
end

section
/-! The power limit and the clocks (O50). -/

namespace Sys2Proof.Machine

/-! ### Registers outside a set -/

/-- Only registers of `l` differ. -/
def State.RdBut (l : List Nat) (s t : State) : Prop := ∀ a, a ∉ l → t.rd a = s.rd a

section
variable {l : List Nat} {z s : State}

theorem State.RdBut.refl : State.RdBut l s s := fun _ _ => rfl

theorem State.RdBut.setFld (h : State.RdBut l z s) {a : Nat} (lo w n : Nat) (ha : a ∈ l) : State.RdBut l z (s.setFld a lo w n) :=
  fun b hb => (State.rd_setFld_other _ _ _ _ (ne_of_mem_of_not_mem ha hb)).trans (h b hb)

theorem State.RdBut.wr (h : State.RdBut l z s) {a : Nat} (v : Word) (ha : a ∈ l) : State.RdBut l z (s.wr a v) :=
  fun b hb => (State.rd_wr_other _ _ (ne_of_mem_of_not_mem ha hb)).trans (h b hb)

theorem State.RdBut.raise (h : State.RdBut l z s) (src code : Nat) (data : List EvVal) (ctx func : Nat) (h1 : ro .evr 0 0x60 ∈ l)
    (h2 : ro .evr 0 0x58 ∈ l) : State.RdBut l z (s.raise src code data ctx func) :=
  fun b hb => (s.raise_rd src code data ctx func (ne_of_mem_of_not_mem h1 hb).symm (ne_of_mem_of_not_mem h2 hb).symm).trans (h b hb)

theorem State.RdBut.wr64 (h : State.RdBut l z s) {a : Nat} (v : Word64) (h1 : a ∈ l) (h2 : a + 4 ∈ l) : State.RdBut l z (s.wr64 a v) :=
  (h.wr _ h1).wr _ h2

theorem State.RdBut.add64 (h : State.RdBut l z s) {a : Nat} (n : Nat) (h1 : a ∈ l) (h2 : a + 4 ∈ l) : State.RdBut l z (s.add64 a n) :=
  h.wr64 _ h1 h2

theorem State.RdBut.withPwr (h : State.RdBut l z s) (f : Power → Power) : State.RdBut l z (s.withPwr f) := fun a ha => h a ha

theorem State.RdBut.ite {t : State} {c : Prop} {_ : Decidable c} (h : State.RdBut l z s) (k : State.RdBut l z t) :
    State.RdBut l z (if c then s else t) := by split <;> assumption

theorem State.RdBut.trans {t : State} (h : State.RdBut l z s) (k : State.RdBut l s t) : State.RdBut l z t :=
  fun a ha => (k a ha).trans (h a ha)

theorem State.RdBut.fld (h : State.RdBut l z s) {a : Nat} (lo w : Nat) (ha : a ∉ l) : s.fld a lo w = z.fld a lo w := by
  simp [State.fld, h a ha]

theorem State.RdBut.bit (h : State.RdBut l z s) {a : Nat} (lo : Nat) (ha : a ∉ l) : s.bit a lo = z.bit a lo :=
  congrArg (· == 1) (h.fld lo 1 ha)

end

theorem Tbl.look?_put_other {α : Type} (t : Tbl α) {k j : Nat} (v : α) (h : k ≠ j) : (t.put k v).look? j = t.look? j := by
  rw [Tbl.look?_put, if_neg h]

/-! ### Targets of the clocks -/

section
variable {s : State}

/-- The flags that show which limit holds (17 R571). -/
def State.limitFlags (s : State) : State :=
  let s1 := s.setFld (pwrA 0x50) 7 1 (if s.pwr.lim < s.wantMhz then 1 else 0)
  s1.setFld (pwrA 0x50) 9 1 (if s1.thermCap 0 < s.wantMhz ∨ s1.thermCap 1 < s.wantMhz then 1 else 0)

/-- A die's target: a change begins where its clock differs, unless one is in progress or it may not be raised (17 R573). -/
def State.aim (want lim : Nat) (s : State) (d : Nat) : State :=
  let t := min want (min lim (s.thermCap d))
  let up := s.mhz d < t
  if t = s.mhz d ∨ (s.pwr.steps.look? d).isSome ∨ (up ∧ (s.pwr.avsBad.look? d).isSome) then s
  else
    let cause := if s.thermCap d < min want lim then 2 else if lim < want then 1 else 0
    s.withPwr fun p => { p with steps := p.steps.put d ⟨t, cause, up, false⟩ }

theorem State.retarget_eq (s : State) : s.retarget = (s.limitFlags.aim s.wantMhz s.pwr.lim 0).aim s.wantMhz s.pwr.lim 1 := rfl

/-- A die's target changes only the table of steps, and of it only the die's entry. -/
theorem State.aim_steps (want lim : Nat) (s : State) (d : Nat) : ∃ x, s.aim want lim d = s.withPwr (fun p => { p with steps := x }) ∧
    ∀ k, k ≠ d → x.look? k = s.pwr.steps.look? k := by
  unfold State.aim
  dsimp only
  split
  · exact ⟨s.pwr.steps, rfl, fun _ _ => rfl⟩
  · exact ⟨_, rfl, fun _ hk => Tbl.look?_put_other _ _ hk.symm⟩

/-- Setting the targets writes the flags, and of PWR the steps. -/
theorem State.retarget_frame (s : State) : ∃ x, s.retarget = { s with regs := s.limitFlags.regs, pwr := { s.pwr with steps := x } } := by
  obtain ⟨x, hx, -⟩ := s.limitFlags.aim_steps s.wantMhz s.pwr.lim 0
  obtain ⟨y, hy, -⟩ := (s.limitFlags.aim s.wantMhz s.pwr.lim 0).aim_steps s.wantMhz s.pwr.lim 1
  refine ⟨y, ?_⟩
  rw [State.retarget_eq, hy, hx]
  rfl

theorem State.retarget_rd (s : State) : State.RdBut [pwrA 0x50] s s.retarget := by
  obtain ⟨x, hx⟩ := s.retarget_frame
  rw [hx]
  exact (State.RdBut.refl.setFld _ _ _ (List.mem_singleton_self _)).setFld _ _ _ (List.mem_singleton_self _)

/-- A clock that differs from its goal begins a step towards it (17 R571, R573). -/
theorem State.aim_begins {want lim d : Nat} (h : min want (min lim (s.thermCap d)) ≠ s.mhz d) (hs : s.pwr.steps.look? d = none)
    (hb : s.pwr.avsBad.look? d = none) : ∃ x, (s.aim want lim d).pwr.steps.look? d = some x ∧ x.mhz = min want (min lim (s.thermCap d)) ∧
      x.raising = decide (s.mhz d < min want (min lim (s.thermCap d))) ∧ x.switched = false := by
  unfold State.aim
  dsimp only
  rw [if_neg (by simp [h, hs, hb])]
  exact ⟨_, Tbl.look?_put_same _ _ _, rfl, rfl, rfl⟩

theorem State.limitFlags_rd (s : State) : State.RdBut [pwrA 0x50] s s.limitFlags :=
  (State.RdBut.refl.setFld _ _ _ (List.mem_singleton_self _)).setFld _ _ _ (List.mem_singleton_self _)

theorem thA_notMem (o : Nat) : thA o ∉ [pwrA 0x50] := by
  have h1 : slotOf .therm 0 = 4 := rfl
  have h2 : pwrA 0x50 = 0x3050 := rfl
  rw [List.mem_singleton, h2]
  unfold thA ro
  rw [h1]
  omega

theorem State.RdBut.mhz {t : State} {l : List Nat} (h : State.RdBut l s t) (hl : pwrA 0x60 ∉ l) (d : Nat) : t.mhz d = s.mhz d := h.fld _ _ hl

theorem State.RdBut.thermCap {t : State} {l : List Nat} (h : State.RdBut l s t) (hl : thA 0x48 ∉ l) (d : Nat) : t.thermCap d = s.thermCap d :=
  h.fld _ _ hl

theorem State.retarget_begins (s : State) (d : Fin 2) (h : min s.wantMhz (min s.pwr.lim (s.thermCap d)) ≠ s.mhz d)
    (hs : s.pwr.steps.look? d = none) (hb : s.pwr.avsBad.look? d = none) :
    ∃ x, s.retarget.pwr.steps.look? d = some x ∧ x.mhz = min s.wantMhz (min s.pwr.lim (s.thermCap d)) ∧
      x.raising = decide (s.mhz d < min s.wantMhz (min s.pwr.lim (s.thermCap d))) ∧ x.switched = false := by
  have hcap : s.limitFlags.thermCap d = s.thermCap d := s.limitFlags_rd.thermCap (by decide) d
  have hmhz : s.limitFlags.mhz d = s.mhz d := s.limitFlags_rd.mhz (by decide) d
  rw [State.retarget_eq, ← hcap, ← hmhz]
  rw [← hcap, ← hmhz] at h
  obtain ⟨x, hx, hkx⟩ := s.limitFlags.aim_steps s.wantMhz s.pwr.lim 0
  obtain rfl | rfl : d = 0 ∨ d = 1 := by omega
  · obtain ⟨y, hy, hky⟩ := (s.limitFlags.aim s.wantMhz s.pwr.lim 0).aim_steps s.wantMhz s.pwr.lim 1
    obtain ⟨v, hv, hrest⟩ := State.aim_begins h (by exact hs) (by exact hb)
    refine ⟨v, ?_, hrest⟩
    rw [hy]
    exact (hky 0 (by decide)).trans hv
  · have h1 : (s.limitFlags.aim s.wantMhz s.pwr.lim 0).thermCap 1 = s.limitFlags.thermCap 1 := by rw [hx]; rfl
    have h2 : (s.limitFlags.aim s.wantMhz s.pwr.lim 0).mhz 1 = s.limitFlags.mhz 1 := by rw [hx]; rfl
    have h3 : (s.limitFlags.aim s.wantMhz s.pwr.lim 0).pwr.steps.look? 1 = none := by
      rw [hx]
      exact (hkx 1 (by decide)).trans hs
    have h4 : (s.limitFlags.aim s.wantMhz s.pwr.lim 0).pwr.avsBad.look? 1 = none := by rw [hx]; exact hb
    have h5 := State.aim_begins (s := s.limitFlags.aim s.wantMhz s.pwr.lim 0) (want := s.wantMhz) (lim := s.pwr.lim) (d := 1)
      (by rw [h1, h2]; exact h) h3 h4
    rw [h1, h2] at h5
    exact h5

theorem State.retarget_pwr (s : State) : ∃ x, s.retarget.pwr = { s.pwr with steps := x } := by
  obtain ⟨x, hx⟩ := s.retarget_frame
  exact ⟨x, by rw [hx]⟩

end

/-! ### Samples of the power -/

/-- The samples of the window with the newest one, and their mean (17 R570). -/
def State.powerWindow (s : State) (dw : Nat) : List Nat := (dw :: s.pwr.samples).take (10 * s.fld (pwrA 0x44) 8 8)

def meanOf (l : List Nat) : Nat := l.foldl (· + ·) 0 / max 1 l.length

theorem meanOf_eq (l : List Nat) : meanOf l = l.sum / max 1 l.length := by
  rw [meanOf, ← List.sum_eq_foldl]

section
variable {s : State}

/-- The mean and the sample in PWR.POWER (17 R570). -/
def State.showPower (s : State) (avg dw : Nat) : State :=
  (s.setFld (pwrA 0x64) 0 16 (min 65535 avg)).setFld (pwrA 0x64) 16 16 (min 65535 dw)

/-- The energy counter and the window (17 R570). -/
def State.countEnergy (s : State) (l : List Nat) (e : Nat) : State :=
  (s.add64 (pwrA 0x90) (e / 100)).withPwr fun p => { p with samples := l, energyPart := e % 100 }

def State.endOverload (s : State) (avg : Nat) : State := if avg ≤ s.limitDw then s.setFld (pwrA 0x50) 8 1 0 else s

/-- What every sample does (17 R570). -/
def State.takePower (s : State) (dw : Nat) : State :=
  ((s.showPower (meanOf (s.powerWindow dw)) dw).countEnergy (s.powerWindow dw) (s.pwr.energyPart + dw)).endOverload
    (meanOf (s.powerWindow dw))

/-- A sample above 360 W lowers lim at once (17 R572). -/
def State.lowerLim (s : State) : State :=
  (s.withPwr fun p => { p with lim := max 200 (p.lim - 100), limFastAt := some s.now }).retarget

theorem powerSample_exec (dw : Nat) (h : s.boot.aonUp = true) : exec (.powerSample dw) s = .next
    (if 3600 < dw ∧ ((s.takePower dw).pwr.limFastAt.all fun t => decide (t + 1000000 ≤ (s.takePower dw).now)) ∧
      (s.takePower dw).ready then (s.takePower dw).lowerLim else s.takePower dw) := by
  show execPowerSample dw s = _
  unfold execPowerSample
  rw [if_neg (by simp [h])]
  exact (apply_ite Host.Outcome.next _ _ _).symm

theorem State.endOverload_frame (s : State) (avg : Nat) : (s.endOverload avg).pwr = s.pwr ∧ (s.endOverload avg).now = s.now ∧
    State.RdBut [pwrA 0x50] s (s.endOverload avg) := by
  unfold State.endOverload
  split
  · exact ⟨rfl, rfl, State.RdBut.refl.setFld _ _ _ (List.mem_singleton_self _)⟩
  · exact ⟨rfl, rfl, State.RdBut.refl⟩

theorem State.countEnergy_rd (s : State) (l : List Nat) (e : Nat) : State.RdBut [pwrA 0x90, pwrA 0x94] s (s.countEnergy l e) :=
  (State.RdBut.refl.add64 (e / 100) (by decide) (by decide)).withPwr _

theorem State.showPower_rd (s : State) (avg dw : Nat) : State.RdBut [pwrA 0x64] s (s.showPower avg dw) :=
  (State.RdBut.refl.setFld _ _ _ (List.mem_singleton_self _)).setFld _ _ _ (List.mem_singleton_self _)

theorem State.countEnergy_pwr (s : State) (l : List Nat) (e : Nat) :
    (s.countEnergy l e).pwr = { s.pwr with samples := l, energyPart := e % 100 } := rfl

theorem State.countEnergy_now (s : State) (l : List Nat) (e : Nat) : (s.countEnergy l e).now = s.now := rfl

theorem State.showPower_pwr (s : State) (avg dw : Nat) : (s.showPower avg dw).pwr = s.pwr := rfl

theorem State.showPower_now (s : State) (avg dw : Nat) : (s.showPower avg dw).now = s.now := rfl

theorem State.takePower_pwr (s : State) (dw : Nat) : (s.takePower dw).pwr =
    { s.pwr with samples := s.powerWindow dw, energyPart := (s.pwr.energyPart + dw) % 100 } := by
  rw [State.takePower, (State.endOverload_frame _ _).1, State.countEnergy_pwr, State.showPower_pwr]

theorem State.takePower_now (s : State) (dw : Nat) : (s.takePower dw).now = s.now := by
  rw [State.takePower, (State.endOverload_frame _ _).2.1, State.countEnergy_now, State.showPower_now]

theorem State.takePower_ready (s : State) (dw : Nat) : (s.takePower dw).ready = s.ready := by
  refine ((State.endOverload_frame _ _).2.2.bit 0 (by decide)).trans ?_
  exact ((State.countEnergy_rd _ _ _).bit 0 (by decide)).trans ((s.showPower_rd _ _).bit 0 (by decide))

/-- The mean and the last sample (17 R570). -/
theorem State.takePower_shows (s : State) (dw : Nat) : (s.takePower dw).avgDw = min 65535 (meanOf (s.powerWindow dw)) ∧
    (s.takePower dw).fld (pwrA 0x64) 16 16 = min 65535 dw := by
  have later : ∀ lo w, (s.takePower dw).fld (pwrA 0x64) lo w = (s.showPower (meanOf (s.powerWindow dw)) dw).fld (pwrA 0x64) lo w :=
    fun lo w => ((State.endOverload_frame _ _).2.2.fld lo w (by decide)).trans ((State.countEnergy_rd _ _ _).fld lo w (by decide))
  have small : ∀ n, min 65535 n % 2 ^ 16 = min 65535 n := fun n => by omega
  refine ⟨(later 0 16).trans ?_, (later 16 16).trans ?_⟩
  · unfold State.showPower
    rw [State.fld_setFld_apart _ _ _ _ _ _ _ (by decide) (by decide), State.fld_setFld _ _ _ _ _ (by decide), small]
  · unfold State.showPower
    rw [State.fld_setFld _ _ _ _ _ (by decide), small]

theorem State.lowerLim_frame (s : State) : (∃ x, s.lowerLim.pwr =
    { s.pwr with lim := max 200 (s.pwr.lim - 100), limFastAt := some s.now, steps := x }) ∧ State.RdBut [pwrA 0x50] s s.lowerLim := by
  obtain ⟨x, hx⟩ := (s.withPwr fun p => { p with lim := max 200 (p.lim - 100), limFastAt := some s.now }).retarget_pwr
  exact ⟨⟨x, hx⟩, State.retarget_rd _⟩

end

/-! ### The governor's step -/

section
variable {s : State}

/-- lim after a millisecond (17 R571). -/
def State.nextLim (s : State) : Nat :=
  if s.limitDw < s.avgDw then max 200 (s.pwr.lim - 25)
  else if s.avgDw + s.fld (pwrA 0x44) 16 8 * 10 < s.limitDw then min 1500 (s.pwr.lim + 25) else s.pwr.lim

/-- lim and the time it has been at its least (17 R572). -/
def State.moveLim (s : State) : State :=
  s.withPwr fun p => { p with lim := s.nextLim, limMs := if s.nextLim = 200 then s.pwr.limMs + 1 else 0 }

def State.noteOverload (s : State) (avg : Nat) : State :=
  if 10 < s.pwr.limMs ∧ s.limitDw < avg ∧ !s.bit (pwrA 0x50) 8 then (s.setFld (pwrA 0x50) 8 1 1).raise 0x0003 0x2033 [] else s

theorem governMs_exec (h : s.ready = true) : exec .governMs s = .next (s.moveLim.noteOverload s.avgDw).retarget := by
  show execGovernMs s = _
  unfold execGovernMs
  rw [if_neg (by simp [h])]
  rfl

theorem State.noteOverload_frame (s : State) (avg : Nat) : (s.noteOverload avg).pwr = s.pwr ∧
    State.RdBut [pwrA 0x50, ro .evr 0 0x60, ro .evr 0 0x58] s (s.noteOverload avg) := by
  unfold State.noteOverload
  split
  · exact ⟨State.raise_pwr _ _ _ _ _ _, (State.RdBut.refl.setFld _ _ _ (by decide)).raise _ _ _ _ _ (by decide) (by decide)⟩
  · exact ⟨rfl, State.RdBut.refl⟩

theorem State.RdBut.wantMhz {t : State} {l : List Nat} (h : State.RdBut l s t) (h1 : pwrA 0x4C ∉ l) (h2 : pwrA 0x44 ∉ l)
    (h3 : ro .sbox 0 0x5C ∉ l) : t.wantMhz = s.wantMhz := by
  unfold State.wantMhz
  rw [h.fld _ _ h1, h.fld _ _ h1, h.fld _ _ h3, h.bit _ h2]

end

/-! ### Steps of a clock -/

section
variable {s : State} {d : Fin 2} {x : ClockStep}

theorem mhz_bits (s : State) (d : Fin 2) {m : Nat} (h : m < 2048) : (s.setFld (pwrA 0x60) (16 * d) 11 m).mhz d = m := by
  unfold State.mhz
  rw [State.fld_setFld _ _ _ _ _ (by omega), Nat.mod_eq_of_lt (by omega)]

theorem State.switchClock_switches (s : State) (d : Fin 2) (h : x.mhz < 2048) : (s.switchClock d x).mhz d = x.mhz ∧
    (s.switchClock d x).sbox.evalDue = some x.cause ∧ (s.switchClock d x).pwr = s.pwr := by
  refine ⟨?_, rfl, State.raise_pwr _ _ _ _ _ _⟩
  exact (State.raise_fld _ _ _ _ _ _ _ _ (by decide) (by decide)).trans (mhz_bits s d h)

theorem State.setStep_frame (s : State) (d : Nat) (x : Option ClockStep) : (s.setStep d x).regs = s.regs ∧ (s.setStep d x).sbox = s.sbox :=
  ⟨rfl, rfl⟩

theorem State.setStep_some (s : State) (d : Nat) (x : ClockStep) : (s.setStep d (some x)).pwr.steps.look? d = some x :=
  Tbl.look?_put_same _ _ _

theorem State.setStep_none (s : State) (d : Nat) : (s.setStep d none).pwr.steps.look? d = none := Tbl.look?_del_same _ _

theorem clockChange_exec (hx : s.pwr.steps.look? d = some x) (hr : x.raising = false) (hs : x.switched = false) :
    exec (.clockChange d) s = .next ((s.switchClock d x).setStep d
      (if ((s.switchClock d x).pwr.avsBad.look? d).isSome then none else some { x with switched := true })) := by
  show execClockChange d s = _
  unfold execClockChange
  rw [hx]
  exact if_neg (by simp [hr, hs])

theorem avsAck_raises (hx : s.pwr.steps.look? d = some x) (hr : x.raising = true) :
    exec (.avsAck d) s = .next (((s.setRail d x.mhz).switchClock d x).setStep d none) := by
  show execAvsAck d s = _
  unfold execAvsAck
  rw [hx]
  exact if_pos hr

theorem avsAck_lowers (hx : s.pwr.steps.look? d = some x) (hr : x.raising = false) (hs : x.switched = true) :
    exec (.avsAck d) s = .next ((s.setRail d x.mhz).setStep d none) := by
  show execAvsAck d s = _
  unfold execAvsAck
  rw [hx]
  dsimp only
  rw [if_neg (by simp [hr]), if_pos hs]

end

/-! ### Regulators that fail -/

section
variable {s : State} {rail : Fin 3}

/-- The rail does not respond; its die's raise stops (17 R574). -/
def State.railFails (s : State) (rail : Nat) : State := s.withPwr fun p => { p with avsBad := p.avsBad.put rail s.now }

def State.dropStep (s : State) (rail : Nat) : State :=
  match s.pwr.steps.look? rail with
  | some x => if x.raising ∨ x.switched then s.setStep rail none else s
  | none => s

theorem avsError_exec (status : Nat) : exec (.avsError rail status) s = .next (((s.railFails rail).dropStep rail).raise 0x000C 0x3050
    [.w rail, .w status]) := rfl

theorem State.dropStep_frame (s : State) (rail : Nat) : (s.dropStep rail).pwr.avsBad = s.pwr.avsBad ∧ (s.dropStep rail).gts = s.gts := by
  unfold State.dropStep
  split
  · split <;> exact ⟨rfl, rfl⟩
  · exact ⟨rfl, rfl⟩

theorem State.dropStep_raising {x : ClockStep} (hx : s.pwr.steps.look? rail = some x) (hr : x.raising = true) :
    (s.dropStep rail).pwr.steps.look? rail = none := by
  unfold State.dropStep
  simp only [hx]
  rw [if_pos (.inl hr)]
  exact State.setStep_none _ _

theorem avsRetry_exec {x : Nat} {ok : Bool} (hx : s.pwr.avsBad.look? rail = some x) (ht : x + 100000000 ≤ s.now) :
    exec (.avsRetry rail ok) s = .next
      (s.withPwr fun p => { p with avsBad := if ok then p.avsBad.del rail else p.avsBad.put rail s.now }) := by
  show execAvsRetry rail ok s = _
  unfold execAvsRetry
  rw [hx]
  exact if_pos ht

end

/-- Settles O50. -/
theorem powerLimitAndClocks : Obligations.PowerLimitAndClocks := by
  intro s
  refine ⟨fun dw ha => ?_, fun hr => ?_, fun d x hx hm => ⟨fun hr hs => ?_, fun hr => ?_, fun hr hs => ?_⟩, fun rail status => ?_,
    fun rail x hx ht => ⟨?_, ?_⟩⟩
  · refine completes_next (powerSample_exec dw ha) ?_
    rw [State.takePower_pwr, State.takePower_now, State.takePower_ready]
    obtain ⟨havg, hlast⟩ := s.takePower_shows dw
    rw [meanOf_eq] at havg
    obtain ⟨⟨y, hy⟩, hrd⟩ := (s.takePower dw).lowerLim_frame
    rw [State.takePower_pwr] at hy
    split
    case isTrue hc =>
      refine ⟨congrArg Power.samples hy, (hrd.fld _ _ (by decide)).trans havg, (hrd.fld _ _ (by decide)).trans hlast,
        fun hle => absurd hc.1 (Nat.not_lt.2 hle), fun _ _ _ => congrArg Power.lim hy⟩
    case isFalse hc =>
      rw [State.takePower_pwr]
      refine ⟨rfl, havg, hlast, fun _ => rfl, fun hgt hready hfresh => absurd ⟨hgt, ?_, hready⟩ hc⟩
      rw [Option.all_eq_true]
      exact fun t ht => decide_eq_true (hfresh t ht)
  · obtain ⟨hpwr, hrd⟩ := s.moveLim.noteOverload_frame s.avgDw
    obtain ⟨y, hy⟩ := (s.moveLim.noteOverload s.avgDw).retarget_pwr
    have hlim : (s.moveLim.noteOverload s.avgDw).retarget.pwr.lim = s.nextLim := by rw [hy, hpwr]; rfl
    have hmhz : ∀ d, (s.moveLim.noteOverload s.avgDw).mhz d = s.mhz d := hrd.mhz (by decide)
    have hcap : ∀ d, (s.moveLim.noteOverload s.avgDw).thermCap d = s.thermCap d := hrd.thermCap (by decide)
    have hwant : (s.moveLim.noteOverload s.avgDw).wantMhz = s.wantMhz := hrd.wantMhz (by decide) (by decide) (by decide)
    refine completes_next (governMs_exec hr) ⟨hlim, fun d => ⟨?_, fun hne hst hbad => ?_⟩⟩
    · exact ((State.retarget_rd _).mhz (by decide) d).trans (hmhz d)
    · rw [hlim] at hne ⊢
      have hgoal : (s.moveLim.noteOverload s.avgDw).pwr.lim = s.nextLim := by rw [hpwr]; rfl
      have h := (s.moveLim.noteOverload s.avgDw).retarget_begins d
      rw [hmhz, hcap, hwant, hgoal, hpwr] at h
      exact h hne hst hbad
  · obtain ⟨h1, h2, h3⟩ := s.switchClock_switches d hm
    refine completes_next (clockChange_exec hx hr hs) ⟨h1, h2, fun hb => ?_⟩
    rw [h3, hb]
    exact State.setStep_some _ _ _
  · obtain ⟨h1, h2, -⟩ := (s.setRail d x.mhz).switchClock_switches d hm
    exact completes_next (avsAck_raises hx hr) ⟨h1, h2, State.setStep_none _ _⟩
  · exact completes_next (avsAck_lowers hx hr hs) ⟨rfl, State.setStep_none _ _⟩
  · obtain ⟨h1, h2⟩ := (s.railFails rail).dropStep_frame rail
    refine completes_next (avsError_exec status) ⟨?_, ?_, fun x hx hr => ?_⟩
    · rw [State.raise_pwr, h1]
      exact Tbl.look?_put_same _ _ _
    · have h := ((s.railFails rail).dropStep rail).raise_logged 0x000C 0x3050 [.w rail, .w status] 0xFF 0xFF
      rw [h2] at h
      exact h
    · rw [State.raise_pwr]
      exact State.dropStep_raising (s := s.railFails rail) hx hr
  · exact completes_next (avsRetry_exec hx ht) (Tbl.look?_del_same _ _)
  · exact completes_next (avsRetry_exec hx ht) (Tbl.look?_put_same _ _ _)

end Sys2Proof.Machine
end

section
/-! Temperatures, the fan and the GPIO pins (O51). -/

namespace Sys2Proof.Machine

/-! ### Readings -/

/-- The registers that taking the sensors writes. -/
def sensorRegs : List Nat := ro .evr 0 0x60 :: ro .evr 0 0x58 :: (List.range 48).map fun i => thA (0x800 + 4 * i)

/-- The registers that the rest of a sample writes. -/
def heatRegs : List Nat :=
  [thA 0x44, thA 0x60, thA 0x48, thA 0x58, pwrA 0x50, ro .sbox 0 0x58, ro .evr 0 0x60, ro .evr 0 0x58]

theorem thA_ne {a b : Nat} (h : a ≠ b) : thA a ≠ thA b := by unfold thA ro; omega

theorem thA_ne_evr {a b : Nat} (h : b < 0x1000) : thA a ≠ ro .evr 0 b := by
  have h1 : slotOf .therm 0 = 4 := rfl
  have h2 : slotOf .evr 0 = 2 := rfl
  unfold thA ro
  rw [h1, h2]
  omega

theorem sensor_notMem : ∀ i < 48, thA (0x800 + 4 * i) ∉ heatRegs := by decide +kernel

section
variable {s : State}

/-- A sensor's register shows its reading (17 R575). -/
def State.shows (s : State) (i : Nat) (r : Option Int) : Prop :=
  s.bit (thA (0x800 + 4 * i)) 16 = !tempOk r ∧ ∀ x, r = some x → s.fld (thA (0x800 + 4 * i)) 0 16 = (x % 65536).toNat

/-- The word of a sensor with its reading. -/
def State.putReading (s : State) (a : Nat) (r : Option Int) : State :=
  State.setFld (match r with
    | some t => s.setFld a 0 16 (t % 65536).toNat
    | none => s) a 16 1 (if tempOk r then 0 else 1)

theorem State.takeSensor_eq (s : State) (i : Nat) (r : Option Int) : s.takeSensor i r =
    if !tempOk r ∧ !s.bit (thA (0x800 + 4 * i)) 16 then (s.putReading (thA (0x800 + 4 * i)) r).raise 0x0004 0x2045 [.w i]
    else s.putReading (thA (0x800 + 4 * i)) r := by
  cases r <;> rfl

theorem State.putReading_rd (s : State) (a : Nat) (r : Option Int) : State.RdBut [a] s (s.putReading a r) := by
  cases r with
  | none => exact State.RdBut.refl.setFld _ _ _ (List.mem_singleton_self _)
  | some t => exact (State.RdBut.refl.setFld _ _ _ (List.mem_singleton_self _)).setFld _ _ _ (List.mem_singleton_self _)

theorem State.putReading_rest (s : State) (a : Nat) (r : Option Int) : (s.putReading a r).pwr = s.pwr ∧ (s.putReading a r).boot = s.boot := by
  cases r <;> exact ⟨rfl, rfl⟩

theorem State.putReading_shows (s : State) (i : Nat) (r : Option Int) : (s.putReading (thA (0x800 + 4 * i)) r).shows i r := by
  refine ⟨?_, fun x hx => ?_⟩
  · unfold State.putReading State.bit
    rw [State.fld_setFld _ _ _ _ _ (by decide)]
    cases tempOk r <;> rfl
  · subst hx
    unfold State.putReading
    rw [State.fld_setFld_apart _ _ _ _ _ _ _ (by decide) (by decide), State.fld_setFld _ _ _ _ _ (by decide)]
    exact Nat.mod_eq_of_lt (by omega)

theorem State.takeSensor_rd (s : State) (i : Nat) (r : Option Int) :
    State.RdBut [ro .evr 0 0x60, ro .evr 0 0x58, thA (0x800 + 4 * i)] s (s.takeSensor i r) := by
  have h : State.RdBut [ro .evr 0 0x60, ro .evr 0 0x58, thA (0x800 + 4 * i)] s (s.putReading (thA (0x800 + 4 * i)) r) :=
    fun a ha => s.putReading_rd _ r a fun hm => ha (by simp_all)
  rw [State.takeSensor_eq]
  exact .ite (h.raise _ _ _ _ _ (by simp) (by simp)) h

theorem State.takeSensor_rest (s : State) (i : Nat) (r : Option Int) : (s.takeSensor i r).pwr = s.pwr ∧ (s.takeSensor i r).boot = s.boot := by
  rw [State.takeSensor_eq]
  split
  · rw [State.raise_pwr, State.raise_boot]
    exact s.putReading_rest _ _
  · exact s.putReading_rest _ _

theorem State.takeSensor_shows (s : State) (i : Nat) (r : Option Int) : (s.takeSensor i r).shows i r := by
  rw [State.takeSensor_eq]
  split
  · unfold State.shows State.bit
    rw [State.raise_fld _ _ _ _ _ _ _ _ (thA_ne_evr (by decide)) (thA_ne_evr (by decide)),
      State.raise_fld _ _ _ _ _ _ _ _ (thA_ne_evr (by decide)) (thA_ne_evr (by decide))]
    exact s.putReading_shows i r
  · exact s.putReading_shows i r

/-- The first `n` sensors are read. -/
def State.takeSensors (s : State) (rs : List (Option Int)) (n : Nat) : State :=
  (List.range n).foldl (fun (s : State) (i : Nat) => s.takeSensor i (rs.getD i none)) s

theorem State.takeSensors_succ (s : State) (rs : List (Option Int)) (n : Nat) :
    s.takeSensors rs (n + 1) = (s.takeSensors rs n).takeSensor n (rs.getD n none) := by
  unfold State.takeSensors
  rw [List.range_succ, List.foldl_append]
  rfl

theorem State.takeSensors_shows (s : State) (rs : List (Option Int)) (n : Nat) : ∀ i < n, (s.takeSensors rs n).shows i (rs.getD i none) := by
  induction n with
  | zero => exact fun i hi => absurd hi (Nat.not_lt_zero i)
  | succ n ih =>
    intro i hi
    rw [State.takeSensors_succ]
    obtain h | rfl := Nat.lt_succ_iff_lt_or_eq.1 hi
    · have hne : thA (0x800 + 4 * i) ∉ [ro .evr 0 0x60, ro .evr 0 0x58, thA (0x800 + 4 * n)] := by
        simp only [List.mem_cons, List.not_mem_nil, or_false, not_or]
        exact ⟨thA_ne_evr (by decide), thA_ne_evr (by decide), thA_ne (by omega)⟩
      have hrd := (s.takeSensors rs n).takeSensor_rd n (rs.getD n none)
      unfold State.shows
      rw [hrd.bit _ hne, hrd.fld _ _ hne]
      exact ih i h
    · exact State.takeSensor_shows _ _ _

theorem State.takeSensors_rest (s : State) (rs : List (Option Int)) (n : Nat) :
    (s.takeSensors rs n).pwr = s.pwr ∧ (s.takeSensors rs n).boot = s.boot := by
  induction n with
  | zero => exact ⟨rfl, rfl⟩
  | succ n ih =>
    rw [State.takeSensors_succ]
    obtain ⟨h1, h2⟩ := (s.takeSensors rs n).takeSensor_rest n (rs.getD n none)
    exact ⟨h1.trans ih.1, h2.trans ih.2⟩

theorem State.takeSensors_rd (s : State) (rs : List (Option Int)) {n : Nat} (hn : n ≤ 48) :
    State.RdBut sensorRegs s (s.takeSensors rs n) := by
  induction n with
  | zero => exact State.RdBut.refl
  | succ n ih =>
    rw [State.takeSensors_succ]
    refine (ih (by omega)).trans fun a ha => State.takeSensor_rd _ _ _ a fun hm => ha ?_
    unfold sensorRegs
    simp only [List.mem_cons, List.not_mem_nil, or_false, List.mem_map, List.mem_range] at hm ⊢
    exact hm.imp id (Or.imp id fun h => ⟨n, by omega, h.symm⟩)

/-! ### The hottest sensor and the stacks -/

/-- The hottest reading and its sensor (17 R575). -/
def State.showHottest (s : State) (rs : List (Option Int)) : State :=
  match hottest (validIn rs 0 ++ validIn rs 16 ++ validIn rs 32) with
  | some (t, i) => (s.setFld (thA 0x44) 0 16 (t % 65536).toNat).setFld (thA 0x44) 16 6 i
  | none => s

def State.showStacks (s : State) (hbm : List Int) : State :=
  (List.range 4).foldl (fun (s : State) (k : Nat) => s.setFld (thA 0x60) (8 * k) 8 ((hbm.getD k 0) % 256).toNat) s

theorem State.showHottest_frame (s : State) (rs : List (Option Int)) : (s.showHottest rs).pwr = s.pwr ∧ (s.showHottest rs).boot = s.boot ∧
    State.RdBut [thA 0x44, thA 0x60] s (s.showHottest rs) := by
  unfold State.showHottest
  split
  · exact ⟨rfl, rfl, (State.RdBut.refl.setFld _ _ _ (by decide)).setFld _ _ _ (by decide)⟩
  · exact ⟨rfl, rfl, State.RdBut.refl⟩

theorem State.RdBut.foldl {l : List Nat} {z s : State} {α : Type} {f : State → α → State}
    (hf : ∀ u x, State.RdBut l z u → State.RdBut l z (f u x)) (k : List α) (h : State.RdBut l z s) : State.RdBut l z (k.foldl f s) := by
  induction k generalizing s with
  | nil => exact h
  | cons x k ih => exact ih (hf s x h)

theorem State.showStacks_frame (s : State) (hbm : List Int) : (s.showStacks hbm).pwr = s.pwr ∧ (s.showStacks hbm).boot = s.boot ∧
    State.RdBut [thA 0x44, thA 0x60] s (s.showStacks hbm) := by
  refine ⟨foldl_kept State.pwr _ ?_ _ _, foldl_kept State.boot _ ?_ _ _, .foldl (fun u x h => h.setFld _ _ _ (by decide)) _ .refl⟩
  · exact fun _ _ => rfl
  · exact fun _ _ => rfl

/-- The readings in their registers, before the dies are controlled. -/
def State.readHeat (s : State) (rs : List (Option Int)) (hbm : List Int) : State :=
  ((s.takeSensors rs 48).showHottest rs).showStacks hbm

theorem State.readHeat_rest (s : State) (rs : List (Option Int)) (hbm : List Int) :
    (s.readHeat rs hbm).pwr = s.pwr ∧ (s.readHeat rs hbm).boot = s.boot := by
  obtain ⟨h1, h2⟩ := s.takeSensors_rest rs 48
  obtain ⟨h3, h4, -⟩ := (s.takeSensors rs 48).showHottest_frame rs
  obtain ⟨h5, h6, -⟩ := ((s.takeSensors rs 48).showHottest rs).showStacks_frame hbm
  exact ⟨h5.trans (h3.trans h1), h6.trans (h4.trans h2)⟩

theorem State.readHeat_late (s : State) (rs : List (Option Int)) (hbm : List Int) :
    State.RdBut [thA 0x44, thA 0x60] (s.takeSensors rs 48) (s.readHeat rs hbm) :=
  ((s.takeSensors rs 48).showHottest_frame rs).2.2.trans (((s.takeSensors rs 48).showHottest rs).showStacks_frame hbm).2.2

theorem State.RdBut.mono {l k : List Nat} {z s : State} (h : State.RdBut l z s) (hl : l ⊆ k) : State.RdBut k z s :=
  fun a ha => h a fun hm => ha (hl hm)

theorem State.readHeat_rd (s : State) (rs : List (Option Int)) (hbm : List Int) :
    State.RdBut (sensorRegs ++ [thA 0x44, thA 0x60]) s (s.readHeat rs hbm) :=
  ((s.takeSensors_rd rs (Nat.le_refl 48)).mono (List.subset_append_left _ _)).trans
    ((s.readHeat_late rs hbm).mono (List.subset_append_right _ _))

theorem notMem_readHeat : thA 0x40 ∉ sensorRegs ++ [thA 0x44, thA 0x60] ∧ thA 0x48 ∉ sensorRegs ++ [thA 0x44, thA 0x60] ∧
    stA ∉ sensorRegs ++ [thA 0x44, thA 0x60] := by decide +kernel

theorem State.RdBut.dieTemp {l : List Nat} {z s : State} (h : State.RdBut l z s) (hl : thA 0x40 ∉ l) (rs : List (Option Int)) (hbm : List Int)
    (d : Nat) : s.dieTemp rs hbm d = z.dieTemp rs hbm d := by
  unfold State.dieTemp State.tHot
  rw [h.fld _ _ hl]

/-! ### A die's cap and clock -/

/-- The cap of a die moves with its temperature (17 R576). -/
def State.moveCap (s : State) (d : Nat) (t : Int × Nat) : State :=
  let cap := s.thermCap d
  if s.tHot ≤ t.1 then
    if 200 < cap then (s.setCap d 200).raise 0x0004 0x2041 [] else s
  else if s.tThr ≤ t.1 then
    if 200 < cap ∧ (s.pwr.capDownAt.look? d).all (fun x => decide (x + 1000000 ≤ s.now)) then
      ((s.setCap d (max 200 (cap - 100))).withPwr fun p => { p with capDownAt := p.capDownAt.put d s.now }).raise
        0x0004 0x1040 [.w d, .w t.2, .w (s32 t.1)]
    else s
  else if t.1 < s.tThr - s.tHyst then
    if cap < 1500 ∧ (s.pwr.capUpAt.look? d).all (fun x => decide (x + 10000000 ≤ s.now)) then
      (s.setCap d (min 1500 (cap + 100))).withPwr fun p => { p with capUpAt := p.capUpAt.put d s.now }
    else s
  else s

/-- The count of a die's readings at 105 °C. -/
def State.putHot (s : State) (d n : Nat) : State := s.withPwr fun p => { p with hot := p.hot.put d n }

/-- A die's clock stops, or goes on (17 R576). -/
def State.stopDie (s : State) (d : Nat) : State :=
  (((s.withPwr fun p => { p with stopped := p.stopped ++ [d] }).raise 0x0004 0x3042 []).countCores).evalWanted 2

def State.goDie (s : State) (d : Nat) : State :=
  ((s.withPwr fun p => { p with stopped := p.stopped.filter (· != d) }).countCores).evalWanted 2

/-- Successive readings at 105 °C stop a die's clock (17 R576). -/
def State.countHot (s : State) (d : Nat) (t : Int) : State :=
  let n := if 1680 ≤ t then s.pwr.hot.look 0 d + 1 else 0
  if 2 ≤ n ∧ !(s.putHot d n).pwr.stopped.contains d then (s.putHot d n).stopDie d
  else if (s.putHot d n).pwr.stopped.contains d ∧ t < 1600 then (s.putHot d n).goDie d
  else s.putHot d n

theorem State.controlDie_eq (s : State) (d : Nat) (t : Int × Nat) : s.controlDie d t = (s.moveCap d t).countHot d t.1 := rfl

theorem State.thermCap_setCap (s : State) (d : Fin 2) (v : Nat) : (s.setCap d v).thermCap d = v % 2 ^ 11 :=
  State.fld_setFld _ _ _ _ _ (by omega)

theorem State.thermCap_setCap_other (s : State) {d e : Fin 2} (h : e ≠ d) (v : Nat) : (s.setCap d v).thermCap e = s.thermCap e := by
  refine State.fld_setFld_apart _ _ _ _ _ _ _ (by omega) ?_
  omega

theorem State.thermCap_lt (s : State) (d : Nat) : s.thermCap d < 2 ^ 11 := bitsOf_lt _ _ _

theorem State.raise_thermCap (s : State) (src code : Nat) (data : List EvVal) (ctx func d : Nat) :
    (s.raise src code data ctx func).thermCap d = s.thermCap d := State.raise_fld _ _ _ _ _ _ _ _ (by decide) (by decide)

theorem State.withPwr_thermCap (s : State) (f : Power → Power) (d : Nat) : (s.withPwr f).thermCap d = s.thermCap d := rfl

section
variable {d : Fin 2} {t : Int × Nat}

theorem State.moveCap_hot (h : s.tHot ≤ t.1) : (s.moveCap d t).thermCap d = min 200 (s.thermCap d) := by
  unfold State.moveCap
  dsimp only
  rw [if_pos h]
  split
  · rw [State.raise_thermCap, State.thermCap_setCap]
    omega
  · omega

theorem State.moveCap_warm (h1 : s.tThr ≤ t.1) (h2 : t.1 < s.tHot) (h3 : 200 < s.thermCap d) (h4 : s.pwr.capDownAt.look? d = none) :
    (s.moveCap d t).thermCap d = max 200 (s.thermCap d - 100) := by
  have hlt := s.thermCap_lt d
  unfold State.moveCap
  dsimp only
  rw [if_neg (not_le.2 h2), if_pos h1, if_pos ⟨h3, by rw [h4]; rfl⟩, State.raise_thermCap, State.withPwr_thermCap, State.thermCap_setCap]
  omega

theorem State.moveCap_steady (h1 : s.tThr - s.tHyst ≤ t.1) (h2 : t.1 < s.tThr) (h3 : t.1 < s.tHot) : s.moveCap d t = s := by
  unfold State.moveCap
  dsimp only
  rw [if_neg (not_le.2 h3), if_neg (not_le.2 h2), if_neg (not_lt.2 h1)]

/-- What moving one die's cap leaves as it was. -/
theorem State.moveCap_frame (s : State) (d : Fin 2) (t : Int × Nat) : State.RdBut heatRegs s (s.moveCap d t) ∧
    (∀ e : Fin 2, e ≠ d → (s.moveCap d t).thermCap e = s.thermCap e ∧
      (s.moveCap d t).pwr.capDownAt.look? e = s.pwr.capDownAt.look? e) ∧
    (s.moveCap d t).pwr.hot = s.pwr.hot ∧ (s.moveCap d t).pwr.stopped = s.pwr.stopped := by
  have cap : ∀ v, State.RdBut heatRegs s (s.setCap d v) := fun v => State.RdBut.refl.setFld _ _ _ (by decide)
  unfold State.moveCap
  dsimp only
  split
  · split
    · refine ⟨(cap _).raise _ _ _ _ _ (by decide) (by decide), fun e he => ⟨?_, ?_⟩, ?_, ?_⟩
      · rw [State.raise_thermCap, State.thermCap_setCap_other _ he]
      all_goals
        rw [State.raise_pwr]
        rfl
    · exact ⟨.refl, fun _ _ => ⟨rfl, rfl⟩, rfl, rfl⟩
  · split
    · split
      · refine ⟨((cap _).withPwr _).raise _ _ _ _ _ (by decide) (by decide), fun e he => ⟨?_, ?_⟩, ?_, ?_⟩
        · rw [State.raise_thermCap, State.withPwr_thermCap, State.thermCap_setCap_other _ he]
        · rw [State.raise_pwr]
          exact Tbl.look?_put_other _ _ fun h => he (Fin.ext h.symm)
        all_goals
          rw [State.raise_pwr]
          rfl
      · exact ⟨.refl, fun _ _ => ⟨rfl, rfl⟩, rfl, rfl⟩
    · split
      · split
        · exact ⟨(cap _).withPwr _, fun e he => ⟨State.thermCap_setCap_other s he _, rfl⟩, rfl, rfl⟩
        · exact ⟨.refl, fun _ _ => ⟨rfl, rfl⟩, rfl, rfl⟩
      · exact ⟨.refl, fun _ _ => ⟨rfl, rfl⟩, rfl, rfl⟩

theorem State.RdBut.countCores {l : List Nat} {z s : State} (h : State.RdBut l z s) (hl : ro .sbox 0 0x58 ∈ l) : State.RdBut l z s.countCores :=
  (((h.setFld _ _ _ hl).setFld _ _ _ hl).setFld _ _ _ hl).setFld _ _ _ hl

theorem State.RdBut.evalWanted {l : List Nat} {z s : State} (h : State.RdBut l z s) (c : Nat) : State.RdBut l z (s.evalWanted c) := fun a ha => h a ha

theorem State.countCores_pwr (s : State) : s.countCores.pwr = s.pwr := rfl

theorem State.evalWanted_pwr (s : State) (c : Nat) : (s.evalWanted c).pwr = s.pwr := rfl

theorem State.stopDie_rd (s : State) (d : Nat) : State.RdBut [ro .sbox 0 0x58, ro .evr 0 0x60, ro .evr 0 0x58] s (s.stopDie d) := by
  have h : State.RdBut [ro .sbox 0 0x58, ro .evr 0 0x60, ro .evr 0 0x58] s (s.withPwr fun p => { p with stopped := p.stopped ++ [d] }) :=
    State.RdBut.refl.withPwr _
  have h1 := h.raise 0x0004 0x3042 [] 0xFF 0xFF (by decide) (by decide)
  exact (h1.countCores (by decide)).evalWanted 2

theorem State.stopDie_pwr (s : State) (d : Nat) : (s.stopDie d).pwr = { s.pwr with stopped := s.pwr.stopped ++ [d] } := by
  unfold State.stopDie
  rw [State.evalWanted_pwr, State.countCores_pwr, State.raise_pwr]
  rfl

theorem State.goDie_rd (s : State) (d : Nat) : State.RdBut [ro .sbox 0 0x58, ro .evr 0 0x60, ro .evr 0 0x58] s (s.goDie d) := by
  have h : State.RdBut [ro .sbox 0 0x58, ro .evr 0 0x60, ro .evr 0 0x58] s (s.withPwr fun p => { p with stopped := p.stopped.filter (· != d) }) :=
    State.RdBut.refl.withPwr _
  exact (h.countCores (by decide)).evalWanted 2

theorem State.goDie_pwr (s : State) (d : Nat) : (s.goDie d).pwr = { s.pwr with stopped := s.pwr.stopped.filter (· != d) } := by
  unfold State.goDie
  rw [State.evalWanted_pwr, State.countCores_pwr]
  rfl

theorem State.putHot_rd {l : List Nat} (s : State) (d n : Nat) : State.RdBut l s (s.putHot d n) := State.RdBut.refl.withPwr _

theorem State.putHot_pwr (s : State) (d n : Nat) : (s.putHot d n).pwr = { s.pwr with hot := s.pwr.hot.put d n } := rfl

/-- What counting a die's hot readings leaves as it was. -/
theorem State.countHot_frame (s : State) (d : Fin 2) (t : Int) :
    State.RdBut [ro .sbox 0 0x58, ro .evr 0 0x60, ro .evr 0 0x58] s (s.countHot d t) ∧ (s.countHot d t).pwr.capDownAt = s.pwr.capDownAt ∧
    ∀ e : Fin 2, e ≠ d → (s.countHot d t).pwr.hot.look 0 e = s.pwr.hot.look 0 e ∧
      (e.val ∈ s.pwr.stopped → e.val ∈ (s.countHot d t).pwr.stopped) := by
  have hot : ∀ n, ∀ e : Fin 2, e ≠ d → (s.pwr.hot.put d n).look 0 e = s.pwr.hot.look 0 e :=
    fun n e he => Tbl.look_put_other _ _ _ fun h => he (Fin.ext h.symm)
  unfold State.countHot
  dsimp only
  generalize (if 1680 ≤ t then s.pwr.hot.look 0 d + 1 else 0) = n
  split
  · rw [State.stopDie_pwr, State.putHot_pwr]
    exact ⟨(s.putHot_rd d _).trans (State.stopDie_rd _ _), rfl, fun e he => ⟨hot _ e he, fun h => List.mem_append_left _ h⟩⟩
  · split
    · rw [State.goDie_pwr, State.putHot_pwr]
      refine ⟨(s.putHot_rd d _).trans (State.goDie_rd _ _), rfl, fun e he => ⟨hot _ e he, fun h => List.mem_filter.2 ⟨h, ?_⟩⟩⟩
      simpa using fun h => he (Fin.ext h)
    · exact ⟨s.putHot_rd d _, rfl, fun e he => ⟨hot _ e he, id⟩⟩

/-- Two successive readings of 105 °C stop the die's clock (17 R576). -/
theorem State.countHot_stops {t : Int} (h : 1680 ≤ t) (hn : 1 ≤ s.pwr.hot.look 0 d) : d.val ∈ (s.countHot d t).pwr.stopped := by
  unfold State.countHot
  dsimp only
  rw [if_pos h]
  split
  case isTrue =>
    rw [State.stopDie_pwr]
    exact List.mem_append_right _ (List.mem_singleton_self _)
  case isFalse hc =>
    rw [if_neg (fun hc => by omega)]
    by_contra hm
    exact hc ⟨by omega, by simpa using hm⟩

/-- The facts of O51 that hold of a die once it has been controlled. -/
structure DieHeld (z s : State) (d : Fin 2) (x : Int) : Prop where
  hot : z.tHot ≤ x → s.thermCap d = min 200 (z.thermCap d)
  warm : z.tThr ≤ x → x < z.tHot → 200 < z.thermCap d → z.pwr.capDownAt.look? d = none → s.thermCap d = max 200 (z.thermCap d - 100)
  steady : z.tThr - z.tHyst ≤ x → x < z.tThr → x < z.tHot → s.thermCap d = z.thermCap d
  stopped : 1680 ≤ x → 1 ≤ z.pwr.hot.look 0 d → d.val ∈ s.pwr.stopped

theorem State.countHot_thermCap (s : State) (d : Fin 2) (t : Int) (e : Nat) : (s.countHot d t).thermCap e = s.thermCap e :=
  (s.countHot_frame d t).1.thermCap (by decide) e

theorem State.controlDie_holds (s : State) (d : Fin 2) (t : Int × Nat) : DieHeld s (s.controlDie d t) d t.1 := by
  obtain ⟨-, -, hhot, -⟩ := s.moveCap_frame d t
  rw [State.controlDie_eq]
  refine ⟨fun h => ?_, fun h1 h2 h3 h4 => ?_, fun h1 h2 h3 => ?_, fun h hn => State.countHot_stops h (by rw [hhot]; exact hn)⟩
  · rw [State.countHot_thermCap, State.moveCap_hot h]
  · rw [State.countHot_thermCap, State.moveCap_warm h1 h2 h3 h4]
  · rw [State.countHot_thermCap, State.moveCap_steady h1 h2 h3]

/-- What the control of one die leaves of the other. -/
theorem State.controlDie_frame (s : State) (d : Fin 2) (t : Int × Nat) : State.RdBut heatRegs s (s.controlDie d t) ∧
    ∀ e : Fin 2, e ≠ d → (s.controlDie d t).thermCap e = s.thermCap e ∧
      (s.controlDie d t).pwr.capDownAt.look? e = s.pwr.capDownAt.look? e ∧ (s.controlDie d t).pwr.hot.look 0 e = s.pwr.hot.look 0 e ∧
      (e.val ∈ s.pwr.stopped → e.val ∈ (s.controlDie d t).pwr.stopped) := by
  obtain ⟨h1, h2, h3, h4⟩ := s.moveCap_frame d t
  obtain ⟨h5, h6, h7⟩ := (s.moveCap d t).countHot_frame d t.1
  rw [State.controlDie_eq]
  refine ⟨h1.trans (h5.mono (by decide)), fun e he => ⟨?_, ?_, ?_, fun h => (h7 e he).2 (h4.symm ▸ h)⟩⟩
  · rw [State.countHot_thermCap, (h2 e he).1]
  · rw [h6, (h2 e he).2]
  · rw [(h7 e he).1, h3]

end

/-! ### A sample of the sensors -/

/-- The dies are controlled, one after the other (17 R576). -/
def State.controlDies (s : State) (t0 t1 : Int × Nat) : State := ((s.controlDie 0 t0).controlDie 1 t1).holdBoot (max t0.1 t1.1)

theorem State.holdBoot_frame (s : State) (t : Int) : (s.holdBoot t).regs = s.regs ∧ (s.holdBoot t).pwr.stopped = s.pwr.stopped := by
  unfold State.holdBoot
  split
  · exact ⟨rfl, rfl⟩
  · split
    · exact ⟨rfl, rfl⟩
    · split <;> exact ⟨rfl, rfl⟩

theorem State.RdBut.of_regs {l : List Nat} {z s : State} (h : s.regs = z.regs) : State.RdBut l z s := fun a _ => State.rd_congr h a

theorem State.controlDies_rd (s : State) (t0 t1 : Int × Nat) : State.RdBut heatRegs s (s.controlDies t0 t1) :=
  ((s.controlDie_frame 0 t0).1.trans ((s.controlDie 0 t0).controlDie_frame 1 t1).1).trans (.of_regs (State.holdBoot_frame _ _).1)

theorem State.RdBut.limits {l : List Nat} {z s : State} (h : State.RdBut l z s) (hl : thA 0x40 ∉ l) :
    s.tHot = z.tHot ∧ s.tThr = z.tThr ∧ s.tHyst = z.tHyst := by
  unfold State.tHot State.tThr State.tHyst
  rw [h.fld _ _ hl, h.fld _ _ hl, h.fld _ _ hl]
  exact ⟨rfl, rfl, rfl⟩

theorem State.controlDies_holds (s : State) (t0 t1 : Int × Nat) :
    DieHeld s (s.controlDies t0 t1) 0 t0.1 ∧ DieHeld s (s.controlDies t0 t1) 1 t1.1 := by
  have h0 := s.controlDie_holds 0 t0
  have h1 := (s.controlDie 0 t0).controlDie_holds 1 t1
  obtain ⟨hrd, hother⟩ := s.controlDie_frame 0 t0
  obtain ⟨hcap, hdown, hhot, -⟩ := hother 1 (by decide)
  obtain ⟨-, hback⟩ := (s.controlDie 0 t0).controlDie_frame 1 t1
  obtain ⟨hcap0, -, -, hstay⟩ := hback 0 (by decide)
  obtain ⟨hregs, hstopped⟩ := ((s.controlDie 0 t0).controlDie 1 t1).holdBoot_frame (max t0.1 t1.1)
  have hboot : ∀ d, (s.controlDies t0 t1).thermCap d = ((s.controlDie 0 t0).controlDie 1 t1).thermCap d := fun d => State.fld_congr hregs _ _ _
  obtain ⟨e1, e2, e3⟩ := hrd.limits (by decide)
  have hst : (s.controlDies t0 t1).pwr.stopped = ((s.controlDie 0 t0).controlDie 1 t1).pwr.stopped := hstopped
  constructor
  · constructor
    · intro a; rw [hboot]; exact hcap0.trans (h0.hot a)
    · intro a b c d; rw [hboot]; exact hcap0.trans (h0.warm a b c d)
    · intro a b c; rw [hboot]; exact hcap0.trans (h0.steady a b c)
    · intro a b; rw [hst]; exact hstay (h0.stopped a b)
  · constructor
    · intro a; rw [hboot, ← hcap]; exact h1.hot (e1 ▸ a)
    · intro a b c d; rw [hboot, ← hcap]; exact h1.warm (e2 ▸ a) (e1 ▸ b) (hcap ▸ c) (hdown.trans d)
    · intro a b c; rw [hboot, ← hcap]; exact h1.steady (e2 ▸ e3 ▸ a) (e2 ▸ b) (e1 ▸ c)
    · intro a b; rw [hst]; exact h1.stopped a (hhot ▸ b)

/-- The facts are about the state before the readings and after the fan. -/
theorem DieHeld.transfer {z u v t : State} {d : Fin 2} {x : Int} {l : List Nat} (h : DieHeld v u d x)
    (hz : State.RdBut (sensorRegs ++ [thA 0x44, thA 0x60]) z v) (hp : v.pwr = z.pwr) (ht : State.RdBut l u t)
    (hs : t.pwr.stopped = u.pwr.stopped) (hl : thA 0x48 ∉ l := by decide) : DieHeld z t d x := by
  obtain ⟨e1, e2, e3⟩ := hz.limits notMem_readHeat.1
  have e4 := hz.thermCap notMem_readHeat.2.1 d
  have e5 := ht.thermCap hl d
  obtain ⟨h1, h2, h3, h4⟩ := h
  rw [e1, e4, ← e5] at h1
  rw [e1, e2, e4, hp, ← e5] at h2
  rw [e1, e2, e3, e4, ← e5] at h3
  rw [hp, ← hs] at h4
  exact ⟨h1, h2, h3, h4⟩

/-- The fan's speed, its duty and the clocks' targets after a sample. -/
def State.endSample (s : State) (rpm : Nat) : State :=
  if (s.takeFan rpm).setDuty.ready then (s.takeFan rpm).setDuty.retarget else (s.takeFan rpm).setDuty

theorem State.setDuty_eq (s : State) : ∃ n, s.setDuty = s.setFld (thA 0x58) 0 8 n := ⟨_, rfl⟩

theorem State.takeFan_frame (s : State) (rpm : Nat) : (s.takeFan rpm).regs = (s.setFld (thA 0x58) 16 16 (min 65535 rpm)).regs ∧
    (s.takeFan rpm).pwr.stopped = s.pwr.stopped := ⟨rfl, rfl⟩

theorem State.takeDuty_frame (s : State) (rpm : Nat) : State.RdBut [thA 0x58] s (s.takeFan rpm).setDuty ∧
    (s.takeFan rpm).setDuty.pwr.stopped = s.pwr.stopped ∧ (s.takeFan rpm).setDuty.fld (thA 0x58) 16 16 = min 65535 rpm := by
  obtain ⟨n, hn⟩ := (s.takeFan rpm).setDuty_eq
  rw [hn]
  refine ⟨?_, (s.takeFan_frame rpm).2, ?_⟩
  · have h : State.RdBut [thA 0x58] s (s.takeFan rpm) :=
      (State.RdBut.refl.setFld _ _ _ (List.mem_singleton_self _)).trans (.of_regs (s.takeFan_frame rpm).1)
    exact h.setFld _ _ _ (List.mem_singleton_self _)
  · rw [State.fld_setFld_apart _ _ _ _ _ _ _ (by decide) (by decide), State.fld_congr (s.takeFan_frame rpm).1,
      State.fld_setFld _ _ _ _ _ (by decide)]
    omega

theorem State.endSample_frame (s : State) (rpm : Nat) : State.RdBut [thA 0x58, pwrA 0x50] s (s.endSample rpm) ∧
    (s.endSample rpm).pwr.stopped = s.pwr.stopped ∧ (s.endSample rpm).fld (thA 0x58) 16 16 = min 65535 rpm := by
  obtain ⟨h1, h2, h3⟩ := s.takeDuty_frame rpm
  unfold State.endSample
  split
  · obtain ⟨y, hy⟩ := (s.takeFan rpm).setDuty.retarget_pwr
    have hr := State.retarget_rd (s.takeFan rpm).setDuty
    refine ⟨(h1.mono (by decide)).trans (hr.mono (by decide)), ?_, (hr.fld _ _ (by decide)).trans h3⟩
    rw [hy]
    exact h2
  · exact ⟨h1.mono (by decide), h2, h3⟩

theorem sensorSample_exec {rs : List (Option Int)} {hbm : List Int} {rpm : Nat} (h : s.boot.aonUp = true) :
    exec (.sensorSample rs hbm rpm) s = .next (State.endSample (if (s.readHeat rs hbm).armed then (s.readHeat rs hbm).controlDies
      ((s.readHeat rs hbm).dieTemp rs hbm 0) ((s.readHeat rs hbm).dieTemp rs hbm 1) else s.readHeat rs hbm) rpm) := by
  show execSensorSample rs hbm rpm s = _
  unfold execSensorSample
  rw [if_neg (by simp [h])]
  rfl

theorem State.readHeat_armed (s : State) (rs : List (Option Int)) (hbm : List Int) : (s.readHeat rs hbm).armed = s.armed := by
  obtain ⟨hp, hb⟩ := s.readHeat_rest rs hbm
  unfold State.armed State.starting State.p4Exit
  rw [hp, hb, (s.readHeat_rd rs hbm).fld _ _ notMem_readHeat.2.2]

/-! ### The fan -/

theorem State.setDuty_full (h : s.bit (thA 0x58) 8 = true) : s.setDuty = s.setFld (thA 0x58) 0 8 100 := by
  unfold State.setDuty
  dsimp only
  rw [if_pos h]

theorem fanFail_exec (h : s.bit (thA 0x58) 8 = false) (ht : s.pwr.fanLowSince.any (fun t => decide (t + 2000000000 ≤ s.now)) = true) :
    exec .fanFail s = .next (((s.setFld (thA 0x58) 8 1 1).setDuty).raise 0x0004 0x2044
      [.w (s.fld (thA 0x58) 16 16), .w (s.fld (thA 0x58) 0 8)]) := by
  show execFanFail s = _
  unfold execFanFail
  rw [if_pos ⟨by simp [h], ht⟩]

theorem fanRecovered_exec (h : s.bit (thA 0x58) 8 = true) (ht : s.pwr.fanHighSince.any (fun t => decide (t + 2000000000 ≤ s.now)) = true) :
    exec .fanRecovered s = .next (s.setFld (thA 0x58) 8 1 0).setDuty := by
  show execFanRecovered s = _
  unfold execFanRecovered
  rw [if_pos ⟨h, ht⟩]

theorem Option.any_of_exists {α : Type} {o : Option α} {p : α → Bool} (h : ∃ x, o = some x ∧ p x = true) : o.any p = true := by
  obtain ⟨x, rfl, hx⟩ := h
  exact hx

end

/-- Settles O51. -/
theorem heatFanAndPins : Obligations.HeatFanAndPins := by
  intro s
  refine ⟨fun rs hbm rpm ha => ?_, fun hb ht => ?_, fun hb ht => ?_, fun h ht => ?_, fun h ht => ?_⟩
  · generalize hu : (if (s.readHeat rs hbm).armed then (s.readHeat rs hbm).controlDies
      ((s.readHeat rs hbm).dieTemp rs hbm 0) ((s.readHeat rs hbm).dieTemp rs hbm 1) else s.readHeat rs hbm) = u
    have hru : State.RdBut heatRegs (s.readHeat rs hbm) u := by
      subst hu
      exact .ite (State.controlDies_rd _ _ _) .refl
    obtain ⟨hrd, hstop, hfan⟩ := u.endSample_frame rpm
    refine completes_next ((sensorSample_exec ha).trans (by rw [hu])) ⟨fun i hi => ?_, hfan, fun harm d => ?_⟩
    · have hall : State.RdBut heatRegs (s.takeSensors rs 48) (u.endSample rpm) :=
        (((s.readHeat_late rs hbm).mono (by decide)).trans hru).trans (hrd.mono (by decide))
      rw [hall.bit _ (sensor_notMem i hi), hall.fld _ _ (sensor_notMem i hi)]
      exact s.takeSensors_shows rs 48 i hi
    · have hv : DieHeld (s.readHeat rs hbm) u d (s.dieTemp rs hbm d).1 := by
        rw [if_pos ((s.readHeat_armed rs hbm).trans harm)] at hu
        have htemp : ∀ e, (s.readHeat rs hbm).dieTemp rs hbm e = s.dieTemp rs hbm e :=
          (s.readHeat_rd rs hbm).dieTemp notMem_readHeat.1 rs hbm
        obtain ⟨h0, h1⟩ := (s.readHeat rs hbm).controlDies_holds (s.dieTemp rs hbm 0) (s.dieTemp rs hbm 1)
        rw [htemp, htemp] at hu
        obtain rfl | rfl : d = 0 ∨ d = 1 := by omega
        · exact hu ▸ h0
        · exact hu ▸ h1
      have hz := hv.transfer (s.readHeat_rd rs hbm) (s.readHeat_rest rs hbm).1 hrd hstop
      exact ⟨hz.hot, hz.warm, hz.steady, hz.stopped⟩
  · refine completes_next (fanFail_exec hb (Option.any_of_exists (ht.imp fun x h => ⟨h.1, decide_eq_true h.2⟩))) ⟨?_, ?_, ?_⟩
    all_goals
      rw [State.setDuty_full (by unfold State.bit; rw [State.fld_setFld _ _ _ _ _ (by decide)]; rfl)]
    · unfold State.bit
      rw [State.raise_fld _ _ _ _ _ _ _ _ (by decide) (by decide), State.fld_setFld_apart _ _ _ _ _ _ _ (by decide) (by decide),
        State.fld_setFld _ _ _ _ _ (by decide)]
      rfl
    · rw [State.raise_fld _ _ _ _ _ _ _ _ (by decide) (by decide), State.fld_setFld _ _ _ _ _ (by decide)]
      rfl
    · exact State.raise_logged _ _ _ _ _ _
  · obtain ⟨n, hn⟩ := (s.setFld (thA 0x58) 8 1 0).setDuty_eq
    refine completes_next (fanRecovered_exec hb (Option.any_of_exists (ht.imp fun x h => ⟨h.1, decide_eq_true h.2⟩))) ?_
    rw [hn]
    unfold State.bit
    rw [State.fld_setFld_apart _ _ _ _ _ _ _ (by decide) (by decide), State.fld_setFld _ _ _ _ _ (by decide)]
    rfl
  · exact if_pos ⟨h, ht⟩
  · exact if_pos ⟨h, ht⟩

end Sys2Proof.Machine
end

section
/-! A WAKE write to a word with reserved bits set (O49). -/

namespace Sys2Proof.Machine

/-- A package in P4 whose word of wake sources has a reserved bit set: the premises of O49 do not say that the reserved bits of
PWR's words are 0. -/
def strayWake : State := { State.reset with regs := [(pwrA 0x50, 4), (pwrA 0x68, 16)] }

/-- Refutes O49: a write keeps the bits of the word that it does not store, so a reserved bit that was set stays set. -/
theorem not_powerStatesAndStandby : ¬ Obligations.PowerStatesAndStandby := by
  intro h
  obtain ⟨-, hwake, -⟩ := h.2 strayWake
  obtain ⟨hi3c, -⟩ := hwake (by decide +kernel) (by decide +kernel)
  obtain ⟨t, ht, -, -, -, hword⟩ := hi3c 8 (by decide +kernel) (by decide)
  have kept : (match execP4WakeI3c 8 strayWake with | .next t => t.rd (pwrA 0x68) | _ => 0) = 16 := by decide +kernel
  rw [show execP4WakeI3c 8 strayWake = .next t from ht] at kept
  exact absurd (hword.symm.trans kept) (by decide)

end Sys2Proof.Machine
end

section
/-! Time is set and corrected (O57). -/

namespace Sys2Proof.Machine

section
variable {s : State}

/-! ### The GTS steps forward -/

/-- The period boundary and the deadline of a budgeted context move with the GTS (05 R168). -/
def State.moveDeadline (n : Nat) (s : State) (c : Nat) : State :=
  if (s.ctx c).admitted ∧ (s.rd (cr c 0x104)).toNat ≠ 0 then
    (s.setCtx c { s.ctx c with periodAt := (s.ctx c).periodAt + n }).add64 (cr c 0x128) n
  else s

theorem State.stepGts_eq (s : State) (n : Nat) :
    s.stepGts n = (List.range 256).foldl (State.moveDeadline n) { s with gts := s.gts + n } := rfl

theorem State.moveDeadline_rest (n : Nat) (s : State) (c : Nat) : (s.moveDeadline n c).gts = s.gts ∧
    (s.moveDeadline n c).mem = s.mem ∧ (s.moveDeadline n c).sync = s.sync := by
  unfold State.moveDeadline
  split <;> exact ⟨rfl, rfl, rfl⟩

theorem State.stepGts_gts (s : State) (n : Nat) : (s.stepGts n).gts = s.gts + n :=
  foldl_kept State.gts (State.moveDeadline n) (fun t c => (t.moveDeadline_rest n c).1) _ _

theorem State.stepGts_mem (s : State) (n : Nat) : (s.stepGts n).mem = s.mem :=
  foldl_kept State.mem (State.moveDeadline n) (fun t c => (t.moveDeadline_rest n c).2.1) _ _

/-- The registers of the contexts' deadlines. -/
def deadlineRegs : List Nat := (List.range 256).flatMap fun c => [cr c 0x128, cr c 0x128 + 4]

theorem deadline_mem {c : Nat} (h : c ∈ List.range 256) : cr c 0x128 ∈ deadlineRegs ∧ cr c 0x128 + 4 ∈ deadlineRegs :=
  ⟨List.mem_flatMap.mpr ⟨c, h, .head _⟩, List.mem_flatMap.mpr ⟨c, h, .tail _ (.head _)⟩⟩

theorem gtsA_notDeadline {o : Nat} (ho : o < 0x1000) : gtsA o ∉ deadlineRegs := by
  intro h
  obtain ⟨c, -, hc⟩ := List.mem_flatMap.mp h
  simp only [List.mem_cons, List.not_mem_nil, or_false, gtsA, cr, ro, slotOf] at hc
  omega

theorem State.stepList_rd (n : Nat) (k : List Nat) (hk : ∀ c ∈ k, c ∈ List.range 256) {t : State} (h : State.RdBut deadlineRegs s t) :
    State.RdBut deadlineRegs s (k.foldl (State.moveDeadline n) t) := by
  induction k generalizing t with
  | nil => exact h
  | cons c k ih =>
    have hc := deadline_mem (hk c (.head _))
    refine ih (fun c hc => hk c (.tail _ hc)) ?_
    unfold State.moveDeadline
    split
    · exact State.RdBut.add64 (s := t.setCtx c { t.ctx c with periodAt := (t.ctx c).periodAt + n }) h n hc.1 hc.2
    · exact h

theorem State.stepGts_rd (s : State) (n : Nat) : State.RdBut deadlineRegs s (s.stepGts n) := by
  rw [State.stepGts_eq]
  exact State.stepList_rd n _ (fun c hc => hc) (fun _ _ => rfl)

/-! ### The GTS is set (18 R584) -/

/-- What setting the GTS leaves. -/
theorem State.setGts_sets (s : State) (low hi : Word) : let v := low.toNat + hi.toNat * 2 ^ 32
    (s.setGts low hi).gts = (if s.consist = csSolo then max s.gts v else s.gts) ∧ (s.setGts low hi).rd (gtsA 0x48) = low ∧
      (s.setGts low hi).rd (gtsA 0x4C) = hi ∧ (s.setGts low hi).mem = s.mem := by
  intro v
  have h48 : ((s.wr (gtsA 0x48) low).wr (gtsA 0x4C) hi).rd (gtsA 0x48) = low :=
    (State.rd_wr_other _ _ (by decide)).trans (State.rd_wr_same _ _ _)
  have h4C : ((s.wr (gtsA 0x48) low).wr (gtsA 0x4C) hi).rd (gtsA 0x4C) = hi := State.rd_wr_same _ _ _
  have hcon : ((s.wr (gtsA 0x48) low).wr (gtsA 0x4C) hi).consist = s.consist :=
    ((State.RdBut.refl (l := [gtsA 0x48, gtsA 0x4C])).wr _ (.head _) |>.wr _ (.tail _ (.head _))).fld _ _ (by decide)
  unfold State.setGts
  dsimp only
  rw [hcon]
  generalize hu : (s.wr (gtsA 0x48) low).wr (gtsA 0x4C) hi = u at h48 h4C
  have hg : u.gts = s.gts := by rw [← hu]; rfl
  have hm : u.mem = s.mem := by rw [← hu]; rfl
  split
  · next h =>
    have hrd : ∀ o, o < 0x1000 → ((u.stepGts (v - s.gts)).raise 0x0001 0x0060 [.d s.gts, .d v]).rd (gtsA o) = u.rd (gtsA o) := fun o ho =>
      (State.raise_rd _ _ _ _ _ _ (by simp only [gtsA, ro, slotOf]; omega) (by simp only [gtsA, ro, slotOf]; omega)).trans
        (u.stepGts_rd _ _ (gtsA_notDeadline ho))
    refine ⟨?_, (hrd 0x48 (by decide)).trans h48, (hrd 0x4C (by decide)).trans h4C, ?_⟩
    · rw [if_pos h.1, State.raise_gts, State.stepGts_gts, hg, max_eq_right h.2.le]
      exact Nat.add_sub_cancel' h.2.le
    · rw [State.raise_mem, State.stepGts_mem, hm]
  · next h =>
    refine ⟨?_, h48, h4C, hm⟩
    rw [hg]
    split
    · next hc => exact (max_eq_left (not_lt.mp fun hv => h ⟨hc, hv⟩)).symm
    · rfl

/-- The 8-byte write of the pair GTS.SET reaches the pair's halves. -/
theorem State.ownWrite_gtsSet {snd : Sender} (low hi : Word) (hs : snd = .i3c ∨ snd = .pcie 0) (h : s.ownTakes (gtsA 0x4C)) :
    s.ownWrite snd (gtsA 0x4C) hi (some low) = s.setGts low hi := by
  obtain ⟨href, hlock, hfifo, hreset⟩ := h
  have hp : pageAt (gtsA 0x48 / 0x1000) = some ⟨.gts, 0⟩ := by decide
  have hp' : pageAt (gtsA 0x4C / 0x1000) = some ⟨.gts, 0⟩ := by decide
  have href' : s.refusedBy (gtsA 0x48) 8 true = none := by
    have hpop : populated (gtsA 0x4C / 0x1000) = true := by decide
    have h8 : widthOk (gtsA 0x48) 8 = true ∧ pairOk (gtsA 0x48) = true ∧ widthOk (gtsA 0x4C) 4 = true := by decide
    have hready : decide (0x100000 ≤ gtsA 0x48) = false ∧ decide (0x100000 ≤ gtsA 0x4C) = false := by decide
    have hsame : gtsA 0x48 / 0x1000 = gtsA 0x4C / 0x1000 := by decide
    have hwin : isRecordWindow (gtsA 0x4C / 0x1000) = false := by decide
    simpa [State.refusedBy, h8, hready, hsame, hpop, hwin, hp'] using href
  have hwin : isRecordWindow (gtsA 0x48 / 0x1000) = false := by decide
  have hreach : s.reachPf (gtsA 0x48) 8 true = .word (gtsA 0x48) := by simp [State.reachPf, href', hwin]
  have hlands : s.lands snd (gtsA 0x4C - 4) 8 (gtsA 0x48) := by
    refine ⟨?_, hfifo, hreset⟩
    obtain rfl | rfl := hs
    · have hlow : gtsA 0x48 < 0x100000 := by decide
      show s.reach .i3c (gtsA 0x48) 8 true = _
      unfold State.reach
      simp only [hlow, if_true, hreach]
    · exact hreach
  have hign : s.ignores snd ⟨.gts, 0⟩ 0x48 = none := by
    have hl : s.lockedAt (ro .gts 0 0x48) = false := hlock
    simp [State.ignores, hl]
  have hown : senderFunc snd = 0 ∨ snd = .i3c := by
    obtain rfl | rfl := hs
    · exact .inr rfl
    · exact .inl rfl
  unfold State.ownWrite
  rw [if_pos hown, State.hostWrite_wide low hi (by decide) hlands hp (by decide), show gtsA 0x4C % 0x1000 = 0x4C from rfl,
    State.wordEffect_high (some low) hi (by decide) (by decide) (by decide)]
  simp [State.pairWrite, hign]

/-! ### Correction (18 R587, R588) -/

theorem State.slew_gts (s : State) (x : Int) : s.gts ≤ (s.slew x).gts := by
  unfold State.slew
  dsimp only
  split
  · exact Nat.le_add_right _ _
  · exact Nat.le_refl _

theorem State.slew_rest (s : State) (x : Int) : (s.slew x).sync.theta = s.sync.theta ∧ (s.slew x).regs = s.regs ∧
    (s.slew x).sync.rate = x := by
  unfold State.slew
  dsimp only
  split <;> exact ⟨rfl, rfl, rfl⟩

/-- A package that is locked or acquiring is corrected by its offset. -/
theorem exec_syncCorrect (hc : s.syncChild = true) (hst : s.syncSt = syAcquiring ∨ s.syncSt = syLocked) :
    exec .syncCorrect s = .next (if s.sync.theta < -1000000 then
      ((s.stepGts s.sync.theta.natAbs).withSync fun y => { y with samples := [], theta := 0, good := 0 }).raise 0x0001 0x1063
        [.d s.sync.theta.natAbs]
      else s.slew (let amt : Int := min (max 1 (s.fld (gtsA 0x50) 8 8)) (s.sync.theta.natAbs * 10)
        if 0 < s.sync.theta then -amt else amt)) := by
  have h3 : s.syncSt ≠ syHoldover := by
    obtain h | h := hst <;> rw [h] <;> decide
  have h0 : s.syncSt ≠ syFree := by
    obtain h | h := hst <;> rw [h] <;> decide
  show execSyncCorrect s = _
  unfold execSyncCorrect
  rw [if_neg h3, if_neg (by simp [hc, h0])]
  dsimp only
  split <;> rfl

theorem slewAmount_le (p : Nat) (th : Int) :
    ((let amt : Int := min (max 1 (p : Int)) (th.natAbs * 10); if 0 < th then -amt else amt) : Int).natAbs ≤ max 1 p := by
  dsimp only
  split <;> omega

/-- An acquiring package that has had no parent for 1 ms goes into HOLDOVER. -/
theorem exec_syncParentLoss {x : Nat} (hc : s.syncChild = true) (hx : s.sync.lostSince = some x) (ht : x + 1000000 ≤ s.now)
    (hst : s.syncSt = syAcquiring) : exec .syncParentLoss s = .next (s.setSyncSt syHoldover).syncLost := by
  show execSyncParentLoss s = _
  unfold execSyncParentLoss State.holdover
  rw [if_pos ⟨hc, by simp [hx, ht]⟩, if_pos (.inl hst)]

/-- Settles O57. -/
theorem timeIsSetAndCorrected : Obligations.TimeIsSetAndCorrected := by
  refine fun s => ⟨fun snd low hi hs h => ?_, fun hpll href hlost hpst => ?_, fun hc => ⟨fun hst => ?_, fun hst hth => ?_,
    fun hst hth => ?_, fun x hx ht hst => ?_⟩⟩
  · exact completes_next (congrArg Host.Outcome.next (State.ownWrite_gtsSet low hi hs h)) (s.setGts_sets low hi)
  · refine completes_next (c := .gtsPllRelock) (if_neg ?_) ⟨rfl, rfl, rfl, rfl⟩
    simp [hpll, href, hlost, hpst]
  · exact if_pos hst
  · refine completes_next ((exec_syncCorrect hc hst).trans (by rw [if_pos hth])) ⟨?_, ?_, ?_⟩
    · rw [State.raise_gts, State.withSync_gts, State.stepGts_gts]
    · rw [State.raise_sync, State.withSync_sync]
    · rw [State.raise_sync, State.withSync_sync]
  · refine completes_next ((exec_syncCorrect hc hst).trans (by rw [if_neg (not_lt.mpr hth)])) ⟨s.slew_gts _, (s.slew_rest _).1,
      (s.slew_rest _).2.1, ?_⟩
    rw [(s.slew_rest _).2.2]
    exact slewAmount_le _ _
  · refine completes_next (exec_syncParentLoss hc hx ht hst) ⟨?_, ?_, ?_⟩
    · exact (State.raise_fld _ _ _ _ _ _ _ _ (by decide) (by decide)).trans (State.fld_setFld _ _ _ _ _ (by decide))
    · exact State.raise_gts _ _ _ _ _ _
    · exact State.raise_logged (s.setSyncSt syHoldover) _ _ _ _ _

end

end Sys2Proof.Machine
end

section
/-! Test access and fault injection (O59). -/

namespace Sys2Proof.Machine

section
variable {s : State}

/-! ### Words of the management region -/

/-- A word of the management region's pages TEST and MGMT that no lock guards and that is no half of a pair takes a write of the PF or
over I3C. -/
theorem State.ownWrite_mgmtWord {snd : Sender} {b : Blk} {o : Nat} (v : Word) (hs : snd = .i3c ∨ snd = .pcie 0)
    (hb : b = .mgmt ∨ b = .evr ∨ b = .test) (ho : 0x40 ≤ o) (ho' : o < 0x1000) (h0 : isPairLow b o = false)
    (h1 : isPairLow b (o - 4) = false) (h : s.ownTakes (ro b 0 o)) : s.ownWrite snd (ro b 0 o) v = s.mgmtWord snd b o v := by
  obtain ⟨href, hlock, hfifo, hreset⟩ := h
  have hslot : slotOf b 0 < 8 ∧ pageAt (slotOf b 0) = some ⟨b, 0⟩ ∧ isRecordWindow (slotOf b 0) = false := by
    obtain rfl | rfl | rfl := hb <;> decide
  have hdiv : ro b 0 o / 0x1000 = slotOf b 0 := by unfold ro; omega
  have hmod : ro b 0 o % 0x1000 = o := by unfold ro; omega
  have hlow : ro b 0 o < 0x100000 := by unfold ro; omega
  have hreach : s.reachPf (ro b 0 o) 4 true = .word (ro b 0 o) := by simp [State.reachPf, href, hdiv, hslot.2.2]
  have hlands : s.lands snd (ro b 0 o) 4 (ro b 0 o) := by
    refine ⟨?_, hfifo, hreset⟩
    obtain rfl | rfl := hs
    · unfold State.reach
      simp only [hlow, if_true, hreach]
    · exact hreach
  have hign : s.ignores snd ⟨b, 0⟩ o = none := by
    obtain rfl | rfl | rfl := hb <;> simp [State.ignores, hlock]
  have hword : s.blockWord snd ⟨b, 0⟩ o v = s.mgmtWord snd b o v := by
    obtain rfl | rfl | rfl := hb <;> rfl
  have hown : senderFunc snd = 0 ∨ snd = .i3c := by
    obtain rfl | rfl := hs
    · exact .inr rfl
    · exact .inl rfl
  unfold State.ownWrite
  rw [if_pos hown, State.hostWrite_lands v hlands (hdiv ▸ hslot.2.1), hmod]
  simp [State.wordEffect, Nat.not_lt.mpr ho, h0, h1, hign, hword]

theorem State.ownWrite_unlock {snd : Sender} (key : Nat) (hk : key < 2 ^ 16) (hs : snd = .i3c ∨ snd = .pcie 0) (h : s.ownTakes unlockA) :
    s.ownWrite snd unlockA (BitVec.ofNat 32 key) = s.writeUnlock key (senderFunc snd) := by
  have hbits : bitsOf (BitVec.ofNat 32 key) 0 16 = key := by simp [bitsOf]; omega
  refine (State.ownWrite_mgmtWord (b := .mgmt) (o := 0x4C) _ hs (.inl rfl) (by decide) (by decide) (by decide) (by decide) h).trans ?_
  show s.writeUnlock (bitsOf (BitVec.ofNat 32 key) 0 16) (senderFunc snd) = _
  rw [hbits]

/-! ### The lock (19 R620, R621) -/

theorem tst_evr (o : Nat) (ho : o < 0x1000) : tstA o ≠ ro .evr 0 0x60 ∧ tstA o ≠ ro .evr 0 0x58 := by
  simp only [tstA, ro, slotOf]
  omega

theorem State.raise_tstBit (s : State) (src code : Nat) (data : List EvVal) (ctx func lo : Nat) :
    (s.raise src code data ctx func).bit (tstA 0x40) lo = s.bit (tstA 0x40) lo :=
  congrArg (· == 1) (s.raise_fld src code data ctx func lo 1 (by decide) (by decide))

theorem State.bit_setFld_same (s : State) (a lo n : Nat) (h : lo + 1 ≤ 32) : (s.setFld a lo 1 n).bit a lo = (n % 2 == 1) := by
  unfold State.bit
  rw [State.fld_setFld _ _ _ _ _ h, pow_one]

theorem State.bit_setFld_apart (s : State) (a lo w n i : Nat) (h : lo + w ≤ 32) (d : lo + w ≤ i ∨ i + 1 ≤ lo) :
    (s.setFld a lo w n).bit a i = s.bit a i :=
  congrArg (· == 1) (s.fld_setFld_apart a lo w n i 1 h d)

theorem State.setWindow_window (s : State) (b : Bool) : (s.setWindow b).bit (tstA 0x40) 1 = b := by
  unfold State.setWindow
  rw [State.bit_setFld_same _ _ _ _ (by decide)]
  cases b <;> rfl

theorem State.setWindow_unlocked (s : State) (b : Bool) : (s.setWindow b).unlocked = s.unlocked :=
  State.bit_setFld_apart _ _ _ _ _ _ (by decide) (by decide)

/-- Every page loses its perturbation. -/
def State.calm (s : State) : State :=
  { s with pages := s.pages.map fun (e : Nat × Page) => (e.1, { e.2 with perturb := 0, seed := 0 }) }

theorem look_calm (l : Tbl Page) {d : Page} (hd : d.perturb = 0) (k : Nat) :
    (Tbl.look (l.map fun (e : Nat × Page) => (e.1, { e.2 with perturb := 0, seed := 0 })) d k).perturb = 0 := by
  induction l with
  | nil => exact hd
  | cons e l ih =>
    unfold List.map Tbl.look
    split
    · rfl
    · exact ih

theorem State.endInjection_regs (s : State) (r : Nat) : State.RdBut [tstA 0x50] s (s.endInjection r) ∧
    (s.endInjection r).pages = s.pages ∧ (s.endInjection r).test.inj = none ∧ (s.endInjection r).gts = s.gts ∧
    (s.endInjection r).rd (tstA 0x50) = BitVec.ofNat 32 (2 * r) := by
  have h : ∀ u : State, u.regs = s.regs → State.RdBut [tstA 0x50] s (u.wr (tstA 0x50) (BitVec.ofNat 32 (2 * r))) := fun u hu =>
    State.RdBut.wr (fun a _ => State.rd_congr hu a) _ (.head _)
  unfold State.endInjection
  cases s.test.inj with
  | none => exact ⟨h s rfl, rfl, rfl, rfl, State.rd_wr_same _ _ _⟩
  | some i =>
    dsimp only
    split
    · exact ⟨h _ rfl, rfl, rfl, rfl, State.rd_wr_same _ _ _⟩
    · exact ⟨h _ rfl, rfl, rfl, rfl, State.rd_wr_same _ _ _⟩

/-- Locked, with no page perturbed and the number of perturbed pages shown. -/
def State.locked (s : State) : State := (s.calm.setFld (tstA 0x40) 0 1 0).countPerturbed

theorem State.locked_bits (s : State) : s.locked.unlocked = false ∧ s.locked.bit (tstA 0x40) 1 = s.bit (tstA 0x40) 1 ∧
    s.locked.pages = s.calm.pages ∧ s.locked.test = s.test ∧ s.locked.gts = s.gts := by
  refine ⟨?_, ?_, rfl, rfl, rfl⟩
  · exact (State.bit_setFld_apart _ _ _ _ _ _ (by decide) (by decide)).trans (State.bit_setFld_same _ _ _ _ (by decide))
  · exact (State.bit_setFld_apart _ _ _ _ _ _ (by decide) (by decide)).trans
      (State.bit_setFld_apart s.calm _ _ _ _ _ (by decide) (by decide))

/-- Locked, and an armed injection ended. -/
def State.lockedQuiet (s : State) : State := if s.locked.test.inj.isSome then s.locked.endInjection 4 else s.locked

theorem State.lockTest_eq (s : State) : s.lockTest = if !s.unlocked then s else s.lockedQuiet.raise 0x0007 0x0072 [] := rfl

theorem State.lockedQuiet_bits (s : State) : s.lockedQuiet.unlocked = false ∧ s.lockedQuiet.bit (tstA 0x40) 1 = s.bit (tstA 0x40) 1 ∧
    s.lockedQuiet.pages = s.calm.pages ∧ s.lockedQuiet.test.inj = none ∧ s.lockedQuiet.gts = s.gts := by
  obtain ⟨h1, h2, h3, -, h5⟩ := s.locked_bits
  unfold State.lockedQuiet
  split
  · obtain ⟨k1, k2, k3, k4, -⟩ := s.locked.endInjection_regs 4
    exact ⟨(k1.bit 0 (by decide)).trans h1, (k1.bit 1 (by decide)).trans h2, k2.trans h3, k3, k4.trans h5⟩
  · next h => exact ⟨h1, h2, h3, Option.not_isSome_iff_eq_none.mp h, h5⟩

/-- A page without a perturbation has none after an event. -/
theorem State.raise_perturb (s : State) (src code : Nat) (data : List EvVal) (ctx func k : Nat) :
    ((s.raise src code data ctx func).page k).perturb = (s.page k).perturb := by
  obtain ⟨w, g, h⟩ := s.raise_page src code data ctx func k
  rw [h]

theorem State.lockTest_locks (s : State) : s.lockTest.unlocked = false ∧ s.lockTest.bit (tstA 0x40) 1 = s.bit (tstA 0x40) 1 ∧
    (s.unlocked = true → s.lockTest.test.inj = none ∧ (∀ k, (s.lockTest.page k).perturb = 0) ∧
      s.lockTest.logged s.gts 0x0007 0x0072 [] 0xFF 0xFF) := by
  rw [State.lockTest_eq]
  split
  · next h =>
    have h' : s.unlocked = false := by simpa using h
    exact ⟨h', rfl, fun hu => absurd (h'.symm.trans hu) (by decide)⟩
  · obtain ⟨h1, h2, h3, h4, h5⟩ := s.lockedQuiet_bits
    refine ⟨(State.raise_tstBit _ _ _ _ _ _ _).trans h1, (State.raise_tstBit _ _ _ _ _ _ _).trans h2, fun _ => ⟨?_, fun k => ?_, ?_⟩⟩
    · rw [State.raise_test]
      exact h4
    · rw [State.raise_perturb]
      unfold State.page
      rw [h3]
      exact look_calm s.pages rfl k
    · rw [← h5]
      exact State.raise_logged _ _ _ _ _ _

/-! ### Injections (19 R625) -/

theorem State.injWrite_eq {snd : Sender} {k : Nat} {val : Word} (hs : snd = .i3c ∨ snd = .pcie 0) (h : s.ownTakes (tstA 0x44))
    (hk : bitsOf val 0 4 = k) : s.injWrite snd k val = s.writeInj val :=
  (if_pos hk).trans (State.ownWrite_mgmtWord (b := .test) (o := 0x44) val hs (.inr (.inr rfl)) (by decide) (by decide) (by decide)
    (by decide) h)

/-- The five commands are one write, each of its own kind. -/
theorem exec_inj {snd : Sender} {val : Word} (hs : snd = .i3c ∨ snd = .pcie 0) (h : s.ownTakes (tstA 0x44)) :
    ∀ x ∈ [(Instr.injResidue snd val, 1), (.injEccCe snd val, 2), (.injEccUe snd val, 3), (.injCplLane snd val, 4),
      (.injKlCrc snd val, 5)], bitsOf val 0 4 = x.2 → exec x.1 s = .next (s.writeInj val) := by
  intro x hx hk
  simp only [List.mem_cons, List.not_mem_nil, or_false] at hx
  obtain rfl | rfl | rfl | rfl | rfl := hx <;> exact congrArg Host.Outcome.next (State.injWrite_eq hs h hk)

/-- The injection that a command arms. -/
def injectionOf (val : Word) (addr : Word64) (now : Nat) : Injection :=
  ⟨bitsOf val 0 4, bitsOf val 4 4, if bitsOf val 0 4 = 5 then bitsOf val 4 4 else bitsOf val 16 6, addr, now, bitsOf val 0 4 == 4⟩

def State.arm (s : State) (i : Injection) : State := { s.wr (tstA 0x50) 1 with test := { s.test with inj := some i } }

/-- A command of a kind of R625 to an unlocked port that runs none arms its injection if the target exists. -/
theorem State.writeInj_unlocked {val : Word} (hu : s.unlocked = true) (hb : s.bit (tstA 0x50) 0 = false) (h1 : 1 ≤ bitsOf val 0 4)
    (h5 : bitsOf val 0 4 ≤ 5) : s.writeInj val =
      if !s.injTarget (bitsOf val 0 4) (bitsOf val 4 4) (bitsOf val 8 8) (bitsOf val 16 6) (s.rd64 (tstA 0x48)) then
        s.setFld (tstA 0x50) 1 3 2
      else
        let t := s.arm (injectionOf val (s.rd64 (tstA 0x48)) s.now)
        if bitsOf val 0 4 = 4 then
          { t with cpl := { t.cpl with injected := t.cpl.injected ++
            [(cplLink (bitsOf val 16 6), cplDir (bitsOf val 16 6) false, (s.rd64 (tstA 0x48)).toNat % 64,
              (s.rd64 (tstA 0x48)).toNat / 256 % 32)] } }
        else if bitsOf val 0 4 = 5 then t.updPort (bitsOf val 4 4) fun q => { q with crcBad := bitsOf val 8 8 }
        else t := by
  unfold State.writeInj
  dsimp only
  rw [if_neg (by simp [hu]), if_neg (by simp [hb]), if_neg (by omega)]
  rfl

theorem State.klPort_updPort (s : State) (n : Nat) (f : KlPort → KlPort) : (s.updPort n f).klPort n = f (s.klPort n) :=
  Tbl.look_put_same _ _ _ _

theorem State.fails_turned (s : State) (r : Nat) (hr : r < 8) : (s.setFld (tstA 0x50) 1 3 r).fld (tstA 0x50) 1 3 = r :=
  (State.fld_setFld _ _ _ _ _ (by decide)).trans (Nat.mod_eq_of_lt hr)

/-- An armed injection and what its kind adds. -/
theorem State.writeInj_armed {val : Word} (hu : s.unlocked = true) (hb : s.bit (tstA 0x50) 0 = false) (h1 : 1 ≤ bitsOf val 0 4)
    (h5 : bitsOf val 0 4 ≤ 5)
    (hf : s.injTarget (bitsOf val 0 4) (bitsOf val 4 4) (bitsOf val 8 8) (bitsOf val 16 6) (s.rd64 (tstA 0x48)) = true) :
    (s.writeInj val).rd (tstA 0x50) = 1 ∧ (s.writeInj val).mem = s.mem ∧
      (s.writeInj val).test.inj = some (injectionOf val (s.rd64 (tstA 0x48)) s.now) ∧
      (bitsOf val 0 4 = 5 → ((s.writeInj val).klPort (bitsOf val 4 4)).crcBad = bitsOf val 8 8) := by
  have hrd : (s.arm (injectionOf val (s.rd64 (tstA 0x48)) s.now)).rd (tstA 0x50) = 1 := State.rd_wr_same _ _ _
  rw [State.writeInj_unlocked hu hb h1 h5, if_neg (by simp [hf])]
  dsimp only
  split
  · next h => exact ⟨hrd, rfl, rfl, fun h' => absurd (h.symm.trans h') (by decide)⟩
  · split
    · exact ⟨hrd, rfl, rfl, fun _ => congrArg KlPort.crcBad (State.klPort_updPort _ _ _)⟩
    · next h => exact ⟨hrd, rfl, rfl, fun h' => absurd h' h⟩

/-- Settles O59. -/
theorem testAccessAndInjection : Obligations.TestAccessAndInjection := by
  refine fun s => ⟨fun snd hs => ⟨fun h => ⟨?_, fun hw ht => ?_, fun hw => ?_, ?_⟩, fun h val => ?_⟩, fun hw ht => ?_, fun i hi =>
    ⟨fun hh => ?_, fun hk hh ht => ?_⟩⟩
  · refine completes_next (congrArg Host.Outcome.next ((State.ownWrite_unlock 0x7E57 (by decide) hs h).trans (if_pos rfl))) ⟨?_, rfl, ?_⟩
    · exact s.setWindow_window true
    · exact s.setWindow_unlocked true
  · refine completes_next (congrArg Host.Outcome.next ((State.ownWrite_unlock 0x5AFE (by decide) hs h).trans
      ((if_neg (by decide)).trans (if_pos ⟨rfl, hw, ht⟩)))) ⟨?_, ?_, ?_⟩
    · exact (State.raise_tstBit _ _ _ _ _ _ _).trans (State.bit_setFld_same _ _ _ _ (by decide))
    · exact (State.raise_tstBit _ _ _ _ _ _ _).trans ((State.bit_setFld_apart _ _ _ _ _ _ (by decide) (by decide)).trans
        (s.setWindow_window false))
    · exact State.raise_logged _ _ _ _ _ _
  · refine completes_next (congrArg Host.Outcome.next ((State.ownWrite_unlock 0x5AFE (by decide) hs h).trans
      ((if_neg (by decide)).trans ((if_neg (by simp [hw])).trans (if_neg (by decide)))))) ⟨?_, ?_⟩
    · exact (State.raise_tstBit _ _ _ _ _ _ _).trans (s.setWindow_unlocked false)
    · exact State.raise_logged _ _ _ _ _ _
  · obtain ⟨h1, h2, h3⟩ := (s.setWindow false).lockTest_locks
    rw [State.setWindow_window] at h2
    rw [State.setWindow_unlocked] at h3
    exact completes_next (congrArg Host.Outcome.next ((State.ownWrite_unlock 0 (by decide) hs h).trans
      ((if_neg (by decide)).trans ((if_neg (by simp)).trans (if_pos rfl))))) ⟨h1, h2, h3⟩
  · intro kind unit target addr fits turned armed
    have hx := exec_inj (val := val) hs h
    refine ⟨fun x hmem hk => ⟨fun hu => ?_, fun hu hb hf => ?_⟩, fun hu hb hf => ?_⟩
    · refine completes_next ((hx x hmem hk).trans (congrArg Host.Outcome.next (if_pos (by simp [hu])))) ⟨?_, rfl, rfl⟩
      exact s.fails_turned 1 (by decide)
    · have hrange : 1 ≤ x.2 ∧ x.2 ≤ 5 := by
        simp only [List.mem_cons, List.not_mem_nil, or_false] at hmem
        obtain rfl | rfl | rfl | rfl | rfl := hmem <;> exact ⟨Nat.le_of_ble_eq_true rfl, Nat.le_of_ble_eq_true rfl⟩
      have hw := State.writeInj_unlocked (val := val) hu hb (hrange.1.trans_eq hk.symm) (hk.trans_le hrange.2)
      refine completes_next ((hx x hmem hk).trans (congrArg Host.Outcome.next (hw.trans (if_pos ?_)))) ⟨?_, rfl, rfl⟩
      · show (!fits) = true
        rw [hf]
        rfl
      · exact s.fails_turned 2 (by decide)
    · have ha : 1 ≤ kind → kind ≤ 5 → armed (s.writeInj val) := fun h1 h5 => State.writeInj_armed hu hb h1 h5 hf
      refine ⟨fun hk => completes_next (hx (_, 1) (by simp) hk) ?_, fun hk => completes_next (hx (_, 2) (by simp) hk) ?_,
        fun hk => completes_next (hx (_, 3) (by simp) hk) ?_, fun hk => completes_next (hx (_, 4) (by simp) hk) ?_,
        fun hk => completes_next (hx (_, 5) (by simp) hk) ?_⟩
      all_goals exact ha (by omega) (by omega)
  · refine completes_next (c := .unlockWindowExpiry) (if_pos ⟨hw, ht⟩) ⟨?_, ?_⟩
    · exact s.setWindow_window false
    · exact s.setWindow_unlocked false
  · have hx : exec .faultInjected s = .next (({ s.wr (tstA 0x50) 0 with test := { s.test with inj := none } } : State).raise 0x0007 0x1073
        [.w i.kind, .w i.target, .d i.addr.toNat]) := by
      show execFaultInjected s = _
      unfold execFaultInjected
      rw [hi]
      exact if_pos hh
    refine completes_next hx ⟨?_, ?_, ?_⟩
    · exact (State.raise_rd _ _ _ _ _ _ (by decide) (by decide)).trans (State.rd_wr_same _ _ _)
    · rw [State.raise_test]
    · exact State.raise_logged ({ s.wr (tstA 0x50) 0 with test := { s.test with inj := none } } : State) _ _ _ _ _
  · have hx : exec .injectNotHit s = .next ((s.endInjection 3).raise 0x0007 0x1074 [.w i.kind, .w i.target]) := by
      show execInjectNotHit s = _
      unfold execInjectNotHit
      rw [hi]
      exact if_pos ⟨hk, by simp [hh], ht⟩
    obtain ⟨-, -, k3, k4, k5⟩ := s.endInjection_regs 3
    refine completes_next hx ⟨?_, ?_, ?_⟩
    · exact (State.raise_rd _ _ _ _ _ _ (by decide) (by decide)).trans k5
    · rw [State.raise_test]
      exact k3
    · rw [← k4]
      exact State.raise_logged _ _ _ _ _ _

end

end Sys2Proof.Machine
end

section
/-! The event recorder and its mirror (O58). -/

namespace Sys2Proof.Machine

section
variable {s : State}

/-! ### What an event leaves of the recorder -/

/-- The recorders differ at most in the intake, the held sources and the count of drops. -/
def Recorder.SameStore (v w : Recorder) : Prop :=
  ∃ a b c d, w = { v with intake := a, heldSources := b, dropsSinceLoss := c, lossFlag := d }

theorem State.offer_store (s : State) (e : Event) : s.evr.SameStore (s.offer e).evr := by
  unfold State.offer
  dsimp only
  split
  · exact ⟨_, _, _, _, rfl⟩
  · split
    · split
      · split <;> exact ⟨_, _, _, _, rfl⟩
      · split <;> exact ⟨_, _, _, _, rfl⟩
    · split <;> exact ⟨_, _, _, _, rfl⟩

theorem State.setPageEv_rest (s : State) (slot : Nat) (p : Page) : (s.setPageEv slot p).regs = s.regs ∧
    (s.setPageEv slot p).evr = s.evr ∧ (s.setPageEv slot p).gts = s.gts := by
  unfold State.setPageEv State.sendMsi
  dsimp only
  split
  · split <;> exact ⟨rfl, rfl, rfl⟩
  · exact ⟨rfl, rfl, rfl⟩

theorem State.markEvent_rest (s : State) (src code : Nat) : (s.markEvent src code).regs = s.regs ∧
    (s.markEvent src code).evr = s.evr ∧ (s.markEvent src code).gts = s.gts := by
  unfold State.markEvent
  split
  · exact s.setPageEv_rest _ _
  · exact ⟨rfl, rfl, rfl⟩

/-- The page's bit and the pulse of a severe event change neither register nor recorder. -/
theorem State.marked_rest (s : State) (src code : Nat) : ((s.markEvent src code).pulse code).regs = s.regs ∧
    ((s.markEvent src code).pulse code).evr = s.evr ∧ ((s.markEvent src code).pulse code).gts = s.gts := by
  have h := s.markEvent_rest src code
  unfold State.pulse
  split <;> exact h

/-- Raising an event offers it to the intake. -/
theorem State.raise_offers (s : State) (src code : Nat) (data : List EvVal) (ctx func : Nat) :
    ∃ e : Event, e.code = BitVec.ofNat 16 code ∧ s.raise src code data ctx func = ((s.markEvent src code).pulse code).offer e :=
  ⟨_, rfl, rfl⟩

theorem State.raise_store (s : State) (src code : Nat) (data : List EvVal) (ctx func : Nat) :
    s.evr.SameStore (s.raise src code data ctx func).evr := by
  obtain ⟨e, -, he⟩ := s.raise_offers src code data ctx func
  rw [he, ← (s.marked_rest src code).2.1]
  exact State.offer_store _ _

theorem State.countDrop_mirror (s : State) : s.countDrop.mirror = s.mirror := by
  have h : s.countDrop.regs = ((s.addSat (ro .evr 0 0x60) 0 32 1).setFld (ro .evr 0 0x58) 2 1 1).regs := rfl
  unfold State.mirror
  rw [State.fld_congr h, show evrA 0x58 = ro .evr 0 0x58 from rfl, State.fld_setFld_apart _ _ _ _ _ _ _ (by decide) (by decide),
    State.addSat, State.fld_setFld_other _ _ _ _ _ _ (by decide)]

theorem State.mirror_congr {t : State} (h : t.regs = s.regs) : t.mirror = s.mirror := State.fld_congr h _ _ _

theorem State.pushIntake_mirror (s : State) (p : Place) (e : Event) : (s.pushIntake p e).mirror = s.mirror := State.mirror_congr rfl

/-- A dropped event shows in LOSING beside the mirror's state. -/
theorem State.offer_mirror (s : State) (e : Event) : (s.offer e).mirror = s.mirror := by
  unfold State.offer
  dsimp only
  split
  · exact s.pushIntake_mirror _ _
  · split
    · split
      · split
        · exact s.pushIntake_mirror _ _
        · rw [State.pushIntake_mirror, State.countDrop_mirror]
          exact State.mirror_congr rfl
      · split
        · exact s.pushIntake_mirror _ _
        · exact State.mirror_congr rfl
    · split
      · exact s.pushIntake_mirror _ _
      · exact s.countDrop_mirror

theorem State.raise_mirror (s : State) (src code : Nat) (data : List EvVal) (ctx func : Nat) :
    (s.raise src code data ctx func).mirror = s.mirror := by
  obtain ⟨e, -, he⟩ := s.raise_offers src code data ctx func
  rw [he, State.offer_mirror]
  exact State.fld_congr (s.marked_rest src code).1 _ _ _

/-! ### Records (18 R591, R592) -/

theorem State.record_congr {t : State} (h : t.evr.slots = s.evr.slots) (q : Word) : t.record q = s.record q := by
  unfold State.record
  rw [h]

theorem State.record_putSlot_same (s : State) {r : EvRecord} (h : r.valid = true) : (s.putSlot r).record r.seq = some r := by
  have hl : (s.evr.slots.put (r.seq.toNat % 4096) r).look? (r.seq.toNat % 4096) = some r := Tbl.look?_put_same _ _ _
  show ((s.evr.slots.put (r.seq.toNat % 4096) r).look? (r.seq.toNat % 4096)).bind _ = _
  rw [hl]
  exact if_pos ⟨rfl, h⟩

theorem State.record_putSlot_other (s : State) {r : EvRecord} {q : Word} (h : r.seq.toNat % 4096 ≠ q.toNat % 4096) :
    (s.putSlot r).record q = s.record q := by
  have hl : (s.evr.slots.put (r.seq.toNat % 4096) r).look? (q.toNat % 4096) = s.evr.slots.look? (q.toNat % 4096) :=
    Tbl.look?_put_other _ _ h
  show ((s.evr.slots.put (r.seq.toNat % 4096) r).look? (q.toNat % 4096)).bind _ = _
  rw [hl]
  rfl

/-- A record that is found has its number and is valid. -/
theorem State.record_spec {q : Word} {r : EvRecord} (h : s.record q = some r) : r.seq = q ∧ r.valid = true := by
  obtain ⟨x, -, hx⟩ := Option.bind_eq_some_iff.mp h
  split at hx
  · next hc =>
    cases hx
    exact hc
  · cases hx

/-- Closing a record stores it closed, and may hand it to the mirror. -/
theorem State.closeRecord_rest (s : State) (r : EvRecord) : (s.closeRecord r).evr.slots = (s.putSlot { r with closed := true }).evr.slots ∧
    (s.closeRecord r).evr.intake = s.evr.intake ∧ (s.closeRecord r).regs = s.regs := by
  unfold State.closeRecord
  dsimp only
  split <;> exact ⟨rfl, rfl, rfl⟩

theorem State.record_closeRecord_same (s : State) {r : EvRecord} (h : r.valid = true) :
    (s.closeRecord r).record r.seq = some { r with closed := true } :=
  (State.record_congr (s.closeRecord_rest r).1 _).trans (State.record_putSlot_same s (r := { r with closed := true }) h)

theorem State.record_closeRecord_other (s : State) {r : EvRecord} {q : Word} (h : r.seq.toNat % 4096 ≠ q.toNat % 4096) :
    (s.closeRecord r).record q = s.record q :=
  (State.record_congr (s.closeRecord_rest r).1 _).trans (State.record_putSlot_other s (r := { r with closed := true }) h)

/-- Record `q` is closed if it is there and open. -/
def State.closeAt (s : State) (q : Word) : State :=
  match s.record q with
  | some o => if o.closed then s else s.closeRecord o
  | none => s

theorem State.closeAt_other (s : State) {p q : Word} (h : p.toNat % 4096 ≠ q.toNat % 4096) : (s.closeAt p).record q = s.record q ∧
    (s.closeAt p).evr.intake = s.evr.intake ∧ (s.closeAt p).regs = s.regs := by
  unfold State.closeAt
  split
  · next o ho =>
    split
    · exact ⟨rfl, rfl, rfl⟩
    · exact ⟨s.record_closeRecord_other (by rw [(State.record_spec ho).1]; exact h), (s.closeRecord_rest o).2⟩
  · exact ⟨rfl, rfl, rfl⟩

/-- The record that a new event makes. -/
def State.newRecord (s : State) (q : Word) (ev : Event) : EvRecord :=
  EvRecord.sealed
    { seq := q, ev := ev, rep := 1, lastGts := ev.gts, pkg := BitVec.ofNat 8 (s.fld (ro .klr 0 0x40) 0 4),
      loss := s.evr.lossFlag, valid := true, closed := false, crc := 0 }

/-- A record enters the ring, and HEAD and OLDEST move. -/
def State.enter (s : State) (q : Word) (r : EvRecord) : State :=
  let t := (s.putSlot r).withEvr fun e => { e with lossFlag := false }
  (t.wr (evrA 0x44) (if (q - s.evr.firstSeq).toNat < 4096 then t.evr.firstSeq else q - 4095)).wr (evrA 0x40) (q + 1)

/-- A new record, closed at once where no event can merge into it. -/
def State.enterNew (s : State) (q : Word) (ev : Event) : State :=
  if 3 ≤ evClass ev.code.toNat ∨ s.mergeMs = 0 then (s.enter q (s.newRecord q ev)).closeRecord (s.newRecord q ev)
  else s.enter q (s.newRecord q ev)

theorem State.writeRecord_eq (s : State) (ev : Event) : s.writeRecord ev =
    (((s.loseUnmirrored (s.evrHead.toNat % 4096)).enterNew s.evrHead ev).closeAt (s.evrHead - 64)).updMirrorSeq := rfl

/-- The registers that a new record moves. -/
def headRegs : List Nat := [evrA 0x44, evrA 0x40, evrA 0x5C]

theorem State.enter_rest (s : State) (q : Word) (r : EvRecord) : (s.enter q r).evr.slots = (s.putSlot r).evr.slots ∧
    (s.enter q r).evr.intake = s.evr.intake ∧ State.RdBut headRegs s (s.enter q r) ∧ (s.enter q r).evrHead = q + 1 := by
  refine ⟨rfl, rfl, ?_, State.rd_wr_same _ _ _⟩
  exact State.RdBut.wr (State.RdBut.wr (fun _ _ => rfl) _ (by decide)) _ (by decide)

theorem State.enterNew_rest (s : State) (q : Word) (ev : Event) :
    (∃ y, (s.enterNew q ev).record q = some y ∧ y.ev = ev ∧ y.rep = 1 ∧ y.lastGts = ev.gts) ∧
      (s.enterNew q ev).evr.intake = s.evr.intake ∧ State.RdBut headRegs s (s.enterNew q ev) ∧ (s.enterNew q ev).evrHead = q + 1 := by
  obtain ⟨h1, h2, h3, h4⟩ := s.enter_rest q (s.newRecord q ev)
  unfold State.enterNew
  split
  · obtain ⟨-, k2, k3⟩ := (s.enter q (s.newRecord q ev)).closeRecord_rest (s.newRecord q ev)
    refine ⟨⟨_, State.record_closeRecord_same _ (r := s.newRecord q ev) rfl, rfl, rfl, rfl⟩, k2.trans h2, fun a ha => ?_, ?_⟩
    · exact (State.rd_congr k3 a).trans (h3 a ha)
    · exact (State.rd_congr k3 _).trans h4
  · exact ⟨⟨_, (State.record_congr h1 q).trans (State.record_putSlot_same s (r := s.newRecord q ev) rfl), rfl, rfl, rfl⟩, h2, h3, h4⟩

/-- Losing an unmirrored record moves no HEAD. -/
theorem State.loseUnmirrored_head (s : State) (slot : Nat) : (s.loseUnmirrored slot).evrHead = s.evrHead := by
  unfold State.loseUnmirrored
  split
  · rfl
  · next r _ =>
    have h : ∀ f : Recorder → Recorder, ((s.addSat (evrA 0x64) 0 32 1).withEvr f).evrHead = s.evrHead := fun f =>
      State.rd_setFld_other _ _ _ _ (by decide)
    dsimp only
    split
    · exact (State.raise_rd _ _ _ _ _ _ (by decide) (by decide)).trans (h _)
    · exact h _

/-- What writing a record leaves. -/
theorem State.writeRecord_writes (s : State) (ev : Event) : (s.writeRecord ev).evrHead = s.evrHead + 1 ∧
    (∃ y, (s.writeRecord ev).record s.evrHead = some y ∧ y.ev = ev ∧ y.rep = 1 ∧ y.lastGts = ev.gts) ∧
    (s.writeRecord ev).evr.intake = (s.loseUnmirrored (s.evrHead.toNat % 4096)).evr.intake ∧
    (s.writeRecord ev).bit (evrA 0x58) 2 = (s.loseUnmirrored (s.evrHead.toNat % 4096)).bit (evrA 0x58) 2 := by
  have hne : (s.evrHead - 64).toNat % 4096 ≠ s.evrHead.toNat % 4096 := by
    bv_omega
  rw [State.writeRecord_eq]
  generalize s.loseUnmirrored (s.evrHead.toNat % 4096) = u
  obtain ⟨⟨y, hy, hrest⟩, hin, hrd, hhead⟩ := u.enterNew_rest s.evrHead ev
  generalize u.enterNew s.evrHead ev = v at hy hin hrd hhead
  obtain ⟨k1, k2, k3⟩ := v.closeAt_other hne
  generalize v.closeAt (s.evrHead - 64) = w at k1 k2 k3
  have hw : ∀ a, a ≠ evrA 0x5C → w.updMirrorSeq.rd a = v.rd a := fun a ha =>
    (State.rd_wr_other _ _ ha.symm).trans (State.rd_congr k3 a)
  refine ⟨(hw _ (by decide)).trans hhead, ⟨y, (State.record_congr rfl _).trans (k1.trans hy), hrest⟩, k2.trans hin, ?_⟩
  exact (congrArg (fun x => bitsOf x 2 1 == 1) ((hw (evrA 0x58) (by decide)).trans (hrd _ (by decide))))

/-! ### Taking in an event (18 R590, R593) -/

/-- Losses are reported when LOSING is set and the intake has room. -/
def State.lossDue (s : State) : Prop := s.bit (evrA 0x58) 2 = true ∧ placesTaken s.evr.intake .normal ≤ 128

theorem State.reportLoss_none (h : ¬ s.lossDue) : s.reportLoss = s := if_neg h

/-- An event below severe that is dropped finds the intake full. -/
theorem State.offer_notDue {e : Event} (hc : evClass e.code.toNat < 3) (h : s.bit (evrA 0x58) 2 = false) : ¬ (s.offer e).lossDue := by
  rintro ⟨h1, h2⟩
  have hpush : ∀ p, (s.pushIntake p e).bit (evrA 0x58) 2 = false := fun _ => h
  unfold State.offer at h1 h2
  dsimp only at h1 h2
  rw [if_neg (not_le.mpr hc)] at h1 h2
  split at h1
  · exact absurd (h1.symm.trans (hpush _)) (by decide)
  · next h0 =>
    rw [if_neg h0] at h2
    split at h1
    · exact absurd (h1.symm.trans (hpush _)) (by decide)
    · next hfull =>
      rw [if_neg hfull] at h2
      exact hfull (lt_of_le_of_lt h2 (by decide))

theorem State.loseUnmirrored_notDue (slot : Nat) (h : s.bit (evrA 0x58) 2 = false) : ¬ (s.loseUnmirrored slot).lossDue := by
  unfold State.loseUnmirrored
  split
  · exact fun hd => absurd (h.symm.trans hd.1) (by decide)
  · next r _ =>
    have hk : ∀ f : Recorder → Recorder, ((s.addSat (evrA 0x64) 0 32 1).withEvr f).bit (evrA 0x58) 2 = false := fun f =>
      (congrArg (fun x => bitsOf x 2 1 == 1) (State.rd_setFld_other _ _ _ _ (by decide))).trans h
    dsimp only
    split
    · obtain ⟨e, hc, he⟩ := State.raise_offers ((s.addSat (evrA 0x64) 0 32 1).withEvr fun e =>
        { e with toMirror := e.toMirror.filter fun x => x.seq != r.seq, losing := true }) 0x0002 0x2065 [.w r.seq.toNat] 0xFF 0xFF
      rw [he]
      refine State.offer_notDue (by rw [hc]; decide) ?_
      exact (congrArg (· == 1) (State.fld_congr (State.marked_rest _ 0x0002 0x2065).1 _ _ _)).trans (hk _)
    · exact fun hd => absurd ((hk _).symm.trans hd.1) (by decide)

/-- The intake after its oldest event has gone and a held one has come. -/
def State.nextIntake (s : State) (r : List (Place × Event)) : State := (s.withEvr fun v => { v with intake := r }).admitHeld

theorem State.nextIntake_rest (s : State) (r : List (Place × Event)) : (s.nextIntake r).regs = s.regs ∧
    (s.nextIntake r).evr.slots = s.evr.slots ∧ (s.nextIntake r).gts = s.gts := by
  unfold State.nextIntake State.admitHeld
  split
  · exact ⟨rfl, rfl, rfl⟩
  · split <;> exact ⟨rfl, rfl, rfl⟩

/-- The open records depend on HEAD and the slots, and what merges on the time of merging besides. -/
theorem State.mergeTarget_congr {t : State} (hr : t.regs = s.regs) (hs : t.evr.slots = s.evr.slots) (hg : t.gts = s.gts) (e : Event) :
    t.mergeTarget e = s.mergeTarget e := by
  have hm : t.mergeMs = s.mergeMs := State.fld_congr hr _ _ _
  have hrec : t.record = s.record := funext fun q => State.record_congr hs q
  have hh : t.evrHead = s.evrHead := State.rd_congr hr _
  have ho : t.openRecords = s.openRecords := by
    unfold State.openRecords State.recentSeqs
    rw [hrec, hh]
  unfold State.mergeTarget
  rw [hm, ho, hg]

/-- An event merges into an open record. -/
theorem State.mergeTarget_open {e : Event} {z : EvRecord} (h : s.mergeTarget e = some z) : z.valid = true := by
  unfold State.mergeTarget at h
  split at h
  · cases h
  · obtain ⟨q, -, hq⟩ := List.mem_filterMap.mp (List.mem_filter.mp (List.mem_of_find?_eq_some h)).1
    exact (State.record_spec hq).2

theorem exec_eventIntake {x : Place} {e : Event} {r : List (Place × Event)} (ha : s.boot.aonUp = true)
    (hb : s.boot.bootRecordDue = false) (hi : s.evr.intake = (x, e) :: r) : exec .eventIntake s = .next
      (match (s.nextIntake r).mergeTarget e with
        | some t => (s.nextIntake r).putSlot (mergeInto t e)
        | none => (s.nextIntake r).writeRecord e).reportLoss := by
  show execEventIntake s = _
  unfold execEventIntake
  rw [if_neg (by simp [ha]), if_neg (by simp [hb]), hi]
  rfl

/-- The boot record is written with its own code and time (18 R590). -/
theorem State.selfRecord_writes (s : State) (code : Nat) (vals : List EvVal) : (s.selfRecord code vals).evrHead = s.evrHead + 1 ∧
    ∃ y, (s.selfRecord code vals).record s.evrHead = some y ∧ y.ev.code = BitVec.ofNat 16 code ∧ y.ev.gts = s.gts := by
  unfold State.selfRecord
  have hh : ((s.markEvent 0x0002 code).pulse code).evrHead = s.evrHead := State.rd_congr (s.marked_rest 0x0002 code).1 _
  rw [← hh]
  obtain ⟨h1, ⟨y, h2, h3, -⟩, -⟩ := State.writeRecord_writes ((s.markEvent 0x0002 code).pulse code)
    ⟨s.gts, 0x0002, BitVec.ofNat 16 code, 0xFF, 0xFF, evData vals, s.synced⟩
  exact ⟨h1, y, h2, congrArg Event.code h3, congrArg Event.gts h3⟩

end

end Sys2Proof.Machine
end

section
/-! The NOR mirror of the event recorder (O58). -/

namespace Sys2Proof.Machine

section
variable {s : State}

/-! ### What the mirror has to do and has done -/

/-- The records that wait for the mirror, those that it holds, and the place that it fills next. -/
def State.backlog (s : State) : List EvRecord × List (Nat × EvRecord) × Nat × Nat :=
  (s.evr.toMirror, s.evr.mirrored, s.evr.mirrorPlace, s.evr.erasedAhead)

theorem State.raise_backlog (s : State) (src code : Nat) (data : List EvVal) (ctx func : Nat) :
    (s.raise src code data ctx func).backlog = s.backlog := by
  obtain ⟨a, b, c, d, h⟩ := s.raise_store src code data ctx func
  unfold State.backlog
  rw [h]

theorem State.setFld_backlog (s : State) (a lo w n : Nat) : (s.setFld a lo w n).backlog = s.backlog := rfl

theorem State.addSat_backlog (s : State) (a lo w n : Nat) : (s.addSat a lo w n).backlog = s.backlog := rfl

theorem State.setMirror_backlog (s : State) (n : Nat) : (s.setMirror n).backlog = s.backlog := rfl

/-- The sector tables after sector `l` has moved to a spare. -/
def State.moveSector (s : State) (l : Nat) : State := s.withEvr fun e =>
  { e with sectorMap := e.sectorMap.put l (4096 + e.sparesUsed), sparesUsed := e.sparesUsed + 1,
           sectorGen := e.sectorGen.put l (e.sectorGen.look 0 l + 1) }

theorem State.moveSector_backlog (s : State) (l : Nat) : (s.moveSector l).backlog = s.backlog := rfl

/-- The spare's counters and event, and the tables. -/
def State.useSpare (s : State) (l us base left : Nat) : State :=
  ((((s.setFld (evrA 0x68) 0 13 left).addSat (evrA 0x68) 16 13 1).addSat (evrA 0x6C) 0 32 1).raise 0x0009 0x2067
    [.w (((s.setFld (evrA 0x68) 0 13 left).addSat (evrA 0x68) 16 13 1).physSector l), .w us, .w base, .w left]).moveSector l

theorem State.useSpare_backlog (s : State) (l us base left : Nat) : (s.useSpare l us base left).backlog = s.backlog := by
  rw [State.useSpare, State.moveSector_backlog, State.raise_backlog, State.addSat_backlog, State.addSat_backlog, State.setFld_backlog]

theorem State.retireSector_eq (s : State) (l us base : Nat) : s.retireSector l us base =
    let left := s.fld (evrA 0x68) 0 13 - 1
    let t := s.useSpare l us base left
    if left ≤ 371 ∧ t.mirror = mirActive then ((t.setMirror mirReadOnly).setFld stA 14 1 1).raise 0x0009 0x3068 [] else t := rfl

/-- Moving a sector to a spare leaves the mirror's work as it is. -/
theorem State.retireSector_backlog (s : State) (l us base : Nat) : (s.retireSector l us base).backlog = s.backlog := by
  rw [State.retireSector_eq]
  dsimp only
  split
  · rw [State.raise_backlog, State.setFld_backlog, State.setMirror_backlog, State.useSpare_backlog]
  · exact s.useSpare_backlog _ _ _ _

theorem State.retireSector_when (s : State) (c : Prop) [Decidable c] (l us base : Nat) :
    (if c then s.retireSector l us base else s).backlog = s.backlog := by
  split
  · exact s.retireSector_backlog _ _ _
  · rfl

theorem State.backlog_congr {t : State} (h : t.evr = s.evr) : t.backlog = s.backlog := by
  unfold State.backlog
  rw [h]

/-- The mirror's work, component by component. -/
theorem State.backlog_spec {x : List EvRecord × List (Nat × EvRecord) × Nat × Nat} (h : s.backlog = x) :
    s.evr.toMirror = x.1 ∧ s.evr.mirrored = x.2.1 ∧ s.evr.mirrorPlace = x.2.2.1 ∧ s.evr.erasedAhead = x.2.2.2 := by
  subst h
  exact ⟨rfl, rfl, rfl, rfl⟩

/-! ### Programs, erasures and errors (18 R597 to R600) -/

/-- One more error, at this time. -/
def State.countNorError (s : State) : State := s.withEvr fun e => { e with norErrors := s.evr.norErrors + 1, norRetryAt := s.now }

theorem State.norError_eq (s : State) : s.norError =
    if 3 ≤ s.evr.norErrors + 1 ∧ s.countNorError.mirror = mirActive then (s.countNorError.setMirror mirSuspended).raise 0x0009 0x3069 []
    else s.countNorError := rfl

/-- The third error in a row suspends the mirror. -/
theorem State.norError_counts (hm : s.mirror = mirActive) : s.norError.evr.toMirror = s.evr.toMirror ∧
    s.norError.evr.norErrors = s.evr.norErrors + 1 ∧ (2 ≤ s.evr.norErrors → s.norError.mirror = mirSuspended) ∧
    (s.evr.norErrors < 2 → s.norError.mirror = mirActive) := by
  have hc : s.countNorError.mirror = mirActive := (State.mirror_congr rfl).trans hm
  rw [State.norError_eq]
  split
  · next h =>
    obtain ⟨a, b, c, d, hs⟩ := (s.countNorError.setMirror mirSuspended).raise_store 0x0009 0x3069 [] 0xFF 0xFF
    have hn : 2 ≤ s.evr.norErrors := by omega
    refine ⟨?_, ?_, fun _ => ?_, fun hlt => absurd hn (not_le.mpr hlt)⟩
    · rw [hs]; rfl
    · rw [hs]; rfl
    · rw [State.raise_mirror]
      exact State.fld_setFld _ _ _ _ _ (by decide)
  · next h =>
    exact ⟨rfl, rfl, fun hn => absurd ⟨by omega, hc⟩ h, fun _ => hc⟩

theorem State.updMirror_evr (s : State) : s.updMirrorSeq.updMirrorRange.evr = s.evr := rfl

/-- The recorder after record `r` has been programmed. -/
def State.programmed (s : State) (r : EvRecord) (rest : List EvRecord) (us : Nat) : State :=
  let place := s.evr.mirrorPlace
  let l := s.evr.mirrorSector
  let ph := s.physSector l
  s.withEvr fun e =>
    { e with toMirror := rest, losing := false, norErrors := 0,
             mirrored := e.mirrored ++ [(l, r)],
             progBase := e.progBase.put ph (addBase (s.evr.progBase.look (0, 0) ph) us),
             erasedAhead := if place = 0 then e.erasedAhead - 1 else e.erasedAhead,
             mirrorPlace := (place + 1) % 63,
             mirrorSector := if place = 62 then (l + 1) % 4096 else l }

/-- The program of the oldest waiting record in an active mirror with an erased place. -/
theorem exec_mirrorProgramDone {r : EvRecord} {rest : List EvRecord} (us tries : Nat) (ok : Bool) (hm : s.mirror = mirActive)
    (ht : s.evr.toMirror = r :: rest) (he : s.evr.mirrorPlace ≠ 0 ∨ s.evr.erasedAhead ≠ 0) :
    exec (.mirrorProgramDone us tries ok) s = .next (if !ok then s.norError
      else if !r.crcOk then (s.withEvr fun e => { e with toMirror := rest, losing := false }).updMirrorSeq
      else
        let base := s.evr.progBase.look (0, 0) (s.physSector s.evr.mirrorSector)
        let t := s.programmed r rest us
        (if tooSlow base us || decide (2 ≤ tries) then t.retireSector s.evr.mirrorSector us ((baseline base).getD 0)
          else t).updMirrorSeq.updMirrorRange) := by
  show execMirrorProgramDone us tries ok s = _
  unfold execMirrorProgramDone
  rw [ht]
  dsimp only
  rw [if_neg (by rw [hm]; simp only [ne_eq, not_true_eq_false, false_or]; omega)]
  split
  · rfl
  · split <;> rfl

theorem mirrorProgramDone_takes {r : EvRecord} {rest : List EvRecord} (us tries : Nat) (hm : s.mirror = mirActive)
    (ht : s.evr.toMirror = r :: rest) (he : s.evr.mirrorPlace ≠ 0 ∨ s.evr.erasedAhead ≠ 0) (hc : r.crcOk = true) :
    completes (.mirrorProgramDone us tries true) s (fun t => t.evr.toMirror = rest ∧
      t.evr.mirrored = s.evr.mirrored ++ [(s.evr.mirrorSector, r)] ∧ t.evr.mirrorPlace = (s.evr.mirrorPlace + 1) % 63) := by
  have hx := exec_mirrorProgramDone us tries true hm ht he
  rw [if_neg (by decide), if_neg (by simp [hc])] at hx
  dsimp only at hx
  refine completes_next hx ?_
  obtain ⟨h1, h2, h3, -⟩ := State.backlog_spec ((State.backlog_congr (State.updMirror_evr _)).trans
    ((s.programmed r rest us).retireSector_when
      ((tooSlow (s.evr.progBase.look (0, 0) (s.physSector s.evr.mirrorSector)) us || decide (2 ≤ tries)) = true)
      s.evr.mirrorSector us ((baseline (s.evr.progBase.look (0, 0) (s.physSector s.evr.mirrorSector))).getD 0)))
  exact ⟨h1, h2, h3⟩

/-- The recorder after sector `l` has been erased. -/
def State.erased (s : State) (l us : Nat) : State :=
  let ph := s.physSector l
  s.withEvr fun e =>
    { e with mirrored := e.mirrored.filter fun r => r.1 != l, erasedAhead := e.erasedAhead + 1, norErrors := 0,
             sectorErases := e.sectorErases.put ph (e.sectorErases.look 0 ph + 1),
             eraseBase := e.eraseBase.put ph (addBase (s.evr.eraseBase.look (0, 0) ph) us) }

/-- The sector that the mirror erases next. -/
def State.nextErase (s : State) : Nat :=
  ((if s.evr.mirrorPlace = 0 then s.evr.mirrorSector else s.evr.mirrorSector + 1) + s.evr.erasedAhead) % 4096

theorem exec_norEraseDone (us : Nat) (hm : s.mirror = mirActive) (he : s.evr.erasedAhead < 4095) :
    exec (.norEraseDone us true) s = .next
      (let base := s.evr.eraseBase.look (0, 0) (s.physSector s.nextErase)
       (if tooSlow base us = true then (s.erased s.nextErase us).retireSector s.nextErase us ((baseline base).getD 0)
        else s.erased s.nextErase us).updMirrorRange) := by
  show execNorEraseDone us true s = _
  unfold execNorEraseDone
  rw [if_neg (by simp [hm]), if_neg (by decide)]
  dsimp only
  rw [if_neg (by omega)]
  rfl

theorem norEraseDone_erases (us : Nat) (hm : s.mirror = mirActive) (he : s.evr.erasedAhead < 4095) :
    completes (.norEraseDone us true) s (fun t => t.evr.erasedAhead = s.evr.erasedAhead + 1 ∧ t.evr.toMirror = s.evr.toMirror ∧
      t.evr.mirrored = s.evr.mirrored.filter fun r => r.1 != s.nextErase) := by
  refine completes_next (exec_norEraseDone us hm he) ?_
  have hr : ∀ u : State, u.updMirrorRange.evr = u.evr := fun _ => rfl
  obtain ⟨h1, h2, -, h4⟩ := State.backlog_spec ((State.backlog_congr (hr _)).trans
    ((s.erased s.nextErase us).retireSector_when
      (tooSlow (s.evr.eraseBase.look (0, 0) (s.physSector s.nextErase)) us = true) s.nextErase us
      ((baseline (s.evr.eraseBase.look (0, 0) (s.physSector s.nextErase))).getD 0)))
  exact ⟨h4, h1, h2⟩

/-! ### Reading a mirrored record (18 R601) -/

/-- The first `n` words of a record in MREAD's window. -/
def State.showWords (s : State) (bs : List Byte) (n : Nat) : State := (List.range n).foldl (fun (s : State) (i : Nat) =>
  s.wr (evrA (0x800 + 4 * i)) (BitVec.ofNat 32 (leNat ((bs.drop (4 * i)).take 4)))) s

theorem State.showWords_succ (s : State) (bs : List Byte) (n : Nat) : s.showWords bs (n + 1) =
    (s.showWords bs n).wr (evrA (0x800 + 4 * n)) (BitVec.ofNat 32 (leNat ((bs.drop (4 * n)).take 4))) := by
  unfold State.showWords
  rw [List.range_succ, List.foldl_append]
  rfl

theorem evrA_ne {a b : Nat} (h : a ≠ b) : evrA a ≠ evrA b := by
  unfold evrA ro
  omega

theorem State.showWords_rd (s : State) (bs : List Byte) (n : Nat) : ∀ i < n,
    (s.showWords bs n).rd (evrA (0x800 + 4 * i)) = BitVec.ofNat 32 (leNat ((bs.drop (4 * i)).take 4)) := by
  induction n with
  | zero => exact fun i hi => absurd hi (Nat.not_lt_zero i)
  | succ n ih =>
    intro i hi
    rw [State.showWords_succ]
    by_cases h : i = n
    · subst h
      exact State.rd_wr_same _ _ _
    · rw [State.rd_wr_other _ _ (evrA_ne (by omega))]
      exact ih i (by omega)

theorem State.showWords_evr (s : State) (bs : List Byte) (n : Nat) : (s.showWords bs n).evr = s.evr :=
  foldl_kept State.evr _ (by intro _ _; rfl) _ _

/-- The search is over. -/
def State.searched (s : State) : State := s.withEvr fun e => { e with searching := none }

theorem exec_mreadDone {q : Word} (h : s.evr.searching = some q) : exec .mreadDone s =
    match s.evr.mirrored.find? fun r => r.2.seq == q && r.2.crcOk with
    | none => .next (s.searched.wr (evrA 0x74) 0)
    | some r => .next ((s.searched.showWords r.2.bytes 16).wr (evrA 0x74) 2) := by
  show execMreadDone s = _
  unfold execMreadDone
  rw [h]
  rfl

theorem mreadDone_finds {q : Word} (h : s.evr.searching = some q) : completes .mreadDone s (fun t =>
    t.evr = { s.evr with searching := none } ∧
      (∀ r, (s.evr.mirrored.find? fun r => r.2.seq == q && r.2.crcOk) = some r → t.rd (evrA 0x74) = 2 ∧
        ∀ i < 16, t.rd (evrA (0x800 + 4 * i)) = BitVec.ofNat 32 (leNat ((r.2.bytes.drop (4 * i)).take 4))) ∧
      ((s.evr.mirrored.find? fun r => r.2.seq == q && r.2.crcOk) = none → t.rd (evrA 0x74) = 0)) := by
  have hx := exec_mreadDone h
  cases hf : s.evr.mirrored.find? fun r => r.2.seq == q && r.2.crcOk with
  | none =>
    rw [hf] at hx
    exact completes_next hx ⟨rfl, fun r hr => (nomatch hr), fun _ => State.rd_wr_same _ _ _⟩
  | some r =>
    rw [hf] at hx
    refine completes_next hx ⟨s.searched.showWords_evr r.2.bytes 16, fun r' hr => ?_, fun hn => (nomatch hn)⟩
    obtain rfl := Option.some.inj hr
    refine ⟨State.rd_wr_same _ _ _, fun i hi => ?_⟩
    rw [State.rd_wr_other _ _ (evrA_ne (by omega))]
    exact s.searched.showWords_rd _ _ i hi

/-! ### The boot record (18 R590) -/

theorem State.loseUnmirrored_boot (s : State) (slot : Nat) : (s.loseUnmirrored slot).boot = s.boot := by
  unfold State.loseUnmirrored
  split
  · rfl
  · dsimp only
    split
    · rw [State.raise_boot]
      rfl
    · rfl

theorem State.closeRecord_boot (s : State) (r : EvRecord) : (s.closeRecord r).boot = s.boot := by
  unfold State.closeRecord
  dsimp only
  split <;> rfl

theorem State.enterNew_boot (s : State) (q : Word) (ev : Event) : (s.enterNew q ev).boot = s.boot := by
  unfold State.enterNew
  split
  · exact State.closeRecord_boot _ _
  · rfl

theorem State.closeAt_boot (s : State) (q : Word) : (s.closeAt q).boot = s.boot := by
  unfold State.closeAt
  split
  · split
    · rfl
    · exact s.closeRecord_boot _
  · rfl

theorem State.updMirrorSeq_boot (s : State) : s.updMirrorSeq.boot = s.boot := rfl

theorem State.selfRecord_boot (s : State) (code : Nat) (vals : List EvVal) : (s.selfRecord code vals).boot = s.boot := by
  have h : ((s.markEvent 0x0002 code).pulse code).boot = s.boot := by
    obtain ⟨_, _, _, _, _, he, -⟩ := State.touched_trans (s.markEvent_touched 0x0002 code) (State.pulse_touched _ code)
    rw [he]
  rw [State.selfRecord, State.writeRecord_eq, State.updMirrorSeq_boot, State.closeAt_boot, State.enterNew_boot,
    State.loseUnmirrored_boot, h]

/-- Settles O58. -/
theorem eventRecordsAndMirror : Obligations.EventRecordsAndMirror := by
  refine fun s => ⟨fun ha => ⟨fun hb => ?_, fun x e r hb hi hl => ⟨fun hm => ?_, fun z hm => ?_⟩⟩, fun q r hr hc ht => ?_,
    fun snd val hs => ⟨fun h hv => ?_, fun h => ?_⟩, fun q hq => mreadDone_finds hq, fun hm => ⟨fun r rest us tries ht he =>
    ⟨mirrorProgramDone_takes us tries hm ht he, fun hc => ?_, ?_⟩, fun us he => norEraseDone_erases us hm he⟩, fun hm ht => ⟨?_, ?_⟩⟩
  · have hx : exec .eventIntake s = .next (({ s with boot := { s.boot with bootRecordDue := false } } : State).selfRecord 0x0066
        [.w (s.fld stA 20 3), .w (s.fld stA 12 1)]) := (if_neg (by simp [ha])).trans (if_pos hb)
    obtain ⟨h1, y, h2, h3, h4⟩ := ({ s with boot := { s.boot with bootRecordDue := false } } : State).selfRecord_writes 0x0066
        [.w (s.fld stA 20 3), .w (s.fld stA 12 1)]
    exact completes_next hx ⟨h1, congrArg Boot.bootRecordDue (State.selfRecord_boot _ _ _), y, h2, h3, h4⟩
  · have hx := exec_eventIntake ha hb hi
    obtain ⟨n1, n2, n3⟩ := s.nextIntake_rest r
    rw [State.mergeTarget_congr n1 n2 n3 e, hm] at hx
    dsimp only at hx
    obtain ⟨w1, ⟨y, w2, w3⟩, w4, w5⟩ := (s.nextIntake r).writeRecord_writes e
    have hbit : (s.nextIntake r).bit (evrA 0x58) 2 = false := (congrArg (· == 1) (State.fld_congr n1 _ _ _)).trans hl
    have hdue : ¬ ((s.nextIntake r).writeRecord e).lossDue := by
      unfold State.lossDue
      rw [w4, w5]
      exact State.loseUnmirrored_notDue _ hbit
    have hh : (s.nextIntake r).evrHead = s.evrHead := State.rd_congr n1 _
    rw [hh] at w1 w2
    rw [State.reportLoss_none hdue] at hx
    exact completes_next hx ⟨w1, y, w2, w3⟩
  · have hx := exec_eventIntake ha hb hi
    obtain ⟨n1, n2, n3⟩ := s.nextIntake_rest r
    rw [State.mergeTarget_congr n1 n2 n3 e, hm] at hx
    dsimp only at hx
    have hbit : (s.nextIntake r).bit (evrA 0x58) 2 = false := (congrArg (· == 1) (State.fld_congr n1 _ _ _)).trans hl
    have hdue : ¬ ((s.nextIntake r).putSlot (mergeInto z e)).lossDue := fun hd => absurd (hbit.symm.trans hd.1) (by decide)
    rw [State.reportLoss_none hdue] at hx
    refine completes_next hx ⟨(State.rd_congr n1 _ : (s.nextIntake r).evrHead = s.evrHead), mergeInto z e, ?_, rfl, rfl, rfl⟩
    have hv := State.mergeTarget_open hm
    exact State.record_putSlot_same _ (r := mergeInto z e) hv
  · obtain ⟨hseq, hvalid⟩ := State.record_spec hr
    have hx : exec (.recordClose q) s = .next (s.closeRecord r).updMirrorSeq := by
      show execRecordClose q s = _
      unfold execRecordClose
      rw [hr]
      exact if_pos ⟨by simp [hc], ht⟩
    have hh : (s.closeRecord r).updMirrorSeq.evrHead = s.evrHead :=
      (State.rd_wr_other _ _ (by decide)).trans (State.rd_congr (s.closeRecord_rest r).2.2 _)
    refine completes_next hx ⟨?_, hh, fun hcl => ?_⟩
    · rw [← hseq]
      exact (State.record_congr rfl _).trans (s.record_closeRecord_same hvalid)
    · show (s.closeRecord r).evr.toMirror = _
      unfold State.closeRecord
      exact congrArg (fun u : State => u.evr.toMirror) (if_pos (.inl hcl))
  · have hx : exec (.evrSnapTake snd val) s = .next (s.snapTake val) :=
      congrArg Host.Outcome.next (State.ownWrite_mgmtWord (b := .evr) (o := 0x48) val hs (.inr (.inl rfl)) (by decide) (by decide)
        (by decide) (by decide) h)
    rw [State.snapTake, if_pos hv] at hx
    refine completes_next hx ⟨?_, ?_, rfl⟩
    · rw [State.rd_wr_other _ _ (by decide)]
      exact State.rd_wr_same _ _ _
    · exact State.rd_wr_same _ _ _
  · have hx : exec (.mread snd val) s = .next (s.mread val) :=
      congrArg Host.Outcome.next (State.ownWrite_mgmtWord (b := .evr) (o := 0x70) val hs (.inr (.inl rfl)) (by decide) (by decide)
        (by decide) (by decide) h)
    exact completes_next hx ⟨State.rd_wr_same _ _ _, rfl⟩
  · have hx := exec_mirrorProgramDone us tries true hm ht he
    rw [if_neg (by decide), if_pos (by simp [hc])] at hx
    exact completes_next hx ⟨rfl, rfl⟩
  · have hx := exec_mirrorProgramDone us tries false hm ht he
    rw [if_pos (by decide)] at hx
    exact completes_next hx (State.norError_counts hm)
  · refine completes_next (c := .norRetry true) ((if_neg ?_).trans (if_pos rfl)) ⟨State.fld_setFld _ _ _ _ _ (by decide), rfl⟩
    simp [hm, ht]
  · refine completes_next (c := .norRetry false) ((if_neg ?_).trans (if_neg (by decide))) ⟨hm, rfl⟩
    simp [hm, ht]

end

end Sys2Proof.Machine
end

section
/-! A commit that discards first (O54). -/

namespace Sys2Proof.Machine

/-- A package whose pending KLR.EPOCH lies one before its own: an installation of it is refused as stale. -/
def staleEpoch : State := { State.reset with regs := [(stA, 1), (klrA 0x50, 0xFFFF)] }

theorem staleEpoch_refusal : staleEpoch.ownTakes (klrA 0x38) ∧ staleEpoch.installRefusal = 1 := by decide +kernel

/-- With the shadows at their active values the epoch is the package's own, but no member is valid. -/
theorem staleEpoch_discarded : (staleEpoch.discard ⟨.klr, 0⟩).installRefusal = 2 := by decide +kernel

/-- A write with COMMIT and DISCARD discards before it installs (02 R71, R72). -/
theorem State.pfWrite_commitDiscard {s : State} (h : s.ownTakes (klrA 0x38)) :
    s.pfWrite (klrA 0x38) 9 = (s.discard ⟨.klr, 0⟩).installConsist := by
  have hoff : klrA 0x38 % 0x1000 = 0x38 := by decide
  rw [State.pfWrite_takes (p := ⟨.klr, 0⟩) 9 h (by decide) (by decide), hoff, State.wordEffect, if_pos (by decide)]
  show s.commitWrite (.pcie 0) ⟨.klr, 0⟩ 9 = _
  unfold State.commitWrite
  rw [if_neg (by decide), if_pos (by decide), if_pos (by decide), State.commit, if_pos rfl]

/-- A refused installation shows its reason. -/
theorem State.installConsist_refused {s : State} (h : s.installRefusal ≠ 0) (h8 : s.installRefusal < 8) :
    s.installConsist.fld (klrA 0x54) 0 3 = s.installRefusal := by
  unfold State.installConsist
  dsimp only
  rw [if_pos h, State.raise_fld _ _ _ _ _ _ _ _ (by decide) (by decide), State.fld_setFld _ _ _ _ _ (by decide)]
  exact Nat.mod_eq_of_lt h8

/-- Refutes O54: a write of PG_COMMIT that also has DISCARD gives the shadows their active values first, so the refusal that it reports
is not that of the pending installation. -/
theorem not_consistMembership : ¬ Obligations.ConsistMembership := by
  intro h
  obtain ⟨t, ht, hres, -⟩ := ((h staleEpoch).1 9 staleEpoch_refusal.1 (by decide)).1 (by rw [staleEpoch_refusal.2]; decide)
  have kept := State.installConsist_refused (s := staleEpoch.discard ⟨.klr, 0⟩) (by rw [staleEpoch_discarded]; decide)
    (by rw [staleEpoch_discarded]; decide)
  obtain rfl : staleEpoch.pfWrite (klrA 0x38) 9 = t := Host.Outcome.next.inj ht
  rw [State.pfWrite_commitDiscard staleEpoch_refusal.1, kept, staleEpoch_discarded, staleEpoch_refusal.2] at hres
  exact absurd hres (by decide)

end Sys2Proof.Machine
end

section
/-! The Couplings, the scrub, and lost stacks and dies (O56). -/

namespace Sys2Proof.Machine

section
variable {z s : State}

/-! ### A severe event stays -/

/-- An event of this time, source, code and data that names neither a context nor a function. -/
def Event.Is (e : Event) (gts src code : Nat) (data : List EvVal) : Prop :=
  e.gts = gts ∧ e.src = BitVec.ofNat 16 src ∧ e.code = BitVec.ofNat 16 code ∧ e.ctx = 0xFF ∧ e.func = 0xFF ∧ e.data = evData data

/-- A severe event of an area other than the management region finds a place of its own, or is held (18 R594). -/
theorem State.offer_waits (s : State) {e : Event} (ha : e.src.toNat / 0x1000 ≠ 0) (hc : 3 ≤ evClass e.code.toNat) :
    (s.offer e).severeWaits e := by
  unfold State.offer
  dsimp only
  rw [if_neg (fun h => ha h.1), if_pos hc, if_neg ha]
  split
  · exact .inl (List.mem_append_right _ (.head _))
  · exact .inr (List.mem_append_right _ (.head _))

theorem State.raise_offersEvent (s : State) (src code : Nat) (data : List EvVal) : ∃ e, Event.Is e s.gts src code data ∧
    s.raise src code data = ((s.markEvent src code).pulse code).offer e := ⟨_, ⟨rfl, rfl, rfl, rfl, rfl, rfl⟩, rfl⟩

theorem State.raise_waits (s : State) {src code : Nat} (data : List EvVal) (ha : (BitVec.ofNat 16 src).toNat / 0x1000 ≠ 0)
    (hc : 3 ≤ evClass (BitVec.ofNat 16 code).toNat) : ∃ e, Event.Is e s.gts src code data ∧ (s.raise src code data).severeWaits e := by
  obtain ⟨e, he, hr⟩ := s.raise_offersEvent src code data
  obtain ⟨-, hsrc, hcode, -⟩ := id he
  refine ⟨e, he, ?_⟩
  rw [hr]
  exact State.offer_waits _ (hsrc ▸ ha) (hcode ▸ hc)

/-- An event that waits is logged. -/
theorem State.logged_of_waits {e : Event} {gts src code : Nat} {data : List EvVal} (h : s.severeWaits e)
    (he : Event.Is e gts src code data) : s.logged gts src code data 0xFF 0xFF := by
  obtain h | h := h
  · exact .inl ⟨_, h, he⟩
  · exact .inr (.inl ⟨_, h, he⟩)

/-! ### Lost stacks and dies (16 R551, 18 R606) -/

/-- Every frame of a list is to retire. -/
def State.retireFrames (s : State) (fs : List Nat) : State := fs.foldl (fun (s : State) f => s.requestRetire f) s

/-- The stack joins the retired ones. -/
def State.retireStack (s : State) (k : Nat) : State := { s with scrub := { s.scrub with retired := s.scrub.retired ++ [k] } }

theorem State.loseStack_eq (s : State) (k : Nat) :
    s.loseStack k = ((s.retireFrames (upFrom (12288 * k) 12288)).retireStack k).losePools (s.poolsOf k) := by
  unfold State.loseStack State.retireStack State.retireFrames
  dsimp only

theorem State.retireFrames_spares (s : State) (fs : List Nat) : s.Spares (s.retireFrames fs) :=
  (State.Keeps.refl.foldl fun _ _ h => h.requestRetire).rest rfl

theorem State.losePools_spares (s : State) (ps : List Nat) : s.Spares (s.losePools ps) := State.Keeps.refl.losePools.rest rfl

/-- A stack that joins the retired ones, with pools that are lost. -/
theorem State.retireStack_spares (u : State) (k : Nat) (ps : List Nat) : ((u.retireStack k).losePools ps).cpl = u.cpl ∧
    ((u.retireStack k).losePools ps).cutOff = u.cutOff ∧ k ∈ ((u.retireStack k).losePools ps).scrub.retired ∧
    ∀ e, u.severeWaits e → ((u.retireStack k).losePools ps).severeWaits e := by
  obtain ⟨b1, b2, b3, b4⟩ := (u.retireStack k).losePools_spares ps
  refine ⟨b1, b2, ?_, b4⟩
  rw [b3]
  exact List.mem_append_right _ (.head _)

/-- The loss of a stack adds it to the retired ones, and else spares what the loss of its pools spares. -/
theorem State.loseStack_spares (s : State) (k : Nat) : (s.loseStack k).cpl = s.cpl ∧ (s.loseStack k).cutOff = s.cutOff ∧
    k ∈ (s.loseStack k).scrub.retired ∧ ∀ e, s.severeWaits e → (s.loseStack k).severeWaits e := by
  rw [State.loseStack_eq]
  obtain ⟨a1, a2, -, a4⟩ := s.retireFrames_spares (upFrom (12288 * k) 12288)
  obtain ⟨b1, b2, b3, b4⟩ := (s.retireFrames (upFrom (12288 * k) 12288)).retireStack_spares k (s.poolsOf k)
  exact ⟨b1.trans a1, b2.trans a2, b3, fun e he => b4 e (a4 e he)⟩

/-- The cores, gangs and SRAM of a die that is cut off are lost. -/
def State.dropDie (s : State) (d : Nat) : State :=
  (((s.dropCores d).faultGangs d).countCores.evalWanted 4).clearKeys (kSram (4 * d) 0) (kSram (4 * d + 4) 0)

theorem State.dropDie_spares (s : State) (d : Nat) : s.Spares (s.dropDie d) :=
  State.Keeps.refl.dropCores.faultGangs.countCores.evalWanted.clearKeys.rest rfl

theorem State.evalWanted_spares (s : State) (n : Nat) : s.Spares (s.evalWanted n) := ⟨rfl, rfl, rfl, fun _ => id⟩

theorem State.loseDie_eq (s : State) (d : Nat) : s.loseDie d =
    let n := if d = 0 then 2 else 0
    let u := s.raise (cplSrc n) (cplCode n 0x3283) []
    ((({ u with cutOff := u.cutOff ++ [d] } : State).dropDie d).loseStack (2 * d)).loseStack (2 * d + 1) |>.evalWanted 4 := rfl

theorem State.loseDie_spares (s : State) (d : Nat) : (s.loseDie d).cpl = s.cpl ∧ (s.loseDie d).cutOff = s.cutOff ++ [d] ∧
    ∀ e, s.severeWaits e → (s.loseDie d).severeWaits e := by
  rw [State.loseDie_eq]
  dsimp only
  have hr : s.Spares (s.raise (cplSrc (if d = 0 then 2 else 0)) (cplCode (if d = 0 then 2 else 0) 0x3283) []) :=
    State.Keeps.refl.raise.rest rfl
  generalize s.raise (cplSrc (if d = 0 then 2 else 0)) (cplCode (if d = 0 then 2 else 0) 0x3283) [] = u at hr
  obtain ⟨v, hv⟩ : ∃ v, v = ({ u with cutOff := u.cutOff ++ [d] } : State) := ⟨_, rfl⟩
  rw [← hv]
  have hcpl : v.cpl = s.cpl := by rw [hv, ← hr.cpl]
  have hcut : v.cutOff = s.cutOff ++ [d] := by rw [hv, ← hr.cutOff]
  have hsev : ∀ e, s.severeWaits e → v.severeWaits e := by rw [hv]; exact hr.severe
  obtain ⟨b1, b2, -, b4⟩ := v.dropDie_spares d
  obtain ⟨c1, c2, -, c4⟩ := (v.dropDie d).loseStack_spares (2 * d)
  generalize (v.dropDie d).loseStack (2 * d) = w at c1 c2 c4
  obtain ⟨d1, d2, -, d4⟩ := w.loseStack_spares (2 * d + 1)
  generalize w.loseStack (2 * d + 1) = x at d1 d2 d4
  obtain ⟨e1, e2, -, e4⟩ := x.evalWanted_spares 4
  exact ⟨e1.trans (d1.trans (c1.trans (b1.trans hcpl))), e2.trans (d2.trans (c2.trans (b2.trans hcut))),
    fun e he => e4 e (d4 e (c4 e (b4 e (hsev e he))))⟩

/-- The dies that are lost one after another. -/
theorem State.loseDies_spares (l : List Nat) (s : State) : (l.foldl State.loseDie s).cpl = s.cpl ∧
    (∀ d, d ∈ s.cutOff ∨ d ∈ l → d ∈ (l.foldl State.loseDie s).cutOff) ∧
    ∀ e, s.severeWaits e → (l.foldl State.loseDie s).severeWaits e := by
  induction l generalizing s with
  | nil => exact ⟨rfl, fun d hd => hd.resolve_right (List.not_mem_nil), fun _ => id⟩
  | cons k l ih =>
    obtain ⟨h1, h2, h3⟩ := s.loseDie_spares k
    rw [List.foldl_cons]
    obtain ⟨i1, i2, i3⟩ := ih (s.loseDie k)
    generalize s.loseDie k = u at h1 h2 h3 i1 i2 i3 ⊢
    refine ⟨i1.trans h1, fun d hd => i2 d ?_, fun e he => i3 e (h3 e he)⟩
    rw [h2]
    obtain hd | hd := hd
    · exact .inl (List.mem_append_left _ hd)
    · obtain rfl | hd := List.mem_cons.mp hd
      · exact .inl (List.mem_append_right _ (.head _))
      · exact .inr hd

/-! ### Lanes and bundles (16 R548 to R550) -/

theorem cplA_ne (m n : Nat) {a b : Nat} (ha : a < 0x1000) (hb : b < 0x1000) (h : a ≠ b) : cplA m a ≠ cplA n b := by
  unfold cplA ro
  omega

/-- Showing a link writes STAT, SPARES_USED and BW_PCT of its ends (16 R554). -/
theorem State.showEnd_rest (s : State) (m : Nat) : (s.showEnd m).cpl = s.cpl ∧ (s.showEnd m).mem = s.mem ∧ (s.showEnd m).gts = s.gts ∧
    ∀ n, (s.showEnd m).rd (cplA n 0x48) = s.rd (cplA n 0x48) := by
  refine ⟨rfl, rfl, rfl, fun n => ?_⟩
  unfold State.showEnd
  dsimp only
  rw [State.rd_setFld_other _ _ _ _ (cplA_ne m n (by decide) (by decide) (by decide)),
    State.rd_setFld_other _ _ _ _ (cplA_ne m n (by decide) (by decide) (by decide)),
    State.rd_setFld_other _ _ _ _ (cplA_ne m n (by decide) (by decide) (by decide)),
    State.rd_setFld_other _ _ _ _ (cplA_ne m n (by decide) (by decide) (by decide)),
    State.rd_setFld_other _ _ _ _ (cplA_ne m n (by decide) (by decide) (by decide))]

theorem State.showLink_rest (s : State) (link : Nat) : (s.showLink link).cpl = s.cpl ∧ (s.showLink link).mem = s.mem ∧
    (s.showLink link).gts = s.gts ∧ ∀ n, (s.showLink link).rd (cplA n 0x48) = s.rd (cplA n 0x48) :=
  ⟨foldl_kept State.cpl _ (fun u m => (u.showEnd_rest m).1) _ _, foldl_kept State.mem _ (fun u m => (u.showEnd_rest m).2.1) _ _,
    foldl_kept State.gts _ (fun u m => (u.showEnd_rest m).2.2.1) _ _,
    fun n => foldl_kept (fun u : State => u.rd (cplA n 0x48)) _ (fun u m => (u.showEnd_rest m).2.2.2 n) _ _⟩

theorem State.resend_rest (s : State) (m : Nat) : (s.resend m).cpl = s.cpl ∧ (s.resend m).mem = s.mem ∧ (s.resend m).gts = s.gts ∧
    ∀ n, (s.resend m).rd (cplA n 0x48) = s.rd (cplA n 0x48) :=
  ⟨rfl, rfl, rfl, fun n => State.rd_setFld_other s.newFree.2 _ _ _ (cplA_ne m n (by decide) (by decide) (by decide))⟩

theorem State.fld_word (s : State) (a : Nat) : s.fld a 0 32 = (s.rd a).toNat := by
  unfold State.fld bitsOf
  rw [pow_zero, Nat.div_one]
  exact Nat.mod_eq_of_lt (s.rd a).isLt

/-- A word counts up to its largest value. -/
theorem State.addSat_word (s : State) (a n : Nat) : ((s.addSat a 0 32 n).rd a).toNat = min ((s.rd a).toNat + n) (2 ^ 32 - 1) := by
  rw [← State.fld_word, ← State.fld_word, State.addSat, State.fld_setFld _ _ _ _ _ (by decide)]
  exact Nat.mod_eq_of_lt (by omega)

theorem State.bundlesUp_congr {t : State} (h : t.cpl = s.cpl) (link dir : Nat) : t.bundlesUp link dir = s.bundlesUp link dir := by
  unfold State.bundlesUp
  rw [h]

/-- A lane that joins the failed ones of a bundle with a spare. -/
theorem cplLaneRepaired_completes {n : Fin 4} {rx : Bool} {b : Fin 50} {lane : Fin 22} (hb : b.val < cplBundles n)
    (hf : cplLink n ∉ s.cpl.failed) (ho : (cplLink n, cplDir n rx, b.val) ∉ s.cpl.out)
    (hl : (cplLink n, cplDir n rx, b.val, lane.val) ∉ s.cpl.lanes) (h2 : s.lanesOut (cplLink n) (cplDir n rx) b < 2) :
    completes (.cplLaneRepaired n rx b lane) s (fun t =>
      t.cpl = { s.cpl with lanes := s.cpl.lanes ++ [(cplLink n, cplDir n rx, b.val, lane.val)] } ∧ t.mem = s.mem ∧
      (t.rd (cplA n 0x48)).toNat = min ((s.rd (cplA n 0x48)).toNat + 1) (2 ^ 32 - 1) ∧
      t.logged s.gts (cplSrc n) (cplCode n 0x1280) [.w b, .w lane] 0xFF 0xFF) := by
  obtain ⟨w, hw⟩ : ∃ w, w = ({ s with cpl := { s.cpl with lanes := s.cpl.lanes ++ [(cplLink n, cplDir n rx, b.val, lane.val)] } } :
    State) := ⟨_, rfl⟩
  have hx : exec (.cplLaneRepaired n rx b lane) s = .next
      ((((w.showLink (cplLink n)).addSat (cplA n 0x48) 0 32 1).resend n).raise (cplSrc n) (cplCode n 0x1280) [.w b, .w lane]) := by
    rw [hw]
    exact if_neg (by simp [hf, ho, hl]; omega)
  obtain ⟨a1, a2, a3, a4⟩ := w.showLink_rest (cplLink n)
  obtain ⟨b1, b2, b3, b4⟩ := ((w.showLink (cplLink n)).addSat (cplA n 0x48) 0 32 1).resend_rest n
  have hrd : w.rd (cplA n 0x48) = s.rd (cplA n 0x48) := by rw [hw]; rfl
  refine completes_next hx ⟨?_, ?_, ?_, ?_⟩
  · rw [State.raise_cpl, b1]
    exact a1.trans (by rw [hw])
  · rw [State.raise_mem, b2]
    exact a2.trans (by rw [hw])
  · have h1 : ro .evr 0 0x60 ≠ cplA n 0x48 ∧ ro .evr 0 0x58 ≠ cplA n 0x48 := by
      constructor <;> (unfold cplA ro; omega)
    rw [State.raise_rd _ _ _ _ _ _ h1.1.symm h1.2.symm, b4, State.addSat_word, a4, hrd]
  · have hg : (((w.showLink (cplLink n)).addSat (cplA n 0x48) 0 32 1).resend n).gts = s.gts := b3.trans (a3.trans (by rw [hw]))
    rw [← hg]
    exact State.raise_logged _ _ _ _ _ _

/-- A third lane takes its bundle out. -/
theorem cplDegraded_completes {n : Fin 4} {rx : Bool} {b : Fin 50} (hb : b.val < cplBundles n) (hf : cplLink n ∉ s.cpl.failed)
    (ho : (cplLink n, cplDir n rx, b.val) ∉ s.cpl.out) (h2 : 2 ≤ s.lanesOut (cplLink n) (cplDir n rx) b) :
    completes (.cplDegraded n rx b) s (fun t =>
      t.cpl = { s.cpl with out := s.cpl.out ++ [(cplLink n, cplDir n rx, b.val)] } ∧ t.mem = s.mem ∧
      t.bundlesUp (cplLink n) (cplDir n rx) = s.bundlesUp (cplLink n) (cplDir n rx) - 1 ∧
      t.logged s.gts (cplSrc n) (cplCode n 0x2281) [.w (t.bundlesUp (cplLink n) (cplDir n rx))] 0xFF 0xFF) := by
  obtain ⟨w, hw⟩ : ∃ w, w = ({ s with cpl := { s.cpl with out := s.cpl.out ++ [(cplLink n, cplDir n rx, b.val)] } } : State) :=
    ⟨_, rfl⟩
  obtain ⟨a1, a2, a3, -⟩ := w.showLink_rest (cplLink n)
  obtain ⟨b1, b2, b3, -⟩ := (w.showLink (cplLink n)).resend_rest n
  have hx : exec (.cplDegraded n rx b) s = .next (((w.showLink (cplLink n)).resend n).raise (cplSrc n) (cplCode n 0x2281)
      [.w (((w.showLink (cplLink n)).resend n).bundlesUp (cplLink n) (cplDir n rx))]) := by
    rw [hw]
    exact if_neg (by simp [hf, ho]; omega)
  generalize (w.showLink (cplLink n)).resend n = v at b1 b2 b3 hx
  have hcpl : v.cpl = { s.cpl with out := s.cpl.out ++ [(cplLink n, cplDir n rx, b.val)] } := b1.trans (a1.trans (by rw [hw]))
  refine completes_next hx ⟨?_, ?_, ?_, ?_⟩
  · rw [State.raise_cpl, hcpl]
  · rw [State.raise_mem, b2, a2, hw]
  · rw [State.bundlesUp_congr (v.raise_cpl _ _ _ _ _)]
    unfold State.bundlesUp
    rw [hcpl, List.filter_append, List.length_append]
    simp only [List.filter_cons, beq_self_eq_true, Bool.and_self, if_true, List.filter_nil, List.length_cons, List.length_nil]
    omega
  · have hg : v.gts = s.gts := b3.trans (a3.trans (by rw [hw]))
    rw [State.bundlesUp_congr (v.raise_cpl _ _ _ _ _), ← hg]
    exact State.raise_logged _ _ _ _ _ _

theorem cpl_severe (n : Fin 4) : (BitVec.ofNat 16 (cplSrc n)).toNat / 0x1000 ≠ 0 ∧
    3 ≤ evClass (BitVec.ofNat 16 (cplCode n 0x3282)).toNat := by
  fin_cases n <;> decide

theorem hbm_severe (k : Fin 4) : (BitVec.ofNat 16 (hbmSrc k)).toNat / 0x1000 ≠ 0 ∧
    3 ≤ evClass (BitVec.ofNat 16 (hbmCode k 0x3292)).toNat := by
  fin_cases k <;> decide

/-- A link that fails, and the dies that it cuts off. -/
theorem cplFailed_completes {n : Fin 4} {retried : Bool} (hf : cplLink n ∉ s.cpl.failed)
    (hr : retried = true ∨ s.bundlesUp (cplLink n) 0 = 0 ∨ s.bundlesUp (cplLink n) 1 = 0) :
    completes (.cplFailed n retried) s (fun t => t.cpl.failed = s.cpl.failed ++ [cplLink n] ∧
      (∀ d < 2, 0 ∈ t.cpl.failed → d + 1 ∈ t.cpl.failed → d ∈ t.cutOff) ∧
      t.logged s.gts (cplSrc n) (cplCode n 0x3282) [] 0xFF 0xFF) := by
  obtain ⟨w, hw⟩ : ∃ w, w = ({ s with cpl := { s.cpl with failed := s.cpl.failed ++ [cplLink n] } } : State) := ⟨_, rfl⟩
  have hx : exec (.cplFailed n retried) s = .next (let u := ((w.showLink (cplLink n)).resend n).raise (cplSrc n) (cplCode n 0x3282) []
      u.looseDies.foldl State.loseDie u) := by
    rw [hw]
    refine if_neg ?_
    simp only [List.contains_iff_mem, hf, false_or, not_not]
    exact hr
  obtain ⟨a1, -, a3, -⟩ := w.showLink_rest (cplLink n)
  obtain ⟨b1, -, b3, -⟩ := (w.showLink (cplLink n)).resend_rest n
  generalize (w.showLink (cplLink n)).resend n = v at b1 b3 hx
  obtain ⟨e, he, hwait⟩ := v.raise_waits [] (cpl_severe n).1 (cpl_severe n).2
  have hcpl : (v.raise (cplSrc n) (cplCode n 0x3282) []).cpl = w.cpl := (v.raise_cpl _ _ _ _ _).trans (b1.trans a1)
  have hg : v.gts = s.gts := b3.trans (a3.trans (by rw [hw]))
  generalize v.raise (cplSrc n) (cplCode n 0x3282) [] = u at hwait hcpl hx
  obtain ⟨c1, c2, c3⟩ := State.loseDies_spares u.looseDies u
  refine completes_next hx ⟨?_, fun d hd h0 h1 => c2 d ?_, ?_⟩
  · dsimp only
    rw [c1, hcpl, hw]
  · dsimp only at h0 h1
    rw [c1] at h0 h1
    by_cases hin : d ∈ u.cutOff
    · exact .inl hin
    · refine .inr (List.mem_filter.mpr ⟨?_, by simp [h0, h1, hin]⟩)
      simp only [List.mem_cons, List.not_mem_nil, or_false]
      omega
  · exact State.logged_of_waits (c3 e hwait) (hg ▸ he)

/-! ### The scrub (18 R605) -/

theorem State.YardOnly.tables (h : z.YardOnly s) : s.mem = z.mem ∧ s.poison = z.poison := by
  obtain ⟨r, y, g, e, i, p, b, rfl⟩ := h
  exact ⟨rfl, rfl⟩

theorem State.YardOnly.markFrames (h : z.YardOnly s) (p : Nat) : z.YardOnly (s.markFrames p) := by
  unfold State.markFrames State.markFrame
  exact ((State.YardOnly.foldl (fun _ _ h1 => .foldl (fun _ _ h2 => h2.putKv _ _ _) _ h1) _ h).countPool _).settleFrames _

/-- A request to retire a frame moves no byte. -/
theorem State.YardOnly.requestRetire (h : z.YardOnly s) (f : Nat) : z.YardOnly (s.requestRetire f) := by
  unfold State.requestRetire
  split
  · exact h
  · dsimp only
    split
    · exact h
    · exact h.retireFrame _ _
    · exact h.withYard _
    · exact .ite ((h.withYard _).markFrames _) (h.withYard _)

theorem State.askRetire_tables (s : State) (f : Nat) : (s.askRetire f).mem = s.mem ∧ (s.askRetire f).poison = s.poison :=
  (State.YardOnly.refl.requestRetire f).tables

theorem State.eccEvent_tables (s : State) (l : Nat) (bad : Bool) : (s.eccEvent l bad).mem = s.mem ∧ (s.eccEvent l bad).poison = s.poison := by
  unfold State.eccEvent
  dsimp only
  split
  · split <;> exact ⟨State.raise_mem _ _ _ _ _ _, State.raise_poison _ _ _ _ _ _⟩
  · split <;> exact ⟨State.raise_mem _ _ _ _ _ _, State.raise_poison _ _ _ _ _ _⟩

theorem State.findError_corrected (s : State) (l : Nat) : (s.findError l false).mem = s.mem ∧ (s.findError l false).poison = s.poison :=
  State.eccEvent_tables _ _ _

/-- An error that cannot be corrected poisons its line. -/
theorem State.findError_bad (s : State) (l : Nat) : (s.findError l true).mem = s.mem ∧ l ∈ (s.findError l true).poison := by
  obtain ⟨h1, h2⟩ := State.eccEvent_tables (({ s with latent := s.latent.del l } : State).poisonLines [l]) l true
  refine ⟨h1, ?_⟩
  show l ∈ ((({ s with latent := s.latent.del l } : State).poisonLines [l]).eccEvent l true).poison
  rw [h2]
  exact mem_setInsert.mpr (.inl rfl)

/-- The corrected errors of a frame, with one more now. -/
def State.noteCorrected (s : State) (f : Nat) (day : List Nat) : State :=
  { s with scrub := { s.scrub with corrected := s.scrub.corrected.put f (s.gts :: day) } }

theorem exec_hbmScrubLine {line : Fin 1610612736} (hr : line.val / 32768 / 12288 ∉ s.scrub.retired) (hl : s.latent = [])
    (err : Option Bool) : exec (.hbmScrubLine line err) s = match err with
      | none => .next s
      | some true => .next ((s.findError line true).askRetire (line.val / 32768))
      | some false =>
        let u := s.findError line false
        let day := (u.scrub.corrected.look [] (line.val / 32768)).filter fun t => decide (u.gts < t + 86400000000000)
        .next (if 64 ≤ day.length + 1 then (u.noteCorrected (line.val / 32768) day).askRetire (line.val / 32768)
          else u.noteCorrected (line.val / 32768) day) := by
  show execHbmScrubLine line err s = _
  unfold execHbmScrubLine
  dsimp only
  rw [if_neg (by simpa using hr), State.touch_of_latent hl]
  cases err with
  | none => rfl
  | some bad => cases bad <;> rfl

theorem hbmScrubLine_corrected {line : Fin 1610612736} (hr : line.val / 32768 / 12288 ∉ s.scrub.retired) (hl : s.latent = []) :
    completes (.hbmScrubLine line (some false)) s (fun t => t.mem = s.mem ∧ t.poison = s.poison) := by
  refine completes_next (exec_hbmScrubLine hr hl (some false)) ?_
  have h := s.findError_corrected line
  generalize s.findError line false = u at h
  split
  · obtain ⟨h1, h2⟩ := (u.noteCorrected (line.val / 32768) ((u.scrub.corrected.look [] (line.val / 32768)).filter fun t =>
      decide (u.gts < t + 86400000000000))).askRetire_tables (line.val / 32768)
    exact ⟨h1.trans h.1, h2.trans h.2⟩
  · exact h

/-- Settles O56. -/
theorem couplingsAndStacks : Obligations.CouplingsAndStacks := by
  refine ⟨?_, ?_, fun line s hr hl => ⟨exec_hbmScrubLine hr hl none, hbmScrubLine_corrected hr hl, ?_⟩, fun k s hr => ?_, fun s h => if_pos h⟩
  · intro n rx b s link dir hb hf ho
    exact ⟨fun lane hl h2 => cplLaneRepaired_completes hb hf ho hl h2, fun h2 => cplDegraded_completes hb hf ho h2⟩
  · intro n retried s link hf hr
    exact cplFailed_completes hf hr
  · obtain ⟨h1, h2⟩ := s.findError_bad line
    obtain ⟨k1, k2⟩ := (s.findError line true).askRetire_tables (line.val / 32768)
    exact completes_next (exec_hbmScrubLine hr hl (some true)) ⟨k2 ▸ h2, k1.trans h1⟩
  · have hx : exec (.hbmStackFailed k true) s = .next ((s.raise (hbmSrc k) (hbmCode k 0x3292) [.w k]).loseStack k) :=
      if_neg (by simp [hr])
    obtain ⟨e, he, hw⟩ := s.raise_waits [.w k] (hbm_severe k).1 (hbm_severe k).2
    obtain ⟨-, -, h3, h4⟩ := (s.raise (hbmSrc k) (hbmCode k 0x3292) [.w k]).loseStack_spares k
    exact completes_next hx ⟨h3, State.logged_of_waits (h4 e hw) he⟩

end

end Sys2Proof.Machine
end
